-- ==== Sys2Proof/Word.lean ====
section
/-!
DEFINITION. The word types of the AVM-960 and the two table types the state is built from.
A register line is the 256 bytes of one vector register, 64 lanes of 32 bits, lane i at bits
[32i + 31 : 32i] (R4, R26).
-/
namespace Sys2Proof

abbrev Byte := BitVec 8
abbrev Word32 := BitVec 32
abbrev Word64 := BitVec 64
/-- A 64-bit lane mask; lane i is bit i (R4). -/
abbrev Mask := BitVec 64
/-- One 256-byte register line (R26). -/
abbrev Line := BitVec 2048

/-- A table with a default: entries by strictly rising key, none equal to the default
(`Tab.get`, `Tab.set` in Machine/Tab.lean keep that form). -/
abbrev Tab (α : Type) := List (Nat × α)

/-- A table without a default: entries by strictly rising key. -/
abbrev Dict (α : Type) := List (Nat × α)

end Sys2Proof
end

