-- ==== Sys2Proof/Syntax.lean ====
section
/-!
DEFINITION. The instructions and device steps of the AVM-960: one constructor for each row of
spec/opcode_table.json. The first part are the words of AIS-3 (R60 to R67, R77 to R83), the second
part the steps of the device and of what stands outside it (spec/95), with the data each brings.
-/
namespace Sys2Proof

/-- FORM, the kind of each register operand (R60). -/
inductive Form where
  | f00 | f01 | f10 | f11
  deriving DecidableEq, Repr

/-- CLASS of a clause header (R49). -/
inductive Class where
  | alu | mem | field | async | sys | matrix
  deriving DecidableEq, Repr

/-- Format R (R62). -/
structure RFields where
  form : Form
  neg  : Bool
  pred : BitVec 3
  mod  : BitVec 3
  dst  : BitVec 11
  a    : BitVec 11
  b    : BitVec 11
  c    : BitVec 11
  ty   : BitVec 4
  deriving DecidableEq, Repr

/-- Format I: R with a signed 22-bit immediate in place of B and C (R62). -/
structure IFields where
  form : Form
  neg  : Bool
  pred : BitVec 3
  mod  : BitVec 3
  dst  : BitVec 11
  a    : BitVec 11
  imm  : BitVec 22
  ty   : BitVec 4
  deriving DecidableEq, Repr

/-- An ALU instruction in its register or its immediate form (R77). -/
inductive Alu where
  | reg (r : RFields)
  | imm (i : IFields)
  deriving DecidableEq, Repr

/-- Format W (R62). -/
structure WFields where
  form : Form
  neg  : Bool
  pred : BitVec 3
  dst  : BitVec 11
  imm  : BitVec 32
  hi   : Bool
  ty   : BitVec 4
  deriving DecidableEq, Repr

/-- Format M (R63). -/
structure MFields where
  form  : Form
  neg   : Bool
  pred  : BitVec 3
  order : BitVec 3
  data  : BitVec 11
  addr  : BitVec 11
  sbase : BitVec 8
  fsel  : Bool
  off   : BitVec 11
  size  : BitVec 3
  scope : BitVec 3
  deriving DecidableEq, Repr

/-- Format B (R64). -/
structure BFields where
  form : Form
  neg  : Bool
  pred : BitVec 3
  kind : BitVec 3
  toff : BitVec 24
  joff : BitVec 24
  deriving DecidableEq, Repr

/-- Format X (R64). -/
structure XFields where
  form : Form
  neg  : Bool
  pred : BitVec 3
  treg : BitVec 11
  tag  : BitVec 8
  joff : BitVec 24
  deriving DecidableEq, Repr

/-- Format F (R65). -/
structure FFields where
  form   : Form
  neg    : Bool
  pred   : BitVec 3
  mod    : BitVec 3
  fromR  : BitVec 11
  toR    : BitVec 11
  amt    : BitVec 11
  handle : BitVec 8
  ty     : BitVec 4
  deriving DecidableEq, Repr

/-- Format Q (R66); SUB is part of the constructor. -/
structure QFields where
  form : Form
  neg  : Bool
  pred : BitVec 3
  sa   : BitVec 8
  sb   : BitVec 8
  obj  : BitVec 11
  imm  : BitVec 12
  fsel : Bool
  deriving DecidableEq, Repr

/-- Format MX (R67). -/
structure MXFields where
  mod : BitVec 3
  acc : Bool
  ta  : BitVec 4
  tb  : BitVec 4
  num : BitVec 11
  imm : BitVec 20
  deriving DecidableEq, Repr

/-- The atomic operations a = 0 to 6 (R78). -/
inductive AtomicOp where
  | add | and | or | xor | min | max | swap
  deriving DecidableEq, Repr

/-- A flit as received on a data port, its CRC good (R375). -/
structure Flit where
  seq     : BitVec 12
  ack     : BitVec 12
  ch      : BitVec 3
  cred    : BitVec 6
  ks      : Bool
  kind    : BitVec 4
  drp     : Bool
  tag     : BitVec 10
  auth    : BitVec 32
  payload : BitVec 512
  orig    : Option (Nat × Nat) := none   -- the down port and the TAG there that the payload names beside its data (R383)
  deriving DecidableEq, Repr

/-- A unit of the Meridian (R367). -/
structure Unit64 where
  frame : BitVec 48
  index : Nat
  src   : BitVec 6
  dst   : BitVec 6
  bc    : Bool
  typ   : BitVec 8
  tag   : BitVec 32
  body  : BitVec 416
  good  : Bool        -- CRC, TYPE and reserved bytes as R367 asks
  deriving DecidableEq, Repr

/-- A reservation record as received (R368). -/
structure ResRecord where
  agent   : Nat
  req     : Nat
  deg     : BitVec 4
  lode    : Bool
  repairs : List (BitVec 22 × Nat)
  deriving DecidableEq, Repr

/-- A request of the host to device memory (R395, R396). -/
inductive HostReq where
  | read  (len : Nat)
  | write (bytes : List Byte)
  | cas   (size : Nat) (compare new : BitVec 128)
  | share             -- a line granted shared to the host
  | own               -- a line granted owned to the host
  deriving DecidableEq, Repr

/-- A CXL.cache snoop of the host (R392). -/
inductive SnoopKind where
  | data | invalidate
  deriving DecidableEq, Repr

/-- A failed self-test: TEST, INDEX and DETAIL of the record of R402. -/
structure TestFailure where
  test   : BitVec 8
  index  : BitVec 16
  detail : BitVec 64
  deriving DecidableEq, Repr

/-- Whose request it is that the host answers with an error completion (R394). -/
inductive HostErr where
  | op    (gid op len : Nat)      -- an operation of a group: the request's length, within 64 bytes
  | copy  (core rec : Nat)        -- the next piece of a copy record
  | pfb   (core rec : Nat)        -- the next frame of a prefetch
  | other (ctx : Nat)             -- a clause fetch, a table walk, a stash fill or the dispatcher
  deriving DecidableEq, Repr

/-- A firmware image with the signature over its digest (R403). -/
structure Firmware where
  image     : List Byte
  signature : List Byte
  deriving DecidableEq, Repr

/-- What an uncorrectable soft error struck (R409). -/
inductive ErrorOwner where
  | context (ctx : Nat)           -- state of a context
  | access  (gid op : Nat)        -- data of an access that has not been performed
  | line    (ctx site pa : Nat)   -- a cached line with data of a context
  | counter (ctx dom : Nat)       -- a field counter of a domain of the context
  | noContext (detail : BitVec 64)
  deriving DecidableEq, Repr

/-- The instructions and steps, one constructor for each row of the table. -/
inductive Instr where
  -- class 0: integer, predicate and move instructions (R177 to R188)
  | iadd (o : Alu) | isub (o : Alu) | imul (o : Alu)
  | imulh (r : RFields) | imad (r : RFields)
  | iadds (o : Alu) | iand (o : Alu) | ior (o : Alu) | ixor (o : Alu)
  | ishl (o : Alu) | ishr (o : Alu) | imin (o : Alu) | imax (o : Alu) | icmp (o : Alu)
  | isel (r : RFields) | mov (r : RFields) | movi (w : WFields)
  | ibfe (o : Alu) | ibfi (r : RFields) | iclz (r : RFields) | ipopc (r : RFields)
  | plop (r : RFields) | pmov (r : RFields) | pcnt (r : RFields)
  -- floating point (R194 to R199)
  | fadd (r : RFields) | fsub (r : RFields) | fmul (r : RFields) | ffma (r : RFields)
  | fmin (r : RFields) | fmax (r : RFields) | fcmp (r : RFields) | fclass (r : RFields)
  | frcp (r : RFields) | frsq (r : RFields) | fsqrt (r : RFields) | fexp2 (r : RFields)
  | flog2 (r : RFields) | fsin (r : RFields) | fcos (r : RFields)
  -- conversions (R200 to R202) and cross-lane (R204 to R208)
  | cvt (r : RFields) | cvtfx (r : RFields) | cvtxf (r : RFields)
  | pack (r : RFields) | unpack (r : RFields)
  | shfl (r : RFields) | vred (r : RFields) | vscan (r : RFields) | vbal (r : RFields)
  | vbcast (r : RFields) | vmatch (r : RFields)
  -- control block (R82)
  | yield
  | bra (b : BFields) | call (b : BFields) | brx (x : XFields) | callx (x : XFields)
  | ret (x : XFields) | lpad (x : XFields) | exit (b : BFields) | nop
  -- class 1 (R78)
  | ld (m : MFields) | st (m : MFields) | cas (m : MFields) | cas128 (m : MFields)
  | fence (m : MFields) | acqr (m : MFields) | stmap (m : MFields) | stunmap (m : MFields)
  | stwb (m : MFields) | pfl (m : MFields) | atom (op : AtomicOp) (m : MFields)
  | atomt (op : AtomicOp) (m : MFields)
  -- class 2 (R79)
  | txf (f : FFields) | ftot (q : QFields) | ffence (q : QFields) | fstat (q : QFields)
  | fdef (q : QFields) | fdefDrop (q : QFields) | fbnd (q : QFields)
  -- class 3 (R80)
  | bara (q : QFields) | baraInit (q : QFields) | barw (q : QFields) | barx (q : QFields)
  | tbar (q : QFields) | tbarArr (q : QFields) | tbarWait (q : QFields)
  | kick (q : QFields) | cpwait (q : QFields) | yieldc (q : QFields) | pfb (q : QFields)
  | enq (q : QFields) | deq (q : QFields) | launch (q : QFields) | launchPerLane (q : QFields)
  -- class 4 (R81)
  | setfmt (w : WFields) | setmode (w : WFields) | srd (r : RFields) | swr (r : RFields)
  | csrr (q : QFields) | csrw (q : QFields) | trap (q : QFields)
  | rte (q : QFields) | rteSkip (q : QFields)
  | mappgFt (q : QFields) | mappgRep (q : QFields) | mappgCol (q : QFields)
  | fqpost (q : QFields) | park (q : QFields) | invlpPg (q : QFields) | invlpCtx (q : QFields)
  | qdig (q : QFields) | qend (q : QFields)
  -- class 5 (R83)
  | mma (x : MXFields) | mzero (x : MXFields) | mstc (x : MXFields) | mwait (x : MXFields)
  | marr (x : MXFields) | mloop (x : MXFields) | mbr (x : MXFields) | mend (x : MXFields)
  | msetf (x : MXFields)
  -- steps of the issue engine and of the groups (06, 07, 08); `gid` is the group's handle
  | clauseFetch (gid slot : Nat)
  | clauseStart (part : Nat)
  | resultWrite (gid : Nat)
  | registerFill (part gid line : Nat)
  | variableResultArrival (gid op lane : Nat)
  | storeComplete (gid op : Nat)
  | transferResolve (gid slot : Nat)
  | predictionRepair (gid : Nat)
  | spillPop (gid : Nat)
  | yieldBarLift (gid : Nat)
  | trapEntry (gid : Nat)
  | preemptionRequest (team : Nat)
  | preemptionBound (gid : Nat)
  | quiescence (team : Nat)
  | teamRestore (team cluster : Nat)
  | groupRetire (gid : Nat)
  | teamRetire (team : Nat)
  -- dispatch engine (22, 23)
  | digestChain (queue : Nat)
  | dispatchHead
  | rangeSteal (grid cluster : Nat)
  | teamPlacement (cluster : Nat)
  | concurrentPlacement (queue : Nat) (clusters : List Nat)
  | preemptDecision (cluster : Nat)
  -- completions (14, 21, 22, 13)
  | barrierWaitComplete (core bar : Nat)
  | teamBarrierPhaseEnd (team tb : Nat)
  | cpwaitComplete (gid op : Nat)
  | yieldcReactivate (gid slot : Nat)
  | deqWaiterComplete (queue : Nat)
  | enqRoomComplete (queue : Nat)
  | fqpostComplete (ctx : Nat)
  | groupResume (ctx : Nat)
  | stashFill (team slot piece : Nat)
  | stashLazyWriteback (team slot piece : Nat)
  | recordAccept (core : Nat)
  | pieceCountdown (core rec : Nat)
  | pfbFrameArrive (core rec : Nat)
  -- field engine (17)
  | txfPairApply (pair : Nat)
  | txfReturn (ret : Nat)
  | txfComplete (gid op : Nat)
  -- matrix engine (19)
  | streamClauseFetch (team unit : Nat)
  | matrixStreamTrap (team unit : Nat)
  | matrixTrapDelivery (gid : Nat)
  -- determinism (23) and termination (26)
  | quantumCommit (grid : Nat)
  | contextTermination (ctx : Nat)
  -- host writes (22, 26)
  | enqueuePortWrite (queue : Nat) (bytes : List Byte)
  | fqdb (ctx : Nat) (value : Word64)
  | hostInvalidation (value : Word64)
  | pctx (value : Word64)
  | contextValidWrite (ctx : Nat) (value : Byte)
  | queueEnable (queue : Nat) (value : Word64)
  | queueDisable (queue : Nat) (value : Word64)
  | meridianEnable
  | registerWrite (offset : Nat) (value : Word64)
  -- management mailbox (28)
  | mailboxSelfTest | mailboxPublicKey | mailboxSignChain
  | mailboxInstallKey (inSession : Bool)
  | mailboxPowerLimit | mailboxErrorCounts | mailboxPowerState | mailboxBadCommand
  -- the host link (26)
  | linkTraining (syscap : Word64)
  | hostMemRequest (offset : Nat) (req : HostReq)
  | backInvalidationResponse (line : Nat) (dirty : Option (List Byte))
  | hostSnoop (line : Nat) (kind : SnoopKind)
  | atomicopCompletion (gid op : Nat)
  | hostErrorCompletion (err : HostErr) (pa : Nat)
  -- the fabric (24)
  | meridianFrame
  | reservationRecord (rec : Option ResRecord) (agent : Nat)
  | meridianUnit (unit : Unit64)
  | idleFlit (port : Nat) (f : Flit)
  | requestFlit (port : Nat) (f : Flit)
  | readDataFlit (port : Nat) (f : Flit)
  | writeDataFlit (port : Nat) (f : Flit)
  | completionFlit (port : Nat) (f : Flit)
  | keyRetire (port : Nat) (f : Flit)
  | replayRequest (port : Nat) (f : Flit)
  | dropNotice (port : Nat) (f : Flit)
  | reservationRequest (port : Nat) (f : Flit)
  | reservationGrant (port : Nat) (f : Flit)
  | activeSetAnnouncement (port : Nat) (f : Flit)
  | activeSetEcho (port : Nat) (f : Flit)
  | wavelengthRequest (port : Nat) (f : Flit)
  | replayTimeout (port : Nat)
  | announcementRepeat (port : Nat)
  | berWindow (port lam rate : Nat)
  | lossOfLight (source : Nat)
  | lightRestored (source : Nat)
  | portDown (port : Nat)
  -- bring-up, power, errors (28)
  | reset (fw : Firmware)
  | unitStart (failure : Option TestFailure)
  | powerMeasurement (watts : Nat)
  | unreach
  | softErrorCorrected
  | machineCheck (owner : ErrorOwner)
  | meridianDisable
  | portModeWrite (port : Nat) (value : Word64)
  | portTrained (port : Nat) (credits : List Nat)
  | spdmMessage (request : List Byte)
  | flitCrcFailure (port : Nat) (reservedKind : Bool)
  | reservationWindowStart (port tag : Nat)
  deriving DecidableEq, Repr, Inhabited

/-- What can happen next: a step of the table, the issue of the next instruction of a clause that
a PC slot has in a clause slot, the next instruction of a matrix-stream instance, the passing of
cycles, or a cache moving a byte (log 2, log 4, log 7). -/
inductive Move where
  | event  (i : Instr)
  | issue  (gid slot : Nat)
  | stream (team unit : Nat)
  | elapse (cycles : Nat)
  | evict  (site pa : Nat)
  | fill   (site pa : Nat)
  | dropTranslation (site index : Nat)
  | post
  | hostStore (pa : Nat) (bytes : List Byte)
  | firmware (image signature : List Byte)
  deriving DecidableEq, Repr, Inhabited

end Sys2Proof
end

