-- ==== Sys2Proof/Config.lean ====
section
/-!
DEFINITION. What the spec leaves open, as constants without a body: nothing in Lean can see their
values, so every statement about the machine holds whatever they are. Each is named in a log entry.
-/
namespace Sys2Proof.Config

/-! ### Order of events (log 2) -/

/-- What happens next when State.agenda is empty, by the count of such choices so far: the order in
which issuers, engines, caches, links and the host act, and how much time passes. -/
opaque schedule : Nat → Move

/-! ### Results that R198 and R172 give within a bound only (log 10, log 11) -/

/-- The f32 code each special function returns for an input code (R198: a fixed function). The
machine takes it where it meets the bound of R198. -/
opaque frsq : Word32 → Word32
opaque fexp2 : Word32 → Word32
opaque flog2 : Word32 → Word32
opaque fsin : Word32 → Word32
opaque fcos : Word32 → Word32

/-- An element of an unordered f32 MMA (R172), by the count of such values so far. -/
opaque mmaSum : Nat → Word32

/-- The neighbour taken where MODE.RM names no rounding (log 29): its arguments are those of the grain function. -/
opaque looseGrain : Word64 → Word64 → Nat → BitVec 48 → Nat → BitVec 32

/-! ### Algorithms that the spec names and does not give (log 13) -/

/-- AES-256-GCM of R380: key, IV, additional data and payload to the 32-bit tag. -/
opaque gcmTag : BitVec 256 → List Byte → List Byte → BitVec 512 → BitVec 32
/-- Its encryption and its decryption of a payload: key and IV. -/
opaque gcmCipher : BitVec 256 → List Byte → BitVec 512 → BitVec 512
opaque gcmPlain : BitVec 256 → List Byte → BitVec 512 → BitVec 512
/-- The device's ML-DSA-65 signature of a message (R364, R404, R406): 3,309 bytes, the first lowest. -/
opaque sign : List Byte → BitVec (8 * 3309)
/-- The device's identity public key (R404, R406): 1,952 bytes, the first lowest. -/
opaque publicKey : BitVec (8 * 1952)
/-- Is the signature good under a public key for a SHAKE256 digest: the vendor's key in the boot ROM (R403)? -/
opaque verify : BitVec (8 * 1952) → BitVec 256 → List Byte → Bool
opaque vendorKey : BitVec (8 * 1952)
/-- The digest of the boot ROM, and the running configuration (R404), by the count of requests so far. -/
opaque romDigest : BitVec 256
opaque runningConfig : Nat → List Byte
/-- Does an SPDM request ask for the measurements (R404)? -/
opaque spdmMeasures : List Byte → Bool
/-- The rest of the controller's answer to an SPDM request (R404), by the count of requests so far. -/
opaque spdmReply : Nat → List Byte → List Byte

/-! ### Values the spec leaves open elsewhere -/

/-- The buffer slots in flits, 16 to 1,023, that this device advertises for a channel of a port (R377, log 38). -/
opaque portSlots : Nat → Nat → BitVec 10

/-- The virtual address of a group's handler area (R221), by the count of groups placed so far; its
page offset is zero (log 37). -/
opaque handlerArea : Nat → BitVec 52

end Sys2Proof.Config
end

