-- ==== Sys2Proof/Machine/Tab.lean ====
section
/-!
DEFINITION. Reading and writing the two table types of Sys2Proof/Word.lean. `tset` keeps the
canonical form `tabWf` (keys strictly rising, no entry equal to the default), so that equal tables
are equal data; Laws/Tab.lean proves it.
-/
namespace Sys2Proof.Machine

/-- The value at key `k`; `d` where the table lists none. -/
def tget {α : Type} (d : α) : Tab α → Nat → α
  | [], _ => d
  | (j, v) :: t, k => if j = k then v else tget d t k

/-- Insert or replace the entry of `k`, keeping the keys rising. -/
def dput {α : Type} : Dict α → Nat → α → Dict α
  | [], k, v => [(k, v)]
  | (j, w) :: t, k, v =>
    if k < j then (k, v) :: (j, w) :: t
    else if j = k then (k, v) :: t
    else (j, w) :: dput t k v

/-- Remove the entry of `k`. -/
def ddel {α : Type} : Dict α → Nat → Dict α
  | [], _ => []
  | (j, w) :: t, k => if j = k then ddel t k else (j, w) :: ddel t k

/-- The entry of `k`, if listed. -/
def dget {α : Type} : Dict α → Nat → Option α
  | [], _ => none
  | (j, v) :: t, k => if j = k then some v else dget t k

/-- Write `v` at key `k` of a table with default `d`; the default removes the entry. -/
def tset {α : Type} [DecidableEq α] (d : α) (t : Tab α) (k : Nat) (v : α) : Tab α :=
  if v = d then ddel t k else dput t k v

/-- Apply `f` to the value at key `k`. -/
def tmod {α : Type} [DecidableEq α] (d : α) (t : Tab α) (k : Nat) (f : α → α) : Tab α :=
  tset d t k (f (tget d t k))

/-- The least key not listed, from `n` on, at most `fuel` tries. -/
def freeKey {α : Type} (t : Dict α) : Nat → Nat → Nat
  | 0, n => n
  | fuel + 1, n => if (dget t n).isSome then freeKey t fuel (n + 1) else n

/-- Keys strictly rising. -/
def keysRise {α : Type} : List (Nat × α) → Bool
  | [] => true
  | [_] => true
  | (j, _) :: (k, w) :: t => decide (j < k) && keysRise ((k, w) :: t)

/-- The canonical form of a table with default `d`. -/
def tabWf {α : Type} [DecidableEq α] (d : α) (t : Tab α) : Bool :=
  keysRise t && t.all (fun e => decide (e.2 ≠ d))

end Sys2Proof.Machine
end

