-- ==== Sys2Proof/Machine/Bits.lean ====
section
/-!
DEFINITION. Bit fields, sign extension, byte order (R4), lane masks and register lines (R26, R153).
-/
namespace Sys2Proof.Machine

/-! ### Words -/

/-- Bits [hi:lo] of a word as a number. -/
def fld {n : Nat} (w : BitVec n) (hi lo : Nat) : Nat := (w.extractLsb' lo (hi + 1 - lo)).toNat

/-- Two's complement value of the low n bits of x. -/
def sgn (n x : Nat) : Int :=
  let m := x % 2 ^ n
  if 2 * m < 2 ^ n then (m : Int) else (m : Int) - (2 ^ n : Nat)

/-- An integer as a 64-bit word. -/
def w64 (x : Int) : Word64 := BitVec.ofInt 64 x
def w64n (x : Nat) : Word64 := BitVec.ofNat 64 x
def w32n (x : Nat) : Word32 := BitVec.ofNat 32 x
/-- `b` as a word of 1 or 0. -/
def boolBit (b : Bool) : Nat := if b then 1 else 0

/-- Write bits [hi:lo] of a word. -/
def setFld {n : Nat} (w : BitVec n) (hi lo : Nat) (x : Nat) : BitVec n :=
  let m := 2 ^ (hi + 1 - lo)
  BitVec.ofNat n (w.toNat - (w.toNat / 2 ^ lo % m) * 2 ^ lo + (x % m) * 2 ^ lo)

def popcount {n : Nat} (w : BitVec n) : Nat :=
  (List.range n).foldl (fun a i => if w.getLsbD i then a + 1 else a) 0

/-! ### Lane masks (R4) -/

def allLanes : Mask := 0xFFFFFFFFFFFFFFFF#64
/-- The lanes of a mask, ascending. -/
def lanesOf (m : Mask) : List Nat := (List.range 64).filter (fun i => m.getLsbD i)
/-- The mask of the lanes that satisfy `f`. -/
def maskOf (f : Nat → Bool) : Mask :=
  (List.range 64).foldl (fun a i => if f i then a ||| (1#64 <<< i) else a) 0
def maskOfList (l : List Nat) : Mask := l.foldl (fun a i => a ||| (1#64 <<< i)) 0
/-- The lowest lane of a mask. -/
def lowest? (m : Mask) : Option Nat := (List.range 64).find? (fun i => m.getLsbD i)
def highest? (m : Mask) : Option Nat := ((List.range 64).reverse).find? (fun i => m.getLsbD i)

/-! ### Register lines: 64 lanes of 32 bits -/

def lane (l : Line) (i : Nat) : Word32 := l.extractLsb' (32 * i) 32

/-- The line whose lanes below n hold `f`, the others zero. -/
def packLanes : Nat → (Nat → Word32) → Line
  | 0, _ => 0
  | n + 1, f => packLanes n f ||| ((f n).zeroExtend 2048 <<< (32 * n))

def mkLine (f : Nat → Word32) : Line := packLanes 64 f

/-- `new` in the lanes of `m`, `old` elsewhere (R61). -/
def mergeLine (m : Mask) (old new : Line) : Line :=
  mkLine (fun i => if m.getLsbD i then lane new i else lane old i)

/-! ### Bytes, least significant first (R4) -/

/-- The n low bytes of x. -/
def toBytes (n x : Nat) : List Byte := (List.range n).map (fun i => BitVec.ofNat 8 (x / 2 ^ (8 * i)))
/-- The number whose bytes are l. -/
def ofBytes : List Byte → Nat
  | [] => 0
  | b :: t => b.toNat + 256 * ofBytes t

/-- Bytes [off, off + n) of a record as a number. -/
def recNum (r : List Byte) (off n : Nat) : Nat := ofBytes ((r.drop off).take n)
/-- Bits [hi:lo] of the n-byte field at off. -/
def recFld (r : List Byte) (off n hi lo : Nat) : Nat := recNum r off n / 2 ^ lo % 2 ^ (hi + 1 - lo)

/-- Replace element i of a list. -/
def listSet {α : Type} : List α → Nat → α → List α
  | [], _, _ => []
  | _ :: t, 0, v => v :: t
  | h :: t, n + 1, v => h :: listSet t n v

/-- Ceiling division. -/
def ceilDiv (a b : Nat) : Nat := (a + b - 1) / b

/-- floor of an integer quotient, divisor > 0. -/
def floorDiv (a : Int) (b : Nat) : Int := Int.fdiv a b

/-- Is a 64-bit address canonical in 56 bits (R210)? -/
def canonical (va : Word64) : Bool :=
  let top := va.toNat / 2 ^ 55
  top == 0 || top == 511

end Sys2Proof.Machine
end

