-- ==== Sys2Proof/Decode.lean ====
section
/-!
DEFINITION. Decoding of clause headers (R49) and instruction words (R60 to R67, R77 to R83), and the
encoder written from the same tables. A word that the tables do not assign, or whose reserved bits
are not zero, decodes to nothing: it raises the illegal-instruction trap (R59, R73). Register
limits and field values are checked in Machine/Sig.lean.
-/
namespace Sys2Proof

/-! ### The clause header (R49) -/

structure Header where
  cls    : BitVec 3
  count  : BitVec 4
  wait   : BitVec 12
  av     : Bool
  aflag  : BitVec 4
  bv     : Bool
  bflag  : BitVec 4
  dist   : BitVec 32
  nospec : Bool
  rsv    : BitVec 2
  deriving DecidableEq, Repr

def decodeHeader (w : Word64) : Header where
  cls    := w.extractLsb' 61 3
  count  := w.extractLsb' 57 4
  wait   := w.extractLsb' 45 12
  av     := w.getLsbD 44
  aflag  := w.extractLsb' 40 4
  bv     := w.getLsbD 39
  bflag  := w.extractLsb' 35 4
  dist   := w.extractLsb' 3 32
  nospec := w.getLsbD 2
  rsv    := w.extractLsb' 0 2

def encodeHeader (h : Header) : Word64 :=
  h.cls ++ h.count ++ h.wait ++ BitVec.ofBool h.av ++ h.aflag ++ BitVec.ofBool h.bv ++ h.bflag ++
    h.dist ++ BitVec.ofBool h.nospec ++ h.rsv

/-- Number of instructions of the clause. -/
def Header.n (h : Header) : Nat := h.count.toNat + 1

/-- CLASS as a class; 6 and 7 are none. -/
def classOf (c : BitVec 3) : Option Class :=
  match c.toNat with
  | 0 => some .alu
  | 1 => some .mem
  | 2 => some .field
  | 3 => some .async
  | 4 => some .sys
  | 5 => some .matrix
  | _ => none

def Class.code : Class → BitVec 3
  | .alu => 0 | .mem => 1 | .field => 2 | .async => 3 | .sys => 4 | .matrix => 5

/-- The distance of instruction i in cycles (R55). -/
def Header.distance (h : Header) (i : Nat) : Nat := 2 ^ (h.dist.extractLsb' (2 * i) 2).toNat

/-! ### Fields of a word -/

def Form.bits : Form → BitVec 2
  | .f00 => 0 | .f01 => 1 | .f10 => 2 | .f11 => 3

def formOfBits (b : BitVec 2) : Form :=
  match b.toNat with
  | 0 => .f00
  | 1 => .f01
  | 2 => .f10
  | _ => .f11

def opOf (w : Word64) : BitVec 7 := w.extractLsb' 57 7
def formOf (w : Word64) : Form := formOfBits (w.extractLsb' 55 2)
def negOf (w : Word64) : Bool := w.getLsbD 54
def predOf (w : Word64) : BitVec 3 := w.extractLsb' 51 3
def modOf (w : Word64) : BitVec 3 := w.extractLsb' 48 3

def fieldsR (w : Word64) : RFields :=
  ⟨formOf w, negOf w, predOf w, modOf w, w.extractLsb' 37 11, w.extractLsb' 26 11,
    w.extractLsb' 15 11, w.extractLsb' 4 11, w.extractLsb' 0 4⟩
def fieldsI (w : Word64) : IFields :=
  ⟨formOf w, negOf w, predOf w, modOf w, w.extractLsb' 37 11, w.extractLsb' 26 11,
    w.extractLsb' 4 22, w.extractLsb' 0 4⟩
def fieldsW (w : Word64) : WFields :=
  ⟨formOf w, negOf w, predOf w, w.extractLsb' 37 11, w.extractLsb' 5 32, w.getLsbD 4,
    w.extractLsb' 0 4⟩
def fieldsM (w : Word64) : MFields :=
  ⟨formOf w, negOf w, predOf w, modOf w, w.extractLsb' 37 11, w.extractLsb' 26 11,
    w.extractLsb' 18 8, w.getLsbD 17, w.extractLsb' 6 11, w.extractLsb' 3 3, w.extractLsb' 0 3⟩
def fieldsB (w : Word64) : BFields :=
  ⟨formOf w, negOf w, predOf w, modOf w, w.extractLsb' 24 24, w.extractLsb' 0 24⟩
def fieldsX (w : Word64) : XFields :=
  ⟨formOf w, negOf w, predOf w, w.extractLsb' 37 11, w.extractLsb' 29 8, w.extractLsb' 5 24⟩
def fieldsF (w : Word64) : FFields :=
  ⟨formOf w, negOf w, predOf w, modOf w, w.extractLsb' 37 11, w.extractLsb' 26 11,
    w.extractLsb' 15 11, w.extractLsb' 7 8, w.extractLsb' 0 4⟩
def fieldsQ (w : Word64) : QFields :=
  ⟨formOf w, negOf w, predOf w, w.extractLsb' 40 8, w.extractLsb' 32 8, w.extractLsb' 21 11,
    w.extractLsb' 9 12, w.getLsbD 8⟩
def fieldsMX (w : Word64) : MXFields :=
  ⟨modOf w, w.getLsbD 47, w.extractLsb' 43 4, w.extractLsb' 39 4, w.extractLsb' 28 11,
    w.extractLsb' 8 20⟩

/-! ### One format each: the form must be in the row, reserved bits zero -/

def asR (w : Word64) (fs : List Form) (k : RFields → Instr) : Option Instr :=
  if fs.contains (formOf w) then some (k (fieldsR w)) else none
def asI (w : Word64) (fs : List Form) (k : IFields → Instr) : Option Instr :=
  if fs.contains (formOf w) then some (k (fieldsI w)) else none
def asW (w : Word64) (fs : List Form) (k : WFields → Instr) : Option Instr :=
  if fs.contains (formOf w) && modOf w == 0 then some (k (fieldsW w)) else none
def asM (w : Word64) (fs : List Form) (k : MFields → Instr) : Option Instr :=
  if fs.contains (formOf w) then some (k (fieldsM w)) else none
def asB (w : Word64) (fs : List Form) (k : BFields → Instr) : Option Instr :=
  if fs.contains (formOf w) then some (k (fieldsB w)) else none
def asX (w : Word64) (fs : List Form) (k : XFields → Instr) : Option Instr :=
  if fs.contains (formOf w) && modOf w == 0 && w.extractLsb' 0 5 == 0#5 then
    some (k (fieldsX w)) else none
def asF (w : Word64) (fs : List Form) (k : FFields → Instr) : Option Instr :=
  if fs.contains (formOf w) && w.extractLsb' 4 3 == 0#3 then some (k (fieldsF w)) else none
def asQ (w : Word64) (fs : List Form) (sub : BitVec 3) (k : QFields → Instr) : Option Instr :=
  if fs.contains (formOf w) && modOf w == sub && w.extractLsb' 0 8 == 0#8 then
    some (k (fieldsQ w)) else none
/-- Format Q in class 2, where FSEL is reserved (R79). -/
def asQ0 (w : Word64) (fs : List Form) (sub : BitVec 3) (k : QFields → Instr) : Option Instr :=
  if w.getLsbD 8 then none else asQ w fs sub k
/-- YIELD and NOP: every bit below the opcode is zero (R113, R126). -/
def asN (w : Word64) (i : Instr) : Option Instr :=
  if formOf w == .f11 && w.extractLsb' 0 55 == 0#55 then some i else none
def asMX (w : Word64) (k : MXFields → Instr) : Option Instr :=
  if formOf w == .f00 && !negOf w && predOf w == 0 && w.extractLsb' 0 8 == 0#8 then
    some (k (fieldsMX w)) else none

/-! ### The six tables -/

/-- The control block, in classes 0 and 4 (R82). -/
def decodeControl (w : Word64) : Option Instr :=
  match (opOf w).toNat with
  | 0x77 => asN w .yield
  | 0x78 => asB w [.f00] .bra
  | 0x79 => asX w [.f00, .f11] .brx
  | 0x7A => asB w [.f00] .call
  | 0x7B => asX w [.f00, .f11] .callx
  | 0x7C => asX w [.f00] .ret
  | 0x7D => asX w [.f11] .lpad
  | 0x7E => asB w [.f00] .exit
  | 0x7F => asN w .nop
  | _ => none

/-- Class 0 (R77). -/
def decodeAlu (w : Word64) : Option Instr :=
  match (opOf w).toNat with
  | 0x00 => asR w [.f00, .f01, .f10, .f11] (fun r => .iadd (.reg r))
  | 0x01 => asR w [.f00, .f01, .f10, .f11] (fun r => .isub (.reg r))
  | 0x02 => asR w [.f00, .f01, .f10, .f11] (fun r => .imul (.reg r))
  | 0x03 => asR w [.f00, .f01, .f10, .f11] .imulh
  | 0x04 => asR w [.f00, .f01, .f10, .f11] .imad
  | 0x05 => asR w [.f00, .f01, .f10, .f11] (fun r => .iadds (.reg r))
  | 0x06 => asR w [.f00, .f01, .f10, .f11] (fun r => .iand (.reg r))
  | 0x07 => asR w [.f00, .f01, .f10, .f11] (fun r => .ior (.reg r))
  | 0x08 => asR w [.f00, .f01, .f10, .f11] (fun r => .ixor (.reg r))
  | 0x09 => asR w [.f00, .f01, .f10, .f11] (fun r => .ishl (.reg r))
  | 0x0A => asR w [.f00, .f01, .f10, .f11] (fun r => .ishr (.reg r))
  | 0x0B => asR w [.f00, .f01, .f10, .f11] (fun r => .imin (.reg r))
  | 0x0C => asR w [.f00, .f01, .f10, .f11] (fun r => .imax (.reg r))
  | 0x0D => asR w [.f00, .f01, .f10, .f11] (fun r => .icmp (.reg r))
  | 0x0E => asR w [.f00, .f01, .f10, .f11] .isel
  | 0x0F => asR w [.f00, .f01, .f11] .mov
  | 0x10 => asW w [.f00, .f11] .movi
  | 0x11 => asR w [.f00, .f01, .f10, .f11] (fun r => .ibfe (.reg r))
  | 0x12 => asR w [.f00, .f01, .f10, .f11] .ibfi
  | 0x13 => asR w [.f00, .f11] .iclz
  | 0x14 => asR w [.f00, .f11] .ipopc
  | 0x15 => asR w [.f11] .plop
  | 0x16 => asR w [.f11] .pmov
  | 0x17 => asR w [.f11] .pcnt
  | 0x20 => asR w [.f00, .f01, .f10] .fadd
  | 0x21 => asR w [.f00, .f01, .f10] .fsub
  | 0x22 => asR w [.f00, .f01, .f10] .fmul
  | 0x23 => asR w [.f00, .f01, .f10] .ffma
  | 0x24 => asR w [.f00, .f01, .f10] .fmin
  | 0x25 => asR w [.f00, .f01, .f10] .fmax
  | 0x26 => asR w [.f00, .f01, .f10] .fcmp
  | 0x27 => asR w [.f00] .fclass
  | 0x28 => asR w [.f00] .frcp
  | 0x29 => asR w [.f00] .frsq
  | 0x2A => asR w [.f00] .fsqrt
  | 0x2B => asR w [.f00] .fexp2
  | 0x2C => asR w [.f00] .flog2
  | 0x2D => asR w [.f00] .fsin
  | 0x2E => asR w [.f00] .fcos
  | 0x30 => asR w [.f00] .cvt
  | 0x31 => asR w [.f00] .cvtfx
  | 0x32 => asR w [.f00] .cvtxf
  | 0x33 => asR w [.f00] .pack
  | 0x34 => asR w [.f00] .unpack
  | 0x38 => asR w [.f00, .f10] .shfl
  | 0x39 => asR w [.f00] .vred
  | 0x3A => asR w [.f00] .vscan
  | 0x3B => asR w [.f00] .vbal
  | 0x3C => asR w [.f00, .f10] .vbcast
  | 0x3D => asR w [.f00] .vmatch
  | 0x40 => asI w [.f00, .f01, .f11] (fun i => .iadd (.imm i))
  | 0x41 => asI w [.f00, .f01, .f11] (fun i => .isub (.imm i))
  | 0x42 => asI w [.f00, .f01, .f11] (fun i => .imul (.imm i))
  | 0x45 => asI w [.f00, .f01, .f11] (fun i => .iadds (.imm i))
  | 0x46 => asI w [.f00, .f01, .f11] (fun i => .iand (.imm i))
  | 0x47 => asI w [.f00, .f01, .f11] (fun i => .ior (.imm i))
  | 0x48 => asI w [.f00, .f01, .f11] (fun i => .ixor (.imm i))
  | 0x49 => asI w [.f00, .f01, .f11] (fun i => .ishl (.imm i))
  | 0x4A => asI w [.f00, .f01, .f11] (fun i => .ishr (.imm i))
  | 0x4B => asI w [.f00, .f01, .f11] (fun i => .imin (.imm i))
  | 0x4C => asI w [.f00, .f01, .f11] (fun i => .imax (.imm i))
  | 0x4D => asI w [.f00, .f01, .f11] (fun i => .icmp (.imm i))
  | 0x51 => asI w [.f00, .f01, .f11] (fun i => .ibfe (.imm i))
  | _ => decodeControl w

/-- Class 1 (R78). -/
def decodeMem (w : Word64) : Option Instr :=
  match (opOf w).toNat with
  | 0x00 => asM w [.f00, .f01, .f11] .ld
  | 0x01 => asM w [.f00, .f01, .f11] .st
  | 0x04 => asM w [.f00, .f01, .f11] .cas
  | 0x05 => asM w [.f00, .f01, .f11] .cas128
  | 0x08 => asM w [.f11] .fence
  | 0x09 => asM w [.f11] .acqr
  | 0x10 => asM w [.f11] .stmap
  | 0x11 => asM w [.f11] .stunmap
  | 0x12 => asM w [.f11] .stwb
  | 0x13 => asM w [.f00, .f01, .f11] .pfl
  | 0x20 => asM w [.f00, .f01, .f11] (.atom .add)
  | 0x21 => asM w [.f00, .f01, .f11] (.atom .and)
  | 0x22 => asM w [.f00, .f01, .f11] (.atom .or)
  | 0x23 => asM w [.f00, .f01, .f11] (.atom .xor)
  | 0x24 => asM w [.f00, .f01, .f11] (.atom .min)
  | 0x25 => asM w [.f00, .f01, .f11] (.atom .max)
  | 0x26 => asM w [.f00, .f01, .f11] (.atom .swap)
  | 0x30 => asM w [.f01] (.atomt .add)
  | 0x31 => asM w [.f01] (.atomt .and)
  | 0x32 => asM w [.f01] (.atomt .or)
  | 0x33 => asM w [.f01] (.atomt .xor)
  | 0x34 => asM w [.f01] (.atomt .min)
  | 0x35 => asM w [.f01] (.atomt .max)
  | 0x36 => asM w [.f01] (.atomt .swap)
  | _ => none

/-- Class 2 (R79). FSEL is reserved in this class. -/
def decodeField (w : Word64) : Option Instr :=
  match (opOf w).toNat with
  | 0x00 => asF w [.f00, .f11] .txf
  | 0x01 => asQ0 w [.f11] 0x00 .ftot
  | 0x02 => asQ0 w [.f11] 0x00 .ffence
  | 0x03 => asQ0 w [.f11] 0x00 .fstat
  | 0x04 => (asQ0 w [.f11] 0x00 .fdef).or (asQ0 w [.f11] 0x01 .fdefDrop)
  | 0x05 => asQ0 w [.f11] 0x00 .fbnd
  | _ => none

/-- Class 3 (R80). -/
def decodeAsync (w : Word64) : Option Instr :=
  match (opOf w).toNat with
  | 0x00 => (asQ w [.f11] 0x00 .bara).or (asQ w [.f11] 0x01 .baraInit)
  | 0x01 => asQ w [.f11] 0x00 .barw
  | 0x02 => asQ w [.f11] 0x00 .barx
  | 0x03 => ((asQ w [.f11] 0x00 .tbar).or (asQ w [.f11] 0x01 .tbarArr)).or (asQ w [.f11] 0x02 .tbarWait)
  | 0x08 => asQ w [.f11] 0x00 .kick
  | 0x09 => asQ w [.f11] 0x00 .cpwait
  | 0x0A => asQ w [.f11] 0x00 .yieldc
  | 0x0B => asQ w [.f11] 0x00 .pfb
  | 0x10 => asQ w [.f11] 0x00 .enq
  | 0x11 => asQ w [.f11] 0x00 .deq
  | 0x12 => (asQ w [.f11] 0x00 .launch).or (asQ w [.f00] 0x00 .launchPerLane)
  | _ => none

/-- Class 4 (R81). -/
def decodeSys (w : Word64) : Option Instr :=
  match (opOf w).toNat with
  | 0x00 => asW w [.f11] .setfmt
  | 0x01 => asW w [.f11] .setmode
  | 0x02 => asR w [.f00, .f11] .srd
  | 0x03 => asR w [.f11] .swr
  | 0x08 => asQ w [.f11] 0x00 .csrr
  | 0x09 => asQ w [.f11] 0x00 .csrw
  | 0x0A => asQ w [.f11] 0x00 .trap
  | 0x0B => (asQ w [.f11] 0x00 .rte).or (asQ w [.f11] 0x01 .rteSkip)
  | 0x10 => ((asQ w [.f11] 0x00 .mappgFt).or (asQ w [.f11] 0x01 .mappgRep)).or (asQ w [.f11] 0x02 .mappgCol)
  | 0x11 => asQ w [.f11] 0x00 .fqpost
  | 0x12 => asQ w [.f11] 0x00 .park
  | 0x13 => (asQ w [.f11] 0x00 .invlpPg).or (asQ w [.f11] 0x01 .invlpCtx)
  | 0x18 => asQ w [.f11] 0x00 .qdig
  | 0x19 => asQ w [.f11] 0x00 .qend
  | _ => decodeControl w

/-- Class 5 (R83). -/
def decodeMatrix (w : Word64) : Option Instr :=
  match (opOf w).toNat with
  | 0x00 => asMX w .mma
  | 0x01 => asMX w .mzero
  | 0x02 => asMX w .mstc
  | 0x03 => asMX w .mwait
  | 0x04 => asMX w .marr
  | 0x05 => asMX w .mloop
  | 0x06 => asMX w .mbr
  | 0x07 => asMX w .mend
  | 0x08 => asMX w .msetf
  | _ => none

/-- The instruction that a word stands for in a clause of the given class (R50, R73). -/
def decode (c : Class) (w : Word64) : Option Instr :=
  match c with
  | .alu => decodeAlu w
  | .mem => decodeMem w
  | .field => decodeField w
  | .async => decodeAsync w
  | .sys => decodeSys w
  | .matrix => decodeMatrix w

/-! ### The encoder -/

def encR (op : BitVec 7) (f : RFields) : Word64 :=
  op ++ f.form.bits ++ BitVec.ofBool f.neg ++ f.pred ++ f.mod ++ f.dst ++ f.a ++ f.b ++ f.c ++ f.ty
def encI (op : BitVec 7) (f : IFields) : Word64 :=
  op ++ f.form.bits ++ BitVec.ofBool f.neg ++ f.pred ++ f.mod ++ f.dst ++ f.a ++ f.imm ++ f.ty
def encW (op : BitVec 7) (f : WFields) : Word64 :=
  op ++ f.form.bits ++ BitVec.ofBool f.neg ++ f.pred ++ 0#3 ++ f.dst ++ f.imm ++
    BitVec.ofBool f.hi ++ f.ty
def encM (op : BitVec 7) (f : MFields) : Word64 :=
  op ++ f.form.bits ++ BitVec.ofBool f.neg ++ f.pred ++ f.order ++ f.data ++ f.addr ++ f.sbase ++
    BitVec.ofBool f.fsel ++ f.off ++ f.size ++ f.scope
def encB (op : BitVec 7) (f : BFields) : Word64 :=
  op ++ f.form.bits ++ BitVec.ofBool f.neg ++ f.pred ++ f.kind ++ f.toff ++ f.joff
def encX (op : BitVec 7) (f : XFields) : Word64 :=
  op ++ f.form.bits ++ BitVec.ofBool f.neg ++ f.pred ++ 0#3 ++ f.treg ++ f.tag ++ f.joff ++ 0#5
def encF (op : BitVec 7) (f : FFields) : Word64 :=
  op ++ f.form.bits ++ BitVec.ofBool f.neg ++ f.pred ++ f.mod ++ f.fromR ++ f.toR ++ f.amt ++
    f.handle ++ 0#3 ++ f.ty
def encQ (op : BitVec 7) (sub : BitVec 3) (f : QFields) : Word64 :=
  op ++ f.form.bits ++ BitVec.ofBool f.neg ++ f.pred ++ sub ++ f.sa ++ f.sb ++ f.obj ++ f.imm ++
    BitVec.ofBool f.fsel ++ 0#8
def encMX (op : BitVec 7) (f : MXFields) : Word64 :=
  op ++ 0#2 ++ 0#1 ++ 0#3 ++ f.mod ++ BitVec.ofBool f.acc ++ f.ta ++ f.tb ++ f.num ++ f.imm ++ 0#8

/-- The code a of R78. -/
def AtomicOp.code : AtomicOp → BitVec 7
  | .add => 0 | .and => 1 | .or => 2 | .xor => 3 | .min => 4 | .max => 5 | .swap => 6

/-- The word of an instruction, from R62 to R67 and R77 to R83; a device step has none. -/
def encode : Instr → Option Word64
  | .iadd (.reg r) => some (encR 0x00 r)
  | .iadd (.imm i) => some (encI 0x40 i)
  | .isub (.reg r) => some (encR 0x01 r)
  | .isub (.imm i) => some (encI 0x41 i)
  | .imul (.reg r) => some (encR 0x02 r)
  | .imul (.imm i) => some (encI 0x42 i)
  | .imulh r => some (encR 0x03 r)
  | .imad r => some (encR 0x04 r)
  | .iadds (.reg r) => some (encR 0x05 r)
  | .iadds (.imm i) => some (encI 0x45 i)
  | .iand (.reg r) => some (encR 0x06 r)
  | .iand (.imm i) => some (encI 0x46 i)
  | .ior (.reg r) => some (encR 0x07 r)
  | .ior (.imm i) => some (encI 0x47 i)
  | .ixor (.reg r) => some (encR 0x08 r)
  | .ixor (.imm i) => some (encI 0x48 i)
  | .ishl (.reg r) => some (encR 0x09 r)
  | .ishl (.imm i) => some (encI 0x49 i)
  | .ishr (.reg r) => some (encR 0x0A r)
  | .ishr (.imm i) => some (encI 0x4A i)
  | .imin (.reg r) => some (encR 0x0B r)
  | .imin (.imm i) => some (encI 0x4B i)
  | .imax (.reg r) => some (encR 0x0C r)
  | .imax (.imm i) => some (encI 0x4C i)
  | .icmp (.reg r) => some (encR 0x0D r)
  | .icmp (.imm i) => some (encI 0x4D i)
  | .isel r => some (encR 0x0E r)
  | .mov r => some (encR 0x0F r)
  | .movi r => some (encW 0x10 r)
  | .ibfe (.reg r) => some (encR 0x11 r)
  | .ibfe (.imm i) => some (encI 0x51 i)
  | .ibfi r => some (encR 0x12 r)
  | .iclz r => some (encR 0x13 r)
  | .ipopc r => some (encR 0x14 r)
  | .plop r => some (encR 0x15 r)
  | .pmov r => some (encR 0x16 r)
  | .pcnt r => some (encR 0x17 r)
  | .fadd r => some (encR 0x20 r)
  | .fsub r => some (encR 0x21 r)
  | .fmul r => some (encR 0x22 r)
  | .ffma r => some (encR 0x23 r)
  | .fmin r => some (encR 0x24 r)
  | .fmax r => some (encR 0x25 r)
  | .fcmp r => some (encR 0x26 r)
  | .fclass r => some (encR 0x27 r)
  | .frcp r => some (encR 0x28 r)
  | .frsq r => some (encR 0x29 r)
  | .fsqrt r => some (encR 0x2A r)
  | .fexp2 r => some (encR 0x2B r)
  | .flog2 r => some (encR 0x2C r)
  | .fsin r => some (encR 0x2D r)
  | .fcos r => some (encR 0x2E r)
  | .cvt r => some (encR 0x30 r)
  | .cvtfx r => some (encR 0x31 r)
  | .cvtxf r => some (encR 0x32 r)
  | .pack r => some (encR 0x33 r)
  | .unpack r => some (encR 0x34 r)
  | .shfl r => some (encR 0x38 r)
  | .vred r => some (encR 0x39 r)
  | .vscan r => some (encR 0x3A r)
  | .vbal r => some (encR 0x3B r)
  | .vbcast r => some (encR 0x3C r)
  | .vmatch r => some (encR 0x3D r)
  | .yield => some (encB 0x77 ⟨.f11, false, 0, 0, 0, 0⟩)
  | .bra r => some (encB 0x78 r)
  | .brx r => some (encX 0x79 r)
  | .call r => some (encB 0x7A r)
  | .callx r => some (encX 0x7B r)
  | .ret r => some (encX 0x7C r)
  | .lpad r => some (encX 0x7D r)
  | .exit r => some (encB 0x7E r)
  | .nop => some (encB 0x7F ⟨.f11, false, 0, 0, 0, 0⟩)
  | .ld r => some (encM 0x00 r)
  | .st r => some (encM 0x01 r)
  | .cas r => some (encM 0x04 r)
  | .cas128 r => some (encM 0x05 r)
  | .fence r => some (encM 0x08 r)
  | .acqr r => some (encM 0x09 r)
  | .stmap r => some (encM 0x10 r)
  | .stunmap r => some (encM 0x11 r)
  | .stwb r => some (encM 0x12 r)
  | .pfl r => some (encM 0x13 r)
  | .atom a r => some (encM (0x20 + a.code) r)
  | .atomt a r => some (encM (0x30 + a.code) r)
  | .txf r => some (encF 0x00 r)
  | .ftot r => some (encQ 0x01 0 r)
  | .ffence r => some (encQ 0x02 0 r)
  | .fstat r => some (encQ 0x03 0 r)
  | .fdef r => some (encQ 0x04 0 r)
  | .fdefDrop r => some (encQ 0x04 1 r)
  | .fbnd r => some (encQ 0x05 0 r)
  | .bara r => some (encQ 0x00 0 r)
  | .baraInit r => some (encQ 0x00 1 r)
  | .barw r => some (encQ 0x01 0 r)
  | .barx r => some (encQ 0x02 0 r)
  | .tbar r => some (encQ 0x03 0 r)
  | .tbarArr r => some (encQ 0x03 1 r)
  | .tbarWait r => some (encQ 0x03 2 r)
  | .kick r => some (encQ 0x08 0 r)
  | .cpwait r => some (encQ 0x09 0 r)
  | .yieldc r => some (encQ 0x0A 0 r)
  | .pfb r => some (encQ 0x0B 0 r)
  | .enq r => some (encQ 0x10 0 r)
  | .deq r => some (encQ 0x11 0 r)
  | .launch r => some (encQ 0x12 0 r)
  | .launchPerLane r => some (encQ 0x12 0 r)
  | .setfmt r => some (encW 0x00 r)
  | .setmode r => some (encW 0x01 r)
  | .srd r => some (encR 0x02 r)
  | .swr r => some (encR 0x03 r)
  | .csrr r => some (encQ 0x08 0 r)
  | .csrw r => some (encQ 0x09 0 r)
  | .trap r => some (encQ 0x0A 0 r)
  | .rte r => some (encQ 0x0B 0 r)
  | .rteSkip r => some (encQ 0x0B 1 r)
  | .mappgFt r => some (encQ 0x10 0 r)
  | .mappgRep r => some (encQ 0x10 1 r)
  | .mappgCol r => some (encQ 0x10 2 r)
  | .fqpost r => some (encQ 0x11 0 r)
  | .park r => some (encQ 0x12 0 r)
  | .invlpPg r => some (encQ 0x13 0 r)
  | .invlpCtx r => some (encQ 0x13 1 r)
  | .qdig r => some (encQ 0x18 0 r)
  | .qend r => some (encQ 0x19 0 r)
  | .mma r => some (encMX 0x00 r)
  | .mzero r => some (encMX 0x01 r)
  | .mstc r => some (encMX 0x02 r)
  | .mwait r => some (encMX 0x03 r)
  | .marr r => some (encMX 0x04 r)
  | .mloop r => some (encMX 0x05 r)
  | .mbr r => some (encMX 0x06 r)
  | .mend r => some (encMX 0x07 r)
  | .msetf r => some (encMX 0x08 r)
  | .clauseFetch _ _ | .clauseStart _ | .resultWrite _ | .registerFill _ _ _ | .variableResultArrival _ _ _
  | .storeComplete _ _ | .transferResolve _ _ | .predictionRepair _ | .spillPop _ | .yieldBarLift _
  | .trapEntry _ | .preemptionRequest _ | .preemptionBound _ | .quiescence _ | .teamRestore _ _
  | .groupRetire _ | .teamRetire _ | .digestChain _ | .dispatchHead | .rangeSteal _ _
  | .teamPlacement _ | .concurrentPlacement _ _ | .preemptDecision _ | .barrierWaitComplete _ _ | .teamBarrierPhaseEnd _ _
  | .cpwaitComplete _ _ | .yieldcReactivate _ _ | .deqWaiterComplete _ | .enqRoomComplete _ | .fqpostComplete _
  | .groupResume _ | .stashFill _ _ _ | .stashLazyWriteback _ _ _ | .recordAccept _ | .pieceCountdown _ _
  | .pfbFrameArrive _ _ | .txfPairApply _ | .txfReturn _ | .txfComplete _ _ | .streamClauseFetch _ _
  | .matrixStreamTrap _ _ | .matrixTrapDelivery _ | .quantumCommit _ | .contextTermination _ | .enqueuePortWrite _ _
  | .fqdb _ _ | .hostInvalidation _ | .pctx _ | .contextValidWrite _ _ | .queueEnable _ _
  | .queueDisable _ _ | .meridianEnable | .registerWrite _ _ | .mailboxSelfTest | .mailboxPublicKey
  | .mailboxSignChain | .mailboxInstallKey _ | .mailboxPowerLimit | .mailboxErrorCounts | .mailboxPowerState
  | .mailboxBadCommand | .linkTraining _ | .hostMemRequest _ _ | .backInvalidationResponse _ _ | .hostSnoop _ _
  | .atomicopCompletion _ _ | .hostErrorCompletion _ _ | .meridianFrame | .reservationRecord _ _ | .meridianUnit _
  | .idleFlit _ _ | .requestFlit _ _ | .readDataFlit _ _ | .writeDataFlit _ _ | .completionFlit _ _
  | .keyRetire _ _ | .replayRequest _ _ | .dropNotice _ _ | .reservationRequest _ _ | .reservationGrant _ _
  | .activeSetAnnouncement _ _ | .activeSetEcho _ _ | .wavelengthRequest _ _ | .replayTimeout _ | .announcementRepeat _
  | .berWindow _ _ _ | .lossOfLight _ | .lightRestored _ | .portDown _ | .reset _
  | .unitStart _ | .powerMeasurement _ | .unreach | .softErrorCorrected | .machineCheck _
  | .meridianDisable | .portModeWrite _ _ | .portTrained _ _ | .spdmMessage _ | .flitCrcFailure _ _
  | .reservationWindowStart _ _ => none

/-- The class whose table holds the instruction (R50); the control block is given as class 0. -/
def Instr.cls : Instr → Option Class
  | .iadd _ | .isub _ | .imul _ | .imulh _ | .imad _ | .iadds _ => some .alu
  | .iand _ | .ior _ | .ixor _ | .ishl _ | .ishr _ | .imin _ => some .alu
  | .imax _ | .icmp _ | .isel _ | .mov _ | .movi _ | .ibfe _ => some .alu
  | .ibfi _ | .iclz _ | .ipopc _ | .plop _ | .pmov _ | .pcnt _ => some .alu
  | .fadd _ | .fsub _ | .fmul _ | .ffma _ | .fmin _ | .fmax _ => some .alu
  | .fcmp _ | .fclass _ | .frcp _ | .frsq _ | .fsqrt _ | .fexp2 _ => some .alu
  | .flog2 _ | .fsin _ | .fcos _ | .cvt _ | .cvtfx _ | .cvtxf _ => some .alu
  | .pack _ | .unpack _ | .shfl _ | .vred _ | .vscan _ | .vbal _ => some .alu
  | .vbcast _ | .vmatch _ | .yield | .bra _ | .brx _ | .call _ => some .alu
  | .callx _ | .ret _ | .lpad _ | .exit _ | .nop => some .alu
  | .ld _ | .st _ | .cas _ | .cas128 _ | .fence _ | .acqr _ => some .mem
  | .stmap _ | .stunmap _ | .stwb _ | .pfl _ | .atom _ _ | .atomt _ _ => some .mem
  | .txf _ | .ftot _ | .ffence _ | .fstat _ | .fdef _ | .fdefDrop _ => some .field
  | .fbnd _ => some .field
  | .bara _ | .baraInit _ | .barw _ | .barx _ | .tbar _ | .tbarArr _ => some .async
  | .tbarWait _ | .kick _ | .cpwait _ | .yieldc _ | .pfb _ | .enq _ => some .async
  | .deq _ | .launch _ | .launchPerLane _ => some .async
  | .setfmt _ | .setmode _ | .srd _ | .swr _ | .csrr _ | .csrw _ => some .sys
  | .trap _ | .rte _ | .rteSkip _ | .mappgFt _ | .mappgRep _ | .mappgCol _ => some .sys
  | .fqpost _ | .park _ | .invlpPg _ | .invlpCtx _ | .qdig _ | .qend _ => some .sys
  | .mma _ | .mzero _ | .mstc _ | .mwait _ | .marr _ | .mloop _ => some .matrix
  | .mbr _ | .mend _ | .msetf _ => some .matrix
  | .clauseFetch _ _ | .clauseStart _ | .resultWrite _ | .registerFill _ _ _ | .variableResultArrival _ _ _
  | .storeComplete _ _ | .transferResolve _ _ | .predictionRepair _ | .spillPop _ | .yieldBarLift _
  | .trapEntry _ | .preemptionRequest _ | .preemptionBound _ | .quiescence _ | .teamRestore _ _
  | .groupRetire _ | .teamRetire _ | .digestChain _ | .dispatchHead | .rangeSteal _ _
  | .teamPlacement _ | .concurrentPlacement _ _ | .preemptDecision _ | .barrierWaitComplete _ _ | .teamBarrierPhaseEnd _ _
  | .cpwaitComplete _ _ | .yieldcReactivate _ _ | .deqWaiterComplete _ | .enqRoomComplete _ | .fqpostComplete _
  | .groupResume _ | .stashFill _ _ _ | .stashLazyWriteback _ _ _ | .recordAccept _ | .pieceCountdown _ _
  | .pfbFrameArrive _ _ | .txfPairApply _ | .txfReturn _ | .txfComplete _ _ | .streamClauseFetch _ _
  | .matrixStreamTrap _ _ | .matrixTrapDelivery _ | .quantumCommit _ | .contextTermination _ | .enqueuePortWrite _ _
  | .fqdb _ _ | .hostInvalidation _ | .pctx _ | .contextValidWrite _ _ | .queueEnable _ _
  | .queueDisable _ _ | .meridianEnable | .registerWrite _ _ | .mailboxSelfTest | .mailboxPublicKey
  | .mailboxSignChain | .mailboxInstallKey _ | .mailboxPowerLimit | .mailboxErrorCounts | .mailboxPowerState
  | .mailboxBadCommand | .linkTraining _ | .hostMemRequest _ _ | .backInvalidationResponse _ _ | .hostSnoop _ _
  | .atomicopCompletion _ _ | .hostErrorCompletion _ _ | .meridianFrame | .reservationRecord _ _ | .meridianUnit _
  | .idleFlit _ _ | .requestFlit _ _ | .readDataFlit _ _ | .writeDataFlit _ _ | .completionFlit _ _
  | .keyRetire _ _ | .replayRequest _ _ | .dropNotice _ _ | .reservationRequest _ _ | .reservationGrant _ _
  | .activeSetAnnouncement _ _ | .activeSetEcho _ _ | .wavelengthRequest _ _ | .replayTimeout _ | .announcementRepeat _
  | .berWindow _ _ _ | .lossOfLight _ | .lightRestored _ | .portDown _ | .reset _
  | .unitStart _ | .powerMeasurement _ | .unreach | .softErrorCorrected | .machineCheck _
  | .meridianDisable | .portModeWrite _ _ | .portTrained _ _ | .spdmMessage _ | .flitCrcFailure _ _
  | .reservationWindowStart _ _ => none

/-! ### The host's question -/

/-- The layout of log 16: the low 64 bits are the clause header, the next 64 bits the clause's
first instruction word. The header's CLASS chooses the table (R50). -/
def decodeTableWord (nbits w : Nat) : Option Instr :=
  let x := w % 2 ^ nbits
  match classOf (decodeHeader (BitVec.ofNat 64 x)).cls with
  | none => none
  | some c => decode c (BitVec.ofNat 64 (x / 2 ^ 64))

end Sys2Proof
end

