-- ==== Sys2Proof/Machine/Sig.lean ====
section
/-!
DEFINITION. What each instruction word names and whether its fields are legal (R59 to R71 and the
field tables of each chapter): the registers it reads and writes, its fixed latency (R56, R77), and
where in a clause it may stand (R51, R76). Legality depends on the word, the group's register
budget and FMT.ELT only (R59). The machine itself uses these: for the illegal-instruction trap, the
distance check (R57) and residency (R53).
-/
namespace Sys2Proof.Machine

inductive RegRef where
  | v (n : Nat) | s (n : Nat) | p (n : Nat)
  deriving DecidableEq, Repr

/-- `ok`: every field is legal. `lat`: the fixed latency L, 0 for none. `fixed`: the word takes part
in the distance rule of R57. -/
structure Sig where
  ok     : Bool
  reads  : List RegRef
  writes : List RegRef
  lat    : Nat
  fixed  : Bool
  deriving DecidableEq, Repr

/-- One operand field: is it legal, and which registers does it name? -/
abbrev Opnd := Bool × List RegRef

/-- k consecutive vector registers from n, n a multiple of `al`, within one legal range of R71 for
budget B (R27). -/
def vecs (B n k al : Nat) : Opnd :=
  (n % al == 0 && (decide (n + k + 10 ≤ B) || (decide (2046 ≤ n) && decide (n + k ≤ 2048))),
    (List.range k).map (fun i => .v (n + i)))
/-- k consecutive scalars from n, n a multiple of `al`. -/
def scas (n k al : Nat) : Opnd :=
  (n % al == 0 && decide (n + k ≤ 256), (List.range k).map (fun i => .s (n + i)))
/-- A predicate register. -/
def prd (n : Nat) : Opnd := (decide (n < 8), [.p n])
/-- A field that the instruction does not use (R59, R71). -/
def zeroF {n : Nat} (x : BitVec n) : Opnd := (x == 0, [])
/-- A field with a condition of its own, naming no register. -/
def rawF (b : Bool) : Opnd := (b, [])

/-- TYPE code 15 takes FMT.ELT (R69, R166). -/
def resolveTy (elt : Nat) (ty : BitVec 4) : Nat := if ty = 15#4 then elt else ty.toNat
/-- Is the resolved type a 64-bit type (R69)? -/
def wide (t : Nat) : Bool := t == 2 || t == 3 || t == 11

/-- A general operand: a vector (a pair when 64-bit) or a scalar (R60, R69). -/
def gen (B : Nat) (vec w : Bool) (n : Nat) : Opnd :=
  if vec then (if w then vecs B n 2 2 else vecs B n 1 1) else scas n 1 1

def aVec (f : Form) : Bool := f == .f00 || f == .f10
def bVec (f : Form) : Bool := f == .f00 || f == .f01
def isVec (f : Form) : Bool := f != .f11

/-- NEG and PRED (R61). -/
def predOk (f : Form) (neg : Bool) (p : BitVec 3) : Bool :=
  if f == .f11 then !neg && p == 0 else !(neg && p == 0)
/-- The predicate counts as a register read (R189); p0 is no register. -/
def predRefs (p : BitVec 3) : List RegRef := if p == 0 then [] else [.p p.toNat]
/-- A write to p0 is no write (R57). -/
def noP0 (l : List RegRef) : List RegRef := l.filter (fun r => r != .p 0)

/-- Assemble a signature from destination and source operands. -/
def mkSig (f : Form) (neg : Bool) (p : BitVec 3) (ok : Bool) (dst : Opnd) (srcs : List Opnd)
    (lat : Nat) (fixed : Bool) : Sig where
  ok     := predOk f neg p && ok && dst.1 && srcs.all (fun o => o.1)
  reads  := predRefs p ++ noP0 (srcs.flatMap (fun o => o.2))
  writes := noP0 dst.2
  lat    := lat
  fixed  := fixed

/-- Latency of an ALU form: 2 in form 11, else `l` (R56, R77). -/
def aluLat (f : Form) (l : Nat) : Nat := if f == .f11 then 2 else l

/-! ### Class 0 -/

def tyInt : List Nat := [0, 1, 2, 3, 10, 11]
def tyBits : List Nat := [0, 1, 2, 3]
def tyAny : List Nat := [0, 1, 2, 3, 4, 5, 6, 7, 8, 9, 10, 11]
def tyFloat : List Nat := [4, 5, 6]

/-- The mould of R177: destination, A and B (or the immediate), C unused. -/
def sigMould (B elt : Nat) (tys mods : List Nat) : Alu → Sig
  | .reg r =>
    let t := resolveTy elt r.ty
    let w := wide t
    mkSig r.form r.neg r.pred (tys.contains t && mods.contains r.mod.toNat)
      (gen B (isVec r.form) w r.dst.toNat)
      [gen B (aVec r.form) w r.a.toNat, gen B (bVec r.form) w r.b.toNat, zeroF r.c]
      (aluLat r.form 4) true
  | .imm i =>
    let t := resolveTy elt i.ty
    let w := wide t
    mkSig i.form i.neg i.pred (tys.contains t && mods.contains i.mod.toNat)
      (gen B (isVec i.form) w i.dst.toNat) [gen B (aVec i.form) w i.a.toNat]
      (aluLat i.form 4) true

/-- ICMP: as the mould, but a vector form names a predicate (R175, R180). -/
def sigIcmp (B elt : Nat) : Alu → Sig
  | .reg r =>
    let t := resolveTy elt r.ty
    let w := wide t
    mkSig r.form r.neg r.pred (tyInt.contains t && decide (r.mod.toNat ≤ 5))
      (if isVec r.form then prd r.dst.toNat else scas r.dst.toNat 1 1)
      [gen B (aVec r.form) w r.a.toNat, gen B (bVec r.form) w r.b.toNat, zeroF r.c]
      (aluLat r.form 4) true
  | .imm i =>
    let t := resolveTy elt i.ty
    mkSig i.form i.neg i.pred (tyInt.contains t && decide (i.mod.toNat ≤ 5))
      (if isVec i.form then prd i.dst.toNat else scas i.dst.toNat 1 1)
      [gen B (aVec i.form) (wide t) i.a.toNat] (aluLat i.form 4) true

/-- IBFE: the mould, with IMM22[21:16] zero (R184). -/
def sigIbfe (B elt : Nat) (o : Alu) : Sig :=
  let s := sigMould B elt tyBits [0] o
  match o with
  | .reg _ => s
  | .imm i => { s with ok := s.ok && i.imm.extractLsb' 16 6 == 0 }

/-- R format with the C operand chosen by the caller. -/
def sigR (B elt : Nat) (r : RFields) (tys mods : List Nat) (bo co : Opnd) (lat : Nat) : Sig :=
  let t := resolveTy elt r.ty
  let w := wide t
  mkSig r.form r.neg r.pred (tys.contains t && mods.contains r.mod.toNat)
    (gen B (isVec r.form) w r.dst.toNat) [gen B (aVec r.form) w r.a.toNat, bo, co] lat true

/-- RND codes (R68). -/
def rndOk : List Nat := [0, 1, 2, 3, 4, 5, 6]

def sigMovi (B elt : Nat) (x : WFields) : Sig :=
  let t := resolveTy elt x.ty
  let tys := if x.form == .f11 then [0, 1, 2, 3, 4] else [0, 1, 4]
  let d := gen B (isVec x.form) false x.dst.toNat
  mkSig x.form x.neg x.pred
    (tys.contains t && (!x.hi || (x.form == .f11 && (t == 2 || t == 3)))) d
    (if x.hi then [d] else []) (aluLat x.form 4) true

def sigPmov (r : RFields) : Sig :=
  let d := r.dst.toNat
  let a := r.a.toNat
  let (dst, src) : Opnd × Opnd := match r.mod.toNat with
    | 0 => (prd d, scas a 1 1)
    | 1 => (scas d 1 1, prd a)
    | 2 => (prd d, prd a)
    | _ => (prd d, zeroF r.a)
  mkSig r.form r.neg r.pred (r.ty == 0 && decide (r.mod.toNat ≤ 3)) dst
    [src, zeroF r.b, zeroF r.c] 2 true

/-- Floating point with A and B by form, B possibly unused (R192 to R196). -/
def sigFloat (B elt : Nat) (r : RFields) (tys mods : List Nat) (dst : Opnd) (useC : Bool) : Sig :=
  mkSig r.form r.neg r.pred (tys.contains (resolveTy elt r.ty) && mods.contains r.mod.toNat) dst
    [gen B (aVec r.form) false r.a.toNat, gen B (bVec r.form) false r.b.toNat,
      if useC then vecs B r.c.toNat 1 1 else zeroF r.c] 4 true

/-- One f32 source in A, one destination (R197, R198). -/
def sigUnary (B elt : Nat) (r : RFields) (mods : List Nat) (lat : Nat) : Sig :=
  mkSig r.form r.neg r.pred (resolveTy elt r.ty == 4 && mods.contains r.mod.toNat)
    (vecs B r.dst.toNat 1 1) [vecs B r.a.toNat 1 1, zeroF r.b, zeroF r.c] lat true

/-- The legal pairs of CVT (R200). -/
def cvtPair (src dst : Nat) : Bool :=
  (decide (src ≤ 4) && decide (dst ≤ 4) && src != dst) || (src == 5 && dst == 6) ||
  (src == 6 && dst == 5) || (src == 7 && dst == 8) || (src == 8 && dst == 7)

/-- A 64-bit TYPE makes every register field even, also that of a 32-bit operand (R69, log 81). -/
def evenField (x : BitVec 11) : Bool := x.toNat % 2 == 0

def sigCvt (B elt : Nat) (r : RFields) : Sig :=
  let src := resolveTy elt r.ty
  let dst := (r.b.extractLsb' 0 4).toNat
  mkSig r.form r.neg r.pred
    (cvtPair src dst && rndOk.contains r.mod.toNat && r.b.extractLsb' 4 7 == 0 &&
      (!wide src || evenField r.dst) && (!wide dst || evenField r.a))
    (gen B true (wide dst) r.dst.toNat) [gen B true (wide src) r.a.toNat, zeroF r.c] 8 true

/-- Elements per packed register (R153, R201). -/
def packElems (t : Nat) : Nat := if t == 9 then 8 else if t == 7 || t == 8 then 4 else 2

def sigPack (B elt : Nat) (r : RFields) (unpack : Bool) : Sig :=
  let t := resolveTy elt r.ty
  let e := packElems t
  let (de, se) := if unpack then (e, 1) else (1, e)
  mkSig r.form r.neg r.pred ([5, 6, 7, 8, 9].contains t && rndOk.contains r.mod.toNat)
    (vecs B r.dst.toNat de de) [vecs B r.a.toNat se se, zeroF r.b, zeroF r.c] 8 true

def sigCvtfx (B elt : Nat) (r : RFields) (toFx : Bool) : Sig :=
  let t := resolveTy elt r.ty
  let f := (r.b.extractLsb' 0 6).toNat
  mkSig r.form r.neg r.pred
    ((t == 11 || (t == 10 && decide (f ≤ 31))) && r.b.extractLsb' 6 5 == 0 &&
      rndOk.contains r.mod.toNat && (t != 11 || (evenField r.dst && evenField r.a)))
    (gen B true (toFx && t == 11) r.dst.toNat) [gen B true (!toFx && t == 11) r.a.toNat, zeroF r.c]
    8 true

def sigShfl (B elt : Nat) (r : RFields) : Sig :=
  let t := resolveTy elt r.ty
  let bo : Opnd := if r.form == .f00 then
    (let o := vecs B r.b.toNat 1 1; (o.1 && (!wide t || r.b.toNat % 2 == 0), o.2))
    else scas r.b.toNat 1 1
  sigR B elt r tyAny [0, 1, 2, 3] bo (zeroF r.c) 8

def vredTypes (m : Nat) : List Nat := if m ≤ 2 then [0, 1, 2, 3, 4, 10, 11] else [0, 1, 2, 3]

def sigVred (B elt : Nat) (r : RFields) (scan : Bool) : Sig :=
  let t := resolveTy elt r.ty
  let w := wide t
  mkSig r.form r.neg r.pred (decide (r.mod.toNat ≤ 5) && (vredTypes r.mod.toNat).contains t)
    (if scan then gen B true w r.dst.toNat else scas r.dst.toNat 1 1)
    [gen B true w r.a.toNat, zeroF r.b, if scan then rawF (decide (r.c.toNat ≤ 1)) else zeroF r.c]
    8 true

def sigVbal (B elt : Nat) (r : RFields) : Sig :=
  let t := resolveTy elt r.ty
  mkSig r.form r.neg r.pred (tyBits.contains t && decide (r.mod.toNat ≤ 1))
    (if r.mod == 0 then prd r.dst.toNat else scas r.dst.toNat 1 1)
    [gen B true (wide t) r.a.toNat, zeroF r.b, zeroF r.c] 8 true

def sigVbcast (B elt : Nat) (r : RFields) : Sig :=
  let t := resolveTy elt r.ty
  let w := wide t
  mkSig r.form r.neg r.pred (tyAny.contains t && decide (r.mod.toNat ≤ 1))
    (if r.mod == 0 then gen B true w r.dst.toNat else scas r.dst.toNat 1 1)
    [gen B true w r.a.toNat, if r.form == .f00 then zeroF r.b else scas r.b.toNat 1 1, zeroF r.c]
    8 true

def sigVmatch (B elt : Nat) (r : RFields) : Sig :=
  let t := resolveTy elt r.ty
  mkSig r.form r.neg r.pred (tyAny.contains t && r.mod == 0) (vecs B r.dst.toNat 2 2)
    [gen B true (wide t) r.a.toNat, zeroF r.b, zeroF r.c] 8 true

/-! ### Control block (R82, R118 to R126) -/

def sigBra (b : BFields) : Sig :=
  mkSig b.form b.neg b.pred (decide (b.kind.toNat ≤ 2) && (b.kind == 0 || b.joff == 0))
    (rawF true) [] 0 true

def sigCall (B : Nat) (b : BFields) : Sig :=
  mkSig b.form b.neg b.pred (b.kind == 0 && b.joff == 0) (vecs B 2046 2 2) [] 4 true

/-- BRX and CALLX; the predicate is p0 with NEG 0 (R121). -/
def sigBrx (B : Nat) (x : XFields) (call : Bool) : Sig :=
  mkSig x.form x.neg x.pred (!x.neg && x.pred == 0 && (x.form == .f00 || x.joff == 0))
    (if call then vecs B 2046 2 2 else rawF true)
    [if x.form == .f00 then vecs B x.treg.toNat 2 2 else scas x.treg.toNat 1 1]
    (if call then 4 else 0) true

def sigRet (B : Nat) (x : XFields) : Sig :=
  mkSig x.form x.neg x.pred (!x.neg && x.pred == 0 && x.tag == 0 && x.joff == 0) (rawF true)
    [vecs B x.treg.toNat 2 2] 0 true

def sigLpad (x : XFields) : Sig :=
  mkSig x.form x.neg x.pred (x.treg == 0 && x.joff == 0) (rawF true) [] 0 true

def sigExit (b : BFields) : Sig :=
  mkSig b.form b.neg b.pred (b.kind == 0 && b.toff == 0 && b.joff == 0) (rawF true) [] 0 true

def sigNone : Sig := ⟨true, [], [], 0, true⟩

/-! ### Class 1 (R229 to R231, R238) -/

/-- The data operand of 2^size bytes (R231). -/
def mData (B : Nat) (f : Form) (n size : Nat) : Opnd :=
  let k := if isVec f then max 1 (2 ^ size / 4) else max 1 (2 ^ size / 8)
  if isVec f then vecs B n k k else scas n k k

def mAddr (B : Nat) (x : MFields) : Opnd :=
  if x.form == .f00 then vecs B x.addr.toNat 1 1 else scas x.addr.toNat 1 1
def mBase (x : MFields) : Opnd := scas x.sbase.toNat 1 1

def mSig (x : MFields) (ok : Bool) (dst : Opnd) (srcs : List Opnd) : Sig :=
  mkSig x.form x.neg x.pred ok dst srcs 0 false

/-- ORDER and SCOPE of LD, ST and PFL (R230), relaxed-atomic sizes (R233). -/
def ldstOk (x : MFields) (orders : List Nat) : Bool :=
  orders.contains x.order.toNat && decide (x.size.toNat ≤ 5) &&
  (if [0, 5, 6].contains x.order.toNat then x.scope == 0 else decide (x.scope.toNat ≤ 5)) &&
  (x.order.toNat != 4 || x.size.toNat == 2 || x.size.toNat == 3)

def sigLd (B : Nat) (x : MFields) : Sig :=
  mSig x (ldstOk x [0, 1, 4, 5, 6]) (mData B x.form x.data.toNat x.size.toNat) [mAddr B x, mBase x]
def sigSt (B : Nat) (x : MFields) : Sig :=
  mSig x (ldstOk x [0, 2, 4, 5, 6]) (rawF true)
    [mData B x.form x.data.toNat x.size.toNat, mAddr B x, mBase x]
def sigPfl (B : Nat) (x : MFields) : Sig :=
  mSig x ([0, 5, 6].contains x.order.toNat && decide (x.size.toNat ≤ 5) &&
    (x.scope == 0 || x.scope == 2)) (rawF true) [zeroF x.data, mAddr B x, mBase x]

def atomOrderOk (x : MFields) : Bool :=
  [1, 2, 3, 4].contains x.order.toNat && decide (x.scope.toNat ≤ 5)

def sigAtom (B : Nat) (x : MFields) : Sig :=
  let d := mData B x.form x.data.toNat x.size.toNat
  mSig x (atomOrderOk x && (x.size == 2 || x.size == 3)) d [d, mAddr B x, mBase x]

/-- The registers of a CAS: compare then new value (R238). -/
def casData (B : Nat) (x : MFields) : Opnd × Opnd :=
  let n := x.data.toNat
  if isVec x.form then
    let k := 2 ^ x.size.toNat / 4
    (vecs B n (2 * k) (2 * k), vecs B n k k)
  else
    let k := max 1 (2 ^ x.size.toNat / 8)
    (scas n (2 * k) (2 * k), scas n k k)

def sigCas (B : Nat) (x : MFields) (sizes : List Nat) : Sig :=
  let d := casData B x
  mSig x (atomOrderOk x && sizes.contains x.size.toNat) d.2 [d.1, mAddr B x, mBase x]

def sigFence (x : MFields) : Sig :=
  mSig x ([1, 2, 3].contains x.order.toNat && x.off == 0 && x.size == 0 &&
    decide (x.scope.toNat ≤ 5) && x.sbase == 0) (rawF true) [zeroF x.data, zeroF x.addr]
def sigAcqr (x : MFields) : Sig :=
  mSig x (x.order == 1 && x.off == 0 && x.size == 0 && x.scope == 3) (rawF true)
    [zeroF x.data, zeroF x.addr, mBase x]
def sigStmap (x : MFields) : Sig :=
  mSig x (x.order == 0 && x.off == 0 && x.size == 4 && x.scope == 0) (rawF true)
    [scas x.data.toNat 2 2, scas x.addr.toNat 1 1, mBase x]
def sigStwb (x : MFields) : Sig :=
  mSig x (x.order == 0 && x.off == 0 && x.size == 0 && decide (1 ≤ x.scope.toNat) &&
    decide (x.scope.toNat ≤ 5)) (rawF true) [zeroF x.data, zeroF x.addr, mBase x]

/-! ### Classes 2 to 4 -/

def sigTxf (B : Nat) (x : FFields) : Sig :=
  let vec := x.form == .f00
  let w := x.ty == 11
  let reg (n : Nat) : Opnd := if vec then vecs B n 1 (if w then 2 else 1) else scas n 1 1
  let amt : Opnd := gen B vec w x.amt.toNat
  mkSig x.form x.neg x.pred (decide (x.mod.toNat ≤ 2) && (x.ty == 10 || x.ty == 11))
    (if x.mod == 2 then rawF true else amt)
    [reg x.fromR.toNat, reg x.toR.toNat, amt, scas x.handle.toNat 1 1] 0 false

/-- Format Q: destination, source scalars, and a condition. -/
def qSig (x : QFields) (ok : Bool) (dst : Opnd) (srcs : List Opnd) : Sig :=
  mkSig x.form x.neg x.pred ok dst srcs 0 false
def qa (x : QFields) : Opnd := scas x.sa.toNat 1 1
def qb (x : QFields) : Opnd := scas x.sb.toNat 1 1

def sigFtot (x : QFields) : Sig :=
  qSig x (x.sa == 0 && x.obj == 0 && decide (x.imm.toNat < 1024)) (scas x.sb.toNat 7 8) []
def scopeImm (x : QFields) : Bool := decide (1 ≤ x.imm.toNat) && decide (x.imm.toNat ≤ 5)
def sigFfence (x : QFields) : Sig :=
  qSig x (x.sa == 0 && x.sb == 0 && x.obj == 0 && scopeImm x) (rawF true) []
def sigFstat (x : QFields) : Sig :=
  qSig x (x.sa == 0 && x.obj == 0 && x.imm == 0) (scas x.sb.toNat 8 8) []
def sigFdef (x : QFields) : Sig := qSig x (x.obj == 0 && x.imm == 0) (qb x) [qa x]
def sigFbnd (x : QFields) : Sig :=
  qSig x (x.obj == 0 && decide (x.imm.toNat < 512)) (qb x) [qa x]

def sigBara (x : QFields) : Sig := qSig x (x.sa == 0 && x.imm != 0) (qb x) []
def sigBarx (x : QFields) : Sig := qSig x (x.sa == 0 && x.sb == 0 && x.imm != 0) (rawF true) []
def sigBarw (x : QFields) : Sig := qSig x (x.sb == 0 && x.imm == 0) (rawF true) [qa x]
def tbOk (x : QFields) : Bool := decide (x.obj.toNat ≤ 15) && x.imm == 0
def sigTbar (x : QFields) : Sig := qSig x (tbOk x && x.sa == 0 && x.sb == 0) (rawF true) []
def sigTbarArr (x : QFields) : Sig := qSig x (tbOk x && x.sa == 0) (qb x) []
def sigTbarWait (x : QFields) : Sig := qSig x (tbOk x && x.sb == 0) (rawF true) [qa x]
def sigKick (x : QFields) : Sig :=
  qSig x (x.sb == 0 && x.obj == 0 && decide (1 ≤ x.imm.toNat) && decide (x.imm.toNat ≤ 256))
    (rawF true) [qa x]
def sigCpwait (x : QFields) : Sig :=
  qSig x (x.sb == 0 && x.obj == 0 && scopeImm x) (rawF true) [qa x]
def sigYieldc (x : QFields) : Sig := qSig x (x.obj == 0 && scopeImm x) (rawF true) [qa x, qb x]
def sigPfb (x : QFields) : Sig := qSig x (x.obj == 0 && x.imm != 0) (rawF true) [qa x, qb x]
def sigQueue (x : QFields) : Sig :=
  qSig x (decide (x.obj.toNat ≤ 1023) && decide (x.imm.toNat ≤ 1)) (qb x) [qa x]
def sigLaunchPerLane (B : Nat) (x : QFields) : Sig :=
  qSig x (decide (x.obj.toNat ≤ 1023) && x.imm == 0) (rawF true) [qa x, vecs B x.sb.toNat 2 2]

/-- No unassigned value in an FMT (R166). -/
def fmtOk (f : Word32) : Bool :=
  fld f 31 26 == 0 && fld f 11 4 == 0 && decide (fld f 25 24 ≤ 1) &&
  (fld f 23 20 == 0 || fld f 23 20 == 4) && decide (5 ≤ fld f 19 16) && decide (fld f 19 16 ≤ 9) &&
  decide (5 ≤ fld f 15 12) && decide (fld f 15 12 ≤ 9) && decide (fld f 3 0 ≤ 11)

def sigSetfmt (x : WFields) (check : Bool) : Sig :=
  mkSig x.form x.neg x.pred (x.dst == 0 && !x.hi && x.ty == 0 && (!check || fmtOk x.imm))
    (rawF true) [] 0 true

/-- SRD: LANEID and FADDR in form 00, the others in form 11 (R128, R129). -/
def sigSrd (B : Nat) (r : RFields) : Sig :=
  let n := r.a.toNat
  let vec := n == 0 || n == 11
  mkSig r.form r.neg r.pred
    (r.mod == 0 && r.b == 0 && r.c == 0 && r.ty == 0 && decide (n ≤ 16) &&
      (r.form == .f00) == vec)
    (if vec then (if n == 11 then vecs B r.dst.toNat 2 2 else vecs B r.dst.toNat 1 1)
      else scas r.dst.toNat 1 1) [] (if vec then 4 else 2) true

def sigSwr (r : RFields) : Sig :=
  mkSig r.form r.neg r.pred
    (r.mod == 0 && r.b == 0 && r.c == 0 && r.ty == 0 && [6, 7, 14, 15, 16].contains r.dst.toNat)
    (rawF true) [scas r.a.toNat 1 1] 0 true

/-- The trap and context register numbers of R143 and R221. -/
def csrOk (n : Nat) : Bool := decide (n ≤ 11) || (decide (16 ≤ n) && decide (n ≤ 20))
def sigCsrr (x : QFields) : Sig := qSig x (x.sb == 0 && x.imm == 0 && csrOk x.obj.toNat) (qa x) []
def sigCsrw (x : QFields) : Sig :=
  qSig x (x.sb == 0 && x.imm == 0 && csrOk x.obj.toNat) (rawF true) [qa x]
def sigTrap (x : QFields) : Sig := qSig x (x.sb == 0 && x.obj == 0) (rawF true) [qa x]
def sigZeroQ (x : QFields) : Sig :=
  qSig x (x.sa == 0 && x.sb == 0 && x.obj == 0 && x.imm == 0) (rawF true) []
def sigMappg (x : QFields) (immMax : Nat) : Sig :=
  qSig x (x.obj == 0 && decide (x.imm.toNat ≤ immMax)) (qb x) [qa x]
def sigInvlp (x : QFields) (pg : Bool) : Sig :=
  qSig x (x.sb == 0 && x.obj == 0 && decide (x.imm.toNat ≤ 1) && (pg || x.sa == 0)) (rawF true)
    (if pg then [qa x] else [])
def sigQdig (x : QFields) : Sig :=
  qSig x (x.sa == 0 && x.obj == 0 && x.imm == 0) (scas x.sb.toNat 4 4) []

/-! ### Class 5 (R301 to R308); a stream's registers are checked when the instruction runs -/

/-- MFMT's fields (R302). -/
def mfmtOk (ma mb mc scl : Nat) : Bool :=
  decide (5 ≤ ma) && decide (ma ≤ 9) && decide (5 ≤ mb) && decide (mb ≤ 9) &&
  (mc == 0 || mc == 4) && decide (scl ≤ 1)

def mxOk (ok : Bool) : Sig := ⟨ok, [], [], 0, false⟩
def sigMma (x : MXFields) : Sig :=
  let t (c : BitVec 4) : Bool := c == 15 || (decide (5 ≤ c.toNat) && decide (c.toNat ≤ 9))
  mxOk (decide (x.mod.toNat ≤ 1) && t x.ta && t x.tb)
def sigMzero (x : MXFields) : Sig :=
  mxOk (x.mod == 0 && x.ta == 0 && x.tb == 0 && x.num == 0 && x.imm == 0)
def sigMstc (x : MXFields) : Sig :=
  mxOk (decide (x.mod.toNat ≤ 5) && [0, 4, 5, 6, 7, 8].contains x.ta.toNat && x.tb == 0 &&
    x.num == 0)
def mxPlain (x : MXFields) : Bool := x.mod == 0 && !x.acc && x.ta == 0 && x.tb == 0
def sigMwait (x : MXFields) : Sig := mxOk (mxPlain x && x.imm == 0)
def sigMarr (x : MXFields) : Sig := mxOk (mxPlain x && x.imm != 0 && decide (x.imm.toNat ≤ 4095))
def sigMloop (x : MXFields) : Sig := mxOk (mxPlain x && x.imm != 0)
def sigMbr (x : MXFields) : Sig :=
  mxOk (decide (x.mod.toNat ≤ 1) && !x.acc && x.ta == 0 && x.tb == 0 && x.num == 0)
def sigMend (x : MXFields) : Sig := mxOk (mxPlain x && x.num == 0 && x.imm == 0)
def sigMsetf (x : MXFields) : Sig :=
  mxOk (decide (x.mod.toNat ≤ 3) && !x.acc && x.ta == 0 && x.tb == 0 && x.num == 0 &&
    (if x.mod.getLsbD 1 then x.imm == 0
     else fld x.imm 19 14 == 0 &&
       mfmtOk (fld x.imm 3 0) (fld x.imm 7 4) (fld x.imm 11 8) (fld x.imm 13 12)))

/-! ### Every instruction -/

/-- The signature of an instruction word under budget B and FMT.ELT. A device step names nothing. -/
def sigOf (B elt : Nat) (i : Instr) : Sig :=
  match i with
  | .iadd o | .isub o | .imin o | .imax o => sigMould B elt tyInt [0] o
  | .imul o | .iand o | .ior o | .ixor o => sigMould B elt tyBits [0] o
  | .iadds o => sigMould B elt tyInt [0, 1] o
  | .ishl o | .ishr o => sigMould B elt tyBits [0, 1] o
  | .icmp o => sigIcmp B elt o
  | .ibfe o => sigIbfe B elt o
  | .imulh r => sigMould B elt tyBits [0] (.reg r)
  | .imad r | .ibfi r =>
    let w := wide (resolveTy elt r.ty)
    sigR B elt r tyBits [0] (gen B (bVec r.form) w r.b.toNat)
      (gen B (isVec r.form) w r.c.toNat) (aluLat r.form 4)
  | .isel r =>
    let w := wide (resolveTy elt r.ty)
    sigR B elt r tyAny [0] (gen B (bVec r.form) w r.b.toNat)
      (if isVec r.form then prd r.c.toNat else scas r.c.toNat 1 1) (aluLat r.form 4)
  | .mov r => sigR B elt r tyAny [0] (zeroF r.b) (zeroF r.c) (aluLat r.form 4)
  | .movi x => sigMovi B elt x
  | .iclz r | .ipopc r => sigR B elt r tyBits [0] (zeroF r.b) (zeroF r.c) (aluLat r.form 4)
  | .plop r =>
    mkSig r.form r.neg r.pred (resolveTy elt r.ty == 0) (prd r.dst.toNat)
      [prd r.a.toNat, prd r.b.toNat, zeroF r.c] 2 true
  | .pmov r => sigPmov { r with ty := if resolveTy elt r.ty = 0 then 0 else 1 }
  | .pcnt r =>
    mkSig r.form r.neg r.pred (resolveTy elt r.ty == 0 && decide (r.mod.toNat ≤ 3))
      (scas r.dst.toNat 1 1) [prd r.a.toNat, zeroF r.b, zeroF r.c] 2 true
  | .fadd r | .fsub r | .fmul r => sigFloat B elt r tyFloat rndOk (vecs B r.dst.toNat 1 1) false
  | .ffma r => sigFloat B elt r tyFloat rndOk (vecs B r.dst.toNat 1 1) true
  | .fmin r | .fmax r => sigFloat B elt r tyFloat [0] (vecs B r.dst.toNat 1 1) false
  | .fcmp r => sigFloat B elt r [4] [0, 1, 2, 3, 4, 5, 6] (prd r.dst.toNat) false
  | .fclass r => sigUnary B elt r [0] 4
  | .frcp r | .fsqrt r => sigUnary B elt r rndOk 8
  | .frsq r | .fexp2 r | .flog2 r | .fsin r | .fcos r => sigUnary B elt r [0] 8
  | .cvt r => sigCvt B elt r
  | .cvtfx r => sigCvtfx B elt r true
  | .cvtxf r => sigCvtfx B elt r false
  | .pack r => sigPack B elt r false
  | .unpack r => sigPack B elt r true
  | .shfl r => sigShfl B elt r
  | .vred r => sigVred B elt r false
  | .vscan r => sigVred B elt r true
  | .vbal r => sigVbal B elt r
  | .vbcast r => sigVbcast B elt r
  | .vmatch r => sigVmatch B elt r
  | .yield | .nop => sigNone
  | .bra b => sigBra b
  | .call b => sigCall B b
  | .brx x => sigBrx B x false
  | .callx x => sigBrx B x true
  | .ret x => sigRet B x
  | .lpad x => sigLpad x
  | .exit b => sigExit b
  | .ld m => sigLd B m
  | .st m => sigSt B m
  | .cas m => sigCas B m [2, 3]
  | .cas128 m => sigCas B m [4]
  | .fence m => sigFence m
  | .acqr m => sigAcqr m
  | .stmap m => sigStmap m
  | .stunmap m | .stwb m => sigStwb m
  | .pfl m => sigPfl B m
  | .atom _ m | .atomt _ m => sigAtom B m
  | .txf f => sigTxf B f
  | .ftot q => sigFtot q
  | .ffence q => sigFfence q
  | .fstat q => sigFstat q
  | .fdef q | .fdefDrop q => sigFdef q
  | .fbnd q => sigFbnd q
  | .bara q => sigBara q
  | .baraInit q | .barx q => sigBarx q
  | .barw q => sigBarw q
  | .tbar q => sigTbar q
  | .tbarArr q => sigTbarArr q
  | .tbarWait q => sigTbarWait q
  | .kick q => sigKick q
  | .cpwait q => sigCpwait q
  | .yieldc q => sigYieldc q
  | .pfb q => sigPfb q
  | .enq q | .deq q | .launch q => sigQueue q
  | .launchPerLane q => sigLaunchPerLane B q
  | .setfmt x => sigSetfmt x true
  | .setmode x => sigSetfmt x false
  | .srd r => sigSrd B r
  | .swr r => sigSwr r
  | .csrr q => sigCsrr q
  | .csrw q => sigCsrw q
  | .trap q => sigTrap q
  | .rte q | .rteSkip q | .park q | .qend q => sigZeroQ q
  | .mappgFt q => sigMappg q 31
  | .mappgRep q | .mappgCol q => sigMappg q 0
  | .fqpost q => sigMappg q 0
  | .invlpPg q => sigInvlp q true
  | .invlpCtx q => sigInvlp q false
  | .qdig q => sigQdig q
  | .mma x => sigMma x
  | .mzero x => sigMzero x
  | .mstc x => sigMstc x
  | .mwait x => sigMwait x
  | .marr x => sigMarr x
  | .mloop x => sigMloop x
  | .mbr x => sigMbr x
  | .mend x => sigMend x
  | .msetf x => sigMsetf x
  | .clauseFetch _ _ | .clauseStart _ | .resultWrite _ | .registerFill _ _ _ | .variableResultArrival _ _ _
  | .storeComplete _ _ | .transferResolve _ _ | .predictionRepair _ | .spillPop _ | .yieldBarLift _
  | .trapEntry _ | .preemptionRequest _ | .preemptionBound _ | .quiescence _ | .teamRestore _ _
  | .groupRetire _ | .teamRetire _ | .digestChain _ | .dispatchHead | .rangeSteal _ _
  | .teamPlacement _ | .concurrentPlacement _ _ | .preemptDecision _ | .barrierWaitComplete _ _ | .teamBarrierPhaseEnd _ _
  | .cpwaitComplete _ _ | .yieldcReactivate _ _ | .deqWaiterComplete _ | .enqRoomComplete _ | .fqpostComplete _
  | .groupResume _ | .stashFill _ _ _ | .stashLazyWriteback _ _ _ | .recordAccept _ | .pieceCountdown _ _
  | .pfbFrameArrive _ _ | .txfPairApply _ | .txfReturn _ | .txfComplete _ _ | .streamClauseFetch _ _
  | .matrixStreamTrap _ _ | .matrixTrapDelivery _ | .quantumCommit _ | .contextTermination _ | .enqueuePortWrite _ _
  | .fqdb _ _ | .hostInvalidation _ | .pctx _ | .contextValidWrite _ _ | .queueEnable _ _
  | .queueDisable _ _ | .meridianEnable | .registerWrite _ _ | .mailboxSelfTest | .mailboxPublicKey
  | .mailboxSignChain | .mailboxInstallKey _ | .mailboxPowerLimit | .mailboxErrorCounts | .mailboxPowerState
  | .mailboxBadCommand | .linkTraining _ | .hostMemRequest _ _ | .backInvalidationResponse _ _ | .hostSnoop _ _
  | .atomicopCompletion _ _ | .hostErrorCompletion _ _ | .meridianFrame | .reservationRecord _ _ | .meridianUnit _
  | .idleFlit _ _ | .requestFlit _ _ | .readDataFlit _ _ | .writeDataFlit _ _ | .completionFlit _ _
  | .keyRetire _ _ | .replayRequest _ _ | .dropNotice _ _ | .reservationRequest _ _ | .reservationGrant _ _
  | .activeSetAnnouncement _ _ | .activeSetEcho _ _ | .wavelengthRequest _ _ | .replayTimeout _ | .announcementRepeat _
  | .berWindow _ _ _ | .lossOfLight _ | .lightRestored _ | .portDown _ | .reset _
  | .unitStart _ | .powerMeasurement _ | .unreach | .softErrorCorrected | .machineCheck _
  | .meridianDisable | .portModeWrite _ _ | .portTrained _ _ | .spdmMessage _ | .flitCrcFailure _ _
  | .reservationWindowStart _ _ => ⟨true, [], [], 0, false⟩

/-- Privileged instructions (R75). -/
def privileged (i : Instr) : Bool :=
  match i with
  | .rte _ | .rteSkip _ | .csrr _ | .csrw _ | .mappgFt _ | .mappgRep _ | .mappgCol _ | .fqpost _
  | .park _ | .invlpPg _ | .invlpCtx _ => true
  | _ => false

/-- Control transfers (R51). -/
def isTransfer (i : Instr) : Bool :=
  match i with
  | .bra _ | .brx _ | .call _ | .callx _ | .ret _ | .exit _ => true
  | _ => false

/-- Instructions that stand only last in their clause (R51, R76, R227, R363). -/
def lastOnly (i : Instr) : Bool :=
  isTransfer i || match i with
  | .rte _ | .rteSkip _ | .park _ | .qend _ | .yieldc _ | .mbr _ | .mend _ => true
  | _ => false

def isLpad (i : Instr) : Bool :=
  match i with
  | .lpad _ => true
  | _ => false

/-- The set flag that a counted unit selects (R52): `some false` A, `some true` B, none for an
instruction of a counted ALU or SYS clause. -/
def flagSel (i : Instr) : Option Bool :=
  match i with
  | .ld m | .st m | .cas m | .cas128 m | .fence m | .acqr m | .stmap m | .stunmap m | .stwb m
  | .pfl m | .atom _ m | .atomt _ m => some m.fsel
  | .txf _ | .ftot _ | .ffence _ | .fstat _ | .fdef _ | .fdefDrop _ | .fbnd _ => some false
  | .bara q | .baraInit q | .barw q | .barx q | .tbar q | .tbarArr q | .tbarWait q | .kick q
  | .cpwait q | .yieldc q | .pfb q | .enq q | .deq q | .launch q | .launchPerLane q | .csrr q
  | .csrw q | .trap q | .rte q | .rteSkip q | .mappgFt q | .mappgRep q | .mappgCol q | .fqpost q
  | .park q | .invlpPg q | .invlpCtx q | .qdig q | .qend q => some q.fsel
  | _ => none

end Sys2Proof.Machine
end

