-- ==== Sys2Proof/Machine/State.lean ====
section
/-!
DEFINITION. The state of the AVM-960 as plain data, the reasons a step can stop, and the state after
reset. The rule that names each piece stands beside it. Fields of the model's own (not the spec's)
are marked MODEL.
-/
namespace Sys2Proof.Machine

/-- Why the machine stops. -/
inductive Fault where
  /-- Raised by a table walk, a ring, a pool or a record whose physical address R211 says does not
  exist ("No other physical address exists"). Safe: the machine of the spec has no such byte. -/
  | absentAddress (pa : Nat)
  deriving DecidableEq, Repr

/-- Why an instruction has no meaning. -/
inductive Refusal where
  /-- Raised by an arm of `exec` that has no meaning yet. Safe. -/
  | notModelled (mnemonic : String)
  deriving DecidableEq, Repr

/-! ### Registers of a group -/

/-- FMT after reset (R166). -/
def fmtReset : Word32 := 0x01477004#32
/-- MODE after reset (R164). -/
def modeReset : BitVec 16 := 0x0001#16
/-- The join of a slot that joins nowhere (R114). -/
def noJoin : Word64 := 0xFFFFFFFFFFFFFFFF#64
/-- MFMT after reset (R298). -/
def mfmtReset : BitVec 16 := 0x1477#16

/-- A mask-predictor entry (R130). -/
structure PredEntry where
  v    : Bool := false
  tag  : BitVec 16 := 0
  mask : Mask := 0
  conf : BitVec 2 := 0
  deriving DecidableEq, Repr

/-- A fetched and checked clause in its buffer (R104), with the predictor lookup made at its fetch
(R130): `lookup` holds MASK and CONF when the entry matched. -/
structure ClauseBuf where
  addr   : Word64
  header : Word64
  words  : List Word64
  lookup : Option (Mask × BitVec 2) := none
  elt    : Nat := 4                    -- FMT.ELT under which it was checked (R58, R166)
  deriving DecidableEq, Repr

/-- A clause that a PC slot has in a clause slot (R101). `idx` is the next instruction, `count` how
many instructions it issues in all, `readyAt` the cycle from which the next may issue (R55). -/
structure Running where
  cslot    : Nat
  clause   : ClauseBuf
  idx      : Nat
  count    : Nat
  readyAt  : Nat
  startAt  : Nat
  clauseId : Nat
  aluFlag  : Option Nat := none
  replay   : Bool := false
  sync     : Bool := false             -- in a deterministic grid: it holds a synchronising operation (R358)
  deriving DecidableEq, Repr

/-- The transfers of the control block that split a slot (R115 to R122). -/
inductive TransferKind where
  | bra | call | brx | callx | ret
  deriving DecidableEq, Repr

/-- A transfer issued and not yet resolved (R120). -/
structure Transfer where
  kind     : TransferKind
  taken    : Mask
  target   : Word64
  fall     : Word64
  join     : Word64
  clauseAt : Word64
  wordAt   : Word64
  idx      : Nat
  issueAt  : Nat
  readyAt  : Nat
  tag      : BitVec 8 := 0
  looked   : Bool := false             -- the predictor is to be updated (R131)
  clauseId : Nat := 0
  deriving DecidableEq, Repr

/-- A clause to be replayed after a prediction (R133): its address and how many of its instructions
had issued. -/
structure Replay where
  clause : ClauseBuf
  first  : Nat                         -- index of its first issued instruction
  count  : Nat                         -- index after its last issued instruction
  nums   : List Nat := []              -- MODEL: the numbers its instructions had at their first issue
  deriving DecidableEq, Repr

/-- A speculative half (R131 to R133). `retired` counts its issued instructions. -/
structure Half where
  slot    : Nat
  ph      : Mask
  startPc : Word64
  clauses : List Replay := []          -- newest first
  shadows : List (Nat × Line) := []
  sticky  : List (Nat × BitVec 16) := []
  raised  : BitVec 16 := 0             -- MODE bits that a half under replay alone has set (R165, log 28)
  atJoin  : Bool := false
  halted  : Bool := false
  retired : Nat := 0
  deriving DecidableEq, Repr

/-- A PC slot (R29). It is empty when its mask is zero. -/
structure Slot where
  pc       : Word64 := 0
  mask     : Mask := 0
  fmt      : Word32 := fmtReset
  join     : Word64 := noJoin
  resting  : Bool := false
  stamp    : Nat := 0
  clause   : Option ClauseBuf := none
  resumeIdx : Nat := 0                 -- instruction to go on from (R141, R145)
  eligFrom : Nat := 0                  -- first cycle in which it may start a clause
  held     : Bool := false             -- R139 step 1: starts nothing until RTE
  running  : Option Running := none
  transfer : Option Transfer := none
  yieldc   : Option Nat := none          -- operation number of the YIELDC it waits on (R327)
  blocked  : Bool := false               -- an FFENCE of this slot waits (R284)
  replays  : List Replay := []
  finalMask  : Mask := 0
  redo     : Option Half := none         -- the half being replayed (log 28)
  deriving DecidableEq, Repr

/-- A spill entry (R30). -/
structure SpillEntry where
  pc      : Word64
  mask    : Mask
  join    : Word64
  fmt     : Word32
  brxrest : Bool
  idx      : Nat := 0                  -- MODEL: what the slot still had to do (log 24)
  transfer : Option Transfer := none
  yieldc   : Option Nat := none
  held     : Bool := false
  deriving DecidableEq, Repr

/-- A register update: the lanes of a vector register, a scalar, or bits of a predicate. -/
inductive RegUpd where
  | vec  (reg : Nat) (lanes : Mask) (line : Line)
  | sca  (reg : Nat) (value : Word64)
  | pred (reg : Nat) (lanes : Mask) (bits : Mask)
  deriving DecidableEq, Repr

/-- A fixed-latency result not yet written (R56, R190). It can be read from cycle `due` on. `sticky`
holds the MODE bits each lane raises (R165). -/
structure Pending where
  due      : Nat
  issueAt  : Nat
  startAt  : Nat
  seq      : Nat
  clauseId : Nat
  slot     : Nat
  half     : Bool
  sup      : Bool := false               -- issued in supervisor mode: its bank (R139)
  upds     : List RegUpd
  sticky   : List (Nat × BitVec 16)
  deriving DecidableEq, Repr

/-- A counted ALU or SYS clause (R52): its flag, and whether its last instruction has issued. -/
structure ClauseCount where
  clauseId : Nat
  flag     : Nat
  ended    : Bool
  deriving DecidableEq, Repr

/-! ### Addresses and operations -/

/-- Where a byte is: physical memory, or a slot of a team's stash (R215). -/
inductive Loc where
  | phys  (pa : Nat)
  | stash (team slot off : Nat)
  deriving DecidableEq, Repr

/-- One lane's access: its lane, virtual address and place. -/
structure LaneAcc where
  lane : Nat
  va   : Word64
  loc  : Loc
  deriving DecidableEq, Repr

/-- ORDER codes of the memory instructions (R70, R229). -/
inductive Order where
  | plain | acq | rel | acqRel | rlx | evictFirst | evictLast
  deriving DecidableEq, Repr

/-- SCOPE codes (R70). -/
inductive Scope where
  | group | team | die | device | constellation | system
  deriving DecidableEq, Repr

/-- What an atomic does: one of ATOM's seven, or a compare-and-swap. -/
inductive AtomicKind where
  | rmw (op : AtomicOp)
  | cas
  deriving DecidableEq, Repr

/-- One lane of an atomic: its access and its operands (compare and new for a CAS). -/
structure AtomicLane where
  acc : LaneAcc
  cmp : BitVec 128
  val : BitVec 128
  deriving DecidableEq, Repr

/-- A decoded request record (R316) or a range to prefetch. -/
structure CopyRec where
  kind    : Nat              -- 0 copy, 1 two-dimensional, 2 fill, 3 multicast
  scope   : Scope
  src     : Word64
  mask    : BitVec 8
  dst     : Word64
  bobj    : Loc
  bytes   : Nat
  rows    : Nat
  rowb    : Nat              -- bytes
  sstr    : Int              -- bytes
  dstr    : Int              -- bytes
  deriving DecidableEq, Repr

/-- A TXF at issue: the lanes that form pairs and the lanes already decided (R279). -/
structure TxfState where
  wordAt   : Word64
  fld      : Nat
  amtReg   : Nat
  form11   : Bool
  wide     : Bool
  open_    : List Nat                  -- lanes whose outcome is not known yet
  writes   : List (Nat × Word64)       -- limit mode: lane and final amount
  refused  : List (Nat × Nat)          -- lane and reason
  deriving DecidableEq, Repr

/-- An effect that waits until the group's earlier accesses are performed (R242, R243, R246, R251,
R252, R350). -/
inductive AfterAct where
  | fence (order : Order) (scope : Scope)
  | acqr  (victim : Nat)
  | stwb  (slot off : Nat) (scope : Scope) (drop : Bool)
  | bara  (core bar w sb : Nat)
  | barx  (core bar w : Nat)
  | tbar  (tb : Nat) (token : Option Nat)  -- TBAR, or TBAR.ARR with its token register
  | enq   (queue sb : Nat) (nowait : Bool) (src : Loc)
  | deq   (queue sb : Nat) (nowait : Bool) (dst : LaneAcc)
  | launch (queue sb : Nat) (nowait : Bool) (recAt : Word64)
  | launchLanes (queue : Nat) (recAt : Word64) (args : List Word64)
  | invlp (page : Option Word64) (cst : Bool)
  deriving DecidableEq, Repr

/-- A variable-latency or waiting operation (R52, R147). -/
inductive OpKind where
  | load (order : Order) (scope : Scope) (bytes data : Nat) (form11 : Bool) (accs : List LaneAcc)
      (left : List Nat)
  | store (order : Order) (scope : Scope) (bytes : Nat) (accs : List (LaneAcc × List Byte))
  | atomic (k : AtomicKind) (order : Order) (scope : Scope) (bytes data : Nat) (form11 tree : Bool)
      (lanes : List AtomicLane)
  | barw (core bar : Nat) (token : Bool)
  | barx (core bar : Nat) (phase : Bool)
  | tbar (tb : Nat) (ends : Nat)         -- phase ends still to come, at least 1
  | cpwait (obj : LaneAcc) (scope : Scope) (bare : Bool)  -- `bare`: of a YIELDC whose slot has emptied (R327)
  | yieldc (obj : LaneAcc) (scope : Scope)
  | kick (records : List CopyRec)
  | enq (queue sb : Nat) (entry : List Byte)
  | deq (queue sb : Nat) (dst : LaneAcc) (got : Option (BitVec 48 × List Byte × BitVec 48))
    -- `got`: serial, bytes and LCLK of the entry that it takes after its team's restore (R48, R348)
  | launch (queue : Nat) (sb : Option Nat) (entries : List (List Byte))
  | txf (t : TxfState)
  | ffence (scope : Scope)
  | fqpost (sb : Nat) (word : BitVec 16) (mine : Bool)   -- `mine`: of the current handler activation (R227)
  | park
  | fdrop (handle : Word64) (sb : Nat)
  | qend
  | idle                               -- completes in a cycle after its issue, with no other effect (R232, R349, R363)
  | ftot (dom sb : Nat)
  | col (va : Word64) (sb home bound : Nat)
  | inval (page : Option Word64) (cst : Bool) (bound : Nat)
  | fdef (desc : List Byte) (sb : Nat)
  | fbnd (handle : Word64) (sb j : Nat) (sink : Bool) (cell : Option Nat)  -- `cell`: its place, once checked
  | after (a : AfterAct)
  deriving DecidableEq, Repr

/-- An operation of a group: its number (issue order), PC slot, the flag it counts on and how many
counts it holds there, and whether a speculative half issued it. -/
structure Op where
  slot   : Nat
  flag   : Option Nat
  counts : Nat
  wordAt : Word64
  half   : Bool
  sup    : Bool := false                 -- issued in supervisor mode: its bank (R139)
  mer    : Nat := 0                    -- Meridian position: 0 none needed, 1 wanted, 4 wanted and made ready, 2 reserved,
                                       -- 3 reached, 5 lost in a halt (R372)
  place  : Option Nat := none          -- MODEL: of a replayed access, its number at first issue (R133)
  clock  : BitVec 48 := 0              -- LCLK at its issue, or at the end of a wait it was held behind (R358)
  data   : List RegUpd := []           -- MODEL: registers of a wide load, performed and not yet written (R54)
  issueAt : Nat := 0                   -- cycle of its issue, and of the start of its clause (R190)
  startAt : Nat := 0
  relAt  : Option Nat := none          -- requests to nodes numbered below it belong to its release (R266)
  kind   : OpKind
  deriving DecidableEq, Repr

/-- A cached leaf of the page tables (R213, R217). -/
structure Leaf where
  vbase : Nat
  bits  : Nat                -- 16, 21 or 30
  frame : Nat                -- physical address of the page
  r : Bool
  w : Bool
  x : Bool
  u : Bool
  cf : Bool
  rep : Bool
  deriving DecidableEq, Repr

structure TlbEntry where
  ctx  : Nat
  leaf : Leaf
  deriving DecidableEq, Repr

/-- A refusal record (R285): the TXF's issue number, word address and flag, and its refused lanes. -/
structure Refusal285 where
  seq     : Nat
  wordAt  : Word64
  flag    : Nat
  reasons : List (Nat × Nat)           -- lane and reason
  deriving DecidableEq, Repr

/-- The trap of a stream instance (R309, R310). -/
structure StreamTrap where
  sub    : BitVec 8
  detail : BitVec 8
  wordAt : Word64
  deriving DecidableEq, Repr

/-- A trap raised and not yet entered (R139). `flag` is the flag on which a TRAP counts until the handler is entered
(R145), `matrix` the record of a stream instance that the trap delivers (R309). -/
structure TrapReq where
  slot   : Nat
  cycle  : Nat
  code   : BitVec 8
  atClause : Bool
  idx    : Nat
  pc     : Word64
  done   : Bool
  arg    : BitVec 12
  einfo  : Word64
  etxf   : Word64
  lanes  : Mask
  faddr  : List (Nat × Word64)
  refusal : Option Refusal285 := none  -- the record that the trap raises (R142)
  flag    : Option Nat := none
  matrix  : Option StreamTrap := none
  deriving DecidableEq, Repr

/-- The trap registers of R143 and R144. -/
structure TrapRegs where
  ecause : Word64 := 0
  epc    : Word64 := 0
  estate : Word64 := 0
  emask  : Word64 := 0
  ejoin  : Word64 := 0
  efmt   : Word32 := 0
  einfo  : Word64 := 0
  etxf   : Word64 := 0
  emode  : BitVec 16 := 0
  deriving DecidableEq, Repr

/-- An unresolved prediction of a group (R131). -/
structure Spec where
  slot    : Nat
  issueAt : Nat
  wordAt  : Word64
  clauseAt : Word64
  idx     : Nat
  taken   : Mask
  guess   : Mask
  target  : Word64
  fall    : Word64
  join    : Word64
  sMask   : Mask
  sJoin   : Word64
  sFmt    : Word32
  resolved : Bool := false               -- its BRA has resolved (R133)
  halves  : List Half
  deriving DecidableEq, Repr

/-- A brine span (R356): a frame, and the bytes it holds by offset. -/
structure Span where
  frame : Nat
  bytes : Dict Byte
  deriving DecidableEq, Repr

/-- An operation in the brine, in issue order (R330, R286). -/
inductive BrineOp where
  | txf  (op : Nat)
  | kick (op : Nat) (clock : BitVec 48)
  | pfb  (rec : Nat)
  deriving DecidableEq, Repr

/-- The brine of a group (R356): its spans, its operations, and the stores whose flags the commit
counts down (R357). -/
structure Brine where
  spans  : List Span := []
  txfSpans : Nat := 0
  ops    : List BrineOp := []
  flags  : List Nat := []
  deriving DecidableEq, Repr

/-- The group's latest EXIT (R142). -/
structure LastExit where
  slot : Nat
  pc   : Word64
  idx  : Nat
  exec : Mask
  fmt  : Word32
  join : Word64
  deriving DecidableEq, Repr

/-- A group (R25 to R31). -/
structure Group where
  team     : Nat
  g        : Nat                       -- team-local index
  gridKey  : Nat
  ctx      : Nat
  gridId   : Word64 := 0               -- GRIDID (R39)
  linear   : BitVec 54 := 0            -- GROUPID
  teamId   : Word64 := 0               -- TEAMID
  consumer : Bool := false             -- ROLE.RL
  ridx     : Nat := 0                  -- ROLE.RIDX
  tcore    : Nat := 0                  -- ROLE.TCORE
  part     : Nat := 0                  -- ROLE.PART, device partition number
  resident : Nat := 0                  -- resident index (R105)
  closedAt : Option Nat := none        -- cycle whose end-of-cycle writes have begun (R19, R56)
  lastExit : Option LastExit := none   -- R142
  budget   : Nat := 32
  seed     : Word64 := 0
  det      : Bool := false
  started  : Bool := false
  vregs    : Tab Line := []            -- by image line (R27)
  written  : BitVec 2048 := 0          -- written bitmap (R109)
  sregs    : Tab Word64 := []
  preds    : Tab Mask := []
  supS     : Tab Word64 := []          -- supervisor bank s248 to s255 (R139)
  supP7    : Mask := 0
  flags    : Tab Nat := []
  flagsPrev : Tab Nat := []            -- flags at the end of the previous cycle (R19)
  scaAt    : Dict (Nat × Nat) := []    -- scalars written in this cycle: by register and bank, issue cycle and clause
                                       -- start of the writer (R190)
  mode     : BitVec 16 := modeReset
  dix      : BitVec 48 := 0
  lclk     : BitVec 48 := 0
  faddr    : Tab Word64 := []          -- by lane
  xmask    : Mask := 0
  mphit    : BitVec 48 := 0
  mpmiss   : BitVec 48 := 0
  mpreplay : BitVec 48 := 0
  slot0    : Slot := {}
  slot1    : Slot := {}
  first    : Nat := 0                  -- deterministic mode: the slot that runs (R136)
  wasFirst : Bool := true              -- the slot that a handler took was that slot (R140)
  spill    : List SpillEntry := []     -- top first
  floor    : Nat := 0                  -- spill depth at the trap entry (log 25); 0 in user mode
  poppedAt : Option Nat := none        -- cycle of the latest pop (R116)
  supervisor : Bool := false
  tr       : TrapRegs := {}
  trapReq  : Option TrapReq := none
  harea    : Word64 := 0
  yieldAt  : Option Nat := none        -- yield bar: n_end (R113)
  parked   : Option Nat := none        -- sequence number (R227)
  posted   : Option Nat := none
  refusals : List Refusal285 := []
  curRefusal : Option Refusal285 := none
  results  : List Pending := []
  counts   : List ClauseCount := []
  ops      : Dict Op := []
  spec     : Option Spec := none
  brine    : Brine := {}
  met      : Bool := false             -- at the meeting (R355)
  stopped  : Bool := false             -- pre-emption bound reached in supervisor mode (R150)
  matrixTraps : List StreamTrap := []  -- traps of stream instances to be delivered (R309)
  lastPage : Dict TlbEntry := []       -- by lane (R217)
  deriving DecidableEq, Repr

/-! ### Teams and matrix streams -/

/-- A named barrier (R248). `last` is the cycle whose phase change has been made; `initBy` the
(partition, resident index) of an init of this cycle (R250). -/
structure Bar where
  ph     : Bool := false
  exp    : Nat := 0
  cnt    : Nat := 0
  last   : Nat := 0
  initBy : Option (Nat × Nat × Nat) := none
  clock  : BitVec 48 := 0              -- greatest LCLK of the arrivals of the phase (R358)
  endClock : BitVec 48 := 0
  deriving DecidableEq, Repr

/-- A team barrier (R252). -/
structure TeamBar where
  ph      : Bool := false
  arrived : List Nat := []             -- groups
  held    : List (Nat × BitVec 48) := [] -- further arrivals of the phase in order, with their LCLK
  decided : Option Nat := none         -- cycle of the deciding arrival
  clock   : BitVec 48 := 0
  endClock : BitVec 48 := 0            -- the clock of the phase that ended last (R358)
  deriving DecidableEq, Repr

/-- A stash mapping (R244, R245). Pieces are 64 bytes, numbered from 0. -/
structure Mapping where
  slot    : Nat
  off     : Nat
  rw      : Bool
  rows    : Nat
  rowb    : Nat
  stride  : Int
  global  : Word64
  touched : List Nat := []
  wanted  : List Nat := []             -- pieces an access waits for
  dirty   : List Nat := []             -- bytes newer than their global homes, by offset from `off`
  deriving DecidableEq, Repr

/-- A matrix-stream instance (R297 to R299). ACCT: true f32, false i32. -/
structure Inst where
  part   : Nat
  pc     : Word64
  owned  : Nat                         -- accumulators, 1 or 2
  mfmt   : BitVec 16 := mfmtReset
  acc0   : Tab Word32 := []
  acc1   : Tab Word32 := []
  acct0  : Bool := true
  acct1  : Bool := true
  lc     : BitVec 20 := 0
  ls     : BitVec 11 := 0
  li     : BitVec 20 := 0
  tokens : Dict Bool := []
  clause : Option ClauseBuf := none
  idx    : Nat := 0
  waits  : Option (Nat × Bool) := none -- MODEL: an MWAIT in progress, its barrier and token
  ended  : Bool := false
  trap   : Option StreamTrap := none
  placed : Nat := 0                    -- cycle of its team's placement
  busyTo : Nat := 0                    -- first cycle in which its next instruction may run (R300)
  ranTo  : Nat := 0                    -- end of its last turn at the sequencer (R300)
  marked : Option Nat := none          -- MODEL: barrier whose token is taken after step 3 of R250
  deriving DecidableEq, Repr

/-- A team (R32 to R37). -/
structure Team where
  gridKey : Nat
  index   : Nat                        -- linear team index T
  ctx     : Nat
  cluster : Nat := 0
  cores   : List Nat := []             -- device core numbers of team cores 0 to k - 1
  parts   : List (List Nat) := []      -- device partition numbers used on each
  gids    : List Nat := []             -- by team-local index
  producers : Nat := 0                 -- role 0 groups, indices below it (R32)
  stashSize : Nat := 0                 -- bytes per team core
  stash   : List (Nat × Tab Byte) := []
  maps    : List Mapping := []
  blo     : Nat := 0
  bnum    : Nat := 0                   -- barriers declared; 0: none
  tbars   : Dict TeamBar := []
  insts   : Dict Inst := []
  savedBars : Dict Bar := []           -- team record (R147)
  preempt : Option Nat := none         -- request cycle P (R146)
  saved   : Bool := false
  placedAt : Nat := 0
  pool    : Nat := 0                   -- bytes reserved of the image pool (R147)
  lastGone : Option Nat := none        -- cycle in which the last group retired (R47)
  deriving DecidableEq, Repr

/-! ### Copy engine -/

/-- A range-lock entry (R321). `reads` is true when reads are locked too. -/
structure RangeLock where
  ctx   : Nat
  team  : Nat
  lo    : Nat                          -- virtual address
  len   : Nat
  reads : Bool
  job   : Nat
  deriving DecidableEq, Repr

/-- A record that waits to be accepted (R321), or an accepted one and how many of its bytes have
been counted; `clock` is the LCLK of the kicking group at its KICK (R358). -/
structure CopyJob where
  core  : Nat
  gid   : Nat
  op    : Nat
  ctx   : Nat
  team  : Nat
  req   : CopyRec
  accepted : Bool
  user  : Bool                         -- kicked in user mode (R214)
  pos   : Nat                          -- bytes whose pieces have been moved, or sent to a node (R385)
  cnt   : Nat := 0                     -- bytes counted
  clock : BitVec 48
  order : Nat
  ended : List (Nat × Nat × Nat) := [] -- pieces complete at their nodes: cycle, bytes, error bits (R385)
  due   : Option (Nat × Nat) := none   -- bytes performed and not yet counted, and their error bits
  mer   : Nat := 0                     -- Meridian position of the count: 0 none, 1 wanted, 2 reserved, 5 lost (R266, R372)
  deriving DecidableEq, Repr

/-- A prefetch under way (R328). -/
structure PfbJob where
  core  : Nat
  gid   : Nat
  ctx   : Nat
  team  : Nat
  base  : Word64
  bytes : Nat
  pos   : Nat
  bobj  : Loc
  user  : Bool
  clock : BitVec 48
  held  : Bool                         -- in a brine, not yet performed
  deriving DecidableEq, Repr

/-! ### Field engine -/

/-- A registered field (R269). -/
structure Field where
  base   : Word64
  count  : Nat
  wide   : Bool
  frac   : Nat
  cst    : Bool                        -- DSCOPE 100
  limit  : Bool                        -- REFUSE
  nonneg : Bool
  domain : Nat
  block  : Nat
  first  : Nat
  ndev   : Nat
  btab   : Word64
  share  : Int                         -- of K that this device added
  bnd    : Dict (Nat × Bool)           -- declared boundary cells: home agent, true sink
  deriving DecidableEq, Repr

/-- A domain's entry of the field counter table (R273, R276). -/
structure Domain where
  cst   : Bool
  frac  : Nat
  first : Nat
  id    : Int
  bd    : Int
  k     : Int
  fields : Nat
  damaged : Bool := false              -- its counter carries an uncorrectable error (R409)
  deriving DecidableEq, Repr

/-- The totals of a domain on one device (R283): Id, Bd, its share of K, the pending returns, and whether the counter is
damaged (R409). -/
structure Totals where
  id      : Int
  bd      : Int
  k       : Int
  ret     : Int
  damaged : Bool := false
  deriving DecidableEq, Repr

/-- A pair to be applied (R279, R280), or a returned amount (R281). `spa` and `dpa` are the places of
its cells on this device. -/
structure Pair where
  gid    : Nat
  op     : Nat
  lane   : Nat
  ctx    : Nat
  fld    : Nat
  src    : Nat                         -- from-cell index
  dst    : Nat
  spa    : Option Nat
  dpa    : Option Nat
  amt    : Nat
  swapped : Bool
  limit  : Bool
  tag    : Nat := 0                    -- of the unit that brought or carries it (R367)
  agent  : Nat := 0                    -- whose unit it is
  passed : Bool := false               -- of an own pair between devices: its position has passed
  srcHome : Nat := 0                   -- agents at which its cells are homed (R269)
  dstHome : Nat := 0
  deriving DecidableEq, Repr

/-! ### Dispatch engine -/

/-- What waits on a queue, in position order (R347, R348). -/
inductive Waiter where
  | room (gid op : Nat)
  | item (gid op : Nat)
  deriving DecidableEq, Repr

/-- A queue's registers (R334), hash (R362) and waiters. -/
structure Queue where
  qbase : Nat := 0
  en    : Bool := false
  mode  : BitVec 2 := 0
  ctx   : Nat := 0
  sz    : Nat := 0
  vec   : Nat := 0
  head  : BitVec 48 := 0
  tail  : BitVec 48 := 0
  seed  : Word64 := 0
  ebase : Nat := 0
  esz   : Nat := 0
  drop  : BitVec 16 := 0
  epos  : BitVec 48 := 0
  hash  : BitVec 256 := 0
  lastSerial : Word64 := 0             -- serial of the last grid chained (R364)
  waiters : List Waiter := []
  clocks : Dict (BitVec 48) := []      -- LCLK of the group that enqueued each entry (R358)
  freed  : Dict (BitVec 48) := []      -- by serial: LCLK of the group whose DEQ freed that entry's slot (R358)
  seedNew : Option (Nat × Word64) := none -- a host write of SEED, in force from the cycle after this one (R360)
  deriving DecidableEq, Repr

/-- A launch record as read (R338). -/
structure LaunchRec where
  raw    : List Byte
  entry0 : Word64
  entry1 : Word64
  mpc    : Word64
  arg    : Word64
  x      : Nat
  y      : Nat
  z      : Nat
  c      : Nat
  p      : Nat
  qc     : Nat                         -- partitions per team core: 1, 2 or 4; 0 invalid
  k      : Nat
  b1     : Nat
  b0     : Nat
  barv   : Bool
  seedv  : Bool
  accs   : Nat
  prio   : Nat
  ser    : Bool
  det    : Bool
  cls    : Nat
  stash  : Nat                         -- bytes per team core
  quant  : Nat
  bnum   : Nat
  blo    : Nat
  seed   : Word64
  out0   : Word64
  osz0   : Nat
  osz1   : Nat
  out1   : Word64
  cbmap  : Word64
  dbmap  : Word64
  dc     : Nat
  da     : Nat
  db     : Int
  dq     : Nat
  dser   : Nat
  deriving DecidableEq, Repr

/-- An unplaced part of a grid, at a cluster (R342). -/
structure Range where
  cluster : Nat
  lo      : Nat
  hi      : Nat
  deriving DecidableEq, Repr

/-- A grid that has passed stage 2, or waits in it (R44); it goes when it is chained or ended. -/
structure Grid where
  lrec    : LaunchRec
  gridId  : Word64
  ctx     : Nat
  queue   : Nat
  serial  : Nat
  recAt   : Word64
  arg     : Word64
  seed    : Word64
  order   : Nat                        -- dispatch order
  waiting : Bool := false              -- in stage 2, placed in one step (R345)
  ranges  : List Range := []
  retired : List Nat := []             -- linear indices of retired teams
  placed  : Nat := 0
  complete : Bool := false
  neverPlace : Bool := false           -- R345: unreadable producer bitmap
  digest  : Option (BitVec 256) := none
  quantum : Nat := 0
  still   : List (Nat × BitVec 48) := [] -- MODEL: group handles and their DIX at the last commit
  commits : Option (List Nat) := none  -- MODEL: in a commit, the groups whose brines are still to be applied (R357)
  roomless : Nat := 0                  -- cycle from which a placeable team found no room (R351)
  late    : List Nat := []             -- clusters on which its next team waits for a pre-emption's room (R352)
  deriving DecidableEq, Repr

/-! ### Contexts and host link -/

/-- A context-table entry (R390), with the fault queue's counters (R221). -/
structure Ctx where
  raw      : Tab Byte := []            -- the entry's 64 bytes
  valid    : Bool := false
  posted   : Word32 := 0
  resolved : Word32 := 0
  poolUsed : Nat := 0
  posting  : List (Nat × Nat) := []    -- FQPOSTs that wait for room, in device order: group, op
  terminate : Option (BitVec 8 × BitVec 16 × Word64 × Word64) := none
  deriving DecidableEq, Repr

/-- A host-directory entry (R396). -/
structure DirEntry where
  line  : Nat                          -- physical address of the 64-byte line
  owned : Bool
  deriving DecidableEq, Repr

/-- A host request held behind a back-invalidation (R396). -/
structure HeldHost where
  offset : Nat
  req    : HostReq
  deriving DecidableEq, Repr

/-! ### Fabric -/

/-- An event record to be written (R384): type, unit, index, old and new set, place, detail. -/
structure EventRec where
  typ    : Nat
  unit   : Nat
  index  : Nat
  old    : BitVec 16
  new    : BitVec 16
  place  : Word64
  detail : Word64
  deriving DecidableEq, Repr

/-- The lane of a group's atomic that is performed at a node's home over a data port (R237, R375): `code` says what it
does, on `size` bytes at offset `off` of the frame. -/
structure NodeAtomic where
  gid  : Nat
  op   : Nat
  lane : Nat
  code : Nat
  size : Nat
  off  : Nat
  cmp  : BitVec 128
  val  : BitVec 128
  deriving DecidableEq, Repr

/-- A request to a node, outstanding on a port (R374, R375, R378, R385): a read of words, a write of bytes with its
data on channel `ch`, or an atomic. `got` counts the quarters of a read that have arrived, `job` is the copy record
whose piece it carries and the piece's length, `num` orders it among the device's requests, `ctx` is the context of
the group that made it, `orig` the port and TAG it had on a port that went down. -/
structure PortReq where
  tag    : Nat := 0
  frame  : Nat
  words  : Word64
  write  : Bool
  ch     : Nat := 0
  data   : Dict Byte := []             -- by offset in the frame
  atom   : Option NodeAtomic := none
  got    : Nat := 0
  job    : Option (Nat × Nat) := none
  num    : Nat := 0
  ctx    : Option (Nat × Word64) := none -- and its GRIDID
  orig   : Option (Nat × Nat) := none
  deriving DecidableEq, Repr

/-- A change of our transmitter's active set under way (R381, R383). -/
structure Announce where
  mask   : BitVec 16
  bound  : BitVec 12
  echoed : Bool := false
  sentAt : Nat
  deriving DecidableEq, Repr

/-- A bulk packet in compatibility mode (R379). -/
structure Bulk where
  tag     : Nat
  flits   : List Flit
  dropped : Bool := false
  grant   : Option (Nat × Nat) := none -- granted start time and duration in ns
  deriving DecidableEq, Repr

/-- A data port (R366, R375 to R383). `out` holds the flits sent, newest first. -/
structure Port where
  mode   : BitVec 2 := 0
  up     : Bool := false
  ktx    : Bool := false
  krxv   : BitVec 2 := 0
  node   : Nat := 0
  txact  : BitVec 16 := 0
  rxact  : BitVec 16 := 0
  authf  : BitVec 16 := 0
  waits  : Option Word64 := none       -- a MODE write held until the bank is ready (R401)
  training : Bool := false
  txSeq  : BitVec 12 := 0              -- next SEQ to send
  ackIn  : BitVec 12 := 0xFFF          -- SEQ last acknowledged by the node
  ackAt  : Nat := 0                    -- cycle from which the 2 µs of R378 count
  rxNext : BitVec 12 := 0              -- next SEQ expected
  replay : List Flit := []             -- unacknowledged flits as sent, oldest first
  pend   : List (List Flit) := []      -- packets that could not be sent yet, oldest first
  mid    : List Flit := []             -- the rest of a packet of which flits have gone (R385)
  again  : Bool := false               -- a replay is due once the echo of an announcement has come (R381)
  slots  : Tab Nat := []               -- buffer slots that this device has advertised, by channel (R377)
  out    : List Flit := []
  credits : Tab Nat := []              -- by channel
  owed   : Tab Nat := []               -- credits to return, by channel
  reqs   : List PortReq := []
  txKeys : Dict (BitVec 256) := []     -- by slot
  rxKeys : Dict (BitVec 256) := []
  txCount : Tab Nat := []              -- flits encrypted under a slot's key (R380)
  rxCount : Tab Nat := []
  retire : Option Nat := none          -- old transmit slot, until its flits are acknowledged
  authRun : Nat := 0                   -- failures in a row of one SEQ
  asked  : Bool := false               -- a replay request went out in this run of discards
  askedAt : Nat := 0
  ann    : Option Announce := none
  rxAnn  : Option (BitVec 16 × BitVec 12) := none
  lossHold : Bool := false             -- R386
  bulks  : List Bulk := []
  lastRx : Nat := 0                    -- cycle of the last flit received
  retrain : BitVec 16 := 0             -- removed receive wavelengths, in training
  deriving DecidableEq, Repr

/-- What another device is to be answered when it is done here: the requests numbered below `bound` have been
performed (R218, R226), of a context and page, or of every context; or the transfers of a field numbered below `bound`
are complete (R276). -/
structure OwedAck where
  agent : Nat
  tag   : BitVec 32
  ctx   : Option Nat
  bound : Nat
  page  : Option Word64
  fld   : Option Nat := none
  deriving DecidableEq, Repr

/-- The Meridian as this device sees it (R365 to R373). -/
structure Meridian where
  en     : Bool := false
  enHeld : Bool := false               -- an EN write held until the banks are ready (R401)
  halt   : Bool := false
  epoch  : Nat := 0                    -- cycle
  frame  : BitVec 48 := 0
  records : List (Nat × Nat × ResRecord) := []   -- frame it names, agent, record
  lost   : List (Nat × Nat) := []                -- frame and unit index to be repaired
  wants  : List Unit64 := []                     -- own units without a slot, oldest first
  sent   : List Unit64 := []                     -- own units of the last 16 frames
  taken  : Nat := 0                              -- own units have their slots of every frame before this one
  held   : List Unit64 := []                     -- units at hand and not yet applied
  pos    : Nat × Nat := (0, 0)                   -- every unit before this position is applied
  out    : List Unit64 := []                     -- units sent, newest first
  resOut : List (Nat × Nat × ResRecord) := []    -- reservation records sent, newest first: plane, record slot (R368)
  owners : Dict Nat := []                        -- pooled frames and their recorded owners (R371)
  asking : List Nat := []                        -- frames whose ownership this device has asked for
  answers : Dict (List Nat) := []                -- operation number and the agents that answered
  got    : Dict (List (Nat × Byte)) := [] -- operation number and the bytes that nodes answered (R371)
  totals : Dict (List Totals) := []
  acks   : List OwedAck := []
  deriving DecidableEq, Repr

/-! ### Management -/

structure Mailbox where
  opc    : BitVec 16 := 0
  len    : BitVec 16 := 0
  status : BitVec 8 := 0
  rlen   : BitVec 32 := 0
  vec    : Nat := 0
  req    : Tab Byte := []
  rsp    : List Byte := []
  deriving DecidableEq, Repr

structure Power where
  limit    : Nat := 2700
  measured : Nat := 0
  matrix   : Nat := 0                  -- sixteenths
  issue    : Nat := 0
  unreach  : Bool := false
  overRun  : Nat := 0                  -- consecutive measurements above the limit at full shares
  at_      : Nat := 0                  -- cycle of the latest measurement
  deriving DecidableEq, Repr

/-- A cached byte (R256): its value and whether it is newer than its home. -/
structure CByte where
  val   : Byte
  dirty : Bool
  deriving DecidableEq, Repr

/-- A resident register line (R109, R110). -/
structure CacheLine where
  gid   : Nat
  line  : Nat
  since : Nat := 0                     -- first cycle in which it can be read (R108)
  evict : Bool := false                -- marked evictable by pre-emption (R111, R146)
  deriving DecidableEq, Repr

/-- MODEL. What is being issued: the group and its slot (or the stream instance), the word and
where it stands, the mask it runs under and the flags its clause set. -/
structure Cur where
  gid      : Nat := 0
  slot     : Nat := 0
  team     : Nat := 0
  unit     : Nat := 0
  addr     : Word64 := 0
  word     : Word64 := 0
  mask     : Mask := 0
  idx      : Nat := 0
  header   : Word64 := 0
  clauseAt : Word64 := 0
  deriving DecidableEq, Repr

/-! ### The machine -/

structure State where
  -- MODEL
  absent : Option Nat := none          -- a physical address that does not exist was touched
  conflict : Option Nat := none        -- a line the host holds was touched (R396)
  unready : Bool := false              -- memory or a node that is not ready was touched (R401)
  askOwn  : List Nat := []             -- pooled frames whose ownership a step needs (R371)
  askRead : Tab Word64 := []           -- pooled frames whose data a step needs, with the words it needs (R234, R374)
  gotRead : Tab Word64 := []           -- pooled frames whose arrived data a step used, with those words
  wrote   : List (Nat × Nat × Nat × Byte) := []  -- pooled bytes a step wrote: frame, offset, channel, value
  writer  : Option (Nat × Word64) := none -- the context, and its GRIDID, of the group whose access a step performs
  nodeData : Dict Byte := []           -- pooled bytes that nodes have answered for the operation a step performs (R371)
  agenda : List Move := []
  tick   : Nat := 0
  fresh  : Nat := 0
  nextId : Nat := 1
  cur    : Cur := {}
  -- time and bring-up (R384, R400, R402)
  cycle  : Nat := 0
  ready  : Word64 := 0
  readyAt : Nat := 0                   -- 1 + the cycle in which the last READY bit was set (R401)
  lastBit : Nat := 0
  nextUnit : Nat := 0
  selfTest : List Byte := []
  syscap : Word64 := 0
  -- memory (R211), caches (R256, R236), translations (R217)
  mem    : Tab Byte := []
  cache  : Dict CByte := []            -- key: site × 2^52 + physical address
  marks  : Tab Nat := []               -- by site × 2^44 + frame: 1 evict-first, 2 evict-last
  tlb    : List (Nat × TlbEntry) := [] -- site
  -- groups and teams
  groups : Dict Group := []
  teams  : Dict Team := []
  grids  : Dict Grid := []
  bars   : Tab Bar := []               -- key: core × 2048 + barrier
  startedAt : Tab Nat := []            -- by partition: 1 + the cycle of its last clause start (R102)
  portAt : Tab Nat := []               -- by partition × 4 + port: 1 + the cycle of its last issue (R102)
  slotFree : Tab Nat := []             -- by partition × 2 + clause slot: first free cycle (R101)
  pred   : Tab PredEntry := []         -- key: partition × 1024 + entry (R130)
  rcache : List (Nat × List CacheLine) := []  -- by partition, most recently used first
  -- copy and field engines
  locks  : Dict RangeLock := []        -- key: core × 64 + entry
  jobs   : Dict CopyJob := []
  pfbs   : Dict PfbJob := []
  objs   : Dict (BitVec 48 × Bool) := []  -- by object: greatest LCLK of the phase's records, phase ended (R358)
  fields : Dict Field := []            -- key: context × 4096 + number
  domains : Dict Domain := []          -- key: context × 1024 + identifier
  pairs  : Dict Pair := []
  returns : Dict Pair := []
  claims : Dict (Dict (Nat × Bool)) := []  -- by field key: boundary cells claimed on the constellation (R277)
  -- dispatch
  queues : Tab Queue := []
  served : Nat := 0                    -- queue most recently served (R341)
  headAt : Nat := 0                    -- 1 + the cycle in which the last head was considered (R341)
  victims : List Nat := []             -- teams chosen for pre-emption, in order (R351)
  bitAt  : Nat := 0                    -- 1 + the cycle of the last completion bit set (R47)
  resumedAt : Nat := 0                 -- 1 + the cycle of the last resumption (R224)
  ctxs   : Tab Ctx := []
  -- host link
  inva   : Word64 := 0
  busy   : Bool := false
  busyCtx : Nat := 0
  busyPage : Option Word64 := none
  busyBound : Nat := 0                 -- number of the host's invalidation
  busyFrom : Option Nat := none        -- requests numbered below it are waited for (R218); none before its position
  busyCst : Bool := false
  pctx   : Nat := 0
  pbusy  : Bool := false
  tring  : Word64 := 0
  trpos  : BitVec 48 := 0
  trvec  : Nat := 0
  msix   : List Nat := []              -- vectors signalled, newest first
  msixTable : Dict Word64 := []        -- by 8-byte word; an unlisted vector is masked
  msixPend : List Nat := []            -- pending-bit array
  hostDir : List DirEntry := []        -- oldest grant first
  backInv : List Nat := []             -- lines with a back-invalidation outstanding
  backFull : List Nat := []            -- of these, the ones that only make room in the directory
  backDone : List Nat := []            -- lines answered, whose held device request is still to act
  backTook : List Nat := []            -- MODEL: of these, the lines that a step acted on
  heldHost : List HeldHost := []
  heldBar : List Instr := []           -- writes to enqueue ports and doorbells behind host stores that are held (R398)
  hostOut : List (List Byte) := []     -- answers given to the host, newest first
  -- fabric
  fabid  : Nat := 0                    -- in force since the Meridian was last enabled (R365)
  members : Word64 := 0
  fabidReg : Nat := 0                  -- as last written
  membersReg : Word64 := 0
  mer    : Meridian := {}
  evring : Word64 := 0
  evpos  : BitVec 48 := 0
  evvec  : Nat := 0
  rethr  : Nat := 200
  ports  : Tab Port := []
  reqQueue : List PortReq := []        -- requests to nodes that no port has taken yet, oldest first
  hostPosted : List (Nat × Byte) := [] -- writes to uncached host memory on their way, oldest first (R392)
  arrived : Tab Word64 := []           -- pooled frames whose data have arrived, with the words not used yet
  evQueue : List EventRec := []        -- MODEL: event records to be written, oldest first
  lit    : BitVec 16 := 0              -- laser sources lit
  -- management
  mbox   : Mailbox := {}
  power  : Power := {}
  corrected : Word64 := 0
  uncorrected : Word64 := 0
  firmware : BitVec 256 := 0           -- SHAKE256 digest of the controller firmware that runs (R403, R404)
  spdmOut : List (List Byte) := []
  deriving DecidableEq, Repr

/-- The machine right after reset: nothing has started (R400), every register at its reset value,
memory with nothing listed (log 1), no group, team, grid or queue entry. -/
def State.reset : State := {}

end Sys2Proof.Machine
end

