-- ==== Sys2Proof/Machine/Operands.lean ====
section
/-!
DEFINITION. Registers of a group and the operand forms of the instructions: reads at issue (R60,
R153, R174, R175), p0 (R71), the supervisor bank (R139), image lines and the written bitmap (R27,
R109), predication (R61).
-/
namespace Sys2Proof.Machine

/-! ### Slots -/

def Group.slot (g : Group) (k : Nat) : Slot := if k = 0 then g.slot0 else g.slot1
def Group.setSlot (g : Group) (k : Nat) (x : Slot) : Group :=
  if k = 0 then { g with slot0 := x } else { g with slot1 := x }
def Slot.live (x : Slot) : Bool := x.mask != 0

/-! ### Registers -/

/-- The image line of vN for budget B (R27). -/
def imageLine (B n : Nat) : Nat := if 2046 ≤ n then B - (2048 - n) else n

/-- A vector register; an unwritten line reads zero (R28, R109). -/
def Group.vreg (g : Group) (n : Nat) : Line := tget 0 g.vregs (imageLine g.budget n)

/-- A scalar register; s248 to s255 are banked in supervisor mode (R139). -/
def Group.sreg (g : Group) (n : Nat) : Word64 :=
  if g.supervisor && decide (248 ≤ n) then tget 0 g.supS n else tget 0 g.sregs n

/-- A predicate; p0 reads all ones (R71), p7 is banked in supervisor mode (R139). -/
def Group.preg (g : Group) (n : Nat) : Mask :=
  if n = 0 then allLanes
  else if g.supervisor && n == 7 then g.supP7 else tget 0 g.preds n

def Group.flag (g : Group) (n : Nat) : Nat := tget 0 g.flags n

/-- exec of R61 under the lanes `m`. -/
def Group.exec (g : Group) (m : Mask) (neg : Bool) (p : BitVec 3) : Mask :=
  m &&& (if neg then ~~~(g.preg p.toNat) else g.preg p.toNat)

/-- Write a scalar in the bank of user or supervisor mode (R139). -/
def Group.setSregAs (g : Group) (sup : Bool) (n : Nat) (x : Word64) : Group :=
  if sup && decide (248 ≤ n) then { g with supS := tset 0 g.supS n x }
  else { g with sregs := tset 0 g.sregs n x }
def Group.setSreg (g : Group) (n : Nat) (x : Word64) : Group := g.setSregAs g.supervisor n x

/-- The register and bank of a scalar write, as the record of the cycle's writes names it. -/
def scaKey (sup : Bool) (n : Nat) : Nat := if sup && decide (248 ≤ n) then n + 256 else n

/-- Write a scalar for an instruction issued in cycle `at_` from a clause that started in cycle `start`: of the writes
of one cycle to one register that of the later-issued instruction stands, of two issued together that of the later
clause (R190). -/
def Group.putSca (g : Group) (sup : Bool) (n : Nat) (x : Word64) (at_ start : Nat) : Group :=
  let put : Group := { g.setSregAs sup n x with scaAt := dput g.scaAt (scaKey sup n) (at_, start) }
  match dget g.scaAt (scaKey sup n) with
  | none => put
  | some (i, j) => if at_ < i || (at_ == i && decide (start < j)) then g else put

/-- The predicate in the bank of a mode. -/
def Group.pregAs (g : Group) (sup : Bool) (n : Nat) : Mask :=
  if sup && n == 7 then g.supP7 else tget 0 g.preds n

/-- Write bits `m` of a predicate; a write to p0 is discarded (R71). -/
def Group.setPregAs (g : Group) (sup : Bool) (n : Nat) (m bits : Mask) : Group :=
  if n = 0 then g else
  let x := (g.pregAs sup n &&& ~~~m) ||| (bits &&& m)
  if sup && n == 7 then { g with supP7 := x } else { g with preds := tset 0 g.preds n x }
def Group.setPreg (g : Group) (n : Nat) (m bits : Mask) : Group := g.setPregAs g.supervisor n m bits

/-- Keep the prior content of a line that a half writes for the first time (R132), also while its
clauses are replayed (log 28). -/
def Group.shadow (g : Group) (k n : Nat) : Group :=
  let line := imageLine g.budget n
  let keep (h : Half) : Half :=
    if h.shadows.any (fun e => e.1 == line) then h
    else { h with shadows := h.shadows ++ [(line, tget 0 g.vregs line)] }
  match g.spec with
  | none => match (g.slot k).redo with
    | none => g
    | some h => g.setSlot k { g.slot k with redo := some (keep h) }
  | some sp => { g with spec := some { sp with
      halves := sp.halves.map (fun h => if h.slot == k then keep h else h) } }

/-- Write lanes `m` of a vector register and set its written bit (R109). -/
def Group.setVreg (g : Group) (n : Nat) (m : Mask) (l : Line) : Group :=
  let k := imageLine g.budget n
  { g with vregs := tset 0 g.vregs k (mergeLine m (tget 0 g.vregs k) l)
           written := if m = 0 then g.written else g.written ||| (1#2048 <<< k) }

def Group.setFlag (g : Group) (n x : Nat) : Group := { g with flags := tset 0 g.flags n x }
def Group.incFlag (g : Group) (n : Nat) : Group := g.setFlag n (g.flag n + 1)
def Group.decFlag (g : Group) (n k : Nat) : Group := g.setFlag n (g.flag n - k)

/-! ### Operands (R175) -/

/-- The W-bit value of a vector register field in lane i. -/
def Group.vecVal (g : Group) (w : Bool) (n i : Nat) : Nat :=
  if w then (lane (g.vreg n) i).toNat + (lane (g.vreg (n + 1)) i).toNat * 2 ^ 32
  else (lane (g.vreg n) i).toNat

/-- The W-bit value of a scalar field. -/
def Group.scaVal (g : Group) (w : Bool) (n : Nat) : Nat :=
  if w then (g.sreg n).toNat else (g.sreg n).toNat % 2 ^ 32

/-- An operand in lane i: a vector field or a broadcast scalar. -/
def Group.opVal (g : Group) (vec w : Bool) (n i : Nat) : Nat :=
  if vec then g.vecVal w n i else g.scaVal w n

/-- IMM22 as a W-bit operand (R62, R175). -/
def immVal (w : Bool) (imm : BitVec 22) : Nat :=
  if w then (imm.signExtend 64).toNat else (imm.signExtend 32).toNat

def widthOf (w : Bool) : Nat := if w then 64 else 32

/-- Codes 0, 2, 10 and 11 are signed (R174). -/
def signedTy (t : Nat) : Bool := t == 0 || t == 2 || t == 10 || t == 11

/-- val of R175. -/
def valOf (signed : Bool) (n x : Nat) : Int := if signed then sgn n x else (x % 2 ^ n : Nat)

/-- A W-bit result in a scalar register (R175). -/
def scalarOf (signed w : Bool) (r : Nat) : Word64 :=
  if w then w64n r else if signed then (w32n r).signExtend 64 else (w32n r).zeroExtend 64

/-- The updates that write W-bit lane results to vector register n in the lanes of `m`. -/
def vecUpd (w : Bool) (n : Nat) (m : Mask) (f : Nat → Nat) : List RegUpd :=
  let line (h : Nat) : Line := mkLine (fun i => if m.getLsbD i then w32n (f i / h) else 0)
  if w then [.vec n m (line 1), .vec (n + 1) m (line (2 ^ 32))] else [.vec n m (line 1)]

/-! ### The two forms of an ALU instruction (R77) -/

def aluForm : Alu → Form
  | .reg r => r.form
  | .imm i => i.form
def aluNeg : Alu → Bool
  | .reg r => r.neg
  | .imm i => i.neg
def aluPred : Alu → BitVec 3
  | .reg r => r.pred
  | .imm i => i.pred
def aluMod : Alu → BitVec 3
  | .reg r => r.mod
  | .imm i => i.mod
def aluDst : Alu → BitVec 11
  | .reg r => r.dst
  | .imm i => i.dst
def aluTy : Alu → BitVec 4
  | .reg r => r.ty
  | .imm i => i.ty

/-- Operand A in lane i, width w (R60, R175). -/
def aluA (g : Group) (o : Alu) (w : Bool) (i : Nat) : Nat :=
  match o with
  | .reg r => g.opVal (aVec r.form) w r.a.toNat i
  | .imm r => g.opVal (aVec r.form) w r.a.toNat i

/-- Operand B in lane i: a register or IMM22 (R62, R175). -/
def aluB (g : Group) (o : Alu) (w : Bool) (i : Nat) : Nat :=
  match o with
  | .reg r => g.opVal (bVec r.form) w r.b.toNat i
  | .imm r => immVal w r.imm

end Sys2Proof.Machine
end

