-- ==== Sys2Proof/Machine/Ops.lean ====
section
/-!
DEFINITION. The named operations that every instruction of a group goes through: access to groups,
retirement (R135), the end of a clause (R50, R101, R113), setting a PC (R114), completion flags
(R52), raising a trap (R137 to R141), taking it (R139) and returning from it (R145).
-/
namespace Sys2Proof.Machine

/-! ### Groups, teams, contexts -/

def State.group? (s : State) (gid : Nat) : Option Group := dget s.groups gid
def State.setGroup (s : State) (gid : Nat) (g : Group) : State :=
  { s with groups := dput s.groups gid g }
/-- Apply `f` to a group, if it exists. -/
def State.modGroup (s : State) (gid : Nat) (f : Group → Group) : State :=
  match dget s.groups gid with
  | none => s
  | some g => s.setGroup gid (f g)

def State.team? (s : State) (t : Nat) : Option Team := dget s.teams t
def State.setTeam (s : State) (t : Nat) (x : Team) : State := { s with teams := dput s.teams t x }
def State.modTeam (s : State) (t : Nat) (f : Team → Team) : State :=
  match dget s.teams t with
  | none => s
  | some x => s.setTeam t (f x)

/-- Has a team been saved at pre-emption (R147)? -/
def State.isSaved (s : State) (t : Nat) : Bool := ((s.team? t).map (fun (x : Team) => x.saved)).getD false

def State.ctx (s : State) (c : Nat) : Ctx := tget {} s.ctxs c
def State.setCtx (s : State) (c : Nat) (x : Ctx) : State := { s with ctxs := tset {} s.ctxs c x }

/-- Bytes [off, off + n) of a context-table entry (R390). -/
def Ctx.num (x : Ctx) (off n : Nat) : Nat :=
  ofBytes ((List.range n).map (fun i => tget 0 x.raw (off + i)))
def Ctx.tvec (x : Ctx) : Word64 := w64n (x.num 24 8)
def Ctx.fvec (x : Ctx) : Word64 := w64n (x.num 32 8)

/-- Record that a context is to be terminated (R391, R411); the step is CONTEXT_TERMINATION. The
first reason stands. -/
def State.terminate (s : State) (c : Nat) (reason : BitVec 8) (codes : BitVec 16)
    (detail grid : Word64) : State :=
  let x := s.ctx c
  match x.terminate with
  | some _ => s
  | none => s.setCtx c { x with terminate := some (reason, codes, detail, grid) }

/-! ### Speculative halves (R131) -/

/-- The half of slot k, if the slot is speculative. -/
def Group.half? (g : Group) (k : Nat) : Option Half :=
  match g.spec with
  | none => none
  | some sp => sp.halves.find? (fun h => h.slot == k)

def Group.modHalf (g : Group) (k : Nat) (f : Half → Half) : Group :=
  match g.spec with
  | none => g
  | some sp =>
    { g with spec := some { sp with halves := sp.halves.map (fun h => if h.slot == k then f h else h) } }

/-- Slot k is a speculative half, or a half whose clauses are being replayed: what it issues may have
to be undone (R132, log 28). -/
def Group.undoable (g : Group) (k : Nat) : Bool := (g.half? k).isSome || (g.slot k).redo.isSome

/-- Retire one instruction of slot k (R135); a replay never retires again, a speculative
instruction retires at resolution. -/
def Group.retire (g : Group) (k : Nat) (replay : Bool) : Group :=
  if replay then g
  else match g.half? k with
    | some _ => g.modHalf k (fun h => { h with retired := h.retired + 1 })
    | none => { g with dix := g.dix + 1, lclk := g.lclk + 1 }

/-- Take back the retirement of a transfer that traps when it resolves (R59, R124). -/
def Group.unretire (g : Group) : Group := { g with dix := g.dix - 1, lclk := g.lclk - 1 }

/-! ### Counted ALU and SYS clauses (R52) -/

/-- Decrement the flag of every counted clause that has ended and whose results are written. -/
def Group.settleCounts (g : Group) : Group :=
  let done (c : ClauseCount) : Bool := c.ended && !g.results.any (fun r => r.clauseId == c.clauseId)
  let fl := (g.counts.filter done).foldl (fun f c => tset 0 f c.flag (tget 0 f c.flag - 1)) g.flags
  { g with counts := g.counts.filter (fun c => !done c), flags := fl }

def Group.endCount (g : Group) (id : Nat) : Group :=
  Group.settleCounts
    { g with counts := g.counts.map (fun c => if c.clauseId == id then { c with ended := true } else c) }

/-! ### The PC of a slot (R114) -/

def emptySlot : Slot := {}

/-- Empty slot k. -/
def Group.clearSlot (g : Group) (k : Nat) : Group := g.setSlot k { emptySlot with stamp := (g.slot k).stamp }

/-- Set the PC of slot k (R114): a slot whose new PC equals its join empties; a speculative half
waits there instead. A clause already fetched for that address stays. -/
def Group.setPc (g : Group) (k : Nat) (pc : Word64) : Group :=
  let S := g.slot k
  if pc = S.join && (g.half? k).isNone then g.clearSlot k
  else
    let keep := match S.clause with
      | some c => if c.addr = pc then some c else none
      | none => none
    let g := g.setSlot k { S with pc := pc, resumeIdx := 0, resting := false, clause := keep }
    if pc = S.join then g.modHalf k (fun h => { h with atJoin := true }) else g

/-! ### The end of a clause -/

/-- Free the clause slot of a running clause from the next cycle on (R101). -/
def State.freeCslot (s : State) (part : Nat) (r : Running) : State :=
  { s with slotFree := tset 0 s.slotFree (part * 2 + r.cslot) (s.cycle + 1) }

def clauseHasYield (r : Running) : Bool :=
  let h := decodeHeader r.clause.header
  (h.cls == 0 || h.cls == 4) && r.clause.words.any (fun w => w == 0xEF80000000000000#64)

/-- YIELD's effect in the cycle in which its clause issues its last instruction (R113). -/
def Group.applyYield (g : Group) (cycle : Nat) : Group :=
  let stamp (x : Slot) : Slot := if x.live then { x with stamp := cycle } else x
  if g.supervisor then g else
  { g with slot0 := stamp g.slot0, slot1 := stamp g.slot1, yieldAt := some cycle }

/-- MODE bits that other work has raised or written stay if the half under replay is undone (log 28). -/
def Slot.sharesBits (x : Slot) (bits : BitVec 16) : Slot :=
  { x with redo := x.redo.map (fun h => { h with raised := h.raised &&& ~~~bits }) }

/-- MODE bits that the half under replay in slot k alone has raised. -/
def Group.ownBits (g : Group) (k : Nat) : BitVec 16 := ((g.slot k).redo.map (fun h => h.raised)).getD 0

/-- Slot k raises MODE bits (R165): those of a half under replay are its own, but for the ones that finished work has
set already; others stand whatever becomes of the halves under replay. -/
def Group.raiseFor (g : Group) (k : Nat) (half : Bool) (bits : BitVec 16) : Group :=
  match half, (g.slot k).redo with
  | true, some h =>
    let new := bits &&& ~~~(g.mode &&& ~~~g.ownBits (1 - k))
    { g.setSlot k { g.slot k with redo := some { h with raised := h.raised ||| new } } with mode := g.mode ||| bits }
  | _, _ => { g with slot0 := g.slot0.sharesBits bits, slot1 := g.slot1.sharesBits bits, mode := g.mode ||| bits }

/-- MODE bits that an instruction writes are no half's own (R165). -/
def Group.settleBits (g : Group) (bits : BitVec 16) : Group :=
  { g with slot0 := g.slot0.sharesBits bits, slot1 := g.slot1.sharesBits bits }
def Group.setMode (g : Group) (m : BitVec 16) : Group := { g with mode := m }

/-- After the last replay, the half takes its correct mask (R133), and the MODE bits that it raised stand. -/
def Group.afterReplay (g : Group) (k : Nat) : Group :=
  let x := g.slot k
  match x.replays with
  | [] =>
    let bits := g.ownBits k
    let g := g.setSlot k { x with mask := x.finalMask, redo := none }
    g.setSlot (1 - k) ((g.slot (1 - k)).sharesBits bits)
  | _ => g

/-- The held stores of slot k can be performed from now on (R133). -/
def Group.releaseHeld (g : Group) (k : Nat) : Group :=
  { g with ops := g.ops.map (fun e => (e.1, if e.2.slot == k then { e.2 with half := false } else e.2)) }

/-- Sticky bits of the lanes of `m` that a half has recorded (R165). -/
def Half.bits (h : Half) (m : Mask) : BitVec 16 :=
  h.sticky.foldl (fun a e => if m.getLsbD e.1 then a ||| e.2 else a) 0

/-- The clause of slot k has issued its last instruction; the slot's next clause starts in a later cycle (R101), and
so sees this clause's counts (R19). `next` says that the slot goes on at the clause in sequence (R49); `counted`
that the clause's flag may count down. -/
def State.endClause (s : State) (gid k : Nat) (next counted : Bool) : State :=
  match s.group? gid with
  | none => s
  | some g =>
    let S := g.slot k
    match S.running with
    | none => s
    | some r =>
      let s := s.freeCslot g.part r
      let g := g.setSlot k { S with running := none, eligFrom := s.cycle + 1 }
      let g := if clauseHasYield r && !r.replay then g.applyYield s.cycle else g
      let g := if counted then g.endCount r.clauseId else g
      let g :=
        if r.replay then
          let S := g.slot k
          let g := (g.setSlot k { S with replays := S.replays.drop 1 }).afterReplay k
          if (g.slot k).replays.isEmpty then
            let g := g.releaseHeld k
            if (g.slot k).resumeIdx == 0 then g.setPc k (g.slot k).pc else g
          else g
        else if next then g.setPc k (r.clause.addr + w64n (8 * (r.clause.words.length + 1)))
        else g
      s.setGroup gid g

/-- The instruction at `cur` has issued: it retires and the clause goes on (R55) or ends. `next` and
`counted` as for `endClause`. -/
def State.advanceWith (s : State) (next counted : Bool) : State :=
  let gid := s.cur.gid
  let k := s.cur.slot
  match s.group? gid with
  | none => s
  | some g =>
    match (g.slot k).running with
    | none => s
    | some r =>
      let i := r.idx + 1
      let g := g.retire k r.replay
      let g := if r.replay then g else
        g.modHalf k (fun h => { h with clauses := match h.clauses with
          | [] => []
          | c :: t => { c with count := i, nums := c.nums ++ [s.nextId - 1] } :: t })
      let r' := { r with idx := i, readyAt := s.cycle + (decodeHeader r.clause.header).distance i }
      let s := s.setGroup gid (g.setSlot k { g.slot k with running := some r' })
      if i < r.count then s else s.endClause gid k next counted

/-- The ordinary end of an instruction. -/
def State.advance (s : State) : State := s.advanceWith true true

/-! ### Results of fixed latency (R56) -/

/-- Queue the register updates of the instruction at `cur`, readable L cycles after its issue. -/
def State.pendResult (s : State) (lat : Nat) (upds : List RegUpd) (sticky : List (Nat × BitVec 16)) :
    State :=
  match s.group? s.cur.gid with
  | none => s
  | some g =>
    match (g.slot s.cur.slot).running with
    | none => s
    | some r =>
      let p : Pending :=
        { due := s.cycle + lat, issueAt := s.cycle, startAt := r.startAt, seq := s.nextId,
          clauseId := r.clauseId, slot := s.cur.slot, half := g.undoable s.cur.slot,
          sup := g.supervisor,
          upds := upds, sticky := sticky }
      { s.setGroup s.cur.gid { g with results := g.results ++ [p] } with nextId := s.nextId + 1 }

/-! ### Completion flags and operations -/

/-- The flag on which the instruction counts, from its clause header (R52). -/
def unitFlag (h : Header) (sel : Bool) : Nat := if sel then h.bflag.toNat else h.aflag.toNat

/-- The number that the instruction slot k replays had at its first issue (R133). -/
def Group.firstIssue (g : Group) (k : Nat) : Option Nat :=
  match (g.slot k).running, (g.slot k).replays with
  | some r, c :: _ => if r.replay then c.nums[r.idx - c.first]? else none
  | _, _ => none

/-- The cycle in which the clause that slot k runs started. -/
def Group.startOf (g : Group) (k : Nat) : Nat := ((g.slot k).running.map (fun r => r.startAt)).getD 0

/-- A scalar that the instruction at `cur` writes in its issue cycle (R190). -/
def State.putNow (s : State) (g : Group) (n : Nat) (x : Word64) : Group :=
  { g.setSreg n x with scaAt := dput g.scaAt (scaKey g.supervisor n) (s.cycle, g.startOf s.cur.slot) }

/-- Enter an operation of the instruction at `cur`: it counts once on its flag (R52). `mer` says that
it needs a Meridian position (R371). Its number is the former `nextId`. -/
def State.addOpMer (s : State) (sel mer : Bool) (kind : OpKind) : State :=
  match s.group? s.cur.gid with
  | none => s
  | some g =>
    let f := unitFlag (decodeHeader s.cur.header) sel
    let op : Op := { slot := s.cur.slot, flag := some f, counts := 1, wordAt := s.cur.addr,
                     half := g.undoable s.cur.slot, sup := g.supervisor, mer := boolBit mer,
                     place := g.firstIssue s.cur.slot, clock := g.lclk, issueAt := s.cycle,
                     startAt := g.startOf s.cur.slot, kind := kind }
    let g := { g.incFlag f with ops := dput g.ops s.nextId op }
    { s.setGroup s.cur.gid g with nextId := s.nextId + 1 }

def State.addOp (s : State) (sel : Bool) (kind : OpKind) : State := s.addOpMer sel false kind

/-- A scalar that operation n writes (R190), in the bank of the mode it was issued in (R139). -/
def Group.opSca (g : Group) (n r : Nat) (x : Word64) : Group :=
  match dget g.ops n with
  | some o => g.putSca o.sup r x o.issueAt o.startAt
  | none => g

/-- An operation has completed: its counts come off its flag (R52). -/
def Group.completeOp (g : Group) (op : Nat) : Group :=
  match dget g.ops op with
  | none => g
  | some o =>
    let g := { g with ops := ddel g.ops op }
    match o.flag with
    | none => g
    | some f => g.decFlag f o.counts

def State.completeOp (s : State) (gid op : Nat) : State := s.modGroup gid (fun g => g.completeOp op)

/-! ### Raising a trap -/

/-- Slot k stops at instruction `idx` of its clause (R108, R141). -/
def State.stopSlot (s : State) (gid k idx : Nat) : State :=
  match s.group? gid with
  | none => s
  | some g =>
    let S := g.slot k
    match S.running with
    | none => s.setGroup gid (g.setSlot k { S with resumeIdx := idx, clause := none })
    | some r =>
      let s := s.freeCslot g.part r
      let g := g.setSlot k { S with running := none, resumeIdx := idx, clause := none }
      s.setGroup gid (g.endCount r.clauseId)

/-- A replay of slot k met a trap (log 28). The branch must end as without prediction (R134), so the
half's lanes go back to their state at the branch, its held stores and loads in flight are dropped,
its retirements are taken back, and it runs again from its start, in all its lanes and with no
speculation; the trap then arises in its place. -/
def State.redoHalf (s : State) (gid k : Nat) : State :=
  match s.group? gid with
  | none => s
  | some g =>
    let S := g.slot k
    match S.redo with
    | none => s
    | some h =>
      let m := S.finalMask
      let g : Group := h.shadows.foldl (fun (g : Group) e =>
        { g with vregs := tset 0 g.vregs e.1 (mergeLine m (tget 0 g.vregs e.1) e.2) }) g
      let drop (o : Op) : Op :=
        if o.slot == k && o.half then match o.kind with
          | .store or sc n _ => { o with half := false, kind := .store or sc n [] }
          | .load or sc n d f _ _ => { o with kind := .load or sc n d f [] [], data := [] }
          | _ => o
        else o
      let g : Group := { g with
        results := g.results.map (fun r =>
          if r.slot == k && r.half then { r with half := false, upds := [], sticky := [] } else r),
        ops := g.ops.map (fun e => (e.1, drop e.2)),
        dix := g.dix - BitVec.ofNat 48 h.retired, lclk := g.lclk - BitVec.ofNat 48 h.retired,
        mode := g.mode &&& ~~~(h.raised &&& ~~~g.ownBits (1 - k)) }
      let S : Slot := { S with
        pc := h.startPc, mask := m, running := none, resumeIdx := 0, clause := none, replays := [],
        redo := none, finalMask := 0, eligFrom := s.cycle + 1 }
      s.setGroup gid (g.setSlot k S)

/-- Does slot k's trap of this cycle take the place of the trap that is requested (R141)? -/
def TrapReq.yields (q : TrapReq) (k cycle : Nat) : Bool := q.cycle == cycle && q.slot == 1 && k == 0

/-- Is a trap that slot k raises now taken, and not left to its re-issue after RTE (R141)? -/
def Group.takesTrap (g : Group) (k cycle : Nat) : Bool :=
  match g.trapReq with
  | none => true
  | some q => q.yields k cycle

/-- A requested trap gives way to another (R141): a TRAP has then not issued. -/
def Group.giveWay (g : Group) (q : TrapReq) : Group :=
  let g := if q.code == 0x0E then g.unretire else g
  match q.flag with
  | some f => g.decFlag f 1
  | none => g

/-- Raise a trap in slot `r.slot` (R137 to R141). In supervisor mode it is a double trap and ends the
context. In a speculative half it waits for the resolution: the half stops before the instruction
and runs it again afterwards (R138). While another trap of the group waits, the slot records where
it stopped; of two traps of one cycle slot 0's is taken, and a TRAP instruction that gives way has not
retired. -/
def State.raiseTrap (s : State) (gid : Nat) (r : TrapReq) : State :=
  match s.group? gid with
  | none => s
  | some g =>
    let s' := s.stopSlot gid r.slot r.idx
    if ((g.slot r.slot).running.map (fun x => x.replay)).getD false then s'.redoHalf gid r.slot
    else if g.supervisor then
      s'.terminate g.ctx 1 (BitVec.ofNat 16 ((g.tr.ecause.toNat % 256) + 256 * r.code.toNat)) 0 g.gridId
    else if (g.half? r.slot).isSome then
      s'.modGroup gid (fun g => g.modHalf r.slot (fun h => { h with halted := true }))
    else match g.trapReq with
      | none => s'.modGroup gid (fun g => { g with trapReq := some r })
      | some q =>
        if q.yields r.slot s.cycle then
          s'.modGroup gid (fun g => { g.giveWay q with trapReq := some r })
        else s'

/-- A trap precise at the instruction at `cur` (R59). -/
def State.trapHere (s : State) (code : BitVec 8) (einfo : Word64) (lanes : Mask)
    (faddr : List (Nat × Word64)) : State :=
  s.raiseTrap s.cur.gid
    { slot := s.cur.slot, cycle := s.cycle, code := code, atClause := false, idx := s.cur.idx,
      pc := s.cur.clauseAt, done := false, arg := 0, einfo := einfo, etxf := 0, lanes := lanes,
      faddr := faddr }

/-- A trap precise at the clause at `pc` of slot k (R137). -/
def State.trapClause (s : State) (gid k : Nat) (code : BitVec 8) (pc einfo etxf : Word64)
    (arg : BitVec 12) (lanes : Mask) (faddr : List (Nat × Word64)) : State :=
  s.raiseTrap gid
    { slot := k, cycle := s.cycle, code := code, atClause := true, idx := 0, pc := pc, done := false,
      arg := arg, einfo := einfo, etxf := etxf, lanes := lanes, faddr := faddr }

/-- The predicate of a word, for the lanes of its trap (R61, R139 step 5). -/
def State.curExec (s : State) : Mask :=
  match s.group? s.cur.gid with
  | none => 0
  | some g => g.exec s.cur.mask (negOf s.cur.word) (predOf s.cur.word)

/-- The illegal-instruction trap (R59, R73). -/
def State.illegal (s : State) : State := s.trapHere 0x04 s.cur.word s.curExec []

/-- The privileged-instruction trap (R75). -/
def State.privilegeTrap (s : State) : State := s.trapHere 0x05 s.cur.word s.curExec []

/-! ### Taking a trap -/

/-- ESTATE (R144). -/
def mkEstate (done : Bool) (slot : Nat) (rest clause : Bool) (idx : Nat) : Word64 :=
  w64n (boolBit done * 2 ^ 11 + slot * 2 ^ 10 + boolBit rest * 2 ^ 9 + boolBit clause * 2 ^ 8 + idx % 16)

/-- Entry to the handler (R139, steps 3 to 6), once the group's fixed-latency results are written. -/
def Group.enterTrap (g : Group) (r : TrapReq) (tvec fvec : Word64) (cycle : Nat) : Group :=
  let S := g.slot r.slot
  let o := 1 - r.slot
  let tr : TrapRegs :=
    { ecause := w64n (r.code.toNat + r.arg.toNat * 2 ^ 16), epc := r.pc,
      estate := mkEstate r.done r.slot S.resting r.atClause (if r.atClause then 0 else r.idx),
      emask := S.mask, ejoin := S.join, efmt := S.fmt, einfo := r.einfo, etxf := r.etxf,
      emode := g.mode }
  let S' : Slot := { emptySlot with pc := if r.code = 0x01 then fvec else tvec, mask := S.mask,
                                    stamp := S.stamp, eligFrom := cycle + 1 }
  let wasFirst := g.first == r.slot
  let g := (g.setSlot r.slot S').setSlot o { g.slot o with held := true }
  -- a TRAP completes (R145)
  let g := match r.flag with
    | some f => g.decFlag f 1
    | none => g
  { g with tr := tr, supervisor := true, supP7 := r.lanes, mode := modeReset, trapReq := none, posted := none,
           floor := g.spill.length, curRefusal := r.refusal, first := r.slot, wasFirst := wasFirst,
           refusals := g.refusals.filter (fun x => some x != r.refusal),
           matrixTraps := match r.matrix with
             | some x => g.matrixTraps.erase x
             | none => g.matrixTraps,
           faddr := r.faddr.foldl (fun f e => tset 0 f e.1 e.2) g.faddr }

/-! ### Returning from a trap -/

/-- The YIELDC that a slot was waiting on when a matrix trap took the slot (R309): no slot and no spill entry
names it. -/
def Group.strayYieldc (g : Group) : Option Nat :=
  (g.ops.find? (fun e => (match e.2.kind with
    | .yieldc .. => true
    | _ => false) && g.slot0.yieldc != some e.1 && g.slot1.yieldc != some e.1 &&
      !g.spill.any (fun x => x.yieldc == some e.1))).map (fun e => e.1)

/-- The restore of RTE (R145); the reserved bits of MODE read zero (R164). `skip` is SUB 001: it
sets ESTATE.DONE of a trap inside a clause. The slot restored is the one that issued the RTE, whatever
ESTATE.SLOT says (DESIGN CHOICE, log 82). One restored with a PC equal to its join stays live there, since R114 lists
no RTE among what sets a PC (DESIGN CHOICE, log 103). A YIELDC that the slot waited on is waited on again. -/
def Group.leaveTrap (g : Group) (k : Nat) (skip : Bool) (cycle : Nat) : Group :=
  let st := g.tr.estate
  let clause := st.getLsbD 8
  let done := st.getLsbD 11 || (skip && !clause)
  let idx := if clause then 0 else fld st 3 0 + boolBit done
  let m := g.tr.emask &&& ~~~g.xmask
  let S : Slot := { emptySlot with pc := g.tr.epc, mask := m, fmt := g.tr.efmt, join := g.tr.ejoin,
                                   resting := st.getLsbD 9, stamp := (g.slot k).stamp,
                                   resumeIdx := idx, eligFrom := cycle + 1, yieldc := g.strayYieldc }
  let o := 1 - k
  let g := (g.setSlot k (if m = 0 then { emptySlot with stamp := S.stamp } else S)).setSlot o { g.slot o with held := false }
  { g with mode := g.tr.emode &&& 0x3F3F#16, supervisor := false, curRefusal := none, floor := 0,
           first := if g.wasFirst then k else o,
           -- an FQPOST still pending belongs to no later activation (R227)
           ops := g.ops.map (fun (e : Nat × Op) => (e.1, match e.2.kind with
             | .fqpost sb w _ => { e.2 with kind := .fqpost sb w false }
             | _ => e.2)),
           tr := if skip && !clause then { g.tr with estate := st ||| 0x800#64 } else g.tr,
           spill := g.spill.map (fun e => { e with held := false }) }

/-! ### The check before every instruction (R59, R74, R75) -/

/-- Is the instruction at `cur` legal under the group's budget and the slot's FMT? -/
def Group.legal (g : Group) (k : Nat) (i : Instr) : Bool :=
  (sigOf g.budget (fld (g.slot k).fmt 3 0) i).ok

/-- Run the meaning `f` of instruction `i` in the group at `cur`: nothing happens where no clause of
the slot is running; an illegal word or a privileged one in user mode traps. -/
def State.guarded (s : State) (i : Instr) (f : Group → State) : State :=
  match s.group? s.cur.gid with
  | none => s
  | some g =>
    if (g.slot s.cur.slot).running.isNone then s
    else if !g.legal s.cur.slot i then s.illegal
    else if privileged i && !g.supervisor then s.privilegeTrap
    else f g

end Sys2Proof.Machine
end

