-- ==== Sys2Proof/Machine/Link.lean ====
section
/-!
DEFINITION. The sending side of the data ports (R374 to R381, R385) and the end of a step that touches
memory: `finish` turns what the step needed of a pooled node into requests.
-/
namespace Sys2Proof.Machine

/-! ### Ports of a node (R374) -/

def State.port (s : State) (p : Nat) : Port := tget {} s.ports p
def State.setPort (s : State) (p : Nat) (x : Port) : State := { s with ports := tset {} s.ports p x }

/-- Is the port up in native or compatibility mode? -/
def Port.on (x : Port) : Bool := (x.mode == 1 || x.mode == 2) && x.up

/-- The ports that carry requests to pooled node n, ascending. -/
def State.nodePorts (s : State) (n : Nat) : List Nat :=
  (List.range 44).filter (fun p => (s.port p).on && (s.port p).node == n)

/-- The node of a frame of pooled memory (R211). -/
def frameNode (frame : Nat) : Nat := (frame * 256 - 2 ^ 46) / 2 ^ 41

/-- The port that a request for a frame uses, PA[31:8] mod c. -/
def State.portFor (s : State) (frame : Nat) : Option Nat :=
  let l := s.nodePorts (frameNode frame)
  l[frame % 2 ^ 24 % max 1 l.length]?

/-! ### Flits (R375, R380) -/

/-- The header of a flit with AUTH zero, 12 bytes. -/
def flitHead (f : Flit) : List Byte :=
  toBytes 12 (f.seq.toNat * 2 ^ 84 + f.ack.toNat * 2 ^ 72 + f.ch.toNat * 2 ^ 69 + f.cred.toNat * 2 ^ 63 +
    boolBit f.ks * 2 ^ 62 + f.kind.toNat * 2 ^ 58 + boolBit f.drp * 2 ^ 57 + f.tag.toNat * 2 ^ 47)

/-- Is the kind sequenced, encrypted and paid for with a credit? -/
def sequenced (kind : BitVec 4) : Bool := (decide (1 ≤ kind.toNat) && decide (kind.toNat ≤ 5)) ||
  (decide (7 ≤ kind.toNat) && decide (kind.toNat ≤ 9))

/-- IV of R380: port, direction (0 from the device), slot, count. -/
def ivOf (port dir slot count : Nat) : List Byte := toBytes 1 port ++ toBytes 1 dir ++ toBytes 1 slot ++ toBytes 8 count

/-- A flit of the given kind before it is sent. -/
def mkFlit (kind ch tag : Nat) (drp : Bool) (payload : BitVec 512) : Flit :=
  { seq := 0, ack := 0, ch := BitVec.ofNat 3 ch, cred := 0, ks := false, kind := BitVec.ofNat 4 kind, drp := drp,
    tag := BitVec.ofNat 10 tag, auth := 0, payload := payload }

/-- Does a flit of this port spend a credit (R377, R379)? -/
def Port.pays (x : Port) (f : Flit) : Bool :=
  !f.drp && (x.mode == 1 || [0, 1, 4, 5, 6].contains f.ch.toNat)

/-- Is the boundary of an announced set due before its echo has come? The transmitter then sends nothing but the
announcement, which it repeats (R381). After a loss of light only new flits are held (R383, R386). -/
def Port.mute (x : Port) : Bool :=
  !x.lossHold && (match x.ann with
    | some a => !a.echoed && a.bound == x.txSeq
    | none => false)

/-- May the port send new flits now (R380, R381, R383)? -/
def Port.open_ (x : Port) : Bool :=
  x.on && (dget x.txKeys (boolBit x.ktx)).isSome && !x.lossHold && !x.mute

/-- Has the port room and credits for a whole packet (R377, R378)? -/
def Port.affords (x : Port) (l : List Flit) : Bool :=
  decide (x.replay.length + l.length ≤ 1024) &&
    l.all (fun f => !x.pays f ||
      decide ((l.filter (fun g => g.ch == f.ch && x.pays g)).length ≤ tget 0 x.credits f.ch.toNat))

/-- A change of the set takes effect when the next flit is the boundary (R381). -/
def State.switchTx (s : State) (p : Nat) : State :=
  let x := s.port p
  match x.ann with
  | some a =>
    if a.echoed && a.bound == x.txSeq then
      let lost := popcount (x.txact &&& ~~~a.mask)
      let won := popcount (a.mask &&& ~~~x.txact)
      let s := s.setPort p { x with txact := a.mask, ann := none }
      if lost + won = 1 then
        { s with evQueue := s.evQueue ++ [{ typ := if lost = 1 then 1 else 2, unit := 0, index := p, old := x.txact,
                                            new := a.mask, place := a.bound.zeroExtend 64, detail := 0 }] }
      else s
    else s
  | none => s

/-- Send an unsequenced flit; it carries a valid ACK and the credits owed on its channel. While the port is mute only
an announcement goes (R381). -/
def State.sendPlain (s : State) (p : Nat) (f : Flit) : State :=
  let x := s.port p
  if x.mute && f.kind != 10 then s else
  let cred := min 63 (tget 0 x.owed f.ch.toNat)
  let f := { f with ack := x.rxNext - 1, cred := BitVec.ofNat 6 cred }
  s.setPort p { x with out := f :: x.out, owed := tset 0 x.owed f.ch.toNat (tget 0 x.owed f.ch.toNat - cred) }

/-- Send a new sequenced flit: SEQ, ACK, CRED, encryption and AUTH. -/
def State.sendNew (s : State) (p : Nat) (f : Flit) : State :=
  let x := s.port p
  let c := f.ch.toNat
  let cred := min 63 (tget 0 x.owed c)
  let slot := boolBit x.ktx
  let key := (dget x.txKeys slot).getD 0
  let iv := ivOf p 0 slot (tget 0 x.txCount slot)
  let g := { f with seq := x.txSeq, ack := x.rxNext - 1, cred := BitVec.ofNat 6 cred, ks := x.ktx,
                    payload := Config.gcmCipher key iv f.payload }
  let g := { g with auth := Config.gcmTag key iv (flitHead g) g.payload }
  let x' : Port := { x with
    txSeq := x.txSeq + 1, replay := x.replay ++ [g], out := g :: x.out,
    ackAt := if x.replay.isEmpty then s.cycle else x.ackAt,
    txCount := tset 0 x.txCount slot (tget 0 x.txCount slot + 1),
    credits := if x.pays f then tset 0 x.credits c (tget 0 x.credits c - 1) else x.credits,
    owed := tset 0 x.owed c (tget 0 x.owed c - cred) }
  (s.setPort p x').switchTx p

/-- Send flits at consecutive SEQ values, as far as the active set lets them go; the rest of the packet follows before
anything else (R385). -/
def State.sendFlits (s : State) (p : Nat) : List Flit → State
  | [] => s.setPort p { s.port p with mid := [] }
  | f :: t => if (s.port p).open_ then (s.sendNew p f).sendFlits p t else s.setPort p { s.port p with mid := f :: t }

/-- Send the waiting packets of a port, each whole; one that cannot go holds back those behind it on its channels
alone (R377). -/
def State.sendPackets (s : State) (p : Nat) : List (List Flit) → List (List Flit) → State
  | [], kept => s.setPort p { s.port p with pend := kept.reverse }
  | l :: t, kept =>
    let x := s.port p
    let behind := kept.any (fun k => k.any (fun f => l.any (fun g => f.ch == g.ch)))
    if x.open_ && x.mid.isEmpty && x.affords l && !behind then (s.sendFlits p l).sendPackets p t kept
    else s.sendPackets p t (l :: kept)

def State.drain (s : State) (p : Nat) : State :=
  let s := s.switchTx p
  let s := s.sendFlits p (s.port p).mid
  s.sendPackets p (s.port p).pend []

/-- Queue a packet and send what can go. -/
def State.sendAll (s : State) (p : Nat) (l : List Flit) : State :=
  (s.setPort p { s.port p with pend := (s.port p).pend ++ [l] }).drain p

/-! ### Requests (R374, R379, R385) -/

/-- The words of a frame that hold a byte of a write. -/
def wordsOf (d : Dict Byte) : Word64 := d.foldl (fun a e => a ||| (1#64 <<< (e.1 % 256 / 4))) 0
/-- The bytes of a frame that a write holds. -/
def maskOf256 (d : Dict Byte) : BitVec 256 := d.foldl (fun a e => a ||| (1#256 <<< (e.1 % 256))) 0

/-- The error bits SRCF and DSTF of a completion object (R317). -/
def errSrc : Nat := 2 ^ 8
def errDst : Nat := 2 ^ 9

/-- The payload of a request flit (log 38): frame address, span words, operation (0 read, 1 write, 2 atomic), the port
and tag it had before, what an atomic does, its size and offset, and the bytes of a write. -/
def reqPayload (r : PortReq) : BitVec 512 :=
  BitVec.ofNat 512 (r.frame * 256 + r.words.toNat * 2 ^ 64 + (if r.atom.isSome then 2 else boolBit r.write) * 2 ^ 128 +
    (match r.orig with
      | some (p, t) => 2 ^ 132 + p * 2 ^ 136 + t * 2 ^ 144
      | none => 0) +
    (match r.atom with
      | some a => a.code * 2 ^ 160 + a.size * 2 ^ 168 + a.off * 2 ^ 176
      | none => 0) + (maskOf256 r.data).toNat * 2 ^ 256)

/-- The quarters of a frame that words touch. -/
def quarters (words : Word64) : List Nat := (List.range 4).filter (fun q => fld words (16 * q + 15) (16 * q) != 0)

/-- A quarter of a write as a payload; the bytes that it does not write are zero. -/
def quarterData (d : Dict Byte) (q : Nat) : BitVec 512 :=
  BitVec.ofNat 512 (ofBytes ((List.range 64).map (fun i => (dget d (64 * q + i)).getD 0)))

/-- Is a write a bulk packet in compatibility mode: one of 256 bytes (R379)? -/
def PortReq.bulk (r : PortReq) : Bool := r.write && r.data.length == 256

/-- The flits of a request: the request itself and, of a write or an atomic, its data. -/
def PortReq.flits (r : PortReq) (drp : Bool) : List Flit :=
  let ch := if r.ch = 0 then 2 else r.ch
  mkFlit 1 (if r.atom.isSome then 5 else r.ch) r.tag drp (reqPayload r) ::
    (match r.atom with
      | some a => [mkFlit 3 5 r.tag false (BitVec.ofNat 512 (a.val.toNat + a.cmp.toNat * 2 ^ 128))]
      | none => if r.write then (quarters r.words).map (fun q => mkFlit 3 ch r.tag drp (quarterData r.data q)) else [])

/-- The lowest tag of a port that is free. -/
def Port.freeTag (x : Port) : Option Nat := (List.range 1024).find? (fun t => !x.reqs.any (fun r => r.tag == t))

/-- Can a request for this frame go out now: a port with a free tag, and none for the frame waiting before it? -/
def State.canRequest (s : State) (frame : Nat) : Bool :=
  !s.reqQueue.any (fun r => r.frame == frame) && (match s.portFor frame with
    | some p => (s.port p).freeTag.isSome
    | none => false)

/-- Give a request a tag of port p, and its packet its place there, the first one with `front`. -/
def State.place (s : State) (p tag : Nat) (front : Bool) (r : PortReq) : State :=
  let x := s.port p
  let r := { r with tag := tag }
  let bulk := x.mode == 2 && r.bulk
  let flits := r.flits bulk
  s.setPort p { x with
    reqs := x.reqs ++ [r], pend := if front then flits :: x.pend else x.pend ++ [flits],
    bulks := if bulk then x.bulks ++ [{ tag := tag, flits := flits }] else x.bulks }

/-- End a copy piece that its node cannot take: it is counted with DSTF (R374, R329). -/
def State.pieceLost (s : State) (key n : Nat) : State :=
  match dget s.jobs key with
  | some j => { s with jobs := dput s.jobs key { j with ended := j.ended ++ [(s.cycle, n, errDst)] } }
  | none => s

/-- No port reaches the node of a request that was made (R374): a piece is counted with DSTF, a group's request ends
its context, a read is asked for again by what needs it, and a write-back waits for a port. -/
def State.reqLost (s : State) (r : PortReq) : State :=
  match r.job, r.ctx with
  | some (key, n), _ => s.pieceLost key n
  | none, some (c, grid) => s.terminate c 5 0 (w64n (frameNode r.frame)) grid
  | none, none => if r.write then { s with reqQueue := s.reqQueue ++ [r] } else s

/-- Send a request; where it cannot go a write waits, and a read is asked for again by the step that needs it. -/
def State.request (s : State) (r : PortReq) : State :=
  match s.portFor r.frame with
  | some p => match (s.port p).freeTag with
    | some tag =>
      if s.reqQueue.any (fun q => q.frame == r.frame) then
        (if r.write || r.atom.isSome then { s with reqQueue := s.reqQueue ++ [r] } else s)
      else (s.place p tag false r).drain p
    | none => if r.write || r.atom.isSome then { s with reqQueue := s.reqQueue ++ [r] } else s
  | none => s.reqLost r

/-- Send the waiting requests, in order, as far as they can go. -/
def State.sendQueued (s : State) : State :=
  s.reqQueue.foldl (fun s r => s.request r) { s with reqQueue := [] }

/-- The words of a frame whose reads are outstanding on the ports. -/
def State.reading (s : State) (frame : Nat) : Word64 :=
  s.ports.foldl (fun a e => e.2.reqs.foldl (fun a r =>
    if r.frame == frame && !r.write && r.atom.isNone then a ||| r.words else a) a) 0

/-- The writes and atomics to nodes that are not complete. -/
def State.nodeWrites (s : State) : List PortReq :=
  (s.ports.flatMap (fun e => e.2.reqs) ++ s.reqQueue).filter (fun r => r.write || r.atom.isSome)

/-- Is a write to a node, of those that a release counts as its own, not complete (R260, R266)? -/
def State.relBusy (s : State) (bound : Nat) : Bool := s.nodeWrites.any (fun r => decide (r.num ≤ bound))

/-! ### Writes of the host that its own stores go before (R398) -/

/-- Is a store of the host to device memory still held, or a write of the host behind one? -/
def State.hostBehind (s : State) : Bool :=
  !s.heldBar.isEmpty || s.heldHost.any (fun h => match h.req with
    | .write _ | .cas .. | .own => true
    | .read _ | .share => false)

/-- A write to an enqueue port or a doorbell reaches the device only after the host's earlier stores (R398). -/
def State.afterHost (s : State) (i : Instr) (act : State → Host.Outcome State Fault Refusal) :
    Host.Outcome State Fault Refusal :=
  if s.hostBehind then .next { s with heldBar := s.heldBar ++ [i] } else act s

/-! ### The end of a step -/

/-- A coherence request for a frame, to be given a slot (R371). -/
def ownUnit (agent frame : Nat) : Unit64 :=
  { frame := 0, index := 0, src := BitVec.ofNat 6 agent, dst := 0, bc := true, typ := 0x01, tag := 0,
    body := BitVec.ofNat 416 (frame * 256), good := true }

/-- Ask for the ownership of frames, and for words of others, those not yet on their way (R234). -/
def State.ask (s : State) (own : List Nat) (read : Tab Word64) : State :=
  let new := own.filter (fun f => !s.mer.asking.contains f)
  let s := { s with mer := { s.mer with asking := s.mer.asking ++ new
                                        wants := s.mer.wants ++ new.map (ownUnit s.fabid) } }
  read.foldl (fun s f =>
    let words := f.2 &&& ~~~s.reading f.1
    -- a read follows the writes of its frame, which may be on another channel
    if words = 0 || s.nodeWrites.any (fun r => r.frame == f.1) then s else s.request { frame := f.1, words := words, write := false }) s

/-- The write requests of a step, the end of the data it used, and the lines of R396 it acted on. -/
def State.settleNode (s : State) : State :=
  if s.wrote.isEmpty && s.gotRead.isEmpty && s.backTook.isEmpty && s.writer.isNone then s else
  let keys := (s.wrote.map (fun w => (w.1, w.2.2.1))).eraseDups
  let data (k : Nat × Nat) : Dict Byte :=
    s.wrote.foldl (fun d w => if (w.1, w.2.2.1) = k then dput d w.2.1 w.2.2.2 else d) []
  let s' := { s with wrote := [], gotRead := [], backTook := [], writer := none
                     arrived := s.gotRead.foldl (fun a f => tmod 0 a f.1 (fun w => w &&& ~~~f.2)) s.arrived
                     backDone := s.backDone.filter (fun l => !s.backTook.contains l)
                     nextId := if keys.isEmpty then s.nextId else s.nextId + 1 }
  keys.foldl (fun t k => t.request
    { frame := k.1, words := wordsOf (data k), write := true, ch := k.2, data := data k, num := s.nextId,
      ctx := if k.2 = 5 then s.writer else none }) s'

/-- Has something that the step touched to be waited for? -/
def State.waits (s : State) : Bool := s.unready || s.conflict.isSome || !(s.askOwn.isEmpty && s.askRead.isEmpty)

/-- What `s0` asks for so that the work that ended as `s` can be done later. -/
def State.askFor (s0 s : State) : State :=
  if s.unready then s0
  else match s.conflict with
    | some line => { s0 with backInv := if s0.backInv.contains line then s0.backInv else s0.backInv ++ [line] }
    | none => s0.ask s.askOwn s.askRead

/-- The end of a meaning that touches memory, begun in `s0` and worked out as `s`. A physical address
that does not exist (R211) is the machine's one fault. An access to memory that is not ready is held
(R401); so is one that meets a line the host holds, whose back-invalidation goes out (R396), and one
that needs the ownership or the data of a pooled frame, which are asked for (R371, R374): nothing else
happens in such a step. -/
def finish (s0 s : State) : Host.Outcome State Fault Refusal :=
  if s.waits then .next (s0.askFor s)
  else match s.absent with
    | some pa => .fault (.absentAddress pa)
    | none => .next s.settleNode

end Sys2Proof.Machine
end

