-- ==== Sys2Proof/Machine/Memory.lean ====
section
/-!
DEFINITION. Physical memory (R211), the places where an access is performed (R237, R255), the L1s
and L2s (R256, R392), and the team window (R215). Caches hold bytes (log 7): site c, 0 to 319, is the
L1 of core c, site 320 + d the L2 of die d, which keeps copies of pooled and host bytes only. A line moves whole.
-/
namespace Sys2Proof.Machine

/-! ### The physical map -/

inductive Region where
  | near (die : Nat) | far (die : Nat) | pooled (node : Nat) | host
  deriving DecidableEq, Repr

/-- The memory that holds a physical address (R211). -/
def region? (pa : Nat) : Option Region :=
  if pa < 4 * 2 ^ 32 then (if pa % 2 ^ 32 < 3 * 2 ^ 30 then some (.near (pa / 2 ^ 32)) else none)
  else if 2 ^ 40 ≤ pa && decide (pa < 2 ^ 40 + 4 * 2 ^ 36) then
    (if (pa - 2 ^ 40) % 2 ^ 36 < 48 * 2 ^ 30 then some (.far ((pa - 2 ^ 40) / 2 ^ 36)) else none)
  else if 2 ^ 46 ≤ pa && decide (pa < 2 ^ 47) then some (.pooled ((pa - 2 ^ 46) / 2 ^ 41))
  else if 2 ^ 51 ≤ pa && decide (pa < 2 ^ 52) then some .host
  else none

def isDevice (pa : Nat) : Bool :=
  match region? pa with
  | some (.near _) | some (.far _) => true
  | _ => false
def isHost (pa : Nat) : Bool := region? pa == some .host
def isPooled (pa : Nat) : Bool :=
  match region? pa with
  | some (.pooled _) => true
  | _ => false

/-- Device core to die (R12). -/
def dieOf (core : Nat) : Nat := core / 80
/-- Device partition to core (R12). -/
def coreOfPart (p : Nat) : Nat := p / 4
def Group.core (g : Group) : Nat := coreOfPart g.part

/-- Host memory is coherent (R388, R392). -/
def State.hostCoherent (s : State) : Bool := s.syscap.getLsbD 1

/-! ### The home of a byte -/

/-- Is the unit of a READY bit usable: from the cycle after the bit is set (R401)? -/
def State.usable (s : State) (bit : Nat) : Bool :=
  s.ready.getLsbD bit && !(s.readyAt == s.cycle + 1 && s.lastBit == bit)

/-- Is the memory of this address started (R401)? -/
def State.memReady (s : State) (pa : Nat) : Bool :=
  match region? pa with
  | some (.near d) => s.usable (2 + d)
  | some (.far d) => s.usable (6 + d)
  | _ => true

/-- Does the host directory make an access wait (R396)? -/
def State.hostHolds (s : State) (pa : Nat) (write : Bool) : Bool :=
  isDevice pa && s.hostDir.any (fun e => e.line == pa / 64 * 64 && (e.owned || write))

/-- A read of a node: the word's data must have arrived (R234, R371, R374). -/
def State.nodeRead (s : State) (pa : Nat) : State :=
  let f := pa / 256
  let w : Word64 := 1#64 <<< (pa % 256 / 4)
  if tget 0 s.arrived f &&& w = 0 then { s with askRead := tmod 0 s.askRead f (fun x => x ||| w) }
  else { s with gotRead := tmod 0 s.gotRead f (fun x => x ||| w) }

/-- A byte written at a node over a data port, on a channel; it waits while no port reaches the node. The node has it
once the request is complete (R385). -/
def State.nodeWrite (s : State) (pa ch : Nat) (b : Byte) : State :=
  if (s.portFor (pa / 256)).isNone then { s with unready := true }
  else { s with wrote := s.wrote.filter (fun w => !(w.1 == pa / 256 && w.2.1 == pa % 256 && w.2.2.1 == ch)) ++
                         [(pa / 256, pa % 256, ch, b)] }

/-- Does the node record this device as the owner of the byte's frame (R371)? -/
def State.owns (s : State) (pa : Nat) : Bool := dget s.mer.owners (pa / 256) == some s.fabid

/-- Ownership of the byte's frame is needed. -/
def State.needOwn (s : State) (pa : Nat) : State :=
  if s.owns pa || s.askOwn.contains (pa / 256) then s else { s with askOwn := s.askOwn ++ [pa / 256] }

/-- Note what an access to a home meets: an absent address, memory not ready, a line of the host, the read of a
node. -/
def State.touch (s : State) (pa : Nat) (write : Bool) : State :=
  if (region? pa).isNone then { s with absent := s.absent <|> some pa }
  else if !s.memReady pa then { s with unready := true }
  else if s.hostHolds pa write then { s with conflict := s.conflict <|> some (pa / 64 * 64) }
  else if isPooled pa then (if write then s else s.nodeRead pa)
  else if s.backDone.contains (pa / 64 * 64) then { s with backTook := pa / 64 * 64 :: s.backTook }
  else s

/-- Is the byte in host memory that is uncached (R392)? -/
def State.uncached (s : State) (pa : Nat) : Bool := isHost pa && !s.hostCoherent

/-- The byte at its home; in uncached host memory, once the posted writes that are on their way have been performed. -/
def State.rd (s : State) (pa : Nat) : Byte :=
  if s.uncached pa then ((s.hostPosted.reverse.find? (fun e => e.1 == pa)).map (fun e => e.2)).getD (tget 0 s.mem pa)
  else tget 0 s.mem pa

/-- Write a byte at its home: over a data port on channel 4 (R375), to uncached host memory as a posted write (R392). -/
def State.wr (s : State) (pa : Nat) (b : Byte) : State :=
  if isPooled pa then s.nodeWrite pa 4 b
  else if s.uncached pa then { s with hostPosted := s.hostPosted ++ [(pa, b)] }
  else { (s.touch pa true) with mem := tset 0 s.mem pa b }

/-- The oldest posted write is performed at the host. -/
def State.postOne (s : State) : State :=
  match s.hostPosted with
  | [] => s
  | e :: t => { s with hostPosted := t, mem := tset 0 s.mem e.1 e.2 }

/-- Every posted write is performed: an access performed at the host, and a release at system scope, come after them
(R392). -/
def State.flushPosted (s : State) : State :=
  { s with hostPosted := [], mem := s.hostPosted.foldl (fun m e => tset 0 m e.1 e.2) s.mem }

/-! ### Cached copies -/

def cacheKey (site pa : Nat) : Nat := site * 2 ^ 52 + pa
def l2Site (die : Nat) : Nat := 320 + die

def State.cached (s : State) (site pa : Nat) : Option CByte := dget s.cache (cacheKey site pa)

/-- The slice function of R14. -/
def sliceOf (pa : Nat) : Nat :=
  (List.range 11).foldl (fun a i => a ^^^ (pa / 2 ^ (8 + 4 * i) % 16)) 0

/-- The lines of 256 bytes that a cache can hold: of an L1, the local array less the stash of the teams on its core
(R13, R37); of one of the 16 slices of an L2, 3 MiB. -/
def State.lineRoom (s : State) (site : Nat) : Nat :=
  if site < 320 then
    4096 - s.teams.foldl (fun a e => if !e.2.saved && e.2.cores.contains site then a + e.2.stashSize / 256 else a) 0
  else 12288

/-- The lines of which a cache, or the slice of an L2 that has this byte, holds a byte; the bytes of a cache are listed
in rising order. -/
def State.lineCount (s : State) (site pa : Nat) : Nat :=
  (s.cache.foldl (fun (a : Nat × Option Nat) e =>
    if e.1 / 2 ^ 52 == site && a.2 != some (e.1 / 256) && (decide (site < 320) || sliceOf (e.1 % 2 ^ 52) == sliceOf pa)
    then (a.1 + 1, some (e.1 / 256)) else a) (0, none)).1

/-- Does a cache hold a byte of the line of this one? -/
def State.hasLine (s : State) (site pa : Nat) : Bool := s.cache.any (fun e => e.1 / 256 == cacheKey site pa / 256)

/-- Are all lines of a cache taken, and none of them the line of this byte? A step that needs a line then waits for an
eviction (log 7). -/
def State.cacheFull (s : State) (site pa : Nat) : Bool :=
  let room := s.lineRoom site
  decide (room ≤ s.cache.length) && decide (room ≤ s.lineCount site pa) && !s.hasLine site pa

/-- The mark of a line of a cache. -/
def markKey (site pa : Nat) : Nat := site * 2 ^ 44 + pa / 256

/-- Put a byte into a cache; a line that comes in has no mark (R236). -/
def State.cput (s : State) (site pa : Nat) (c : CByte) : State :=
  { s with cache := dput s.cache (cacheKey site pa) c, unready := s.unready || s.cacheFull site pa
           marks := if s.marks.isEmpty || s.hasLine site pa then s.marks else tset 0 s.marks (markKey site pa) 0 }
def State.cdel (s : State) (site pa : Nat) : State :=
  { s with cache := ddel s.cache (cacheKey site pa) }

/-- The line in which a cache holds a byte: 64 bytes of host memory in an L2 (R392), else 256 bytes. -/
def lineSize (site pa : Nat) : Nat := if 320 ≤ site && isHost pa then 64 else 256

/-- The bytes of the line of this one that a cache holds and `f` accepts. -/
def State.linePas (s : State) (site pa : Nat) (f : CByte → Bool) : List Nat :=
  let n := lineSize site pa
  (s.cache.filter (fun e => e.1 / n == cacheKey site pa / n && f e.2)).map (fun e => e.1 % 2 ^ 52)

/-- Write one L2 byte home and drop it; to a node only as the owner of its frame (R371). -/
def State.l2FlushByte (s : State) (pa die : Nat) : State :=
  match s.cached (l2Site die) pa with
  | none => s
  | some c =>
    (if c.dirty then (if isPooled pa then s.needOwn pa else s).wr pa c.val else s).cdel (l2Site die) pa

/-- Write the line of a byte home from an L2 and drop it: a line moves whole (R259, R399). -/
def State.l2Flush (s : State) (pa die : Nat) : State :=
  (s.linePas (l2Site die) pa (fun _ => true)).foldl (fun s p => s.l2FlushByte p die) s

/-- Move one byte of die e's L2 to die d's. -/
def State.l2MoveByte (s : State) (pa d e : Nat) : State :=
  match s.cached (l2Site e) pa with
  | none => s
  | some c => (s.cput (l2Site d) pa c).cdel (l2Site e) pa

/-- Move the line of a byte from die e's L2 to die d's. -/
def State.l2Move (s : State) (pa d e : Nat) : State :=
  (s.linePas (l2Site e) pa (fun _ => true)).foldl (fun s p => s.l2MoveByte p d e) s

/-- Make die d the only L2 that may hold the byte (span coherence, R211). -/
def State.l2Alone (s : State) (d pa : Nat) : State :=
  ([0, 1, 2, 3].filter (fun e => e != d)).foldl (fun s e => s.l2Move pa d e) s

/-- No L2 holds the byte any more: the home has its value. -/
def State.l2None (s : State) (pa : Nat) : State := [0, 1, 2, 3].foldl (fun s e => s.l2Flush pa e) s

/-- Does an L2 stand between a core and the home of this byte? -/
def State.throughL2 (s : State) (pa : Nat) : Bool := isPooled pa || (isHost pa && s.hostCoherent)

/-- Read a byte below the L1 at device scope: at the home slice, or in the L2 of the die that asks
(R255). -/
def State.devRead (s : State) (die pa : Nat) : State × Byte :=
  if s.throughL2 pa then
    let s := s.l2Alone die pa
    match s.cached (l2Site die) pa with
    | some c => (s, c.val)
    | none => ((s.touch pa false).cput (l2Site die) pa ⟨s.rd pa, false⟩, s.rd pa)
  else (s.touch pa false, s.rd pa)

/-- Write a byte below the L1 at device scope. -/
def State.devWrite (s : State) (die pa : Nat) (b : Byte) : State :=
  if s.throughL2 pa then (s.l2Alone die pa).cput (l2Site die) pa ⟨b, true⟩ else s.wr pa b

/-- n bytes at a physical address, at device scope. -/
def State.devBytes (s : State) (die : Nat) : Nat → Nat → State × List Byte
  | 0, _ => (s, [])
  | n + 1, pa =>
    let r := s.devRead die pa
    let t := r.1.devBytes die n (pa + 1)
    (t.1, r.2 :: t.2)

def State.devPut (s : State) (die : Nat) : List Byte → Nat → State
  | [], _ => s
  | b :: t, pa => (s.devWrite die pa b).devPut die t (pa + 1)

/-! ### The L1 of a core -/

/-- Write one dirty L1 byte toward its home; its copy stays, clean. -/
def State.l1CleanByte (s : State) (core pa : Nat) : State :=
  match s.cached core pa with
  | some c => if c.dirty then (s.devWrite (dieOf core) pa c.val).cput core pa ⟨c.val, false⟩ else s
  | none => s

/-- Write back the dirty bytes of a line of an L1: a line moves whole (R259). -/
def State.l1Clean (s : State) (core pa : Nat) : State :=
  (s.linePas core pa (fun c => c.dirty)).foldl (fun s p => s.l1CleanByte core p) s

/-- A load that misses a byte in the L1 takes nothing from older copies of the 8 bytes around it, so that a single-copy
atomic access is not torn (R233, R258). -/
def State.freshen (s : State) (core n pa : Nat) : State :=
  if (List.range n).all (fun i => (s.cached core (pa + i)).isSome) then s
  else { s with cache := s.cache.filter (fun e => e.2.dirty || e.1 / 2 ^ 52 != core ||
    decide (e.1 % 2 ^ 52 / 8 < pa / 8) || decide ((pa + n - 1) / 8 < e.1 % 2 ^ 52 / 8)) }

/-- The addresses that a site caches and that `f` accepts. -/
def State.sitePas (s : State) (site : Nat) (f : CByte → Bool) : List Nat :=
  (s.cache.filter (fun e => e.1 / 2 ^ 52 == site && f e.2)).map (fun e => e.1 % 2 ^ 52)

/-- Write back every dirty L1 byte of a core (R242, R256). -/
def State.l1WriteBack (s : State) (core : Nat) : State :=
  (s.sitePas core (fun c => c.dirty)).foldl (fun s pa => s.l1CleanByte core pa) s

/-- Drop the clean L1 bytes of a core (R242). -/
def State.l1Invalidate (s : State) (core : Nat) : State :=
  { s with cache := s.cache.filter (fun e => e.1 / 2 ^ 52 != core || e.2.dirty) }

/-! ### Levels at which an access is performed (R237, R255) -/

/-- 0: the issuing core's L1; 1: team to device scope; 2: constellation; 3: system. -/
def levelOf (order : Order) (scope : Scope) : Nat :=
  match order with
  | .plain | .evictFirst | .evictLast => 0
  | _ => match scope with
    | .group => 0
    | .team | .die | .device => 1
    | .constellation => 2
    | .system => 3

/-- Is the byte performed in an L2 at this level, rather than at its home? -/
def State.atL2 (s : State) (level pa : Nat) : Bool :=
  (isPooled pa && level == 1) || (isHost pa && s.hostCoherent && decide (level ≤ 2))

/-- At a Meridian position the L2s give up their copies of a pooled byte; a line with dirty bytes whose frame this
device does not own holds later plain stores, which stay until they are written back. -/
def State.l2Pass (s : State) (pa : Nat) : State :=
  [0, 1, 2, 3].foldl (fun s e => match s.cached (l2Site e) pa with
    | none => s
    | some c =>
      if s.owns pa || (s.linePas (l2Site e) pa (fun c => c.dirty)).isEmpty then s.l2Flush pa e
      else if c.dirty then s else s.cdel (l2Site e) pa) s

/-- The L2s give up their copies for an access at the home of a byte. -/
def State.l2Leave (s : State) (level pa : Nat) : State :=
  if isPooled pa && level == 2 then s.l2Pass pa else s.l2None pa

/-- Read a physical byte at a level. -/
def State.readPhys (s : State) (core level pa : Nat) : State × Byte :=
  if s.uncached pa then (s, s.rd pa)
  else if level = 0 then
    match s.cached core pa with
    | some c => (s, c.val)
    | none =>
      let r := s.devRead (dieOf core) pa
      (r.1.cput core pa ⟨r.2, false⟩, r.2)
  else
    let s := (s.l1Clean core pa).cdel core pa
    if s.atL2 level pa || isDevice pa then s.devRead (dieOf core) pa
    else if isPooled pa && level == 2 then
      -- at constellation scope the node's answer has brought the bytes (R371)
      let s := s.l2Pass pa
      (s, (dget s.nodeData pa).getD (s.rd pa))
    else let s := s.l2None pa; (s.touch pa false, s.rd pa)

/-- Write a byte at its home past the caches: at constellation scope the unit carries it to the node, at
system scope channel 5 (R371, R375). -/
def State.homeWrite (s : State) (level pa : Nat) (b : Byte) : State :=
  if isPooled pa then
    (if level = 2 then { s with mem := tset 0 s.mem pa b, nodeData := if s.nodeData.isEmpty then [] else dput s.nodeData pa b }
     else s.nodeWrite pa 5 b)
  else s.wr pa b

/-- Write a physical byte at a level; the core's own L1 copy takes the value after the store has been
performed (R255). -/
def State.writePhys (s : State) (core level pa : Nat) (b : Byte) : State :=
  if s.uncached pa then
    (if level = 0 then s.wr pa b else { s.flushPosted with mem := tset 0 s.flushPosted.mem pa b })
  else if level = 0 then s.cput core pa ⟨b, true⟩
  else
    let had := (s.cached core pa).isSome
    let s := s.cdel core pa
    let s := if s.atL2 level pa || isDevice pa then s.devWrite (dieOf core) pa b
             else (s.l2Leave level pa).homeWrite level pa b
    if had then s.cput core pa ⟨b, false⟩ else s

/-! ### Stash (R215) -/

def twBase : Nat := 0xFF80000000000000
def inWindow (va : Nat) : Bool := decide (twBase ≤ va) && decide (va < twBase + 2 ^ 23)

def Team.stashGet (t : Team) (slot off : Nat) : Byte := tget 0 ((dget t.stash slot).getD []) off
def Team.stashPut (t : Team) (slot off : Nat) (b : Byte) : Team :=
  { t with stash := dput t.stash slot (tset 0 ((dget t.stash slot).getD []) off b) }

/-- The index of the live mapping that holds a stash byte (R244). -/
def Team.mapAt (t : Team) (slot off : Nat) : Option Nat :=
  (List.range t.maps.length).find? (fun i => match t.maps[i]? with
    | some m => m.slot == slot && decide (m.off ≤ off) && decide (off < m.off + m.rows * m.rowb)
    | none => false)

/-- A stash byte is written: where a live mapping holds it, it is newer than its global home (R246). -/
def Team.markDirty (t : Team) (slot off : Nat) : Team :=
  match t.mapAt slot off with
  | none => t
  | some i => match t.maps[i]? with
    | none => t
    | some m =>
      let p := off - m.off
      if m.dirty.contains p then t else { t with maps := listSet t.maps i { m with dirty := p :: m.dirty } }

/-! ### Bytes anywhere -/

def State.readByte (s : State) (core level : Nat) : Loc → State × Byte
  | .phys pa => s.readPhys core level pa
  | .stash team slot off => (s, ((s.team? team).map (fun t => t.stashGet slot off)).getD 0)

def State.writeByte (s : State) (core level : Nat) (l : Loc) (b : Byte) : State :=
  match l with
  | .phys pa => s.writePhys core level pa b
  | .stash team slot off => s.modTeam team (fun t => (t.stashPut slot off b).markDirty slot off)

def Loc.add (l : Loc) (n : Nat) : Loc :=
  match l with
  | .phys pa => .phys (pa + n)
  | .stash t c o => .stash t c (o + n)

/-- Ready the L1 for a read of n bytes through it. -/
def State.freshenLoc (s : State) (core level n : Nat) : Loc → State
  | .phys pa => if level = 0 then s.freshen core n pa else s
  | .stash .. => s

/-- n bytes from a place, byte by byte. -/
def State.readBytes (s : State) (core level : Nat) : Nat → Loc → State × List Byte
  | 0, _ => (s, [])
  | n + 1, l =>
    let r := s.readByte core level l
    let t := r.1.readBytes core level n (Loc.add l 1)
    (t.1, r.2 :: t.2)

/-- n bytes from a place, which never leaves its page or slot. -/
def State.readLoc (s : State) (core level n : Nat) (l : Loc) : State × List Byte :=
  (s.freshenLoc core level n l).readBytes core level n l

def State.writeLoc (s : State) (core level : Nat) : List Byte → Loc → State
  | [], _ => s
  | b :: t, l => (s.writeByte core level l b).writeLoc core level t (Loc.add l 1)

/-- Do two ranges of bytes meet? -/
def Loc.meets (a : Loc) (n : Nat) (b : Loc) (m : Nat) : Bool :=
  match a, b with
  | .phys p, .phys q => decide (p < q + m) && decide (q < p + n)
  | .stash t c o, .stash u d q => t == u && c == d && decide (o < q + m) && decide (q < o + n)
  | _, _ => false

/-! ### Fences on the caches (R242) -/

/-- The release half of a fence: the core's dirty lines go toward their homes; at constellation and
system scope the L2 copies of pooled memory, and at system scope those of host memory, go home, on whichever die
they are. -/
def State.fenceRel (s : State) (core : Nat) (scope : Scope) : State :=
  match scope with
  | .group => s
  | .team | .die | .device => s.l1WriteBack core
  | .constellation | .system =>
    let s := s.l1WriteBack core
    let s := [0, 1, 2, 3].foldl (fun s d => (s.sitePas (l2Site d) (fun c => c.dirty)).foldl (fun s pa =>
      if isPooled pa || scope == .system then s.l2Flush pa d else s) s) s
    -- a release at system scope waits for the posted writes (R392)
    if scope == .system then s.flushPosted else s

/-- The acquire half: dirty lines are written back, clean ones dropped; beyond the device the L2s
also drop their clean copies. -/
def State.fenceAcq (s : State) (core : Nat) (scope : Scope) : State :=
  match scope with
  | .group => s
  | .team | .die | .device => (s.l1WriteBack core).l1Invalidate core
  | .constellation | .system =>
    let s := (s.l1WriteBack core).l1Invalidate core
    { s with cache := s.cache.filter (fun e => decide (e.1 / 2 ^ 52 < 320) || e.2.dirty) }

/-- FENCE, by order. -/
def State.fenceDo (s : State) (core : Nat) (order : Order) (scope : Scope) : State :=
  match order with
  | .rel => s.fenceRel core scope
  | .acq => s.fenceAcq core scope
  | .acqRel => (s.fenceRel core scope).fenceAcq core scope
  | _ => s

/-- Mark the line of a byte in a cache that holds it. -/
def State.markAt (s : State) (order : Order) (site pa : Nat) : State :=
  if !s.hasLine site pa then s else
  match order with
  | .evictFirst => { s with marks := tmod 0 s.marks (markKey site pa) (fun m => if m = 2 then 2 else 1) }
  | .evictLast => { s with marks := tset 0 s.marks (markKey site pa) 2 }
  | _ => s

/-- The mark of the line in the L2 of a core's die, if it has one. -/
def State.markL2 (s : State) (core : Nat) (order : Order) (pa : Nat) : State :=
  if s.throughL2 pa then s.markAt order (l2Site (dieOf core)) pa else s

/-- Eviction marks of R236 on the L1 and L2 lines that an access of a core touches: evict-last stands over
evict-first; uncached host memory has no line. -/
def State.markLine (s : State) (core : Nat) (order : Order) : Loc → State
  | .phys pa =>
    if s.uncached pa then s else (s.markAt order core pa).markL2 core order pa
  | .stash _ _ _ => s

/-- The rank of a line as a victim: evict-first before unmarked before evict-last (R236). -/
def State.victimRank (s : State) (site pa : Nat) : Nat :=
  match tget 0 s.marks (markKey site pa) with
  | 1 => 0
  | 2 => 2
  | _ => 1

/-- May a cache choose the line of this byte as its victim (R236)? -/
def State.mayEvict (s : State) (site pa : Nat) : Bool :=
  s.cache.all (fun e => e.1 / 2 ^ 52 != site || decide (s.victimRank site pa ≤ s.victimRank site (e.1 % 2 ^ 52)))

/-- A line of which no byte is left loses its mark. -/
def State.unmark (s : State) (site pa : Nat) : State :=
  if s.hasLine site pa then s
  else { s with marks := tset 0 s.marks (markKey site pa) 0 }

end Sys2Proof.Machine
end

