-- ==== Sys2Proof/Machine/Translate.lean ====
section
/-!
DEFINITION. Page tables (R212, R213), translation caches (R217, R218), permissions (R214), the range
locks of the copy engine (R322), and the check of one lane's access (R232).
-/
namespace Sys2Proof.Machine

/-! ### The walk -/

/-- How a walk ends (R213, R219). `entry` is the physical address of the entry at which it ended. -/
inductive Walk where
  | leaf (l : Leaf)
  | fail (reason level entry : Nat)
  deriving DecidableEq, Repr

def walkShift : Nat → Nat
  | 0 => 48
  | 1 => 39
  | 2 => 30
  | 3 => 21
  | _ => 16
def walkSize : Nat → Nat
  | 0 => 256
  | 4 => 32
  | _ => 512

/-- Is every reserved bit of an entry zero? A pointer's address bits below the next table's alignment
count as such (R213). -/
def entryReserved (level : Nat) (e : Word64) : Bool :=
  if fld e 2 1 = 0 then
    fld e 63 52 == 0 && fld e 7 3 == 0 && (decide (3 ≤ level) || fld e 11 8 == 0)
  else fld e 63 62 == 0 && fld e 59 52 == 0 && fld e 15 8 == 0 && fld e 3 3 == 0

/-- Does a page of 2^bits bytes at `frame` lie in the map of R211? -/
def frameOk (frame bits : Nat) : Bool :=
  frame % 2 ^ bits == 0 && (region? frame).isSome && region? frame == region? (frame + 2 ^ bits - 1)

/-- One level of the walk: a leaf, an end, or the next table. -/
def walkEntry (level va entryPa : Nat) (e : Word64) : Walk ⊕ Nat :=
  let v := e.getLsbD 0
  let ty := fld e 2 1
  let frame := fld e 51 16 * 2 ^ 16
  let bits := walkShift level
  if !entryReserved level e || ty == 3 || (ty == 2 && level != 4) then .inl (.fail 3 level entryPa)
  else if !v then .inl (.fail (if ty == 2 then 1 else 0) level entryPa)
  else if ty == 2 || (ty == 0 && level == 4) || (ty == 1 && (decide (level < 2) || !frameOk frame bits))
  then .inl (.fail 3 level entryPa)
  else if ty == 0 then .inr (fld e 51 8 * 256)
  else .inl (.leaf { vbase := va / 2 ^ bits * 2 ^ bits, bits := bits, frame := frame,
                     r := e.getLsbD 5, w := e.getLsbD 6, x := e.getLsbD 7, u := e.getLsbD 4,
                     cf := e.getLsbD 61, rep := e.getLsbD 60 })

/-- Walk from `table` at `level` (R212): entries are read at device scope at their homes. -/
def State.walkFrom (s : State) (die va : Nat) : Nat → Nat → Nat → State × Walk
  | 0, level, table => (s, .fail 0 level table)
  | fuel + 1, level, table =>
    let pa := table + 8 * (va / 2 ^ walkShift level % walkSize level)
    let r := s.devBytes die 8 pa
    match walkEntry level va pa (w64n (ofBytes r.2)) with
    | .inl w => (r.1, w)
    | .inr next => r.1.walkFrom die va fuel (level + 1) next

def Ctx.ptroot (x : Ctx) : Nat := fld (w64n (x.num 0 8)) 51 11 * 2048

def State.walk (s : State) (die c va : Nat) : State × Walk :=
  s.walkFrom die va 5 0 (s.ctx c).ptroot

/-! ### Translation caches -/

def Leaf.holds (l : Leaf) (va : Nat) : Bool := va / 2 ^ l.bits * 2 ^ l.bits == l.vbase
def Leaf.pa (l : Leaf) (va : Nat) : Nat := l.frame + va % 2 ^ l.bits
def Leaf.level (l : Leaf) : Nat := if l.bits == 30 then 2 else if l.bits == 21 then 3 else 4

/-- The first `cap` entries of a site, newest first. -/
def tlbTrim (site : Nat) : Nat → List (Nat × TlbEntry) → List (Nat × TlbEntry)
  | _, [] => []
  | cap, e :: t =>
    if e.1 = site then (match cap with
      | 0 => tlbTrim site 0 t
      | n + 1 => e :: tlbTrim site n t)
    else e :: tlbTrim site cap t

def State.tlbFind (s : State) (site c va : Nat) : Option Leaf :=
  (s.tlb.find? (fun e => e.1 == site && e.2.ctx == c && e.2.leaf.holds va)).map (fun e => e.2.leaf)
def State.tlbAdd (s : State) (site cap c : Nat) (l : Leaf) : State :=
  { s with tlb := (site, ⟨c, l⟩) :: tlbTrim site (cap - 1) s.tlb }

/-- The leaf for va in context c, through the TLBs of the core and of its die, or by a walk (R217). -/
def State.lookup (s : State) (core c va : Nat) : State × Walk :=
  let die := dieOf core
  match s.tlbFind core c va with
  | some l => (s, .leaf l)
  | none => match s.tlbFind (l2Site die) c va with
    | some l => (s.tlbAdd core 2048 c l, .leaf l)
    | none =>
      let r := s.walk die c va
      match r.2 with
      | .leaf l => ((r.1.tlbAdd core 2048 c l).tlbAdd (l2Site die) 32768 c l, .leaf l)
      | w => (r.1, w)

/-- Look up, and keep the leaf in the lane's last-page register. -/
def State.noteLane (s : State) (gid lane core c va : Nat) : State × Walk :=
  let r := s.lookup core c va
  match r.2 with
  | .leaf l => (r.1.modGroup gid (fun g => { g with lastPage := dput g.lastPage lane ⟨c, l⟩ }), .leaf l)
  | w => (r.1, w)

/-- As `lookup`, first in the last-page register of a lane of group gid (R217). -/
def State.lookupLane (s : State) (gid lane core c va : Nat) : State × Walk :=
  match (s.group? gid).bind (fun g => dget g.lastPage lane) with
  | some e => if e.ctx == c && e.leaf.holds va then (s, .leaf e.leaf) else s.noteLane gid lane core c va
  | none => s.noteLane gid lane core c va

/-- Remove the translations that `hit` names from the TLBs and the last-page registers (R218). -/
def State.dropTrans (s : State) (hit : TlbEntry → Bool) : State :=
  { s with tlb := s.tlb.filter (fun e => !hit e.2)
           groups := s.groups.map (fun (e : Nat × Group) =>
             (e.1, { e.2 with lastPage := e.2.lastPage.filter (fun p => !hit p.2) })) }

/-- Do two pages share a byte? -/
def Leaf.meets (l m : Leaf) : Bool := decide (l.vbase < m.vbase + 2 ^ m.bits) && decide (m.vbase < l.vbase + 2 ^ l.bits)

/-- The page that holds `va` in a context, as its tables now have it, and as translations still held have it. -/
def State.pagesAt (s : State) (c va : Nat) : List Leaf :=
  let now := match (s.walk 0 c va).2 with
    | .leaf l => [l]
    | .fail .. => []
  now ++ (s.tlb.map (fun e => e.2) ++ s.groups.flatMap (fun e => e.2.lastPage.map (fun p => p.2))).filterMap
    (fun e => if e.ctx == c && e.leaf.holds va then some e.leaf else none)

/-- Remove translations of a context: every leaf that maps a byte of the page of `va`, whatever its size, or all
(R218, R228). A window address has no page (R410). -/
def State.invalidate (s : State) (c : Nat) (va : Option Nat) : State :=
  match va with
  | none => s.dropTrans (fun e => e.ctx == c)
  | some a =>
    if decide (0xFF80000000000000 ≤ a) && decide (a < 0xFF80000000000000 + 2 ^ 23) then s
    else
      let pages := s.pagesAt c a
      s.dropTrans (fun e => e.ctx == c && pages.any (fun p => e.leaf.meets p))

/-! ### Permissions -/

/-- KIND of R220. -/
def kindLoad : Nat := 0
def kindStore : Nat := 1
def kindAtomic : Nat := 2
def kindFetch : Nat := 3
def kindTxf : Nat := 4
def kindStmap : Nat := 5
def kindRecord : Nat := 6
def kindObj : Nat := 7
def kindCont : Nat := 8

/-- EINFO of R220. -/
def einfoOf (reason level kind : Nat) : Nat := kind + level * 2 ^ 8 + reason * 2 ^ 12

/-- What an access needs (R214). -/
structure Need where
  r : Bool := false
  w : Bool := false
  x : Bool := false
  user : Bool := true
  cfTraps : Bool := false              -- a store or atomic, which a CF page refuses
  deriving DecidableEq, Repr

/-- The reason for which a leaf refuses an access, if any (R214, R232 step 3). A store to a CF page
is left to step 4. -/
def Need.refuse (n : Need) (l : Leaf) : Option Nat :=
  if n.cfTraps && l.cf then none
  else if n.w && l.rep then some 4
  else if (n.r && !l.r) || (n.w && !l.w) || (n.x && !l.x) || (n.user && !l.u) then some 2
  else none

/-! ### Range locks (R322) -/

/-- Of entries and the lowest byte that each locks of an access, the one with the least byte, then the least
entry. -/
def leastLock : List (Nat × Nat) → Option (Nat × Nat)
  | [] => none
  | x :: t => match leastLock t with
    | none => some x
    | some y => if y.2 < x.2 || (y.2 == x.2 && decide (y.1 < x.1)) then some y else some x

/-- The lock entry of a core's table that holds the lowest locked byte of an access, and that byte. -/
def State.lockHit (s : State) (core c team va n : Nat) (write : Bool) : Option (Nat × Nat) :=
  let hit (e : Nat × RangeLock) : Bool :=
    e.1 / 64 == core && e.2.ctx == c && (!inWindow va || e.2.team == team) && (write || e.2.reads) &&
      decide (va < e.2.lo + e.2.len) && decide (e.2.lo < va + n)
  leastLock ((s.locks.filter hit).map (fun e => (e.1 % 64, max va e.2.lo)))

/-- The same over the table of the accessing core and that of the owning core. -/
def State.lockHitBoth (s : State) (core owner c team va n : Nat) (write : Bool) : Option (Nat × Nat) :=
  if owner = core then s.lockHit core c team va n write
  else leastLock ((s.lockHit core c team va n write).toList ++ (s.lockHit owner c team va n write).toList)

/-! ### One lane -/

inductive LaneRes where
  | ok (loc : Loc)
  | fault (code : Nat) (einfo : Nat) (addr : Nat)
  | wait (team slot off : Nat)
  deriving DecidableEq, Repr

/-- Who accesses: the group, its core, and how. -/
structure Agent where
  gid  : Nat
  core : Nat
  ctx  : Nat
  team : Nat
  user : Bool
  deriving DecidableEq, Repr

def agentOf (gid : Nat) (g : Group) : Agent := ⟨gid, g.core, g.ctx, g.team, !g.supervisor⟩

/-- The place of a window access of n bytes inside the team's stash (R215). One that ends beyond the stash is outside
it, also where its address is misaligned: step 1 of R232 comes first (DEDUCED, log 91). -/
def State.windowLoc (s : State) (team va n : Nat) : Option Loc :=
  match s.team? team with
  | none => none
  | some t =>
    let c := (va - twBase) / 2 ^ 20
    let o := (va - twBase) % 2 ^ 20
    if c < t.cores.length && decide (o + n ≤ t.stashSize) then some (.stash team c o) else none

/-- The lowest byte of a window access that lies outside the team's stash (R219). -/
def State.windowFault (s : State) (team va n : Nat) : Nat :=
  match s.team? team with
  | none => va
  | some t =>
    let o := (va - twBase) % 2 ^ 20
    if decide ((va - twBase) / 2 ^ 20 < t.cores.length) && decide (o < t.stashSize) && decide (t.stashSize < o + n) then
      va - o + t.stashSize
    else va

/-- The mapped piece an access waits for, or a fault of its fill (R245), whose FADDR holds the global address of the
piece's first byte (DESIGN CHOICE, log 109). -/
def State.pieceCheck (s : State) (a : Agent) (t : Team) (team c o v kind : Nat) (write : Bool) :
    State × Option LaneRes :=
  match (t.mapAt c o).bind (fun i => t.maps[i]?) with
  | none => (s, none)
  | some m =>
    if write && !m.rw then (s, some (.fault 0x01 (einfoOf 2 0 kind) v)) else
    let p := (o - m.off) / 64
    if m.touched.contains p then (s, none) else
    let row := p * 64 / m.rowb
    let ga := (m.global + w64 (row * m.stride) + w64n (p * 64 % m.rowb)).toNat
    let r := s.lookup a.core a.ctx ga
    match r.2 with
    | .leaf l => match ({ r := true, w := m.rw, user := a.user } : Need).refuse l with
      | some why => (r.1, some (.fault 0x01 (einfoOf why l.level kind) ga))
      | none => (r.1, some (.wait team c o))
    | .fail why lev _ =>
      (r.1, some (.fault 0x01 (einfoOf why lev kind) ga))

/-- Check an access of n bytes at va by one lane, in the order of R232. -/
def State.checkLane (s : State) (a : Agent) (lane : Nat) (va : Word64) (n al kind : Nat) (need : Need) :
    State × LaneRes :=
  let v := va.toNat
  let write := kind == kindStore || kind == kindAtomic || kind == kindTxf
  let locked (s : State) (loc : Loc) : State × LaneRes :=
    let owner : Nat := match loc with
      | .stash t c _ => ((s.team? t).bind (fun t => t.cores[c]?)).getD a.core
      | .phys _ => a.core
    match s.lockHitBoth a.core owner a.ctx a.team v n write with
    | some (i, addr) => (s, .fault 0x09 i addr)
    | none => (s, .ok loc)
  if !canonical va then (s, .fault 0x02 (einfoOf 5 0 kind) v)
  else if inWindow v then
    match s.windowLoc a.team v n with
    | none => (s, .fault 0x02 (einfoOf 6 0 kind) (s.windowFault a.team v n))
    | some loc =>
      if v % al ≠ 0 then (s, .fault 0x0A (einfoOf 0 0 kind) v) else
      match loc, s.team? a.team with
      | .stash team c o, some t =>
        let r := s.pieceCheck a t team c o v kind write
        match r.2 with
        | some w => (r.1, w)
        | none => locked r.1 loc
      | _, _ => locked s loc
  else if v % al ≠ 0 then (s, .fault 0x0A (einfoOf 0 0 kind) v)
  else
    let r := s.lookupLane a.gid lane a.core a.ctx v
    match r.2 with
    | .fail why lev _ => (r.1, .fault 0x01 (einfoOf why lev kind) v)
    | .leaf l =>
      match need.refuse l with
      | some why => (r.1, .fault 0x01 (einfoOf why l.level kind) v)
      | none =>
        if need.cfTraps && l.cf then (r.1, .fault 0x08 (einfoOf 0 0 kind) v)
        else locked r.1 (.phys (l.pa v))

/-! ### All lanes of an instruction -/

/-- The lanes' accesses, or the trap of the lowest faulting lane (code, EINFO, its lanes, FADDR), or
the pieces to wait for. -/
inductive LanesRes where
  | ok (accs : List LaneAcc)
  | trap (code : Nat) (einfo : Nat) (lanes : Mask) (faddr : List (Nat × Word64))
  | wait (pieces : List (Nat × Nat × Nat))
  deriving DecidableEq, Repr

/-- Check each (lane, address) pair. -/
def State.checkEach (s : State) (a : Agent) (n al kind : Nat) (need : Need) :
    List (Nat × Word64) → State × List (Nat × Word64 × LaneRes)
  | [] => (s, [])
  | (i, va) :: t =>
    let r := s.checkLane a i va n al kind need
    let rest := r.1.checkEach a n al kind need t
    (rest.1, (i, va, r.2) :: rest.2)

def LaneRes.faults : LaneRes → Option (Nat × Nat × Nat)
  | .fault c e f => some (c, e, f)
  | _ => none

/-- Settle the lanes' results: the lowest faulting lane names the trap (R219, R232). -/
def settleLanes (l : List (Nat × Word64 × LaneRes)) : LanesRes :=
  match l.findSome? (fun x => x.2.2.faults) with
  | some (code, einfo, _) =>
    let same := l.filterMap (fun x => match x.2.2.faults with
      | some (c, _, f) => if c = code then some (x.1, w64n f) else none
      | none => none)
    .trap code einfo (maskOfList (same.map (fun x => x.1))) same
  | none =>
    let waits := l.filterMap (fun x => match x.2.2 with
      | .wait t c p => some (t, c, p)
      | _ => none)
    if waits.isEmpty then
      .ok (l.filterMap (fun x => match x.2.2 with
        | .ok loc => some ⟨x.1, x.2.1, loc⟩
        | _ => none))
    else .wait waits

def State.checkLanes (s : State) (a : Agent) (n al kind : Nat) (need : Need) (l : List (Nat × Word64)) :
    State × LanesRes :=
  let r := s.checkEach a n al kind need l
  (r.1, settleLanes r.2)

/-- An access waits for pieces of a mapping: their fills are asked for (R245). -/
def Team.want (t : Team) (slot off : Nat) : Team :=
  match t.mapAt slot off with
  | none => t
  | some i => match t.maps[i]? with
    | none => t
    | some m =>
      let p := (off - m.off) / 64
      if m.wanted.contains p then t else { t with maps := listSet t.maps i { m with wanted := p :: m.wanted } }

def State.wantPieces (s : State) (l : List (Nat × Nat × Nat)) : State :=
  l.foldl (fun s x => s.modTeam x.1 (fun t => t.want x.2.1 x.2.2)) s

end Sys2Proof.Machine
end

