-- ==== Sys2Proof/Machine/Access.lean ====
section
/-!
DEFINITION. The accesses of a group in the memory engine: the order in which they may be performed
(R235, R242, R260), how loads, stores and atomics are performed (R233, R237 to R239, R255), and how
their results reach the registers (R112). An access is performed and delivered in one step (log 6).
-/
namespace Sys2Proof.Machine

/-! ### What an operation touches -/

/-- Its bytes: place, length, and whether it writes. -/
def OpKind.bytes : OpKind → List (Loc × Nat × Bool)
  | .load _ _ n _ _ accs left => (accs.filter (fun a => left.contains a.lane)).map (fun a => (a.loc, n, false))
  | .store _ _ n accs => accs.map (fun a => (a.1.loc, n, true))
  | .atomic _ _ _ n _ _ _ lanes => lanes.map (fun a => (a.acc.loc, n, true))
  | .cpwait obj .. | .yieldc obj _ => [(obj.loc, 16, false)]
  | _ => []

/-- Is it an access in the sense of R242? -/
def OpKind.isAccess : OpKind → Bool
  | .load .. | .store .. | .atomic .. | .after _ | .txf _ => true
  | _ => false

def OpKind.isTxf : OpKind → Bool
  | .txf _ => true
  | _ => false

/-- Does it hold back every later access until it is performed (R242, R260)? -/
def OpKind.acquires : OpKind → Bool
  | .load o .. | .atomic _ o .. => o == .acq || o == .acqRel
  | .after (.fence o _) => o == .acq || o == .acqRel
  | .after (.acqr _) => true
  | _ => false

/-- Is it a wait that is an acquire for what follows it (R251, R252, R326, R350)? A YIELDC holds back its own slot
only: the other runs on (R327). -/
def OpKind.waitsFor : OpKind → Bool
  | .barw .. | .barx .. | .tbar .. | .cpwait _ _ false | .deq .. => true
  | .after (.barx ..) | .after (.tbar _ none) | .after (.deq ..) => true
  | _ => false

/-- The barrier or queue on which an operation arrives or waits. -/
def OpKind.object : OpKind → Option (Nat × Nat)
  | .barw _ b _ | .barx _ b _ | .after (.bara _ b ..) | .after (.barx _ b _) => some (0, b)
  | .tbar b _ | .after (.tbar b _) => some (1, b)
  | .enq q .. | .deq q .. | .launch q .. | .after (.enq q ..) | .after (.deq q ..) | .after (.launch q ..)
  | .after (.launchLanes q ..) => some (2, q)
  | _ => none

/-- Does it read or write memory, or act on the caches: what a wait before it holds back? -/
def OpKind.uses : OpKind → Bool
  | .load .. | .store .. | .atomic .. | .txf _ | .cpwait .. | .yieldc .. => true
  | .after (.fence ..) | .after (.acqr _) | .after (.stwb ..) | .after (.invlp ..) => true
  | _ => false

/-- Does a pending wait hold a later operation back (R242, R260, R261, R331)? What uses memory, always; an arrival or a
queue operation of the same slot, but on the wait's own barrier or queue, where it may be what ends the wait (DEDUCED,
log 92). An FFENCE holds loads, stores and atomics back. -/
def Op.holds (e o : Op) : Bool :=
  (e.kind.waitsFor && (o.kind.uses || (e.slot == o.slot && o.kind.object.isSome && e.kind.object != o.kind.object))) ||
    (match e.kind, o.kind with
      | .ffence _, .load .. | .ffence _, .store .. | .ffence _, .atomic .. => true
      | _, _ => false)

/-- Is the release half of a pending operation still to act? Until its write-backs are performed at its scope no later
access is performed (R242, R260). -/
def Op.toRelease (e : Op) : Bool :=
  (e.mer == 0 || e.mer == 1 || e.relAt.isSome) && e.mer != 2 && e.mer != 3 && (match e.kind with
    | .store o sc .. | .atomic _ o sc .. | .after (.fence o sc) => (o == .rel || o == .acqRel) && sc != .group
    | _ => false)

/-- Later accesses, and its own, wait for the ones before it (R242, R260). -/
def OpKind.releases : OpKind → Bool
  | .store o .. | .atomic _ o .. => o == .rel || o == .acqRel
  | .after _ => true
  | _ => false

/-- A half's stores are held until it is resolved (R132). -/
def Op.held (o : Op) : Bool :=
  o.half && match o.kind with
    | .store .. => true
    | _ => false

/-- Do two lists of bytes share one? -/
def meetAny (a b : List (Loc × Nat × Bool)) : Bool :=
  a.any (fun x => b.any (fun y => Loc.meets x.1 x.2.1 y.1 y.2.1))

/-- Is it a synchronising operation, of team scope or wider (R262, R350)? -/
def OpKind.syncs : OpKind → Bool
  | .load o sc .. | .store o sc .. | .atomic _ o sc .. => levelOf o sc != 0
  | .after (.fence _ sc) => sc != .group
  | .after (.acqr _) | .after (.enq ..) | .after (.deq ..) | .after (.launch ..) | .after (.launchLanes ..) => true
  | .ftot .. | .ffence _ => true
  | _ => false

/-- The place of operation n in the group's program order: its number; of a replayed access the number of its first
issue (R133). -/
def Op.at_ (o : Op) (n : Nat) : Nat := o.place.getD n

/-- Does the pending operation e, earlier in program order, keep `o` from being performed? `fenced` says that a
release stands between them, `free` that o is a handler's and need not wait for what holds e (R235, R242, R253, R260,
R262). -/
def Op.blocks (e o : Op) (fenced free : Bool) : Bool :=
  (!free && (e.kind.acquires || e.holds o || (e.kind.syncs && o.kind.syncs) || (e.toRelease && o.kind.isAccess))) ||
    (e.kind.isAccess && (fenced || meetAny e.kind.bytes o.kind.bytes))

/-- Is the operation e of a group, number m, one that waits from before a trap, or stands behind one? It holds no access
of the handler back, without which it may never end (R309, DEDUCED, log 92). -/
def Group.bypasses (g : Group) (o : Op) (m : Nat) (e : Op) : Bool :=
  let waits (w : Op) : Bool := !w.sup && (w.kind.waitsFor || (match w.kind with
    | .ffence _ => true
    | _ => false))
  o.sup && !e.sup && (waits e || g.ops.any (fun w => decide (w.2.at_ w.1 < e.at_ m) && waits w.2))

/-- May operation n of the group be performed now (R235, R242, R260, R371)? -/
def Group.canPerform (g : Group) (n : Nat) (o : Op) : Bool :=
  let p := o.at_ n
  let before := g.ops.filter (fun e => decide (e.2.at_ e.1 < p) && !e.2.held &&
    !(g.det && e.2.kind.isTxf))          -- a brined transfer is applied at the commit (R286)
  let fenced (m : Nat) : Bool :=
    o.kind.releases || g.ops.any (fun e => decide (m < e.2.at_ e.1) && decide (e.2.at_ e.1 < p) && e.2.kind.releases)
  !o.held && (o.mer == 0 || o.mer == 3) &&
    before.all (fun e => !e.2.blocks o (fenced (e.2.at_ e.1)) (g.bypasses o e.1 e.2))

/-- Is it one of the synchronising operations of R358, not yet performed? -/
def OpKind.detSync (k : OpKind) : Bool :=
  (match k with
    | .ffence _ => false
    | k => k.syncs) || (match k with
    | .after (.bara ..) | .after (.barx ..) | .after (.tbar ..) => true
    | .atomic .. => true
    | _ => false)

/-- Does a clause with a synchronising operation run in the group (R358)? -/
def Group.syncing (g : Group) : Bool :=
  (g.slot0.running.map (fun r => r.sync)).getD false || (g.slot1.running.map (fun r => r.sync)).getD false

/-- The synchronising operations of a group that are under way, wherever: all but those that stand behind a wait of the
group or behind an FFENCE, which its own commit may have to end. -/
def Group.readySyncs (g : Group) : List (Nat × Op) :=
  g.ops.filter (fun e => e.2.kind.detSync && !g.ops.any (fun w => decide (w.2.at_ w.1 < e.2.at_ e.1) && (match w.2.kind with
    | .ffence _ => true
    | k => k.waitsFor)))

/-- May operation n of a deterministic group act now (R358)? The synchronising operations of a grid act in the order
of their clocks, then of the groups, and a clause that holds some comes to its end first. -/
def State.detTurn (s : State) (gid : Nat) (g : Group) (o : Op) : Bool :=
  !g.det || !o.kind.detSync || g.syncing || s.groups.all (fun (e : Nat × Group) =>
    e.1 == gid || e.2.gridKey != g.gridKey || (!e.2.syncing && e.2.readySyncs.all (fun p =>
      decide (o.clock.toNat < p.2.clock.toNat) ||
        (o.clock == p.2.clock && decide (g.linear.toNat < e.2.linear.toNat)))))

/-- May operation n of a group be performed now? -/
def State.canAct (s : State) (gid : Nat) (g : Group) (n : Nat) (o : Op) : Bool :=
  g.canPerform n o && s.detTurn gid g o

/-- Has the group an access before operation n that is not performed? -/
def Group.earlier (g : Group) (n : Nat) : Bool :=
  g.ops.any (fun e => decide (e.1 < n) && e.2.kind.isAccess)

/-- Has the group an access that meets these bytes and is not performed? -/
def Group.touching (g : Group) (l : List (Loc × Nat × Bool)) : Bool :=
  g.ops.any (fun e => e.2.kind.isAccess && meetAny e.2.kind.bytes l)

/-- May an instruction that reads these bytes at its issue issue now? No earlier access of the group to them is
pending (R235), no acquire (R242), and no wait (R261, R350). -/
def Group.mayRead (g : Group) (l : List (Loc × Nat × Bool)) : Bool :=
  let o : Op := { slot := 0, flag := none, counts := 0, wordAt := 0, half := false, sup := g.supervisor,
                  kind := .load .plain .group 0 0 true [] [] }
  !g.touching l && !g.ops.any (fun e => (e.2.kind.acquires || e.2.kind.waitsFor) && !g.bypasses o e.1 e.2)

/-! ### Registers -/

/-- Write one register of an arriving datum. -/
def Group.putReg (g : Group) (o : Op) : RegUpd → Group
  | .sca r v => g.putSca o.sup r v o.issueAt o.startAt
  | .vec r lanes line => (if o.half then g.shadow o.slot r else g).setVreg r lanes line
  | .pred .. => g

/-- The registers from `data` that a datum of n bytes of lane i fills (R231). -/
def dataUpds (form11 : Bool) (n data i x : Nat) : List RegUpd :=
  if form11 then (List.range (max 1 (n / 8))).map (fun j => .sca (data + j) (w64n (x / 2 ^ (64 * j))))
  else (List.range (max 1 (n / 4))).map (fun j =>
    .vec (data + j) (1#64 <<< i) (mkLine (fun _ => w32n (x / 2 ^ (32 * j)))))

/-- Write a datum of n bytes of lane i into the registers from `data` (R231). -/
def Group.putData (g : Group) (o : Op) (form11 : Bool) (n data i x : Nat) : Group :=
  (dataUpds form11 n data i x).foldl (fun (g : Group) u => g.putReg o u) g

/-- The register that an update writes. -/
def RegUpd.reg : RegUpd → Nat
  | .vec r .. | .sca r _ | .pred r .. => r

/-- Read n bytes of data of lane i from the registers from `data` (R231). -/
def Group.getData (g : Group) (form11 : Bool) (n data i : Nat) : Nat :=
  if form11 then
    ((List.range (max 1 (n / 8))).foldl (fun a j => a + (g.sreg (data + j)).toNat * 2 ^ (64 * j)) 0) % 2 ^ (8 * n)
  else
    ((List.range (max 1 (n / 4))).foldl (fun a j => a + (lane (g.vreg (data + j)) i).toNat * 2 ^ (32 * j)) 0)
      % 2 ^ (8 * n)

/-! ### The brine (R356) -/

def Brine.byte? (b : Brine) (pa : Nat) : Option Byte :=
  (b.spans.find? (fun sp => sp.frame == pa / 256)).bind (fun sp => dget sp.bytes (pa % 256))

/-- A byte enters the brine: a span for a new frame, else it merges. -/
def Brine.put (b : Brine) (pa : Nat) (v : Byte) : Brine :=
  if b.spans.any (fun sp => sp.frame == pa / 256) then
    { b with spans := b.spans.map (fun sp =>
        if sp.frame == pa / 256 then { sp with bytes := dput sp.bytes (pa % 256) v } else sp) }
  else { b with spans := b.spans ++ [⟨pa / 256, [(pa % 256, v)]⟩] }

def Brine.putBytes (b : Brine) : List Byte → Nat → Brine
  | [], _ => b
  | v :: t, pa => (b.put pa v).putBytes t (pa + 1)

/-- Spans in the brine, those of its TXFs included (R286). -/
def Brine.size (b : Brine) : Nat := b.spans.length + b.txfSpans

/-- Perform a span at device scope (R357). -/
def State.performSpan (s : State) (core : Nat) (sp : Span) : State :=
  sp.bytes.foldl (fun s e => s.writePhys core 1 (sp.frame * 256 + e.1) e.2) s

/-- An access that bypasses the brine first performs the spans it meets (R356). -/
def State.unbrine (s : State) (gid : Nat) (pas : List Nat) : State :=
  match s.group? gid with
  | none => s
  | some g =>
    let hit (sp : Span) : Bool := pas.any (fun pa => pa / 256 == sp.frame)
    let s := (g.brine.spans.filter hit).foldl (fun s sp => s.performSpan g.core sp) s
    s.modGroup gid (fun g =>
      { g with brine := { g.brine with spans := g.brine.spans.filter (fun sp => !hit sp) } })

/-- A plain store of a deterministic group, its held stores apart: its bytes of physical memory go into
the brine, those of the stash to the stash (R356). -/
def isPlain (o : Order) : Bool := o == .plain || o == .evictFirst || o == .evictLast

def State.brineStore (s : State) (gid n : Nat) (o : Op) (accs : List (LaneAcc × List Byte)) : State :=
  let s := accs.foldl (fun s a => match a.1.loc with
    | .phys pa => s.modGroup gid (fun g => { g with brine := g.brine.putBytes a.2 pa })
    | l => s.writeLoc 0 0 a.2 l) s
  s.modGroup gid (fun g =>
    { g with ops := ddel g.ops n
             brine := { g.brine with flags := g.brine.flags ++ List.replicate o.counts (o.flag.getD 0) } })

/-- Does the store enter the brine? -/
def brines (g : Group) (o : Op) : Option (List (LaneAcc × List Byte)) :=
  match o.kind with
  | .store ord _ _ accs =>
    if g.det && isPlain ord && !o.held && accs.any (fun a => match a.1.loc with
      | .phys _ => true
      | _ => false) then some accs else none
  | _ => none

/-- Every store that is no longer held and belongs into the brine enters it. -/
def State.brinePending (s : State) (gid : Nat) : State :=
  match s.group? gid with
  | none => s
  | some g => g.ops.foldl (fun s e => match brines g e.2 with
    | some accs => s.brineStore gid e.1 e.2 accs
    | none => s) s

/-! ### Ports (R374) -/

/-- The pooled node that an access would need and no port reaches. -/
def State.lostNode (s : State) (core level : Nat) : Loc → Option Nat
  | .phys pa => match region? pa with
    | some (.pooled n) =>
      let hit := (level == 0 && (s.cached core pa).isSome) ||
        (decide (level ≤ 1) && (s.cached (l2Site (dieOf core)) pa).isSome)
      if !hit && (s.nodePorts n).isEmpty then some n else none
    | _ => none
  | .stash .. => none

/-- A group's request for a node that no port reaches ends its context (R374). -/
def State.nodeLost (s : State) (g : Group) (n : Nat) : State := s.terminate g.ctx 5 0 (w64n n) g.gridId

/-! ### Performing -/

/-- The frame of a place: the lanes of one frame are performed together (R234). -/
def Loc.frame : Loc → Nat × Nat × Nat
  | .phys pa => (0, 0, pa / 256)
  | .stash t c o => (t + 1, c + 1, o / 256)

/-- What a load of one lane sees above memory: the group's brine (R356), and the lane's own held
stores that come before it in program order (R132, R134); `n` is the load's number. -/
def Group.overlay (g : Group) (n : Nat) (o : Op) (level i : Nat) (l : Loc) (b : Byte) : Byte :=
  let b := match l with
    | .phys pa => if g.det && level == 0 then (g.brine.byte? pa).getD b else b
    | _ => b
  g.ops.foldl (fun b e =>
    if e.2.held && e.2.slot == o.slot && decide (e.2.at_ e.1 < o.at_ n) then match e.2.kind with
      | .store _ _ w accs => accs.foldl (fun b a =>
          if a.1.lane == i && Loc.meets a.1.loc w l 1 then
            let k := match a.1.loc, l with
              | .phys p, .phys q => q - p
              | .stash _ _ p, .stash _ _ q => q - p
              | _, _ => 0
            (a.2[k]?).getD b
          else b) b
      | _ => b
    else b) b

/-- Read the bytes for lane i of load m of a group. -/
def State.loadBytes (s : State) (g : Group) (m : Nat) (o : Op) (level i : Nat) : Nat → Loc → State × List Byte
  | 0, _ => (s, [])
  | n + 1, l =>
    let r := s.readByte g.core level l
    let t := r.1.loadBytes g m o level i n (Loc.add l 1)
    (t.1, g.overlay m o level i l r.2 :: t.2)

/-- The data of a lane of load m have come: the registers are written, or, of a load of 16 or 32 bytes, are each
to be written in a step of its own (R54). -/
def Group.takeData (g : Group) (m : Nat) (o : Op) (form11 : Bool) (n data i x : Nat) : Group :=
  if n < 16 then g.putData o form11 n data i x
  else match dget g.ops m with
    | some p => { g with ops := dput g.ops m { p with data := p.data ++ dataUpds form11 n data i x } }
    | none => g

/-- Perform one lane of load m. -/
def State.loadLane (s : State) (gid m : Nat) (o : Op) (order : Order) (scope : Scope) (n data : Nat)
    (form11 : Bool) (a : LaneAcc) : State :=
  match s.group? gid with
  | none => s
  | some g =>
    let level := levelOf order scope
    match s.lostNode g.core level a.loc with
    | some node => s.nodeLost g node
    | none =>
      let s := match a.loc with
        | .phys pa => if g.det && !isPlain order then s.unbrine gid [pa] else s
        | _ => s
      let r := (s.freshenLoc g.core level n a.loc).loadBytes g m o level a.lane n a.loc
      (r.1.markLine g.core order a.loc).modGroup gid (fun g => g.takeData m o form11 n data a.lane (ofBytes r.2))

/-- f_a of R238 on W-bit values. -/
def atomicFn (op : AtomicOp) (W old d : Nat) : Nat :=
  match op with
  | .add => (old + d) % 2 ^ W
  | .and => old &&& d
  | .or => old ||| d
  | .xor => old ^^^ d
  | .min => if sgn W old ≤ sgn W d then old else d
  | .max => if sgn W old ≥ sgn W d then old else d
  | .swap => d

/-- The value that an atomic writes, from the old value; none where a compare fails. -/
def atomicNew (k : AtomicKind) (W old : Nat) (a : AtomicLane) : Option Nat :=
  match k with
  | .rmw op => some (atomicFn op W old a.val.toNat)
  | .cas => if old = a.cmp.toNat then some a.val.toNat else none

/-- The level of an atomic at a place: on uncached host memory no scope is performed nearer than the host (R392). -/
def State.atomicLevel (s : State) (level : Nat) : Loc → Nat
  | .phys pa => if s.uncached pa then 3 else level
  | .stash .. => level

/-- Perform one lane of an atomic: the old value goes to its registers (R238). -/
def State.atomicLane (s : State) (gid : Nat) (o : Op) (k : AtomicKind) (order : Order) (scope : Scope)
    (n data : Nat) (form11 : Bool) (a : AtomicLane) : State :=
  match s.group? gid with
  | none => s
  | some g =>
    let level := levelOf order scope
    match s.lostNode g.core level a.acc.loc with
    | some node => s.nodeLost g node
    | none =>
      let s := match a.acc.loc with
        | .phys pa => if g.det then s.unbrine gid [pa] else s
        | _ => s
      -- an atomic in an L2 needs the ownership of its frame (R371)
      let s := match a.acc.loc with
        | .phys pa => if isPooled pa && level == 1 then s.needOwn pa else s
        | _ => s
      let r := s.readLoc g.core (s.atomicLevel level a.acc.loc) n a.acc.loc
      let old := ofBytes r.2
      let s := match atomicNew k (8 * n) old a with
        | some new => r.1.writeLoc g.core (s.atomicLevel level a.acc.loc) (toBytes n new) a.acc.loc
        | none => r.1
      s.modGroup gid (fun g => g.putData o form11 n data a.acc.lane old)

/-- Is the atomic sent to the host as an AtomicOp (R237, R241)? -/
def State.hostAtomic (s : State) (order : Order) (scope : Scope) : Loc → Bool
  | .phys pa => isHost pa && (!s.hostCoherent || levelOf order scope == 3)
  | .stash .. => false

/-- A finished access: it completes (R235), and its acquire acts (R260). -/
def State.finishAccess (s : State) (gid n : Nat) (order : Order) (scope : Scope) : State :=
  match s.group? gid with
  | none => s
  | some g =>
    let s := if order == .acq || order == .acqRel then s.fenceAcq g.core scope else s
    s.completeOp gid n

/-- Is the order one of a release? -/
def isRelease (o : Order) : Bool := o == .rel || o == .acqRel

/-- The release half of operation n (R242, R260): the state after it, and whether the operation may go on. At system
scope it waits until the nodes have performed what was written back; that of an operation with a Meridian position has
acted before it (R266). -/
def State.released (s : State) (gid n : Nat) (o : Op) (order : Order) (scope : Scope) : State × Bool :=
  match s.group? gid with
  | none => (s, true)
  | some g =>
    if !isRelease order || o.mer != 0 then (s, true)
    else match o.relAt with
      | some b => (s, !s.relBusy b)
      | none =>
        let t := s.fenceRel g.core scope
        if scope != .system || (t.wrote.isEmpty && !t.relBusy t.nextId) then (t, true)
        else (t.modGroup gid (fun g => { g with ops := dput g.ops n { o with relAt := some t.nextId } }), false)

/-- Note whose access writes at a node's home (R374). -/
def State.writes (s : State) (g : Group) (level : Nat) : Loc → State
  | .phys pa => if isPooled pa && level == 3 then { s with writer := some (g.ctx, g.gridId) } else s
  | .stash .. => s

/-- Write register r of a wide load's waiting data (R54). -/
def Group.deliver (g : Group) (n r : Nat) : Group :=
  match dget g.ops n with
  | none => g
  | some o =>
    let g : Group := { g with ops := dput g.ops n { o with data := o.data.filter (fun u => u.reg != r) } }
    (o.data.filter (fun u => u.reg == r)).foldl (fun (g : Group) u => g.putReg o u) g

/-- A load of which no lane is left and no register waits completes. -/
def State.endLoad (s : State) (gid n : Nat) (order : Order) (scope : Scope) : State :=
  match (s.group? gid).bind (fun g => dget g.ops n) with
  | some o => match o.kind with
    | .load _ _ _ _ _ _ [] => if o.data.isEmpty then s.finishAccess gid n order scope else s
    | _ => s
  | none => s

/-- Perform the lanes of load n that `p` accepts; with the last of them the load completes. -/
def State.loadSome (s : State) (gid n : Nat) (o : Op) (p : LaneAcc → Bool) : State :=
  match o.kind with
  | .load order scope b data f11 accs left =>
    let now := accs.filter (fun a => left.contains a.lane && p a)
    let left := left.filter (fun i => !now.any (fun a => a.lane == i))
    let s := s.modGroup gid (fun g => { g with
      ops := dput g.ops n { o with kind := .load order scope b data f11 accs left } })
    (now.foldl (fun s a => s.loadLane gid n o order scope b data f11 a) s).endLoad gid n order scope
  | _ => s

/-- Perform the lanes of atomic n that `p` accepts, in ascending order; with the last of them it completes. -/
def State.atomicSome (s : State) (gid n : Nat) (o : Op) (p : LaneAcc → Bool) : State :=
  match o.kind with
  | .atomic k order scope b data f11 tree lanes =>
    let now := lanes.filter (fun a => p a.acc)
    let r := s.released gid n o order scope
    if !r.2 then r.1 else
    let s := now.foldl (fun s a => s.atomicLane gid o k order scope b data f11 a) r.1
    let rest := lanes.filter (fun a => !now.any (fun y => y.acc.lane == a.acc.lane))
    let s := s.modGroup gid (fun g => { g with
      ops := dput g.ops n { o with kind := .atomic k order scope b data f11 tree rest } })
    if rest.isEmpty then s.finishAccess gid n order scope else s
  | _ => s

/-! ### Atomics at a node's home (R237, R375) -/

/-- Is the lane's atomic performed at the home of a node, over a data port? -/
def atNodeHome (order : Order) (scope : Scope) : Loc → Bool
  | .phys pa => isPooled pa && levelOf order scope == 3
  | .stash .. => false

/-- Is the request of a lane's atomic on its way? -/
def State.atomFlies (s : State) (gid n lane : Nat) : Bool :=
  s.nodeWrites.any (fun r => match r.atom with
    | some a => a.gid == gid && a.op == n && a.lane == lane
    | none => false)

/-- What an atomic does, as its request says it: the R238 code of an ATOM, 8 of a compare and swap (log 38). -/
def AtomicKind.code : AtomicKind → Nat
  | .rmw op => match op with
    | .add => 0
    | .and => 1
    | .or => 2
    | .xor => 3
    | .min => 4
    | .max => 5
    | .swap => 6
  | .cas => 8

/-- The operand of one request for the lanes of a tree (R239). -/
def treeValue (k : AtomicKind) (W : Nat) : List AtomicLane → Nat
  | [] => 0
  | a :: t => match k with
    | .rmw op => t.foldl (fun v x => atomicFn op W v x.val.toNat) a.val.toNat
    | .cas => a.val.toNat

/-- Send the atomic of a lane, or that of a whole tree, to the home of its frame. What this device holds of the bytes
goes home before, and the writes of the frame are complete. -/
def State.sendAtomic (s : State) (gid n : Nat) (o : Op) (x : AtomicLane) : State :=
  match s.group? gid, o.kind, x.acc.loc with
  | some g, .atomic k order scope b _ _ tree lanes, .phys pa =>
    match s.lostNode g.core 3 x.acc.loc with
    | some node => s.nodeLost g node
    | none =>
      let r := s.released gid n o order scope
      let s := if g.det then r.1.unbrine gid [pa] else r.1
      let s := (List.range b).foldl (fun s i => ((s.l1Clean g.core (pa + i)).cdel g.core (pa + i)).l2None (pa + i)) s
      if !r.2 || !s.wrote.isEmpty || s.waits || s.atomFlies gid n x.acc.lane ||
        s.nodeWrites.any (fun q => q.frame == pa / 256 && q.write) then s
      else
        let val := if tree then treeValue k (8 * b) lanes else x.val.toNat
        ({ s with nextId := s.nextId + 1 }).request
          { frame := pa / 256, words := 0, write := false, ch := 5, num := s.nextId, ctx := some (g.ctx, g.gridId)
            atom := some { gid := gid, op := n, lane := x.acc.lane, code := k.code, size := b, off := pa % 256,
                           cmp := x.cmp, val := BitVec.ofNat 128 val } }
  | _, _, _ => s

/-- The lanes to which the answer of an atomic's request gives old values, with those values: its own lane, or those of
a tree in ascending order (R239). -/
def oldValues (k : AtomicKind) (W : Nat) : Nat → List AtomicLane → List (Nat × Nat)
  | _, [] => []
  | old, a :: t => (a.acc.lane, old) :: oldValues k W ((atomicNew k W old a).getD old) t

/-- The old value of a group's atomic at a node's home has come, and goes to the registers (R237, R375); one of which no
lane is left completes in a step of its own. -/
def State.atomicDone (s : State) (a : NodeAtomic) (old : Nat) : State :=
  match (s.group? a.gid).bind (fun g => (dget g.ops a.op).map (fun o => (g, o))) with
  | none => s
  | some (_, o) => match o.kind with
    | .atomic k order scope b data f11 tree lanes =>
      let done := oldValues k (8 * b) old (lanes.filter (fun x => tree || x.acc.lane == a.lane))
      let rest := lanes.filter (fun x => !done.any (fun d => d.1 == x.acc.lane))
      s.modGroup a.gid (fun g =>
        { done.foldl (fun (g : Group) d => g.putData o f11 b data d.1 d.2) g with
          ops := dput g.ops a.op { o with kind := .atomic k order scope b data f11 tree rest } })
    | _ => s

/-- The data of the lanes that share the frame of `lane` arrive (R112, R234); from 64 on, `lane` names a register of
a wide load whose data are there: 64 + its number. -/
def State.arrive (s : State) (gid n lane : Nat) : State :=
  match (s.group? gid).bind (fun g => (dget g.ops n).map (fun o => (g, o))) with
  | none => s
  | some (g, o) =>
    if !s.canAct gid g n o then s else
    match o.kind with
    | .load order scope _ _ _ accs left =>
      let todo := accs.filter (fun a => left.contains a.lane)
      match todo.find? (fun a => a.lane == lane) with
      | none => (if 64 ≤ lane then s.modGroup gid (fun g => g.deliver n (lane - 64)) else s).endLoad gid n order scope
      | some x => s.loadSome gid n o (fun a => Loc.frame a.loc == Loc.frame x.loc)
    | .atomic _ order scope _ _ _ tree lanes =>
      match lanes.find? (fun a => a.acc.lane == lane) with
      | none => if lanes.isEmpty then s.atomicSome gid n o (fun _ => true) else s
      | some x =>
        if s.hostAtomic order scope x.acc.loc then s
        else if atNodeHome order scope x.acc.loc then s.sendAtomic gid n o x
        else s.atomicSome gid n o (fun a => tree || Loc.frame a.loc == Loc.frame x.acc.loc)
    | _ => s

/-- Write the lanes of a store, in ascending order (R234). -/
def State.storeLanes (s : State) (gid : Nat) (g : Group) (order : Order) (level : Nat)
    (accs : List (LaneAcc × List Byte)) : State :=
  accs.foldl (fun s a => match s.lostNode g.core level a.1.loc with
    | some node => s.nodeLost g node
    | none =>
      let s := match a.1.loc with
        | .phys pa => if g.det && !isPlain order then s.unbrine gid [pa] else s
        | _ => s
      ((s.writeLoc g.core level a.2 a.1.loc).writes g level a.1.loc).markLine g.core order a.1.loc) s

/-- Perform a store whole, after its release half. -/
def State.performStore (s : State) (gid n : Nat) : State :=
  match (s.group? gid).bind (fun g => (dget g.ops n).map (fun o => (g, o))) with
  | none => s
  | some (g, o) =>
    if !s.canAct gid g n o then s else
    match o.kind with
    | .store order scope _ accs =>
      match brines g o with
      | some accs => s.brineStore gid n o accs
      | none =>
        let r := s.released gid n o order scope
        if r.2 then (r.1.storeLanes gid g order (levelOf order scope) accs).completeOp gid n else r.1
    | _ => s

/-- Perform the group's pending loads, stores and atomics that touch these bytes, in issue order, as far as they may
be: an instruction that reads memory at its issue follows them (R235). -/
def State.settleBytes (s : State) (gid : Nat) (l : List (Loc × Nat × Bool)) : State :=
  match s.group? gid with
  | none => s
  | some g => (g.ops.filter (fun e => meetAny e.2.kind.bytes l)).foldl (fun s e =>
      match e.2.kind with
      | .load _ _ _ _ _ accs _ => accs.foldl (fun s a => s.arrive gid e.1 a.lane) s
      | .atomic _ _ _ _ _ _ _ lanes => lanes.foldl (fun s a => s.arrive gid e.1 a.acc.lane) s
      | .store .. => s.performStore gid e.1
      | _ => s) s

/-- Go on with an instruction that reads these bytes at its issue, after the group's accesses to them; until they can
be performed it waits to issue (R235). -/
def State.afterBytes (s : State) (l : List (Loc × Nat × Bool)) (f : State → State) : State :=
  let t := s.settleBytes s.cur.gid l
  match t.group? s.cur.gid with
  | none => t
  | some g => if g.mayRead l then f t else t

/-! ### Effects that wait for the group's earlier accesses -/

/-- Enter an effect; it acts at once where nothing of the group stands before it (log 19). -/
def State.afterNow (s : State) (sel mer : Bool) (act : AfterAct) (apply : State → Nat → Nat → State) :
    State :=
  let n := s.nextId
  let s := s.addOpMer sel mer (.after act)
  match (s.group? s.cur.gid).bind (fun g => (dget g.ops n).map (fun o => (g, o))) with
  | none => s
  | some (g, o) => if s.canAct s.cur.gid g n o then apply s s.cur.gid n else s

/-- n bytes from a place as an access of the group reads them at a level: its brine's bytes first (R356). -/
def State.groupBytes (s : State) (g : Group) (level n : Nat) (l : Loc) : State × List Byte :=
  let r := s.readLoc g.core level n l
  (r.1, match l with
    | .phys pa => if g.det then ((List.range n).zip r.2).map (fun e => (g.brine.byte? (pa + e.1)).getD e.2) else r.2
    | .stash .. => r.2)

end Sys2Proof.Machine
end

