-- ==== Sys2Proof/Machine/Num.lean ====
section
/-!
DEFINITION. Number formats and rounding: the binary formats (R154, R155), DM8 (R156, R157), i4 and
i8 (R159), fixed point (R160), the rounding rule (R161 to R163, R169), special values in
conversions (R167) and the grain function (R168). Values are exact fractions; a result is rounded
once, at the end.
-/
namespace Sys2Proof.Machine

/-- A non-negative fraction n / d. -/
structure Frac where
  n : Nat
  d : Nat
  deriving DecidableEq, Repr

def Frac.isZero (x : Frac) : Bool := x.n == 0
def Frac.lt (x y : Frac) : Bool := decide (x.n * y.d < y.n * x.d)
def Frac.le (x y : Frac) : Bool := decide (x.n * y.d ≤ y.n * x.d)
def Frac.mul (x y : Frac) : Frac := ⟨x.n * y.n, x.d * y.d⟩
def Frac.inv (x : Frac) : Frac := ⟨x.d, x.n⟩
/-- m × 2^e. -/
def Frac.ofPow2 (m : Nat) (e : Int) : Frac :=
  if e < 0 then ⟨m, 2 ^ (-e).toNat⟩ else ⟨m * 2 ^ e.toNat, 1⟩
/-- m × 10^e. -/
def Frac.scale10 (x : Frac) (e : Int) : Frac :=
  if e < 0 then ⟨x.n, x.d * 10 ^ (-e).toNat⟩ else ⟨x.n * 10 ^ e.toNat, x.d⟩

/-- A signed exact fraction. -/
structure SFrac where
  neg : Bool
  mag : Frac
  deriving DecidableEq, Repr

def SFrac.num (x : SFrac) : Int := if x.neg then -(x.mag.n : Int) else (x.mag.n : Int)
def SFrac.ofInt (n : Int) : SFrac := ⟨decide (n < 0), ⟨n.natAbs, 1⟩⟩
/-- num / den, den > 0. -/
def SFrac.ofIntDiv (n : Int) (d : Nat) : SFrac := ⟨decide (n < 0), ⟨n.natAbs, d⟩⟩
def SFrac.add (x y : SFrac) : SFrac :=
  SFrac.ofIntDiv (x.num * y.mag.d + y.num * x.mag.d) (x.mag.d * y.mag.d)
def SFrac.mul (x y : SFrac) : SFrac := ⟨x.neg != y.neg, x.mag.mul y.mag⟩
def SFrac.negate (x : SFrac) : SFrac := ⟨!x.neg, x.mag⟩
def SFrac.lt (x y : SFrac) : Bool := decide (x.num * y.mag.d < y.num * x.mag.d)

/-- floor(log2(n / d)) for n, d > 0. -/
def floorLog2 (x : Frac) : Int :=
  let e : Int := (Nat.log2 x.n : Int) - (Nat.log2 x.d : Int)
  if (Frac.ofPow2 1 e).le x then e else e - 1

/-! ### MODE's sticky bits (R164) -/

def bitNV : BitVec 16 := 1#16 <<< 8
def bitDZ : BitVec 16 := 1#16 <<< 9
def bitOF : BitVec 16 := 1#16 <<< 10
def bitUF : BitVec 16 := 1#16 <<< 11
def bitNX : BitVec 16 := 1#16 <<< 12
def bitRESV : BitVec 16 := 1#16 <<< 13

/-- How a result is rounded: the code of R161 (1 to 6), the grain bits of R168 for code 6, and the
MODE bits FZI, FZO and OVF in force. -/
structure Rnd where
  code  : Nat
  grain : BitVec 32
  fzi   : Bool
  fzo   : Bool
  ovf   : Bool
  deriving DecidableEq, Repr

/-- Plain round to nearest, ties to even, with no flush (R173, R305). -/
def rndRN : Rnd := ⟨1, 0, false, false, false⟩

/-- R161 on a magnitude q + r / d in units of the last place (0 ≤ r < d): is the result the
neighbour away from zero? `tOdd` says that the neighbour toward zero has code bit 0 set. -/
def roundsAway (rnd : Rnd) (neg tOdd : Bool) (r d : Nat) : Bool :=
  if r = 0 then false else
  match rnd.code with
  | 1 => decide (2 * r > d) || (decide (2 * r = d) && tOdd)
  | 2 => false
  | 3 => !neg
  | 4 => neg
  | 5 => decide (2 * r ≥ d)
  | _ => decide (2 ^ 32 * r / d + rnd.grain.toNat ≥ 2 ^ 32)

/-- Does an overflow under this rounding give infinity (R162, the f32 rule)? -/
def overflowsToInf (rnd : Rnd) (neg : Bool) : Bool :=
  match rnd.code with
  | 2 => false
  | 3 => !neg
  | 4 => neg
  | _ => true

/-! ### Binary formats (R154) -/

structure BinFmt where
  expBits  : Nat
  fracBits : Nat
  bias     : Nat
  deriving DecidableEq, Repr

def fmtF32 : BinFmt := ⟨8, 23, 127⟩
def fmtF16 : BinFmt := ⟨5, 10, 15⟩
def fmtBF16 : BinFmt := ⟨8, 7, 127⟩

/-- A decoded value. A zero keeps its sign. -/
inductive FVal where
  | nan (signalling : Bool)
  | inf (neg : Bool)
  | num (x : SFrac)
  deriving DecidableEq, Repr

def BinFmt.width (f : BinFmt) : Nat := 1 + f.expBits + f.fracBits
def BinFmt.infCode (f : BinFmt) : Nat := (2 ^ f.expBits - 1) * 2 ^ f.fracBits
/-- The canonical quiet NaN (R155). -/
def BinFmt.nanCode (f : BinFmt) : Nat := f.infCode + 2 ^ (f.fracBits - 1)
def BinFmt.signBit (f : BinFmt) : Nat := 2 ^ (f.expBits + f.fracBits)
def BinFmt.withSign (f : BinFmt) (neg : Bool) (m : Nat) : Nat := if neg then f.signBit + m else m

/-- Is the code a subnormal (R154)? -/
def BinFmt.isSubnormal (f : BinFmt) (c : Nat) : Bool :=
  let m := c % f.signBit
  decide (0 < m) && decide (m < 2 ^ f.fracBits)

/-- FZI: a subnormal input reads as zero of its sign (R163). -/
def BinFmt.flushIn (f : BinFmt) (fzi : Bool) (c : Nat) : Nat :=
  if fzi && f.isSubnormal c then f.withSign (decide (f.signBit ≤ c)) 0 else c

def BinFmt.decode (f : BinFmt) (c : Nat) : FVal :=
  let neg := decide (f.signBit ≤ c)
  let m := c % f.signBit
  let frac := m % 2 ^ f.fracBits
  let ex := m / 2 ^ f.fracBits
  if ex = 2 ^ f.expBits - 1 then
    if frac = 0 then .inf neg else .nan (decide (frac < 2 ^ (f.fracBits - 1)))
  else if ex = 0 then
    .num ⟨neg, Frac.ofPow2 frac (1 - (f.bias : Int) - f.fracBits)⟩
  else
    .num ⟨neg, Frac.ofPow2 (2 ^ f.fracBits + frac) ((ex : Int) - f.bias - f.fracBits)⟩

/-- A result: its code and the MODE bits it raises. -/
structure Res where
  code  : Nat
  flags : BitVec 16
  deriving DecidableEq, Repr

/-- round_t of R161 for a binary format, with overflow (R162) and tininess (R163). `narrow` is true
for bf16 and f16, whose overflow MODE.OVF decides. An exact zero keeps the sign it is given. Between the largest
finite value and the next step a stochastic rounding draws: the draw decides whether the result overflows
(DESIGN CHOICE, log 90). -/
def BinFmt.round (f : BinFmt) (narrow : Bool) (rnd : Rnd) (x : SFrac) : Res :=
  if x.mag.isZero then ⟨f.withSign x.neg 0, 0⟩ else
  let p : Int := f.fracBits
  let emin : Int := 1 - (f.bias : Int)
  let e := floorLog2 x.mag
  let units (qe : Int) : Frac := x.mag.mul (Frac.ofPow2 1 (-qe))
  let step (qe : Int) : Nat × Nat :=
    let u := units qe
    let q := u.n / u.d
    let r := u.n % u.d
    (if roundsAway rnd x.neg (q % 2 == 1) r u.d then q + 1 else q, r)
  let qe := max e emin - p
  let (q, r) := step qe
  let code := ((qe + p + f.bias).toNat - 1) * 2 ^ f.fracBits + q
  let nx : BitVec 16 := if r = 0 then 0 else bitNX
  if f.infCode ≤ code then
    let toInf := overflowsToInf rnd x.neg && (!narrow || rnd.ovf)
    ⟨f.withSign x.neg (if toInf then f.infCode else f.infCode - 1), bitOF ||| bitNX⟩
  else
    -- tiny: the magnitude rounded with unbounded exponent is below the smallest normal
    let tiny := decide (e < emin) &&
      (let (q', _) := step (e - p); (Frac.ofPow2 q' (e - p)).lt (Frac.ofPow2 1 emin))
    let uf : BitVec 16 := if tiny && r ≠ 0 then bitUF else 0
    let full := f.withSign x.neg code
    if rnd.fzo && f.isSubnormal full then ⟨f.withSign x.neg 0, bitUF ||| bitNX⟩
    else ⟨full, nx ||| uf⟩

/-! ### DM8 (R156, R157) -/

/-- The magnitude of magnitude code m, 1 ≤ m ≤ 126. -/
def dm8Mag (m : Nat) : Frac :=
  let top := m / 64 % 2
  -- length of the run of bits equal to bit 6
  let k : Nat := if m / 32 % 2 ≠ top then 1 else if m / 16 % 2 ≠ top then 2
    else if m / 8 % 2 ≠ top then 3 else if m / 4 % 2 ≠ top then 4
    else if m / 2 % 2 ≠ top then 5 else 6
  let p : Nat := 6 - k
  let fr := m % 2 ^ p
  let e : Int := if top = 1 then (k : Int) - 1 else -(k : Int)
  Frac.scale10 ⟨2 ^ p + 9 * fr, 2 ^ p⟩ e

/-- The value of a DM8 code; 0x80, "no value", reads as a quiet NaN. -/
def dm8Decode (c : Nat) : FVal :=
  let neg := decide (128 ≤ c)
  let m := c % 128
  if m = 0 then (if neg then .nan false else .num ⟨false, ⟨0, 1⟩⟩)
  else if m = 127 then .inf neg
  else .num ⟨neg, dm8Mag m⟩

/-- The greatest magnitude code whose value is at most x (0 for x < 10^-6), by a search over the
ascending codes. -/
def dm8Floor (x : Frac) : Nat :=
  (List.range 126).foldl (fun best i => if (dm8Mag (i + 1)).le x then i + 1 else best) 0

/-- round_dm8 of R161, with R162 and R163. -/
def dm8Round (rnd : Rnd) (x : SFrac) : Res :=
  if x.mag.isZero then ⟨0, 0⟩ else
  let sgn (m : Nat) : Nat := if m = 0 then 0 else if x.neg then 128 + m else m
  if Frac.lt ⟨100000, 1⟩ x.mag then
    ⟨sgn (if overflowsToInf rnd x.neg && rnd.ovf then 127 else 126), bitOF ||| bitNX⟩
  else
    let t := dm8Floor x.mag
    let lo : Frac := if t = 0 then ⟨0, 1⟩ else dm8Mag t
    let hi := if t = 126 then lo else dm8Mag (t + 1)
    -- position of x on the step from lo to hi
    let r := (x.mag.n * lo.d - lo.n * x.mag.d) * hi.d
    let d := (hi.n * lo.d - lo.n * hi.d) * x.mag.d
    let m := if roundsAway rnd x.neg (t % 2 == 1) r d then t + 1 else t
    let nx : BitVec 16 := if r = 0 then 0 else bitNX
    let uf : BitVec 16 := if x.mag.lt ⟨1, 1000000⟩ then bitUF else 0
    ⟨sgn m, nx ||| uf⟩

/-! ### Integers -/

/-- Two's complement of n bits. -/
def toCode (n : Nat) (x : Int) : Nat := (x % (2 ^ n : Nat)).toNat

/-- Saturate an exact integer to an n-bit type; `flag` is raised when it saturates (R162). -/
def satInt (signed : Bool) (n : Nat) (flag : BitVec 16) (x : Int) : Res :=
  let lo : Int := if signed then -(2 ^ (n - 1) : Nat) else 0
  let hi : Int := if signed then (2 ^ (n - 1) : Nat) - 1 else (2 ^ n : Nat) - 1
  if x < lo then ⟨toCode n lo, flag⟩ else if hi < x then ⟨toCode n hi, flag⟩
  else ⟨toCode n x, 0⟩

/-- The integer that R161 gives for x, and whether it is inexact. -/
def roundToInt (rnd : Rnd) (x : SFrac) : Int × Bool :=
  let q := x.mag.n / x.mag.d
  let r := x.mag.n % x.mag.d
  let m := if roundsAway rnd x.neg (q % 2 == 1) r x.mag.d then q + 1 else q
  (if x.neg then -(m : Int) else (m : Int), decide (r ≠ 0))

/-- round_int and round_fx of R161: a value to an n-bit integer, saturating with `flag` and never
NX then; NX when a result within range was rounded (R162). -/
def roundIntSat (rnd : Rnd) (signed : Bool) (n : Nat) (flag : BitVec 16) (x : SFrac) : Res :=
  let (i, inexact) := roundToInt rnd x
  let r := satInt signed n flag i
  if r.flags = 0 then ⟨r.code, if inexact then bitNX else 0⟩ else r

/-- A float value to an integer or fixed type of n bits (R167): NaN gives 0, infinities the
limits, all with NV. -/
def fvalToInt (rnd : Rnd) (signed : Bool) (n : Nat) : FVal → Res
  | .nan _ => ⟨0, bitNV⟩
  | .inf neg =>
    let lo : Int := if signed then -(2 ^ (n - 1) : Nat) else 0
    let hi : Int := if signed then (2 ^ (n - 1) : Nat) - 1 else (2 ^ n : Nat) - 1
    ⟨toCode n (if neg then lo else hi), bitNV⟩
  | .num x => roundIntSat rnd signed n bitNV x

/-- A value to a binary format (R167). -/
def fvalToBin (f : BinFmt) (narrow : Bool) (rnd : Rnd) : FVal → Res
  | .nan sig => ⟨f.nanCode, if sig then bitNV else 0⟩
  | .inf neg => ⟨f.withSign neg f.infCode, 0⟩
  | .num x => f.round narrow rnd x

/-- A value to dm8 (R167). -/
def fvalToDm8 (rnd : Rnd) : FVal → Res
  | .nan sig => ⟨128, if sig then bitNV else 0⟩
  | .inf neg => ⟨if neg then 255 else 127, 0⟩
  | .num x => dm8Round rnd x

/-- An i4 code as its value; 0b1000 reads as 0 and raises RESV (R159). -/
def i4Value (c : Nat) : Int × BitVec 16 :=
  if c = 8 then (0, bitRESV) else if c < 8 then ((c : Int), 0) else ((c : Int) - 16, 0)

/-- Saturate to i4, which is symmetric: -7 to 7 (R159). -/
def satI4 (x : Int) : Res :=
  if x < -7 then ⟨9, bitOF⟩ else if 7 < x then ⟨7, bitOF⟩ else ⟨toCode 4 x, 0⟩

/-! ### The grain function (R168) -/

/-- One of the four rounds. -/
def grainRound (ab : Word64 × Word64) : Word64 × Word64 :=
  let b := ab.2 + ab.1.rotateLeft 13
  let a := ab.1 ^^^ b.rotateLeft 29
  let a := a * 0xD6E8FEB86659FD93#64
  (a, b ^^^ (a >>> 32))

/-- grain(seed, g, lane, d, j): 32 random bits. -/
def grain (seed g : Word64) (lane : Nat) (d : BitVec 48) (j : Nat) : BitVec 32 :=
  let a := seed ^^^ (g * 0x9E3779B97F4A7C15#64)
  let b := d.zeroExtend 64 ||| (BitVec.ofNat 64 j <<< 48) ||| (BitVec.ofNat 64 lane <<< 56)
  let r := grainRound (grainRound (grainRound (grainRound (a, b))))
  ((r.1 ^^^ r.2) >>> 32).truncate 32

end Sys2Proof.Machine
end

