-- ==== Sys2Proof/Machine/Flags.lean ====
section
/-!
DEFINITION. MODE: the rounding in force (R68, R161, R164), what a write of MODE leaves (R164), and
how sticky bits reach it (R165). Grain bits (R168).
-/
namespace Sys2Proof.Machine

/-- MODE after a write of `x`: reserved bits read zero, and RM 000 or 111 stores 001 (R164). -/
def modeStore (x : BitVec 16) : BitVec 16 :=
  let y := x &&& 0x3F3F#16
  let rm := fld y 2 0
  if rm = 0 || rm = 7 then setFld y 2 0 1 else y

/-- SETMODE: the bits of `v` that `m` selects (R127). -/
def modeMerge (old m v : BitVec 16) : BitVec 16 := modeStore ((old &&& ~~~m) ||| (v &&& m))

/-- The rounding code in force for an instruction's RND (R68). -/
def rndCode (mode : BitVec 16) (rnd : BitVec 3) : Nat := if rnd = 0 then fld mode 2 0 else rnd.toNat

/-- The rounding of element j of lane i of the instruction being issued (R161 to R163, R169). The
grain function reads DIX as it stands before the instruction. RM 000 or 111, which a handler can leave in EMODE, names no
rounding: a free neighbour is taken (log 29). -/
def Group.rnd (g : Group) (rnd : BitVec 3) (i j : Nat) : Rnd :=
  let c := rndCode g.mode rnd
  { code := c
    grain := if c = 6 then grain g.seed (g.linear.zeroExtend 64) i g.dix j
      else if c = 0 || c = 7 then Config.looseGrain g.seed (g.linear.zeroExtend 64) i g.dix j else 0
    fzi := g.mode.getLsbD 3, fzo := g.mode.getLsbD 4, ovf := g.mode.getLsbD 5 }

/-- The bits that the lanes of `m` raise, lane by lane. -/
def stickyOf (m : Mask) (f : Nat → BitVec 16) : List (Nat × BitVec 16) :=
  ((lanesOf m).map (fun i => (i, f i))).filter (fun e => e.2 != 0)

/-- The OR of sticky bits over lanes that `keep` accepts (R165). -/
def stickyOr (l : List (Nat × BitVec 16)) (keep : Nat → Bool) : BitVec 16 :=
  l.foldl (fun a e => if keep e.1 then a ||| e.2 else a) 0

/-- Issue an instruction of fixed latency that writes lane results: `f` gives the W-bit result of a
lane and the MODE bits it raises (R175, R165). -/
def State.issueVec (s : State) (m : Mask) (w : Bool) (dst lat : Nat) (f : Nat → Nat × BitVec 16) :
    State :=
  (s.pendResult lat (vecUpd w dst m (fun i => (f i).1)) (stickyOf m (fun i => (f i).2))).advance

/-- Issue an instruction that writes one scalar. -/
def State.issueSca (s : State) (dst lat : Nat) (x : Word64) (bits : BitVec 16) : State :=
  (s.pendResult lat [.sca dst x] (if bits = 0 then [] else [(0, bits)])).advance

/-- Issue an instruction that writes bits `m` of a predicate. -/
def State.issuePred (s : State) (dst lat : Nat) (m bits : Mask) (sticky : List (Nat × BitVec 16)) :
    State :=
  (s.pendResult lat [.pred dst m bits] sticky).advance

end Sys2Proof.Machine
end

