-- ==== Sys2Proof/Machine/MemoryOps.lean ====
section
/-!
DEFINITION. The MEM instructions (R229 to R247) and the steps that complete them.
-/
namespace Sys2Proof.Machine

/-! ### Addresses and codes -/

def orderOf (c : BitVec 3) : Order :=
  match c.toNat with
  | 1 => .acq
  | 2 => .rel
  | 3 => .acqRel
  | 4 => .rlx
  | 5 => .evictFirst
  | 6 => .evictLast
  | _ => .plain
def scopeOf (c : Nat) : Scope :=
  match c with
  | 1 => .team
  | 2 => .die
  | 3 => .device
  | 4 => .constellation
  | 5 => .system
  | _ => .group
def sizeBytes (c : BitVec 3) : Nat := 2 ^ c.toNat

/-- ea of R63 in lane i. -/
def Group.ea (g : Group) (x : MFields) (i : Nat) : Word64 :=
  let addr : Word64 :=
    if x.form == .f00 then (lane (g.vreg x.addr.toNat) i).zeroExtend 64 else g.sreg x.addr.toNat
  g.sreg x.sbase.toNat + addr + x.off.signExtend 64 * w64n (sizeBytes x.size)

/-- The lanes of an instruction: those of exec, or lane 0 alone in form 11. -/
def Group.memLanes (g : Group) (s : State) (f : Form) (neg : Bool) (p : BitVec 3) : List Nat :=
  if f == .f11 then [0] else lanesOf (g.exec s.cur.mask neg p)

def needLoad (g : Group) : Need := { r := true, user := !g.supervisor }
def needStore (g : Group) : Need := { w := true, user := !g.supervisor, cfTraps := true }

/-- Check the lanes of a memory instruction and go on with their accesses; a fault traps with no lane
taking effect (R232), and an untouched piece of a mapping is waited for (R245). -/
def State.withLanes (s : State) (g : Group) (n kind : Nat) (need : Need) (l : List (Nat × Word64))
    (f : State → List LaneAcc → State) : State :=
  let r := s.checkLanes (agentOf s.cur.gid g) n n kind need l
  match r.2 with
  | .ok accs => f r.1 accs
  | .trap code einfo lanes faddr => r.1.trapHere (BitVec.ofNat 8 code) (w64n einfo) lanes faddr
  | .wait pieces => r.1.wantPieces pieces

/-- Does an access need a Meridian position, wherever its bytes are (R21, R266, R371)? -/
def needsMeridian (order : Order) (scope : Scope) : Bool := levelOf order scope == 2

/-! ### LD, ST, PFL -/

/-- LD (R233). -/
def execLd (x : MFields) (s : State) : Host.Outcome State Fault Refusal :=
  finish s (s.guarded (.ld x) (fun g =>
    let n := sizeBytes x.size
    let order := orderOf x.order
    let scope := scopeOf x.scope.toNat
    let lanes := (g.memLanes s x.form x.neg x.pred).map (fun i => (i, g.ea x i))
    s.withLanes g n kindLoad (needLoad g) lanes (fun s accs =>
      (s.addOpMer x.fsel (needsMeridian order scope)
        (.load order scope n x.data.toNat (x.form == .f11) accs (accs.map (fun a => a.lane)))).advance)))

/-- The held store of a word whose replay it is (R133). -/
def Group.heldStore? (g : Group) (slot : Nat) (wordAt : Word64) : Option (Nat × Op) :=
  g.ops.find? (fun e => e.2.held && e.2.slot == slot && e.2.wordAt == wordAt)

/-- A replayed store joins the held one: one access for all its lanes, and one more count (R133). -/
def Group.joinStore (g : Group) (n : Nat) (o : Op) (accs : List (LaneAcc × List Byte)) : Group :=
  match o.kind with
  | .store order scope b old =>
    let all := (old ++ accs).mergeSort (fun a c => decide (a.1.lane ≤ c.1.lane))
    let g := { g with ops := dput g.ops n { o with kind := .store order scope b all, counts := o.counts + 1 } }
    match o.flag with
    | some f => g.incFlag f
    | none => g
  | _ => g

/-- ST (R233). -/
def execSt (x : MFields) (s : State) : Host.Outcome State Fault Refusal :=
  finish s (s.guarded (.st x) (fun g =>
    let n := sizeBytes x.size
    let order := orderOf x.order
    let scope := scopeOf x.scope.toNat
    let lanes := (g.memLanes s x.form x.neg x.pred).map (fun i => (i, g.ea x i))
    s.withLanes g n kindStore (needStore g) lanes (fun s accs =>
      let data := accs.map (fun a => (a, toBytes n (g.getData (x.form == .f11) n x.data.toNat a.lane)))
      let replay := ((g.slot s.cur.slot).running.map (fun r => r.replay)).getD false
      match (if replay then g.heldStore? s.cur.slot s.cur.addr else none) with
      | some (k, o) => (s.modGroup s.cur.gid (fun g => g.joinStore k o data)).advance
      | none =>
        let k := s.nextId
        let s := s.addOpMer x.fsel (needsMeridian order scope) (.store order scope n data)
        -- a store that belongs into the brine enters it now, after the group's accesses to its bytes (R356)
        let s := if ((s.group? s.cur.gid).bind (fun g => (dget g.ops k).bind (fun o => brines g o))).isSome then
            s.settleBytes s.cur.gid (accs.map (fun a => (a.loc, n, true)))
          else s
        s.advance)))

/-- PFL (R247): the spans of the lanes come into the L1, or into the L2 only; a lane that would fault
fetches nothing. It completes in this step (log 19), with no lane in the next cycle (R232). -/
def execPfl (x : MFields) (s : State) : Host.Outcome State Fault Refusal :=
  finish s (s.guarded (.pfl x) (fun g =>
    let order := orderOf x.order
    let a := agentOf s.cur.gid g
    let lanes := (g.memLanes s x.form x.neg x.pred).map (fun i => (i, g.ea x i))
    let r := s.checkEach a (sizeBytes x.size) (sizeBytes x.size) kindLoad (needLoad g) lanes
    let s := r.2.foldl (fun s e => match e.2.2 with
      | .ok (.phys pa) =>
        if (s.lostNode a.core 0 (.phys pa)).isSome || s.uncached pa then s
        else if x.scope = 0 then (s.readLoc a.core 0 (sizeBytes x.size) (.phys pa)).1.markLine a.core order (.phys pa)
        else (s.devBytes (dieOf a.core) (sizeBytes x.size) pa).1.markL2 a.core order pa
      | _ => s) r.1
    (if lanes.isEmpty then s.addOp x.fsel .idle else s).advance))

/-! ### Atomics -/

/-- The bit of SYSCAP that a host AtomicOp needs (R393). -/
def hostAtomicOk (s : State) (n : Nat) : Bool :=
  s.syscap.getLsbD (if n == 16 then 5 else if n == 8 then 4 else 3)

/-- The mould of the atomics: operands are read at issue (R238). -/
def atomicMould (i : Instr) (x : MFields) (k : AtomicKind) (tree : Bool) (s : State) : State :=
  s.guarded i (fun g =>
    let n := sizeBytes x.size
    let order := orderOf x.order
    let scope := scopeOf x.scope.toNat
    let f11 := x.form == .f11
    let lanes := (g.memLanes s x.form x.neg x.pred).map (fun i => (i, g.ea x i))
    s.withLanes g n kindAtomic (needStore g) lanes (fun s accs =>
      if accs.any (fun a => s.hostAtomic order scope a.loc) && !hostAtomicOk s n then
        s.trapHere 0x0C 0 s.curExec []
      else
        let step := if f11 then max 1 (n / 8) else max 1 (n / 4)
        let mk (a : LaneAcc) : AtomicLane := match k with
          | .cas => ⟨a, BitVec.ofNat 128 (g.getData f11 n x.data.toNat a.lane),
              BitVec.ofNat 128 (g.getData f11 n (x.data.toNat + step) a.lane)⟩
          | .rmw _ => ⟨a, 0, BitVec.ofNat 128 (g.getData f11 n x.data.toNat a.lane)⟩
        (s.addOpMer x.fsel (needsMeridian order scope)
          (.atomic k order scope n x.data.toNat f11 tree (accs.map mk))).advance))

/-- CAS (R238). -/
def execCas (x : MFields) (s : State) : Host.Outcome State Fault Refusal :=
  finish s (atomicMould (.cas x) x .cas false s)
/-- CAS128 (R238). -/
def execCas128 (x : MFields) (s : State) : Host.Outcome State Fault Refusal :=
  finish s (atomicMould (.cas128 x) x .cas false s)
/-- ATOM (R238). -/
def execAtom (op : AtomicOp) (x : MFields) (s : State) : Host.Outcome State Fault Refusal :=
  finish s (atomicMould (.atom op x) x (.rmw op) false s)
/-- ATOMT (R239). -/
def execAtomt (op : AtomicOp) (x : MFields) (s : State) : Host.Outcome State Fault Refusal :=
  finish s (atomicMould (.atomt op x) x (.rmw op) true s)

/-! ### FENCE and ACQR -/

/-- FENCE: its release half, then its acquire half (R242). -/
def State.applyFence (order : Order) (scope : Scope) (s : State) (gid n : Nat) : State :=
  match (s.group? gid).bind (fun g => (dget g.ops n).map (fun o => (g, o))) with
  | none => s
  | some (_, o) =>
    let r := s.released gid n o order scope
    if r.2 then r.1.finishAccess gid n order scope else r.1

/-- FENCE (R242). -/
def execFence (x : MFields) (s : State) : Host.Outcome State Fault Refusal :=
  finish s (s.guarded (.fence x) (fun _ =>
    let order := orderOf x.order
    let scope := scopeOf x.scope.toNat
    (s.afterNow x.fsel (scope == .constellation) (.fence order scope)
      (fun s gid n => s.applyFence order scope gid n)).advance))

/-- ACQR at its position (R243, R265). -/
def State.applyAcqr (victim : Nat) (s : State) (gid n : Nat) : State :=
  match s.group? gid with
  | none => s
  | some g =>
    let s := if victim ≤ 319 then (s.l1WriteBack victim).l1Invalidate victim else s
    (s.fenceAcq g.core .device).completeOp gid n

/-- ACQR (R243). -/
def execAcqr (x : MFields) (s : State) : Host.Outcome State Fault Refusal :=
  finish s (s.guarded (.acqr x) (fun g =>
    let v := (g.sreg x.sbase.toNat).toNat
    (s.afterNow x.fsel false (.acqr v) (fun s gid n => s.applyAcqr v gid n)).advance))

/-! ### Stash mappings (R244 to R246) -/

/-- Write the dirty bytes of mapping i of a team home at a level, or those of one piece, for the core that owns its
slot; no other byte is written (R246, R258). Dirty bytes whose page no longer translates are dropped (DESIGN CHOICE,
log 110). -/
def State.mapWriteBack (s : State) (c core team i level : Nat) (only : Option Nat) : State :=
  match (s.team? team).bind (fun t => (t.maps[i]?).map (fun m => (t, m))) with
  | none => s
  | some (t, m) =>
    let todo := m.dirty.filter (fun b => match only with
      | none => true
      | some q => b / 64 == q)
    let s := todo.foldl (fun s b =>
      let ga := (m.global + w64 (((b / m.rowb : Nat) : Int) * m.stride) + w64n (b % m.rowb)).toNat
      let r := s.lookup core c ga
      match r.2 with
      | .leaf l => r.1.writePhys core level (l.pa ga) (t.stashGet m.slot (m.off + b))
      | _ => r.1) s
    let m' : Mapping := { m with dirty := m.dirty.filter (fun b => !todo.contains b) }
    s.modTeam team (fun t => { t with maps := listSet t.maps i m' })

/-- End mapping i of a team: write it back, and its bytes become scratch (R246). -/
def State.endMapping (s : State) (c core team i level : Nat) : State :=
  (s.mapWriteBack c core team i level none).modTeam team (fun t => { t with
    maps := (t.maps.take i) ++ (t.maps.drop (i + 1)) })

/-- The dirty bytes of the live mapping at an offset of a slot go toward their homes. -/
def State.mapRelease (s : State) (g : Group) (slot off : Nat) : State :=
  match (s.team? g.team).bind (fun t => t.mapAt slot off) with
  | none => s
  | some i => s.mapWriteBack g.ctx g.core g.team i 1 none

/-- The mapping at an offset of a slot ends (R246). -/
def State.mapEnd (s : State) (g : Group) (slot off : Nat) : State :=
  match (s.team? g.team).bind (fun t => t.mapAt slot off) with
  | none => s
  | some i => s.endMapping g.ctx g.core g.team i 1

/-- STWB and STUNMAP when the group's earlier accesses are performed: the bytes are performed at their homes and
released at SCOPE (R246); at system scope they are there once the nodes have them. -/
def State.applyStwb (slot off : Nat) (scope : Scope) (drop : Bool) (s : State) (gid n : Nat) : State :=
  match (s.group? gid).bind (fun g => (dget g.ops n).map (fun o => (g, o))) with
  | none => s
  | some (g, o) =>
    let r := (s.mapRelease g slot off).released gid n o (if scope == .system then .rel else .plain) scope
    if r.2 then (if drop then r.1.mapEnd g slot off else r.1).completeOp gid n else r.1

/-- The mould of STWB and STUNMAP: the window address is checked as the access of one byte (R410). -/
def stwbMould (i : Instr) (x : MFields) (drop : Bool) (s : State) : State :=
  s.guarded i (fun g =>
    let w := (g.sreg x.sbase.toNat).toNat
    match (if inWindow w then s.windowLoc g.team w 1 else none) with
    | some (.stash _ c o) =>
      let scope := scopeOf x.scope.toNat
      (s.afterNow x.fsel (scope == .constellation) (.stwb c o scope drop)
        (fun s gid n => s.applyStwb c o scope drop gid n)).advance
    | _ =>
      if canonical (w64n w) && !inWindow w then
        -- no live mapping holds it: it completes with no effect (R246)
        (s.addOp x.fsel .idle).advance
      else s.trapHere 0x02 (w64n (einfoOf (if inWindow w then 6 else 5) 0 kindStmap)) 1 [(0, w64n w)])

/-- STUNMAP (R246). -/
def execStunmap (x : MFields) (s : State) : Host.Outcome State Fault Refusal :=
  finish s (stwbMould (.stunmap x) x true s)
/-- STWB (R246). -/
def execStwb (x : MFields) (s : State) : Host.Outcome State Fault Refusal :=
  finish s (stwbMould (.stwb x) x false s)

/-- The first fault of the pages that a mapping's global region touches, row by row: a translation fault of any of them
comes before a counter-field fault (R232); `cf` is the first of those so far. -/
def State.regionFault (s : State) (a : Agent) (rw : Bool) (cf : Option (Nat × Nat × Nat)) :
    List Nat → State × Option (Nat × Nat × Nat)
  | [] => (s, cf)
  | va :: t =>
    let r := s.lookup a.core a.ctx va
    match r.2 with
    | .fail why lev _ => (r.1, some (0x01, einfoOf why lev kindStmap, va))
    | .leaf l =>
      match ({ r := true, w := rw, user := a.user, cfTraps := rw } : Need).refuse l with
      | some why => (r.1, some (0x01, einfoOf why l.level kindStmap, va))
      | none => r.1.regionFault a rw
          (cf <|> (if rw && l.cf then some (0x08, einfoOf 0 0 kindStmap, va) else none)) t

/-- The addresses to translate for a region: the first byte of each 64 KiB unit of each row. -/
def regionPages (g : Word64) (rows rowb : Nat) (stride : Int) : List Nat :=
  ((List.range rows).flatMap (fun r =>
    let base := (g + w64 (r * stride)).toNat
    let first := base / 2 ^ 16
    let last := (base + rowb - 1) / 2 ^ 16
    (List.range (last - first + 1)).map (fun k => if k = 0 then base else (first + k) * 2 ^ 16 % 2 ^ 64))).eraseDups

/-- Indices of the mappings of a slot that meet a range. -/
def Team.mapsMeeting (t : Team) (slot off n : Nat) : List Nat :=
  (List.range t.maps.length).filter (fun i => match t.maps[i]? with
    | some m => m.slot == slot && decide (m.off < off + n) && decide (off < m.off + m.rows * m.rowb)
    | none => false)

/-- Make a mapping live: those it overlaps end first, and the earliest of a slot's 32 (R244). STMAP names no scope: they
are written back at device scope (DESIGN CHOICE, log 110). -/
def State.addMapping (s : State) (c core team : Nat) (m : Mapping) : State :=
  match s.team? team with
  | none => s
  | some t =>
    let s := (t.mapsMeeting m.slot m.off (m.rows * m.rowb)).reverse.foldl
      (fun s i => s.endMapping c core team i 1) s
    match s.team? team with
    | none => s
    | some t =>
      let mine := (List.range t.maps.length).filter (fun i =>
        ((t.maps[i]?).map (fun y => y.slot == m.slot)).getD false)
      let s := if 32 ≤ mine.length then (match mine with
        | i :: _ => s.endMapping c core team i 1
        | [] => s) else s
      s.modTeam team (fun t => { t with maps := t.maps ++ [m] })

/-- The lock against reads that a STMAP touches, in its stash range or in its global region (R232 step 5, R322): the
lowest locked byte. -/
def State.stmapLock (s : State) (a : Agent) (owner w n rowb : Nat) (rows : List Nat) : Option (Nat × Nat) :=
  leastLock ((s.lockHitBoth a.core owner a.ctx a.team w n false).toList ++
    rows.filterMap (fun va => s.lockHit a.core a.ctx a.team va rowb false))

/-- STMAP (R244). It waits to issue while an access of the group to its slot is not performed, so that a mapping it
ends is written back whole (R235). A range that breaks R244 and one whose address is not canonical are looked at
in the order of R232. -/
def execStmap (x : MFields) (s : State) : Host.Outcome State Fault Refusal :=
  finish s (s.guarded (.stmap x) (fun g =>
    let w := (g.sreg x.sbase.toNat).toNat
    let ga := g.sreg x.addr.toNat
    let d := g.sreg x.data.toNat
    let st := (g.sreg (x.data.toNat + 1)).toInt
    let rows := fld d 27 16
    let rowb := fld d 15 0
    let rw := d.getLsbD 63
    let bad (code einfo va : Nat) (s : State) : State :=
      s.trapHere (BitVec.ofNat 8 code) (w64n einfo) 1 [(0, w64n va)]
    let n := rows * rowb
    let pages := regionPages ga rows rowb st
    if !canonical (w64n w) then bad 0x02 (einfoOf 5 0 kindStmap) w s
    else match (if inWindow w && decide ((w - twBase) % 2 ^ 20 + n ≤ 2 ^ 20) then s.windowLoc g.team w n else none) with
    | some (.stash team c o) =>
      match pages.find? (fun va => !canonical (w64n va) || inWindow va) with
      | some va => bad 0x02 (einfoOf (if inWindow va then 6 else 5) 0 kindStmap) va s
      | none =>
      if fld d 62 28 != 0 || rows == 0 || rowb == 0 || rowb % 64 != 0 || st % 64 != 0 || w % 64 != 0 ||
        ga.toNat % 64 != 0 then bad 0x0A (einfoOf 0 0 kindStmap) w s
      else
        let a := agentOf s.cur.gid g
        let r := s.regionFault a rw none pages
        match r.2 with
        | some (code, ei, va) => bad code ei va r.1
        | none =>
          let owner := ((r.1.team? team).bind (fun t => t.cores[c]?)).getD a.core
          let rowsAt := (List.range rows).map (fun (i : Nat) => (ga + w64 ((i : Int) * st)).toNat)
          match r.1.stmapLock a owner w n rowb rowsAt with
          | some (i, va) => bad 0x09 i va r.1
          | none =>
            if g.touching [(.stash team c 0, 2 ^ 20, true)] then s
            else (r.1.addMapping g.ctx g.core team
              { slot := c, off := o, rw := rw, rows := rows, rowb := rowb, stride := st, global := ga }).advance
    | _ => bad 0x02 (einfoOf 6 0 kindStmap) w s))

/-! ### Steps -/

/-- VARIABLE_RESULT_ARRIVAL (R112): the data of the lanes that share a frame with `lane`. -/
def execVariableResultArrival (gid op lane : Nat) (s : State) : Host.Outcome State Fault Refusal :=
  finish s (s.arrive gid op lane)

/-- ATOMICOP_COMPLETION (R393): the next lane's AtomicOp, or that of the whole ATOMT, returns. -/
def execAtomicopCompletion (gid op : Nat) (s : State) : Host.Outcome State Fault Refusal :=
  finish s (match (s.group? gid).bind (fun g => (dget g.ops op).map (fun o => (g, o))) with
  | none => s
  | some (g, o) =>
    if !s.canAct gid g op o then s else
    match o.kind with
    | .atomic _ order scope _ _ _ tree lanes =>
      match lanes.find? (fun a => s.hostAtomic order scope a.acc.loc) with
      | none => s
      | some x =>
        s.atomicSome gid op o (fun a => tree || a.lane == x.acc.lane)
    | _ => s)

/-- The global address and place of a mapped piece. -/
def pieceGlobal (m : Mapping) (p : Nat) : Nat :=
  (m.global + w64 (((p * 64 / m.rowb : Nat) : Int) * m.stride) + w64n (p * 64 % m.rowb)).toNat

/-- STASH_FILL (R245): a piece that an access waits for is read at team scope. -/
def execStashFill (team slot piece : Nat) (s : State) : Host.Outcome State Fault Refusal :=
  finish s (match s.team? team with
  | none => s
  | some t =>
    match (List.range t.maps.length).find? (fun i => match t.maps[i]? with
        | some m => m.slot == slot && m.wanted.contains piece && !m.touched.contains piece
        | none => false) with
    | none => s
    | some i => match t.maps[i]? with
      | none => s
      | some m =>
        let core := (t.cores[slot]?).getD 0
        let ga := pieceGlobal m piece
        let r := s.lookup core t.ctx ga
        match r.2 with
        | .leaf l =>
          let b := r.1.readLoc core 1 64 (.phys (l.pa ga))
          b.1.modTeam team (fun t =>
            let t := ((List.range 64).zip b.2).foldl (fun (t : Team) e =>
              t.stashPut slot (m.off + piece * 64 + e.1) e.2) t
            let m' : Mapping :=
              { m with touched := piece :: m.touched, wanted := m.wanted.filter (fun q => q != piece) }
            { t with maps := listSet t.maps i m' })
        -- the piece no longer translates: the waiting access meets the fault itself
        | _ =>
          let m' : Mapping := { m with wanted := m.wanted.filter (fun q => q != piece) }
          r.1.modTeam team (fun t => { t with maps := listSet t.maps i m' }))

/-- STASH_LAZY_WRITEBACK (R246). -/
def execStashLazyWriteback (team slot piece : Nat) (s : State) : Host.Outcome State Fault Refusal :=
  finish s (match s.team? team with
  | none => s
  | some t =>
    match (List.range t.maps.length).find? (fun i => match t.maps[i]? with
        | some m => m.slot == slot && m.dirty.any (fun b => b / 64 == piece)
        | none => false) with
    | none => s
    | some i => s.mapWriteBack t.ctx ((t.cores[slot]?).getD 0) team i 1 (some piece))

end Sys2Proof.Machine
end

