-- ==== Sys2Proof/Machine/Barrier.lean ====
section
/-!
DEFINITION. Named barriers and team barriers (R248 to R252), with the clocks of R358.
-/
namespace Sys2Proof.Machine

/-! ### Waiting operations -/

/-- Every lane of the group has executed EXIT (R45). -/
def Group.exited (g : Group) : Bool := g.xmask == allLanes

def laterClock (a b : BitVec 48) : BitVec 48 := if a.toNat < b.toNat then b else a

/-- A deterministic group takes LCLK := max(LCLK, clock), and so do its operations that the wait held back
(R358). -/
def Group.takeClock (g : Group) (clock : BitVec 48) : Group :=
  if g.det then
    { g with lclk := laterClock g.lclk clock
             ops := g.ops.map (fun (e : Nat × Op) => (e.1, { e.2 with clock := laterClock e.2.clock clock })) }
  else g

/-- The LCLK of a group at its operation n. -/
def Group.opClock (g : Group) (n : Nat) : BitVec 48 := ((dget g.ops n).map (fun (o : Op) => o.clock)).getD g.lclk

/-- Complete a waiting operation: it is an acquire at `scope` (R251, R326, R350). -/
def State.completeWait (s : State) (gid n : Nat) (scope : Scope) (clock : BitVec 48) : State :=
  match s.group? gid with
  | none => s
  | some g => ((s.fenceAcq g.core scope).completeOp gid n).modGroup gid (fun g => g.takeClock clock)

/-- Complete every operation that `p` accepts. -/
def State.completeWhere (s : State) (p : Nat → Group → Op → Bool) (scope : Scope) (clock : BitVec 48) :
    State :=
  (s.groups.flatMap (fun e => (e.2.ops.filter (fun o => p e.1 e.2 o.2)).map (fun o => (e.1, o.1)))).foldl
    (fun s x => s.completeWait x.1 x.2 scope clock) s

/-! ### Named barriers -/

def barKey (core bar : Nat) : Nat := core * 2048 + bar
def State.bar (s : State) (core bar : Nat) : Bar := tget {} s.bars (barKey core bar)
def State.setBar (s : State) (core bar : Nat) (b : Bar) : State :=
  { s with bars := tset {} s.bars (barKey core bar) b }

/-- Is the barrier in the team's range (R248)? -/
def State.barInRange (s : State) (team bar : Nat) : Bool :=
  match s.team? team with
  | none => false
  | some t => decide (t.blo ≤ bar) && decide (bar < t.blo + t.bnum)

/-- The phase changes of the cycles from `last` up to the one before `now`, at most one per cycle
(R250, step 3): the barrier after them, and how many there were. -/
def Bar.settle (b : Bar) (now : Nat) : Bar × Nat :=
  let t := if b.exp = 0 then 0 else min (now - b.last) (b.cnt / b.exp)
  ({ b with ph := if t % 2 = 1 then !b.ph else b.ph, cnt := b.cnt - t * b.exp, last := now,
            clock := if t = 0 then b.clock else 0, endClock := if t = 0 then b.endClock else b.clock }, t)

/-- A stream instance goes on after its instruction (R300). -/
def Inst.nextInstr (i : Inst) : Inst :=
  match i.clause with
  | none => i
  | some c =>
    if i.idx + 1 < c.words.length then { i with idx := i.idx + 1 }
    else { i with idx := 0, clause := none, pc := i.pc + w64n (8 * (c.words.length + 1)) }

/-- A completed MWAIT keeps the phase it saw (R306); the cycle before `cycle` was its turn (R300). -/
def Inst.endWait (i : Inst) (bar : Nat) (ph : Bool) (cycle : Nat) : Inst :=
  ({ i with waits := none, tokens := dput i.tokens bar ph, busyTo := cycle, ranTo := cycle }).nextInstr

/-- Has a wait for a phase other than `tok`, begun in cycle `b.last` or before, been completed by the
t phase changes up to `now` (R250, step 4)? In a cycle the phase changes before the waits are
tested. -/
def Bar.passed (b : Bar) (now t : Nat) (tok : Bool) : Bool :=
  decide (b.last < now) && (if b.ph == tok then decide (1 ≤ t) else t != 1)

/-- What a settled barrier does to a stream instance of its core: an MWAIT completes, and an MARR's
token is taken (R306). -/
def Inst.wake (i : Inst) (bar : Nat) (b : Bar) (now t : Nat) : Inst :=
  let i := if i.marked == some bar && decide (b.last < now) then
      { i with marked := none, tokens := dput i.tokens bar (if 1 ≤ t then !b.ph else b.ph) } else i
  match i.waits with
  | some (n, tok) => if n = bar && b.passed now t tok then i.endWait bar (!tok) now else i
  | none => i

/-- Settle a barrier for the cycles before `now` and complete its waiters (R250, steps 3 and 4). -/
def State.barSettleTo (s : State) (now core bar : Nat) : State :=
  let b := s.bar core bar
  let (b', t) := b.settle now
  let s := s.setBar core bar b'
  let done (_ : Nat) (g : Group) (o : Op) : Bool :=
    !s.isSaved g.team && match o.kind with
    | .barw c n tok => c == core && n == bar && b.passed now t tok
    | .barx c n ph => c == core && n == bar && ((ph == b.ph && decide (1 ≤ t)) || decide (2 ≤ t))
    | _ => false
  let s := s.completeWhere done .team b'.endClock
  { s with teams := s.teams.map (fun e =>
      (e.1, { e.2 with insts := e.2.insts.map (fun x =>
        (x.1, if coreOfPart x.2.part == core && !e.2.saved then x.2.wake bar b now t else x.2)) })) }

/-- Settle a barrier up to the current cycle. -/
def State.barSettle (s : State) (core bar : Nat) : State := s.barSettleTo s.cycle core bar

/-- The barriers that act at the end of a cycle: those that change phase, and those with waiters. -/
def State.barWork (s : State) : List (Nat × Nat) :=
  let full := (s.bars.filter (fun e => e.2.exp != 0 && decide (e.2.exp ≤ e.2.cnt))).map (fun e => (e.1 / 2048, e.1 % 2048))
  let ops := s.groups.flatMap (fun e => e.2.ops.filterMap (fun o => match o.2.kind with
    | .barw c n _ | .barx c n _ => some (c, n)
    | _ => none))
  let insts := s.teams.flatMap (fun e => e.2.insts.flatMap (fun x =>
    (x.2.waits.toList.map (fun w => w.1) ++ x.2.marked.toList).map (fun n => (coreOfPart x.2.part, n))))
  (full ++ ops ++ insts).eraseDups

/-- The end of the cycles before `now` for every barrier: all arrivals are in, then phases change and waiters
complete, so that their flags read zero from cycle `now` on (R19, R20). -/
def State.endBars (s : State) (now : Nat) : State :=
  s.barWork.foldl (fun s b => s.barSettleTo now b.1 b.2) s

/-- Apply an arrival of weight w in this cycle (R250, step 2). -/
def Bar.arrive (b : Bar) (w : Nat) (clock : BitVec 48) : Bar :=
  { b with cnt := min (b.cnt + w) 4095, clock := if b.clock.toNat < clock.toNat then clock else b.clock }

/-- A barrier outside the team's range: address fault, REASON 7 (R248). -/
def State.barFault (s : State) : State := s.trapHere 0x02 (w64n (einfoOf 7 0 2)) 1 []

/-- BARA at its arrival: a release of the group's earlier accesses (R251); the token is PH before the
cycle's phase change. -/
def State.applyBara (core bar w sb : Nat) (s : State) (gid n : Nat) : State :=
  match s.group? gid with
  | none => s
  | some g =>
    let s := (s.fenceRel g.core .team).barSettle core bar
    let b := s.bar core bar
    ((s.setBar core bar (b.arrive w (g.opClock n))).modGroup gid (fun g =>
      g.opSca n sb (w64n (boolBit b.ph)))).completeOp gid n

/-- BARX at its arrival: the operation then waits for the end of that phase. -/
def State.applyBarx (core bar w : Nat) (s : State) (gid n : Nat) : State :=
  match s.group? gid with
  | none => s
  | some g =>
    let s := (s.fenceRel g.core .team).barSettle core bar
    let b := s.bar core bar
    (s.setBar core bar (b.arrive w (g.opClock n))).modGroup gid (fun g => match dget g.ops n with
      | some o => { g with ops := dput g.ops n { o with kind := .barx core bar b.ph } }
      | none => g)

/-- The mould of the barrier instructions: the barrier must be in the team's range. -/
def barMould (i : Instr) (q : QFields) (f : State → Group → Nat → State) (s : State) : State :=
  s.guarded i (fun g =>
    let bar := q.obj.toNat
    if s.barInRange g.team bar then f s g bar else s.barFault)

/-- BARA (R249). -/
def execBara (q : QFields) (s : State) : Host.Outcome State Fault Refusal :=
  finish s (barMould (.bara q) q (fun s g bar =>
    let core := g.core
    (s.afterNow q.fsel false (.bara core bar q.imm.toNat q.sb.toNat)
      (fun s gid n => s.applyBara core bar q.imm.toNat q.sb.toNat gid n)).advance) s)

/-- BARA.INIT (R249, R250 step 1): of several in one cycle, the one of the lowest partition, then the
lowest resident index, stands. -/
def execBaraInit (q : QFields) (s : State) : Host.Outcome State Fault Refusal :=
  finish s (barMould (.baraInit q) q (fun s g bar =>
    let s := s.barSettle g.core bar
    let b := s.bar g.core bar
    let older : Bool := match b.initBy with
      | some (c, p, r) => c == s.cycle && (decide (p < g.part) || (p == g.part && decide (r < g.resident)))
      | none => false
    let b := if older then b
      else { b with exp := q.imm.toNat, initBy := some (s.cycle, g.part, g.resident) }
    ((s.setBar g.core bar b).addOp q.fsel (.store .plain .group 0 [])).advance) s)

/-- BARW (R249): it waits until PH differs from its token. -/
def execBarw (q : QFields) (s : State) : Host.Outcome State Fault Refusal :=
  finish s (barMould (.barw q) q (fun s g bar =>
    ((s.barSettle g.core bar).addOp q.fsel
      (.barw g.core bar ((g.sreg q.sa.toNat).getLsbD 0))).advance) s)

/-- BARX (R249). -/
def execBarx (q : QFields) (s : State) : Host.Outcome State Fault Refusal :=
  finish s (barMould (.barx q) q (fun s g bar =>
    let core := g.core
    (s.afterNow q.fsel false (.barx core bar q.imm.toNat)
      (fun s gid n => s.applyBarx core bar q.imm.toNat gid n)).advance) s)

/-- BARRIER_WAIT_COMPLETE (R250): the phase changes of the cycles before this one, and their
waiters. -/
def execBarrierWaitComplete (core bar : Nat) (s : State) : Host.Outcome State Fault Refusal :=
  finish s (if core < 320 && decide (bar < 2048) then s.barSettle core bar else s)

/-! ### Team barriers (R252) -/

def Team.tbar (t : Team) (n : Nat) : TeamBar := (dget t.tbars n).getD {}

/-- The phase is decided once every group that has not exited has arrived. -/
def State.tbarDecide (s : State) (team tb : Nat) (clock : BitVec 48) : State :=
  match s.team? team with
  | none => s
  | some t =>
    let b := t.tbar tb
    let all := t.gids.all (fun gid => match s.group? gid with
      | some g => g.exited || b.arrived.contains gid
      | none => true)
    if b.decided.isNone && !b.arrived.isEmpty && all then
      let b := { b with decided := some s.cycle
                        clock := if b.clock.toNat < clock.toNat then clock else b.clock }
      s.setTeam team { t with tbars := dput t.tbars tb b }
    else s

/-- An arrival: the barrier after it, and how many phase ends close the phase it counts for (1: the phase now
open). A group's second arrival in one phase is held and counts for the next phase, its third for the one
after, and so on; its LCLK counts in that phase. -/
def TeamBar.arrive (b : TeamBar) (gid : Nat) (clock : BitVec 48) : TeamBar × Nat :=
  if b.arrived.contains gid || b.decided.isSome then
    ({ b with held := b.held ++ [(gid, clock)] }, 2 + (b.held.filter (fun e => e.1 == gid)).length)
  else ({ b with arrived := b.arrived ++ [gid], clock := if b.clock.toNat < clock.toNat then clock else b.clock }, 1)

/-- The phase that the `ends`-th phase end from now closes. -/
def TeamBar.phaseOf (b : TeamBar) (ends : Nat) : Bool := if ends % 2 = 1 then b.ph else !b.ph

/-- The barrier after its phase has ended: the held arrivals count, in their order. -/
def TeamBar.next (b : TeamBar) : TeamBar :=
  b.held.foldl (fun b e => (b.arrive e.1 e.2).1) { ph := !b.ph, endClock := b.clock }

/-- TBAR and TBAR.ARR at their arrival (R252). -/
def State.applyTbar (tb : Nat) (token : Option Nat) (s : State) (gid n : Nat) : State :=
  match s.group? gid with
  | none => s
  | some g =>
    let s := s.fenceRel g.core .team
    match s.team? g.team with
    | none => s
    | some t =>
      let (b, ends) := (t.tbar tb).arrive gid (g.opClock n)
      let s := s.setTeam g.team { t with tbars := dput t.tbars tb b }
      let s := match token with
        | some sb => (s.modGroup gid (fun g => g.opSca n sb (w64n (boolBit (b.phaseOf ends))))).completeOp gid n
        | none => s.modGroup gid (fun g => match dget g.ops n with
          | some o => { g with ops := dput g.ops n { o with kind := .tbar tb ends } }
          | none => g)
      s.tbarDecide g.team tb 0

/-- TBAR (R252). -/
def execTbar (q : QFields) (s : State) : Host.Outcome State Fault Refusal :=
  finish s (s.guarded (.tbar q) (fun _ =>
    (s.afterNow q.fsel false (.tbar q.obj.toNat none)
      (fun s gid n => s.applyTbar q.obj.toNat none gid n)).advance))

/-- TBAR.ARR (R252). -/
def execTbarArr (q : QFields) (s : State) : Host.Outcome State Fault Refusal :=
  finish s (s.guarded (.tbarArr q) (fun _ =>
    (s.afterNow q.fsel false (.tbar q.obj.toNat (some q.sb.toNat))
      (fun s gid n => s.applyTbar q.obj.toNat (some q.sb.toNat) gid n)).advance))

/-- TBAR.WAIT (R252): complete when the phase differs from the token. -/
def execTbarWait (q : QFields) (s : State) : Host.Outcome State Fault Refusal :=
  finish s (s.guarded (.tbarWait q) (fun g =>
    let tok := (g.sreg q.sa.toNat).getLsbD 0
    let n := s.nextId
    let s := s.addOp q.fsel (.tbar q.obj.toNat 1)
    let b := ((s.team? g.team).map (fun t => t.tbar q.obj.toNat)).getD { ph := tok }
    (if b.ph != tok then s.completeWait s.cur.gid n .team b.endClock else s).advance))

/-- A phase end brings the waits for later phases one phase nearer. -/
def Group.tbarEnded (g : Group) (tb : Nat) : Group :=
  { g with ops := g.ops.map (fun e => (e.1, match e.2.kind with
    | .tbar n ends => if n = tb then { e.2 with kind := .tbar n (ends - 1) } else e.2
    | _ => e.2)) }

/-- TEAM_BARRIER_PHASE_END (R252): 6 cycles after the deciding arrival for one core, else 20. -/
def execTeamBarrierPhaseEnd (team tb : Nat) (s : State) : Host.Outcome State Fault Refusal :=
  finish s (match s.team? team with
  | none => s
  | some t =>
    let b := t.tbar tb
    match b.decided with
    | none => s
    | some c =>
      if s.cycle < c + (if t.cores.length = 1 then 6 else 20) then s else
      let s := s.setTeam team { t with tbars := dput t.tbars tb b.next }
      let s := s.completeWhere (fun gid _ o => t.gids.contains gid && (match o.kind with
        | .tbar n ends => n == tb && decide (ends ≤ 1)
        | _ => false)) .team b.clock
      let s := { s with groups := s.groups.map (fun (e : Nat × Group) =>
        (e.1, if t.gids.contains e.1 then e.2.tbarEnded tb else e.2)) }
      s.tbarDecide team tb 0)

end Sys2Proof.Machine
end

