-- ==== Sys2Proof/Machine/Keccak.lean ====
section
/-!
DEFINITION. SHAKE256 with 256 bits of output, which R361 and R362 name. The algorithm is that of
FIPS 202 (PRESUMED, log 12). A state is 25 lanes of 64 bits, lane (x, y) at 5y + x.
-/
namespace Sys2Proof.Machine

def kLane (a : List Word64) (i : Nat) : Word64 := (a[i]?).getD 0

/-- Rotation offsets of ρ, by lane. -/
def kRot : List Nat := [0, 1, 62, 28, 27, 36, 44, 6, 55, 20, 3, 10, 43, 25, 39, 41, 45, 15, 21, 8, 18, 2, 61, 56, 14]

/-- Round constants of ι. -/
def kRc : List Word64 :=
  [0x0000000000000001#64, 0x0000000000008082#64, 0x800000000000808A#64, 0x8000000080008000#64,
   0x000000000000808B#64, 0x0000000080000001#64, 0x8000000080008081#64, 0x8000000000008009#64,
   0x000000000000008A#64, 0x0000000000000088#64, 0x0000000080008009#64, 0x000000008000000A#64,
   0x000000008000808B#64, 0x800000000000008B#64, 0x8000000000008089#64, 0x8000000000008003#64,
   0x8000000000008002#64, 0x8000000000000080#64, 0x000000000000800A#64, 0x800000008000000A#64,
   0x8000000080008081#64, 0x8000000000008080#64, 0x0000000080000001#64, 0x8000000080008008#64]

/-- One round: θ, ρ, π, χ, ι. -/
def kRound (a : List Word64) (rc : Word64) : List Word64 :=
  let c := (List.range 5).map (fun x => (List.range 5).foldl (fun v y => v ^^^ kLane a (5 * y + x)) 0)
  let d := (List.range 5).map (fun x => kLane c ((x + 4) % 5) ^^^ (kLane c ((x + 1) % 5)).rotateLeft 1)
  let t := (List.range 25).map (fun i => kLane a i ^^^ kLane d (i % 5))
  -- lane (x, y) of the result of ρ and π comes from lane (x + 3y, x)
  let b := (List.range 25).map (fun i =>
    let x := i % 5
    let y := i / 5
    let j := 5 * x + (x + 3 * y) % 5
    (kLane t j).rotateLeft ((kRot[j]?).getD 0))
  let r := (List.range 25).map (fun i =>
    let x := i % 5
    let y := i / 5
    kLane b i ^^^ (~~~(kLane b (5 * y + (x + 1) % 5)) &&& kLane b (5 * y + (x + 2) % 5)))
  (kLane r 0 ^^^ rc) :: r.drop 1

def keccakF (a : List Word64) : List Word64 := kRc.foldl kRound a

/-- XOR a block of 136 bytes into the state and permute. -/
def kAbsorb (a : List Word64) (block : List Byte) : List Word64 :=
  keccakF ((List.range 25).map (fun i =>
    if i < 17 then kLane a i ^^^ w64n (recNum block (8 * i) 8) else kLane a i))

/-- Absorb whole blocks; the last has the padding 0x1F … 0x80. -/
def kSponge : Nat → List Word64 → List Byte → List Word64
  | 0, a, _ => a
  | fuel + 1, a, m =>
    if m.length < 136 then
      let last := m ++ [0x1F] ++ List.replicate (135 - m.length) 0
      kAbsorb a (listSet last 135 ((last[135]?).getD 0 ||| 0x80))
    else kSponge fuel (kAbsorb a (m.take 136)) (m.drop 136)

/-- SHAKE256(m, 256 bits), byte i at bits [8i + 7 : 8i]. -/
def shake256 (m : List Byte) : BitVec 256 :=
  let a := kSponge (m.length / 136 + 1) (List.replicate 25 0) m
  kLane a 3 ++ kLane a 2 ++ kLane a 1 ++ kLane a 0

end Sys2Proof.Machine
end

