-- ==== Sys2Proof/Machine/Integer.lean ====
section
/-!
DEFINITION. Integer, predicate and move instructions (R174 to R191).
-/
namespace Sys2Proof.Machine

/-- The type an operand field resolves to in the slot at `cur` (R69). -/
def State.ty (s : State) (g : Group) (ty : BitVec 4) : Nat :=
  resolveTy (fld (g.slot s.cur.slot).fmt 3 0) ty

/-- The mould of R177: `f signed W a b` gives the W-bit result and the MODE bits it raises. Each lane
of exec once, or once in form 11. -/
def intMould (i : Instr) (o : Alu) (f : Bool → Nat → Nat → Nat → Nat × BitVec 16) (s : State) : State :=
  s.guarded i (fun g =>
    let t := s.ty g (aluTy o)
    let w := wide t
    let res (l : Nat) := f (signedTy t) (widthOf w) (aluA g o w l) (aluB g o w l)
    if isVec (aluForm o) then
      s.issueVec (g.exec s.cur.mask (aluNeg o) (aluPred o)) w (aluDst o).toNat 4 res
    else
      s.issueSca (aluDst o).toNat 2 (scalarOf (signedTy t) w (res 0).1) (res 0).2)

/-- The mould with a third operand C, vector in forms 00, 01 and 10 (R177, R184). -/
def intMould3 (i : Instr) (r : RFields) (f : Bool → Nat → Nat → Nat → Nat → Nat) (s : State) : State :=
  s.guarded i (fun g =>
    let t := s.ty g r.ty
    let w := wide t
    let res (l : Nat) : Nat × BitVec 16 :=
      (f (signedTy t) (widthOf w) (g.opVal (aVec r.form) w r.a.toNat l)
        (g.opVal (bVec r.form) w r.b.toNat l) (g.opVal (isVec r.form) w r.c.toNat l), 0)
    if isVec r.form then s.issueVec (g.exec s.cur.mask r.neg r.pred) w r.dst.toNat 4 res
    else s.issueSca r.dst.toNat 2 (scalarOf (signedTy t) w (res 0).1) 0)

/-! ### Results (R177 to R179, R184, R185) -/

def addR (_ : Bool) (W a b : Nat) : Nat × BitVec 16 := ((a + b) % 2 ^ W, 0)
def subR (_ : Bool) (W a b : Nat) : Nat × BitVec 16 := ((a + 2 ^ W - b % 2 ^ W) % 2 ^ W, 0)
def mulR (_ : Bool) (W a b : Nat) : Nat × BitVec 16 := (a * b % 2 ^ W, 0)
def mulhR (sg : Bool) (W a b : Nat) : Nat × BitVec 16 :=
  (toCode W (floorDiv (valOf sg W a * valOf sg W b) (2 ^ W)), 0)
def andR (_ : Bool) (_ a b : Nat) : Nat × BitVec 16 := (a &&& b, 0)
def orR (_ : Bool) (_ a b : Nat) : Nat × BitVec 16 := (a ||| b, 0)
def xorR (_ : Bool) (_ a b : Nat) : Nat × BitVec 16 := (a ^^^ b, 0)
def minR (sg : Bool) (W a b : Nat) : Nat × BitVec 16 :=
  (if valOf sg W a ≤ valOf sg W b then a else b, 0)
def maxR (sg : Bool) (W a b : Nat) : Nat × BitVec 16 :=
  (if valOf sg W a ≥ valOf sg W b then a else b, 0)

/-- IADDS (R178): saturating add, or subtract under modifier 001. -/
def addsR (sub : Bool) (sg : Bool) (W a b : Nat) : Nat × BitVec 16 :=
  let x := if sub then valOf sg W a - valOf sg W b else valOf sg W a + valOf sg W b
  let r := satInt sg W bitOF x
  (r.code, r.flags)

def rotl (W a m : Nat) : Nat := (a * 2 ^ m % 2 ^ W) ||| (a / 2 ^ (W - m))
def rotr (W a m : Nat) : Nat := (a / 2 ^ m) ||| (a * 2 ^ (W - m) % 2 ^ W)

/-- ISHL (R179). -/
def shlR (rot : Bool) (_ : Bool) (W a b : Nat) : Nat × BitVec 16 :=
  (if rot then rotl W a (b % W) else if W ≤ b then 0 else a * 2 ^ b % 2 ^ W, 0)
/-- ISHR (R179): arithmetic for signed types, logical for unsigned ones. -/
def shrR (rot : Bool) (sg : Bool) (W a b : Nat) : Nat × BitVec 16 :=
  (if rot then rotr W a (b % W)
   else if sg then
     (if W ≤ b then (if sgn W a < 0 then 2 ^ W - 1 else 0) else toCode W (floorDiv (sgn W a) (2 ^ b)))
   else if W ≤ b then 0 else a / 2 ^ b, 0)

/-- IBFE (R184). -/
def bfeR (sg : Bool) (W a ctl : Nat) : Nat × BitVec 16 :=
  let pos := ctl % 256
  let len := ctl / 256 % 256
  if W ≤ pos || len = 0 then (0, 0) else
  let e := min (pos + len) W
  let k := e - pos
  let f := a / 2 ^ pos % 2 ^ k
  (if sg then toCode W (sgn k f) else f, 0)

/-- IBFI (R184): `a` the value, `b` the base. -/
def bfiR (_ : Bool) (W a b ctl : Nat) : Nat :=
  let pos := ctl % 256
  let l := min (ctl / 256 % 256) W
  let m := if W ≤ pos then 0 else (2 ^ l - 1) * 2 ^ pos % 2 ^ W
  (b &&& (2 ^ W - 1 - m)) ||| ((a * 2 ^ pos % 2 ^ W) &&& m)

/-- Leading zeros of a W-bit value (R185). -/
def clz (W a : Nat) : Nat := if a = 0 then W else W - 1 - Nat.log2 a
def popc (W a : Nat) : Nat := (List.range W).foldl (fun n i => n + a / 2 ^ i % 2) 0

/-- The conditions of ICMP (R180). -/
def icmpCond (m : Nat) (a b : Int) : Bool :=
  match m with
  | 0 => decide (a = b)
  | 1 => decide (a ≠ b)
  | 2 => decide (a < b)
  | 3 => decide (a ≤ b)
  | 4 => decide (b < a)
  | _ => decide (b ≤ a)

/-! ### Meanings -/

def execIadd (o : Alu) (s : State) : Host.Outcome State Fault Refusal :=
  .next (intMould (.iadd o) o addR s)
def execIsub (o : Alu) (s : State) : Host.Outcome State Fault Refusal :=
  .next (intMould (.isub o) o subR s)
def execImul (o : Alu) (s : State) : Host.Outcome State Fault Refusal :=
  .next (intMould (.imul o) o mulR s)
def execImulh (r : RFields) (s : State) : Host.Outcome State Fault Refusal :=
  .next (intMould (.imulh r) (.reg r) mulhR s)
def execImad (r : RFields) (s : State) : Host.Outcome State Fault Refusal :=
  .next (intMould3 (.imad r) r (fun _ W a b c => (a * b + c) % 2 ^ W) s)
def execIadds (o : Alu) (s : State) : Host.Outcome State Fault Refusal :=
  .next (intMould (.iadds o) o (addsR (aluMod o == 1)) s)
def execIand (o : Alu) (s : State) : Host.Outcome State Fault Refusal :=
  .next (intMould (.iand o) o andR s)
def execIor (o : Alu) (s : State) : Host.Outcome State Fault Refusal :=
  .next (intMould (.ior o) o orR s)
def execIxor (o : Alu) (s : State) : Host.Outcome State Fault Refusal :=
  .next (intMould (.ixor o) o xorR s)
def execIshl (o : Alu) (s : State) : Host.Outcome State Fault Refusal :=
  .next (intMould (.ishl o) o (shlR (aluMod o == 1)) s)
def execIshr (o : Alu) (s : State) : Host.Outcome State Fault Refusal :=
  .next (intMould (.ishr o) o (shrR (aluMod o == 1)) s)
def execImin (o : Alu) (s : State) : Host.Outcome State Fault Refusal :=
  .next (intMould (.imin o) o minR s)
def execImax (o : Alu) (s : State) : Host.Outcome State Fault Refusal :=
  .next (intMould (.imax o) o maxR s)

/-- ICMP (R180): the exec bits of a predicate, or 1 or 0 in a scalar. -/
def execIcmp (o : Alu) (s : State) : Host.Outcome State Fault Refusal :=
  .next (s.guarded (.icmp o) (fun g =>
    let t := s.ty g (aluTy o)
    let w := wide t
    let W := widthOf w
    let sg := signedTy t
    let res (l : Nat) : Bool :=
      icmpCond (aluMod o).toNat (valOf sg W (aluA g o w l)) (valOf sg W (aluB g o w l))
    if isVec (aluForm o) then
      s.issuePred (aluDst o).toNat 4 (g.exec s.cur.mask (aluNeg o) (aluPred o)) (maskOf res) []
    else s.issueSca (aluDst o).toNat 2 (w64n (boolBit (res 0))) 0))

/-- ISEL (R181). -/
def execIsel (r : RFields) (s : State) : Host.Outcome State Fault Refusal :=
  .next (s.guarded (.isel r) (fun g =>
    let t := s.ty g r.ty
    let w := wide t
    let pick (c : Bool) (l : Nat) : Nat :=
      if c then g.opVal (aVec r.form) w r.a.toNat l else g.opVal (bVec r.form) w r.b.toNat l
    if isVec r.form then
      s.issueVec (g.exec s.cur.mask r.neg r.pred) w r.dst.toNat 4
        (fun l => (pick ((g.preg r.c.toNat).getLsbD l) l, 0))
    else
      s.issueSca r.dst.toNat 2 (scalarOf (signedTy t) w (pick (g.sreg r.c.toNat != 0) 0)) 0))

/-- MOV (R182). -/
def execMov (r : RFields) (s : State) : Host.Outcome State Fault Refusal :=
  .next (s.guarded (.mov r) (fun g =>
    let t := s.ty g r.ty
    let w := wide t
    if isVec r.form then
      s.issueVec (g.exec s.cur.mask r.neg r.pred) w r.dst.toNat 4
        (fun l => (g.opVal (aVec r.form) w r.a.toNat l, 0))
    else s.issueSca r.dst.toNat 2 (scalarOf (signedTy t) w (g.scaVal w r.a.toNat)) 0))

/-- MOVI (R183). -/
def execMovi (x : WFields) (s : State) : Host.Outcome State Fault Refusal :=
  .next (s.guarded (.movi x) (fun g =>
    let t := s.ty g x.ty
    if isVec x.form then
      s.issueVec (g.exec s.cur.mask x.neg x.pred) false x.dst.toNat 4 (fun _ => (x.imm.toNat, 0))
    else if x.hi then
      s.issueSca x.dst.toNat 2 (x.imm ++ (g.sreg x.dst.toNat).extractLsb' 0 32) 0
    else
      s.issueSca x.dst.toNat 2
        (if t == 0 || t == 2 then x.imm.signExtend 64 else x.imm.zeroExtend 64) 0))

def execIbfe (o : Alu) (s : State) : Host.Outcome State Fault Refusal :=
  .next (intMould (.ibfe o) o bfeR s)
def execIbfi (r : RFields) (s : State) : Host.Outcome State Fault Refusal :=
  .next (intMould3 (.ibfi r) r bfiR s)
def execIclz (r : RFields) (s : State) : Host.Outcome State Fault Refusal :=
  .next (intMould (.iclz r) (.reg r) (fun _ W a _ => (clz W a, 0)) s)
def execIpopc (r : RFields) (s : State) : Host.Outcome State Fault Refusal :=
  .next (intMould (.ipopc r) (.reg r) (fun _ W a _ => (popc W a, 0)) s)

/-- The functions of PLOP (R186). -/
def plopFn (m : Nat) (x y : Mask) : Mask :=
  match m with
  | 0 => x &&& y
  | 1 => x ||| y
  | 2 => x ^^^ y
  | 3 => x &&& ~~~y
  | 4 => x ||| ~~~y
  | 5 => ~~~(x &&& y)
  | 6 => ~~~(x ||| y)
  | _ => ~~~(x ^^^ y)

def execPlop (r : RFields) (s : State) : Host.Outcome State Fault Refusal :=
  .next (s.guarded (.plop r) (fun g =>
    s.issuePred r.dst.toNat 2 allLanes
      (plopFn r.mod.toNat (g.preg r.a.toNat) (g.preg r.b.toNat)) []))

/-- PMOV (R187). -/
def execPmov (r : RFields) (s : State) : Host.Outcome State Fault Refusal :=
  .next (s.guarded (.pmov r) (fun g =>
    match r.mod.toNat with
    | 0 => s.issuePred r.dst.toNat 2 allLanes (g.sreg r.a.toNat) []
    | 1 => s.issueSca r.dst.toNat 2 (g.preg r.a.toNat) 0
    | 2 => s.issuePred r.dst.toNat 2 allLanes (g.preg r.a.toNat) []
    | _ => s.issuePred r.dst.toNat 2 allLanes (g.slot s.cur.slot).mask []))

/-- The results of PCNT (R188). -/
def pcntFn (m : Nat) (p act : Mask) : Nat :=
  match m with
  | 0 => popcount p
  | 1 => popcount (p &&& act)
  | 2 => (lowest? p).getD 64
  | _ => (highest? p).getD 64

def execPcnt (r : RFields) (s : State) : Host.Outcome State Fault Refusal :=
  .next (s.guarded (.pcnt r) (fun g =>
    s.issueSca r.dst.toNat 2
      (w64n (pcntFn r.mod.toNat (g.preg r.a.toNat) (g.slot s.cur.slot).mask)) 0))

end Sys2Proof.Machine
end

