-- ==== Sys2Proof/Machine/Float.lean ====
section
/-!
DEFINITION. Floating-point arithmetic, minimum and maximum, comparison and classes (R192 to R197).
-/
namespace Sys2Proof.Machine

/-- The format of TYPE 4, 5 or 6, its elements per word and bits per element (R153, R154). -/
def floatFmt (t : Nat) : BinFmt := if t = 5 then fmtBF16 else if t = 6 then fmtF16 else fmtF32
def floatElems (t : Nat) : Nat := if t = 4 then 1 else 2
def elemOf (bits x j : Nat) : Nat := x / 2 ^ (bits * j) % 2 ^ bits

/-- Compute n packed elements of `bits` bits: the word and the OR of the bits raised (R193). -/
def packRes (n bits : Nat) (f : Nat → Res) : Nat × BitVec 16 :=
  (List.range n).foldl (fun a j => let r := f j; (a.1 + r.code * 2 ^ (bits * j), a.2 ||| r.flags)) (0, 0)

/-- An exact result before its one rounding. -/
inductive Exact where
  | nan (nv : Bool)
  | inf (neg : Bool)
  | num (x : SFrac)
  deriving DecidableEq, Repr

def FVal.isNan : FVal → Bool
  | .nan _ => true
  | _ => false
def FVal.isSig : FVal → Bool
  | .nan sg => sg
  | _ => false
def FVal.isZero : FVal → Bool
  | .num x => x.mag.isZero
  | _ => false
def FVal.isInf : FVal → Bool
  | .inf _ => true
  | _ => false
def FVal.neg : FVal → Bool
  | .inf n => n
  | .num x => x.neg
  | .nan _ => false
def FVal.negate : FVal → FVal
  | .nan sg => .nan sg
  | .inf n => .inf (!n)
  | .num x => .num x.negate

/-- The sum of two exact values; `rm` says that rounding is toward minus infinity, which makes an
exact zero of opposite signs negative (R194). -/
def sumExact (rm : Bool) (x y : SFrac) : SFrac :=
  let z := x.add y
  if z.mag.isZero then ⟨if x.neg == y.neg then x.neg else rm, ⟨0, 1⟩⟩ else z

def addExact (rm : Bool) (a b : FVal) : Exact :=
  match a, b with
  | .nan s, y => .nan (s || y.isSig)
  | x, .nan s => .nan (s || x.isSig)
  | .inf m, .inf n => if m == n then .inf m else .nan true
  | .inf m, .num _ => .inf m
  | .num _, .inf n => .inf n
  | .num x, .num y => .num (sumExact rm x y)

def mulExact (a b : FVal) : Exact :=
  match a, b with
  | .nan s, y => .nan (s || y.isSig)
  | x, .nan s => .nan (s || x.isSig)
  | x, y =>
    let neg := x.neg != y.neg
    if x.isInf || y.isInf then (if x.isZero || y.isZero then .nan true else .inf neg)
    else match x, y with
      | .num p, .num q => .num (p.mul q)
      | _, _ => .nan true

/-- a × b + c with no rounding of the product; 0 × ∞ is invalid whatever c is (R194). -/
def fmaExact (rm : Bool) (a b c : FVal) : Exact :=
  let bad := (a.isZero && b.isInf) || (a.isInf && b.isZero)
  if bad then .nan true else
  if a.isNan || b.isNan || c.isNan then .nan (a.isSig || b.isSig || c.isSig) else
  match mulExact a b with
  | .nan nv => .nan nv
  | .inf m => match c with
    | .inf n => if m == n then .inf m else .nan true
    | _ => .inf m
  | .num p => match c with
    | .inf n => .inf n
    | .num q => .num (sumExact rm p q)
    | .nan sg => .nan sg

/-- Round an exact result to the format (R161 to R163, R155). -/
def roundExact (f : BinFmt) (narrow : Bool) (rnd : Rnd) : Exact → Res
  | .nan nv => ⟨f.nanCode, if nv then bitNV else 0⟩
  | .inf n => ⟨f.withSign n f.infCode, 0⟩
  | .num x => f.round narrow rnd x

/-- The mould of FADD, FSUB, FMUL and FFMA (R194): element by element, grain index j. -/
def floatMould (i : Instr) (r : RFields) (op : Bool → FVal → FVal → FVal → Exact) (s : State) : State :=
  s.guarded i (fun g =>
    let t := s.ty g r.ty
    let f := floatFmt t
    let res (l : Nat) : Nat × BitVec 16 :=
      let a := g.opVal (aVec r.form) false r.a.toNat l
      let b := g.opVal (bVec r.form) false r.b.toNat l
      let c := g.vecVal false r.c.toNat l
      packRes (floatElems t) f.width (fun j =>
        let rnd := g.rnd r.mod l j
        let dec (x : Nat) : FVal := f.decode (f.flushIn rnd.fzi (elemOf f.width x j))
        roundExact f (t != 4) rnd (op (rnd.code == 4) (dec a) (dec b) (dec c)))
    s.issueVec (g.exec s.cur.mask r.neg r.pred) false r.dst.toNat 4 res)

def execFadd (r : RFields) (s : State) : Host.Outcome State Fault Refusal :=
  .next (floatMould (.fadd r) r (fun rm a b _ => addExact rm a b) s)
def execFsub (r : RFields) (s : State) : Host.Outcome State Fault Refusal :=
  .next (floatMould (.fsub r) r (fun rm a b _ => addExact rm a b.negate) s)
def execFmul (r : RFields) (s : State) : Host.Outcome State Fault Refusal :=
  .next (floatMould (.fmul r) r (fun _ a b _ => mulExact a b) s)
def execFfma (r : RFields) (s : State) : Host.Outcome State Fault Refusal :=
  .next (floatMould (.ffma r) r (fun rm a b c => fmaExact rm a b c) s)

/-- a < b for values that are no NaN; zeros of either sign are equal. -/
def FVal.lt : FVal → FVal → Bool
  | .inf true, .inf true => false
  | .inf true, _ => true
  | _, .inf true => false
  | .inf false, _ => false
  | _, .inf false => true
  | .num x, .num y => x.lt y
  | _, _ => false
def FVal.eqv (a b : FVal) : Bool := !a.isNan && !b.isNan && !FVal.lt a b && !FVal.lt b a
/-- The order of FMIN and FMAX, in which −0 < +0 (R195). -/
def FVal.before (a b : FVal) : Bool := FVal.lt a b || (FVal.eqv a b && a.neg && !b.neg)

/-- FMIN or FMAX of two codes (R195). -/
def minMaxCode (f : BinFmt) (fzi isMax : Bool) (ca cb : Nat) : Res :=
  let ca := f.flushIn fzi ca
  let cb := f.flushIn fzi cb
  let a := f.decode ca
  let b := f.decode cb
  let fl : BitVec 16 := if a.isSig || b.isSig then bitNV else 0
  if a.isNan && b.isNan then ⟨f.nanCode, fl⟩
  else if a.isNan then ⟨cb, fl⟩
  else if b.isNan then ⟨ca, fl⟩
  else ⟨if isMax then (if FVal.before a b then cb else ca) else (if FVal.before b a then cb else ca), fl⟩

def minMaxMould (i : Instr) (r : RFields) (isMax : Bool) (s : State) : State :=
  s.guarded i (fun g =>
    let t := s.ty g r.ty
    let f := floatFmt t
    s.issueVec (g.exec s.cur.mask r.neg r.pred) false r.dst.toNat 4 (fun l =>
      let a := g.opVal (aVec r.form) false r.a.toNat l
      let b := g.opVal (bVec r.form) false r.b.toNat l
      packRes (floatElems t) f.width (fun j =>
        minMaxCode f (g.mode.getLsbD 3) isMax (elemOf f.width a j) (elemOf f.width b j))))

def execFmin (r : RFields) (s : State) : Host.Outcome State Fault Refusal :=
  .next (minMaxMould (.fmin r) r false s)
def execFmax (r : RFields) (s : State) : Host.Outcome State Fault Refusal :=
  .next (minMaxMould (.fmax r) r true s)

/-- The conditions of FCMP (R196). -/
def fcmpCond (m : Nat) (a b : FVal) : Bool :=
  let nan := a.isNan || b.isNan
  match m with
  | 0 => !nan && FVal.eqv a b
  | 1 => nan || !FVal.eqv a b
  | 2 => !nan && FVal.lt a b
  | 3 => !nan && (FVal.lt a b || FVal.eqv a b)
  | 4 => !nan && FVal.lt b a
  | 5 => !nan && (FVal.lt b a || FVal.eqv a b)
  | _ => nan

def execFcmp (r : RFields) (s : State) : Host.Outcome State Fault Refusal :=
  .next (s.guarded (.fcmp r) (fun g =>
    let val (vec : Bool) (n l : Nat) : FVal :=
      fmtF32.decode (fmtF32.flushIn (g.mode.getLsbD 3) (g.opVal vec false n l))
    let a (l : Nat) := val (aVec r.form) r.a.toNat l
    let b (l : Nat) := val (bVec r.form) r.b.toNat l
    let m := g.exec s.cur.mask r.neg r.pred
    s.issuePred r.dst.toNat 4 m
      (maskOf (fun l => m.getLsbD l && fcmpCond r.mod.toNat (a l) (b l)))
      (stickyOf m (fun l => if (a l).isSig || (b l).isSig then bitNV else 0))))

/-- The class bit of an f32 code (R197). -/
def fclassBit (c : Nat) : Nat :=
  match fmtF32.decode c with
  | .nan sg => if sg then 8 else 9
  | .inf n => if n then 0 else 7
  | .num x =>
    if x.mag.isZero then (if x.neg then 3 else 4)
    else if fmtF32.isSubnormal c then (if x.neg then 2 else 5)
    else if x.neg then 1 else 6

def execFclass (r : RFields) (s : State) : Host.Outcome State Fault Refusal :=
  .next (s.guarded (.fclass r) (fun g =>
    s.issueVec (g.exec s.cur.mask r.neg r.pred) false r.dst.toNat 4
      (fun l => (2 ^ fclassBit (g.vecVal false r.a.toNat l), 0))))

end Sys2Proof.Machine
end

