-- ==== Sys2Proof/Machine/Convert.lean ====
section
/-!
DEFINITION. Conversions (R200 to R202), with R162, R163 and R167 for their special values.
-/
namespace Sys2Proof.Machine

/-! ### One element -/

/-- The width of an element of type code t (R69, R153). -/
def elemBits (t : Nat) : Nat :=
  if wide t then 64 else if t == 5 || t == 6 then 16 else if t == 7 || t == 8 then 8
  else if t == 9 then 4 else 32

/-- Is t one of the IEEE types? -/
def isFloatTy (t : Nat) : Bool := t == 4 || t == 5 || t == 6

/-- A floating-point source element, FZI applied to the IEEE formats (R163). -/
def readFloat (fzi : Bool) (t c : Nat) : FVal :=
  if t == 7 then dm8Decode c
  else (floatFmt t).decode ((floatFmt t).flushIn fzi c)

/-- A floating-point value to type `dst` (R161, R162, R167). -/
def floatTo (rnd : Rnd) (dst : Nat) (x : FVal) : Res :=
  if dst == 7 then fvalToDm8 rnd x
  else if isFloatTy dst then fvalToBin (floatFmt dst) (dst != 4) rnd x
  else fvalToInt rnd (signedTy dst || dst == 8) (elemBits dst) x

/-- An integer to type `dst` (R162): saturation raises OF. -/
def intTo (rnd : Rnd) (dst : Nat) (x : Int) : Res :=
  if dst == 7 then dm8Round rnd (SFrac.ofInt x)
  else if isFloatTy dst then (floatFmt dst).round (dst != 4) rnd (SFrac.ofInt x)
  else if dst == 9 then satI4 x
  else satInt (signedTy dst || dst == 8) (elemBits dst) bitOF x

/-- An element of type `src` to type `dst`. -/
def convElem (rnd : Rnd) (src dst c : Nat) : Res :=
  if src == 7 || isFloatTy src then floatTo rnd dst (readFloat rnd.fzi src c)
  else if src == 9 then
    let (x, fl) := i4Value c
    let r := intTo rnd dst x
    ⟨r.code, r.flags ||| fl⟩
  else intTo rnd dst (valOf (signedTy src || src == 8) (elemBits src) c)

/-! ### CVT -/

/-- CVT (R200). -/
def execCvt (r : RFields) (s : State) : Host.Outcome State Fault Refusal :=
  .next (s.guarded (.cvt r) (fun g =>
    let src := s.ty g r.ty
    let dst := fld r.b 3 0
    let n := if src ≤ 4 then 1 else 32 / elemBits src
    let sb := elemBits src
    s.issueVec (g.exec s.cur.mask r.neg r.pred) (wide dst) r.dst.toNat 8 (fun l =>
      let a := g.vecVal (wide src) r.a.toNat l
      packRes n (elemBits dst) (fun j => convElem (g.rnd r.mod l j) src dst (elemOf sb a j)))))

/-! ### PACK and UNPACK -/

/-- The wide type of a packed type (R201). -/
def wideOf (t : Nat) : Nat := if t == 8 || t == 9 then 0 else 4

/-- PACK (R201). -/
def execPack (r : RFields) (s : State) : Host.Outcome State Fault Refusal :=
  .next (s.guarded (.pack r) (fun g =>
    let t := s.ty g r.ty
    s.issueVec (g.exec s.cur.mask r.neg r.pred) false r.dst.toNat 8 (fun l =>
      packRes (packElems t) (elemBits t) (fun j =>
        convElem (g.rnd r.mod l j) (wideOf t) t (g.vecVal false (r.a.toNat + j) l)))))

/-- UNPACK (R201): one register per element. -/
def execUnpack (r : RFields) (s : State) : Host.Outcome State Fault Refusal :=
  .next (s.guarded (.unpack r) (fun g =>
    let t := s.ty g r.ty
    let m := g.exec s.cur.mask r.neg r.pred
    let res (l j : Nat) : Res :=
      convElem (g.rnd r.mod l j) t (wideOf t) (elemOf (elemBits t) (g.vecVal false r.a.toNat l) j)
    let es := List.range (packElems t)
    (s.pendResult 8 (es.flatMap (fun j => vecUpd false (r.dst.toNat + j) m (fun l => (res l j).code)))
      (stickyOf m (fun l => es.foldl (fun a j => a ||| (res l j).flags) 0))).advance))

/-! ### Fixed point -/

/-- a × 2^f. -/
def FVal.scale2 (f : Nat) : FVal → FVal
  | .num x => .num ⟨x.neg, x.mag.mul ⟨2 ^ f, 1⟩⟩
  | v => v

/-- CVTFX (R202). -/
def execCvtfx (r : RFields) (s : State) : Host.Outcome State Fault Refusal :=
  .next (s.guarded (.cvtfx r) (fun g =>
    let t := s.ty g r.ty
    let f := fld r.b 5 0
    s.issueVec (g.exec s.cur.mask r.neg r.pred) (wide t) r.dst.toNat 8 (fun l =>
      let rnd := g.rnd r.mod l 0
      let x := fvalToInt rnd true (elemBits t)
        (FVal.scale2 f (readFloat rnd.fzi 4 (g.vecVal false r.a.toNat l)))
      (x.code, x.flags))))

/-- CVTXF (R202). -/
def execCvtxf (r : RFields) (s : State) : Host.Outcome State Fault Refusal :=
  .next (s.guarded (.cvtxf r) (fun g =>
    let t := s.ty g r.ty
    let f := fld r.b 5 0
    s.issueVec (g.exec s.cur.mask r.neg r.pred) false r.dst.toNat 8 (fun l =>
      let x := fmtF32.round false (g.rnd r.mod l 0)
        (SFrac.ofIntDiv (sgn (elemBits t) (g.vecVal (wide t) r.a.toNat l)) (2 ^ f))
      (x.code, x.flags))))

end Sys2Proof.Machine
end

