-- ==== Sys2Proof/Machine/Control.lean ====
section
/-!
DEFINITION. The control block (R113, R118 to R126), SETFMT, SETMODE, SRD and SWR (R127 to R129), and
CSRR, CSRW, TRAP and RTE (R143 to R145).
-/
namespace Sys2Proof.Machine

/-! ### Code fetch -/

/-- What a clause fetch needs (R214). -/
def needFetch (a : Agent) : Need := { x := true, user := a.user }

/-- The reason why a code address cannot be fetched: trap code, EINFO; or its physical address
(R210, R214, R410). -/
inductive CodeRes where
  | ok (pa : Nat)
  | fault (code einfo : Nat)
  deriving DecidableEq, Repr

def State.codeAt (s : State) (a : Agent) (va : Word64) : State × CodeRes :=
  if !canonical va then (s, .fault 0x02 (einfoOf 5 0 kindFetch))
  else if inWindow va.toNat then (s, .fault 0x02 (einfoOf 6 0 kindFetch))
  else
    let r := s.lookup a.core a.ctx va.toNat
    match r.2 with
    | .fail why lev _ => (r.1, .fault 0x01 (einfoOf why lev kindFetch))
    | .leaf l => match (needFetch a).refuse l with
      | some why => (r.1, .fault 0x01 (einfoOf why l.level kindFetch))
      | none => (r.1, .ok (l.pa va.toNat))

/-- Read n words from va through the core's L1 (R104). -/
def State.codeWords (s : State) (a : Agent) : Nat → Word64 → State × (List Word64 ⊕ (Nat × Nat))
  | 0, _ => (s, .inl [])
  | n + 1, va =>
    let r := s.codeAt a va
    match r.2 with
    | .fault c e => (r.1, .inr (c, e))
    | .ok pa =>
      let b := r.1.readLoc a.core 0 8 (.phys pa)
      let t := b.1.codeWords a n (va + 8)
      match t.2 with
      | .inl ws => (t.1, .inl (w64n (ofBytes b.2) :: ws))
      | .inr e => (t.1, .inr e)

/-! ### Setting slots -/

/-- The outcome of a divergent transfer (R115). -/
inductive Diverge where
  | done (g : Group)
  | overflow
  | wait
  deriving DecidableEq, Repr

def spillOf (x : Slot) : SpillEntry :=
  { pc := x.pc, mask := x.mask, join := x.join, fmt := x.fmt, brxrest := x.resting, idx := x.resumeIdx,
    transfer := x.transfer, yieldc := x.yieldc, held := x.held }

/-- The 32 bytes of a spill entry in the context image, VALID 1 and the reserved bits zero (R30). -/
def SpillEntry.bytes (e : SpillEntry) : List Byte :=
  toBytes 8 e.pc.toNat ++ toBytes 8 e.mask.toNat ++ toBytes 8 e.join.toNat ++ toBytes 4 e.fmt.toNat ++
    toBytes 4 (1 + 2 * boolBit e.brxrest)

/-- A byte of the group's context image (R27): a byte of a register line, or of the spill stack, whose entry i stands at
byte 32i; none above the stack. Its image has no address of the spec in the pool (log 8). -/
def Group.imageByte (g : Group) (off : Nat) : Option Byte :=
  let line := off / 256
  if g.budget ≤ line then none
  else if line + 10 < g.budget || g.budget ≤ line + 2 then some ((tget 0 g.vregs line).extractLsb' (8 * (off % 256)) 8)
  else
    let o := off - 256 * (g.budget - 10)
    (g.spill.reverse[o / 32]?).bind (fun e => e.bytes[o % 32]?)

/-- R115 for slot k with taken set T, target t, fall-through f and join J. Where the other slot must be
spilled while one of its clauses runs or replays remain to it, the transfer waits for their end (log 24). `rest`
marks the half of the lanes not taken as resting (R122). -/
def Group.diverge (g : Group) (k : Nat) (T : Mask) (t f J : Word64) (rest : Bool) (cycle : Nat) :
    Diverge :=
  let S := g.slot k
  let o := 1 - k
  let O := g.slot o
  let N := S.mask &&& ~~~T
  if T = 0 then .done (g.setPc k f)
  else if N = 0 then .done (g.setPc k t)
  else
    let halves := [(T, t, false), (N, f, rest)].filter (fun h => h.2.1 != J)
    let needC := J != S.join
    let needO := halves.length == 2 && O.live
    if 64 < g.spill.length + boolBit needC + boolBit needO then .overflow
    else if needO && (O.running.isSome || O.replays != []) then .wait
    else
      let c : SpillEntry := { pc := J, mask := S.mask, join := S.join, fmt := S.fmt, brxrest := false }
      let spill := (if needO then [spillOf O] else []) ++ (if needC then [c] else []) ++ g.spill
      let half (h : Mask × Word64 × Bool) (stamp : Nat) : Slot :=
        { emptySlot with pc := h.2.1, mask := h.1, join := J, fmt := S.fmt, resting := h.2.2,
                         stamp := stamp, eligFrom := cycle + 1 }
      let fetched (x : Slot) : Slot := { x with clause := S.clause.filter (fun c => c.addr == x.pc) }
      let g := { g with spill := spill, first := k }
      match halves with
      | [] => .done (g.clearSlot k)
      | [h] => .done (g.setSlot k (fetched (half h S.stamp)))
      | h :: h' :: _ => .done ((g.setSlot k (fetched (half h S.stamp))).setSlot o (half h' O.stamp))

/-! ### Transfers -/

/-- target and join of format B (R64). -/
def branchTo (at_ : Word64) (off : BitVec 24) : Word64 := at_ + 8 * off.signExtend 64

/-- The transfer at `cur` has issued; it resolves later (R120). `counted` is false where it still has
registers to write. -/
def State.issueTransfer (s : State) (counted : Bool) (tr : Transfer) : State :=
  let gid := s.cur.gid
  let k := s.cur.slot
  let id := ((s.group? gid).bind (fun g => (g.slot k).running.map (fun r => r.clauseId))).getD 0
  (s.advanceWith false counted).modGroup gid (fun g =>
    g.setSlot k { g.slot k with transfer := some { tr with clauseId := id } })

def State.mkTransfer (s : State) (kind : TransferKind) (taken : Mask) (target join : Word64) (delay : Nat) :
    Transfer :=
  { kind := kind, taken := taken, target := target, fall := s.cur.addr + 8, join := join,
    clauseAt := s.cur.clauseAt, wordAt := s.cur.addr, idx := s.cur.idx, issueAt := s.cycle,
    readyAt := s.cycle + delay }

/-- Is a BRA predicted at its issue (R131, R136, R140, R146)? The mask predicted for it. -/
def State.predicts (s : State) (g : Group) (b : BFields) : Option Mask :=
  if b.kind != 0 || b.pred == 0 || g.supervisor || g.spec.isSome || (g.slot (1 - s.cur.slot)).live ||
      ((s.team? g.team).bind (fun t => t.preempt)).isSome || (g.slot s.cur.slot).replays != [] then none
  else match ((g.slot s.cur.slot).running.bind (fun r => r.clause.lookup)) with
    | some (m, conf) => if 1 ≤ conf.toNat then some m else none
    | none => none

/-- Split slot k into speculative halves (R131). -/
def Group.speculate (g : Group) (k : Nat) (P T : Mask) (t f J wordAt clauseAt : Word64) (idx cycle : Nat) :
    Group :=
  let S := g.slot k
  let P := P &&& S.mask
  let N := S.mask &&& ~~~P
  let mk (m : Mask) (pc : Word64) (stamp : Nat) : Slot :=
    { emptySlot with pc := pc, mask := m, join := J, fmt := S.fmt, stamp := stamp, eligFrom := cycle + 1 }
  let half (k : Nat) (m : Mask) (pc : Word64) : Half :=
    { slot := k, ph := m, startPc := pc, atJoin := decide (pc = J) }
  let o := 1 - k
  let (g, hs) :=
    if P = 0 then (g.setSlot k (mk N f S.stamp), [half k N f])
    else if N = 0 then (g.setSlot k (mk P t S.stamp), [half k P t])
    else ((g.setSlot k (mk P t S.stamp)).setSlot o (mk N f (g.slot o).stamp), [half k P t, half o N f])
  { g with first := k
           spec := some { slot := k, issueAt := cycle, wordAt := wordAt, clauseAt := clauseAt, idx := idx,
                          taken := T, guess := P, target := t, fall := f, join := J, sMask := S.mask,
                          sJoin := S.join, sFmt := S.fmt, halves := hs } }

/-- BRA (R118). -/
def execBra (b : BFields) (s : State) : Host.Outcome State Fault Refusal :=
  .next (s.guarded (.bra b) (fun g =>
    let S := g.slot s.cur.slot
    let e := g.exec s.cur.mask b.neg b.pred
    let T : Mask := match b.kind.toNat with
      | 0 => e
      | 1 => if e ≠ 0 then S.mask else 0
      | _ => if e = S.mask then S.mask else 0
    let t := branchTo s.cur.addr b.toff
    let J := branchTo s.cur.addr b.joff
    match s.predicts g b with
    | some m =>
      let c := s.cur
      (s.advanceWith false true).modGroup c.gid (fun g =>
        g.speculate c.slot m T t (c.addr + 8) J c.addr c.clauseAt c.idx s.cycle)
    | none =>
      s.issueTransfer true
        { s.mkTransfer .bra T t J (if b.pred = 0 then 0 else 7) with looked := b.kind == 0 && b.pred != 0 }))

/-- CALL (R119). -/
def execCall (b : BFields) (s : State) : Host.Outcome State Fault Refusal :=
  .next (s.guarded (.call b) (fun g =>
    s.issueTransfer false
      (s.mkTransfer .call (g.exec s.cur.mask b.neg b.pred) (branchTo s.cur.addr b.toff) (s.cur.addr + 8)
        (if b.pred = 0 then 0 else 7))))

/-- The lanes and target that an indirect transfer selects (R122). -/
def Group.select (g : Group) (k treg : Nat) (vec : Bool) : Mask × Word64 :=
  let m := (g.slot k).mask
  let at_ (i : Nat) : Word64 := if vec then w64n (g.vecVal true treg i) else g.sreg treg
  let t := at_ ((lowest? m).getD 0)
  (maskOf (fun i => m.getLsbD i && at_ i == t), t)

/-- The mould of BRX and CALLX (R121, R122). -/
def brxMould (i : Instr) (x : XFields) (call : Bool) (s : State) : State :=
  s.guarded i (fun g =>
    let vec := x.form == .f00
    let sel := g.select s.cur.slot x.treg.toNat vec
    let J := if vec then branchTo s.cur.addr x.joff else (g.slot s.cur.slot).join
    s.issueTransfer (!call)
      { s.mkTransfer (if call then .callx else .brx) sel.1 sel.2 J (if vec then 7 else 1) with tag := x.tag })

/-- BRX (R121). -/
def execBrx (x : XFields) (s : State) : Host.Outcome State Fault Refusal := .next (brxMould (.brx x) x false s)
/-- CALLX (R121). -/
def execCallx (x : XFields) (s : State) : Host.Outcome State Fault Refusal :=
  .next (brxMould (.callx x) x true s)

/-- RET (R121). -/
def execRet (x : XFields) (s : State) : Host.Outcome State Fault Refusal :=
  .next (s.guarded (.ret x) (fun g =>
    let sel := g.select s.cur.slot x.treg.toNat true
    s.issueTransfer true (s.mkTransfer .ret sel.1 sel.2 (g.slot s.cur.slot).join 7)))

/-- YIELD (R113): its effect comes when its clause issues its last instruction (`endClause`). -/
def execYield (s : State) : Host.Outcome State Fault Refusal := .next (s.guarded .yield (fun _ => s.advance))
/-- LPAD executes as NOP (R124). -/
def execLpad (x : XFields) (s : State) : Host.Outcome State Fault Refusal :=
  .next (s.guarded (.lpad x) (fun _ => s.advance))
/-- NOP (R126). -/
def execNop (s : State) : Host.Outcome State Fault Refusal := .next (s.guarded .nop (fun _ => s.advance))

/-- EXIT (R125). -/
def execExit (b : BFields) (s : State) : Host.Outcome State Fault Refusal :=
  .next (s.guarded (.exit b) (fun g =>
    let e := g.exec s.cur.mask b.neg b.pred
    let c := s.cur
    let S := g.slot c.slot
    let s := (s.advanceWith false true).modGroup c.gid (fun g =>
      let left := (g.slot c.slot).mask &&& ~~~e
      let g := { g with xmask := g.xmask ||| e
                        lastExit := some ⟨c.slot, c.clauseAt, c.idx, e, S.fmt, S.join⟩ }
      if left = 0 then g.clearSlot c.slot
      else (g.setSlot c.slot { g.slot c.slot with mask := left }).setPc c.slot (c.addr + 8))
    match s.group? c.gid with
    | none => s
    | some g =>
      if g.exited then (List.range 16).foldl (fun s tb => s.tbarDecide g.team tb g.lclk) s else s))

/-! ### Formats and special registers -/

/-- SETFMT (R127). -/
def execSetfmt (x : WFields) (s : State) : Host.Outcome State Fault Refusal :=
  .next (s.guarded (.setfmt x) (fun g =>
    (s.setGroup s.cur.gid (g.setSlot s.cur.slot { g.slot s.cur.slot with fmt := x.imm })).advance))

/-- SETMODE (R127). -/
def execSetmode (x : WFields) (s : State) : Host.Outcome State Fault Refusal :=
  .next (s.guarded (.setmode x) (fun g =>
    let m := x.imm.extractLsb' 16 16
    (s.setGroup s.cur.gid ((g.settleBits m).setMode (modeMerge g.mode m (x.imm.extractLsb' 0 16)))).advance))

/-- ROLE (R39). -/
def Group.role (g : Group) : Word64 :=
  w64n (boolBit g.consumer + g.ridx * 2 ^ 8 + g.tcore * 2 ^ 21 + g.part * 2 ^ 32)

/-- The scalar special registers (R129). -/
def State.special (s : State) (g : Group) (n : Nat) : Word64 :=
  match n with
  | 1 => g.linear.zeroExtend 64
  | 2 => g.teamId
  | 3 => g.gridId
  | 4 => g.role
  | 5 => w64n twBase
  | 6 => (g.slot s.cur.slot).fmt.zeroExtend 64
  | 7 => g.mode.zeroExtend 64
  | 8 => g.seed
  | 9 => g.dix.zeroExtend 64
  | 10 => g.lclk.zeroExtend 64
  | 12 => s.syscap
  | 13 => s.ready
  | 14 => g.mphit.zeroExtend 64
  | 15 => g.mpmiss.zeroExtend 64
  | 16 => g.mpreplay.zeroExtend 64
  | _ => 0

/-- SRD (R128, R129). -/
def execSrd (r : RFields) (s : State) : Host.Outcome State Fault Refusal :=
  .next (s.guarded (.srd r) (fun g =>
    let n := r.a.toNat
    let m := g.exec s.cur.mask r.neg r.pred
    if n = 0 then s.issueVec m false r.dst.toNat 4 (fun i => (i, 0))
    else if n = 11 then s.issueVec m true r.dst.toNat 4 (fun i => ((tget 0 g.faddr i).toNat, 0))
    else s.issueSca r.dst.toNat 2 (s.special g n) 0))

/-- SWR (R128, R129): the group's next instruction sees the value. -/
def execSwr (r : RFields) (s : State) : Host.Outcome State Fault Refusal :=
  .next (s.guarded (.swr r) (fun g =>
    let v := g.sreg r.a.toNat
    let g := match r.dst.toNat with
      | 6 => g.setSlot s.cur.slot { g.slot s.cur.slot with fmt := v.truncate 32 }
      | 7 => (g.settleBits 0xFFFF#16).setMode (modeStore (v.truncate 16))
      | 14 => { g with mphit := v.truncate 48 }
      | 15 => { g with mpmiss := v.truncate 48 }
      | _ => { g with mpreplay := v.truncate 48 }
    (s.setGroup s.cur.gid g).advance))

/-! ### Trap and context registers -/

/-- PREEMPT (R143). -/
def State.preemptReg (s : State) (g : Group) : Word64 :=
  match (s.team? g.team).bind (fun t => t.preempt) with
  | some p => w64n (2 ^ 16 + min (p + 65536 - s.cycle) 0xFFFF)
  | none => 0

/-- The registers that CSRR reads (R143, R221). -/
def State.csr (s : State) (g : Group) (n : Nat) : Word64 :=
  let x := s.ctx g.ctx
  match n with
  | 0 => g.tr.ecause
  | 1 => g.tr.epc
  | 2 => g.tr.estate
  | 3 => g.tr.emask
  | 4 => g.tr.ejoin
  | 5 => g.tr.efmt.zeroExtend 64
  | 6 => g.tr.einfo
  | 7 => g.tr.etxf
  | 8 => g.tr.emode.zeroExtend 64
  | 9 => x.tvec
  | 10 => x.fvec
  | 11 => s.preemptReg g
  | 16 => w64n (fld (w64n (x.num 0 8)) 51 11 * 2 ^ 11)
  | 17 => w64n (fld (w64n (x.num 8 8)) 51 6 * 2 ^ 6)
  | 18 => w64n (fld (w64n (x.num 16 8)) 51 12 * 2 ^ 12 + fld (w64n (x.num 16 8)) 3 0)
  | 19 => x.posted ++ x.resolved
  | 20 => g.harea
  | _ => 0

/-- CSRR (R145): it completes in this step. -/
def execCsrr (q : QFields) (s : State) : Host.Outcome State Fault Refusal :=
  .next (s.guarded (.csrr q) (fun g =>
    (s.setGroup s.cur.gid (s.putNow g q.sa.toNat (s.csr g q.obj.toNat))).advance))

/-- A write of RESOLVED takes effect only in range (R221). -/
def Ctx.resolve (x : Ctx) (v : Word32) : Ctx :=
  if v ≠ x.resolved && decide ((v - x.resolved).toNat ≤ (x.posted - x.resolved).toNat) then
    { x with resolved := v }
  else x

/-- CSRW (R143 to R145): only RW fields are written. -/
def execCsrw (q : QFields) (s : State) : Host.Outcome State Fault Refusal :=
  .next (s.guarded (.csrw q) (fun g =>
    let v := g.sreg q.sa.toNat
    let tr := g.tr
    let set (tr : TrapRegs) : State := s.setGroup s.cur.gid { g with tr := tr }
    let s := match q.obj.toNat with
      | 1 => set { tr with epc := setFld v 2 0 0 }
      | 2 => set { tr with estate := setFld (setFld (setFld tr.estate 3 0 (fld v 3 0)) 9 9 (fld v 9 9)) 11 11 (fld v 11 11) }
      | 3 => set { tr with emask := v }
      | 4 => set { tr with ejoin := v }
      | 5 => set { tr with efmt := v.truncate 32 }
      | 8 => set { tr with emode := v.truncate 16 }
      | 19 => s.setCtx g.ctx ((s.ctx g.ctx).resolve (v.truncate 32))
      | _ => s
    s.advance))

/-- What the issue of a TRAP does besides its trap: it retires, and as the last instruction of its clause it
brings YIELD's effect; it counts on flag f until the handler is entered (R113, R145). Nothing where another trap is in progress: it then does not issue
(R141). -/
def Group.issueTrap (g : Group) (k cycle f : Nat) : Group :=
  if !g.takesTrap k cycle then g
  else
    let g := (g.retire k false).incFlag f
    match (g.slot k).running with
    | some r => if r.idx + 1 = r.count && clauseHasYield r then g.applyYield cycle else g
    | none => g

/-- TRAP (R145): it retires, then raises code 0x0E with DONE set. -/
def execTrap (q : QFields) (s : State) : Host.Outcome State Fault Refusal :=
  .next (s.guarded (.trap q) (fun g =>
    let f := unitFlag (decodeHeader s.cur.header) q.fsel
    let s1 := s.setGroup s.cur.gid (g.issueTrap s.cur.slot s.cycle f)
    s1.raiseTrap s.cur.gid
      { slot := s.cur.slot, cycle := s.cycle, code := 0x0E, atClause := false, idx := s.cur.idx,
        pc := s.cur.clauseAt, done := true, arg := q.imm, einfo := g.sreg q.sa.toNat, etxf := 0,
        lanes := s.cur.mask, faddr := [], flag := some f }))

/-- The mould of RTE: the clause ends and the slot is restored (R145). -/
def rteMould (i : Instr) (skip : Bool) (s : State) : State :=
  s.guarded i (fun _ =>
    let c := s.cur
    (s.advanceWith false true).modGroup c.gid (fun g => g.leaveTrap c.slot skip s.cycle))

/-- RTE (R145). -/
def execRte (q : QFields) (s : State) : Host.Outcome State Fault Refusal := .next (rteMould (.rte q) false s)
/-- RTE.SKIP (R145). -/
def execRteSkip (q : QFields) (s : State) : Host.Outcome State Fault Refusal :=
  .next (rteMould (.rteSkip q) true s)

end Sys2Proof.Machine
end

