-- ==== Sys2Proof/Machine/Resolve.lean ====
section
/-!
DEFINITION. Resolution of transfers (R114, R115, R120 to R124), the mask predictor (R130, R131), the
repair of a prediction (R133, R134) and the spill stack's pop (R116).
-/
namespace Sys2Proof.Machine

/-! ### The mask predictor -/

/-- The entry of a BRA at `pc` of resident index r and slot k, in partition `part` (R130). -/
def predKey (part : Nat) (pc : Word64) (r k : Nat) : Nat :=
  part * 1024 + (fld pc 12 3 ^^^ fld pc 22 13 ^^^ (r * 64 % 1024) ^^^ (k * 32))
def predTag (pc : Word64) : BitVec 16 := pc.extractLsb' 13 16

/-- The update of a resolved BRA (R131). -/
def PredEntry.update (e : PredEntry) (tag : BitVec 16) (t : Mask) : PredEntry :=
  if !e.v || e.tag != tag then { v := true, tag := tag, mask := t, conf := 0 }
  else if e.mask = t then { e with conf := if e.conf = 3 then 3 else e.conf + 1 }
  else { e with mask := t, conf := 0 }

def State.predUpdate (s : State) (g : Group) (k : Nat) (pc : Word64) (t : Mask) : State :=
  { s with pred := tmod {} s.pred (predKey g.part pc g.resident k) (fun e => e.update (predTag pc) t) }

/-! ### Transfers -/

/-- A transfer traps when it resolves: neither it nor its push has any effect (R31, R124). -/
def State.trapTransfer (s : State) (gid k : Nat) (tr : Transfer) (code : BitVec 8) (einfo : Word64)
    (lanes : Mask) (faddr : List (Nat × Word64)) : State :=
  let s := s.modGroup gid (fun g =>
    ((g.setSlot k { g.slot k with transfer := none, eligFrom := s.cycle + 1 }).unretire).endCount tr.clauseId)
  s.raiseTrap gid
    { slot := k, cycle := s.cycle, code := code, atClause := false, idx := tr.idx, pc := tr.clauseAt,
      done := false, arg := 0, einfo := einfo, etxf := 0, lanes := lanes, faddr := faddr }

/-- The return address goes to v2046 and v2047 of the lanes that call (R119, R122). -/
def State.linkResult (s : State) (gid k : Nat) (tr : Transfer) : State :=
  let ra := (tr.wordAt + 8).toNat
  let p : Pending :=
    { due := max (tr.issueAt + 4) (s.cycle + 1), issueAt := tr.issueAt, startAt := tr.issueAt,
      seq := s.nextId, clauseId := tr.clauseId, slot := k, half := false,
      upds := vecUpd true 2046 tr.taken (fun _ => ra), sticky := [] }
  { s.modGroup gid (fun g => Group.endCount { g with results := g.results ++ [p] } tr.clauseId)
    with nextId := s.nextId + 1 }

/-- R115 takes effect for the transfer of slot k; `rest` marks the half not selected (R122). -/
def State.applyTransfer (s : State) (gid k : Nat) (g : Group) (tr : Transfer) (f : Word64) (rest link : Bool)
    (lanes : Mask) : State :=
  let g0 := g.setSlot k { g.slot k with transfer := none, eligFrom := s.cycle + 1 }
  match g0.diverge k tr.taken tr.target f tr.join rest s.cycle with
  | .wait => s
  | .overflow => s.trapTransfer gid k tr 0x06 (w64n g.spill.length) lanes []
  | .done g1 =>
    let s := s.setGroup gid g1
    if link then s.linkResult gid k tr else s

/-- The landing-pad check of BRX and CALLX (R124): the clause at t is fetched whole, and its first
instruction must be an LPAD with the transfer's tag. -/
def State.landing (s : State) (a : Agent) (t : Word64) (tag : BitVec 8) : State × (Bool ⊕ (Nat × Nat)) :=
  let r := s.codeWords a 1 t
  match r.2 with
  | .inr e => (r.1, .inr e)
  | .inl hw =>
    let h := decodeHeader (hw.headD 0)
    let w := r.1.codeWords a h.n (t + 8)
    match w.2 with
    | .inr e => (w.1, .inr e)
    | .inl ws => (w.1, .inl (match (classOf h.cls).bind (fun c => decode c (ws.headD 0)) with
      | some (.lpad x) => x.tag == tag
      | _ => false))

/-- Resolve the transfer of slot k (R115, R120). A BRA that then overflows the spill stack has updated its
predictor entry, and updates it again when it is re-issued (DESIGN CHOICE, log 83). A fault of the landing
fetch is reported as any fetch's is (R219): for every lane of the slot, with the target (R124). -/
def State.resolve (s : State) (gid k : Nat) (g : Group) (tr : Transfer) : State :=
  let m := (g.slot k).mask
  match tr.kind with
  | .bra =>
    let s := if tr.looked then s.predUpdate g k tr.wordAt tr.taken else s
    s.applyTransfer gid k g tr tr.fall false false tr.taken
  | .call => s.applyTransfer gid k g tr tr.fall false true tr.taken
  | .brx | .callx =>
    let link := tr.kind == .callx
    if fld tr.target 2 0 ≠ 0 then s.trapTransfer gid k tr 0x07 tr.target m [] else
    let r := s.landing (agentOf gid g) tr.target tr.tag
    match r.2 with
    | .inr (code, einfo) =>
      r.1.trapTransfer gid k tr (BitVec.ofNat 8 code) (w64n einfo) m ((lanesOf m).map (fun i => (i, tr.target)))
    | .inl false => r.1.trapTransfer gid k tr 0x07 tr.target m []
    | .inl true => match r.1.group? gid with
      | none => r.1
      | some g => r.1.applyTransfer gid k g tr tr.clauseAt true link m
  | .ret =>
    if fld tr.target 2 0 ≠ 0 then s.trapTransfer gid k tr 0x07 tr.target m []
    else s.applyTransfer gid k g tr tr.clauseAt true false m

/-- The fall-through address of R115: the clause after the transfer, or the transfer's own clause where the rest
of its lanes repeat it (R122). -/
def Transfer.rest (tr : Transfer) : Word64 :=
  match tr.kind with
  | .bra | .call => tr.fall
  | .brx | .callx | .ret => tr.clauseAt

/-- Does the transfer of slot k spill the other slot (R115)? -/
def Group.needsOther (g : Group) (k : Nat) (tr : Transfer) : Bool :=
  tr.taken != 0 && (g.slot k).mask &&& ~~~tr.taken != 0 && tr.target != tr.join && tr.rest != tr.join &&
    (g.slot (1 - k)).live

/-- Must the transfer wait because it would spill a slot whose clause runs, whose replays remain, or whose CALL
has still to write its return address (R76, log 24)? Of two CALLX that would spill each other, slot 0's goes
first. -/
def Group.mustWait (g : Group) (k : Nat) (tr : Transfer) (cycle : Nat) : Bool :=
  g.needsOther k tr && !(g.slot (1 - k)).held && ((match g.diverge k tr.taken tr.target tr.rest tr.join false cycle with
    | .wait => true
    | _ => false) ||
    (match (g.slot (1 - k)).transfer with
      | some t => t.kind == .call || (t.kind == .callx && !(tr.kind == .callx && k == 0))
      | none => false))

/-- Does a transfer of slot k that resolves under a trap in progress (log 26) leave the other slot alone? -/
def Group.resolvesUnderTrap (g : Group) (k : Nat) : Bool :=
  match (g.slot k).transfer with
  | some tr => !g.needsOther k tr
  | none => false

/-- TRANSFER_RESOLVE (R120, R131): the transfer of slot k, or the predicted BRA of the group. While a trap is
requested only a transfer that leaves the trapping slot alone resolves; one of the slot that a handler holds
waits for the RTE (log 26). -/
def execTransferResolve (gid slot : Nat) (s : State) : Host.Outcome State Fault Refusal :=
  finish s (match s.group? gid with
  | none => s
  | some g =>
    if 1 < slot then s else
    match g.spec with
    | some sp =>
      if sp.resolved || decide (s.cycle < sp.issueAt + 7) || sp.slot != slot then s
      else (s.predUpdate g sp.slot sp.wordAt sp.taken).setGroup gid
        { g with spec := some { sp with resolved := true } }
    | none => match (g.slot slot).transfer with
      | none => s
      | some tr =>
        if s.cycle < tr.readyAt || (g.trapReq.isSome && g.needsOther slot tr) || (g.slot slot).held ||
            g.mustWait slot tr s.cycle then s
        else s.resolve gid slot g tr)

/-! ### The repair of a prediction (R133) -/

/-- One side of the predicted branch: where it starts, its predicted and its correct lanes, and its
half, if it was placed. -/
structure Side where
  pc   : Word64
  ph   : Mask
  ch   : Mask
  half : Option Half
  deriving DecidableEq, Repr

def Spec.sides (sp : Spec) : List Side :=
  let half (m : Mask) : Option Half := if m = 0 then none else sp.halves.find? (fun h => h.ph == m)
  let n := sp.sMask &&& ~~~sp.guess
  [{ pc := sp.target, ph := sp.guess, ch := sp.taken, half := half sp.guess },
   { pc := sp.fall, ph := n, ch := sp.sMask &&& ~~~sp.taken, half := half n }]

/-- The lanes of `m` leave a register update. -/
def RegUpd.drop (u : RegUpd) (m : Mask) : RegUpd :=
  match u with
  | .vec r l x => .vec r (l &&& ~~~m) x
  | .pred r l b => .pred r (l &&& ~~~m) b
  | u => u

/-- Undo slot k's speculative work for the lanes of `m`: shadowed words, results and loads in flight,
held stores (R133). `all` says that the half has no correct lane: its counted units complete. -/
def Group.undo (g : Group) (h : Half) (m : Mask) (all keep : Bool) : Group :=
  let k := h.slot
  let g : Group := h.shadows.foldl (fun (g : Group) e =>
    { g with vregs := tset 0 g.vregs e.1 (mergeLine m (tget 0 g.vregs e.1) e.2) }) g
  let res (p : Pending) : Option Pending :=
    if p.slot == k && p.half then
      if all then none
      else some { p with half := keep, upds := p.upds.map (fun u => u.drop m),
                         sticky := p.sticky.filter (fun e => !m.getLsbD e.1) }
    else some p
  let out (i : Nat) : Bool := m.getLsbD i
  let op (o : Op) : Op × Bool :=
    if o.slot == k && o.half then match o.kind with
      | .store or sc n accs =>
        let rest := accs.filter (fun a => !out a.1.lane)
        ({ o with kind := .store or sc n rest }, all || (rest.isEmpty && !accs.isEmpty))
      | .load or sc n d f accs left =>
        ({ o with half := keep, data := o.data.map (fun u => u.drop m),
                    kind := .load or sc n d f (accs.filter (fun a => !out a.lane)) (left.filter (fun i => !out i)) }, all)
      | _ => (o, all)
    else (o, false)
  let g : Group := { g with results := g.results.filterMap res }
  let done := (g.ops.filter (fun e => (op e.2).2)).map (fun e => e.1)
  let g : Group := { g with ops := g.ops.map (fun e => (e.1, (op e.2).1)) }
  done.foldl (fun (g : Group) n => g.completeOp n) g

/-- The running clause of slot k, if any, stops: its slot is free from the next cycle on. -/
def State.haltSlot (s : State) (gid k : Nat) : State :=
  match s.group? gid with
  | none => s
  | some g =>
    let S := g.slot k
    match S.running with
    | none => s
    | some r => ((s.freeCslot g.part r).setGroup gid
        (g.setSlot k { S with running := none, resumeIdx := if r.idx < r.count then r.idx else 0 })).modGroup
          gid (fun g => g.endCount r.clauseId)

/-- Repair one placed half. -/
def State.repairHalf (s : State) (gid : Nat) (x : Side) (h : Half) : State :=
  let wi := x.ph &&& ~~~x.ch
  let wo := x.ch &&& ~~~x.ph
  let replays := h.clauses.reverse.filter (fun c => decide (c.first < c.count))
  let again := wo != 0 && x.ch != 0 && !replays.isEmpty
  let s := if x.ch = 0 || again then s.haltSlot gid h.slot else s
  s.modGroup gid (fun g =>
    let g := g.undo h wi (x.ch == 0) again
    if x.ch = 0 then (g.clearSlot h.slot).settleCounts
    else
      let n := BitVec.ofNat 48 h.retired
      let g : Group := { g with dix := g.dix + n, lclk := g.lclk + n }
      let S := g.slot h.slot
      let g :=
        if again then g.setSlot h.slot { S with
          mask := wo, finalMask := x.ch, replays := replays, redo := some { h with raised := 0 }, eligFrom := s.cycle + 1 }
        else (g.setSlot h.slot { S with mask := x.ch, eligFrom := s.cycle + 1 }).releaseHeld h.slot
      g.raiseFor h.slot true (h.bits x.ch))

/-- A side that was not predicted and has lanes becomes live in the empty slot at its start. -/
def Group.openSide (g : Group) (x : Side) (sp : Spec) (cycle : Nat) : Group :=
  if x.half.isSome || x.ch == 0 then g else
  let k := if (g.slot sp.slot).live then 1 - sp.slot else sp.slot
  let g := g.setSlot k { emptySlot with pc := x.pc, mask := x.ch, join := sp.join, fmt := sp.sFmt,
                                        stamp := (g.slot k).stamp, eligFrom := cycle + 1 }
  -- the taken half runs first (R136)
  if x.pc == sp.target && x.ch == sp.taken then { g with first := k } else g

/-- A slot at its join, with nothing left to replay or to issue, empties (R114). -/
def Group.joinEmpty (g : Group) (k : Nat) : Group :=
  let S := g.slot k
  if S.live && S.pc == S.join && S.replays.isEmpty && S.running.isNone && S.resumeIdx == 0 then g.clearSlot k
  else g

/-- The end of the repair: the stack effect of R115 when the outcome is mixed, else the surviving half
takes the join of the slot that branched. -/
def Group.settleSpec (g : Group) (sp : Spec) (cycle : Nat) : Group :=
  let mixed := sp.taken != 0 && (sp.sMask &&& ~~~sp.taken) != 0
  let hit := sp.guess == sp.taken
  let g : Group := { g with spec := none, closedAt := some cycle
                            mphit := if hit then g.mphit + 1 else g.mphit
                            mpmiss := if hit then g.mpmiss else g.mpmiss + 1 }
  let g : Group :=
    if mixed then
      if sp.join != sp.sJoin then
        { g with spill := { pc := sp.join, mask := sp.sMask, join := sp.sJoin, fmt := sp.sFmt,
                            brxrest := false } :: g.spill }
      else g
    else
      let fix (k : Nat) (g : Group) : Group :=
        if (g.slot k).live then g.setSlot k { g.slot k with join := sp.sJoin } else g
      fix 1 (fix 0 g)
  (g.joinEmpty 0).joinEmpty 1

/-- Does the deferred push overflow (R133)? -/
def Spec.overflows (sp : Spec) (depth : Nat) : Bool :=
  sp.taken != 0 && (sp.sMask &&& ~~~sp.taken) != 0 && sp.join != sp.sJoin && decide (64 ≤ depth)

/-- The overflow of a predicted branch: all lanes are restored and the trap is precise at the BRA. Neither MPHIT
nor MPMISS counts it (DESIGN CHOICE, log 84). -/
def State.specOverflow (s : State) (gid : Nat) (sp : Spec) (depth : Nat) : State :=
  let s := sp.halves.foldl (fun s h => (s.haltSlot gid h.slot).modGroup gid (fun g =>
    ((g.undo h h.ph true false).clearSlot h.slot).settleCounts)) s
  let s := s.modGroup gid (fun g =>
    let g : Group := { g with spec := none, closedAt := some s.cycle }
    (g.setSlot sp.slot { emptySlot with
      pc := sp.clauseAt, mask := sp.sMask, join := sp.sJoin, fmt := sp.sFmt,
      stamp := (g.slot sp.slot).stamp, eligFrom := s.cycle + 1 }).unretire)
  s.raiseTrap gid
    { slot := sp.slot, cycle := s.cycle, code := 0x06, atClause := false, idx := sp.idx,
      pc := sp.clauseAt, done := false, arg := 0, einfo := w64n depth, etxf := 0, lanes := sp.taken,
      faddr := [] }

/-- PREDICTION_REPAIR (R133), in cycle t_issue + 8. -/
def execPredictionRepair (gid : Nat) (s : State) : Host.Outcome State Fault Refusal :=
  .next (match s.group? gid with
  | none => s
  | some g => match g.spec with
    | none => s
    | some sp =>
      if !sp.resolved || decide (s.cycle < sp.issueAt + 8) then s
      else if sp.overflows g.spill.length then s.specOverflow gid sp g.spill.length
      else
        let s := sp.sides.foldl (fun s x => match x.half with
          | some h => s.repairHalf gid x h
          | none => s) s
        s.modGroup gid (fun g =>
          (sp.sides.foldl (fun (g : Group) x => g.openSide x sp s.cycle) g).settleSpec sp s.cycle))

/-! ### The spill stack -/

/-- The slot that a spill entry becomes (R116). -/
def SpillEntry.toSlot (e : SpillEntry) (m : Mask) (cycle : Nat) : Slot :=
  { emptySlot with
    pc := e.pc, mask := m, join := e.join, fmt := e.fmt, resting := e.brxrest, stamp := cycle,
    eligFrom := cycle + 1, resumeIdx := e.idx, transfer := e.transfer, yieldc := e.yieldc,
    held := e.held }

/-- Pop the top entry into the lowest-numbered empty slot, or discard it. -/
def Group.pop (g : Group) (e : SpillEntry) (rest : List SpillEntry) (cycle : Nat) : Group :=
  let k := if (g.slot 0).live then 1 else 0
  let m := e.mask &&& ~~~g.xmask
  let g : Group := { g with spill := rest, poppedAt := some cycle }
  if m = 0 || e.pc == e.join then g
  else { g.setSlot k (e.toSlot m cycle) with first := if (g.slot (1 - k)).live then 1 - k else k }

/-- May the group pop now (R116)? It does not while a prediction is open, nor, before the RTE, an entry that stood
on the stack when the handler was entered (log 25). -/
def Group.canPop (g : Group) (e : SpillEntry) (cycle : Nat) : Bool :=
  (!g.slot0.live || !g.slot1.live) && g.poppedAt != some cycle && g.spec.isNone && decide (g.floor < g.spill.length) &&
    g.trapReq.isNone && !(g.slot0.live && g.slot0.join == e.pc) && !(g.slot1.live && g.slot1.join == e.pc)

/-- SPILL_POP (R116): at most one per group and cycle. -/
def execSpillPop (gid : Nat) (s : State) : Host.Outcome State Fault Refusal :=
  .next (s.modGroup gid (fun g => match g.spill with
    | [] => g
    | e :: rest => if g.canPop e s.cycle then g.pop e rest s.cycle else g))

end Sys2Proof.Machine
end

