-- ==== Sys2Proof/Machine/Issue.lean ====
section
/-!
DEFINITION. The issue engine: clause fetch and its checks (R57, R58, R104), the choice of what starts
(R53, R101, R104 to R108, R123, R132, R136, R142, R282, R355, R358), the issue of an instruction (R55,
R102, R103), the writing of results (R56, R190), the register cache (R109 to R111) and YIELD's bar
(R113).
-/
namespace Sys2Proof.Machine

/-! ### What a clause holds -/

/-- The clause's words, decoded in the table of its class (R50); none where R73 assigns no meaning. -/
def decodeAll (h : Header) (ws : List Word64) : List (Option Instr) :=
  match classOf h.cls with
  | none => ws.map (fun _ => none)
  | some c => ws.map (fun w => decode c w)

/-- An illegal word names no register and transfers no control in the clause checks (R74). -/
def legalAll (B elt : Nat) (h : Header) (ws : List Word64) : List (Option Instr) :=
  (decodeAll h ws).map (fun o => match o with
    | some i => if (sigOf B elt i).ok then some i else none
    | none => none)

def ClauseBuf.head (c : ClauseBuf) : Header := decodeHeader c.header

/-- The legal instructions of a clause, for slot k of a group. -/
def Group.instrs (g : Group) (k : Nat) (c : ClauseBuf) : List (Option Instr) :=
  legalAll g.budget (fld (g.slot k).fmt 3 0) c.head c.words

def Group.sigs (g : Group) (k : Nat) (c : ClauseBuf) : List Sig :=
  (g.instrs k c).filterMap (fun o => o.map (fun i => sigOf g.budget (fld (g.slot k).fmt 3 0) i))

/-- The image lines among registers (R27). -/
def linesOf (B : Nat) (l : List RegRef) : List Nat :=
  l.filterMap (fun r => match r with
    | .v n => some (imageLine B n)
    | _ => none)

/-- The image lines that a clause names (R53), and those it writes. -/
def Group.lines (g : Group) (k : Nat) (c : ClauseBuf) : List Nat :=
  (linesOf g.budget ((g.sigs k c).flatMap (fun x => x.reads ++ x.writes))).eraseDups
def Group.linesWritten (g : Group) (k : Nat) (c : ClauseBuf) : List Nat :=
  (linesOf g.budget ((g.sigs k c).flatMap (fun x => x.writes))).eraseDups

/-! ### The checks of R58 -/

/-- The distance from instruction i to instruction j (R57). -/
def headerSpan (h : Header) (i j : Nat) : Nat :=
  ((List.range j).filter (fun k => decide (i ≤ k))).foldl (fun a k => a + h.distance (k + 1)) 0

/-- R57 for one pair of fixed-latency instructions at distance d. -/
def pairOk (a b : Sig) (d : Nat) : Bool :=
  !a.fixed || !b.fixed ||
    ((!a.writes.any (fun r => b.reads.contains r) || decide (a.lat ≤ d)) &&
     (!a.writes.any (fun r => b.writes.contains r) || decide (a.lat ≤ b.lat) || decide (a.lat - b.lat + 1 ≤ d)))

/-- R57 for a whole clause. -/
def distancesOk (h : Header) (l : List (Option Sig)) : Bool :=
  (List.range l.length).all (fun j => (List.range j).all (fun i =>
    match (l[i]?).join, (l[j]?).join with
    | some a, some b => pairOk a b (headerSpan h i j)
    | _, _ => true))

/-- The set flag that a word selects (R52): false A, true B. The opcode fixes its format and with it the place of
the select bit, so a word with a wrong SUB or reserved bit selects too; only the distance and placement checks
pass over it (R74). A word whose opcode is not assigned selects none (log 40). -/
def wordSel (c : Class) (w : Word64) : Option Bool :=
  let bare := w &&& 0xFFF8FFFFFFFFFF00#64
  match c with
  | .field => (decode c (bare &&& ~~~0x100#64)).map (fun _ => false)
  | _ => (decode c bare).bind flagSel

/-- The lowest-numbered check of R58 that a clause fails, 0 for none; `matrix` for a matrix stream. -/
def clauseCheck (B elt : Nat) (matrix : Bool) (h : Header) (ws : List Word64) : Nat :=
  let c := h.cls.toNat
  let n := ws.length
  let sel := ws.filterMap (fun w => (classOf h.cls).bind (fun c => wordSel c w))
  let l := legalAll B elt h ws
  let sigs := l.map (fun o => o.map (fun i => sigOf B elt i))
  let flagBad (v : Bool) (f : BitVec 4) : Bool := (v && decide (12 ≤ f.toNat)) || (!v && f != 0)
  if 6 ≤ c || (c == 5) != matrix then 1
  else if flagBad h.av h.aflag || flagBad h.bv h.bflag || (h.av && h.bv && h.aflag == h.bflag) then 2
  else if !matrix && ((sel.contains false && !h.av) || (sel.contains true && !h.bv) ||
      ((c == 1 || c == 2) && !h.av) || (c == 3 && !h.av && !h.bv)) then 3
  else if (h.dist.extractLsb' 0 2 != 0 || h.dist.toNat / 4 ^ n != 0 || !distancesOk h sigs) then 4
  else if (List.range n).any (fun i => match (l[i]?).join with
      | some x => (lastOnly x && i + 1 != n) || (isLpad x && i != 0)
      | none => false) then 5
  else if h.rsv != 0 then 6
  else if matrix && (h.wait != 0 || h.av || h.aflag != 0 || h.bv || h.bflag != 0 || h.dist != 0 || h.nospec) then 7
  else 0

/-! ### Clause fetch (R104) -/

/-- The predictor lookup made when a clause is fetched (R130): for a BRA of KIND 000 with a predicate
other than p0 as its last instruction. -/
def State.predLook (s : State) (g : Group) (k : Nat) (addr : Word64) (h : Header) (ws : List Word64) :
    Option (Mask × BitVec 2) :=
  match (decodeAll h ws).getLast? with
  | some (some (.bra b)) =>
    if b.kind != 0 || b.pred == 0 then none else
    let pc := addr + w64n (8 * ws.length)
    let e := tget {} s.pred (predKey g.part pc g.resident k)
    if e.v && e.tag == predTag pc then some (e.mask, e.conf) else none
  | _ => none

/-- A fetched clause, or the trap that the fetch meets: code and EINFO. -/
inductive Fetched where
  | clause (c : ClauseBuf)
  | trap (code einfo : Nat)
  deriving DecidableEq, Repr

/-- Read the clause at pc for slot k of a group, and check it. -/
def State.fetchClause (s : State) (gid k : Nat) (g : Group) (pc : Word64) : State × Fetched :=
  let a := agentOf gid g
  let r := s.codeWords a 1 pc
  match r.2 with
  | .inr (code, e) => (r.1, .trap code e)
  | .inl hw =>
    let header := hw.headD 0
    let h := decodeHeader header
    let t := r.1.codeWords a h.n (pc + 8)
    match t.2 with
    | .inr (code, e) => (t.1, .trap code e)
    | .inl ws => match clauseCheck g.budget (fld (g.slot k).fmt 3 0) false h ws with
      | 0 => (t.1, .clause ⟨pc, header, ws, t.1.predLook g k pc h ws, fld (g.slot k).fmt 3 0⟩)
      | n => (t.1, .trap 0x03 n)

/-- The slot that runs in deterministic mode: the first, until it empties, waits at its join, rests, or is held by a
handler (R136, R139, R140). -/
def Group.turn (g : Group) : Nat :=
  let f := g.first
  let waits (S : Slot) (k : Nat) : Bool := S.resting || ((g.half? k).map (fun h => h.atJoin)).getD false
  let done (k : Nat) : Bool :=
    let S := g.slot k
    !S.live || S.held || (waits S k && S.replays.isEmpty)
  if done f && (g.slot (1 - f)).live then 1 - f else f

/-- The address that slot k fetches next, and whether its clause is awaited: the PC of an idle slot, the clause
in sequence while one runs, and the target of a direct branch that has still to resolve, in the place of a successor
that is in the buffer. A clause that was checked under another ELT is fetched and checked again. -/
def Group.fetchAt (g : Group) (k : Nat) : Option (Word64 × Bool) :=
  let S := g.slot k
  let stop := match g.half? k with
    | some h => h.atJoin || h.halted
    | none => false
  let ready (c : ClauseBuf) : Bool := c.elt == fld S.fmt 3 0
  if !S.live || S.held || S.yieldc.isSome || S.replays != [] || stop || g.trapReq.isSome || g.parked.isSome || !g.started then none
  else match S.transfer with
    | some t =>
      if (t.kind == .bra || t.kind == .call) && !S.clause.any (fun c => ready c && c.addr == t.target) then
        some (t.target, false)
      else none
    | none =>
      if S.clause.any ready then none
      else match S.running with
        -- in a deterministic grid what a slot that is not in turn fetches is not awaited yet (R136, R359)
        | none => some (S.pc, !g.det || g.turn == k)
        | some r => if r.replay then none else some (r.clause.addr + w64n (8 * (r.clause.words.length + 1)), false)

/-- CLAUSE_FETCH (R104, R58): a fetched clause goes to the slot's buffer. A fault or a failed check
traps, precise at the clause; a half waits with it for its resolution, and so does a clause fetched
ahead. -/
def execClauseFetch (gid slot : Nat) (s : State) : Host.Outcome State Fault Refusal :=
  finish s (match s.group? gid with
  | none => s
  | some g =>
    if 1 < slot then s else
    match g.fetchAt slot with
    | none => s
    | some (pc, awaited) =>
      let r := s.fetchClause gid slot g pc
      match r.2 with
      | .clause c =>
        r.1.modGroup gid (fun g =>
          let S := g.slot slot
          -- a resumption index beyond the clause's COUNT goes on at the next clause (R145)
          if awaited && decide (c.words.length ≤ S.resumeIdx) then
            g.setPc slot (pc + w64n (8 * (c.words.length + 1)))
          else g.setSlot slot { S with clause := some c })
      | .trap code einfo =>
        if !awaited || (g.half? slot).isSome then r.1
        else
          let m := (g.slot slot).mask
          let faddr := if code == 1 || code == 2 then (lanesOf m).map (fun i => (i, pc)) else []
          r.1.trapClause gid slot (BitVec.ofNat 8 code) pc (w64n einfo) 0 0 m faddr)

/-! ### Conditions of a start -/

/-- The clause that slot k would start, from which instruction, up to which, and whether it is a replay
(R123, R133, R145). -/
def Group.candidate (g : Group) (k : Nat) : Option (ClauseBuf × Nat × Nat × Bool) :=
  let S := g.slot k
  match S.replays with
  | r :: _ => some (r.clause, r.first, r.count, true)
  | [] => match S.clause with
    | none => none
    | some c =>
      if c.addr != S.pc || c.elt != fld S.fmt 3 0 then none
      else
        let n := c.words.length
        some (c, if S.resting then n - 1 else S.resumeIdx, n, false)

/-- Does the clause count as a whole (R52)? In a SYS clause, instructions outside format Q do. -/
def Group.wholeFlag (g : Group) (k : Nat) (c : ClauseBuf) (first : Nat) : Option Nat :=
  let h := c.head
  if !h.av then none
  else if h.cls == 0 then some h.aflag.toNat
  else if h.cls == 4 && ((g.instrs k c).drop first).any (fun o => match o with
      | some i => (flagSel i).isNone
      | none => false) then some h.aflag.toNat
  else none

/-- Units of the clause that slot k is running that select flag f and have not issued yet. -/
def Group.ahead (g : Group) (k f : Nat) : Nat :=
  match (g.slot k).running with
  | none => 0
  | some r =>
    let h := r.clause.head
    let sel := (((g.instrs k r.clause).take r.count).drop r.idx).filterMap (fun o => o.bind flagSel)
    (if h.av && h.aflag.toNat == f then (sel.filter (fun b => !b)).length else 0) +
      (if h.bv && h.bflag.toNat == f then (sel.filter (fun b => b)).length else 0)

/-- Conditions 1 and 2 of R53. WAIT reads the flags as the last cycle left them (R19). A count takes in the units
that the other slot's started clause has still to issue, so that it never reaches 64 (R52, log 20). What a replayed
clause waits for are its own slot's units: the others were complete at its first start, and a held store keeps its
first count until the last replay (R133). -/
def Group.flagsOk (g : Group) (k : Nat) (c : ClauseBuf) (first : Nat) (replay : Bool) : Bool :=
  let h := c.head
  let sel := ((g.instrs k c).drop first).filterMap (fun o => o.bind flagSel)
  let count (f : Nat) : Nat := max (tget 0 g.flags f) (tget 0 g.flagsPrev f) + g.ahead (1 - k) f
  (List.range 12).all (fun i => !h.wait.getLsbD i ||
    (if replay then !g.ops.any (fun e => e.2.slot == k && !e.2.held && e.2.flag == some i)
     else tget 0 g.flagsPrev i == 0)) &&
  (!h.av || decide (count h.aflag.toNat + (sel.filter (fun b => !b)).length +
      boolBit (g.wholeFlag k c first).isSome ≤ 63)) &&
  (!h.bv || decide (count h.bflag.toNat + (sel.filter (fun b => b)).length ≤ 63))

/-- Is it the line of a group, and not one that a saved team has left behind (R146, R148)? -/
def CacheLine.is (c : CacheLine) (gid line : Nat) : Bool := c.gid == gid && c.line == line && !c.evict

/-- The lines in a partition's register cache, the most recently used first (R109). -/
def State.rlines (s : State) (part : Nat) : List CacheLine :=
  ((s.rcache.find? (fun e => e.1 == part)).map (fun e => e.2)).getD []

/-- Condition 3: every line named is in the register cache (R109), filled in an earlier cycle (R108). -/
def State.resident (s : State) (part gid : Nat) (lines : List Nat) : Bool :=
  lines.all (fun l => (s.rlines part).any (fun c => c.is gid l && decide (c.since ≤ s.cycle)))

/-- Rounding code of an instruction that rounds by RND (R68, R161). -/
def rndOf (i : Instr) : Option (BitVec 3) :=
  match i with
  | .fadd r | .fsub r | .fmul r | .ffma r | .cvt r | .cvtfx r | .cvtxf r | .pack r | .unpack r
  | .frcp r | .fsqrt r => some r.mod
  | _ => none

/-- Is the instruction held in a speculative half (R132, R203)? -/
def heldInHalf (mode : BitVec 16) (sg : Sig) (i : Instr) : Bool :=
  sg.writes.any (fun r => match r with
    | .v _ => false
    | _ => true) || isTransfer i ||
  (match rndOf i with
    | some c => rndCode mode c == 6
    | none => false) ||
  (match i with
    | .atom _ _ | .atomt _ _ | .cas _ | .cas128 _ | .fence _ | .acqr _ | .stmap _ | .stunmap _ | .stwb _ => true
    | .ld m | .st m => decide (1 ≤ m.order.toNat) && decide (m.order.toNat ≤ 4)
    | .shfl _ | .vred _ | .vscan _ | .vbal _ | .vbcast _ | .vmatch _ => true
    | _ => false)

def isSt (o : Option Instr) : Bool :=
  match o with
  | some (.st _) => true
  | _ => false

/-- The lines that a half has shadowed or will shadow. -/
def Group.halfLines (g : Group) (h : Half) : List Nat :=
  (h.shadows.map (fun e => e.1) ++ h.clauses.flatMap (fun c => g.linesWritten h.slot c.clause)).eraseDups

/-- The lines that a group's halves shadow, each half by a shadow line of its own (R132). -/
def Group.shadowLines (g : Group) : List Nat :=
  match g.spec with
  | none => []
  | some sp => sp.halves.flatMap g.halfLines

/-- Shadow lines of a partition, which take frames of its register cache (R111, R132). -/
def State.shadowCount (s : State) (part : Nat) : Nat :=
  s.groups.foldl (fun a e => if e.2.part == part then a + e.2.shadowLines.length else a) 0

/-- The limits of a speculative half (R132). -/
def State.halfOk (s : State) (g : Group) (k : Nat) (h : Half) (c : ClauseBuf) : Bool :=
  let elt := fld (g.slot k).fmt 3 0
  let new := (g.linesWritten k c).filter (fun l => !(g.halfLines h).contains l)
  let stores := match g.spec with
    | none => 0
    | some sp => (sp.halves.flatMap (fun h => h.clauses.flatMap (fun c =>
        (g.instrs h.slot c.clause).filter isSt))).length
  let part := s.shadowCount g.part
  let x := c.head
  !h.atJoin && !h.halted && decide (h.clauses.length < 4) && !x.nospec && decide (x.cls.toNat ≤ 1) &&
    (g.instrs k c).all (fun o => match o with
      | some i => !heldInHalf g.mode (sigOf g.budget elt i) i
      | none => true) &&
    decide (g.shadowLines.length + new.length ≤ 64) && decide (part + new.length ≤ 128) &&
    decide (stores + ((g.instrs k c).filter isSt).length ≤ 16)

/-! ### Deterministic grids (R136, R355, R358) -/

/-- Is it a synchronising operation (R358)? -/
def isSync (i : Instr) : Bool :=
  match i with
  | .atom _ _ | .atomt _ _ | .cas _ | .cas128 _ | .acqr _ | .bara _ | .baraInit _ | .barw _ | .barx _
  | .tbar _ | .tbarArr _ | .tbarWait _ | .cpwait _ | .yieldc _ | .enq _ | .deq _ | .launch _
  | .launchPerLane _ | .ftot _ => true
  | .ld m | .st m => decide (1 ≤ m.order.toNat) && decide (m.order.toNat ≤ 4)
  | .fence m => m.scope != 0
  | _ => false

/-- Kinds of waiting operation whose group counts as met and leaves the nadir set. -/
def OpKind.waiting : OpKind → Bool
  | .barw .. | .barx .. | .tbar .. | .cpwait .. | .yieldc .. | .deq .. | .enq .. | .launch .. => true
  | _ => false

/-- Operations that a commit completes (R357). -/
def Brine.holds (b : Brine) (n : Nat) : Bool :=
  b.ops.any (fun o => match o with
    | .txf m | .kick m _ | .pfb m => m == n)

/-- The clause that the group would start next in deterministic mode, at a clause boundary. -/
def Group.nextClause (g : Group) : Option ClauseBuf :=
  let k := g.turn
  if g.slot0.running.isSome || g.slot1.running.isSome then none
  else (g.candidate k).map (fun x => x.1)

/-- Some flag that the next clause waits on is not zero, and an operation accepted by `p` counts on it. -/
def Group.waitsFor (g : Group) (p : Nat → Op → Bool) : Bool :=
  match g.nextClause with
  | none => false
  | some c => (List.range 12).any (fun f => c.head.wait.getLsbD f && tget 0 g.flags f != 0 &&
      g.ops.any (fun e => e.2.flag == some f && p e.1 e.2))

def State.queue (s : State) (q : Nat) : Queue := tget {} s.queues q
def Queue.cap (q : Queue) : Nat := 2 ^ (q.sz + 4)
def Queue.count (q : Queue) : Nat := (q.tail - q.head).toNat

/-- REMAIN of a completion object, read at a scope (R326). -/
def State.remain (s : State) (core : Nat) (scope : Scope) (obj : Loc) : State × Nat :=
  let r := s.readLoc core (levelOf .acq scope) 8 obj
  (r.1, ofBytes r.2)

/-- How many waiters of a queue stand before operation n of a group. -/
def Queue.before (q : Queue) (gid n : Nat) : Nat :=
  q.waiters.findIdx (fun w => match w with
    | .item h m => h == gid && m == n
    | .room h m => h == gid && m == n)

/-- Has the event that ends the wait of operation n happened (R358)? The group then takes its place in the nadir
set again, whatever time the completion itself still takes. -/
def State.waitEnded (s : State) (gid n : Nat) (g : Group) (k : OpKind) : Bool :=
  match k with
  | .barw core bar tok =>
    let b := s.bar core bar
    b.passed (s.cycle + 1) (b.settle (s.cycle + 1)).2 tok
  | .barx core bar ph =>
    let b := s.bar core bar
    let t := (b.settle (s.cycle + 1)).2
    (ph == b.ph && decide (1 ≤ t)) || decide (2 ≤ t)
  | .tbar tb ends =>
    decide (ends ≤ 1) && ((s.team? g.team).map (fun t => (t.tbar tb).decided.isSome)).getD false
  | .cpwait obj scope _ | .yieldc obj scope => (s.remain g.core scope obj.loc).2 == 0
  | .deq queue _ _ got => got.isSome || decide ((s.queue queue).before gid n < (s.queue queue).count)
  | .launch queue _ _ =>
    let q := s.queue queue
    decide (q.before gid n < q.cap - q.count)
  | _ => false

/-- Is the group blocked in a waiting operation? -/
def State.blockedWait (s : State) (gid : Nat) (g : Group) : Bool :=
  (match (g.slot g.turn).yieldc with
    | some n => ((dget g.ops n).map (fun o => !s.waitEnded gid n g o.kind)).getD false
    | none => false) ||
  g.waitsFor (fun n o => o.kind.waiting && !s.waitEnded gid n g o.kind)

/-- End of quantum z of a grid. -/
def quantumEnd (gr : Grid) : Nat := (gr.quantum + 1) * gr.lrec.quant

/-- Is it an invalidation, which waits for the prefetches of the group's brine too (R218)? -/
def OpKind.isInval : OpKind → Bool
  | .inval .. => true
  | _ => false

/-- Is the group at the meeting (R355)? A group whose next clause, or whose FFENCE, waits only for the commit counts
as there. -/
def State.atMeeting (s : State) (gid : Nat) (g : Group) (gr : Grid) : Bool :=
  g.exited || g.met || (g.parked.isNone && (s.blockedWait gid g ||
    ((g.slot g.turn).blocked && !g.brine.ops.isEmpty) || g.waitsFor (fun n o => g.brine.holds n || (o.kind.isInval && !g.brine.ops.isEmpty)) ||
    (match g.nextClause with
      | none => false
      | some c =>
        decide (quantumEnd gr < g.lclk.toNat + c.words.length) || decide (512 ≤ g.brine.size) ||
        (List.range 12).any (fun f => c.head.wait.getLsbD f && g.brine.flags.contains f))))

/-- Is the group the nadir of its grid: least LCLK, then least identifier (R358)? The synchronising operations that
other groups of the grid have begun act first. -/
def State.isNadir (s : State) (gid : Nat) (g : Group) (gr : Grid) : Bool :=
  s.groups.all (fun (e : Nat × Group) =>
    let h := e.2
    e.1 == gid || h.gridKey != g.gridKey || (!h.syncing && h.readySyncs.isEmpty &&
      (s.atMeeting e.1 h gr || decide (g.lclk.toNat < h.lclk.toNat) ||
        (g.lclk == h.lclk && decide (g.linear.toNat < h.linear.toNat)))))

/-- The conditions of a deterministic grid, beside the turn of the slots. -/
def State.detOk (s : State) (gid : Nat) (g : Group) (k : Nat) (c : ClauseBuf) : Bool :=
  !g.det || (match dget s.grids g.gridKey with
    | none => false
    | some gr =>
      !g.met && gr.commits.isNone &&
        decide (g.lclk.toNat + c.words.length ≤ quantumEnd gr) && decide (g.brine.size < 512) &&
        (!(g.instrs k c).any (fun o => (o.map isSync).getD false) || s.isNadir gid g gr))

/-! ### Eligibility -/

/-- Does the clause hold a TXF, and has the group 16 of them open (R282)? -/
def Group.txfOk (g : Group) (k : Nat) (c : ClauseBuf) : Bool :=
  let holds := (g.instrs k c).any (fun o => match o with
    | some (.txf _) => true
    | _ => false)
  !holds || decide ((g.ops.filter (fun e => e.2.kind.isTxf)).length + g.refusals.length < 16)

/-- Is a pre-emption of the group's team pending (R146)? -/
def State.leaving (s : State) (g : Group) : Bool := ((s.team? g.team).bind (fun t => t.preempt)).isSome

/-- Has the bound of a pre-emption passed for the group (R150)? -/
def State.pastBound (s : State) (g : Group) : Bool :=
  g.stopped || (match (s.team? g.team).bind (fun t => t.preempt) with
    | some p => decide (p + 65536 ≤ s.cycle)
    | none => false)

/-- May the group start clauses, a replay among them (R113, R150, R227, R411)? -/
def State.mayRun (s : State) (g : Group) : Bool :=
  let t := s.team? g.team
  g.started && !s.ready.getLsbD 56 && g.parked.isNone && g.yieldAt.isNone && g.closedAt != some s.cycle &&
    ((t.map (fun t => !t.saved)).getD false) && !(g.supervisor && s.pastBound g) && (s.ctx g.ctx).terminate.isNone &&
    (match g.spec with
      | none => true
      | some sp => decide (s.cycle < sp.issueAt + 8))

/-- Has the slot a CALL that has still to write its return address (R76)? A transfer that a handler holds resolves
after the RTE (log 26). -/
def Slot.linking (x : Slot) : Bool :=
  !x.held && (match x.transfer with
    | some t => t.kind == .call || t.kind == .callx
    | none => false)

/-- Is slot k of the group eligible in this cycle (R53, R104)? A replay stands for a clause that has begun: the
other slot's transfers, a trap in progress and a pre-emption do not hold it back (R133, R139, R146). -/
def State.eligible (s : State) (gid : Nat) (g : Group) (k : Nat) : Bool :=
  let S := g.slot k
  let O := g.slot (1 - k)
  match g.candidate k with
  | none => false
  | some (c, first, _, replay) =>
    s.mayRun g && S.live && S.running.isNone && S.transfer.isNone && S.yieldc.isNone && !S.blocked && !S.held &&
      decide (S.eligFrom ≤ s.cycle) && (!S.resting || !O.live) &&
      g.flagsOk k c first replay && g.results.isEmpty && (!g.det || (g.turn == k && O.running.isNone)) &&
      s.resident g.part gid (g.lines k c) &&
      (match g.half? k with
        | some h => s.halfOk g k h c && !g.refusals.any (fun r => c.head.wait.getLsbD r.flag)
        | none => true) &&
      (replay || (g.trapReq.isNone && (g.supervisor || (!s.leaving g && g.matrixTraps.isEmpty)) && !O.linking &&
        g.txfOk k c && s.detOk gid g k c))

/-- Does candidate (g, k) come before (h, j) in the order of R105? -/
def olderThan (x y : Nat × Group × Nat) : Bool :=
  let a := x.2.1
  let b := y.2.1
  let sa := (a.slot x.2.2).stamp
  let sb := (b.slot y.2.2).stamp
  if a.supervisor != b.supervisor then a.supervisor
  else if sa ≠ sb then decide (sa < sb)
  else if a.resident ≠ b.resident then decide (a.resident < b.resident)
  else decide (x.2.2 < y.2.2)

/-- The first in an order. -/
def firstOf (lt : α → α → Bool) : List α → Option α
  | [] => none
  | x :: t => match firstOf lt t with
    | none => some x
    | some y => some (if lt y x then y else x)

/-- The eligible candidate that the issuer of a partition starts (R105). -/
def State.chosen (s : State) (part : Nat) : Option (Nat × Group × Nat) :=
  firstOf olderThan (((s.groups.filter (fun e => e.2.part == part)).flatMap (fun e =>
    [(e.1, e.2, 0), (e.1, e.2, 1)])).filter (fun x => s.eligible x.1 x.2.1 x.2.2))

/-- The lowest-numbered free clause slot of a partition (R101, R102). -/
def State.freeSlot (s : State) (part : Nat) : Option Nat :=
  let busy (c : Nat) : Bool := s.groups.any (fun e => e.2.part == part &&
    [e.2.slot0, e.2.slot1].any (fun S => match S.running with
      | some r => r.cslot == c
      | none => false))
  [0, 1].find? (fun c => !busy c && decide (tget 0 s.slotFree (part * 2 + c) ≤ s.cycle))

/-! ### The register cache (R110, R111) -/

/-- The members of an instance's quad (R292); none for an absent one. -/
def State.quad (s : State) (t : Team) (unit : Nat) : List (Option Group) :=
  let units := (t.parts.map List.length).foldl (fun a b => a + b) 0
  let all := (List.range t.gids.length).filter (fun g => decide (t.producers ≤ g) && g % max 1 units == unit)
  (List.range 4).map (fun q => ((all[q]?).bind (fun g => t.gids[g]?)).bind (fun gid =>
    (s.group? gid).bind (fun g => if g.exited then none else some g)))

/-- The register lines that an MMA of a stream instance reads, 8 of each quad member, or 9 with its scales
(R294, R296). -/
def State.quadLines (s : State) (t : Team) (unit num : Nat) (scl : Bool) : List CacheLine :=
  (s.quad t unit).flatMap (fun m => match m with
    | none => []
    | some g => (List.range (if scl then 9 else 8)).map (fun j =>
        { gid := (t.gids[g.g]?).getD 0, line := imageLine g.budget (num + j) }))

/-- Are they all in the partition's cache (R296)? -/
def State.quadResident (s : State) (t : Team) (unit : Nat) (x : Inst) (num : Nat) (scl : Bool) : Bool :=
  (s.quadLines t unit num scl).all (fun c => s.resident x.part c.gid [c.line])

/-! ### The turn of a stream instance at its sequencer (R300) -/

/-- Does the instance take its next instruction now (R300, R311)? -/
def Inst.ready (x : Inst) (cycle : Nat) : Bool :=
  x.clause.isSome && x.waits.isNone && !x.ended && x.trap.isNone && decide (x.busyTo ≤ cycle)

def State.mayStream (s : State) (t : Team) : Bool :=
  !t.saved && t.preempt.isNone && (s.ctx t.ctx).terminate.isNone && !s.ready.getLsbD 56

/-- The instance's next instruction. -/
def Inst.next? (x : Inst) : Option Instr :=
  x.clause.bind (fun c => (c.words[x.idx]?).bind (fun w => decode .matrix w))

/-- Is the instance at an MWAIT whose condition fails? It is then not ready for the sequencer, and begins to wait at
any time (R300, R306). -/
def State.mwaitFails (s : State) (x : Inst) : Bool :=
  match x.next? with
  | some (.mwait m) =>
    let n := m.num.toNat
    ((s.bar (coreOfPart x.part) n).settle s.cycle).1.ph == (dget x.tokens n).getD false
  | _ => false

/-- Of two ready instances of one partition the one whose instruction has just ended waits; where neither has run,
the one placed earlier goes first (R300). -/
def State.streamTurn (s : State) (team unit : Nat) (x : Inst) : Bool :=
  (s.teams.flatMap (fun e => if e.2.saved then [] else e.2.insts.map (fun y => (e.1, e.2, y)))).all (fun e =>
    let y := e.2.2.2
    let xRan := x.ranTo == s.cycle
    let yRan := y.ranTo == s.cycle
    (e.1 == team && e.2.2.1 == unit) || y.part != x.part ||
      (decide (y.busyTo ≤ s.cycle) && (y.ended || !(y.ready s.cycle && s.mayStream e.2.1 && !s.mwaitFails y) ||
        (yRan && !xRan) ||
        (xRan == yRan && (decide (x.placed < y.placed) || (x.placed == y.placed && decide (team ≤ e.1)))))))

/-- Is the sequencer the instance's now? -/
def State.streamGoes (s : State) (team unit : Nat) (t : Team) (x : Inst) : Bool :=
  x.ready s.cycle && s.mayStream t && (s.mwaitFails x || s.streamTurn team unit x)

/-- The lines that the MMA now due in a partition reads: that of the instance which has the sequencer. -/
def State.streamLines (s : State) (part : Nat) : List CacheLine :=
  s.teams.flatMap (fun e => if e.2.saved then [] else e.2.insts.flatMap (fun x =>
    if x.2.part != part || !s.streamGoes e.1 x.1 e.2 x.2 then [] else
    match x.2.next? with
    | some (.mma m) =>
      let ta := if m.ta = 15 then fld x.2.mfmt 3 0 else m.ta.toNat
      s.quadLines e.2 x.1 m.num.toNat (ta == 7 && fld x.2.mfmt 13 12 == 1)
    | _ => []))

/-- The lines that may not be victims: those of the clauses in the partition's clause slots, the shadowed ones,
and those of the operand read that the sequencer has in progress (R111). -/
def State.pinned (s : State) (part : Nat) : List CacheLine :=
  s.groups.flatMap (fun e => if e.2.part != part then [] else
    ([0, 1].flatMap (fun k => match (e.2.slot k).running with
      | some r => e.2.lines k r.clause
      | none => []) ++ e.2.shadowLines).map (fun l => { gid := e.1, line := l })) ++ s.streamLines part

/-- The victim of a miss of group gid (R111); the cache lists the most recently used line first. A line that is marked
evictable may go at a user-mode miss though its group was saved in supervisor mode: the mark wins over "never evicts a
line of a group in supervisor mode" (DESIGN CHOICE, log 104). -/
def State.victim (s : State) (part gid : Nat) (c : List CacheLine) : Option CacheLine :=
  let pins := s.pinned part
  let sup (n : Nat) : Bool := ((s.group? n).map (fun g => g.supervisor)).getD false
  let free := c.reverse.filter (fun x => !pins.any (fun p => x.is p.gid p.line) && (sup gid || !sup x.gid || x.evict))
  let gone (x : CacheLine) : Bool := x.evict || (s.group? x.gid).isNone
  let parked (n : Nat) : Bool := ((s.group? n).map (fun g => g.parked.isSome)).getD false
  match free.find? gone with
  | some x => some x
  | none => match free.find? (fun x => parked x.gid) with
    | some x => some x
    | none => free.head?

/-- Victims leave until the lines and the shadow lines of a partition fit its 1,024 frames; `n` bounds them. -/
def State.makeRoom (s : State) (part gid : Nat) : Nat → State
  | 0 => s
  | n + 1 =>
    let c := s.rlines part
    if c.length + s.shadowCount part ≤ 1024 then s
    else match s.victim part gid c with
      | none => s
      | some v => { s with rcache := dput s.rcache part (c.filter (fun x => x != v)) }.makeRoom part gid n

/-- The candidate whose missing lines are filled next: the first in the order of R105 that names a line which is
not in the cache (R110). -/
def State.fillNext (s : State) (part : Nat) : Option (Nat × Group × Nat) :=
  let misses (x : Nat × Group × Nat) : Bool := match x.2.1.candidate x.2.2 with
    | some (c, _, _, _) => (x.2.1.slot x.2.2).live &&
        (x.2.1.lines x.2.2 c).any (fun l => !(s.rlines part).any (fun r => r.is x.1 l))
    | none => false
  firstOf olderThan (((s.groups.filter (fun e => e.2.part == part && e.2.parked.isNone && !s.isSaved e.2.team)).flatMap
    (fun e => [(e.1, e.2, 0), (e.1, e.2, 1)])).filter misses)

/-- Is a line of group gid to be filled next, for a candidate (R110) or for the sequencer (R296)? -/
def State.wantsLine (s : State) (part gid line : Nat) : Bool :=
  (match s.fillNext part with
    | some (n, g, k) => n == gid && (match g.candidate k with
      | some (c, _, _, _) => (g.lines k c).contains line
      | none => false)
    | none => false) ||
  (s.streamLines part).any (fun c => c.gid == gid && c.line == line)

/-- REGISTER_FILL (R110): the line becomes resident at the end of this cycle, in the place of a victim where the
lines and the shadow lines fill the 1,024 frames. -/
def execRegisterFill (part gid line : Nat) (s : State) : Host.Outcome State Fault Refusal :=
  .next (match s.group? gid with
  | none => s
  | some g =>
    let c := s.rlines part
    if g.part != part || c.any (fun x => x.is gid line) || !s.wantsLine part gid line then s
    else
      let put (l : List CacheLine) : State :=
        { s with rcache := dput s.rcache part ({ gid := gid, line := line, since := s.cycle + 1 } :: l) }
      if c.length + s.shadowCount part < 1024 then put c
      else match s.victim part gid c with
        | none => s
        | some v => put (c.filter (fun x => x != v)))

/-- Move lines to the front of a partition's register cache: a clause that starts uses the lines it names, and a
fill uses its line; neither an instruction's own read or write nor an arriving result counts as a use (DESIGN
CHOICE, log 85). -/
def State.useLines (s : State) (part gid : Nat) (lines : List Nat) : State :=
  let hit (c : CacheLine) : Bool := lines.any (fun l => c.is gid l)
  { s with rcache := s.rcache.map (fun e =>
      if e.1 == part then (e.1, e.2.filter hit ++ e.2.filter (fun c => !hit c)) else e) }

/-- A clause that starts ends the yield bar of the partition's other user groups (R113). -/
def State.liftBars (s : State) (part gid : Nat) : State :=
  { s with groups := s.groups.map (fun e => match e.2.yieldAt with
      | some n => if e.1 != gid && e.2.part == part && decide (n < s.cycle) then
          (e.1, { e.2 with yieldAt := none }) else e
      | none => e) }

/-- The first pending refusal, in issue order, on a flag that the clause waits on (R142). -/
def Group.refusalAt (g : Group) (c : ClauseBuf) : Option Refusal285 :=
  g.refusals.find? (fun r => c.head.wait.getLsbD r.flag)

def Refusal285.lanes (r : Refusal285) : Mask := maskOfList (r.reasons.map (fun e => e.1))

/-- Take the refusal's trap at slot k (R142). It becomes the current record (R285) when the handler is entered;
where another trap goes first it stays pending. -/
def State.raiseRefusal (s : State) (gid : Nat) (r : Refusal285) (req : TrapReq) : State :=
  s.raiseTrap gid { req with refusal := some r }

/-- Start the candidate of slot k in clause slot `cs` (R53, R101, R105). -/
def State.startClause (s : State) (gid : Nat) (g : Group) (k cs : Nat) : State :=
  match g.candidate k with
  | none => s
  | some (c, first, count, replay) =>
    let id := s.nextId
    let whole := g.wholeFlag k c first
    let sync := g.det && (g.instrs k c).any (fun o => (o.map isSync).getD false)
    let S : Slot := { g.slot k with
      running := some { cslot := cs, clause := c, idx := first, count := count, readyAt := s.cycle,
                        startAt := s.cycle, clauseId := id, aluFlag := whole, replay := replay, sync := sync },
      clause := none, stamp := s.cycle, resumeIdx := if replay then (g.slot k).resumeIdx else 0 }
    let g' := g.setSlot k S
    let g' : Group := match whole with
      | some f => let g'' := g'.incFlag f
                  { g'' with counts := g''.counts ++ [(⟨id, f, false⟩ : ClauseCount)] }
      | none => g'
    let g' : Group := if replay then { g' with mpreplay := g'.mpreplay + 1 }
      else g'.modHalf k (fun (h : Half) => { h with clauses := (⟨c, first, first, []⟩ : Replay) :: h.clauses })
    let s := { (s.setGroup gid g') with nextId := s.nextId + 1
                                        startedAt := tset 0 s.startedAt g.part (s.cycle + 1) }
    let s := s.useLines g.part gid (g.lines k c)
    let s := if (g.half? k).isSome then s.makeRoom g.part gid 64 else s
    if g.supervisor then s else s.liftBars g.part gid

/-- CLAUSE_START (R53, R101 to R105): in a cycle with a free clause slot, the partition starts the
chosen candidate; a clause that waits on the flag of a refused TXF traps instead (R142), one that goes on in
mid-clause at the instruction it goes on from (log 86). -/
def execClauseStart (part : Nat) (s : State) : Host.Outcome State Fault Refusal :=
  finish s (
    let s := s.groups.foldl (fun s e =>
      if e.2.part == part && e.2.det then s.brinePending e.1 else s) s
    if tget 0 s.startedAt part = s.cycle + 1 then s else
    match s.freeSlot part, s.chosen part with
    | some cs, some (gid, g, k) =>
      let start := s.startClause gid g k cs
      if g.supervisor || (g.half? k).isSome then start
      else match g.candidate k with
        | some (c, first, _, false) => match g.refusalAt c with
          | some r => s.raiseRefusal gid r
              { slot := k, cycle := s.cycle, code := 0x0B, atClause := first == 0, idx := first, pc := c.addr,
                done := false, arg := 0, einfo := r.lanes, etxf := r.wordAt, lanes := r.lanes, faddr := [] }
          | none => start
        | _ => start
    | _, _ => s)

/-! ### Issue -/

/-- The ports of R102. -/
def portOf (i : Instr) (sg : Sig) : Nat :=
  match flagSel i with
  | some _ => 3
  | none =>
    if sg.lat = 8 then 2 else
    match i with
    | .srd r => if r.form == .f00 then 0 else 1
    | .movi w => if w.form == .f11 then 1 else 0
    | _ => if sg.lat = 4 && !isTransfer i then 0 else 1

/-- The next instruction of slot k's running clause: its word, and its meaning if it has one. -/
def Group.nextWord (g : Group) (k : Nat) : Option (Running × Word64 × Option Instr) :=
  match (g.slot k).running with
  | none => none
  | some r => match r.clause.words[r.idx]? with
    | none => none
    | some w => some (r, w, (classOf r.clause.head.cls).bind (fun c => decode c w))

def Group.portNext (g : Group) (k : Nat) : Option (Running × Nat) :=
  match g.nextWord k with
  | some (r, _, some i) =>
    let sg := sigOf g.budget (fld (g.slot k).fmt 3 0) i
    if sg.ok then some (r, portOf i sg) else none
  | _ => none

/-- May slot k issue now, whatever its port does (R55, R133, R284, R411)? -/
def State.issueReady (s : State) (g : Group) (k : Nat) : Bool :=
  match (g.slot k).running with
  | none => false
  | some r =>
    decide (r.readyAt ≤ s.cycle) && !(g.slot k).blocked && (s.ctx g.ctx).terminate.isNone && !s.ready.getLsbD 56 && g.closedAt != some s.cycle &&
      !g.results.any (fun p => decide (p.due ≤ s.cycle)) &&
      (match g.spec with
        | none => true
        | some sp => decide (s.cycle < sp.issueAt + 8))

/-- Does the port take the instruction of slot k in this cycle (R102, R103)? -/
def State.portTakes (s : State) (gid : Nat) (g : Group) (k : Nat) : Bool :=
  match g.portNext k with
  | none => true
  | some (r, p) =>
    let last := tget 0 s.portAt (g.part * 4 + p)
    (last == 0 || decide (last + (if p = 2 then 1 else 0) ≤ s.cycle)) &&
      !s.groups.any (fun e => e.2.part == g.part && [0, 1].any (fun j =>
        !(e.1 == gid && j == k) && s.issueReady e.2 j && (match e.2.portNext j with
          | none => false
          | some (q, p') => p' == p && (if e.2.supervisor != g.supervisor then e.2.supervisor
              else decide (q.startAt < r.startAt) || (q.startAt == r.startAt && decide (q.clauseId < r.clauseId))))))

/-- The issue of the next instruction of slot k (R55): the state that knows what issues, and its
meaning, none for a word without one. Nothing where it cannot issue now. -/
def State.issueNext (s : State) (gid k : Nat) : Option (State × Option Instr) :=
  match s.group? gid with
  | none => none
  | some g =>
    if 1 < k || !s.issueReady g k || !s.portTakes gid g k then none else
    match g.nextWord k with
    | none => none
    | some (r, w, i) =>
      let s := match g.portNext k with
        | some (_, p) => { s with portAt := tset 0 s.portAt (g.part * 4 + p) (s.cycle + 1) }
        | none => s
      some ({ s with cur := { gid := gid, slot := k, addr := r.clause.addr + w64n (8 * (r.idx + 1)),
                              word := w, mask := (g.slot k).mask, idx := r.idx,
                              header := r.clause.header, clauseAt := r.clause.addr } }, i)

/-! ### Results (R56, R190) -/

/-- Is result a written before result b? -/
def Pending.before (a b : Pending) : Bool :=
  if a.due ≠ b.due then decide (a.due < b.due)
  else if a.issueAt ≠ b.issueAt then decide (a.issueAt < b.issueAt)
  else if a.startAt ≠ b.startAt then decide (a.startAt < b.startAt)
  else decide (a.seq < b.seq)

/-- Sticky bits of a result: to its half, or to MODE (R165), those of a replayed clause when it writes. -/
def Group.takeSticky (g : Group) (p : Pending) : Group :=
  if p.half && (g.half? p.slot).isSome then
    g.modHalf p.slot (fun h => { h with sticky := h.sticky ++ p.sticky })
  else g.raiseFor p.slot p.half (stickyOr p.sticky (fun _ => true))

/-- Write one result. -/
def Group.writeResult (g : Group) (p : Pending) : Group :=
  let g := p.upds.foldl (fun (g : Group) u => match u with
    | .vec r m l => (if p.half then g.shadow p.slot r else g).setVreg r m l
    | .sca r x => g.putSca p.sup r x p.issueAt p.startAt
    | .pred r m b => g.setPregAs p.sup r m b) g
  (g.takeSticky p).settleCounts

/-- RESULT_WRITE (R56, R190): the first result in order that is due at the end of this cycle. -/
def execResultWrite (gid : Nat) (s : State) : Host.Outcome State Fault Refusal :=
  .next (s.modGroup gid (fun g => match firstOf Pending.before g.results with
    | none => g
    | some p =>
      if s.cycle + 1 < p.due then g
      else Group.writeResult { g with results := g.results.filter (fun q => q != p)
                                      closedAt := some s.cycle } p))

/-- YIELD_BAR_LIFT (R113): the bar lifts with cycle n_end + 16; CLAUSE_START lifts it earlier. -/
def execYieldBarLift (gid : Nat) (s : State) : Host.Outcome State Fault Refusal :=
  .next (s.modGroup gid (fun g => match g.yieldAt with
    | none => g
    | some n => if n + 16 ≤ s.cycle then { g with yieldAt := none } else g))

end Sys2Proof.Machine
end

