-- ==== Sys2Proof/Machine/Copy.lean ====
section
/-!
DEFINITION. The copy engine (R316 to R331): request records, barrier objects, range locks, KICK, CPWAIT,
YIELDC and PFB, and the steps that move and count bytes.
-/
namespace Sys2Proof.Machine

/-! ### Request records (R316, R317) -/

/-- VA[55:0], sign-extended from bit 55 (R316). -/
def sext56 (w : Word64) : Word64 := (w.extractLsb' 0 56).signExtend 64

/-- A range of virtual addresses. -/
structure Span64 where
  lo  : Int
  len : Nat
  deriving DecidableEq, Repr

def Span64.meets (a b : Span64) : Bool := decide (a.lo < b.lo + b.len) && decide (b.lo < a.lo + a.len)

/-- The bounding range of `rows` rows of `rowb` bytes at `stride` (R317). -/
def boundOf (base : Word64) (rows rowb : Nat) (stride : Int) : Span64 :=
  let last : Int := (rows - 1 : Nat) * stride
  ⟨base.toNat + min 0 last, last.natAbs + rowb⟩

/-- The record of 32 bytes; its object is given by its address. -/
def parseRec (b : List Byte) : CopyRec × Word64 :=
  let w (i : Nat) : Word64 := w64n (recNum b (8 * i) 8)
  let kind := fld (w 0) 63 61
  let two := kind == 1
  ({ kind := kind, scope := scopeOf (fld (w 0) 60 58), src := sext56 (w 0), mask := (w 1).extractLsb' 56 8,
     dst := sext56 (w 1), bobj := .phys 0,
     bytes := if two then 0 else fld (w 3) 31 0, rows := if two then fld (w 3) 63 52 else 1,
     rowb := if two then 16 * fld (w 3) 51 40 else fld (w 3) 31 0,
     sstr := if two then 16 * sgn 20 (fld (w 3) 39 20) else 0,
     dstr := if two then 16 * sgn 20 (fld (w 3) 19 0) else 0 }, sext56 (w 2))

/-- The slots of a multicast, ascending. -/
def CopyRec.targets (r : CopyRec) : List Nat := (List.range 8).filter (fun c => r.mask.getLsbD c)

def CopyRec.srcRange (r : CopyRec) : Option Span64 :=
  if r.kind = 2 then none else some (boundOf r.src r.rows r.rowb r.sstr)
def CopyRec.dstRange (r : CopyRec) : Span64 := boundOf r.dst r.rows r.rowb r.dstr
/-- Every destination range. -/
def CopyRec.dstRanges (r : CopyRec) : List Span64 :=
  if r.kind = 3 then r.targets.map (fun c => ⟨r.dstRange.lo + c * 2 ^ 20, r.dstRange.len⟩) else [r.dstRange]

/-- T of R317. -/
def CopyRec.total (r : CopyRec) : Nat :=
  if r.kind = 3 then r.bytes * r.targets.length else r.rows * r.rowb

/-- The fields that R316 and R317 refuse. -/
def recRefused (b : List Byte) : Bool :=
  let w (i : Nat) : Word64 := w64n (recNum b (8 * i) 8)
  let r := (parseRec b).1
  let sc := fld (w 0) 60 58
  let a (x : Word64) (n : Nat) : Bool := x.toNat % n != 0
  decide (4 ≤ r.kind) || sc == 0 || decide (5 < sc) || fld (w 0) 57 56 != 0 || fld (w 2) 63 56 != 0 ||
    (r.kind == 2 && fld (w 0) 55 32 != 0) || (r.kind != 3 && r.mask != 0) || (r.kind == 3 && r.mask == 0) ||
    (r.kind != 1 && (fld (w 3) 63 32 != 0 || r.bytes == 0)) || (r.kind == 1 && (r.rows == 0 || r.rowb == 0)) ||
    (r.kind == 1 && (a r.src 16 || a r.dst 16)) ||
    (r.kind == 2 && (a r.dst 4 || r.bytes % 4 != 0)) ||
    (r.kind == 3 && (decide (r.dstRange.lo < (twBase : Int)) ||
      decide ((twBase : Int) + 2 ^ 20 < r.dstRange.lo + r.dstRange.len))) ||
    (match r.srcRange with
      | some x => r.dstRanges.any (fun d => x.meets d)
      | none => false)

/-! ### Barrier objects (R319, R320) -/

/-- Are the reserved bits of an object zero? -/
def objReserved (w1 : Nat) : Bool := fld (w64n w1) 63 33 == 0 && fld (w64n w1) 31 11 == 0

/-- REMAIN and the second word of an object after c bytes with error bits `e` are counted (R320). -/
def objCount (remain : Nat) (w1 : Word64) (c e : Nat) : Nat × Word64 :=
  let new := if c ≤ remain then remain - c else 0
  let e := if c ≤ remain then e else e ||| 0x400
  let w1 := if remain ≠ 0 && new = 0 then w1 ^^^ 0x100000000#64 else w1
  (new, w1 ||| w64n e)

/-- A number for the place of an object. -/
def Loc.key : Loc → Nat
  | .phys pa => pa
  | .stash t c o => 2 ^ 60 + (t * 8 + c) * 2 ^ 20 + o

/-- Count a piece down on an object (R320, R331), and note the clock of its record (R358). -/
def State.countDown (s : State) (core : Nat) (scope : Scope) (obj : Loc) (c e : Nat) (clock : BitVec 48) :
    State :=
  let level := levelOf .rlx scope
  -- as an atomic in an L2 does, it needs the ownership of a pooled frame (R371)
  let s := match obj with
    | .phys pa => if isPooled pa && level == 1 then s.needOwn pa else s
    | .stash .. => s
  let r := s.readLoc core level 16 obj
  let n := objCount (recNum r.2 0 8) (w64n (recNum r.2 8 8)) c e
  let s := r.1.writeLoc core level (toBytes 8 n.1 ++ toBytes 8 n.2.toNat) obj
  let old := (dget s.objs obj.key).getD (0, true)
  let m := if old.2 then clock else if old.1.toNat < clock.toNat then clock else old.1
  { s with objs := dput s.objs obj.key (m, n.1 == 0) }

/-! ### KICK (R318, R324, R325) -/

/-- What a check of a record finds: the place of its object, a trap (code, EINFO, failing address),
a mapped piece to wait for, or an object that an earlier access of the group still keeps from being read (R235). -/
inductive RecRes where
  | ok (r : CopyRec)
  | trap (code einfo : Nat) (va : Word64)
  | wait (team slot off : Nat)
  | busy (obj : Loc)
  deriving DecidableEq, Repr

/-- The BOBJ checks of R318, in order. `kind` is the KIND of a failing address. The object is read after the group's
earlier accesses (R235, R242). -/
def State.checkObj (s : State) (a : Agent) (scope : Scope) (va : Word64) (kind : Nat) :
    State × (Loc ⊕ RecRes) :=
  let v := va.toNat
  let reserved (s : State) (loc : Loc) : State × (Loc ⊕ RecRes) :=
    match s.group? a.gid with
    | none => (s, .inl loc)
    | some g =>
      if !g.mayRead [(loc, 16, false)] then (s, .inr (.busy loc)) else
      let r := s.groupBytes g (levelOf .rlx scope) 16 loc
      (r.1, if objReserved (recNum r.2 8 8) then .inl loc else .inr (.trap 0x0A (einfoOf 0 0 kindObj) va))
  if !canonical va then (s, .inr (.trap 0x02 (einfoOf 5 0 kind) va))
  else if inWindow v then
    match s.windowLoc a.team v 16 with
    | none => (s, .inr (.trap 0x02 (einfoOf 6 0 kind) va))
    | some loc =>
      if v % 16 ≠ 0 then (s, .inr (.trap 0x0A (einfoOf 0 0 kindObj) va)) else
      match loc, s.team? a.team with
      | .stash team c o, some t =>
        let r := s.pieceCheck a t team c o v kindObj true
        match r.2 with
        | some (.wait t c o) => (r.1, .inr (.wait t c o))
        | some (.fault code e f) => (r.1, .inr (.trap code e (w64n f)))
        | _ => reserved r.1 loc
      | _, _ => reserved s loc
  else if v % 16 ≠ 0 then (s, .inr (.trap 0x0A (einfoOf 0 0 kindObj) va))
  else
    let r := s.lookup a.core a.ctx v
    match r.2 with
    | .fail why lev _ => (r.1, .inr (.trap 0x01 (einfoOf why lev kindObj) va))
    | .leaf l => match ({ r := true, w := true, user := a.user } : Need).refuse l with
      | some why => (r.1, .inr (.trap 0x01 (einfoOf why l.level kindObj) va))
      | none => if l.cf then (r.1, .inr (.trap 0x08 (einfoOf 0 0 kindObj) va))
                else reserved r.1 (.phys (l.pa v))

/-- Does a range that touches the window leave its slot or the stash (R317)? -/
def State.windowBad (s : State) (team : Nat) (x : Span64) : Bool :=
  let touches := decide (x.lo < (twBase : Int) + 2 ^ 23) && decide ((twBase : Int) < x.lo + x.len)
  touches && (decide (x.lo < (twBase : Int)) || (s.windowLoc team x.lo.toNat x.len).isNone)

/-- Read and check one record (R318). -/
def State.checkRec (s : State) (a : Agent) (va : Word64) : State × RecRes :=
  let v := va.toNat
  if v % 32 ≠ 0 then (s, .trap 0x0A (einfoOf 0 0 kindRecord) va)
  else match (if inWindow v then s.windowLoc a.team v 32 else none), s.team? a.team with
  | some (.stash team c o), some t =>
    let p := s.pieceCheck a t team c o v kindRecord false
    match p.2 with
    | some (.wait t c o) => (p.1, .wait t c o)
    | some (.fault code e f) => (p.1, .trap code e (w64n f))
    | _ =>
      let b := p.1.readLoc a.core 0 32 (.stash team c o)
      let s := b.1
      if recRefused b.2 then (s, .trap 0x0A (einfoOf 0 0 kindRecord) va) else
      let (r, obj) := parseRec b.2
      let srcBad := match r.srcRange with
        | some x => s.windowBad a.team x
        | none => false
      if r.kind ≠ 2 && !canonical r.src then (s, .trap 0x02 (einfoOf 5 0 kindRecord) r.src)
      else if srcBad then (s, .trap 0x02 (einfoOf 6 0 kindRecord) r.src)
      else if !canonical r.dst then (s, .trap 0x02 (einfoOf 5 0 kindRecord) r.dst)
      else if s.windowBad a.team r.dstRange then (s, .trap 0x02 (einfoOf 6 0 kindRecord) r.dst)
      else
        let x := s.checkObj a r.scope obj kindRecord
        match x.2 with
        | .inl loc => (x.1, .ok { r with bobj := loc })
        | .inr e => (x.1, e)
  | _, _ => (s, .trap 0x02 (einfoOf 6 0 kindRecord) va)

/-- Check n records from va on; the first failure stops. -/
def State.checkRecs (s : State) (a : Agent) : Nat → Word64 → State × (List CopyRec ⊕ RecRes)
  | 0, _ => (s, .inl [])
  | n + 1, va =>
    let r := s.checkRec a va
    match r.2 with
    | .ok x =>
      let t := r.1.checkRecs a n (va + 32)
      (t.1, match t.2 with
        | .inl l => .inl (x :: l)
        | .inr e => .inr e)
    | e => (r.1, .inr e)

/-- The records of operation `op` go to their core's engine, in order (R323). -/
def State.queueJobs (s : State) (gid op : Nat) (g : Group) (user : Bool) (clock : BitVec 48) (l : List CopyRec) :
    State :=
  l.foldl (fun s r =>
    let job : CopyJob := { core := g.core, gid := gid, op := op, ctx := g.ctx, team := g.team, req := r,
                           accepted := false, user := user, pos := 0, clock := clock, order := s.nextId }
    { s with jobs := dput s.jobs s.nextId job, nextId := s.nextId + 1 }) s

/-- The trap or the wait of a failed check, reported as lane 0. -/
def State.recStop (s : State) (e : RecRes) : State :=
  match e with
  | .trap code einfo va => s.trapHere (BitVec.ofNat 8 code) (w64n einfo) 1 [(0, va)]
  | .wait t c o => s.wantPieces [(t, c, o)]
  | .busy obj => s.settleBytes s.cur.gid [(obj, 16, false)]
  | .ok _ => s

/-- The bytes of the records of a KICK that lie in the team's stash. -/
def State.recordBytes (s : State) (team : Nat) (va : Word64) (n : Nat) : List (Loc × Nat × Bool) :=
  (List.range n).filterMap (fun i =>
    let v := (va + w64n (32 * i)).toNat
    (if inWindow v then s.windowLoc team v 32 else none).map (fun l => (l, 32, false)))

/-- KICK (R318, R325): it reads and checks its records; the engine accepts them later. In a
deterministic grid it enters the brine (R330). -/
def execKick (q : QFields) (s : State) : Host.Outcome State Fault Refusal :=
  finish s (s.guarded (.kick q) (fun g =>
    let va := g.sreg q.sa.toNat
    let n := q.imm.toNat
    s.afterBytes (s.recordBytes g.team va n) (fun s1 =>
      let r := s1.checkRecs (agentOf s.cur.gid g) n va
      match r.2 with
      | .inr e => r.1.recStop e
      | .inl l =>
        let s := r.1
        let k := s.nextId
        let s := s.addOp q.fsel (.kick l)
        let s := if g.det then s.modGroup s.cur.gid (fun g =>
              { g with brine := { g.brine with ops := g.brine.ops ++ [.kick k g.lclk] } })
            else s.queueJobs s.cur.gid k g (!g.supervisor) g.lclk l
        s.advance)))

/-! ### Acceptance and range locks (R321, R323) -/

/-- The locks a record needs: core and range. -/
def State.locksOf (s : State) (key : Nat) (j : CopyJob) : List (Nat × RangeLock) :=
  let mk (x : Span64) (reads : Bool) : RangeLock :=
    { ctx := j.ctx, team := j.team, lo := x.lo.toNat, len := x.len, reads := reads, job := key }
  let owner (x : Span64) : Option Nat :=
    if inWindow x.lo.toNat then (s.team? j.team).bind (fun t => t.cores[(x.lo.toNat - twBase) / 2 ^ 20]?) else none
  let src := match j.req.srcRange with
    | some x => [(j.core, mk x false)]
    | none => []
  let dst := (j.core, mk j.req.dstRange true) ::
    j.req.dstRanges.filterMap (fun x => (owner x).map (fun c => (c, mk x true)))
  src ++ dst.eraseDups

/-- Enter locks, each in the lowest free entry of its core's table of 64; none if one finds no room. -/
def enterLocks : List (Nat × RangeLock) → Dict RangeLock → Option (Dict RangeLock)
  | [], t => some t
  | (core, l) :: rest, t =>
    match (List.range 64).find? (fun i => (dget t (core * 64 + i)).isNone) with
    | none => none
    | some i => enterLocks rest (dput t (core * 64 + i) l)

/-- The first record of a core that waits to be accepted. -/
def State.nextJob (s : State) (core : Nat) : Option (Nat × CopyJob) :=
  firstOf (fun a b => decide (a.2.order < b.2.order)) (s.jobs.filter (fun e => e.2.core == core && !e.2.accepted))

/-- Accept the core's next record if every table has room (R321); the KICK completes with its last
record (R325). -/
def State.acceptNext (s : State) (core : Nat) : State :=
  match s.nextJob core with
  | none => s
  | some (key, j) =>
    match enterLocks (s.locksOf key j) s.locks with
    | none => s
    | some locks =>
      let s := { s with locks := locks, jobs := dput s.jobs key { j with accepted := true } }
      if s.jobs.any (fun e => e.2.gid == j.gid && e.2.op == j.op && !e.2.accepted) then s
      else s.completeOp j.gid j.op

/-- RECORD_ACCEPT (R321, R323). -/
def execRecordAccept (core : Nat) (s : State) : Host.Outcome State Fault Refusal := .next (s.acceptNext core)

/-! ### Moving bytes (R323, R329) -/

/-- Where the engine finds a place: its bytes, a failure, or a mapped piece to wait for. -/
inductive EngLoc where
  | ok (l : Loc)
  | bad
  | wait (team slot off : Nat)
  deriving DecidableEq, Repr

/-- The place of n bytes at va, inside one page or slot, for a read or a write by the engine. -/
def State.engLoc (s : State) (j : CopyJob) (va n : Nat) (write : Bool) : State × EngLoc :=
  if inWindow va then
    match s.windowLoc j.team va n, s.team? j.team with
    | some (.stash t c o), some tm =>
      let maps := (List.range n).filterMap (fun i => ((tm.mapAt c (o + i)).bind (fun k => tm.maps[k]?)).map (fun m => (o + i, m)))
      if write && maps.any (fun x => !x.2.rw) then (s, .bad)
      else match maps.find? (fun x => !x.2.touched.contains ((x.1 - x.2.off) / 64)) with
        | some x =>
          let a : Agent := { gid := j.gid, core := j.core, ctx := j.ctx, team := j.team, user := j.user }
          let r := s.pieceCheck a tm t c x.1 va kindRecord write
          (r.1, match r.2 with
            | some (.wait ..) => .wait t c x.1
            | _ => .bad)
        | none => (s, .ok (.stash t c o))
    | _, _ => (s, .bad)
  else if !canonical (w64n va) then (s, .bad)
  else
    let r := s.lookup j.core j.ctx va
    match r.2 with
    | .fail .. => (r.1, .bad)
    | .leaf l =>
      if (({ r := !write, w := write, user := j.user } : Need).refuse l).isSome || (write && l.cf) ||
          (r.1.lostNode j.core (levelOf .rlx j.req.scope) (.phys (l.pa va))).isSome then (r.1, .bad)
      else (r.1, .ok (.phys (l.pa va)))

/-- The engine reads pooled memory over the data ports, never at a Meridian position (R371). -/
def engLevel (level : Nat) (l : Loc) : Nat :=
  match l with
  | .phys pa => if isPooled pa && level == 2 then 3 else level
  | .stash .. => level

/-- The address of a piece that goes to a node over a data port (R385). -/
def remotePiece (level : Nat) (l : Loc) : Option Nat :=
  match l with
  | .phys pa => if isPooled pa && decide (2 ≤ level) then some pa else none
  | .stash .. => none

/-- Send a piece to its node (R385), the copies that the kicking core and this device's L2s hold of its bytes dropped.
Where it cannot go it is tried again. -/
def State.nodePut (s : State) (core key pa : Nat) (b : List Byte) : State :=
  if !s.canRequest (pa / 256) then { s with unready := true }
  else
    let at_ := List.range b.length
    let s := at_.foldl (fun s i => [core, l2Site 0, l2Site 1, l2Site 2, l2Site 3].foldl (fun s c => s.cdel c (pa + i)) s) s
    let data : Dict Byte := (at_.zip b).map (fun e => (pa % 256 + e.1, e.2))
    ({ s with nextId := s.nextId + 1 }).request
      { frame := pa / 256, words := wordsOf data, write := true, data := data, job := some (key, b.length), num := s.nextId }

/-- Has a group of the record's core a store that was issued before its KICK, is not performed, and meets these bytes
(R329)? The piece then waits for it, but for one that stands behind a wait, which the copy may have to end. -/
def State.storesBefore (s : State) (j : CopyJob) (l : Loc) (n : Nat) : Bool :=
  s.groups.any (fun e => e.2.core == j.core && e.2.ops.any (fun o =>
    decide (o.1 < j.op) && (match o.2.kind with
      | .store .. | .atomic .. => true
      | _ => false) && !o.2.held && meetAny o.2.kind.bytes [(l, n, false)] &&
    !e.2.ops.any (fun w => decide (w.1 < o.1) && w.2.kind.waitsFor)))

/-- Read n source bytes, across at most one page boundary: the bytes, none on a failure, or a wait. -/
def State.engRead (s : State) (j : CopyJob) (va n : Nat) : State × (Option (List Byte) ⊕ (Nat × Nat × Nat)) :=
  let n1 := min n (65536 - va % 65536)
  let level := levelOf .rlx j.req.scope
  let part (s : State) (va n : Nat) : State × (Option (List Byte) ⊕ (Nat × Nat × Nat)) :=
    let r := s.engLoc j va n false
    match r.2 with
    | .bad => (r.1, .inl none)
    | .wait t c o => (r.1, .inr (t, c, o))
    | .ok l =>
      let b := r.1.readLoc j.core (engLevel level l) n l
      ({ b.1 with unready := b.1.unready || s.storesBefore j l n }, .inl (some b.2))
  if inWindow va || n1 = n then part s va n
  else
    let a := part s va n1
    match a.2 with
    | .inl (some x) =>
      let b := part a.1 ((va + n1) % 2 ^ 64) (n - n1)
      (b.1, match b.2 with
        | .inl (some y) => .inl (some (x ++ y))
        | e => e)
    | e => (a.1, e)

/-- Where piece `pos` of a record goes: target slot of a multicast, destination, source, length. -/
def CopyRec.piece (r : CopyRec) (pos : Nat) : Nat × Nat × Nat × Nat :=
  let i := if r.rowb = 0 then 0 else pos / r.rowb
  let off := if r.rowb = 0 then 0 else pos % r.rowb
  let c := if r.kind = 3 then (r.targets[i]?).getD 0 else 0
  let d := if r.kind = 3 then r.dst + w64n (c * 2 ^ 20 + off) else r.dst + w64 (i * r.dstr) + w64n off
  let x := if r.kind = 3 then r.src + w64n off else r.src + w64 (i * r.sstr) + w64n off
  (c, d.toNat, x.toNat, min (r.rowb - off) (256 - d.toNat % 256))

/-- The bytes of a fill piece at offset `off` of its destination: the pattern, word by word. -/
def fillBytes (pattern : Word64) (off n : Nat) : List Byte :=
  (List.range n).map (fun i => pattern.extractLsb' (8 * ((off + i) % 4)) 8)

/-- Does the range of a multicast in slot c touch a read-only mapping (R329)? -/
def State.slotReadOnly (s : State) (j : CopyJob) (c : Nat) : Bool :=
  match s.team? j.team with
  | none => false
  | some t =>
    let off := (j.req.dst.toNat - twBase) % 2 ^ 20
    t.maps.any (fun m => m.slot == c && !m.rw && decide (m.off < off + j.req.rowb) && decide (off < m.off + m.rows * m.rowb))

/-- Move the piece at `pos`: the state after it and the error bits, or a wait (R329). A piece for a node is
sent as a request of record `key`, and no error says so by `none` (R385). -/
def State.movePiece (s : State) (key : Nat) (j : CopyJob) : State × (Option Nat ⊕ (Nat × Nat × Nat)) :=
  let (c, d, x, n) := j.req.piece j.pos
  let k := ((s.team? j.team).map (fun t => t.cores.length)).getD 0
  let dstErr := if j.req.kind = 3 then 2 ^ c else errDst
  let level := levelOf .rlx j.req.scope
  if j.req.kind = 3 && (decide (k ≤ c) || s.slotReadOnly j c) then (s, .inl (some dstErr)) else
  let src : State × (Option (List Byte) ⊕ (Nat × Nat × Nat)) :=
    if j.req.kind = 2 then (s, .inl (some (fillBytes j.req.src (j.pos % 4) n))) else s.engRead j x n
  match src.2 with
  | .inr w => (src.1, .inr w)
  | .inl none => (src.1, .inl (some errSrc))
  | .inl (some b) =>
    let r := src.1.engLoc j d n true
    match r.2 with
    | .wait t c o => (r.1, .inr (t, c, o))
    | .bad => (r.1, .inl (some dstErr))
    | .ok l => match remotePiece level l with
      | some pa => (r.1.nodePut j.core key pa b, .inl none)
      | none => (r.1.writeLoc j.core level b l, .inl (some 0))

/-- Must record j wait for an earlier live record of its core (R323)? -/
def State.jobWaits (s : State) (key : Nat) (j : CopyJob) : Bool :=
  s.jobs.any (fun e => e.1 != key && e.2.core == j.core && e.2.accepted && decide (e.2.order < j.order) &&
    j.req.dstRanges.any (fun d => e.2.req.dstRanges.any (fun x => d.meets x) ||
      (match e.2.req.srcRange with
        | some x => d.meets x
        | none => false)) ||
    (e.1 != key && e.2.core == j.core && e.2.accepted && decide (e.2.order < j.order) &&
      (match j.req.srcRange with
        | some x => e.2.req.dstRanges.any (fun d => x.meets d)
        | none => false)))

/-- A piece has been counted: at the last byte the record's locks are released (R321). -/
def State.jobDone (s : State) (key n : Nat) (j : CopyJob) : State :=
  if j.cnt + n < j.req.total then { s with jobs := dput s.jobs key { j with cnt := j.cnt + n } }
  else { s with jobs := ddel s.jobs key, locks := s.locks.filter (fun e => e.2.job != key) }

/-- Does the count of a record take a Meridian position (R255, R266)? -/
def CopyJob.needsPos (j : CopyJob) : Bool := levelOf .rlx j.req.scope == 2

/-- Count n bytes of a record down, at its position where it takes one. -/
def State.countPiece (s : State) (key n e : Nat) (j : CopyJob) : State :=
  (s.countDown j.core j.req.scope j.req.bobj n e j.clock).jobDone key n { j with due := none, mer := 0 }

/-- The next thing a record does: count a piece that its node has performed, from the cycle after its completion on
(R385), or move the next piece. A piece performed here is counted at once, and where the count takes a Meridian position,
there (R331); until then the record counts nothing more. -/
def State.pieceStep (s : State) (key : Nat) (j : CopyJob) : State :=
  let count (s : State) (j : CopyJob) (n e : Nat) : State :=
    if j.needsPos then { s with jobs := dput s.jobs key { j with due := some (n, e), mer := 1 } }
    else s.countPiece key n e j
  if j.due.isSome then s
  else match j.ended.find? (fun x => decide (x.1 < s.cycle)) with
  | some (c, n, e) => count s { j with ended := j.ended.erase (c, n, e) } n e
  | none =>
    if j.req.total ≤ j.pos then s else
    let n := (j.req.piece j.pos).2.2.2
    let r := s.movePiece key j
    match r.2 with
    | .inr w => r.1.wantPieces [w]
    | .inl (some e) => count r.1 { j with pos := j.pos + n } n e
    | .inl none => { r.1 with jobs := dput r.1.jobs key { j with pos := j.pos + n } }

/-- PIECE_COUNTDOWN (R320, R329): the next piece of an accepted record is moved and counted down. -/
def execPieceCountdown (core key : Nat) (s : State) : Host.Outcome State Fault Refusal :=
  finish s (match dget s.jobs key with
  | none => s
  | some j => if j.core != core || !j.accepted || s.jobWaits key j then s else s.pieceStep key j)

/-! ### CPWAIT and YIELDC (R326, R327) -/

/-- The clock of the phase that an object last ended (R358). -/
def State.objClock (s : State) (obj : Loc) : BitVec 48 := ((dget s.objs obj.key).map (fun x => x.1)).getD 0

/-- Check the object of CPWAIT or YIELDC as a 16-byte atomic-order load (R326), and go on. -/
def State.withObj (s : State) (g : Group) (q : QFields) (f : State → LaneAcc → State) : State :=
  let r := s.checkLanes (agentOf s.cur.gid g) 16 16 kindObj (needLoad g) [(0, g.sreg q.sa.toNat)]
  match r.2 with
  | .ok (a :: _) => f r.1 a
  | .ok [] => r.1
  | .trap code einfo lanes faddr => r.1.trapHere (BitVec.ofNat 8 code) (w64n einfo) lanes faddr
  | .wait l => r.1.wantPieces l

/-- CPWAIT (R326). -/
def execCpwait (q : QFields) (s : State) : Host.Outcome State Fault Refusal :=
  finish s (s.guarded (.cpwait q) (fun g =>
    let scope := scopeOf (q.imm.toNat % 8)
    s.withObj g q (fun s a =>
      (s.addOpMer q.fsel (needsMeridian .acq scope) (.cpwait a scope false)).advance)))

/-- A slot, or a spill entry, that waits on operation `op` of a YIELDC no longer does (R327). -/
def Group.reactivate (g : Group) (op cycle : Nat) : Group :=
  let wake (x : Slot) : Slot :=
    if x.yieldc == some op then { x with yieldc := none, stamp := cycle, eligFrom := cycle + 1 } else x
  { g with slot0 := wake g.slot0, slot1 := wake g.slot1
           spill := g.spill.map (fun (e : SpillEntry) => if e.yieldc == some op then { e with yieldc := none } else e) }

/-- One read of the object that a CPWAIT or a YIELDC waits on: the wait completes where it returns REMAIN = 0; a read
that took a Meridian position, and found more, takes another. -/
def State.pollObj (s : State) (gid op : Nat) : State :=
  match (s.group? gid).bind (fun g => (dget g.ops op).map (fun o => (g, o))) with
  | none => s
  | some (g, o) =>
    if !g.canPerform op o then s else
    let poll (obj : LaneAcc) (scope : Scope) (done : State → State) : State :=
      let r := s.remain g.core scope obj.loc
      if r.2 = 0 then done (r.1.completeWait gid op scope (s.objClock obj.loc))
      else if o.mer = 3 then r.1.modGroup gid (fun g => { g with ops := dput g.ops op { o with mer := 1 } })
      else r.1
    match o.kind with
    | .cpwait obj scope _ => poll obj scope (fun s => s)
    | .yieldc obj scope => poll obj scope (fun s => s.modGroup gid (fun g => g.reactivate op s.cycle))
    | _ => s

/-- CPWAIT_COMPLETE (R326): a read of the object. -/
def execCpwaitComplete (gid op : Nat) (s : State) : Host.Outcome State Fault Refusal :=
  finish s (match (s.group? gid).bind (fun g => (dget g.ops op).map (fun (o : Op) => o.kind)) with
  | some (.cpwait ..) => s.pollObj gid op
  | _ => s)

/-- YIELDC (R327): the slot goes on at its continuation once the object is at zero. A slot whose
continuation is its join empties (R114), and only its flag waits. -/
def execYieldc (q : QFields) (s : State) : Host.Outcome State Fault Refusal :=
  finish s (s.guarded (.yieldc q) (fun g =>
    let scope := scopeOf (q.imm.toNat % 8)
    let at_ := g.sreg q.sb.toNat
    s.withObj g q (fun s a =>
      if fld at_ 2 0 ≠ 0 then s.trapHere 0x0A (w64n (einfoOf 0 0 kindCont)) 1 [(0, at_)]
      else
        let c := s.cur
        let n := s.nextId
        let ends := decide ((g.slot c.slot).join = at_)
        let s := s.addOpMer q.fsel (needsMeridian .acq scope) (if ends then .cpwait a scope true else .yieldc a scope)
        (s.advanceWith false true).modGroup c.gid (fun g =>
          let g := g.setPc c.slot at_
          if ends then g else g.setSlot c.slot { g.slot c.slot with yieldc := some n }))))

/-- YIELDC_REACTIVATE (R327): slot 0 or 1, or 2 + i for entry i of the spill stack. A slot that a matrix trap
took from its wait stands for the wait too. -/
def execYieldcReactivate (gid slot : Nat) (s : State) : Host.Outcome State Fault Refusal :=
  finish s (match s.group? gid with
  | none => s
  | some g =>
    let n := if slot < 2 then ((g.slot slot).yieldc).or g.strayYieldc
      else (g.spill[slot - 2]?).bind (fun e => e.yieldc)
    match n with
    | none => s
    | some op => match (dget g.ops op).map (fun (o : Op) => o.kind) with
      | some (.yieldc ..) => s.pollObj gid op
      | _ => s)

/-! ### PFB (R328) -/

/-- PFB: the engine takes the range; in a deterministic grid at the commit (R330). -/
def execPfb (q : QFields) (s : State) : Host.Outcome State Fault Refusal :=
  finish s (s.guarded (.pfb q) (fun g =>
    let r := s.checkObj (agentOf s.cur.gid g) .device (g.sreg q.sb.toNat) kindObj
    match r.2 with
    | .inr e => r.1.recStop e
    | .inl obj =>
      let s := r.1
      let k := s.nextId
      let s := s.addOp q.fsel (if g.det then .kick [] else .store .plain .group 0 [])
      let job : PfbJob := { core := g.core, gid := s.cur.gid, ctx := g.ctx, team := g.team,
                            base := (g.sreg q.sa.toNat) &&& ~~~0xFF#64, bytes := 4096 * q.imm.toNat, pos := 0,
                            bobj := obj, user := !g.supervisor, clock := g.lclk, held := g.det }
      let s := { s with pfbs := dput s.pfbs k job }
      let s := if g.det then s.modGroup s.cur.gid (fun g =>
          { g with brine := { g.brine with ops := g.brine.ops ++ [.pfb k] } }) else s
      s.advance))

/-- Bring one frame toward an L2 (R328): the state, and whether it was dropped. -/
def State.prefetch (s : State) (j : PfbJob) (va : Nat) : State × Bool :=
  if !canonical j.base || !canonical (w64n va) || inWindow va then (s, true)
  else
    let r := s.lookup j.core j.ctx va
    match r.2 with
    | .fail .. => (r.1, true)
    | .leaf l =>
      let pa := l.pa va
      if (({ r := true, user := j.user } : Need).refuse l).isSome || (r.1.lostNode j.core 1 (.phys pa)).isSome then
        (r.1, true)
      else if r.1.throughL2 pa then ((r.1.devBytes (dieOf j.core) 256 pa).1, false)
      else (r.1, false)

/-- PFB_FRAME_ARRIVE (R328): the next frame has arrived or been dropped, and is counted down. -/
def execPfbFrameArrive (core key : Nat) (s : State) : Host.Outcome State Fault Refusal :=
  finish s (match dget s.pfbs key with
  | none => s
  | some j =>
    if j.core != core || j.held then s else
    let r := s.prefetch j ((j.base + w64n j.pos).toNat)
    let s := r.1.countDown core .device j.bobj 256 (if r.2 then errSrc else 0) j.clock
    if j.pos + 256 < j.bytes then { s with pfbs := dput s.pfbs key { j with pos := j.pos + 256 } }
    else { s with pfbs := ddel s.pfbs key })

end Sys2Proof.Machine
end

