-- ==== Sys2Proof/Machine/Field.lean ====
section
/-!
DEFINITION. The field engine (R269 to R287): fields, domains, TXF and its pairs, totals, fences and
refusal records.
-/
namespace Sys2Proof.Machine

/-! ### Fields, cells and homes -/

def fieldKey (ctx n : Nat) : Nat := ctx * 4096 + n
def domKey (ctx d : Nat) : Nat := ctx * 1024 + d

/-- The field of a handle: bits [63:12] zero and registered (R270). -/
def State.field? (s : State) (ctx : Nat) (handle : Word64) : Option Field :=
  if handle.toNat < 4096 then dget s.fields (fieldKey ctx handle.toNat) else none

def Field.cellBytes (f : Field) : Nat := if f.wide then 8 else 4
/-- The first boundary index (R272). -/
def bnd0 : Nat := 2 ^ 32 - 256
/-- The virtual address of a cell, and its size (R269, R272). -/
def Field.va (f : Field) (i : Nat) : Word64 :=
  if bnd0 ≤ i then f.btab + w64n (16 * (i - bnd0)) else f.base + w64n (i * f.cellBytes)
def Field.size (f : Field) (i : Nat) : Nat := if bnd0 ≤ i then 16 else f.cellBytes

/-- Is it a cell of the field: an interior index below COUNT or a declared boundary cell (R279)? -/
def Field.isCell (f : Field) (i : Nat) : Bool :=
  if bnd0 ≤ i then (dget f.bnd (i - bnd0)).isSome else decide (i < f.count)

/-- The agent at which a cell is homed; on a device-scope field this device (R269, R272). -/
def Field.homeAgent (f : Field) (own i : Nat) : Nat :=
  if !f.cst then own
  else if bnd0 ≤ i then ((dget f.bnd (i - bnd0)).map (fun x => x.1)).getD own
  else f.first + (if f.block = 0 then 0 else i / f.block)

/-- The home slice of an address of device memory: die and slice. -/
def homeSlice (pa : Nat) : Nat × Nat :=
  (match region? pa with
    | some (.near d) | some (.far d) => d
    | _ => 4, sliceOf pa)

/-- The own block of a field: indices [lo, hi) (R269). -/
def Field.own (f : Field) (agent : Nat) : Nat × Nat :=
  if !f.cst then (0, f.count)
  else if agent < f.first || decide (f.first + f.ndev ≤ agent) then (0, 0)
  else
    let r := agent - f.first
    if f.block = 0 then (if r = 0 then (0, f.count) else (0, 0))
    else (min (r * f.block) f.count, min ((r + 1) * f.block) f.count)

/-- A page as R271 asks: V, R, W and CF, outside the window. -/
def State.fieldPage (s : State) (ctx : Nat) (va : Word64) : State × Option Nat :=
  if !canonical va || inWindow va.toNat then (s, none)
  else
    let r := s.lookup 0 ctx va.toNat
    match r.2 with
    | .leaf l => (r.1, if l.r && l.w && l.cf then some (l.pa va.toNat) else none)
    | .fail .. => (r.1, none)

/-- A signed number of n bytes at a home. -/
def State.cellRead (s : State) (n pa : Nat) : State × Int :=
  let r := s.devBytes 0 n pa
  (r.1, sgn (8 * n) (ofBytes r.2))
def State.cellWrite (s : State) (n pa : Nat) (x : Int) : State :=
  s.devPut 0 (toBytes n (BitVec.ofInt 128 x).toNat) pa

/-! ### Domains (R273, R274) -/

def State.modDomain (s : State) (ctx d : Nat) (f : Domain → Domain) : State :=
  match dget s.domains (domKey ctx d) with
  | none => s
  | some x => { s with domains := dput s.domains (domKey ctx d) (f x) }

/-- A cell of this device changes by x: so does its memory and the counter of its kind (R273). -/
def State.cellAdd (s : State) (ctx : Nat) (f : Field) (i pa : Nat) (x : Int) : State :=
  let r := s.cellRead (f.size i) pa
  (r.1.cellWrite (f.size i) pa (r.2 + x)).modDomain ctx f.domain (fun d =>
    if bnd0 ≤ i then { d with bd := d.bd + x } else { d with id := d.id + x })

/-! ### TXF (R278, R279) -/

/-- One executing lane at issue. -/
inductive TxfLane where
  | refused (reason : Nat)
  | plain (amount : Int)                       -- completes with no change
  | pair (src dst : Nat) (a : Nat) (swapped : Bool)
  deriving DecidableEq, Repr

/-- Steps 2 and 3 of R279 and the normalisation of a lane. -/
def txfLane (f : Option Field) (wide : Bool) (src dst : Nat) (amt : Int) : TxfLane :=
  match f with
  | none => .refused 5
  | some f =>
    if f.wide != wide then .refused 5
    else if !f.isCell src || !f.isCell dst then .refused 4
    else if src = dst || amt = 0 then .plain amt
    else if amt < 0 then .pair dst src amt.natAbs true
    else .pair src dst amt.natAbs false

/-- The cells of a lane that belong to this device (R279 step 1). -/
def Field.mine (f : Field) (agent : Nat) (l : List Nat) : List Nat :=
  l.filter (fun i => f.isCell i && f.homeAgent agent i == agent)

/-- Two faults of the cells of one lane (R232): one of step 3 comes before a range lock, and of two of one step the
lower address is named (R219, R322). -/
def laterFault (x y : LaneRes) : LaneRes :=
  match x, y with
  | .fault 0x09 _ u, .fault 0x09 _ v => if v < u then y else x
  | .fault 0x09 _ _, .fault .. => y
  | .fault .., .fault 0x09 _ _ => x
  | .fault _ _ u, .fault _ _ v => if v < u then y else x
  | _, _ => x

/-- Step 1 of R279 for one lane: its cells of this device, or a fault. -/
def State.checkCells (s : State) (a : Agent) (lane : Nat) (f : Field) : List Nat → State × (List (Nat × Nat) ⊕ LaneRes)
  | [] => (s, .inl [])
  | i :: t =>
    let r := s.checkLane a lane (f.va i) (f.size i) 1 kindTxf { w := true, user := false }
    match r.2 with
    | .ok (.phys pa) =>
      let u := r.1.checkCells a lane f t
      (u.1, match u.2 with
        | .inl l => .inl ((i, pa) :: l)
        | .inr e => .inr e)
    | .ok _ => (r.1, .inl [])
    | e =>
      let u := r.1.checkCells a lane f t
      (u.1, .inr (match u.2 with
        | .inl _ => e
        | .inr e' => laterFault e e'))

/-- Step 1 for all lanes: the cells of each that belong to this device, or its fault. -/
def State.checkTxf (s : State) (a : Agent) (f : Option Field) (cells : Nat → List Nat) (lanes : List Nat) :
    State × List (Nat × (List (Nat × Nat) ⊕ LaneRes)) :=
  lanes.foldl (fun acc i =>
    match f with
    | none => (acc.1, acc.2 ++ [(i, .inl [])])
    | some f =>
      let r := acc.1.checkCells a i f (f.mine s.fabid (cells i))
      (r.1, acc.2 ++ [(i, r.2)])) (s, [])

/-- The frames of the cells of a TXF's pairs, on whichever device they stand: its brine spans (R286). -/
def pairFrames (f : Field) (l : List Pair) : Nat :=
  (l.flatMap (fun p => [(p.srcHome, (f.va p.src).toNat / 256), (p.dstHome, (f.va p.dst).toNat / 256)])).eraseDups.length

/-- TXF (R278, R279). -/
def execTxf (x : FFields) (s : State) : Host.Outcome State Fault Refusal :=
  finish s (s.guarded (.txf x) (fun g =>
    let f11 := x.form == .f11
    let w := x.ty == 11#4
    let lanes := if f11 then [0] else lanesOf (g.exec s.cur.mask x.neg x.pred)
    let idx (r : BitVec 11) (i : Nat) : Nat :=
      (if f11 then (g.sreg r.toNat).toNat else (lane (g.vreg r.toNat) i).toNat) % 2 ^ 32
    let amt (i : Nat) : Int :=
      let n := if w then 64 else 32
      sgn n (if f11 then (g.sreg x.amt.toNat).toNat else g.vecVal w x.amt.toNat i)
    let handle := g.sreg x.handle.toNat
    let f := s.field? g.ctx handle
    let a := { agentOf s.cur.gid g with user := false }
    let own := s.fabid
    -- step 1: the lanes' cells of this device
    let chk := s.checkTxf a f (fun i => [idx x.fromR i, idx x.toR i]) lanes
    let faults := chk.2.map (fun e => match e.2 with
      | .inr r => (e.1, (0 : Word64), r)
      | .inl _ => (e.1, (0 : Word64), LaneRes.ok (.phys 0)))
    match settleLanes faults with
    | .trap code einfo m faddr => chk.1.trapHere (BitVec.ofNat 8 code) (w64n einfo) m faddr
    | .wait l => chk.1.wantPieces l
    | .ok _ =>
      let s := chk.1
      let n := s.nextId
      let limit := match x.mod.toNat with
        | 0 => (f.map (fun f => f.limit)).getD false
        | 1 => true
        | _ => false
      let res := lanes.map (fun i => (i, txfLane f w (idx x.fromR i) (idx x.toR i) (amt i)))
      let place (i c : Nat) : Option Nat := match chk.2.find? (fun e => e.1 == i) with
        | some (_, .inl l) => (l.find? (fun e => e.1 == c)).map (fun e => e.2)
        | _ => none
      let pairs : List Pair := res.filterMap (fun e => match e.2 with
        | .pair src dst m sw => some
            { gid := s.cur.gid, op := n, lane := e.1, ctx := g.ctx, fld := handle.toNat, src := src, dst := dst,
              spa := place e.1 src, dpa := place e.1 dst, amt := m, swapped := sw, limit := limit,
              tag := n % 2 ^ 32, agent := own,
              srcHome := (f.map (fun f => f.homeAgent own src)).getD own,
              dstHome := (f.map (fun f => f.homeAgent own dst)).getD own }
        | _ => none)
      let t : TxfState :=
        { wordAt := s.cur.addr, fld := handle.toNat, amtReg := x.amt.toNat, form11 := f11, wide := w,
          open_ := pairs.map (fun p => p.lane),
          writes := if limit then res.filterMap (fun e => match e.2 with
            | .plain m => some (e.1, w64 m)
            | _ => none) else [],
          refused := res.filterMap (fun e => match e.2 with
            | .refused r => some (e.1, r)
            | _ => none) }
      let remote := pairs.any (fun p => p.spa.isNone || p.dpa.isNone)
      -- in a deterministic group the positions fall at the commit (R286)
      let s := s.addOpMer false (remote && !g.det) (.txf t)
      let s := pairs.foldl (fun s p => { s with pairs := dput s.pairs s.nextId p, nextId := s.nextId + 1 }) s
      let s := if g.det then s.modGroup s.cur.gid (fun g =>
          { g with brine := { g.brine with ops := g.brine.ops ++ [.txf n],
                                           txfSpans := g.brine.txfSpans + ((f.map (fun f => pairFrames f pairs)).getD 0) } }) else s
      s.advance))

/-- The pairs of a TXF that join cells of two devices, or of another one. -/
def State.farPairs (s : State) (gid n : Nat) : List (Nat × Pair) :=
  s.pairs.filter (fun e => e.2.gid == gid && e.2.op == n && (e.2.spa.isNone || e.2.dpa.isNone) && e.2.agent == s.fabid)

/-! ### Applying a pair (R280) -/

def qMax (f : Field) : Int := if f.wide then 2 ^ 63 - 1 else 2 ^ 31 - 1
def qMin (f : Field) : Int := if f.wide then -2 ^ 63 else -2 ^ 31

/-- Is a boundary cell a sink; none for an interior cell. -/
def Field.sink? (f : Field) (i : Nat) : Option Bool :=
  if bnd0 ≤ i then some (((dget f.bnd (i - bnd0)).map (fun x => x.2)).getD false) else none

/-- What the from-cell may give (R280). -/
def Field.avail (f : Field) (i : Nat) (q : Int) : Int :=
  match f.sink? i with
  | none => if f.nonneg then max q 0 else q - qMin f
  | some false => q + 2 ^ 127
  | some true => 0

/-- What the to-cell may take. -/
def Field.room (f : Field) (i : Nat) (q : Int) : Int :=
  match f.sink? i with
  | none => qMax f - q
  | some true => 2 ^ 127 - 1 - q
  | some false => 0

/-- Does the direction of a pair refuse it in trap mode? -/
def Field.wrongWay (f : Field) (src dst : Nat) : Bool := f.sink? src == some true || f.sink? dst == some false

/-- The debit of a pair: the amount taken, or a reason of refusal. -/
def debitOf (limit wrong : Bool) (avail : Int) (a : Nat) : Nat ⊕ Nat :=
  if limit then .inl (min a avail.toNat)
  else if wrong then .inr 2
  else if (a : Int) > avail then .inr 1
  else .inl a

/-- The credit of d: the amount credited, the amount returned, and whether lane is refused with 3. -/
def creditOf (limit : Bool) (room : Int) (d : Nat) : Nat × Nat × Bool :=
  if limit then let c := min d room.toNat; (c, d - c, false)
  else if (d : Int) > room then (0, d, true) else (d, 0, false)

/-- A lane of a TXF is decided: its refusal, or the amount it moved (R280). -/
def State.laneDone (s : State) (p : Pair) (refused : Option Nat) (c : Nat) : State :=
  s.modGroup p.gid (fun g => match dget g.ops p.op with
    | none => g
    | some o => match o.kind with
      | .txf t =>
        let v : Int := if p.swapped then -(c : Int) else c
        let t := { t with open_ := t.open_.filter (fun i => i != p.lane)
                          refused := match refused with
                            | some r => t.refused ++ [(p.lane, r)]
                            | none => t.refused
                          writes := if p.limit && refused.isNone then t.writes ++ [(p.lane, w64 v)] else t.writes }
        { g with ops := dput g.ops p.op { o with kind := .txf t } }
      | _ => g)

/-- Hold a returned amount at the to-cell's home, counted in Id (R281). -/
def State.holdReturn (s : State) (p : Pair) (f : Field) (amt : Nat) : State :=
  if amt = 0 then s
  else { s.modDomain p.ctx f.domain (fun d => { d with id := d.id + amt }) with
         returns := dput s.returns s.nextId { p with amt := amt }, nextId := s.nextId + 1 }

/-- Apply a pair whose two cells are homed on this device, at one position (R280). -/
def State.applyPair (s : State) (p : Pair) : State :=
  match dget s.fields (fieldKey p.ctx p.fld), p.spa, p.dpa with
  | some f, some spa, some dpa =>
    let a := s.cellRead (f.size p.src) spa
    match debitOf p.limit (f.wrongWay p.src p.dst) (f.avail p.src a.2) p.amt with
    | .inr r => a.1.laneDone p (some r) 0
    | .inl d =>
      let s := a.1.cellAdd p.ctx f p.src spa (-(d : Int))
      let b := s.cellRead (f.size p.dst) dpa
      let (c, back, bad) := creditOf p.limit (f.room p.dst b.2) d
      let s := b.1.cellAdd p.ctx f p.dst dpa c
      (s.holdReturn p f back).laneDone p (if bad then some 3 else none) c
  | _, _, _ => s.laneDone p (some 5) 0

/-- Lanes of one TXF with the same homes apply in ascending order (R280). -/
def State.pairFirst (s : State) (p : Pair) : Bool :=
  !s.pairs.any (fun e => e.2.gid == p.gid && e.2.op == p.op && decide (e.2.lane < p.lane) &&
    (match e.2.spa, e.2.dpa, p.spa, p.dpa with
      | some a, some b, some c, some d => homeSlice a == homeSlice c && homeSlice b == homeSlice d
      | _, _, _, _ => false))

/-- Apply pair `key` and drop it. -/
def State.runPair (s : State) (key : Nat) (p : Pair) : State :=
  { s.applyPair p with pairs := ddel s.pairs key }

/-- TXF_PAIR_APPLY (R280): a pair whose cells are homed here; a deterministic group's waits for the
commit (R286). -/
def execTxfPairApply (pair : Nat) (s : State) : Host.Outcome State Fault Refusal :=
  finish s (match dget s.pairs pair with
  | none => s
  | some p => match (s.group? p.gid).bind (fun g => (dget g.ops p.op).map (fun o => (g, o))) with
    | none => s
    | some (g, o) =>
      if g.det || p.spa.isNone || p.dpa.isNone || !s.pairFirst p || !g.canPerform p.op { o with mer := 0 } then s
      else s.runPair pair p)

/-- A return takes its position: the amount goes back to the from-cell (R281). -/
def State.runReturn (s : State) (key : Nat) (p : Pair) : State :=
  match dget s.fields (fieldKey p.ctx p.fld), p.spa with
  | some f, some spa =>
    let s := s.modDomain p.ctx f.domain (fun d => { d with id := d.id - p.amt })
    { s.cellAdd p.ctx f p.src spa p.amt with returns := ddel s.returns key }
  | _, _ => s

/-- TXF_RETURN (R281). -/
def execTxfReturn (ret : Nat) (s : State) : Host.Outcome State Fault Refusal :=
  finish s (match dget s.returns ret with
  | none => s
  | some p => s.runReturn ret p)

/-! ### Completion (R282, R285) -/

/-- Write the amounts of a limit-mode TXF (R280, R112). -/
def Group.writeAmounts (g : Group) (o : Op) (t : TxfState) : Group :=
  t.writes.foldl (fun (g : Group) e =>
    if t.form11 then g.putReg o (.sca t.amtReg e.2)
    else g.putData o false (if t.wide then 8 else 4) t.amtReg e.1
      (e.2.toNat % (if t.wide then 2 ^ 64 else 2 ^ 32))) g

/-- A refusal record enters in issue order (R285). -/
def insertRefusal (r : Refusal285) : List Refusal285 → List Refusal285
  | [] => [r]
  | x :: t => if r.seq < x.seq then r :: x :: t else x :: insertRefusal r t

/-- A TXF all of whose lanes are decided completes. -/
def Group.finishTxf (g : Group) (n : Nat) : Group :=
  match dget g.ops n with
  | none => g
  | some o => match o.kind with
    | .txf t =>
      if !t.open_.isEmpty then g else
      let g := g.writeAmounts o t
      let g := if t.refused.isEmpty then g
        else { g with refusals := insertRefusal ⟨n, t.wordAt, o.flag.getD 0, t.refused⟩ g.refusals }
      g.completeOp n
    | _ => g

/-- TXF_COMPLETE (R282). -/
def execTxfComplete (gid op : Nat) (s : State) : Host.Outcome State Fault Refusal :=
  .next (s.modGroup gid (fun g =>
    if g.det && g.brine.holds op then g
    else match dget g.ops op with
      | some o => if g.canPerform op { o with mer := 0 } then g.finishTxf op else g
      | none => g))

/-! ### FTOT (R283) -/

/-- Id, Bd, the share of K and the pending returns of a domain on this device. -/
def State.totals (s : State) (ctx d : Nat) : Option Totals :=
  (dget s.domains (domKey ctx d)).map (fun x =>
    { id := x.id, bd := x.bd, k := x.k, damaged := x.damaged
      ret := s.returns.foldl (fun a e =>
        if e.2.ctx == ctx && ((dget s.fields (fieldKey ctx e.2.fld)).map (fun f => f.domain)) == some d then a + e.2.amt
        else a) 0 })

/-- The registers that FTOT writes: the sums of all answers, or NODOM. CHK is 0 while a counter is damaged (R409). -/
def ftotWords (l : Option (List Totals)) : List Word64 :=
  match l with
  | none => [0, 0, 0, 0, 0, 0, w64n 7]
  | some l =>
    let sum (f : Totals → Int) : Int := l.foldl (fun a x => a + f x) 0
    let i := sum (fun x => x.id)
    let b := sum (fun x => x.bd)
    let k := sum (fun x => x.k)
    let p := sum (fun x => x.ret)
    let w (x : Int) : List Word64 :=
      [BitVec.ofInt 64 x, BitVec.ofNat 64 ((BitVec.ofInt 128 x).toNat / 2 ^ 64)]
    w i ++ w b ++ w p ++ [w64n (boolBit (i + b == k && !l.any (fun x => x.damaged)) + 2 * boolBit (p == 0))]

/-- Write consecutive scalars for an instruction issued in cycle `at_` from a clause that started in cycle `start`. -/
def Group.putScalars (g : Group) (sup : Bool) (at_ start : Nat) : Nat → List Word64 → Group
  | _, [] => g
  | n, w :: t => (g.putSca sup n w at_ start).putScalars sup at_ start (n + 1) t

/-- An operation of the group completes with scalars written from `sb`. -/
def State.answer (s : State) (gid n sb : Nat) (l : List Word64) : State :=
  s.modGroup gid (fun g =>
    (match dget g.ops n with
     | some o => g.putScalars o.sup o.issueAt o.startAt sb l
     | none => g).completeOp n)

/-- Scalars that the instruction at `cur` writes from `sb` in its issue cycle. -/
def State.scalarsNow (s : State) (g : Group) (sb : Nat) (l : List Word64) : Group :=
  g.putScalars g.supervisor s.cycle (g.startOf s.cur.slot) sb l

/-- FTOT at its position, with the answers of the other devices. -/
def State.applyFtot (dom sb : Nat) (others : List Totals) (s : State) (gid n : Nat) : State :=
  match s.group? gid with
  | none => s
  | some g => s.answer gid n sb (ftotWords ((s.totals g.ctx dom).map (fun x => x :: others)))

/-- Perform an operation at once where the group's earlier accesses allow it (log 19). -/
def State.opNow (s : State) (mer : Bool) (kind : OpKind) (apply : State → Nat → Nat → State) : State :=
  let n := s.nextId
  let s := s.addOpMer false mer kind
  match (s.group? s.cur.gid).bind (fun g => (dget g.ops n).map (fun o => (g, o))) with
  | none => s
  | some (g, o) => if s.canAct s.cur.gid g n o then apply s s.cur.gid n else s

def State.domainCst (s : State) (ctx d : Nat) : Bool :=
  ((dget s.domains (domKey ctx d)).map (fun x => x.cst)).getD false

/-- FTOT (R283): at one position of the domain's order. -/
def execFtot (q : QFields) (s : State) : Host.Outcome State Fault Refusal :=
  finish s (s.guarded (.ftot q) (fun g =>
    let d := q.imm.toNat % 1024
    (s.opNow (s.domainCst g.ctx d) (.ftot d q.sb.toNat)
      (fun s gid n => s.applyFtot d q.sb.toNat [] gid n)).advance))

/-! ### FDEF and FBND (R275 to R277) -/

/-- The field that a descriptor of 64 bytes describes, if it keeps R269. -/
def parseField (b : List Byte) (own : Nat) : Option Field :=
  let n (o k : Nat) : Nat := recNum b o k
  let wide := n 12 1 % 2 == 1
  let dscope := n 14 1 / 4 % 8
  let cst := dscope == 4
  let f : Field :=
    { base := w64n (n 0 8), count := n 8 4, wide := wide, frac := n 13 1, cst := cst,
      limit := n 14 1 / 2 % 2 == 1, nonneg := n 14 1 % 2 == 1, domain := n 16 2, block := n 20 4,
      first := n 24 1, ndev := n 25 1, btab := w64n (n 48 8),
      share := if !cst || own = n 24 1 then sgn 128 (n 32 16) else 0, bnd := [] }
  let ok := n 12 1 / 2 == 0 && n 14 1 / 32 == 0 && n 15 1 == 0 && n 18 2 == 0 && n 26 6 == 0 && n 56 8 == 0 &&
    f.base.toNat % 64 == 0 && f.btab.toNat % 4096 == 0 && decide (1 ≤ f.count) && decide (f.count ≤ 2 ^ 32 - 256) &&
    decide (f.frac ≤ (if wide then 63 else 31)) && (dscope == 3 || cst) && decide (f.domain ≤ 1023) &&
    decide (1 ≤ f.ndev) && decide (f.ndev ≤ 32) && (cst || (f.block == 0 && f.ndev == 1)) &&
    (f.block == 0 || decide (f.count ≤ f.ndev * f.block))
  if ok then some f else none

/-- Check the pages of own cells from index i on, n of them; the sum of the cells, none where a page
fails R271. -/
def State.ownSum (s : State) (ctx : Nat) (f : Field) : Nat → Nat → State × Option Int
  | _, 0 => (s, some 0)
  | i, n + 1 =>
    let r := s.fieldPage ctx (f.va i)
    match r.2 with
    | none => (r.1, none)
    | some pa =>
      let c := r.1.cellRead f.cellBytes pa
      let t := c.1.ownSum ctx f (i + 1) n
      (t.1, t.2.map (fun x => x + c.2))

/-- The lowest free field number of a context, below 4,096. -/
def State.freeField (s : State) (ctx : Nat) : Option Nat :=
  (List.range 4096).find? (fun n => (dget s.fields (fieldKey ctx n)).isNone)

def failWord (st : Nat) : Word64 := w64n (2 ^ 63 + st)

/-- The boundary cells claimed on the constellation in the field of a number (R277). -/
def State.claimed (s : State) (key : Nat) : Dict (Nat × Bool) := (dget s.claims key).getD []

/-- FDEF at its position (R276): the word for s[SB]. A field of the constellation knows the boundary cells that other
devices have claimed before (R277, R279). -/
def State.register (s : State) (ctx : Nat) (desc : List Byte) : State × Word64 :=
  match parseField desc s.fabid with
  | none => (s, failWord 1)
  | some f => match s.freeField ctx with
    | none => (s, failWord 2)
    | some n =>
      let (lo, hi) := f.own s.fabid
      let r := s.ownSum ctx f lo (hi - lo)
      match r.2 with
      | none => (r.1, failWord 3)
      | some sum =>
        let old := dget r.1.domains (domKey ctx f.domain)
        let clash := match old with
          | some d => d.cst != f.cst || d.frac != f.frac || (f.cst && d.first != f.first)
          | none => false
        if clash then (r.1, failWord 4)
        else
          let d := old.getD { cst := f.cst, frac := f.frac, first := f.first, id := 0, bd := 0, k := 0, fields := 0 }
          let d := { d with id := d.id + sum, k := d.k + f.share, fields := d.fields + 1 }
          ({ r.1 with fields := dput r.1.fields (fieldKey ctx n)
                        { f with bnd := if f.cst then s.claimed (fieldKey ctx n) else [] }
                      domains := dput r.1.domains (domKey ctx f.domain) d }, w64n n)

def State.applyFdef (desc : List Byte) (sb : Nat) (s : State) (gid n : Nat) : State :=
  match s.group? gid with
  | none => s
  | some g =>
    let r := s.register g.ctx desc
    r.1.answer gid n sb [r.2]

/-- FDEF (R276): a descriptor that is not 64-byte aligned fails R269. -/
def execFdef (q : QFields) (s : State) : Host.Outcome State Fault Refusal :=
  finish s (s.guarded (.fdef q) (fun g =>
    let va := g.sreg q.sa.toNat
    let sb := q.sb.toNat
    if va.toNat % 64 ≠ 0 then
      (s.opNow false (.fdef [] sb) (fun s gid n => s.answer gid n sb [failWord 1])).advance
    else
      s.withLanes g 64 kindLoad (needLoad g) [(0, va)] (fun s accs =>
        match accs with
        | [] => s
        | a :: _ => s.afterBytes [(a.loc, 64, false)] (fun s =>
          let b := s.groupBytes g 0 64 a.loc
          let cst := recNum b.2 14 1 / 4 % 8 == 4 && (parseField b.2 s.fabid).isSome
          (b.1.opNow cst (.fdef b.2 sb) (fun s gid n => s.applyFdef b.2 sb gid n)).advance))))

/-- Is no transfer of a field here incomplete, and no return pending (R276)? With a bound, of the transfers of
lower numbers. -/
def State.fieldIdle (s : State) (ctx n : Nat) (bound : Option Nat) : Bool :=
  let old (k : Nat) : Bool := match bound with
    | some b => decide (k < b)
    | none => true
  let mine (p : Pair) : Bool := p.ctx == ctx && p.fld == n && (p.agent != s.fabid || old p.op)
  !s.pairs.any (fun e => mine e.2) && !s.returns.any (fun e => mine e.2) &&
    !s.groups.any (fun e => e.2.ctx == ctx && e.2.ops.any (fun o => match o.2.kind with
      | .txf t => t.fld == n && !t.open_.isEmpty && old o.1
      | _ => false))

/-- The sum of the balances of the boundary cells homed here. -/
def State.bndSum (s : State) (ctx own : Nat) (f : Field) : State × Int :=
  (f.bnd.filter (fun e => !f.cst || e.2.1 == own)).foldl (fun (acc : State × Int) e =>
    let r := acc.1.fieldPage ctx (f.va (bnd0 + e.1))
    match r.2 with
    | none => (r.1, acc.2)
    | some pa => let c := r.1.cellRead 16 pa; (c.1, acc.2 + c.2)) (s, 0)

/-- Free a field (R276); the boundary cells that this device declared in it are no longer claimed here. -/
def State.dropField (s : State) (ctx n : Nat) (f : Field) : State :=
  let (lo, hi) := f.own s.fabid
  let a := s.ownSum ctx f lo (hi - lo)
  let b := a.1.bndSum ctx s.fabid f
  let key := fieldKey ctx n
  let s := { b.1 with fields := ddel b.1.fields key
                      claims := if f.cst then dput b.1.claims key ((b.1.claimed key).filter (fun e => e.2.1 != b.1.fabid))
                                else b.1.claims }
  match dget s.domains (domKey ctx f.domain) with
  | none => s
  | some d =>
    if d.fields ≤ 1 then { s with domains := ddel s.domains (domKey ctx f.domain) }
    else
      let d : Domain :=
        { d with id := d.id - a.2.getD 0, bd := d.bd - b.2, k := d.k - f.share, fields := d.fields - 1 }
      { s with domains := dput s.domains (domKey ctx f.domain) d }

/-- fdef.drop, as far as it can go now. -/
def State.applyFdrop (handle : Word64) (sb : Nat) (s : State) (gid n : Nat) : State :=
  match s.group? gid with
  | none => s
  | some g => match s.field? g.ctx handle with
    | none => s.answer gid n sb [failWord 6]
    | some f =>
      if s.fieldIdle g.ctx handle.toNat none then (s.dropField g.ctx handle.toNat f).answer gid n sb [0] else s

/-- FDEF.DROP (R276). -/
def execFdefDrop (q : QFields) (s : State) : Host.Outcome State Fault Refusal :=
  finish s (s.guarded (.fdefDrop q) (fun g =>
    let h := g.sreg q.sa.toNat
    let sb := q.sb.toNat
    let cst := ((s.field? g.ctx h).map (fun f => f.cst)).getD false
    (s.opNow cst (.fdrop h sb) (fun s gid n => s.applyFdrop h sb gid n)).advance))

/-- The place of entry j of a field's BTAB; none where BTAB is zero or its page fails R271 (R277). -/
def State.bndCell (s : State) (ctx : Nat) (f : Field) (j : Nat) : State × Option Nat :=
  if f.btab = 0 then (s, none) else s.fieldPage ctx (f.va (bnd0 + j))

/-- FBND at its position, with the place of its entry (R277): the status, and the cell declared; on a field of the
constellation it is claimed there too. -/
def State.declare (s : State) (ctx : Nat) (handle : Word64) (j : Nat) (sink : Bool) (cell : Option Nat) : State × Nat :=
  match s.field? ctx handle with
  | none => (s, 1)
  | some f =>
    let key := fieldKey ctx handle.toNat
    if (dget f.bnd j).isSome then (s, 2)
    else match cell with
      | none => (s, 3)
      | some pa =>
        ({ s.devPut 0 (toBytes 16 0) pa with
            fields := dput s.fields key { f with bnd := dput f.bnd j (s.fabid, sink) }
            claims := if f.cst then dput s.claims key (dput (s.claimed key) j (s.fabid, sink)) else s.claims }, 0)

/-- The place that FBND declares, looked up. -/
def State.fbndCell (s : State) (ctx : Nat) (handle : Word64) (j : Nat) : State × Option Nat :=
  match s.field? ctx handle with
  | none => (s, none)
  | some f => s.bndCell ctx f j

/-- FBND at its position, with the place of its entry. -/
def State.applyFbnd (handle : Word64) (sb j : Nat) (sink : Bool) (cell : Option Nat) (s : State) (gid n : Nat) : State :=
  match s.group? gid with
  | none => s
  | some g =>
    let r := s.declare g.ctx handle j sink cell
    r.1.answer gid n sb [w64n r.2]

/-- FBND in the device order: the entry is looked up at its position too. -/
def State.fbndNow (handle : Word64) (sb j : Nat) (sink : Bool) (s : State) (gid n : Nat) : State :=
  match s.group? gid with
  | none => s
  | some g => let c := s.fbndCell g.ctx handle j; c.1.applyFbnd handle sb j sink c.2 gid n

/-- FBND (R277). -/
def execFbnd (q : QFields) (s : State) : Host.Outcome State Fault Refusal :=
  finish s (s.guarded (.fbnd q) (fun g =>
    let h := g.sreg q.sa.toNat
    let j := q.imm.toNat % 256
    let sink := q.imm.getLsbD 8
    let cst := ((s.field? g.ctx h).map (fun f => f.cst)).getD false
    (s.opNow cst (.fbnd h q.sb.toNat j sink none)
      (fun s gid n => s.fbndNow h q.sb.toNat j sink gid n)).advance))

/-! ### FFENCE and FSTAT (R284, R285) -/

/-- Is everything that FFENCE waits for done? -/
def State.fieldQuiet (s : State) (gid : Nat) (g : Group) : Bool :=
  !g.ops.any (fun e => match e.2.kind with
    | .txf _ | .fdef .. | .fdrop .. | .fbnd .. => true
    | _ => false) && !s.returns.any (fun e => e.2.gid == gid && e.2.agent == s.fabid)

/-- The refusal that an FFENCE raises: the oldest pending one, in user mode (R142). -/
def Group.toRaise (g : Group) : Option Refusal285 := if g.supervisor then none else g.refusals.head?

/-- FFENCE at the end of its wait: a pending refusal is raised at it in user mode (R142), else it acts
as fence.ar and its clause goes on. At a Meridian position its release has acted before (R266). -/
def State.endFfence (s : State) (gid k n : Nat) (scope : Scope) : State :=
  match s.group? gid with
  | none => s
  | some g =>
    let at3 := ((dget g.ops n).map (fun (o : Op) => o.mer)).getD 0 == 3
    let s := s.modGroup gid (fun g => (g.setSlot k { g.slot k with blocked := false }).completeOp n)
    match (g.slot k).running with
    | none => s
    | some r =>
      let c : Cur := { gid := gid, slot := k, addr := r.clause.addr + w64n (8 * (r.idx + 1)), mask := (g.slot k).mask,
                       idx := r.idx, header := r.clause.header, clauseAt := r.clause.addr }
      match g.toRaise with
      | some x => s.raiseRefusal gid x
          { slot := k, cycle := s.cycle, code := 0x0B, atClause := false, idx := r.idx, pc := r.clause.addr,
            done := false, arg := 0, einfo := x.lanes, etxf := x.wordAt, lanes := x.lanes, faddr := [] }
      | none =>
        let s := s.fenceDo g.core (if at3 then .acq else .acqRel) scope
        State.advance { s with cur := c }

/-- FFENCE (R284): its slot issues nothing until it completes. -/
def execFfence (q : QFields) (s : State) : Host.Outcome State Fault Refusal :=
  finish s (s.guarded (.ffence q) (fun g =>
    let scope := scopeOf (q.imm.toNat % 8)
    let n := s.nextId
    let k := s.cur.slot
    let s1 := (s.addOpMer false (scope == .constellation) (.ffence scope)).modGroup s.cur.gid (fun g =>
      g.setSlot k { g.slot k with blocked := true })
    if scope != .constellation && s.fieldQuiet s.cur.gid g && !g.earlier n then s1.endFfence s.cur.gid k n scope else s1))

/-- The registers that FSTAT writes (R285). -/
def fstatWords (r : Option Refusal285) (pending : Nat) : List Word64 :=
  match r with
  | none => [0, 0, 0, 0, 0, 0, 0, w64n pending]
  | some r =>
    let by_ (k : Nat) : Word64 := maskOfList ((r.reasons.filter (fun e => e.2 == k)).map (fun e => e.1))
    [r.wordAt, r.lanes, by_ 1, by_ 2, by_ 3, by_ 4, by_ 5, w64n pending]

/-- FSTAT (R285): it completes in this step. -/
def execFstat (q : QFields) (s : State) : Host.Outcome State Fault Refusal :=
  .next (s.guarded (.fstat q) (fun g =>
    let r := if g.supervisor && fld g.tr.ecause 7 0 == 0x0B then g.curRefusal else g.refusals.head?
    (s.setGroup s.cur.gid (s.scalarsNow g q.sb.toNat (fstatWords r g.refusals.length))).advance))

end Sys2Proof.Machine
end

