-- ==== Sys2Proof/Machine/Queue.lean ====
section
/-!
DEFINITION. The hardware queues (R333 to R337) and ENQ, DEQ and LAUNCH (R346 to R350).
-/
namespace Sys2Proof.Machine

def State.setQueue (s : State) (q : Nat) (x : Queue) : State := { s with queues := tset {} s.queues q x }
def State.modQueue (s : State) (q : Nat) (f : Queue → Queue) : State := s.setQueue q (f (s.queue q))

/-- Is the queue enabled with a legal MODE and SZ (R334)? -/
def Queue.on (q : Queue) : Bool := q.en && decide (q.mode.toNat ≤ 1) && decide (q.sz ≤ 12)
def Queue.slotAt (q : Queue) (serial : BitVec 48) : Nat := q.qbase + 64 * (serial.toNat % q.cap)

/-- The operation of a waiter. -/
def State.waiterOp (s : State) (w : Waiter) : Option (Group × Op) :=
  match w with
  | .item gid n | .room gid n => (s.group? gid).bind (fun g => (dget g.ops n).map (fun o => (g, o)))

/-- The entries that the waiters for room of a queue are still to append. -/
def State.roomWanted (s : State) (n : Nat) : Nat :=
  (s.queue n).waiters.foldl (fun a w => a + (match w, s.waiterOp w with
    | .room .., some (_, o) => (match o.kind with
      | .launch _ _ l => l.length
      | _ => 0)
    | _, _ => 0)) 0

/-- Append an entry (R333): the serial is TAIL. `clock` is the LCLK of the group that enqueues it. -/
def State.append (s : State) (n : Nat) (entry : List Byte) (clock : Option (BitVec 48)) : State :=
  let q := s.queue n
  (s.devPut 0 entry (q.slotAt q.tail)).setQueue n
    { q with tail := q.tail + 1
             freed := ddel q.freed (q.tail - BitVec.ofNat 48 q.cap).toNat
             clocks := match clock with
               | some c => dput q.clocks q.tail.toNat c
               | none => ddel q.clocks q.tail.toNat }

/-- SEED in force in a cycle: a host write takes effect after the latch of its cycle (R360). -/
def Queue.seedAt (q : Queue) (cycle : Nat) : Word64 :=
  match q.seedNew with
  | some (c, v) => if c < cycle then v else q.seed
  | none => q.seed

/-- A host write of SEED. -/
def Queue.writeSeed (q : Queue) (cycle : Nat) (v : Word64) : Queue :=
  { q with seed := q.seedAt cycle, seedNew := some (cycle, v) }

def statusFail (code : Nat) : Word64 := w64n (2 ^ 63 + code)

/-- The failure of a queue operation, in the order of the table of R346: `deq`, `launch` say which. -/
def queueFail (q : Queue) (ctx : Nat) (deq launch : Bool) : Option Nat :=
  if !q.on || q.ctx != ctx then some 2
  else if (deq && q.mode == 0) || (launch && q.mode == 1) then some 3
  else none

/-- A launch entry (R337, R349). -/
def launchEntry (recAt : Word64) (arg : Option Word64) : List Byte :=
  [0x01, if arg.isSome then 0x01 else 0x00] ++ List.replicate 6 0 ++ toBytes 8 recAt.toNat ++
    toBytes 8 (arg.getD 0).toNat ++ List.replicate 40 0

/-- An operation completes with a status in s[sb], and takes a clock (R358). -/
def State.queueDone (s : State) (gid n : Nat) (sb : Option Nat) (st : Word64) (clock : BitVec 48) : State :=
  (s.modGroup gid (fun g =>
    match sb with
    | some r => g.opSca n r st
    | none => g)).modGroup gid (fun g => (g.completeOp n).takeClock clock)

def State.setOp (s : State) (gid n : Nat) (k : OpKind) : State :=
  s.modGroup gid (fun g => match dget g.ops n with
    | some o => { g with ops := dput g.ops n { o with kind := k } }
    | none => g)

/-- The first waiting append takes a free slot (R347); the LCLK of the DEQ that freed it counts (R358). -/
def State.admitRoom (s : State) (queue : Nat) : State :=
  let q := s.queue queue
  match q.waiters with
  | .room gid n :: rest =>
    if !q.on || decide (q.cap ≤ q.count) then s else
    match s.waiterOp (.room gid n) with
    | none => s.setQueue queue { q with waiters := rest }
    | some (g, o) => match o.kind with
      | .launch _ sb (e :: t) =>
        let s := s.append queue e (some (g.opClock n))
        let clock := (dget q.freed (q.tail - BitVec.ofNat 48 q.cap).toNat).getD 0
        if t.isEmpty then
          (s.modQueue queue (fun q => { q with waiters := rest })).queueDone gid n sb (q.tail.zeroExtend 64) clock
        else s.setOp gid n (.launch queue sb t)
      | _ => s.setQueue queue { q with waiters := rest }
  | _ => s

/-- The waiting appends take the slots that are free, before anything of a later position looks at the queue. -/
def State.admitRooms (s : State) (queue : Nat) : State :=
  (List.range (s.roomWanted queue)).foldl (fun s _ => s.admitRoom queue) s

/-- No slot is free for a new entry, or earlier appends still wait for one (R347). -/
def State.queueFull (s : State) (n : Nat) : Bool :=
  decide ((s.queue n).cap ≤ (s.queue n).count) || s.roomWanted n != 0

/-- Append the entries of an operation that has its position; it waits where no slot is free, or
under NOWAIT takes status 1. -/
def State.appendOrWait (s : State) (gid n queue : Nat) (sb : Option Nat) (nowait : Bool) (clock : BitVec 48) :
    List (List Byte) → State
  | [] => s.modGroup gid (fun g => g.completeOp n)
  | e :: t =>
    if !s.queueFull queue then
      let serial := (s.queue queue).tail
      let s := s.append queue e (some clock)
      match sb with
      | some _ => s.queueDone gid n sb (serial.zeroExtend 64) 0
      | none => s.appendOrWait gid n queue sb nowait clock t
    else if nowait then s.queueDone gid n sb (statusFail 1) 0
    else (s.setOp gid n (.launch queue sb (e :: t))).modQueue queue (fun q =>
      { q with waiters := q.waiters ++ [.room gid n] })

/-- ENQ at its position (R347). An entry of a wrong KIND fails with 4, whether or not there is room for it (DESIGN CHOICE,
log 113). -/
def State.applyEnq (queue sb : Nat) (nowait : Bool) (src : Loc) (s : State) (gid n : Nat) : State :=
  match s.group? gid with
  | none => s
  | some g =>
    let s := s.fenceRel g.core .device
    let r := s.groupBytes g 0 64 src
    let q := r.1.queue queue
    let kind := recNum r.2 0 1
    match queueFail q g.ctx false false with
    | some c => r.1.queueDone gid n (some sb) (statusFail c) 0
    | none =>
      if q.mode == 0 && kind != 1 && kind != 2 then r.1.queueDone gid n (some sb) (statusFail 4) 0
      else (r.1.admitRooms queue).appendOrWait gid n queue (some sb) nowait (g.opClock n) [r.2]

/-- Take the entry at HEAD for operation n of a group (R348): its serial, its bytes and its LCLK. -/
def State.takeEntry (s : State) (g : Group) (n queue : Nat) : State × BitVec 48 × List Byte × BitVec 48 :=
  let q := s.queue queue
  let r := s.devBytes 0 64 (q.slotAt q.head)
  (r.1.setQueue queue { q with head := q.head + 1, freed := dput q.freed q.head.toNat (g.opClock n)
                               clocks := ddel q.clocks q.head.toNat },
    q.head, r.2, (dget q.clocks q.head.toNat).getD 0)

/-- A DEQ writes the entry it has taken: an acquire at device scope (R350). -/
def State.giveEntry (s : State) (gid n sb : Nat) (dst : LaneAcc) (serial : BitVec 48) (bytes : List Byte)
    (clock : BitVec 48) : State :=
  match s.group? gid with
  | none => s
  | some g =>
    ((s.fenceAcq g.core .device).writeLoc g.core 0 bytes dst.loc).queueDone gid n (some sb) (serial.zeroExtend 64) clock

/-- Give the entry at HEAD to a DEQ (R348). `wait` says that it waited. -/
def State.deliver (s : State) (gid n queue sb : Nat) (dst : LaneAcc) (wait : Bool) : State :=
  match s.group? gid with
  | none => s
  | some g =>
    let r := s.takeEntry g n queue
    r.1.giveEntry gid n sb dst r.2.1 r.2.2.1 (if wait then r.2.2.2 else 0)

/-- The entry at HEAD goes to the first waiter, which keeps it until it is written (R348). -/
def State.assignEntry (s : State) (queue : Nat) : State :=
  match (s.queue queue).waiters with
  | .item gid n :: rest =>
    if (s.queue queue).count == 0 then s else
    match s.waiterOp (.item gid n) with
    | some (g, o) => match o.kind with
      | .deq q sb dst none =>
        let r := (s.modQueue queue (fun q => { q with waiters := rest })).takeEntry g n queue
        r.1.setOp gid n (.deq q sb dst (some r.2))
      | _ => s.modQueue queue (fun q => { q with waiters := rest })
    | none => s.modQueue queue (fun q => { q with waiters := rest })
  | _ => s

/-- Entries at hand go to the waiters before a later DEQ is looked at. -/
def State.feed (s : State) (queue : Nat) : State :=
  (List.range (s.queue queue).waiters.length).foldl (fun s _ => s.assignEntry queue) s

/-- DEQ at its position: the entries that belong to earlier waiters are theirs, and what waits for room has what there
is. -/
def State.applyDeq (queue sb : Nat) (nowait : Bool) (dst : LaneAcc) (s : State) (gid n : Nat) : State :=
  match s.group? gid with
  | none => s
  | some g =>
    match queueFail (s.queue queue) g.ctx true false with
    | some c => s.queueDone gid n (some sb) (statusFail c) 0
    | none =>
      let s := (s.feed queue).admitRooms queue
      if (s.queue queue).count != 0 then s.deliver gid n queue sb dst false
      else if nowait then s.queueDone gid n (some sb) (statusFail 1) 0
      else (s.setOp gid n (.deq queue sb dst none)).modQueue queue (fun q =>
        { q with waiters := q.waiters ++ [.item gid n] })

/-- LAUNCH, form 11, at its position (R349). -/
def State.applyLaunch (queue sb : Nat) (nowait : Bool) (recAt : Word64) (s : State) (gid n : Nat) : State :=
  match s.group? gid with
  | none => s
  | some g =>
    let s := s.fenceRel g.core .device
    match queueFail (s.queue queue) g.ctx false true with
    | some c => s.queueDone gid n (some sb) (statusFail c) 0
    | none => (s.admitRooms queue).appendOrWait gid n queue (some sb) nowait (g.opClock n) [launchEntry recAt none]

/-- A code in FADDR of lane 0 (R349). -/
def State.laneZero (s : State) (gid : Nat) (code : Nat) : State :=
  s.modGroup gid (fun g => { g with faddr := tset 0 g.faddr 0 (w64n code) })

/-- LAUNCH, form 00, at its position. -/
def State.applyLaunchLanes (queue : Nat) (recAt : Word64) (args : List Word64) (s : State) (gid n : Nat) : State :=
  match s.group? gid with
  | none => s
  | some g =>
    let s := s.fenceRel g.core .device
    match queueFail (s.queue queue) g.ctx false true with
    | some c => (s.laneZero gid c).modGroup gid (fun g => g.completeOp n)
    | none => (s.admitRooms queue).appendOrWait gid n queue none false (g.opClock n) (args.map (fun a => launchEntry recAt (some a)))

/-- ENQ (R346, R347). -/
def execEnq (q : QFields) (s : State) : Host.Outcome State Fault Refusal :=
  finish s (s.guarded (.enq q) (fun g =>
    let nw := q.imm.getLsbD 0
    s.withLanes g 64 kindLoad (needLoad g) [(0, g.sreg q.sa.toNat)] (fun s accs => match accs with
      | [] => s
      | a :: _ => (s.afterNow q.fsel false (.enq q.obj.toNat q.sb.toNat nw a.loc)
          (fun s gid n => s.applyEnq q.obj.toNat q.sb.toNat nw a.loc gid n)).advance)))

/-- DEQ (R346, R348). -/
def execDeq (q : QFields) (s : State) : Host.Outcome State Fault Refusal :=
  finish s (s.guarded (.deq q) (fun g =>
    let nw := q.imm.getLsbD 0
    s.withLanes g 64 kindStore (needStore g) [(0, g.sreg q.sa.toNat)] (fun s accs => match accs with
      | [] => s
      | a :: _ => (s.afterNow q.fsel false (.deq q.obj.toNat q.sb.toNat nw a)
          (fun s gid n => s.applyDeq q.obj.toNat q.sb.toNat nw a gid n)).advance)))

/-- The operand of LAUNCH: a 64-byte load, and 128-byte aligned (R346). -/
def State.withRecord (s : State) (g : Group) (va : Word64) (f : State → State) : State :=
  let r := s.checkLanes (agentOf s.cur.gid g) 64 128 kindLoad (needLoad g) [(0, va)]
  match r.2 with
  | .ok _ => f r.1
  | .trap code einfo lanes faddr => r.1.trapHere (BitVec.ofNat 8 code) (w64n einfo) lanes faddr
  | .wait pieces => r.1.wantPieces pieces

/-- LAUNCH, form 11 (R349). -/
def execLaunch (q : QFields) (s : State) : Host.Outcome State Fault Refusal :=
  finish s (s.guarded (.launch q) (fun g =>
    let nw := q.imm.getLsbD 0
    let va := g.sreg q.sa.toNat
    s.withRecord g va (fun s =>
      (s.afterNow q.fsel false (.launch q.obj.toNat q.sb.toNat nw va)
        (fun s gid n => s.applyLaunch q.obj.toNat q.sb.toNat nw va gid n)).advance)))

/-- LAUNCH, form 00 (R349): with an empty exec it appends nothing and completes in the next cycle. -/
def execLaunchPerLane (q : QFields) (s : State) : Host.Outcome State Fault Refusal :=
  finish s (s.guarded (.launchPerLane q) (fun g =>
    let va := g.sreg q.sa.toNat
    let lanes := lanesOf (g.exec s.cur.mask q.neg q.pred)
    let args := lanes.map (fun i => w64n (g.vecVal true q.sb.toNat i))
    if lanes.isEmpty then (s.addOp q.fsel .idle).advance
    else s.withRecord g va (fun s =>
      (s.afterNow q.fsel false (.launchLanes q.obj.toNat va args)
        (fun s gid n => s.applyLaunchLanes q.obj.toNat va args gid n)).advance)))

/-! ### Steps -/

/-- An entry that a DEQ of the queue has taken and not yet written, with the group and operation; the teams that are
saved wait for their restore (R147). -/
def State.gotEntry (s : State) (queue : Nat) :
    Option (Nat × Nat × Nat × LaneAcc × BitVec 48 × List Byte × BitVec 48) :=
  s.groups.findSome? (fun (e : Nat × Group) =>
    if s.isSaved e.2.team then none
    else e.2.ops.findSome? (fun o => match o.2.kind with
      | .deq q sb dst (some x) => if q = queue then some (e.1, o.1, sb, dst, x) else none
      | _ => none))

/-- DEQ_WAITER_COMPLETE (R348): the first waiter takes the entry at HEAD; one whose team is saved keeps it, and writes
it after the restore (R147). -/
def execDeqWaiterComplete (queue : Nat) (s : State) : Host.Outcome State Fault Refusal :=
  finish s (
    let q := s.queue queue
    if (s.ctx q.ctx).terminate.isSome then s else
    let late (s : State) : State := match s.gotEntry queue with
      | some (gid, n, sb, dst, serial, bytes, clock) => s.giveEntry gid n sb dst serial bytes clock
      | none => s
    match q.waiters with
    | .item gid n :: rest =>
      if !q.on || q.count == 0 then late s
      else if ((s.group? gid).map (fun g => s.isSaved g.team)).getD false then s.assignEntry queue
      else
        let s := s.setQueue queue { q with waiters := rest }
        match (s.group? gid).bind (fun g => dget g.ops n) with
        | some o => match o.kind with
          | .deq _ sb dst _ => s.deliver gid n queue sb dst true
          | _ => s
        | none => s
    | _ => late s)

/-- ENQ_ROOM_COMPLETE (R347). -/
def execEnqRoomComplete (queue : Nat) (s : State) : Host.Outcome State Fault Refusal := 
  finish s (if (s.ctx (s.queue queue).ctx).terminate.isSome then s else s.admitRoom queue)

/-- ENQUEUE_PORT_WRITE (R336, R398): 64 bytes are appended, any other write, or one to a full or disabled
queue, is dropped and counted. -/
def execEnqueuePortWrite (queue : Nat) (bytes : List Byte) (s : State) : Host.Outcome State Fault Refusal :=
  s.afterHost (.enqueuePortWrite queue bytes) (fun s => finish s (
    if 1024 ≤ queue then s else
    let s := s.admitRooms queue
    let q := s.queue queue
    if bytes.length ≠ 64 || !q.on || s.queueFull queue then
      s.setQueue queue { q with drop := if q.drop = 0xFFFF then 0xFFFF else q.drop + 1 }
    else s.append queue bytes none))

/-- What a disable does to a waiter (R335). -/
def State.failWaiter (s : State) (w : Waiter) : State :=
  match w with
  | .item gid n => match (s.group? gid).bind (fun g => dget g.ops n) with
    | some o => match o.kind with
      | .deq _ sb _ none => s.queueDone gid n (some sb) (statusFail 2) 0
      | _ => s
    | none => s
  | .room gid n => match (s.group? gid).bind (fun g => dget g.ops n) with
    | some o => match o.kind with
      | .launch _ (some sb) _ => s.queueDone gid n (some sb) (statusFail 2) 0
      | .launch _ none _ => (s.laneZero gid 2).modGroup gid (fun g => g.completeOp n)
      | _ => s
    | none => s

/-- Disable a queue (R335): the waiters for which there is an entry or a slot have it, the others fail, and a grid
that waits in stage 2 is abandoned. -/
def State.disableQueue (s : State) (n : Nat) : State :=
  if !(s.queue n).en then s else
  let s := s.feed n
  let s := s.admitRooms n
  let q := s.queue n
  let s := s.setQueue n { q with en := false, waiters := [] }
  let s := q.waiters.foldl (fun s w => s.failWaiter w) s
  { s with grids := s.grids.filter (fun e => !(e.2.queue == n && e.2.waiting)) }

/-- A write of the control word of a queue (R334). -/
def Queue.control (q : Queue) (v : Word64) : Queue :=
  let q := { q with vec := fld v 47 37 }
  if q.en then q
  else { q with mode := v.extractLsb' 61 2, ctx := fld v 57 52, sz := fld v 51 48 }

/-- QUEUE_ENABLE (R334, R335, R362): an accepted write starts an empty queue with its running hash at zero, of an
enabled queue too; a write is ignored while a grid dispatched under the earlier enabling is not chained (log 93). -/
def execQueueEnable (queue : Nat) (value : Word64) (s : State) : Host.Outcome State Fault Refusal :=
  .next (
    if 1024 ≤ queue || !value.getLsbD 63 then s else
    let q := s.queue queue
    if s.grids.any (fun e => e.2.queue == queue && !e.2.waiting) then s
    else
      let s := { s with grids := s.grids.filter (fun e => e.2.queue != queue) }
      s.setQueue queue { q.control value with en := true, head := 0, tail := 0, hash := 0, lastSerial := 0, clocks := [],
                                              freed := [] })

/-- QUEUE_DISABLE (R335). -/
def execQueueDisable (queue : Nat) (value : Word64) (s : State) : Host.Outcome State Fault Refusal :=
  finish s (
    if 1024 ≤ queue || value.getLsbD 63 then s else
    let s := s.modQueue queue (fun q => q.control value)
    s.disableQueue queue)

end Sys2Proof.Machine
end

