-- ==== Sys2Proof/Machine/Special.lean ====
section
/-!
DEFINITION. Special functions (R198, R199). FRCP and FSQRT are rounded exactly. FRSQ, FEXP2, FLOG2,
FSIN and FCOS return a value within a bound: the model takes the free value of Config where it meets
the bound, and the correctly rounded value otherwise (log 10). The bound is tested against values
computed here with error below 2^-150.
-/
namespace Sys2Proof.Machine

/-! ### Square roots -/

/-- floor(sqrt n), n < 2^(2 · bits). -/
def isqrt (n : Nat) : Nat → Nat
  | 0 => 0
  | b + 1 =>
    let r := isqrt n b
    -- `r` is the root of n / 4^(remaining), refined from the top by the caller's scale
    let r2 := 2 * r
    if (r2 + 1) * (r2 + 1) ≤ n / 4 ^ (96 - (b + 1)) then r2 + 1 else r2

/-- A fraction that lies in the same rounding interval as the square root of x > 0 (the root itself
where it is a multiple of 2^-s): 96 bits of the root are exact. -/
def sqrtFrac (x : Frac) : Frac :=
  -- scale x by 4^s so that the root has about 90 bits
  let e := floorLog2 x
  let s : Int := 90 - Int.fdiv e 2
  let y := x.mul (Frac.ofPow2 1 (2 * s))
  let n := y.n / y.d
  let r := isqrt n 96
  if r * r = n && y.n % y.d = 0 then Frac.ofPow2 r (-s) else Frac.ofPow2 (2 * r + 1) (-s - 1)

/-! ### Fixed point with 192 fraction bits -/

def fxOne : Int := 2 ^ 192
/-- ln 2 × 2^192. -/
def fxLn2 : Int := 0xb17217f7d1cf79abc9e3b39803f2f6af40f343267298b62d
def fxMul (a b : Int) : Int := Int.fdiv (a * b) fxOne
def fxOfFrac (x : SFrac) : Int := Int.fdiv (x.num * fxOne) x.mag.d
def fxToFrac (a : Int) : SFrac := SFrac.ofIntDiv a (2 ^ 192)
/-- π × 2^320. -/
def pi320 : Int := 0x3243f6a8885a308d313198a2e03707344a4093822299f31d0082efa98ec4e6c89452821e638d01377

/-- Σ of a Taylor series: `term k t` gives the k-th term from the one before. -/
def fxSeries (term : Nat → Int → Int) : Nat → Nat → Int → Int → Int
  | 0, _, _, acc => acc
  | n + 1, k, t, acc => fxSeries term n (k + 1) (term k t) (acc + term k t)

/-- 2^f for 0 ≤ f < 1, both with 192 fraction bits. -/
def fxExp2 (f : Int) : Int :=
  let x := fxMul f fxLn2
  fxSeries (fun k t => Int.fdiv (fxMul t x) (k : Int)) 48 1 fxOne fxOne

/-- log2 m for 1 ≤ m < 2: 2 atanh((m - 1) / (m + 1)) / ln 2. -/
def fxLog2 (m : Int) : Int :=
  let z := Int.fdiv ((m - fxOne) * fxOne) (m + fxOne)
  let z2 := fxMul z z
  let go := (List.range 64).foldl (fun (a : Int × Int) k =>
    (a.1 + Int.fdiv a.2 ((2 * k + 1 : Nat) : Int), fxMul a.2 z2)) (0, z)
  Int.fdiv (2 * go.1 * fxOne) fxLn2

/-- The angle a reduced to [-π, π], with 192 fraction bits. -/
def fxReduce (a : SFrac) : Int :=
  let x := Int.fdiv (a.num * 2 ^ 320) a.mag.d
  let k := Int.fdiv (x + pi320) (2 * pi320)
  Int.fdiv (x - k * (2 * pi320)) (2 ^ 128)

def fxSin (r : Int) : Int :=
  let r2 := fxMul r r
  fxSeries (fun k t => - Int.fdiv (fxMul t r2) ((2 * k) * (2 * k + 1) : Int)) 40 1 r r
def fxCos (r : Int) : Int :=
  let r2 := fxMul r r
  fxSeries (fun k t => - Int.fdiv (fxMul t r2) ((2 * k - 1) * (2 * k) : Int)) 40 1 fxOne fxOne

/-! ### Accepting a free value -/

/-- ulp of R198. -/
def ulpOf (x : Frac) : Frac := Frac.ofPow2 1 (max (floorLog2 x) (-126) - 23)

def Frac.sub (x y : Frac) : Frac := ⟨x.n * y.d - y.n * x.d, x.d * y.d⟩
/-- A bound less its 2^-40th part, which covers the error of a reference value computed with 192 fraction bits. -/
def shy (b : Frac) : Frac := b.sub (b.mul (Frac.ofPow2 1 (-40)))
/-- |x - y|. -/
def SFrac.dist (x y : SFrac) : Frac := (x.add y.negate).mag

/-- The code to return: `raw` where it is a finite number within `bound` of `ref`, else `ref`
rounded to nearest; the bits are those of the reference, inexact. -/
def acceptWithin (fzo : Bool) (raw : Word32) (ref : SFrac) (bound : Frac) : Res :=
  let r := fmtF32.round false { rndRN with fzo := false } ref
  let ok := r.flags &&& bitOF = 0 && (match fmtF32.decode raw.toNat with
    | .num x => (SFrac.dist x ref).le bound
    | _ => false)
  let code := if ok then raw.toNat else r.code
  let fl := r.flags ||| bitNX
  if fzo && fmtF32.isSubnormal code then
    ⟨fmtF32.withSign (decide (fmtF32.signBit ≤ code)) 0, fl ||| bitUF⟩
  else ⟨code, fl⟩

/-- An exact result, rounded to nearest. -/
def exactRes (fzo : Bool) (x : SFrac) : Res := fmtF32.round false { rndRN with fzo := fzo } x

/-- 2^n exactly? The exponent of a power of two. -/
def pow2Exp (x : Frac) : Option Int :=
  let e := floorLog2 x
  if Frac.le x (Frac.ofPow2 1 e) then some e else none

/-! ### The seven functions on a code whose subnormals are already flushed under FZI

Where the closing sentences of R199 do not fit its table, the table is followed: a negative finite source of FRSQ or
FLOG2 sets NV alone, a zero source of FRCP, FRSQ or FLOG2 sets DZ alone (DESIGN CHOICE, log 106). -/

def nanRes (nv : Bool) : Res := ⟨fmtF32.nanCode, if nv then bitNV else 0⟩
def infRes (neg : Bool) : Res := ⟨fmtF32.withSign neg fmtF32.infCode, 0⟩
def zeroRes (neg : Bool) : Res := ⟨fmtF32.withSign neg 0, 0⟩
def oneRes : Res := ⟨0x3F800000, 0⟩

/-- FRCP. A subnormal a above 2^-128 in magnitude has 1/a in range, and it is rounded without overflow, as R198
has it and R199 leaves open (DESIGN CHOICE, log 87). -/
def frcpRes (rnd : Rnd) (c : Nat) : Res :=
  match fmtF32.decode c with
  | .nan sg => nanRes sg
  | .inf n => zeroRes n
  | .num x =>
    if x.mag.isZero then ⟨fmtF32.withSign x.neg fmtF32.infCode, bitDZ⟩
    else fmtF32.round false rnd ⟨x.neg, x.mag.inv⟩

def fsqrtRes (rnd : Rnd) (c : Nat) : Res :=
  match fmtF32.decode c with
  | .nan sg => nanRes sg
  | .inf n => if n then nanRes true else infRes false
  | .num x =>
    if x.mag.isZero then zeroRes x.neg
    else if x.neg then nanRes true
    else fmtF32.round false rnd ⟨false, sqrtFrac x.mag⟩

def frsqRes (fzo : Bool) (c : Nat) : Res :=
  match fmtF32.decode c with
  | .nan sg => nanRes sg
  | .inf n => if n then nanRes true else zeroRes false
  | .num x =>
    if x.mag.isZero then ⟨fmtF32.withSign x.neg fmtF32.infCode, bitDZ⟩
    else if x.neg then nanRes true
    else match pow2Exp x.mag with
      | some e =>
        if e % 2 = 0 then exactRes fzo ⟨false, Frac.ofPow2 1 (-(e / 2))⟩
        else
          let r := sqrtFrac x.mag.inv
          acceptWithin fzo (Config.frsq (w32n c)) ⟨false, r⟩ (shy (ulpOf r))
      | none =>
        let r := sqrtFrac x.mag.inv
        acceptWithin fzo (Config.frsq (w32n c)) ⟨false, r⟩ (shy (ulpOf r))

/-- A value as an integer. -/
def SFrac.int? (x : SFrac) : Option Int :=
  if x.mag.n % x.mag.d = 0 then some (if x.neg then -((x.mag.n / x.mag.d : Nat) : Int)
    else ((x.mag.n / x.mag.d : Nat) : Int)) else none

/-- FEXP2. R198 gives the overflow of a ≥ 128 no rounding mode: it is +∞ with OF and NX, as under RN (DESIGN
CHOICE, log 88). -/
def fexp2Res (fzo : Bool) (c : Nat) : Res :=
  match fmtF32.decode c with
  | .nan sg => nanRes sg
  | .inf n => if n then zeroRes false else infRes false
  | .num x =>
    if x.mag.isZero then oneRes
    else if Frac.le ⟨128, 1⟩ x.mag && !x.neg then ⟨fmtF32.infCode, bitOF ||| bitNX⟩
    else if Frac.le ⟨400, 1⟩ x.mag then
      -- 2^a below 2^-400: within 2 ulp of zero
      acceptWithin fzo (Config.fexp2 (w32n c)) ⟨false, Frac.ofPow2 1 (-400)⟩ (Frac.ofPow2 1 (-148))
    else match x.int? with
      | some n =>
        if -149 ≤ n then exactRes fzo ⟨false, Frac.ofPow2 1 n⟩
        else acceptWithin fzo (Config.fexp2 (w32n c)) ⟨false, Frac.ofPow2 1 n⟩ (Frac.ofPow2 1 (-148))
      | none =>
        let fl := Int.fdiv x.num x.mag.d
        let r := (fxToFrac (fxExp2 (fxOfFrac x - fl * fxOne))).mag.mul (Frac.ofPow2 1 fl)
        acceptWithin fzo (Config.fexp2 (w32n c)) ⟨false, r⟩ (shy ((ulpOf r).mul ⟨2, 1⟩))

def flog2Res (fzo : Bool) (c : Nat) : Res :=
  match fmtF32.decode c with
  | .nan sg => nanRes sg
  | .inf n => if n then nanRes true else infRes false
  | .num x =>
    if x.mag.isZero then ⟨fmtF32.withSign true fmtF32.infCode, bitDZ⟩
    else if x.neg then nanRes true
    else match pow2Exp x.mag with
      | some e => exactRes fzo (SFrac.ofInt e)
      | none =>
        let e := floorLog2 x.mag
        let m := x.mag.mul (Frac.ofPow2 1 (-e))
        let r := (SFrac.ofInt e).add (fxToFrac (fxLog2 (fxOfFrac ⟨false, m⟩)))
        let near := Frac.le ⟨1, 2⟩ x.mag && Frac.le x.mag ⟨2, 1⟩
        acceptWithin fzo (Config.flog2 (w32n c)) r
          (shy (if near then Frac.ofPow2 1 (-22) else (ulpOf r.mag).mul ⟨2, 1⟩))

/-- FSIN and FCOS (absolute error at most 2^-21). -/
def trigRes (fzo cos : Bool) (c : Nat) : Res :=
  match fmtF32.decode c with
  | .nan sg => nanRes sg
  | .inf _ => nanRes true
  | .num x =>
    if x.mag.isZero then (if cos then oneRes else zeroRes x.neg)
    else
      let r := fxReduce x
      let v := if cos then fxToFrac (fxCos r)
        -- below 2^-100 the sine is the angle itself, to far within the bound
        else if x.mag.lt (Frac.ofPow2 1 (-100)) then x else fxToFrac (fxSin r)
      let y := acceptWithin fzo (if cos then Config.fcos (w32n c) else Config.fsin (w32n c)) v
        (shy (Frac.ofPow2 1 (-21)))
      -- the sine of a subnormal angle is tiny and no number of the format (R163)
      { y with flags := if !cos && x.mag.lt (Frac.ofPow2 1 (-126)) then y.flags ||| bitUF else y.flags }

/-- The mould of the seven: one f32 source (R198). -/
def specialMould (i : Instr) (r : RFields) (f : Rnd → Nat → Res) (s : State) : State :=
  s.guarded i (fun g =>
    s.issueVec (g.exec s.cur.mask r.neg r.pred) false r.dst.toNat 8 (fun l =>
      let rnd := g.rnd r.mod l 0
      let x := f rnd (fmtF32.flushIn rnd.fzi (g.vecVal false r.a.toNat l))
      (x.code, x.flags)))

def execFrcp (r : RFields) (s : State) : Host.Outcome State Fault Refusal :=
  .next (specialMould (.frcp r) r frcpRes s)
def execFrsq (r : RFields) (s : State) : Host.Outcome State Fault Refusal :=
  .next (specialMould (.frsq r) r (fun rnd => frsqRes rnd.fzo) s)
def execFsqrt (r : RFields) (s : State) : Host.Outcome State Fault Refusal :=
  .next (specialMould (.fsqrt r) r fsqrtRes s)
def execFexp2 (r : RFields) (s : State) : Host.Outcome State Fault Refusal :=
  .next (specialMould (.fexp2 r) r (fun rnd => fexp2Res rnd.fzo) s)
def execFlog2 (r : RFields) (s : State) : Host.Outcome State Fault Refusal :=
  .next (specialMould (.flog2 r) r (fun rnd => flog2Res rnd.fzo) s)
def execFsin (r : RFields) (s : State) : Host.Outcome State Fault Refusal :=
  .next (specialMould (.fsin r) r (fun rnd => trigRes rnd.fzo false) s)
def execFcos (r : RFields) (s : State) : Host.Outcome State Fault Refusal :=
  .next (specialMould (.fcos r) r (fun rnd => trigRes rnd.fzo true) s)

end Sys2Proof.Machine
end

