-- ==== Sys2Proof/Machine/Matrix.lean ====
section
/-!
DEFINITION. The matrix sequencer (R291 to R313): stream instances, their instructions, their traps
and the delivery of those to the groups of the team. An instruction's effect comes whole when it
begins, and the instance is busy for the cycles of R300; what no barrier pair orders may read either
value (R312).
-/
namespace Sys2Proof.Machine

/-! ### Instances -/

def State.stream? (s : State) (team unit : Nat) : Option (Team × Inst) :=
  (s.team? team).bind (fun t => (dget t.insts unit).map (fun x => (t, x)))
def State.setInst (s : State) (team unit : Nat) (x : Inst) : State :=
  s.modTeam team (fun t => { t with insts := dput t.insts unit x })

/-- Address of the instance's current word (R310). -/
def Inst.wordAt (x : Inst) : Word64 :=
  match x.clause with
  | some c => c.addr + w64n (8 * (x.idx + 1))
  | none => x.pc

def Inst.acc (x : Inst) (a : Bool) : Tab Word32 := if a then x.acc1 else x.acc0
def Inst.acct (x : Inst) (a : Bool) : Bool := if a then x.acct1 else x.acct0
/-- Write an accumulator and its element type (true f32). -/
def Inst.setAcc (x : Inst) (a : Bool) (v : Tab Word32) (f32 : Bool) : Inst :=
  if a then { x with acc1 := v, acct1 := f32 } else { x with acc0 := v, acct0 := f32 }

/-- The instance at `cur` traps: nothing has changed, and MATRIX_STREAM_TRAP halts it (R309). -/
def State.streamTrap (s : State) (sub detail : BitVec 8) (wordAt : Word64) : State :=
  match s.stream? s.cur.team s.cur.unit with
  | none => s
  | some (_, x) => s.setInst s.cur.team s.cur.unit { x with trap := some ⟨sub, detail, wordAt⟩ }

/-- The instance has the sequencer for `cost` cycles (R300). -/
def Inst.runs (x : Inst) (cycle cost : Nat) : Inst := { x with busyTo := cycle + cost, ranTo := cycle + cost }

/-- The instruction at `cur` is done after `cost` cycles, having made the instance `x`. -/
def State.streamDone (s : State) (cost : Nat) (x : Inst) : State :=
  s.setInst s.cur.team s.cur.unit (x.nextInstr.runs s.cycle cost)

/-- The ACC field of an instruction (R67). -/
def accField : Instr → Bool
  | .mma x | .mzero x | .mstc x | .mwait x | .marr x | .mloop x | .mbr x | .mend x | .msetf x => x.acc
  | _ => false

/-- Run the meaning `f` of a matrix instruction; an illegal word traps (R301). -/
def State.guardedStream (s : State) (i : Instr) (f : Team → Inst → State) : State :=
  match s.stream? s.cur.team s.cur.unit with
  | none => s
  | some (t, x) =>
    if x.clause.isNone || x.ended || x.trap.isSome || x.waits.isSome then s
    else if !(sigOf 2048 4 i).ok || (accField i && x.owned == 1) then s.streamTrap 0x04 0 x.wordAt
    else f t x

/-! ### The quad (R292) -/

/-- The quad, if every member is present. -/
def State.fullQuad (s : State) (t : Team) (unit : Nat) : Option (List Group) :=
  let q := s.quad t unit
  if q.all (fun m => m.isSome) then some (q.filterMap id) else none

/-! ### MSETF, MZERO, MLOOP, MBR, MEND -/

/-- MSETF (R302). -/
def execMsetf (x : MXFields) (s : State) : Host.Outcome State Fault Refusal :=
  .next (s.guardedStream (.msetf x) (fun t n =>
    let set (v : Nat) : State :=
      s.streamDone 1 { n with mfmt := BitVec.ofNat 16 (boolBit (x.mod.getLsbD 0) * 2 ^ 14 + v) }
    if x.mod.getLsbD 1 then
      match (s.quad t s.cur.unit).headD none with
      | none => s.streamTrap 0x01 0 n.wordAt
      | some g =>
        let f : Word32 := if g.slot0.live then g.slot0.fmt else if g.slot1.live then g.slot1.fmt else fmtReset
        if mfmtOk (fld f 15 12) (fld f 19 16) (fld f 23 20) (fld f 25 24) then
          set (fld f 25 24 * 2 ^ 12 + fld f 23 20 * 2 ^ 8 + fld f 19 16 * 2 ^ 4 + fld f 15 12)
        else s.streamTrap 0x04 0 n.wordAt
    else set (fld x.imm 13 0)))

/-- Is MFMT.MC f32? -/
def Inst.mcF32 (x : Inst) : Bool := fld x.mfmt 11 8 == 4

/-- MZERO (R303). -/
def execMzero (x : MXFields) (s : State) : Host.Outcome State Fault Refusal :=
  .next (s.guardedStream (.mzero x) (fun _ n => s.streamDone 16 (n.setAcc x.acc [] n.mcF32)))

/-- MLOOP (R307). -/
def execMloop (x : MXFields) (s : State) : Host.Outcome State Fault Refusal :=
  .next (s.guardedStream (.mloop x) (fun _ n => s.streamDone 1 { n with lc := x.imm, ls := x.num, li := 0 }))

/-- The instance goes to `target` (R300). -/
def State.streamGo (s : State) (n : Inst) (target : Word64) : State :=
  s.setInst s.cur.team s.cur.unit (Inst.runs { n with pc := target, clause := none, idx := 0 } s.cycle 2)

/-- MBR (R307). -/
def execMbr (x : MXFields) (s : State) : Host.Outcome State Fault Refusal :=
  .next (s.guardedStream (.mbr x) (fun _ n =>
    let target := n.wordAt + 8 * x.imm.signExtend 64
    if x.mod = 1 then s.streamGo n target
    else if 1 < n.lc.toNat then s.streamGo { n with lc := n.lc - 1, li := n.li + 1 } target
    else s.streamDone 1 { n with lc := 0, li := 0 }))

/-- MEND (R308). -/
def execMend (x : MXFields) (s : State) : Host.Outcome State Fault Refusal :=
  .next (s.guardedStream (.mend x) (fun _ n =>
    s.setInst s.cur.team s.cur.unit (Inst.runs { n with ended := true, clause := none } s.cycle 1)))

/-! ### MWAIT and MARR (R306) -/

/-- A barrier instruction of a stream: range and token table are checked, the barrier is settled up
to this cycle, and `f` goes on. -/
def streamBar (i : Instr) (x : MXFields) (f : State → Inst → Nat → Nat → State) (s : State) : State :=
  s.guardedStream i (fun _ n =>
    let bar := x.num.toNat
    let core := coreOfPart n.part
    if !s.barInRange s.cur.team bar then s.streamTrap 0x02 3 n.wordAt
    else if (dget n.tokens bar).isNone && decide (16 ≤ n.tokens.length) then s.streamTrap 0x04 0 n.wordAt
    else
      let s := s.barSettle core bar
      match s.stream? s.cur.team s.cur.unit with
      | none => s
      | some (_, n) => f s n core bar)

/-- MWAIT (R306): it waits for a phase other than its token; `barSettle` completes it. Where the phase is another one
already it has the sequencer for this cycle (R300). -/
def execMwait (x : MXFields) (s : State) : Host.Outcome State Fault Refusal :=
  finish s (streamBar (.mwait x) x (fun s n core bar =>
    let tok := (dget n.tokens bar).getD false
    let n : Inst := if (s.bar core bar).ph != tok then n.runs s.cycle 1 else n
    s.setInst s.cur.team s.cur.unit { n with tokens := dput n.tokens bar tok, waits := some (bar, tok) }) s)

/-- MARR (R306): its token is PH after step 3 of this cycle, taken when the barrier is settled. -/
def execMarr (x : MXFields) (s : State) : Host.Outcome State Fault Refusal :=
  finish s (streamBar (.marr x) x (fun s n core bar =>
    let b := s.bar core bar
    (s.setBar core bar (b.arrive x.imm.toNat 0)).streamDone 1
      { n with tokens := dput n.tokens bar b.ph, marked := some bar }) s)

/-! ### Regions of the team window (R295, R305) -/

/-- What an access to a region meets. -/
inductive RegionRes where
  | ok (slot off : Nat)
  | outside
  | wait
  | fault
  deriving DecidableEq, Repr

/-- The n bytes at 64-byte unit `off` of the team window: their place, or what stops or delays the
access. It waits for range locks (R313) and for mapped pieces not yet touched (R245). -/
def State.region (s : State) (team : Nat) (t : Team) (n : Inst) (off bytes : Nat) (write : Bool) :
    State × RegionRes :=
  let va := twBase + 64 * off
  let core := coreOfPart n.part
  let a : Agent := ⟨0, core, t.ctx, team, true⟩
  match (if inWindow va then s.windowLoc team va bytes else none) with
  | some (.stash _ c o) =>
    let owner := (t.cores[c]?).getD core
    if (s.lockHitBoth core owner t.ctx team va bytes write).isSome then
      (s, .wait)
    else
      (List.range (bytes / 64)).foldl (fun acc i =>
        match acc.2 with
        | .fault => acc
        | _ =>
          let r := acc.1.pieceCheck a t team c (o + 64 * i) (va + 64 * i) (if write then 1 else 0) write
          match r.2 with
          | none => (r.1, acc.2)
          | some (.wait t c o) => (r.1.wantPieces [(t, c, o)], .wait)
          | some _ => (r.1, .fault)) (s, .ok c o)
  | _ => (s, .outside)

/-- Go on with a region: outside it is the matrix operand fault, a piece that does not translate the
stream's translation fault. -/
def State.withRegion (s : State) (t : Team) (n : Inst) (off bytes : Nat) (write : Bool)
    (f : State → Nat → Nat → State) : State :=
  let r := s.region s.cur.team t n off bytes write
  match r.2 with
  | .ok c o => f r.1 c o
  | .outside => s.streamTrap 0x02 2 n.wordAt
  | .wait => r.1
  | .fault => r.1.streamTrap 0x05 0 n.wordAt

/-- The effective offset of MMA and MSTC (R304, R305). -/
def Inst.effOff (n : Inst) (x : MXFields) : Nat := x.imm.toNat + n.li.toNat * n.ls.toNat

/-- n stash bytes as a number. -/
def Team.stashNum (t : Team) (c o n : Nat) : Nat :=
  ofBytes ((List.range n).map (fun i => t.stashGet c (o + i)))

/-! ### The dot product (R171 to R173, R304) -/

/-- One row of A or column of B: its 64 bytes and its decade scales. -/
structure OpRow where
  bits  : Nat
  scale : List Int
  deriving DecidableEq, Repr

/-- K of R293. -/
def depthOf (ta : Nat) : Nat := if ta == 9 then 128 else if ta == 5 || ta == 6 then 32 else 64

/-- Element k of a row as a float, unscaled, and its scale. -/
def OpRow.float (r : OpRow) (ta k : Nat) : FVal × Int :=
  let c := elemOf (elemBits ta) r.bits k
  (if ta == 7 then dm8Decode c else (floatFmt ta).decode c, (r.scale[k / 32]?).getD 0)

/-- Element k of a row as an integer; i4 0b1000 reads as 0. -/
def OpRow.int (r : OpRow) (ta k : Nat) : Int :=
  let c := elemOf (elemBits ta) r.bits k
  if ta == 9 then (i4Value c).1 else sgn 8 c

/-- A value times 10^e; the specials are unchanged (R158). -/
def scaled (x : FVal × Int) : FVal :=
  match x.1 with
  | .num v => .num ⟨v.neg, v.mag.scale10 x.2⟩
  | v => v

/-- The sum of an i32 accumulation (R171). -/
def dotInt (ta : Nat) (c : Word32) (a b : OpRow) : Word32 :=
  (List.range (depthOf ta)).foldl (fun acc k => acc + BitVec.ofInt 32 (a.int ta k * b.int ta k)) c

def f32Val (c : Word32) : FVal := fmtF32.decode c.toNat

/-- The sequential loop of R173. -/
def dotSeq (ta : Nat) (c : Word32) (a b : OpRow) : Word32 :=
  let rd (x : FVal × Int) : FVal := fmtF32.decode (fvalToBin fmtF32 false rndRN (scaled x)).code
  (List.range (depthOf ta)).foldl (fun acc k =>
    w32n (roundExact fmtF32 false rndRN
      (fmaExact false (rd (a.float ta k)) (rd (b.float ta k)) (f32Val acc))).code) c

/-- Σ of exact fractions, and Σ of their magnitudes. -/
def sumTerms (l : List SFrac) : SFrac × SFrac :=
  l.foldl (fun a x => (a.1.add x, a.2.add ⟨false, x.mag⟩)) (⟨false, ⟨0, 1⟩⟩, ⟨false, ⟨0, 1⟩⟩)

def exactNum? : Exact → Option SFrac
  | .num x => some x
  | _ => none
def exactIsNan : Exact → Bool
  | .nan _ => true
  | _ => false
def exactInf? : Exact → Option Bool
  | .inf n => some n
  | _ => none

/-- May a partial sum of these values reach the infinity of their sign (R162), whatever the order and the rounding
of the sums before it? -/
def mayOverflow (depth : Nat) (l : List SFrac) : Bool :=
  let s := (sumTerms l).2
  let most := s.add ((SFrac.ofInt (depth + 2)).mul ((SFrac.mk false ⟨1, 2 ^ 24⟩).mul s))
  !most.lt ⟨false, ⟨2 ^ 128 - 2 ^ 103, 1⟩⟩

/-- Unordered accumulation (R172). Where no term is special, the free word is taken if it lies within the bound;
where a partial sum may overflow also the infinity that it may reach, or the canonical NaN where both may be; else
the exact sum rounded once (log 11). R172's NV for an invalid product reaches no MODE bit, as R304 says (DESIGN
CHOICE, log 89). -/
def dotUnordered (ta : Nat) (c : Word32) (a b : OpRow) (free : Word32) : Word32 :=
  let ps := (List.range (depthOf ta)).map (fun k => mulExact (scaled (a.float ta k)) (scaled (b.float ta k)))
  let infs := ps.filterMap exactInf?
  if ps.any exactIsNan || (infs.contains true && infs.contains false) then w32n fmtF32.nanCode
  else match infs, f32Val c with
  | n :: _, _ => w32n (fmtF32.withSign n fmtF32.infCode)
  | [], .nan _ => w32n fmtF32.nanCode
  | [], .inf n => w32n (fmtF32.withSign n fmtF32.infCode)
  | [], .num cv =>
    let terms := ps.filterMap exactNum?
    let (sum, mags) := sumTerms terms
    let exact := cv.add sum
    let eps : SFrac := ⟨false, ⟨1, 2 ^ 24⟩⟩
    let bound := ((SFrac.ofInt (depthOf ta + 2)).mul (eps.mul mags)).add (eps.mul ⟨false, cv.mag⟩)
    let tops (neg : Bool) : Bool := mayOverflow (depthOf ta) ((cv :: terms).filter (fun x => x.neg == neg))
    match f32Val free with
    | .num y => if bound.lt ⟨false, (y.add exact.negate).mag⟩ then w32n (fmtF32.round false rndRN exact).code else free
    | .inf n => if tops n then free else w32n (fmtF32.round false rndRN exact).code
    | .nan _ => w32n (if tops false && tops true then fmtF32.nanCode else (fmtF32.round false rndRN exact).code)

/-! ### MMA (R304) -/

/-- A register as the sequencer reads it: a write that a prediction may still undo shows its old value (R312). -/
def Group.settledVreg (g : Group) (r : Nat) : Line :=
  match g.spec with
  | none => g.vreg r
  | some sp => sp.halves.foldl (fun v h => match h.shadows.find? (fun e => e.1 == imageLine g.budget r) with
      | some e => mergeLine h.ph v e.2
      | none => v) (g.vreg r)

/-- B columns of the quad: member q's column n_l (R294). -/
def quadCol (q : List Group) (num n : Nat) (scl : Bool) : OpRow :=
  match q[n / 32]? with
  | none => ⟨0, [0, 0]⟩
  | some g =>
    let nl := n % 32
    { bits := (g.settledVreg (num + nl / 4)).toNat / 2 ^ (512 * (nl % 4)) % 2 ^ 512
      scale := if scl then [0, 1].map (fun kb => sgn 8 (elemOf 8 (g.settledVreg (num + 8)).toNat (2 * nl + kb)))
               else [] }

/-- A row m of the tile at slot c, offset o (R295). -/
def tileRow (t : Team) (c o m : Nat) (scl : Bool) : OpRow :=
  { bits := t.stashNum c (o + 64 * m) 64
    scale := if scl then [0, 1].map (fun kb => sgn 8 (t.stashGet c (o + 8192 + 2 * m + kb)).toNat) else [] }

/-- Is a decade scale in −16 to 15 (R158)? -/
def scalesOk (r : OpRow) : Bool := r.scale.all (fun e => decide (-16 ≤ e) && decide (e ≤ 15))

/-- An accumulator tile of 128 × 128 elements, element (m, n) at 128m + n. -/
def mkTile (f : Nat → Nat → Word32) : Tab Word32 :=
  ((List.range 16384).map (fun i => (i, f (i / 128) (i % 128)))).filter (fun e => e.2 != 0)

/-- MMA (R304). -/
def execMma (x : MXFields) (s : State) : Host.Outcome State Fault Refusal :=
  finish s (s.guardedStream (.mma x) (fun t n =>
    let ta := if x.ta = 15 then fld n.mfmt 3 0 else x.ta.toNat
    let tb := if x.tb = 15 then fld n.mfmt 7 4 else x.tb.toNat
    let z := x.mod == 1
    if ta != tb || n.mcF32 != decide (ta ≤ 7) || (!z && n.acct x.acc != n.mcF32) then
      s.streamTrap 0x04 0 n.wordAt
    else match s.fullQuad t s.cur.unit with
    | none => s.streamTrap 0x01 0 n.wordAt
    | some q =>
      let scl := ta == 7 && fld n.mfmt 13 12 == 1
      let num := x.num.toNat
      if q.any (fun g => decide (g.budget < num + (if scl then 8 else 7) + 11)) then
        s.streamTrap 0x04 0 n.wordAt
      -- operand lines that are not resident are filled first (R296)
      else if !s.quadResident t s.cur.unit n num scl then s
      else s.withRegion t n (n.effOff x) (if scl then 8448 else 8192) false (fun s c o =>
        let rows := (List.range 128).map (fun m => tileRow t c o m scl)
        let cols := (List.range 128).map (fun k => quadCol q num k scl)
        if !(rows.all scalesOk && cols.all scalesOk) then s.streamTrap 0x02 1 n.wordAt
        else
          let det := ((dget s.grids t.gridKey).map (fun g => g.lrec.det)).getD false
          let seq := n.mfmt.getLsbD 14 || det
          let elem (m k : Nat) : Word32 :=
            let a := (rows[m]?).getD ⟨0, []⟩
            let b := (cols[k]?).getD ⟨0, []⟩
            let c0 := if z then 0 else tget 0 (n.acc x.acc) (128 * m + k)
            if !n.mcF32 then dotInt ta c0 a b
            else if seq then dotSeq ta c0 a b
            else dotUnordered ta c0 a b (Config.mmaSum (s.fresh + 128 * m + k))
          { (s.streamDone (if n.mcF32 && seq then 256 else 128) (n.setAcc x.acc (mkTile elem) n.mcF32))
            with fresh := s.fresh + 16384 })))

/-! ### MSTC (R305) -/

/-- One element to type t. -/
def storeElem (f32 : Bool) (rnd t : Nat) (c : Word32) : Nat :=
  let r : Rnd := ⟨if rnd = 0 then 1 else rnd, 0, false, false, false⟩
  if t == 0 || t == 4 then c.toNat
  else if f32 then (floatTo r t (f32Val c)).code
  else (intTo r t c.toInt).code

/-- MSTC (R305). -/
def execMstc (x : MXFields) (s : State) : Host.Outcome State Fault Refusal :=
  finish s (s.guardedStream (.mstc x) (fun t n =>
    let f32 := n.acct x.acc
    let ty := x.ta.toNat
    if f32 != (ty != 0 && ty != 8) then s.streamTrap 0x04 0 n.wordAt
    else
      let size := elemBits ty / 8
      s.withRegion t n (n.effOff x) (16384 * size) true (fun s c o =>
        let bytes := (List.range 16384).flatMap (fun i =>
          toBytes size (storeElem f32 x.mod.toNat ty (tget 0 (n.acc x.acc) i)))
        (s.writeLoc (coreOfPart n.part) 0 bytes (.stash s.cur.team c o)).streamDone
          (if size = 4 then 128 else 64) n)))

/-! ### Fetch and issue of a stream -/

/-- The next instruction of an instance: the state that knows what runs, and its meaning, none for a
word without one. -/
def State.streamNext (s : State) (team unit : Nat) : Option (State × Option Instr) :=
  match s.stream? team unit with
  | none => none
  | some (t, x) =>
    if !s.streamGoes team unit t x then none else
    match x.clause.bind (fun c => c.words[x.idx]?) with
    | none => none
    | some w =>
      some ({ s with cur := { team := team, unit := unit, addr := x.wordAt, word := w } }, decode .matrix w)

/-- STREAM_CLAUSE_FETCH (R297): the next clause through the core's L1, checked under R58. -/
def execStreamClauseFetch (team unit : Nat) (s : State) : Host.Outcome State Fault Refusal :=
  finish s (match s.stream? team unit with
  | none => s
  | some (t, x) =>
    if x.clause.isSome || x.ended || x.trap.isSome || !s.mayStream t then s else
    let a : Agent := ⟨0, coreOfPart x.part, t.ctx, team, true⟩
    let stop (s : State) (sub : BitVec 8) : State :=
      s.setInst team unit { x with trap := some ⟨sub, 0, x.pc⟩ }
    let r := s.codeWords a 1 x.pc
    match r.2 with
    | .inr _ => stop r.1 0x05
    | .inl hw =>
      let header := hw.headD 0
      let h := decodeHeader header
      let b := r.1.codeWords a h.n (x.pc + 8)
      match b.2 with
      | .inr _ => stop b.1 0x05
      | .inl ws =>
        if clauseCheck 2048 4 true h ws ≠ 0 then stop b.1 0x03
        else b.1.setInst team unit { x with clause := some ⟨x.pc, header, ws, none, 4⟩, idx := 0 })

/-! ### Traps (R309, R310) -/

/-- EINFO of trap 0x0D. -/
def StreamTrap.einfo (t : StreamTrap) : Word64 :=
  w64n (t.wordAt.toNat / 8 % 2 ^ 32 * 2 ^ 32 + t.detail.toNat * 2 ^ 8 + t.sub.toNat)

/-- The groups of a team that have not exited. -/
def State.unexited (s : State) (t : Team) : List Nat :=
  t.gids.filter (fun gid => ((s.group? gid).map (fun g => !g.exited)).getD false)

/-- The end of a context whose team has no group left to take a stream's trap (R309). -/
def State.endByMatrix (s : State) (t : Team) (tr : StreamTrap) : State :=
  s.terminate t.ctx 3 (BitVec.ofNat 16 (0x0D + 256 * tr.sub.toNat)) 0
    (((dget s.grids t.gridKey).map (fun g => g.gridId)).getD 0)

/-- MATRIX_STREAM_TRAP (R309): the instance halts, and every group of the team that has not exited is
to take the trap; with none left, the context is terminated. -/
def execMatrixStreamTrap (team unit : Nat) (s : State) : Host.Outcome State Fault Refusal :=
  .next (match s.stream? team unit with
  | none => s
  | some (t, x) => match x.trap with
    | none => s
    | some tr =>
      if x.ended then s else
      let s := s.setInst team unit { x with ended := true, clause := none }
      let live := s.unexited t
      if live.isEmpty then s.endByMatrix t tr
      else live.foldl (fun s gid => s.modGroup gid (fun g =>
        { g with matrixTraps := g.matrixTraps ++ [tr] })) s)

/-- MATRIX_TRAP_DELIVERY (R309): the group takes the trap at a slot that has no clause in a clause
slot, precise at that slot's next clause. After an RTE the slot's next clause is known once its fetch has shown
whether the resumption index lies beyond the clause (R145). A group that has exited first takes none; where it was
the last one of its team, the context ends. -/
def execMatrixTrapDelivery (gid : Nat) (s : State) : Host.Outcome State Fault Refusal :=
  .next (match s.group? gid with
  | none => s
  | some g => match g.matrixTraps with
    | [] => s
    | tr :: _ =>
      let free (k : Nat) : Bool :=
        let S := g.slot k
        S.live && S.running.isNone && S.transfer.isNone && S.replays.isEmpty &&
          (S.resumeIdx == 0 || S.clause.isSome)
      if g.exited then
        let s := s.setGroup gid { g with matrixTraps := [] }
        match s.team? g.team with
        | none => s
        | some t => if (s.unexited t).isEmpty then s.endByMatrix t tr else s
      else if g.supervisor || g.trapReq.isSome || g.parked.isSome || g.spec.isSome ||
          ((s.team? g.team).map (fun t => t.saved)).getD true then s
      else match [0, 1].find? free with
        | none => s
        | some k =>
          let S := g.slot k
          s.raiseTrap gid
            { matrix := some tr, slot := k, cycle := s.cycle, code := 0x0D, atClause := true, idx := 0, pc := S.pc,
              done := false, arg := tr.sub.zeroExtend 12, einfo := tr.einfo, etxf := 0, lanes := S.mask,
              faddr := [] })

end Sys2Proof.Machine
end

