-- ==== Sys2Proof/Machine/System.lean ====
section
/-!
DEFINITION. MAPPG, FQPOST, PARK, INVLP, QDIG and QEND (R222 to R228, R363), the fault queue's steps,
and the records that the device leaves for the host (R384, R391, R397).
-/
namespace Sys2Proof.Machine

/-! ### Records for the host -/

/-- Write bytes at their homes, past every L2: a release at system scope of them. -/
def State.homePut (s : State) : List Byte → Nat → State
  | [], _ => s
  | b :: t, pa => ((s.l2None pa).wr pa b).homePut t (pa + 1)

/-- Is an MSI-X vector masked? A vector whose control word has not been written is (PCI Express). -/
def State.vecMasked (s : State) (v : Nat) : Bool :=
  match dget s.msixTable (2 * v + 1) with
  | some w => w.getLsbD 32
  | none => true

/-- Signal an MSI-X vector, or leave its pending bit (R397). -/
def State.signal (s : State) (v : Nat) : State :=
  if s.vecMasked v then { s with msixPend := if s.msixPend.contains v then s.msixPend else v :: s.msixPend }
  else { s with msix := v :: s.msix }

/-- The place of record `pos` in a ring register laid out as EVRING (R366). -/
def ringAt (ring : Word64) (pos : Nat) : Nat := fld ring 51 5 * 32 + 32 * (pos % 2 ^ (fld ring 3 0 + 4))

/-- A fabric event record (R384). -/
def State.event (s : State) (typ unit index old new : Nat) (where_ detail : Word64) : State :=
  let b := toBytes 2 typ ++ toBytes 1 unit ++ toBytes 1 index ++ toBytes 2 old ++ toBytes 2 new ++
    toBytes 8 where_.toNat ++ toBytes 8 s.cycle ++ toBytes 8 detail.toNat
  let s := s.homePut b (ringAt s.evring s.evpos.toNat)
  { s with evpos := s.evpos + 1 }.signal s.evvec

/-! ### Which requests an invalidation waits for (R218) -/

/-- Does a group have an access, numbered below `bound`, whose lane `p` accepts? The destination of a DEQ and the
object of a CPWAIT or YIELDC are such lanes until the operation completes. A store that a prediction holds, and one in a
brine, has not left its core: it keeps its place and is not waited for (DESIGN CHOICE, log 108). -/
def Group.pendingAcc (g : Group) (bound : Nat) (p : LaneAcc → Bool) : Bool :=
  g.ops.any (fun e => decide (e.1 < bound) && !e.2.held && (match e.2.kind with
    | .load _ _ _ _ _ accs left => accs.any (fun a => left.contains a.lane && p a)
    | .store _ _ _ accs => accs.any (fun a => p a.1)
    | .atomic _ _ _ _ _ _ _ lanes => lanes.any (fun a => p a.acc)
    | .deq _ _ dst _ | .after (.deq _ _ _ dst) => p dst
    | .cpwait obj .. | .yieldc obj _ => p obj
    | _ => false))

/-- Is it an ENQ that has not read its entry yet? -/
def OpKind.isEnq : OpKind → Bool
  | .after (.enq ..) => true
  | _ => false

/-- Is a request of context c translated through a leaf that maps `page` still under way? Pages reach
1 GiB; a transfer, an ENQ, a copy record and a PFB count whatever their pages (log 36). -/
def State.underWay (s : State) (c bound : Nat) (page : Option Word64) : Bool :=
  let hit (a : LaneAcc) : Bool := match a.loc, page with
    | .stash .., _ => false
    | _, none => true
    | _, some p => a.va.toNat / 2 ^ 30 == p.toNat / 2 ^ 30
  s.groups.any (fun e => e.2.ctx == c && (e.2.pendingAcc bound hit ||
    e.2.ops.any (fun o => decide (o.1 < bound) && ((!e.2.det && o.2.kind.isTxf) || o.2.kind.isEnq)))) ||
  s.jobs.any (fun e => e.2.ctx == c && e.2.accepted && decide (e.2.order < bound)) ||
  s.pfbs.any (fun e => e.2.ctx == c && decide (e.1 < bound))

/-! ### INVLP (R228) -/

/-- Every other device of the constellation that has to answer an operation. -/
def State.otherDevices (s : State) : List Nat :=
  (List.range 32).filter (fun a => s.members.getLsbD a && a != s.fabid)

/-- Has every other device answered operation n (R226, R228)? -/
def State.acked (s : State) (n : Nat) : Bool :=
  s.otherDevices.all (fun a => ((dget s.mer.answers n).getD []).contains a)

/-- INVLP at its position: a release of the group's earlier stores, which acted before a Meridian position (R266),
then the translations go. It completes when the requests made before have been performed (R218). -/
def State.applyInvlp (page : Option Word64) (cst : Bool) (s : State) (gid n : Nat) : State :=
  match s.group? gid with
  | none => s
  | some g =>
    let s := (if cst then s else s.fenceRel g.core .device).invalidate g.ctx (page.map (fun p => p.toNat))
    if !s.underWay g.ctx s.nextId page && (!cst || s.acked n) then s.completeOp gid n
    else s.setOp gid n (.inval page cst s.nextId)

/-- A started invalidation completes (R218). -/
def State.endInval (page : Option Word64) (cst : Bool) (bound : Nat) (s : State) (gid n : Nat) : State :=
  match s.group? gid with
  | none => s
  | some g => if !s.underWay g.ctx bound page && (!cst || s.acked n) then s.completeOp gid n else s

/-- The mould of INVLP. -/
def invlpMould (i : Instr) (q : QFields) (page : Group → Option Word64) (s : State) : State :=
  s.guarded i (fun g =>
    let p := page g
    let cst := q.imm.getLsbD 0
    (s.afterNow q.fsel cst (.invlp p cst) (fun s gid n => s.applyInvlp p cst gid n)).advance)

/-- INVLP .pg (R228). -/
def execInvlpPg (q : QFields) (s : State) : Host.Outcome State Fault Refusal :=
  finish s (invlpMould (.invlpPg q) q (fun g => some (g.sreg q.sa.toNat)) s)
/-- INVLP .ctx (R228). -/
def execInvlpCtx (q : QFields) (s : State) : Host.Outcome State Fault Refusal :=
  finish s (invlpMould (.invlpCtx q) q (fun _ => none) s)

/-- The host's invalidation ends (R391). -/
def State.settleBusy (s : State) : State :=
  let s := match s.busyFrom with
    | some b => if s.busy && !s.underWay s.busyCtx b s.busyPage && (!s.busyCst || s.acked s.busyBound) then
        { s with busy := false } else s
    | none => s
  if s.pbusy && !s.teams.any (fun e => e.2.ctx == s.pctx && !e.2.saved) then { s with pbusy := false } else s

/-! ### MAPPG (R222, R226) -/

/-- A leaf entry of level 4 (R213). -/
def leafWord (frame : Nat) (r w x u cf rep : Bool) : Word64 :=
  w64n (3 + boolBit u * 2 ^ 4 + boolBit r * 2 ^ 5 + boolBit w * 2 ^ 6 + boolBit x * 2 ^ 7 +
    frame / 2 ^ 16 * 2 ^ 16 + boolBit rep * 2 ^ 60 + boolBit cf * 2 ^ 61)
/-- The remote-home entry of a frame. -/
def remoteWord (frame : Nat) : Word64 := w64n (4 + frame / 2 ^ 16 * 2 ^ 16)

/-- The path to the level-4 entry of an address: its physical address, or status 3 or 4 (R226). -/
def State.pathFrom (s : State) (die va : Nat) : Nat → Nat → Nat → State × (Nat ⊕ Nat)
  | 0, _, _ => (s, .inr 3)
  | fuel + 1, level, table =>
    let pa := table + 8 * (va / 2 ^ walkShift level % walkSize level)
    if level = 4 then (s, .inl pa)
    else
      let r := s.devBytes die 8 pa
      match walkEntry level va pa (w64n (ofBytes r.2)) with
      | .inr next => r.1.pathFrom die va fuel (level + 1) next
      | .inl (.leaf _) => (r.1, .inr 4)
      | .inl (.fail ..) => (r.1, .inr 3)

/-- The pool descriptor (R222). -/
structure Pool where
  at_   : Nat
  ring  : Nat
  rsize : Nat
  head  : Nat
  tail  : Nat
  dir   : Nat
  ok    : Bool
  deriving DecidableEq, Repr

def Ctx.poold (x : Ctx) : Nat := fld (w64n (x.num 8 8)) 51 6 * 64

def State.pool (s : State) (die c : Nat) : State × Pool :=
  let at_ := (s.ctx c).poold
  let r := s.devBytes die 64 at_
  let n (o k : Nat) : Nat := recNum r.2 o k
  let rs := n 8 4
  (r.1, { at_ := at_, ring := n 0 8, rsize := rs, head := n 12 4, tail := n 16 4, dir := n 24 8,
          ok := n 20 4 == 0 && n 32 32 == 0 && (List.range 17).any (fun k => rs == 2 ^ (k + 4)) &&
                n 0 8 % 8 == 0 && n 24 8 % 8 == 0 })

def Pool.empty (p : Pool) : Bool := p.head == p.tail

/-- Take the next frame of the pool. -/
def State.takeFrame (s : State) (die : Nat) (p : Pool) : State × Nat :=
  let r := s.devBytes die 8 (p.ring + 8 * (p.head % p.rsize))
  (r.1.devPut die (toBytes 4 (p.head + 1)) (p.at_ + 12), fld (w64n (ofBytes r.2)) 51 16 * 2 ^ 16)

/-- The replica directory: home frame, replica frame, state (R222). -/
def State.directory (s : State) (die : Nat) (p : Pool) : State × List (Nat × Nat × Nat) :=
  let r := s.devBytes die 65536 p.dir
  (r.1, (List.range 4096).map (fun i =>
    let home := w64n (recNum r.2 (16 * i) 8)
    let w := w64n (recNum r.2 (16 * i + 8) 8)
    (fld home 51 16 * 2 ^ 16, fld w 51 16 * 2 ^ 16, fld w 1 0)))

/-- The checks that all forms of MAPPG share: the pool and the level-4 entry with its address, or a
status. -/
def State.mapTarget (s : State) (die c : Nat) (va : Word64) : State × ((Pool × Nat × Word64) ⊕ Nat) :=
  if !canonical va || inWindow va.toNat then (s, .inr 6)
  else
    let p := s.pool die c
    if !p.2.ok then (p.1, .inr 7)
    else
      let e := p.1.pathFrom die va.toNat 5 0 (p.1.ctx c).ptroot
      match e.2 with
      | .inr st => (e.1, .inr st)
      | .inl pa =>
        let r := e.1.devBytes die 8 pa
        (r.1, .inl (p.2, pa, w64n (ofBytes r.2)))

/-- MAPPG .ft: the status. -/
def State.mapFirst (s : State) (die c : Nat) (va : Word64) (perm : BitVec 12) : State × Nat :=
  let t := s.mapTarget die c va
  match t.2 with
  | .inr st => (t.1, st)
  | .inl (p, pa, e) =>
    if e.getLsbD 0 then (t.1, 2)
    else if fld e 2 1 ≠ 0 then (t.1, 3)
    else if p.empty then (t.1, 1)
    else
      let f := t.1.takeFrame die p
      let s := f.1.devPut die (List.replicate 65536 0) f.2
      (s.devPut die (toBytes 8 (leafWord f.2 (perm.getLsbD 0) (perm.getLsbD 1) (perm.getLsbD 2)
        (perm.getLsbD 4) (perm.getLsbD 3) false).toNat) pa, 0)

/-- MAPPG .rep: the status. -/
def State.mapReplica (s : State) (die c : Nat) (va : Word64) : State × Nat :=
  let t := s.mapTarget die c va
  match t.2 with
  | .inr st => (t.1, st)
  | .inl (p, pa, e) =>
    if e.getLsbD 0 && e.getLsbD 60 then (t.1, 2)
    else if e.getLsbD 0 || fld e 2 1 ≠ 2 then (t.1, 3)
    else if p.empty then (t.1, 1)
    else
      let d := t.1.directory die p
      match (List.range 4096).find? (fun i => ((d.2[i]?).map (fun x => x.2.2)) == some 0) with
      | none => (d.1, 5)
      | some i =>
        let home := fld e 51 16 * 2 ^ 16
        let f := d.1.takeFrame die p
        let b := f.1.devBytes die 65536 home
        let s := b.1.devPut die b.2 f.2
        let s := s.devPut die (toBytes 8 home ++ toBytes 8 (f.2 + 1)) (p.dir + 16 * i)
        (s.devPut die (toBytes 8 (leafWord f.2 true false false true false true).toNat) pa, 0)

/-- MAPPG that completes in this step: its status goes to s[SB] (log 19). -/
def mapNow (i : Instr) (q : QFields) (f : State → Nat → Nat → Word64 → State × Nat) (s : State) : State :=
  s.guarded i (fun g =>
    let r := f s (dieOf g.core) g.ctx (g.sreg q.sa.toNat)
    (r.1.modGroup s.cur.gid (fun g => s.putNow g q.sb.toNat (w64n r.2))).advance)

/-- MAPPG .ft (R226). -/
def execMappgFt (q : QFields) (s : State) : Host.Outcome State Fault Refusal :=
  finish s (mapNow (.mappgFt q) q (fun s die c va => s.mapFirst die c va q.imm) s)
/-- MAPPG .rep (R226). -/
def execMappgRep (q : QFields) (s : State) : Host.Outcome State Fault Refusal :=
  finish s (mapNow (.mappgRep q) q (fun s die c va => s.mapReplica die c va) s)

/-- The replica leaves that a page-table tree holds, as (physical address of the entry, frame). -/
def State.replicas (s : State) (die : Nat) : Nat → Nat → Nat → State × List (Nat × Nat)
  | 0, _, _ => (s, [])
  | fuel + 1, level, table =>
    (List.range (walkSize level)).foldl (fun acc i =>
      let pa := table + 8 * i
      let r := acc.1.devBytes die 8 pa
      match walkEntry level 0 pa (w64n (ofBytes r.2)) with
      | .inr next =>
        let t := r.1.replicas die fuel (level + 1) next
        (t.1, acc.2 ++ t.2)
      | .inl (.leaf l) => (r.1, if l.rep && level == 4 then acc.2 ++ [(pa, l.frame)] else acc.2)
      | .inl (.fail ..) => (r.1, acc.2)) (s, [])

/-- A collapse of home h in context c of this device (R226): each replica leaf becomes remote-home, its
directory entry reclaim, and its translations go. A context whose pool descriptor is not legal is skipped (DESIGN
CHOICE, log 107). -/
def State.collapseIn (s : State) (c h : Nat) : State :=
  let p := s.pool 0 c
  if !p.2.ok then p.1
  else
    let d := p.1.directory 0 p.2
    let mine := ((List.range 4096).zip d.2).filter (fun e => e.2.1 == h && e.2.2.2 == 1)
    if mine.isEmpty then d.1
    else
      let l := d.1.replicas 0 5 0 (d.1.ctx c).ptroot
      let hit (frame : Nat) : Bool := mine.any (fun e => e.2.2.1 == frame)
      let s := (l.2.filter (fun x => hit x.2)).foldl (fun s x => s.devPut 0 (toBytes 8 (remoteWord h).toNat) x.1) l.1
      let s := mine.foldl (fun s e => s.devPut 0 (toBytes 8 (e.2.2.1 + 2)) (p.2.dir + 16 * e.1 + 8)) s
      let gone (e : TlbEntry) : Bool := e.ctx == c && e.leaf.rep && hit e.leaf.frame
      { s with tlb := s.tlb.filter (fun e => !gone e.2)
               groups := s.groups.map (fun e =>
                 (e.1, { e.2 with lastPage := e.2.lastPage.filter (fun x => !gone x.2) })) }

/-- A collapse at its position on this device, in every resident context. -/
def State.collapse (s : State) (h : Nat) : State :=
  (List.range 64).foldl (fun s c => if (s.ctx c).valid then s.collapseIn c h else s) s

/-- MAPPG .col at its position; it ends when this device's sweep is done and the others have answered. -/
def State.applyCol (va : Word64) (sb home : Nat) (s : State) (gid n : Nat) : State :=
  (s.collapse home).setOp gid n (.col va sb home s.nextId)

/-- The end of MAPPG .col: the leaf on the home frame, and status 0; status 3 or 4 where the path to the entry is gone
(DESIGN CHOICE, log 107). -/
def State.endCol (va : Word64) (sb home bound : Nat) (s : State) (gid n : Nat) : State :=
  match s.group? gid with
  | none => s
  | some g =>
    let busy := s.groups.any (fun e => e.2.pendingAcc bound (fun a => match a.loc with
      | .phys _ => true
      | _ => false) || e.2.ops.any (fun o => decide (o.1 < bound) && o.2.kind.isEnq))
    if busy || !s.acked n then s else
    let die := dieOf g.core
    let e := s.pathFrom die va.toNat 5 0 (s.ctx g.ctx).ptroot
    match e.2 with
    | .inr st => e.1.answer gid n sb [w64n st]
    | .inl pa => (e.1.devPut die (toBytes 8 (leafWord home true true false true false false).toNat) pa).answer gid n sb [0]

/-- MAPPG .col (R226): its checks give a status at once, else it takes a Meridian position. -/
def execMappgCol (q : QFields) (s : State) : Host.Outcome State Fault Refusal :=
  finish s (s.guarded (.mappgCol q) (fun g =>
    let va := g.sreg q.sa.toNat
    let die := dieOf g.core
    let sb := q.sb.toNat
    let t := s.mapTarget die g.ctx va
    let status (s : State) (st : Nat) : State :=
      (s.modGroup s.cur.gid (fun g => s.putNow g sb (w64n st))).advance
    match t.2 with
    | .inr st => status t.1 st
    | .inl (p, _, e) =>
      let v := e.getLsbD 0
      let rep := e.getLsbD 60
      if v && !rep then status t.1 2
      else if !(rep || fld e 2 1 == 2) then status t.1 3
      else
        let frame := fld e 51 16 * 2 ^ 16
        let d := t.1.directory die p
        let home := if fld e 2 1 = 2 then frame
                    else ((d.2.find? (fun x => x.2.1 == frame && x.2.2 == 1)).map (fun x => x.1)).getD frame
        (d.1.addOpMer q.fsel true (.col va sb home 0)).advance))

/-! ### FQPOST, PARK and resumption (R223, R224, R227) -/

def Ctx.fqBase (x : Ctx) : Nat := fld (w64n (x.num 16 8)) 51 12 * 2 ^ 12
def Ctx.fqSize (x : Ctx) : Nat := 2 ^ (fld (w64n (x.num 16 8)) 3 0 + 4)
def Ctx.fqEntry (x : Ctx) (n : Word32) : Nat := x.fqBase + 64 * (n.toNat % x.fqSize)
def Ctx.fqFull (x : Ctx) : Bool := decide (x.fqSize ≤ (x.posted - x.resolved).toNat)
/-- Has RESOLVED passed n, one of the entries posted so far? -/
def Ctx.passed (x : Ctx) (n : Word32) : Bool :=
  !decide ((n - x.resolved).toNat < (x.posted - x.resolved).toNat)

/-- The entry that FQPOST writes (R223). -/
def Group.fqEntry (g : Group) (n : Word32) (word : BitVec 16) : List Byte :=
  toBytes 8 (tget 0 g.faddr ((lowest? g.supP7).getD 0)).toNat ++ toBytes 8 g.supP7.toNat ++
    toBytes 8 g.tr.epc.toNat ++ toBytes 4 (g.tr.ecause.toNat % 2 ^ 32) ++ toBytes 4 (g.tr.estate.toNat % 2 ^ 32) ++
    toBytes 8 g.tr.einfo.toNat ++ toBytes 8 g.gridId.toNat ++ toBytes 8 g.linear.toNat ++
    toBytes 4 n.toNat ++ toBytes 2 word.toNat ++ toBytes 2 0

/-- FQPOST posts entry n := POSTED for a group: the entry, POSTED, whose advance is a release at system scope of the
group's earlier accesses (R223, R260), the vector, and s[SB]. `mine`: the group's current activation posted it;
`at_` and `start` are the cycles of its issue and of the start of its clause. -/
def State.post (s : State) (gid sb : Nat) (word : BitVec 16) (mine : Bool) (at_ start : Nat) : State :=
  match s.group? gid with
  | none => s
  | some g =>
    let x := s.ctx g.ctx
    let n := x.posted
    let s := (s.fenceRel g.core .system).homePut (g.fqEntry n word) (x.fqEntry n)
    let s := (s.setCtx g.ctx { x with posted := n + 1 }).signal (x.num 52 2 % 2048)
    s.modGroup gid (fun g =>
      { g.putSca true sb (n.zeroExtend 64) at_ start with posted := if mine then some n.toNat else g.posted })

/-- Has the group an access before operation n that can be performed, and is not? Those behind a wait are not held
against a release by the device (log 94). -/
def Group.unperformed (g : Group) (n : Nat) : Bool :=
  g.ops.any (fun e => decide (e.1 < n) && e.2.kind.isAccess && !(g.det && e.2.kind.isTxf) &&
    g.canPerform e.1 { e.2 with mer := 3 })

/-- The release at system scope of an advance of POSTED: the state after it, and whether the nodes have performed it. -/
def State.releaseAll (s : State) (core : Nat) : State × Bool :=
  let t := s.fenceRel core .system
  (t, t.wrote.isEmpty && !t.relBusy t.nextId)

/-- FQPOST (R227): it waits where the queue is full, others wait, or an earlier access of the group is not performed at
system scope. -/
def execFqpost (q : QFields) (s : State) : Host.Outcome State Fault Refusal :=
  finish s (s.guarded (.fqpost q) (fun g =>
    let word := (g.sreg q.sa.toNat).extractLsb' 0 16
    let x := s.ctx g.ctx
    let r := s.releaseAll g.core
    if x.fqFull || !x.posting.isEmpty || g.unperformed s.nextId || !r.2 then
      let n := s.nextId
      let s := r.1.addOp q.fsel (.fqpost q.sb.toNat word true)
      (s.setCtx g.ctx { x with posting := x.posting ++ [(s.cur.gid, n)] }).advance
    else (s.post s.cur.gid q.sb.toNat word true s.cycle (g.startOf s.cur.slot)).advance))

/-- Has the current handler activation an FQPOST that is not complete (R227)? -/
def Group.posting (g : Group) : Bool :=
  g.ops.any (fun e => match e.2.kind with
    | .fqpost _ _ true => true
    | _ => false)

/-- PARK acts in slot k: the restore of RTE, and the group parks on its activation's latest entry. -/
def Group.parkNow (g : Group) (k cycle : Nat) : Group :=
  { g.leaveTrap k false cycle with parked := g.posted, posted := none }

/-- A PARK that waits acts once the last FQPOST of its activation has completed. -/
def Group.parkIfDone (g : Group) (cycle : Nat) : Group :=
  if g.posting then g
  else match g.ops.find? (fun e => match e.2.kind with
      | .park => true
      | _ => false) with
    | some (n, o) => ((g.setSlot o.slot { g.slot o.slot with blocked := false }).completeOp n).parkNow o.slot cycle
    | none => g

/-- FQPOST_COMPLETE (R227): the first waiting FQPOST of a context takes its entry. -/
def execFqpostComplete (ctx : Nat) (s : State) : Host.Outcome State Fault Refusal :=
  finish s (
    let x := s.ctx ctx
    match x.posting with
    | [] => s
    | (gid, n) :: rest =>
      if x.fqFull || x.terminate.isSome then s else
      match (s.group? gid).bind (fun g => (dget g.ops n).map (fun o => (g, o))) with
      | some (g, o) =>
        let r := s.releaseAll g.core
        if g.unperformed n || !r.2 then r.1 else
        let s := s.setCtx ctx { x with posting := rest }
        match o.kind with
        | .fqpost sb word mine =>
          ((s.post gid sb word mine o.issueAt o.startAt).completeOp gid n).modGroup gid (fun g => g.parkIfDone s.cycle)
        | _ => s
      | none => s.setCtx ctx { x with posting := rest })

/-- PARK (R227, R268): it counts on its flag until every FQPOST of this activation has completed; then it restores as
RTE, and parks the group on its latest entry. While it waits its slot starts nothing. -/
def execPark (q : QFields) (s : State) : Host.Outcome State Fault Refusal :=
  .next (s.guarded (.park q) (fun g =>
    let c := s.cur
    if g.posting then
      ((s.addOp q.fsel .park).advanceWith false true).modGroup c.gid (fun g =>
        g.setSlot c.slot { g.slot c.slot with blocked := true })
    else (s.advanceWith false true).modGroup c.gid (fun g => g.parkNow c.slot s.cycle)))

/-- A resumed group's live slots take the cycle as their stamp, and may start in the next (R268). -/
def Group.resume (g : Group) (cycle : Nat) : Group :=
  let go (x : Slot) : Slot := if x.live then { x with stamp := cycle, eligFrom := cycle + 1 } else x
  { g with parked := none, slot0 := go g.slot0, slot1 := go g.slot1 }

/-- GROUP_RESUME (R224): the parked group of the context with the least passed sequence number; one per cycle. RESULT
is read in this step (DESIGN CHOICE, log 95). -/
def execGroupResume (ctx : Nat) (s : State) : Host.Outcome State Fault Refusal :=
  finish s (
    let x := s.ctx ctx
    let age (g : Group) : Nat := (x.posted - BitVec.ofNat 32 (g.parked.getD 0)).toNat
    let ready := s.groups.filter (fun e => e.2.ctx == ctx && (match e.2.parked with
      | some n => x.passed (BitVec.ofNat 32 n)
      | none => false))
    match firstOf (fun a b => decide (age b.2 < age a.2)) ready with
    | none => s
    | some (gid, g) =>
      if s.resumedAt = s.cycle + 1 then s else
      let n := BitVec.ofNat 32 (g.parked.getD 0)
      let r := s.devBytes 0 2 (x.fqEntry n + 62)
      let s := { r.1.setGroup gid (g.resume s.cycle) with resumedAt := s.cycle + 1 }
      if ofBytes r.2 = 0 then s else s.terminate ctx 2 0 (n.zeroExtend 64) g.gridId)

/-! ### QDIG and QEND (R363) -/

/-- Bytes of a running hash: byte i is bits [8i + 7 : 8i]. -/
def hashWord (h : BitVec 256) (i : Nat) : Word64 := h.extractLsb' (64 * i) 64

/-- QDIG: an acquire at device scope; it completes in this step. -/
def execQdig (q : QFields) (s : State) : Host.Outcome State Fault Refusal :=
  finish s (s.guarded (.qdig q) (fun g =>
    let h := (s.queue (fld g.gridId 57 48)).hash
    ((s.fenceAcq g.core .device).modGroup s.cur.gid (fun g =>
      s.scalarsNow g q.sb.toNat ((List.range 4).map (hashWord h)))).advance))

/-- QEND: in a deterministic grid it ends the group's quantum and completes at the commit, else in the next cycle. -/
def execQend (q : QFields) (s : State) : Host.Outcome State Fault Refusal :=
  .next (s.guarded (.qend q) (fun g =>
    if g.det then
      let c := s.cur
      ((s.addOp q.fsel .qend).advance).modGroup c.gid (fun g => { g with met := true })
    else (s.addOp q.fsel .idle).advance))

end Sys2Proof.Machine
end

