-- ==== Sys2Proof/Machine/Distributor.lean ====
section
/-!
DEFINITION. The dispatch engine (R333 to R345, R351, R352, R360 to R362): launch records, admission,
the distributor tree, placement and restore, completion bitmaps, the choice of victims, and the
digest chain.
-/
namespace Sys2Proof.Machine

/-! ### Memory of a context as the dispatch engine sees it (R410) -/

/-- The physical addresses of n bytes from va, or the first address that fails. -/
def State.vplaces (s : State) (c : Nat) (write : Bool) : Nat → Word64 → State × (List Nat ⊕ Word64)
  | 0, _ => (s, .inl [])
  | n + 1, va =>
    if !(s.ctx c).valid || !canonical va || inWindow va.toNat then (s, .inr va)
    else
      let r := s.lookup 0 c va.toNat
      match r.2 with
      | .fail .. => (r.1, .inr va)
      | .leaf l =>
        if (({ r := !write, w := write, user := false } : Need).refuse l).isSome || (write && l.cf) then (r.1, .inr va)
        else
          let t := r.1.vplaces c write n (va + 1)
          (t.1, match t.2 with
            | .inl x => .inl (l.pa va.toNat :: x)
            | .inr e => .inr e)

/-- Read n bytes at device scope, or the address that fails. -/
def State.vread (s : State) (c n : Nat) (va : Word64) : State × (List Byte ⊕ Word64) :=
  let p := s.vplaces c false n va
  match p.2 with
  | .inr a => (p.1, .inr a)
  | .inl l =>
    let r := l.foldl (fun (acc : State × List Byte) pa => let x := acc.1.devRead 0 pa; (x.1, acc.2 ++ [x.2])) (p.1, [])
    (r.1, .inl r.2)

/-- Write bytes at device scope, or nothing and the address that fails. -/
def State.vwrite (s : State) (c : Nat) (b : List Byte) (va : Word64) : State × Option Word64 :=
  let p := s.vplaces c true b.length va
  match p.2 with
  | .inr a => (p.1, some a)
  | .inl l => ((l.zip b).foldl (fun s x => s.devWrite 0 x.1 x.2) p.1, none)

/-- A write to a completion bitmap: where it fails it is skipped, and an event record names it (R344). -/
def State.bitmapWrite (s : State) (c : Nat) (b : List Byte) (va grid : Word64) : State :=
  let r := s.vwrite c b va
  match r.2 with
  | none => r.1
  | some a => r.1.event 0x11 3 0 0 0 a grid

/-! ### The launch record (R338) -/

def parseLaunch (b : List Byte) : LaunchRec :=
  let n (o k : Nat) : Nat := recNum b o k
  let f (o k hi lo : Nat) : Nat := recFld b o k hi lo
  { raw := b, entry0 := w64n (n 0 8), entry1 := w64n (n 8 8), mpc := w64n (n 16 8), arg := w64n (n 24 8),
    x := f 32 8 19 0 + 1, y := f 32 8 39 20 + 1, z := f 32 8 59 40 + 1,
    c := f 40 4 22 16, p := f 40 4 14 8,
    qc := (match f 40 4 4 3 with
      | 0 => 1
      | 1 => 2
      | 2 => 4
      | _ => 0),
    k := f 40 4 2 0 + 1, b1 := 8 * f 44 4 24 16, b0 := 8 * f 44 4 8 0,
    barv := f 48 4 13 13 == 1, seedv := f 48 4 12 12 == 1, accs := f 48 4 11 11, prio := f 48 4 10 8,
    ser := f 48 4 7 7 == 1, det := f 48 4 6 6 == 1, cls := f 48 4 5 4, stash := 65536 * f 48 4 3 0,
    quant := f 52 4 16 0, bnum := f 56 4 26 16 + 1, blo := f 56 4 10 0, seed := w64n (n 64 8),
    out0 := w64n (n 72 8), osz0 := n 80 4, osz1 := n 84 4, out1 := w64n (n 88 8),
    cbmap := w64n (n 96 8), dbmap := w64n (n 104 8), dc := f 112 8 63 48, da := f 112 8 47 32,
    db := sgn 32 (f 112 8 31 0), dq := f 120 8 57 48, dser := f 120 8 47 0 }

def LaunchRec.teams (l : LaunchRec) : Nat := l.x * l.y * l.z
def LaunchRec.groups (l : LaunchRec) : Nat := l.p + l.c
def LaunchRec.units (l : LaunchRec) : Nat := l.k * l.qc
/-- ⌈G ÷ (k × q)⌉. -/
def LaunchRec.perUnit (l : LaunchRec) : Nat := if l.units = 0 then 17 else ceilDiv l.groups l.units
/-- Accumulators per stream instance, 0 without a stream. -/
def LaunchRec.accNeed (l : LaunchRec) : Nat := if l.mpc = 0 then 0 else l.accs + 1
/-- A grid that is placed, pre-empted and restored as a whole (R353). -/
def LaunchRec.whole (l : LaunchRec) : Bool := l.cls == 2 || l.det

/-- The pool reservation of one team (R147). -/
def LaunchRec.reserve (l : LaunchRec) : Nat :=
  (l.p * l.b0 + l.c * l.b1) * 256 + l.groups * 8192 + 8192 + l.k * l.stash +
    (if l.mpc = 0 then 0 else l.units * 132 * 1024) + (if l.det then l.groups * 768 * 1024 else 0)

/-- What teams of one shape take of a core: groups and accumulators of each partition, and stash. -/
structure CoreUse where
  parts : List (Nat × Nat)
  stash : Nat
  teams : Nat
  deriving DecidableEq, Repr

/-- Has a partition that holds so many groups and accumulators room for a unit of a team (R343)? -/
def LaunchRec.unitFits (l : LaunchRec) (p : Nat × Nat) : Bool :=
  decide (p.1 + l.perUnit ≤ 16) && decide (p.2 + l.accNeed ≤ 2)

/-- Has a core room for a core of one more such team (R343)? -/
def CoreUse.fits (c : CoreUse) (l : LaunchRec) : Bool :=
  decide (c.stash + l.stash ≤ 768 * 1024) && !(l.barv && c.teams != 0) && decide (l.qc ≤ (c.parts.filter l.unitFits).length)

/-- Put units u, u + 1, … of a team, n of them, on the lowest partitions with room. -/
def LaunchRec.putUnits (l : LaunchRec) : Nat → Nat → List (Nat × Nat) → List (Nat × Nat)
  | _, _, [] => []
  | u, n, p :: t =>
    if n != 0 && l.unitFits p then (p.1 + ceilDiv (l.groups - u) l.units, p.2 + l.accNeed) :: l.putUnits (u + 1) (n - 1) t
    else p :: l.putUnits u n t

/-- Put team cores j, j + 1, … on the lowest cores with room: how many are placed in all, and the cores after. -/
def LaunchRec.putCores (l : LaunchRec) : Nat → List CoreUse → Nat × List CoreUse
  | j, [] => (j, [])
  | j, c :: t =>
    if j < l.k && c.fits l then
      let r := l.putCores (j + 1) t
      (r.1, { parts := l.putUnits (j * l.qc) l.qc c.parts, stash := c.stash + l.stash, teams := c.teams + 1 } :: r.2)
    else
      let r := l.putCores j t
      (r.1, c :: r.2)

/-- How many teams R343 places one after another on the cores of a cluster. -/
def LaunchRec.fill (l : LaunchRec) : Nat → List CoreUse → Nat
  | 0, _ => 0
  | n + 1, cs =>
    let r := l.putCores 0 cs
    if r.1 = l.k then 1 + l.fill n r.2 else 0

/-- The concurrent capacity C (R42) of n clusters: n times the teams that R343 would place on an empty
one. -/
def LaunchRec.capacity (l : LaunchRec) (n : Nat) : Nat :=
  n * l.fill 512 (List.replicate 8 ⟨List.replicate 4 (0, 0), 0, 0⟩)

/-- An entry PC: canonical, aligned, and not zero where its role has groups. -/
def pcBad (v : Word64) (used : Bool) : Bool := !canonical v || fld v 2 0 != 0 || (used && v == 0)

/-- The first of some checked fields that fails: its byte offset. -/
def firstBad (l : List (Nat × Bool)) : Option Nat := (l.find? (fun e => e.2)).map (fun e => e.1)

/-- Reason 2: offset of the first failing field (R339, R340). -/
def badFields (l : LaunchRec) : Option Nat :=
  let f (o k hi lo : Nat) : Nat := recFld l.raw o k hi lo
  let role (n b : Nat) : Bool := n != 0 && (decide (b < 32) || decide (2048 < b))
  firstBad [(0, pcBad l.entry0 (l.p != 0)), (8, pcBad l.entry1 (l.c != 0)), (16, pcBad l.mpc false),
    (32, f 32 8 63 60 != 0),
    (40, f 40 4 31 23 != 0 || f 40 4 15 15 != 0 || f 40 4 7 5 != 0 || l.qc == 0 || l.groups == 0 ||
      decide (64 < l.groups)),
    (44, f 44 4 31 25 != 0 || f 44 4 15 9 != 0 || role l.p l.b0 || role l.c l.b1),
    (48, f 48 4 31 14 != 0 || decide (12 * 65536 < l.stash)), (52, f 52 4 31 17 != 0),
    (56, f 56 4 31 27 != 0 || f 56 4 15 11 != 0 || decide (2048 < l.blo + l.bnum)), (60, recNum l.raw 60 4 != 0),
    (112, if l.dbmap = 0 then recNum l.raw 112 8 != 0 else l.dc == 0),
    (120, f 120 8 63 58 != 0 || (l.dbmap == 0 && recNum l.raw 120 8 != 0))]

/-- Reason 3. -/
def badClass (l : LaunchRec) : Option Nat :=
  firstBad [(48, l.cls == 3 || (l.accs == 1 && l.mpc == 0)),
    (52, if l.det then decide (l.quant < 256) || decide (65536 < l.quant) else l.quant != 0)]

/-! ### Dependences (R345) -/

inductive Dep where
  | ok
  | wait
  | rejected                           -- the producer's bitmap shows STATE 2
  | unreadable (va : Word64)
  deriving DecidableEq, Repr

/-- The header at DBMAP: its TEAMS, none where it does not match; or why not. -/
def State.depHeader (s : State) (c : Nat) (l : LaunchRec) : State × (Option Nat ⊕ Dep) :=
  let r := s.vread c 64 l.dbmap
  match r.2 with
  | .inr a => (r.1, .inr (.unreadable a))
  | .inl b =>
    let gid := w64n (recNum b 0 8)
    if fld gid 57 48 = l.dq && fld gid 47 0 = l.dser then
      (r.1, if recNum b 16 1 = 2 then .inr .rejected else .inl (some (recNum b 8 8)))
    else (r.1, .inl none)

/-- Are the bits of a producer of `teams` teams that team t needs set? -/
def State.depBits (s : State) (c t : Nat) (l : LaunchRec) (teams : Nat) : State × Dep :=
  let at_ : Int := (l.da * t : Nat) + l.db
  let lo := (max 0 at_).toNat
  let hi := (min (teams : Int) (at_ + l.dc)).toNat
  if hi ≤ lo then (s, .ok)
  else
    let first := lo / 8
    let r := s.vread c ((hi - 1) / 8 - first + 1) (l.dbmap + 64 + w64n first)
    match r.2 with
    | .inr a => (r.1, .unreadable a)
    | .inl b => (r.1, if (List.range (hi - lo)).all (fun j =>
        (((b[(lo + j) / 8 - first]?).getD 0)).getLsbD ((lo + j) % 8)) then .ok else .wait)

/-- Are the producer's bits that team t needs set? A bit set in this cycle is seen in the next (R47). -/
def State.depends (s : State) (c t : Nat) (l : LaunchRec) : State × Dep :=
  if l.dbmap = 0 then (s, .ok)
  else
    let h := s.depHeader c l
    match h.2 with
    | .inr d => (h.1, d)
    | .inl none => (h.1, .wait)
    | .inl (some teams) =>
      let b := h.1.depBits c t l teams
      (b.1, if b.2 == .ok && s.bitAt == s.cycle + 1 then .wait else b.2)

/-- Of two findings, the one that decides for all teams: a failure, else a wait. -/
def Dep.both : Dep → Dep → Dep
  | .ok, d => d
  | .wait, .ok => .wait
  | .wait, d => d
  | d, _ => d

/-- The dependences of teams 0 to n - 1 together (R345): a bit that cannot be read counts whichever team needs it. -/
def State.dependAll (s : State) (c : Nat) (l : LaunchRec) : Nat → State × Dep
  | 0 => (s, .ok)
  | n + 1 =>
    if l.dbmap = 0 then (s, .ok) else
    let r := s.dependAll c l n
    match r.2 with
    | .rejected => r
    | .unreadable _ => r
    | d =>
      let x := r.1.depends c n l
      (x.1, d.both x.2)

/-! ### Rejection (R339, R340) -/

def gridIdOf (c queue : Nat) (serial : BitVec 48) : Word64 := w64n (c * 2 ^ 58 + queue * 2 ^ 48 + serial.toNat)

/-- The header of a completion bitmap (R344). -/
def bitmapHeader (grid : Word64) (teams state : Nat) : List Byte :=
  toBytes 8 grid.toNat ++ toBytes 8 teams ++ toBytes 1 state ++ List.replicate 47 0

/-- Reject an entry: the record, EPOS, the vector, and STATE 2 in its bitmap. -/
def State.reject (s : State) (queue : Nat) (grid recAt : Word64) (reason off : Nat) (l : Option LaunchRec) : State :=
  let q := s.queue queue
  let b := toBytes 8 grid.toNat ++ toBytes 8 recAt.toNat ++ toBytes 4 reason ++ toBytes 4 off ++ List.replicate 40 0
  let s := s.homePut b (q.ebase + 64 * (q.epos.toNat % 2 ^ (q.esz + 4)))
  let s := (s.setQueue queue { q with epos := q.epos + 1 }).signal q.vec
  match l with
  | some l => if l.cbmap = 0 then s else s.bitmapWrite (fld grid 63 58) (bitmapHeader grid l.teams 2) l.cbmap grid
  | none => s

/-! ### Heads (R337, R341) -/

/-- What stands at the head of a dispatch queue. -/
inductive Head where
  | seed (v : Word64)
  | bad (reason : Nat) (recAt : Word64)
  | launch (recAt arg : Word64) (l : LaunchRec)
  deriving DecidableEq, Repr

def Head.prio : Head → Nat
  | .launch _ _ l => l.prio
  | _ => 7

/-- The head entry, and the record it names. -/
def State.headOf (s : State) (q : Queue) : State × Head :=
  let r := s.devBytes 0 64 (q.slotAt q.head)
  let b := r.2
  let recAt := w64n (recNum b 8 8)
  if recNum b 0 8 = 2 && recNum b 16 48 = 0 then (r.1, .seed recAt)
  else if recNum b 0 1 ≠ 1 || 1 < recNum b 1 1 || recNum b 2 6 ≠ 0 || recNum b 24 40 ≠ 0 then (r.1, .bad 7 recAt)
  else if recAt.toNat % 128 ≠ 0 then (r.1, .bad 1 recAt)
  else
    let x := r.1.vread q.ctx 128 recAt
    match x.2 with
    | .inr _ => (x.1, .bad 1 recAt)
    | .inl raw =>
      let l := parseLaunch raw
      (x.1, .launch recAt (if recNum b 1 1 = 1 then w64n (recNum b 16 8) else l.arg) l)

/-- Does a grid need more clusters than are ready (R401)? It then waits at the head of its queue. -/
def State.unreadyHead (s : State) (l : LaunchRec) : Bool :=
  let ready := ((List.range 40).filter (fun k => s.usable (16 + k))).length
  l.whole && (badFields l).isNone && (badClass l).isNone && decide (l.teams ≤ l.capacity 40) &&
    decide (l.capacity ready < l.teams)

/-- Is the head blocked (R341, R362)? An admitted grid of the queue is listed until it is chained or ended. -/
def State.blockedHead (s : State) (n : Nat) (h : Head) : Bool :=
  s.grids.any (fun e => e.2.queue == n && e.2.waiting) ||
    (match h with
      | .launch _ _ l => (l.ser && s.grids.any (fun e => e.2.queue == n)) || s.unreadyHead l
      | _ => false)

/-- The eligible heads: queue, head. -/
def State.heads (s : State) : State × List (Nat × Head) :=
  s.queues.foldl (fun acc e =>
    let q := e.2
    if !q.on || q.mode != 0 || q.count == 0 then acc
    else
      let h := acc.1.headOf q
      (h.1, if h.1.blockedHead e.1 h.2 then acc.2 else acc.2 ++ [(e.1, h.2)])) (s, [])

/-- The entry that the distributor considers: highest priority, then round robin after `served`. -/
def pickHead (served : Nat) (l : List (Nat × Head)) : Option (Nat × Head) :=
  let turn (n : Nat) : Nat := (n + 1023 - served) % 1024
  firstOf (fun a b => if a.2.prio ≠ b.2.prio then decide (b.2.prio < a.2.prio) else decide (turn a.1 < turn b.1)) l

/-- HEAD advances; the slot is freed by the dispatcher (R358). -/
def Queue.advance (q : Queue) : Queue :=
  { q with head := q.head + 1, freed := ddel q.freed q.head.toNat, clocks := ddel q.clocks q.head.toNat }

/-- Why a record is rejected at the head (R339): reason and offset. -/
def State.admission (s : State) (c : Nat) (l : LaunchRec) : State × Option (Nat × Nat) :=
  match badFields l, badClass l with
  | some o, _ => (s, some (2, o))
  | none, some o => (s, some (3, o))
  | none, none =>
    if 16 < l.perUnit then (s, some (4, 40))
    else if l.whole && decide (l.capacity 40 < l.teams) then (s, some (5, 48))
    else if l.whole && decide ((s.ctx c).num 48 4 * 65536 < l.teams * l.reserve) then (s, some (6, 48))
    else
      let d := s.dependAll c l l.teams
      match d.2 with
      | .ok | .wait => (d.1, if 2 ^ 48 < l.teams then some (9, 32) else none)
      | _ => (d.1, some (8, 104))

/-- The range of each cluster (R342). -/
def splitRanges (n : Nat) : List Range :=
  (List.range 40).map (fun cl =>
    let lo := cl / 10 * n / 4
    let w := (cl / 10 + 1) * n / 4 - lo
    ⟨cl, lo + cl % 10 * w / 10, lo + (cl % 10 + 1) * w / 10⟩)

/-- A grid passes stage 2 (R44, R344, R360): its seed is latched, HEAD advances, and its bitmap is
cleared and headed. -/
def State.passStage2 (s : State) (key : Nat) (g : Grid) : State :=
  let q := s.queue g.queue
  let g := { g with waiting := false, seed := if g.lrec.seedv then g.lrec.seed else q.seedAt s.cycle, order := s.nextId }
  let s := { s.setQueue g.queue q.advance with
    grids := dput s.grids key g, nextId := s.nextId + 1 }
  if g.lrec.cbmap = 0 then s
  else
    let n := g.lrec.teams
    (s.bitmapWrite g.ctx (List.replicate (ceilDiv n 8) 0) (g.lrec.cbmap + 64) g.gridId).bitmapWrite g.ctx
      (bitmapHeader g.gridId n 0) g.lrec.cbmap g.gridId

/-- DISPATCH_HEAD (R341), at most once in a cycle: one head is seeded from, rejected, passed on, or left waiting in stage 2 to
be placed in one step (R345). -/
def execDispatchHead (s : State) : Host.Outcome State Fault Refusal :=
  finish s (
    if s.headAt = s.cycle + 1 then s else
    let hs := s.heads
    match pickHead hs.1.served hs.2 with
    | none => s
    | some (n, h) =>
      let s := { hs.1 with served := n, headAt := hs.1.cycle + 1 }
      let q := s.queue n
      let grid := gridIdOf q.ctx n q.head
      match h with
      | .seed v => s.setQueue n { q.advance with seed := v, seedNew := none }
      | .bad reason recAt => (s.reject n grid recAt reason 0 none).modQueue n Queue.advance
      | .launch recAt arg l =>
        let a := s.admission q.ctx l
        match a.2 with
        | some (reason, off) => (a.1.reject n grid recAt reason off (some l)).modQueue n Queue.advance
        | none =>
          let key := s.nextId
          let s := { a.1 with nextId := s.nextId + 1 }
          let g : Grid := { lrec := l, gridId := grid, ctx := q.ctx, queue := n, serial := q.head.toNat, recAt := recAt,
                            arg := arg, seed := 0, order := key, waiting := l.whole,
                            ranges := if l.whole then [] else splitRanges l.teams }
          if l.whole then { s with grids := dput s.grids key g } else s.passStage2 key g)

/-! ### Room on a cluster (R343) -/

def State.residents (s : State) : List Team := (s.teams.filter (fun e => !e.2.saved)).map (fun e => e.2)

/-- The device partition of placement unit u. -/
def Team.unitPart (t : Team) (u : Nat) : Option Nat := t.parts.flatten[u]?
/-- How many of a team's groups belong to a partition; they hold their places until the team goes. -/
def Team.groupsOn (t : Team) (part : Nat) : Nat :=
  ((List.range t.gids.length).filter (fun g => t.unitPart (g % max 1 t.parts.flatten.length) == some part)).length
def Team.accsOn (t : Team) (part : Nat) : Nat :=
  t.insts.foldl (fun a e => if e.2.part == part && !e.2.ended then a + e.2.owned else a) 0

def sumOf (l : List Nat) : Nat := l.foldl (fun a b => a + b) 0

/-- Has a partition room for the groups and accumulators of a team? -/
def partFits (ts : List Team) (l : LaunchRec) (part : Nat) : Bool :=
  decide (sumOf (ts.map (fun t => t.groupsOn part)) + l.perUnit ≤ 16) &&
    decide (sumOf (ts.map (fun t => t.accsOn part)) + l.accNeed ≤ 2)

/-- The partitions that a team would use on a core, if it fits there. -/
def coreFits (ts : List Team) (l : LaunchRec) (core : Nat) : Option (List Nat) :=
  let here := ts.filter (fun t => t.cores.contains core)
  let stash := sumOf (here.map (fun t => t.stashSize))
  let clash := l.barv && here.any (fun t => t.bnum != 0 && decide (t.blo < l.blo + l.bnum) && decide (l.blo < t.blo + t.bnum))
  let ps := ((List.range 4).map (fun i => 4 * core + i)).filter (partFits ts l)
  if decide (stash + l.stash ≤ 768 * 1024) && !clash && decide (l.qc ≤ ps.length) then some (ps.take l.qc) else none

/-- The cores and partitions that a team would take on a cluster. -/
def clusterFits (ts : List Team) (l : LaunchRec) (cl : Nat) : Option (List (Nat × List Nat)) :=
  let cs := ((List.range 8).map (fun i => 8 * cl + i)).filterMap (fun c => (coreFits ts l c).map (fun p => (c, p)))
  if l.k ≤ cs.length then some (cs.take l.k) else none

/-- The same on a cluster that is ready (R401), beside the teams there. -/
def State.fits (s : State) (l : LaunchRec) (cl : Nat) : Option (List (Nat × List Nat)) :=
  if s.usable (16 + cl) then clusterFits s.residents l cl else none

def State.poolFits (s : State) (c : Nat) (l : LaunchRec) : Bool :=
  decide ((s.ctx c).poolUsed + l.reserve ≤ (s.ctx c).num 48 4 * 65536)

/-! ### Placement (R28, R33 to R39, R44) -/

/-- The lowest resident index free on a partition (R105). That of a retired group is free although its team still is
resident and holds the place on the partition (DESIGN CHOICE, log 105). -/
def State.freeIndex (s : State) (part : Nat) : Nat :=
  ((List.range 16).find? (fun i => !s.groups.any (fun e => e.2.part == part && e.2.resident == i &&
    !((s.team? e.2.team).map (fun t => t.saved)).getD false))).getD 0

/-- A group at its start (R28, R39). -/
def newGroup (gr : Grid) (key team t g part resident cycle : Nat) (area : Word64) : Group :=
  let l := gr.lrec
  let cons := decide (l.p ≤ g)
  let u := g % max 1 l.units
  { team := team, g := g, gridKey := key, ctx := gr.ctx, gridId := gr.gridId,
    linear := BitVec.ofNat 54 (t * 64 + g),
    teamId := w64n (t % l.x + t / l.x % l.y * 2 ^ 20 + t / (l.x * l.y) * 2 ^ 40),
    consumer := cons, ridx := if cons then g - l.p else g, tcore := u / max 1 l.qc, part := part,
    resident := resident, budget := if cons then l.b1 else l.b0, seed := gr.seed, det := l.det, started := true,
    sregs := tset 0 [] 0 gr.arg,
    slot0 := { emptySlot with pc := if cons then l.entry1 else l.entry0, mask := allLanes, stamp := cycle,
                              eligFrom := cycle + 1 },
    slot1 := { emptySlot with stamp := cycle },
    harea := area }

/-- Give a team its cores: an acquire on each (R257), and its barriers as `bars` says (R148, R248). -/
def State.takeCores (s : State) (t : Team) (bar : Nat → Nat → Bar) : State :=
  (t.cores.zip (List.range t.cores.length)).foldl (fun s c =>
    let s := s.fenceAcq c.1 .device
    (List.range t.bnum).foldl (fun s i => s.setBar c.1 (t.blo + i) { bar c.2 (t.blo + i) with last := s.cycle }) s) s

/-- Place team t of a grid on the cores and partitions `at_` of a cluster: stage 4 of R44. -/
def State.placeTeam (s : State) (key : Nat) (gr : Grid) (t cl : Nat) (at_ : List (Nat × List Nat)) : State :=
  let l := gr.lrec
  let tk := s.nextId
  let parts := at_.map (fun e => e.2)
  let units := parts.flatten
  let team : Team :=
    { gridKey := key, index := t, ctx := gr.ctx, cluster := cl, cores := at_.map (fun e => e.1), parts := parts,
      producers := l.p, stashSize := l.stash, blo := l.blo, bnum := if l.barv then l.bnum else 0,
      insts := if l.mpc = 0 then [] else (List.range units.length).map (fun u =>
        (u, { part := (units[u]?).getD 0, pc := l.mpc, owned := l.accs + 1, placed := s.cycle })),
      placedAt := s.cycle, pool := l.reserve }
  let s := ({ s with nextId := tk + 1 }).takeCores team (fun _ _ => {})
  let r := (List.range l.groups).foldl (fun (acc : State × List Nat) g =>
    let s := acc.1
    let part := (units[g % max 1 units.length]?).getD 0
    let n := s.nextId
    let grp := newGroup gr key tk t g part (s.freeIndex part) s.cycle ((Config.handlerArea s.fresh).zeroExtend 64 <<< 12)
    ({ s.setGroup n grp with nextId := n + 1, fresh := s.fresh + 1 }, acc.2 ++ [n])) (s, [])
  let s := r.1.setTeam tk { team with gids := r.2 }
  let x := s.ctx gr.ctx
  let s := s.setCtx gr.ctx { x with poolUsed := x.poolUsed + l.reserve }
  { s with grids := match dget s.grids key with
      | some g => dput s.grids key { g with placed := g.placed + 1, roomless := 0 }
      | none => s.grids }

/-- The grids with teams to place on clusters, highest priority first, then the earlier (R343). -/
def State.gridOrder (s : State) : List (Nat × Grid) :=
  (s.grids.filter (fun e => !e.2.waiting)).mergeSort (fun a b =>
    if a.2.lrec.prio ≠ b.2.lrec.prio then decide (b.2.lrec.prio < a.2.lrec.prio) else decide (a.2.order ≤ b.2.order))

/-- Is a saved team allowed to come back: its context resident and not being displaced? -/
def State.mayRestore (s : State) (c : Nat) : Bool := (s.ctx c).valid && !(s.pbusy && s.pctx == c)

def State.savedTeams (s : State) (key : Nat) : List (Nat × Team) :=
  s.teams.filter (fun e => e.2.gridKey == key && e.2.saved)

/-- Would cluster cl restore a team of the grid before it places one (R343)? -/
def State.restoreFirst (s : State) (key : Nat) (gr : Grid) (cl : Nat) : Bool :=
  !(s.savedTeams key).isEmpty && s.mayRestore gr.ctx && (s.fits gr.lrec cl).isSome

/-- A grid found STATE 2, or an unreadable bitmap, in its dependence check (R345). -/
def State.depFails (s : State) (key : Nat) (gr : Grid) (va : Option Word64) : State :=
  if gr.placed = 0 then
    { s.reject gr.queue gr.gridId gr.recAt 8 104 (some gr.lrec) with grids := ddel s.grids key }
  else
    let s := { s with grids := dput s.grids key { gr with neverPlace := true } }
    match va with
    | some a => if gr.neverPlace then s else s.event 0x11 3 0 0 0 a gr.gridId
    | none => s

/-- Is a grid none of whose teams is placed to be rejected: some team's dependence fails (R345)? -/
def State.depCheck (s : State) (gr : Grid) (t : Nat) : State × Dep :=
  if gr.placed = 0 then
    let a := s.dependAll gr.ctx gr.lrec gr.lrec.teams
    match a.2 with
    | .ok | .wait => a.1.depends gr.ctx t gr.lrec
    | d => (a.1, d)
  else s.depends gr.ctx t gr.lrec

/-- The part of a grid from which a cluster places next: that of the least index. -/
def Grid.nextRange (gr : Grid) (cl : Nat) : Option Range :=
  firstOf (fun a b => decide (a.lo < b.lo)) (gr.ranges.filter (fun r => r.cluster == cl && decide (r.lo < r.hi)))

/-- Are unplaced teams of a grid placed at all: its context is there, and is not being displaced (R351)? -/
def State.mayPlace (s : State) (gr : Grid) : Bool :=
  !gr.neverPlace && s.mayRestore gr.ctx && (s.ctx gr.ctx).terminate.isNone

/-- Does the next team of a grid on a cluster wait for the room of a pre-emption there: it became placeable in the cycle
in which the cluster was chosen (R352)? -/
def State.lateOn (s : State) (gr : Grid) (cl : Nat) : Bool :=
  gr.late.contains cl &&
    s.teams.any (fun e => e.2.cluster == cl && !e.2.saved && (e.2.preempt.isSome || s.victims.contains e.1))

/-- The cluster serves the grids in order (R343): the first that can restore a team there, or place its next. A
grid found without room anywhere is noted (R351). -/
def State.tryPlace (s : State) (cl : Nat) : List (Nat × Grid) → State
  | [] => s
  | (key, gr) :: rest =>
    if s.restoreFirst key gr cl then s else
    match gr.nextRange cl with
    | none => s.tryPlace cl rest
    | some r =>
      if !s.mayPlace gr || s.lateOn gr cl then s.tryPlace cl rest
      else
        let d := s.depCheck gr r.lo
        match d.2 with
        | .wait => d.1.tryPlace cl rest
        | .rejected => d.1.depFails key gr none
        | .unreadable a => d.1.depFails key gr (some a)
        | .ok =>
          match d.1.fits gr.lrec cl with
          | some at_ =>
            if !d.1.poolFits gr.ctx gr.lrec then d.1.tryPlace cl rest
            else
              let ranges := gr.ranges.map (fun x => if x = r then { x with lo := r.lo + 1 } else x)
              let gr := { gr with ranges := ranges }
              { d.1 with grids := dput d.1.grids key gr }.placeTeam key gr r.lo cl at_
          | none =>
            let none_ := (List.range 40).all (fun c => (d.1.fits gr.lrec c).isNone)
            let since := if none_ then (if gr.roomless = 0 then s.cycle + 1 else gr.roomless) else 0
            { d.1 with grids := dput d.1.grids key { gr with roomless := since } }.tryPlace cl rest

/-- Does a cluster serve another grid before it restores a team of this one (R343, R352): one before it in order that
can restore or place a team there, or one of higher priority that waits in stage 2 with its dependences met? -/
def State.outranked (s : State) (key : Nat) (gr : Grid) (cl : Nat) : Bool :=
  (s.gridOrder.takeWhile (fun e => e.1 != key)).any (fun e =>
    s.restoreFirst e.1 e.2 cl || (s.mayPlace e.2 && (match e.2.nextRange cl with
      | none => false
      | some r => (s.depCheck e.2 r.lo).2 == .ok && (s.fits e.2.lrec cl).isSome && s.poolFits e.2.ctx e.2.lrec))) ||
  s.grids.any (fun e => e.2.waiting && decide (gr.lrec.prio < e.2.lrec.prio) && s.mayPlace e.2 &&
    (s.dependAll e.2.ctx e.2.lrec e.2.lrec.teams).2 == .ok)

/-- TEAM_PLACEMENT (R343). -/
def execTeamPlacement (cluster : Nat) (s : State) : Host.Outcome State Fault Refusal :=
  finish s (if cluster < 40 then s.tryPlace cluster s.gridOrder else s)

/-- Place the teams t, t + 1, … of a grid on the given clusters; none where a team does not fit. -/
def State.placeAll (s : State) (key : Nat) (gr : Grid) : Nat → List Nat → Option State
  | _, [] => some s
  | t, cl :: rest =>
    match (if cl < 40 then s.fits gr.lrec cl else none) with
    | none => none
    | some at_ => if s.poolFits gr.ctx gr.lrec then (s.placeTeam key gr t cl at_).placeAll key gr (t + 1) rest else none

/-- CONCURRENT_PLACEMENT (R42, R345): the grid that waits in stage 2 of a queue is placed in one step,
its teams on the clusters named, or rejected with reason 8. -/
def execConcurrentPlacement (queue : Nat) (clusters : List Nat) (s : State) : Host.Outcome State Fault Refusal :=
  finish s (match s.grids.find? (fun e => e.2.queue == queue && e.2.waiting) with
  | none => s
  | some (key, gr) =>
    if clusters.length ≠ gr.lrec.teams || !s.mayPlace gr then s else
    let d := s.dependAll gr.ctx gr.lrec gr.lrec.teams
    match d.2 with
    | .wait => d.1
    | .ok => match (d.1.passStage2 key gr).grids.find? (fun e => e.1 == key) with
      | none => d.1
      | some (_, g) => ((d.1.passStage2 key gr).placeAll key g 0 clusters).getD d.1
    | _ => ({ d.1.reject gr.queue gr.gridId gr.recAt 8 104 (some gr.lrec) with
              grids := ddel d.1.grids key }).modQueue gr.queue Queue.advance)

/-! ### Stealing (R342) -/

def Range.left (r : Range) : Nat := r.hi - r.lo
def leftOf (l : List Range) : Nat := sumOf (l.map Range.left)
def clusterPart (l : List Range) (cl : Nat) : List Range := l.filter (fun r => r.cluster == cl && decide (r.lo < r.hi))
def diePart (l : List Range) (d : Nat) : List Range := l.filter (fun r => r.cluster / 10 == d && decide (r.lo < r.hi))

/-- The unplaced part that cluster cl steals from (R342): that of the sibling with most left, else of the die with
most left. -/
def stealFrom (l : List Range) (cl : Nat) : List Range :=
  let most (left : Nat → Nat) (among : List Nat) : Nat :=
    (firstOf (fun a b => if left a ≠ left b then decide (left b < left a) else decide (a < b)) among).getD 0
  let d := cl / 10
  if 0 < leftOf (diePart l d) then
    clusterPart l (most (fun c => leftOf (clusterPart l c)) ((List.range 10).map (fun i => 10 * d + i)))
  else diePart l (most (fun e => leftOf (diePart l e)) [0, 1, 2, 3])

/-- The n highest indices of ranges that stand in falling order, as ranges of cluster cl. -/
def takeUpper (cl : Nat) : Nat → List Range → List Range
  | _, [] => []
  | n, r :: t =>
    if n = 0 then r :: t
    else if r.left ≤ n then { r with cluster := cl } :: takeUpper cl (n - r.left) t
    else { r with hi := r.hi - n } :: { r with cluster := cl, lo := r.hi - n } :: t

/-- RANGE_STEAL (R342): the upper half, rounded down; a part of one team whole. -/
def execRangeSteal (grid cluster : Nat) (s : State) : Host.Outcome State Fault Refusal :=
  .next (match dget s.grids grid with
  | none => s
  | some gr =>
    let part := stealFrom gr.ranges cluster
    let roomBefore := (List.range cluster).any (fun c => c / 10 == cluster / 10 && (s.fits gr.lrec c).isSome)
    let other := part.any (fun r => r.cluster / 10 != cluster / 10)
    if 40 ≤ cluster || (gr.nextRange cluster).isSome || (s.fits gr.lrec cluster).isNone || (other && roomBefore) then s
    else
      let down := part.mergeSort (fun a b => decide (b.lo ≤ a.lo))
      let ranges := gr.ranges.filter (fun r => !part.contains r) ++ takeUpper cluster (max 1 (leftOf part / 2)) down
      { s with grids := dput s.grids grid { gr with ranges := ranges } })

/-! ### Pre-emption decisions (R351) -/

/-- Is a grid in need of room: one that waits in stage 2, or one without room for 4,096 cycles? -/
def State.needsRoom (s : State) (g : Grid) : Bool :=
  g.waiting || (g.roomless != 0 && decide (g.roomless - 1 + 4096 ≤ s.cycle))

/-- Would the whole of a grid fit beside the teams `ts`? Teams are tried on the clusters `cls` in order. -/
def wholeFits (cls : List Nat) (l : LaunchRec) : Nat → List Team → Bool
  | 0, _ => true
  | n + 1, ts =>
    match cls.findSome? (fun cl => (clusterFits ts l cl).map (fun a => (cl, a))) with
    | none => false
    | some (cl, at_) =>
      let parts := at_.map (fun e => e.2)
      let t : Team :=
        { gridKey := 0, index := 0, ctx := 0, cluster := cl, cores := at_.map (fun e => e.1), parts := parts,
          gids := List.range l.groups, stashSize := l.stash, blo := l.blo, bnum := if l.barv then l.bnum else 0,
          insts := if l.mpc = 0 then [] else (List.range parts.flatten.length).map (fun u =>
            (u, { part := (parts.flatten[u]?).getD 0, pc := 0, owned := l.accs + 1 })) }
      wholeFits cls l n (t :: ts)

/-- The teams that may be taken for a grid of priority p on a cluster, or anywhere, in victim order:
lowest priority first, then the most recently placed. -/
def State.candidates (s : State) (p : Nat) (cl : Option Nat) : List (Nat × Team) :=
  let prio (t : Team) : Nat := ((dget s.grids t.gridKey).map (fun g => g.lrec.prio)).getD 8
  (s.teams.filter (fun e => !e.2.saved && e.2.preempt.isNone && !s.victims.contains e.1 &&
      decide (prio e.2 < p) && (match cl with
        | some c => e.2.cluster == c
        | none => true))).mergeSort (fun a b =>
    if prio a.2 ≠ prio b.2 then decide (prio a.2 < prio b.2) else decide (b.2.placedAt ≤ a.2.placedAt))

/-- A victim of a class-2 grid brings all its teams (R41). -/
def State.wholeVictims (s : State) (l : List Nat) : List Nat :=
  (l.flatMap (fun v => match s.team? v with
    | none => []
    | some t => match dget s.grids t.gridKey with
      | some g => if g.lrec.whole then (s.teams.filter (fun e => e.2.gridKey == t.gridKey && !e.2.saved)).map (fun e => e.1)
                  else [v]
      | none => [v])).eraseDups

/-- The shortest run of victims after which a team of the grid fits on the cluster, or the whole grid
anywhere; none where the teams chosen before make room for it somewhere. -/
def State.chooseVictims (s : State) (g : Grid) (cl : Nat) : List Nat :=
  let cand := s.candidates g.lrec.prio (if g.lrec.whole then none else some cl)
  let runs := (List.range (cand.length + 1)).map (fun n => s.wholeVictims ((cand.take n).map (fun e => e.1)))
  let left (v : List Nat) : List Team :=
    (s.teams.filter (fun e => !e.2.saved && e.2.preempt.isNone && !s.victims.contains e.1 && !v.contains e.1)).map
      (fun e => e.2)
  let ready := (List.range 40).filter (fun c => s.usable (16 + c))
  let fits (v : List Nat) : Bool :=
    if g.lrec.whole then wholeFits ready g.lrec g.lrec.teams (left v)
    else ready.contains cl && (clusterFits (left v) g.lrec cl).isSome
  if !g.lrec.whole && ready.any (fun c => (clusterFits (left []) g.lrec c).isSome) then []
  else (runs.find? fits).getD []

/-- Has the next team of a grid on a cluster become placeable in this cycle: its grid passed stage 2 in it, or its last
producer bit was set in the cycle before (R345, R352)? -/
def State.becameReady (s : State) (gr : Grid) (cl : Nat) : Bool :=
  let passed := s.headAt == s.cycle + 1 && s.grids.all (fun e => decide (e.2.order ≤ gr.order))
  !gr.waiting && (passed || (gr.lrec.dbmap != 0 && s.bitAt == s.cycle)) && (match gr.nextRange cl with
    | some r => s.mayPlace gr && (s.depends gr.ctx r.lo gr.lrec).2 == .ok
    | none => false)

/-- Note, on a cluster that has just been chosen for a pre-emption, the grids whose teams wait for its room. -/
def State.markLate (s : State) (cl : Nat) : State :=
  { s with grids := s.grids.map (fun e =>
      let others := e.2.late.filter (fun c => c != cl)
      (e.1, { e.2 with late := if s.becameReady e.2 cl then cl :: others else others })) }

/-- PREEMPT_DECISION (R351): victims on a cluster for the grids that need room, in their order. -/
def execPreemptDecision (cluster : Nat) (s : State) : Host.Outcome State Fault Refusal :=
  .next (
    let need := (s.grids.filter (fun e => s.needsRoom e.2)).mergeSort (fun a b =>
      if a.2.lrec.prio ≠ b.2.lrec.prio then decide (b.2.lrec.prio < a.2.lrec.prio) else decide (a.2.order ≤ b.2.order))
    if 40 ≤ cluster then s
    else
      let t := need.foldl (fun s e => { s with victims := s.victims ++ s.chooseVictims e.2 cluster }) s
      if t.victims.length = s.victims.length then t else t.markLate cluster)

/-! ### Completion and the digest chain (R46, R361, R362) -/

/-- The part of the digest message for one output region. -/
def State.regionMsg (s : State) (gr : Grid) (out : Word64) (size : Nat) : State × List Byte :=
  if size = 0 then (s, [])
  else
    let r := s.vread gr.ctx size out
    let head := toBytes 8 out.toNat ++ toBytes 4 size
    match r.2 with
    | .inl b => (r.1, head ++ b)
    | .inr _ => (r.1.event 0x10 3 0 0 0 0 gr.gridId, head ++ List.replicate 8 0xFF)

/-- A grid completes (R46): STATE 1, and its result digest. -/
def State.completeGrid (s : State) (key : Nat) (gr : Grid) : State :=
  let l := gr.lrec
  let s := if l.cbmap = 0 then s else s.bitmapWrite gr.ctx (toBytes 1 1) (l.cbmap + 16) gr.gridId
  let a := s.regionMsg gr l.out0 l.osz0
  let b := a.1.regionMsg gr l.out1 l.osz1
  let d := shake256 (l.raw ++ toBytes 8 gr.arg.toNat ++ toBytes 8 gr.seed.toNat ++ a.2 ++ b.2)
  { b.1 with grids := dput b.1.grids key { gr with complete := true, digest := some d } }

/-- The next grid of a queue in the chain: the admitted grid of least serial. -/
def State.nextChained (s : State) (queue : Nat) : Option (Nat × Grid) :=
  firstOf (fun a b => decide (a.2.order < b.2.order)) (s.grids.filter (fun e => e.2.queue == queue && !e.2.waiting))

/-- DIGEST_CHAIN (R362). -/
def execDigestChain (queue : Nat) (s : State) : Host.Outcome State Fault Refusal :=
  .next (match s.nextChained queue with
  | none => s
  | some (key, g) => match g.digest with
    | none => s
    | some d =>
      let q := s.queue queue
      let h := shake256 (toBytes 32 q.hash.toNat ++ toBytes 32 d.toNat ++ toBytes 8 g.serial)
      { s.setQueue queue { q with hash := h, lastSerial := w64n g.serial } with grids := ddel s.grids key })

end Sys2Proof.Machine
end

