-- ==== Sys2Proof/Machine/Lifecycle.lean ====
section
/-!
DEFINITION. Entry to a trap handler (R139), pre-emption, save and restore of teams (R146 to R150), and
the retirement of groups and teams (R45 to R47).
-/
namespace Sys2Proof.Machine

/-! ### Trap entry -/

/-- Do both slots have no clause in a clause slot? -/
def Group.noClause (g : Group) : Bool := g.slot0.running.isNone && g.slot1.running.isNone

/-- The other slot has run its clause and its replays to their end, and its transfer has resolved, with the return
address of a CALL (R76, R139 step 2), if it can without the trapping slot (log 26). -/
def Group.otherSettled (g : Group) (o : Nat) : Bool := (g.slot o).replays.isEmpty && !g.resolvesUnderTrap o

/-- TRAP_ENTRY (R139): once the group's fixed-latency results are written and the work that the other slot has
begun is at its end, the handler is entered. -/
def execTrapEntry (gid : Nat) (s : State) : Host.Outcome State Fault Refusal :=
  .next (match s.group? gid with
  | none => s
  | some g => match g.trapReq with
    | none => s
    | some r =>
      let x := s.ctx g.ctx
      if g.results.isEmpty && g.noClause && g.otherSettled (1 - r.slot) && x.terminate.isNone && !g.supervisor then
        s.setGroup gid (g.enterTrap r x.tvec x.fvec s.cycle)
      else s)

/-! ### Pre-emption (R146, R150) -/

/-- PREEMPTION_REQUEST (R146, R351): the dispatch engine starts the pre-emption of a chosen team, the first of its
cluster in victim order; one per cluster at a time. -/
def execPreemptionRequest (team : Nat) (s : State) : Host.Outcome State Fault Refusal :=
  .next (match s.team? team with
  | none => s
  | some t =>
    let busy := s.teams.any (fun e => e.2.cluster == t.cluster && e.2.preempt.isSome && !e.2.saved)
    let first := s.victims.find? (fun v => ((s.team? v).map (fun x => x.cluster == t.cluster && !x.saved)).getD false)
    if first != some team || t.saved || t.preempt.isSome || busy then s
    else { s.setTeam team { t with preempt := some s.cycle } with victims := s.victims.filter (fun v => v != team) })

/-- PREEMPTION_BOUND (R150): a group still in supervisor mode 65,536 cycles after the request stops
starting clauses. -/
def execPreemptionBound (gid : Nat) (s : State) : Host.Outcome State Fault Refusal :=
  .next (match s.group? gid with
  | none => s
  | some g => match (s.team? g.team).bind (fun t => t.preempt) with
    | none => s
    | some p => if g.supervisor && decide (p + 65536 ≤ s.cycle) then s.setGroup gid { g with stopped := true } else s)

/-- Operations that may stay at quiescence: waiting ones, and those that a commit completes (R147,
R353). -/
def Group.mayKeep (g : Group) (n : Nat) (o : Op) : Bool :=
  o.kind.waiting || (g.det && (g.brine.holds n || (match o.kind with
    | .qend => true
    | _ => false)))

/-- Is the group quiet (R146, steps 1 to 3)? A transfer of the slot that a handler holds resolves after the RTE
(log 26), and the save keeps it; one stopped at the bound is quiet in supervisor mode (R150). -/
def Group.quiet (g : Group) : Bool :=
  let still (S : Slot) : Bool := S.transfer.isNone || S.held
  g.noClause && still g.slot0 && still g.slot1 && g.spec.isNone && g.trapReq.isNone &&
    g.slot0.replays.isEmpty && g.slot1.replays.isEmpty &&
    g.results.isEmpty && g.counts.isEmpty && g.ops.all (fun e => g.mayKeep e.1 e.2) &&
    (!g.supervisor || g.stopped)

/-- Is the team quiescent (R146, step 6)? -/
def State.quiescent (s : State) (team : Nat) (t : Team) : Bool :=
  t.gids.all (fun gid => ((s.group? gid).map (fun g => g.quiet)).getD true) &&
    !s.jobs.any (fun e => e.2.team == team) &&
    !s.pfbs.any (fun e => e.2.team == team && !e.2.held) &&
    -- the returns of its transfers have taken their positions (R286), and its grid is in no commit
    !s.returns.any (fun e => e.2.agent == s.fabid && t.gids.contains e.2.gid) &&
    ((dget s.grids t.gridKey).map (fun gr => gr.commits.isNone)).getD true &&
    t.insts.all (fun e => e.2.ended || decide (e.2.busyTo ≤ s.cycle))

/-- The barriers of a team, as (team core, device core, number). -/
def Team.barList (t : Team) : List (Nat × Nat × Nat) :=
  (t.cores.zip (List.range t.cores.length)).flatMap (fun c =>
    (List.range t.bnum).map (fun i => (c.2, c.1, t.blo + i)))

/-- Take a team's named barriers into its record and off its cores (R147). -/
def State.saveBars (s : State) (team : Nat) (t : Team) : State :=
  t.barList.foldl (fun s x =>
    let s := s.barSettle x.2.1 x.2.2
    let b := s.bar x.2.1 x.2.2
    (s.setBar x.2.1 x.2.2 {}).modTeam team (fun t =>
      { t with savedBars := dput t.savedBars (x.1 * 2048 + x.2.2) { b with initBy := none } })) s

/-- Write the read-write mappings of a team back; their pieces are fetched again on first touch, those of the read-only
ones at the restore (R148). -/
def State.saveMaps (s : State) (team : Nat) (t : Team) : State :=
  let core (slot : Nat) : Nat := (t.cores[slot]?).getD 0
  let s := (List.range t.maps.length).foldl (fun s i => match t.maps[i]? with
    | none => s
    | some m => s.mapWriteBack t.ctx (core m.slot) team i 1 none) s
  s.modTeam team (fun t => { t with maps := t.maps.map (fun m =>
    { m with touched := if m.rw then [] else m.touched, wanted := [] }) })

/-- Fetch piece p of mapping i of a team from its global home (R148, R245); one that no longer translates is to be
touched again. -/
def State.refetch (s : State) (team i p : Nat) : State :=
  match (s.team? team).bind (fun t => (t.maps[i]?).map (fun m => (t, m))) with
  | none => s
  | some (t, m) =>
    let core := (t.cores[m.slot]?).getD 0
    let ga := pieceGlobal m p
    let r := s.lookup core t.ctx ga
    match r.2 with
    | .leaf l =>
      let b := r.1.readLoc core 1 64 (.phys (l.pa ga))
      b.1.modTeam team (fun t => ((List.range 64).zip b.2).foldl (fun (t : Team) e =>
        t.stashPut m.slot (m.off + p * 64 + e.1) e.2) t)
    | _ =>
      let m' : Mapping := { m with touched := m.touched.filter (fun q => q != p) }
      r.1.modTeam team (fun t => { t with maps := listSet t.maps i m' })

/-- Fetch the read-only tiles of a team again, before any of it starts (R148). -/
def State.refetchMaps (s : State) (team : Nat) : State :=
  match s.team? team with
  | none => s
  | some t => (List.range t.maps.length).foldl (fun s i => match t.maps[i]? with
    | none => s
    | some m => if m.rw then s else m.touched.foldl (fun s p => s.refetch team i p) s) s

/-- What a group loses at the save: its last-page registers (R147). -/
def Group.save (g : Group) : Group :=
  { g with lastPage := [], slot0 := { g.slot0 with clause := none }, slot1 := { g.slot1 with clause := none } }

/-- Save a quiescent team (R146, R147, R311): its L1 lines go home, its stash and placement units are
released. -/
def State.saveTeam (s : State) (team : Nat) (t : Team) : State :=
  let s := s.saveBars team t
  let s := s.saveMaps team t
  let s := t.cores.foldl (fun s c => s.fenceAcq c .device) s
  let s := t.gids.foldl (fun s gid => s.modGroup gid Group.save) s
  -- the team's register lines are marked evictable (R146)
  let s : State := { s with rcache := s.rcache.map (fun (e : Nat × List CacheLine) => (e.1, e.2.map (fun (c : CacheLine) =>
    if t.gids.contains c.gid then { c with evict := true } else c))) }
  s.modTeam team (fun t => { t with
    saved := true, preempt := none, cores := [], parts := [],
    insts := t.insts.map (fun e => (e.1, { e.2 with waits := none, marked := none })) })

/-- QUIESCENCE (R146): the team is saved. -/
def execQuiescence (team : Nat) (s : State) : Host.Outcome State Fault Refusal :=
  finish s (match s.team? team with
  | none => s
  | some t => if t.preempt.isSome && !t.saved && s.quiescent team t then s.saveTeam team t else s)

/-! ### Restore (R148) -/

/-- The waiting operations of a group name its barriers by the core they are on. -/
def OpKind.onCore (k : OpKind) (core : Nat) : OpKind :=
  match k with
  | .barw _ b tok => .barw core b tok
  | .barx _ b ph => .barx core b ph
  | k => k

/-- A group continues on another partition (R40, R148). -/
def Group.restore (g : Group) (part resident cycle : Nat) : Group :=
  let go (x : Slot) : Slot := { x with eligFrom := cycle + 1 }
  { g with part := part, resident := resident, stopped := false, slot0 := go g.slot0, slot1 := go g.slot1,
           ops := g.ops.map (fun e => (e.1, { e.2 with kind := e.2.kind.onCore (coreOfPart part) })) }

/-- Restore a saved team on the cores and partitions `at_` of a cluster. -/
def State.restoreTeam (s : State) (team cl : Nat) (at_ : List (Nat × List Nat)) : State :=
  match s.team? team with
  | none => s
  | some t =>
    let parts := at_.map (fun e => e.2)
    let units := parts.flatten
    let t' : Team := { t with
      saved := false, cluster := cl, cores := at_.map (fun e => e.1), parts := parts, savedBars := [], placedAt := s.cycle,
      insts := t.insts.map (fun e =>
        (e.1, { e.2 with part := (units[e.1]?).getD 0, placed := s.cycle, busyTo := s.cycle })) }
    let s := s.takeCores t' (fun c b => (dget t.savedBars (c * 2048 + b)).getD {})
    -- the positions that the groups held before the save are free (R105)
    let s := t.gids.foldl (fun s gid => s.modGroup gid (fun g => { g with part := 1280 })) s
    let s := t.gids.foldl (fun s gid => match s.group? gid with
      | none => s
      | some g =>
        let part := (units[g.g % max 1 units.length]?).getD 0
        s.setGroup gid (g.restore part (s.freeIndex part) s.cycle)) (s.setTeam team t')
    s.refetchMaps team

/-- Restore teams, the first on the cluster given and the others on the first cluster with room; none
where one finds none (R353). -/
def State.restoreAll (s : State) (l : LaunchRec) : List Nat → Option Nat → Option State
  | [], _ => some s
  | team :: rest, cl =>
    let try_ := match cl with
      | some c => [c]
      | none => List.range 40
    match try_.findSome? (fun c => (s.fits l c).map (fun a => (c, a))) with
    | none => none
    | some (c, a) => (s.restoreTeam team c a).restoreAll l rest none

/-- TEAM_RESTORE (R148, R343): a saved team comes back on a cluster with room that serves no other grid first; a grid
of class 2, and a deterministic one, only as a whole, when all its teams are saved (R41, R353). -/
def execTeamRestore (team cluster : Nat) (s : State) : Host.Outcome State Fault Refusal :=
  finish s (match s.team? team with
  | none => s
  | some t => match dget s.grids t.gridKey with
    | none => s
    | some gr =>
      if !t.saved || 40 ≤ cluster || !s.mayRestore t.ctx || (s.ctx t.ctx).terminate.isSome ||
        s.outranked t.gridKey gr cluster then s
      else if gr.lrec.whole then
        if s.teams.any (fun e => e.2.gridKey == t.gridKey && !e.2.saved) then s
        else
          let others := ((s.savedTeams t.gridKey).map (fun e => e.1)).filter (fun x => x != team)
          (s.restoreAll gr.lrec (team :: others) (some cluster)).getD s
      else (s.restoreAll gr.lrec [team] (some cluster)).getD s)

/-! ### Retirement (R45 to R47) -/

/-- May the group retire (R45)? -/
def Group.done (g : Group) : Bool :=
  g.exited && !g.slot0.live && !g.slot1.live && g.spill.isEmpty && g.ops.isEmpty && g.results.isEmpty &&
    g.counts.isEmpty && g.flags.isEmpty && g.brine.spans.isEmpty && g.brine.ops.isEmpty && g.brine.flags.isEmpty &&
    g.noClause && g.slot0.transfer.isNone && g.slot1.transfer.isNone && g.spec.isNone && g.trapReq.isNone && g.matrixTraps.isEmpty

/-- The slot of the group's final EXIT takes the trap of a refusal that is still pending (R142). -/
def State.finalRefusal (s : State) (gid : Nat) (g : Group) (e : LastExit) (r : Refusal285) : State :=
  let S : Slot := { emptySlot with pc := e.pc, mask := e.exec, fmt := e.fmt, join := e.join,
                                   stamp := (g.slot e.slot).stamp }
  (s.setGroup gid (g.setSlot e.slot S)).raiseRefusal gid r
    { slot := e.slot, cycle := s.cycle, code := 0x0B, atClause := false, idx := e.idx, pc := e.pc, done := true,
      arg := 0, einfo := r.lanes, etxf := r.wordAt, lanes := r.lanes, faddr := [] }

/-- GROUP_RETIRE (R45, R142). -/
def execGroupRetire (gid : Nat) (s : State) : Host.Outcome State Fault Refusal :=
  .next (match s.group? gid with
  | none => s
  | some g =>
    if !g.done || s.isSaved g.team then s
    else match g.supervisor, g.refusals, g.lastExit with
      | false, r :: _, some e => s.finalRefusal gid g e r
      | _, _, _ =>
        { s with groups := ddel s.groups gid }.modTeam g.team (fun t => { t with lastGone := some s.cycle }))

/-- Set a team's bit in its grid's completion bitmap (R344): an OR at device scope. -/
def State.setBit (s : State) (gr : Grid) (t : Nat) : State :=
  if gr.lrec.cbmap = 0 then s
  else
    let r := s.vplaces gr.ctx true 1 (gr.lrec.cbmap + 64 + w64n (t / 8))
    match r.2 with
    | .inr a => r.1.event 0x11 3 0 0 0 a gr.gridId
    | .inl l => l.foldl (fun s pa =>
        let x := s.devRead 0 pa
        x.1.devWrite 0 pa (x.2 ||| (1#8 <<< (t % 8)))) r.1

/-- May the team retire in this cycle (R46, R47)? A team of a context that is being terminated does not (R411). -/
def State.teamDone (s : State) (team : Nat) (t : Team) : Bool :=
  t.gids.all (fun gid => (s.group? gid).isNone) && t.insts.all (fun e => e.2.ended) &&
    !s.jobs.any (fun e => e.2.team == team) && !t.saved && (s.ctx t.ctx).terminate.isNone &&
    (match t.lastGone with
      | some c => decide (c < s.cycle)
      | none => false)

/-- End every mapping of a team (R244). -/
def State.endMaps (s : State) (team : Nat) (t : Team) : State :=
  let s := (List.range t.maps.length).foldl (fun s i => match t.maps[i]? with
    | none => s
    | some m => s.mapWriteBack t.ctx ((t.cores[m.slot]?).getD 0) team i 1 none) s
  s.modTeam team (fun t => { t with maps := [] })

/-- A team retires: a release on its cores (R257), its pool reservation returns (R147), its bit is set, and
its place is free. -/
def State.retireTeam (s : State) (team : Nat) (t : Team) : State :=
  let s := s.endMaps team t
  let s := t.cores.foldl (fun s c => s.fenceRel c .device) s
  let x := s.ctx t.ctx
  let s := s.setCtx t.ctx { x with poolUsed := x.poolUsed - t.pool }
  let s := t.barList.foldl (fun s b => s.setBar b.2.1 b.2.2 {}) s
  let s := { s with teams := ddel s.teams team, victims := s.victims.filter (fun v => v != team) }
  match dget s.grids t.gridKey with
  | none => s
  | some gr =>
    let s := { s.setBit gr t.index with bitAt := s.cycle + 1 }
    let gr := { gr with retired := t.index :: gr.retired }
    let s := { s with grids := dput s.grids t.gridKey gr }
    if gr.retired.length = gr.lrec.teams then s.completeGrid t.gridKey gr else s

/-- TEAM_RETIRE (R46, R47). -/
def execTeamRetire (team : Nat) (s : State) : Host.Outcome State Fault Refusal :=
  finish s (match s.team? team with
  | none => s
  | some t => if s.teamDone team t then s.retireTeam team t else s)

end Sys2Proof.Machine
end

