-- ==== Sys2Proof/Machine/Determinism.lean ====
section
/-!
DEFINITION. The commit at the end of a quantum (R355 to R358, R286, R330).
-/
namespace Sys2Proof.Machine

/-- A TXF at the commit (R286): its pairs with both cells here in lane order, the others at their Meridian positions,
then its returns; it completes when none is left. -/
def State.commitTxf (s : State) (gid n : Nat) : State :=
  let mine (p : Pair) : Bool := p.gid == gid && p.op == n && p.agent == s.fabid
  let s := (s.pairs.filter (fun e => mine e.2 && e.2.spa.isSome && e.2.dpa.isSome)).foldl
    (fun s e => s.runPair e.1 e.2) s
  let s := (s.returns.filter (fun e => mine e.2)).foldl (fun s e => s.runReturn e.1 e.2) s
  if !(s.farPairs gid n).isEmpty then
    s.modGroup gid (fun g => match dget g.ops n with
      | some o => if o.mer = 0 then { g with ops := dput g.ops n { o with mer := 1 } } else g
      | none => g)
  else if s.returns.any (fun e => mine e.2) then s
  else s.modGroup gid (fun g => { g.finishTxf n with brine := { g.brine with ops := g.brine.ops.erase (.txf n) } })

/-- The TXFs of a brine, in issue order. -/
def Brine.txfs (b : Brine) : List Nat := b.ops.filterMap (fun o => match o with
  | .txf n => some n
  | _ => none)

/-- Commit transfers until one has to wait for a Meridian position. -/
def State.commitTxfs (s : State) (gid : Nat) : List Nat → State
  | [] => s
  | n :: t =>
    let s := s.commitTxf gid n
    if ((s.group? gid).map (fun g => g.brine.txfs.contains n)).getD false then s else s.commitTxfs gid t

/-- A record or a prefetch of a brine goes to the engine (R330); a KICK completes with its acceptance (R325). -/
def State.commitCopy (s : State) (gid : Nat) (b : BrineOp) : State :=
  match b with
  | .txf _ => s
  | .pfb n =>
    let s := match dget s.pfbs n with
      | some j => { s with pfbs := dput s.pfbs n { j with held := false } }
      | none => s
    s.completeOp gid n
  | .kick n clock => match (s.group? gid).bind (fun g => (dget g.ops n).map (fun o => (g, o))) with
    | none => s
    | some (g, o) => match o.kind with
      | .kick l => s.queueJobs gid n g (!o.sup) clock l
      | _ => s

/-- The flags of a group's brined stores count down, and a QEND completes (R357, R363). -/
def Group.commitFlags (g : Group) : Group :=
  let ends := (g.ops.filter (fun e => match e.2.kind with
    | .qend => true
    | _ => false)).map (fun e => e.1)
  let g := g.brine.flags.foldl (fun (g : Group) f => g.decFlag f 1) g
  ends.foldl (fun (g : Group) n => g.completeOp n) g

/-- Commit the brine of one group (R357): its spans, its transfers, its records. True where a transfer waits for its
Meridian position; the rest then follows. -/
def State.commitGroup (s : State) (gid : Nat) : State × Bool :=
  match (s.brinePending gid).group? gid with
  | none => (s, false)
  | some g =>
    let s := g.brine.spans.foldl (fun s sp => s.performSpan g.core sp) (s.brinePending gid)
    let s := s.modGroup gid (fun g => { g with brine := { g.brine with spans := [] } })
    let s := s.commitTxfs gid g.brine.txfs
    if ((s.group? gid).map (fun g => g.brine.txfs.isEmpty)).getD true then
      let s := g.brine.ops.foldl (fun s b => s.commitCopy gid b) s
      (s.modGroup gid (fun g => { g.commitFlags with brine := {} }), false)
    else (s, true)

/-- Commit groups in order; those from the first that waits on are left. -/
def State.commitGroups (s : State) : List Nat → State × List Nat
  | [] => (s, [])
  | gid :: t =>
    let r := s.commitGroup gid
    if r.2 then (r.1, gid :: t) else r.1.commitGroups t

/-- The groups of a grid in ascending linear identifier. -/
def State.gridGroups (s : State) (key : Nat) : List (Nat × Group) :=
  (s.groups.filter (fun e => e.2.gridKey == key)).mergeSort (fun a b => decide (a.2.linear.toNat ≤ b.2.linear.toNat))

/-- The groups of a grid and how many instructions each has retired. -/
def State.gridDix (s : State) (key : Nat) : List (Nat × BitVec 48) :=
  (s.groups.filter (fun e => e.2.gridKey == key)).map (fun e => (e.1, e.2.dix))

/-- Has a group an access, or another operation in the order of its memory, that can be performed and is not? The
commit waits for it (R359). -/
def State.inFlight (s : State) (gid : Nat) (g : Group) : Bool :=
  g.ops.any (fun e => g.canPerform e.1 { e.2 with mer := 3 } && (match e.2.kind with
    | .load .. | .store .. | .atomic .. | .after _ | .ftot .. | .fdef .. | .fdrop .. | .fbnd .. => true
    | k => k.waiting && s.waitEnded gid e.1 g k))

/-- Does the grid meet (R355)? Every group is at the meeting, and every team resident. After a commit the groups
that are still blocked, or have exited, meet anew once some group has retired an instruction. -/
def State.allMet (s : State) (key : Nat) (gr : Grid) : Bool :=
  let l := s.groups.filter (fun e => e.2.gridKey == key)
  l.all (fun e => s.atMeeting e.1 e.2 gr && !s.isSaved e.2.team && !s.inFlight e.1 e.2) && !l.isEmpty &&
    (gr.still != s.gridDix key || l.any (fun e => !e.2.exited && (e.2.met || !s.blockedWait e.1 e.2)))

/-- The end of a commit, and the start of the next quantum (R355, R357). -/
def State.endCommit (s : State) (key : Nat) (gr : Grid) : State :=
  let cores := ((s.teams.filter (fun e => e.2.gridKey == key)).flatMap (fun e => e.2.cores)).eraseDups
  let s := cores.foldl (fun s c => s.fenceDo c .acqRel .device) s
  let end_ := quantumEnd gr
  { s with grids := dput s.grids key { gr with quantum := gr.quantum + 1, still := s.gridDix key, commits := none }
           groups := s.groups.map (fun e =>
             if e.2.gridKey == key then
               (e.1, { e.2 with met := false
                                lclk := if e.2.lclk.toNat < end_ then BitVec.ofNat 48 end_ else e.2.lclk })
             else e) }

/-- The commit of a grid (R357), as far as it can go: a transfer between devices waits for its position. -/
def State.commitGrid (s : State) (key : Nat) (gr : Grid) : State :=
  let r := s.commitGroups (gr.commits.getD ((s.gridGroups key).map (fun e => e.1)))
  if r.2.isEmpty then r.1.endCommit key gr
  else { r.1 with grids := dput r.1.grids key { gr with commits := some r.2 } }

/-- QUANTUM_COMMIT (R357); none begins or goes on once the grid's context is to end (R411). -/
def execQuantumCommit (grid : Nat) (s : State) : Host.Outcome State Fault Refusal :=
  finish s (match dget s.grids grid with
  | none => s
  | some gr => if gr.lrec.det && (s.ctx gr.ctx).terminate.isNone && (gr.commits.isSome || s.allMet grid gr) then s.commitGrid grid gr else s)

end Sys2Proof.Machine
end

