-- ==== Sys2Proof/Machine/HostLink.lean ====
section
/-!
DEFINITION. The host link: doorbells, the context table and the registers of the BAR (R366, R389 to R391),
link training (R388), the host's requests to device memory (R395, R396), its snoops (R392), error
completions (R394), and the termination of a context (R411).
-/
namespace Sys2Proof.Machine

/-- Write the event records that are waiting (R384). -/
def State.flushEvents (s : State) : State :=
  s.evQueue.foldl (fun s e => s.event e.typ e.unit e.index e.old.toNat e.new.toNat e.place e.detail)
    { s with evQueue := [] }

/-! ### Doorbells (R391) -/

/-- FQDB (R391, R221): the doorbell of a context writes RESOLVED. -/
def execFqdb (ctx : Nat) (value : Word64) (s : State) : Host.Outcome State Fault Refusal :=
  s.afterHost (.fqdb ctx value) (fun s =>
    .next (if ctx < 64 then s.setCtx ctx ((s.ctx ctx).resolve (value.truncate 32)) else s))

/-- The body of a translation unit (R367): kind 0 page, 1 context, 2 collapse; context; page or home
(log 39). -/
def transBody (kind ctx at_ : Nat) : BitVec 416 := BitVec.ofNat 416 (kind + ctx * 2 ^ 8 + at_ * 2 ^ 16)

/-- A unit of this device that waits for a slot. -/
def State.newUnit (s : State) (dst : Nat) (bc : Bool) (typ : Nat) (tag : BitVec 32) (body : BitVec 416) : Unit64 :=
  { frame := 0, index := 0, src := BitVec.ofNat 6 s.fabid, dst := BitVec.ofNat 6 dst, bc := bc,
    typ := BitVec.ofNat 8 typ, tag := tag, body := body, good := true }

def State.sendUnit (s : State) (u : Unit64) : State := { s with mer := { s.mer with wants := s.mer.wants ++ [u] } }

/-- The host's invalidation acts (R228, R391). -/
def State.invalidateHost (s : State) : State :=
  { s.invalidate s.busyCtx (s.busyPage.map (fun p => p.toNat)) with busyFrom := some s.nextId }

/-- HOST_INVALIDATION (R391): the steps of R228 for a context; ignored while BUSY. With CST it acts at its Meridian
position. -/
def execHostInvalidation (value : Word64) (s : State) : Host.Outcome State Fault Refusal :=
  s.afterHost (.hostInvalidation value) (fun s => .next (
    if s.busy then s else
    let c := fld value 5 0
    let page := if value.getLsbD 8 then none else some s.inva
    let cst := value.getLsbD 9
    let n := s.nextId
    let s := { s with
      nextId := n + 1, busy := true, busyCtx := c, busyPage := page, busyBound := n, busyCst := cst, busyFrom := none }
    if cst then s.sendUnit (s.newUnit 0 true 0x0A (BitVec.ofNat 32 n)
      (transBody (boolBit page.isNone) c (page.getD 0).toNat)) else s.invalidateHost))

/-- PCTX (R391, R351): every team of a context is to be pre-empted, before other victims. -/
def execPctx (value : Word64) (s : State) : Host.Outcome State Fault Refusal :=
  s.afterHost (.pctx value) (fun s => .next (
    if s.pbusy then s else
    let c := fld value 5 0
    let mine := (s.teams.filter (fun e => e.2.ctx == c && !e.2.saved && e.2.preempt.isNone)).map (fun e => e.1)
    { s with pctx := c, pbusy := true, victims := mine ++ s.victims.filter (fun v => !mine.contains v) }))

/-! ### The context table (R390) -/

/-- Are the reserved fields of an entry zero? -/
def Ctx.reservedOk (x : Ctx) : Bool :=
  let w (i : Nat) : Word64 := w64n (x.num (8 * i) 8)
  let z (i hi lo : Nat) : Bool := fld (w i) hi lo == 0
  z 0 63 52 && z 0 10 0 && z 1 63 52 && z 1 5 0 && z 2 63 52 && z 2 11 4 && z 5 63 52 && z 5 15 0 &&
    x.num 52 2 / 2 ^ 11 == 0 && x.num 55 9 == 0

/-- A write of VALID (R390, R148). -/
def State.writeValid (s : State) (ctx : Nat) (v : Bool) : State :=
  let x := s.ctx ctx
  if v then
    if x.valid || !x.reservedOk then s else s.setCtx ctx { x with valid := true }
  else if s.teams.any (fun e => e.2.ctx == ctx && !e.2.saved) then s
  else s.setCtx ctx { x with valid := false }

/-- CONTEXT_VALID_WRITE (R390): byte 54 of entry c, of which only VALID acts. -/
def execContextValidWrite (ctx : Nat) (value : Byte) (s : State) : Host.Outcome State Fault Refusal :=
  .next (if 64 ≤ ctx then s else s.writeValid ctx (value.getLsbD 0))

/-- Eight bytes of an entry but for byte 54: ignored while VALID is 1. -/
def Ctx.write (x : Ctx) (off : Nat) (v : Word64) : Ctx :=
  if x.valid then x
  else { x with raw := (List.range 8).foldl (fun t i =>
      if off + i = 54 then t else tset 0 t (off + i) (v.extractLsb' (8 * i) 8)) x.raw }

/-! ### Registers without behaviour of their own (R334, R366, R389, R391, R405) -/

/-- An aligned write to the context table: the entry's bytes, then VALID where they hold byte 54 (R390). -/
def State.writeEntry (s : State) (ctx off : Nat) (v : Word64) : State :=
  let s := s.setCtx ctx ((s.ctx ctx).write off v)
  if off = 48 then s.writeValid ctx (v.getLsbD 48) else s

/-- A register of a queue's block; QBASE, EBASE and ESZ only while EN = 0, SEED from the next cycle on (R360). -/
def Queue.write (q : Queue) (cycle off : Nat) (v : Word64) : Queue :=
  if off = 0x00 then (if q.en then q else { q with qbase := fld v 51 6 * 64 })
  else if off = 0x20 then q.writeSeed cycle v
  else if off = 0x28 then (if q.en then q else { q with ebase := fld v 51 6 * 64, esz := fld v 3 0 })
  else q

/-- A word of the MSI-X table: a vector that is unmasked with its pending bit set is signalled (R397). -/
def State.msixWrite (s : State) (word : Nat) (v : Word64) : State :=
  let n := word / 2
  let s := { s with msixTable := dput s.msixTable word v }
  if s.msixPend.contains n && !s.vecMasked n then
    { s with msixPend := s.msixPend.filter (fun x => x != n) }.signal n
  else s

/-- The mailbox registers; OPC, LEN, REQ and GO only while STATUS is not 1. GO makes the mailbox busy (R405). -/
def Mailbox.write (m : Mailbox) (off : Nat) (v : Word64) : Mailbox :=
  if off = 0x0018 then { m with vec := fld v 10 0 }
  else if m.status = 1 then m
  else if off = 0x0010 then (if v.getLsbD 0 then { m with status := 1 } else m)
  else if off = 0 then { m with opc := v.extractLsb' 0 16, len := v.extractLsb' 16 16 }
  else if 0x1000 ≤ off && decide (off < 0x2000) then
    { m with req := (List.range 8).foldl (fun t i => tset 0 t (off - 0x1000 + i) (v.extractLsb' (8 * i) 8)) m.req }
  else m

/-- REGISTER_WRITE (R389): an aligned 8-byte write to a register that has no row of its own; any other
offset is ignored, and in the safe state all but the mailbox (R402). -/
def execRegisterWrite (offset : Nat) (value : Word64) (s : State) : Host.Outcome State Fault Refusal :=
  .next (
    if offset % 8 ≠ 0 then s
    else if 0x200000 ≤ offset && decide (offset < 0x210000) then
      if s.ready.getLsbD 0 || s.ready.getLsbD 56 then { s with mbox := s.mbox.write (offset - 0x200000) value } else s
    else if s.ready.getLsbD 56 then s
    else if offset = 0x10 then { s with tring := value &&& 0x000FFFFFFFFFFFEF#64 }
    else if offset = 0x20 then { s with trvec := fld value 10 0 }
    else if offset = 0x1200 then { s with inva := value }
    else if 0x10000 ≤ offset && decide (offset < 0x11000) then
      s.writeEntry ((offset - 0x10000) / 64) (offset % 64) value
    else if offset = 0x20000 then (if 32 ≤ fld value 5 0 then s else { s with fabidReg := fld value 5 0 })
    else if offset = 0x20008 then { s with membersReg := value }
    else if offset = 0x20018 then { s with evring := value &&& 0x000FFFFFFFFFFFEF#64 }
    else if offset = 0x20028 then { s with rethr := fld value 15 0 }
    else if offset = 0x20030 then { s with evvec := fld value 10 0 }
    else if 0x40000 ≤ offset && decide (offset < 0x50000) then
      s.modQueue ((offset - 0x40000) / 64) (fun q => q.write s.cycle (offset % 64) value)
    else if 0x100000 ≤ offset && decide (offset < 0x108000) then s.msixWrite ((offset - 0x100000) / 8) value
    else s)

/-! ### What the host reads (R389) -/

/-- A word of a queue's block (R334). -/
def Queue.read (q : Queue) (cycle off : Nat) : Word64 :=
  if off = 0x00 then w64n q.qbase
  else if off = 0x08 then
    w64n (boolBit q.en * 2 ^ 63 + q.mode.toNat * 2 ^ 61 + q.ctx * 2 ^ 52 + q.sz * 2 ^ 48 + q.vec * 2 ^ 37)
  else if off = 0x10 then q.head.zeroExtend 64
  else if off = 0x18 then q.tail.zeroExtend 64
  else if off = 0x20 then q.seedAt cycle
  else if off = 0x28 then w64n (q.ebase + q.esz)
  else if off = 0x30 then w64n (q.drop.toNat * 2 ^ 48 + q.epos.toNat)
  else 0

/-- A word of a context-table entry (R390). -/
def Ctx.read (x : Ctx) (off : Nat) : Word64 :=
  if off = 48 then w64n (x.num 48 6 + boolBit x.valid * 2 ^ 48 + x.num 55 1 * 2 ^ 56) else w64n (x.num off 8)

/-- PORTp (R366). -/
def Port.read (x : Port) : Word64 :=
  w64n (x.mode.toNat * 2 ^ 62 + boolBit x.up * 2 ^ 61 + boolBit x.ktx * 2 ^ 60 + x.krxv.toNat * 2 ^ 58 + x.node * 2 ^ 48 +
    x.txact.toNat * 2 ^ 32 + x.rxact.toNat * 2 ^ 16 + x.authf.toNat)

/-- A word of the mailbox (R405). -/
def Mailbox.read (m : Mailbox) (off : Nat) : Word64 :=
  if off = 0x0000 then w64n (m.len.toNat * 2 ^ 16 + m.opc.toNat)
  else if off = 0x0008 then w64n (m.rlen.toNat * 2 ^ 32 + m.status.toNat)
  else if off = 0x0018 then w64n m.vec
  else if 0x1000 ≤ off && decide (off < 0x2000) then
    w64n (ofBytes ((List.range 8).map (fun i => tget 0 m.req (off - 0x1000 + i))))
  else if 0x4000 ≤ off && decide (off < 0x6000) then
    w64n (ofBytes ((List.range 8).map (fun i => (m.rsp[off - 0x4000 + i]?).getD 0)))
  else 0

/-- What an aligned 8-byte read of BAR0 returns (R389): the register at the offset, and zero for any other access, for an
offset without a register and, in the safe state, for all but READY and the mailbox (R402). -/
def State.barRead (s : State) (offset : Nat) : Word64 :=
  if offset % 8 ≠ 0 then 0
  else if 0x200000 ≤ offset && decide (offset < 0x210000) then s.mbox.read (offset - 0x200000)
  else if offset = 0x08 then s.ready
  else if s.ready.getLsbD 56 then 0
  else if offset = 0x00 then s.syscap
  else if offset = 0x10 then s.tring
  else if offset = 0x18 then s.trpos.zeroExtend 64
  else if offset = 0x20 then w64n s.trvec
  else if offset = 0x1200 then s.inva
  else if offset = 0x1210 then w64n (boolBit s.busy)
  else if offset = 0x1220 then w64n (boolBit s.pbusy)
  else if 0x10000 ≤ offset && decide (offset < 0x11000) then (s.ctx ((offset - 0x10000) / 64)).read (offset % 64)
  else if offset = 0x20000 then w64n s.fabidReg
  else if offset = 0x20008 then s.membersReg
  else if offset = 0x20010 then w64n (boolBit s.mer.en * 2 ^ 63 + boolBit s.mer.halt * 2 ^ 62 + s.mer.frame.toNat)
  else if offset = 0x20018 then s.evring
  else if offset = 0x20020 then s.evpos.zeroExtend 64
  else if offset = 0x20028 then w64n s.rethr
  else if offset = 0x20030 then w64n s.evvec
  else if 0x20100 ≤ offset && decide (offset < 0x20100 + 8 * 44) then (s.port ((offset - 0x20100) / 8)).read
  else if 0x40000 ≤ offset && decide (offset < 0x50000) then
    (s.queue ((offset - 0x40000) / 64)).read s.cycle (offset % 64)
  else if 0x100000 ≤ offset && decide (offset < 0x108000) then
    let w := (offset - 0x100000) / 8
    (dget s.msixTable w).getD (if w % 2 = 1 then 0x100000000#64 else 0)
  else if 0x108000 ≤ offset && decide (offset < 0x108100) then
    w64n ((List.range 64).foldl (fun a i =>
      a + boolBit (s.msixPend.contains ((offset - 0x108000) * 8 + i)) * 2 ^ i) 0)
  else 0

/-- LINK_TRAINING (R388): the controller fills SYSCAP. -/
def execLinkTraining (syscap : Word64) (s : State) : Host.Outcome State Fault Refusal :=
  .next (if s.ready.getLsbD 0 then { s with syscap := syscap &&& 0xFF7F#64 } else s)

/-! ### The host in device memory (R395, R396) -/

/-- The device address of a host offset, if it is below 204 GiB. -/
def hostPa (o : Nat) : Option Nat :=
  let g := 2 ^ 30
  if o < 12 * g then some (o / (3 * g) * 2 ^ 32 + o % (3 * g))
  else if o < 204 * g then
    let x := o - 12 * g
    some (2 ^ 40 + x / (48 * g) * 2 ^ 36 + x % (48 * g))
  else none

def lineOf (pa : Nat) : Nat := pa / 64 * 64
def memBytes (s : State) (n pa : Nat) : List Byte := (List.range n).map (fun i => s.rd (pa + i))
def memPut (s : State) : List Byte → Nat → State
  | [], _ => s
  | b :: t, pa => memPut { s with mem := tset 0 s.mem pa b } t (pa + 1)

/-- The die whose L2 keeps the directory entry of a line. -/
def homeDie (pa : Nat) : Nat := (homeSlice pa).1

/-- Does the host reach device memory: through CXL.mem, or through BAR2 of a plain link (R387, R395)? -/
def State.memOffered (s : State) : Bool := s.syscap.getLsbD 2 || !s.syscap.getLsbD 0

/-- A request of the host as requests within one 64-byte line each (R395, log 114). -/
def hostLines (o : Nat) (req : HostReq) : List (Nat × HostReq) :=
  let parts (n : Nat) : List (Nat × Nat) := (List.range ((o % 64 + n + 63) / 64)).map (fun i =>
    let line := o / 64 * 64 + 64 * i
    (max o line, min (o + n) (line + 64)))
  match req with
  | .read n => (parts n).map (fun p => (p.1, .read (p.2 - p.1)))
  | .write b => (parts b.length).map (fun p => (p.1, .write ((b.drop (p.1 - o)).take (p.2 - p.1))))
  | .cas n c v => if 64 < o % 64 + n then [] else [(o, .cas n c v)]
  | .share | .own => [(o, req)]

/-- Grant a line to the host: a full directory first makes room, and the grant waits. -/
def State.grant (s : State) (o pa : Nat) (own : Bool) (req : HostReq) : State :=
  let line := lineOf pa
  let mine := s.hostDir.filter (fun e => homeDie e.line == homeDie line)
  let answer (s : State) : State :=
    { s with hostDir := (s.hostDir.filter (fun e => e.line != line)) ++ [⟨line, own⟩]
             hostOut := memBytes s 64 line :: s.hostOut }
  if mine.any (fun e => e.line == line) || decide (mine.length < 65536) then answer s
  else
    let old := (mine.head?.map (fun e => e.line)).getD line
    { s with backInv := if s.backInv.contains old then s.backInv else s.backInv ++ [old]
             backFull := old :: s.backFull
             heldHost := s.heldHost ++ [⟨o, req⟩] }

/-- Serve a host request at its home. -/
def State.serveHost (s : State) (o pa : Nat) (req : HostReq) : State :=
  match req with
  | .read n => { s with hostOut := memBytes s n pa :: s.hostOut }
  | .write b => memPut s b pa
  | .cas n c v =>
    let old := ofBytes (memBytes s n pa)
    let s := { s with hostOut := toBytes n old :: s.hostOut }
    if old = c.toNat % 2 ^ (8 * n) then memPut s (toBytes n v.toNat) pa else s
  | .share => if s.syscap.getLsbD 6 then s.grant o pa false req else { s with hostOut := memBytes s 64 (lineOf pa) :: s.hostOut }
  | .own => if s.syscap.getLsbD 6 then s.grant o pa true req else { s with hostOut := memBytes s 64 (lineOf pa) :: s.hostOut }

/-- Is the line behind a back-invalidation, or behind the device request that caused it? -/
def State.lineBusy (s : State) (pa : Nat) : Bool := s.backInv.contains (lineOf pa) || s.backDone.contains (lineOf pa)

/-- Must a host request at this address wait: for the memory of its die (R401), or for its line (R396)? -/
def State.hostWaits (s : State) (pa : Nat) : Bool := !s.memReady pa || s.lineBusy pa

/-- A host request within a line: held, behind what is held for its line too, or served. -/
def State.hostLine (s : State) (o : Nat) (req : HostReq) : State :=
  match hostPa o with
  | none => s
  | some pa =>
    if s.hostWaits pa || s.heldHost.any (fun h => h.offset / 64 == o / 64) then
      { s with heldHost := s.heldHost ++ [⟨o, req⟩] }
    else s.serveHost o pa req

/-- HOST_MEM_REQUEST (R395, R396): each line of it is performed at its home, or held behind a back-invalidation or until
the memory of its die is ready (R401). -/
def execHostMemRequest (offset : Nat) (req : HostReq) (s : State) : Host.Outcome State Fault Refusal :=
  .next (if s.memOffered then (hostLines offset req).foldl (fun s p => s.hostLine p.1 p.2) s else s)

/-- Serve the host requests that wait for nothing any more, in order; then the writes behind them reach the device
(R398). -/
def State.serveHeld (s : State) : State :=
  let free (h : HeldHost) : Bool := match hostPa h.offset with
    | some pa => !s.hostWaits pa
    | none => true
  let now := s.heldHost.filter free
  let t := now.foldl (fun s h => match hostPa h.offset with
    | some pa => s.serveHost h.offset pa h.req
    | none => s) { s with heldHost := s.heldHost.filter (fun h => !free h) }
  if ({ t with heldBar := [] } : State).hostBehind then t
  else { t with heldBar := [], agenda := t.agenda ++ t.heldBar.map .event }

/-- The host stores to its own memory (R392, R398): where that memory is coherent it holds the line alone, so no L2 has a
byte of it. -/
def State.hostStore (s : State) (pa : Nat) (bytes : List Byte) : State :=
  let line := (List.range 64).map (fun i => pa / 64 * 64 + i)
  if !isHost pa || decide (64 < pa % 64 + bytes.length) ||
      (s.hostCoherent && line.any (fun a => [0, 1, 2, 3].any (fun d => (s.cached (l2Site d) a).isSome))) then s
  else memPut s bytes pa

/-- BACK_INVALIDATION_RESPONSE (R396): the host gives the line up, with its bytes if it had changed them;
the held device request can act. -/
def execBackInvalidationResponse (line : Nat) (dirty : Option (List Byte)) (s : State) : Host.Outcome State Fault Refusal :=
  .next (
    if !s.backInv.contains line then s else
    let owned := s.hostDir.any (fun e => e.line == line && e.owned)
    let s := match dirty with
      | some b => if owned then memPut s (b.take 64) line else s
      | none => s
    { s with hostDir := s.hostDir.filter (fun e => e.line != line)
             backInv := s.backInv.filter (fun l => l != line)
             backDone := if s.backFull.contains line || s.backDone.contains line then s.backDone else line :: s.backDone
             backFull := s.backFull.filter (fun l => l != line) })

/-- HOST_SNOOP (R392): dirty bytes of the line go home; on an invalidation the L2s drop it. The answer is
the line. -/
def execHostSnoop (line : Nat) (kind : SnoopKind) (s : State) : Host.Outcome State Fault Refusal :=
  .next (
    if !isHost line || line % 64 ≠ 0 || !s.hostCoherent then s else
    let pas := (List.range 64).map (fun i => line + i)
    let one (s : State) (pa d : Nat) : State :=
      match s.cached (l2Site d) pa with
      | none => s
      | some c =>
        let s := if c.dirty then { s with mem := tset 0 s.mem pa c.val } else s
        match kind with
        | .data => s.cput (l2Site d) pa ⟨c.val, false⟩
        | .invalidate => s.cdel (l2Site d) pa
    let s := pas.foldl (fun s pa => [0, 1, 2, 3].foldl (fun s d => one s pa d) s) s
    { s with hostOut := memBytes s 64 line :: s.hostOut })

/-- Does an access of n bytes at a place touch the bytes that the failed request of the host memory served? -/
def hitBy (pa len : Nat) (n : Nat) (l : Loc) : Bool :=
  match l with
  | .phys a => decide (a < pa + len) && decide (pa < a + n)
  | .stash .. => false

/-- An operation without the lanes that a failed request served (R394): none where it has no such lane. A waiting read of
an object stays and finds its context ended. -/
def OpKind.without (k : OpKind) (pa len : Nat) : Option OpKind :=
  let hit := hitBy pa len
  match k with
  | .load order scope n d f accs left =>
    let rest := left.filter (fun i => !accs.any (fun a => a.lane == i && hit n a.loc))
    if rest.length = left.length then none else some (.load order scope n d f accs rest)
  | .store order scope n accs =>
    let rest := accs.filter (fun a => !hit n a.1.loc)
    if rest.length = accs.length then none else some (.store order scope n rest)
  | .atomic k order scope n d f tree lanes =>
    let rest := lanes.filter (fun a => !hit n a.acc.loc)
    if rest.length = lanes.length then none else some (.atomic k order scope n d f tree rest)
  | _ => if k.bytes.any (fun b => hit b.2.1 b.1) then some k else none

/-- Has an operation no lane left? -/
def OpKind.served (k : OpKind) : Bool :=
  match k with
  | .load _ _ _ _ _ _ left => left.isEmpty
  | .store _ _ _ accs => accs.isEmpty
  | .atomic _ _ _ _ _ _ _ lanes => lanes.isEmpty
  | _ => false

/-- The host memory that the next piece of a record is read from or written to. -/
def State.pieceHost (s : State) (j : CopyJob) : Option Nat :=
  let p := j.req.piece j.pos
  [p.2.2.1, p.2.1].findSome? (fun va => match (s.lookup j.core j.ctx va).2 with
    | .leaf l => if isHost (l.pa va) then some (l.pa va) else none
    | .fail .. => none)

/-- HOST_ERROR_COMPLETION (R394): a request to host memory at `pa` is answered with an error: the context that made it ends with
REASON 6, and what the request served takes no value. A unit whose request it was has not acted: its piece or frame is
given up, and what else waited does not happen. -/
def execHostErrorCompletion (err : HostErr) (pa : Nat) (s : State) : Host.Outcome State Fault Refusal :=
  .next (
    let fail (s : State) (ctx : Nat) (grid : Word64) : State := s.terminate ctx 6 0 (w64n pa) grid
    match err with
    | .op gid op len => match (s.group? gid).bind (fun g => (dget g.ops op).map (fun o => (g, o))) with
      | none => s
      | some (g, o) =>
        if !isHost pa || decide (64 < pa % 64 + len) then s else
        match o.kind.without pa len with
        | none => s
        | some k =>
          let s := fail s g.ctx g.gridId
          if k.served && o.data.isEmpty then s.completeOp gid op else s.setOp gid op k
    | .copy core n => match dget s.jobs n with
      | none => s
      | some j =>
        if j.core != core || !j.accepted || decide (j.req.total ≤ j.pos) then s else
        if s.pieceHost j != some pa then s else
        let len := (j.req.piece j.pos).2.2.2
        let j' : CopyJob := { j with pos := j.pos + len, ended := j.ended ++ [(s.cycle, len, 0)] }
        fail { s with jobs := dput s.jobs n j' } j.ctx 0
    | .pfb core n => match dget s.pfbs n with
      | none => s
      | some j =>
        let va := (j.base + w64n j.pos).toNat
        if j.core != core || j.held then s else
        match (s.lookup core j.ctx va).2 with
        | .fail .. => s
        | .leaf l =>
          if !isHost pa || l.pa va != pa then s else
          let pfbs := if j.pos + 256 < j.bytes then dput s.pfbs n { j with pos := j.pos + 256 } else ddel s.pfbs n
          fail { s.countDown core .device j.bobj 256 0 j.clock with pfbs := pfbs } j.ctx 0
    | .other ctx => if isHost pa && (s.ctx ctx).valid then fail s ctx 0 else s)

/-! ### Termination of a context (R411) -/

/-- Is an operation discarded at the termination: a waiting one, a held store, one in a brine, or one that
waits for a Meridian position it cannot get (R365, R372)? -/
def State.discards (s : State) (g : Group) (n : Nat) (o : Op) : Bool :=
  let stuck := !s.mer.en || s.mer.halt
  o.held || g.mayKeep n o || ((o.mer == 1 || o.mer == 2) && stuck) ||
    (match o.kind with
      | .fqpost .. | .park | .ffence _ => true
      | .col .. => stuck
      | .inval _ cst _ => cst && stuck
      | _ => !g.canPerform n o)

/-- Has everything that a context has issued run to its end (R411, step 1)? -/
def State.drained (s : State) (c : Nat) : Bool :=
  (s.groups.filter (fun e => e.2.ctx == c)).all (fun e =>
    e.2.results.isEmpty && e.2.ops.all (fun o => s.discards e.2 o.1 o.2)) &&
  !s.jobs.any (fun e => e.2.ctx == c && e.2.accepted) && !s.pfbs.any (fun e => e.2.ctx == c && !e.2.held) &&
  (s.teams.filter (fun e => e.2.ctx == c)).all (fun e => e.2.insts.all (fun i => decide (i.2.busyTo ≤ s.cycle)))

/-- Remove a team without retiring it (R411, step 2). -/
def State.removeTeam (s : State) (team : Nat) (t : Team) : State :=
  let s := if t.saved then s else t.barList.foldl (fun s b => s.setBar b.2.1 b.2.2 {}) s
  { s with teams := ddel s.teams team, victims := s.victims.filter (fun v => v != team)
           groups := s.groups.filter (fun e => e.2.team != team) }

/-- A grid of the context that has not completed ends: STATE 2 in its bitmap (R411, step 3). -/
def State.endGrid (s : State) (key : Nat) (g : Grid) : State :=
  let s := if g.lrec.cbmap = 0 then s else s.bitmapWrite g.ctx (toBytes 1 2) (g.lrec.cbmap + 16) g.gridId
  { s with grids := ddel s.grids key }

/-- The termination record (R391). -/
def State.termRecord (s : State) (c : Nat) (reason : BitVec 8) (codes : BitVec 16) (detail grid : Word64) : State :=
  let b := toBytes 1 c ++ toBytes 1 reason.toNat ++ toBytes 2 codes.toNat ++ toBytes 4 0 ++ toBytes 8 detail.toNat ++
    toBytes 8 s.cycle ++ toBytes 8 grid.toNat
  let s := s.homePut b (ringAt s.tring s.trpos.toNat)
  { s with trpos := s.trpos + 1 }.signal s.trvec

/-- The clock slots of partitions that the context's running clauses held become free. -/
def State.freeClauses (s : State) (c : Nat) : State :=
  (s.groups.filter (fun e => e.2.ctx == c)).foldl (fun s e =>
    [e.2.slot0, e.2.slot1].foldl (fun s x => match x.running with
      | some r => s.freeCslot e.2.part r
      | none => s) s) s

/-- CONTEXT_TERMINATION (R411). -/
def execContextTermination (ctx : Nat) (s : State) : Host.Outcome State Fault Refusal :=
  finish s (
    let x := s.ctx ctx
    match x.terminate with
    | none => s
    | some (reason, codes, detail, grid) =>
      if !s.drained ctx then s else
      let s := s.freeClauses ctx
      let gone (gid : Nat) : Bool := ((s.group? gid).map (fun g => g.ctx == ctx)).getD false
      let s := { s with jobs := s.jobs.filter (fun e => e.2.ctx != ctx)
                        pfbs := s.pfbs.filter (fun e => e.2.ctx != ctx)
                        pairs := s.pairs.filter (fun e => !(e.2.ctx == ctx && gone e.2.gid)) }
      let s := (s.teams.filter (fun e => e.2.ctx == ctx)).foldl (fun s e => s.removeTeam e.1 e.2) s
      let s := s.setCtx ctx { x with terminate := none, poolUsed := 0, posting := [] }
      let s := s.termRecord ctx reason codes detail grid
      let s := (s.grids.filter (fun e => e.2.ctx == ctx && !e.2.waiting && !e.2.complete)).foldl
        (fun s e => s.endGrid e.1 e.2) s
      (s.queues.filter (fun e => e.2.ctx == ctx && e.2.en)).foldl (fun s e => s.disableQueue e.1) s)

end Sys2Proof.Machine
end

