-- ==== Sys2Proof/Machine/Ports.lean ====
section
/-!
DEFINITION. The receiving side of the data ports, replay, keys, compatibility mode, the active set, laser
loss and ports that go down (R374 to R386).
-/
namespace Sys2Proof.Machine

/-! ### Time -/

/-- n nanoseconds in cycles of 800 MHz, rounded up. -/
def nsCycles (n : Nat) : Nat := ceilDiv (n * 4) 5
/-- The wavelengths of a laser source on its bank (R383). -/
def sourceMask (src : Nat) : BitVec 16 := 0xF#16 <<< (4 * (src % 4))
/-- The wavelengths lit on a bank. -/
def State.bankLit (s : State) (b : Nat) : BitVec 16 :=
  [0, 1, 2, 3].foldl (fun m i => if s.lit.getLsbD (4 * b + i) then m ||| sourceMask i else m) 0
def bankOf (p : Nat) : Nat := p / 11

def State.portEvent (s : State) (typ p : Nat) (old new : BitVec 16) (place : Word64) : State :=
  { s with evQueue := s.evQueue ++ [{ typ := typ, unit := 0, index := p, old := old, new := new, place := place,
                                      detail := 0 }] }

/-! ### Replay (R378) -/

/-- The flits of a port's buffer go out again, as stored, in SEQ order; while the port is mute, after the echo that it
waits for (R381). -/
def State.resend (s : State) (p : Nat) : State :=
  let x := s.port p
  if x.mute then s.setPort p { x with again := true }
  else s.setPort p { x with out := x.replay.reverse ++ x.out, ackAt := s.cycle, again := false }

/-- How far an ACK is ahead of the last one, modulo 4,096; 0 for an old or impossible one. -/
def Port.ackStep (x : Port) (ack : BitVec 12) : Nat :=
  let d := (ack - x.ackIn).toNat
  if d ≤ (x.txSeq - 1 - x.ackIn).toNat then d else 0

/-- Take an ACK and a credit (R375, R377, R378): acknowledged flits leave the buffer, but for those held
back after a loss of light (R386). An acknowledged old key slot is retired (R380). What this lets go out is sent
after what the flit itself asks for (R378). -/
def State.takeAck (s : State) (p : Nat) (f : Flit) : State :=
  let x := s.port p
  let n := x.ackStep f.ack
  let c := f.ch.toNat
  let keep (g : Flit) : Bool := match x.ann with
    | some a => x.lossHold && decide ((g.seq - a.bound).toNat < 2048)
    | none => false
  let acked (g : Flit) : Bool := decide ((x.ackIn + BitVec.ofNat 12 n - g.seq).toNat < 2048)
  let replay := x.replay.filter (fun g => keep g || !acked g)
  let x : Port := { x with
    ackIn := x.ackIn + BitVec.ofNat 12 n, ackAt := if n = 0 then x.ackAt else s.cycle, replay := replay,
    credits := tset 0 x.credits c (tget 0 x.credits c + f.cred.toNat) }
  match x.retire with
  | some slot =>
    if replay.any (fun g => boolBit g.ks == slot) then s.setPort p x
    else s.setPort p { x with retire := none, txKeys := ddel x.txKeys slot
                              pend := x.pend ++ [[mkFlit 5 6 0 false (BitVec.ofNat 512 slot)]] }
  | none => s.setPort p x

/-! ### Ports that go down (R383) -/

/-- The requests of a port with a flit that is not acknowledged, in the order of their first SEQ. -/
def Port.unacked (x : Port) : List PortReq :=
  let tags := ((x.replay ++ x.mid ++ x.pend.flatten).filter (fun f => f.kind == 1 || f.kind == 3)).map (fun f => f.tag.toNat)
  tags.eraseDups.filterMap (fun t => x.reqs.find? (fun r => r.tag == t))

/-- Send a request again over a port that is still up, ahead of new requests for its frame: a new tag, and
the down port and the old tag in its request flit. Without a free tag it waits, before the others. -/
def State.resendReq (s : State) (down : Nat) (r : PortReq) : State :=
  let r := { r with orig := some (down, r.tag) }
  match s.portFor r.frame with
  | none => s.reqLost r
  | some p => match (s.port p).freeTag with
    | some tag => s.place p tag true r
    | none => { s with reqQueue := r :: s.reqQueue }

/-- The port stops: what it had not had acknowledged is sent over the ports still up in the order of first SEQ, and the
rest waits there to be answered, where a port is left for the node. -/
def State.portStops (s : State) (p : Nat) : State :=
  let x := s.port p
  let again := x.unacked
  let rest := x.reqs.filter (fun r => !again.any (fun q => q.tag == r.tag))
  let s := s.setPort p { x with
    up := false, training := false, replay := [], pend := [], mid := [], again := false, ann := none, rxAnn := none,
    lossHold := false, bulks := [], reqs := [] }
  let cut (r : PortReq) : Bool := (s.portFor r.frame).isNone
  let s := s.setPort p { s.port p with reqs := rest.filter (fun r => !cut r) }
  let s := (rest.filter cut).foldl (fun s r => s.reqLost r) s
  -- each goes before what already waits, so the last of them is placed first
  let s := again.reverse.foldl (fun s r => s.resendReq p r) s
  ((List.range 44).foldl (fun s q => s.drain q) s).sendQueued

/-- The port goes down, with its event record. -/
def State.goDown (s : State) (p : Nat) : State :=
  if (s.port p).up then (s.portStops p).portEvent 0x05 p 0 0 0 else s

/-! ### Receiving -/

/-- Ask for a replay: once for a run of discards, at most one every 64 ns (R378). -/
def State.askReplay (s : State) (p : Nat) : State :=
  let x := s.port p
  if x.asked || (decide (s.cycle < x.askedAt + nsCycles 64) && x.askedAt != 0) || x.mute then s
  else (s.setPort p { x with asked := true, askedAt := s.cycle }).sendPlain p (mkFlit 6 6 0 false 0)

/-- A flit failed its AUTH, or named an erased slot (R380); `next` says that its SEQ was the expected one.
Three failures of one SEQ in a row take the port down. -/
def State.authFail (s : State) (p : Nat) (next : Bool) : State :=
  let x := s.port p
  let run := x.authRun + boolBit next
  let s := (s.setPort p { x with authf := if x.authf = 0xFFFF then x.authf else x.authf + 1, authRun := run }).portEvent
    0x06 p 0 0 0
  if next && decide (3 ≤ run) then s.goDown p else s.askReplay p

/-- What the node sees when a flit comes: the port is alive. -/
def State.heard (s : State) (p : Nat) : State := s.setPort p { s.port p with lastRx := s.cycle }

/-- The receive boundary of the active set is reached (R381): RXACT changes. -/
def State.switchRx (s : State) (p : Nat) : State :=
  let x := s.port p
  match x.rxAnn with
  | some (mask, e) =>
    if x.rxNext - 1 = e then
      let lost := popcount (x.rxact &&& ~~~mask)
      let won := popcount (mask &&& ~~~x.rxact)
      let s := s.setPort p { x with rxact := mask, rxAnn := none
                                    retrain := (x.retrain ||| (x.rxact &&& ~~~mask)) &&& ~~~mask }
      if lost + won = 1 then s.portEvent (if lost = 1 then 1 else 2) p x.rxact mask (e.zeroExtend 64) else s
    else s
  | none => s

/-- The slot of an accepted flit is free, and its credit goes back (R377): with the next flit of its channel, at once
in an idle flit where none has gone. -/
def State.returnCredit (s : State) (p c : Nat) : State :=
  if tget 0 (s.port p).owed c = 0 then s else s.sendPlain p (mkFlit 0 c 0 false 0)

/-- A sequenced flit (R378, R380): accepted in SEQ order with a good AUTH, and handed on decrypted; else
discarded. The slot of an accepted flit is freed at once. -/
def State.accept (s : State) (p : Nat) (f : Flit) (deliver : State → Flit → State) : State :=
  let x := s.port p
  if !x.up || p ≥ 44 then s else
  let s := s.heard p
  let x := s.port p
  let slot := boolBit f.ks
  match dget x.rxKeys slot with
  | none => s.authFail p (f.seq == x.rxNext)
  | some key =>
    if f.seq = x.rxNext then
      let iv := ivOf p 1 slot (tget 0 x.rxCount slot)
      let c := f.ch.toNat
      if Config.gcmTag key iv (flitHead f) f.payload ≠ f.auth then s.authFail p true
      -- the sender had no credit left: no slot is free, and the flit is discarded (R377)
      else if !f.drp && decide (tget 0 x.slots c ≤ tget 0 x.owed c) then s.askReplay p
      else
        let s := s.setPort p { x with
          rxNext := x.rxNext + 1, asked := false, authRun := 0, rxCount := tset 0 x.rxCount slot (tget 0 x.rxCount slot + 1),
          owed := if f.drp then x.owed else tset 0 x.owed c (tget 0 x.owed c + 1) }
        ((deliver ((s.switchRx p).takeAck p f) { f with payload := Config.gcmPlain key iv f.payload }).drain p).returnCredit p c
    else if (x.rxNext - 1 - f.seq).toNat < 2048 then
      -- a duplicate is acknowledged again
      s.sendPlain p (mkFlit 0 6 0 false 0)
    else s.askReplay p

/-- An unsequenced flit: its ACK and CRED count, and then what it asks. -/
def State.plain (s : State) (p : Nat) (f : Flit) (act : State → State) : State :=
  if !(s.port p).up || p ≥ 44 then s else (act ((s.heard p).takeAck p f)).drain p

/-! ### The flits (R375) -/

/-- IDLE_FLIT (R375). -/
def execIdleFlit (port : Nat) (f : Flit) (s : State) : Host.Outcome State Fault Refusal :=
  .next (s.plain port f (fun s => s))

/-- REQUEST_FLIT (R375): accepted at the link layer; no other agent addresses a device's memory (R211). -/
def execRequestFlit (port : Nat) (f : Flit) (s : State) : Host.Outcome State Fault Refusal :=
  .next (s.accept port f (fun s _ => s))

/-- WRITE_DATA_FLIT (R375): accepted as a request is. -/
def execWriteDataFlit (port : Nat) (f : Flit) (s : State) : Host.Outcome State Fault Refusal :=
  .next (s.accept port f (fun s _ => s))

/-- The outstanding request that a response names: by its tag on its port, or by the down port and the tag there that
it carries (R383). -/
def State.findReq (s : State) (p : Nat) (f : Flit) : Option (Nat × PortReq) :=
  let on (q t : Nat) : Option (Nat × PortReq) := ((s.port q).reqs.find? (fun r => r.tag == t)).map (fun r => (q, r))
  match f.orig with
  | some (q, t) => if (s.port q).up then none else on q t
  | none => on p f.tag.toNat

/-- A request is complete: its tag is free, and what waits may go. -/
def State.dropReq (s : State) (p tag : Nat) : State :=
  (s.setPort p { s.port p with reqs := (s.port p).reqs.filter (fun r => r.tag != tag)
                               bulks := (s.port p).bulks.filter (fun b => b.tag != tag) }).sendQueued

/-- READ_DATA_FLIT (R375): the next 64 bytes of a read, in ascending address; with the last the frame's data
have arrived. That of an atomic holds the old value in its first bytes (log 38). -/
def execReadDataFlit (port : Nat) (f : Flit) (s : State) : Host.Outcome State Fault Refusal :=
  .next (s.accept port f (fun s f => match s.findReq port f with
  | none => s
  | some (q, r) => match r.atom with
    | some a => (s.dropReq q r.tag).atomicDone a (f.payload.toNat % 2 ^ (8 * a.size))
    | none =>
      if r.write then s else
      let qs := quarters r.words
      match qs[r.got]? with
      | none => s
      | some k =>
        let s := memPut s (toBytes 64 f.payload.toNat) (r.frame * 256 + 64 * k)
        if r.got + 1 < qs.length then
          s.setPort q { s.port q with reqs := (s.port q).reqs.map (fun x => if x.tag == r.tag then { x with got := r.got + 1 } else x) }
        else
          { s.dropReq q r.tag with arrived := tmod 0 s.arrived r.frame (fun w => w ||| r.words) }))

/-- COMPLETION_FLIT (R375, R383, R385): the node has performed the write, and its tag is free; the piece of a record
is counted from the next cycle on. -/
def execCompletionFlit (port : Nat) (f : Flit) (s : State) : Host.Outcome State Fault Refusal :=
  .next (s.accept port f (fun s f => match s.findReq port f with
  | none => s
  | some (q, r) =>
    if !r.write then s else
    let s := r.data.foldl (fun (s : State) e => { s with mem := tset 0 s.mem (r.frame * 256 + e.1) e.2 }) s
    let s := s.dropReq q r.tag
    match r.job with
    | none => s
    | some (key, n) => match dget s.jobs key with
      | some j => { s with jobs := dput s.jobs key { j with ended := j.ended ++ [(s.cycle, n, 0)] } }
      | none => s))

/-- KEY_RETIRE (R380): the old slot is erased. Which payload bit names it is the model's (DESIGN CHOICE, log 112). -/
def execKeyRetire (port : Nat) (f : Flit) (s : State) : Host.Outcome State Fault Refusal :=
  .next (s.accept port f (fun s f =>
    let slot := boolBit (f.payload.getLsbD 0)
    let x := s.port port
    s.setPort port { x with rxKeys := ddel x.rxKeys slot, krxv := x.krxv &&& ~~~(1#2 <<< slot) }))

/-- REPLAY_REQUEST (R378): the sender resends from ACK + 1; after a loss of light the replay from E answers
it (R386). -/
def execReplayRequest (port : Nat) (f : Flit) (s : State) : Host.Outcome State Fault Refusal :=
  .next (s.plain port f (fun s => if (s.port port).lossHold then s else s.resend port))

/-- REPLAY_TIMEOUT (R378): ACK has not advanced for 2 µs while flits are unacknowledged. -/
def execReplayTimeout (port : Nat) (s : State) : Host.Outcome State Fault Refusal :=
  .next (
    let x := s.port port
    if x.up && !x.replay.isEmpty && !x.lossHold && decide (x.ackAt + nsCycles 2000 ≤ s.cycle) then s.resend port else s)

/-- FLIT_CRC_FAILURE (R375, R378): a flit with a bad CRC is discarded; one of a reserved kind counts as an
authentication failure. -/
def execFlitCrcFailure (port : Nat) (reservedKind : Bool) (s : State) : Host.Outcome State Fault Refusal :=
  .next (
    if !(s.port port).up || port ≥ 44 then s
    else if reservedKind then
      let x := s.port port
      ((s.heard port).setPort port { (s.heard port).port port with
        authf := if x.authf = 0xFFFF then x.authf else x.authf + 1 }).portEvent 0x06 port 0 0 0
    else (s.heard port).askReplay port)

/-! ### Compatibility mode (R379) -/

def State.modBulk (s : State) (p tag : Nat) (f : Bulk → Bulk) : State :=
  s.setPort p { s.port p with bulks := (s.port p).bulks.map (fun b => if b.tag == tag then f b else b) }

/-- DROP_NOTICE (R379): the node dropped a bulk packet; the sender asks for a reservation. -/
def execDropNotice (port : Nat) (f : Flit) (s : State) : Host.Outcome State Fault Refusal :=
  .next (s.accept port f (fun s f =>
    let tag := f.tag.toNat
    match (s.port port).bulks.find? (fun b => b.tag == tag) with
    | none => s
    | some b =>
      (s.modBulk port tag (fun b => { b with dropped := true })).sendAll port
        [mkFlit 8 7 tag false (BitVec.ofNat 512 (64 * (b.flits.length - 1)))]))

/-- RESERVATION_REQUEST (R379): a node asks before it resends; the device holds buffer for what it asked
for, so the grant starts at once and lasts as long as the bytes take. The payload's places are the model's (DESIGN
CHOICE, log 38). -/
def execReservationRequest (port : Nat) (f : Flit) (s : State) : Host.Outcome State Fault Refusal :=
  .next (s.accept port f (fun s f =>
    let n := fld f.payload 63 0
    s.sendAll port [mkFlit 9 7 f.tag.toNat false
      (BitVec.ofNat 512 (s.cycle * 5 / 4 + ceilDiv (n * 1000) 96700 * 2 ^ 64))]))

/-- RESERVATION_GRANT (R379): the start time and the duration of the packet's window (their places in the payload:
DESIGN CHOICE, log 38). -/
def execReservationGrant (port : Nat) (f : Flit) (s : State) : Host.Outcome State Fault Refusal :=
  .next (s.accept port f (fun s f =>
    s.modBulk port f.tag.toNat (fun b =>
      if b.dropped then { b with grant := some (fld f.payload 63 0, fld f.payload 127 64) } else b)))

/-- RESERVATION_WINDOW_START (R379): the packet is sent again with DRP = 0, where it goes whole inside the granted time
at one flit each 0.661 ns (R376); where it no longer does, another time is asked for (DESIGN CHOICE, log 38). -/
def execReservationWindowStart (port tag : Nat) (s : State) : Host.Outcome State Fault Refusal :=
  .next (match (s.port port).bulks.find? (fun b => b.tag == tag) with
  | none => s
  | some b => match b.grant with
    | none => s
    | some (t, d) =>
      let l := b.flits.map (fun f => { f with drp := false })
      let x := s.port port
      if s.cycle < nsCycles t || !x.up then s
      else if (t + d) * 1000 < s.cycle * 1250 + l.length * 661 then
        (s.modBulk port tag (fun b => { b with grant := none })).sendAll port
          [mkFlit 8 7 tag false (BitVec.ofNat 512 (64 * (b.flits.length - 1)))]
      else if !x.open_ || !x.mid.isEmpty || !x.affords l then s
      else (s.modBulk port tag (fun b => { b with dropped := false, grant := none })).sendFlits port l)

/-! ### The active set (R381, R382) -/

/-- The payload of an announcement or an echo: the mask, and the boundary at [27:16] (DESIGN CHOICE, log 112). -/
def annPayload (mask : BitVec 16) (e : BitVec 12) : BitVec 512 := BitVec.ofNat 512 (mask.toNat + e.toNat * 2 ^ 16)

/-- ACTIVE_SET_ANNOUNCEMENT (R381): the receiver echoes it, and changes at E. -/
def execActiveSetAnnouncement (port : Nat) (f : Flit) (s : State) : Host.Outcome State Fault Refusal :=
  .next (s.plain port f (fun s =>
    let mask := f.payload.extractLsb' 0 16
    let e := f.payload.extractLsb' 16 12
    let x := s.port port
    let past := decide (0 < (x.rxNext - e).toNat) && decide ((x.rxNext - e).toNat < 2048)
    let s := if past then s.setPort port { x with rxact := mask, rxAnn := none
                                                  retrain := (x.retrain ||| (x.rxact &&& ~~~mask)) &&& ~~~mask }
             else s.setPort port { x with rxAnn := some (mask, e) }
    s.sendPlain port (mkFlit 11 6 0 false (annPayload mask e))))

/-- ACTIVE_SET_ECHO (R381, R386): the transmitter may send from E on with the new set; after a loss of light
it replays from E. -/
def execActiveSetEcho (port : Nat) (f : Flit) (s : State) : Host.Outcome State Fault Refusal :=
  .next (s.plain port f (fun s =>
    let x := s.port port
    match x.ann with
    | none => s
    | some a =>
      if f.payload.extractLsb' 0 16 ≠ a.mask || f.payload.extractLsb' 16 12 ≠ a.bound then s
      else if x.lossHold then
        let again := x.replay.filter (fun g => decide ((g.seq - a.bound).toNat < 2048))
        let kept := again.filter (fun g => !decide ((x.ackIn - g.seq).toNat < 2048))
        s.setPort port { x with ann := none, lossHold := false, out := again.reverse ++ x.out, replay := kept
                                again := false, ackAt := s.cycle }
      else
        let s := s.setPort port { x with ann := some { a with echoed := true } }
        if x.again then s.resend port else s))

/-- Announce a change of our set on a port. -/
def State.announce (s : State) (p : Nat) (mask : BitVec 16) (e : BitVec 12) : State :=
  (s.setPort p { s.port p with ann := some { mask := mask, bound := e, sentAt := s.cycle } }).sendPlain p
    (mkFlit 10 6 0 false (annPayload mask e))

/-- WAVELENGTH_REQUEST (R382): the receiver asks us to remove or restore a wavelength; a planned change, or
the end of the port where fewer than 8 would be left. A change under way is finished first. -/
def execWavelengthRequest (port : Nat) (f : Flit) (s : State) : Host.Outcome State Fault Refusal :=
  .next (s.plain port f (fun s =>
    let x := s.port port
    let bit := 1#16 <<< fld f.payload 4 1
    let mask := if f.payload.getLsbD 0 then x.txact ||| bit else x.txact &&& ~~~bit
    let dark := f.payload.getLsbD 0 && (bit &&& s.bankLit (bankOf port)) == 0
    if x.ann.isSome || mask == x.txact || dark then s
    else if popcount mask < 8 then s.goDown port
    else s.announce port mask (x.txSeq + 256)))

/-- ANNOUNCEMENT_REPEAT (R381): every 256 ns until the echo. -/
def execAnnouncementRepeat (port : Nat) (s : State) : Host.Outcome State Fault Refusal :=
  .next (
    let x := s.port port
    match x.ann with
    | none => s
    | some a =>
      if !x.up || a.echoed || decide (s.cycle < a.sentAt + nsCycles 256) then s
      else (s.setPort port { x with ann := some { a with sentAt := s.cycle } }).sendPlain port
        (mkFlit 10 6 0 false (annPayload a.mask a.bound)))

/-- BER_WINDOW (R382): a window of a receive wavelength ends with `rate` errors in 10^9 symbols. -/
def execBerWindow (port lam rate : Nat) (s : State) : Host.Outcome State Fault Refusal :=
  .next (
    let x := s.port port
    let bit := 1#16 <<< (lam % 16)
    if !x.up || 16 ≤ lam then s
    else if (x.rxact &&& bit) != 0 && decide (s.rethr * 100 < rate) then
      if popcount (x.rxact &&& ~~~bit) < 8 then s.goDown port
      else s.sendPlain port (mkFlit 12 6 0 false (BitVec.ofNat 512 (lam * 2)))
    else if (x.retrain &&& bit) != 0 && decide (rate < s.rethr * 25) then
      s.sendPlain port (mkFlit 12 6 0 false (BitVec.ofNat 512 (1 + lam * 2)))
    else s)

/-! ### Light (R383, R386) -/

/-- The ports of a bank that are up, as a mask. -/
def State.bankPorts (s : State) (b : Nat) : List Nat :=
  ((List.range 11).map (fun i => 11 * b + i)).filter (fun p => (s.port p).up)
def portMask (l : List Nat) : Word64 := l.foldl (fun a p => a ||| (1#64 <<< p)) 0

/-- A transmitter of the bank loses the wavelengths of a source: it announces the surviving ones, with E its
oldest unacknowledged SEQ. -/
def State.loseLight (s : State) (m : BitVec 16) (p : Nat) : State :=
  let x := s.port p
  let mask := x.txact &&& ~~~m
  if mask == x.txact then s
  else if popcount mask < 8 then s.goDown p
  else
    let e := x.ackIn + 1
    (s.setPort p { x with txact := mask, lossHold := true }).announce p mask e

/-- LOSS_OF_LIGHT (R383). -/
def execLossOfLight (source : Nat) (s : State) : Host.Outcome State Fault Refusal :=
  .next (
    if 16 ≤ source || !s.lit.getLsbD source then s else
    let b := source / 4
    let ports := s.bankPorts b
    let old := s.bankLit b
    let s := { s with lit := s.lit &&& ~~~(1#16 <<< source) }
    let s := { s with evQueue := s.evQueue ++ [{ typ := 0x03, unit := 2, index := source, old := old, new := s.bankLit b,
                                                 place := 0, detail := portMask ports }] }
    ports.foldl (fun s p => s.loseLight (sourceMask source) p) s)

/-- LIGHT_RESTORED (R383): the wavelengths are retrained and come back under R382. -/
def execLightRestored (source : Nat) (s : State) : Host.Outcome State Fault Refusal :=
  .next (
    if 16 ≤ source || s.lit.getLsbD source || !s.ready.getLsbD (10 + source / 4) then s else
    let b := source / 4
    let old := s.bankLit b
    let s := { s with lit := s.lit ||| (1#16 <<< source) }
    { s with evQueue := s.evQueue ++ [{ typ := 0x04, unit := 2, index := source, old := old, new := s.bankLit b,
                                        place := 0, detail := portMask (s.bankPorts b) }] })

/-- PORT_DOWN (R383): nothing received for 10 µs. -/
def execPortDown (port : Nat) (s : State) : Host.Outcome State Fault Refusal :=
  .next (if (s.port port).up && decide ((s.port port).lastRx + nsCycles 10000 ≤ s.cycle) then s.goDown port else s)

/-! ### MODE and training (R366, R374, R401) -/

/-- A write of a port's register: MODE and NODE. -/
def State.applyMode (s : State) (p : Nat) (v : Word64) : State :=
  let mode := v.extractLsb' 62 2
  let s := if (s.port p).up && (mode != (s.port p).mode || fld v 53 48 != (s.port p).node) then s.portStops p else s
  let x := s.port p
  s.setPort p { x with mode := mode, node := fld v 53 48, waits := none,
                       training := (mode == 1 || mode == 2) && !x.up }

/-- PORT_MODE_WRITE (R366, R401): held until the port's bank is ready. -/
def execPortModeWrite (port : Nat) (value : Word64) (s : State) : Host.Outcome State Fault Refusal :=
  .next (
    if 44 ≤ port then s
    else if s.ready.getLsbD (10 + bankOf port) then s.applyMode port value
    else s.setPort port { s.port port with waits := some value })

/-- PORT_TRAINED (R374, R377): the port comes up with the credits that its node advertises, and advertises its own
slots; requests that waited for a port go out. -/
def execPortTrained (port : Nat) (credits : List Nat) (s : State) : Host.Outcome State Fault Refusal :=
  .next (
    let x := s.port port
    if !x.training || x.up then s else
    let set := s.bankLit (bankOf port)
    (s.setPort port { x with
      up := true, training := false, txSeq := 0, ackIn := 0xFFF, rxNext := 0, replay := [], pend := [], mid := [],
      again := false, ackAt := s.cycle,
      slots := (List.range 8).foldl (fun t c => tset 0 t c (max 16 (min 1023 (Config.portSlots port c).toNat))) [],
      credits := (credits.zip (List.range 8)).foldl (fun t e => tset 0 t e.2 e.1) [], owed := [], txact := set, rxact := 0xFFFF,
      asked := false, authRun := 0, ann := none, rxAnn := none, lossHold := false, bulks := [], lastRx := s.cycle,
      retrain := 0 }).sendQueued)

end Sys2Proof.Machine
end

