-- ==== Sys2Proof/Machine/Fabric.lean ====
section
/-!
DEFINITION. The Meridian (R365 to R373): reservation records, the grant table, units and what each type
does where it is applied, repair and halt.
-/
namespace Sys2Proof.Machine

/-! ### Bodies of units (log 39) -/

/-- A 24-byte pair of a transfer unit, whose field number is the issuing device's on every device (DESIGN CHOICE, log
111): from and to cell, amount, field, lane, domain; in its spare bits the context,
the flags limit and swapped, and the agents at which its cells are homed. -/
def pairBits (p : Pair) (dom : Nat) : Nat :=
  p.src + p.dst * 2 ^ 32 + p.amt * 2 ^ 64 + p.fld * 2 ^ 128 + p.lane * 2 ^ 144 + dom * 2 ^ 152 + p.ctx * 2 ^ 168 +
    (boolBit p.limit + 2 * boolBit p.swapped + 4) * 2 ^ 176 + p.srcHome * 2 ^ 179 + p.dstHome * 2 ^ 185

/-- A pair of a unit, none for an empty place; `agent` and `tag` say whose it is. -/
def bitsPair (x agent tag : Nat) : Option Pair :=
  let f (hi lo : Nat) : Nat := x / 2 ^ lo % 2 ^ (hi + 1 - lo)
  if f 178 178 = 0 then none
  else some { gid := 0, op := 0, lane := f 151 144, ctx := f 173 168, fld := f 143 128, src := f 31 0, dst := f 63 32,
              spa := none, dpa := none, amt := f 127 64, swapped := f 177 177 == 1, limit := f 176 176 == 1,
              tag := tag, agent := agent, srcHome := f 184 179, dstHome := f 190 185 }

/-- A transfer answer: its stage (0 debit decided, 1 outcome, 2 amount returned, 3 outcome with a return to
come), a reason of refusal or 0, the amount, and the pair with its agent. -/
def answerBody (stage : Nat) (p : Pair) (reason amount : Nat) : BitVec 416 :=
  BitVec.ofNat 416 (stage + reason * 2 ^ 4 + amount * 2 ^ 8 + pairBits p 0 * 2 ^ 80 + p.agent * 2 ^ 280)

/-- Stage, reason, amount and pair of a transfer answer. -/
def answerOf (u : Unit64) : Option (Nat × Nat × Nat × Pair) :=
  let x := u.body.toNat
  (bitsPair (x / 2 ^ 80 % 2 ^ 192) (x / 2 ^ 280 % 64) u.tag.toNat).map (fun p =>
    (x % 16, x / 2 ^ 4 % 16, x / 2 ^ 8 % 2 ^ 64, p))

/-- What an access does at a node: a code (that of AtomicKind, 14 a load, 15 a store, 9 the count of a copy), its size,
and 32 bytes of operands. -/
structure NodeOp where
  code : Nat
  size : Nat
  data : BitVec 256 := 0
  deriving DecidableEq, Repr

/-- An atomic unit names the first byte; whether it writes, and whether it touches several frames; what it does, with
the operands of its first lane (log 39). -/
def atomicBody (pa : Nat) (write many : Bool) (x : NodeOp) : BitVec 416 :=
  BitVec.ofNat 416 (pa + boolBit write * 2 ^ 52 + boolBit many * 2 ^ 53 + x.code * 2 ^ 56 + x.size * 2 ^ 64 +
    x.data.toNat * 2 ^ 72)

/-- A field registration, under the issuing device's field number (DESIGN CHOICE, log 111): 0 FDEF, 1 FBND, 2 a dropped field's claims, 3 FDEF.DROP; context, field number, boundary
cell, whether it is a sink, and whether its entry was found. -/
def regBody (kind ctx fld j : Nat) (sink found : Bool) : BitVec 416 :=
  BitVec.ofNat 416 (kind + ctx * 2 ^ 8 + fld % 4096 * 2 ^ 16 + j * 2 ^ 32 + boolBit sink * 2 ^ 40 + boolBit found * 2 ^ 41)

/-- An effect that waited acts (R242, R243, R246, R251, R252, R350). -/
def State.runAfter (s : State) (gid n : Nat) : AfterAct → State
  | .fence order scope => s.applyFence order scope gid n
  | .acqr victim => s.applyAcqr victim gid n
  | .stwb slot off scope drop => s.applyStwb slot off scope drop gid n
  | .bara core bar w sb => s.applyBara core bar w sb gid n
  | .barx core bar w => s.applyBarx core bar w gid n
  | .tbar tb token => s.applyTbar tb token gid n
  | .enq queue sb nowait src => s.applyEnq queue sb nowait src gid n
  | .deq queue sb nowait dst => s.applyDeq queue sb nowait dst gid n
  | .launch queue sb nowait recAt => s.applyLaunch queue sb nowait recAt gid n
  | .launchLanes queue recAt args => s.applyLaunchLanes queue recAt args gid n
  | .invlp page cst => s.applyInvlp page cst gid n

/-! ### Own operations (R266, R371) -/

/-- Its bytes at pooled nodes. -/
def OpKind.pooled (k : OpKind) : List (Nat × Nat) :=
  k.bytes.filterMap (fun b => match b.1 with
    | .phys pa => if isPooled pa then some (pa, b.2.1) else none
    | .stash .. => none)

/-- Does it read at a node: an access, but for a store? It is performed with the node's answers. -/
def OpKind.asksNode (k : OpKind) : Bool :=
  match k with
  | .store .. => false
  | k => !k.pooled.isEmpty

/-- Is it a release that acts before its position (R266)? -/
def OpKind.releasesFirst : OpKind → Bool
  | .store o .. | .atomic _ o .. | .after (.fence o _) => o == .rel || o == .acqRel
  | .after (.invlp ..) | .after (.stwb ..) | .ffence _ => true
  | _ => false

/-- Has it to be made ready before it reserves: its release, its copies in this device's caches, the entry of an
FBND? -/
def OpKind.prepares (k : OpKind) : Bool :=
  k.releasesFirst || !k.pooled.isEmpty || (match k with
    | .fbnd .. => true
    | _ => false)

/-- What an effect still does at its position: of a fence, the acquire; of a write-back, the end of the mapping. -/
def AfterAct.rest : AfterAct → AfterAct
  | .stwb slot off _ drop => .stwb slot off .device drop
  | .fence .rel scope => .fence .rlx scope
  | .fence .acqRel scope => .fence .acq scope
  | a => a

/-- The unit of an operation at its nodes, or of one that names no node. -/
def State.atomicUnit (s : State) (tag : BitVec 32) (write : Bool) (l : List (Nat × Nat)) (x : NodeOp) : Unit64 :=
  match l with
  | [] => s.newUnit s.fabid false 0x03 tag 0
  | (pa, _) :: t =>
    let many := t.any (fun x => x.1 / 256 != pa / 256)
    s.newUnit (32 + (pa - 2 ^ 46) / 2 ^ 41) (write || many) 0x03 tag (atomicBody pa write many x)

/-- What an operation does at its nodes. -/
def OpKind.nodeOp : OpKind → NodeOp
  | .store _ _ n (a :: _) => { code := 15, size := n, data := BitVec.ofNat 256 (ofBytes a.2) }
  | .atomic k _ _ n _ _ tree (a :: t) =>
    let val := if tree then treeValue k (8 * n) (a :: t) else a.val.toNat
    { code := k.code, size := n, data := BitVec.ofNat 256 (val + a.cmp.toNat * 2 ^ 128) }
  | .load _ _ n .. => { code := 14, size := n }
  | .cpwait .. | .yieldc .. => { code := 14, size := 16 }
  | _ => { code := 0, size := 0 }

/-- The units that an operation of a group needs: one, or one per two pairs that are still to take their position. -/
def State.opUnits (s : State) (gid n : Nat) (g : Group) (o : Op) : List Unit64 :=
  let tag := BitVec.ofNat 32 n
  let unit (typ : Nat) (body : BitVec 416) : Unit64 := s.newUnit 0 true typ tag body
  match o.kind with
  | .after (.fence ..) | .ffence _ => [unit 0x05 0]
  | .after (.invlp page _) => [unit 0x0A (transBody (boolBit page.isNone) g.ctx (page.getD 0).toNat)]
  | .col _ _ home _ => [unit 0x0A (transBody 2 g.ctx home)]
  | .ftot dom _ => [unit 0x08 (BitVec.ofNat 416 (dom + g.ctx * 2 ^ 16))]
  | .fdef .. => [unit 0x0C 0]
  | .fdrop handle _ => [unit 0x0C (regBody 3 g.ctx handle.toNat 0 false false)]
  | .fbnd handle _ j sink cell => [unit 0x0C (regBody 1 g.ctx handle.toNat j sink cell.isSome)]
  | .txf _ =>
    let far := (s.farPairs gid n).filter (fun e => !e.2.passed)
    let dom (p : Pair) : Nat := ((dget s.fields (fieldKey p.ctx p.fld)).map (fun f => f.domain)).getD 0
    (List.range (ceilDiv far.length 2)).map (fun i =>
      let bits (k : Nat) : Nat := ((far[2 * i + k]?).map (fun e => pairBits e.2 (dom e.2))).getD 0
      unit 0x06 (BitVec.ofNat 416 (bits 0 + bits 1 * 2 ^ 192)))
  | .load .. | .cpwait .. | .yieldc .. => [s.atomicUnit tag false o.kind.pooled o.kind.nodeOp]
  | k => [s.atomicUnit tag true k.pooled k.nodeOp]

/-- May an FFENCE end: nothing that it waits for is left, and it raises nothing? -/
def State.fenceReady (s : State) (gid n : Nat) (g : Group) : Bool :=
  s.fieldQuiet gid g && !g.earlier n && g.toRaise.isNone

/-- Is a store of a prediction held that comes before operation n in program order, or a clause still to be replayed
(R133)? It is performed before, so the operation takes no position yet. -/
def Group.heldBefore (g : Group) (n : Nat) (o : Op) : Bool :=
  g.ops.any (fun e => e.2.held && decide (e.2.at_ e.1 < o.at_ n)) || !g.slot0.replays.isEmpty || !g.slot1.replays.isEmpty

/-- May operation n reserve now: it is ready, and what comes before it is performed, at its nodes too (R266)? -/
def State.mayReserve (s : State) (gid n : Nat) (g : Group) (o : Op) : Bool :=
  (o.mer == 4 || (o.mer == 1 && !o.kind.prepares)) && (o.relAt.all (fun b => !s.relBusy b)) && !g.heldBefore n o &&
    s.canAct gid g n { o with mer := 3 } && (match o.kind with
    | .ffence _ => s.fenceReady gid n g
    | _ => true)

/-- The operations that want positions, in issue order. -/
def State.wanting (s : State) : List (Nat × Nat) :=
  (s.groups.flatMap (fun e => (e.2.ops.filter (fun o => s.mayReserve e.1 o.1 e.2 o.2)).map
    (fun o => (e.1, o.1)))).mergeSort (fun a b => decide (a.2 ≤ b.2))

/-- Set the Meridian state of an operation. -/
def Group.setMer (g : Group) (n m : Nat) : Group :=
  match dget g.ops n with
  | some o => { g with ops := dput g.ops n { o with mer := m } }
  | none => g

/-- Reserve for every operation, and every count of a copy record, that can go. -/
def State.enqueueOps (s : State) : State :=
  let s := s.wanting.foldl (fun s x => match (s.group? x.1).bind (fun g => (dget g.ops x.2).map (fun o => (g, o))) with
    | none => s
    | some (g, o) =>
      let units := s.opUnits x.1 x.2 g o
      { s with mer := { s.mer with wants := s.mer.wants ++ units } }.modGroup x.1 (fun g => g.setMer x.2 2)) s
  (s.jobs.filter (fun e => e.2.mer == 1)).foldl (fun s e =>
    let at_ : List (Nat × Nat) := match e.2.req.bobj with
      | .phys pa => if isPooled pa then [(pa, 16)] else []
      | .stash .. => []
    let data := (e.2.due.map (fun d => d.1 + d.2 * 2 ^ 64)).getD 0
    let op : NodeOp := { code := 9, size := 16, data := BitVec.ofNat 256 data }
    { s.sendUnit (s.atomicUnit (BitVec.ofNat 32 e.1) true at_ op) with
      jobs := dput s.jobs e.1 { e.2 with mer := 2 } }) s

/-! ### Acting (R235, R266) -/

/-- An operation of a field or domain acts in the device order; of one that is the constellation's by now it takes a
Meridian position. -/
def State.inOrder (s : State) (gid n : Nat) (cst : Bool) (act : State → State) : State :=
  if cst then s.modGroup gid (fun g => g.setMer n 1) else act s

/-- Is a field of this device one of the constellation? -/
def State.fieldCst (s : State) (ctx : Nat) (handle : Word64) : Bool :=
  ((s.field? ctx handle).map (fun f => f.cst)).getD false

/-- The totals of FTOT: every device of a constellation-scope domain has answered with its own (R283). -/
def State.endFtot (s : State) (gid n : Nat) (g : Group) (dom sb : Nat) (mer : Nat) : State :=
  if mer = 0 then s.inOrder gid n (s.domainCst g.ctx dom) (fun s => s.applyFtot dom sb [] gid n)
  else if !s.acked n then s
  else s.answer gid n sb (ftotWords (some ((dget s.mer.totals n).getD [])))

/-- FDEF.DROP: at constellation scope once every other device has no transfer of the field under way; its claims of
boundary cells go at a position of their own. -/
def State.endFdrop (s : State) (gid n : Nat) (g : Group) (handle : Word64) (sb : Nat) (mer : Nat) : State :=
  if mer = 0 then s.inOrder gid n (s.fieldCst g.ctx handle) (fun s => s.applyFdrop handle sb gid n)
  else if !s.acked n then s
  else
    let t := s.applyFdrop handle sb gid n
    if (s.field? g.ctx handle).isSome && (t.field? g.ctx handle).isNone then
      t.sendUnit (t.newUnit 0 true 0x0C (BitVec.ofNat 32 n) (regBody 2 g.ctx handle.toNat 0 false false))
    else t

/-- FBND at its position; where the field is gone its claim does not stand. -/
def State.endFbnd (s : State) (gid n : Nat) (g : Group) (handle : Word64) (sb j : Nat) (sink : Bool) (cell : Option Nat)
    (mer : Nat) : State :=
  if mer = 0 then s.inOrder gid n (s.fieldCst g.ctx handle) (fun s => s.fbndNow handle sb j sink gid n)
  else
    let t := s.applyFbnd handle sb j sink cell gid n
    if (s.field? g.ctx handle).isNone then
      t.sendUnit (t.newUnit 0 true 0x0C (BitVec.ofNat 32 n) (regBody 2 g.ctx handle.toNat 0 false false))
    else t

/-- An operation acts: a store, and one that has no row of its own (log 19). -/
def State.act (s : State) (gid n : Nat) (g : Group) (o : Op) : State :=
  match o.kind with
  | .store .. => s.performStore gid n
  | .after a => s.runAfter gid n (if o.mer = 3 then a.rest else a)
  | .inval page cst bound => s.endInval page cst bound gid n
  | .col va sb home bound =>
    if bound = 0 then s.applyCol va sb home gid n else s.endCol va sb home bound gid n
  | .ftot dom sb => s.endFtot gid n g dom sb o.mer
  | .fdef desc sb =>
    if desc.isEmpty then s.answer gid n sb [failWord 1] else s.applyFdef desc sb gid n
  | .fdrop handle sb => s.endFdrop gid n g handle sb o.mer
  | .fbnd handle sb j sink cell => s.endFbnd gid n g handle sb j sink cell o.mer
  | .ffence scope =>
    if s.fieldQuiet gid g && !g.earlier n then s.endFfence gid o.slot n scope else s
  | _ => s

/-- Make an operation ready for its reservation (R266): its release, and the copies of its pooled bytes go, which the
nodes have before it reserves; an FFENCE that raises a refusal needs no position. -/
def State.prepare (s : State) (gid n : Nat) (g : Group) (o : Op) : State :=
  let ready (t : State) (k : OpKind) : State :=
    let done := t.wrote.isEmpty && !t.relBusy t.nextId
    t.modGroup gid (fun g => { g with
      ops := dput g.ops n { o with mer := 4, kind := k, relAt := if done then none else some t.nextId } })
  match o.kind with
  | .fbnd handle sb j sink _ =>
    let c := s.fbndCell g.ctx handle j
    ready c.1 (.fbnd handle sb j sink c.2)
  | .ffence scope =>
    if !s.fieldQuiet gid g || g.earlier n then s
    else if g.toRaise.isSome then s.endFfence gid o.slot n scope
    else ready (s.fenceRel g.core .constellation) o.kind
  | k =>
    let s := match k with
      | .after (.stwb slot off ..) => s.mapRelease g slot off
      | _ => s
    let s := if k.releasesFirst then s.fenceRel g.core .constellation else s
    ready (k.pooled.foldl (fun s b => (List.range b.2).foldl (fun s i =>
      (s.l1Clean g.core (b.1 + i)).l2None (b.1 + i)) s) s) k

/-- STORE_COMPLETE for an operation: it acts, or is made ready for its position; one with no effect completes in a cycle
after its issue (R232, R349, R363). -/
def State.complete (s : State) (gid n : Nat) (g : Group) (o : Op) : State :=
  if o.kind = .idle then (if o.issueAt < s.cycle then s.completeOp gid n else s)
  else if o.mer = 1 then
    (if o.kind.prepares && s.canAct gid g n { o with mer := 3 } then s.prepare gid n g o else s)
  else if o.mer = 4 then
    (if o.relAt.all (fun b => !s.relBusy b) then
      s.modGroup gid (fun g => { g with ops := dput g.ops n { o with relAt := none } }) else s)
  else if s.canAct gid g n o then s.act gid n g o else s

/-- An operation reaches its position. What it reads at a node is performed with the node's answers, the rest of it
now; an FFENCE that has more to wait for by now reserves again. -/
def State.opAt (s : State) (gid n : Nat) (g : Group) (o : Op) : State :=
  let far (a : LaneAcc) : Bool := match a.loc with
    | .phys pa => isPooled pa
    | .stash .. => false
  let asks := o.kind.asksNode
  let o' : Op := if asks then o else { o with mer := 3 }
  let now (s : State) : State := s.modGroup gid (fun g => g.setMer n 3)
  match o.kind with
  | .load .. => s.loadSome gid n o' (fun a => !far a)
  | .atomic .. => s.atomicSome gid n o' (fun a => !far a)
  | .cpwait .. | .yieldc .. => if asks then s else (now s).pollObj gid n
  | .ftot dom sb => match s.totals g.ctx dom with
    | none => s.answer gid n sb (ftotWords none)
    | some t => { now s with mer := { s.mer with totals := dput s.mer.totals n (t :: (dget s.mer.totals n).getD []) } }
  | .ffence _ => if s.fenceReady gid n g then (now s).act gid n g o' else s.modGroup gid (fun g => g.setMer n 1)
  | .fdrop .. => now s
  | _ => (now s).act gid n g o'

/-! ### Reservation records and the grant table (R368, R369, R373) -/

/-- The members, ascending. -/
def State.memberList (s : State) : List Nat := (List.range 64).filter (fun a => s.members.getLsbD a)

def State.record? (s : State) (frame agent : Nat) : Option ResRecord :=
  (s.mer.records.find? (fun r => r.1 == frame && r.2.1 == agent)).map (fun r => r.2.2)

/-- Do we hold every member's record for a frame? The first two frames have none. -/
def State.recordsFor (s : State) (frame : Nat) : Option (List ResRecord) :=
  if frame < 2 then some []
  else
    let l := s.memberList.map (fun a => s.record? frame a)
    if l.all (fun r => r.isSome) then some (l.filterMap (fun r => r)) else none

/-- The member of rank r, and the members in cyclic order from it. -/
def cyclicFrom (l : List Nat) (r : Nat) : List Nat := l.drop r ++ l.take r

/-- What a slot carries: a unit of an agent, or the repair of a (frame, unit). -/
inductive Slot64 where
  | own (agent : Nat)
  | repair (frame : Nat) (index : Nat)
  deriving DecidableEq, Repr

/-- A full frame number near f from its low 22 bits. -/
def fullFrame (f : Nat) (low : BitVec 22) : Nat :=
  let d := (f + 2 ^ 22 - low.toNat) % 2 ^ 22
  f - d

/-- Give one member its slots from `next` on: the slot after, and what it got. -/
def takeSlots (agent : Nat) (deg : BitVec 4) : Nat → Nat → Nat → Nat × List (Nat × Slot64)
  | 0, _, next => (next, [])
  | fuel + 1, want, next =>
    if want = 0 || 960 ≤ next then (next, [])
    else if deg.getLsbD (next % 4) then takeSlots agent deg fuel want (next + 1)
    else
      let t := takeSlots agent deg fuel (want - 1) (next + 1)
      (t.1, (next, .own agent) :: t.2)

/-- The repairs that records ask for in a frame. -/
def repairList (frame : Nat) (recs : List ResRecord) : List (Nat × Nat) :=
  recs.flatMap (fun r => r.repairs.map (fun x => (fullFrame (frame - 2) x.1, x.2)))

/-- Distinct repairs in ascending original position that want slots of a frame: those asked for, and those beyond 64
that the frame before left. No repair waits for longer than 16 frames, since its unit is then too old (R372). -/
def State.repairsFor (s : State) : Nat → Nat → List (Nat × Nat)
  | 0, _ => []
  | fuel + 1, frame =>
    let left := if frame = 0 then [] else (s.repairsFor fuel (frame - 1)).drop 64
    ((left ++ repairList frame ((s.recordsFor frame).getD [])).eraseDups).mergeSort
      (fun a b => decide (a.1 * 1024 + a.2 ≤ b.1 * 1024 + b.2))

/-- The repairs that take the first slots of a frame, at most 64. -/
def State.repairsOf (s : State) (frame : Nat) : List (Nat × Nat) := (s.repairsFor 17 frame).take 64

/-- The first slot from `next` on that an agent may use: on a plane that it holds whole, if it holds one (R373). -/
def wholeSlot (deg : BitVec 4) (next : Nat) : Nat :=
  (([0, 1, 2, 3].map (fun i => next + i)).find? (fun u => !deg.getLsbD (u % 4))).getD next

/-- The grant table of a frame: (slot, what it carries), ascending; none where a record is missing. Repairs go first, on
planes that their senders hold whole. `fuel` bounds how far back the senders are looked up. -/
def State.grants (s : State) : Nat → Nat → Option (List (Nat × Slot64))
  | 0, _ => none
  | fuel + 1, frame =>
    match s.recordsFor frame with
    | none => none
    | some recs =>
      let l := s.memberList
      let deg (a : Nat) : BitVec 4 := ((recs.find? (fun r => r.agent == a)).map (fun r => r.deg)).getD 0
      let sender (x : Nat × Nat) : Nat :=
        if 960 ≤ x.2 then x.2 - 960
        else (((s.grants fuel x.1).getD []).findSome? (fun e => match e.2 with
          | .own a => if e.1 = x.2 then some a else none
          | .repair .. => none)).getD 64
      let head := (s.repairsOf frame).foldl (fun (acc : Nat × List (Nat × Slot64)) x =>
        let u := wholeSlot (deg (sender x)) acc.1
        (u + 1, acc.2 ++ [(u, Slot64.repair x.1 x.2)])) (0, [])
      let order := cyclicFrom l (if l.isEmpty then 0 else frame % l.length)
      some (order.foldl (fun (acc : Nat × List (Nat × Slot64)) a =>
        match recs.find? (fun r => r.agent == a) with
        | none => acc
        | some r => let t := takeSlots a r.deg 960 r.req acc.1; (t.1, acc.2 ++ t.2)) head).2

def State.grantTable (s : State) (frame : Nat) : Option (List (Nat × Slot64)) := s.grants 18 frame

/-! ### What a unit does (R370, R371) -/

/-- Drop the copies of a pooled frame in the L2s, the dirty bytes written to its node where this device owns it; those
of a frame that it does not own are later plain stores, which ask for it themselves (R371). -/
def State.surrender (s : State) (frame : Nat) : State :=
  let held := s.cache.filter (fun e => decide (320 ≤ e.1 / 2 ^ 52) && e.1 % 2 ^ 52 / 256 == frame)
  let mine := s.owns (frame * 256)
  held.foldl (fun s e =>
    if !e.2.dirty then { s with cache := ddel s.cache e.1 }
    else if mine then { s.wr (e.1 % 2 ^ 52) e.2.val with cache := ddel s.cache e.1 }
    else s) s

/-- The operation of this device that carries a tag and has not reached its position. -/
def State.tagged (s : State) (tag : BitVec 32) : Option (Nat × Nat × Group × Op) :=
  s.groups.findSome? (fun e => (e.2.ops.find? (fun o => BitVec.ofNat 32 o.1 == tag && o.2.mer == 2)).map
    (fun o => (e.1, o.1, e.2, o.2)))

/-- The copy record whose count carries a tag. -/
def State.taggedJob (s : State) (tag : BitVec 32) : Option (Nat × CopyJob) :=
  s.jobs.find? (fun e => BitVec.ofNat 32 e.1 == tag && e.2.mer == 2)

/-- An answer to operation `tag` is noted under `x`: an agent, or the byte that a node answered for. -/
def State.note (s : State) (tag : BitVec 32) (x : Nat) : State :=
  let n := tag.toNat
  let old := (dget s.mer.answers n).getD []
  { s with mer := { s.mer with answers := dput s.mer.answers n (if old.contains x then old else x :: old) } }

def State.answerTo (s : State) (agent typ : Nat) (tag : BitVec 32) (body : BitVec 416) : State :=
  s.sendUnit (s.newUnit agent false typ tag body)

/-! ### Transfers between devices (R280, R281) -/

/-- Are they the same pair: of one unit, lane and issuer? -/
def Pair.same (p q : Pair) : Bool := p.tag == q.tag && p.lane == q.lane && p.agent == q.agent

/-- The place of a cell homed here. -/
def State.cellPlace (s : State) (ctx : Nat) (f : Field) (i : Nat) : State × Option Nat :=
  if f.isCell i && f.homeAgent s.fabid i == s.fabid then s.fieldPage ctx (f.va i) else (s, none)

/-- The own pair that an answer concerns. -/
def State.ownPair (s : State) (p : Pair) : Option (Nat × Pair) :=
  if p.agent = s.fabid then s.pairs.find? (fun e => e.2.same p) else none

/-- The entry that stands for a pair until its return has taken its position: `amt` is held here. -/
def State.putReturn (s : State) (p : Pair) (amt : Nat) : State :=
  let old : Pair := (((s.ownPair p).orElse (fun _ => s.returns.find? (fun e => e.2.same p))).map (fun e => e.2)).getD p
  { s with returns := dput (s.returns.filter (fun e => !e.2.same p)) s.nextId
             { p with gid := old.gid, op := old.op, amt := amt, spa := none, dpa := none }
           nextId := s.nextId + 1 }

/-- This device learns the outcome of a pair: as its issuer, whose lane is decided, and as the home of its from-cell.
`back` says that an amount will be returned, which the issuer's FFENCE waits for (R284). -/
def State.learn (s : State) (p : Pair) (reason amount : Nat) (back : Bool) : State :=
  let s := if back then s
    else { s with returns := s.returns.filter (fun e => !(e.2.same p && e.2.spa.isNone && e.2.amt == 0)) }
  match s.ownPair p with
  | none => s
  | some (key, q) =>
    let s := if back && !s.returns.any (fun e => e.2.same p) then s.putReturn q 0 else s
    { s.laneDone q (if reason = 0 then none else some reason) amount with pairs := ddel s.pairs key }

/-- A home tells the outcome of a pair to its issuer and to the home of its from-cell. -/
def State.tell (s : State) (p : Pair) (reason amount : Nat) (back : Bool) : State :=
  let s := s.learn p reason amount back
  if p.agent = s.fabid && p.srcHome = s.fabid then s
  else s.sendUnit (s.newUnit 0 true 0x07 (BitVec.ofNat 32 p.tag) (answerBody (if back then 3 else 1) p reason amount))

/-- Hold an amount that did not fit, counted in Id, and reserve its return's position (R281). -/
def State.holdFar (s : State) (p : Pair) (dom : Option Nat) (back : Nat) : State :=
  if back = 0 then s
  else
    let s := match dom with
      | some d => s.modDomain p.ctx d (fun x => { x with id := x.id + back })
      | none => s
    (s.putReturn p back).sendUnit (s.newUnit 0 true 0x07 (BitVec.ofNat 32 p.tag) (answerBody 2 p 0 back))

/-- The debit of a pair at its from-cell's home (R280): the amount, or a reason of refusal, which is 5 where the field or
its cell's page is gone there (DESIGN CHOICE, log 111). -/
def State.debitHere (s : State) (p : Pair) : State × (Nat ⊕ Nat) :=
  match dget s.fields (fieldKey p.ctx p.fld) with
  | none => (s, .inr 5)
  | some f =>
    let a := s.cellPlace p.ctx f p.src
    match a.2 with
    | none => (a.1, .inr 5)
    | some spa =>
      let q := a.1.cellRead (f.size p.src) spa
      match debitOf p.limit (f.wrongWay p.src p.dst) (f.avail p.src q.2) p.amt with
      | .inr r => (q.1, .inr r)
      | .inl d => (q.1.cellAdd p.ctx f p.src spa (-(d : Int)), .inl d)

/-- The credit of d at the to-cell's home (R280): the issuer learns the amount, and what does not fit is
held and later returned; all of it where the field or its cell is gone. -/
def State.creditHere (s : State) (p : Pair) (d : Nat) : State :=
  match dget s.fields (fieldKey p.ctx p.fld) with
  | none => (s.holdFar p none d).tell p 5 0 (d != 0)
  | some f =>
    let c := s.cellPlace p.ctx f p.dst
    match c.2 with
    | none => (c.1.holdFar p (some f.domain) d).tell p 5 0 (d != 0)
    | some dpa =>
      let b := c.1.cellRead (f.size p.dst) dpa
      let (amt, back, bad) := creditOf p.limit (f.room p.dst b.2) d
      ((b.1.cellAdd p.ctx f p.dst dpa amt).holdFar p (some f.domain) back).tell p (if bad then 3 else 0) amt (back != 0)

/-- What the home of the from-cell has decided for a pair, from a unit that is at hand: a reason or 0, and the
amount. -/
def State.debitAnswer (s : State) (p : Pair) : Option (Nat × Nat) :=
  s.mer.held.findSome? (fun u => if u.typ != 0x07 || u.src.toNat == s.fabid then none
    else match answerOf u with
      | some (0, reason, amount, q) => if q.same p then some (reason, amount) else none
      | _ => none)

/-- A pair at its position (R280): the home of the from-cell decides the debit and sends it to the home of the
to-cell, which makes the credit at the same position. It goes no further before it has the debit: none. -/
def State.pairAt (s : State) (p : Pair) : Option State :=
  let s : State := match s.ownPair p with
    | some (key, q) => { s with pairs := dput s.pairs key { q with passed := true } }
    | none => s
  let me := s.fabid
  if p.srcHome = me then
    let d := s.debitHere p
    if p.dstHome = me then
      some (match d.2 with
        | .inr r => d.1.tell p r 0 false
        | .inl a => d.1.creditHere p a)
    else
      let tag := BitVec.ofNat 32 p.tag
      some (match d.2 with
        | .inr r => (d.1.answerTo p.dstHome 0x07 tag (answerBody 0 p r 0)).tell p r 0 false
        | .inl a => (d.1.answerTo p.dstHome 0x07 tag (answerBody 0 p 0 a)).putReturn p 0)
  else if p.dstHome = me then
    (s.debitAnswer p).map (fun d => if d.1 = 0 then s.creditHere p d.2 else s)
  else some s

/-- A return at its position (R281): the holder's count goes down, the from-cell's home takes the amount
back, and a group of the issuer no longer waits for it. -/
def State.returnAt (s : State) (p : Pair) (amount : Nat) : State :=
  let s := { s with returns := s.returns.filter (fun e => !(e.2.same p && e.2.spa.isNone)) }
  match dget s.fields (fieldKey p.ctx p.fld) with
  | none => s
  | some f =>
    let s := if p.dstHome = s.fabid then s.modDomain p.ctx f.domain (fun x => { x with id := x.id - amount }) else s
    if p.srcHome ≠ s.fabid then s
    else
      let a := s.cellPlace p.ctx f p.src
      match a.2 with
      | none => a.1
      | some spa => a.1.cellAdd p.ctx f p.src spa amount

/-- A transfer answer at its own position: 1 and 3, an outcome, with 3 a return to come; 2, a return. A debit was used
at the position of its pair. -/
def State.transferAnswer (s : State) (u : Unit64) : State :=
  match answerOf u with
  | some (2, _, amount, p) => s.returnAt p amount
  | some (1, reason, amount, p) => if u.src.toNat = s.fabid then s else s.learn p reason amount false
  | some (3, reason, amount, p) => if u.src.toNat = s.fabid then s else s.learn p reason amount true
  | _ => s

/-! ### What each type of unit does -/

/-- The two halves of the totals of a domain as bodies: Id and Bd, then the share of K and the returns; bit 0 says
which, bit 1 that the counter is damaged (R283, R409). -/
def totalsBody (t : Totals) (second : Bool) : BitVec 416 :=
  let w (x : Int) : Nat := (BitVec.ofInt 128 x).toNat
  let bad := 2 * boolBit t.damaged
  if second then BitVec.ofNat 416 (1 + bad + w t.k * 2 ^ 8 + w t.ret * 2 ^ 136)
  else BitVec.ofNat 416 (bad + w t.id * 2 ^ 8 + w t.bd * 2 ^ 136)
def bodyTotals (b : BitVec 416) : Totals :=
  let w (lo : Nat) : Int := sgn 128 (b.toNat / 2 ^ lo % 2 ^ 128)
  let bad := b.getLsbD 1
  if b.getLsbD 0 then ⟨0, 0, w 8, w 136, bad⟩ else ⟨w 8, w 136, 0, 0, bad⟩

/-- What another device is to be answered once it is done here. -/
def State.owe (s : State) (u : Unit64) (ctx : Option Nat) (page : Option Word64) (fld : Option Nat) : State :=
  { s with mer := { s.mer with acks := s.mer.acks ++ [⟨u.src.toNat, u.tag, ctx, s.nextId, page, fld⟩] }, nextId := s.nextId + 1 }

/-- A translation unit of another agent (R226, R228): translations go at once, and it is acknowledged when the
requests made before have been performed. -/
def State.remoteTrans (s : State) (u : Unit64) : State :=
  let x := u.body.toNat
  let kind := x % 256
  let c := x / 2 ^ 8 % 64
  let at_ := x / 2 ^ 16 % 2 ^ 64
  if kind = 0 then (s.invalidate c (some at_)).owe u (some c) (some (w64n at_)) none
  else if kind = 1 then (s.invalidate c none).owe u (some c) none none
  else (s.collapse at_).owe u none none none

/-- The claims of an agent in a field's boundary cells go, or one is entered (R277): in the claims and in the field
registered here. -/
def State.claim (s : State) (key : Nat) (f : Dict (Nat × Bool) → Dict (Nat × Bool)) : State :=
  { s with claims := dput s.claims key (f (s.claimed key))
           fields := match dget s.fields key with
             | some x => if x.cst then dput s.fields key { x with bnd := f x.bnd } else s.fields
             | none => s.fields }

/-- A registration unit at its position (R276, R277): it names the field by the issuing device's number (DESIGN CHOICE,
log 111). -/
def State.registerUnit (s : State) (u : Unit64) : State :=
  let x := u.body.toNat
  let c := x / 2 ^ 8 % 64
  let fld := x / 2 ^ 16 % 4096
  let key := fieldKey c fld
  let j := x / 2 ^ 32 % 256
  match x % 256 with
  | 1 => if (dget (s.claimed key) j).isSome || x / 2 ^ 41 % 2 = 0 then s
         else s.claim key (fun d => dput d j (u.src.toNat, x / 2 ^ 40 % 2 == 1))
  | 2 => s.claim key (fun d => d.filter (fun e => e.2.1 != u.src.toNat))
  | 3 => if u.src.toNat = s.fabid then s else s.owe u (some c) none (some fld)
  | _ => s

/-- The store of another agent at a node (R266, R371): the L2s give up their clean copies. -/
def State.remoteAtomic (s : State) (u : Unit64) : State :=
  let x := u.body.toNat
  let gone (e : Nat × CByte) : Bool := decide (320 ≤ e.1 / 2 ^ 52) && !e.2.dirty &&
    (e.1 % 2 ^ 52 / 256 == x % 2 ^ 52 / 256 || (x / 2 ^ 53 % 2 == 1 && isPooled (e.1 % 2 ^ 52)))
  if x / 2 ^ 52 % 2 = 1 then { s with cache := s.cache.filter (fun e => !gone e) } else s

/-- A node's answer: address, length up to 40, and the bytes there at the position (log 39). With the last that an
operation asked for, it is performed on the bytes that were answered. -/
def State.nodeAnswer (s : State) (u : Unit64) : State :=
  let x := u.body.toNat
  let n := min 40 (x / 2 ^ 64 % 64)
  let pa := x % 2 ^ 52
  let key := u.tag.toNat
  let bytes := ((List.range n).zip (toBytes n (x / 2 ^ 80))).map (fun e => (pa + e.1, e.2))
  let s := s.note u.tag pa
  let got := (dget s.mer.got key).getD [] ++ bytes
  let s : State := { s with mer := { s.mer with got := dput s.mer.got key got } }
  let all (l : List (Nat × Nat)) : Bool := l.all (fun b => ((dget s.mer.answers key).getD []).contains b.1)
  let on (f : State → State) : State :=
    let data := got.foldl (fun (d : Dict Byte) e => dput d e.1 e.2) []
    { f { s with nodeData := data, mer := { s.mer with got := ddel s.mer.got key } } with nodeData := [] }
  match s.tagged u.tag, s.taggedJob u.tag with
  | some (gid, n, _, o), _ =>
    if !o.kind.asksNode || !all o.kind.pooled then s
    else
      let o3 : Op := { o with mer := 3 }
      match o.kind with
      | .load .. => on (fun s => s.loadSome gid n o3 (fun _ => true))
      | .atomic .. => on (fun s => s.atomicSome gid n o3 (fun _ => true))
      | _ => on (fun s => (s.modGroup gid (fun g => g.setMer n 3)).pollObj gid n)
  | none, some (key, j) => match j.due with
    | some (c, e) => on (fun s => s.countPiece key c e j)
    | none => s
  | none, none => s

/-- A unit of this device reaches its position. -/
def State.ownUnitAt (s : State) (u : Unit64) : State :=
  match u.typ.toNat with
  | 0x01 =>
    let f := u.body.toNat / 256
    { s with mer := { s.mer with owners := dput s.mer.owners f s.fabid, asking := s.mer.asking.filter (fun x => x != f) } }
  | 0x07 => s.transferAnswer u
  | _ => match s.tagged u.tag, s.taggedJob u.tag with
    | some (gid, n, g, o), _ => s.opAt gid n g o
    | none, some (key, j) => match j.due, j.req.bobj with
      | some (c, e), .phys pa => if isPooled pa then s else s.countPiece key c e j
      | some (c, e), _ => s.countPiece key c e j
      | none, _ => s
    | none, none =>
      if u.typ = 0x0C then s.registerUnit u
      else if u.typ = 0x0A && s.busy && s.busyFrom.isNone then s.invalidateHost
      else s

/-- Another agent's coherence unit (R371): type 0x01 makes it the owner of the frame; 0x02 writes the frame
back, and the former owner answers. -/
def State.takeOwner (s : State) (u : Unit64) : State :=
  let f := (u.body.extractLsb' 8 44).toNat
  let s := s.surrender f
  { s with mer := { s.mer with owners := dput s.mer.owners f u.src.toNat } }
def State.dropOwner (s : State) (u : Unit64) : State :=
  let f := (u.body.extractLsb' 8 44).toNat
  let mine := s.owns (f * 256)
  let s := s.surrender f
  let s := { s with mer := { s.mer with owners := ddel s.mer.owners f } }
  if mine then s.answerTo u.src.toNat 0x0B u.tag 0 else s

/-- Another agent asks for the totals of a domain (R283): zeros where it is not registered here. -/
def State.remoteTotals (s : State) (u : Unit64) : State :=
  let x := u.body.toNat
  let t := (s.totals (x / 2 ^ 16 % 64) (x % 1024)).getD ⟨0, 0, 0, 0, false⟩
  (s.answerTo u.src.toNat 0x09 u.tag (totalsBody t false)).answerTo u.src.toNat 0x09 u.tag (totalsBody t true)

/-- One half of the totals of another device; with the second it has answered. -/
def State.totalsAnswer (s : State) (u : Unit64) : State :=
  let n := u.tag.toNat
  let old := (dget s.mer.totals n).getD []
  let s := { s with mer := { s.mer with totals := dput s.mer.totals n (bodyTotals u.body :: old) } }
  if u.body.getLsbD 0 then s.note u.tag u.src.toNat else s

/-- What is left of a unit after a part of its work. -/
inductive After64 where
  | done
  | rest (u : Unit64)                  -- a transfer unit without its first pair
  | hold                               -- a credit waits for its debit
  deriving DecidableEq, Repr

/-- The next pair of a transfer unit (R280). -/
def State.nextPair (s : State) (u : Unit64) : State × After64 :=
  let x := u.body.toNat
  let at_ (p : Pair) (left : After64) : State × After64 := match s.pairAt p with
    | some t => (t, left)
    | none => (s, .hold)
  match bitsPair (x % 2 ^ 192) u.src.toNat u.tag.toNat, bitsPair (x / 2 ^ 192) u.src.toNat u.tag.toNat with
  | some p, some _ => at_ p (.rest { u with body := BitVec.ofNat 416 (x / 2 ^ 192 * 2 ^ 192) })
  | some p, none | none, some p => at_ p .done
  | none, none => (s, .done)

/-- Apply a unit at its position (R370). -/
def State.applyUnit (s : State) (u : Unit64) : State × After64 :=
  if u.typ = 0x06 then s.nextPair u
  else (
    if u.src.toNat = s.fabid then s.ownUnitAt u
    else if !(u.bc || u.dst.toNat == s.fabid) then s
    else match u.typ.toNat with
      | 0x01 => s.takeOwner u
      | 0x02 => s.dropOwner u
      | 0x03 => s.remoteAtomic u
      | 0x04 => s.nodeAnswer u
      | 0x07 => s.transferAnswer u
      | 0x08 => s.remoteTotals u
      | 0x09 => s.totalsAnswer u
      | 0x0A => s.remoteTrans u
      | 0x0B => s.note u.tag u.src.toNat
      | 0x0C => s.registerUnit u
      | _ => s, .done)

/-- What the next position needs. -/
inductive Next64 where
  | frame                              -- nothing more in this frame: go to the next
  | apply (u : Unit64) (next : Nat)
  | skip (next : Nat)
  | missing (index : Nat)
  | wait                               -- the frame's records are not complete
  deriving DecidableEq, Repr

/-- The next granted slot from a position on. -/
def State.nextSlot (s : State) (frame index : Nat) : Next64 :=
  match s.grantTable frame with
  | none => .wait
  | some t => match t.find? (fun e => decide (index ≤ e.1)) with
    | none => .frame
    | some (u, .repair ..) => .skip (u + 1)
    | some (u, .own _) => match s.mer.held.find? (fun x => x.frame.toNat == frame && x.index == u) with
      | some x => .apply x (u + 1)
      | none => .missing u

/-- Apply units in ascending position up to the current frame, as far as they are at hand. A unit that is
absent once its frame is past is to be repaired. -/
def State.runUnits (s : State) : Nat → State
  | 0 => s
  | fuel + 1 =>
    let f := s.mer.pos.1
    if s.mer.halt || !s.mer.en || s.mer.frame.toNat < f then s
    else match s.nextSlot f s.mer.pos.2 with
      | .wait => s
      | .frame => if f < s.mer.frame.toNat then { s with mer := { s.mer with pos := (f + 1, 0) } }.runUnits fuel else s
      | .skip n => { s with mer := { s.mer with pos := (f, n) } }.runUnits fuel
      | .missing u =>
        if f < s.mer.frame.toNat && !s.mer.lost.contains (f, u) then { s with mer := { s.mer with lost := s.mer.lost ++ [(f, u)] } }
        else s
      | .apply x n =>
        let r := s.applyUnit x
        let others (s : State) : List Unit64 := s.mer.held.filter (fun y => !(y.frame == x.frame && y.index == x.index))
        -- what it touches is not at hand: nothing of it happens yet
        if r.1.waits then s.askFor r.1
        else match r.2 with
          | .hold => s
          | .rest y => { r.1 with mer := { r.1.mer with held := y :: others r.1 } }.runUnits fuel
          | .done => { r.1 with mer := { r.1.mer with pos := (f, n), held := others r.1 } }.runUnits fuel

/-- Acknowledge the invalidations of other agents whose earlier requests are done (R218), and the drops of fields of
which no transfer is under way here (R276). -/
def State.runAcks (s : State) : State :=
  let busy (a : OwedAck) : Bool := match a.ctx, a.fld with
    | some c, some n => !s.fieldIdle c n (some a.bound)
    | some c, none => s.underWay c a.bound a.page
    | none, _ => (List.range 64).any (fun c => s.underWay c a.bound a.page)
  let done := s.mer.acks.filter (fun a => !busy a)
  done.foldl (fun s a => s.answerTo a.agent 0x0B a.tag 0) { s with mer := { s.mer with acks := s.mer.acks.filter busy } }

/-! ### Frames (R365, R368, R369) -/

/-- A record as 28 of its bytes, as the body of a unit that repairs it (R368, log 39). -/
def recordBody (r : ResRecord) : BitVec 416 :=
  let w := r.agent % 64 * 2 ^ 58 + r.req % 64 * 2 ^ 52 + r.deg.toNat * 2 ^ 48 + boolBit r.lode * 2 ^ 47 +
    r.repairs.length % 8 * 2 ^ 44
  BitVec.ofNat 416 (w + ((List.range r.repairs.length).zip r.repairs).foldl (fun a e =>
    a + (e.2.1.toNat * 2 ^ 10 + e.2.2 % 1024) * 2 ^ (64 + 32 * e.1)) 0)
def bodyRecord (b : BitVec 416) : ResRecord :=
  let x := b.toNat
  { agent := x / 2 ^ 58 % 64, req := x / 2 ^ 52 % 64, deg := BitVec.ofNat 4 (x / 2 ^ 48), lode := b.getLsbD 47,
    repairs := (List.range (min 4 (x / 2 ^ 44 % 8))).map (fun i =>
      let y := x / 2 ^ (64 + 32 * i)
      (BitVec.ofNat 22 (y / 2 ^ 10), y % 1024)) }

/-- The unit that repairs this device's record of a frame (R368). -/
def State.recordUnit (s : State) (frame : Nat) : Option Unit64 :=
  (s.record? (frame + 2) s.fabid).map (fun r =>
    { s.newUnit 0 true 0x00 0 (recordBody r) with frame := BitVec.ofNat 48 frame, index := 960 + s.fabid })

/-- Give our units their slots of a frame, in order; they are kept and at hand, and sent if it is the current frame. -/
def State.takeGrants (s : State) (frame : Nat) : State :=
  match s.grantTable frame with
  | none => s
  | some t =>
    let mine := t.filterMap (fun e => if e.2 = .own s.fabid then some e.1 else none)
    -- slots beyond what is left to send carry empty units (R369)
    let empty : List Unit64 := List.replicate mine.length (s.newUnit 0 false 0x00 0 0)
    let units := (mine.zip (s.mer.wants ++ empty)).map (fun e =>
      ({ e.2 with frame := BitVec.ofNat 48 frame, index := e.1 } : Unit64))
    let again := t.filterMap (fun e => match e.2 with
      | .repair f u => if u = 960 + s.fabid then s.recordUnit f
                       else s.mer.sent.find? (fun x => x.frame.toNat == f && x.index == u)
      | .own _ => none)
    { s with mer := { s.mer with
      wants := s.mer.wants.drop units.length, taken := frame + 1
      sent := (s.mer.sent.filter (fun u => decide (frame < u.frame.toNat + 17))) ++ units
      held := s.mer.held ++ units
      out := if frame = s.mer.frame.toNat then (units ++ again).reverse ++ s.mer.out else s.mer.out } }

/-- Give our units their slots of every frame up to the current one whose grant table is known; those of a frame whose
records come late are sent as repairs. -/
def State.takeDue (s : State) : Nat → State
  | 0 => s
  | fuel + 1 =>
    if s.mer.frame.toNat < s.mer.taken || (s.grantTable s.mer.taken).isNone then s
    else (s.takeGrants s.mer.taken).takeDue fuel

/-- Is a unit's sender no member, by the grant table of its frame (R372)? -/
def State.strayUnit (s : State) (x : Nat × Nat) : Bool :=
  if 960 ≤ x.2 then !s.members.getLsbD (x.2 - 960)
  else match s.grantTable x.1 with
    | none => false
    | some t => !t.any (fun e => e.1 == x.2 && (match e.2 with
      | .own a => s.members.getLsbD a
      | .repair .. => false))

/-- A requested unit that is older than 16 frames, or whose sender is no member: its position (R372). -/
def State.unserviceable (s : State) (frame : Nat) : Option (Nat × Nat) :=
  (s.repairsOf frame).find? (fun r => decide (r.1 + 16 < frame) || s.strayUnit r)

/-- The operations that have not completed never take a position (R372). -/
def State.loseOps (s : State) : State :=
  let gone (m : Nat) : Nat := if m == 1 || m == 2 || m == 4 then 5 else m
  { s with groups := s.groups.map (fun (e : Nat × Group) =>
             (e.1, { e.2 with ops := e.2.ops.map (fun x => (x.1, { x.2 with mer := gone x.2.mer })) }))
           jobs := s.jobs.map (fun e => (e.1, { e.2 with mer := gone e.2.mer })) }

/-- The planes of this device that lack a wavelength (R373). -/
def State.degraded (s : State) : BitVec 4 :=
  (List.range 4).foldl (fun d j => if s.bankLit j == 0xFFFF#16 then d else d ||| (1#4 <<< j)) 0

/-- The planes on which an agent's record goes out, and its slot there: not one whose control wavelength is dark (R368,
R373). -/
def State.recordPlaces (s : State) : List (Nat × Nat) :=
  ([s.fabid % 4, (s.fabid + 2) % 4].filter (fun j => (s.bankLit j).getLsbD 15)).map (fun j => (j, s.fabid / 2))

/-- Send this device's record, which names frame f + 2, on its two planes. -/
def State.sendRecord (s : State) (f : Nat) : State :=
  let l := s.memberList
  -- what was asked for in frames whose grants are still to come
  let asked := ((List.range (f + 2 - s.mer.taken)).map (fun i =>
    ((s.record? (s.mer.taken + i) s.fabid).map (fun r => r.req)).getD 0)).sum
  let r : ResRecord :=
    { agent := s.fabid, req := min 63 (s.mer.wants.length - asked), deg := s.degraded,
      lode := !l.isEmpty && l[f % l.length]? == some s.fabid,
      repairs := (s.mer.lost.take 4).map (fun x => (BitVec.ofNat 22 x.1, x.2)) }
  { s with mer := { s.mer with records := s.mer.records ++ [(f + 2, s.fabid, r)], resOut := s.recordPlaces.map (fun x => (x.1, x.2, r)) ++ s.mer.resOut } }

/-- Units lost whose repair has come, and records of frames long past, are forgotten. -/
def State.tidy (s : State) : State :=
  let here (x : Nat × Nat) : Bool := s.mer.held.any (fun u => u.frame.toNat == x.1 && u.index == x.2)
  let p := s.mer.pos
  { s with mer := { s.mer with
    lost := s.mer.lost.filter (fun x => !here x && !(decide (x.2 < 960) && (decide (x.1 < p.1) || (x.1 == p.1 && decide (x.2 < p.2)))))
    records := s.mer.records.filter (fun r => decide (min p.1 s.mer.frame.toNat ≤ r.1 + 17)) } }

/-- Units that the grant tables of past frames give and that are absent: each is to be repaired (R370), also while an
earlier position is held. -/
def State.findLost (s : State) : State :=
  let p := s.mer.pos
  let frames := (List.range (s.mer.frame.toNat - p.1)).map (fun i => p.1 + i)
  let absent (f : Nat) : List (Nat × Nat) := ((s.grantTable f).getD []).filterMap (fun e => match e.2 with
    | .own a => if a == s.fabid || (f == p.1 && decide (e.1 < p.2)) || s.mer.held.any (fun x => x.frame.toNat == f && x.index == e.1) ||
        s.mer.lost.contains (f, e.1) then none else some (f, e.1)
    | .repair .. => none)
  { s with mer := { s.mer with lost := s.mer.lost ++ frames.flatMap absent } }

/-- MERIDIAN_FRAME (R365, R369): 128 ns after the last, the next frame begins: its grants, this device's
record, and the units that can be applied. -/
def execMeridianFrame (s : State) : Host.Outcome State Fault Refusal :=
  finish s (
    let m := s.mer
    if !m.en || decide ((s.cycle - m.epoch) * 5 < (m.frame.toNat + 1) * 512) then s else
    let f := m.frame.toNat + 1
    let s := { s with mer := { m with frame := BitVec.ofNat 48 f } }
    let s := if s.mer.halt then s else match s.unserviceable f with
      | none => s
      | some (a, u) =>
        let ev : EventRec := { typ := 0x08, unit := 1, index := 0, old := 0, new := 0, place := w64n (a * 1024 + u), detail := 0 }
        { s.loseOps with mer := { s.mer with halt := true }, evQueue := s.evQueue ++ [ev] }
    if s.mer.halt then s else
    let s := s.runAcks.enqueueOps.takeDue 18
    ((s.tidy.findLost.sendRecord f).runUnits 2048).tidy)

/-- A member's record for the frame after frame f + 1 is at hand. -/
def State.takeRecord (s : State) (f agent : Nat) (r : ResRecord) : State :=
  if (s.record? (f + 2) agent).isSome then s
  else
    let m := s.mer
    (State.takeDue { s with mer := { m with records := m.records ++ [(f + 2, agent, { r with agent := agent })],
                                            lost := m.lost.filter (fun x => x != (f, 960 + agent)) } } 18).runUnits 2048

/-- RESERVATION_RECORD (R368): a member's record for the frame after next, or none of its copies good: the
record is then asked for as a unit, under index 960 + its agent (log 39). -/
def execReservationRecord (rec : Option ResRecord) (agent : Nat) (s : State) : Host.Outcome State Fault Refusal :=
  finish s (
    let m := s.mer
    if !m.en || m.halt || !s.members.getLsbD agent || agent == s.fabid || 64 ≤ agent then s else
    let f := m.frame.toNat
    match rec with
    | none => { s with mer := { m with lost := if m.lost.contains (f, 960 + agent) || (s.record? (f + 2) agent).isSome
                                               then m.lost else m.lost ++ [(f, 960 + agent)] } }
    | some r => s.takeRecord f agent r)

/-- MERIDIAN_UNIT (R367, R370): a good unit is applied in position order, or held; a bad one is to be
repaired, and a missing record's repair is taken for it (R368). A repair copy of a unit already applied is ignored. -/
def execMeridianUnit (unit : Unit64) (s : State) : Host.Outcome State Fault Refusal :=
  finish s (
    let m := s.mer
    let f := unit.frame.toNat
    let past := decide (f < m.pos.1) || (f == m.pos.1 && decide (unit.index < m.pos.2))
    let here := m.held.any (fun u => u.frame == unit.frame && u.index == unit.index)
    if !m.en || m.halt || unit.src.toNat == s.fabid then s
    -- the repair of a record
    else if 960 ≤ unit.index then
      (if unit.good && m.lost.contains (f, unit.index) then s.takeRecord f (unit.index - 960) (bodyRecord unit.body) else s)
    else if past || here then s
    else if !unit.good || decide (0x0C < unit.typ.toNat) then
      { s with mer := { m with lost := if m.lost.contains (f, unit.index) then m.lost else m.lost ++ [(f, unit.index)] } }
    else (({ s with mer := { m with held := m.held ++ [unit] } }).runUnits 2048).tidy)

/-! ### Enabling and disabling (R365, R401) -/

/-- The Meridian starts: the epoch, FABID and MEMBERS in force, and frame 0, in which this device sends its first
record, for the operations that waited (R368). -/
def State.startMeridian (s : State) : State :=
  let s := { s with
    fabid := s.fabidReg, members := s.membersReg
    mer := { s.mer with
      en := true, enHeld := false, halt := false, epoch := s.cycle, frame := 0, records := [], lost := [], sent := [],
      taken := 0, held := [], pos := (0, 0),
      wants := s.mer.wants.map (fun (u : Unit64) => { u with src := BitVec.ofNat 6 s.fabidReg }) } }
  let s := if s.busy && s.busyCst && s.busyFrom.isNone then s.sendUnit (s.newUnit 0 true 0x0A (BitVec.ofNat 32 s.busyBound)
    (transBody (boolBit s.busyPage.isNone) s.busyCtx (s.busyPage.getD 0).toNat)) else s
  s.enqueueOps.sendRecord 0

/-- Are all four optical banks ready? -/
def State.banksReady (s : State) : Bool := [0, 1, 2, 3].all (fun b => s.ready.getLsbD (10 + b))

/-- MERIDIAN_ENABLE (R365): held until the banks are ready (R401). -/
def execMeridianEnable (s : State) : Host.Outcome State Fault Refusal :=
  .next (
    if s.mer.en then s
    else if s.banksReady then s.startMeridian
    else { s with mer := { s.mer with enHeld := true } })

/-- MERIDIAN_DISABLE (R365): operations that need a position wait from now on; those reserved and not yet
applied reserve again when it is enabled, but for those lost in a halt (R372). Answers that others wait for still go out,
and so do the claims of a dropped field. -/
def execMeridianDisable (s : State) : Host.Outcome State Fault Refusal :=
  .next (
    let again := s.groups.flatMap (fun (e : Nat × Group) => (e.2.ops.filter (fun x => x.2.mer == 2)).map (fun x => x.1)) ++
      (s.jobs.filter (fun e => e.2.mer == 2)).map (fun e => e.1)
    let back (g : Group) : Group :=
      { g with ops := g.ops.map (fun e => (e.1, if e.2.mer == 2 then { e.2 with mer := 1 } else e.2)) }
    { s with mer := { s.mer with en := false, enHeld := false, asking := [],
                                 answers := s.mer.answers.filter (fun e => !again.contains e.1),
                                 got := s.mer.got.filter (fun e => !again.contains e.1),
                                 wants := s.mer.wants.filter (fun u => [0x07, 0x09, 0x0B].contains u.typ.toNat ||
                                   (u.typ == 0x0C && u.body.toNat % 256 == 2)) }
             jobs := s.jobs.map (fun e => (e.1, if e.2.mer == 2 then { e.2 with mer := 1 } else e.2))
             groups := s.groups.map (fun e => (e.1, back e.2)) })

end Sys2Proof.Machine
end

