-- ==== Sys2Proof/Machine/Complete.lean ====
section
/-!
DEFINITION. STORE_COMPLETE: a store is performed where its order requires, and so is every other operation of
a group that waited for the group's earlier accesses and has no row of its own (log 19); one that takes a Meridian
position is made ready for it (R266).
-/
namespace Sys2Proof.Machine

/-- STORE_COMPLETE (R235). -/
def execStoreComplete (gid op : Nat) (s : State) : Host.Outcome State Fault Refusal :=
  finish s (match (s.group? gid).bind (fun g => (dget g.ops op).map (fun o => (g, o))) with
    | none => s
    | some (g, o) => s.complete gid op g o)

end Sys2Proof.Machine
end

