-- ==== Sys2Proof/Machine/CrossLane.lean ====
section
/-!
DEFINITION. Cross-lane instructions (R203 to R209). Every source is read in the issue cycle, from the
lanes of exec only.
-/
namespace Sys2Proof.Machine

/-- The source lane of SHFL (R204). -/
def shflLane (mode n i : Nat) : Int :=
  match mode with
  | 0 => n
  | 1 => (i : Int) - n
  | 2 => (i : Int) + n
  | _ => ((i ^^^ n : Nat) : Int)

/-- Is lane j one of exec? -/
def inExec (m : Mask) (j : Int) : Bool := decide (0 ≤ j) && decide (j ≤ 63) && m.getLsbD j.toNat

/-- SHFL (R204). -/
def execShfl (r : RFields) (s : State) : Host.Outcome State Fault Refusal :=
  .next (s.guarded (.shfl r) (fun g =>
    let w := wide (s.ty g r.ty)
    let m := g.exec s.cur.mask r.neg r.pred
    s.issueVec m w r.dst.toNat 8 (fun i =>
      let j := shflLane r.mod.toNat (g.opVal (bVec r.form) false r.b.toNat i) i
      (g.vecVal w r.a.toNat (if inExec m j then j.toNat else i), 0))))

/-- The rounding of an f32 add of VRED: nearest, ties to even, FZI and FZO in force (R205). -/
def redRnd (mode : BitVec 16) : Rnd :=
  ⟨1, 0, mode.getLsbD 3, mode.getLsbD 4, mode.getLsbD 5⟩

/-- combine of R205 on W-bit values of type t. -/
def redCombine (mode : BitVec 16) (op t x y : Nat) : Res :=
  let W := elemBits t
  let sg := signedTy t
  match op with
  | 0 =>
    if t == 4 then
      let rnd := redRnd mode
      roundExact fmtF32 false rnd (addExact false (readFloat rnd.fzi 4 x) (readFloat rnd.fzi 4 y))
    else ⟨(x + y) % 2 ^ W, 0⟩
  | 1 => if t == 4 then minMaxCode fmtF32 (mode.getLsbD 3) false x y else ⟨(minR sg W x y).1, 0⟩
  | 2 => if t == 4 then minMaxCode fmtF32 (mode.getLsbD 3) true x y else ⟨(maxR sg W x y).1, 0⟩
  | 3 => ⟨x &&& y, 0⟩
  | 4 => ⟨x ||| y, 0⟩
  | _ => ⟨x ^^^ y, 0⟩

/-- The identities of R205. -/
def redIdentity (op t : Nat) : Nat :=
  let W := elemBits t
  let sg := signedTy t
  match op with
  | 1 => if t == 4 then fmtF32.infCode else if sg then 2 ^ (W - 1) - 1 else 2 ^ W - 1
  | 2 => if t == 4 then fmtF32.withSign true fmtF32.infCode else if sg then 2 ^ (W - 1) else 0
  | 3 => 2 ^ W - 1
  | _ => 0

/-- The running combination of R205. -/
structure Scan where
  acc   : Option Nat
  incl  : List (Nat × Nat)             -- by lane
  excl  : List (Nat × Nat)
  flags : BitVec 16
  deriving DecidableEq, Repr

def scanStep (mode : BitVec 16) (op t : Nat) (a : Nat → Nat) (z : Scan) (k : Nat) : Scan :=
  let (v, x, fl) : Nat × Nat × BitVec 16 := match z.acc with
    | none => (a k, redIdentity op t, 0)
    | some c => let r := redCombine mode op t c (a k); (r.code, c, r.flags)
  ⟨some v, z.incl ++ [(k, v)], z.excl ++ [(k, x)], z.flags ||| fl⟩

def scanLanes (mode : BitVec 16) (op t : Nat) (m : Mask) (a : Nat → Nat) : Scan :=
  (lanesOf m).foldl (scanStep mode op t a) ⟨none, [], [], 0⟩

/-- VRED (R205). -/
def execVred (r : RFields) (s : State) : Host.Outcome State Fault Refusal :=
  .next (s.guarded (.vred r) (fun g =>
    let t := s.ty g r.ty
    let z := scanLanes g.mode r.mod.toNat t (g.exec s.cur.mask r.neg r.pred)
      (fun l => g.vecVal (wide t) r.a.toNat l)
    match z.acc with
    | none => s.advance
    | some v => s.issueSca r.dst.toNat 8 (scalarOf (signedTy t) (wide t) v) z.flags))

/-- VSCAN (R205). -/
def execVscan (r : RFields) (s : State) : Host.Outcome State Fault Refusal :=
  .next (s.guarded (.vscan r) (fun g =>
    let t := s.ty g r.ty
    let w := wide t
    let m := g.exec s.cur.mask r.neg r.pred
    let z := scanLanes g.mode r.mod.toNat t m (fun l => g.vecVal w r.a.toNat l)
    let out := if r.c.getLsbD 0 then z.excl else z.incl
    (s.pendResult 8 (vecUpd w r.dst.toNat m (fun l => (dget out l).getD 0))
      (if z.flags = 0 then [] else [(0, z.flags)])).advance))

/-- VBAL (R206). -/
def execVbal (r : RFields) (s : State) : Host.Outcome State Fault Refusal :=
  .next (s.guarded (.vbal r) (fun g =>
    let w := wide (s.ty g r.ty)
    let e := g.exec s.cur.mask r.neg r.pred
    let m := maskOf (fun l => e.getLsbD l && g.vecVal w r.a.toNat l != 0)
    if r.mod = 0 then s.issuePred r.dst.toNat 8 allLanes m [] else s.issueSca r.dst.toNat 8 m 0))

/-- VBCAST (R207). -/
def execVbcast (r : RFields) (s : State) : Host.Outcome State Fault Refusal :=
  .next (s.guarded (.vbcast r) (fun g =>
    let t := s.ty g r.ty
    let w := wide t
    let m := g.exec s.cur.mask r.neg r.pred
    let j : Nat := if r.form == .f00 then (lowest? m).getD 0 else g.scaVal false r.b.toNat
    let v := if inExec m j then g.vecVal w r.a.toNat j else 0
    if r.mod = 0 then s.issueVec m w r.dst.toNat 8 (fun _ => (v, 0))
    else if m = 0 then s.advance
    else s.issueSca r.dst.toNat 8 (scalarOf (signedTy t) w v) 0))

/-- VMATCH (R208). -/
def execVmatch (r : RFields) (s : State) : Host.Outcome State Fault Refusal :=
  .next (s.guarded (.vmatch r) (fun g =>
    let w := wide (s.ty g r.ty)
    let e := g.exec s.cur.mask r.neg r.pred
    let a (l : Nat) := g.vecVal w r.a.toNat l
    s.issueVec e true r.dst.toNat 8
      (fun i => ((maskOf (fun k => e.getLsbD k && a k == a i)).toNat, 0))))

end Sys2Proof.Machine
end

