-- ==== Sys2Proof/Machine/Management.lean ====
section
/-!
DEFINITION. Bring-up, the safe state, the management mailbox, power and soft errors (R400 to R409), and the
signing of a digest chain (R364).
-/
namespace Sys2Proof.Machine

/-! ### The safe state (R402) -/

/-- The self-test record of R402. -/
def selfTestRecord (stage test index : Nat) (detail : Word64) (time : Nat) : List Byte :=
  toBytes 1 stage ++ toBytes 1 test ++ toBytes 2 index ++ toBytes 4 0 ++ toBytes 8 detail.toNat ++ toBytes 8 time ++ toBytes 8 0

/-- Enter the safe state: SAFE is 1, every unit but the controller and the host link is off and its bit 0, and
the record describes the first failure (log 71). -/
def State.safeState (s : State) (stage test index : Nat) (detail : Word64) : State :=
  if s.ready.getLsbD 56 then s
  else
    { s with ready := (s.ready &&& 3#64) ||| (1#64 <<< 56)
             selfTest := selfTestRecord stage test index detail s.cycle
             -- every unit but the controller and the host link goes off with all that it holds
             groups := [], teams := [], grids := [], queues := [], ctxs := [], victims := [], bars := []
             jobs := [], pfbs := [], locks := [], objs := [], fields := [], domains := [], pairs := [], returns := []
             claims := [], cache := [], marks := [], tlb := [], rcache := [], pred := []
             ports := [], reqQueue := [], arrived := [], evQueue := [], mer := {}, lit := 0
             hostDir := [], backInv := [], backFull := [], backDone := [], heldHost := [], heldBar := []
             busy := false, busyFrom := none, pbusy := false }

/-! ### Start (R400, R401, R403) -/

/-- Is a firmware image good: does its signature over its SHAKE256 digest verify under the vendor's key (R403)? -/
def firmwareGood (image signature : List Byte) : Bool := Config.verify Config.vendorKey (shake256 image) signature

/-- RESET (R400, R403): nothing has started; bytes outside the device stay. The boot ROM verifies the controller's
firmware image before it runs, and bad firmware leads to the safe state at once. -/
def execReset (fw : Firmware) (s : State) : Host.Outcome State Fault Refusal :=
  let r : State := { State.reset with
    agenda := s.agenda, tick := s.tick, fresh := s.fresh, nextId := s.nextId,
    mem := s.mem.filter (fun e => !isDevice e.1) }
  .next (if firmwareGood fw.image fw.signature then { r with firmware := shake256 fw.image } else r.safeState 1 4 0 0)

/-- The controller loads a further firmware image, verified in the same way (R403). -/
def State.loadFirmware (s : State) (image signature : List Byte) : State :=
  if !s.ready.getLsbD 0 || s.ready.getLsbD 56 then s
  else if firmwareGood image signature then { s with firmware := shake256 image }
  else s.safeState 1 4 0 0

/-- The READY bit of the n-th unit of R400. -/
def unitBit (n : Nat) : Option Nat :=
  if n < 2 then some n                        -- MGMT, HOST
  else if n < 6 then some n                   -- NEAR
  else if n < 46 then some (n + 10)           -- CLUS
  else if n < 50 then some (n - 40)           -- FAR
  else if n < 54 then some (n - 40)           -- BANK
  else none

/-- The stage of R400 that holds the n-th unit. -/
def unitStage (n : Nat) : Nat :=
  if n = 0 then 1 else if n = 1 then 2 else if n < 6 then 3 else if n < 46 then 4 else if n < 50 then 5 else 6

/-- An optical bank starts: its four sources are lit, and the writes held for it take place (R401). -/
def State.bankStarts (s : State) (b : Nat) : State :=
  let s := { s with lit := s.lit ||| (0xF#16 <<< (4 * b)) }
  let s := ((List.range 11).map (fun i => 11 * b + i)).foldl (fun s p => match (s.port p).waits with
    | some v => s.applyMode p v
    | none => s) s
  if s.mer.enHeld && [10, 11, 12, 13].all (fun i => s.ready.getLsbD i) then s.startMeridian else s

/-- UNIT_START (R400, R402): the next unit in order passes its self-test and sets its bit, in a cycle after
the one before it; or fails, and the module enters the safe state. The host link's bit needs a trained link. -/
def execUnitStart (failure : Option TestFailure) (s : State) : Host.Outcome State Fault Refusal :=
  .next (
    match unitBit s.nextUnit with
    | none => s
    | some b =>
      if s.ready.getLsbD 56 || decide (s.cycle < s.readyAt) then s else
      match failure with
      | some f => s.safeState (unitStage s.nextUnit) f.test.toNat f.index.toNat f.detail
      | none =>
        if b = 1 && fld s.syscap 15 12 == 0 then s else
        let s := { s with ready := s.ready ||| (1#64 <<< b), readyAt := s.cycle + 1, lastBit := b,
                          nextUnit := s.nextUnit + 1 }
        if 10 ≤ b && decide (b < 14) then s.bankStarts (b - 10) else s)

/-! ### The management mailbox (R405, R406) -/

/-- A command completes: RSP, RLEN and STATUS, then VEC is signalled. -/
def State.mailboxDone (s : State) (status : Nat) (rsp : List Byte) : State :=
  let m := s.mbox
  { s with mbox := { m with rsp := rsp ++ m.rsp.drop rsp.length, rlen := BitVec.ofNat 32 rsp.length,
                            status := BitVec.ofNat 8 status } }.signal m.vec

/-- The controller carries out the command `opc` that GO has started (STATUS 1): refused in the safe state where `safe` is
false, of bad length unless LEN is `len`; else what `act` does. -/
def State.mailbox (s : State) (opc len : Nat) (safe : Bool) (act : State → State) : State :=
  if !(s.ready.getLsbD 0 || s.ready.getLsbD 56) || s.mbox.status ≠ 1 || s.mbox.opc.toNat ≠ opc then s
  else if s.ready.getLsbD 56 && !safe then s.mailboxDone 3 []
  else if s.mbox.len.toNat ≠ len then s.mailboxDone 2 []
  else act s

/-- Bytes [off, off + n) of the request. -/
def Mailbox.num (m : Mailbox) (off n : Nat) : Nat := ofBytes ((List.range n).map (fun i => tget 0 m.req (off + i)))

/-- MAILBOX_SELF_TEST (R406): command 0x0001. -/
def execMailboxSelfTest (s : State) : Host.Outcome State Fault Refusal :=
  .next (s.mailbox 1 0 true (fun s =>
    s.mailboxDone 0 (if s.selfTest.isEmpty then List.replicate 32 0 else s.selfTest)))

/-- The bytes of the identity key and of a signature by it (R404, R406). -/
def keyBytes : List Byte := toBytes 1952 Config.publicKey.toNat
def signBytes (m : List Byte) : List Byte := toBytes 3309 (Config.sign m).toNat

/-- MAILBOX_PUBLIC_KEY (R406): command 0x0002. -/
def execMailboxPublicKey (s : State) : Host.Outcome State Fault Refusal :=
  .next (s.mailbox 2 0 true (fun s => s.mailboxDone 0 keyBytes))

/-- The 74-byte message of R364: identity digest, queue, serial of the last chained grid, H. -/
def State.chainMessage (s : State) (queue : Nat) : List Byte :=
  toBytes 32 (shake256 keyBytes).toNat ++ toBytes 2 queue ++ toBytes 8 (s.queue queue).lastSerial.toNat ++
    toBytes 32 (s.queue queue).hash.toNat

/-- MAILBOX_SIGN_CHAIN (R364, R406): command 0x0003. -/
def execMailboxSignChain (s : State) : Host.Outcome State Fault Refusal :=
  .next (s.mailbox 3 2 false (fun s =>
    let q := s.mbox.num 0 2
    if 1024 ≤ q then s.mailboxDone 2 []
    else s.mailboxDone 0 (s.chainMessage q ++ signBytes (s.chainMessage q))))

/-- Install a transmit key in a slot of a port: new flits go under it; the other slot is retired when its
flits are acknowledged (R380). -/
def State.installTx (s : State) (p slot : Nat) (key : BitVec 256) : State :=
  let x := s.port p
  let old := boolBit x.ktx
  let x : Port := { x with
    txKeys := dput x.txKeys slot key, ktx := slot == 1,
    retire := if old ≠ slot && (dget x.txKeys old).isSome then some old else none }
  (s.setPort p x).drain p

/-- Install a receive key. -/
def State.installRx (s : State) (p slot : Nat) (key : BitVec 256) : State :=
  let x := s.port p
  s.setPort p { x with rxKeys := dput x.rxKeys slot key, krxv := x.krxv ||| (1#2 <<< slot) }

/-- MAILBOX_INSTALL_KEY (R406, R380): command 0x0004, the request being port, direction (0 transmit), slot
and key. -/
def execMailboxInstallKey (inSession : Bool) (s : State) : Host.Outcome State Fault Refusal :=
  .next (s.mailbox 4 35 false (fun s =>
    let p := s.mbox.num 0 1
    let dir := s.mbox.num 1 1
    let slot := s.mbox.num 2 1
    let key := BitVec.ofNat 256 (s.mbox.num 3 32)
    if !inSession then s.mailboxDone 3 []
    else if 44 ≤ p || decide (1 < dir) || decide (1 < slot) then s.mailboxDone 2 []
    else if dir = 0 then
      if (dget (s.port p).txKeys slot).isSome then s.mailboxDone 4 []
      else (s.installTx p slot key).mailboxDone 0 []
    else if (dget (s.port p).rxKeys slot).isSome then s.mailboxDone 4 []
    else (s.installRx p slot key).mailboxDone 0 []))

/-- MAILBOX_POWER_LIMIT (R406): command 0x0005, 600 W to 2,700 W. -/
def execMailboxPowerLimit (s : State) : Host.Outcome State Fault Refusal :=
  .next (s.mailbox 5 2 false (fun s =>
    let w := s.mbox.num 0 2
    if 600 ≤ w && decide (w ≤ 2700) then { s with power := { s.power with limit := w } }.mailboxDone 0 []
    else s.mailboxDone 2 []))

/-- MAILBOX_ERROR_COUNTS (R406): command 0x0006. -/
def execMailboxErrorCounts (s : State) : Host.Outcome State Fault Refusal :=
  .next (s.mailbox 6 0 true (fun s =>
    s.mailboxDone 0 (toBytes 8 s.corrected.toNat ++ toBytes 8 s.uncorrected.toNat)))

/-- The power state of command 0x0007. -/
def Power.bytes (x : Power) : List Byte :=
  toBytes 2 x.limit ++ toBytes 2 x.measured ++ toBytes 1 x.matrix ++ toBytes 1 x.issue ++ toBytes 1 (boolBit x.unreach) ++
    toBytes 9 0

/-- MAILBOX_POWER_STATE (R406): command 0x0007. -/
def execMailboxPowerState (s : State) : Host.Outcome State Fault Refusal :=
  .next (s.mailbox 7 0 true (fun s => s.mailboxDone 0 s.power.bytes))

/-- MAILBOX_BAD_COMMAND (R406): any other OPC completes with status 2. -/
def execMailboxBadCommand (s : State) : Host.Outcome State Fault Refusal :=
  .next (
    if !(s.ready.getLsbD 0 || s.ready.getLsbD 56) || s.mbox.status ≠ 1 ||
        (decide (1 ≤ s.mbox.opc.toNat) && decide (s.mbox.opc.toNat ≤ 7)) then s
    else s.mailboxDone 2 [])

/-! ### Power (R407, R408) -/

/-- The shares after a measurement: the matrix share rises first and falls last, in sixteenths. -/
def Power.adjust (x : Power) (watts cycle : Nat) : Power :=
  let full := x.matrix == 15 && x.issue == 15
  if x.limit < watts then
    { x with measured := watts, at_ := cycle,
             matrix := if x.matrix < 15 then x.matrix + 1 else x.matrix,
             issue := if x.matrix = 15 && decide (x.issue < 15) then x.issue + 1 else x.issue,
             overRun := if full then x.overRun + 1 else 0 }
  else
    { x with measured := watts, at_ := cycle, unreach := false, overRun := 0,
             issue := x.issue - 1,
             matrix := if x.issue = 0 then x.matrix - 1 else x.matrix }

/-- POWER_MEASUREMENT (R407): one measurement each millisecond. -/
def execPowerMeasurement (watts : Nat) (s : State) : Host.Outcome State Fault Refusal :=
  .next (
    if s.ready.getLsbD 0 && decide (s.power.at_ + nsCycles 1000000 ≤ s.cycle) then
      { s with power := s.power.adjust watts s.cycle }
    else s)

/-- UNREACH (R408): after 100 consecutive measurements above the limit with both shares at 15/16. -/
def execUnreach (s : State) : Host.Outcome State Fault Refusal :=
  .next (
    if 100 ≤ s.power.overRun && !s.power.unreach then
      { s with power := { s.power with unreach := true } }.signal s.mbox.vec
    else s)

/-! ### Errors (R409) and attestation (R404) -/

/-- SOFT_ERROR_CORRECTED (R409): counted, with no other effect. -/
def execSoftErrorCorrected (s : State) : Host.Outcome State Fault Refusal :=
  .next { s with corrected := s.corrected + 1 }

/-- A machine-check of a context overrides its pending traps and pre-emptions. -/
def State.overrideContext (s : State) (c : Nat) : State :=
  let mine := (s.teams.filter (fun e => e.2.ctx == c && !e.2.saved)).map (fun e => e.1)
  { s with
    groups := s.groups.map (fun e => (e.1, if e.2.ctx == c then { e.2 with trapReq := none } else e.2))
    teams := s.teams.map (fun e => (e.1, if e.2.ctx == c && !e.2.saved then { e.2 with preempt := none } else e.2))
    victims := s.victims.filter (fun v => !mine.contains v) }

/-- A machine-check ends a context with REASON 4. -/
def State.checkContext (s : State) (c : Nat) : State :=
  if c < 64 then (s.overrideContext c).terminate c 4 0 0 0 else s

/-- MACHINE_CHECK (R409): the owning context is terminated, and the data that carry the error are discarded: an access
not yet performed, or a cached line, is never written to memory or sent; a domain whose counter is damaged reports CHK 0.
An error in state that no context owns leads to the safe state. -/
def execMachineCheck (owner : ErrorOwner) (s : State) : Host.Outcome State Fault Refusal :=
  let s := { s with uncorrected := s.uncorrected + 1 }
  .next (match owner with
    | .context c => s.checkContext c
    | .access gid n => match (s.group? gid).bind (fun g => (dget g.ops n).map (fun o => (g, o))) with
      | none => s
      | some (g, o) =>
        if o.mer = 2 || o.mer = 3 || !(o.kind.bytes.any (fun b => b.2.2)) then s.checkContext g.ctx
        else (s.completeOp gid n).checkContext g.ctx
    | .line c site pa => ((s.linePas site pa (fun _ => true)).foldl (fun s p => s.cdel site p) s).checkContext c
    | .counter c d => (s.modDomain c d (fun x => { x with damaged := true })).checkContext c
    | .noContext d => s.safeState 0 1 0 d)

/-- The measurements that attestation reports (R404): the digests of the boot ROM, of the controller firmware and of the
running configuration. -/
def State.measurements (s : State) : List Byte :=
  toBytes 32 Config.romDigest.toNat ++ toBytes 32 s.firmware.toNat ++ toBytes 32 (shake256 (Config.runningConfig s.fresh)).toNat

/-- SPDM_MESSAGE (R404): the controller answers; where the request asks for them, with the measurements, signed with the
identity key. -/
def execSpdmMessage (request : List Byte) (s : State) : Host.Outcome State Fault Refusal :=
  .next (
    if s.ready.getLsbD 0 then
      let signed := if Config.spdmMeasures request then s.measurements ++ signBytes s.measurements else []
      { s with spdmOut := (Config.spdmReply s.fresh request ++ signed) :: s.spdmOut, fresh := s.fresh + 1 }
    else s)

end Sys2Proof.Machine
end

