-- ==== Sys2Proof/Machine/Dispatch.lean ====
section
/-!
DEFINITION. The meaning of every row of the opcode table: one arm per constructor.
-/
namespace Sys2Proof.Machine

def exec (i : Instr) (s : State) : Host.Outcome State Fault Refusal :=
  match i with
  | .iadd o => Sys2Proof.Machine.execIadd o s
  | .isub o => Sys2Proof.Machine.execIsub o s
  | .imul o => Sys2Proof.Machine.execImul o s
  | .imulh r => Sys2Proof.Machine.execImulh r s
  | .imad r => Sys2Proof.Machine.execImad r s
  | .iadds o => Sys2Proof.Machine.execIadds o s
  | .iand o => Sys2Proof.Machine.execIand o s
  | .ior o => Sys2Proof.Machine.execIor o s
  | .ixor o => Sys2Proof.Machine.execIxor o s
  | .ishl o => Sys2Proof.Machine.execIshl o s
  | .ishr o => Sys2Proof.Machine.execIshr o s
  | .imin o => Sys2Proof.Machine.execImin o s
  | .imax o => Sys2Proof.Machine.execImax o s
  | .icmp o => Sys2Proof.Machine.execIcmp o s
  | .isel r => Sys2Proof.Machine.execIsel r s
  | .mov r => Sys2Proof.Machine.execMov r s
  | .movi w => Sys2Proof.Machine.execMovi w s
  | .ibfe o => Sys2Proof.Machine.execIbfe o s
  | .ibfi r => Sys2Proof.Machine.execIbfi r s
  | .iclz r => Sys2Proof.Machine.execIclz r s
  | .ipopc r => Sys2Proof.Machine.execIpopc r s
  | .plop r => Sys2Proof.Machine.execPlop r s
  | .pmov r => Sys2Proof.Machine.execPmov r s
  | .pcnt r => Sys2Proof.Machine.execPcnt r s
  | .fadd r => Sys2Proof.Machine.execFadd r s
  | .fsub r => Sys2Proof.Machine.execFsub r s
  | .fmul r => Sys2Proof.Machine.execFmul r s
  | .ffma r => Sys2Proof.Machine.execFfma r s
  | .fmin r => Sys2Proof.Machine.execFmin r s
  | .fmax r => Sys2Proof.Machine.execFmax r s
  | .fcmp r => Sys2Proof.Machine.execFcmp r s
  | .fclass r => Sys2Proof.Machine.execFclass r s
  | .frcp r => Sys2Proof.Machine.execFrcp r s
  | .frsq r => Sys2Proof.Machine.execFrsq r s
  | .fsqrt r => Sys2Proof.Machine.execFsqrt r s
  | .fexp2 r => Sys2Proof.Machine.execFexp2 r s
  | .flog2 r => Sys2Proof.Machine.execFlog2 r s
  | .fsin r => Sys2Proof.Machine.execFsin r s
  | .fcos r => Sys2Proof.Machine.execFcos r s
  | .cvt r => Sys2Proof.Machine.execCvt r s
  | .cvtfx r => Sys2Proof.Machine.execCvtfx r s
  | .cvtxf r => Sys2Proof.Machine.execCvtxf r s
  | .pack r => Sys2Proof.Machine.execPack r s
  | .unpack r => Sys2Proof.Machine.execUnpack r s
  | .shfl r => Sys2Proof.Machine.execShfl r s
  | .vred r => Sys2Proof.Machine.execVred r s
  | .vscan r => Sys2Proof.Machine.execVscan r s
  | .vbal r => Sys2Proof.Machine.execVbal r s
  | .vbcast r => Sys2Proof.Machine.execVbcast r s
  | .vmatch r => Sys2Proof.Machine.execVmatch r s
  | .yield => Sys2Proof.Machine.execYield s
  | .bra b => Sys2Proof.Machine.execBra b s
  | .call b => Sys2Proof.Machine.execCall b s
  | .brx x => Sys2Proof.Machine.execBrx x s
  | .callx x => Sys2Proof.Machine.execCallx x s
  | .ret x => Sys2Proof.Machine.execRet x s
  | .lpad x => Sys2Proof.Machine.execLpad x s
  | .exit b => Sys2Proof.Machine.execExit b s
  | .nop => Sys2Proof.Machine.execNop s
  | .ld m => Sys2Proof.Machine.execLd m s
  | .st m => Sys2Proof.Machine.execSt m s
  | .cas m => Sys2Proof.Machine.execCas m s
  | .cas128 m => Sys2Proof.Machine.execCas128 m s
  | .fence m => Sys2Proof.Machine.execFence m s
  | .acqr m => Sys2Proof.Machine.execAcqr m s
  | .stmap m => Sys2Proof.Machine.execStmap m s
  | .stunmap m => Sys2Proof.Machine.execStunmap m s
  | .stwb m => Sys2Proof.Machine.execStwb m s
  | .pfl m => Sys2Proof.Machine.execPfl m s
  | .atom op m => Sys2Proof.Machine.execAtom op m s
  | .atomt op m => Sys2Proof.Machine.execAtomt op m s
  | .txf f => Sys2Proof.Machine.execTxf f s
  | .ftot q => Sys2Proof.Machine.execFtot q s
  | .ffence q => Sys2Proof.Machine.execFfence q s
  | .fstat q => Sys2Proof.Machine.execFstat q s
  | .fdef q => Sys2Proof.Machine.execFdef q s
  | .fdefDrop q => Sys2Proof.Machine.execFdefDrop q s
  | .fbnd q => Sys2Proof.Machine.execFbnd q s
  | .bara q => Sys2Proof.Machine.execBara q s
  | .baraInit q => Sys2Proof.Machine.execBaraInit q s
  | .barw q => Sys2Proof.Machine.execBarw q s
  | .barx q => Sys2Proof.Machine.execBarx q s
  | .tbar q => Sys2Proof.Machine.execTbar q s
  | .tbarArr q => Sys2Proof.Machine.execTbarArr q s
  | .tbarWait q => Sys2Proof.Machine.execTbarWait q s
  | .kick q => Sys2Proof.Machine.execKick q s
  | .cpwait q => Sys2Proof.Machine.execCpwait q s
  | .yieldc q => Sys2Proof.Machine.execYieldc q s
  | .pfb q => Sys2Proof.Machine.execPfb q s
  | .enq q => Sys2Proof.Machine.execEnq q s
  | .deq q => Sys2Proof.Machine.execDeq q s
  | .launch q => Sys2Proof.Machine.execLaunch q s
  | .launchPerLane q => Sys2Proof.Machine.execLaunchPerLane q s
  | .setfmt w => Sys2Proof.Machine.execSetfmt w s
  | .setmode w => Sys2Proof.Machine.execSetmode w s
  | .srd r => Sys2Proof.Machine.execSrd r s
  | .swr r => Sys2Proof.Machine.execSwr r s
  | .csrr q => Sys2Proof.Machine.execCsrr q s
  | .csrw q => Sys2Proof.Machine.execCsrw q s
  | .trap q => Sys2Proof.Machine.execTrap q s
  | .rte q => Sys2Proof.Machine.execRte q s
  | .rteSkip q => Sys2Proof.Machine.execRteSkip q s
  | .mappgFt q => Sys2Proof.Machine.execMappgFt q s
  | .mappgRep q => Sys2Proof.Machine.execMappgRep q s
  | .mappgCol q => Sys2Proof.Machine.execMappgCol q s
  | .fqpost q => Sys2Proof.Machine.execFqpost q s
  | .park q => Sys2Proof.Machine.execPark q s
  | .invlpPg q => Sys2Proof.Machine.execInvlpPg q s
  | .invlpCtx q => Sys2Proof.Machine.execInvlpCtx q s
  | .qdig q => Sys2Proof.Machine.execQdig q s
  | .qend q => Sys2Proof.Machine.execQend q s
  | .mma x => Sys2Proof.Machine.execMma x s
  | .mzero x => Sys2Proof.Machine.execMzero x s
  | .mstc x => Sys2Proof.Machine.execMstc x s
  | .mwait x => Sys2Proof.Machine.execMwait x s
  | .marr x => Sys2Proof.Machine.execMarr x s
  | .mloop x => Sys2Proof.Machine.execMloop x s
  | .mbr x => Sys2Proof.Machine.execMbr x s
  | .mend x => Sys2Proof.Machine.execMend x s
  | .msetf x => Sys2Proof.Machine.execMsetf x s
  | .clauseFetch gid slot => Sys2Proof.Machine.execClauseFetch gid slot s
  | .clauseStart part => Sys2Proof.Machine.execClauseStart part s
  | .resultWrite gid => Sys2Proof.Machine.execResultWrite gid s
  | .registerFill part gid line => Sys2Proof.Machine.execRegisterFill part gid line s
  | .variableResultArrival gid op lane => Sys2Proof.Machine.execVariableResultArrival gid op lane s
  | .storeComplete gid op => Sys2Proof.Machine.execStoreComplete gid op s
  | .transferResolve gid slot => Sys2Proof.Machine.execTransferResolve gid slot s
  | .predictionRepair gid => Sys2Proof.Machine.execPredictionRepair gid s
  | .spillPop gid => Sys2Proof.Machine.execSpillPop gid s
  | .yieldBarLift gid => Sys2Proof.Machine.execYieldBarLift gid s
  | .trapEntry gid => Sys2Proof.Machine.execTrapEntry gid s
  | .preemptionRequest team => Sys2Proof.Machine.execPreemptionRequest team s
  | .preemptionBound gid => Sys2Proof.Machine.execPreemptionBound gid s
  | .quiescence team => Sys2Proof.Machine.execQuiescence team s
  | .teamRestore team cluster => Sys2Proof.Machine.execTeamRestore team cluster s
  | .groupRetire gid => Sys2Proof.Machine.execGroupRetire gid s
  | .teamRetire team => Sys2Proof.Machine.execTeamRetire team s
  | .digestChain queue => Sys2Proof.Machine.execDigestChain queue s
  | .dispatchHead => Sys2Proof.Machine.execDispatchHead s
  | .rangeSteal grid cluster => Sys2Proof.Machine.execRangeSteal grid cluster s
  | .teamPlacement cluster => Sys2Proof.Machine.execTeamPlacement cluster s
  | .concurrentPlacement queue clusters => Sys2Proof.Machine.execConcurrentPlacement queue clusters s
  | .preemptDecision cluster => Sys2Proof.Machine.execPreemptDecision cluster s
  | .barrierWaitComplete core bar => Sys2Proof.Machine.execBarrierWaitComplete core bar s
  | .teamBarrierPhaseEnd team tb => Sys2Proof.Machine.execTeamBarrierPhaseEnd team tb s
  | .cpwaitComplete gid op => Sys2Proof.Machine.execCpwaitComplete gid op s
  | .yieldcReactivate gid slot => Sys2Proof.Machine.execYieldcReactivate gid slot s
  | .deqWaiterComplete queue => Sys2Proof.Machine.execDeqWaiterComplete queue s
  | .enqRoomComplete queue => Sys2Proof.Machine.execEnqRoomComplete queue s
  | .fqpostComplete ctx => Sys2Proof.Machine.execFqpostComplete ctx s
  | .groupResume ctx => Sys2Proof.Machine.execGroupResume ctx s
  | .stashFill team slot piece => Sys2Proof.Machine.execStashFill team slot piece s
  | .stashLazyWriteback team slot piece => Sys2Proof.Machine.execStashLazyWriteback team slot piece s
  | .recordAccept core => Sys2Proof.Machine.execRecordAccept core s
  | .pieceCountdown core job => Sys2Proof.Machine.execPieceCountdown core job s
  | .pfbFrameArrive core job => Sys2Proof.Machine.execPfbFrameArrive core job s
  | .txfPairApply pair => Sys2Proof.Machine.execTxfPairApply pair s
  | .txfReturn ret => Sys2Proof.Machine.execTxfReturn ret s
  | .txfComplete gid op => Sys2Proof.Machine.execTxfComplete gid op s
  | .streamClauseFetch team unit => Sys2Proof.Machine.execStreamClauseFetch team unit s
  | .matrixStreamTrap team unit => Sys2Proof.Machine.execMatrixStreamTrap team unit s
  | .matrixTrapDelivery gid => Sys2Proof.Machine.execMatrixTrapDelivery gid s
  | .quantumCommit grid => Sys2Proof.Machine.execQuantumCommit grid s
  | .contextTermination ctx => Sys2Proof.Machine.execContextTermination ctx s
  | .enqueuePortWrite queue bytes => Sys2Proof.Machine.execEnqueuePortWrite queue bytes s
  | .fqdb ctx value => Sys2Proof.Machine.execFqdb ctx value s
  | .hostInvalidation value => Sys2Proof.Machine.execHostInvalidation value s
  | .pctx value => Sys2Proof.Machine.execPctx value s
  | .contextValidWrite ctx value => Sys2Proof.Machine.execContextValidWrite ctx value s
  | .queueEnable queue value => Sys2Proof.Machine.execQueueEnable queue value s
  | .queueDisable queue value => Sys2Proof.Machine.execQueueDisable queue value s
  | .meridianEnable => Sys2Proof.Machine.execMeridianEnable s
  | .registerWrite offset value => Sys2Proof.Machine.execRegisterWrite offset value s
  | .mailboxSelfTest => Sys2Proof.Machine.execMailboxSelfTest s
  | .mailboxPublicKey => Sys2Proof.Machine.execMailboxPublicKey s
  | .mailboxSignChain => Sys2Proof.Machine.execMailboxSignChain s
  | .mailboxInstallKey inSession => Sys2Proof.Machine.execMailboxInstallKey inSession s
  | .mailboxPowerLimit => Sys2Proof.Machine.execMailboxPowerLimit s
  | .mailboxErrorCounts => Sys2Proof.Machine.execMailboxErrorCounts s
  | .mailboxPowerState => Sys2Proof.Machine.execMailboxPowerState s
  | .mailboxBadCommand => Sys2Proof.Machine.execMailboxBadCommand s
  | .linkTraining syscap => Sys2Proof.Machine.execLinkTraining syscap s
  | .hostMemRequest offset req => Sys2Proof.Machine.execHostMemRequest offset req s
  | .backInvalidationResponse line dirty => Sys2Proof.Machine.execBackInvalidationResponse line dirty s
  | .hostSnoop line kind => Sys2Proof.Machine.execHostSnoop line kind s
  | .atomicopCompletion gid op => Sys2Proof.Machine.execAtomicopCompletion gid op s
  | .hostErrorCompletion err pa => Sys2Proof.Machine.execHostErrorCompletion err pa s
  | .meridianFrame => Sys2Proof.Machine.execMeridianFrame s
  | .reservationRecord r agent => Sys2Proof.Machine.execReservationRecord r agent s
  | .meridianUnit unit => Sys2Proof.Machine.execMeridianUnit unit s
  | .idleFlit port f => Sys2Proof.Machine.execIdleFlit port f s
  | .requestFlit port f => Sys2Proof.Machine.execRequestFlit port f s
  | .readDataFlit port f => Sys2Proof.Machine.execReadDataFlit port f s
  | .writeDataFlit port f => Sys2Proof.Machine.execWriteDataFlit port f s
  | .completionFlit port f => Sys2Proof.Machine.execCompletionFlit port f s
  | .keyRetire port f => Sys2Proof.Machine.execKeyRetire port f s
  | .replayRequest port f => Sys2Proof.Machine.execReplayRequest port f s
  | .dropNotice port f => Sys2Proof.Machine.execDropNotice port f s
  | .reservationRequest port f => Sys2Proof.Machine.execReservationRequest port f s
  | .reservationGrant port f => Sys2Proof.Machine.execReservationGrant port f s
  | .activeSetAnnouncement port f => Sys2Proof.Machine.execActiveSetAnnouncement port f s
  | .activeSetEcho port f => Sys2Proof.Machine.execActiveSetEcho port f s
  | .wavelengthRequest port f => Sys2Proof.Machine.execWavelengthRequest port f s
  | .replayTimeout port => Sys2Proof.Machine.execReplayTimeout port s
  | .announcementRepeat port => Sys2Proof.Machine.execAnnouncementRepeat port s
  | .berWindow port lam rate => Sys2Proof.Machine.execBerWindow port lam rate s
  | .lossOfLight source => Sys2Proof.Machine.execLossOfLight source s
  | .lightRestored source => Sys2Proof.Machine.execLightRestored source s
  | .portDown port => Sys2Proof.Machine.execPortDown port s
  | .reset fw => Sys2Proof.Machine.execReset fw s
  | .unitStart failure => Sys2Proof.Machine.execUnitStart failure s
  | .powerMeasurement watts => Sys2Proof.Machine.execPowerMeasurement watts s
  | .unreach => Sys2Proof.Machine.execUnreach s
  | .softErrorCorrected => Sys2Proof.Machine.execSoftErrorCorrected s
  | .machineCheck owner => Sys2Proof.Machine.execMachineCheck owner s
  | .meridianDisable => Sys2Proof.Machine.execMeridianDisable s
  | .portModeWrite port value => Sys2Proof.Machine.execPortModeWrite port value s
  | .portTrained port credits => Sys2Proof.Machine.execPortTrained port credits s
  | .spdmMessage request => Sys2Proof.Machine.execSpdmMessage request s
  | .flitCrcFailure port reservedKind => Sys2Proof.Machine.execFlitCrcFailure port reservedKind s
  | .reservationWindowStart port tag => Sys2Proof.Machine.execReservationWindowStart port tag s

end Sys2Proof.Machine
end

