-- ==== Sys2Proof/Machine/Moves.lean ====
section
/-!
DEFINITION. The moves of a step that are no row of the table: the passing of cycles, a cache that brings a byte in or gives a line up, a posted
write that is performed,
a translation that is dropped, and the issue of an instruction of a clause or of a matrix stream; and how an
instruction is laid before the machine.
-/
namespace Sys2Proof.Machine

/-- Is the constructor an instruction word (R77 to R83) rather than a step of the device? -/
def isWord (i : Instr) : Bool := i.cls.isSome

/-- In the safe state the host link's configuration space and the mailbox answer, and a reset is taken; every other
unit is off (R402). -/
def offInSafe (i : Instr) : Bool :=
  match i with
  | .reset .. | .registerWrite .. | .mailboxSelfTest | .mailboxPublicKey | .mailboxSignChain | .mailboxInstallKey _
  | .mailboxPowerLimit | .mailboxErrorCounts | .mailboxPowerState | .mailboxBadCommand => false
  | _ => true

/-- Cycles pass: the named barriers end the cycle (R20), each group's flags of the last cycle are kept (R19), and
what completes of itself does: the host's invalidation, event records, host requests whose line is free. -/
def State.elapse (s : State) (n : Nat) : Host.Outcome State Fault Refusal :=
  if n = 0 then .next s
  else
    let s := s.endBars (s.cycle + n)
    let s := { s with
      cycle := s.cycle + n
      groups := s.groups.map (fun (e : Nat × Group) => (e.1, { e.2 with flagsPrev := e.2.flags, scaAt := [] })) }
    let s := s.settleBusy
    match finish s s.flushEvents with
    | .next t => .next t.serveHeld
    | o => o

/-- May a site hold a copy of this byte (R236, R256)? -/
def State.mayCache (s : State) (site pa : Nat) : Bool :=
  (region? pa).isSome && (s.cached site pa).isNone &&
    (if site < 320 then isDevice pa || s.throughL2 pa else decide (site < 324) && s.throughL2 pa)

/-- A cache brings a byte in, and of an L1 nothing older stays of the 8 bytes around it (R258, log 7). -/
def State.fillByte (s : State) (site pa : Nat) : State :=
  if !s.mayCache site pa then s
  else if site < 320 then
    let r := (s.freshen site 1 pa).devRead (dieOf site) pa
    r.1.cput site pa ⟨r.2, false⟩
  else (s.devRead (site - 320) pa).1

/-- A cache gives the line of a byte up, its victim, writing back what is newer (R236, R259). -/
def State.evictLine (s : State) (site pa : Nat) : State :=
  if (s.cached site pa).isNone || !s.mayEvict site pa then s
  else (if site < 320 then
      (s.linePas site pa (fun _ => true)).foldl (fun s p => s.cdel site p) (s.l1Clean site pa)
    else s.l2Flush pa (site - 320)).unmark site pa

/-- A translation cache forgets its idx-th entry (R217). -/
def State.forget (s : State) (site idx : Nat) : State :=
  match (s.tlb.filter (fun e => e.1 == site))[idx]? with
  | none => s
  | some e => { s with tlb := s.tlb.erase e }

/-- One move. A move that the state does not allow leaves it unchanged (log 3). -/
def State.move (s : State) : Move → Host.Outcome State Fault Refusal
  | .event i => if isWord i || (s.ready.getLsbD 56 && offInSafe i) then .next s else exec i s
  | .issue gid slot => match s.issueNext gid slot with
    | none => .next s
    | some (t, some i) => exec i t
    | some (t, none) => .next t.illegal
  | .stream team unit => match s.streamNext team unit with
    | none => .next s
    | some (t, some i) => exec i t
    | some (t, none) => .next (t.streamTrap 0x04 0 t.cur.addr)
  | .elapse n => s.elapse n
  | .evict site pa => finish s (s.evictLine site pa)
  | .fill site pa => finish s (s.fillByte site pa)
  | .dropTranslation site idx => .next (s.forget site idx)
  | .post => .next s.postOne
  | .hostStore pa b => .next (s.hostStore pa b)
  | .firmware image sig => .next (s.loadFirmware image sig)

/-- The move that comes next, and the state without it. -/
def State.nextMove (s : State) : State × Move :=
  match s.agenda with
  | m :: rest => ({ s with agenda := rest }, m)
  | [] => ({ s with tick := s.tick + 1 }, Config.schedule s.tick)

/-! ### An instruction laid before the machine (log 5) -/

/-- The clause of one instruction, at an address of the user half. -/
def clauseOf (header word : Word64) : ClauseBuf := { addr := 0x10000, header := header, words := [word] }

/-- A group whose slot 0 runs that clause in all lanes. -/
def groupOf (s : State) (header word : Word64) : Group :=
  { team := 0, g := 0, gridKey := 0, ctx := 0, started := true, budget := 2048
    slot0 := { pc := 0x10000, mask := allLanes
               running := some { cslot := 0, clause := clauseOf header word, idx := 0, count := 1,
                                 readyAt := s.cycle, startAt := s.cycle, clauseId := 0 } } }

/-- A stream instance that is at that clause. -/
def instOf (header word : Word64) : Inst :=
  { part := 0, pc := 0x10000, owned := 2, clause := some (clauseOf header word) }

/-- The machine with one team of one group, whose next step issues the instruction. -/
def State.lay (s : State) (header word : Word64) : State :=
  let matrix := classOf (decodeHeader header).cls = some .matrix
  { s with
    ready := 0x00FFFFFFFFFF3FFF#64, readyAt := 0
    groups := [(0, groupOf s header word)]
    teams := [(0, { gridKey := 0, index := 0, ctx := 0, cores := [0], parts := [[0]], gids := [0]
                    insts := if matrix then [(0, instOf header word)] else [] })]
    ctxs := tset {} s.ctxs 0 { s.ctx 0 with terminate := none }
    portAt := []
    agenda := [if matrix then .stream 0 0 else .issue 0 0] }

end Sys2Proof.Machine
end

