-- ==== Sys2Proof/Machine/Step.lean ====
section
/-!
DEFINITION. One step of the machine: the next move of the agenda, or of the free schedule where the agenda is
empty (log 2).
-/
namespace Sys2Proof.Machine

def step (s : State) : Host.Outcome State Fault Refusal := s.nextMove.1.move s.nextMove.2

/-- The state in which the next step issues the instruction that `decodeTableWord nbits w` reads: bits 63 to 0
are the header of its clause, the next 64 its word (log 16). -/
def State.withFetchWord (s : State) (nbits w : Nat) : State :=
  s.lay (BitVec.ofNat 64 (w % 2 ^ nbits)) (BitVec.ofNat 64 (w % 2 ^ nbits / 2 ^ 64))

end Sys2Proof.Machine
end

