-- ==== Sys2Proof/WellFormed.lean ====
section
/-!
DEFINITION. Which instructions are well formed: the form is one that the instruction's row lists (R77 to R82),
FSEL is zero in class 2 (R79), and every field is legal under the group's budget and FMT.ELT (R59 to R71 and
the field tables; Machine/Sig.lean). A device step is always well formed.
-/
namespace Sys2Proof

/-! ### Lists of forms -/

def formAny (_ : Form) : Bool := true
def formV (f : Form) : Bool := f == .f00
def formS (f : Form) : Bool := f == .f11
def formVS (f : Form) : Bool := f == .f00 || f == .f11
def formVBS (f : Form) : Bool := f == .f00 || f == .f01 || f == .f11
def formVec (f : Form) : Bool := f == .f00 || f == .f01 || f == .f10
def formVA (f : Form) : Bool := f == .f00 || f == .f10
def formB (f : Form) : Bool := f == .f01

/-- A Q word of class 2: form 11, FSEL reserved. -/
def formQ2 (q : QFields) : Bool := q.form == .f11 && !q.fsel
/-- An ALU instruction: its register row lists `r`, its immediate row forms 00, 01 and 11 (R77). -/
def formAlu (r : Form → Bool) : Alu → Bool
  | .reg x => r x.form
  | .imm x => formVBS x.form

/-- Is the form one that the row lists? -/
def Instr.formOk : Instr → Bool
  | .iadd o | .isub o | .imul o | .iadds o | .iand o | .ior o | .ixor o | .ishl o => formAlu formAny o
  | .ishr o | .imin o | .imax o | .icmp o | .ibfe o => formAlu formAny o
  | .imulh x | .imad x | .isel x | .ibfi x => formAny x.form
  | .mov x => formVBS x.form
  | .iclz x | .ipopc x | .srd x => formVS x.form
  | .plop x | .pmov x | .pcnt x | .swr x => formS x.form
  | .fadd x | .fsub x | .fmul x | .ffma x | .fmin x | .fmax x | .fcmp x => formVec x.form
  | .fclass x | .frcp x | .frsq x | .fsqrt x | .fexp2 x | .flog2 x | .fsin x | .fcos x => formV x.form
  | .cvt x | .cvtfx x | .cvtxf x | .pack x | .unpack x | .vred x | .vscan x | .vbal x => formV x.form
  | .vmatch x => formV x.form
  | .shfl x | .vbcast x => formVA x.form
  | .movi x => formVS x.form
  | .setfmt x | .setmode x => formS x.form
  | .ld x | .st x | .cas x | .cas128 x | .pfl x | .atom _ x => formVBS x.form
  | .fence x | .acqr x | .stmap x | .stunmap x | .stwb x => formS x.form
  | .atomt _ x => formB x.form
  | .bra x | .call x | .exit x => formV x.form
  | .brx x | .callx x => formVS x.form
  | .ret x => formV x.form
  | .lpad x => formS x.form
  | .txf x => formVS x.form
  | .ftot q | .ffence q | .fstat q | .fdef q | .fdefDrop q | .fbnd q => formQ2 q
  | .bara x | .baraInit x | .barw x | .barx x | .tbar x | .tbarArr x | .tbarWait x | .kick x => formS x.form
  | .cpwait x | .yieldc x | .pfb x | .enq x | .deq x | .launch x | .csrr x | .csrw x => formS x.form
  | .trap x | .rte x | .rteSkip x | .mappgFt x | .mappgRep x | .mappgCol x | .fqpost x | .park x => formS x.form
  | .invlpPg x | .invlpCtx x | .qdig x | .qend x => formS x.form
  | .launchPerLane x => formV x.form
  | .yield | .nop | .mma _ | .mzero _ | .mstc _ | .mwait _ => true
  | .marr _ | .mloop _ | .mbr _ | .mend _ | .msetf _ | .clauseFetch _ _ => true
  | .clauseStart _ | .resultWrite _ | .registerFill _ _ _ | .variableResultArrival _ _ _ | .storeComplete _ _ | .transferResolve _ _ => true
  | .predictionRepair _ | .spillPop _ | .yieldBarLift _ | .trapEntry _ | .preemptionRequest _ | .preemptionBound _ => true
  | .quiescence _ | .teamRestore _ _ | .groupRetire _ | .teamRetire _ | .digestChain _ | .dispatchHead => true
  | .rangeSteal _ _ | .teamPlacement _ | .concurrentPlacement _ _ | .preemptDecision _ | .barrierWaitComplete _ _ | .teamBarrierPhaseEnd _ _ => true
  | .cpwaitComplete _ _ | .yieldcReactivate _ _ | .deqWaiterComplete _ | .enqRoomComplete _ | .fqpostComplete _ | .groupResume _ => true
  | .stashFill _ _ _ | .stashLazyWriteback _ _ _ | .recordAccept _ | .pieceCountdown _ _ | .pfbFrameArrive _ _ | .txfPairApply _ => true
  | .txfReturn _ | .txfComplete _ _ | .streamClauseFetch _ _ | .matrixStreamTrap _ _ | .matrixTrapDelivery _ | .quantumCommit _ => true
  | .contextTermination _ | .enqueuePortWrite _ _ | .fqdb _ _ | .hostInvalidation _ | .pctx _ | .contextValidWrite _ _ => true
  | .queueEnable _ _ | .queueDisable _ _ | .meridianEnable | .registerWrite _ _ | .mailboxSelfTest | .mailboxPublicKey => true
  | .mailboxSignChain | .mailboxInstallKey _ | .mailboxPowerLimit | .mailboxErrorCounts | .mailboxPowerState | .mailboxBadCommand => true
  | .linkTraining _ | .hostMemRequest _ _ | .backInvalidationResponse _ _ | .hostSnoop _ _ | .atomicopCompletion _ _ | .hostErrorCompletion _ _ => true
  | .meridianFrame | .reservationRecord _ _ | .meridianUnit _ | .idleFlit _ _ | .requestFlit _ _ | .readDataFlit _ _ => true
  | .writeDataFlit _ _ | .completionFlit _ _ | .keyRetire _ _ | .replayRequest _ _ | .dropNotice _ _ | .reservationRequest _ _ => true
  | .reservationGrant _ _ | .activeSetAnnouncement _ _ | .activeSetEcho _ _ | .wavelengthRequest _ _ | .replayTimeout _ | .announcementRepeat _ => true
  | .berWindow _ _ _ | .lossOfLight _ | .lightRestored _ | .portDown _ | .reset _ | .unitStart _ => true
  | .powerMeasurement _ | .unreach | .softErrorCorrected | .machineCheck _ | .meridianDisable | .portModeWrite _ _ => true
  | .portTrained _ _ | .spdmMessage _ | .flitCrcFailure _ _ | .reservationWindowStart _ _ => true

/-- Is the instruction legal in a group of budget `budget` with FMT.ELT `elt`? -/
def Instr.wellFormed (budget elt : Nat) (i : Instr) : Bool :=
  i.formOk && (i.cls.isNone || (Machine.sigOf budget elt i).ok)

end Sys2Proof
end

