-- ==== Sys2Proof/Safety.lean ====
section
/-!
DEFINITION. The words in which claims about the machine are made: what it means that an instruction issues, that
a step of the device is not held back, and the values that the rules give.
-/
namespace Sys2Proof.Machine

/-- The canonical form of memory (log 1): addresses strictly rising, and no byte listed that an unlisted address
reads as. -/
def Memory.wf (m : Tab Byte) : Bool := tabWf 0 m

/-- Instruction `i` issues in the slot at `cur`: slot `cur.slot` of group `g` has clause `r` in a clause slot, the word is
legal under the budget and FMT (R59, R74), and the group is in supervisor mode if `i` asks for it (R75). -/
def State.issues (s : State) (i : Instr) (g : Group) (r : Running) : Prop :=
  s.group? s.cur.gid = some g ∧ (g.slot s.cur.slot).running = some r ∧
    g.legal s.cur.slot i = true ∧ (privileged i = true → g.supervisor = true)

/-- Nothing that a step has touched is out of reach: no absent address (R211), no memory that is not ready
(R401), no line that the host holds (R396), no pooled frame of another device (R371, R374). -/
def State.settled (s : State) : Prop :=
  s.absent = none ∧ s.unready = false ∧ s.conflict = none ∧ s.askOwn = [] ∧ s.askRead = []

/-- A state between two steps: nothing noted of an access is left over. -/
def State.calm (s : State) : Prop :=
  s.settled ∧ s.wrote = [] ∧ s.gotRead = [] ∧ s.backTook = [] ∧ s.writer = none

/-- Step `i` has effect `t`: it answers `t`, the writes it made to pooled memory on their way, in every state with
`ok`; and also wherever nothing that it touches is out of reach. -/
def State.completesIf (s : State) (ok : Prop) (i : Instr) (t : State) : Prop :=
  ok ∨ t.settled → exec i s = .next t.settleNode

/-- A state between two steps in which no cache holds a byte and no write to the host is on its way: an acquire drops
nothing, a release writes nothing back and waits for nothing. -/
def State.bare (s : State) : Prop := s.calm ∧ s.cache = [] ∧ s.hostPosted = []

/-- A bare state in which all of the device's own memory can be reached: its banks are ready (R401) and the host
holds no line of it (R396). -/
def State.clear (s : State) : Prop :=
  s.bare ∧ s.hostDir = [] ∧ s.backDone = [] ∧ ∀ d, d < 4 → s.usable (2 + d) = true ∧ s.usable (6 + d) = true

/-- The place of a word of code at `va`, by the core's own translation cache: in a page that allows the fetch (R214). -/
def State.codePa (s : State) (a : Agent) (va : Word64) : Option Nat :=
  if canonical va = true ∧ inWindow va.toNat = false then
    (s.tlbFind a.core a.ctx va.toNat).bind (fun l =>
      if l.x = true ∧ (a.user = true → l.u = true) then some (l.frame + va.toNat % 2 ^ l.bits) else none)
  else none

/-- The word of code that memory holds at `va`. -/
def State.codeWord (s : State) (a : Agent) (va : Word64) : Word64 :=
  BitVec.ofNat 64 (ofBytes ((List.range 8).map (fun i => s.rd ((s.codePa a va).getD 0 + i))))

/-- The n words of code at `va` lie in the device's own memory, in pages that the core's translation cache holds. -/
def State.codeHere (s : State) (a : Agent) (va : Word64) (n : Nat) : Prop :=
  ∀ j < n, ∃ pa, s.codePa a (va + BitVec.ofNat 64 (8 * j)) = some pa ∧ ∀ i < 8, isDevice (pa + i) = true

/-- The ring of queue `n` lies in the device's own memory (R333). -/
def State.ringHere (s : State) (n : Nat) : Prop := ∀ k < 64 * (s.queue n).cap, isDevice ((s.queue n).qbase + k) = true

/-- An instruction that issued in cycle `at_`, in a clause that started in cycle `start`, is the newest to write the scalar
`n` of a bank (R190). -/
def Group.newest (g : Group) (sup : Bool) (n at_ start : Nat) : Prop :=
  ∀ i j, dget g.scaAt (scaKey sup n) = some (i, j) → i < at_ ∨ (i = at_ ∧ j ≤ start)

/-- The place is in a stash. -/
def Loc.inStash (l : Loc) : Prop := ∃ t c o, l = .stash t c o

/-- Matrix instruction `i` runs in the stream instance `n` of team `t` at `cur`: it has a clause, has not ended, has no trap
and waits on nothing, and the word is legal, with the accumulator owned (R301). -/
def State.streams (s : State) (i : Instr) (t : Team) (n : Inst) : Prop :=
  s.team? s.cur.team = some t ∧ dget t.insts s.cur.unit = some n ∧ n.clause.isSome = true ∧ n.ended = false ∧
    n.trap = none ∧ n.waits = none ∧ (sigOf 2048 4 i).ok = true ∧ (accField i = true → n.owned ≠ 1)

/-- The halves of a predicted branch stand as R131 places them: in both slots, or the one of an outcome predicted
uniform in the slot that branched. -/
def Spec.placed (p : Spec) : Prop :=
  let N := p.sMask &&& ~~~p.guess
  p.sMask ≠ 0 ∧ p.slot ≤ 1 ∧ p.guess &&& ~~~p.sMask = 0 ∧
    ((p.guess ≠ 0 ∧ N ≠ 0 ∧ ∃ a b, p.halves = [a, b] ∧ a.slot = p.slot ∧ b.slot = 1 - p.slot ∧ a.ph = p.guess ∧ b.ph = N) ∨
     ((p.guess = 0 ∨ N = 0) ∧ ∃ a, p.halves = [a] ∧ a.slot = p.slot ∧ a.ph = p.sMask))

/-- The value of a signed fraction. -/
def SFrac.val (x : SFrac) : ℚ := (x.num : ℚ) / (x.mag.d : ℚ)

/-- Where a value that is no NaN stands in the order of R195 and R196, the sign of a zero aside. -/
def FVal.rank : FVal → WithBot (WithTop ℚ)
  | .inf true => ⊥
  | .inf false => ((⊤ : WithTop ℚ) : WithBot (WithTop ℚ))
  | .num x => ((x.val : WithTop ℚ) : WithBot (WithTop ℚ))
  | .nan _ => ⊥

/-- What rounding code `code` makes of x between its neighbours lo and hi (R161): y, of code c. -/
def picks (code : Nat) (lo x hi y : ℝ) (c : Nat) : Prop :=
  (y = lo ∨ y = hi) ∧
  (code = 1 → |y - x| ≤ x - lo ∧ |y - x| ≤ hi - x ∧ (x - lo = hi - x → c % 2 = 0)) ∧
  (code = 2 → |y| ≤ |lo| ∧ |y| ≤ |hi|) ∧ (code = 3 → y = hi) ∧ (code = 4 → y = lo) ∧
  (code = 5 → |y - x| ≤ x - lo ∧ |y - x| ≤ hi - x ∧ (x - lo = hi - x → |lo| ≤ |y| ∧ |hi| ≤ |y|))

/-- The finite values of a format, and of DM8. -/
def BinFmt.isValue (f : BinFmt) (y : ℝ) : Prop := ∃ c u, c < 2 ^ f.width ∧ f.decode c = .num u ∧ (u.val : ℝ) = y
def dm8Value (y : ℝ) : Prop := ∃ c u, c < 256 ∧ dm8Decode c = .num u ∧ (u.val : ℝ) = y

/-- lo and hi are the neighbours of x among some values (R161). -/
def neighbours (value : ℝ → Prop) (lo x hi : ℝ) : Prop :=
  value lo ∧ value hi ∧ lo < x ∧ x < hi ∧ ∀ y, value y → ¬ (lo < y ∧ y < hi)

/-- Does an overflow give infinity (R162): `narrow` for the formats that MODE.OVF governs? -/
def infOnOverflow (rnd : Rnd) (narrow neg : Bool) : Prop :=
  (rnd.code = 1 ∨ rnd.code = 5 ∨ rnd.code = 6 ∨ (rnd.code = 3 ∧ neg = false) ∨ (rnd.code = 4 ∧ neg = true)) ∧
    (narrow = false ∨ rnd.ovf = true)

/-- ulp of R198. -/
noncomputable def ulp (x : ℝ) : ℝ := 2 ^ (max ⌊Real.logb 2 |x|⌋ (-126) - 23)

/-- The three IEEE formats of R154. -/
def ieeeFormats : List BinFmt := [fmtF32, fmtF16, fmtBF16]

/-- Combine the values of some lanes, in the order of the list, as R205 asks: the value and the MODE bits raised;
none for no lane. -/
def combineLanes (mode : BitVec 16) (op t : Nat) (a : Nat → Nat) : List Nat → Option (Nat × BitVec 16)
  | [] => none
  | k :: ks => some (ks.foldl (fun x j =>
      let r := redCombine mode op t x.1 (a j)
      (r.code, x.2 ||| r.flags)) (a k, 0))

/-- The result of an integer instruction: lane results in a vector form (latency 4), one result in form 11
(latency 2, R56). -/
def State.intResult (s : State) (g : Group) (form : Form) (neg : Bool) (pred : BitVec 3) (t dst : Nat)
    (f : Nat → Nat × BitVec 16) : State :=
  if isVec form then s.issueVec (g.exec s.cur.mask neg pred) (wide t) dst 4 f
  else s.issueSca dst 2 (scalarOf (signedTy t) (wide t) (f 0).1) (f 0).2

/-- `intResult` for an instruction with an immediate form. -/
def State.aluResult (s : State) (g : Group) (o : Alu) (f : Nat → Nat × BitVec 16) : State :=
  s.intResult g (aluForm o) (aluNeg o) (aluPred o) (s.ty g (aluTy o)) (aluDst o).toNat f

/-- `intResult` for an instruction of format R. -/
def State.regResult (s : State) (g : Group) (q : RFields) (f : Nat → Nat × BitVec 16) : State :=
  s.intResult g q.form q.neg q.pred (s.ty g q.ty) q.dst.toNat f

end Sys2Proof.Machine
end

