-- ==== Sys2Proof/Certificates/Slice0/Obligations.lean ====
section
/-!
DEFINITION. The statements about the machine, from the numbered rules of spec/.
-/
open Sys2Proof Sys2Proof.Machine

/-! ### Integer, predicate and move instructions -/

/-- R177: IADD, ISUB, IMUL, IMULH and IMAD write these results, each in every lane of exec (or once in form 11),
and set no MODE bit. R177: IAND, IOR, IXOR, IMIN and IMAX write these results and set no MODE bit; bit `j` of
the first three is the function of bit `j` of the operands. R178: IADDS clamps the exact sum (or difference) to
the type and sets OF exactly where it clamped. -/
def Obligations.IntegerResults : Prop :=
  (
  ∀ (s : State) (g : Group) (r : Running),
    (∀ o : Alu,
      let w := wide (s.ty g (aluTy o))
      let W := widthOf w
      let a (l : Nat) : Int := aluA g o w l
      let b (l : Nat) : Int := aluB g o w l
      let out (f : Nat → Int) : Host.Outcome State Fault Refusal :=
        .next (s.aluResult g o (fun l => ((f l % 2 ^ W).toNat, 0)))
      (s.issues (.iadd o) g r → exec (.iadd o) s = out (fun l => a l + b l)) ∧
      (s.issues (.isub o) g r → exec (.isub o) s = out (fun l => a l - b l)) ∧
      (s.issues (.imul o) g r → exec (.imul o) s = out (fun l => a l * b l))) ∧
    (∀ q : RFields,
      let t := s.ty g q.ty
      let w := wide t
      let W := widthOf w
      let a (l : Nat) : Nat := g.opVal (aVec q.form) w q.a.toNat l
      let b (l : Nat) : Nat := g.opVal (bVec q.form) w q.b.toNat l
      let c (l : Nat) : Nat := g.opVal (isVec q.form) w q.c.toNat l
      let val (x : Nat) : Int := valOf (signedTy t) W x
      (s.issues (.imulh q) g r → exec (.imulh q) s = .next (s.regResult g q (fun l =>
        ((⌊(val (a l) * val (b l) : ℚ) / 2 ^ W⌋ % 2 ^ W).toNat, 0)))) ∧
      (s.issues (.imad q) g r → exec (.imad q) s = .next (s.regResult g q (fun l =>
        ((a l * b l + c l) % 2 ^ W, 0)))))
  ) ∧
  (
  ∀ (s : State) (g : Group) (r : Running) (o : Alu),
    let t := s.ty g (aluTy o)
    let w := wide t
    let val (x : Nat) : Int := valOf (signedTy t) (widthOf w) x
    let a (l : Nat) : Nat := aluA g o w l
    let b (l : Nat) : Nat := aluB g o w l
    let bits (i : Instr) (fn : Bool → Bool → Bool) : Prop := s.issues i g r →
      ∃ f : Nat → Nat, (∀ l j, (f l).testBit j = fn ((a l).testBit j) ((b l).testBit j)) ∧
        exec i s = .next (s.aluResult g o (fun l => (f l, 0)))
    bits (.iand o) (· && ·) ∧ bits (.ior o) (· || ·) ∧ bits (.ixor o) Bool.xor ∧
    (s.issues (.imin o) g r → exec (.imin o) s = .next (s.aluResult g o (fun l =>
      (if val (a l) ≤ val (b l) then a l else b l, 0)))) ∧
    (s.issues (.imax o) g r → exec (.imax o) s = .next (s.aluResult g o (fun l =>
      (if val (a l) ≥ val (b l) then a l else b l, 0))))
  ) ∧
  (
  ∀ (s : State) (g : Group) (r : Running) (o : Alu), s.issues (.iadds o) g r →
    let t := s.ty g (aluTy o)
    let W := widthOf (wide t)
    let sg := signedTy t
    let lo : Int := if sg then -2 ^ (W - 1) else 0
    let hi : Int := if sg then 2 ^ (W - 1) - 1 else 2 ^ W - 1
    let a (l : Nat) : Int := valOf sg W (aluA g o (wide t) l)
    let b (l : Nat) : Int := valOf sg W (aluB g o (wide t) l)
    let x (l : Nat) : Int := if aluMod o = 1 then a l - b l else a l + b l
    exec (.iadds o) s = .next (s.aluResult g o (fun l =>
      ((min (max (x l) lo) hi % 2 ^ W).toNat, if x l < lo ∨ hi < x l then bitOF else 0)))
  )

/-- R179: ISHL and ISHR shift by the whole W-bit amount, or rotate under modifier 001. R184: bit by bit, IBFE
extracts len bits from bit pos on (cut at W, sign-extended for a signed type) and IBFI puts the low bits of A
there into the base B. R185: ICLZ counts the leading zero bits (W for zero), IPOPC the one bits. R179, R184,
R185: the modifiers, immediates and forms of shifts, bit fields and counts that are illegal. -/
def Obligations.ShiftFieldAndCountResults : Prop :=
  (
  ∀ (s : State) (g : Group) (r : Running) (o : Alu),
    let t := s.ty g (aluTy o)
    let W := widthOf (wide t)
    let a (l : Nat) : Nat := aluA g o (wide t) l
    let n (l : Nat) : Nat := aluB g o (wide t) l
    let out (f : Nat → Nat) : Host.Outcome State Fault Refusal := .next (s.aluResult g o (fun l => (f l, 0)))
    (s.issues (.ishl o) g r → exec (.ishl o) s = out (fun l =>
      if aluMod o = 1 then ((BitVec.ofNat W (a l)).rotateLeft (n l)).toNat
      else if W ≤ n l then 0 else a l * 2 ^ n l % 2 ^ W)) ∧
    (s.issues (.ishr o) g r → exec (.ishr o) s = out (fun l =>
      if aluMod o = 1 then ((BitVec.ofNat W (a l)).rotateRight (n l)).toNat
      else if signedTy t then ((BitVec.ofNat W (a l)).sshiftRight (n l)).toNat
      else if W ≤ n l then 0 else a l / 2 ^ n l))
  ) ∧
  (
  ∀ (s : State) (g : Group) (r : Running),
    (∀ o : Alu, s.issues (.ibfe o) g r →
      let t := s.ty g (aluTy o)
      let W := widthOf (wide t)
      ∃ f : Nat → Nat, exec (.ibfe o) s = .next (s.aluResult g o (fun l => (f l, 0))) ∧
        ∀ l, let a := aluA g o (wide t) l
          let pos := aluB g o (wide t) l % 256
          let len := aluB g o (wide t) l / 256 % 256
          let e := min (pos + len) W
          f l < 2 ^ W ∧ ∀ j < W, (f l).testBit j =
            (decide (pos < W) && decide (0 < len) &&
              (if pos + j < e then a.testBit (pos + j) else signedTy t && a.testBit (e - 1)))) ∧
    (∀ q : RFields, s.issues (.ibfi q) g r →
      let w := wide (s.ty g q.ty)
      let W := widthOf w
      ∃ f : Nat → Nat, exec (.ibfi q) s = .next (s.regResult g q (fun l => (f l, 0))) ∧
        ∀ l, let a := g.opVal (aVec q.form) w q.a.toNat l
          let b := g.opVal (bVec q.form) w q.b.toNat l
          let ctl := g.opVal (isVec q.form) w q.c.toNat l
          let pos := ctl % 256
          let len := ctl / 256 % 256
          f l < 2 ^ W ∧ ∀ j < W, (f l).testBit j =
            if pos ≤ j ∧ j < pos + len then a.testBit (j - pos) else b.testBit j)
  ) ∧
  (
  ∀ (s : State) (g : Group) (r : Running) (q : RFields),
    let w := wide (s.ty g q.ty)
    let W := widthOf w
    let a (l : Nat) : Nat := g.opVal (aVec q.form) w q.a.toNat l
    (s.issues (.iclz q) g r → ∃ f : Nat → Nat,
      exec (.iclz q) s = .next (s.regResult g q (fun l => (f l, 0))) ∧
      ∀ l, f l ≤ W ∧ (∀ j, W - f l ≤ j → j < W → (a l).testBit j = false) ∧
        (f l < W → (a l).testBit (W - 1 - f l) = true)) ∧
    (s.issues (.ipopc q) g r → exec (.ipopc q) s = .next (s.regResult g q (fun l =>
      (((List.range W).filter (fun j => (a l).testBit j)).length, 0))))
  ) ∧
  (
  (∀ (s : State) (g : Group) (r : Running), s.group? s.cur.gid = some g → (g.slot s.cur.slot).running = some r →
    (∀ o : Alu, 2 ≤ aluMod o → exec (.ishl o) s = .next s.illegal ∧ exec (.ishr o) s = .next s.illegal) ∧
    (∀ i : IFields, i.imm.extractLsb' 16 6 ≠ 0 → exec (.ibfe (.imm i)) s = .next s.illegal) ∧
    (∀ q : RFields, q.c ≠ 0 → exec (.ibfe (.reg q)) s = .next s.illegal ∧ exec (.iclz q) s = .next s.illegal ∧
      exec (.ipopc q) s = .next s.illegal) ∧
    (∀ q : RFields, q.b ≠ 0 → exec (.iclz q) s = .next s.illegal ∧ exec (.ipopc q) s = .next s.illegal)) ∧
  ∀ w : Word64, (opOf w).toNat = 0x13 ∨ (opOf w).toNat = 0x14 → formOf w = .f01 → decode .alu w = none
  )

/-- R180: ICMP writes the exec bits of a predicate in a vector form, 1 or 0 in a scalar in form 11; the modifier
names the condition on val(a) and val(b). R181, R182: ISEL takes A where bit i of the predicate C is 1 (where
the scalar C is not 0 in form 11) and B elsewhere; MOV copies A. R183: MOVI. R180 to R183: what of ICMP, ISEL,
MOV and MOVI is illegal. -/
def Obligations.CompareSelectAndMoveResults : Prop :=
  (
  ∀ (s : State) (g : Group) (r : Running) (o : Alu), s.issues (.icmp o) g r →
    let t := s.ty g (aluTy o)
    let W := widthOf (wide t)
    ∃ res : Nat → Bool,
      (∀ l, let a := valOf (signedTy t) W (aluA g o (wide t) l)
        let b := valOf (signedTy t) W (aluB g o (wide t) l)
        (aluMod o = 0 → (res l ↔ a = b)) ∧ (aluMod o = 1 → (res l ↔ a ≠ b)) ∧
        (aluMod o = 2 → (res l ↔ a < b)) ∧ (aluMod o = 3 → (res l ↔ a ≤ b)) ∧
        (aluMod o = 4 → (res l ↔ a > b)) ∧ (aluMod o = 5 → (res l ↔ a ≥ b))) ∧
      exec (.icmp o) s = .next (
        if isVec (aluForm o) then
          s.issuePred (aluDst o).toNat 4 (g.exec s.cur.mask (aluNeg o) (aluPred o)) (maskOf res) []
        else s.issueSca (aluDst o).toNat 2 (if res 0 then 1 else 0) 0)
  ) ∧
  (
  ∀ (s : State) (g : Group) (r : Running) (q : RFields),
    let w := wide (s.ty g q.ty)
    let a (l : Nat) : Nat := g.opVal (aVec q.form) w q.a.toNat l
    let b (l : Nat) : Nat := g.opVal (bVec q.form) w q.b.toNat l
    (s.issues (.isel q) g r → exec (.isel q) s = .next (s.regResult g q (fun l =>
      (if (if isVec q.form then (g.preg q.c.toNat).getLsbD l = true else g.sreg q.c.toNat ≠ 0) then a l
       else b l, 0)))) ∧
    (s.issues (.mov q) g r → exec (.mov q) s = .next (s.regResult g q (fun l => (a l, 0))))
  ) ∧
  (
  ∀ (s : State) (g : Group) (r : Running) (x : WFields), s.issues (.movi x) g r →
    let t := s.ty g x.ty
    (isVec x.form = true → exec (.movi x) s = .next
      (s.issueVec (g.exec s.cur.mask x.neg x.pred) false x.dst.toNat 4 (fun _ => (x.imm.toNat, 0)))) ∧
    (isVec x.form = false → x.hi = false → exec (.movi x) s = .next (s.issueSca x.dst.toNat 2
      (if t = 0 ∨ t = 2 then BitVec.ofInt 64 x.imm.toInt else BitVec.ofNat 64 x.imm.toNat) 0)) ∧
    (isVec x.form = false → x.hi = true → exec (.movi x) s = .next (s.issueSca x.dst.toNat 2
      (BitVec.ofNat 64 (x.imm.toNat * 2 ^ 32 + (g.sreg x.dst.toNat).toNat % 2 ^ 32)) 0))
  ) ∧
  (
  (∀ (s : State) (g : Group) (r : Running), s.group? s.cur.gid = some g → (g.slot s.cur.slot).running = some r →
    (∀ o : Alu, 6 ≤ aluMod o → exec (.icmp o) s = .next s.illegal) ∧
    (∀ q : RFields, q.mod ≠ 0 → exec (.isel q) s = .next s.illegal ∧ exec (.mov q) s = .next s.illegal) ∧
    (∀ q : RFields, q.b ≠ 0 ∨ q.c ≠ 0 → exec (.mov q) s = .next s.illegal) ∧
    (∀ x : WFields, let t := s.ty g x.ty
      (x.hi = true → isVec x.form = true ∨ (t ≠ 2 ∧ t ≠ 3) → exec (.movi x) s = .next s.illegal) ∧
      (isVec x.form = true → t ≠ 0 → t ≠ 1 → t ≠ 4 → exec (.movi x) s = .next s.illegal))) ∧
  ∀ w : Word64, ((opOf w).toNat = 0x0F → formOf w = .f10 → decode .alu w = none) ∧
    ((opOf w).toNat = 0x10 → formOf w ≠ .f00 → formOf w ≠ .f11 → decode .alu w = none) ∧
    ((opOf w).toNat = 0x10 → modOf w ≠ 0 → decode .alu w = none)
  )

/-- R186 to R188: PLOP and PMOV write whole predicates or scalars, PCNT counts, at latency 2; the modifiers
without a row are illegal; p0 reads all ones and a write to it is discarded. -/
def Obligations.PredicateInstructionResults : Prop :=
  (∀ (s : State) (g : Group) (r : Running) (q : RFields), s.group? s.cur.gid = some g →
    (g.slot s.cur.slot).running = some r →
    (4 ≤ q.mod.toNat → exec (.pmov q) s = .next s.illegal ∧ exec (.pcnt q) s = .next s.illegal) ∧
    (q.mod = 3 → q.a ≠ 0 → exec (.pmov q) s = .next s.illegal)) ∧
  (∀ g : Group, g.preg 0 = allLanes ∧ ∀ sup m bits, g.setPregAs sup 0 m bits = g) ∧
  ∀ (s : State) (g : Group) (r : Running) (q : RFields),
    let x := g.preg q.a.toNat
    let y := g.preg q.b.toNat
    let act := (g.slot s.cur.slot).mask
    (s.issues (.plop q) g r → ∃ z : Mask,
      exec (.plop q) s = .next (s.issuePred q.dst.toNat 2 allLanes z []) ∧
      ∀ i < 64, z.getLsbD i = match q.mod.toNat with
        | 0 => x.getLsbD i && y.getLsbD i
        | 1 => x.getLsbD i || y.getLsbD i
        | 2 => x.getLsbD i ^^ y.getLsbD i
        | 3 => x.getLsbD i && !y.getLsbD i
        | 4 => x.getLsbD i || !y.getLsbD i
        | 5 => !(x.getLsbD i && y.getLsbD i)
        | 6 => !(x.getLsbD i || y.getLsbD i)
        | _ => !(x.getLsbD i ^^ y.getLsbD i)) ∧
    (s.issues (.pmov q) g r → exec (.pmov q) s = .next (
      if q.mod = 1 then s.issueSca q.dst.toNat 2 x 0
      else s.issuePred q.dst.toNat 2 allLanes
        (if q.mod = 0 then g.sreg q.a.toNat else if q.mod = 2 then x else act) [])) ∧
    (s.issues (.pcnt q) g r → ∃ n : Nat,
      exec (.pcnt q) s = .next (s.issueSca q.dst.toNat 2 (BitVec.ofNat 64 n) 0) ∧
      (q.mod = 0 → n = ((List.range 64).filter (fun i => x.getLsbD i)).length) ∧
      (q.mod = 1 → n = ((List.range 64).filter (fun i => x.getLsbD i && act.getLsbD i)).length) ∧
      (q.mod = 2 → (x = 0 ∧ n = 64) ∨ (x.getLsbD n = true ∧ ∀ i < n, x.getLsbD i = false)) ∧
      (q.mod = 3 → (x = 0 ∧ n = 64) ∨ (n < 64 ∧ x.getLsbD n = true ∧ ∀ i, n < i → x.getLsbD i = false)))

/-! ### Floating point, conversions, cross-lane -/

/-- R194, R193: FADD, FSUB, FMUL and FFMA compute, element by element, the exact result of the flushed operands
and round it once under RND or MODE.RM; MODE takes the OR of the bits raised. R194: the exact result is the sum,
the product, the sum of product and addend; a zero of operands of opposite sign is +0, and −0 under RM; ∞ − ∞, in
FFMA too, 0 × ∞ and a signalling NaN are invalid, any other NaN gives NaN. -/
def Obligations.FloatArithmetic : Prop :=
  (
  ∀ (s : State) (g : Group) (r : Running) (q : RFields),
    let t := s.ty g q.ty
    let f := floatFmt t
    let val (vec : Bool) (n : BitVec 11) (l j : Nat) : FVal :=
      f.decode (f.flushIn (g.mode.getLsbD 3) (elemOf f.width (g.opVal vec false n.toNat l) j))
    let rm := rndCode g.mode q.mod == 4
    let meaning (i : Instr) (x : FVal → FVal → FVal → Exact) : Prop := s.issues i g r →
      exec i s = .next (s.issueVec (g.exec s.cur.mask q.neg q.pred) false q.dst.toNat 4 (fun l =>
        packRes (floatElems t) f.width (fun j => roundExact f (t != 4) (g.rnd q.mod l j)
          (x (val (aVec q.form) q.a l j) (val (bVec q.form) q.b l j) (val true q.c l j)))))
    meaning (.fadd q) (fun a b _ => addExact rm a b) ∧
    meaning (.fsub q) (fun a b _ => addExact rm a b.negate) ∧
    meaning (.fmul q) (fun a b _ => mulExact a b) ∧
    meaning (.ffma q) (fun a b c => fmaExact rm a b c)
  ) ∧
  (
  (∀ (rm : Bool) (x y z : SFrac), 0 < x.mag.d → 0 < y.mag.d → 0 < z.mag.d →
    (∃ u, addExact rm (.num x) (.num y) = .num u ∧ u.val = x.val + y.val ∧
      (u.val = 0 → u.neg = if x.neg = y.neg then x.neg else rm)) ∧
    (∃ u, mulExact (.num x) (.num y) = .num u ∧ u.val = x.val * y.val ∧ u.neg = (x.neg ^^ y.neg)) ∧
    (∃ u, fmaExact rm (.num x) (.num y) (.num z) = .num u ∧ u.val = x.val * y.val + z.val ∧
      (u.val = 0 → u.neg = if (x.neg ^^ y.neg) = z.neg then z.neg else rm))) ∧
  (∀ (rm n : Bool) (a b c : FVal),
    addExact rm (.inf n) (.inf !n) = .nan true ∧
    (a.isNan ∨ b.isNan → addExact rm a b = .nan (a.isSig || b.isSig) ∧ mulExact a b = .nan (a.isSig || b.isSig)) ∧
    (a.isZero → mulExact a (.inf n) = .nan true ∧ mulExact (.inf n) a = .nan true ∧
      fmaExact rm a (.inf n) c = .nan true ∧ fmaExact rm (.inf n) a c = .nan true) ∧
    (¬ a.isNan → ¬ b.isNan → ¬ a.isZero → ¬ b.isZero → (a.isInf ∨ b.isInf) →
      fmaExact rm a b (.inf !(a.neg ^^ b.neg)) = .nan true) ∧
    ((a.isNan ∨ b.isNan ∨ c.isNan) → ¬ (a.isZero ∧ b.isInf) → ¬ (a.isInf ∧ b.isZero) →
      fmaExact rm a b c = .nan (a.isSig || b.isSig || c.isSig)))
  )

/-- R161: rounding a value to an integer, by rounding code: nearest with ties to even (1), toward zero (2), up
(3), down (4), nearest with ties away from zero (5), a neighbour (6); inexact exactly where the value changed.
R161 to R163: rounding a value that a code of the format has gives that code back, under every rounding, and
raises nothing (FZO clear). Any other value of a binary format's or DM8's range is rounded to one of its neighbours by
the rounding code, and NX is set; beyond the largest finite value R162's overflow, with OF and NX; a tiny inexact
result sets UF (R163), and FZO flushes a subnormal one. (Of a stochastic rounding between the largest finite value and
the next step nothing is said: log 90.) -/
def Obligations.RoundingResults : Prop :=
  (
  ∀ (rnd : Rnd) (x : SFrac), 0 < x.mag.d →
    let i := (roundToInt rnd x).1
    ((roundToInt rnd x).2 = true ↔ (i : ℚ) ≠ x.val) ∧ (i = ⌊x.val⌋ ∨ i = ⌈x.val⌉) ∧
    (rnd.code = 1 → |(i : ℚ) - x.val| ≤ 1 / 2 ∧ (|(i : ℚ) - x.val| = 1 / 2 → Even i)) ∧
    (rnd.code = 2 → i = if 0 ≤ x.val then ⌊x.val⌋ else ⌈x.val⌉) ∧
    (rnd.code = 3 → i = ⌈x.val⌉) ∧ (rnd.code = 4 → i = ⌊x.val⌋) ∧
    (rnd.code = 5 → |(i : ℚ) - x.val| ≤ 1 / 2 ∧ (|(i : ℚ) - x.val| = 1 / 2 → |x.val| < |(i : ℚ)|))
  ) ∧
  (
  ∀ (f : BinFmt) (narrow : Bool) (rnd : Rnd) (c : Nat) (x : SFrac), f ∈ ieeeFormats → c < 2 ^ f.width →
    rnd.fzo = false → f.decode c = .num x → f.round narrow rnd x = ⟨c, 0⟩
  ) ∧
  (
  ∀ (f : BinFmt) (narrow : Bool) (rnd : Rnd) (x : SFrac), f ∈ ieeeFormats → 0 < x.mag.d → x.val ≠ 0 →
    rnd.fzo = false →
    let r := f.round narrow rnd x
    let v : ℝ := x.val
    let a := |v|
    let ulps (n : Nat) : ℝ := 1 - (2 : ℝ)⁻¹ ^ (f.fracBits + n)
    let top : ℝ := 2 ^ (f.bias + 1)
    let small : ℝ := 2 ^ (1 - (f.bias : Int))
    let nx := r.flags.getLsbD 12
    let uf := r.flags.getLsbD 11
    let isOver : Prop := top ≤ a ∨ ((rnd.code = 1 ∨ rnd.code = 5) ∧ top * ulps 2 ≤ a) ∨
      (rnd.code = 3 ∧ x.neg = false) ∨ (rnd.code = 4 ∧ x.neg = true)
    (∀ lo hi, neighbours f.isValue lo v hi → nx = true ∧ r.flags.getLsbD 10 = false ∧
      ∃ u, f.decode r.code = .num u ∧ picks rnd.code lo v hi u.val r.code) ∧
    (top * ulps 1 < a → (isOver →
        (infOnOverflow rnd narrow x.neg → r = ⟨f.withSign x.neg f.infCode, bitOF ||| bitNX⟩) ∧
        (¬ infOnOverflow rnd narrow x.neg → r = ⟨f.withSign x.neg (f.infCode - 1), bitOF ||| bitNX⟩)) ∧
      (¬ isOver → 1 ≤ rnd.code → rnd.code ≤ 5 → r = ⟨f.withSign x.neg (f.infCode - 1), bitNX⟩)) ∧
    (small ≤ a → uf = false) ∧ (a ≤ small * ulps 1 → uf = nx) ∧
    (small * ulps 1 < a → a < small →
      (rnd.code = 1 ∨ rnd.code = 5 → (uf = true ↔ a < small * ulps 2)) ∧ (rnd.code = 2 → uf = true) ∧
      (rnd.code = 3 → uf = x.neg) ∧ (rnd.code = 4 → uf = !x.neg)) ∧
    f.round narrow { rnd with fzo := true } x =
      if f.isSubnormal r.code then ⟨f.withSign x.neg 0, bitUF ||| bitNX⟩ else r
  ) ∧
  (
  ∀ (rnd : Rnd) (x : SFrac), 0 < x.mag.d → x.val ≠ 0 →
    let r := dm8Round rnd x
    let v : ℝ := x.val
    let sign (m : Nat) : Nat := if x.neg then 128 + m else m
    (∀ c u, c < 256 → dm8Decode c = .num u → u.val = x.val → r = ⟨c, 0⟩) ∧
    (100000 < |v| →
      (infOnOverflow rnd true x.neg → r = ⟨sign 127, bitOF ||| bitNX⟩) ∧
      (¬ infOnOverflow rnd true x.neg → 1 ≤ rnd.code → rnd.code ≤ 6 → r = ⟨sign 126, bitOF ||| bitNX⟩)) ∧
    (∀ lo hi, neighbours dm8Value lo v hi → r.flags.getLsbD 12 = true ∧ r.flags.getLsbD 10 = false ∧
      (r.flags.getLsbD 11 = true ↔ |v| < (10 : ℝ)⁻¹ ^ 6) ∧
      ∃ u, dm8Decode r.code = .num u ∧ picks rnd.code lo v hi u.val r.code)
  )

/-- R195, R196, R197: the minimum and maximum choose an operand by the order in which −0 < +0, and a number
before a NaN; FCMP compares by value, a NaN making only .ne and .un true; FCLASS sets the bit of the class of
the code. -/
def Obligations.FloatOrderAndClassResults : Prop :=
  ∀ (s : State) (g : Group) (r : Running) (q : RFields),
    let m := g.exec s.cur.mask q.neg q.pred
    let fzi := g.mode.getLsbD 3
    let t := s.ty g q.ty
    let f := floatFmt t
    let code (vec : Bool) (n : BitVec 11) (l j : Nat) : Nat :=
      f.flushIn fzi (elemOf f.width (g.opVal vec false n.toNat l) j)
    let choice (i : Instr) (better : FVal → FVal → Prop) : Prop := s.issues i g r →
      ∃ res : Nat → Nat → Res,
        exec i s = .next (s.issueVec m false q.dst.toNat 4 (fun l => packRes (floatElems t) f.width (res l))) ∧
        ∀ l j, let ca := code (aVec q.form) q.a l j
          let cb := code (bVec q.form) q.b l j
          let a := f.decode ca
          let b := f.decode cb
          (res l j).flags = (if a.isSig || b.isSig then bitNV else 0) ∧
          (a.isNan → b.isNan → (res l j).code = f.nanCode) ∧
          (a.isNan → ¬ b.isNan → (res l j).code = cb) ∧ (¬ a.isNan → b.isNan → (res l j).code = ca) ∧
          (¬ a.isNan → ¬ b.isNan → (better b a → (res l j).code = cb) ∧ (¬ better b a → (res l j).code = ca))
    let below (a b : FVal) : Prop := a.rank < b.rank ∨ (a.rank = b.rank ∧ a.neg = true ∧ b.neg = false)
    let val (vec : Bool) (n : BitVec 11) (l : Nat) : FVal :=
      fmtF32.decode (fmtF32.flushIn fzi (g.opVal vec false n.toNat l))
    choice (.fmin q) below ∧ choice (.fmax q) (fun a b => below b a) ∧
    (s.issues (.fcmp q) g r → ∃ res : Nat → Bool,
      exec (.fcmp q) s = .next (s.issuePred q.dst.toNat 4 m (maskOf (fun l => m.getLsbD l && res l))
        (stickyOf m (fun l => if (val (aVec q.form) q.a l).isSig || (val (bVec q.form) q.b l).isSig then bitNV
          else 0))) ∧
      ∀ l, let a := val (aVec q.form) q.a l
        let b := val (bVec q.form) q.b l
        let nan := a.isNan ∨ b.isNan
        (q.mod = 0 → (res l ↔ ¬ nan ∧ a.rank = b.rank)) ∧ (q.mod = 1 → (res l ↔ nan ∨ a.rank ≠ b.rank)) ∧
        (q.mod = 2 → (res l ↔ ¬ nan ∧ a.rank < b.rank)) ∧ (q.mod = 3 → (res l ↔ ¬ nan ∧ a.rank ≤ b.rank)) ∧
        (q.mod = 4 → (res l ↔ ¬ nan ∧ a.rank > b.rank)) ∧ (q.mod = 5 → (res l ↔ ¬ nan ∧ a.rank ≥ b.rank)) ∧
        (q.mod = 6 → (res l ↔ nan))) ∧
    (s.issues (.fclass q) g r → ∃ bit : Nat → Nat,
      exec (.fclass q) s = .next (s.issueVec m false q.dst.toNat 4 (fun l => (2 ^ bit l, 0))) ∧
      ∀ l, let c := g.vecVal false q.a.toNat l
        let mag := c % 2 ^ 31
        let neg := 2 ^ 31 ≤ c
        bit l = if mag = 0 then (if neg then 3 else 4)
          else if mag < 0x00800000 then (if neg then 2 else 5)
          else if mag < 0x7F800000 then (if neg then 1 else 6)
          else if mag = 0x7F800000 then (if neg then 0 else 7)
          else if mag < 0x7FC00000 then 8 else 9)

/-- R198, R199: the seven special functions write one f32 per lane of exec at latency 8, and the special inputs
give the results of the table. FRCP of another number is 1/a rounded once (the model's choice for a subnormal above
2^-128 in magnitude, which R199 lets overflow: log 87), FSQRT the root rounded once, exact where it is a number of the
format; FRSQ is within 1 ulp of 1/√a, and exact for a power of 4 alone (R199's table is followed where its closing
sentences differ: log 106). -/
def Obligations.SpecialFunctionResults : Prop :=
  ∀ (s : State) (g : Group) (r : Running) (q : RFields),
    let m := g.exec s.cur.mask q.neg q.pred
    let fzi := g.mode.getLsbD 3
    let nan (nv : Bool) : Res := ⟨0x7FC00000, if nv then bitNV else 0⟩
    -- what a function returns for −∞, +∞, −0, +0 and for a finite number below zero
    let meaning (i : Instr) (minf pinf mzero pzero : Res) (below : Option Res)
        (more : Nat → SFrac → Res → Prop) : Prop := s.issues i g r →
      ∃ f : Nat → Res,
        exec i s = .next (s.issueVec m false q.dst.toNat 8 (fun l => ((f l).code, (f l).flags))) ∧
        ∀ l, let v := fmtF32.decode (fmtF32.flushIn fzi (g.vecVal false q.a.toNat l))
          (∀ sg, v = .nan sg → f l = nan sg) ∧
          (v = .inf true → f l = minf) ∧ (v = .inf false → f l = pinf) ∧
          (∀ x, v = .num x → x.val = 0 → f l = if x.neg then mzero else pzero) ∧
          (∀ x, v = .num x → x.val < 0 → ∀ y, below = some y → f l = y) ∧
          (∀ x, v = .num x → x.val ≠ 0 → more l x (f l))
    let free (_ : Nat) (_ : SFrac) (_ : Res) : Prop := True
    let zero (n : Bool) : Res := ⟨if n then 0x80000000 else 0, 0⟩
    let inf (n : Bool) (fl : BitVec 16) : Res := ⟨if n then 0xFF800000 else 0x7F800000, fl⟩
    let one : Res := ⟨0x3F800000, 0⟩
    let root (l : Nat) (x : SFrac) (y : Res) : Prop := 0 < x.val →
      let v := Real.sqrt x.val
      (∀ c u, c < 2 ^ 31 → fmtF32.decode c = .num u → (u.val : ℝ) = v → y = ⟨c, 0⟩) ∧
      ∀ lo hi, neighbours fmtF32.isValue lo v hi → y.flags = bitNX ∧
        ∃ u, fmtF32.decode y.code = .num u ∧ picks (g.rnd q.mod l 0).code lo v hi u.val y.code
    let nearRoot (_ : Nat) (x : SFrac) (y : Res) : Prop := 0 < x.val →
      let v := 1 / Real.sqrt x.val
      ∃ u, fmtF32.decode y.code = .num u ∧ |(u.val : ℝ) - v| < ulp v ∧
        ((∃ n : Int, x.val = 4 ^ n) → (u.val : ℝ) = v ∧ y.flags = 0) ∧
        ((¬ ∃ n : Int, x.val = 4 ^ n) → y.flags = bitNX)
    meaning (.frcp q) (zero true) (zero false) (inf true bitDZ) (inf false bitDZ) none
      (fun l x y => ∃ z : SFrac, 0 < z.mag.d ∧ z.val = 1 / x.val ∧ y = fmtF32.round false (g.rnd q.mod l 0) z) ∧
    meaning (.frsq q) (nan true) (zero false) (inf true bitDZ) (inf false bitDZ) (some (nan true)) nearRoot ∧
    meaning (.fsqrt q) (nan true) (inf false 0) (zero true) (zero false) (some (nan true)) root ∧
    meaning (.fexp2 q) (zero false) (inf false 0) one one none free ∧
    meaning (.flog2 q) (nan true) (inf false 0) (inf true bitDZ) (inf true bitDZ) (some (nan true)) free ∧
    meaning (.fsin q) (nan true) (nan true) (zero true) (zero false) none free ∧
    meaning (.fcos q) (nan true) (nan true) one one none free

/-- R198, R199: FEXP2, FLOG2, FSIN and FCOS of a finite number other than zero are within the bounds of R198 of the true
value, a subnormal result flushed under FZO (R163), and set NX; FEXP2 of an integer from −149 to 127 and FLOG2 of a
power of 2 are exact. FEXP2 of 128 or more overflows to +∞ (R199; the model's choice of the direction: log 88). -/
def Obligations.SpecialFunctionBounds : Prop :=
  ∀ (s : State) (g : Group) (r : Running) (q : RFields),
    let fzo := g.mode.getLsbD 4
    let meaning (i : Instr) (more : SFrac → Res → Prop) : Prop := s.issues i g r →
      ∃ f : Nat → Res,
        exec i s = .next (s.issueVec (g.exec s.cur.mask q.neg q.pred) false q.dst.toNat 8
          (fun l => ((f l).code, (f l).flags))) ∧
        ∀ l x, fmtF32.decode (fmtF32.flushIn (g.mode.getLsbD 3) (g.vecVal false q.a.toNat l)) = .num x → x.val ≠ 0 →
          more x (f l)
    -- a value within e of v, with NX, or the zero that FZO makes of it
    let near (v e : ℝ) (y : Res) : Prop := ∃ c u, c < 2 ^ 32 ∧ fmtF32.decode c = .num u ∧ |(u.val : ℝ) - v| ≤ e ∧
      y.flags.getLsbD 12 = true ∧
      (fzo = false ∨ fmtF32.isSubnormal c = false → y.code = c) ∧
      (fzo = true → fmtF32.isSubnormal c = true →
        y.code = fmtF32.withSign (decide (2 ^ 31 ≤ c)) 0 ∧ y.flags.getLsbD 11 = true)
    meaning (.fexp2 q) (fun x y =>
      let v : ℝ := 2 ^ (x.val : ℝ)
      let int : Prop := ∃ n : Int, x.val = n ∧ -149 ≤ n
      (128 ≤ x.val → y = ⟨0x7F800000, bitOF ||| bitNX⟩) ∧
      (x.val < 128 → int → -126 ≤ x.val ∨ fzo = false →
        y.flags = 0 ∧ ∃ u, fmtF32.decode y.code = .num u ∧ (u.val : ℝ) = v) ∧
      (x.val < -126 → int → fzo = true → y = ⟨0, bitUF ||| bitNX⟩) ∧
      (x.val < 128 → ¬ int → near v (2 * ulp v) y)) ∧
    meaning (.flog2 q) (fun x y => 0 < x.val →
      let v : ℝ := Real.logb 2 x.val
      ((∃ n : Int, x.val = 2 ^ n) → y.flags = 0 ∧ ∃ u, fmtF32.decode y.code = .num u ∧ (u.val : ℝ) = v) ∧
      ((¬ ∃ n : Int, x.val = 2 ^ n) →
        near v (if 1 / 2 ≤ x.val ∧ x.val ≤ 2 then (2 : ℝ)⁻¹ ^ 22 else 2 * ulp v) y)) ∧
    meaning (.fsin q) (fun x y => near (Real.sin x.val) ((2 : ℝ)⁻¹ ^ 21) y) ∧
    meaning (.fcos q) (fun x y => near (Real.cos x.val) ((2 : ℝ)⁻¹ ^ 21) y)

/-- R200 to R202, R167: CVT, PACK, UNPACK, CVTFX and CVTXF write their elements, each rounded once under RND, at
latency 8. R200, R201, R162, R167: what a conversion of one element gives. Between integers it saturates with
OF; a float to an integer is rounded and saturates with NV, NaN giving 0; an i4 takes −7 to 7; a number to a
float format is rounded. -/
def Obligations.ConversionResults : Prop :=
  (
  ∀ (s : State) (g : Group) (r : Running) (q : RFields),
    let m := g.exec s.cur.mask q.neg q.pred
    let t := s.ty g q.ty
    let a (w : Bool) (l : Nat) : Nat := g.vecVal w q.a.toNat l
    let elems : Nat := if t = 9 then 8 else if t = 7 ∨ t = 8 then 4 else 2
    let wideTy : Nat := if t = 8 ∨ t = 9 then 0 else 4
    (s.issues (.cvt q) g r →
      let dst := q.b.toNat % 16
      exec (.cvt q) s = .next (s.issueVec m (wide dst) q.dst.toNat 8 (fun l =>
        packRes (if t ≤ 4 then 1 else 32 / elemBits t) (elemBits dst) (fun j =>
          convElem (g.rnd q.mod l j) t dst (elemOf (elemBits t) (a (wide t) l) j))))) ∧
    (s.issues (.pack q) g r →
      exec (.pack q) s = .next (s.issueVec m false q.dst.toNat 8 (fun l =>
        packRes elems (elemBits t) (fun j =>
          convElem (g.rnd q.mod l j) wideTy t (g.vecVal false (q.a.toNat + j) l))))) ∧
    (s.issues (.unpack q) g r →
      let x (l j : Nat) : Res := convElem (g.rnd q.mod l j) t wideTy (elemOf (elemBits t) (a false l) j)
      exec (.unpack q) s = .next (s.pendResult 8
        ((List.range elems).flatMap (fun j => vecUpd false (q.dst.toNat + j) m (fun l => (x l j).code)))
        (stickyOf m (fun l => (List.range elems).foldl (fun y j => y ||| (x l j).flags) 0))).advance) ∧
    (s.issues (.cvtfx q) g r → ∃ f : Nat → Res,
      exec (.cvtfx q) s = .next (s.issueVec m (wide t) q.dst.toNat 8 (fun l => ((f l).code, (f l).flags))) ∧
      ∀ l, let v := fmtF32.decode (fmtF32.flushIn (g.mode.getLsbD 3) (a false l))
        let n := elemBits t
        (∀ sg, v = .nan sg → f l = ⟨0, bitNV⟩) ∧
        (v = .inf true → f l = ⟨2 ^ (n - 1), bitNV⟩) ∧ (v = .inf false → f l = ⟨2 ^ (n - 1) - 1, bitNV⟩) ∧
        (∀ x, v = .num x → ∃ z : SFrac, 0 < z.mag.d ∧ z.val = x.val * 2 ^ (q.b.toNat % 64) ∧
          f l = roundIntSat (g.rnd q.mod l 0) true n bitNV z)) ∧
    (s.issues (.cvtxf q) g r → ∃ f : Nat → Res,
      exec (.cvtxf q) s = .next (s.issueVec m false q.dst.toNat 8 (fun l => ((f l).code, (f l).flags))) ∧
      ∀ l, ∃ z : SFrac, 0 < z.mag.d ∧ z.val = (sgn (elemBits t) (a (wide t) l) : ℚ) / 2 ^ (q.b.toNat % 64) ∧
        f l = fmtF32.round false (g.rnd q.mod l 0) z)
  ) ∧
  (
  ∀ (rnd : Rnd) (src dst c : Nat),
    let clamp (sg : Bool) (n : Nat) (x : Int) : Res :=
      let lo : Int := if sg then -2 ^ (n - 1) else 0
      let hi : Int := if sg then 2 ^ (n - 1) - 1 else 2 ^ n - 1
      ⟨(min (max x lo) hi % 2 ^ n).toNat, if x < lo ∨ hi < x then bitOF else 0⟩
    (src < 4 → dst < 4 → convElem rnd src dst c =
      clamp (signedTy dst) (elemBits dst) (valOf (signedTy src) (elemBits src) c)) ∧
    (convElem rnd 0 8 c = clamp true 8 (sgn 32 c)) ∧
    (convElem rnd 8 0 c = ⟨(sgn 8 c % 2 ^ 32).toNat, 0⟩) ∧
    (c < 16 → convElem rnd 9 0 c =
      ⟨((if c = 8 then 0 else sgn 4 c) % 2 ^ 32).toNat, if c = 8 then bitRESV else 0⟩) ∧
    (convElem rnd 0 9 c = ⟨(min (max (sgn 32 c) (-7)) 7 % 16).toNat,
      if sgn 32 c < -7 ∨ 7 < sgn 32 c then bitOF else 0⟩) ∧
    (src < 4 → convElem rnd src 4 c =
      fmtF32.round false rnd (SFrac.ofInt (valOf (signedTy src) (elemBits src) c))) ∧
    (∀ v, v = fmtF32.decode (fmtF32.flushIn rnd.fzi c) →
      (dst < 4 →
        (∀ x, v = .num x → convElem rnd 4 dst c = roundIntSat rnd (signedTy dst) (elemBits dst) bitNV x) ∧
        (∀ sg, v = .nan sg → convElem rnd 4 dst c = ⟨0, bitNV⟩)) ∧
      (∀ sg, v = .nan sg → (convElem rnd 4 5 c = ⟨0x7FC0, if sg then bitNV else 0⟩ ∧
        convElem rnd 4 6 c = ⟨0x7E00, if sg then bitNV else 0⟩ ∧
        convElem rnd 4 7 c = ⟨0x80, if sg then bitNV else 0⟩)) ∧
      (∀ x, v = .num x → (convElem rnd 4 5 c = fmtBF16.round true rnd x ∧
        convElem rnd 4 6 c = fmtF16.round true rnd x ∧ convElem rnd 4 7 c = dm8Round rnd x)))
  )

/-- R203, R204, R206 to R208: SHFL, VBAL, VBCAST and VMATCH read the lanes of exec only. -/
def Obligations.CrossLaneResults : Prop :=
  ∀ (s : State) (g : Group) (r : Running) (q : RFields),
    let m := g.exec s.cur.mask q.neg q.pred
    let t := s.ty g q.ty
    let w := wide t
    let a (l : Nat) : Nat := g.vecVal w q.a.toNat l
    let there (j : Int) : Prop := 0 ≤ j ∧ j ≤ 63 ∧ m.getLsbD j.toNat = true
    (s.issues (.shfl q) g r → ∃ f : Nat → Nat,
      exec (.shfl q) s = .next (s.issueVec m w q.dst.toNat 8 (fun l => (f l, 0))) ∧
      ∀ i, let n := g.opVal (bVec q.form) false q.b.toNat i
        let j : Int := match q.mod.toNat with
          | 0 => n
          | 1 => (i : Int) - n
          | 2 => (i : Int) + n
          | _ => ((Nat.xor i n : Nat) : Int)
        (there j → f i = a j.toNat) ∧ (¬ there j → f i = a i)) ∧
    (s.issues (.vbal q) g r → ∃ b : Mask,
      (∀ i < 64, b.getLsbD i = true ↔ m.getLsbD i = true ∧ a i ≠ 0) ∧
      exec (.vbal q) s = .next (if q.mod = 0 then s.issuePred q.dst.toNat 8 allLanes b []
        else s.issueSca q.dst.toNat 8 b 0)) ∧
    (s.issues (.vbcast q) g r → ∃ v j : Nat,
      (if q.form = .f00 then m ≠ 0 → (m.getLsbD j = true ∧ ∀ i < j, m.getLsbD i = false)
       else j = (g.sreg q.b.toNat).toNat % 2 ^ 32) ∧
      (m ≠ 0 → (there j → v = a j) ∧ (¬ there j → v = 0)) ∧
      exec (.vbcast q) s = .next (
        if q.mod = 0 then s.issueVec m w q.dst.toNat 8 (fun _ => (v, 0))
        else if m = 0 then s.advance
        else s.issueSca q.dst.toNat 8 (scalarOf (signedTy t) w v) 0)) ∧
    (s.issues (.vmatch q) g r → ∃ b : Nat → Mask,
      (∀ i k, k < 64 → ((b i).getLsbD k = true ↔ m.getLsbD k = true ∧ a k = a i)) ∧
      exec (.vmatch q) s = .next (s.issueVec m true q.dst.toNat 8 (fun i => ((b i).toNat, 0))))

/-- R205: VRED combines the lanes of exec in ascending order into a scalar (nothing is written for no lane);
VSCAN writes to each lane the combination of the lanes of exec up to it, or before it (the identity where there
is none). R205, R177, R195: the operations of VRED and VSCAN on two values: for the integer types the sum modulo
2^W, the lesser, the greater and the bitwise functions; an f32 sum is rounded to nearest whatever MODE.RM holds. -/
def Obligations.ReductionResults : Prop :=
  (
  ∀ (s : State) (g : Group) (r : Running) (q : RFields),
    let m := g.exec s.cur.mask q.neg q.pred
    let t := s.ty g q.ty
    let w := wide t
    let op := q.mod.toNat
    let a (l : Nat) : Nat := g.vecVal w q.a.toNat l
    let upTo (n : Nat) : Option (Nat × BitVec 16) :=
      combineLanes g.mode op t a ((List.range n).filter (fun i => m.getLsbD i))
    let identity : Nat :=
      if op = 1 then (if t = 4 then 0x7F800000 else if signedTy t then 2 ^ (elemBits t - 1) - 1 else 2 ^ elemBits t - 1)
      else if op = 2 then (if t = 4 then 0xFF800000 else if signedTy t then 2 ^ (elemBits t - 1) else 0)
      else if op = 3 then 2 ^ elemBits t - 1 else 0
    (s.issues (.vred q) g r →
      (upTo 64 = none → exec (.vred q) s = .next s.advance) ∧
      ∀ v fl, upTo 64 = some (v, fl) →
        exec (.vred q) s = .next (s.issueSca q.dst.toNat 8 (scalarOf (signedTy t) w v) fl)) ∧
    (s.issues (.vscan q) g r → ∃ f : Nat → Nat,
      (∀ k < 64, m.getLsbD k = true → f k =
        if q.c.getLsbD 0 then ((upTo k).map Prod.fst).getD identity else ((upTo (k + 1)).map Prod.fst).getD 0) ∧
      ∃ fl, fl = ((upTo 64).map Prod.snd).getD 0 ∧
        exec (.vscan q) s = .next (s.pendResult 8 (vecUpd w q.dst.toNat m f)
          (if fl = 0 then [] else [(0, fl)])).advance)
  ) ∧
  (
  ∀ (mode : BitVec 16) (t x y : Nat),
    let W := elemBits t
    let val (z : Nat) : Int := valOf (signedTy t) W z
    (t ≠ 4 → redCombine mode 0 t x y = ⟨(x + y) % 2 ^ W, 0⟩) ∧
    (t ≠ 4 → redCombine mode 1 t x y = ⟨if val x ≤ val y then x else y, 0⟩) ∧
    (t ≠ 4 → redCombine mode 2 t x y = ⟨if val x ≥ val y then x else y, 0⟩) ∧
    (∀ j, (redCombine mode 3 t x y).code.testBit j = (x.testBit j && y.testBit j)) ∧
    (∀ j, (redCombine mode 4 t x y).code.testBit j = (x.testBit j || y.testBit j)) ∧
    (∀ j, (redCombine mode 5 t x y).code.testBit j = (x.testBit j ^^ y.testBit j)) ∧
    (∀ rm : Nat, redCombine mode 0 4 x y = redCombine (setFld mode 2 0 rm) 0 4 x y) ∧
    (∀ u v, mode.getLsbD 3 = false → fmtF32.decode x = .num u → fmtF32.decode y = .num v →
      0 < u.mag.d → 0 < v.mag.d → u.val + v.val ≠ 0 → ∃ z : SFrac, z.val = u.val + v.val ∧
        redCombine mode 0 4 x y = fmtF32.round false ⟨1, 0, false, mode.getLsbD 4, mode.getLsbD 5⟩ z)
  )

/-! ### Steps, issue, control flow -/

/-- R48, R55, R104: a step whose next move is the issue of slot k's clause runs the meaning of the instruction
that the clause's word at its index decodes to, in the table of its class; a word without a meaning traps as
illegal. Log 5, log 16: the instruction laid before the machine by `withFetchWord` is the one that `decodeTableWord`
reads, and the next step runs it, in a group with all 64 lanes live. (Classes 0 to 4; a matrix word runs in a
stream instance.) -/
def Obligations.StepRunsTheDecodedInstruction : Prop :=
  (∀ (s : State) (w : Nat) (i : Instr) (c : Sys2Proof.Class), decodeTableWord 128 w = some i → i.cls = some c → c ≠ .matrix →
    ∃ t g r, step (s.withFetchWord 128 w) = exec i t ∧ t.group? t.cur.gid = some g ∧
      (g.slot t.cur.slot).running = some r ∧ t.cur.mask = allLanes ∧ t.mem = s.mem) ∧
  ∀ (s : State) (gid k : Nat) (rest : List Move), s.agenda = .issue gid k :: rest →
    let s0 : State := { s with agenda := rest }
    (∀ t i, s0.issueNext gid k = some (t, some i) → step s = exec i t) ∧
    (∀ t, s0.issueNext gid k = some (t, none) → step s = .next t.illegal) ∧
    (∀ t o, s0.issueNext gid k = some (t, o) → ∃ g r w, s0.group? gid = some g ∧ (g.slot k).running = some r ∧
      r.clause.words[r.idx]? = some w ∧ r.readyAt ≤ s.cycle ∧
      o = (classOf (decodeHeader r.clause.header).cls).bind (fun c => decode c w) ∧
      t = { s0 with portAt := t.portAt
                    cur := { gid := gid, slot := k, addr := r.clause.addr + BitVec.ofNat 64 (8 * (r.idx + 1)),
                             word := w, mask := (g.slot k).mask, idx := r.idx, header := r.clause.header,
                             clauseAt := r.clause.addr } })

/-- R55, R101, R135: an instruction that has issued retires (DIX and LCLK rise by 1 outside a speculative half)
and its clause goes on at its next instruction or frees its clause slot; with its results queued (R56), every
register of the group and of every other group, and all the rest of the machine, is as before. A flag may change
only if it is the flag of a counted clause (R52). -/
def Obligations.IssueLeavesRegistersAndMemory : Prop :=
  ∀ (s : State) (g : Group) (r : Running) (lat : Nat) (upds : List RegUpd) (bits : List (Nat × BitVec 16)),
    s.group? s.cur.gid = some g → (g.slot s.cur.slot).running = some r → r.replay = false →
    let t := (s.pendResult lat upds bits).advance
    t = { s with groups := t.groups, slotFree := t.slotFree, nextId := s.nextId + 1 } ∧
    (∀ n, n ≠ s.cur.gid → t.group? n = s.group? n) ∧
    ∃ h : Group, t.group? s.cur.gid = some h ∧
      h.vregs = g.vregs ∧ h.written = g.written ∧ h.sregs = g.sregs ∧ h.supS = g.supS ∧ h.preds = g.preds ∧
      h.supP7 = g.supP7 ∧ h.mode = g.mode ∧ h.faddr = g.faddr ∧ h.xmask = g.xmask ∧ h.tr = g.tr ∧
      h.ops = g.ops ∧ h.spill = g.spill ∧ h.supervisor = g.supervisor ∧ h.trapReq = g.trapReq ∧
      (∀ f, (∀ c ∈ g.counts, c.flag ≠ f) → h.flag f = g.flag f) ∧
      ((g.half? s.cur.slot).isNone → h.dix = g.dix + 1 ∧ h.lclk = g.lclk + 1) ∧
      (r.idx + 1 < r.count → ∃ r', (h.slot s.cur.slot).running = some r' ∧ r'.idx = r.idx + 1 ∧
        r'.readyAt = s.cycle + (decodeHeader r.clause.header).distance (r.idx + 1)) ∧
      (r.count ≤ r.idx + 1 → (h.slot s.cur.slot).running = none ∧
        tget 0 t.slotFree (g.part * 2 + r.cslot) = s.cycle + 1) ∧
      ∃ p, h.results = g.results ++ [p] ∧ p.due = s.cycle + lat ∧ p.issueAt = s.cycle ∧ p.upds = upds ∧
        p.sticky = bits ∧ p.sup = g.supervisor

/-- R126: NOP. Its one word is 0xFF80_0000_0000_0000, in an ALU and in a SYS clause; any other word of its
opcode has no meaning, and such a word traps as illegal; the instruction leaves the registers, modes, flags of
uncounted clauses, memory and caches as they are, and DIX and LCLK rise by 1. -/
def Obligations.NopChangesOnlyTheCounts : Prop :=
  encode .nop = some 0xFF80000000000000 ∧
  (∀ w : Word64, (opOf w).toNat = 0x7F → ∀ c ∈ [Sys2Proof.Class.alu, .sys],
    decode c w = if w = 0xFF80000000000000 then some .nop else none) ∧
  (∀ (s : State) (gid k : Nat) (rest : List Move) (t : State), s.agenda = .issue gid k :: rest →
    State.issueNext { s with agenda := rest } gid k = some (t, none) → step s = .next t.illegal) ∧
  ∀ (s : State) (g : Group) (r : Running), s.issues .nop g r → r.replay = false → (g.half? s.cur.slot).isNone →
    let t := s.advance
    exec .nop s = .next t ∧ t = { s with groups := t.groups, slotFree := t.slotFree } ∧
    (∀ n, n ≠ s.cur.gid → t.group? n = s.group? n) ∧
    ∃ h : Group, t.group? s.cur.gid = some h ∧ h.dix = g.dix + 1 ∧ h.lclk = g.lclk + 1 ∧
      h.vregs = g.vregs ∧ h.written = g.written ∧ h.sregs = g.sregs ∧ h.supS = g.supS ∧ h.preds = g.preds ∧
      h.supP7 = g.supP7 ∧ h.mode = g.mode ∧ h.faddr = g.faddr ∧ h.xmask = g.xmask ∧ h.tr = g.tr ∧ h.ops = g.ops ∧
      h.results = g.results ∧ h.spill = g.spill ∧ h.supervisor = g.supervisor ∧ h.trapReq = g.trapReq ∧
      (∀ f, (∀ c ∈ g.counts, c.flag ≠ f) → h.flag f = g.flag f)

/-- R113, R124: LPAD only advances; so does YIELD, and where it stands in the clause whose last instruction
issues in user mode, the group goes behind the yield bar. R125: EXIT adds exec to XMASK and takes its lanes from
the slot, which goes on at the next clause or empties; the registers, the other slot and memory stay. -/
def Obligations.LpadYieldAndExit : Prop :=
  (
  ∀ (s : State) (g : Group) (r : Running),
    (∀ x, s.issues (.lpad x) g r → exec (.lpad x) s = .next s.advance) ∧
    (s.issues .yield g r → exec .yield s = .next s.advance ∧
      (clauseHasYield r = true → r.replay = false → r.idx + 1 = r.count → g.supervisor = false →
        ∃ h, s.advance.group? s.cur.gid = some h ∧ h.yieldAt = some s.cycle))
  ) ∧
  (
  ∀ (s : State) (g : Group) (r : Running) (b : BFields), s.issues (.exit b) g r → r.replay = false →
    let k := s.cur.slot
    let e := g.exec s.cur.mask b.neg b.pred
    let left := (g.slot k).mask &&& ~~~e
    ∃ t h, exec (.exit b) s = .next t ∧ t.group? s.cur.gid = some h ∧ h.xmask = g.xmask ||| e ∧
      (left = 0 → (h.slot k).mask = 0) ∧
      (left ≠ 0 → s.cur.addr + 8 ≠ (g.slot k).join →
        (h.slot k).mask = left ∧ (h.slot k).pc = s.cur.addr + 8 ∧ (h.slot k).join = (g.slot k).join) ∧
      (h.slot (1 - k)).mask = (g.slot (1 - k)).mask ∧ (h.slot (1 - k)).pc = (g.slot (1 - k)).pc ∧
      h.vregs = g.vregs ∧ h.sregs = g.sregs ∧ h.preds = g.preds ∧ h.mode = g.mode ∧ h.spill = g.spill ∧
      t.mem = s.mem ∧ t.cache = s.cache
  )

/-- R118 to R122: BRA, CALL, BRX, CALLX and RET end their clause and leave the slot with a transfer to resolve,
whose taken lanes, target, join and cycle the rules give; a BRA that the predictor guesses (R131) splits the
slot into speculative halves at once. -/
def Obligations.TransfersIssue : Prop :=
  ∀ (s : State) (g : Group) (r : Running),
    let S := g.slot s.cur.slot
    let at_ := s.cur.addr
    let to_ (off : BitVec 24) : Word64 := at_ + BitVec.ofInt 64 (8 * off.toInt)
    let tr (kind : TransferKind) (T : Mask) (t J : Word64) (delay : Nat) : Transfer :=
      { kind := kind, taken := T, target := t, fall := at_ + 8, join := J, clauseAt := s.cur.clauseAt,
        wordAt := at_, idx := s.cur.idx, issueAt := s.cycle, readyAt := s.cycle + delay }
    -- the lanes of the slot whose target is that of its lowest lane
    let select (vec : Bool) (treg : BitVec 11) (T : Mask) (t : Word64) : Prop :=
      if vec then
        let at_ (i : Nat) : Word64 := BitVec.ofNat 64 (g.vecVal true treg.toNat i)
        (S.mask ≠ 0 → ∃ a, S.mask.getLsbD a = true ∧ (∀ i < a, S.mask.getLsbD i = false) ∧ t = at_ a) ∧
          ∀ i < 64, T.getLsbD i = true ↔ S.mask.getLsbD i = true ∧ at_ i = t
      else T = S.mask ∧ t = g.sreg treg.toNat
    (∀ b, s.issues (.bra b) g r → ∃ T : Mask,
      let e := g.exec s.cur.mask b.neg b.pred
      (b.kind = 0 → T = e) ∧ (b.kind = 1 → T = if e ≠ 0 then S.mask else 0) ∧
      (b.kind = 2 → T = if e = S.mask then S.mask else 0) ∧
      (s.predicts g b = none → exec (.bra b) s = .next (s.issueTransfer true
        { tr .bra T (to_ b.toff) (to_ b.joff) (if b.pred = 0 then 0 else 7) with
          looked := decide (b.kind = 0) && decide (b.pred ≠ 0) })) ∧
      (∀ m, s.predicts g b = some m → exec (.bra b) s = .next ((s.advanceWith false true).modGroup s.cur.gid
        (fun g => g.speculate s.cur.slot m T (to_ b.toff) (at_ + 8) (to_ b.joff) at_ s.cur.clauseAt s.cur.idx
          s.cycle)))) ∧
    (∀ b, s.issues (.call b) g r → exec (.call b) s = .next (s.issueTransfer false
      (tr .call (g.exec s.cur.mask b.neg b.pred) (to_ b.toff) (at_ + 8) (if b.pred = 0 then 0 else 7)))) ∧
    (∀ x, s.issues (.brx x) g r → ∃ T t, select (decide (x.form = .f00)) x.treg T t ∧
      exec (.brx x) s = .next (s.issueTransfer true
        { tr .brx T t (if x.form = .f00 then to_ x.joff else S.join) (if x.form = .f00 then 7 else 1) with
          tag := x.tag })) ∧
    (∀ x, s.issues (.callx x) g r → ∃ T t, select (decide (x.form = .f00)) x.treg T t ∧
      exec (.callx x) s = .next (s.issueTransfer false
        { tr .callx T t (if x.form = .f00 then to_ x.joff else S.join) (if x.form = .f00 then 7 else 1) with
          tag := x.tag })) ∧
    (∀ x, s.issues (.ret x) g r → ∃ T t, select true x.treg T t ∧
      exec (.ret x) s = .next (s.issueTransfer true (tr .ret T t S.join 7)))

/-! ### Special registers and traps -/

/-- R127, R129, R164: SETFMT replaces the slot's FMT; SETMODE writes the selected bits of MODE, SWR all of FMT,
MODE or a prediction counter; the reserved bits of MODE read zero, and an RM of 000 or 111 is stored as 001. A bit so
written is no longer one that a half under replay has raised of its own (R165).
R128, R129, R143, R145: SRD writes the special register its number names (a vector for LANEID and FADDR), CSRR
the trap or context register. R143 to R145: CSRW writes the RW fields of EPC, ESTATE, EMASK, EJOIN, EFMT and
EMODE, and ignores its write to the registers that software only reads. -/
def Obligations.SpecialRegisters : Prop :=
  (
  ∀ (s : State) (g : Group) (r : Running),
    let k := s.cur.slot
    let out (h : Group) : Host.Outcome State Fault Refusal := .next (s.setGroup s.cur.gid h).advance
    -- what MODE holds after a write that asks for `x`
    let stored (x v : BitVec 16) : Prop :=
      (∀ i < 16, 3 ≤ i → v.getLsbD i = (x.getLsbD i && !decide (i ∈ [6, 7, 14, 15]))) ∧
      v.toNat % 8 = if x.toNat % 8 = 0 ∨ x.toNat % 8 = 7 then 1 else x.toNat % 8
    (∀ x, s.issues (.setfmt x) g r → exec (.setfmt x) s = out (g.setSlot k { g.slot k with fmt := x.imm })) ∧
    (∀ x, s.issues (.setmode x) g r → ∃ w v : BitVec 16, stored w v ∧
      (∀ i < 16, w.getLsbD i = if x.imm.getLsbD (16 + i) then x.imm.getLsbD i else g.mode.getLsbD i) ∧
      exec (.setmode x) s = out ((g.settleBits (x.imm.extractLsb' 16 16)).setMode v)) ∧
    (∀ q, s.issues (.swr q) g r →
      let x := g.sreg q.a.toNat
      (q.dst = 6 → exec (.swr q) s = out (g.setSlot k { g.slot k with fmt := x.setWidth 32 })) ∧
      (q.dst = 7 → ∃ v, stored (x.setWidth 16) v ∧ exec (.swr q) s = out ((g.settleBits 0xFFFF).setMode v)) ∧
      (q.dst = 14 → exec (.swr q) s = out { g with mphit := x.setWidth 48 }) ∧
      (q.dst = 15 → exec (.swr q) s = out { g with mpmiss := x.setWidth 48 }) ∧
      (q.dst = 16 → exec (.swr q) s = out { g with mpreplay := x.setWidth 48 })) ∧
    -- only a half under replay keeps bits of its own, and these are its own no longer
    (g.slot0.redo = none → g.slot1.redo = none → ∀ w v, (g.settleBits w).setMode v = { g with mode := v }) ∧
    (∀ w v j d, (g.slot j).redo = some d → ∃ d', (((g.settleBits w).setMode v).slot j).redo = some d' ∧
      d'.raised = d.raised &&& ~~~w)
  ) ∧
  (
  ∀ (s : State) (g : Group) (r : Running),
    (∀ q, s.issues (.srd q) g r →
      let m := g.exec s.cur.mask q.neg q.pred
      let sca (x : Word64) : Host.Outcome State Fault Refusal := .next (s.issueSca q.dst.toNat 2 x 0)
      (q.a = 0 → exec (.srd q) s = .next (s.issueVec m false q.dst.toNat 4 (fun i => (i, 0)))) ∧
      (q.a = 11 → exec (.srd q) s = .next (s.issueVec m true q.dst.toNat 4
        (fun i => ((tget 0 g.faddr i).toNat, 0)))) ∧
      (q.a = 1 → exec (.srd q) s = sca (g.linear.setWidth 64)) ∧ (q.a = 2 → exec (.srd q) s = sca g.teamId) ∧
      (q.a = 3 → exec (.srd q) s = sca g.gridId) ∧ (q.a = 4 → exec (.srd q) s = sca g.role) ∧
      (q.a = 5 → exec (.srd q) s = sca 0xFF80000000000000) ∧
      (q.a = 6 → exec (.srd q) s = sca ((g.slot s.cur.slot).fmt.setWidth 64)) ∧
      (q.a = 7 → exec (.srd q) s = sca (g.mode.setWidth 64)) ∧ (q.a = 8 → exec (.srd q) s = sca g.seed) ∧
      (q.a = 9 → exec (.srd q) s = sca (g.dix.setWidth 64)) ∧ (q.a = 10 → exec (.srd q) s = sca (g.lclk.setWidth 64)) ∧
      (q.a = 12 → exec (.srd q) s = sca s.syscap) ∧ (q.a = 13 → exec (.srd q) s = sca s.ready) ∧
      (q.a = 14 → exec (.srd q) s = sca (g.mphit.setWidth 64)) ∧ (q.a = 15 → exec (.srd q) s = sca (g.mpmiss.setWidth 64)) ∧
      (q.a = 16 → exec (.srd q) s = sca (g.mpreplay.setWidth 64))) ∧
    (∀ q, s.issues (.csrr q) g r → ∃ v : Word64,
      exec (.csrr q) s = .next (s.setGroup s.cur.gid (s.putNow g q.sa.toNat v)).advance ∧
      (q.obj = 0 → v = g.tr.ecause) ∧ (q.obj = 1 → v = g.tr.epc) ∧ (q.obj = 2 → v = g.tr.estate) ∧
      (q.obj = 3 → v = g.tr.emask) ∧ (q.obj = 4 → v = g.tr.ejoin) ∧ (q.obj = 5 → v = g.tr.efmt.setWidth 64) ∧
      (q.obj = 6 → v = g.tr.einfo) ∧ (q.obj = 7 → v = g.tr.etxf) ∧ (q.obj = 8 → v = g.tr.emode.setWidth 64) ∧
      (q.obj = 9 → v = (s.ctx g.ctx).tvec) ∧ (q.obj = 10 → v = (s.ctx g.ctx).fvec) ∧
      (q.obj = 11 → ∀ t, s.team? g.team = some t → v = match t.preempt with
        | none => 0
        | some p => BitVec.ofNat 64 (2 ^ 16 + min (p + 65536 - s.cycle) 0xFFFF)) ∧
      (q.obj = 19 → v = (s.ctx g.ctx).posted ++ (s.ctx g.ctx).resolved) ∧ (q.obj = 20 → v = g.harea))
  ) ∧
  (
  ∀ (s : State) (g : Group) (r : Running) (q : QFields), s.issues (.csrw q) g r →
    let x := g.sreg q.sa.toNat
    let out (tr : TrapRegs) : Host.Outcome State Fault Refusal := .next (s.setGroup s.cur.gid { g with tr := tr }).advance
    (q.obj = 1 → exec (.csrw q) s = out { g.tr with epc := x &&& ~~~7#64 }) ∧
    (q.obj = 2 → ∃ v : Word64, exec (.csrw q) s = out { g.tr with estate := v } ∧
      ∀ i < 64, v.getLsbD i = if i ≤ 3 ∨ i = 9 ∨ i = 11 then x.getLsbD i else g.tr.estate.getLsbD i) ∧
    (q.obj = 3 → exec (.csrw q) s = out { g.tr with emask := x }) ∧
    (q.obj = 4 → exec (.csrw q) s = out { g.tr with ejoin := x }) ∧
    (q.obj = 5 → exec (.csrw q) s = out { g.tr with efmt := x.setWidth 32 }) ∧
    (q.obj = 8 → exec (.csrw q) s = out { g.tr with emode := x.setWidth 16 }) ∧
    (q.obj.toNat ∈ [0, 6, 7, 9, 10, 11, 16, 17, 18, 20] → exec (.csrw q) s = .next s.advance)
  )

/-- R59, R75, R108: an illegal word traps with code 0x04, a privileged one in user mode with 0x05; no part of it
takes effect. In a user-mode slot that is no speculative half, the trap waits for the entry, precise at the
instruction: EINFO is the word, the lanes are those of its predicate, and the slot has stopped. R145: TRAP
retires, counts on its flag, then raises code 0x0E with DONE set, its IMM12 as ARG and s[SA] as EINFO; in supervisor mode it is a
double trap and ends the context (R140); while another trap of the group goes first it does not issue (R141). -/
def Obligations.IllegalPrivilegedAndTrap : Prop :=
  (
  ∀ (s : State) (g : Group) (r : Running) (i : Instr) (c : Sys2Proof.Class), i.cls = some c → c ≠ .matrix → s.calm →
    s.group? s.cur.gid = some g → (g.slot s.cur.slot).running = some r →
    (g.legal s.cur.slot i = false → exec i s = .next s.illegal) ∧
    (g.legal s.cur.slot i = true → privileged i = true → g.supervisor = false → exec i s = .next s.privilegeTrap) ∧
    (g.supervisor = false → r.replay = false → (g.half? s.cur.slot).isNone → g.trapReq = none →
      ∀ t code, (t = s.illegal ∧ code = 0x04#8) ∨ (t = s.privilegeTrap ∧ code = 0x05#8) →
        ∃ h, t.group? s.cur.gid = some h ∧ (h.slot s.cur.slot).running = none ∧
          h.trapReq = some { slot := s.cur.slot, cycle := s.cycle, code := code, atClause := false, idx := s.cur.idx,
                             pc := s.cur.clauseAt, done := false, arg := 0, einfo := s.cur.word, etxf := 0,
                             lanes := g.exec s.cur.mask (negOf s.cur.word) (predOf s.cur.word), faddr := [] } ∧
          h.vregs = g.vregs ∧ h.sregs = g.sregs ∧ h.preds = g.preds ∧ h.mode = g.mode ∧ h.dix = g.dix ∧
          t.mem = s.mem ∧ t.cache = s.cache)
  ) ∧
  (
  ∀ (s : State) (g : Group) (r : Running) (q : QFields), s.issues (.trap q) g r → r.replay = false →
    (g.half? s.cur.slot).isNone →
    ∃ t h, exec (.trap q) s = .next t ∧ t.group? s.cur.gid = some h ∧
      let f := unitFlag (decodeHeader s.cur.header) q.fsel
      (g.trapReq = none → h.dix = g.dix + 1 ∧ h.lclk = g.lclk + 1 ∧ h.flags = (g.incFlag f).flags) ∧
      -- while another trap goes first it does not issue (R141)
      (g.supervisor = false → g.takesTrap s.cur.slot s.cycle = false → h.dix = g.dix ∧ h.lclk = g.lclk ∧
        h.trapReq = g.trapReq ∧ h.flags = g.flags) ∧
      (h.slot s.cur.slot).running = none ∧ h.sregs = g.sregs ∧ h.vregs = g.vregs ∧ t.mem = s.mem ∧
      (g.supervisor = false → g.trapReq = none → h.trapReq = some
        { slot := s.cur.slot, cycle := s.cycle, code := 0x0E, atClause := false, idx := s.cur.idx,
          pc := s.cur.clauseAt, done := true, arg := q.imm, einfo := g.sreg q.sa.toNat, etxf := 0,
          lanes := s.cur.mask, faddr := [], flag := some f }) ∧
      (g.supervisor = true → (s.ctx g.ctx).terminate = none → ∃ d e f, (t.ctx g.ctx).terminate = some (1, d, e, f))
  )

/-- R139: entry to the handler, once the results are written and no clause runs. The slot is saved into EPC,
ESTATE, EMASK, EJOIN and EFMT, MODE into EMODE; the group is in supervisor mode with p7 the lanes of the trap;
the slot goes on at FVEC for code 0x01, else at TVEC, with its mask, no join, and FMT and MODE at reset; the
other slot waits. A flag that counts the trap is counted down (R52), and a stream's trap is no longer pending. Nothing
else of the machine changes. R145, R164: RTE leaves supervisor mode and restores the
slot from EPC, EMASK without the exited lanes, EJOIN and EFMT, MODE from EMODE (its reserved bits read zero), to
go on at instruction 0 if CLAUSE, else at EIDX + DONE; RTE.SKIP takes DONE as set where CLAUSE is clear. The
other slot may start again. -/
def Obligations.TrapEntryAndReturn : Prop :=
  (
  ∀ (s : State) (gid : Nat) (g : Group) (q : TrapReq), s.group? gid = some g → g.trapReq = some q → q.slot ≤ 1 →
    g.results = [] → g.noClause = true → g.otherSettled (1 - q.slot) = true → g.supervisor = false →
    (s.ctx g.ctx).terminate = none →
    let S := g.slot q.slot
    ∃ h : Group, exec (.trapEntry gid) s = .next (s.setGroup gid h) ∧
      h.tr.ecause.toNat = q.code.toNat + q.arg.toNat * 2 ^ 16 ∧ h.tr.epc = q.pc ∧ h.tr.emask = S.mask ∧
      h.tr.ejoin = S.join ∧ h.tr.efmt = S.fmt ∧ h.tr.emode = g.mode ∧ h.tr.einfo = q.einfo ∧ h.tr.etxf = q.etxf ∧
      h.tr.estate.toNat = (if q.done then 2 ^ 11 else 0) + q.slot * 2 ^ 10 + (if S.resting then 2 ^ 9 else 0) +
        (if q.atClause then 2 ^ 8 else q.idx % 16) ∧
      h.supervisor = true ∧ h.supP7 = q.lanes ∧ h.trapReq = none ∧ h.mode = 1 ∧
      (h.slot q.slot).pc = (if q.code = 1 then (s.ctx g.ctx).fvec else (s.ctx g.ctx).tvec) ∧
      (h.slot q.slot).mask = S.mask ∧ (h.slot q.slot).join = 0xFFFFFFFFFFFFFFFF ∧
      (h.slot q.slot).fmt = 0x01477004 ∧ (h.slot (1 - q.slot)).held = true ∧
      (h.slot (1 - q.slot)).mask = (g.slot (1 - q.slot)).mask ∧
      h.vregs = g.vregs ∧ h.sregs = g.sregs ∧ h.supS = g.supS ∧ h.preds = g.preds ∧
      h.flags = (match q.flag with
        | some f => (g.decFlag f 1).flags
        | none => g.flags) ∧ (∀ z, q.matrix = some z → h.matrixTraps = g.matrixTraps.erase z) ∧
      h.ops = g.ops ∧ h.dix = g.dix ∧ h.lclk = g.lclk ∧ h.xmask = g.xmask ∧
      ∀ i, (∀ e ∈ q.faddr, e.1 ≠ i) → tget 0 h.faddr i = tget 0 g.faddr i
  ) ∧
  (
  ∀ (s : State) (g : Group) (r : Running) (q : QFields) (i : Instr), (i = .rte q ∨ i = .rteSkip q) →
    s.issues i g r → r.replay = false →
    let k := s.cur.slot
    let st := g.tr.estate
    let m := g.tr.emask &&& ~~~g.xmask
    ∃ t h, exec i s = .next t ∧ t.group? s.cur.gid = some h ∧ h.supervisor = false ∧
      h.mode = g.tr.emode &&& 0x3F3F#16 ∧ (h.slot k).mask = m ∧
      (m ≠ 0 → (h.slot k).pc = g.tr.epc ∧ (h.slot k).join = g.tr.ejoin ∧ (h.slot k).fmt = g.tr.efmt ∧
        (h.slot k).resting = st.getLsbD 9 ∧
        (h.slot k).resumeIdx = if st.getLsbD 8 then 0
          else st.toNat % 16 + (if st.getLsbD 11 ∨ i = .rteSkip q then 1 else 0)) ∧
      (h.slot (1 - k)).held = false ∧ (h.slot (1 - k)).mask = (g.slot (1 - k)).mask ∧
      h.vregs = g.vregs ∧ h.sregs = g.sregs ∧ h.preds = g.preds ∧ t.mem = s.mem ∧ t.cache = s.cache ∧
      h.tr = if i = .rteSkip q ∧ st.getLsbD 8 = false then { g.tr with estate := st ||| 0x800 } else g.tr
  )

/-! ### The issue engine and divergence -/

/-- R56, R61, R71, R109, R139, R165, R190: RESULT_WRITE writes the first due result of the group: the lanes of
its mask of a vector register (the line's written bit is set), a scalar or the bits of a predicate in the bank
of the mode that issued it, p0 never; a scalar that a later instruction has written by then stays; the sticky bits are
ORed into MODE. R110, R111, R113: REGISTER_FILL makes
a wanted line the most recently used one of the partition's cache, in the place of a victim where it holds
1,024; YIELD_BAR_LIFT ends the bar of a group 16 cycles after its YIELD. -/
def Obligations.RegisterWritesArrive : Prop :=
  (
  ∀ (s : State) (gid : Nat) (g : Group) (p : Pending), s.group? gid = some g → p ∈ g.results →
    (∀ q ∈ g.results, q ≠ p → p.before q = true ∧ q.before p = false) → p.due ≤ s.cycle + 1 → p.half = false →
    ∃ h : Group, exec (.resultWrite gid) s = .next (s.setGroup gid h) ∧ p ∉ h.results ∧
      (∀ q ∈ g.results, q ≠ p → q ∈ h.results) ∧ h.closedAt = some s.cycle ∧
      h.mode = g.mode ||| stickyOr p.sticky (fun _ => true) ∧
      (∀ n m l, p.upds = [.vec n m l] →
        (∀ i < 64, lane (h.vreg n) i = if m.getLsbD i then lane l i else lane (g.vreg n) i) ∧
        (∀ j, j ≠ imageLine g.budget n → tget 0 h.vregs j = tget 0 g.vregs j) ∧
        (m ≠ 0 → imageLine g.budget n < 2048 → h.written.getLsbD (imageLine g.budget n) = true) ∧
        h.sregs = g.sregs ∧ h.preds = g.preds) ∧
      (∀ n x, p.upds = [.sca n x] → h.vregs = g.vregs ∧ h.preds = g.preds ∧
        let newest := g.newest p.sup n p.issueAt p.startAt
        (newest → p.sup = g.supervisor → h.sreg n = x) ∧ (¬ newest → h.sregs = g.sregs ∧ h.supS = g.supS) ∧
        (p.sup = false → h.supS = g.supS ∧ ∀ j, j ≠ n → tget 0 h.sregs j = tget 0 g.sregs j)) ∧
      (∀ n m b, p.upds = [.pred n m b] → h.vregs = g.vregs ∧ h.sregs = g.sregs ∧
        (n = 0 → h.preds = g.preds ∧ h.supP7 = g.supP7) ∧
        (n ≠ 0 → p.sup = g.supervisor →
          ∀ i < 64, (h.preg n).getLsbD i = if m.getLsbD i then b.getLsbD i else (g.preg n).getLsbD i))
  ) ∧
  (
  (∀ (s : State) (part gid line : Nat) (g : Group), s.group? gid = some g → g.part = part →
    s.wantsLine part gid line = true →
    let c := s.rlines part
    let new : CacheLine := { gid := gid, line := line, since := s.cycle + 1 }
    (∀ x ∈ c, x.is gid line = false) →
    (c.length + s.shadowCount part < 1024 → exec (.registerFill part gid line) s = .next
      { s with rcache := dput s.rcache part (new :: c) }) ∧
    (1024 ≤ c.length + s.shadowCount part → ∀ v, s.victim part gid c = some v → exec (.registerFill part gid line) s = .next
      { s with rcache := dput s.rcache part (new :: c.filter (fun x => x != v)) })) ∧
  (∀ (s : State) (gid n : Nat) (g : Group), s.group? gid = some g → g.yieldAt = some n →
    exec (.yieldBarLift gid) s = .next (s.setGroup gid (if n + 16 ≤ s.cycle then { g with yieldAt := none } else g)))
  )

/-- R104, R58: CLAUSE_FETCH reads the header and the words that memory holds at the slot's PC and puts them into the
slot's buffer; a clause that fails a check of R58 traps with code 0x03 and the number of the first check that fails,
precise at the clause. (At most 136 bytes: R37 leaves the L1 more lines than that.)
R53, R101, R105: CLAUSE_START, in a partition with no deterministic group: at most one start in a cycle;
the chosen candidate's clause goes into the free clause slot, to issue from its first instruction on, and its
flag counts it. A clause that waits on the flag of a refused TXF traps instead, with code 0x0B (R142); one that
would go on in mid-clause, at the instruction it goes on from (log 86). -/
def Obligations.ClauseFetchAndStart : Prop :=
  (
  ∀ (s : State) (gid k : Nat) (g : Group) (pc : Word64), s.group? gid = some g → k ≤ 1 →
    g.fetchAt k = some (pc, true) → (g.half? k).isNone →
    let x := s.fetchClause gid k g pc
    (∀ c, x.2 = .clause c → (g.slot k).resumeIdx < c.words.length →
      s.completesIf x.1.settled (.clauseFetch gid k)
        (x.1.modGroup gid (fun h => h.setSlot k { h.slot k with clause := some c }))) ∧
    (∀ c, x.2 = .clause c → c.addr = pc ∧ c.words.length = (decodeHeader c.header).n ∧
      clauseCheck g.budget (fld (g.slot k).fmt 3 0) false (decodeHeader c.header) c.words = 0) ∧
    (∀ code e, x.2 = .trap code e → s.completesIf x.1.settled (.clauseFetch gid k)
      (x.1.trapClause gid k (BitVec.ofNat 8 code) pc (BitVec.ofNat 64 e) 0 0 (g.slot k).mask
        (if code = 1 ∨ code = 2 then (lanesOf (g.slot k).mask).map (fun i => (i, pc)) else [])))
  ) ∧
  (
  ∀ (s : State) (gid k : Nat) (g : Group) (pc : Word64) (awaited : Bool), s.clear → s.group? gid = some g → k ≤ 1 →
    g.fetchAt k = some (pc, awaited) → (g.half? k).isNone → 136 ≤ s.lineRoom g.core →
    let a := agentOf gid g
    let at_ (j : Nat) : Word64 := pc + BitVec.ofNat 64 (8 * j)
    let h := decodeHeader (s.codeWord a pc)
    let ws := (List.range h.n).map (fun j => s.codeWord a (at_ (j + 1)))
    s.codeHere a pc (1 + h.n) →
    ∃ t x, exec (.clauseFetch gid k) s = .next t ∧ t.group? gid = some x ∧ t.mem = s.mem ∧ x.vregs = g.vregs ∧
      x.sregs = g.sregs ∧ x.slot (1 - k) = g.slot (1 - k) ∧
      (clauseCheck g.budget (fld (g.slot k).fmt 3 0) false h ws = 0 → (g.slot k).resumeIdx < h.n →
        ∃ c, (x.slot k).clause = some c ∧ c.addr = pc ∧ c.header = s.codeWord a pc ∧ c.words = ws) ∧
      (clauseCheck g.budget (fld (g.slot k).fmt 3 0) false h ws ≠ 0 → awaited = true → g.supervisor = false →
        x.trapReq = some { slot := k, cycle := s.cycle, code := 0x03, atClause := true, idx := 0, pc := pc, done := false,
                           arg := 0, etxf := 0, lanes := (g.slot k).mask, faddr := [],
                           einfo := BitVec.ofNat 64 (clauseCheck g.budget (fld (g.slot k).fmt 3 0) false h ws) })
  ) ∧
  (
  ∀ (B elt : Nat) (h : Header) (ws : List Word64), ws.length ≤ 16 →
    let c := h.cls.toNat
    let n := ws.length
    let word (i : Nat) : Option Sig := ((legalAll B elt h ws)[i]?).join.map (fun x => sigOf B elt x)
    let selects (b : Bool) : Prop := ∃ w ∈ ws, ∃ y, classOf h.cls = some y ∧ wordSel y w = some b
    let fails : Nat → Prop
      | 1 => 5 ≤ c
      | 2 => (h.av = true ∧ 12 ≤ h.aflag.toNat) ∨ (h.bv = true ∧ 12 ≤ h.bflag.toNat) ∨ (h.av = false ∧ h.aflag ≠ 0) ∨
          (h.bv = false ∧ h.bflag ≠ 0) ∨ (h.av = true ∧ h.bv = true ∧ h.aflag = h.bflag)
      | 3 => (selects false ∧ h.av = false) ∨ (selects true ∧ h.bv = false) ∨ ((c = 1 ∨ c = 2) ∧ h.av = false) ∨
          (c = 3 ∧ h.av = false ∧ h.bv = false)
      | 4 => h.dist.toNat % 4 ≠ 0 ∨ h.dist.toNat / 4 ^ n ≠ 0 ∨ ∃ i j a b, i < j ∧ word i = some a ∧ word j = some b ∧
          a.fixed = true ∧ b.fixed = true ∧
          let d := ((List.range j).filter (fun k => decide (i ≤ k))).foldl (fun x k => x + h.distance (k + 1)) 0
          ((∃ r ∈ a.writes, r ∈ b.reads ∧ d < a.lat) ∨
            (∃ r ∈ a.writes, r ∈ b.writes ∧ b.lat < a.lat ∧ d < a.lat - b.lat + 1))
      | 5 => ∃ i x, (legalAll B elt h ws)[i]? = some (some x) ∧
          ((lastOnly x = true ∧ i + 1 ≠ n) ∨ (isLpad x = true ∧ i ≠ 0))
      | 6 => h.rsv ≠ 0
      | _ => False
    let m := clauseCheck B elt false h ws
    (m = 0 ↔ ∀ k, ¬ fails k) ∧ (m ≠ 0 → fails m ∧ ∀ k < m, ¬ fails k)
  ) ∧
  (
  ∀ (s : State) (part cs gid k : Nat) (g : Group), (∀ e ∈ s.groups, e.2.part = part → e.2.det = false) →
    tget 0 s.startedAt part ≠ s.cycle + 1 → s.freeSlot part = some cs → s.chosen part = some (gid, g, k) →
    ∀ c first count replay, g.candidate k = some (c, first, count, replay) →
      (g.supervisor = true ∨ (g.half? k).isSome ∨ replay = true ∨ g.refusalAt c = none →
        s.completesIf s.settled (.clauseStart part) (s.startClause gid g k cs) ∧
        (s.group? gid = some g → ∃ h r, (s.startClause gid g k cs).group? gid = some h ∧ (h.slot k).running = some r ∧
          r.cslot = cs ∧ r.clause = c ∧ r.idx = first ∧ r.count = count ∧ r.readyAt = s.cycle ∧
          (h.slot k).clause = none ∧ h.vregs = g.vregs ∧
          ∀ f, g.wholeFlag k c first = some f → h.flag f = g.flag f + 1)) ∧
      (∀ x, g.supervisor = false → (g.half? k).isNone → replay = false → g.refusalAt c = some x →
        s.completesIf s.settled (.clauseStart part) (s.raiseRefusal gid x
          { slot := k, cycle := s.cycle, code := 0x0B, atClause := first == 0, idx := first, pc := c.addr, done := false,
            arg := 0, einfo := x.lanes, etxf := x.wordAt, lanes := x.lanes, faddr := [] }))
  )

/-- R115, R30, R114: what a resolved transfer does to slot k of a group whose other slot runs no clause and has none
to replay (while it has, a transfer that would spill it waits: log 24). Uniform
outcomes move the PC; a mixed one gives slot k the taken lanes at t and the other slot the rest at f, both with
join J, the join entry pushed unless J is the slot's join, the other slot's own content, resting or not, pushed above
it. A half that is at J is dropped: the other one takes slot k, the other slot stays, and with both at J slot k
empties. A stack that would pass 64 entries overflows. -/
def Obligations.DivergenceSplitsTheSlot : Prop :=
  ∀ (g : Group) (k : Nat) (T : Mask) (t f J : Word64) (rest : Bool) (cycle : Nat), k ≤ 1 →
    let S := g.slot k
    let O := g.slot (1 - k)
    let N := S.mask &&& ~~~T
    (O.running ≠ none ∨ O.replays ≠ [] → O.mask ≠ 0 → T ≠ 0 → N ≠ 0 → t ≠ J → f ≠ J →
      g.spill.length + 1 + (if J ≠ S.join then 1 else 0) ≤ 64 → g.diverge k T t f J rest cycle = .wait) ∧
    (O.running = none → O.replays = [] →
    (T = 0 → g.diverge k T t f J rest cycle = .done (g.setPc k f)) ∧
    (T ≠ 0 → N = 0 → g.diverge k T t f J rest cycle = .done (g.setPc k t)) ∧
    (T ≠ 0 → N ≠ 0 → t ≠ J → f ≠ J →
      let pushed := (if O.mask ≠ 0 then 1 else 0) + (if J ≠ S.join then 1 else 0)
      (64 < g.spill.length + pushed → g.diverge k T t f J rest cycle = .overflow) ∧
      (g.spill.length + pushed ≤ 64 → ∃ h : Group, g.diverge k T t f J rest cycle = .done h ∧
        (h.slot k).mask = T ∧ (h.slot k).pc = t ∧ (h.slot k).join = J ∧ (h.slot k).fmt = S.fmt ∧
        (h.slot (1 - k)).mask = N ∧ (h.slot (1 - k)).pc = f ∧ (h.slot (1 - k)).join = J ∧
        (h.slot (1 - k)).resting = rest ∧
        h.spill.length = g.spill.length + pushed ∧ h.spill.drop pushed = g.spill ∧
        (J ≠ S.join → ∃ e, (h.spill.drop (pushed - 1)).head? = some e ∧ e.pc = J ∧ e.mask = S.mask ∧
          e.join = S.join ∧ e.fmt = S.fmt ∧ e.brxrest = false) ∧
        (O.mask ≠ 0 → ∃ e, h.spill.head? = some e ∧ e.pc = O.pc ∧ e.mask = O.mask ∧ e.join = O.join ∧
          e.fmt = O.fmt ∧ e.brxrest = O.resting) ∧
        h.vregs = g.vregs ∧ h.sregs = g.sregs))) ∧
    (T ≠ 0 → N ≠ 0 → t = J ∨ f = J →
      let pushed := if J ≠ S.join then 1 else 0
      (64 < g.spill.length + pushed → g.diverge k T t f J rest cycle = .overflow) ∧
      (g.spill.length + pushed ≤ 64 → ∃ h : Group, g.diverge k T t f J rest cycle = .done h ∧
        h.slot (1 - k) = O ∧ h.spill.length = g.spill.length + pushed ∧ h.spill.drop pushed = g.spill ∧
        (J ≠ S.join → ∃ e, h.spill.head? = some e ∧ e.pc = J ∧ e.mask = S.mask ∧ e.join = S.join ∧ e.fmt = S.fmt ∧
          e.brxrest = false) ∧
        (t ≠ J → (h.slot k).mask = T ∧ (h.slot k).pc = t ∧ (h.slot k).join = J ∧ (h.slot k).fmt = S.fmt ∧
          (h.slot k).resting = false) ∧
        (f ≠ J → (h.slot k).mask = N ∧ (h.slot k).pc = f ∧ (h.slot k).join = J ∧ (h.slot k).fmt = S.fmt ∧
          (h.slot k).resting = rest) ∧
        (t = J → f = J → (h.slot k).mask = 0) ∧ h.vregs = g.vregs ∧ h.sregs = g.sregs))

/-- R119, R120, R124, R131: TRANSFER_RESOLVE of a transfer whose cycle has come: a branch takes the effect of
R115 (a conditional BRA trains the predictor), and a CALL also queues ra for v2046 and v2047 of the calling
lanes; an indirect transfer to an address that is no multiple of 8 or, for BRX and CALLX, to a clause without
the right LPAD, traps with code 0x07 instead, a fault of that clause's fetch is reported for every lane of the
slot, and a stack overflow traps with 0x06. A predicted BRA becomes ready for its repair. -/
def Obligations.TransferResolutionCompletes : Prop :=
  ∀ (s : State) (gid k : Nat) (g : Group), s.group? gid = some g → k ≤ 1 →
    let i : Instr := .transferResolve gid k
    let m := (g.slot k).mask
    (∀ p, g.spec = some p → p.slot = k → p.resolved = false → p.issueAt + 7 ≤ s.cycle →
      s.completesIf s.settled i ((s.predUpdate g k p.wordAt p.taken).setGroup gid
        { g with spec := some { p with resolved := true } })) ∧
    (∀ tr, g.spec = none → (g.slot k).transfer = some tr → tr.readyAt ≤ s.cycle → g.trapReq = none →
      (g.slot k).held = false → g.mustWait k tr s.cycle = false →
      let s1 := if tr.kind = .bra ∧ tr.looked = true then s.predUpdate g k tr.wordAt tr.taken else s
      let free (g : Group) := g.setSlot k { g.slot k with transfer := none, eligFrom := s.cycle + 1 }
      let full (s : State) (lanes : Mask) : State :=
        s.trapTransfer gid k tr 0x06 (BitVec.ofNat 64 g.spill.length) lanes []
      let misaligned := tr.target.toNat % 8 ≠ 0
      (tr.kind = .bra ∨ tr.kind = .call →
        (∀ h, (free g).diverge k tr.taken tr.target tr.fall tr.join false s.cycle = .done h → s.completesIf s.settled i
          (if tr.kind = .call then (s.setGroup gid h).linkResult gid k tr else s1.setGroup gid h)) ∧
        ((free g).diverge k tr.taken tr.target tr.fall tr.join false s.cycle = .overflow →
          s.completesIf s.settled i (full s1 tr.taken))) ∧
      (tr.kind = .ret → ¬ misaligned →
        (∀ h, (free g).diverge k tr.taken tr.target tr.clauseAt tr.join true s.cycle = .done h →
          s.completesIf s.settled i (s.setGroup gid h)) ∧
        ((free g).diverge k tr.taken tr.target tr.clauseAt tr.join true s.cycle = .overflow →
          s.completesIf s.settled i (full s m))) ∧
      (tr.kind ≠ .bra → tr.kind ≠ .call → misaligned →
        s.completesIf s.settled i (s.trapTransfer gid k tr 0x07 tr.target m [])) ∧
      (tr.kind = .brx ∨ tr.kind = .callx → ¬ misaligned →
        let l := s.landing (agentOf gid g) tr.target tr.tag
        (∀ code e, l.2 = .inr (code, e) → s.completesIf l.1.settled i
          (l.1.trapTransfer gid k tr (BitVec.ofNat 8 code) (BitVec.ofNat 64 e) m
            (((List.range 64).filter (fun j => m.getLsbD j)).map (fun j => (j, tr.target))))) ∧
        (l.2 = .inl false → s.completesIf l.1.settled i (l.1.trapTransfer gid k tr 0x07 tr.target m [])) ∧
        (l.2 = .inl true → ∀ g1, l.1.group? gid = some g1 →
          let d := (free g1).diverge k tr.taken tr.target tr.clauseAt tr.join true s.cycle
          (d = .overflow → s.completesIf l.1.settled i
            (l.1.trapTransfer gid k tr 0x06 (BitVec.ofNat 64 g1.spill.length) m [])) ∧
          ∀ h, d = .done h →
          s.completesIf l.1.settled i (if tr.kind = .callx then (l.1.setGroup gid h).linkResult gid k tr
            else l.1.setGroup gid h))))

/-- R116, R133, R134: SPILL_POP takes the top entry without the exited lanes into the lowest empty slot, or
drops it; PREDICTION_REPAIR ends the prediction, counts a hit or a miss, and pushes the join entry of a mixed
outcome. Of each half placed, the words of its wrong lanes are restored in every shadowed line and those lanes leave
its held stores; a half without a correct lane empties; one that lacks lanes is to replay its clauses in those, and
takes its correct mask and releases its stores after the last (log 28); another takes it at once, and its instructions
count. A side that was not placed becomes live at its start. -/
def Obligations.SpillPopAndRepairResults : Prop :=
  (∀ (s : State) (gid : Nat) (g : Group) (e : SpillEntry) (rest : List SpillEntry), s.group? gid = some g →
    g.spill = e :: rest → g.canPop e s.cycle = true →
    let k := if g.slot0.mask = 0 then 0 else 1
    let m := e.mask &&& ~~~g.xmask
    ∃ h : Group, exec (.spillPop gid) s = .next (s.setGroup gid h) ∧ h.spill = rest ∧
      (m = 0 ∨ e.pc = e.join → h.slot0 = g.slot0 ∧ h.slot1 = g.slot1) ∧
      (m ≠ 0 → e.pc ≠ e.join → (h.slot k).pc = e.pc ∧ (h.slot k).mask = m ∧ (h.slot k).join = e.join ∧
        (h.slot k).fmt = e.fmt ∧ (h.slot k).resting = e.brxrest ∧ h.slot (1 - k) = g.slot (1 - k)) ∧
      h.vregs = g.vregs ∧ h.sregs = g.sregs ∧ h.flags = g.flags) ∧
  (∀ (s : State) (gid : Nat) (g : Group) (p : Spec), s.group? gid = some g → g.spec = some p →
    p.resolved = true → p.issueAt + 8 ≤ s.cycle → p.overflows g.spill.length = false →
    ∃ t h, exec (.predictionRepair gid) s = .next t ∧ t.group? gid = some h ∧ h.spec = none ∧
      h.mphit = (if p.guess = p.taken then g.mphit + 1 else g.mphit) ∧
      h.mpmiss = (if p.guess = p.taken then g.mpmiss else g.mpmiss + 1) ∧ t.mem = s.mem ∧
      (let mixed := p.taken ≠ 0 ∧ p.sMask &&& ~~~p.taken ≠ 0
       (mixed ∧ p.join ≠ p.sJoin → ∃ e, h.spill = e :: g.spill ∧ e.pc = p.join ∧ e.mask = p.sMask ∧ e.join = p.sJoin ∧
          e.fmt = p.sFmt ∧ e.brxrest = false) ∧
       (¬ (mixed ∧ p.join ≠ p.sJoin) → h.spill = g.spill))) ∧
  (∀ (s : State) (gid : Nat) (g : Group) (p : Spec), s.group? gid = some g → g.spec = some p → p.placed →
    p.resolved = true → p.issueAt + 8 ≤ s.cycle → p.overflows g.spill.length = false → keysRise g.ops = true →
    let mixed := p.taken ≠ 0 ∧ p.sMask &&& ~~~p.taken ≠ 0
    let right (x : Half) : Mask := if x.ph = p.guess then p.taken else p.sMask &&& ~~~p.taken
    let wrong (x : Half) : Mask := x.ph &&& ~~~right x
    let lacks (x : Half) : Mask := right x &&& ~~~x.ph
    let again (x : Half) : List Replay := x.clauses.reverse.filter (fun c => decide (c.first < c.count))
    ∃ t h, exec (.predictionRepair gid) s = .next t ∧ t.group? gid = some h ∧ h.sregs = g.sregs ∧ h.preds = g.preds ∧
      h.dix = g.dix + BitVec.ofNat 48 ((p.halves.map (fun x => if right x = 0 then 0 else x.retired)).sum) ∧
      (∀ n, ∀ i < 64, (∀ x ∈ p.halves, (wrong x).getLsbD i = false) →
        lane (tget 0 h.vregs n) i = lane (tget 0 g.vregs n) i) ∧
      (∀ x ∈ p.halves,
        let S := g.slot x.slot
        let S' := h.slot x.slot
        (∀ e ∈ x.shadows, (∀ e' ∈ x.shadows, e'.1 = e.1 → e' = e) → ∀ i < 64, (wrong x).getLsbD i = true →
          lane (tget 0 h.vregs e.1) i = lane e.2 i) ∧
        (right x = 0 → p.halves.length = 2 → S'.mask = 0) ∧
        (right x ≠ 0 → lacks x ≠ 0 → again x ≠ [] →
          S'.mask = lacks x ∧ S'.finalMask = right x ∧ S'.replays = again x ∧ S'.running = none) ∧
        (right x ≠ 0 → lacks x = 0 ∨ again x = [] → S.pc ≠ (if mixed then S.join else p.sJoin) →
          S'.mask = right x ∧ S'.pc = S.pc) ∧
        (right x ≠ 0 → ∀ n o order scope b accs, dget g.ops n = some o → o.slot = x.slot → o.half = true →
          o.kind = .store order scope b accs →
          let rest := accs.filter (fun a => !(wrong x).getLsbD a.1.lane)
          (rest = [] → accs ≠ [] → dget h.ops n = none) ∧
          (rest ≠ [] → dget h.ops n = some { o with
            half := decide (lacks x ≠ 0 ∧ again x ≠ []), kind := .store order scope b rest }))) ∧
      (∀ m pc, (p.guess = 0 ∧ m = p.taken ∧ pc = p.target) ∨
          (p.guess = p.sMask ∧ m = p.sMask &&& ~~~p.taken ∧ pc = p.fall) →
        m ≠ 0 → pc ≠ (if mixed then p.join else p.sJoin) →
        ∃ k, k ≤ 1 ∧ (h.slot k).mask = m ∧ (h.slot k).pc = pc))

/-! ### Memory -/

/-- R52, R55: an operation entered by the instruction at `cur` counts once on the flag of its clause header,
waits under a number of its own, and the clause goes on; registers, memory and every other group are as before.
R235, R242, R246, R251, R371, log 19: an effect that must follow the group's earlier accesses enters as an
operation: it acts at once where there are none, and no synchronising operation or wait before it, and waits where
there is one, or for a Meridian position; an operation of the field engine acts at once where no earlier access, no
synchronising operation and no wait of the group is pending. -/
def Obligations.OperationsEnterAndWait : Prop :=
  (
  ∀ (s : State) (g : Group) (r : Running) (sel mer : Bool) (kind : OpKind),
    s.group? s.cur.gid = some g → (g.slot s.cur.slot).running = some r → r.replay = false →
    let h0 := decodeHeader s.cur.header
    let f := (if sel then h0.bflag else h0.aflag).toNat
    let t := (s.addOpMer sel mer kind).advance
    t = { s with groups := t.groups, slotFree := t.slotFree, nextId := s.nextId + 1 } ∧
    (∀ n, n ≠ s.cur.gid → t.group? n = s.group? n) ∧
    ∃ h : Group, t.group? s.cur.gid = some h ∧
      dget h.ops s.nextId = some { slot := s.cur.slot, flag := some f, counts := 1, wordAt := s.cur.addr,
                                   half := g.undoable s.cur.slot, sup := g.supervisor, mer := if mer then 1 else 0,
                                   clock := g.lclk, issueAt := s.cycle, startAt := g.startOf s.cur.slot,
                                   kind := kind } ∧
      (∀ n, n ≠ s.nextId → dget h.ops n = dget g.ops n) ∧
      ((∀ c ∈ g.counts, c.flag ≠ f) → h.flag f = g.flag f + 1) ∧
      (∀ n, n ≠ f → (∀ c ∈ g.counts, c.flag ≠ n) → h.flag n = g.flag n) ∧
      ((g.half? s.cur.slot).isNone → h.dix = g.dix + 1 ∧ h.lclk = g.lclk + 1) ∧
      h.vregs = g.vregs ∧ h.sregs = g.sregs ∧ h.supS = g.supS ∧ h.preds = g.preds ∧ h.mode = g.mode ∧
      h.xmask = g.xmask ∧ h.tr = g.tr ∧ h.spill = g.spill ∧ h.results = g.results ∧ h.trapReq = g.trapReq
  ) ∧
  (
  ∀ (s : State) (g : Group) (r : Running) (sel mer : Bool) (apply : State → Nat → Nat → State),
    s.group? s.cur.gid = some g → (g.slot s.cur.slot).running = some r → r.replay = false → g.det = false →
    let quiet := ∀ e ∈ g.ops, e.2.at_ e.1 < s.nextId → e.2.kind.isAccess = false ∧ e.2.kind.syncs = false ∧
      e.2.kind.waitsFor = false
    let busy := ∃ e ∈ g.ops, e.1 ≠ s.nextId ∧ e.2.at_ e.1 < s.nextId ∧ e.2.kind.isAccess = true ∧ e.2.held = false
    (∀ act, (quiet → mer = false → s.afterNow sel mer act apply =
        apply (s.addOpMer sel mer (.after act)) s.cur.gid s.nextId) ∧
      (busy ∨ mer = true → s.afterNow sel mer act apply = s.addOpMer sel mer (.after act))) ∧
    (∀ kind, kind.isAccess = false → (quiet → mer = false →
        s.opNow mer kind apply = apply (s.addOpMer false mer kind) s.cur.gid s.nextId) ∧
      (mer = true → s.opNow mer kind apply = s.addOpMer false mer kind))
  )

/-- R210, R215, R232, R214, R219, R220, R322: the check of one lane's access of n bytes, in its order: an
address that is not canonical, the team window outside the team's stash, alignment, translation, permission, a
store to a CF page, a range lock; an access that passes them all goes to the page's frame at the address's
offset. -/
def Obligations.LaneCheckOrder : Prop :=
  ∀ (s : State) (a : Agent) (lane n al kind : Nat) (need : Need) (va : Word64),
    let v := va.toNat
    let res := (s.checkLane a lane va n al kind need).2
    let fault (code why lev : Nat) : LaneRes := .fault code (why * 2 ^ 12 + lev * 2 ^ 8 + kind) v
    let window : Prop := 0xFF80000000000000 ≤ v ∧ v < 0xFF80000000800000
    let write := kind == 1 || kind == 2 || kind == 4
    (¬ (v < 2 ^ 55 ∨ 2 ^ 64 - 2 ^ 55 ≤ v) → res = fault 0x02 5 0) ∧
    -- named is the lowest byte outside the stash
    (window → s.windowLoc a.team v n = none → ∃ addr, res = .fault 0x02 (6 * 2 ^ 12 + kind) addr ∧
      ∀ t, s.team? a.team = some t → let o := (v - 0xFF80000000000000) % 2 ^ 20
        if (v - 0xFF80000000000000) / 2 ^ 20 < t.cores.length ∧ o < t.stashSize ∧ t.stashSize < o + n
        then addr = v - o + t.stashSize else addr = v) ∧
    (window → s.windowLoc a.team v n ≠ none → v % al ≠ 0 → res = fault 0x0A 0 0) ∧
    (v < 2 ^ 55 ∨ 2 ^ 64 - 2 ^ 55 ≤ v → ¬ window →
      (v % al ≠ 0 → res = fault 0x0A 0 0) ∧
      (v % al = 0 →
        (∀ s1 why lev pa, s.lookupLane a.gid lane a.core a.ctx v = (s1, .fail why lev pa) → res = fault 0x01 why lev) ∧
        (∀ s1 (l : Leaf), s.lookupLane a.gid lane a.core a.ctx v = (s1, .leaf l) →
          let store := need.cfTraps && l.cf
          let lev := if l.bits = 30 then 2 else if l.bits = 21 then 3 else 4
          (store = false → need.w = true → l.rep = true → res = fault 0x01 4 lev) ∧
          (store = false → ¬ (need.w = true ∧ l.rep = true) →
            (need.r = true ∧ l.r = false) ∨ (need.w = true ∧ l.w = false) ∨ (need.x = true ∧ l.x = false) ∨
              (need.user = true ∧ l.u = false) → res = fault 0x01 2 lev) ∧
          (store = true → res = fault 0x08 0 0) ∧
          (store = false → (need.w = true → l.rep = false ∧ l.w = true) → (need.r = true → l.r = true) →
            (need.x = true → l.x = true) → (need.user = true → l.u = true) →
            (∀ i addr, s1.lockHit a.core a.ctx a.team v n write = some (i, addr) → res = .fault 0x09 i addr) ∧
            (s1.lockHit a.core a.ctx a.team v n write = none →
              res = .ok (.phys (l.frame + v % 2 ^ l.bits)))))))

/-- R63, R231, R233, R238, R239, R247: each executing lane of a memory instruction (lane 0 alone in form 11)
accesses s[SBASE] + its address operand + OFF · size; where every lane passes its check, LD, ST, the atomics
(their operands read now) and PFL issue; where one faults, the trap names the faulting lanes and addresses, and
nothing else happens. PFL drops its lanes that would fault; with no lane it completes in the next cycle. -/
def Obligations.MemoryWordsIssue : Prop :=
  ∀ (s : State) (g : Group) (r : Running) (x : MFields),
    let n : Nat := 2 ^ x.size.toNat
    let f11 := x.form == .f11
    let ea (i : Nat) : Word64 := g.sreg x.sbase.toNat +
      (if x.form = .f00 then (lane (g.vreg x.addr.toNat) i).setWidth 64 else g.sreg x.addr.toNat) +
      BitVec.ofInt 64 (x.off.toInt * n)
    let at_ := (if x.form = .f11 then [0] else (List.range 64).filter (fun i =>
      (g.exec s.cur.mask x.neg x.pred).getLsbD i)).map (fun i => (i, ea i))
    let order : Order := Machine.orderOf x.order
    let scope := scopeOf x.scope.toNat
    let check (kind : Nat) (need : Need) : State × LanesRes := s.checkLanes (agentOf s.cur.gid g) n n kind need at_
    let load : Need := { r := true, user := !g.supervisor }
    let store : Need := { w := true, user := !g.supervisor, cfTraps := true }
    let lanesOf_ (accs : List LaneAcc) := accs.map (fun a => a.lane)
    let datum (k i : Nat) : BitVec 128 := BitVec.ofNat 128 (g.getData f11 n k i)
    let d := x.data.toNat
    let enter (s1 : State) (accs : List LaneAcc) (kind : OpKind) : State :=
      (s1.addOpMer x.fsel (needsMeridian order scope) kind).advance
    -- where every lane passes and the tables are at hand, the instruction issues
    (s.issues (.ld x) g r → ∀ s1 accs, check 0 load = (s1, .ok accs) → s1.settled →
      exec (.ld x) s = .next (enter s1 accs (.load order scope n d f11 accs (lanesOf_ accs))).settleNode) ∧
    (s.issues (.st x) g r → g.det = false → r.replay = false → ∀ s1 accs, check 1 store = (s1, .ok accs) → s1.settled →
      exec (.st x) s = .next (enter s1 accs
        (.store order scope n (accs.map (fun a => (a, toBytes n (g.getData f11 n d a.lane)))))).settleNode) ∧
    (∀ i k tree, (∃ op, (i = .atom op x ∧ tree = false ∨ i = .atomt op x ∧ tree = true) ∧ k = AtomicKind.rmw op) ∨
        ((i = Instr.cas x ∨ i = .cas128 x) ∧ tree = false ∧ k = .cas) →
      s.issues i g r → ∀ s1 accs, check 2 store = (s1, .ok accs) → s1.settled →
      let host := accs.any (fun a => s1.hostAtomic order scope a.loc)
      let bit := if n = 16 then 5 else if n = 8 then 4 else 3
      -- the second operand's register: after the first, 8 bytes to a scalar, 4 to a lane
      let d2 := d + max 1 (n / if f11 then 8 else 4)
      (host = true → s1.syscap.getLsbD bit = false → exec i s = .next (s1.trapHere 0x0C 0 s1.curExec []).settleNode) ∧
      (host = false ∨ s1.syscap.getLsbD bit = true → exec i s = .next (enter s1 accs
        (.atomic k order scope n d f11 tree (accs.map (fun a => match k with
          | .cas => ⟨a, datum d a.lane, datum d2 a.lane⟩
          | .rmw _ => ⟨a, 0, datum d a.lane⟩)))).settleNode)) ∧
    (s.issues (.pfl x) g r →
      let c := s.checkEach (agentOf s.cur.gid g) n n 0 load at_
      -- what a lane that passes brings in: into the L1, or into the L2 only
      let fetch (s : State) (e : Nat × Word64 × LaneRes) : State := match e.2.2 with
        | .ok (.phys pa) =>
          if (s.lostNode g.core 0 (.phys pa)).isSome || (isHost pa && !s.hostCoherent) then s
          else if x.scope = 0 then (s.readLoc g.core 0 n (.phys pa)).1.markLine g.core order (.phys pa)
          else (s.devBytes (dieOf g.core) n pa).1.markL2 g.core order pa
        | _ => s
      let s1 := c.2.foldl fetch c.1
      s1.mem = s.mem ∧ (∀ h, s1.group? s.cur.gid = some h → h.vregs = g.vregs ∧ h.sregs = g.sregs ∧ h.flags = g.flags) ∧
      (s1.settled → exec (.pfl x) s =
        .next (if at_ = [] then s1.addOp x.fsel .idle else s1).advance.settleNode)) ∧
    (∀ i kind need, (i = .ld x ∧ kind = 0 ∧ need = load) ∨ (i = .st x ∧ kind = 1 ∧ need = store) ∨
        (kind = 2 ∧ need = store ∧ (i = .cas x ∨ i = .cas128 x ∨ ∃ op, i = .atom op x ∨ i = .atomt op x)) →
      s.issues i g r →
      (∀ s1 code e lanes faddr, check kind need = (s1, .trap code e lanes faddr) →
        s.completesIf s1.settled i (s1.trapHere (BitVec.ofNat 8 code) (BitVec.ofNat 64 e) lanes faddr)) ∧
      (∀ s1 l, check kind need = (s1, .wait l) → s.completesIf s1.settled i (s1.wantPieces l)))

/-- R238, R239: the value that an atomic leaves in W bits; CAS compares the old value with its first operand.
R112, R231, R233, R235, R238, R255, R260: VARIABLE_RESULT_ARRIVAL and STORE_COMPLETE in a group that no fence
and no earlier access to the same bytes holds back: a load of one lane writes the bytes at its place into its
registers, a store its data to its places, an atomic its new value and the old one to its registers; each
completes and counts down its flag. ATOMICOP_COMPLETION does this for an atomic on the host. -/
def Obligations.AccessesPerform : Prop :=
  (
  ∀ (W : Nat) (old : Nat) (a : AtomicLane), (W = 32 ∨ W = 64 ∨ W = 128) → old < 2 ^ W → a.val.toNat < 2 ^ W →
    let d := a.val.toNat
    let f (op : AtomicOp) : Nat := atomicFn op W old d
    (∀ op, atomicNew (.rmw op) W old a = some (f op)) ∧
    f .add = (old + d) % 2 ^ W ∧
    (∀ i, (f .and).testBit i = (old.testBit i && d.testBit i)) ∧
    (∀ i, (f .or).testBit i = (old.testBit i || d.testBit i)) ∧
    (∀ i, (f .xor).testBit i = (old.testBit i ^^ d.testBit i)) ∧
    (let sg (x : Nat) : Int := if x < 2 ^ (W - 1) then x else (x : Int) - 2 ^ W
     sg (f .min) = min (sg old) (sg d) ∧ sg (f .max) = max (sg old) (sg d)) ∧
    f .swap = d ∧
    atomicNew .cas W old a = (if old = a.cmp.toNat then some d else none)
  ) ∧
  (
  ∀ (s : State) (gid n : Nat) (g : Group) (o : Op), s.group? gid = some g → dget g.ops n = some o →
    g.canPerform n o = true → g.det = false →
    (∀ order scope b data f11 (a : LaneAcc), o.kind = .load order scope b data f11 [a] [a.lane] → order ≠ .acq →
      order ≠ .acqRel →
      let level := levelOf order scope
      s.lostNode g.core level a.loc = none →
      let g0 : Group := { g with ops := dput g.ops n { o with kind := .load order scope b data f11 [a] [] } }
      let x := ((s.setGroup gid g0).freshenLoc g.core level b a.loc).loadBytes g0 n o level a.lane b a.loc
      x.1.settled →
      ∃ t : State, exec (.variableResultArrival gid n a.lane) s = .next t.settleNode ∧ t.mem = x.1.mem ∧
        ∀ g1, x.1.group? gid = some g1 → ∃ h : Group, t.group? gid = some h ∧ h.preds = g1.preds ∧
          (b < 16 → o.data = [] → dget h.ops n = none ∧
            h.vregs = (g1.putData o f11 b data a.lane (ofBytes x.2)).vregs ∧
            h.sregs = (g1.putData o f11 b data a.lane (ofBytes x.2)).sregs ∧
            ∀ f, o.flag = some f → h.flag f = g1.flag f - o.counts) ∧
          -- a wide load's registers are still to be written, one in each step (R54)
          (16 ≤ b → 0 < (dataUpds f11 b data a.lane (ofBytes x.2)).length →
            ∀ p, dget g1.ops n = some p → h.vregs = g1.vregs ∧ h.sregs = g1.sregs ∧
            ∃ q : Op, dget h.ops n = some q ∧ q.data = p.data ++ dataUpds f11 b data a.lane (ofBytes x.2) ∧
              q.kind = .load order scope b data f11 [a] [])) ∧
    -- the data of one register of a wide load; with the last of them it completes
    (∀ order scope b data f11 accs reg u, o.kind = .load order scope b data f11 accs [] → order ≠ .acq →
      order ≠ .acqRel → s.settled → o.data.filter (fun v => v.reg == reg) = [u] →
      let rest := o.data.filter (fun v => v.reg != reg)
      let g0 : Group := { g with ops := dput g.ops n { o with data := rest } }
      ∃ h : Group, exec (.variableResultArrival gid n (64 + reg)) s = .next (s.setGroup gid h).settleNode ∧
        h.vregs = (g0.putReg o u).vregs ∧ h.sregs = (g0.putReg o u).sregs ∧
        (rest = [] → dget h.ops n = none ∧ ∀ f, o.flag = some f → h.flag f = g.flag f - o.counts) ∧
        (rest ≠ [] → dget h.ops n = some { o with data := rest })) ∧
    (∀ order scope b accs, o.kind = .store order scope b accs → isPlain order = true →
      (∀ e ∈ accs, ∃ t c f, e.1.loc = .stash t c f) → s.settled →
      exec (.storeComplete gid n) s = .next
        ((accs.foldl (fun s a => (s.writeLoc g.core 0 a.2 a.1.loc).markLine g.core order a.1.loc) s).completeOp gid n).settleNode) ∧
    (∀ order scope b pa lane va data, o.kind = .store order scope b [(⟨lane, va, .phys pa⟩, data)] →
      order ≠ .rel → order ≠ .acqRel → isDevice pa = true →
      let w := s.writeLoc g.core (levelOf order scope) data (.phys pa)
      w.settled → exec (.storeComplete gid n) s = .next
        (((w.markLine g.core order (.phys pa)).completeOp gid n)).settleNode) ∧
    (∀ k order scope b data f11 tree (a : AtomicLane), o.kind = .atomic k order scope b data f11 tree [a] →
      (order = .rlx ∨ order = .plain) → s.lostNode g.core (levelOf order scope) a.acc.loc = none →
      (∀ pa, a.acc.loc = .phys pa → isPooled pa = false) →
      let level := levelOf order scope
      -- on uncached host memory at the host itself (R392)
      let level := s.atomicLevel level a.acc.loc
      let x := s.readLoc g.core level b a.acc.loc
      let old := ofBytes x.2
      let w := match atomicNew k (8 * b) old a with
        | some new => x.1.writeLoc g.core level (toBytes b new) a.acc.loc
        | none => x.1
      let i : Instr := if s.hostAtomic order scope a.acc.loc then .atomicopCompletion gid n
        else .variableResultArrival gid n a.acc.lane
      w.settled → ∃ t : State, exec i s = .next t.settleNode ∧ t.mem = w.mem ∧ t.cache = w.cache ∧
        ∀ g1, w.group? gid = some g1 → ∃ h : Group, t.group? gid = some h ∧ dget h.ops n = none ∧
          h.vregs = (g1.putData o f11 b data a.acc.lane old).vregs ∧
          h.sregs = (g1.putData o f11 b data a.acc.lane old).sregs)
  )

/-- R211, R255, R256: at levels 0 (the core's L1) and 1 (team to device scope), a byte of the device's own
memory that a core has written reads back for that core at either level; no other byte of device memory changes
for it; and at level 1 memory itself has the byte. R242, R256: what a fence does to the L1 of its core, in
device memory: after a release half no byte of the L1 is dirty and memory has what it held; after an acquire
half the L1 holds nothing, so that the next read goes to memory. (No write to the host that is on its way has a device
address.) -/
def Obligations.CachesAndFences : Prop :=
  (
  ∀ (s : State) (core level level' pa : Nat) (b : Byte), core < 320 → level ≤ 1 → level' ≤ 1 → isDevice pa = true →
    let t := s.writePhys core level pa b
    (t.readPhys core level' pa).2 = b ∧
    (level = 1 → t.rd pa = b) ∧
    (∀ qa, isDevice qa = true → qa ≠ pa → (t.readPhys core level' qa).2 = (s.readPhys core level' qa).2 ∧
      t.rd qa = s.rd qa)
  ) ∧
  (
  ∀ (s : State) (core : Nat) (scope : Scope), core < 320 → scope ≠ .group → keysRise s.cache = true →
    (∀ e ∈ s.cache, e.1 / 2 ^ 52 = core → isDevice (e.1 % 2 ^ 52) = true) →
    (∀ e ∈ s.cache, 320 ≤ e.1 / 2 ^ 52 → isDevice (e.1 % 2 ^ 52) = false) →
    (∀ e ∈ s.hostPosted, isDevice e.1 = false) →
    let rel := s.fenceRel core scope
    let acq := s.fenceAcq core scope
    ∀ pa, isDevice pa = true →
      (∀ c, rel.cached core pa = some c → c.dirty = false) ∧
      (∀ v, s.cached core pa = some ⟨v, true⟩ → rel.rd pa = v ∧ acq.rd pa = v) ∧
      ((∀ v, s.cached core pa ≠ some ⟨v, true⟩) → rel.rd pa = s.rd pa ∧ acq.rd pa = s.rd pa) ∧
      acq.cached core pa = none
  )

/-- R242, R243, R246, R410: FENCE, ACQR, STWB and STUNMAP issue, and what they do once the group's earlier
accesses are performed: a release at system scope completes once no write to a node that it counts as its own is on
its way, and one with a Meridian position has acted before it; STWB and STUNMAP outside the window have no effect and
complete in the next cycle, outside the team's stash they trap. -/
def Obligations.FenceAndWriteBackWordsIssue : Prop :=
  ∀ (s : State) (g : Group) (r : Running) (x : MFields),
    let sel := x.fsel
    let order : Order := Machine.orderOf x.order
    let scope := scopeOf x.scope.toNat
    let mer := decide (scope = .constellation)
    let w := (g.sreg x.sbase.toNat).toNat
    (s.issues (.fence x) g r → s.completesIf s.bare (.fence x)
      (s.afterNow sel mer (.fence order scope) (fun s gid n => s.applyFence order scope gid n)).advance) ∧
    (s.issues (.acqr x) g r → s.completesIf s.bare (.acqr x)
      (s.afterNow sel false (.acqr w) (fun s gid n => s.applyAcqr w gid n)).advance) ∧
    (∀ i drop, i = .stwb x ∧ drop = false ∨ i = .stunmap x ∧ drop = true → s.issues i g r →
      (∀ t c o, inWindow w = true → s.windowLoc g.team w 1 = some (.stash t c o) →
        -- the homes of the mapping's dirty bytes can be reached
        let s1 := s.addOpMer sel mer (.after (.stwb c o scope drop))
        let homes := ∀ tm k, s.team? g.team = some tm → tm.mapAt c o = some k →
          let w := s1.mapWriteBack g.ctx g.core g.team k 1 none
          w.settled ∧ (scope = .system → (w.fenceRel g.core .system).settled)
        s.completesIf (s.settled ∧ homes) i
          (s.afterNow sel mer (.stwb c o scope drop) (fun s gid n => s.applyStwb c o scope drop gid n)).advance) ∧
      (inWindow w = false → canonical (BitVec.ofNat 64 w) = true →
        s.completesIf s.settled i (s.addOp sel .idle).advance) ∧
      (inWindow w = true ∧ s.windowLoc g.team w 1 = none ∨ canonical (BitVec.ofNat 64 w) = false →
        s.completesIf s.settled i (s.trapHere 0x02
          (BitVec.ofNat 64 ((if inWindow w then 6 else 5) * 2 ^ 12 + 5)) 1 [(0, BitVec.ofNat 64 w)]))) ∧
    (∀ (t : State) (gid n : Nat) (h : Group) (op : Op), t.group? gid = some h → dget h.ops n = some op →
      -- has the state sent everything that it wrote back?
      let sent (u : State) : Prop := scope ≠ .system ∨ (u.wrote = [] ∧ u.relBusy u.nextId = false)
      let fenced := t.fenceRel h.core scope
      (op.mer = 0 → op.relAt = none → sent fenced →
        t.applyFence order scope gid n = (t.fenceDo h.core order scope).completeOp gid n) ∧
      (op.mer = 0 → op.relAt = none → ¬ sent fenced → order = .rel ∨ order = .acqRel →
        t.applyFence order scope gid n = fenced.modGroup gid (fun g =>
          { g with ops := dput g.ops n { op with relAt := some fenced.nextId } })) ∧
      (op.mer ≠ 0 → t.applyFence order scope gid n =
        (if order = .acq ∨ order = .acqRel then t.fenceAcq h.core scope else t).completeOp gid n) ∧
      (w ≤ 319 → t.applyAcqr w gid n =
        (((t.l1WriteBack w).l1Invalidate w).fenceAcq h.core .device).completeOp gid n) ∧
      (∀ tm c o m, t.team? h.team = some tm → tm.mapAt c o = some m →
        let home := t.mapWriteBack h.ctx h.core h.team m 1 none
        let u := if scope = .system then home.fenceRel h.core scope else home
        op.mer = 0 → op.relAt = none → sent u →
        t.applyStwb c o scope false gid n = u.completeOp gid n ∧
        t.applyStwb c o scope true gid n = (u.endMapping h.ctx h.core h.team m 1).completeOp gid n))

/-- R232, R244, R245, R246, R322: STMAP checks its window, its region and its description, and makes the mapping live
once no access of the group to that slot is pending; a live mapping that it overlaps, and the earliest of 32 of its
slot, end as by STUNMAP (at device scope: log 110), their bytes staying in the stash; STASH_FILL reads a wanted piece from its global bytes;
STASH_LAZY_WRITEBACK writes the dirty bytes of a piece home. -/
def Obligations.StashMappingsActAsTheRulesSay : Prop :=
  (∀ (s : State) (g : Group) (r : Running) (x : MFields), s.issues (.stmap x) g r →
    let w := (g.sreg x.sbase.toNat).toNat
    let ga := g.sreg x.addr.toNat
    let d := g.sreg x.data.toNat
    let rows := d.toNat / 2 ^ 16 % 2 ^ 12
    let rowb := d.toNat % 2 ^ 16
    let stride := (g.sreg (x.data.toNat + 1)).toInt
    let rw := d.getLsbD 63
    let n := rows * rowb
    let pages := regionPages ga rows rowb stride
    let good := d.toNat / 2 ^ 28 % 2 ^ 35 = 0 ∧ rows ≠ 0 ∧ rowb ≠ 0 ∧ rowb % 64 = 0 ∧ stride % 64 = 0 ∧ w % 64 = 0 ∧
      ga.toNat % 64 = 0
    let inSlot := inWindow w = true ∧ (w - 0xFF80000000000000) % 2 ^ 20 + n ≤ 2 ^ 20
    let outside (va : Nat) : Bool := !canonical (BitVec.ofNat 64 va) || inWindow va
    let a := agentOf s.cur.gid g
    let does (ok : Prop) (t : State) : Prop := s.completesIf ok (.stmap x) t
    let trap (s : State) (code e va : Nat) : State :=
      s.trapHere (BitVec.ofNat 8 code) (BitVec.ofNat 64 e) 1 [(0, BitVec.ofNat 64 va)]
    (canonical (BitVec.ofNat 64 w) = false → does s.settled (trap s 0x02 (5 * 2 ^ 12 + 5) w)) ∧
    (canonical (BitVec.ofNat 64 w) = true → (inSlot → s.windowLoc g.team w n = none) →
      does s.settled (trap s 0x02 (6 * 2 ^ 12 + 5) w)) ∧
    (canonical (BitVec.ofNat 64 w) = true → inSlot → ∀ team c o, s.windowLoc g.team w n = some (.stash team c o) →
      (∀ va, pages.find? outside = some va →
        does s.settled (trap s 0x02 ((if inWindow va then 6 else 5) * 2 ^ 12 + 5) va)) ∧
      (pages.find? outside = none → ¬ good → does s.settled (trap s 0x0A 5 w)) ∧
      (pages.find? outside = none → good →
        let v := s.regionFault a rw none pages
        (∀ code e va, v.2 = some (code, e, va) → does v.1.settled (trap v.1 code e va)) ∧
        (v.2 = none →
          let owner := ((v.1.team? team).bind (fun t => t.cores[c]?)).getD a.core
          let lock := v.1.stmapLock a owner w n rowb ((List.range rows).map (fun (k : Nat) =>
            (ga + BitVec.ofInt 64 ((k : Int) * stride)).toNat))
          (∀ k va, lock = some (k, va) → does v.1.settled (trap v.1 0x09 k va)) ∧
          (lock = none →
            -- it waits to issue while an access of the group to the slot is pending
            (g.touching [(.stash team c 0, 2 ^ 20, true)] = true → does s.settled s) ∧
            (g.touching [(.stash team c 0, 2 ^ 20, true)] = false →
              does (v.1.settled ∧ ∀ t, v.1.team? team = some t → t.maps = []) (v.1.addMapping g.ctx g.core team
                { slot := c, off := o, rw := rw, rows := rows, rowb := rowb, stride := stride, global := ga }).advance)))))) ∧
  (∀ (s : State) (c core team : Nat) (t : Team) (m : Mapping), s.team? team = some t →
    let meets (x : Mapping) : Bool :=
      x.slot == m.slot && decide (x.off < m.off + m.rows * m.rowb) && decide (m.off < x.off + x.rows * x.rowb)
    let kept := t.maps.filter (fun x => !meets x)
    let same := kept.filter (fun x => x.slot == m.slot)
    let put (s : State) : State := s.modTeam team (fun t => { t with maps := t.maps ++ [m] })
    (∃ t', (s.addMapping c core team m).team? team = some t' ∧ t'.stash = t.stash ∧
      t'.maps = (if 32 ≤ same.length then kept.eraseP (fun x => x.slot == m.slot) else kept) ++ [m]) ∧
    (kept = t.maps → same.length < 32 → s.addMapping c core team m = put s) ∧
    (∀ i x, t.maps[i]? = some x →
      (meets x = true → (∀ j y, t.maps[j]? = some y → meets y = true → j = i) → same.length < 32 →
        s.addMapping c core team m = put (s.endMapping c core team i 1)) ∧
      (kept = t.maps → 32 ≤ same.length → x.slot = m.slot →
        (∀ j < i, ∀ y, t.maps[j]? = some y → y.slot ≠ m.slot) →
        s.addMapping c core team m = put (s.endMapping c core team i 1)))) ∧
  (∀ (s : State) (team piece : Nat) (t : Team) (m : Mapping), s.team? team = some t → t.maps = [m] →
    let home (b : Nat) : Nat := (m.global + BitVec.ofInt 64 ((b / m.rowb : Nat) * m.stride) +
      BitVec.ofNat 64 (b % m.rowb)).toNat
    let core := (t.cores[m.slot]?).getD 0
    let r := s.lookup core t.ctx (home (piece * 64))
    (∀ l, r.2 = .leaf l → m.wanted.contains piece = true → m.touched.contains piece = false → r.1.team? team = some t →
      let b := r.1.readLoc core 1 64 (.phys (l.frame + home (piece * 64) % 2 ^ l.bits))
      ∃ u t', s.completesIf b.1.settled (.stashFill team m.slot piece) u ∧ u.team? team = some t' ∧ u.mem = b.1.mem ∧
        (∀ i < 64, t'.stashGet m.slot (m.off + piece * 64 + i) = (b.2[i]?).getD 0) ∧
        t'.maps = [{ m with touched := piece :: m.touched, wanted := m.wanted.filter (fun q => q != piece) }]) ∧
    (m.dirty.any (fun b => b / 64 == piece) = true →
      let todo := m.dirty.filter (fun b => b / 64 == piece)
      let w := todo.foldl (fun s b =>
        let q := s.lookup core t.ctx (home b)
        match q.2 with
        | .leaf l => q.1.writePhys core 1 (l.frame + home b % 2 ^ l.bits) (t.stashGet m.slot (m.off + b))
        | _ => q.1) s
      s.completesIf w.settled (.stashLazyWriteback team m.slot piece) (w.modTeam team (fun t =>
        { t with maps := listSet t.maps 0 { m with dirty := m.dirty.filter (fun b => b / 64 != piece) } }))))

/-! ### Barriers, copy engine, queues -/

/-- R248, R249, R252: the barrier instructions issue: an arrival waits for the group's earlier accesses (a
release), a barrier outside the team's range is an address fault of REASON 7. -/
def Obligations.BarrierWordsIssue : Prop :=
  ∀ (s : State) (g : Group) (r : Running) (q : QFields),
    let bar := q.obj.toNat
    let w := q.imm.toNat
    let sb := q.sb.toNat
    let core := g.core
    let token := (g.sreg q.sa.toNat).getLsbD 0
    let after (a : AfterAct) (f : State → Nat → Nat → State) : State := (s.afterNow q.fsel false a f).advance
    (∀ i, (i = Instr.bara q ∨ i = .baraInit q ∨ i = .barw q ∨ i = .barx q) → s.issues i g r →
      (s.barInRange g.team bar = false → s.completesIf s.settled i (s.trapHere 0x02 (BitVec.ofNat 64 (7 * 2 ^ 12 + 2)) 1 []))) ∧
    (s.barInRange g.team bar = true →
      (s.issues (.bara q) g r → s.completesIf s.bare (.bara q) (after (.bara core bar w sb) (fun s gid n => s.applyBara core bar w sb gid n))) ∧
      (s.issues (.barx q) g r → s.completesIf s.bare (.barx q) (after (.barx core bar w) (fun s gid n => s.applyBarx core bar w gid n))) ∧
      (s.issues (.barw q) g r → s.completesIf s.bare (.barw q)
        ((s.barSettle core bar).addOp q.fsel (.barw core bar token)).advance) ∧
      (s.issues (.baraInit q) g r →
        let b := (s.barSettle core bar).bar core bar
        ∃ c : Bar, s.completesIf s.bare (.baraInit q)
          (((s.barSettle core bar).setBar core bar c).addOp q.fsel (.store .plain .group 0 [])).advance ∧
          c.cnt = b.cnt ∧ c.ph = b.ph ∧
          ((∀ p k, b.initBy ≠ some (s.cycle, p, k)) → c.exp = w) ∧
          (∀ p k, b.initBy = some (s.cycle, p, k) →
            if p < g.part ∨ p = g.part ∧ k < g.resident then c = b else c.exp = w))) ∧
    (s.issues (.tbar q) g r → s.completesIf s.bare (.tbar q) (after (.tbar bar none) (fun s gid n => s.applyTbar bar none gid n))) ∧
    (s.issues (.tbarArr q) g r →
      s.completesIf s.bare (.tbarArr q) (after (.tbar bar (some sb)) (fun s gid n => s.applyTbar bar (some sb) gid n))) ∧
    (s.issues (.tbarWait q) g r → ∀ t, s.team? g.team = some t →
      let s1 := s.addOp q.fsel (.tbar bar 1)
      ((t.tbar bar).ph = token → s.completesIf s.bare (.tbarWait q) s1.advance) ∧
      ((t.tbar bar).ph ≠ token → s.completesIf s.bare (.tbarWait q) (s1.completeWait s.cur.gid s.nextId .team (t.tbar bar).endClock).advance))

/-- R249, R250, R251: a barrier in time. Between two cycles nothing happens but step 3, at most one phase change
a cycle; an arrival adds its weight, at most to 4,095; BARA's token is PH before the cycle's change; a BARW
whose token differs from PH, and a BARX whose phase has ended, complete. R36, R252: a team barrier. An arrival
counts for its phase, a second one of the same group is held for the next and a third for the one after; the
phase is decided once every group that has not exited has arrived, and ends 6 or 20 cycles later: PH changes, the
groups that wait for this end go on, and of the held arrivals one for each group counts. -/
def Obligations.BarrierPhases : Prop :=
  (
  (∀ (b : Bar) (now : Nat), b.last ≤ now →
    let c := (b.settle now).1
    let d := (b.settle (now + 1)).1
    (now = b.last → c.ph = b.ph ∧ c.cnt = b.cnt ∧ c.exp = b.exp) ∧
    d.exp = c.exp ∧
    (if c.exp ≠ 0 ∧ c.exp ≤ c.cnt then d.ph = !c.ph ∧ d.cnt = c.cnt - c.exp else d.ph = c.ph ∧ d.cnt = c.cnt)) ∧
  (∀ (b : Bar) (w : Nat) (clock : BitVec 48), (b.arrive w clock).cnt = min (b.cnt + w) 4095 ∧
    (b.arrive w clock).ph = b.ph ∧ (b.arrive w clock).exp = b.exp) ∧
  (∀ (s : State) (core bar w sb gid n : Nat) (g : Group), s.group? gid = some g →
    let s1 := (s.fenceRel g.core .team).barSettle core bar
    let b := s1.bar core bar
    let t := s.applyBara core bar w sb gid n
    t.bar core bar = b.arrive w (g.opClock n) ∧ t.mem = s1.mem ∧
    ∃ h, t.group? gid = some h ∧ dget h.ops n = none ∧
      ∀ h1 o, s1.group? gid = some h1 → dget h1.ops n = some o → o.sup = h1.supervisor →
        h1.newest o.sup sb o.issueAt o.startAt → h.sreg sb = if b.ph then 1 else 0) ∧
  (∀ (s : State) (core bar : Nat), core < 320 → bar < 2048 →
    let b := s.bar core bar
    let x := b.settle s.cycle
    let t := s.barSettle core bar
    s.completesIf s.bare (.barrierWaitComplete core bar) t ∧ t.bar core bar = x.1 ∧
    ∀ gid g n o, s.group? gid = some g → dget g.ops n = some o → s.isSaved g.team = false →
      (∀ tok, o.kind = .barw core bar tok → b.last < s.cycle → x.1.ph ≠ tok → x.2 ≤ 1 →
        ∃ h, t.group? gid = some h ∧ dget h.ops n = none) ∧
      (∀ ph, o.kind = .barx core bar ph → b.ph = ph → 1 ≤ x.2 → ∃ h, t.group? gid = some h ∧ dget h.ops n = none))
  ) ∧
  (
  (∀ (b : TeamBar) (gid : Nat) (clock : BitVec 48),
    let r := b.arrive gid clock
    (gid ∉ b.arrived → b.decided = none → r.1.arrived = b.arrived ++ [gid] ∧ r.1.held = b.held ∧ r.2 = 1 ∧
      b.phaseOf r.2 = b.ph) ∧
    (gid ∈ b.arrived ∨ b.decided ≠ none → r.1.arrived = b.arrived ∧ r.1.held = b.held ++ [(gid, clock)] ∧
      ((∀ e ∈ b.held, e.1 ≠ gid) → r.2 = 2 ∧ b.phaseOf r.2 = !b.ph) ∧
      (∀ e ∈ b.held, e.1 = gid → 3 ≤ r.2))) ∧
  (∀ (s : State) (team tb : Nat) (clock : BitVec 48) (t : Team), s.team? team = some t →
    let b := t.tbar tb
    b.decided = none → b.arrived ≠ [] →
    ((∀ gid ∈ t.gids, ∀ g, s.group? gid = some g → g.xmask = allLanes ∨ gid ∈ b.arrived) →
      ∃ u, (s.tbarDecide team tb clock).team? team = some u ∧ (u.tbar tb).decided = some s.cycle) ∧
    ((∃ gid ∈ t.gids, ∃ g, s.group? gid = some g ∧ g.xmask ≠ allLanes ∧ gid ∉ b.arrived) →
      s.tbarDecide team tb clock = s)) ∧
  (∀ (s : State) (team tb c : Nat) (t : Team), s.team? team = some t → (t.tbar tb).decided = some c →
    c + (if t.cores.length = 1 then 6 else 20) ≤ s.cycle →
    let b := t.tbar tb
    ∃ u, s.completesIf s.bare (.teamBarrierPhaseEnd team tb) u ∧ (∃ v, u.team? team = some v ∧ (v.tbar tb).ph = !b.ph ∧
        (∀ gid, gid ∈ (v.tbar tb).arrived ↔ ∃ clock, (gid, clock) ∈ b.held) ∧
        (v.tbar tb).arrived.length + (v.tbar tb).held.length = b.held.length) ∧
      ∀ gid g n o, gid ∈ t.gids → s.group? gid = some g → dget g.ops n = some o → o.kind = .tbar tb 1 →
        ∃ h, u.group? gid = some h ∧ dget h.ops n = none)
  )

/-- R316 to R318, R325 to R328, R330: KICK, CPWAIT, YIELDC and PFB issue where their checks pass, and trap with the
code of the first failing check. A KICK reads its records, and it and PFB read their objects, after the group's earlier
accesses to them (R235), and the records go to its core's engine in order, or into the brine of a deterministic group; a YIELDC's slot waits at its continuation,
or empties where that is its join. -/
def Obligations.CopyWordsIssue : Prop :=
  ∀ (s : State) (g : Group) (r : Running) (q : QFields),
    let gid := s.cur.gid
    let va := g.sreg q.sa.toNat
    let at_ := g.sreg q.sb.toNat
    let a := agentOf gid g
    let scope := scopeOf (q.imm.toNat % 8)
    let check := s.checkLanes a 16 16 7 { r := true, user := !g.supervisor } [(0, va)]
    let busy (i : Instr) (s1 : State) (obj : Loc) : Prop :=
      let t := s1.settleBytes gid [(obj, 16, false)]
      s.completesIf t.settled i t
    let brined (s : State) (o : BrineOp) : State := s.modGroup gid (fun g =>
      { g with brine := { g.brine with ops := g.brine.ops ++ [o] } })
    (s.issues (.kick q) g r →
      let l := s.recordBytes g.team va q.imm.toNat
      let t := s.settleBytes gid l
      ∀ g1, t.group? gid = some g1 →
        (g1.mayRead l = false → s.completesIf t.settled (.kick q) t) ∧
        (g1.mayRead l = true →
          let c := t.checkRecs a q.imm.toNat va
          let s1 (l : List CopyRec) : State := c.1.addOp q.fsel (.kick l)
          (∀ l, c.2 = .inl l → s.completesIf c.1.settled (.kick q)
            (if g.det then brined (s1 l) (.kick c.1.nextId g.lclk)
              else (s1 l).queueJobs gid c.1.nextId g (!g.supervisor) g.lclk l).advance) ∧
          (∀ code e v, c.2 = .inr (.trap code e v) → s.completesIf c.1.settled (.kick q)
            (c.1.trapHere (BitVec.ofNat 8 code) (BitVec.ofNat 64 e) 1 [(0, v)])) ∧
          (∀ t c' o, c.2 = .inr (.wait t c' o) → s.completesIf c.1.settled (.kick q) (c.1.wantPieces [(t, c', o)])) ∧
          (∀ obj, c.2 = .inr (.busy obj) → busy (.kick q) c.1 obj))) ∧
    (s.issues (.cpwait q) g r → ∀ s1 x l, check = (s1, .ok (x :: l)) → s.completesIf s1.settled (.cpwait q)
      (s1.addOpMer q.fsel (needsMeridian .acq scope) (.cpwait x scope false)).advance) ∧
    (s.issues (.yieldc q) g r → ∀ s1 x l, check = (s1, .ok (x :: l)) →
      (at_.toNat % 8 ≠ 0 → s.completesIf s1.settled (.yieldc q) (s1.trapHere 0x0A 8 1 [(0, at_)])) ∧
      (at_.toNat % 8 = 0 → (g.slot s.cur.slot).join ≠ at_ → r.idx + 1 = r.count → r.replay = false →
        ∃ t h, s.completesIf s1.settled (.yieldc q) t ∧ t.mem = s1.mem ∧ t.group? gid = some h ∧
          (h.slot s.cur.slot).running = none ∧ (h.slot s.cur.slot).pc = at_ ∧
          (h.slot s.cur.slot).yieldc = some s1.nextId ∧ (h.slot s.cur.slot).mask = (g.slot s.cur.slot).mask ∧
          (∃ o, dget h.ops s1.nextId = some o ∧ o.kind = .yieldc x scope) ∧
          h.vregs = g.vregs ∧ h.sregs = g.sregs) ∧
      (at_.toNat % 8 = 0 → (g.slot s.cur.slot).join = at_ → r.idx + 1 = r.count → r.replay = false →
        (g.half? s.cur.slot).isNone → ∃ t h, s.completesIf s1.settled (.yieldc q) t ∧ t.mem = s1.mem ∧
          t.group? gid = some h ∧ (h.slot s.cur.slot).mask = 0 ∧
          (∃ o, dget h.ops s1.nextId = some o ∧ o.kind = .cpwait x scope true) ∧ h.vregs = g.vregs ∧ h.sregs = g.sregs)) ∧
    (∀ i, (i = .cpwait q ∨ i = .yieldc q) → s.issues i g r →
      (∀ s1 code e m f, check = (s1, .trap code e m f) →
        s.completesIf s1.settled i (s1.trapHere (BitVec.ofNat 8 code) (BitVec.ofNat 64 e) m f)) ∧
      (∀ s1 l, check = (s1, .wait l) → s.completesIf s1.settled i (s1.wantPieces l))) ∧
    (s.issues (.pfb q) g r →
      let c := s.checkObj a .device at_ 7
      (∀ obj, c.2 = .inl obj → ∃ t, s.completesIf c.1.settled (.pfb q) t ∧ t.mem = c.1.mem ∧
        dget t.pfbs c.1.nextId = some
          { core := g.core, gid := gid, ctx := g.ctx, team := g.team,
            base := BitVec.ofNat 64 (va.toNat / 256 * 256), bytes := 4096 * q.imm.toNat, pos := 0, bobj := obj,
            user := !g.supervisor, clock := g.lclk, held := g.det }) ∧
      (∀ code e v, c.2 = .inr (.trap code e v) → s.completesIf c.1.settled (.pfb q)
        (c.1.trapHere (BitVec.ofNat 8 code) (BitVec.ofNat 64 e) 1 [(0, v)])) ∧
      (∀ obj, c.2 = .inr (.busy obj) → busy (.pfb q) c.1 obj))

/-- R320: the count of c bytes on a barrier object: REMAIN falls by c, and to 0 with an overrun bit where it
holds less; PHASE changes where REMAIN reaches 0; error bits stay set. R317, R329: a piece of a record stays in
one row and one 256-byte frame of its destination, so that the pieces, each of the length given, run through all
T bytes. R320 to R323, R325 to R329: the steps of the copy engine. The first waiting record of a core is
accepted where the lock tables have room, and the KICK completes with its last record; the next piece of a
record that no earlier one holds back is moved and counted down, one that goes to a node once the node has performed it
(R385); CPWAIT and YIELDC go on once their object's
REMAIN is 0; a PFB counts a frame down; a count that takes a Meridian position follows at that position. -/
def Obligations.CopyEngineSteps : Prop :=
  (
  ∀ (remain c e : Nat) (w : Word64), e < 2 ^ 11 →
    let r := objCount remain w c e
    r.1 = remain - c ∧
    ∀ i < 64, r.2.getLsbD i =
      if i = 32 then (if remain ≠ 0 ∧ remain ≤ c then !w.getLsbD 32 else w.getLsbD 32)
      else w.getLsbD i || e.testBit i || (decide (i = 10) && decide (remain < c))
  ) ∧
  (
  ∀ (r : CopyRec) (pos : Nat), 0 < r.rowb →
    let x := r.piece pos
    1 ≤ x.2.2.2 ∧ x.2.2.2 ≤ 256 ∧ pos % r.rowb + x.2.2.2 ≤ r.rowb ∧ x.2.1 % 256 + x.2.2.2 ≤ 256 ∧
    (r.kind ≠ 3 → x.2.1 = (r.dst + BitVec.ofInt 64 ((pos / r.rowb : Nat) * r.dstr) + BitVec.ofNat 64 (pos % r.rowb)).toNat ∧
      x.2.2.1 = (r.src + BitVec.ofInt 64 ((pos / r.rowb : Nat) * r.sstr) + BitVec.ofNat 64 (pos % r.rowb)).toNat) ∧
    (r.kind = 2 → ∀ (p : Word64) (i : Nat), i < x.2.2.2 →
      (fillBytes p (pos % 4) x.2.2.2)[i]? = some (p.extractLsb' (8 * ((pos % 4 + i) % 4)) 8))
  ) ∧
  (
  (∀ (s : State) (core key : Nat) (j : CopyJob), s.nextJob core = some (key, j) →
    (∀ l, enterLocks (s.locksOf key j) s.locks = some l →
      let s1 := { s with locks := l, jobs := dput s.jobs key { j with accepted := true } }
      exec (.recordAccept core) s = .next
        (if s1.jobs.any (fun e => e.2.gid == j.gid && e.2.op == j.op && !e.2.accepted) then s1 else s1.completeOp j.gid j.op)) ∧
    (enterLocks (s.locksOf key j) s.locks = none → exec (.recordAccept core) s = .next s)) ∧
  (∀ (s : State) (core key : Nat) (j : CopyJob), dget s.jobs key = some j → j.core = core → j.accepted = true →
    s.jobWaits key j = false → j.due = none →
    -- n bytes are counted with error bits e, or take a Meridian position to be counted at (R331)
    let counted (s1 : State) (j : CopyJob) (n e : Nat) : Prop :=
      (j.needsPos = true → s.completesIf s1.settled (.pieceCountdown core key)
        { s1 with jobs := dput s1.jobs key { j with due := some (n, e), mer := 1 } }) ∧
      (j.needsPos = false →
        let w := s1.countDown core j.req.scope j.req.bobj n e j.clock
        ∃ t, s.completesIf w.settled (.pieceCountdown core key) t ∧ t.mem = w.mem ∧
          (j.cnt + n < j.req.total → dget t.jobs key = some { j with due := none, mer := 0, cnt := j.cnt + n }) ∧
          (j.req.total ≤ j.cnt + n → dget t.jobs key = none ∧ ∀ l ∈ t.locks, l.2.job ≠ key))
    (∀ c n e, j.ended.find? (fun x => decide (x.1 < s.cycle)) = some (c, n, e) →
      counted s { j with ended := j.ended.erase (c, n, e) } n e) ∧
    (j.ended.find? (fun x => decide (x.1 < s.cycle)) = none → j.pos < j.req.total →
      let n := (j.req.piece j.pos).2.2.2
      (∀ s1 e, s.movePiece key j = (s1, .inl (some e)) → counted s1 { j with pos := j.pos + n } n e) ∧
      (∀ s1, s.movePiece key j = (s1, .inl none) → s.completesIf s1.settled (.pieceCountdown core key)
        { s1 with jobs := dput s1.jobs key { j with pos := j.pos + n } }) ∧
      (∀ s1 w, s.movePiece key j = (s1, .inr w) → s.completesIf s1.settled (.pieceCountdown core key)
        (s1.wantPieces [w])))) ∧
  (∀ (s : State) (gid op : Nat) (g : Group) (o : Op) (x : LaneAcc) (scope : Scope), s.group? gid = some g →
    dget g.ops op = some o → g.canPerform op o = true →
    let v := s.readLoc g.core (levelOf .acq scope) 8 x.loc
    (∀ ends, o.kind = .cpwait x scope ends →
      (ofBytes v.2 = 0 → s.completesIf (v.1.settled ∧ v.1.cache = []) (.cpwaitComplete gid op)
        (v.1.completeWait gid op scope (s.objClock x.loc))) ∧
      (ofBytes v.2 ≠ 0 → o.mer ≠ 3 → s.completesIf v.1.settled (.cpwaitComplete gid op) v.1)) ∧
    (o.kind = .yieldc x scope → ∀ k ≤ 1, (g.slot k).yieldc = some op → ofBytes v.2 = 0 →
      ∃ t h, s.completesIf (v.1.settled ∧ v.1.cache = []) (.yieldcReactivate gid k) t ∧ t.group? gid = some h ∧
        (h.slot k).yieldc = none ∧ (h.slot k).eligFrom = s.cycle + 1 ∧ dget h.ops op = none ∧ h.vregs = g.vregs ∧
        h.sregs = g.sregs)) ∧
  (∀ (s : State) (core key : Nat) (j : PfbJob), dget s.pfbs key = some j → j.core = core → j.held = false →
    let p := s.prefetch j ((j.base + BitVec.ofNat 64 j.pos).toNat)
    let s1 := p.1.countDown core .device j.bobj 256 (if p.2 then 0x100 else 0) j.clock
    s.completesIf s1.settled (.pfbFrameArrive core key)
      { s1 with
        pfbs := if j.pos + 256 < j.bytes then dput s1.pfbs key { j with pos := j.pos + 256 } else ddel s1.pfbs key })
  )

/-- R346 to R349: ENQ, DEQ and both forms of LAUNCH issue where their operand passes its checks, and act once
the group's earlier accesses are performed; LAUNCH for no lane has no effect and completes in the next cycle; a record that is not 128-byte
aligned traps. -/
def Obligations.QueueWordsIssue : Prop :=
  ∀ (s : State) (g : Group) (r : Running) (q : QFields),
    let n := q.obj.toNat
    let sb := q.sb.toNat
    let nw := q.imm.getLsbD 0
    let va := g.sreg q.sa.toNat
    let load : Need := { r := true, user := !g.supervisor }
    let store : Need := { w := true, user := !g.supervisor, cfTraps := true }
    let check (al kind : Nat) (need : Need) := s.checkLanes (agentOf s.cur.gid g) 64 al kind need [(0, va)]
    -- the device's own memory can be reached and holds the queue's ring, and nothing waits for the queue
    let ok (s : State) : Prop := s.clear ∧ s.ringHere n ∧ (s.queue n).waiters = []
    let after (s : State) (a : AfterAct) (f : State → Nat → Nat → State) : State := (s.afterNow q.fsel false a f).advance
    let lanes := (List.range 64).filter (fun i => (g.exec s.cur.mask q.neg q.pred).getLsbD i)
    let args := lanes.map (fun i => BitVec.ofNat 64 (g.vecVal true sb i))
    (s.issues (.enq q) g r → ∀ s1 x l, check 64 0 load = (s1, .ok (x :: l)) →
      s.completesIf (ok s1 ∧ x.loc.inStash) (.enq q)
        (after s1 (.enq n sb nw x.loc) (fun s gid k => s.applyEnq n sb nw x.loc gid k))) ∧
    (s.issues (.deq q) g r → ∀ s1 x l, check 64 1 store = (s1, .ok (x :: l)) →
      s.completesIf (ok s1 ∧ x.loc.inStash) (.deq q)
        (after s1 (.deq n sb nw x) (fun s gid k => s.applyDeq n sb nw x gid k))) ∧
    (s.issues (.launch q) g r → ∀ s1 l, check 128 0 load = (s1, .ok l) → s.completesIf (ok s1) (.launch q)
      (after s1 (.launch n sb nw va) (fun s gid k => s.applyLaunch n sb nw va gid k))) ∧
    (s.issues (.launchPerLane q) g r →
      (lanes = [] → s.completesIf s.settled (.launchPerLane q) (s.addOp q.fsel .idle).advance) ∧
      (lanes ≠ [] → ∀ s1 l, check 128 0 load = (s1, .ok l) → s.completesIf (ok s1) (.launchPerLane q)
        (after s1 (.launchLanes n va args) (fun s gid k => s.applyLaunchLanes n va args gid k)))) ∧
    (∀ i al kind need, (i = .enq q ∧ al = 64 ∧ kind = 0 ∧ need = load) ∨ (i = .deq q ∧ al = 64 ∧ kind = 1 ∧ need = store) ∨
        (i = .launch q ∧ al = 128 ∧ kind = 0 ∧ need = load) ∨
        (i = .launchPerLane q ∧ lanes ≠ [] ∧ al = 128 ∧ kind = 0 ∧ need = load) → s.issues i g r →
      (∀ s1 code e m f, check al kind need = (s1, .trap code e m f) →
        s.completesIf s1.settled i (s1.trapHere (BitVec.ofNat 8 code) (BitVec.ofNat 64 e) m f)) ∧
      (∀ s1 l, check al kind need = (s1, .wait l) → s.completesIf s1.settled i (s1.wantPieces l))) ∧
    -- R346: an aligned record, or the trap for one that is not, before its translation
    (s.issues (.launch q) g r → va.toNat % 128 ≠ 0 → va.toNat < 2 ^ 55 →
      s.completesIf s.settled (.launch q) (s.trapHere 0x0A 0 1 [(0, va)]))

/-- R333, R347, R348: an entry appended to a queue with a free slot, whose ring lies in the device's own memory,
stands at the place of its serial number, the former TAIL, and every entry from HEAD on keeps its place and its
bytes. R335, R336, R346 to R348: what ENQ, DEQ and LAUNCH do at their position, and the steps of the queues: the
failure codes in their order (code 4 before 1: the model's choice, log 113); the appends that wait take the slots that are
free, then an ENQ of a legal entry into a queue with room takes its serial number; the entries at hand go to earlier
waiters, then DEQ takes the entry at HEAD; both wait where there is none, unless NOWAIT; a write of 64 bytes to the
enqueue port is appended, any other is dropped and counted, and one behind an earlier store of the host that is held
waits for that (R398). -/
def Obligations.QueueOperations : Prop :=
  (
  ∀ (s : State) (n : Nat) (entry : List Byte) (clock : Option (BitVec 48)),
    let q := s.queue n
    let t := s.append n entry clock
    entry.length = 64 → q.sz ≤ 12 → q.count < q.cap →
    (∀ k < 64 * q.cap, isDevice (q.qbase + k) = true) →
    (t.queue n).tail = q.tail + 1 ∧ (t.queue n).head = q.head ∧ (t.queue n).count = q.count + 1 ∧
    (t.devBytes 0 64 (q.qbase + 64 * (q.tail.toNat % 2 ^ (q.sz + 4)))).2 = entry ∧
    (∀ i < q.count, let serial := q.head + BitVec.ofNat 48 i
      (t.devBytes 0 64 (q.slotAt serial)).2 = (s.devBytes 0 64 (q.slotAt serial)).2) ∧
    (∀ m, m ≠ n → t.queue m = s.queue m) ∧ t.groups = s.groups
  ) ∧
  (
  (∀ (q : Queue) (ctx : Nat) (deq launch : Bool),
    let bad := q.en = false ∨ 1 < q.mode.toNat ∨ 12 < q.sz ∨ q.ctx ≠ ctx
    let wrong := deq = true ∧ q.mode = 0 ∨ launch = true ∧ q.mode = 1
    (bad → queueFail q ctx deq launch = some 2) ∧ (¬ bad → wrong → queueFail q ctx deq launch = some 3) ∧
    (¬ bad → ¬ wrong → queueFail q ctx deq launch = none)) ∧
  (∀ (s : State) (gid n queue sb : Nat) (nw : Bool) (g : Group) (o : Op), s.group? gid = some g →
    dget g.ops n = some o → o.sup = g.supervisor → g.newest o.sup sb o.issueAt o.startAt →
    -- no other operation of the group waits for the queue
    (∀ w ∈ (s.queue queue).waiters, ∀ k, w ≠ .item gid k ∧ w ≠ .room gid k) →
    let fail (k : Nat) : Word64 := BitVec.ofNat 64 (2 ^ 63 + k)
    let done (t : State) (v : Word64) : Prop := ∃ h, t.group? gid = some h ∧ dget h.ops n = none ∧ h.sreg sb = v
    (∀ src, let s1 := s.fenceRel g.core .device
      let b := s1.groupBytes g 0 64 src
      let a := b.1.admitRooms queue
      let q := b.1.queue queue
      let r := a.queue queue
      let t := s.applyEnq queue sb nw src gid n
      (q.waiters = [] → a = b.1) ∧
      (∀ k, queueFail q g.ctx false false = some k → done t (fail k)) ∧
      (queueFail q g.ctx false false = none → q.mode = 0 → b.2.head? ≠ some 1 → b.2.head? ≠ some 2 → done t (fail 4)) ∧
      (queueFail q g.ctx false false = none → q.mode = 1 ∨ b.2.head? = some 1 ∨ b.2.head? = some 2 →
        (a.queueFull queue = false → done t (r.tail.setWidth 64) ∧ (t.queue queue).tail = r.tail + 1) ∧
        (a.queueFull queue = true → nw = true → done t (fail 1) ∧ t.queue queue = r) ∧
        (a.queueFull queue = true → nw = false → (t.queue queue).waiters = r.waiters ++ [.room gid n]))) ∧
    (∀ dst, let q := s.queue queue
      let t := s.applyDeq queue sb nw dst gid n
      -- the entries at hand that belong to earlier waiters go to them, and waiting appends have what there is
      let f := ((s.feed queue).admitRooms queue).queue queue
      (∀ k, queueFail q g.ctx true false = some k → done t (fail k)) ∧
      (queueFail q g.ctx true false = none →
        (f.count ≠ 0 → done t (f.head.setWidth 64) ∧ (t.queue queue).head = f.head + 1) ∧
        (f.count = 0 → nw = true → done t (fail 1) ∧ t.queue queue = f) ∧
        (f.count = 0 → nw = false → (t.queue queue).waiters = f.waiters ++ [.item gid n])) ∧
      (q.waiters = [] → f = q)) ∧
    (∀ rec, let s1 := s.fenceRel g.core .device
      let a := s1.admitRooms queue
      let q := s1.queue queue
      let r := a.queue queue
      let t := s.applyLaunch queue sb nw rec gid n
      (q.waiters = [] → a = s1) ∧
      (∀ k, queueFail q g.ctx false true = some k → done t (fail k)) ∧
      (queueFail q g.ctx false true = none →
        (a.queueFull queue = false → done t (r.tail.setWidth 64) ∧ (t.queue queue).tail = r.tail + 1 ∧
          t.mem = (a.append queue (launchEntry rec none) (some (g.opClock n))).mem) ∧
        (a.queueFull queue = true → nw = true → done t (fail 1) ∧ t.queue queue = r) ∧
        (a.queueFull queue = true → nw = false → (t.queue queue).waiters = r.waiters ++ [.room gid n])))) ∧
  -- a slot is free for a new entry unless earlier waiters need it
  (∀ (s : State) (n : Nat), (s.queue n).waiters = [] →
    (s.queueFull n = true ↔ (s.queue n).cap ≤ (s.queue n).count)) ∧
  (∀ (s : State) (n gid op : Nat) (rest : List Waiter) (g : Group) (o : Op),
    let q := s.queue n
    s.group? gid = some g → dget g.ops op = some o → q.en = true → q.mode.toNat ≤ 1 → q.sz ≤ 12 →
    (s.ctx q.ctx).terminate = none →
    (∀ k sb dst got, q.waiters = .item gid op :: rest → o.kind = .deq k sb dst got → 0 < q.count →
      (s.isSaved g.team = false → s.completesIf (s.clear ∧ s.ringHere n ∧ dst.loc.inStash) (.deqWaiterComplete n)
        ((s.setQueue n { q with waiters := rest }).deliver gid op n sb dst true)) ∧
      -- the entry is kept for a team that is saved
      (s.isSaved g.team = true → s.completesIf (s.clear ∧ s.ringHere n) (.deqWaiterComplete n) (s.assignEntry n))) ∧
    (q.waiters = [] → ∀ sb dst serial bytes clock, s.gotEntry n = some (gid, op, sb, dst, serial, bytes, clock) →
      s.completesIf (s.bare ∧ dst.loc.inStash) (.deqWaiterComplete n) (s.giveEntry gid op sb dst serial bytes clock)) ∧
    (∀ k sb e, q.waiters = .room gid op :: rest → o.kind = .launch k sb [e] → q.count < q.cap →
      s.completesIf (s.clear ∧ s.ringHere n ∧ e.length = 64) (.enqRoomComplete n)
        (((s.append n e (some (g.opClock op))).modQueue n (fun q => { q with waiters := rest })).queueDone
          gid op sb (q.tail.setWidth 64) ((dget q.freed (q.tail - BitVec.ofNat 48 q.cap).toNat).getD 0)))) ∧
  (∀ (s : State) (n : Nat) (bytes : List Byte), n < 1024 →
    let a := s.admitRooms n
    let q := a.queue n
    let on := q.en = true ∧ q.mode.toNat ≤ 1 ∧ q.sz ≤ 12
    let none_ := (s.queue n).waiters = []
    (s.hostBehind = true → exec (.enqueuePortWrite n bytes) s = .next
      { s with heldBar := s.heldBar ++ [.enqueuePortWrite n bytes] }) ∧
    (s.hostBehind = false →
      (none_ → a = s) ∧
      (bytes.length = 64 → on → a.queueFull n = false →
        s.completesIf (s.clear ∧ s.ringHere n ∧ none_) (.enqueuePortWrite n bytes) (a.append n bytes none)) ∧
      (bytes.length ≠ 64 ∨ ¬ on ∨ a.queueFull n = true → s.completesIf (s.settled ∧ none_) (.enqueuePortWrite n bytes)
        (a.setQueue n { q with drop := BitVec.ofNat 16 (min (q.drop.toNat + 1) 0xFFFF) }))))
  )

/-! ### Field engine, system words, matrix engine -/

/-- R276 to R279, R283 to R285: the words of the field engine issue. TXF makes one pair of every executing lane
that moves an amount between two cells of the field, completes the lanes that move nothing and refuses the
others (4: not a cell; 5: bad handle or type); a lane whose cell here fails its check traps instead, with every lane
that fails by the same code; FFENCE completes where nothing of the group is outstanding, and
else blocks its slot; FSTAT writes the refusal record. -/
def Obligations.FieldWordsIssue : Prop :=
  ∀ (s : State) (g : Group) (r : Running),
    let gid := s.cur.gid
    (∀ q, let d := q.imm.toNat % 1024
      let j := q.imm.toNat % 256
      let sink := q.imm.getLsbD 8
      let sb := q.sb.toNat
      let h := g.sreg q.sa.toNat
      let cst := ((s.field? g.ctx h).map (fun f => f.cst)).getD false
      let load : Need := { r := true, user := !g.supervisor }
      (s.issues (.ftot q) g r → s.completesIf s.settled (.ftot q) (s.opNow (s.domainCst g.ctx d) (.ftot d sb)
        (fun s gid n => s.applyFtot d sb [] gid n)).advance) ∧
      (s.issues (.fdefDrop q) g r →
        -- the cells that the drop adds up can be reached
        let s1 := s.addOpMer false cst (.fdrop h sb)
        s.completesIf (s.settled ∧ ∀ f, s.field? g.ctx h = some f → (s1.dropField g.ctx h.toNat f).settled) (.fdefDrop q)
          (s.opNow cst (.fdrop h sb) (fun s gid n => s.applyFdrop h sb gid n)).advance) ∧
      (s.issues (.fbnd q) g r →
        let c := (s.addOpMer false cst (.fbnd h sb j sink none)).fbndCell g.ctx h j
        s.completesIf (s.settled ∧ (c.1.declare g.ctx h j sink c.2).1.settled) (.fbnd q)
          (s.opNow cst (.fbnd h sb j sink none) (fun s gid n => s.fbndNow h sb j sink gid n)).advance) ∧
      (s.issues (.fdef q) g r →
        (h.toNat % 64 ≠ 0 → s.completesIf s.settled (.fdef q) (s.opNow false (.fdef [] sb)
          (fun s gid n => s.answer gid n sb [BitVec.ofNat 64 (2 ^ 63 + 1)])).advance) ∧
        (h.toNat % 64 = 0 →
          let check := s.checkLanes (agentOf gid g) 64 64 0 load [(0, h)]
          (∀ s1 x l, check = (s1, .ok (x :: l)) →
            -- it reads the descriptor after the group's earlier accesses to it
            let t := s1.settleBytes gid [(x.loc, 64, false)]
            ∀ g1, t.group? gid = some g1 →
              (g1.mayRead [(x.loc, 64, false)] = false → s.completesIf t.settled (.fdef q) t) ∧
              (g1.mayRead [(x.loc, 64, false)] = true →
                let b := t.groupBytes g 0 64 x.loc
                let far := recNum b.2 14 1 / 4 % 8 == 4 && (parseField b.2 t.fabid).isSome
                let s2 := b.1.addOpMer false far (.fdef b.2 sb)
                s.completesIf (b.1.settled ∧ (s2.register g.ctx b.2).1.settled) (.fdef q)
                  (b.1.opNow far (.fdef b.2 sb) (fun s gid n => s.applyFdef b.2 sb gid n)).advance)) ∧
          (∀ s1 code e m f, check = (s1, .trap code e m f) →
            s.completesIf s1.settled (.fdef q) (s1.trapHere (BitVec.ofNat 8 code) (BitVec.ofNat 64 e) m f)))) ∧
      (s.issues (.ffence q) g r →
        let scope := scopeOf (q.imm.toNat % 8)
        let s1 := (s.addOpMer false (decide (scope = .constellation)) (.ffence scope)).modGroup gid (fun g =>
          g.setSlot s.cur.slot { g.slot s.cur.slot with blocked := true })
        let idle := scope ≠ .constellation ∧ s.fieldQuiet gid g = true ∧ g.earlier s.nextId = false
        (idle → s.completesIf s.bare (.ffence q) (s1.endFfence gid s.cur.slot s.nextId scope)) ∧
        (¬ idle → s.completesIf s.settled (.ffence q) s1)) ∧
      (s.issues (.fstat q) g r →
        let x := if g.supervisor = true ∧ g.tr.ecause.toNat % 256 = 0x0B then g.curRefusal else g.refusals.head?
        (∀ k < 8, g.newest g.supervisor (sb + k) s.cycle (g.startOf s.cur.slot)) →
        ∃ t h, exec (.fstat q) s = .next t ∧ t.group? s.cur.gid = some h ∧ t.mem = s.mem ∧ h.vregs = g.vregs ∧
          h.refusals = g.refusals ∧ h.sreg (sb + 7) = BitVec.ofNat 64 g.refusals.length ∧
          (x = none → ∀ k < 7, h.sreg (sb + k) = 0) ∧
          (∀ y, x = some y → h.sreg sb = y.wordAt ∧
            (∀ i < 64, (h.sreg (sb + 1)).getLsbD i = true ↔ ∃ e ∈ y.reasons, e.1 = i) ∧
            ∀ k < 5, ∀ i < 64, (h.sreg (sb + 2 + k)).getLsbD i = true ↔ (i, k + 1) ∈ y.reasons))) ∧
    (∀ x, s.issues (.txf x) g r →
      let f11 := x.form == .f11
      let wide := x.ty == 11
      let lanes := if x.form = .f11 then [0] else (List.range 64).filter (fun i =>
        (g.exec s.cur.mask x.neg x.pred).getLsbD i)
      let idx (n : BitVec 11) (i : Nat) : Nat :=
        (if f11 then (g.sreg n.toNat).toNat else (lane (g.vreg n.toNat) i).toNat) % 2 ^ 32
      let amt (i : Nat) : Int := sgn (if wide then 64 else 32)
        (if f11 then (g.sreg x.amt.toNat).toNat else g.vecVal wide x.amt.toNat i)
      let handle := g.sreg x.handle.toNat
      let f := s.field? g.ctx handle
      let chk := s.checkTxf { agentOf s.cur.gid g with user := false } f (fun i => [idx x.fromR i, idx x.toR i]) lanes
      let faults := chk.2.filterMap (fun e => match e.2 with
        | .inr (.fault c ei v) => some (e.1, c, ei, v)
        | _ => none)
      let waits := chk.2.filterMap (fun e => match e.2 with
        | .inr (.wait t c p) => some (t, c, p)
        | _ => none)
      (∀ y ys, faults = y :: ys →
        let same := faults.filter (fun e => e.2.1 == y.2.1)
        ∃ m : Mask, (∀ i < 64, m.getLsbD i = true ↔ ∃ e ∈ same, e.1 = i) ∧
          s.completesIf chk.1.settled (.txf x) (chk.1.trapHere (BitVec.ofNat 8 y.2.1) (BitVec.ofNat 64 y.2.2.1) m
            (same.map (fun e => (e.1, BitVec.ofNat 64 e.2.2.2))))) ∧
      (faults = [] → waits ≠ [] → s.completesIf chk.1.settled (.txf x) (chk.1.wantPieces waits)) ∧
      ((∀ e ∈ chk.2, ∃ l, e.2 = .inl l) →
      ∃ t st h o, s.completesIf chk.1.settled (.txf x) t ∧ t.mem = chk.1.mem ∧ t.group? s.cur.gid = some h ∧
        dget h.ops chk.1.nextId = some o ∧ o.kind = .txf st ∧ st.wordAt = s.cur.addr ∧ st.fld = handle.toNat ∧
        h.vregs = g.vregs ∧ h.sregs = g.sregs ∧
        ∀ i ∈ lanes, match f with
          | none => (i, 5) ∈ st.refused
          | some fd =>
            let a := idx x.fromR i
            let b := idx x.toR i
            let m := amt i
            let limit := x.mod = 1 ∨ x.mod = 0 ∧ fd.limit = true
            (fd.wide ≠ wide → (i, 5) ∈ st.refused) ∧
            (fd.wide = wide → ¬ (fd.isCell a = true ∧ fd.isCell b = true) → (i, 4) ∈ st.refused) ∧
            (fd.wide = wide → fd.isCell a = true → fd.isCell b = true →
              (a = b ∨ m = 0 → i ∉ st.open_ ∧ (limit → (i, BitVec.ofInt 64 m) ∈ st.writes)) ∧
              (a ≠ b → m ≠ 0 → i ∈ st.open_ ∧ ∃ key p, dget t.pairs key = some p ∧ p.gid = s.cur.gid ∧
                p.op = chk.1.nextId ∧ p.lane = i ∧ p.fld = handle.toNat ∧ p.amt = m.natAbs ∧
                (p.limit = true ↔ limit) ∧ p.src = (if m < 0 then b else a) ∧ p.dst = (if m < 0 then a else b) ∧
                (p.swapped = true ↔ m < 0))))) ∧
    -- step 1 for one cell: a store to it, of KIND 4, in supervisor mode
    (∀ (a : Agent) (lane i : Nat) (fd : Field),
      let c := s.checkLane a lane (fd.va i) (fd.size i) 1 4 { w := true, user := false }
      (∀ code e v, c.2 = .fault code e v → s.checkCells a lane fd [i] = (c.1, .inr (.fault code e v))) ∧
      (∀ pa, c.2 = .ok (.phys pa) → s.checkCells a lane fd [i] = (c.1, .inl [(i, pa)])))

/-- R273, R279 to R281: a pair whose two cells are homed on this device, at its position. In limit mode the
from-cell gives at most what it may and the to-cell takes at most what it can; in trap mode a pair in the wrong
direction or of more than the from-cell may give changes nothing, and what the to-cell cannot take is held as a
return. Id + Bd of the domain stays. The lane is decided: refused with reason 2, 1 or 3, in trap mode alone, or in limit
mode to write the amount credited, with its sign. -/
def Obligations.FieldPairKeepsTheTotal : Prop :=
  ∀ (s : State) (p : Pair) (f : Field) (d : Domain) (spa dpa : Nat),
    dget s.fields (p.ctx * 4096 + p.fld) = some f → dget s.domains (p.ctx * 1024 + f.domain) = some d →
    p.spa = some spa → p.dpa = some dpa →
    let size (i : Nat) : Nat := if 2 ^ 32 - 256 ≤ i then 16 else if f.wide then 8 else 4
    (∀ k < 16, isDevice (spa + k) = true ∧ isDevice (dpa + k) = true) →
    (spa + size p.src ≤ dpa ∨ dpa + size p.dst ≤ spa) →
    let q := (s.cellRead (size p.src) spa).2
    let z := (s.cellRead (size p.dst) dpa).2
    let t := s.applyPair p
    let q' := (t.cellRead (size p.src) spa).2
    let z' := (t.cellRead (size p.dst) dpa).2
    let kind (i : Nat) : Option Bool :=   -- some true: a sink, some false: a source
      if 2 ^ 32 - 256 ≤ i then some (((dget f.bnd (i - (2 ^ 32 - 256))).map (fun x => x.2)).getD false) else none
    let top : Int := if f.wide then 2 ^ 63 - 1 else 2 ^ 31 - 1
    let avail : Int := match kind p.src with
      | none => if f.nonneg then max q 0 else q + top + 1
      | some false => q + 2 ^ 127
      | some true => 0
    let room : Int := match kind p.dst with
      | none => top - z
      | some true => 2 ^ 127 - 1 - z
      | some false => 0
    let wrong : Bool := kind p.src == some true || kind p.dst == some false
    (∃ d', dget t.domains (p.ctx * 1024 + f.domain) = some d' ∧ d'.id + d'.bd = d.id + d.bd ∧ d'.k = d.k) ∧
    (p.limit = true → q' = q - min (p.amt : Int) avail ∧ z' = z + min (min (p.amt : Int) avail) room) ∧
    (p.limit = false → wrong ∨ avail < p.amt → q' = q ∧ z' = z) ∧
    (p.limit = false → wrong = false → (p.amt : Int) ≤ avail → q' = q - p.amt ∧
      ((p.amt : Int) ≤ room → z' = z + p.amt) ∧
      (room < p.amt → z' = z ∧ (0 < p.amt → dget t.returns s.nextId = some p))) ∧
    (∀ g o st, s.group? p.gid = some g → dget g.ops p.op = some o → o.kind = .txf st →
      ∃ h st', t.group? p.gid = some h ∧ dget h.ops p.op = some { o with kind := .txf st' } ∧
        st'.open_ = st.open_.filter (fun i => i != p.lane) ∧
        (p.limit = true → st'.refused = st.refused ∧
          let c := min (min (p.amt : Int) avail) room
          st'.writes = st.writes ++ [(p.lane, BitVec.ofInt 64 (if p.swapped then -c else c))]) ∧
        (p.limit = false → st'.writes = st.writes ∧
          st'.refused = st.refused ++ (if wrong then [(p.lane, 2)] else if avail < p.amt then [(p.lane, 1)]
            else if room < p.amt then [(p.lane, 3)] else [])))

/-- R280 to R283, R285: the steps of the field engine. A pair that is its lane's turn is applied and gone; a
return goes back to its from-cell; a TXF all of whose lanes are decided completes: the amounts of limit mode go to AMT,
its refused lanes are kept as a record; FTOT writes its seven words. -/
def Obligations.FieldEngineSteps : Prop :=
  (∀ (s : State) (key spa dpa : Nat) (p : Pair) (g : Group) (o : Op), dget s.pairs key = some p →
    s.group? p.gid = some g → dget g.ops p.op = some o → g.det = false → p.spa = some spa → p.dpa = some dpa →
    s.pairFirst p = true → g.canPerform p.op { o with mer := 0 } = true →
    s.completesIf (s.clear ∧ ∀ k < 16, isDevice (spa + k) = true ∧ isDevice (dpa + k) = true) (.txfPairApply key)
      { s.applyPair p with pairs := ddel s.pairs key }) ∧
  (∀ (s : State) (key spa : Nat) (p : Pair) (f : Field) (d : Domain), dget s.returns key = some p →
    dget s.fields (p.ctx * 4096 + p.fld) = some f → dget s.domains (p.ctx * 1024 + f.domain) = some d →
    p.spa = some spa → ∃ t d', s.completesIf (s.clear ∧ ∀ k < 16, isDevice (spa + k) = true) (.txfReturn key) t ∧ dget t.returns key = none ∧
      dget t.domains (p.ctx * 1024 + f.domain) = some d' ∧ d'.id + d'.bd = d.id + d.bd ∧
      (∀ n, n = f.size p.src → (∀ k < n, isDevice (spa + k) = true) →
        ofBytes (t.devBytes 0 n spa).2 = (ofBytes (s.devBytes 0 n spa).2 + p.amt) % 2 ^ (8 * n))) ∧
  (∀ (s : State) (gid n : Nat) (g : Group) (o : Op) (st : TxfState), s.group? gid = some g → dget g.ops n = some o →
    o.kind = .txf st → st.open_ = [] → g.det = false → g.canPerform n { o with mer := 0 } = true →
    ∃ t h, exec (.txfComplete gid n) s = .next t ∧ t.group? gid = some h ∧ dget h.ops n = none ∧ t.mem = s.mem ∧
      (st.writes = [] → h.vregs = g.vregs ∧ h.sregs = g.sregs) ∧
      (∀ i v, st.writes = [(i, v)] → i < 64 → o.half = false →
        (st.form11 = true → h.vregs = g.vregs ∧
          (o.sup = g.supervisor → g.newest o.sup st.amtReg o.issueAt o.startAt → h.sreg st.amtReg = v)) ∧
        (st.form11 = false → 2 ≤ g.budget → (st.wide = true → st.amtReg % 2 = 0) → h.sregs = g.sregs ∧
          ∀ k < (if st.wide = true then 2 else 1), ∀ j < 64, lane (h.vreg (st.amtReg + k)) j =
            if j = i then v.extractLsb' (32 * k) 32 else lane (g.vreg (st.amtReg + k)) j)) ∧
      (∀ f, o.flag = some f → h.flag f = g.flag f - o.counts) ∧
      (st.refused = [] → h.refusals = g.refusals) ∧
      (st.refused ≠ [] → { seq := n, wordAt := st.wordAt, flag := o.flag.getD 0, reasons := st.refused } ∈ h.refusals ∧
        (∀ x ∈ g.refusals, x ∈ h.refusals) ∧ h.refusals.length = g.refusals.length + 1)) ∧
  (∀ (s : State) (gid n dom sb : Nat) (g : Group) (o : Op), s.group? gid = some g → dget g.ops n = some o →
    o.sup = g.supervisor → (∀ k < 7, g.newest o.sup (sb + k) o.issueAt o.startAt) →
    ∃ h, (s.applyFtot dom sb [] gid n).group? gid = some h ∧ dget h.ops n = none ∧
      (∀ i b k r d, s.totals g.ctx dom = some ⟨i, b, k, r, d⟩ →
        h.sreg sb = BitVec.ofInt 64 i ∧ h.sreg (sb + 1) = BitVec.ofInt 64 (i / 2 ^ 64) ∧
        h.sreg (sb + 2) = BitVec.ofInt 64 b ∧ h.sreg (sb + 3) = BitVec.ofInt 64 (b / 2 ^ 64) ∧
        h.sreg (sb + 4) = BitVec.ofInt 64 r ∧ h.sreg (sb + 5) = BitVec.ofInt 64 (r / 2 ^ 64) ∧
        h.sreg (sb + 6) = BitVec.ofNat 64 ((if i + b = k ∧ d = false then 1 else 0) + (if r = 0 then 2 else 0))) ∧
      (s.totals g.ctx dom = none → (∀ k < 6, h.sreg (sb + k) = 0) ∧ h.sreg (sb + 6) = 7))

/-- R223, R224, R226 to R228, R268, R363: the privileged words and QDIG and QEND issue; MAPPG's checks give their
status in order and a first touch writes the leaf its permissions name; FQPOST posts an entry, whose 64 bytes R223 lays
out, or waits, for room, for earlier FQPOSTs or until the group's earlier accesses are performed at system scope; PARK
returns and parks, once the FQPOSTs of its activation are complete; a parked group that RESOLVED has passed (here the
only group) resumes, or its context ends where the entry's result is not 0. -/
def Obligations.SystemWordsIssue : Prop :=
  (∀ (s : State) (g : Group) (r : Running) (q : QFields),
    let gid := s.cur.gid
    let va := g.sreg q.sa.toNat
    let sb := q.sb.toNat
    let die := g.part / 4 / 80
    let answer (s : State) (st : Nat) : State :=
      (s.modGroup gid (fun g => s.putNow g sb (BitVec.ofNat 64 st))).advance
    (s.issues (.mappgFt q) g r → let x := s.mapFirst die g.ctx va q.imm
      s.completesIf x.1.settled (.mappgFt q) (answer x.1 x.2)) ∧
    (s.issues (.mappgRep q) g r → let x := s.mapReplica die g.ctx va
      s.completesIf x.1.settled (.mappgRep q) (answer x.1 x.2)) ∧
    (s.issues (.mappgCol q) g r → let x := s.mapTarget die g.ctx va
      (∀ st, x.2 = .inr st → s.completesIf x.1.settled (.mappgCol q) (answer x.1 st)) ∧
      (∀ p pa e, x.2 = .inl (p, pa, e) →
        let v := e.getLsbD 0
        let rep := e.getLsbD 60
        let remote := e.toNat / 2 % 4 = 2
        let frame := e.toNat / 2 ^ 16 % 2 ^ 36 * 2 ^ 16
        let d := x.1.directory die p
        (v = true → rep = false → s.completesIf x.1.settled (.mappgCol q) (answer x.1 2)) ∧
        (v = false → rep = false → ¬ remote → s.completesIf x.1.settled (.mappgCol q) (answer x.1 3)) ∧
        (rep = true ∨ v = false ∧ remote → ∃ home : Nat, s.completesIf d.1.settled (.mappgCol q)
            (d.1.addOpMer q.fsel true (.col va sb home 0)).advance ∧ (remote → home = frame) ∧
          (¬ remote → (∀ y ∈ d.2, ¬ (y.2.1 = frame ∧ y.2.2 = 1)) → home = frame) ∧
          (¬ remote → ∀ y, d.2.find? (fun y => y.2.1 == frame && y.2.2 == 1) = some y → home = y.1)))) ∧
    (∀ i p cst, (i = .invlpPg q ∧ p = some va ∨ i = .invlpCtx q ∧ p = none) → cst = q.imm.getLsbD 0 → s.issues i g r →
      s.completesIf s.bare i
        (s.afterNow q.fsel cst (.invlp p cst) (fun s gid n => s.applyInvlp p cst gid n)).advance) ∧
    (s.issues (.fqpost q) g r →
      let x := s.ctx g.ctx
      let word := va.setWidth 16
      let rel := s.releaseAll g.core
      let wait := x.fqFull = true ∨ x.posting ≠ [] ∨ g.unperformed s.nextId = true ∨ rel.2 = false
      (¬ wait → s.completesIf (s.clear ∧ ∀ k < 64, isDevice (x.fqEntry x.posted + k) = true) (.fqpost q)
        (s.post gid sb word true s.cycle (g.startOf s.cur.slot)).advance) ∧
      (wait → s.completesIf s.bare (.fqpost q) ((rel.1.addOp q.fsel (.fqpost sb word true)).setCtx g.ctx
        { x with posting := x.posting ++ [(gid, s.nextId)] }).advance)) ∧
    (s.issues (.park q) g r → r.replay = false →
      (g.posting = false → ∃ t h, exec (.park q) s = .next t ∧ t.group? gid = some h ∧ h.supervisor = false ∧
        h.parked = g.posted ∧ (h.slot s.cur.slot).mask = g.tr.emask &&& ~~~g.xmask ∧
        (g.tr.emask &&& ~~~g.xmask ≠ 0 → (h.slot s.cur.slot).pc = g.tr.epc) ∧ h.mode = g.tr.emode &&& 0x3F3F#16 ∧
        h.vregs = g.vregs ∧ h.sregs = g.sregs ∧ t.mem = s.mem) ∧
      (g.posting = true → ∃ t h o, exec (.park q) s = .next t ∧ t.group? gid = some h ∧ h.supervisor = g.supervisor ∧
        dget h.ops s.nextId = some o ∧ o.kind = .park ∧ (h.slot s.cur.slot).blocked = true ∧ h.parked = g.parked ∧
        h.vregs = g.vregs ∧ h.sregs = g.sregs ∧ t.mem = s.mem)) ∧
    (s.issues (.qdig q) g r →
      let hash := (s.queue (g.gridId.toNat / 2 ^ 48 % 2 ^ 10)).hash
      (∀ k < 4, g.newest g.supervisor (sb + k) s.cycle (g.startOf s.cur.slot)) →
      ∃ t h, s.completesIf s.bare (.qdig q) t ∧ t.group? gid = some h ∧
        (∀ k < 4, h.sreg (sb + k) = hash.extractLsb' (64 * k) 64) ∧ h.vregs = g.vregs ∧
        t.mem = (s.fenceAcq g.core .device).mem) ∧
    (s.issues (.qend q) g r → (g.det = false → exec (.qend q) s = .next (s.addOp q.fsel .idle).advance) ∧
      (g.det = true → exec (.qend q) s = .next
        (((s.addOp q.fsel .qend).advance).modGroup gid (fun g => { g with met := true }))))) ∧
  (∀ (s : State) (die c : Nat) (va : Word64) (perm : BitVec 12),
    let x := s.mapFirst die c va perm
    (canonical va = false ∨ inWindow va.toNat = true → x.2 = 6) ∧
    (∀ s1 p pa e, s.mapTarget die c va = (s1, .inl (p, pa, e)) →
      (e.getLsbD 0 = true → x.2 = 2) ∧
      (e.getLsbD 0 = false → e.toNat / 2 % 4 ≠ 0 → x.2 = 3) ∧
      (e.getLsbD 0 = false → e.toNat / 2 % 4 = 0 → p.head = p.tail → x.2 = 1) ∧
      (e.getLsbD 0 = false → e.toNat / 2 % 4 = 0 → p.head ≠ p.tail → x.2 = 0 ∧
        ((∀ k < 8, isDevice (pa + k) = true) →
          let l := (x.1.devBytes die 8 pa).2
          let w : Word64 := BitVec.ofNat 64 (ofBytes l)
          w.getLsbD 0 = true ∧ w.toNat / 2 % 4 = 1 ∧ w.getLsbD 4 = perm.getLsbD 4 ∧ w.getLsbD 5 = perm.getLsbD 0 ∧
            w.getLsbD 6 = perm.getLsbD 1 ∧ w.getLsbD 7 = perm.getLsbD 2 ∧ w.getLsbD 61 = perm.getLsbD 3 ∧
            w.getLsbD 60 = false)))) ∧
  (∀ (s : State) (gid sb : Nat) (word : BitVec 16) (mine : Bool) (at_ start : Nat) (g : Group), s.group? gid = some g →
    let x := s.ctx g.ctx
    let t := s.post gid sb word mine at_ start
    let field (o n : Nat) : Nat := ofBytes ((List.range n).map (fun j => t.rd (x.fqEntry x.posted + o + j)))
    ((∀ k < 64, isDevice (x.fqEntry x.posted + k) = true) →
      (∀ l < 64, g.supP7.getLsbD l = true → (∀ j < l, g.supP7.getLsbD j = false) → field 0 8 = (tget 0 g.faddr l).toNat) ∧
      field 8 8 = g.supP7.toNat ∧ field 16 8 = g.tr.epc.toNat ∧ field 24 4 = g.tr.ecause.toNat % 2 ^ 32 ∧
      field 28 4 = g.tr.estate.toNat % 2 ^ 32 ∧ field 32 8 = g.tr.einfo.toNat ∧ field 40 8 = g.gridId.toNat ∧
      field 48 8 = g.linear.toNat % 2 ^ 64 ∧ field 56 4 = x.posted.toNat ∧ field 60 2 = word.toNat ∧ field 62 2 = 0) ∧
    (t.ctx g.ctx).posted = x.posted + 1 ∧ ∃ h, t.group? gid = some h ∧
      h.posted = (if mine then some x.posted.toNat else g.posted) ∧
      (g.supervisor = true → g.newest true sb at_ start → h.sreg sb = x.posted.setWidth 64)) ∧
  (∀ (s : State) (c gid n sb : Nat) (word : BitVec 16) (mine : Bool) (rest : List (Nat × Nat)) (g : Group) (o : Op),
    let x := s.ctx c
    x.posting = (gid, n) :: rest → x.fqFull = false → s.group? gid = some g → dget g.ops n = some o →
    g.unperformed n = false → (s.releaseAll g.core).2 = true → x.terminate = none → o.kind = .fqpost sb word mine →
    g.ctx = c →
    s.completesIf (s.clear ∧ ∀ k < 64, isDevice (x.fqEntry x.posted + k) = true) (.fqpostComplete c)
      ((((s.setCtx c { x with posting := rest }).post gid sb word mine o.issueAt o.startAt).completeOp gid n).modGroup gid
        (fun g => g.parkIfDone s.cycle))) ∧
  (∀ (s : State) (c gid n : Nat) (g : Group), s.groups = [(gid, g)] → g.ctx = c → g.parked = some n →
    (s.ctx c).passed (BitVec.ofNat 32 n) = true → s.resumedAt ≠ s.cycle + 1 →
    let b := s.devBytes 0 2 ((s.ctx c).fqEntry (BitVec.ofNat 32 n) + 62)
    ∃ t h, s.completesIf b.1.settled (.groupResume c) t ∧ t.group? gid = some h ∧ h.parked = none ∧ h.vregs = g.vregs ∧
      (∀ k ≤ 1, (g.slot k).mask ≠ 0 → (h.slot k).stamp = s.cycle ∧ (h.slot k).eligFrom = s.cycle + 1) ∧
      t.resumedAt = s.cycle + 1 ∧
      (ofBytes b.2 = 0 → (t.ctx c).terminate = (s.ctx c).terminate) ∧
      (ofBytes b.2 ≠ 0 → (s.ctx c).terminate = none →
        (t.ctx c).terminate = some (2, 0, BitVec.ofNat 64 (n % 2 ^ 32), g.gridId)))

/-- R293, R295, R300 to R308: the instructions of a stream instance. Where its checks pass, each has the effect
the rule gives and the instance is busy for its cycles; where one fails, the instance traps with the sub-cause
and nothing else changes; an MMA whose operand lines are not resident, or whose region is under a range lock or not yet
filled, waits. MSETF takes its fields, or in its FMT form those of the quad's first member, and traps without one or
where they are not legal; MWAIT takes a turn where the phase is another one already. R159, R171: an MMA on an i32 accumulator adds the products of the elements modulo
2^32; an i4 code 1000 counts as 0. -/
def Obligations.MatrixWordsComplete : Prop :=
  (
  ∀ (s : State) (t : Team) (n : Inst) (x : MXFields),
    let team := s.cur.team
    let unit := s.cur.unit
    let put (s : State) (m : Inst) : State := s.setInst team unit m
    let done (s : State) (m : Inst) (cost : Nat) : State :=
      put s { m.nextInstr with busyTo := s.cycle + cost, ranTo := s.cycle + cost }
    let go (m : Inst) : State := put s { m with
      pc := n.wordAt + BitVec.ofInt 64 (8 * x.imm.toInt), clause := none, idx := 0, busyTo := s.cycle + 2, ranTo := s.cycle + 2 }
    let trap (sub detail : BitVec 8) : State := put s { n with trap := some ⟨sub, detail, n.wordAt⟩ }
    let core := n.part / 4
    let bar := x.num.toNat
    (s.streams (.msetf x) t n → x.mod.getLsbD 1 = false →
      exec (.msetf x) s = .next (done s { n with
        mfmt := BitVec.ofNat 16 ((if x.mod.getLsbD 0 then 2 ^ 14 else 0) + x.imm.toNat % 2 ^ 14) } 1)) ∧
    (s.streams (.msetf x) t n → x.mod.getLsbD 1 = true → (s.quad t unit).headD none = none →
      exec (.msetf x) s = .next (trap 0x01 0)) ∧
    (∀ g, s.streams (.msetf x) t n → x.mod.getLsbD 1 = true → (s.quad t unit).headD none = some g →
      let f : Nat := (if g.slot0.live then g.slot0.fmt else if g.slot1.live then g.slot1.fmt else 0x01477004).toNat
      let ma := f / 2 ^ 12 % 16
      let mb := f / 2 ^ 16 % 16
      let mc := f / 2 ^ 20 % 16
      let scl := f / 2 ^ 24 % 4
      let legal := 5 ≤ ma ∧ ma ≤ 9 ∧ 5 ≤ mb ∧ mb ≤ 9 ∧ (mc = 0 ∨ mc = 4) ∧ scl ≤ 1
      (legal → exec (.msetf x) s = .next (done s { n with
        mfmt := BitVec.ofNat 16 ((if x.mod.getLsbD 0 then 2 ^ 14 else 0) + scl * 2 ^ 12 + mc * 2 ^ 8 + mb * 2 ^ 4 + ma) } 1)) ∧
      (¬ legal → exec (.msetf x) s = .next (trap 0x04 0))) ∧
    (s.streams (.mzero x) t n → ∃ m, exec (.mzero x) s = .next (done s m 16) ∧
      m = (if x.acc then { n with acc1 := [], acct1 := decide (n.mfmt.toNat / 2 ^ 8 % 16 = 4) }
           else { n with acc0 := [], acct0 := decide (n.mfmt.toNat / 2 ^ 8 % 16 = 4) })) ∧
    (s.streams (.mloop x) t n → exec (.mloop x) s = .next (done s { n with lc := x.imm, ls := x.num, li := 0 } 1)) ∧
    (s.streams (.mbr x) t n →
      (x.mod = 1 → exec (.mbr x) s = .next (go n)) ∧
      (x.mod ≠ 1 → 1 < n.lc.toNat → exec (.mbr x) s = .next (go { n with lc := n.lc - 1, li := n.li + 1 })) ∧
      (x.mod ≠ 1 → n.lc.toNat ≤ 1 → exec (.mbr x) s = .next (done s { n with lc := 0, li := 0 } 1))) ∧
    (s.streams (.mend x) t n → exec (.mend x) s = .next (put s
      { n with ended := true, clause := none, busyTo := s.cycle + 1, ranTo := s.cycle + 1 })) ∧
    (∀ i, (i = .mwait x ∨ i = .marr x) → s.streams i t n →
      (s.barInRange team bar = false → s.completesIf s.settled i (trap 0x02 3)) ∧
      (s.barInRange team bar = true → dget n.tokens bar = none → 16 ≤ n.tokens.length →
        s.completesIf s.settled i (trap 0x04 0)) ∧
      (s.barInRange team bar = true → dget n.tokens bar ≠ none ∨ n.tokens.length < 16 →
        let s1 := s.barSettle core bar
        let b := s1.bar core bar
        ∀ t1 m, s1.team? team = some t1 → dget t1.insts unit = some m →
          (i = .mwait x → let tok := (dget m.tokens bar).getD false
            -- where the phase is another one already, it has the sequencer for this cycle
            let c := s.cycle + 1
            s.completesIf s.bare i (put s1 { m with
              tokens := dput m.tokens bar tok, waits := some (bar, tok)
              busyTo := if b.ph = tok then m.busyTo else c, ranTo := if b.ph = tok then m.ranTo else c })) ∧
          (i = .marr x → s.completesIf s.bare i (done (s1.setBar core bar (b.arrive x.imm.toNat 0))
            { m with tokens := dput m.tokens bar b.ph, marked := some bar } 1)))) ∧
    (s.streams (.mstc x) t n →
      let f32 := n.acct x.acc
      let ty := x.ta.toNat
      let size := elemBits ty / 8
      let at_ := x.imm.toNat + n.li.toNat * n.ls.toNat
      (f32 ≠ (ty != 0 && ty != 8) → s.completesIf s.settled (.mstc x) (trap 0x04 0)) ∧
      (f32 = (ty != 0 && ty != 8) →
        (∀ s1, s.region team t n at_ (16384 * size) true = (s1, .outside) → s.completesIf s.settled (.mstc x) (trap 0x02 2)) ∧
        (∀ s1, s.region team t n at_ (16384 * size) true = (s1, .fault) →
          s.completesIf s1.settled (.mstc x) (s1.streamTrap 0x05 0 n.wordAt)) ∧
        (∀ s1, s.region team t n at_ (16384 * size) true = (s1, .wait) → s.completesIf s1.settled (.mstc x) s1) ∧
        ∀ s1 c o, s.region team t n at_ (16384 * size) true = (s1, .ok c o) →
          s.completesIf s1.settled (.mstc x) (done (s1.writeLoc core 0 ((List.range 16384).flatMap (fun i =>
            toBytes size (storeElem f32 x.mod.toNat ty (tget 0 (n.acc x.acc) i)))) (.stash team c o)) n
              (if size = 4 then 128 else 64)))) ∧
    (s.streams (.mma x) t n →
      let ta := if x.ta = 15 then n.mfmt.toNat % 16 else x.ta.toNat
      let tb := if x.tb = 15 then n.mfmt.toNat / 2 ^ 4 % 16 else x.tb.toNat
      let f32 := decide (n.mfmt.toNat / 2 ^ 8 % 16 = 4)
      let zero := x.mod = 1
      let typed := ta = tb ∧ f32 = decide (ta ≤ 7) ∧ (zero ∨ n.acct x.acc = f32)
      let scl := ta == 7 && decide (n.mfmt.toNat / 2 ^ 12 % 4 = 1)
      let last := x.num.toNat + (if scl then 8 else 7)
      let at_ := x.imm.toNat + n.li.toNat * n.ls.toNat
      let bytes := if scl then 8448 else 8192
      (¬ typed → s.completesIf s.settled (.mma x) (trap 0x04 0)) ∧
      (typed → s.fullQuad t unit = none → s.completesIf s.settled (.mma x) (trap 0x01 0)) ∧
      (typed → ∀ q, s.fullQuad t unit = some q →
        ((∃ g ∈ q, g.budget < last + 11) → s.completesIf s.settled (.mma x) (trap 0x04 0)) ∧
        ((∀ g ∈ q, last + 11 ≤ g.budget) →
          -- operand lines that are not resident are filled first (R296)
          (s.quadResident t unit n x.num.toNat scl = false → s.completesIf s.settled (.mma x) s) ∧
          (s.quadResident t unit n x.num.toNat scl = true →
            (∀ s1, s.region team t n at_ bytes false = (s1, .outside) → s.completesIf s.settled (.mma x) (trap 0x02 2)) ∧
            (∀ s1, s.region team t n at_ bytes false = (s1, .fault) →
              s.completesIf s1.settled (.mma x) (s1.streamTrap 0x05 0 n.wordAt)) ∧
            (∀ s1, s.region team t n at_ bytes false = (s1, .wait) → s.completesIf s1.settled (.mma x) s1) ∧
            ∀ s1 c o, s.region team t n at_ bytes false = (s1, .ok c o) →
              let row (m : Nat) : OpRow := tileRow t c o m scl
              let col (k : Nat) : OpRow := quadCol q x.num.toNat k scl
              let ordered := n.mfmt.getLsbD 14 || ((dget s1.grids t.gridKey).map (fun g => g.lrec.det)).getD false
              ((∃ m < 128, scalesOk (row m) = false ∨ scalesOk (col m) = false) →
                s.completesIf s1.settled (.mma x) (s1.streamTrap 0x02 1 n.wordAt)) ∧
              ((∀ m < 128, scalesOk (row m) = true ∧ scalesOk (col m) = true) → s1.team? team ≠ none →
                ∃ u v m, s.completesIf s1.settled (.mma x) u ∧ u.team? team = some v ∧ dget v.insts unit = some m ∧
                  u.mem = s1.mem ∧ u.groups = s1.groups ∧ m.acct x.acc = f32 ∧ m.acc (!x.acc) = n.acc (!x.acc) ∧
                  m.busyTo = s.cycle + (if f32 && ordered then 256 else 128) ∧
                  ∀ a < 128, ∀ b < 128,
                    let old := if zero then 0 else tget 0 (n.acc x.acc) (128 * a + b)
                    tget 0 (m.acc x.acc) (128 * a + b) =
                      if !f32 then dotInt ta old (row a) (col b)
                      else if ordered then dotSeq ta old (row a) (col b)
                      else dotUnordered ta old (row a) (col b) (Config.mmaSum (s1.fresh + 128 * a + b)))))))
  ) ∧
  (
  (∀ (ta : Nat) (c : Word32) (a b : OpRow), (ta = 8 ∨ ta = 9) →
    dotInt ta c a b = c + BitVec.ofInt 32 (((List.range (if ta = 9 then 128 else 64)).map (fun k =>
      a.int ta k * b.int ta k)).sum)) ∧
  (∀ (k : Nat) (r : OpRow), r.int 8 k = (let e := r.bits / 2 ^ (8 * k) % 256; if e < 128 then (e : Int) else (e : Int) - 256) ∧
    r.int 9 k = (let e := r.bits / 2 ^ (4 * k) % 16
      if e = 8 then 0 else if e < 8 then (e : Int) else (e : Int) - 16))
  )

/-- R297, R309, R310: a stream instance fetches its next clause through R58's checks or traps with sub-cause 5
or 3; its trap halts it and goes to every group of the team that has not exited, which takes code 0x0D at a slot
between two clauses; it stays pending until the handler is entered. -/
def Obligations.MatrixEngineSteps : Prop :=
  (∀ (s : State) (team unit : Nat) (t : Team) (x : Inst), s.team? team = some t → dget t.insts unit = some x →
    x.clause = none → x.ended = false → x.trap = none → s.mayStream t = true →
    let a : Agent := ⟨0, x.part / 4, t.ctx, team, true⟩
    let stop (s : State) (sub : BitVec 8) : State := s.setInst team unit { x with trap := some ⟨sub, 0, x.pc⟩ }
    (∀ s1 e, s.codeWords a 1 x.pc = (s1, .inr e) → s.completesIf s1.settled (.streamClauseFetch team unit) (stop s1 0x05)) ∧
    (∀ s1 w, s.codeWords a 1 x.pc = (s1, .inl [w]) →
      let h := decodeHeader w
      (∀ s2 e, s1.codeWords a h.n (x.pc + 8) = (s2, .inr e) → s.completesIf s2.settled (.streamClauseFetch team unit) (stop s2 0x05)) ∧
      (∀ s2 ws, s1.codeWords a h.n (x.pc + 8) = (s2, .inl ws) →
        (clauseCheck 2048 4 true h ws ≠ 0 → s.completesIf s2.settled (.streamClauseFetch team unit) (stop s2 0x03)) ∧
        (clauseCheck 2048 4 true h ws = 0 → s.completesIf s2.settled (.streamClauseFetch team unit)
          (s2.setInst team unit { x with clause := some ⟨x.pc, w, ws, none, 4⟩, idx := 0 }))))) ∧
  (∀ (s : State) (team unit : Nat) (t : Team) (x : Inst) (tr : StreamTrap), s.team? team = some t →
    dget t.insts unit = some x → x.trap = some tr → x.ended = false →
    ∃ u v y, exec (.matrixStreamTrap team unit) s = .next u ∧ u.team? team = some v ∧ dget v.insts unit = some y ∧
      y.ended = true ∧ y.clause = none ∧ y.acc0 = x.acc0 ∧ y.acc1 = x.acc1 ∧
      (∀ gid ∈ t.gids, ∀ g, s.group? gid = some g → g.xmask ≠ allLanes →
        ∃ h l, u.group? gid = some h ∧ h.matrixTraps = g.matrixTraps ++ tr :: l) ∧
      ((∀ gid ∈ t.gids, ∀ g, s.group? gid = some g → g.xmask = allLanes) → (s.ctx t.ctx).terminate = none →
        ∃ gr, (u.ctx t.ctx).terminate = some (3, BitVec.ofNat 16 (0x0D + 256 * tr.sub.toNat), 0, gr))) ∧
  (∀ (s : State) (gid : Nat) (g : Group) (t : Team) (tr : StreamTrap) (rest : List StreamTrap), s.group? gid = some g →
    s.team? g.team = some t → g.matrixTraps = tr :: rest →
    (g.xmask = allLanes → ∃ u h, exec (.matrixTrapDelivery gid) s = .next u ∧ u.group? gid = some h ∧ h.matrixTraps = [] ∧
      u.mem = s.mem ∧ ((s.unexited t = []) → (s.ctx t.ctx).terminate = none →
        ∃ gr, (u.ctx t.ctx).terminate = some (3, BitVec.ofNat 16 (0x0D + 256 * tr.sub.toNat), 0, gr))) ∧
    (t.saved = false → g.supervisor = false → g.trapReq = none →
    g.parked = none → g.spec = none → g.xmask ≠ allLanes → g.slot0.live = true → g.slot0.running = none →
    g.slot0.transfer = none → g.slot0.replays = [] → (g.slot0.resumeIdx = 0 ∨ g.slot0.clause ≠ none) →
    -- it stays on the list until the handler is entered
    ∃ u h, exec (.matrixTrapDelivery gid) s = .next u ∧ u.group? gid = some h ∧ h.matrixTraps = tr :: rest ∧
      h.trapReq = some
        { slot := 0, cycle := s.cycle, code := 0x0D, atClause := true, idx := 0, pc := g.slot0.pc, done := false,
          arg := tr.sub.setWidth 12, etxf := 0, lanes := g.slot0.mask, faddr := [], matrix := some tr,
          einfo := BitVec.ofNat 64 (tr.wordAt.toNat / 8 % 2 ^ 32 * 2 ^ 32 + tr.detail.toNat * 2 ^ 8 + tr.sub.toNat) } ∧
      h.vregs = g.vregs ∧ h.sregs = g.sregs ∧ u.mem = s.mem))

/-! ### Teams, grids, host -/

/-- R28, R32, R38, R39: a group at its start. All 64 lanes stand at the entry of its role in slot 0, s0 is the
argument, and every other register, flag and mode bit is at its reset value; GROUPID and TEAMID name its place
in the grid. R45 to R47, R140, R142, R146 to R150, R311, R411: the life of groups and teams. A pre-emption
starts for a victim where no other of its cluster is under way; a quiescent team is saved, its groups' registers
as they were; it comes back on a cluster with room; a group that is done retires, and a team whose groups have
gone; a context to be terminated loses its teams, its groups and its queues once it has drained. -/
def Obligations.GroupAndTeamLife : Prop :=
  (
  ∀ (gr : Grid) (key team t n part resident cycle : Nat) (area : Word64), gr.lrec.x ≤ 2 ^ 20 → gr.lrec.y ≤ 2 ^ 20 →
    t < gr.lrec.x * gr.lrec.y * gr.lrec.z → gr.lrec.z ≤ 2 ^ 20 → n < 64 →
    let g := newGroup gr key team t n part resident cycle area
    let l := gr.lrec
    (g.slot0.pc = if n < l.p then l.entry0 else l.entry1) ∧ g.slot0.mask = allLanes ∧ g.slot1.mask = 0 ∧
    g.slot0.fmt = 0x01477004 ∧ g.slot0.join = 0xFFFFFFFFFFFFFFFF ∧ g.mode = 1 ∧
    (∀ k, g.sreg k = if k = 0 then gr.arg else 0) ∧ (∀ k, g.vreg k = 0) ∧ (∀ k, 0 < k → g.preg k = 0) ∧
    (∀ k, g.flag k = 0) ∧ g.dix = 0 ∧ g.lclk = 0 ∧ g.xmask = 0 ∧ g.spill = [] ∧ g.supervisor = false ∧
    (g.budget = if n < l.p then l.b0 else l.b1) ∧ g.linear.toNat = (64 * t + n) % 2 ^ 54 ∧
    g.teamId.toNat % 2 ^ 20 = t % l.x ∧ g.teamId.toNat / 2 ^ 20 % 2 ^ 20 = t / l.x % l.y ∧
    g.teamId.toNat / 2 ^ 40 = t / (l.x * l.y) ∧ g.seed = gr.seed ∧ g.gridId = gr.gridId
  ) ∧
  (
  (∀ (s : State) (team : Nat) (t : Team), s.team? team = some t → t.saved = false → t.preempt = none →
    -- the first victim of its cluster
    s.victims.find? (fun v => ((s.team? v).map (fun x => x.cluster == t.cluster && !x.saved)).getD false) = some team →
    (∀ e ∈ s.teams, e.2.cluster = t.cluster → e.2.preempt ≠ none → e.2.saved = true) →
    exec (.preemptionRequest team) s = .next
      { s.setTeam team { t with preempt := some s.cycle } with victims := s.victims.filter (fun v => v != team) }) ∧
  (∀ (s : State) (gid p : Nat) (g : Group) (t : Team), s.group? gid = some g → s.team? g.team = some t →
    t.preempt = some p → exec (.preemptionBound gid) s = .next
      (if g.supervisor = true ∧ p + 65536 ≤ s.cycle then s.setGroup gid { g with stopped := true } else s)) ∧
  (∀ (s : State) (team : Nat) (t : Team), s.team? team = some t → t.preempt ≠ none → t.saved = false →
    s.quiescent team t = true →
    ∃ u v, s.completesIf (s.bare ∧ t.maps = []) (.quiescence team) u ∧ u.team? team = some v ∧ v.saved = true ∧ v.preempt = none ∧ v.cores = [] ∧
      v.stash = t.stash ∧ v.gids = t.gids ∧ ∀ gid ∈ t.gids, ∀ g, s.group? gid = some g → ∃ h, u.group? gid = some h ∧
        h.vregs = g.vregs ∧ h.sregs = g.sregs ∧ h.preds = g.preds ∧ h.mode = g.mode ∧ h.dix = g.dix ∧ h.spill = g.spill ∧
        h.slot0.pc = g.slot0.pc ∧ h.slot1.pc = g.slot1.pc ∧ h.lastPage = []) ∧
  (∀ (s : State) (team cl : Nat) (t : Team) (gr : Grid) (at_ : List (Nat × List Nat)), s.team? team = some t →
    dget s.grids t.gridKey = some gr → t.saved = true → cl < 40 → s.mayRestore t.ctx = true →
    (s.ctx t.ctx).terminate = none → s.outranked t.gridKey gr cl = false → s.fits gr.lrec cl = some at_ →
    -- a grid of class 2 and a deterministic one come back as a whole: here with its one team
    (gr.lrec.whole = false ∨ ∀ e ∈ s.teams, e.2.gridKey = t.gridKey → e = (team, t)) →
    ∃ u v, s.completesIf (s.bare ∧ ∀ m ∈ t.maps, m.rw = true) (.teamRestore team cl) u ∧ u.team? team = some v ∧
      v.saved = false ∧ v.cluster = cl ∧ v.cores = at_.map (fun e => e.1) ∧ v.parts = at_.map (fun e => e.2) ∧
      ((∀ m ∈ t.maps, m.rw = true) → v.stash = t.stash) ∧
      ∀ gid ∈ t.gids, ∀ g, s.group? gid = some g → ∃ h, u.group? gid = some h ∧
        h.part = ((v.parts.flatten)[g.g % max 1 v.parts.flatten.length]?).getD 0 ∧
        h.vregs = g.vregs ∧ h.sregs = g.sregs ∧ h.preds = g.preds ∧ h.mode = g.mode ∧ h.flags = g.flags) ∧
  (∀ (s : State) (team cl : Nat) (t : Team) (gr : Grid), s.team? team = some t → dget s.grids t.gridKey = some gr →
    s.settled → (s.outranked t.gridKey gr cl = true ∨ t.saved = false ∨ s.mayRestore t.ctx = false ∨
      (gr.lrec.whole = true ∧ ∃ e ∈ s.teams, e.2.gridKey = t.gridKey ∧ e.2.saved = false)) →
    exec (.teamRestore team cl) s = .next s.settleNode) ∧
  (∀ (s : State) (gid : Nat) (g : Group), s.group? gid = some g → g.done = true → s.isSaved g.team = false →
    (g.supervisor = true ∨ g.refusals = [] → exec (.groupRetire gid) s = .next
      ({ s with groups := ddel s.groups gid }.modTeam g.team (fun t => { t with lastGone := some s.cycle }))) ∧
    (∀ x l e, g.supervisor = false → g.refusals = x :: l → g.lastExit = some e →
      exec (.groupRetire gid) s = .next (s.finalRefusal gid g e x))) ∧
  (∀ (s : State) (team : Nat) (t : Team), s.team? team = some t → s.teamDone team t = true →
    ∃ u, s.completesIf (s.bare ∧ t.maps = [] ∧ ∀ gr, dget s.grids t.gridKey = some gr →
        gr.lrec.cbmap = 0 ∧ gr.lrec.osz0 = 0 ∧ gr.lrec.osz1 = 0) (.teamRetire team) u ∧ u.team? team = none ∧
      (u.ctx t.ctx).poolUsed = (s.ctx t.ctx).poolUsed - t.pool ∧
      ∀ gr, dget s.grids t.gridKey = some gr → ∃ h, dget u.grids t.gridKey = some h ∧ h.retired = t.index :: gr.retired ∧
        (h.retired.length = gr.lrec.teams → h.complete = true)) ∧
  (∀ (s : State) (c : Nat) (reason : BitVec 8) (codes : BitVec 16) (detail grid : Word64),
    (s.ctx c).terminate = some (reason, codes, detail, grid) → s.drained c = true →
    ∃ u, s.completesIf (s.clear ∧ (∀ k < 32, isDevice (ringAt s.tring s.trpos.toNat + k) = true) ∧
        (∀ e ∈ s.grids, e.2.ctx = c → e.2.lrec.cbmap = 0) ∧ ∀ e ∈ s.queues, e.2.ctx = c → e.2.waiters = [])
        (.contextTermination c) u ∧ (u.ctx c).terminate = none ∧ (u.ctx c).poolUsed = 0 ∧
      u.trpos = s.trpos + 1 ∧ (∀ e ∈ u.teams, e.2.ctx ≠ c) ∧
      (∀ t x g n, s.team? t = some x → x.ctx = c → (n, g) ∈ u.groups → g.team ≠ t) ∧
      (∀ n, (s.queue n).ctx = c → (u.queue n).en = false))
  )

/-- R41 to R44, R337 to R345, R351, R353, R355 to R358, R361, R362: the dispatch engine. The head it considers
is seeded from, rejected or passed on, and HEAD advances; a cluster places the next team of its range, or steals
the upper half of another's; a grid that waits in stage 2 is placed whole; victims of lower priority are chosen for a
grid that needs room (stated for one such grid, among grids that are not placed whole): the lowest priority first, of
one priority the team placed last, as many as give the room and no more; a completed grid is chained; a grid whose groups have all met commits, and its next quantum
begins. -/
def Obligations.DispatchSteps : Prop :=
  (∀ (s : State) (n : Nat) (h : Head), let hs := s.heads
    s.headAt ≠ s.cycle + 1 → pickHead hs.1.served hs.2 = some (n, h) →
    let s1 : State := { hs.1 with served := n, headAt := hs.1.cycle + 1 }
    let q := s1.queue n
    let grid : Word64 := BitVec.ofNat 64 (q.ctx * 2 ^ 58 + n * 2 ^ 48 + q.head.toNat)
    let past (q : Queue) : Queue :=
      { q with head := q.head + 1, freed := ddel q.freed q.head.toNat, clocks := ddel q.clocks q.head.toNat }
    let rejects (r : State) : Prop := s.completesIf r.settled .dispatchHead (r.modQueue n past)
    (∀ v, h = .seed v → s.completesIf hs.1.settled .dispatchHead (s1.setQueue n { past q with seed := v, seedNew := none })) ∧
    (∀ why at_, h = .bad why at_ → rejects (s1.reject n grid at_ why 0 none)) ∧
    (∀ at_ arg l, h = .launch at_ arg l →
      (∀ s2 why off, s1.admission q.ctx l = (s2, some (why, off)) → rejects (s2.reject n grid at_ why off (some l))) ∧
      (∀ s2, s1.admission q.ctx l = (s2, none) → l.whole = false → ∃ u gr,
        s.completesIf (s2.settled ∧ l.cbmap = 0) .dispatchHead u ∧
        dget u.grids s2.nextId = some gr ∧ gr.lrec = l ∧ gr.gridId = grid ∧ gr.arg = arg ∧ gr.waiting = false ∧
        gr.seed = (if l.seedv then l.seed else (s2.queue n).seedAt s2.cycle) ∧ gr.ranges = splitRanges l.teams ∧
        (u.queue n).head = (s2.queue n).head + 1) ∧
      (∀ s2, s1.admission q.ctx l = (s2, none) → l.whole = true → ∃ u gr, s.completesIf s2.settled .dispatchHead u ∧
        dget u.grids s2.nextId = some gr ∧ gr.lrec = l ∧ gr.gridId = grid ∧ gr.arg = arg ∧ gr.waiting = true ∧
        gr.ranges = [] ∧ u.queue n = s2.queue n))) ∧
  (∀ (s : State), s.headAt = s.cycle + 1 → s.settled → exec .dispatchHead s = .next s.settleNode) ∧
  (∀ (l : LaunchRec) (s : State) (c : Nat),
    (∀ o, badFields l = some o → (s.admission c l).2 = some (2, o)) ∧
    (∀ o, badFields l = none → badClass l = some o → (s.admission c l).2 = some (3, o)) ∧
    (badFields l = none → badClass l = none →
      (16 < l.perUnit → (s.admission c l).2 = some (4, 40)) ∧
      (l.perUnit ≤ 16 → l.whole = true → l.capacity 40 < l.teams → (s.admission c l).2 = some (5, 48)) ∧
      (l.perUnit ≤ 16 → l.whole = true → l.teams ≤ l.capacity 40 →
        (s.ctx c).num 48 4 * 65536 < l.teams * l.reserve → (s.admission c l).2 = some (6, 48)) ∧
      (l.perUnit ≤ 16 → l.whole = false → l.dbmap = 0 →
        (s.admission c l).2 = if 2 ^ 48 < l.teams then some (9, 32) else none))) ∧
  -- the 40 ranges cover teams 0 to n − 1 one after another
  (∀ (n i : Nat), i < 40 → ∃ r, (splitRanges n)[i]? = some r ∧ r.cluster = i ∧ r.lo ≤ r.hi ∧
    (i = 0 → r.lo = 0) ∧ (i = 39 → r.hi = n) ∧ (∀ r', (splitRanges n)[i + 1]? = some r' → r'.lo = r.hi)) ∧
  (∀ (s : State) (cl key : Nat) (gr : Grid) (r : Range) (at_ : List (Nat × List Nat)), cl < 40 → s.gridOrder = [(key, gr)] →
    gr.nextRange cl = some r → s.mayPlace gr = true → s.lateOn gr cl = false → s.restoreFirst key gr cl = false → gr.lrec.dbmap = 0 →
    s.fits gr.lrec cl = some at_ → s.poolFits gr.ctx gr.lrec = true →
    let gr' := { gr with ranges := gr.ranges.map (fun x => if x = r then { x with lo := r.lo + 1 } else x) }
    let u := { s with grids := dput s.grids key gr' }.placeTeam key gr' r.lo cl at_
    s.completesIf s.bare (.teamPlacement cl) u ∧ ∃ t, u.team? s.nextId = some t ∧ t.index = r.lo ∧ t.cluster = cl ∧
      t.cores = at_.map (fun e => e.1) ∧ t.gids.length = gr.lrec.p + gr.lrec.c ∧ t.gridKey = key) ∧
  (∀ (s : State) (n key : Nat) (gr : Grid) (l : List Nat),
    s.grids.find? (fun e => e.2.queue == n && e.2.waiting) = some (key, gr) → l.length = gr.lrec.teams → s.mayPlace gr = true →
    ∀ s1 s2 g, s.dependAll gr.ctx gr.lrec gr.lrec.teams = (s1, .ok) →
      (s1.passStage2 key gr).grids.find? (fun e => e.1 == key) = some (key, g) →
      (s1.passStage2 key gr).placeAll key g 0 l = some s2 → 
        s.completesIf (s.bare ∧ gr.lrec.dbmap = 0 ∧ gr.lrec.cbmap = 0) (.concurrentPlacement n l) s2) ∧
  -- a cluster without teams left takes the upper half of the sibling with most, and no team is lost
  (∀ (s : State) (key cl : Nat) (gr : Grid), dget s.grids key = some gr → cl < 40 → gr.nextRange cl = none →
    s.fits gr.lrec cl ≠ none →
    let left (c : Nat) : Nat := leftOf (clusterPart gr.ranges c)
    let part := stealFrom gr.ranges cl
    (0 < leftOf (diePart gr.ranges (cl / 10)) → ∃ c, c / 10 = cl / 10 ∧ part = clusterPart gr.ranges c ∧
      ∀ c', c' / 10 = cl / 10 → left c' ≤ left c) ∧
    ((∀ r ∈ part, r.cluster / 10 = cl / 10) → ∃ ranges : List Range,
      exec (.rangeSteal key cl) s = .next { s with grids := dput s.grids key { gr with ranges := ranges } } ∧
      leftOf (clusterPart ranges cl) = min (leftOf part) (max 1 (leftOf part / 2)) ∧
      ∀ i : Nat, (∃ x ∈ ranges, x.lo ≤ i ∧ i < x.hi) ↔ ∃ x ∈ gr.ranges, x.lo ≤ i ∧ i < x.hi)) ∧
  -- no victims where no grid needs room
  (∀ (s : State) (cl : Nat), (∀ e ∈ s.grids, s.needsRoom e.2 = false) → exec (.preemptDecision cl) s = .next s) ∧
  -- the victims on a cluster of the one grid that needs room, beside grids of which none is placed whole
  (∀ (s : State) (cl key : Nat) (gr : Grid), cl < 40 → s.usable (16 + cl) = true → (key, gr) ∈ s.grids → s.needsRoom gr = true →
    (∀ e ∈ s.grids, e.2.lrec.whole = false ∧ (e.1 ≠ key → s.needsRoom e.2 = false)) → (s.grids.map (fun e => e.1)).Nodup →
    (s.teams.map (fun e => e.1)).Nodup → s.victims = [] → (∀ e ∈ s.teams, e.2.saved = false ∧ e.2.preempt = none) →
    let prio (t : Team) : Nat := ((dget s.grids t.gridKey).map (fun g => g.lrec.prio)).getD 8
    let without (l : List Nat) : List Team := (s.teams.filter (fun e => decide (e.1 ∉ l))).map (fun e => e.2)
    let room (l : List Nat) (c : Nat) : Prop := clusterFits (without l) gr.lrec c ≠ none
    ∃ u, exec (.preemptDecision cl) s = .next u ∧ u = { s with victims := u.victims, grids := u.grids } ∧
      (∀ v ∈ u.victims, ∃ t, (v, t) ∈ s.teams ∧ t.cluster = cl ∧ prio t < gr.lrec.prio) ∧
      -- the lowest priority first, and of one priority the team placed last
      (∀ v w t t', v ∈ u.victims → w ∉ u.victims → (v, t) ∈ s.teams → (w, t') ∈ s.teams → t'.cluster = cl →
        prio t < prio t' ∨ (prio t = prio t' ∧ t'.placedAt ≤ t.placedAt)) ∧
      -- as many as give the team room, and no more
      (u.victims ≠ [] → room u.victims cl ∧ ∀ n < u.victims.length, ¬ room (u.victims.take n) cl) ∧
      (u.victims = [] → (∃ c < 40, s.usable (16 + c) = true ∧ room [] c) ∨
        ¬ room ((s.teams.filter (fun e => decide (e.2.cluster = cl ∧ prio e.2 < gr.lrec.prio))).map (fun e => e.1)) cl)) ∧
  (∀ (s : State) (n key : Nat) (g : Grid) (d : BitVec 256), s.nextChained n = some (key, g) → g.digest = some d →
    let q := s.queue n
    exec (.digestChain n) s = .next
      { s.setQueue n { q with
          hash := shake256 (toBytes 32 q.hash.toNat ++ toBytes 32 d.toNat ++ toBytes 8 g.serial)
          lastSerial := BitVec.ofNat 64 g.serial } with grids := ddel s.grids key }) ∧
  (∀ (s : State) (key : Nat) (gr : Grid), dget s.grids key = some gr → gr.lrec.det = true → gr.commits = none →
    s.allMet key gr = true →
    -- no transfer waits for a Meridian position
    (∀ e ∈ s.groups, e.2.gridKey = key → s.group? e.1 = some e.2 ∧ e.2.brine.txfs = []) →
    ∃ u, s.completesIf (s.bare ∧ ∀ e ∈ s.groups, e.2.gridKey = key → e.2.brine.spans = [] ∧ e.2.brine.ops = [] ∧
        ∀ o ∈ e.2.ops, brines e.2 o.2 = none) (.quantumCommit key) u ∧ (∃ x, dget u.grids key = some x ∧ x.quantum = gr.quantum + 1) ∧
      ∀ e ∈ u.groups, e.2.gridKey = key → e.2.met = false ∧
        ((gr.quantum + 1) * gr.lrec.quant < 2 ^ 48 → (gr.quantum + 1) * gr.lrec.quant ≤ e.2.lclk.toNat))

/-- R221, R334, R335, R362, R366, R388 to R391: doorbells, registers and link training. FQDB moves RESOLVED
within the posted entries; a host invalidation takes the translations and stays BUSY; PCTX names a context's
teams as victims; VALID rises over an entry whose reserved fields are zero and falls where no team is resident;
a queue starts empty when it is enabled, an
enabled one too (log 93); link training fills SYSCAP; registers hold the bits they have, and the host reads them
back; a doorbell waits behind the host's held stores (R398, log 114); in the safe state READY alone answers, and the
mailbox. -/
def Obligations.HostRegisterSteps : Prop :=
  (∀ (s : State) (c : Nat) (v : Word64), c < 64 → s.hostBehind = false →
    let x := s.ctx c
    let n : Word32 := v.setWidth 32
    (n ≠ x.resolved → (n - x.resolved).toNat ≤ (x.posted - x.resolved).toNat →
      exec (.fqdb c v) s = .next (s.setCtx c { x with resolved := n })) ∧
    (n = x.resolved ∨ (x.posted - x.resolved).toNat < (n - x.resolved).toNat →
      exec (.fqdb c v) s = .next (s.setCtx c x))) ∧
  -- a doorbell waits behind the host's earlier stores
  (∀ (s : State) (i : Instr) (c : Nat) (v : Word64), s.hostBehind = true →
    i ∈ [Instr.fqdb c v, .hostInvalidation v, .pctx v] → exec i s = .next { s with heldBar := s.heldBar ++ [i] }) ∧
  (∀ (s : State) (v : Word64), s.hostBehind = false → s.busy = false →
    ∃ t, exec (.hostInvalidation v) s = .next t ∧ t.busy = true ∧
    t.busyCtx = v.toNat % 64 ∧ t.mem = s.mem ∧ t.busyPage = (if v.getLsbD 8 then none else some s.inva) ∧
    (v.getLsbD 9 = true → t.tlb = s.tlb) ∧
    (v.getLsbD 9 = false →
      (∀ e ∈ t.tlb, e ∈ s.tlb ∧ (e.2.ctx = v.toNat % 64 → v.getLsbD 8 = false ∧
        (inWindow s.inva.toNat = false → e.2.leaf.holds s.inva.toNat = false))) ∧
      (∀ e ∈ s.tlb, e.2.ctx ≠ v.toNat % 64 → e ∈ t.tlb) ∧
      (v.getLsbD 8 = false → inWindow s.inva.toNat = true → t.tlb = s.tlb))) ∧
  (∀ (s : State) (v : Word64), s.hostBehind = false → s.pbusy = false → ∃ t, exec (.pctx v) s = .next t ∧ t.pbusy = true ∧ t.pctx = v.toNat % 64 ∧
    t.mem = s.mem ∧ (∀ e ∈ s.teams, e.2.ctx = v.toNat % 64 → e.2.saved = false → e.2.preempt = none → e.1 ∈ t.victims) ∧
    (∀ x ∈ s.victims, x ∈ t.victims)) ∧
  (∀ (s : State) (c : Nat) (v : Byte), c < 64 →
    let x := s.ctx c
    (v.getLsbD 0 = true → x.reservedOk = true → ∃ t, exec (.contextValidWrite c v) s = .next t ∧ (t.ctx c).valid = true) ∧
    (v.getLsbD 0 = true → x.reservedOk = false → exec (.contextValidWrite c v) s = .next s) ∧
    (v.getLsbD 0 = false → (∀ e ∈ s.teams, e.2.ctx = c → e.2.saved = true) →
      exec (.contextValidWrite c v) s = .next (s.setCtx c { x with valid := false })) ∧
    (v.getLsbD 0 = false → (∃ e ∈ s.teams, e.2.ctx = c ∧ e.2.saved = false) → exec (.contextValidWrite c v) s = .next s)) ∧
  (∀ (s : State) (n : Nat) (v : Word64), n < 1024 →
    let q := s.queue n
    -- an accepted enable starts the queue anew, an enabled one too (log 93)
    (v.getLsbD 63 = true → (∀ e ∈ s.grids, e.2.queue = n → e.2.waiting = true) →
      ∃ t, exec (.queueEnable n v) s = .next t ∧ (t.queue n).en = true ∧ (t.queue n).head = 0 ∧ (t.queue n).tail = 0 ∧
        (t.queue n).hash = 0 ∧ (t.queue n).vec = v.toNat / 2 ^ 37 % 2 ^ 11 ∧ t.mem = s.mem ∧ (∀ e ∈ t.grids, e.2.queue ≠ n) ∧
        (q.en = false → (t.queue n).mode.toNat = v.toNat / 2 ^ 61 % 4 ∧ (t.queue n).ctx = v.toNat / 2 ^ 52 % 64 ∧
          (t.queue n).sz = v.toNat / 2 ^ 48 % 16) ∧
        (q.en = true → (t.queue n).mode = q.mode ∧ (t.queue n).ctx = q.ctx ∧ (t.queue n).sz = q.sz)) ∧
    (v.getLsbD 63 = true → (∃ e ∈ s.grids, e.2.queue = n ∧ e.2.waiting = false) →
      exec (.queueEnable n v) s = .next s) ∧
    (v.getLsbD 63 = false → ∃ t, s.completesIf (s.settled ∧ q.waiters = []) (.queueDisable n v) t ∧ (t.queue n).en = false ∧
      (q.waiters = [] → t.mem = s.mem) ∧
      (q.en = true → (t.queue n).waiters = [] ∧ ∀ e ∈ t.grids, e.2.queue = n → e.2.waiting = false))) ∧
  (∀ (s : State) (v : Word64), s.ready.getLsbD 0 = true →
    exec (.linkTraining v) s = .next { s with syscap := v &&& 0xFF7F }) ∧
  -- each register holds the bits it has, and the host reads them back
  (∀ (s : State) (o : Nat) (v : Word64), s.ready.getLsbD 56 = false →
    let put (t : State) : Prop := exec (.registerWrite o v) s = .next t
    let back (x : Word64) : Prop := ∃ t, exec (.registerWrite o v) s = .next t ∧ t.barRead o = x
    (o = 0x10 → put { s with tring := v &&& 0x000FFFFFFFFFFFEF } ∧ back (v &&& 0x000FFFFFFFFFFFEF)) ∧
    (o = 0x20 → put { s with trvec := v.toNat % 2 ^ 11 } ∧ back (v &&& 0x7FF)) ∧
    (o = 0x1200 → put { s with inva := v } ∧ back v) ∧
    (o = 0x20000 → v.toNat % 64 < 32 → put { s with fabidReg := v.toNat % 64 } ∧ back (v &&& 0x1F)) ∧
    (o = 0x20000 → 32 ≤ v.toNat % 64 → put s) ∧
    (o = 0x20008 → put { s with membersReg := v } ∧ back v) ∧
    (o = 0x20018 → put { s with evring := v &&& 0x000FFFFFFFFFFFEF } ∧ back (v &&& 0x000FFFFFFFFFFFEF)) ∧
    (o = 0x20028 → put { s with rethr := v.toNat % 2 ^ 16 } ∧ back (v &&& 0xFFFF)) ∧
    (o = 0x20030 → put { s with evvec := v.toNat % 2 ^ 11 } ∧ back (v &&& 0x7FF)) ∧
    (o % 8 ≠ 0 → put s ∧ s.barRead o = 0) ∧
    (∀ c k, c < 64 → k < 8 → o = 0x10000 + 64 * c + 8 * k → (s.ctx c).valid = true → ∃ t, put t ∧
      ∀ d, (t.ctx d).raw = (s.ctx d).raw ∧ (d ≠ c ∨ k ≠ 6 → t.ctx d = s.ctx d)) ∧
    (∀ n, n < 1024 → o = 0x40000 + 64 * n → (s.queue n).en = true → ∃ t, put t ∧ (t.queue n).qbase = (s.queue n).qbase) ∧
    (∀ n, n < 1024 → o = 0x40000 + 64 * n → (s.queue n).en = false →
      ∃ t, put t ∧ (t.queue n).qbase = v.toNat / 64 % 2 ^ 46 * 64)) ∧
  (∀ s : State, s.ready.getLsbD 56 = false → s.barRead 0 = s.syscap ∧ s.barRead 8 = s.ready ∧
    s.barRead 0x18 = s.trpos.setWidth 64 ∧ s.barRead 0x1210 = (if s.busy then 1 else 0) ∧
    s.barRead 0x1220 = (if s.pbusy then 1 else 0)) ∧
  -- in the safe state READY and the mailbox answer, and no other register
  (∀ (s : State) (o : Nat) (v : Word64), s.ready.getLsbD 56 = true → o < 0x200000 →
    exec (.registerWrite o v) s = .next s ∧ s.barRead o = (if o = 8 then s.ready else 0))

/-- R387, R392 to R396, R401: the host in device memory, its snoops, and errors. A host offset below 204 GiB is a byte of
a die's near or far memory; a read, a write, a compare-and-swap and a grant act there, line by line (log 114), unless the
line waits for a back-invalidation or the die's memory is not ready; the host's
answer to a back-invalidation ends the grant and brings changed bytes home; a snoop takes dirty bytes from the
L2s; an error completion ends the context, and what the request served takes no value. -/
def Obligations.HostMemorySteps : Prop :=
  (∀ o : Nat, let g := 2 ^ 30
    (o < 12 * g → hostPa o = some (o / (3 * g) * 2 ^ 32 + o % (3 * g))) ∧
    (12 * g ≤ o → o < 204 * g → hostPa o = some (2 ^ 40 + (o - 12 * g) / (48 * g) * 2 ^ 36 + (o - 12 * g) % (48 * g))) ∧
    (204 * g ≤ o → hostPa o = none) ∧ (o < 204 * g → ∀ pa, hostPa o = some pa → isDevice pa = true)) ∧
  -- a request within a line whose bytes are at hand
  (∀ (s : State) (o pa : Nat), hostPa o = some pa → s.memOffered = true → s.hostWaits pa = false →
    (∀ h ∈ s.heldHost, h.offset / 64 ≠ o / 64) →
    (∀ i, o % 64 + i < 64 → hostPa (o + i) = some (pa + i)) ∧
    (∀ n, 0 < n → o % 64 + n ≤ 64 → exec (.hostMemRequest o (.read n)) s = .next
      { s with hostOut := (List.range n).map (fun i => s.rd (pa + i)) :: s.hostOut }) ∧
    (∀ b, 0 < b.length → o % 64 + b.length ≤ 64 → ∃ t, exec (.hostMemRequest o (.write b)) s = .next t ∧
      t = { s with mem := t.mem } ∧ (∀ i < b.length, some (t.rd (pa + i)) = b[i]?) ∧
      (∀ qa, qa < pa ∨ pa + b.length ≤ qa → t.rd qa = s.rd qa)) ∧
    (∀ n c v, o % 64 + n ≤ 64 →
      let old := ofBytes ((List.range n).map (fun i => s.rd (pa + i)))
      ∃ t, exec (.hostMemRequest o (.cas n c v)) s = .next t ∧ t.hostOut = toBytes n old :: s.hostOut ∧
        (old = c.toNat % 2 ^ (8 * n) → ofBytes ((List.range n).map (fun i => t.rd (pa + i))) = v.toNat % 2 ^ (8 * n)) ∧
        (old ≠ c.toNat % 2 ^ (8 * n) → t.mem = s.mem) ∧ (∀ qa, qa < pa ∨ pa + n ≤ qa → t.rd qa = s.rd qa)) ∧
    (∀ req, req = HostReq.share ∨ req = HostReq.own →
      let line := pa / 64 * 64
      let mine := s.hostDir.filter (fun e => homeDie e.line == homeDie line)
      ∃ t, exec (.hostMemRequest o req) s = .next t ∧ t.mem = s.mem ∧
        (s.syscap.getLsbD 6 = false ∨ mine.length < 65536 →
          t.hostOut = (List.range 64).map (fun i => s.rd (line + i)) :: s.hostOut) ∧
        (s.syscap.getLsbD 6 = true → mine.length < 65536 →
          ∃ e ∈ t.hostDir, e.line = line ∧ (e.owned = true ↔ req = HostReq.own)))) ∧
  -- one that waits, one that reaches no memory, and one over several lines
  (∀ (s : State) (o pa : Nat) (req : HostReq), hostPa o = some pa → s.memOffered = true →
    s.hostWaits pa = true ∨ (∃ h ∈ s.heldHost, h.offset / 64 = o / 64) →
    (match req with
      | .read n => 0 < n ∧ o % 64 + n ≤ 64
      | .write b => 0 < b.length ∧ o % 64 + b.length ≤ 64
      | .cas n _ _ => o % 64 + n ≤ 64
      | _ => True) → exec (.hostMemRequest o req) s = .next { s with heldHost := s.heldHost ++ [⟨o, req⟩] }) ∧
  (∀ (s : State) (o : Nat) (req : HostReq), s.memOffered = false ∨ 204 * 2 ^ 30 ≤ o →
    exec (.hostMemRequest o req) s = .next s) ∧
  (∀ (s : State) (o n : Nat) (b b' : List Byte), (o + n) % 64 = 0 → 0 < n → b.length = n → 0 < b'.length →
    ∃ t, exec (.hostMemRequest o (.write b)) s = .next t ∧
      exec (.hostMemRequest o (.write (b ++ b'))) s = exec (.hostMemRequest (o + n) (.write b')) t) ∧
  (∀ (s : State) (o n m : Nat), (o + n) % 64 = 0 → 0 < n → 0 < m → ∃ t, exec (.hostMemRequest o (.read n)) s = .next t ∧
    exec (.hostMemRequest o (.read (n + m))) s = exec (.hostMemRequest (o + n) (.read m)) t) ∧
  (∀ (s : State) (line : Nat) (dirty : Option (List Byte)), line ∈ s.backInv →
    ∃ t, exec (.backInvalidationResponse line dirty) s = .next t ∧ line ∉ t.backInv ∧ (∀ e ∈ t.hostDir, e.line ≠ line) ∧
      (∀ e ∈ s.hostDir, e.line ≠ line → e ∈ t.hostDir) ∧
      (∀ b, dirty = some b → b.length = 64 → (∃ e ∈ s.hostDir, e.line = line ∧ e.owned = true) →
        (∀ i < 64, some (t.rd (line + i)) = b[i]?) ∧ ∀ qa, qa < line ∨ line + 64 ≤ qa → t.rd qa = s.rd qa) ∧
      (dirty = none ∨ (∀ e ∈ s.hostDir, e.line = line → e.owned = false) → t.mem = s.mem)) ∧
  (∀ (s : State) (line : Nat) (kind : SnoopKind), isHost line = true → line % 64 = 0 → s.syscap.getLsbD 1 = true →
    ∃ t, exec (.hostSnoop line kind) s = .next t ∧ t.hostOut = (List.range 64).map (fun i => t.rd (line + i)) :: s.hostOut ∧
      (∀ i < 64, ∀ d < 4, ∀ c, s.cached (320 + d) (line + i) = some ⟨c, true⟩ →
        (∀ e < 4, e ≠ d → s.cached (320 + e) (line + i) = none) → t.rd (line + i) = c) ∧
      (∀ i < 64, (∀ d < 4, s.cached (320 + d) (line + i) = none) → t.rd (line + i) = s.rd (line + i)) ∧
      (∀ i < 64, ∀ d < 4, (kind = .invalidate → t.cached (320 + d) (line + i) = none) ∧
        ∀ c, t.cached (320 + d) (line + i) = some c → c.dirty = false)) ∧
  -- an error completion of a load ends the context, and the lanes that the request served take no value
  (∀ (s : State) (gid n pa len : Nat) (g : Group) (o : Op) (order : Order) (scope : Scope) (w d f : Nat) (accs : List LaneAcc) (left : List Nat),
    s.group? gid = some g → dget g.ops n = some o → o.kind = .load order scope w d f accs left → isHost pa = true →
    pa % 64 + len ≤ 64 → (s.ctx g.ctx).terminate = none →
    let hit (i : Nat) : Prop := ∃ a ∈ accs, a.lane = i ∧ hitBy pa len w a.loc = true
    (∃ i ∈ left, hit i) →
    ∃ t h, exec (.hostErrorCompletion (.op gid n len) pa) s = .next t ∧ t.group? gid = some h ∧
      (∀ p, dget h.ops n = some p → p.data = o.data ∧ ∃ rest, p.kind = .load order scope w d f accs rest ∧
        ∀ i, i ∈ rest ↔ i ∈ left ∧ ¬ hit i) ∧
      -- it is done where no lane is left and no data has come
      (dget h.ops n = none ↔ o.data = [] ∧ ∀ i ∈ left, hit i) ∧
      h.vregs = g.vregs ∧ h.sregs = g.sregs ∧ t.mem = s.mem ∧
      (t.ctx g.ctx).terminate = some (6, 0, BitVec.ofNat 64 pa, g.gridId)) ∧
  -- of another unit: the context ends
  (∀ (s : State) (c pa : Nat), isHost pa = true → (s.ctx c).valid = true → (s.ctx c).terminate = none →
    exec (.hostErrorCompletion (.other c) pa) s = .next
      (s.setCtx c { s.ctx c with terminate := some (6, 0, BitVec.ofNat 64 pa, 0) })) ∧
  (∀ (s : State) (n pa : Nat) (j : CopyJob), dget s.jobs n = some j → j.accepted = true → j.pos < j.req.total →
    s.pieceHost j = some pa → (s.ctx j.ctx).terminate = none →
    ∃ t, exec (.hostErrorCompletion (.copy j.core n) pa) s = .next t ∧ t.mem = s.mem ∧
      (t.ctx j.ctx).terminate = some (6, 0, BitVec.ofNat 64 pa, 0) ∧
      ∃ j', dget t.jobs n = some j' ∧ j'.pos = j.pos + (j.req.piece j.pos).2.2.2)

/-! ### Fabric and management -/

/-- R364, R402, R405, R406: the management mailbox. A command that completes leaves its response in RSP, its
length in RLEN and its status in STATUS, and signals VEC; GO sets STATUS to 1, and until the command completes the
request stands (log 74: a command completes in a step of its own); in the safe state keys, limits and signatures are
refused with status 3; a command of bad length or an unassigned one completes with status 2. -/
def Obligations.MailboxCommands : Prop :=
  (∀ (s : State) (n : Nat) (b : List Byte), n < 256 → b.length < 2 ^ 32 →
    let t := s.mailboxDone n b
    t.mbox.status.toNat = n ∧ t.mbox.rlen.toNat = b.length ∧ t.mbox.rsp.take b.length = b ∧ t.mbox.opc = s.mbox.opc ∧
    t.mbox.len = s.mbox.len ∧ t.mbox.req = s.mbox.req ∧ t.mbox.vec = s.mbox.vec ∧
    t = State.signal { s with mbox := t.mbox } s.mbox.vec) ∧
  -- GO makes the mailbox busy, and while it is busy its request stands
  (∀ (s : State) (o : Nat) (v : Word64), s.ready.getLsbD 0 = true ∨ s.ready.getLsbD 56 = true → o < 0x10000 →
    (s.mbox.status ≠ 1 → v.getLsbD 0 = true →
      exec (.registerWrite 0x200010 v) s = .next { s with mbox := { s.mbox with status := 1 } }) ∧
    (s.mbox.status = 1 → o ≠ 0x18 → exec (.registerWrite (0x200000 + o) v) s = .next s)) ∧
  keyBytes.length = 1952 ∧ (∀ msg, (signBytes msg).length = 3309) ∧
  (∀ (s : State), s.mbox.status = 1 →
    let m := s.mbox
    -- a bad length
    (s.ready.getLsbD 0 = true → s.ready.getLsbD 56 = false → ∀ opc len i, (opc, len, i) ∈
      [(1, 0, Instr.mailboxSelfTest), (2, 0, .mailboxPublicKey), (3, 2, .mailboxSignChain), (4, 35, .mailboxInstallKey true),
       (4, 35, .mailboxInstallKey false), (5, 2, .mailboxPowerLimit), (6, 0, .mailboxErrorCounts),
       (7, 0, .mailboxPowerState)] →
      m.opc.toNat = opc → m.len.toNat ≠ len → exec i s = .next (s.mailboxDone 2 [])) ∧
    -- commands that answer in the safe state as well
    (s.ready.getLsbD 0 = true ∨ s.ready.getLsbD 56 = true →
      (m.opc = 1 → m.len = 0 → exec .mailboxSelfTest s = .next (s.mailboxDone 0
        (if s.selfTest = [] then List.replicate 32 0 else s.selfTest))) ∧
      (m.opc = 2 → m.len = 0 → exec .mailboxPublicKey s = .next (s.mailboxDone 0 keyBytes)) ∧
      (m.opc = 6 → m.len = 0 → exec .mailboxErrorCounts s = .next (s.mailboxDone 0
        (toBytes 8 s.corrected.toNat ++ toBytes 8 s.uncorrected.toNat))) ∧
      (m.opc = 7 → m.len = 0 → exec .mailboxPowerState s = .next (s.mailboxDone 0
        (toBytes 2 s.power.limit ++ toBytes 2 s.power.measured ++ toBytes 1 s.power.matrix ++ toBytes 1 s.power.issue ++
          [if s.power.unreach then 1 else 0] ++ List.replicate 9 0))) ∧
      (m.opc.toNat = 0 ∨ 7 < m.opc.toNat → exec .mailboxBadCommand s = .next (s.mailboxDone 2 []))) ∧
    -- commands of the running module
    (s.ready.getLsbD 0 = true → s.ready.getLsbD 56 = false →
      (m.opc = 3 → m.len = 2 → let q := ofBytes [tget 0 m.req 0, tget 0 m.req 1]
        let msg := toBytes 32 (shake256 keyBytes).toNat ++ toBytes 2 q ++ toBytes 8 (s.queue q).lastSerial.toNat ++
          toBytes 32 (s.queue q).hash.toNat
        exec .mailboxSignChain s = .next (if q < 1024 then s.mailboxDone 0 (msg ++ signBytes msg) else s.mailboxDone 2 [])) ∧
      (m.opc = 5 → m.len = 2 → let w := ofBytes [tget 0 m.req 0, tget 0 m.req 1]
        exec .mailboxPowerLimit s = .next (if 600 ≤ w ∧ w ≤ 2700
          then State.mailboxDone { s with power := { s.power with limit := w } } 0 [] else s.mailboxDone 2 [])) ∧
      (m.opc = 4 → m.len = 35 →
        let p := (tget 0 m.req 0).toNat
        let dir := (tget 0 m.req 1).toNat
        let slot := (tget 0 m.req 2).toNat
        let key : BitVec 256 := BitVec.ofNat 256 (ofBytes ((List.range 32).map (fun i => tget 0 m.req (3 + i))))
        exec (.mailboxInstallKey false) s = .next (s.mailboxDone 3 []) ∧
        (p < 44 → slot < 2 →
          (dir = 0 → dget (s.port p).txKeys slot = none → exec (.mailboxInstallKey true) s = .next
              ((s.installTx p slot key).mailboxDone 0 []) ∧
            dget ((s.installTx p slot key).port p).txKeys slot = some key ∧
            ((s.installTx p slot key).port p).ktx = (slot == 1)) ∧
          (dir = 1 → dget (s.port p).rxKeys slot = none → exec (.mailboxInstallKey true) s = .next
              ((s.installRx p slot key).mailboxDone 0 []) ∧
            dget ((s.installRx p slot key).port p).rxKeys slot = some key) ∧
          (dir = 0 → dget (s.port p).txKeys slot ≠ none → exec (.mailboxInstallKey true) s = .next (s.mailboxDone 4 [])) ∧
          (dir = 1 → dget (s.port p).rxKeys slot ≠ none → exec (.mailboxInstallKey true) s = .next (s.mailboxDone 4 []))))) ∧
    -- refused in the safe state
    (s.ready.getLsbD 56 = true →
      (m.opc = 3 → exec .mailboxSignChain s = .next (s.mailboxDone 3 [])) ∧
      (m.opc = 4 → ∀ b, exec (.mailboxInstallKey b) s = .next (s.mailboxDone 3 [])) ∧
      (m.opc = 5 → exec .mailboxPowerLimit s = .next (s.mailboxDone 3 []))))

/-- R365 to R373: the Meridian. It is enabled with the registers in force and sends its record, frames follow one
another with this device's record, the records of a frame give one grant table (repairs first, then each member
at most its REQ, slots strictly rising, no slot on a degraded plane), a missed record or unit is lost until its
repair, and a unit is kept for its position, at which it is applied. A unit lost for 16 frames halts it, and the
operations that have not completed never do; a disabled Meridian keeps what is still owed to other agents. (A record's
repair has unit index 960 and more: log 39.) -/
def Obligations.MeridianSteps : Prop :=
  (∀ (s : State), s.mer.en = false →
    (s.banksReady = true → ∃ t, exec .meridianEnable s = .next t ∧ t.mer.en = true ∧ t.mer.halt = false ∧ t.mer.frame = 0 ∧
      t.mer.epoch = s.cycle ∧ t.fabid = s.fabidReg ∧ t.members = s.membersReg ∧ t.mem = s.mem ∧
      (∃ r, t.record? 2 t.fabid = some r ∧ r.agent = s.fabidReg) ∧
      ∀ gid g, s.group? gid = some g → ∃ h, t.group? gid = some h ∧ h.flags = g.flags ∧ h.vregs = g.vregs ∧
        h.sregs = g.sregs ∧ h.preds = g.preds) ∧
    (s.banksReady = false → exec .meridianEnable s = .next { s with mer := { s.mer with enHeld := true } })) ∧
  (∀ (s : State), ∃ t, exec .meridianDisable s = .next t ∧ t.mer.en = false ∧ t.mem = s.mem ∧
    (∀ u, u ∈ t.mer.wants ↔ u ∈ s.mer.wants ∧ (u.typ = 0x07 ∨ u.typ = 0x09 ∨ u.typ = 0x0B ∨
      (u.typ = 0x0C ∧ u.body.toNat % 256 = 2))) ∧
    ∀ gid g, s.group? gid = some g → ∃ h, t.group? gid = some h ∧ h.flags = g.flags ∧ h.vregs = g.vregs ∧ h.sregs = g.sregs ∧
      ∀ n o, dget g.ops n = some o →
        dget h.ops n = some { o with mer := if o.mer = 2 then 1 else o.mer }) ∧
  (∀ (s : State) (f : Nat) (t : List (Nat × Slot64)) (recs : List ResRecord), s.recordsFor f = some recs →
    s.grantTable f = some t →
    (t.map (fun e => e.1)).Pairwise (· < ·) ∧ (∀ e ∈ t, e.1 < 960) ∧
    (∀ e ∈ t, ∀ e' ∈ t, ∀ f' u' a, e.2 = .repair f' u' → e'.2 = .own a → e.1 < e'.1) ∧
    (t.filter (fun e => match e.2 with
      | .repair .. => true
      | .own _ => false)).length ≤ 64 ∧
    (∀ a r, recs.find? (fun r => r.agent == a) = some r → (t.filter (fun e => e.2 == .own a)).length ≤ r.req ∧
      ∀ u, (u, Slot64.own a) ∈ t → r.deg.getLsbD (u % 4) = false)) ∧
  (∀ (s : State), s.mer.en = true → (s.mer.frame.toNat + 1) * 512 ≤ (s.cycle - s.mer.epoch) * 5 →
    let f := s.mer.frame.toNat + 1
    (s.mer.halt = true →
      s.completesIf s.settled .meridianFrame { s with mer := { s.mer with frame := BitVec.ofNat 48 f } }) ∧
    (s.mer.halt = false → State.unserviceable { s with mer := { s.mer with frame := BitVec.ofNat 48 f } } f = none →
      -- no unit is at hand once this device has its grants of the frame
      let x := (State.enqueueOps (State.runAcks { s with mer := { s.mer with frame := BitVec.ofNat 48 f } })).takeDue 18
      ∃ u r, s.completesIf (s.calm ∧ x.mer.held = []) .meridianFrame u ∧ u.mer.frame = BitVec.ofNat 48 f ∧ u.mer.halt = false ∧
        u.mer.resOut = s.recordPlaces.map (fun x => (x.1, x.2, r)) ++ s.mer.resOut ∧
        (∀ x ∈ s.recordPlaces, (x.1 = s.fabid % 4 ∨ x.1 = (s.fabid + 2) % 4) ∧ x.2 = s.fabid / 2 ∧
          (s.bankLit x.1).getLsbD 15 = true) ∧ r.agent = s.fabid ∧ r.req ≤ 63 ∧ r.deg = s.degraded ∧
        (f + 2, s.fabid, r) ∈ u.mer.records) ∧
    (∀ a n, s.mer.halt = false →
      State.unserviceable { s with mer := { s.mer with frame := BitVec.ofNat 48 f } } f = some (a, n) →
      -- the operations that have not completed never do
      (∀ gid g n o, s.group? gid = some g → dget g.ops n = some o → ∃ h, s.loseOps.group? gid = some h ∧
        dget h.ops n = some { o with mer := if o.mer = 1 ∨ o.mer = 2 ∨ o.mer = 4 then 5 else o.mer }) ∧
      s.completesIf s.settled .meridianFrame { s.loseOps with
        mer := { s.mer with frame := BitVec.ofNat 48 f, halt := true }
        evQueue := s.evQueue ++ [{ typ := 0x08, unit := 1, index := 0, old := 0, new := 0,
                                   place := BitVec.ofNat 64 (a * 1024 + n), detail := 0 }] })) ∧
  (∀ (s : State) (agent : Nat), s.mer.en = true → s.mer.halt = false → s.members.getLsbD agent = true → agent < 64 →
    agent ≠ s.fabid → let f := s.mer.frame.toNat
    (s.mer.lost = [] → s.record? (f + 2) agent = none → s.completesIf s.settled (.reservationRecord none agent)
      { s with mer := { s.mer with lost := [(f, 960 + agent)] } }) ∧
    (∀ r, s.mer.lost = [] → s.record? (f + 2) agent = none →
      let x := State.takeDue { s with mer := { s.mer with
        records := s.mer.records ++ [(f + 2, agent, { r with agent := agent })] } } 18
      s.completesIf (s.calm ∧ x.mer.held = []) (.reservationRecord (some r) agent) (x.runUnits 2048))) ∧
  (∀ (s : State) (x : Unit64), s.mer.en = true → s.mer.halt = false → x.src.toNat ≠ s.fabid → x.index < 960 →
    s.mer.pos.1 < x.frame.toNat → (∀ y ∈ s.mer.held, y.frame = x.frame → y.index ≠ x.index) →
    (x.good = true → x.typ.toNat ≤ 0x0C →
      let s1 : State := { s with mer := { s.mer with held := s.mer.held ++ [x] } }
      let next := s1.nextSlot s.mer.pos.1 s.mer.pos.2
      -- the position waits for records or for another unit
      s.completesIf (s.calm ∧ (next = .wait ∨ ∃ u, next = .missing u)) (.meridianUnit x) (State.tidy (s1.runUnits 2048))) ∧
    (x.good = false ∨ 0x0C < x.typ.toNat → (x.frame.toNat, x.index) ∉ s.mer.lost →
      s.completesIf s.settled (.meridianUnit x)
      { s with mer := { s.mer with lost := s.mer.lost ++ [(x.frame.toNat, x.index)] } })) ∧
  -- the next granted unit, at hand, is applied, and the position moves past it
  (∀ (s : State) (n u a : Nat) (t : List (Nat × Slot64)) (x : Unit64), s.mer.en = true → s.mer.halt = false →
    s.mer.pos.1 ≤ s.mer.frame.toNat → s.grantTable s.mer.pos.1 = some t →
    t.find? (fun e => decide (s.mer.pos.2 ≤ e.1)) = some (u, .own a) →
    s.mer.held.find? (fun y => y.frame.toNat == s.mer.pos.1 && y.index == u) = some x →
    let r := s.applyUnit x
    let others (t : State) : List Unit64 := t.mer.held.filter (fun y => !(y.frame == x.frame && y.index == x.index))
    r.1.waits = false →
      (r.2 = .done → s.runUnits (n + 1) =
        State.runUnits { r.1 with mer := { r.1.mer with pos := (s.mer.pos.1, u + 1), held := others r.1 } } n) ∧
      (∀ y, r.2 = .rest y → s.runUnits (n + 1) =
        State.runUnits { r.1 with mer := { r.1.mer with held := y :: others r.1 } } n) ∧
      (r.2 = .hold → s.runUnits (n + 1) = s)) ∧
  -- ownership and recall of a pooled frame
  (∀ (s : State) (x : Unit64), x.src.toNat ≠ s.fabid → x.bc = true → let f := (x.body.extractLsb' 8 44).toNat
    let t := (s.applyUnit x).1
    (x.typ = 0x01 → dget t.mer.owners f = some x.src.toNat) ∧
    (x.typ = 0x02 → dget t.mer.owners f = none) ∧
    -- what a device that does not own the frame has written stays, to ask for it in its turn
    (x.typ = 0x01 ∨ x.typ = 0x02 → ∀ d i, d < 4 → i < 256 →
      (s.owns (f * 256) = true → t.cached (320 + d) (f * 256 + i) = none) ∧
      ∀ c, t.cached (320 + d) (f * 256 + i) = some c → c.dirty = true ∧ s.cached (320 + d) (f * 256 + i) = some c) ∧
    (x.typ = 0x05 → t = s))

/-- R375, R377, R378, R380: a sequenced flit is accepted only in SEQ order and with a good AUTH, whatever it is;
a duplicate is acknowledged again, a gap asks for a replay, as does a flit for which the sender had no credit, and a
bad AUTH is counted; an accepted one does what its kind says. (The payload bits of KIND 5, 8 and 9 are the model's: log
38 and 112.) -/
def Obligations.SequencedFlits : Prop :=
  (∀ (s : State) (p : Nat) (f : Flit) (i : Instr), p < 44 → (s.port p).up = true →
    i ∈ [Instr.requestFlit p f, .writeDataFlit p f, .readDataFlit p f, .completionFlit p f, .keyRetire p f, .dropNotice p f,
      .reservationRequest p f, .reservationGrant p f] →
    let x := s.port p
    ∀ key, dget x.rxKeys (if f.ks then 1 else 0) = some key →
    let iv := ivOf p 1 (if f.ks then 1 else 0) (tget 0 x.rxCount (if f.ks then 1 else 0))
    (f.seq = x.rxNext → Config.gcmTag key iv (flitHead f) f.payload = f.auth →
      f.drp = true ∨ tget 0 x.owed f.ch.toNat < tget 0 x.slots f.ch.toNat → ∃ t, exec i s = .next t ∧
      (t.port p).rxNext = x.rxNext + 1 ∧ (t.port p).lastRx = s.cycle ∧ (t.port p).authRun = 0 ∧ (t.port p).asked = false ∧
      (t.port p).authf = x.authf ∧ (t.port p).ackIn = x.ackIn + BitVec.ofNat 12 (x.ackStep f.ack)) ∧
    -- the sender had no credit (R377)
    (f.seq = x.rxNext → Config.gcmTag key iv (flitHead f) f.payload = f.auth → f.drp = false →
      tget 0 x.slots f.ch.toNat ≤ tget 0 x.owed f.ch.toNat → exec i s = .next ((s.heard p).askReplay p)) ∧
    (f.seq = x.rxNext → Config.gcmTag key iv (flitHead f) f.payload ≠ f.auth → ∃ t, exec i s = .next t ∧
      (t.port p).rxNext = x.rxNext ∧ t.mem = s.mem ∧
      (t.port p).authf = (if x.authf = 0xFFFF then 0xFFFF else x.authf + 1) ∧
      (2 ≤ x.authRun → (t.port p).up = false)) ∧
    (f.seq ≠ x.rxNext → (x.rxNext - 1 - f.seq).toNat < 2048 →
      exec i s = .next ((s.heard p).sendPlain p (mkFlit 0 6 0 false 0))) ∧
    (f.seq ≠ x.rxNext → 2048 ≤ (x.rxNext - 1 - f.seq).toNat → exec i s = .next ((s.heard p).askReplay p))) ∧
  (∀ (s : State) (p : Nat) (f : Flit) (key : BitVec 256), p < 44 →
    let x := s.port p
    x.up = true → dget x.rxKeys (if f.ks then 1 else 0) = some key → f.seq = x.rxNext →
    f.drp = true ∨ tget 0 x.owed f.ch.toNat < tget 0 x.slots f.ch.toNat → s.reqQueue = [] →
    let iv := ivOf p 1 (if f.ks then 1 else 0) (tget 0 x.rxCount (if f.ks then 1 else 0))
    Config.gcmTag key iv (flitHead f) f.payload = f.auth →
    let plain := Config.gcmPlain key iv f.payload
    (∃ t, exec (.requestFlit p f) s = .next t ∧ t.mem = s.mem ∧ t.groups = s.groups) ∧
    (∃ t, exec (.writeDataFlit p f) s = .next t ∧ t.mem = s.mem ∧ t.groups = s.groups) ∧
    (∀ q r k, s.findReq p f = some (q, r) → r.atom = none → r.write = false → (quarters r.words)[r.got]? = some k →
      ∃ t, exec (.readDataFlit p f) s = .next t ∧
        ofBytes ((List.range 64).map (fun i => t.rd (r.frame * 256 + 64 * k + i))) = plain.toNat ∧
        (∀ a, a < r.frame * 256 + 64 * k ∨ r.frame * 256 + 64 * k + 64 ≤ a → t.rd a = s.rd a) ∧
        (r.got + 1 = (quarters r.words).length →
          tget 0 t.arrived r.frame = tget 0 s.arrived r.frame ||| r.words ∧ ∀ r' ∈ (t.port q).reqs, r'.tag ≠ r.tag)) ∧
    -- the old value of an atomic is its answer
    (∀ q r y, s.findReq p f = some (q, r) → r.atom = some y → ∃ t, exec (.readDataFlit p f) s = .next t ∧ t.mem = s.mem ∧
      (∀ r' ∈ (t.port q).reqs, r'.tag ≠ r.tag)) ∧
    -- a write is at its node, and its piece is counted later
    (∀ q r, s.findReq p f = some (q, r) → r.write = true →
      ∃ t, exec (.completionFlit p f) s = .next t ∧ (∀ r' ∈ (t.port q).reqs, r'.tag ≠ r.tag) ∧
        (∀ a, (∀ e ∈ r.data, a ≠ r.frame * 256 + e.1) → t.rd a = s.rd a) ∧
        ((r.data.map (fun e => e.1)).Nodup → ∀ e ∈ r.data, t.rd (r.frame * 256 + e.1) = e.2) ∧
        ∀ k n j, r.job = some (k, n) → dget s.jobs k = some j →
          dget t.jobs k = some { j with ended := j.ended ++ [(s.cycle, n, 0)] }) ∧
    (let slot := if plain.getLsbD 0 then 1 else 0
      ∃ t, exec (.keyRetire p f) s = .next t ∧ dget (t.port p).rxKeys slot = none ∧ (t.port p).krxv.getLsbD slot = false) ∧
    (∃ t, exec (.dropNotice p f) s = .next t ∧ ∀ b ∈ (t.port p).bulks, b.tag = f.tag.toNat → b.dropped = true) ∧
    (∃ t g, exec (.reservationRequest p f) s = .next t ∧ (g ∈ (t.port p).out ∨ [g] ∈ (t.port p).pend) ∧ g.kind = 9 ∧
      g.tag = f.tag) ∧
    (∃ t, exec (.reservationGrant p f) s = .next t ∧ ∀ b ∈ (t.port p).bulks, b.tag = f.tag.toNat → b.dropped = true →
      b.grant = some (plain.toNat % 2 ^ 64, plain.toNat / 2 ^ 64 % 2 ^ 64)))

/-- R375, R378, R381, R382, R386: the flits outside the sequence. Each carries an ACK and credits, which count, and new
flits that they let go follow what the flit itself asks for;
a replay request sends the unacknowledged flits again; an announcement is echoed and its set taken at the
boundary; an echo lets the set change; a wavelength request changes the set where at least 8 wavelengths remain,
and else takes the port down. (The payload bits of KIND 10 and 11 are the model's: log 112.) -/
def Obligations.UnsequencedFlits : Prop :=
  ∀ (s : State) (p : Nat) (f : Flit), p < 44 → (s.port p).up = true →
    let base := (s.heard p).takeAck p f
    let x := base.port p
    let mask := f.payload.extractLsb' 0 16
    let e := f.payload.extractLsb' 16 12
    let bit := 1#16 <<< (f.payload.toNat / 2 % 16)
    let past := 0 < (x.rxNext - e).toNat ∧ (x.rxNext - e).toNat < 2048
    let set := if f.payload.getLsbD 0 then x.txact ||| bit else x.txact &&& ~~~bit
    x.lastRx = s.cycle ∧ x.ackIn = (s.port p).ackIn + BitVec.ofNat 12 ((s.port p).ackStep f.ack) ∧ base.mem = s.mem ∧
    exec (.idleFlit p f) s = .next (base.drain p) ∧
    (x.lossHold = true → exec (.replayRequest p f) s = .next (base.drain p)) ∧
    (x.lossHold = false → x.mute = false → exec (.replayRequest p f) s = .next
      ((base.setPort p { x with out := x.replay.reverse ++ x.out, ackAt := s.cycle, again := false }).drain p)) ∧
    -- while only an announcement may go, the replay waits for its echo
    (x.mute = true → exec (.replayRequest p f) s = .next ((base.setPort p { x with again := true }).drain p)) ∧
    (∃ u : State, exec (.activeSetAnnouncement p f) s = .next (u.drain p) ∧
      (x.mute = false → ∃ y, (u.port p).out = y :: x.out ∧ y.kind = 11 ∧ y.payload.toNat = f.payload.toNat % 2 ^ 28) ∧
      (past → (u.port p).rxact = mask ∧ (u.port p).rxAnn = none) ∧
      (¬ past → (u.port p).rxact = x.rxact ∧ (u.port p).rxAnn = some (mask, e))) ∧
    (∀ a, x.ann = some a → a.mask = mask → a.bound = e → x.lossHold = false → x.again = false →
      exec (.activeSetEcho p f) s = .next ((base.setPort p { x with ann := some { a with echoed := true } }).drain p)) ∧
    (∀ a, x.ann = some a → a.mask = mask → a.bound = e → x.lossHold = true → ∃ u : State,
      exec (.activeSetEcho p f) s = .next (u.drain p) ∧ (u.port p).lossHold = false ∧ (u.port p).ann = none ∧
      (u.port p).out = (x.replay.filter (fun g => decide ((g.seq - a.bound).toNat < 2048))).reverse ++ x.out) ∧
    (x.ann = none → set ≠ x.txact → (f.payload.getLsbD 0 = true → base.bankLit (p / 11) &&& bit ≠ 0) →
      (8 ≤ popcount set → ∃ (u : State) (y : Flit), exec (.wavelengthRequest p f) s = .next (u.drain p) ∧
        (u.port p).ann = some { mask := set, bound := x.txSeq + 256, sentAt := s.cycle } ∧
        (u.port p).out = y :: x.out ∧ y.kind = 10 ∧ (u.port p).txact = x.txact) ∧
      (popcount set < 8 → ∃ t, exec (.wavelengthRequest p f) s = .next t ∧ (t.port p).up = false))

/-- R366, R374, R375, R378 to R383, R401: what befalls a port of itself: replay after 2 µs, an announcement
repeated after 256 ns, an error window that removes or restores a wavelength, a laser source that fails or
returns, a silent port that goes down, whose unacknowledged requests are sent again over another port in the order of
their first SEQ (R383), a discarded flit, training, a MODE write held until its bank is ready, and a reservation's
window, in which the packet goes whole with DRP 0; one that no longer fits asks anew (log 38). (The payload bits of KIND
10 are the model's: log 112.) -/
def Obligations.PortEvents : Prop :=
  (∀ (s : State) (p : Nat), let x := s.port p
    (x.up = true → x.replay ≠ [] → x.lossHold = false → x.mute = false → x.ackAt + 1600 ≤ s.cycle →
      exec (.replayTimeout p) s = .next
        (s.setPort p { x with out := x.replay.reverse ++ x.out, ackAt := s.cycle, again := false })) ∧
    (∀ a, x.up = true → x.ann = some a → a.echoed = false → a.sentAt + 205 ≤ s.cycle →
      ∃ t y, exec (.announcementRepeat p) s = .next t ∧ (t.port p).out = y :: x.out ∧ y.kind = 10 ∧
        y.payload.toNat = a.mask.toNat + a.bound.toNat * 2 ^ 16 ∧ (t.port p).ann = some { a with sentAt := s.cycle }) ∧
    (x.up = true → x.lastRx + 8000 ≤ s.cycle → ∃ t, exec (.portDown p) s = .next t ∧ (t.port p).up = false ∧
      ∃ l r, t.evQueue = s.evQueue ++ l ++ [r] ∧ r.typ = 5 ∧ r.unit = 0 ∧ r.index = p) ∧
    (x.up = true → s.cycle < x.lastRx + 8000 → exec (.portDown p) s = .next s) ∧
    (p < 44 → x.up = true → x.authf ≠ 0xFFFF → ∃ t, exec (.flitCrcFailure p true) s = .next t ∧
      (t.port p).authf = x.authf + 1 ∧ (t.port p).rxNext = x.rxNext ∧ t.mem = s.mem) ∧
    (p < 44 → x.up = true → exec (.flitCrcFailure p false) s = .next ((s.heard p).askReplay p)) ∧
    (∀ c, x.training = true → x.up = false → s.reqQueue = [] → ∃ t, exec (.portTrained p c) s = .next t ∧ (t.port p).up = true ∧
      (t.port p).txSeq = 0 ∧ (t.port p).rxNext = 0 ∧ (t.port p).txact = s.bankLit (p / 11) ∧ (t.port p).mode = x.mode ∧
      (t.port p).node = x.node ∧ ∀ i, i < 8 → tget 0 (t.port p).credits i = c.getD i 0 ∧
        16 ≤ tget 0 (t.port p).slots i ∧ tget 0 (t.port p).slots i ≤ 1023) ∧
    (∀ v : Word64, p < 44 →
      (s.ready.getLsbD (10 + p / 11) = true → ∃ t, exec (.portModeWrite p v) s = .next t ∧
        (t.port p).mode = v.extractLsb' 62 2 ∧ (t.port p).node = v.toNat / 2 ^ 48 % 64) ∧
      (s.ready.getLsbD (10 + p / 11) = false →
        exec (.portModeWrite p v) s = .next (s.setPort p { x with waits := some v }))) ∧
    (∀ (lam rate : Nat), x.up = true → x.mute = false → lam < 16 →
      let bit := 1#16 <<< lam
      (x.rxact &&& bit ≠ 0 → s.rethr * 100 < rate → 8 ≤ popcount (x.rxact &&& ~~~bit) →
        ∃ t y, exec (.berWindow p lam rate) s = .next t ∧ (t.port p).out = y :: x.out ∧ y.kind = 12 ∧
          y.payload.toNat = 2 * lam) ∧
      (x.rxact &&& bit ≠ 0 → s.rethr * 100 < rate → popcount (x.rxact &&& ~~~bit) < 8 →
        ∃ t, exec (.berWindow p lam rate) s = .next t ∧ (t.port p).up = false) ∧
      (x.rxact &&& bit = 0 → x.retrain &&& bit ≠ 0 → rate < s.rethr * 25 →
        ∃ t y, exec (.berWindow p lam rate) s = .next t ∧ (t.port p).out = y :: x.out ∧ y.kind = 12 ∧
          y.payload.toNat = 1 + 2 * lam) ∧
      (rate ≤ s.rethr * 100 → s.rethr * 25 ≤ rate → exec (.berWindow p lam rate) s = .next s)) ∧
    -- a granted packet goes whole in its window, without DRP; one that no longer fits asks anew (log 38)
    (∀ tag b t0 d, x.bulks.find? (fun b => b.tag == tag) = some b → b.grant = some (t0, d) → (t0 * 4 + 4) / 5 ≤ s.cycle →
      x.up = true → let l := b.flits.map (fun f => { f with drp := false })
      (s.cycle * 1250 + l.length * 661 ≤ (t0 + d) * 1000 → x.open_ = true → x.ann = none → x.mid = [] → x.affords l = true →
        ∃ (t : State) (out : List Flit), exec (.reservationWindowStart p tag) s = .next t ∧
          (∀ b' ∈ (t.port p).bulks, b'.tag = tag → b'.dropped = false ∧ b'.grant = none) ∧
          (t.port p).out = out.reverse ++ x.out ∧ out.length = b.flits.length ∧
          ∀ i (y z : Flit), out[i]? = some y → b.flits[i]? = some z →
            y.kind = z.kind ∧ y.tag = z.tag ∧ y.ch = z.ch ∧ y.drp = false ∧ y.seq = x.txSeq + BitVec.ofNat 12 i) ∧
      ((t0 + d) * 1000 < s.cycle * 1250 + l.length * 661 → ∃ t g, exec (.reservationWindowStart p tag) s = .next t ∧
        (g ∈ (t.port p).out ∨ [g] ∈ (t.port p).pend) ∧ g.kind = 8 ∧ g.tag = BitVec.ofNat 10 tag ∧
        ∀ b' ∈ (t.port p).bulks, b'.tag = tag → b'.grant = none))) ∧
  -- what a port that goes down had not had acknowledged is sent again, in the order of first SEQ, before what waits (R383)
  (∀ (s : State) (p q : Nat), let x := s.port p
    let down := s.setPort p { x with up := false }
    let again := x.unacked
    x.up = true → x.lastRx + 8000 ≤ s.cycle → q ≠ p → q < 44 → s.reqQueue = [] →
    (∀ r ∈ again, down.portFor r.frame = some q) → (s.port q).open_ = false →
    (s.port q).reqs.length + again.length ≤ 1024 →
    ∃ t, ∃ l : List PortReq, exec (.portDown p) s = .next t ∧
      (t.port q).pend = l.map (fun r => r.flits ((s.port q).mode == 2 && r.bulk)) ++ (s.port q).pend ∧
      (∀ r ∈ l, r ∈ (t.port q).reqs) ∧ l.length = again.length ∧
      ∀ (i : Nat) (r r' : PortReq), again[i]? = some r → l[i]? = some r' →
        r' = { r with orig := some (p, r.tag), tag := r'.tag } ∧ ∀ y ∈ (s.port q).reqs, y.tag ≠ r'.tag) ∧
  (∀ (s : State) (n : Nat), n < 16 →
    (s.lit.getLsbD n = true → ∃ t r l, exec (.lossOfLight n) s = .next t ∧ t.lit = s.lit &&& ~~~(1#16 <<< n) ∧
      t.evQueue = s.evQueue ++ [r] ++ l ∧ r.typ = 3 ∧ r.unit = 2 ∧ r.index = n ∧ r.old = s.bankLit (n / 4) ∧
      r.new = s.bankLit (n / 4) &&& ~~~(0xF#16 <<< (4 * (n % 4))) ∧
      ∀ p, p < 44 → p / 11 = n / 4 → (s.port p).up = true →
        let x := s.port p
        let set := x.txact &&& ~~~(0xF#16 <<< (4 * (n % 4)))
        set ≠ x.txact → 8 ≤ popcount set →
          (∀ y, y < 44 → y / 11 = n / 4 → (s.port y).up = true →
            8 ≤ popcount ((s.port y).txact &&& ~~~(0xF#16 <<< (4 * (n % 4))))) →
          (t.port p).up = true ∧ (t.port p).txact = set ∧ (t.port p).lossHold = true ∧
            (t.port p).ann = some { mask := set, bound := x.ackIn + 1, sentAt := s.cycle }) ∧
    (s.lit.getLsbD n = false → s.ready.getLsbD (10 + n / 4) = true → ∃ t r, exec (.lightRestored n) s = .next t ∧
      t.lit = s.lit ||| (1#16 <<< n) ∧ t.evQueue = s.evQueue ++ [r] ∧ r.typ = 4 ∧ r.unit = 2 ∧ r.index = n))

/-- R400 to R404, R407 to R409: bring-up, power and errors. A reset starts over with the firmware's check; the
units start in their order, each READY bit after the one before, and a failure leads to the safe state with its
record; the shares of holds follow the measured power; UNREACH is raised after 100 measurements; a corrected
error is counted; an uncorrectable one ends its context with REASON 4 or leads to the safe state, and the data that
carry it are discarded; an attestation answer carries the measurements and their signature where they are asked for. -/
def Obligations.ManagementSteps : Prop :=
  (∀ (s : State) (fw : Firmware), ∃ t, exec (.reset fw) s = .next t ∧
    t.groups = [] ∧ t.teams = [] ∧ t.grids = [] ∧ t.queues = [] ∧ t.ctxs = [] ∧ t.ports = [] ∧ t.cycle = 0 ∧ t.mer.en = false ∧
    (s.hostPosted = [] → ∀ pa, isDevice pa = false → t.rd pa = s.rd pa) ∧ (∀ pa, isDevice pa = true → t.rd pa = 0) ∧
    (firmwareGood fw.image fw.signature = true → t.ready = 0 ∧ t.firmware = shake256 fw.image) ∧
    (firmwareGood fw.image fw.signature = false → t.ready = 1#64 <<< 56 ∧ t.selfTest.take 2 = [1, 4])) ∧
  (∀ (s : State) (n : Nat), n < 54 → s.nextUnit = n → s.ready.getLsbD 56 = false → s.readyAt ≤ s.cycle →
    let b := if n < 6 then n else if n < 46 then n + 10 else n - 40
    ((b = 1 → s.syscap.toNat / 2 ^ 12 % 16 ≠ 0) → ∃ t, exec (.unitStart none) s = .next t ∧
      t.ready = s.ready ||| (1#64 <<< b) ∧ t.nextUnit = n + 1 ∧ t.readyAt = s.cycle + 1 ∧ t.mem = s.mem ∧
      t.usable b = false ∧ (10 ≤ b → b < 14 → t.lit = s.lit ||| (0xF#16 <<< (4 * (b - 10))))) ∧
    (∀ f : TestFailure, ∃ t, exec (.unitStart (some f)) s = .next t ∧ t.ready = (s.ready &&& 3) ||| (1#64 <<< 56) ∧
      t.nextUnit = n ∧ t.mer.en = false ∧ (∀ p, p < 44 → (t.port p).up = false) ∧
      t.selfTest = [BitVec.ofNat 8 (if n = 0 then 1 else if n = 1 then 2 else if n < 6 then 3 else if n < 46 then 4
        else if n < 50 then 5 else 6), f.test] ++ toBytes 2 f.index.toNat ++ toBytes 4 0 ++ toBytes 8 f.detail.toNat ++
        toBytes 8 s.cycle ++ toBytes 8 0)) ∧
  (∀ (s : State) (w : Nat), s.ready.getLsbD 0 = true → s.power.at_ + 800000 ≤ s.cycle → ∃ x : Power,
    exec (.powerMeasurement w) s = .next { s with power := x } ∧ x.measured = w ∧ x.limit = s.power.limit ∧
    (s.power.limit < w → s.power.matrix ≤ 15 → s.power.issue ≤ 15 →
      x.unreach = s.power.unreach ∧ x.matrix = min 15 (s.power.matrix + 1) ∧
      x.issue = (if s.power.matrix = 15 then min 15 (s.power.issue + 1) else s.power.issue) ∧
      x.overRun = (if s.power.matrix = 15 ∧ s.power.issue = 15 then s.power.overRun + 1 else 0)) ∧
    (w ≤ s.power.limit → x.unreach = false ∧ x.overRun = 0 ∧ x.issue = s.power.issue - 1 ∧
      x.matrix = (if s.power.issue = 0 then s.power.matrix - 1 else s.power.matrix))) ∧
  (∀ (s : State), 100 ≤ s.power.overRun → s.power.unreach = false → exec .unreach s = .next
    (State.signal { s with power := { s.power with unreach := true } } s.mbox.vec)) ∧
  (∀ (s : State), exec .softErrorCorrected s = .next { s with corrected := s.corrected + 1 }) ∧
  (∀ (s : State) (c : Nat), c < 64 → (s.ctx c).terminate = none → ∃ t, exec (.machineCheck (.context c)) s = .next t ∧
    t.uncorrected = s.uncorrected + 1 ∧ (t.ctx c).terminate = some (4, 0, 0, 0) ∧ t.mem = s.mem ∧
    (∀ e ∈ t.groups, e.2.ctx = c → e.2.trapReq = none) ∧
    (∀ e ∈ t.teams, e.2.ctx = c → e.2.saved = false → e.2.preempt = none)) ∧
  (∀ (s : State) (d : Word64), s.ready.getLsbD 56 = false → ∃ t, exec (.machineCheck (.noContext d)) s = .next t ∧
    t.uncorrected = s.uncorrected + 1 ∧ t.ready = (s.ready &&& 3) ||| (1#64 <<< 56) ∧ t.selfTest.take 2 = [0, 1] ∧
    (t.selfTest.drop 8).take 8 = toBytes 8 d.toNat) ∧
  -- data that carry the error are discarded: an access not yet performed, and a line of a cache
  (∀ (s : State) (gid n : Nat) (g : Group) (o : Op), s.group? gid = some g → dget g.ops n = some o → g.ctx < 64 →
    (s.ctx g.ctx).terminate = none → o.mer = 0 → (o.kind.bytes.any (fun b => b.2.2)) = true →
    ∃ t h, exec (.machineCheck (.access gid n)) s = .next t ∧ t.group? gid = some h ∧ dget h.ops n = none ∧ t.mem = s.mem ∧
      (t.ctx g.ctx).terminate = some (4, 0, 0, 0)) ∧
  (∀ (s : State) (c site pa : Nat), c < 64 → (s.ctx c).terminate = none →
    ∃ t, exec (.machineCheck (.line c site pa)) s = .next t ∧ t.mem = s.mem ∧ (t.ctx c).terminate = some (4, 0, 0, 0) ∧
      t.cached site pa = none) ∧
  -- what attestation answers ends with the measurements and their signature where they are asked for (R404)
  (∀ (s : State) (r : List Byte), s.ready.getLsbD 0 = true → ∃ a, exec (.spdmMessage r) s = .next
    { s with spdmOut := a :: s.spdmOut, fresh := s.fresh + 1 } ∧
    (Config.spdmMeasures r = true → ∃ b, a = b ++ s.measurements ++ signBytes s.measurements))

/-! ### Encodings, invariants, whole-machine rules -/

/-- R60 to R67, R77 to R83: the table of its class reads an instruction back from its word, with every field at
every value. R59, R73: a word that a table reads is the word of the instruction it reads, so that two words
never stand for one instruction and no bit of a word is dropped. -/
def Obligations.EncodeAndDecodeAgree : Prop :=
  (
  ∀ (i : Instr) (c : Sys2Proof.Class), i.formOk = true → i.cls = some c →
    ∃ w, encode i = some w ∧ decode c w = some i ∧ (c = .alu → 0x77 ≤ (opOf w).toNat → decode .sys w = some i)
  ) ∧
  (
  ∀ (w : Word64) (c : Sys2Proof.Class) (i : Instr), decode c w = some i →
    encode i = some w ∧ i.formOk = true ∧ (i.cls = some c ∨ (c = .sys ∧ i.cls = some .alu))
  )

/-- Words written out in the spec's listings and the instructions they stand for: the fields of R62 to R67 at
the places of the tables, one word or more for each class. -/
def Obligations.SpecWordsDecode : Prop :=
  decode .alu 0x0A0100A00C020000 = some (.iadds (.reg ⟨.f00, false, 0, 1, 5, 3, 4, 0, 0⟩)) ∧
  decode .alu 0x9A04002008000320 = some (.icmp (.imm ⟨.f00, false, 0, 4, 1, 2, 50, 0⟩)) ∧
  decode .alu 0x1C00012004010030 = some (.isel ⟨.f00, false, 0, 0, 9, 1, 2, 3, 0⟩) ∧
  decode .alu 0x2180008000000253 = some (.movi ⟨.f11, false, 0, 4, 18, true, 3⟩) ∧
  decode .alu 0x46010180280580D4 = some (.ffma ⟨.f00, false, 0, 1, 12, 10, 11, 13, 4⟩) ∧
  decode .alu 0x7102006008038000 = some (.shfl ⟨.f10, false, 0, 2, 3, 2, 7, 0, 0⟩) ∧
  decode .alu 0xF04800000B00000D = some (.bra ⟨.f00, true, 1, 0, 11, 13⟩) ∧
  decode .alu 0xFC00000000000000 = some (.exit ⟨.f00, false, 0, 0, 0, 0⟩) ∧
  decode .mem 0x098302000420001D = some (.cas ⟨.f11, false, 0, 3, 16, 1, 8, false, 0, 3, 5⟩) ∧
  decode .mem 0x0380028004140068 = some (.st ⟨.f11, false, 0, 0, 20, 1, 5, false, 1, 5, 0⟩) ∧
  decode .field 0x000800400C03050A = some (.txf ⟨.f00, false, 1, 0, 2, 3, 6, 10, 10⟩) ∧
  decode .async 0x11800A0000000200 = some (.kick ⟨.f11, false, 0, 10, 0, 0, 1, false⟩) ∧
  decode .async 0x0780000000400000 = some (.tbar ⟨.f11, false, 0, 0, 0, 2, 0, false⟩) ∧
  decode .sys 0x1180FA0000200000 = some (.csrr ⟨.f11, false, 0, 250, 0, 1, 0, false⟩) ∧
  decode .sys 0x1781000000000000 = some (.rteSkip ⟨.f11, false, 0, 0, 0, 0, 0, false⟩) ∧
  decode .matrix 0x00003B8100004000 = some (.mma ⟨0, false, 7, 7, 16, 0x40⟩) ∧
  decode .matrix 0x0200800000000000 = some (.mzero ⟨0, true, 0, 0, 0, 0⟩) ∧
  decode .matrix 0x0C0000000FFFFC00 = some (.mbr ⟨0, false, 0, 0, 0, 0xFFFFC⟩)

/-- Log 1: memory keeps its canonical form: whatever a step of the machine does, its memory stays a list of
bytes with addresses strictly rising and no byte listed that an unlisted address reads as. -/
def Obligations.MemoryStaysCanonical : Prop :=
  ∀ (s t : State), Memory.wf s.mem = true → step s = .next t → Memory.wf t.mem = true

/-- R400, R402: READY has no other bits than those of its table, and in the safe state only the controller's and
the host link's; every step keeps it so, and only a reset leaves the safe state. -/
def Obligations.ReadyKeepsItsForm : Prop :=
  let form (s : State) : Prop := s.ready &&& ~~~0x01FFFFFFFFFF3FFF#64 = 0 ∧
    (s.ready.getLsbD 56 = true → s.ready &&& ~~~0x0100000000000003#64 = 0)
  (∀ (s t : State), form s → step s = .next t → form t) ∧
  (∀ (s t : State), s.ready.getLsbD 56 = true → step s = .next t → t.ready = s.ready ∨
    ∃ fw, s.nextMove.2 = .event (.reset fw) ∧ exec (.reset fw) s.nextMove.1 = .next t) ∧
  (∀ (i : Instr) (s t : State), s.ready.getLsbD 56 = true → (∀ fw, i ≠ .reset fw) → exec i s = .next t →
    t.ready = s.ready)

/-- R19, R27, R400 and the reset columns of the register tables: the machine after reset. -/
def Obligations.ResetState : Prop :=
  let s := State.reset
  Memory.wf s.mem = true ∧ (∀ pa, s.rd pa = 0) ∧ s.ready = 0 ∧ s.syscap = 0 ∧ s.cycle = 0 ∧ s.groups = [] ∧ s.teams = [] ∧
  s.grids = [] ∧ s.fabidReg = 0 ∧ s.membersReg = 0 ∧ s.mer.en = false ∧ s.mer.halt = false ∧ s.mer.frame = 0 ∧ s.evring = 0 ∧
  s.evpos = 0 ∧ s.rethr = 200 ∧ s.inva = 0 ∧ s.busy = false ∧ s.pbusy = false ∧ s.tring = 0 ∧ s.trpos = 0 ∧ s.trvec = 0 ∧
  (∀ p, (s.port p).mode = 0 ∧ (s.port p).up = false ∧ (s.port p).node = 0 ∧ (s.port p).authf = 0) ∧
  (∀ q, (s.queue q).en = false ∧ (s.queue q).head = 0 ∧ (s.queue q).tail = 0 ∧ (s.queue q).drop = 0) ∧
  (∀ c, (s.ctx c).valid = false)

/-- The machine stops only where R211 says that an address does not exist: no instruction and no step is
refused. -/
def Obligations.NothingIsRefused : Prop :=
  (∀ (i : Instr) (s : State) (r : Refusal), exec i s ≠ .refused r) ∧
  (∀ (s : State) (r : Refusal), step s ≠ .refused r) ∧
  (∀ (s : State) (f : Fault), step s = .fault f → ∃ pa, f = .absentAddress pa)
end

