-- ==== Sys2Proof/Laws/State.lean ====
section
/-!
SUPPORT. What each field of State and of a group reads as after each of the plain updates.
-/
set_option Elab.async false
namespace Sys2Proof.Machine

/-! ### State.setGroup -/
@[simp] theorem State.setGroup_absent (s : State) (gid : Nat) (g : Group) : (s.setGroup gid g).absent = s.absent := rfl
@[simp] theorem State.setGroup_conflict (s : State) (gid : Nat) (g : Group) : (s.setGroup gid g).conflict = s.conflict := rfl
@[simp] theorem State.setGroup_unready (s : State) (gid : Nat) (g : Group) : (s.setGroup gid g).unready = s.unready := rfl
@[simp] theorem State.setGroup_askOwn (s : State) (gid : Nat) (g : Group) : (s.setGroup gid g).askOwn = s.askOwn := rfl
@[simp] theorem State.setGroup_askRead (s : State) (gid : Nat) (g : Group) : (s.setGroup gid g).askRead = s.askRead := rfl
@[simp] theorem State.setGroup_gotRead (s : State) (gid : Nat) (g : Group) : (s.setGroup gid g).gotRead = s.gotRead := rfl
@[simp] theorem State.setGroup_wrote (s : State) (gid : Nat) (g : Group) : (s.setGroup gid g).wrote = s.wrote := rfl
@[simp] theorem State.setGroup_writer (s : State) (gid : Nat) (g : Group) : (s.setGroup gid g).writer = s.writer := rfl
@[simp] theorem State.setGroup_nodeData (s : State) (gid : Nat) (g : Group) : (s.setGroup gid g).nodeData = s.nodeData := rfl
@[simp] theorem State.setGroup_agenda (s : State) (gid : Nat) (g : Group) : (s.setGroup gid g).agenda = s.agenda := rfl
@[simp] theorem State.setGroup_tick (s : State) (gid : Nat) (g : Group) : (s.setGroup gid g).tick = s.tick := rfl
@[simp] theorem State.setGroup_fresh (s : State) (gid : Nat) (g : Group) : (s.setGroup gid g).fresh = s.fresh := rfl
@[simp] theorem State.setGroup_nextId (s : State) (gid : Nat) (g : Group) : (s.setGroup gid g).nextId = s.nextId := rfl
@[simp] theorem State.setGroup_cur (s : State) (gid : Nat) (g : Group) : (s.setGroup gid g).cur = s.cur := rfl
@[simp] theorem State.setGroup_cycle (s : State) (gid : Nat) (g : Group) : (s.setGroup gid g).cycle = s.cycle := rfl
@[simp] theorem State.setGroup_ready (s : State) (gid : Nat) (g : Group) : (s.setGroup gid g).ready = s.ready := rfl
@[simp] theorem State.setGroup_readyAt (s : State) (gid : Nat) (g : Group) : (s.setGroup gid g).readyAt = s.readyAt := rfl
@[simp] theorem State.setGroup_lastBit (s : State) (gid : Nat) (g : Group) : (s.setGroup gid g).lastBit = s.lastBit := rfl
@[simp] theorem State.setGroup_nextUnit (s : State) (gid : Nat) (g : Group) : (s.setGroup gid g).nextUnit = s.nextUnit := rfl
@[simp] theorem State.setGroup_selfTest (s : State) (gid : Nat) (g : Group) : (s.setGroup gid g).selfTest = s.selfTest := rfl
@[simp] theorem State.setGroup_syscap (s : State) (gid : Nat) (g : Group) : (s.setGroup gid g).syscap = s.syscap := rfl
@[simp] theorem State.setGroup_mem (s : State) (gid : Nat) (g : Group) : (s.setGroup gid g).mem = s.mem := rfl
@[simp] theorem State.setGroup_cache (s : State) (gid : Nat) (g : Group) : (s.setGroup gid g).cache = s.cache := rfl
@[simp] theorem State.setGroup_marks (s : State) (gid : Nat) (g : Group) : (s.setGroup gid g).marks = s.marks := rfl
@[simp] theorem State.setGroup_tlb (s : State) (gid : Nat) (g : Group) : (s.setGroup gid g).tlb = s.tlb := rfl
@[simp] theorem State.setGroup_groups (s : State) (gid : Nat) (g : Group) : (s.setGroup gid g).groups = dput s.groups gid g := rfl
@[simp] theorem State.setGroup_teams (s : State) (gid : Nat) (g : Group) : (s.setGroup gid g).teams = s.teams := rfl
@[simp] theorem State.setGroup_grids (s : State) (gid : Nat) (g : Group) : (s.setGroup gid g).grids = s.grids := rfl
@[simp] theorem State.setGroup_bars (s : State) (gid : Nat) (g : Group) : (s.setGroup gid g).bars = s.bars := rfl
@[simp] theorem State.setGroup_startedAt (s : State) (gid : Nat) (g : Group) : (s.setGroup gid g).startedAt = s.startedAt := rfl
@[simp] theorem State.setGroup_portAt (s : State) (gid : Nat) (g : Group) : (s.setGroup gid g).portAt = s.portAt := rfl
@[simp] theorem State.setGroup_slotFree (s : State) (gid : Nat) (g : Group) : (s.setGroup gid g).slotFree = s.slotFree := rfl
@[simp] theorem State.setGroup_pred (s : State) (gid : Nat) (g : Group) : (s.setGroup gid g).pred = s.pred := rfl
@[simp] theorem State.setGroup_rcache (s : State) (gid : Nat) (g : Group) : (s.setGroup gid g).rcache = s.rcache := rfl
@[simp] theorem State.setGroup_locks (s : State) (gid : Nat) (g : Group) : (s.setGroup gid g).locks = s.locks := rfl
@[simp] theorem State.setGroup_jobs (s : State) (gid : Nat) (g : Group) : (s.setGroup gid g).jobs = s.jobs := rfl
@[simp] theorem State.setGroup_pfbs (s : State) (gid : Nat) (g : Group) : (s.setGroup gid g).pfbs = s.pfbs := rfl
@[simp] theorem State.setGroup_objs (s : State) (gid : Nat) (g : Group) : (s.setGroup gid g).objs = s.objs := rfl
@[simp] theorem State.setGroup_fields (s : State) (gid : Nat) (g : Group) : (s.setGroup gid g).fields = s.fields := rfl
@[simp] theorem State.setGroup_domains (s : State) (gid : Nat) (g : Group) : (s.setGroup gid g).domains = s.domains := rfl
@[simp] theorem State.setGroup_pairs (s : State) (gid : Nat) (g : Group) : (s.setGroup gid g).pairs = s.pairs := rfl
@[simp] theorem State.setGroup_returns (s : State) (gid : Nat) (g : Group) : (s.setGroup gid g).returns = s.returns := rfl
@[simp] theorem State.setGroup_claims (s : State) (gid : Nat) (g : Group) : (s.setGroup gid g).claims = s.claims := rfl
@[simp] theorem State.setGroup_queues (s : State) (gid : Nat) (g : Group) : (s.setGroup gid g).queues = s.queues := rfl
@[simp] theorem State.setGroup_served (s : State) (gid : Nat) (g : Group) : (s.setGroup gid g).served = s.served := rfl
@[simp] theorem State.setGroup_headAt (s : State) (gid : Nat) (g : Group) : (s.setGroup gid g).headAt = s.headAt := rfl
@[simp] theorem State.setGroup_victims (s : State) (gid : Nat) (g : Group) : (s.setGroup gid g).victims = s.victims := rfl
@[simp] theorem State.setGroup_bitAt (s : State) (gid : Nat) (g : Group) : (s.setGroup gid g).bitAt = s.bitAt := rfl
@[simp] theorem State.setGroup_resumedAt (s : State) (gid : Nat) (g : Group) : (s.setGroup gid g).resumedAt = s.resumedAt := rfl
@[simp] theorem State.setGroup_ctxs (s : State) (gid : Nat) (g : Group) : (s.setGroup gid g).ctxs = s.ctxs := rfl
@[simp] theorem State.setGroup_inva (s : State) (gid : Nat) (g : Group) : (s.setGroup gid g).inva = s.inva := rfl
@[simp] theorem State.setGroup_busy (s : State) (gid : Nat) (g : Group) : (s.setGroup gid g).busy = s.busy := rfl
@[simp] theorem State.setGroup_busyCtx (s : State) (gid : Nat) (g : Group) : (s.setGroup gid g).busyCtx = s.busyCtx := rfl
@[simp] theorem State.setGroup_busyPage (s : State) (gid : Nat) (g : Group) : (s.setGroup gid g).busyPage = s.busyPage := rfl
@[simp] theorem State.setGroup_busyBound (s : State) (gid : Nat) (g : Group) : (s.setGroup gid g).busyBound = s.busyBound := rfl
@[simp] theorem State.setGroup_busyFrom (s : State) (gid : Nat) (g : Group) : (s.setGroup gid g).busyFrom = s.busyFrom := rfl
@[simp] theorem State.setGroup_busyCst (s : State) (gid : Nat) (g : Group) : (s.setGroup gid g).busyCst = s.busyCst := rfl
@[simp] theorem State.setGroup_pctx (s : State) (gid : Nat) (g : Group) : (s.setGroup gid g).pctx = s.pctx := rfl
@[simp] theorem State.setGroup_pbusy (s : State) (gid : Nat) (g : Group) : (s.setGroup gid g).pbusy = s.pbusy := rfl
@[simp] theorem State.setGroup_tring (s : State) (gid : Nat) (g : Group) : (s.setGroup gid g).tring = s.tring := rfl
@[simp] theorem State.setGroup_trpos (s : State) (gid : Nat) (g : Group) : (s.setGroup gid g).trpos = s.trpos := rfl
@[simp] theorem State.setGroup_trvec (s : State) (gid : Nat) (g : Group) : (s.setGroup gid g).trvec = s.trvec := rfl
@[simp] theorem State.setGroup_msix (s : State) (gid : Nat) (g : Group) : (s.setGroup gid g).msix = s.msix := rfl
@[simp] theorem State.setGroup_msixTable (s : State) (gid : Nat) (g : Group) : (s.setGroup gid g).msixTable = s.msixTable := rfl
@[simp] theorem State.setGroup_msixPend (s : State) (gid : Nat) (g : Group) : (s.setGroup gid g).msixPend = s.msixPend := rfl
@[simp] theorem State.setGroup_hostDir (s : State) (gid : Nat) (g : Group) : (s.setGroup gid g).hostDir = s.hostDir := rfl
@[simp] theorem State.setGroup_backInv (s : State) (gid : Nat) (g : Group) : (s.setGroup gid g).backInv = s.backInv := rfl
@[simp] theorem State.setGroup_backFull (s : State) (gid : Nat) (g : Group) : (s.setGroup gid g).backFull = s.backFull := rfl
@[simp] theorem State.setGroup_backDone (s : State) (gid : Nat) (g : Group) : (s.setGroup gid g).backDone = s.backDone := rfl
@[simp] theorem State.setGroup_backTook (s : State) (gid : Nat) (g : Group) : (s.setGroup gid g).backTook = s.backTook := rfl
@[simp] theorem State.setGroup_heldHost (s : State) (gid : Nat) (g : Group) : (s.setGroup gid g).heldHost = s.heldHost := rfl
@[simp] theorem State.setGroup_heldBar (s : State) (gid : Nat) (g : Group) : (s.setGroup gid g).heldBar = s.heldBar := rfl
@[simp] theorem State.setGroup_hostOut (s : State) (gid : Nat) (g : Group) : (s.setGroup gid g).hostOut = s.hostOut := rfl
@[simp] theorem State.setGroup_fabid (s : State) (gid : Nat) (g : Group) : (s.setGroup gid g).fabid = s.fabid := rfl
@[simp] theorem State.setGroup_members (s : State) (gid : Nat) (g : Group) : (s.setGroup gid g).members = s.members := rfl
@[simp] theorem State.setGroup_fabidReg (s : State) (gid : Nat) (g : Group) : (s.setGroup gid g).fabidReg = s.fabidReg := rfl
@[simp] theorem State.setGroup_membersReg (s : State) (gid : Nat) (g : Group) : (s.setGroup gid g).membersReg = s.membersReg := rfl
@[simp] theorem State.setGroup_mer (s : State) (gid : Nat) (g : Group) : (s.setGroup gid g).mer = s.mer := rfl
@[simp] theorem State.setGroup_evring (s : State) (gid : Nat) (g : Group) : (s.setGroup gid g).evring = s.evring := rfl
@[simp] theorem State.setGroup_evpos (s : State) (gid : Nat) (g : Group) : (s.setGroup gid g).evpos = s.evpos := rfl
@[simp] theorem State.setGroup_evvec (s : State) (gid : Nat) (g : Group) : (s.setGroup gid g).evvec = s.evvec := rfl
@[simp] theorem State.setGroup_rethr (s : State) (gid : Nat) (g : Group) : (s.setGroup gid g).rethr = s.rethr := rfl
@[simp] theorem State.setGroup_ports (s : State) (gid : Nat) (g : Group) : (s.setGroup gid g).ports = s.ports := rfl
@[simp] theorem State.setGroup_reqQueue (s : State) (gid : Nat) (g : Group) : (s.setGroup gid g).reqQueue = s.reqQueue := rfl
@[simp] theorem State.setGroup_hostPosted (s : State) (gid : Nat) (g : Group) : (s.setGroup gid g).hostPosted = s.hostPosted := rfl
@[simp] theorem State.setGroup_arrived (s : State) (gid : Nat) (g : Group) : (s.setGroup gid g).arrived = s.arrived := rfl
@[simp] theorem State.setGroup_evQueue (s : State) (gid : Nat) (g : Group) : (s.setGroup gid g).evQueue = s.evQueue := rfl
@[simp] theorem State.setGroup_lit (s : State) (gid : Nat) (g : Group) : (s.setGroup gid g).lit = s.lit := rfl
@[simp] theorem State.setGroup_mbox (s : State) (gid : Nat) (g : Group) : (s.setGroup gid g).mbox = s.mbox := rfl
@[simp] theorem State.setGroup_power (s : State) (gid : Nat) (g : Group) : (s.setGroup gid g).power = s.power := rfl
@[simp] theorem State.setGroup_corrected (s : State) (gid : Nat) (g : Group) : (s.setGroup gid g).corrected = s.corrected := rfl
@[simp] theorem State.setGroup_uncorrected (s : State) (gid : Nat) (g : Group) : (s.setGroup gid g).uncorrected = s.uncorrected := rfl
@[simp] theorem State.setGroup_firmware (s : State) (gid : Nat) (g : Group) : (s.setGroup gid g).firmware = s.firmware := rfl
@[simp] theorem State.setGroup_spdmOut (s : State) (gid : Nat) (g : Group) : (s.setGroup gid g).spdmOut = s.spdmOut := rfl

/-! ### State.setTeam -/
@[simp] theorem State.setTeam_absent (s : State) (n : Nat) (x : Team) : (s.setTeam n x).absent = s.absent := rfl
@[simp] theorem State.setTeam_conflict (s : State) (n : Nat) (x : Team) : (s.setTeam n x).conflict = s.conflict := rfl
@[simp] theorem State.setTeam_unready (s : State) (n : Nat) (x : Team) : (s.setTeam n x).unready = s.unready := rfl
@[simp] theorem State.setTeam_askOwn (s : State) (n : Nat) (x : Team) : (s.setTeam n x).askOwn = s.askOwn := rfl
@[simp] theorem State.setTeam_askRead (s : State) (n : Nat) (x : Team) : (s.setTeam n x).askRead = s.askRead := rfl
@[simp] theorem State.setTeam_gotRead (s : State) (n : Nat) (x : Team) : (s.setTeam n x).gotRead = s.gotRead := rfl
@[simp] theorem State.setTeam_wrote (s : State) (n : Nat) (x : Team) : (s.setTeam n x).wrote = s.wrote := rfl
@[simp] theorem State.setTeam_writer (s : State) (n : Nat) (x : Team) : (s.setTeam n x).writer = s.writer := rfl
@[simp] theorem State.setTeam_nodeData (s : State) (n : Nat) (x : Team) : (s.setTeam n x).nodeData = s.nodeData := rfl
@[simp] theorem State.setTeam_agenda (s : State) (n : Nat) (x : Team) : (s.setTeam n x).agenda = s.agenda := rfl
@[simp] theorem State.setTeam_tick (s : State) (n : Nat) (x : Team) : (s.setTeam n x).tick = s.tick := rfl
@[simp] theorem State.setTeam_fresh (s : State) (n : Nat) (x : Team) : (s.setTeam n x).fresh = s.fresh := rfl
@[simp] theorem State.setTeam_nextId (s : State) (n : Nat) (x : Team) : (s.setTeam n x).nextId = s.nextId := rfl
@[simp] theorem State.setTeam_cur (s : State) (n : Nat) (x : Team) : (s.setTeam n x).cur = s.cur := rfl
@[simp] theorem State.setTeam_cycle (s : State) (n : Nat) (x : Team) : (s.setTeam n x).cycle = s.cycle := rfl
@[simp] theorem State.setTeam_ready (s : State) (n : Nat) (x : Team) : (s.setTeam n x).ready = s.ready := rfl
@[simp] theorem State.setTeam_readyAt (s : State) (n : Nat) (x : Team) : (s.setTeam n x).readyAt = s.readyAt := rfl
@[simp] theorem State.setTeam_lastBit (s : State) (n : Nat) (x : Team) : (s.setTeam n x).lastBit = s.lastBit := rfl
@[simp] theorem State.setTeam_nextUnit (s : State) (n : Nat) (x : Team) : (s.setTeam n x).nextUnit = s.nextUnit := rfl
@[simp] theorem State.setTeam_selfTest (s : State) (n : Nat) (x : Team) : (s.setTeam n x).selfTest = s.selfTest := rfl
@[simp] theorem State.setTeam_syscap (s : State) (n : Nat) (x : Team) : (s.setTeam n x).syscap = s.syscap := rfl
@[simp] theorem State.setTeam_mem (s : State) (n : Nat) (x : Team) : (s.setTeam n x).mem = s.mem := rfl
@[simp] theorem State.setTeam_cache (s : State) (n : Nat) (x : Team) : (s.setTeam n x).cache = s.cache := rfl
@[simp] theorem State.setTeam_marks (s : State) (n : Nat) (x : Team) : (s.setTeam n x).marks = s.marks := rfl
@[simp] theorem State.setTeam_tlb (s : State) (n : Nat) (x : Team) : (s.setTeam n x).tlb = s.tlb := rfl
@[simp] theorem State.setTeam_groups (s : State) (n : Nat) (x : Team) : (s.setTeam n x).groups = s.groups := rfl
@[simp] theorem State.setTeam_teams (s : State) (n : Nat) (x : Team) : (s.setTeam n x).teams = dput s.teams n x := rfl
@[simp] theorem State.setTeam_grids (s : State) (n : Nat) (x : Team) : (s.setTeam n x).grids = s.grids := rfl
@[simp] theorem State.setTeam_bars (s : State) (n : Nat) (x : Team) : (s.setTeam n x).bars = s.bars := rfl
@[simp] theorem State.setTeam_startedAt (s : State) (n : Nat) (x : Team) : (s.setTeam n x).startedAt = s.startedAt := rfl
@[simp] theorem State.setTeam_portAt (s : State) (n : Nat) (x : Team) : (s.setTeam n x).portAt = s.portAt := rfl
@[simp] theorem State.setTeam_slotFree (s : State) (n : Nat) (x : Team) : (s.setTeam n x).slotFree = s.slotFree := rfl
@[simp] theorem State.setTeam_pred (s : State) (n : Nat) (x : Team) : (s.setTeam n x).pred = s.pred := rfl
@[simp] theorem State.setTeam_rcache (s : State) (n : Nat) (x : Team) : (s.setTeam n x).rcache = s.rcache := rfl
@[simp] theorem State.setTeam_locks (s : State) (n : Nat) (x : Team) : (s.setTeam n x).locks = s.locks := rfl
@[simp] theorem State.setTeam_jobs (s : State) (n : Nat) (x : Team) : (s.setTeam n x).jobs = s.jobs := rfl
@[simp] theorem State.setTeam_pfbs (s : State) (n : Nat) (x : Team) : (s.setTeam n x).pfbs = s.pfbs := rfl
@[simp] theorem State.setTeam_objs (s : State) (n : Nat) (x : Team) : (s.setTeam n x).objs = s.objs := rfl
@[simp] theorem State.setTeam_fields (s : State) (n : Nat) (x : Team) : (s.setTeam n x).fields = s.fields := rfl
@[simp] theorem State.setTeam_domains (s : State) (n : Nat) (x : Team) : (s.setTeam n x).domains = s.domains := rfl
@[simp] theorem State.setTeam_pairs (s : State) (n : Nat) (x : Team) : (s.setTeam n x).pairs = s.pairs := rfl
@[simp] theorem State.setTeam_returns (s : State) (n : Nat) (x : Team) : (s.setTeam n x).returns = s.returns := rfl
@[simp] theorem State.setTeam_claims (s : State) (n : Nat) (x : Team) : (s.setTeam n x).claims = s.claims := rfl
@[simp] theorem State.setTeam_queues (s : State) (n : Nat) (x : Team) : (s.setTeam n x).queues = s.queues := rfl
@[simp] theorem State.setTeam_served (s : State) (n : Nat) (x : Team) : (s.setTeam n x).served = s.served := rfl
@[simp] theorem State.setTeam_headAt (s : State) (n : Nat) (x : Team) : (s.setTeam n x).headAt = s.headAt := rfl
@[simp] theorem State.setTeam_victims (s : State) (n : Nat) (x : Team) : (s.setTeam n x).victims = s.victims := rfl
@[simp] theorem State.setTeam_bitAt (s : State) (n : Nat) (x : Team) : (s.setTeam n x).bitAt = s.bitAt := rfl
@[simp] theorem State.setTeam_resumedAt (s : State) (n : Nat) (x : Team) : (s.setTeam n x).resumedAt = s.resumedAt := rfl
@[simp] theorem State.setTeam_ctxs (s : State) (n : Nat) (x : Team) : (s.setTeam n x).ctxs = s.ctxs := rfl
@[simp] theorem State.setTeam_inva (s : State) (n : Nat) (x : Team) : (s.setTeam n x).inva = s.inva := rfl
@[simp] theorem State.setTeam_busy (s : State) (n : Nat) (x : Team) : (s.setTeam n x).busy = s.busy := rfl
@[simp] theorem State.setTeam_busyCtx (s : State) (n : Nat) (x : Team) : (s.setTeam n x).busyCtx = s.busyCtx := rfl
@[simp] theorem State.setTeam_busyPage (s : State) (n : Nat) (x : Team) : (s.setTeam n x).busyPage = s.busyPage := rfl
@[simp] theorem State.setTeam_busyBound (s : State) (n : Nat) (x : Team) : (s.setTeam n x).busyBound = s.busyBound := rfl
@[simp] theorem State.setTeam_busyFrom (s : State) (n : Nat) (x : Team) : (s.setTeam n x).busyFrom = s.busyFrom := rfl
@[simp] theorem State.setTeam_busyCst (s : State) (n : Nat) (x : Team) : (s.setTeam n x).busyCst = s.busyCst := rfl
@[simp] theorem State.setTeam_pctx (s : State) (n : Nat) (x : Team) : (s.setTeam n x).pctx = s.pctx := rfl
@[simp] theorem State.setTeam_pbusy (s : State) (n : Nat) (x : Team) : (s.setTeam n x).pbusy = s.pbusy := rfl
@[simp] theorem State.setTeam_tring (s : State) (n : Nat) (x : Team) : (s.setTeam n x).tring = s.tring := rfl
@[simp] theorem State.setTeam_trpos (s : State) (n : Nat) (x : Team) : (s.setTeam n x).trpos = s.trpos := rfl
@[simp] theorem State.setTeam_trvec (s : State) (n : Nat) (x : Team) : (s.setTeam n x).trvec = s.trvec := rfl
@[simp] theorem State.setTeam_msix (s : State) (n : Nat) (x : Team) : (s.setTeam n x).msix = s.msix := rfl
@[simp] theorem State.setTeam_msixTable (s : State) (n : Nat) (x : Team) : (s.setTeam n x).msixTable = s.msixTable := rfl
@[simp] theorem State.setTeam_msixPend (s : State) (n : Nat) (x : Team) : (s.setTeam n x).msixPend = s.msixPend := rfl
@[simp] theorem State.setTeam_hostDir (s : State) (n : Nat) (x : Team) : (s.setTeam n x).hostDir = s.hostDir := rfl
@[simp] theorem State.setTeam_backInv (s : State) (n : Nat) (x : Team) : (s.setTeam n x).backInv = s.backInv := rfl
@[simp] theorem State.setTeam_backFull (s : State) (n : Nat) (x : Team) : (s.setTeam n x).backFull = s.backFull := rfl
@[simp] theorem State.setTeam_backDone (s : State) (n : Nat) (x : Team) : (s.setTeam n x).backDone = s.backDone := rfl
@[simp] theorem State.setTeam_backTook (s : State) (n : Nat) (x : Team) : (s.setTeam n x).backTook = s.backTook := rfl
@[simp] theorem State.setTeam_heldHost (s : State) (n : Nat) (x : Team) : (s.setTeam n x).heldHost = s.heldHost := rfl
@[simp] theorem State.setTeam_heldBar (s : State) (n : Nat) (x : Team) : (s.setTeam n x).heldBar = s.heldBar := rfl
@[simp] theorem State.setTeam_hostOut (s : State) (n : Nat) (x : Team) : (s.setTeam n x).hostOut = s.hostOut := rfl
@[simp] theorem State.setTeam_fabid (s : State) (n : Nat) (x : Team) : (s.setTeam n x).fabid = s.fabid := rfl
@[simp] theorem State.setTeam_members (s : State) (n : Nat) (x : Team) : (s.setTeam n x).members = s.members := rfl
@[simp] theorem State.setTeam_fabidReg (s : State) (n : Nat) (x : Team) : (s.setTeam n x).fabidReg = s.fabidReg := rfl
@[simp] theorem State.setTeam_membersReg (s : State) (n : Nat) (x : Team) : (s.setTeam n x).membersReg = s.membersReg := rfl
@[simp] theorem State.setTeam_mer (s : State) (n : Nat) (x : Team) : (s.setTeam n x).mer = s.mer := rfl
@[simp] theorem State.setTeam_evring (s : State) (n : Nat) (x : Team) : (s.setTeam n x).evring = s.evring := rfl
@[simp] theorem State.setTeam_evpos (s : State) (n : Nat) (x : Team) : (s.setTeam n x).evpos = s.evpos := rfl
@[simp] theorem State.setTeam_evvec (s : State) (n : Nat) (x : Team) : (s.setTeam n x).evvec = s.evvec := rfl
@[simp] theorem State.setTeam_rethr (s : State) (n : Nat) (x : Team) : (s.setTeam n x).rethr = s.rethr := rfl
@[simp] theorem State.setTeam_ports (s : State) (n : Nat) (x : Team) : (s.setTeam n x).ports = s.ports := rfl
@[simp] theorem State.setTeam_reqQueue (s : State) (n : Nat) (x : Team) : (s.setTeam n x).reqQueue = s.reqQueue := rfl
@[simp] theorem State.setTeam_hostPosted (s : State) (n : Nat) (x : Team) : (s.setTeam n x).hostPosted = s.hostPosted := rfl
@[simp] theorem State.setTeam_arrived (s : State) (n : Nat) (x : Team) : (s.setTeam n x).arrived = s.arrived := rfl
@[simp] theorem State.setTeam_evQueue (s : State) (n : Nat) (x : Team) : (s.setTeam n x).evQueue = s.evQueue := rfl
@[simp] theorem State.setTeam_lit (s : State) (n : Nat) (x : Team) : (s.setTeam n x).lit = s.lit := rfl
@[simp] theorem State.setTeam_mbox (s : State) (n : Nat) (x : Team) : (s.setTeam n x).mbox = s.mbox := rfl
@[simp] theorem State.setTeam_power (s : State) (n : Nat) (x : Team) : (s.setTeam n x).power = s.power := rfl
@[simp] theorem State.setTeam_corrected (s : State) (n : Nat) (x : Team) : (s.setTeam n x).corrected = s.corrected := rfl
@[simp] theorem State.setTeam_uncorrected (s : State) (n : Nat) (x : Team) : (s.setTeam n x).uncorrected = s.uncorrected := rfl
@[simp] theorem State.setTeam_firmware (s : State) (n : Nat) (x : Team) : (s.setTeam n x).firmware = s.firmware := rfl
@[simp] theorem State.setTeam_spdmOut (s : State) (n : Nat) (x : Team) : (s.setTeam n x).spdmOut = s.spdmOut := rfl

/-! ### State.setCtx -/
@[simp] theorem State.setCtx_absent (s : State) (n : Nat) (x : Ctx) : (s.setCtx n x).absent = s.absent := rfl
@[simp] theorem State.setCtx_conflict (s : State) (n : Nat) (x : Ctx) : (s.setCtx n x).conflict = s.conflict := rfl
@[simp] theorem State.setCtx_unready (s : State) (n : Nat) (x : Ctx) : (s.setCtx n x).unready = s.unready := rfl
@[simp] theorem State.setCtx_askOwn (s : State) (n : Nat) (x : Ctx) : (s.setCtx n x).askOwn = s.askOwn := rfl
@[simp] theorem State.setCtx_askRead (s : State) (n : Nat) (x : Ctx) : (s.setCtx n x).askRead = s.askRead := rfl
@[simp] theorem State.setCtx_gotRead (s : State) (n : Nat) (x : Ctx) : (s.setCtx n x).gotRead = s.gotRead := rfl
@[simp] theorem State.setCtx_wrote (s : State) (n : Nat) (x : Ctx) : (s.setCtx n x).wrote = s.wrote := rfl
@[simp] theorem State.setCtx_writer (s : State) (n : Nat) (x : Ctx) : (s.setCtx n x).writer = s.writer := rfl
@[simp] theorem State.setCtx_nodeData (s : State) (n : Nat) (x : Ctx) : (s.setCtx n x).nodeData = s.nodeData := rfl
@[simp] theorem State.setCtx_agenda (s : State) (n : Nat) (x : Ctx) : (s.setCtx n x).agenda = s.agenda := rfl
@[simp] theorem State.setCtx_tick (s : State) (n : Nat) (x : Ctx) : (s.setCtx n x).tick = s.tick := rfl
@[simp] theorem State.setCtx_fresh (s : State) (n : Nat) (x : Ctx) : (s.setCtx n x).fresh = s.fresh := rfl
@[simp] theorem State.setCtx_nextId (s : State) (n : Nat) (x : Ctx) : (s.setCtx n x).nextId = s.nextId := rfl
@[simp] theorem State.setCtx_cur (s : State) (n : Nat) (x : Ctx) : (s.setCtx n x).cur = s.cur := rfl
@[simp] theorem State.setCtx_cycle (s : State) (n : Nat) (x : Ctx) : (s.setCtx n x).cycle = s.cycle := rfl
@[simp] theorem State.setCtx_ready (s : State) (n : Nat) (x : Ctx) : (s.setCtx n x).ready = s.ready := rfl
@[simp] theorem State.setCtx_readyAt (s : State) (n : Nat) (x : Ctx) : (s.setCtx n x).readyAt = s.readyAt := rfl
@[simp] theorem State.setCtx_lastBit (s : State) (n : Nat) (x : Ctx) : (s.setCtx n x).lastBit = s.lastBit := rfl
@[simp] theorem State.setCtx_nextUnit (s : State) (n : Nat) (x : Ctx) : (s.setCtx n x).nextUnit = s.nextUnit := rfl
@[simp] theorem State.setCtx_selfTest (s : State) (n : Nat) (x : Ctx) : (s.setCtx n x).selfTest = s.selfTest := rfl
@[simp] theorem State.setCtx_syscap (s : State) (n : Nat) (x : Ctx) : (s.setCtx n x).syscap = s.syscap := rfl
@[simp] theorem State.setCtx_mem (s : State) (n : Nat) (x : Ctx) : (s.setCtx n x).mem = s.mem := rfl
@[simp] theorem State.setCtx_cache (s : State) (n : Nat) (x : Ctx) : (s.setCtx n x).cache = s.cache := rfl
@[simp] theorem State.setCtx_marks (s : State) (n : Nat) (x : Ctx) : (s.setCtx n x).marks = s.marks := rfl
@[simp] theorem State.setCtx_tlb (s : State) (n : Nat) (x : Ctx) : (s.setCtx n x).tlb = s.tlb := rfl
@[simp] theorem State.setCtx_groups (s : State) (n : Nat) (x : Ctx) : (s.setCtx n x).groups = s.groups := rfl
@[simp] theorem State.setCtx_teams (s : State) (n : Nat) (x : Ctx) : (s.setCtx n x).teams = s.teams := rfl
@[simp] theorem State.setCtx_grids (s : State) (n : Nat) (x : Ctx) : (s.setCtx n x).grids = s.grids := rfl
@[simp] theorem State.setCtx_bars (s : State) (n : Nat) (x : Ctx) : (s.setCtx n x).bars = s.bars := rfl
@[simp] theorem State.setCtx_startedAt (s : State) (n : Nat) (x : Ctx) : (s.setCtx n x).startedAt = s.startedAt := rfl
@[simp] theorem State.setCtx_portAt (s : State) (n : Nat) (x : Ctx) : (s.setCtx n x).portAt = s.portAt := rfl
@[simp] theorem State.setCtx_slotFree (s : State) (n : Nat) (x : Ctx) : (s.setCtx n x).slotFree = s.slotFree := rfl
@[simp] theorem State.setCtx_pred (s : State) (n : Nat) (x : Ctx) : (s.setCtx n x).pred = s.pred := rfl
@[simp] theorem State.setCtx_rcache (s : State) (n : Nat) (x : Ctx) : (s.setCtx n x).rcache = s.rcache := rfl
@[simp] theorem State.setCtx_locks (s : State) (n : Nat) (x : Ctx) : (s.setCtx n x).locks = s.locks := rfl
@[simp] theorem State.setCtx_jobs (s : State) (n : Nat) (x : Ctx) : (s.setCtx n x).jobs = s.jobs := rfl
@[simp] theorem State.setCtx_pfbs (s : State) (n : Nat) (x : Ctx) : (s.setCtx n x).pfbs = s.pfbs := rfl
@[simp] theorem State.setCtx_objs (s : State) (n : Nat) (x : Ctx) : (s.setCtx n x).objs = s.objs := rfl
@[simp] theorem State.setCtx_fields (s : State) (n : Nat) (x : Ctx) : (s.setCtx n x).fields = s.fields := rfl
@[simp] theorem State.setCtx_domains (s : State) (n : Nat) (x : Ctx) : (s.setCtx n x).domains = s.domains := rfl
@[simp] theorem State.setCtx_pairs (s : State) (n : Nat) (x : Ctx) : (s.setCtx n x).pairs = s.pairs := rfl
@[simp] theorem State.setCtx_returns (s : State) (n : Nat) (x : Ctx) : (s.setCtx n x).returns = s.returns := rfl
@[simp] theorem State.setCtx_claims (s : State) (n : Nat) (x : Ctx) : (s.setCtx n x).claims = s.claims := rfl
@[simp] theorem State.setCtx_queues (s : State) (n : Nat) (x : Ctx) : (s.setCtx n x).queues = s.queues := rfl
@[simp] theorem State.setCtx_served (s : State) (n : Nat) (x : Ctx) : (s.setCtx n x).served = s.served := rfl
@[simp] theorem State.setCtx_headAt (s : State) (n : Nat) (x : Ctx) : (s.setCtx n x).headAt = s.headAt := rfl
@[simp] theorem State.setCtx_victims (s : State) (n : Nat) (x : Ctx) : (s.setCtx n x).victims = s.victims := rfl
@[simp] theorem State.setCtx_bitAt (s : State) (n : Nat) (x : Ctx) : (s.setCtx n x).bitAt = s.bitAt := rfl
@[simp] theorem State.setCtx_resumedAt (s : State) (n : Nat) (x : Ctx) : (s.setCtx n x).resumedAt = s.resumedAt := rfl
@[simp] theorem State.setCtx_ctxs (s : State) (n : Nat) (x : Ctx) : (s.setCtx n x).ctxs = tset {} s.ctxs n x := rfl
@[simp] theorem State.setCtx_inva (s : State) (n : Nat) (x : Ctx) : (s.setCtx n x).inva = s.inva := rfl
@[simp] theorem State.setCtx_busy (s : State) (n : Nat) (x : Ctx) : (s.setCtx n x).busy = s.busy := rfl
@[simp] theorem State.setCtx_busyCtx (s : State) (n : Nat) (x : Ctx) : (s.setCtx n x).busyCtx = s.busyCtx := rfl
@[simp] theorem State.setCtx_busyPage (s : State) (n : Nat) (x : Ctx) : (s.setCtx n x).busyPage = s.busyPage := rfl
@[simp] theorem State.setCtx_busyBound (s : State) (n : Nat) (x : Ctx) : (s.setCtx n x).busyBound = s.busyBound := rfl
@[simp] theorem State.setCtx_busyFrom (s : State) (n : Nat) (x : Ctx) : (s.setCtx n x).busyFrom = s.busyFrom := rfl
@[simp] theorem State.setCtx_busyCst (s : State) (n : Nat) (x : Ctx) : (s.setCtx n x).busyCst = s.busyCst := rfl
@[simp] theorem State.setCtx_pctx (s : State) (n : Nat) (x : Ctx) : (s.setCtx n x).pctx = s.pctx := rfl
@[simp] theorem State.setCtx_pbusy (s : State) (n : Nat) (x : Ctx) : (s.setCtx n x).pbusy = s.pbusy := rfl
@[simp] theorem State.setCtx_tring (s : State) (n : Nat) (x : Ctx) : (s.setCtx n x).tring = s.tring := rfl
@[simp] theorem State.setCtx_trpos (s : State) (n : Nat) (x : Ctx) : (s.setCtx n x).trpos = s.trpos := rfl
@[simp] theorem State.setCtx_trvec (s : State) (n : Nat) (x : Ctx) : (s.setCtx n x).trvec = s.trvec := rfl
@[simp] theorem State.setCtx_msix (s : State) (n : Nat) (x : Ctx) : (s.setCtx n x).msix = s.msix := rfl
@[simp] theorem State.setCtx_msixTable (s : State) (n : Nat) (x : Ctx) : (s.setCtx n x).msixTable = s.msixTable := rfl
@[simp] theorem State.setCtx_msixPend (s : State) (n : Nat) (x : Ctx) : (s.setCtx n x).msixPend = s.msixPend := rfl
@[simp] theorem State.setCtx_hostDir (s : State) (n : Nat) (x : Ctx) : (s.setCtx n x).hostDir = s.hostDir := rfl
@[simp] theorem State.setCtx_backInv (s : State) (n : Nat) (x : Ctx) : (s.setCtx n x).backInv = s.backInv := rfl
@[simp] theorem State.setCtx_backFull (s : State) (n : Nat) (x : Ctx) : (s.setCtx n x).backFull = s.backFull := rfl
@[simp] theorem State.setCtx_backDone (s : State) (n : Nat) (x : Ctx) : (s.setCtx n x).backDone = s.backDone := rfl
@[simp] theorem State.setCtx_backTook (s : State) (n : Nat) (x : Ctx) : (s.setCtx n x).backTook = s.backTook := rfl
@[simp] theorem State.setCtx_heldHost (s : State) (n : Nat) (x : Ctx) : (s.setCtx n x).heldHost = s.heldHost := rfl
@[simp] theorem State.setCtx_heldBar (s : State) (n : Nat) (x : Ctx) : (s.setCtx n x).heldBar = s.heldBar := rfl
@[simp] theorem State.setCtx_hostOut (s : State) (n : Nat) (x : Ctx) : (s.setCtx n x).hostOut = s.hostOut := rfl
@[simp] theorem State.setCtx_fabid (s : State) (n : Nat) (x : Ctx) : (s.setCtx n x).fabid = s.fabid := rfl
@[simp] theorem State.setCtx_members (s : State) (n : Nat) (x : Ctx) : (s.setCtx n x).members = s.members := rfl
@[simp] theorem State.setCtx_fabidReg (s : State) (n : Nat) (x : Ctx) : (s.setCtx n x).fabidReg = s.fabidReg := rfl
@[simp] theorem State.setCtx_membersReg (s : State) (n : Nat) (x : Ctx) : (s.setCtx n x).membersReg = s.membersReg := rfl
@[simp] theorem State.setCtx_mer (s : State) (n : Nat) (x : Ctx) : (s.setCtx n x).mer = s.mer := rfl
@[simp] theorem State.setCtx_evring (s : State) (n : Nat) (x : Ctx) : (s.setCtx n x).evring = s.evring := rfl
@[simp] theorem State.setCtx_evpos (s : State) (n : Nat) (x : Ctx) : (s.setCtx n x).evpos = s.evpos := rfl
@[simp] theorem State.setCtx_evvec (s : State) (n : Nat) (x : Ctx) : (s.setCtx n x).evvec = s.evvec := rfl
@[simp] theorem State.setCtx_rethr (s : State) (n : Nat) (x : Ctx) : (s.setCtx n x).rethr = s.rethr := rfl
@[simp] theorem State.setCtx_ports (s : State) (n : Nat) (x : Ctx) : (s.setCtx n x).ports = s.ports := rfl
@[simp] theorem State.setCtx_reqQueue (s : State) (n : Nat) (x : Ctx) : (s.setCtx n x).reqQueue = s.reqQueue := rfl
@[simp] theorem State.setCtx_hostPosted (s : State) (n : Nat) (x : Ctx) : (s.setCtx n x).hostPosted = s.hostPosted := rfl
@[simp] theorem State.setCtx_arrived (s : State) (n : Nat) (x : Ctx) : (s.setCtx n x).arrived = s.arrived := rfl
@[simp] theorem State.setCtx_evQueue (s : State) (n : Nat) (x : Ctx) : (s.setCtx n x).evQueue = s.evQueue := rfl
@[simp] theorem State.setCtx_lit (s : State) (n : Nat) (x : Ctx) : (s.setCtx n x).lit = s.lit := rfl
@[simp] theorem State.setCtx_mbox (s : State) (n : Nat) (x : Ctx) : (s.setCtx n x).mbox = s.mbox := rfl
@[simp] theorem State.setCtx_power (s : State) (n : Nat) (x : Ctx) : (s.setCtx n x).power = s.power := rfl
@[simp] theorem State.setCtx_corrected (s : State) (n : Nat) (x : Ctx) : (s.setCtx n x).corrected = s.corrected := rfl
@[simp] theorem State.setCtx_uncorrected (s : State) (n : Nat) (x : Ctx) : (s.setCtx n x).uncorrected = s.uncorrected := rfl
@[simp] theorem State.setCtx_firmware (s : State) (n : Nat) (x : Ctx) : (s.setCtx n x).firmware = s.firmware := rfl
@[simp] theorem State.setCtx_spdmOut (s : State) (n : Nat) (x : Ctx) : (s.setCtx n x).spdmOut = s.spdmOut := rfl

/-! ### State.setQueue -/
@[simp] theorem State.setQueue_absent (s : State) (n : Nat) (x : Queue) : (s.setQueue n x).absent = s.absent := rfl
@[simp] theorem State.setQueue_conflict (s : State) (n : Nat) (x : Queue) : (s.setQueue n x).conflict = s.conflict := rfl
@[simp] theorem State.setQueue_unready (s : State) (n : Nat) (x : Queue) : (s.setQueue n x).unready = s.unready := rfl
@[simp] theorem State.setQueue_askOwn (s : State) (n : Nat) (x : Queue) : (s.setQueue n x).askOwn = s.askOwn := rfl
@[simp] theorem State.setQueue_askRead (s : State) (n : Nat) (x : Queue) : (s.setQueue n x).askRead = s.askRead := rfl
@[simp] theorem State.setQueue_gotRead (s : State) (n : Nat) (x : Queue) : (s.setQueue n x).gotRead = s.gotRead := rfl
@[simp] theorem State.setQueue_wrote (s : State) (n : Nat) (x : Queue) : (s.setQueue n x).wrote = s.wrote := rfl
@[simp] theorem State.setQueue_writer (s : State) (n : Nat) (x : Queue) : (s.setQueue n x).writer = s.writer := rfl
@[simp] theorem State.setQueue_nodeData (s : State) (n : Nat) (x : Queue) : (s.setQueue n x).nodeData = s.nodeData := rfl
@[simp] theorem State.setQueue_agenda (s : State) (n : Nat) (x : Queue) : (s.setQueue n x).agenda = s.agenda := rfl
@[simp] theorem State.setQueue_tick (s : State) (n : Nat) (x : Queue) : (s.setQueue n x).tick = s.tick := rfl
@[simp] theorem State.setQueue_fresh (s : State) (n : Nat) (x : Queue) : (s.setQueue n x).fresh = s.fresh := rfl
@[simp] theorem State.setQueue_nextId (s : State) (n : Nat) (x : Queue) : (s.setQueue n x).nextId = s.nextId := rfl
@[simp] theorem State.setQueue_cur (s : State) (n : Nat) (x : Queue) : (s.setQueue n x).cur = s.cur := rfl
@[simp] theorem State.setQueue_cycle (s : State) (n : Nat) (x : Queue) : (s.setQueue n x).cycle = s.cycle := rfl
@[simp] theorem State.setQueue_ready (s : State) (n : Nat) (x : Queue) : (s.setQueue n x).ready = s.ready := rfl
@[simp] theorem State.setQueue_readyAt (s : State) (n : Nat) (x : Queue) : (s.setQueue n x).readyAt = s.readyAt := rfl
@[simp] theorem State.setQueue_lastBit (s : State) (n : Nat) (x : Queue) : (s.setQueue n x).lastBit = s.lastBit := rfl
@[simp] theorem State.setQueue_nextUnit (s : State) (n : Nat) (x : Queue) : (s.setQueue n x).nextUnit = s.nextUnit := rfl
@[simp] theorem State.setQueue_selfTest (s : State) (n : Nat) (x : Queue) : (s.setQueue n x).selfTest = s.selfTest := rfl
@[simp] theorem State.setQueue_syscap (s : State) (n : Nat) (x : Queue) : (s.setQueue n x).syscap = s.syscap := rfl
@[simp] theorem State.setQueue_mem (s : State) (n : Nat) (x : Queue) : (s.setQueue n x).mem = s.mem := rfl
@[simp] theorem State.setQueue_cache (s : State) (n : Nat) (x : Queue) : (s.setQueue n x).cache = s.cache := rfl
@[simp] theorem State.setQueue_marks (s : State) (n : Nat) (x : Queue) : (s.setQueue n x).marks = s.marks := rfl
@[simp] theorem State.setQueue_tlb (s : State) (n : Nat) (x : Queue) : (s.setQueue n x).tlb = s.tlb := rfl
@[simp] theorem State.setQueue_groups (s : State) (n : Nat) (x : Queue) : (s.setQueue n x).groups = s.groups := rfl
@[simp] theorem State.setQueue_teams (s : State) (n : Nat) (x : Queue) : (s.setQueue n x).teams = s.teams := rfl
@[simp] theorem State.setQueue_grids (s : State) (n : Nat) (x : Queue) : (s.setQueue n x).grids = s.grids := rfl
@[simp] theorem State.setQueue_bars (s : State) (n : Nat) (x : Queue) : (s.setQueue n x).bars = s.bars := rfl
@[simp] theorem State.setQueue_startedAt (s : State) (n : Nat) (x : Queue) : (s.setQueue n x).startedAt = s.startedAt := rfl
@[simp] theorem State.setQueue_portAt (s : State) (n : Nat) (x : Queue) : (s.setQueue n x).portAt = s.portAt := rfl
@[simp] theorem State.setQueue_slotFree (s : State) (n : Nat) (x : Queue) : (s.setQueue n x).slotFree = s.slotFree := rfl
@[simp] theorem State.setQueue_pred (s : State) (n : Nat) (x : Queue) : (s.setQueue n x).pred = s.pred := rfl
@[simp] theorem State.setQueue_rcache (s : State) (n : Nat) (x : Queue) : (s.setQueue n x).rcache = s.rcache := rfl
@[simp] theorem State.setQueue_locks (s : State) (n : Nat) (x : Queue) : (s.setQueue n x).locks = s.locks := rfl
@[simp] theorem State.setQueue_jobs (s : State) (n : Nat) (x : Queue) : (s.setQueue n x).jobs = s.jobs := rfl
@[simp] theorem State.setQueue_pfbs (s : State) (n : Nat) (x : Queue) : (s.setQueue n x).pfbs = s.pfbs := rfl
@[simp] theorem State.setQueue_objs (s : State) (n : Nat) (x : Queue) : (s.setQueue n x).objs = s.objs := rfl
@[simp] theorem State.setQueue_fields (s : State) (n : Nat) (x : Queue) : (s.setQueue n x).fields = s.fields := rfl
@[simp] theorem State.setQueue_domains (s : State) (n : Nat) (x : Queue) : (s.setQueue n x).domains = s.domains := rfl
@[simp] theorem State.setQueue_pairs (s : State) (n : Nat) (x : Queue) : (s.setQueue n x).pairs = s.pairs := rfl
@[simp] theorem State.setQueue_returns (s : State) (n : Nat) (x : Queue) : (s.setQueue n x).returns = s.returns := rfl
@[simp] theorem State.setQueue_claims (s : State) (n : Nat) (x : Queue) : (s.setQueue n x).claims = s.claims := rfl
@[simp] theorem State.setQueue_queues (s : State) (n : Nat) (x : Queue) : (s.setQueue n x).queues = tset {} s.queues n x := rfl
@[simp] theorem State.setQueue_served (s : State) (n : Nat) (x : Queue) : (s.setQueue n x).served = s.served := rfl
@[simp] theorem State.setQueue_headAt (s : State) (n : Nat) (x : Queue) : (s.setQueue n x).headAt = s.headAt := rfl
@[simp] theorem State.setQueue_victims (s : State) (n : Nat) (x : Queue) : (s.setQueue n x).victims = s.victims := rfl
@[simp] theorem State.setQueue_bitAt (s : State) (n : Nat) (x : Queue) : (s.setQueue n x).bitAt = s.bitAt := rfl
@[simp] theorem State.setQueue_resumedAt (s : State) (n : Nat) (x : Queue) : (s.setQueue n x).resumedAt = s.resumedAt := rfl
@[simp] theorem State.setQueue_ctxs (s : State) (n : Nat) (x : Queue) : (s.setQueue n x).ctxs = s.ctxs := rfl
@[simp] theorem State.setQueue_inva (s : State) (n : Nat) (x : Queue) : (s.setQueue n x).inva = s.inva := rfl
@[simp] theorem State.setQueue_busy (s : State) (n : Nat) (x : Queue) : (s.setQueue n x).busy = s.busy := rfl
@[simp] theorem State.setQueue_busyCtx (s : State) (n : Nat) (x : Queue) : (s.setQueue n x).busyCtx = s.busyCtx := rfl
@[simp] theorem State.setQueue_busyPage (s : State) (n : Nat) (x : Queue) : (s.setQueue n x).busyPage = s.busyPage := rfl
@[simp] theorem State.setQueue_busyBound (s : State) (n : Nat) (x : Queue) : (s.setQueue n x).busyBound = s.busyBound := rfl
@[simp] theorem State.setQueue_busyFrom (s : State) (n : Nat) (x : Queue) : (s.setQueue n x).busyFrom = s.busyFrom := rfl
@[simp] theorem State.setQueue_busyCst (s : State) (n : Nat) (x : Queue) : (s.setQueue n x).busyCst = s.busyCst := rfl
@[simp] theorem State.setQueue_pctx (s : State) (n : Nat) (x : Queue) : (s.setQueue n x).pctx = s.pctx := rfl
@[simp] theorem State.setQueue_pbusy (s : State) (n : Nat) (x : Queue) : (s.setQueue n x).pbusy = s.pbusy := rfl
@[simp] theorem State.setQueue_tring (s : State) (n : Nat) (x : Queue) : (s.setQueue n x).tring = s.tring := rfl
@[simp] theorem State.setQueue_trpos (s : State) (n : Nat) (x : Queue) : (s.setQueue n x).trpos = s.trpos := rfl
@[simp] theorem State.setQueue_trvec (s : State) (n : Nat) (x : Queue) : (s.setQueue n x).trvec = s.trvec := rfl
@[simp] theorem State.setQueue_msix (s : State) (n : Nat) (x : Queue) : (s.setQueue n x).msix = s.msix := rfl
@[simp] theorem State.setQueue_msixTable (s : State) (n : Nat) (x : Queue) : (s.setQueue n x).msixTable = s.msixTable := rfl
@[simp] theorem State.setQueue_msixPend (s : State) (n : Nat) (x : Queue) : (s.setQueue n x).msixPend = s.msixPend := rfl
@[simp] theorem State.setQueue_hostDir (s : State) (n : Nat) (x : Queue) : (s.setQueue n x).hostDir = s.hostDir := rfl
@[simp] theorem State.setQueue_backInv (s : State) (n : Nat) (x : Queue) : (s.setQueue n x).backInv = s.backInv := rfl
@[simp] theorem State.setQueue_backFull (s : State) (n : Nat) (x : Queue) : (s.setQueue n x).backFull = s.backFull := rfl
@[simp] theorem State.setQueue_backDone (s : State) (n : Nat) (x : Queue) : (s.setQueue n x).backDone = s.backDone := rfl
@[simp] theorem State.setQueue_backTook (s : State) (n : Nat) (x : Queue) : (s.setQueue n x).backTook = s.backTook := rfl
@[simp] theorem State.setQueue_heldHost (s : State) (n : Nat) (x : Queue) : (s.setQueue n x).heldHost = s.heldHost := rfl
@[simp] theorem State.setQueue_heldBar (s : State) (n : Nat) (x : Queue) : (s.setQueue n x).heldBar = s.heldBar := rfl
@[simp] theorem State.setQueue_hostOut (s : State) (n : Nat) (x : Queue) : (s.setQueue n x).hostOut = s.hostOut := rfl
@[simp] theorem State.setQueue_fabid (s : State) (n : Nat) (x : Queue) : (s.setQueue n x).fabid = s.fabid := rfl
@[simp] theorem State.setQueue_members (s : State) (n : Nat) (x : Queue) : (s.setQueue n x).members = s.members := rfl
@[simp] theorem State.setQueue_fabidReg (s : State) (n : Nat) (x : Queue) : (s.setQueue n x).fabidReg = s.fabidReg := rfl
@[simp] theorem State.setQueue_membersReg (s : State) (n : Nat) (x : Queue) : (s.setQueue n x).membersReg = s.membersReg := rfl
@[simp] theorem State.setQueue_mer (s : State) (n : Nat) (x : Queue) : (s.setQueue n x).mer = s.mer := rfl
@[simp] theorem State.setQueue_evring (s : State) (n : Nat) (x : Queue) : (s.setQueue n x).evring = s.evring := rfl
@[simp] theorem State.setQueue_evpos (s : State) (n : Nat) (x : Queue) : (s.setQueue n x).evpos = s.evpos := rfl
@[simp] theorem State.setQueue_evvec (s : State) (n : Nat) (x : Queue) : (s.setQueue n x).evvec = s.evvec := rfl
@[simp] theorem State.setQueue_rethr (s : State) (n : Nat) (x : Queue) : (s.setQueue n x).rethr = s.rethr := rfl
@[simp] theorem State.setQueue_ports (s : State) (n : Nat) (x : Queue) : (s.setQueue n x).ports = s.ports := rfl
@[simp] theorem State.setQueue_reqQueue (s : State) (n : Nat) (x : Queue) : (s.setQueue n x).reqQueue = s.reqQueue := rfl
@[simp] theorem State.setQueue_hostPosted (s : State) (n : Nat) (x : Queue) : (s.setQueue n x).hostPosted = s.hostPosted := rfl
@[simp] theorem State.setQueue_arrived (s : State) (n : Nat) (x : Queue) : (s.setQueue n x).arrived = s.arrived := rfl
@[simp] theorem State.setQueue_evQueue (s : State) (n : Nat) (x : Queue) : (s.setQueue n x).evQueue = s.evQueue := rfl
@[simp] theorem State.setQueue_lit (s : State) (n : Nat) (x : Queue) : (s.setQueue n x).lit = s.lit := rfl
@[simp] theorem State.setQueue_mbox (s : State) (n : Nat) (x : Queue) : (s.setQueue n x).mbox = s.mbox := rfl
@[simp] theorem State.setQueue_power (s : State) (n : Nat) (x : Queue) : (s.setQueue n x).power = s.power := rfl
@[simp] theorem State.setQueue_corrected (s : State) (n : Nat) (x : Queue) : (s.setQueue n x).corrected = s.corrected := rfl
@[simp] theorem State.setQueue_uncorrected (s : State) (n : Nat) (x : Queue) : (s.setQueue n x).uncorrected = s.uncorrected := rfl
@[simp] theorem State.setQueue_firmware (s : State) (n : Nat) (x : Queue) : (s.setQueue n x).firmware = s.firmware := rfl
@[simp] theorem State.setQueue_spdmOut (s : State) (n : Nat) (x : Queue) : (s.setQueue n x).spdmOut = s.spdmOut := rfl

/-! ### State.setPort -/
@[simp] theorem State.setPort_absent (s : State) (n : Nat) (x : Port) : (s.setPort n x).absent = s.absent := rfl
@[simp] theorem State.setPort_conflict (s : State) (n : Nat) (x : Port) : (s.setPort n x).conflict = s.conflict := rfl
@[simp] theorem State.setPort_unready (s : State) (n : Nat) (x : Port) : (s.setPort n x).unready = s.unready := rfl
@[simp] theorem State.setPort_askOwn (s : State) (n : Nat) (x : Port) : (s.setPort n x).askOwn = s.askOwn := rfl
@[simp] theorem State.setPort_askRead (s : State) (n : Nat) (x : Port) : (s.setPort n x).askRead = s.askRead := rfl
@[simp] theorem State.setPort_gotRead (s : State) (n : Nat) (x : Port) : (s.setPort n x).gotRead = s.gotRead := rfl
@[simp] theorem State.setPort_wrote (s : State) (n : Nat) (x : Port) : (s.setPort n x).wrote = s.wrote := rfl
@[simp] theorem State.setPort_writer (s : State) (n : Nat) (x : Port) : (s.setPort n x).writer = s.writer := rfl
@[simp] theorem State.setPort_nodeData (s : State) (n : Nat) (x : Port) : (s.setPort n x).nodeData = s.nodeData := rfl
@[simp] theorem State.setPort_agenda (s : State) (n : Nat) (x : Port) : (s.setPort n x).agenda = s.agenda := rfl
@[simp] theorem State.setPort_tick (s : State) (n : Nat) (x : Port) : (s.setPort n x).tick = s.tick := rfl
@[simp] theorem State.setPort_fresh (s : State) (n : Nat) (x : Port) : (s.setPort n x).fresh = s.fresh := rfl
@[simp] theorem State.setPort_nextId (s : State) (n : Nat) (x : Port) : (s.setPort n x).nextId = s.nextId := rfl
@[simp] theorem State.setPort_cur (s : State) (n : Nat) (x : Port) : (s.setPort n x).cur = s.cur := rfl
@[simp] theorem State.setPort_cycle (s : State) (n : Nat) (x : Port) : (s.setPort n x).cycle = s.cycle := rfl
@[simp] theorem State.setPort_ready (s : State) (n : Nat) (x : Port) : (s.setPort n x).ready = s.ready := rfl
@[simp] theorem State.setPort_readyAt (s : State) (n : Nat) (x : Port) : (s.setPort n x).readyAt = s.readyAt := rfl
@[simp] theorem State.setPort_lastBit (s : State) (n : Nat) (x : Port) : (s.setPort n x).lastBit = s.lastBit := rfl
@[simp] theorem State.setPort_nextUnit (s : State) (n : Nat) (x : Port) : (s.setPort n x).nextUnit = s.nextUnit := rfl
@[simp] theorem State.setPort_selfTest (s : State) (n : Nat) (x : Port) : (s.setPort n x).selfTest = s.selfTest := rfl
@[simp] theorem State.setPort_syscap (s : State) (n : Nat) (x : Port) : (s.setPort n x).syscap = s.syscap := rfl
@[simp] theorem State.setPort_mem (s : State) (n : Nat) (x : Port) : (s.setPort n x).mem = s.mem := rfl
@[simp] theorem State.setPort_cache (s : State) (n : Nat) (x : Port) : (s.setPort n x).cache = s.cache := rfl
@[simp] theorem State.setPort_marks (s : State) (n : Nat) (x : Port) : (s.setPort n x).marks = s.marks := rfl
@[simp] theorem State.setPort_tlb (s : State) (n : Nat) (x : Port) : (s.setPort n x).tlb = s.tlb := rfl
@[simp] theorem State.setPort_groups (s : State) (n : Nat) (x : Port) : (s.setPort n x).groups = s.groups := rfl
@[simp] theorem State.setPort_teams (s : State) (n : Nat) (x : Port) : (s.setPort n x).teams = s.teams := rfl
@[simp] theorem State.setPort_grids (s : State) (n : Nat) (x : Port) : (s.setPort n x).grids = s.grids := rfl
@[simp] theorem State.setPort_bars (s : State) (n : Nat) (x : Port) : (s.setPort n x).bars = s.bars := rfl
@[simp] theorem State.setPort_startedAt (s : State) (n : Nat) (x : Port) : (s.setPort n x).startedAt = s.startedAt := rfl
@[simp] theorem State.setPort_portAt (s : State) (n : Nat) (x : Port) : (s.setPort n x).portAt = s.portAt := rfl
@[simp] theorem State.setPort_slotFree (s : State) (n : Nat) (x : Port) : (s.setPort n x).slotFree = s.slotFree := rfl
@[simp] theorem State.setPort_pred (s : State) (n : Nat) (x : Port) : (s.setPort n x).pred = s.pred := rfl
@[simp] theorem State.setPort_rcache (s : State) (n : Nat) (x : Port) : (s.setPort n x).rcache = s.rcache := rfl
@[simp] theorem State.setPort_locks (s : State) (n : Nat) (x : Port) : (s.setPort n x).locks = s.locks := rfl
@[simp] theorem State.setPort_jobs (s : State) (n : Nat) (x : Port) : (s.setPort n x).jobs = s.jobs := rfl
@[simp] theorem State.setPort_pfbs (s : State) (n : Nat) (x : Port) : (s.setPort n x).pfbs = s.pfbs := rfl
@[simp] theorem State.setPort_objs (s : State) (n : Nat) (x : Port) : (s.setPort n x).objs = s.objs := rfl
@[simp] theorem State.setPort_fields (s : State) (n : Nat) (x : Port) : (s.setPort n x).fields = s.fields := rfl
@[simp] theorem State.setPort_domains (s : State) (n : Nat) (x : Port) : (s.setPort n x).domains = s.domains := rfl
@[simp] theorem State.setPort_pairs (s : State) (n : Nat) (x : Port) : (s.setPort n x).pairs = s.pairs := rfl
@[simp] theorem State.setPort_returns (s : State) (n : Nat) (x : Port) : (s.setPort n x).returns = s.returns := rfl
@[simp] theorem State.setPort_claims (s : State) (n : Nat) (x : Port) : (s.setPort n x).claims = s.claims := rfl
@[simp] theorem State.setPort_queues (s : State) (n : Nat) (x : Port) : (s.setPort n x).queues = s.queues := rfl
@[simp] theorem State.setPort_served (s : State) (n : Nat) (x : Port) : (s.setPort n x).served = s.served := rfl
@[simp] theorem State.setPort_headAt (s : State) (n : Nat) (x : Port) : (s.setPort n x).headAt = s.headAt := rfl
@[simp] theorem State.setPort_victims (s : State) (n : Nat) (x : Port) : (s.setPort n x).victims = s.victims := rfl
@[simp] theorem State.setPort_bitAt (s : State) (n : Nat) (x : Port) : (s.setPort n x).bitAt = s.bitAt := rfl
@[simp] theorem State.setPort_resumedAt (s : State) (n : Nat) (x : Port) : (s.setPort n x).resumedAt = s.resumedAt := rfl
@[simp] theorem State.setPort_ctxs (s : State) (n : Nat) (x : Port) : (s.setPort n x).ctxs = s.ctxs := rfl
@[simp] theorem State.setPort_inva (s : State) (n : Nat) (x : Port) : (s.setPort n x).inva = s.inva := rfl
@[simp] theorem State.setPort_busy (s : State) (n : Nat) (x : Port) : (s.setPort n x).busy = s.busy := rfl
@[simp] theorem State.setPort_busyCtx (s : State) (n : Nat) (x : Port) : (s.setPort n x).busyCtx = s.busyCtx := rfl
@[simp] theorem State.setPort_busyPage (s : State) (n : Nat) (x : Port) : (s.setPort n x).busyPage = s.busyPage := rfl
@[simp] theorem State.setPort_busyBound (s : State) (n : Nat) (x : Port) : (s.setPort n x).busyBound = s.busyBound := rfl
@[simp] theorem State.setPort_busyFrom (s : State) (n : Nat) (x : Port) : (s.setPort n x).busyFrom = s.busyFrom := rfl
@[simp] theorem State.setPort_busyCst (s : State) (n : Nat) (x : Port) : (s.setPort n x).busyCst = s.busyCst := rfl
@[simp] theorem State.setPort_pctx (s : State) (n : Nat) (x : Port) : (s.setPort n x).pctx = s.pctx := rfl
@[simp] theorem State.setPort_pbusy (s : State) (n : Nat) (x : Port) : (s.setPort n x).pbusy = s.pbusy := rfl
@[simp] theorem State.setPort_tring (s : State) (n : Nat) (x : Port) : (s.setPort n x).tring = s.tring := rfl
@[simp] theorem State.setPort_trpos (s : State) (n : Nat) (x : Port) : (s.setPort n x).trpos = s.trpos := rfl
@[simp] theorem State.setPort_trvec (s : State) (n : Nat) (x : Port) : (s.setPort n x).trvec = s.trvec := rfl
@[simp] theorem State.setPort_msix (s : State) (n : Nat) (x : Port) : (s.setPort n x).msix = s.msix := rfl
@[simp] theorem State.setPort_msixTable (s : State) (n : Nat) (x : Port) : (s.setPort n x).msixTable = s.msixTable := rfl
@[simp] theorem State.setPort_msixPend (s : State) (n : Nat) (x : Port) : (s.setPort n x).msixPend = s.msixPend := rfl
@[simp] theorem State.setPort_hostDir (s : State) (n : Nat) (x : Port) : (s.setPort n x).hostDir = s.hostDir := rfl
@[simp] theorem State.setPort_backInv (s : State) (n : Nat) (x : Port) : (s.setPort n x).backInv = s.backInv := rfl
@[simp] theorem State.setPort_backFull (s : State) (n : Nat) (x : Port) : (s.setPort n x).backFull = s.backFull := rfl
@[simp] theorem State.setPort_backDone (s : State) (n : Nat) (x : Port) : (s.setPort n x).backDone = s.backDone := rfl
@[simp] theorem State.setPort_backTook (s : State) (n : Nat) (x : Port) : (s.setPort n x).backTook = s.backTook := rfl
@[simp] theorem State.setPort_heldHost (s : State) (n : Nat) (x : Port) : (s.setPort n x).heldHost = s.heldHost := rfl
@[simp] theorem State.setPort_heldBar (s : State) (n : Nat) (x : Port) : (s.setPort n x).heldBar = s.heldBar := rfl
@[simp] theorem State.setPort_hostOut (s : State) (n : Nat) (x : Port) : (s.setPort n x).hostOut = s.hostOut := rfl
@[simp] theorem State.setPort_fabid (s : State) (n : Nat) (x : Port) : (s.setPort n x).fabid = s.fabid := rfl
@[simp] theorem State.setPort_members (s : State) (n : Nat) (x : Port) : (s.setPort n x).members = s.members := rfl
@[simp] theorem State.setPort_fabidReg (s : State) (n : Nat) (x : Port) : (s.setPort n x).fabidReg = s.fabidReg := rfl
@[simp] theorem State.setPort_membersReg (s : State) (n : Nat) (x : Port) : (s.setPort n x).membersReg = s.membersReg := rfl
@[simp] theorem State.setPort_mer (s : State) (n : Nat) (x : Port) : (s.setPort n x).mer = s.mer := rfl
@[simp] theorem State.setPort_evring (s : State) (n : Nat) (x : Port) : (s.setPort n x).evring = s.evring := rfl
@[simp] theorem State.setPort_evpos (s : State) (n : Nat) (x : Port) : (s.setPort n x).evpos = s.evpos := rfl
@[simp] theorem State.setPort_evvec (s : State) (n : Nat) (x : Port) : (s.setPort n x).evvec = s.evvec := rfl
@[simp] theorem State.setPort_rethr (s : State) (n : Nat) (x : Port) : (s.setPort n x).rethr = s.rethr := rfl
@[simp] theorem State.setPort_ports (s : State) (n : Nat) (x : Port) : (s.setPort n x).ports = tset {} s.ports n x := rfl
@[simp] theorem State.setPort_reqQueue (s : State) (n : Nat) (x : Port) : (s.setPort n x).reqQueue = s.reqQueue := rfl
@[simp] theorem State.setPort_hostPosted (s : State) (n : Nat) (x : Port) : (s.setPort n x).hostPosted = s.hostPosted := rfl
@[simp] theorem State.setPort_arrived (s : State) (n : Nat) (x : Port) : (s.setPort n x).arrived = s.arrived := rfl
@[simp] theorem State.setPort_evQueue (s : State) (n : Nat) (x : Port) : (s.setPort n x).evQueue = s.evQueue := rfl
@[simp] theorem State.setPort_lit (s : State) (n : Nat) (x : Port) : (s.setPort n x).lit = s.lit := rfl
@[simp] theorem State.setPort_mbox (s : State) (n : Nat) (x : Port) : (s.setPort n x).mbox = s.mbox := rfl
@[simp] theorem State.setPort_power (s : State) (n : Nat) (x : Port) : (s.setPort n x).power = s.power := rfl
@[simp] theorem State.setPort_corrected (s : State) (n : Nat) (x : Port) : (s.setPort n x).corrected = s.corrected := rfl
@[simp] theorem State.setPort_uncorrected (s : State) (n : Nat) (x : Port) : (s.setPort n x).uncorrected = s.uncorrected := rfl
@[simp] theorem State.setPort_firmware (s : State) (n : Nat) (x : Port) : (s.setPort n x).firmware = s.firmware := rfl
@[simp] theorem State.setPort_spdmOut (s : State) (n : Nat) (x : Port) : (s.setPort n x).spdmOut = s.spdmOut := rfl

/-! ### State.setBar -/
@[simp] theorem State.setBar_absent (s : State) (c n : Nat) (x : Bar) : (s.setBar c n x).absent = s.absent := rfl
@[simp] theorem State.setBar_conflict (s : State) (c n : Nat) (x : Bar) : (s.setBar c n x).conflict = s.conflict := rfl
@[simp] theorem State.setBar_unready (s : State) (c n : Nat) (x : Bar) : (s.setBar c n x).unready = s.unready := rfl
@[simp] theorem State.setBar_askOwn (s : State) (c n : Nat) (x : Bar) : (s.setBar c n x).askOwn = s.askOwn := rfl
@[simp] theorem State.setBar_askRead (s : State) (c n : Nat) (x : Bar) : (s.setBar c n x).askRead = s.askRead := rfl
@[simp] theorem State.setBar_gotRead (s : State) (c n : Nat) (x : Bar) : (s.setBar c n x).gotRead = s.gotRead := rfl
@[simp] theorem State.setBar_wrote (s : State) (c n : Nat) (x : Bar) : (s.setBar c n x).wrote = s.wrote := rfl
@[simp] theorem State.setBar_writer (s : State) (c n : Nat) (x : Bar) : (s.setBar c n x).writer = s.writer := rfl
@[simp] theorem State.setBar_nodeData (s : State) (c n : Nat) (x : Bar) : (s.setBar c n x).nodeData = s.nodeData := rfl
@[simp] theorem State.setBar_agenda (s : State) (c n : Nat) (x : Bar) : (s.setBar c n x).agenda = s.agenda := rfl
@[simp] theorem State.setBar_tick (s : State) (c n : Nat) (x : Bar) : (s.setBar c n x).tick = s.tick := rfl
@[simp] theorem State.setBar_fresh (s : State) (c n : Nat) (x : Bar) : (s.setBar c n x).fresh = s.fresh := rfl
@[simp] theorem State.setBar_nextId (s : State) (c n : Nat) (x : Bar) : (s.setBar c n x).nextId = s.nextId := rfl
@[simp] theorem State.setBar_cur (s : State) (c n : Nat) (x : Bar) : (s.setBar c n x).cur = s.cur := rfl
@[simp] theorem State.setBar_cycle (s : State) (c n : Nat) (x : Bar) : (s.setBar c n x).cycle = s.cycle := rfl
@[simp] theorem State.setBar_ready (s : State) (c n : Nat) (x : Bar) : (s.setBar c n x).ready = s.ready := rfl
@[simp] theorem State.setBar_readyAt (s : State) (c n : Nat) (x : Bar) : (s.setBar c n x).readyAt = s.readyAt := rfl
@[simp] theorem State.setBar_lastBit (s : State) (c n : Nat) (x : Bar) : (s.setBar c n x).lastBit = s.lastBit := rfl
@[simp] theorem State.setBar_nextUnit (s : State) (c n : Nat) (x : Bar) : (s.setBar c n x).nextUnit = s.nextUnit := rfl
@[simp] theorem State.setBar_selfTest (s : State) (c n : Nat) (x : Bar) : (s.setBar c n x).selfTest = s.selfTest := rfl
@[simp] theorem State.setBar_syscap (s : State) (c n : Nat) (x : Bar) : (s.setBar c n x).syscap = s.syscap := rfl
@[simp] theorem State.setBar_mem (s : State) (c n : Nat) (x : Bar) : (s.setBar c n x).mem = s.mem := rfl
@[simp] theorem State.setBar_cache (s : State) (c n : Nat) (x : Bar) : (s.setBar c n x).cache = s.cache := rfl
@[simp] theorem State.setBar_marks (s : State) (c n : Nat) (x : Bar) : (s.setBar c n x).marks = s.marks := rfl
@[simp] theorem State.setBar_tlb (s : State) (c n : Nat) (x : Bar) : (s.setBar c n x).tlb = s.tlb := rfl
@[simp] theorem State.setBar_groups (s : State) (c n : Nat) (x : Bar) : (s.setBar c n x).groups = s.groups := rfl
@[simp] theorem State.setBar_teams (s : State) (c n : Nat) (x : Bar) : (s.setBar c n x).teams = s.teams := rfl
@[simp] theorem State.setBar_grids (s : State) (c n : Nat) (x : Bar) : (s.setBar c n x).grids = s.grids := rfl
@[simp] theorem State.setBar_bars (s : State) (c n : Nat) (x : Bar) : (s.setBar c n x).bars = tset {} s.bars (barKey c n) x := rfl
@[simp] theorem State.setBar_startedAt (s : State) (c n : Nat) (x : Bar) : (s.setBar c n x).startedAt = s.startedAt := rfl
@[simp] theorem State.setBar_portAt (s : State) (c n : Nat) (x : Bar) : (s.setBar c n x).portAt = s.portAt := rfl
@[simp] theorem State.setBar_slotFree (s : State) (c n : Nat) (x : Bar) : (s.setBar c n x).slotFree = s.slotFree := rfl
@[simp] theorem State.setBar_pred (s : State) (c n : Nat) (x : Bar) : (s.setBar c n x).pred = s.pred := rfl
@[simp] theorem State.setBar_rcache (s : State) (c n : Nat) (x : Bar) : (s.setBar c n x).rcache = s.rcache := rfl
@[simp] theorem State.setBar_locks (s : State) (c n : Nat) (x : Bar) : (s.setBar c n x).locks = s.locks := rfl
@[simp] theorem State.setBar_jobs (s : State) (c n : Nat) (x : Bar) : (s.setBar c n x).jobs = s.jobs := rfl
@[simp] theorem State.setBar_pfbs (s : State) (c n : Nat) (x : Bar) : (s.setBar c n x).pfbs = s.pfbs := rfl
@[simp] theorem State.setBar_objs (s : State) (c n : Nat) (x : Bar) : (s.setBar c n x).objs = s.objs := rfl
@[simp] theorem State.setBar_fields (s : State) (c n : Nat) (x : Bar) : (s.setBar c n x).fields = s.fields := rfl
@[simp] theorem State.setBar_domains (s : State) (c n : Nat) (x : Bar) : (s.setBar c n x).domains = s.domains := rfl
@[simp] theorem State.setBar_pairs (s : State) (c n : Nat) (x : Bar) : (s.setBar c n x).pairs = s.pairs := rfl
@[simp] theorem State.setBar_returns (s : State) (c n : Nat) (x : Bar) : (s.setBar c n x).returns = s.returns := rfl
@[simp] theorem State.setBar_claims (s : State) (c n : Nat) (x : Bar) : (s.setBar c n x).claims = s.claims := rfl
@[simp] theorem State.setBar_queues (s : State) (c n : Nat) (x : Bar) : (s.setBar c n x).queues = s.queues := rfl
@[simp] theorem State.setBar_served (s : State) (c n : Nat) (x : Bar) : (s.setBar c n x).served = s.served := rfl
@[simp] theorem State.setBar_headAt (s : State) (c n : Nat) (x : Bar) : (s.setBar c n x).headAt = s.headAt := rfl
@[simp] theorem State.setBar_victims (s : State) (c n : Nat) (x : Bar) : (s.setBar c n x).victims = s.victims := rfl
@[simp] theorem State.setBar_bitAt (s : State) (c n : Nat) (x : Bar) : (s.setBar c n x).bitAt = s.bitAt := rfl
@[simp] theorem State.setBar_resumedAt (s : State) (c n : Nat) (x : Bar) : (s.setBar c n x).resumedAt = s.resumedAt := rfl
@[simp] theorem State.setBar_ctxs (s : State) (c n : Nat) (x : Bar) : (s.setBar c n x).ctxs = s.ctxs := rfl
@[simp] theorem State.setBar_inva (s : State) (c n : Nat) (x : Bar) : (s.setBar c n x).inva = s.inva := rfl
@[simp] theorem State.setBar_busy (s : State) (c n : Nat) (x : Bar) : (s.setBar c n x).busy = s.busy := rfl
@[simp] theorem State.setBar_busyCtx (s : State) (c n : Nat) (x : Bar) : (s.setBar c n x).busyCtx = s.busyCtx := rfl
@[simp] theorem State.setBar_busyPage (s : State) (c n : Nat) (x : Bar) : (s.setBar c n x).busyPage = s.busyPage := rfl
@[simp] theorem State.setBar_busyBound (s : State) (c n : Nat) (x : Bar) : (s.setBar c n x).busyBound = s.busyBound := rfl
@[simp] theorem State.setBar_busyFrom (s : State) (c n : Nat) (x : Bar) : (s.setBar c n x).busyFrom = s.busyFrom := rfl
@[simp] theorem State.setBar_busyCst (s : State) (c n : Nat) (x : Bar) : (s.setBar c n x).busyCst = s.busyCst := rfl
@[simp] theorem State.setBar_pctx (s : State) (c n : Nat) (x : Bar) : (s.setBar c n x).pctx = s.pctx := rfl
@[simp] theorem State.setBar_pbusy (s : State) (c n : Nat) (x : Bar) : (s.setBar c n x).pbusy = s.pbusy := rfl
@[simp] theorem State.setBar_tring (s : State) (c n : Nat) (x : Bar) : (s.setBar c n x).tring = s.tring := rfl
@[simp] theorem State.setBar_trpos (s : State) (c n : Nat) (x : Bar) : (s.setBar c n x).trpos = s.trpos := rfl
@[simp] theorem State.setBar_trvec (s : State) (c n : Nat) (x : Bar) : (s.setBar c n x).trvec = s.trvec := rfl
@[simp] theorem State.setBar_msix (s : State) (c n : Nat) (x : Bar) : (s.setBar c n x).msix = s.msix := rfl
@[simp] theorem State.setBar_msixTable (s : State) (c n : Nat) (x : Bar) : (s.setBar c n x).msixTable = s.msixTable := rfl
@[simp] theorem State.setBar_msixPend (s : State) (c n : Nat) (x : Bar) : (s.setBar c n x).msixPend = s.msixPend := rfl
@[simp] theorem State.setBar_hostDir (s : State) (c n : Nat) (x : Bar) : (s.setBar c n x).hostDir = s.hostDir := rfl
@[simp] theorem State.setBar_backInv (s : State) (c n : Nat) (x : Bar) : (s.setBar c n x).backInv = s.backInv := rfl
@[simp] theorem State.setBar_backFull (s : State) (c n : Nat) (x : Bar) : (s.setBar c n x).backFull = s.backFull := rfl
@[simp] theorem State.setBar_backDone (s : State) (c n : Nat) (x : Bar) : (s.setBar c n x).backDone = s.backDone := rfl
@[simp] theorem State.setBar_backTook (s : State) (c n : Nat) (x : Bar) : (s.setBar c n x).backTook = s.backTook := rfl
@[simp] theorem State.setBar_heldHost (s : State) (c n : Nat) (x : Bar) : (s.setBar c n x).heldHost = s.heldHost := rfl
@[simp] theorem State.setBar_heldBar (s : State) (c n : Nat) (x : Bar) : (s.setBar c n x).heldBar = s.heldBar := rfl
@[simp] theorem State.setBar_hostOut (s : State) (c n : Nat) (x : Bar) : (s.setBar c n x).hostOut = s.hostOut := rfl
@[simp] theorem State.setBar_fabid (s : State) (c n : Nat) (x : Bar) : (s.setBar c n x).fabid = s.fabid := rfl
@[simp] theorem State.setBar_members (s : State) (c n : Nat) (x : Bar) : (s.setBar c n x).members = s.members := rfl
@[simp] theorem State.setBar_fabidReg (s : State) (c n : Nat) (x : Bar) : (s.setBar c n x).fabidReg = s.fabidReg := rfl
@[simp] theorem State.setBar_membersReg (s : State) (c n : Nat) (x : Bar) : (s.setBar c n x).membersReg = s.membersReg := rfl
@[simp] theorem State.setBar_mer (s : State) (c n : Nat) (x : Bar) : (s.setBar c n x).mer = s.mer := rfl
@[simp] theorem State.setBar_evring (s : State) (c n : Nat) (x : Bar) : (s.setBar c n x).evring = s.evring := rfl
@[simp] theorem State.setBar_evpos (s : State) (c n : Nat) (x : Bar) : (s.setBar c n x).evpos = s.evpos := rfl
@[simp] theorem State.setBar_evvec (s : State) (c n : Nat) (x : Bar) : (s.setBar c n x).evvec = s.evvec := rfl
@[simp] theorem State.setBar_rethr (s : State) (c n : Nat) (x : Bar) : (s.setBar c n x).rethr = s.rethr := rfl
@[simp] theorem State.setBar_ports (s : State) (c n : Nat) (x : Bar) : (s.setBar c n x).ports = s.ports := rfl
@[simp] theorem State.setBar_reqQueue (s : State) (c n : Nat) (x : Bar) : (s.setBar c n x).reqQueue = s.reqQueue := rfl
@[simp] theorem State.setBar_hostPosted (s : State) (c n : Nat) (x : Bar) : (s.setBar c n x).hostPosted = s.hostPosted := rfl
@[simp] theorem State.setBar_arrived (s : State) (c n : Nat) (x : Bar) : (s.setBar c n x).arrived = s.arrived := rfl
@[simp] theorem State.setBar_evQueue (s : State) (c n : Nat) (x : Bar) : (s.setBar c n x).evQueue = s.evQueue := rfl
@[simp] theorem State.setBar_lit (s : State) (c n : Nat) (x : Bar) : (s.setBar c n x).lit = s.lit := rfl
@[simp] theorem State.setBar_mbox (s : State) (c n : Nat) (x : Bar) : (s.setBar c n x).mbox = s.mbox := rfl
@[simp] theorem State.setBar_power (s : State) (c n : Nat) (x : Bar) : (s.setBar c n x).power = s.power := rfl
@[simp] theorem State.setBar_corrected (s : State) (c n : Nat) (x : Bar) : (s.setBar c n x).corrected = s.corrected := rfl
@[simp] theorem State.setBar_uncorrected (s : State) (c n : Nat) (x : Bar) : (s.setBar c n x).uncorrected = s.uncorrected := rfl
@[simp] theorem State.setBar_firmware (s : State) (c n : Nat) (x : Bar) : (s.setBar c n x).firmware = s.firmware := rfl
@[simp] theorem State.setBar_spdmOut (s : State) (c n : Nat) (x : Bar) : (s.setBar c n x).spdmOut = s.spdmOut := rfl

/-! ### State.cput -/
@[simp] theorem State.cput_absent (s : State) (site pa : Nat) (c : CByte) : (s.cput site pa c).absent = s.absent := rfl
@[simp] theorem State.cput_conflict (s : State) (site pa : Nat) (c : CByte) : (s.cput site pa c).conflict = s.conflict := rfl
@[simp] theorem State.cput_askOwn (s : State) (site pa : Nat) (c : CByte) : (s.cput site pa c).askOwn = s.askOwn := rfl
@[simp] theorem State.cput_askRead (s : State) (site pa : Nat) (c : CByte) : (s.cput site pa c).askRead = s.askRead := rfl
@[simp] theorem State.cput_gotRead (s : State) (site pa : Nat) (c : CByte) : (s.cput site pa c).gotRead = s.gotRead := rfl
@[simp] theorem State.cput_wrote (s : State) (site pa : Nat) (c : CByte) : (s.cput site pa c).wrote = s.wrote := rfl
@[simp] theorem State.cput_writer (s : State) (site pa : Nat) (c : CByte) : (s.cput site pa c).writer = s.writer := rfl
@[simp] theorem State.cput_nodeData (s : State) (site pa : Nat) (c : CByte) : (s.cput site pa c).nodeData = s.nodeData := rfl
@[simp] theorem State.cput_agenda (s : State) (site pa : Nat) (c : CByte) : (s.cput site pa c).agenda = s.agenda := rfl
@[simp] theorem State.cput_tick (s : State) (site pa : Nat) (c : CByte) : (s.cput site pa c).tick = s.tick := rfl
@[simp] theorem State.cput_fresh (s : State) (site pa : Nat) (c : CByte) : (s.cput site pa c).fresh = s.fresh := rfl
@[simp] theorem State.cput_nextId (s : State) (site pa : Nat) (c : CByte) : (s.cput site pa c).nextId = s.nextId := rfl
@[simp] theorem State.cput_cur (s : State) (site pa : Nat) (c : CByte) : (s.cput site pa c).cur = s.cur := rfl
@[simp] theorem State.cput_cycle (s : State) (site pa : Nat) (c : CByte) : (s.cput site pa c).cycle = s.cycle := rfl
@[simp] theorem State.cput_ready (s : State) (site pa : Nat) (c : CByte) : (s.cput site pa c).ready = s.ready := rfl
@[simp] theorem State.cput_readyAt (s : State) (site pa : Nat) (c : CByte) : (s.cput site pa c).readyAt = s.readyAt := rfl
@[simp] theorem State.cput_lastBit (s : State) (site pa : Nat) (c : CByte) : (s.cput site pa c).lastBit = s.lastBit := rfl
@[simp] theorem State.cput_nextUnit (s : State) (site pa : Nat) (c : CByte) : (s.cput site pa c).nextUnit = s.nextUnit := rfl
@[simp] theorem State.cput_selfTest (s : State) (site pa : Nat) (c : CByte) : (s.cput site pa c).selfTest = s.selfTest := rfl
@[simp] theorem State.cput_syscap (s : State) (site pa : Nat) (c : CByte) : (s.cput site pa c).syscap = s.syscap := rfl
@[simp] theorem State.cput_mem (s : State) (site pa : Nat) (c : CByte) : (s.cput site pa c).mem = s.mem := rfl
@[simp] theorem State.cput_cache (s : State) (site pa : Nat) (c : CByte) : (s.cput site pa c).cache = dput s.cache (cacheKey site pa) c := rfl
@[simp] theorem State.cput_tlb (s : State) (site pa : Nat) (c : CByte) : (s.cput site pa c).tlb = s.tlb := rfl
@[simp] theorem State.cput_groups (s : State) (site pa : Nat) (c : CByte) : (s.cput site pa c).groups = s.groups := rfl
@[simp] theorem State.cput_teams (s : State) (site pa : Nat) (c : CByte) : (s.cput site pa c).teams = s.teams := rfl
@[simp] theorem State.cput_grids (s : State) (site pa : Nat) (c : CByte) : (s.cput site pa c).grids = s.grids := rfl
@[simp] theorem State.cput_bars (s : State) (site pa : Nat) (c : CByte) : (s.cput site pa c).bars = s.bars := rfl
@[simp] theorem State.cput_startedAt (s : State) (site pa : Nat) (c : CByte) : (s.cput site pa c).startedAt = s.startedAt := rfl
@[simp] theorem State.cput_portAt (s : State) (site pa : Nat) (c : CByte) : (s.cput site pa c).portAt = s.portAt := rfl
@[simp] theorem State.cput_slotFree (s : State) (site pa : Nat) (c : CByte) : (s.cput site pa c).slotFree = s.slotFree := rfl
@[simp] theorem State.cput_pred (s : State) (site pa : Nat) (c : CByte) : (s.cput site pa c).pred = s.pred := rfl
@[simp] theorem State.cput_rcache (s : State) (site pa : Nat) (c : CByte) : (s.cput site pa c).rcache = s.rcache := rfl
@[simp] theorem State.cput_locks (s : State) (site pa : Nat) (c : CByte) : (s.cput site pa c).locks = s.locks := rfl
@[simp] theorem State.cput_jobs (s : State) (site pa : Nat) (c : CByte) : (s.cput site pa c).jobs = s.jobs := rfl
@[simp] theorem State.cput_pfbs (s : State) (site pa : Nat) (c : CByte) : (s.cput site pa c).pfbs = s.pfbs := rfl
@[simp] theorem State.cput_objs (s : State) (site pa : Nat) (c : CByte) : (s.cput site pa c).objs = s.objs := rfl
@[simp] theorem State.cput_fields (s : State) (site pa : Nat) (c : CByte) : (s.cput site pa c).fields = s.fields := rfl
@[simp] theorem State.cput_domains (s : State) (site pa : Nat) (c : CByte) : (s.cput site pa c).domains = s.domains := rfl
@[simp] theorem State.cput_pairs (s : State) (site pa : Nat) (c : CByte) : (s.cput site pa c).pairs = s.pairs := rfl
@[simp] theorem State.cput_returns (s : State) (site pa : Nat) (c : CByte) : (s.cput site pa c).returns = s.returns := rfl
@[simp] theorem State.cput_claims (s : State) (site pa : Nat) (c : CByte) : (s.cput site pa c).claims = s.claims := rfl
@[simp] theorem State.cput_queues (s : State) (site pa : Nat) (c : CByte) : (s.cput site pa c).queues = s.queues := rfl
@[simp] theorem State.cput_served (s : State) (site pa : Nat) (c : CByte) : (s.cput site pa c).served = s.served := rfl
@[simp] theorem State.cput_headAt (s : State) (site pa : Nat) (c : CByte) : (s.cput site pa c).headAt = s.headAt := rfl
@[simp] theorem State.cput_victims (s : State) (site pa : Nat) (c : CByte) : (s.cput site pa c).victims = s.victims := rfl
@[simp] theorem State.cput_bitAt (s : State) (site pa : Nat) (c : CByte) : (s.cput site pa c).bitAt = s.bitAt := rfl
@[simp] theorem State.cput_resumedAt (s : State) (site pa : Nat) (c : CByte) : (s.cput site pa c).resumedAt = s.resumedAt := rfl
@[simp] theorem State.cput_ctxs (s : State) (site pa : Nat) (c : CByte) : (s.cput site pa c).ctxs = s.ctxs := rfl
@[simp] theorem State.cput_inva (s : State) (site pa : Nat) (c : CByte) : (s.cput site pa c).inva = s.inva := rfl
@[simp] theorem State.cput_busy (s : State) (site pa : Nat) (c : CByte) : (s.cput site pa c).busy = s.busy := rfl
@[simp] theorem State.cput_busyCtx (s : State) (site pa : Nat) (c : CByte) : (s.cput site pa c).busyCtx = s.busyCtx := rfl
@[simp] theorem State.cput_busyPage (s : State) (site pa : Nat) (c : CByte) : (s.cput site pa c).busyPage = s.busyPage := rfl
@[simp] theorem State.cput_busyBound (s : State) (site pa : Nat) (c : CByte) : (s.cput site pa c).busyBound = s.busyBound := rfl
@[simp] theorem State.cput_busyFrom (s : State) (site pa : Nat) (c : CByte) : (s.cput site pa c).busyFrom = s.busyFrom := rfl
@[simp] theorem State.cput_busyCst (s : State) (site pa : Nat) (c : CByte) : (s.cput site pa c).busyCst = s.busyCst := rfl
@[simp] theorem State.cput_pctx (s : State) (site pa : Nat) (c : CByte) : (s.cput site pa c).pctx = s.pctx := rfl
@[simp] theorem State.cput_pbusy (s : State) (site pa : Nat) (c : CByte) : (s.cput site pa c).pbusy = s.pbusy := rfl
@[simp] theorem State.cput_tring (s : State) (site pa : Nat) (c : CByte) : (s.cput site pa c).tring = s.tring := rfl
@[simp] theorem State.cput_trpos (s : State) (site pa : Nat) (c : CByte) : (s.cput site pa c).trpos = s.trpos := rfl
@[simp] theorem State.cput_trvec (s : State) (site pa : Nat) (c : CByte) : (s.cput site pa c).trvec = s.trvec := rfl
@[simp] theorem State.cput_msix (s : State) (site pa : Nat) (c : CByte) : (s.cput site pa c).msix = s.msix := rfl
@[simp] theorem State.cput_msixTable (s : State) (site pa : Nat) (c : CByte) : (s.cput site pa c).msixTable = s.msixTable := rfl
@[simp] theorem State.cput_msixPend (s : State) (site pa : Nat) (c : CByte) : (s.cput site pa c).msixPend = s.msixPend := rfl
@[simp] theorem State.cput_hostDir (s : State) (site pa : Nat) (c : CByte) : (s.cput site pa c).hostDir = s.hostDir := rfl
@[simp] theorem State.cput_backInv (s : State) (site pa : Nat) (c : CByte) : (s.cput site pa c).backInv = s.backInv := rfl
@[simp] theorem State.cput_backFull (s : State) (site pa : Nat) (c : CByte) : (s.cput site pa c).backFull = s.backFull := rfl
@[simp] theorem State.cput_backDone (s : State) (site pa : Nat) (c : CByte) : (s.cput site pa c).backDone = s.backDone := rfl
@[simp] theorem State.cput_backTook (s : State) (site pa : Nat) (c : CByte) : (s.cput site pa c).backTook = s.backTook := rfl
@[simp] theorem State.cput_heldHost (s : State) (site pa : Nat) (c : CByte) : (s.cput site pa c).heldHost = s.heldHost := rfl
@[simp] theorem State.cput_heldBar (s : State) (site pa : Nat) (c : CByte) : (s.cput site pa c).heldBar = s.heldBar := rfl
@[simp] theorem State.cput_hostOut (s : State) (site pa : Nat) (c : CByte) : (s.cput site pa c).hostOut = s.hostOut := rfl
@[simp] theorem State.cput_fabid (s : State) (site pa : Nat) (c : CByte) : (s.cput site pa c).fabid = s.fabid := rfl
@[simp] theorem State.cput_members (s : State) (site pa : Nat) (c : CByte) : (s.cput site pa c).members = s.members := rfl
@[simp] theorem State.cput_fabidReg (s : State) (site pa : Nat) (c : CByte) : (s.cput site pa c).fabidReg = s.fabidReg := rfl
@[simp] theorem State.cput_membersReg (s : State) (site pa : Nat) (c : CByte) : (s.cput site pa c).membersReg = s.membersReg := rfl
@[simp] theorem State.cput_mer (s : State) (site pa : Nat) (c : CByte) : (s.cput site pa c).mer = s.mer := rfl
@[simp] theorem State.cput_evring (s : State) (site pa : Nat) (c : CByte) : (s.cput site pa c).evring = s.evring := rfl
@[simp] theorem State.cput_evpos (s : State) (site pa : Nat) (c : CByte) : (s.cput site pa c).evpos = s.evpos := rfl
@[simp] theorem State.cput_evvec (s : State) (site pa : Nat) (c : CByte) : (s.cput site pa c).evvec = s.evvec := rfl
@[simp] theorem State.cput_rethr (s : State) (site pa : Nat) (c : CByte) : (s.cput site pa c).rethr = s.rethr := rfl
@[simp] theorem State.cput_ports (s : State) (site pa : Nat) (c : CByte) : (s.cput site pa c).ports = s.ports := rfl
@[simp] theorem State.cput_reqQueue (s : State) (site pa : Nat) (c : CByte) : (s.cput site pa c).reqQueue = s.reqQueue := rfl
@[simp] theorem State.cput_hostPosted (s : State) (site pa : Nat) (c : CByte) : (s.cput site pa c).hostPosted = s.hostPosted := rfl
@[simp] theorem State.cput_arrived (s : State) (site pa : Nat) (c : CByte) : (s.cput site pa c).arrived = s.arrived := rfl
@[simp] theorem State.cput_evQueue (s : State) (site pa : Nat) (c : CByte) : (s.cput site pa c).evQueue = s.evQueue := rfl
@[simp] theorem State.cput_lit (s : State) (site pa : Nat) (c : CByte) : (s.cput site pa c).lit = s.lit := rfl
@[simp] theorem State.cput_mbox (s : State) (site pa : Nat) (c : CByte) : (s.cput site pa c).mbox = s.mbox := rfl
@[simp] theorem State.cput_power (s : State) (site pa : Nat) (c : CByte) : (s.cput site pa c).power = s.power := rfl
@[simp] theorem State.cput_corrected (s : State) (site pa : Nat) (c : CByte) : (s.cput site pa c).corrected = s.corrected := rfl
@[simp] theorem State.cput_uncorrected (s : State) (site pa : Nat) (c : CByte) : (s.cput site pa c).uncorrected = s.uncorrected := rfl
@[simp] theorem State.cput_firmware (s : State) (site pa : Nat) (c : CByte) : (s.cput site pa c).firmware = s.firmware := rfl
@[simp] theorem State.cput_spdmOut (s : State) (site pa : Nat) (c : CByte) : (s.cput site pa c).spdmOut = s.spdmOut := rfl

/-! ### State.cdel -/
@[simp] theorem State.cdel_absent (s : State) (site pa : Nat) : (s.cdel site pa).absent = s.absent := rfl
@[simp] theorem State.cdel_conflict (s : State) (site pa : Nat) : (s.cdel site pa).conflict = s.conflict := rfl
@[simp] theorem State.cdel_unready (s : State) (site pa : Nat) : (s.cdel site pa).unready = s.unready := rfl
@[simp] theorem State.cdel_askOwn (s : State) (site pa : Nat) : (s.cdel site pa).askOwn = s.askOwn := rfl
@[simp] theorem State.cdel_askRead (s : State) (site pa : Nat) : (s.cdel site pa).askRead = s.askRead := rfl
@[simp] theorem State.cdel_gotRead (s : State) (site pa : Nat) : (s.cdel site pa).gotRead = s.gotRead := rfl
@[simp] theorem State.cdel_wrote (s : State) (site pa : Nat) : (s.cdel site pa).wrote = s.wrote := rfl
@[simp] theorem State.cdel_writer (s : State) (site pa : Nat) : (s.cdel site pa).writer = s.writer := rfl
@[simp] theorem State.cdel_nodeData (s : State) (site pa : Nat) : (s.cdel site pa).nodeData = s.nodeData := rfl
@[simp] theorem State.cdel_agenda (s : State) (site pa : Nat) : (s.cdel site pa).agenda = s.agenda := rfl
@[simp] theorem State.cdel_tick (s : State) (site pa : Nat) : (s.cdel site pa).tick = s.tick := rfl
@[simp] theorem State.cdel_fresh (s : State) (site pa : Nat) : (s.cdel site pa).fresh = s.fresh := rfl
@[simp] theorem State.cdel_nextId (s : State) (site pa : Nat) : (s.cdel site pa).nextId = s.nextId := rfl
@[simp] theorem State.cdel_cur (s : State) (site pa : Nat) : (s.cdel site pa).cur = s.cur := rfl
@[simp] theorem State.cdel_cycle (s : State) (site pa : Nat) : (s.cdel site pa).cycle = s.cycle := rfl
@[simp] theorem State.cdel_ready (s : State) (site pa : Nat) : (s.cdel site pa).ready = s.ready := rfl
@[simp] theorem State.cdel_readyAt (s : State) (site pa : Nat) : (s.cdel site pa).readyAt = s.readyAt := rfl
@[simp] theorem State.cdel_lastBit (s : State) (site pa : Nat) : (s.cdel site pa).lastBit = s.lastBit := rfl
@[simp] theorem State.cdel_nextUnit (s : State) (site pa : Nat) : (s.cdel site pa).nextUnit = s.nextUnit := rfl
@[simp] theorem State.cdel_selfTest (s : State) (site pa : Nat) : (s.cdel site pa).selfTest = s.selfTest := rfl
@[simp] theorem State.cdel_syscap (s : State) (site pa : Nat) : (s.cdel site pa).syscap = s.syscap := rfl
@[simp] theorem State.cdel_mem (s : State) (site pa : Nat) : (s.cdel site pa).mem = s.mem := rfl
@[simp] theorem State.cdel_cache (s : State) (site pa : Nat) : (s.cdel site pa).cache = ddel s.cache (cacheKey site pa) := rfl
@[simp] theorem State.cdel_marks (s : State) (site pa : Nat) : (s.cdel site pa).marks = s.marks := rfl
@[simp] theorem State.cdel_tlb (s : State) (site pa : Nat) : (s.cdel site pa).tlb = s.tlb := rfl
@[simp] theorem State.cdel_groups (s : State) (site pa : Nat) : (s.cdel site pa).groups = s.groups := rfl
@[simp] theorem State.cdel_teams (s : State) (site pa : Nat) : (s.cdel site pa).teams = s.teams := rfl
@[simp] theorem State.cdel_grids (s : State) (site pa : Nat) : (s.cdel site pa).grids = s.grids := rfl
@[simp] theorem State.cdel_bars (s : State) (site pa : Nat) : (s.cdel site pa).bars = s.bars := rfl
@[simp] theorem State.cdel_startedAt (s : State) (site pa : Nat) : (s.cdel site pa).startedAt = s.startedAt := rfl
@[simp] theorem State.cdel_portAt (s : State) (site pa : Nat) : (s.cdel site pa).portAt = s.portAt := rfl
@[simp] theorem State.cdel_slotFree (s : State) (site pa : Nat) : (s.cdel site pa).slotFree = s.slotFree := rfl
@[simp] theorem State.cdel_pred (s : State) (site pa : Nat) : (s.cdel site pa).pred = s.pred := rfl
@[simp] theorem State.cdel_rcache (s : State) (site pa : Nat) : (s.cdel site pa).rcache = s.rcache := rfl
@[simp] theorem State.cdel_locks (s : State) (site pa : Nat) : (s.cdel site pa).locks = s.locks := rfl
@[simp] theorem State.cdel_jobs (s : State) (site pa : Nat) : (s.cdel site pa).jobs = s.jobs := rfl
@[simp] theorem State.cdel_pfbs (s : State) (site pa : Nat) : (s.cdel site pa).pfbs = s.pfbs := rfl
@[simp] theorem State.cdel_objs (s : State) (site pa : Nat) : (s.cdel site pa).objs = s.objs := rfl
@[simp] theorem State.cdel_fields (s : State) (site pa : Nat) : (s.cdel site pa).fields = s.fields := rfl
@[simp] theorem State.cdel_domains (s : State) (site pa : Nat) : (s.cdel site pa).domains = s.domains := rfl
@[simp] theorem State.cdel_pairs (s : State) (site pa : Nat) : (s.cdel site pa).pairs = s.pairs := rfl
@[simp] theorem State.cdel_returns (s : State) (site pa : Nat) : (s.cdel site pa).returns = s.returns := rfl
@[simp] theorem State.cdel_claims (s : State) (site pa : Nat) : (s.cdel site pa).claims = s.claims := rfl
@[simp] theorem State.cdel_queues (s : State) (site pa : Nat) : (s.cdel site pa).queues = s.queues := rfl
@[simp] theorem State.cdel_served (s : State) (site pa : Nat) : (s.cdel site pa).served = s.served := rfl
@[simp] theorem State.cdel_headAt (s : State) (site pa : Nat) : (s.cdel site pa).headAt = s.headAt := rfl
@[simp] theorem State.cdel_victims (s : State) (site pa : Nat) : (s.cdel site pa).victims = s.victims := rfl
@[simp] theorem State.cdel_bitAt (s : State) (site pa : Nat) : (s.cdel site pa).bitAt = s.bitAt := rfl
@[simp] theorem State.cdel_resumedAt (s : State) (site pa : Nat) : (s.cdel site pa).resumedAt = s.resumedAt := rfl
@[simp] theorem State.cdel_ctxs (s : State) (site pa : Nat) : (s.cdel site pa).ctxs = s.ctxs := rfl
@[simp] theorem State.cdel_inva (s : State) (site pa : Nat) : (s.cdel site pa).inva = s.inva := rfl
@[simp] theorem State.cdel_busy (s : State) (site pa : Nat) : (s.cdel site pa).busy = s.busy := rfl
@[simp] theorem State.cdel_busyCtx (s : State) (site pa : Nat) : (s.cdel site pa).busyCtx = s.busyCtx := rfl
@[simp] theorem State.cdel_busyPage (s : State) (site pa : Nat) : (s.cdel site pa).busyPage = s.busyPage := rfl
@[simp] theorem State.cdel_busyBound (s : State) (site pa : Nat) : (s.cdel site pa).busyBound = s.busyBound := rfl
@[simp] theorem State.cdel_busyFrom (s : State) (site pa : Nat) : (s.cdel site pa).busyFrom = s.busyFrom := rfl
@[simp] theorem State.cdel_busyCst (s : State) (site pa : Nat) : (s.cdel site pa).busyCst = s.busyCst := rfl
@[simp] theorem State.cdel_pctx (s : State) (site pa : Nat) : (s.cdel site pa).pctx = s.pctx := rfl
@[simp] theorem State.cdel_pbusy (s : State) (site pa : Nat) : (s.cdel site pa).pbusy = s.pbusy := rfl
@[simp] theorem State.cdel_tring (s : State) (site pa : Nat) : (s.cdel site pa).tring = s.tring := rfl
@[simp] theorem State.cdel_trpos (s : State) (site pa : Nat) : (s.cdel site pa).trpos = s.trpos := rfl
@[simp] theorem State.cdel_trvec (s : State) (site pa : Nat) : (s.cdel site pa).trvec = s.trvec := rfl
@[simp] theorem State.cdel_msix (s : State) (site pa : Nat) : (s.cdel site pa).msix = s.msix := rfl
@[simp] theorem State.cdel_msixTable (s : State) (site pa : Nat) : (s.cdel site pa).msixTable = s.msixTable := rfl
@[simp] theorem State.cdel_msixPend (s : State) (site pa : Nat) : (s.cdel site pa).msixPend = s.msixPend := rfl
@[simp] theorem State.cdel_hostDir (s : State) (site pa : Nat) : (s.cdel site pa).hostDir = s.hostDir := rfl
@[simp] theorem State.cdel_backInv (s : State) (site pa : Nat) : (s.cdel site pa).backInv = s.backInv := rfl
@[simp] theorem State.cdel_backFull (s : State) (site pa : Nat) : (s.cdel site pa).backFull = s.backFull := rfl
@[simp] theorem State.cdel_backDone (s : State) (site pa : Nat) : (s.cdel site pa).backDone = s.backDone := rfl
@[simp] theorem State.cdel_backTook (s : State) (site pa : Nat) : (s.cdel site pa).backTook = s.backTook := rfl
@[simp] theorem State.cdel_heldHost (s : State) (site pa : Nat) : (s.cdel site pa).heldHost = s.heldHost := rfl
@[simp] theorem State.cdel_heldBar (s : State) (site pa : Nat) : (s.cdel site pa).heldBar = s.heldBar := rfl
@[simp] theorem State.cdel_hostOut (s : State) (site pa : Nat) : (s.cdel site pa).hostOut = s.hostOut := rfl
@[simp] theorem State.cdel_fabid (s : State) (site pa : Nat) : (s.cdel site pa).fabid = s.fabid := rfl
@[simp] theorem State.cdel_members (s : State) (site pa : Nat) : (s.cdel site pa).members = s.members := rfl
@[simp] theorem State.cdel_fabidReg (s : State) (site pa : Nat) : (s.cdel site pa).fabidReg = s.fabidReg := rfl
@[simp] theorem State.cdel_membersReg (s : State) (site pa : Nat) : (s.cdel site pa).membersReg = s.membersReg := rfl
@[simp] theorem State.cdel_mer (s : State) (site pa : Nat) : (s.cdel site pa).mer = s.mer := rfl
@[simp] theorem State.cdel_evring (s : State) (site pa : Nat) : (s.cdel site pa).evring = s.evring := rfl
@[simp] theorem State.cdel_evpos (s : State) (site pa : Nat) : (s.cdel site pa).evpos = s.evpos := rfl
@[simp] theorem State.cdel_evvec (s : State) (site pa : Nat) : (s.cdel site pa).evvec = s.evvec := rfl
@[simp] theorem State.cdel_rethr (s : State) (site pa : Nat) : (s.cdel site pa).rethr = s.rethr := rfl
@[simp] theorem State.cdel_ports (s : State) (site pa : Nat) : (s.cdel site pa).ports = s.ports := rfl
@[simp] theorem State.cdel_reqQueue (s : State) (site pa : Nat) : (s.cdel site pa).reqQueue = s.reqQueue := rfl
@[simp] theorem State.cdel_hostPosted (s : State) (site pa : Nat) : (s.cdel site pa).hostPosted = s.hostPosted := rfl
@[simp] theorem State.cdel_arrived (s : State) (site pa : Nat) : (s.cdel site pa).arrived = s.arrived := rfl
@[simp] theorem State.cdel_evQueue (s : State) (site pa : Nat) : (s.cdel site pa).evQueue = s.evQueue := rfl
@[simp] theorem State.cdel_lit (s : State) (site pa : Nat) : (s.cdel site pa).lit = s.lit := rfl
@[simp] theorem State.cdel_mbox (s : State) (site pa : Nat) : (s.cdel site pa).mbox = s.mbox := rfl
@[simp] theorem State.cdel_power (s : State) (site pa : Nat) : (s.cdel site pa).power = s.power := rfl
@[simp] theorem State.cdel_corrected (s : State) (site pa : Nat) : (s.cdel site pa).corrected = s.corrected := rfl
@[simp] theorem State.cdel_uncorrected (s : State) (site pa : Nat) : (s.cdel site pa).uncorrected = s.uncorrected := rfl
@[simp] theorem State.cdel_firmware (s : State) (site pa : Nat) : (s.cdel site pa).firmware = s.firmware := rfl
@[simp] theorem State.cdel_spdmOut (s : State) (site pa : Nat) : (s.cdel site pa).spdmOut = s.spdmOut := rfl

/-! ### Group.setVreg -/
@[simp] theorem Group.setVreg_team (g : Group) (n : Nat) (m : Mask) (l : Line) : (g.setVreg n m l).team = g.team := rfl
@[simp] theorem Group.setVreg_g (g : Group) (n : Nat) (m : Mask) (l : Line) : (g.setVreg n m l).g = g.g := rfl
@[simp] theorem Group.setVreg_gridKey (g : Group) (n : Nat) (m : Mask) (l : Line) : (g.setVreg n m l).gridKey = g.gridKey := rfl
@[simp] theorem Group.setVreg_ctx (g : Group) (n : Nat) (m : Mask) (l : Line) : (g.setVreg n m l).ctx = g.ctx := rfl
@[simp] theorem Group.setVreg_gridId (g : Group) (n : Nat) (m : Mask) (l : Line) : (g.setVreg n m l).gridId = g.gridId := rfl
@[simp] theorem Group.setVreg_linear (g : Group) (n : Nat) (m : Mask) (l : Line) : (g.setVreg n m l).linear = g.linear := rfl
@[simp] theorem Group.setVreg_teamId (g : Group) (n : Nat) (m : Mask) (l : Line) : (g.setVreg n m l).teamId = g.teamId := rfl
@[simp] theorem Group.setVreg_consumer (g : Group) (n : Nat) (m : Mask) (l : Line) : (g.setVreg n m l).consumer = g.consumer := rfl
@[simp] theorem Group.setVreg_ridx (g : Group) (n : Nat) (m : Mask) (l : Line) : (g.setVreg n m l).ridx = g.ridx := rfl
@[simp] theorem Group.setVreg_tcore (g : Group) (n : Nat) (m : Mask) (l : Line) : (g.setVreg n m l).tcore = g.tcore := rfl
@[simp] theorem Group.setVreg_part (g : Group) (n : Nat) (m : Mask) (l : Line) : (g.setVreg n m l).part = g.part := rfl
@[simp] theorem Group.setVreg_resident (g : Group) (n : Nat) (m : Mask) (l : Line) : (g.setVreg n m l).resident = g.resident := rfl
@[simp] theorem Group.setVreg_closedAt (g : Group) (n : Nat) (m : Mask) (l : Line) : (g.setVreg n m l).closedAt = g.closedAt := rfl
@[simp] theorem Group.setVreg_lastExit (g : Group) (n : Nat) (m : Mask) (l : Line) : (g.setVreg n m l).lastExit = g.lastExit := rfl
@[simp] theorem Group.setVreg_budget (g : Group) (n : Nat) (m : Mask) (l : Line) : (g.setVreg n m l).budget = g.budget := rfl
@[simp] theorem Group.setVreg_seed (g : Group) (n : Nat) (m : Mask) (l : Line) : (g.setVreg n m l).seed = g.seed := rfl
@[simp] theorem Group.setVreg_det (g : Group) (n : Nat) (m : Mask) (l : Line) : (g.setVreg n m l).det = g.det := rfl
@[simp] theorem Group.setVreg_started (g : Group) (n : Nat) (m : Mask) (l : Line) : (g.setVreg n m l).started = g.started := rfl
@[simp] theorem Group.setVreg_sregs (g : Group) (n : Nat) (m : Mask) (l : Line) : (g.setVreg n m l).sregs = g.sregs := rfl
@[simp] theorem Group.setVreg_preds (g : Group) (n : Nat) (m : Mask) (l : Line) : (g.setVreg n m l).preds = g.preds := rfl
@[simp] theorem Group.setVreg_supS (g : Group) (n : Nat) (m : Mask) (l : Line) : (g.setVreg n m l).supS = g.supS := rfl
@[simp] theorem Group.setVreg_supP7 (g : Group) (n : Nat) (m : Mask) (l : Line) : (g.setVreg n m l).supP7 = g.supP7 := rfl
@[simp] theorem Group.setVreg_flags (g : Group) (n : Nat) (m : Mask) (l : Line) : (g.setVreg n m l).flags = g.flags := rfl
@[simp] theorem Group.setVreg_flagsPrev (g : Group) (n : Nat) (m : Mask) (l : Line) : (g.setVreg n m l).flagsPrev = g.flagsPrev := rfl
@[simp] theorem Group.setVreg_scaAt (g : Group) (n : Nat) (m : Mask) (l : Line) : (g.setVreg n m l).scaAt = g.scaAt := rfl
@[simp] theorem Group.setVreg_mode (g : Group) (n : Nat) (m : Mask) (l : Line) : (g.setVreg n m l).mode = g.mode := rfl
@[simp] theorem Group.setVreg_dix (g : Group) (n : Nat) (m : Mask) (l : Line) : (g.setVreg n m l).dix = g.dix := rfl
@[simp] theorem Group.setVreg_lclk (g : Group) (n : Nat) (m : Mask) (l : Line) : (g.setVreg n m l).lclk = g.lclk := rfl
@[simp] theorem Group.setVreg_faddr (g : Group) (n : Nat) (m : Mask) (l : Line) : (g.setVreg n m l).faddr = g.faddr := rfl
@[simp] theorem Group.setVreg_xmask (g : Group) (n : Nat) (m : Mask) (l : Line) : (g.setVreg n m l).xmask = g.xmask := rfl
@[simp] theorem Group.setVreg_mphit (g : Group) (n : Nat) (m : Mask) (l : Line) : (g.setVreg n m l).mphit = g.mphit := rfl
@[simp] theorem Group.setVreg_mpmiss (g : Group) (n : Nat) (m : Mask) (l : Line) : (g.setVreg n m l).mpmiss = g.mpmiss := rfl
@[simp] theorem Group.setVreg_mpreplay (g : Group) (n : Nat) (m : Mask) (l : Line) : (g.setVreg n m l).mpreplay = g.mpreplay := rfl
@[simp] theorem Group.setVreg_slot0 (g : Group) (n : Nat) (m : Mask) (l : Line) : (g.setVreg n m l).slot0 = g.slot0 := rfl
@[simp] theorem Group.setVreg_slot1 (g : Group) (n : Nat) (m : Mask) (l : Line) : (g.setVreg n m l).slot1 = g.slot1 := rfl
@[simp] theorem Group.setVreg_first (g : Group) (n : Nat) (m : Mask) (l : Line) : (g.setVreg n m l).first = g.first := rfl
@[simp] theorem Group.setVreg_wasFirst (g : Group) (n : Nat) (m : Mask) (l : Line) : (g.setVreg n m l).wasFirst = g.wasFirst := rfl
@[simp] theorem Group.setVreg_spill (g : Group) (n : Nat) (m : Mask) (l : Line) : (g.setVreg n m l).spill = g.spill := rfl
@[simp] theorem Group.setVreg_floor (g : Group) (n : Nat) (m : Mask) (l : Line) : (g.setVreg n m l).floor = g.floor := rfl
@[simp] theorem Group.setVreg_poppedAt (g : Group) (n : Nat) (m : Mask) (l : Line) : (g.setVreg n m l).poppedAt = g.poppedAt := rfl
@[simp] theorem Group.setVreg_supervisor (g : Group) (n : Nat) (m : Mask) (l : Line) : (g.setVreg n m l).supervisor = g.supervisor := rfl
@[simp] theorem Group.setVreg_tr (g : Group) (n : Nat) (m : Mask) (l : Line) : (g.setVreg n m l).tr = g.tr := rfl
@[simp] theorem Group.setVreg_trapReq (g : Group) (n : Nat) (m : Mask) (l : Line) : (g.setVreg n m l).trapReq = g.trapReq := rfl
@[simp] theorem Group.setVreg_harea (g : Group) (n : Nat) (m : Mask) (l : Line) : (g.setVreg n m l).harea = g.harea := rfl
@[simp] theorem Group.setVreg_yieldAt (g : Group) (n : Nat) (m : Mask) (l : Line) : (g.setVreg n m l).yieldAt = g.yieldAt := rfl
@[simp] theorem Group.setVreg_parked (g : Group) (n : Nat) (m : Mask) (l : Line) : (g.setVreg n m l).parked = g.parked := rfl
@[simp] theorem Group.setVreg_posted (g : Group) (n : Nat) (m : Mask) (l : Line) : (g.setVreg n m l).posted = g.posted := rfl
@[simp] theorem Group.setVreg_refusals (g : Group) (n : Nat) (m : Mask) (l : Line) : (g.setVreg n m l).refusals = g.refusals := rfl
@[simp] theorem Group.setVreg_curRefusal (g : Group) (n : Nat) (m : Mask) (l : Line) : (g.setVreg n m l).curRefusal = g.curRefusal := rfl
@[simp] theorem Group.setVreg_results (g : Group) (n : Nat) (m : Mask) (l : Line) : (g.setVreg n m l).results = g.results := rfl
@[simp] theorem Group.setVreg_counts (g : Group) (n : Nat) (m : Mask) (l : Line) : (g.setVreg n m l).counts = g.counts := rfl
@[simp] theorem Group.setVreg_ops (g : Group) (n : Nat) (m : Mask) (l : Line) : (g.setVreg n m l).ops = g.ops := rfl
@[simp] theorem Group.setVreg_spec (g : Group) (n : Nat) (m : Mask) (l : Line) : (g.setVreg n m l).spec = g.spec := rfl
@[simp] theorem Group.setVreg_brine (g : Group) (n : Nat) (m : Mask) (l : Line) : (g.setVreg n m l).brine = g.brine := rfl
@[simp] theorem Group.setVreg_met (g : Group) (n : Nat) (m : Mask) (l : Line) : (g.setVreg n m l).met = g.met := rfl
@[simp] theorem Group.setVreg_stopped (g : Group) (n : Nat) (m : Mask) (l : Line) : (g.setVreg n m l).stopped = g.stopped := rfl
@[simp] theorem Group.setVreg_matrixTraps (g : Group) (n : Nat) (m : Mask) (l : Line) : (g.setVreg n m l).matrixTraps = g.matrixTraps := rfl
@[simp] theorem Group.setVreg_lastPage (g : Group) (n : Nat) (m : Mask) (l : Line) : (g.setVreg n m l).lastPage = g.lastPage := rfl

/-! ### Group.setFlag -/
@[simp] theorem Group.setFlag_team (g : Group) (n x : Nat) : (g.setFlag n x).team = g.team := rfl
@[simp] theorem Group.setFlag_g (g : Group) (n x : Nat) : (g.setFlag n x).g = g.g := rfl
@[simp] theorem Group.setFlag_gridKey (g : Group) (n x : Nat) : (g.setFlag n x).gridKey = g.gridKey := rfl
@[simp] theorem Group.setFlag_ctx (g : Group) (n x : Nat) : (g.setFlag n x).ctx = g.ctx := rfl
@[simp] theorem Group.setFlag_gridId (g : Group) (n x : Nat) : (g.setFlag n x).gridId = g.gridId := rfl
@[simp] theorem Group.setFlag_linear (g : Group) (n x : Nat) : (g.setFlag n x).linear = g.linear := rfl
@[simp] theorem Group.setFlag_teamId (g : Group) (n x : Nat) : (g.setFlag n x).teamId = g.teamId := rfl
@[simp] theorem Group.setFlag_consumer (g : Group) (n x : Nat) : (g.setFlag n x).consumer = g.consumer := rfl
@[simp] theorem Group.setFlag_ridx (g : Group) (n x : Nat) : (g.setFlag n x).ridx = g.ridx := rfl
@[simp] theorem Group.setFlag_tcore (g : Group) (n x : Nat) : (g.setFlag n x).tcore = g.tcore := rfl
@[simp] theorem Group.setFlag_part (g : Group) (n x : Nat) : (g.setFlag n x).part = g.part := rfl
@[simp] theorem Group.setFlag_resident (g : Group) (n x : Nat) : (g.setFlag n x).resident = g.resident := rfl
@[simp] theorem Group.setFlag_closedAt (g : Group) (n x : Nat) : (g.setFlag n x).closedAt = g.closedAt := rfl
@[simp] theorem Group.setFlag_lastExit (g : Group) (n x : Nat) : (g.setFlag n x).lastExit = g.lastExit := rfl
@[simp] theorem Group.setFlag_budget (g : Group) (n x : Nat) : (g.setFlag n x).budget = g.budget := rfl
@[simp] theorem Group.setFlag_seed (g : Group) (n x : Nat) : (g.setFlag n x).seed = g.seed := rfl
@[simp] theorem Group.setFlag_det (g : Group) (n x : Nat) : (g.setFlag n x).det = g.det := rfl
@[simp] theorem Group.setFlag_started (g : Group) (n x : Nat) : (g.setFlag n x).started = g.started := rfl
@[simp] theorem Group.setFlag_vregs (g : Group) (n x : Nat) : (g.setFlag n x).vregs = g.vregs := rfl
@[simp] theorem Group.setFlag_written (g : Group) (n x : Nat) : (g.setFlag n x).written = g.written := rfl
@[simp] theorem Group.setFlag_sregs (g : Group) (n x : Nat) : (g.setFlag n x).sregs = g.sregs := rfl
@[simp] theorem Group.setFlag_preds (g : Group) (n x : Nat) : (g.setFlag n x).preds = g.preds := rfl
@[simp] theorem Group.setFlag_supS (g : Group) (n x : Nat) : (g.setFlag n x).supS = g.supS := rfl
@[simp] theorem Group.setFlag_supP7 (g : Group) (n x : Nat) : (g.setFlag n x).supP7 = g.supP7 := rfl
@[simp] theorem Group.setFlag_flags (g : Group) (n x : Nat) : (g.setFlag n x).flags = tset 0 g.flags n x := rfl
@[simp] theorem Group.setFlag_flagsPrev (g : Group) (n x : Nat) : (g.setFlag n x).flagsPrev = g.flagsPrev := rfl
@[simp] theorem Group.setFlag_scaAt (g : Group) (n x : Nat) : (g.setFlag n x).scaAt = g.scaAt := rfl
@[simp] theorem Group.setFlag_mode (g : Group) (n x : Nat) : (g.setFlag n x).mode = g.mode := rfl
@[simp] theorem Group.setFlag_dix (g : Group) (n x : Nat) : (g.setFlag n x).dix = g.dix := rfl
@[simp] theorem Group.setFlag_lclk (g : Group) (n x : Nat) : (g.setFlag n x).lclk = g.lclk := rfl
@[simp] theorem Group.setFlag_faddr (g : Group) (n x : Nat) : (g.setFlag n x).faddr = g.faddr := rfl
@[simp] theorem Group.setFlag_xmask (g : Group) (n x : Nat) : (g.setFlag n x).xmask = g.xmask := rfl
@[simp] theorem Group.setFlag_mphit (g : Group) (n x : Nat) : (g.setFlag n x).mphit = g.mphit := rfl
@[simp] theorem Group.setFlag_mpmiss (g : Group) (n x : Nat) : (g.setFlag n x).mpmiss = g.mpmiss := rfl
@[simp] theorem Group.setFlag_mpreplay (g : Group) (n x : Nat) : (g.setFlag n x).mpreplay = g.mpreplay := rfl
@[simp] theorem Group.setFlag_slot0 (g : Group) (n x : Nat) : (g.setFlag n x).slot0 = g.slot0 := rfl
@[simp] theorem Group.setFlag_slot1 (g : Group) (n x : Nat) : (g.setFlag n x).slot1 = g.slot1 := rfl
@[simp] theorem Group.setFlag_first (g : Group) (n x : Nat) : (g.setFlag n x).first = g.first := rfl
@[simp] theorem Group.setFlag_wasFirst (g : Group) (n x : Nat) : (g.setFlag n x).wasFirst = g.wasFirst := rfl
@[simp] theorem Group.setFlag_spill (g : Group) (n x : Nat) : (g.setFlag n x).spill = g.spill := rfl
@[simp] theorem Group.setFlag_floor (g : Group) (n x : Nat) : (g.setFlag n x).floor = g.floor := rfl
@[simp] theorem Group.setFlag_poppedAt (g : Group) (n x : Nat) : (g.setFlag n x).poppedAt = g.poppedAt := rfl
@[simp] theorem Group.setFlag_supervisor (g : Group) (n x : Nat) : (g.setFlag n x).supervisor = g.supervisor := rfl
@[simp] theorem Group.setFlag_tr (g : Group) (n x : Nat) : (g.setFlag n x).tr = g.tr := rfl
@[simp] theorem Group.setFlag_trapReq (g : Group) (n x : Nat) : (g.setFlag n x).trapReq = g.trapReq := rfl
@[simp] theorem Group.setFlag_harea (g : Group) (n x : Nat) : (g.setFlag n x).harea = g.harea := rfl
@[simp] theorem Group.setFlag_yieldAt (g : Group) (n x : Nat) : (g.setFlag n x).yieldAt = g.yieldAt := rfl
@[simp] theorem Group.setFlag_parked (g : Group) (n x : Nat) : (g.setFlag n x).parked = g.parked := rfl
@[simp] theorem Group.setFlag_posted (g : Group) (n x : Nat) : (g.setFlag n x).posted = g.posted := rfl
@[simp] theorem Group.setFlag_refusals (g : Group) (n x : Nat) : (g.setFlag n x).refusals = g.refusals := rfl
@[simp] theorem Group.setFlag_curRefusal (g : Group) (n x : Nat) : (g.setFlag n x).curRefusal = g.curRefusal := rfl
@[simp] theorem Group.setFlag_results (g : Group) (n x : Nat) : (g.setFlag n x).results = g.results := rfl
@[simp] theorem Group.setFlag_counts (g : Group) (n x : Nat) : (g.setFlag n x).counts = g.counts := rfl
@[simp] theorem Group.setFlag_ops (g : Group) (n x : Nat) : (g.setFlag n x).ops = g.ops := rfl
@[simp] theorem Group.setFlag_spec (g : Group) (n x : Nat) : (g.setFlag n x).spec = g.spec := rfl
@[simp] theorem Group.setFlag_brine (g : Group) (n x : Nat) : (g.setFlag n x).brine = g.brine := rfl
@[simp] theorem Group.setFlag_met (g : Group) (n x : Nat) : (g.setFlag n x).met = g.met := rfl
@[simp] theorem Group.setFlag_stopped (g : Group) (n x : Nat) : (g.setFlag n x).stopped = g.stopped := rfl
@[simp] theorem Group.setFlag_matrixTraps (g : Group) (n x : Nat) : (g.setFlag n x).matrixTraps = g.matrixTraps := rfl
@[simp] theorem Group.setFlag_lastPage (g : Group) (n x : Nat) : (g.setFlag n x).lastPage = g.lastPage := rfl

/-! ### Group.setSlot -/
@[simp] theorem Group.setSlot_team (g : Group) (k : Nat) (x : Slot) : (g.setSlot k x).team = g.team := by
  unfold Group.setSlot; split <;> rfl
@[simp] theorem Group.setSlot_g (g : Group) (k : Nat) (x : Slot) : (g.setSlot k x).g = g.g := by
  unfold Group.setSlot; split <;> rfl
@[simp] theorem Group.setSlot_gridKey (g : Group) (k : Nat) (x : Slot) : (g.setSlot k x).gridKey = g.gridKey := by
  unfold Group.setSlot; split <;> rfl
@[simp] theorem Group.setSlot_ctx (g : Group) (k : Nat) (x : Slot) : (g.setSlot k x).ctx = g.ctx := by
  unfold Group.setSlot; split <;> rfl
@[simp] theorem Group.setSlot_gridId (g : Group) (k : Nat) (x : Slot) : (g.setSlot k x).gridId = g.gridId := by
  unfold Group.setSlot; split <;> rfl
@[simp] theorem Group.setSlot_linear (g : Group) (k : Nat) (x : Slot) : (g.setSlot k x).linear = g.linear := by
  unfold Group.setSlot; split <;> rfl
@[simp] theorem Group.setSlot_teamId (g : Group) (k : Nat) (x : Slot) : (g.setSlot k x).teamId = g.teamId := by
  unfold Group.setSlot; split <;> rfl
@[simp] theorem Group.setSlot_consumer (g : Group) (k : Nat) (x : Slot) : (g.setSlot k x).consumer = g.consumer := by
  unfold Group.setSlot; split <;> rfl
@[simp] theorem Group.setSlot_ridx (g : Group) (k : Nat) (x : Slot) : (g.setSlot k x).ridx = g.ridx := by
  unfold Group.setSlot; split <;> rfl
@[simp] theorem Group.setSlot_tcore (g : Group) (k : Nat) (x : Slot) : (g.setSlot k x).tcore = g.tcore := by
  unfold Group.setSlot; split <;> rfl
@[simp] theorem Group.setSlot_part (g : Group) (k : Nat) (x : Slot) : (g.setSlot k x).part = g.part := by
  unfold Group.setSlot; split <;> rfl
@[simp] theorem Group.setSlot_resident (g : Group) (k : Nat) (x : Slot) : (g.setSlot k x).resident = g.resident := by
  unfold Group.setSlot; split <;> rfl
@[simp] theorem Group.setSlot_closedAt (g : Group) (k : Nat) (x : Slot) : (g.setSlot k x).closedAt = g.closedAt := by
  unfold Group.setSlot; split <;> rfl
@[simp] theorem Group.setSlot_lastExit (g : Group) (k : Nat) (x : Slot) : (g.setSlot k x).lastExit = g.lastExit := by
  unfold Group.setSlot; split <;> rfl
@[simp] theorem Group.setSlot_budget (g : Group) (k : Nat) (x : Slot) : (g.setSlot k x).budget = g.budget := by
  unfold Group.setSlot; split <;> rfl
@[simp] theorem Group.setSlot_seed (g : Group) (k : Nat) (x : Slot) : (g.setSlot k x).seed = g.seed := by
  unfold Group.setSlot; split <;> rfl
@[simp] theorem Group.setSlot_det (g : Group) (k : Nat) (x : Slot) : (g.setSlot k x).det = g.det := by
  unfold Group.setSlot; split <;> rfl
@[simp] theorem Group.setSlot_started (g : Group) (k : Nat) (x : Slot) : (g.setSlot k x).started = g.started := by
  unfold Group.setSlot; split <;> rfl
@[simp] theorem Group.setSlot_vregs (g : Group) (k : Nat) (x : Slot) : (g.setSlot k x).vregs = g.vregs := by
  unfold Group.setSlot; split <;> rfl
@[simp] theorem Group.setSlot_written (g : Group) (k : Nat) (x : Slot) : (g.setSlot k x).written = g.written := by
  unfold Group.setSlot; split <;> rfl
@[simp] theorem Group.setSlot_sregs (g : Group) (k : Nat) (x : Slot) : (g.setSlot k x).sregs = g.sregs := by
  unfold Group.setSlot; split <;> rfl
@[simp] theorem Group.setSlot_preds (g : Group) (k : Nat) (x : Slot) : (g.setSlot k x).preds = g.preds := by
  unfold Group.setSlot; split <;> rfl
@[simp] theorem Group.setSlot_supS (g : Group) (k : Nat) (x : Slot) : (g.setSlot k x).supS = g.supS := by
  unfold Group.setSlot; split <;> rfl
@[simp] theorem Group.setSlot_supP7 (g : Group) (k : Nat) (x : Slot) : (g.setSlot k x).supP7 = g.supP7 := by
  unfold Group.setSlot; split <;> rfl
@[simp] theorem Group.setSlot_flags (g : Group) (k : Nat) (x : Slot) : (g.setSlot k x).flags = g.flags := by
  unfold Group.setSlot; split <;> rfl
@[simp] theorem Group.setSlot_flagsPrev (g : Group) (k : Nat) (x : Slot) : (g.setSlot k x).flagsPrev = g.flagsPrev := by
  unfold Group.setSlot; split <;> rfl
@[simp] theorem Group.setSlot_scaAt (g : Group) (k : Nat) (x : Slot) : (g.setSlot k x).scaAt = g.scaAt := by
  unfold Group.setSlot; split <;> rfl
@[simp] theorem Group.setSlot_mode (g : Group) (k : Nat) (x : Slot) : (g.setSlot k x).mode = g.mode := by
  unfold Group.setSlot; split <;> rfl
@[simp] theorem Group.setSlot_dix (g : Group) (k : Nat) (x : Slot) : (g.setSlot k x).dix = g.dix := by
  unfold Group.setSlot; split <;> rfl
@[simp] theorem Group.setSlot_lclk (g : Group) (k : Nat) (x : Slot) : (g.setSlot k x).lclk = g.lclk := by
  unfold Group.setSlot; split <;> rfl
@[simp] theorem Group.setSlot_faddr (g : Group) (k : Nat) (x : Slot) : (g.setSlot k x).faddr = g.faddr := by
  unfold Group.setSlot; split <;> rfl
@[simp] theorem Group.setSlot_xmask (g : Group) (k : Nat) (x : Slot) : (g.setSlot k x).xmask = g.xmask := by
  unfold Group.setSlot; split <;> rfl
@[simp] theorem Group.setSlot_mphit (g : Group) (k : Nat) (x : Slot) : (g.setSlot k x).mphit = g.mphit := by
  unfold Group.setSlot; split <;> rfl
@[simp] theorem Group.setSlot_mpmiss (g : Group) (k : Nat) (x : Slot) : (g.setSlot k x).mpmiss = g.mpmiss := by
  unfold Group.setSlot; split <;> rfl
@[simp] theorem Group.setSlot_mpreplay (g : Group) (k : Nat) (x : Slot) : (g.setSlot k x).mpreplay = g.mpreplay := by
  unfold Group.setSlot; split <;> rfl
@[simp] theorem Group.setSlot_first (g : Group) (k : Nat) (x : Slot) : (g.setSlot k x).first = g.first := by
  unfold Group.setSlot; split <;> rfl
@[simp] theorem Group.setSlot_wasFirst (g : Group) (k : Nat) (x : Slot) : (g.setSlot k x).wasFirst = g.wasFirst := by
  unfold Group.setSlot; split <;> rfl
@[simp] theorem Group.setSlot_spill (g : Group) (k : Nat) (x : Slot) : (g.setSlot k x).spill = g.spill := by
  unfold Group.setSlot; split <;> rfl
@[simp] theorem Group.setSlot_floor (g : Group) (k : Nat) (x : Slot) : (g.setSlot k x).floor = g.floor := by
  unfold Group.setSlot; split <;> rfl
@[simp] theorem Group.setSlot_poppedAt (g : Group) (k : Nat) (x : Slot) : (g.setSlot k x).poppedAt = g.poppedAt := by
  unfold Group.setSlot; split <;> rfl
@[simp] theorem Group.setSlot_supervisor (g : Group) (k : Nat) (x : Slot) : (g.setSlot k x).supervisor = g.supervisor := by
  unfold Group.setSlot; split <;> rfl
@[simp] theorem Group.setSlot_tr (g : Group) (k : Nat) (x : Slot) : (g.setSlot k x).tr = g.tr := by
  unfold Group.setSlot; split <;> rfl
@[simp] theorem Group.setSlot_trapReq (g : Group) (k : Nat) (x : Slot) : (g.setSlot k x).trapReq = g.trapReq := by
  unfold Group.setSlot; split <;> rfl
@[simp] theorem Group.setSlot_harea (g : Group) (k : Nat) (x : Slot) : (g.setSlot k x).harea = g.harea := by
  unfold Group.setSlot; split <;> rfl
@[simp] theorem Group.setSlot_yieldAt (g : Group) (k : Nat) (x : Slot) : (g.setSlot k x).yieldAt = g.yieldAt := by
  unfold Group.setSlot; split <;> rfl
@[simp] theorem Group.setSlot_parked (g : Group) (k : Nat) (x : Slot) : (g.setSlot k x).parked = g.parked := by
  unfold Group.setSlot; split <;> rfl
@[simp] theorem Group.setSlot_posted (g : Group) (k : Nat) (x : Slot) : (g.setSlot k x).posted = g.posted := by
  unfold Group.setSlot; split <;> rfl
@[simp] theorem Group.setSlot_refusals (g : Group) (k : Nat) (x : Slot) : (g.setSlot k x).refusals = g.refusals := by
  unfold Group.setSlot; split <;> rfl
@[simp] theorem Group.setSlot_curRefusal (g : Group) (k : Nat) (x : Slot) : (g.setSlot k x).curRefusal = g.curRefusal := by
  unfold Group.setSlot; split <;> rfl
@[simp] theorem Group.setSlot_results (g : Group) (k : Nat) (x : Slot) : (g.setSlot k x).results = g.results := by
  unfold Group.setSlot; split <;> rfl
@[simp] theorem Group.setSlot_counts (g : Group) (k : Nat) (x : Slot) : (g.setSlot k x).counts = g.counts := by
  unfold Group.setSlot; split <;> rfl
@[simp] theorem Group.setSlot_ops (g : Group) (k : Nat) (x : Slot) : (g.setSlot k x).ops = g.ops := by
  unfold Group.setSlot; split <;> rfl
@[simp] theorem Group.setSlot_spec (g : Group) (k : Nat) (x : Slot) : (g.setSlot k x).spec = g.spec := by
  unfold Group.setSlot; split <;> rfl
@[simp] theorem Group.setSlot_brine (g : Group) (k : Nat) (x : Slot) : (g.setSlot k x).brine = g.brine := by
  unfold Group.setSlot; split <;> rfl
@[simp] theorem Group.setSlot_met (g : Group) (k : Nat) (x : Slot) : (g.setSlot k x).met = g.met := by
  unfold Group.setSlot; split <;> rfl
@[simp] theorem Group.setSlot_stopped (g : Group) (k : Nat) (x : Slot) : (g.setSlot k x).stopped = g.stopped := by
  unfold Group.setSlot; split <;> rfl
@[simp] theorem Group.setSlot_matrixTraps (g : Group) (k : Nat) (x : Slot) : (g.setSlot k x).matrixTraps = g.matrixTraps := by
  unfold Group.setSlot; split <;> rfl
@[simp] theorem Group.setSlot_lastPage (g : Group) (k : Nat) (x : Slot) : (g.setSlot k x).lastPage = g.lastPage := by
  unfold Group.setSlot; split <;> rfl

end Sys2Proof.Machine
end

