-- ==== Sys2Proof/Laws/MemFrame.lean ====
section
/-!
SUPPORT. The operations that leave memory as it is, one lemma each: every change of memory goes through the few
operations of Laws/Memory.lean.
-/
set_option Elab.async false
set_option linter.unreachableTactic false
set_option linter.unusedSimpArgs false
set_option linter.unusedTactic false

namespace Sys2Proof.Machine

theorem foldl_mem {α : Type} (f : State → α → State) (l : List α) (s : State)
    (h : ∀ s x, (f s x).mem = s.mem) : (l.foldl f s).mem = s.mem := by
  induction l generalizing s with
  | nil => rfl
  | cons x l ih => simp [ih, h]

theorem foldl_mem1 {α β : Type} (f : State × β → α → State × β) (l : List α) (s : State × β)
    (h : ∀ s x, (f s x).1.mem = s.1.mem) : (l.foldl f s).1.mem = s.1.mem := by
  induction l generalizing s with
  | nil => rfl
  | cons x l ih => simp [ih, h]

@[simp] theorem State.modGroup_mem (s : State) (gid : Nat) (f : Group → Group) :
    (State.modGroup s gid f).mem = s.mem := by
  unfold State.modGroup
  repeat' first
    | with_reducible rfl
    | split
    | (simp [*]; done)
    | (dsimp only; split)
    | refine (foldl_mem _ _ _ fun s x => ?_).trans ?_
    | refine (foldl_mem1 _ _ _ fun s x => ?_).trans ?_
    | (simp [*]; split)

@[simp] theorem State.modTeam_mem (s : State) (t : Nat) (f : Team → Team) :
    (State.modTeam s t f).mem = s.mem := by
  unfold State.modTeam
  repeat' first
    | with_reducible rfl
    | split
    | (simp [*]; done)
    | (dsimp only; split)
    | refine (foldl_mem _ _ _ fun s x => ?_).trans ?_
    | refine (foldl_mem1 _ _ _ fun s x => ?_).trans ?_
    | (simp [*]; split)

@[simp] theorem State.terminate_mem (s : State) (c : Nat) (reason : BitVec 8) (codes : BitVec 16) (detail grid : Word64) :
    (State.terminate s c reason codes detail grid).mem = s.mem := by
  unfold State.terminate
  repeat' first
    | with_reducible rfl
    | split
    | (simp [*]; done)
    | (dsimp only; split)
    | refine (foldl_mem _ _ _ fun s x => ?_).trans ?_
    | refine (foldl_mem1 _ _ _ fun s x => ?_).trans ?_
    | (simp [*]; split)

@[simp] theorem State.freeCslot_mem (s : State) (part : Nat) (r : Running) :
    (State.freeCslot s part r).mem = s.mem := by
  unfold State.freeCslot
  repeat' first
    | with_reducible rfl
    | split
    | (simp [*]; done)
    | (dsimp only; split)
    | refine (foldl_mem _ _ _ fun s x => ?_).trans ?_
    | refine (foldl_mem1 _ _ _ fun s x => ?_).trans ?_
    | (simp [*]; split)

@[simp] theorem State.endClause_mem (s : State) (gid k : Nat) (next counted : Bool) :
    (State.endClause s gid k next counted).mem = s.mem := by
  unfold State.endClause
  repeat' first
    | with_reducible rfl
    | split
    | (simp [*]; done)
    | (dsimp only; split)
    | refine (foldl_mem _ _ _ fun s x => ?_).trans ?_
    | refine (foldl_mem1 _ _ _ fun s x => ?_).trans ?_
    | (simp [*]; split)

@[simp] theorem State.advanceWith_mem (s : State) (next counted : Bool) :
    (State.advanceWith s next counted).mem = s.mem := by
  unfold State.advanceWith
  repeat' first
    | with_reducible rfl
    | split
    | (simp [*]; done)
    | (dsimp only; split)
    | refine (foldl_mem _ _ _ fun s x => ?_).trans ?_
    | refine (foldl_mem1 _ _ _ fun s x => ?_).trans ?_
    | (simp [*]; split)

@[simp] theorem State.advance_mem (s : State) :
    (State.advance s).mem = s.mem := by
  unfold State.advance
  repeat' first
    | with_reducible rfl
    | split
    | (simp [*]; done)
    | (dsimp only; split)
    | refine (foldl_mem _ _ _ fun s x => ?_).trans ?_
    | refine (foldl_mem1 _ _ _ fun s x => ?_).trans ?_
    | (simp [*]; split)

@[simp] theorem State.pendResult_mem (s : State) (lat : Nat) (upds : List RegUpd) (sticky : List (Nat × BitVec 16)) :
    (State.pendResult s lat upds sticky).mem = s.mem := by
  unfold State.pendResult
  repeat' first
    | with_reducible rfl
    | split
    | (simp [*]; done)
    | (dsimp only; split)
    | refine (foldl_mem _ _ _ fun s x => ?_).trans ?_
    | refine (foldl_mem1 _ _ _ fun s x => ?_).trans ?_
    | (simp [*]; split)

@[simp] theorem State.addOpMer_mem (s : State) (sel mer : Bool) (kind : OpKind) :
    (State.addOpMer s sel mer kind).mem = s.mem := by
  unfold State.addOpMer
  repeat' first
    | with_reducible rfl
    | split
    | (simp [*]; done)
    | (dsimp only; split)
    | refine (foldl_mem _ _ _ fun s x => ?_).trans ?_
    | refine (foldl_mem1 _ _ _ fun s x => ?_).trans ?_
    | (simp [*]; split)

@[simp] theorem State.addOp_mem (s : State) (sel : Bool) (kind : OpKind) :
    (State.addOp s sel kind).mem = s.mem := by
  unfold State.addOp
  repeat' first
    | with_reducible rfl
    | split
    | (simp [*]; done)
    | (dsimp only; split)
    | refine (foldl_mem _ _ _ fun s x => ?_).trans ?_
    | refine (foldl_mem1 _ _ _ fun s x => ?_).trans ?_
    | (simp [*]; split)

@[simp] theorem State.completeOp_mem (s : State) (gid op : Nat) :
    (State.completeOp s gid op).mem = s.mem := by
  unfold State.completeOp
  repeat' first
    | with_reducible rfl
    | split
    | (simp [*]; done)
    | (dsimp only; split)
    | refine (foldl_mem _ _ _ fun s x => ?_).trans ?_
    | refine (foldl_mem1 _ _ _ fun s x => ?_).trans ?_
    | (simp [*]; split)

@[simp] theorem State.stopSlot_mem (s : State) (gid k idx : Nat) :
    (State.stopSlot s gid k idx).mem = s.mem := by
  unfold State.stopSlot
  repeat' first
    | with_reducible rfl
    | split
    | (simp [*]; done)
    | (dsimp only; split)
    | refine (foldl_mem _ _ _ fun s x => ?_).trans ?_
    | refine (foldl_mem1 _ _ _ fun s x => ?_).trans ?_
    | (simp [*]; split)

@[simp] theorem State.redoHalf_mem (s : State) (gid k : Nat) :
    (State.redoHalf s gid k).mem = s.mem := by
  unfold State.redoHalf
  repeat' first
    | with_reducible rfl
    | split
    | (simp [*]; done)
    | (dsimp only; split)
    | refine (foldl_mem _ _ _ fun s x => ?_).trans ?_
    | refine (foldl_mem1 _ _ _ fun s x => ?_).trans ?_
    | (simp [*]; split)

@[simp] theorem State.raiseTrap_mem (s : State) (gid : Nat) (r : TrapReq) :
    (State.raiseTrap s gid r).mem = s.mem := by
  unfold State.raiseTrap
  repeat' first
    | with_reducible rfl
    | split
    | (simp [*]; done)
    | (dsimp only; split)
    | refine (foldl_mem _ _ _ fun s x => ?_).trans ?_
    | refine (foldl_mem1 _ _ _ fun s x => ?_).trans ?_
    | (simp [*]; split)

@[simp] theorem State.trapHere_mem (s : State) (code : BitVec 8) (einfo : Word64) (lanes : Mask) (faddr : List (Nat × Word64)) :
    (State.trapHere s code einfo lanes faddr).mem = s.mem := by
  unfold State.trapHere
  repeat' first
    | with_reducible rfl
    | split
    | (simp [*]; done)
    | (dsimp only; split)
    | refine (foldl_mem _ _ _ fun s x => ?_).trans ?_
    | refine (foldl_mem1 _ _ _ fun s x => ?_).trans ?_
    | (simp [*]; split)

@[simp] theorem State.trapClause_mem (s : State) (gid k : Nat) (code : BitVec 8) (pc einfo etxf : Word64) (arg : BitVec 12) (lanes : Mask) (faddr : List (Nat × Word64)) :
    (State.trapClause s gid k code pc einfo etxf arg lanes faddr).mem = s.mem := by
  unfold State.trapClause
  repeat' first
    | with_reducible rfl
    | split
    | (simp [*]; done)
    | (dsimp only; split)
    | refine (foldl_mem _ _ _ fun s x => ?_).trans ?_
    | refine (foldl_mem1 _ _ _ fun s x => ?_).trans ?_
    | (simp [*]; split)

@[simp] theorem State.illegal_mem (s : State) :
    (State.illegal s).mem = s.mem := by
  unfold State.illegal
  repeat' first
    | with_reducible rfl
    | split
    | (simp [*]; done)
    | (dsimp only; split)
    | refine (foldl_mem _ _ _ fun s x => ?_).trans ?_
    | refine (foldl_mem1 _ _ _ fun s x => ?_).trans ?_
    | (simp [*]; split)

@[simp] theorem State.privilegeTrap_mem (s : State) :
    (State.privilegeTrap s).mem = s.mem := by
  unfold State.privilegeTrap
  repeat' first
    | with_reducible rfl
    | split
    | (simp [*]; done)
    | (dsimp only; split)
    | refine (foldl_mem _ _ _ fun s x => ?_).trans ?_
    | refine (foldl_mem1 _ _ _ fun s x => ?_).trans ?_
    | (simp [*]; split)

@[simp] theorem State.guarded_mem (s : State) (i : Instr) (f : Group → State) (h_f : ∀ x0, (f x0).mem = s.mem) :
    (State.guarded s i f).mem = s.mem := by
  unfold State.guarded
  repeat' first
    | with_reducible rfl
    | split
    | (simp [*]; done)
    | (dsimp only; split)
    | refine (foldl_mem _ _ _ fun s x => ?_).trans ?_
    | refine (foldl_mem1 _ _ _ fun s x => ?_).trans ?_
    | (simp [*]; split)

@[simp] theorem State.switchTx_mem (s : State) (p : Nat) :
    (State.switchTx s p).mem = s.mem := by
  unfold State.switchTx
  repeat' first
    | with_reducible rfl
    | split
    | (simp [*]; done)
    | (dsimp only; split)
    | refine (foldl_mem _ _ _ fun s x => ?_).trans ?_
    | refine (foldl_mem1 _ _ _ fun s x => ?_).trans ?_
    | (simp [*]; split)

@[simp] theorem State.sendPlain_mem (s : State) (p : Nat) (f : Flit) :
    (State.sendPlain s p f).mem = s.mem := by
  unfold State.sendPlain
  repeat' first
    | with_reducible rfl
    | split
    | (simp [*]; done)
    | (dsimp only; split)
    | refine (foldl_mem _ _ _ fun s x => ?_).trans ?_
    | refine (foldl_mem1 _ _ _ fun s x => ?_).trans ?_
    | (simp [*]; split)

@[simp] theorem State.sendNew_mem (s : State) (p : Nat) (f : Flit) :
    (State.sendNew s p f).mem = s.mem := by
  unfold State.sendNew
  repeat' first
    | with_reducible rfl
    | split
    | (simp [*]; done)
    | (dsimp only; split)
    | refine (foldl_mem _ _ _ fun s x => ?_).trans ?_
    | refine (foldl_mem1 _ _ _ fun s x => ?_).trans ?_
    | (simp [*]; split)

@[simp] theorem State.sendFlits_mem (s : State) (p : Nat) (y0 : List Flit) :
    (State.sendFlits s p y0).mem = s.mem := by
  induction y0 generalizing s with
  | nil => unfold State.sendFlits; rfl
  | cons x l ih =>
    unfold State.sendFlits
    repeat' first
      | with_reducible rfl
      | split
      | (simp [*]; done)
      | (dsimp only; split)
      | refine (foldl_mem _ _ _ fun s x => ?_).trans ?_
      | refine (foldl_mem1 _ _ _ fun s x => ?_).trans ?_
      | (simp [*]; split)

@[simp] theorem State.sendPackets_mem (s : State) (p : Nat) (y0 : List (List Flit)) (y1 : List (List Flit)) :
    (State.sendPackets s p y0 y1).mem = s.mem := by
  induction y0 generalizing s y1 with
  | nil => unfold State.sendPackets; rfl
  | cons x l ih =>
    unfold State.sendPackets
    repeat' first
      | with_reducible rfl
      | split
      | (simp [*]; done)
      | (dsimp only; split)
      | refine (foldl_mem _ _ _ fun s x => ?_).trans ?_
      | refine (foldl_mem1 _ _ _ fun s x => ?_).trans ?_
      | (simp [*]; split)

@[simp] theorem State.drain_mem (s : State) (p : Nat) :
    (State.drain s p).mem = s.mem := by
  unfold State.drain
  repeat' first
    | with_reducible rfl
    | split
    | (simp [*]; done)
    | (dsimp only; split)
    | refine (foldl_mem _ _ _ fun s x => ?_).trans ?_
    | refine (foldl_mem1 _ _ _ fun s x => ?_).trans ?_
    | (simp [*]; split)

@[simp] theorem State.sendAll_mem (s : State) (p : Nat) (l : List Flit) :
    (State.sendAll s p l).mem = s.mem := by
  unfold State.sendAll
  repeat' first
    | with_reducible rfl
    | split
    | (simp [*]; done)
    | (dsimp only; split)
    | refine (foldl_mem _ _ _ fun s x => ?_).trans ?_
    | refine (foldl_mem1 _ _ _ fun s x => ?_).trans ?_
    | (simp [*]; split)

@[simp] theorem State.place_mem (s : State) (p tag : Nat) (front : Bool) (r : PortReq) :
    (State.place s p tag front r).mem = s.mem := by
  unfold State.place
  repeat' first
    | with_reducible rfl
    | split
    | (simp [*]; done)
    | (dsimp only; split)
    | refine (foldl_mem _ _ _ fun s x => ?_).trans ?_
    | refine (foldl_mem1 _ _ _ fun s x => ?_).trans ?_
    | (simp [*]; split)

@[simp] theorem State.pieceLost_mem (s : State) (key n : Nat) :
    (State.pieceLost s key n).mem = s.mem := by
  unfold State.pieceLost
  repeat' first
    | with_reducible rfl
    | split
    | (simp [*]; done)
    | (dsimp only; split)
    | refine (foldl_mem _ _ _ fun s x => ?_).trans ?_
    | refine (foldl_mem1 _ _ _ fun s x => ?_).trans ?_
    | (simp [*]; split)

@[simp] theorem State.reqLost_mem (s : State) (r : PortReq) :
    (State.reqLost s r).mem = s.mem := by
  unfold State.reqLost
  repeat' first
    | with_reducible rfl
    | split
    | (simp [*]; done)
    | (dsimp only; split)
    | refine (foldl_mem _ _ _ fun s x => ?_).trans ?_
    | refine (foldl_mem1 _ _ _ fun s x => ?_).trans ?_
    | (simp [*]; split)

@[simp] theorem State.request_mem (s : State) (r : PortReq) :
    (State.request s r).mem = s.mem := by
  unfold State.request
  repeat' first
    | with_reducible rfl
    | split
    | (simp [*]; done)
    | (dsimp only; split)
    | refine (foldl_mem _ _ _ fun s x => ?_).trans ?_
    | refine (foldl_mem1 _ _ _ fun s x => ?_).trans ?_
    | (simp [*]; split)

@[simp] theorem State.sendQueued_mem (s : State) :
    (State.sendQueued s).mem = s.mem := by
  unfold State.sendQueued
  repeat' first
    | with_reducible rfl
    | split
    | (simp [*]; done)
    | (dsimp only; split)
    | refine (foldl_mem _ _ _ fun s x => ?_).trans ?_
    | refine (foldl_mem1 _ _ _ fun s x => ?_).trans ?_
    | (simp [*]; split)

@[simp] theorem State.ask_mem (s : State) (own : List Nat) (read : Tab Word64) :
    (State.ask s own read).mem = s.mem := by
  unfold State.ask
  repeat' first
    | with_reducible rfl
    | split
    | (simp [*]; done)
    | (dsimp only; split)
    | refine (foldl_mem _ _ _ fun s x => ?_).trans ?_
    | refine (foldl_mem1 _ _ _ fun s x => ?_).trans ?_
    | (simp [*]; split)

@[simp] theorem State.settleNode_mem (s : State) :
    (State.settleNode s).mem = s.mem := by
  unfold State.settleNode
  repeat' first
    | with_reducible rfl
    | split
    | (simp [*]; done)
    | (dsimp only; split)
    | refine (foldl_mem _ _ _ fun s x => ?_).trans ?_
    | refine (foldl_mem1 _ _ _ fun s x => ?_).trans ?_
    | (simp [*]; split)

@[simp] theorem State.askFor_mem (s0 s : State) :
    (State.askFor s0 s).mem = s0.mem := by
  unfold State.askFor
  repeat' first
    | with_reducible rfl
    | split
    | (simp [*]; done)
    | (dsimp only; split)
    | refine (foldl_mem _ _ _ fun s x => ?_).trans ?_
    | refine (foldl_mem1 _ _ _ fun s x => ?_).trans ?_
    | (simp [*]; split)

@[simp] theorem State.issueVec_mem (s : State) (m : Mask) (w : Bool) (dst lat : Nat) (f : Nat → Nat × BitVec 16) :
    (State.issueVec s m w dst lat f).mem = s.mem := by
  unfold State.issueVec
  repeat' first
    | with_reducible rfl
    | split
    | (simp [*]; done)
    | (dsimp only; split)
    | refine (foldl_mem _ _ _ fun s x => ?_).trans ?_
    | refine (foldl_mem1 _ _ _ fun s x => ?_).trans ?_
    | (simp [*]; split)

@[simp] theorem State.issueSca_mem (s : State) (dst lat : Nat) (x : Word64) (bits : BitVec 16) :
    (State.issueSca s dst lat x bits).mem = s.mem := by
  unfold State.issueSca
  repeat' first
    | with_reducible rfl
    | split
    | (simp [*]; done)
    | (dsimp only; split)
    | refine (foldl_mem _ _ _ fun s x => ?_).trans ?_
    | refine (foldl_mem1 _ _ _ fun s x => ?_).trans ?_
    | (simp [*]; split)

@[simp] theorem State.issuePred_mem (s : State) (dst lat : Nat) (m bits : Mask) (sticky : List (Nat × BitVec 16)) :
    (State.issuePred s dst lat m bits sticky).mem = s.mem := by
  unfold State.issuePred
  repeat' first
    | with_reducible rfl
    | split
    | (simp [*]; done)
    | (dsimp only; split)
    | refine (foldl_mem _ _ _ fun s x => ?_).trans ?_
    | refine (foldl_mem1 _ _ _ fun s x => ?_).trans ?_
    | (simp [*]; split)

@[simp] theorem intMould_mem (i : Instr) (o : Alu) (f : Bool → Nat → Nat → Nat → Nat × BitVec 16) (s : State) :
    (intMould i o f s).mem = s.mem := by
  unfold intMould
  repeat' first
    | with_reducible rfl
    | split
    | (simp [*]; done)
    | (dsimp only; split)
    | refine (foldl_mem _ _ _ fun s x => ?_).trans ?_
    | refine (foldl_mem1 _ _ _ fun s x => ?_).trans ?_
    | (simp [*]; split)

@[simp] theorem intMould3_mem (i : Instr) (r : RFields) (f : Bool → Nat → Nat → Nat → Nat → Nat) (s : State) :
    (intMould3 i r f s).mem = s.mem := by
  unfold intMould3
  repeat' first
    | with_reducible rfl
    | split
    | (simp [*]; done)
    | (dsimp only; split)
    | refine (foldl_mem _ _ _ fun s x => ?_).trans ?_
    | refine (foldl_mem1 _ _ _ fun s x => ?_).trans ?_
    | (simp [*]; split)

@[simp] theorem floatMould_mem (i : Instr) (r : RFields) (op : Bool → FVal → FVal → FVal → Exact) (s : State) :
    (floatMould i r op s).mem = s.mem := by
  unfold floatMould
  repeat' first
    | with_reducible rfl
    | split
    | (simp [*]; done)
    | (dsimp only; split)
    | refine (foldl_mem _ _ _ fun s x => ?_).trans ?_
    | refine (foldl_mem1 _ _ _ fun s x => ?_).trans ?_
    | (simp [*]; split)

@[simp] theorem minMaxMould_mem (i : Instr) (r : RFields) (isMax : Bool) (s : State) :
    (minMaxMould i r isMax s).mem = s.mem := by
  unfold minMaxMould
  repeat' first
    | with_reducible rfl
    | split
    | (simp [*]; done)
    | (dsimp only; split)
    | refine (foldl_mem _ _ _ fun s x => ?_).trans ?_
    | refine (foldl_mem1 _ _ _ fun s x => ?_).trans ?_
    | (simp [*]; split)

@[simp] theorem specialMould_mem (i : Instr) (r : RFields) (f : Rnd → Nat → Res) (s : State) :
    (specialMould i r f s).mem = s.mem := by
  unfold specialMould
  repeat' first
    | with_reducible rfl
    | split
    | (simp [*]; done)
    | (dsimp only; split)
    | refine (foldl_mem _ _ _ fun s x => ?_).trans ?_
    | refine (foldl_mem1 _ _ _ fun s x => ?_).trans ?_
    | (simp [*]; split)

@[simp] theorem State.nodeRead_mem (s : State) (pa : Nat) :
    (State.nodeRead s pa).mem = s.mem := by
  unfold State.nodeRead
  repeat' first
    | with_reducible rfl
    | split
    | (simp [*]; done)
    | (dsimp only; split)
    | refine (foldl_mem _ _ _ fun s x => ?_).trans ?_
    | refine (foldl_mem1 _ _ _ fun s x => ?_).trans ?_
    | (simp [*]; split)

@[simp] theorem State.nodeWrite_mem (s : State) (pa ch : Nat) (b : Byte) :
    (State.nodeWrite s pa ch b).mem = s.mem := by
  unfold State.nodeWrite
  repeat' first
    | with_reducible rfl
    | split
    | (simp [*]; done)
    | (dsimp only; split)
    | refine (foldl_mem _ _ _ fun s x => ?_).trans ?_
    | refine (foldl_mem1 _ _ _ fun s x => ?_).trans ?_
    | (simp [*]; split)

@[simp] theorem State.needOwn_mem (s : State) (pa : Nat) :
    (State.needOwn s pa).mem = s.mem := by
  unfold State.needOwn
  repeat' first
    | with_reducible rfl
    | split
    | (simp [*]; done)
    | (dsimp only; split)
    | refine (foldl_mem _ _ _ fun s x => ?_).trans ?_
    | refine (foldl_mem1 _ _ _ fun s x => ?_).trans ?_
    | (simp [*]; split)

@[simp] theorem State.touch_mem (s : State) (pa : Nat) (write : Bool) :
    (State.touch s pa write).mem = s.mem := by
  unfold State.touch
  repeat' first
    | with_reducible rfl
    | split
    | (simp [*]; done)
    | (dsimp only; split)
    | refine (foldl_mem _ _ _ fun s x => ?_).trans ?_
    | refine (foldl_mem1 _ _ _ fun s x => ?_).trans ?_
    | (simp [*]; split)

@[simp] theorem State.l2MoveByte_mem (s : State) (pa d e : Nat) :
    (State.l2MoveByte s pa d e).mem = s.mem := by
  unfold State.l2MoveByte
  repeat' first
    | with_reducible rfl
    | split
    | (simp [*]; done)
    | (dsimp only; split)
    | refine (foldl_mem _ _ _ fun s x => ?_).trans ?_
    | refine (foldl_mem1 _ _ _ fun s x => ?_).trans ?_
    | (simp [*]; split)

@[simp] theorem State.l2Move_mem (s : State) (pa d e : Nat) :
    (State.l2Move s pa d e).mem = s.mem := by
  unfold State.l2Move
  repeat' first
    | with_reducible rfl
    | split
    | (simp [*]; done)
    | (dsimp only; split)
    | refine (foldl_mem _ _ _ fun s x => ?_).trans ?_
    | refine (foldl_mem1 _ _ _ fun s x => ?_).trans ?_
    | (simp [*]; split)

@[simp] theorem State.l2Alone_mem (s : State) (d pa : Nat) :
    (State.l2Alone s d pa).mem = s.mem := by
  unfold State.l2Alone
  repeat' first
    | with_reducible rfl
    | split
    | (simp [*]; done)
    | (dsimp only; split)
    | refine (foldl_mem _ _ _ fun s x => ?_).trans ?_
    | refine (foldl_mem1 _ _ _ fun s x => ?_).trans ?_
    | (simp [*]; split)

@[simp] theorem State.devRead_mem (s : State) (die pa : Nat) :
    (State.devRead s die pa).1.mem = s.mem := by
  unfold State.devRead
  repeat' first
    | with_reducible rfl
    | split
    | (simp [*]; done)
    | (dsimp only; split)
    | refine (foldl_mem _ _ _ fun s x => ?_).trans ?_
    | refine (foldl_mem1 _ _ _ fun s x => ?_).trans ?_
    | (simp [*]; split)

@[simp] theorem State.devBytes_mem (s : State) (die : Nat) (y0 : Nat) (y1 : Nat) :
    (State.devBytes s die y0 y1).1.mem = s.mem := by
  induction y0 generalizing s y1 with
  | zero => unfold State.devBytes; rfl
  | succ n ih =>
    unfold State.devBytes
    repeat' first
      | with_reducible rfl
      | split
      | (simp [*]; done)
      | (dsimp only; split)
      | refine (foldl_mem _ _ _ fun s x => ?_).trans ?_
      | refine (foldl_mem1 _ _ _ fun s x => ?_).trans ?_
      | (simp [*]; split)

@[simp] theorem State.freshen_mem (s : State) (core n pa : Nat) :
    (State.freshen s core n pa).mem = s.mem := by
  unfold State.freshen
  repeat' first
    | with_reducible rfl
    | split
    | (simp [*]; done)
    | (dsimp only; split)
    | refine (foldl_mem _ _ _ fun s x => ?_).trans ?_
    | refine (foldl_mem1 _ _ _ fun s x => ?_).trans ?_
    | (simp [*]; split)

@[simp] theorem State.l1Invalidate_mem (s : State) (core : Nat) :
    (State.l1Invalidate s core).mem = s.mem := by
  unfold State.l1Invalidate
  repeat' first
    | with_reducible rfl
    | split
    | (simp [*]; done)
    | (dsimp only; split)
    | refine (foldl_mem _ _ _ fun s x => ?_).trans ?_
    | refine (foldl_mem1 _ _ _ fun s x => ?_).trans ?_
    | (simp [*]; split)

@[simp] theorem State.freshenLoc_mem (s : State) (core level n : Nat) (y0 : Loc) :
    (State.freshenLoc s core level n y0).mem = s.mem := by
  unfold State.freshenLoc
  repeat' first
    | with_reducible rfl
    | split
    | (simp [*]; done)
    | (dsimp only; split)
    | refine (foldl_mem _ _ _ fun s x => ?_).trans ?_
    | refine (foldl_mem1 _ _ _ fun s x => ?_).trans ?_
    | (simp [*]; split)

@[simp] theorem State.markAt_mem (s : State) (order : Order) (site pa : Nat) :
    (State.markAt s order site pa).mem = s.mem := by
  unfold State.markAt
  repeat' first
    | with_reducible rfl
    | split
    | (simp [*]; done)
    | (dsimp only; split)
    | refine (foldl_mem _ _ _ fun s x => ?_).trans ?_
    | refine (foldl_mem1 _ _ _ fun s x => ?_).trans ?_
    | (simp [*]; split)

@[simp] theorem State.markL2_mem (s : State) (core : Nat) (order : Order) (pa : Nat) :
    (State.markL2 s core order pa).mem = s.mem := by
  unfold State.markL2
  repeat' first
    | with_reducible rfl
    | split
    | (simp [*]; done)
    | (dsimp only; split)
    | refine (foldl_mem _ _ _ fun s x => ?_).trans ?_
    | refine (foldl_mem1 _ _ _ fun s x => ?_).trans ?_
    | (simp [*]; split)

@[simp] theorem State.markLine_mem (s : State) (core : Nat) (order : Order) (y0 : Loc) :
    (State.markLine s core order y0).mem = s.mem := by
  unfold State.markLine
  repeat' first
    | with_reducible rfl
    | split
    | (simp [*]; done)
    | (dsimp only; split)
    | refine (foldl_mem _ _ _ fun s x => ?_).trans ?_
    | refine (foldl_mem1 _ _ _ fun s x => ?_).trans ?_
    | (simp [*]; split)

@[simp] theorem State.unmark_mem (s : State) (site pa : Nat) :
    (State.unmark s site pa).mem = s.mem := by
  unfold State.unmark
  repeat' first
    | with_reducible rfl
    | split
    | (simp [*]; done)
    | (dsimp only; split)
    | refine (foldl_mem _ _ _ fun s x => ?_).trans ?_
    | refine (foldl_mem1 _ _ _ fun s x => ?_).trans ?_
    | (simp [*]; split)

@[simp] theorem State.walkFrom_mem (s : State) (die va : Nat) (y0 : Nat) (y1 : Nat) (y2 : Nat) :
    (State.walkFrom s die va y0 y1 y2).1.mem = s.mem := by
  induction y0 generalizing s y1 y2 with
  | zero => unfold State.walkFrom; rfl
  | succ n ih =>
    unfold State.walkFrom
    repeat' first
      | with_reducible rfl
      | split
      | (simp [*]; done)
      | (dsimp only; split)
      | refine (foldl_mem _ _ _ fun s x => ?_).trans ?_
      | refine (foldl_mem1 _ _ _ fun s x => ?_).trans ?_
      | (simp [*]; split)

@[simp] theorem State.walk_mem (s : State) (die c va : Nat) :
    (State.walk s die c va).1.mem = s.mem := by
  unfold State.walk
  repeat' first
    | with_reducible rfl
    | split
    | (simp [*]; done)
    | (dsimp only; split)
    | refine (foldl_mem _ _ _ fun s x => ?_).trans ?_
    | refine (foldl_mem1 _ _ _ fun s x => ?_).trans ?_
    | (simp [*]; split)

@[simp] theorem State.tlbAdd_mem (s : State) (site cap c : Nat) (l : Leaf) :
    (State.tlbAdd s site cap c l).mem = s.mem := by
  unfold State.tlbAdd
  repeat' first
    | with_reducible rfl
    | split
    | (simp [*]; done)
    | (dsimp only; split)
    | refine (foldl_mem _ _ _ fun s x => ?_).trans ?_
    | refine (foldl_mem1 _ _ _ fun s x => ?_).trans ?_
    | (simp [*]; split)

@[simp] theorem State.lookup_mem (s : State) (core c va : Nat) :
    (State.lookup s core c va).1.mem = s.mem := by
  unfold State.lookup
  repeat' first
    | with_reducible rfl
    | split
    | (simp [*]; done)
    | (dsimp only; split)
    | refine (foldl_mem _ _ _ fun s x => ?_).trans ?_
    | refine (foldl_mem1 _ _ _ fun s x => ?_).trans ?_
    | (simp [*]; split)

@[simp] theorem State.noteLane_mem (s : State) (gid lane core c va : Nat) :
    (State.noteLane s gid lane core c va).1.mem = s.mem := by
  unfold State.noteLane
  repeat' first
    | with_reducible rfl
    | split
    | (simp [*]; done)
    | (dsimp only; split)
    | refine (foldl_mem _ _ _ fun s x => ?_).trans ?_
    | refine (foldl_mem1 _ _ _ fun s x => ?_).trans ?_
    | (simp [*]; split)

@[simp] theorem State.lookupLane_mem (s : State) (gid lane core c va : Nat) :
    (State.lookupLane s gid lane core c va).1.mem = s.mem := by
  unfold State.lookupLane
  repeat' first
    | with_reducible rfl
    | split
    | (simp [*]; done)
    | (dsimp only; split)
    | refine (foldl_mem _ _ _ fun s x => ?_).trans ?_
    | refine (foldl_mem1 _ _ _ fun s x => ?_).trans ?_
    | (simp [*]; split)

@[simp] theorem State.dropTrans_mem (s : State) (hit : TlbEntry → Bool) :
    (State.dropTrans s hit).mem = s.mem := by
  unfold State.dropTrans
  repeat' first
    | with_reducible rfl
    | split
    | (simp [*]; done)
    | (dsimp only; split)
    | refine (foldl_mem _ _ _ fun s x => ?_).trans ?_
    | refine (foldl_mem1 _ _ _ fun s x => ?_).trans ?_
    | (simp [*]; split)

@[simp] theorem State.invalidate_mem (s : State) (c : Nat) (va : Option Nat) :
    (State.invalidate s c va).mem = s.mem := by
  unfold State.invalidate
  repeat' first
    | with_reducible rfl
    | split
    | (simp [*]; done)
    | (dsimp only; split)
    | refine (foldl_mem _ _ _ fun s x => ?_).trans ?_
    | refine (foldl_mem1 _ _ _ fun s x => ?_).trans ?_
    | (simp [*]; split)

@[simp] theorem State.pieceCheck_mem (s : State) (a : Agent) (t : Team) (team c o v kind : Nat) (write : Bool) :
    (State.pieceCheck s a t team c o v kind write).1.mem = s.mem := by
  unfold State.pieceCheck
  repeat' first
    | with_reducible rfl
    | split
    | (simp [*]; done)
    | (dsimp only; split)
    | refine (foldl_mem _ _ _ fun s x => ?_).trans ?_
    | refine (foldl_mem1 _ _ _ fun s x => ?_).trans ?_
    | (simp [*]; split)

@[simp] theorem State.checkLane_mem (s : State) (a : Agent) (lane : Nat) (va : Word64) (n al kind : Nat) (need : Need) :
    (State.checkLane s a lane va n al kind need).1.mem = s.mem := by
  unfold State.checkLane
  repeat' first
    | with_reducible rfl
    | split
    | (simp [*]; done)
    | (dsimp only; split)
    | refine (foldl_mem _ _ _ fun s x => ?_).trans ?_
    | refine (foldl_mem1 _ _ _ fun s x => ?_).trans ?_
    | (simp [*]; split)

@[simp] theorem State.checkEach_mem (s : State) (a : Agent) (n al kind : Nat) (need : Need) (y0 : List (Nat × Word64)) :
    (State.checkEach s a n al kind need y0).1.mem = s.mem := by
  induction y0 generalizing s with
  | nil => unfold State.checkEach; rfl
  | cons x l ih =>
    unfold State.checkEach
    repeat' first
      | with_reducible rfl
      | split
      | (simp [*]; done)
      | (dsimp only; split)
      | refine (foldl_mem _ _ _ fun s x => ?_).trans ?_
      | refine (foldl_mem1 _ _ _ fun s x => ?_).trans ?_
      | (simp [*]; split)

@[simp] theorem State.checkLanes_mem (s : State) (a : Agent) (n al kind : Nat) (need : Need) (l : List (Nat × Word64)) :
    (State.checkLanes s a n al kind need l).1.mem = s.mem := by
  unfold State.checkLanes
  repeat' first
    | with_reducible rfl
    | split
    | (simp [*]; done)
    | (dsimp only; split)
    | refine (foldl_mem _ _ _ fun s x => ?_).trans ?_
    | refine (foldl_mem1 _ _ _ fun s x => ?_).trans ?_
    | (simp [*]; split)

@[simp] theorem State.wantPieces_mem (s : State) (l : List (Nat × Nat × Nat)) :
    (State.wantPieces s l).mem = s.mem := by
  unfold State.wantPieces
  repeat' first
    | with_reducible rfl
    | split
    | (simp [*]; done)
    | (dsimp only; split)
    | refine (foldl_mem _ _ _ fun s x => ?_).trans ?_
    | refine (foldl_mem1 _ _ _ fun s x => ?_).trans ?_
    | (simp [*]; split)

@[simp] theorem State.nodeLost_mem (s : State) (g : Group) (n : Nat) :
    (State.nodeLost s g n).mem = s.mem := by
  unfold State.nodeLost
  repeat' first
    | with_reducible rfl
    | split
    | (simp [*]; done)
    | (dsimp only; split)
    | refine (foldl_mem _ _ _ fun s x => ?_).trans ?_
    | refine (foldl_mem1 _ _ _ fun s x => ?_).trans ?_
    | (simp [*]; split)

@[simp] theorem State.writes_mem (s : State) (g : Group) (level : Nat) (y0 : Loc) :
    (State.writes s g level y0).mem = s.mem := by
  unfold State.writes
  repeat' first
    | with_reducible rfl
    | split
    | (simp [*]; done)
    | (dsimp only; split)
    | refine (foldl_mem _ _ _ fun s x => ?_).trans ?_
    | refine (foldl_mem1 _ _ _ fun s x => ?_).trans ?_
    | (simp [*]; split)

@[simp] theorem State.atomicDone_mem (s : State) (a : NodeAtomic) (old : Nat) :
    (State.atomicDone s a old).mem = s.mem := by
  unfold State.atomicDone
  repeat' first
    | with_reducible rfl
    | split
    | (simp [*]; done)
    | (dsimp only; split)
    | refine (foldl_mem _ _ _ fun s x => ?_).trans ?_
    | refine (foldl_mem1 _ _ _ fun s x => ?_).trans ?_
    | (simp [*]; split)

@[simp] theorem State.afterNow_mem (s : State) (sel mer : Bool) (act : AfterAct) (apply : State → Nat → Nat → State) (h_apply : ∀ x0 x1 x2, (apply x0 x1 x2).mem = x0.mem) :
    (State.afterNow s sel mer act apply).mem = s.mem := by
  unfold State.afterNow
  repeat' first
    | with_reducible rfl
    | split
    | (simp [*]; done)
    | (dsimp only; split)
    | refine (foldl_mem _ _ _ fun s x => ?_).trans ?_
    | refine (foldl_mem1 _ _ _ fun s x => ?_).trans ?_
    | (simp [*]; split)

@[simp] theorem State.withLanes_mem (s : State) (g : Group) (n kind : Nat) (need : Need) (l : List (Nat × Word64)) (f : State → List LaneAcc → State) (h_f : ∀ x0 x1, (f x0 x1).mem = x0.mem) :
    (State.withLanes s g n kind need l f).mem = s.mem := by
  unfold State.withLanes
  repeat' first
    | with_reducible rfl
    | split
    | (simp [*]; done)
    | (dsimp only; split)
    | refine (foldl_mem _ _ _ fun s x => ?_).trans ?_
    | refine (foldl_mem1 _ _ _ fun s x => ?_).trans ?_
    | (simp [*]; split)

@[simp] theorem atomicMould_mem (i : Instr) (x : MFields) (k : AtomicKind) (tree : Bool) (s : State) :
    (atomicMould i x k tree s).mem = s.mem := by
  unfold atomicMould
  refine State.guarded_mem _ _ _ fun g => ?_
  refine State.withLanes_mem _ _ _ _ _ _ _ fun s l => ?_
  repeat' first
    | with_reducible rfl
    | split
    | (simp [*]; done)
    | (dsimp only; split)
    | simp only [State.modGroup_mem, State.modTeam_mem, State.completeOp_mem, State.setCtx_mem]
    | refine (foldl_mem _ _ _ fun s x => ?_).trans ?_
    | refine (foldl_mem1 _ _ _ fun s x => ?_).trans ?_
    | (simp [*]; split)

@[simp] theorem State.regionFault_mem (s : State) (a : Agent) (rw : Bool) (cf : Option (Nat × Nat × Nat)) (y0 : List Nat) :
    (State.regionFault s a rw cf y0).1.mem = s.mem := by
  induction y0 generalizing s cf with
  | nil => unfold State.regionFault; rfl
  | cons x l ih =>
    unfold State.regionFault
    repeat' first
      | with_reducible rfl
      | split
      | (simp [*]; done)
      | (dsimp only; split)
      | refine (foldl_mem _ _ _ fun s x => ?_).trans ?_
      | refine (foldl_mem1 _ _ _ fun s x => ?_).trans ?_
      | (simp [*]; split)

@[simp] theorem State.barFault_mem (s : State) :
    (State.barFault s).mem = s.mem := by
  unfold State.barFault
  repeat' first
    | with_reducible rfl
    | split
    | (simp [*]; done)
    | (dsimp only; split)
    | refine (foldl_mem _ _ _ fun s x => ?_).trans ?_
    | refine (foldl_mem1 _ _ _ fun s x => ?_).trans ?_
    | (simp [*]; split)

@[simp] theorem barMould_mem (i : Instr) (q : QFields) (f : State → Group → Nat → State) (s : State) (h_f : ∀ x0 x1 x2, (f x0 x1 x2).mem = x0.mem) :
    (barMould i q f s).mem = s.mem := by
  unfold barMould
  refine State.guarded_mem _ _ _ fun g => ?_
  repeat' first
    | with_reducible rfl
    | split
    | (simp [*]; done)
    | (dsimp only; split)
    | simp only [State.modGroup_mem, State.modTeam_mem, State.completeOp_mem, State.setCtx_mem]
    | refine (foldl_mem _ _ _ fun s x => ?_).trans ?_
    | refine (foldl_mem1 _ _ _ fun s x => ?_).trans ?_
    | (simp [*]; split)

@[simp] theorem State.tbarDecide_mem (s : State) (team tb : Nat) (clock : BitVec 48) :
    (State.tbarDecide s team tb clock).mem = s.mem := by
  unfold State.tbarDecide
  repeat' first
    | with_reducible rfl
    | split
    | (simp [*]; done)
    | (dsimp only; split)
    | refine (foldl_mem _ _ _ fun s x => ?_).trans ?_
    | refine (foldl_mem1 _ _ _ fun s x => ?_).trans ?_
    | (simp [*]; split)

@[simp] theorem State.codeAt_mem (s : State) (a : Agent) (va : Word64) :
    (State.codeAt s a va).1.mem = s.mem := by
  unfold State.codeAt
  repeat' first
    | with_reducible rfl
    | split
    | (simp [*]; done)
    | (dsimp only; split)
    | refine (foldl_mem _ _ _ fun s x => ?_).trans ?_
    | refine (foldl_mem1 _ _ _ fun s x => ?_).trans ?_
    | (simp [*]; split)

@[simp] theorem State.issueTransfer_mem (s : State) (counted : Bool) (tr : Transfer) :
    (State.issueTransfer s counted tr).mem = s.mem := by
  unfold State.issueTransfer
  repeat' first
    | with_reducible rfl
    | split
    | (simp [*]; done)
    | (dsimp only; split)
    | refine (foldl_mem _ _ _ fun s x => ?_).trans ?_
    | refine (foldl_mem1 _ _ _ fun s x => ?_).trans ?_
    | (simp [*]; split)

@[simp] theorem brxMould_mem (i : Instr) (x : XFields) (call : Bool) (s : State) :
    (brxMould i x call s).mem = s.mem := by
  unfold brxMould
  repeat' first
    | with_reducible rfl
    | split
    | (simp [*]; done)
    | (dsimp only; split)
    | refine (foldl_mem _ _ _ fun s x => ?_).trans ?_
    | refine (foldl_mem1 _ _ _ fun s x => ?_).trans ?_
    | (simp [*]; split)

@[simp] theorem rteMould_mem (i : Instr) (skip : Bool) (s : State) :
    (rteMould i skip s).mem = s.mem := by
  unfold rteMould
  repeat' first
    | with_reducible rfl
    | split
    | (simp [*]; done)
    | (dsimp only; split)
    | refine (foldl_mem _ _ _ fun s x => ?_).trans ?_
    | refine (foldl_mem1 _ _ _ fun s x => ?_).trans ?_
    | (simp [*]; split)

@[simp] theorem State.predUpdate_mem (s : State) (g : Group) (k : Nat) (pc : Word64) (t : Mask) :
    (State.predUpdate s g k pc t).mem = s.mem := by
  unfold State.predUpdate
  repeat' first
    | with_reducible rfl
    | split
    | (simp [*]; done)
    | (dsimp only; split)
    | refine (foldl_mem _ _ _ fun s x => ?_).trans ?_
    | refine (foldl_mem1 _ _ _ fun s x => ?_).trans ?_
    | (simp [*]; split)

@[simp] theorem State.trapTransfer_mem (s : State) (gid k : Nat) (tr : Transfer) (code : BitVec 8) (einfo : Word64) (lanes : Mask) (faddr : List (Nat × Word64)) :
    (State.trapTransfer s gid k tr code einfo lanes faddr).mem = s.mem := by
  unfold State.trapTransfer
  repeat' first
    | with_reducible rfl
    | split
    | (simp [*]; done)
    | (dsimp only; split)
    | refine (foldl_mem _ _ _ fun s x => ?_).trans ?_
    | refine (foldl_mem1 _ _ _ fun s x => ?_).trans ?_
    | (simp [*]; split)

@[simp] theorem State.linkResult_mem (s : State) (gid k : Nat) (tr : Transfer) :
    (State.linkResult s gid k tr).mem = s.mem := by
  unfold State.linkResult
  repeat' first
    | with_reducible rfl
    | split
    | (simp [*]; done)
    | (dsimp only; split)
    | refine (foldl_mem _ _ _ fun s x => ?_).trans ?_
    | refine (foldl_mem1 _ _ _ fun s x => ?_).trans ?_
    | (simp [*]; split)

@[simp] theorem State.applyTransfer_mem (s : State) (gid k : Nat) (g : Group) (tr : Transfer) (f : Word64) (rest link : Bool) (lanes : Mask) :
    (State.applyTransfer s gid k g tr f rest link lanes).mem = s.mem := by
  unfold State.applyTransfer
  repeat' first
    | with_reducible rfl
    | split
    | (simp [*]; done)
    | (dsimp only; split)
    | refine (foldl_mem _ _ _ fun s x => ?_).trans ?_
    | refine (foldl_mem1 _ _ _ fun s x => ?_).trans ?_
    | (simp [*]; split)

@[simp] theorem State.haltSlot_mem (s : State) (gid k : Nat) :
    (State.haltSlot s gid k).mem = s.mem := by
  unfold State.haltSlot
  repeat' first
    | with_reducible rfl
    | split
    | (simp [*]; done)
    | (dsimp only; split)
    | refine (foldl_mem _ _ _ fun s x => ?_).trans ?_
    | refine (foldl_mem1 _ _ _ fun s x => ?_).trans ?_
    | (simp [*]; split)

@[simp] theorem State.repairHalf_mem (s : State) (gid : Nat) (x : Side) (h : Half) :
    (State.repairHalf s gid x h).mem = s.mem := by
  unfold State.repairHalf
  repeat' first
    | with_reducible rfl
    | split
    | (simp [*]; done)
    | (dsimp only; split)
    | refine (foldl_mem _ _ _ fun s x => ?_).trans ?_
    | refine (foldl_mem1 _ _ _ fun s x => ?_).trans ?_
    | (simp [*]; split)

@[simp] theorem State.specOverflow_mem (s : State) (gid : Nat) (sp : Spec) (depth : Nat) :
    (State.specOverflow s gid sp depth).mem = s.mem := by
  unfold State.specOverflow
  repeat' first
    | with_reducible rfl
    | split
    | (simp [*]; done)
    | (dsimp only; split)
    | simp only [State.modGroup_mem, State.modTeam_mem, State.completeOp_mem, State.setCtx_mem, State.raiseTrap_mem, State.trapClause_mem, State.trapTransfer_mem]
    | refine (foldl_mem _ _ _ fun s x => ?_).trans ?_
    | refine (foldl_mem1 _ _ _ fun s x => ?_).trans ?_
    | (simp [*]; split)

@[simp] theorem State.makeRoom_mem (s : State) (part gid : Nat) (y0 : Nat) :
    (State.makeRoom s part gid y0).mem = s.mem := by
  induction y0 generalizing s with
  | zero => unfold State.makeRoom; rfl
  | succ n ih =>
    unfold State.makeRoom
    repeat' first
      | with_reducible rfl
      | split
      | (simp [*]; done)
      | (dsimp only; split)
      | refine (foldl_mem _ _ _ fun s x => ?_).trans ?_
      | refine (foldl_mem1 _ _ _ fun s x => ?_).trans ?_
      | (simp [*]; split)

@[simp] theorem State.useLines_mem (s : State) (part gid : Nat) (lines : List Nat) :
    (State.useLines s part gid lines).mem = s.mem := by
  unfold State.useLines
  repeat' first
    | with_reducible rfl
    | split
    | (simp [*]; done)
    | (dsimp only; split)
    | refine (foldl_mem _ _ _ fun s x => ?_).trans ?_
    | refine (foldl_mem1 _ _ _ fun s x => ?_).trans ?_
    | (simp [*]; split)

@[simp] theorem State.liftBars_mem (s : State) (part gid : Nat) :
    (State.liftBars s part gid).mem = s.mem := by
  unfold State.liftBars
  repeat' first
    | with_reducible rfl
    | split
    | (simp [*]; done)
    | (dsimp only; split)
    | refine (foldl_mem _ _ _ fun s x => ?_).trans ?_
    | refine (foldl_mem1 _ _ _ fun s x => ?_).trans ?_
    | (simp [*]; split)

@[simp] theorem State.raiseRefusal_mem (s : State) (gid : Nat) (r : Refusal285) (req : TrapReq) :
    (State.raiseRefusal s gid r req).mem = s.mem := by
  unfold State.raiseRefusal
  repeat' first
    | with_reducible rfl
    | split
    | (simp [*]; done)
    | (dsimp only; split)
    | refine (foldl_mem _ _ _ fun s x => ?_).trans ?_
    | refine (foldl_mem1 _ _ _ fun s x => ?_).trans ?_
    | (simp [*]; split)

@[simp] theorem State.startClause_mem (s : State) (gid : Nat) (g : Group) (k cs : Nat) :
    (State.startClause s gid g k cs).mem = s.mem := by
  unfold State.startClause
  repeat' first
    | with_reducible rfl
    | split
    | (simp [*]; done)
    | (dsimp only; split)
    | refine (foldl_mem _ _ _ fun s x => ?_).trans ?_
    | refine (foldl_mem1 _ _ _ fun s x => ?_).trans ?_
    | (simp [*]; split)

@[simp] theorem State.queueJobs_mem (s : State) (gid op : Nat) (g : Group) (user : Bool) (clock : BitVec 48) (l : List CopyRec) :
    (State.queueJobs s gid op g user clock l).mem = s.mem := by
  unfold State.queueJobs
  repeat' first
    | with_reducible rfl
    | split
    | (simp [*]; done)
    | (dsimp only; split)
    | refine (foldl_mem _ _ _ fun s x => ?_).trans ?_
    | refine (foldl_mem1 _ _ _ fun s x => ?_).trans ?_
    | (simp [*]; split)

@[simp] theorem State.acceptNext_mem (s : State) (core : Nat) :
    (State.acceptNext s core).mem = s.mem := by
  unfold State.acceptNext
  repeat' first
    | with_reducible rfl
    | split
    | (simp [*]; done)
    | (dsimp only; split)
    | refine (foldl_mem _ _ _ fun s x => ?_).trans ?_
    | refine (foldl_mem1 _ _ _ fun s x => ?_).trans ?_
    | (simp [*]; split)

@[simp] theorem State.engLoc_mem (s : State) (j : CopyJob) (va n : Nat) (write : Bool) :
    (State.engLoc s j va n write).1.mem = s.mem := by
  unfold State.engLoc
  repeat' first
    | with_reducible rfl
    | split
    | (simp [*]; done)
    | (dsimp only; split)
    | refine (foldl_mem _ _ _ fun s x => ?_).trans ?_
    | refine (foldl_mem1 _ _ _ fun s x => ?_).trans ?_
    | (simp [*]; split)

@[simp] theorem State.nodePut_mem (s : State) (core key pa : Nat) (b : List Byte) :
    (State.nodePut s core key pa b).mem = s.mem := by
  unfold State.nodePut
  split
  · rfl
  · dsimp only
    rw [State.request_mem]
    exact foldl_mem _ _ _ fun s x => foldl_mem _ _ _ fun s x => rfl

@[simp] theorem State.jobDone_mem (s : State) (key n : Nat) (j : CopyJob) :
    (State.jobDone s key n j).mem = s.mem := by
  unfold State.jobDone
  repeat' first
    | with_reducible rfl
    | split
    | (simp [*]; done)
    | (dsimp only; split)
    | refine (foldl_mem _ _ _ fun s x => ?_).trans ?_
    | refine (foldl_mem1 _ _ _ fun s x => ?_).trans ?_
    | (simp [*]; split)

@[simp] theorem State.withObj_mem (s : State) (g : Group) (q : QFields) (f : State → LaneAcc → State) (h_f : ∀ x0 x1, (f x0 x1).mem = x0.mem) :
    (State.withObj s g q f).mem = s.mem := by
  unfold State.withObj
  repeat' first
    | with_reducible rfl
    | split
    | (simp [*]; done)
    | (dsimp only; split)
    | refine (foldl_mem _ _ _ fun s x => ?_).trans ?_
    | refine (foldl_mem1 _ _ _ fun s x => ?_).trans ?_
    | (simp [*]; split)

@[simp] theorem State.prefetch_mem (s : State) (j : PfbJob) (va : Nat) :
    (State.prefetch s j va).1.mem = s.mem := by
  unfold State.prefetch
  repeat' first
    | with_reducible rfl
    | split
    | (simp [*]; done)
    | (dsimp only; split)
    | refine (foldl_mem _ _ _ fun s x => ?_).trans ?_
    | refine (foldl_mem1 _ _ _ fun s x => ?_).trans ?_
    | (simp [*]; split)

@[simp] theorem State.fieldPage_mem (s : State) (ctx : Nat) (va : Word64) :
    (State.fieldPage s ctx va).1.mem = s.mem := by
  unfold State.fieldPage
  repeat' first
    | with_reducible rfl
    | split
    | (simp [*]; done)
    | (dsimp only; split)
    | refine (foldl_mem _ _ _ fun s x => ?_).trans ?_
    | refine (foldl_mem1 _ _ _ fun s x => ?_).trans ?_
    | (simp [*]; split)

@[simp] theorem State.cellRead_mem (s : State) (n pa : Nat) :
    (State.cellRead s n pa).1.mem = s.mem := by
  unfold State.cellRead
  repeat' first
    | with_reducible rfl
    | split
    | (simp [*]; done)
    | (dsimp only; split)
    | refine (foldl_mem _ _ _ fun s x => ?_).trans ?_
    | refine (foldl_mem1 _ _ _ fun s x => ?_).trans ?_
    | (simp [*]; split)

@[simp] theorem State.modDomain_mem (s : State) (ctx d : Nat) (f : Domain → Domain) :
    (State.modDomain s ctx d f).mem = s.mem := by
  unfold State.modDomain
  repeat' first
    | with_reducible rfl
    | split
    | (simp [*]; done)
    | (dsimp only; split)
    | refine (foldl_mem _ _ _ fun s x => ?_).trans ?_
    | refine (foldl_mem1 _ _ _ fun s x => ?_).trans ?_
    | (simp [*]; split)

@[simp] theorem State.checkCells_mem (s : State) (a : Agent) (lane : Nat) (f : Field) (y0 : List Nat) :
    (State.checkCells s a lane f y0).1.mem = s.mem := by
  induction y0 generalizing s with
  | nil => unfold State.checkCells; rfl
  | cons x l ih =>
    unfold State.checkCells
    repeat' first
      | with_reducible rfl
      | split
      | (simp [*]; done)
      | (dsimp only; split)
      | refine (foldl_mem _ _ _ fun s x => ?_).trans ?_
      | refine (foldl_mem1 _ _ _ fun s x => ?_).trans ?_
      | (simp [*]; split)

@[simp] theorem State.checkTxf_mem (s : State) (a : Agent) (f : Option Field) (cells : Nat → List Nat) (lanes : List Nat) :
    (State.checkTxf s a f cells lanes).1.mem = s.mem := by
  unfold State.checkTxf
  repeat' first
    | with_reducible rfl
    | split
    | (simp [*]; done)
    | (dsimp only; split)
    | refine (foldl_mem _ _ _ fun s x => ?_).trans ?_
    | refine (foldl_mem1 _ _ _ fun s x => ?_).trans ?_
    | (simp [*]; split)

@[simp] theorem State.laneDone_mem (s : State) (p : Pair) (refused : Option Nat) (c : Nat) :
    (State.laneDone s p refused c).mem = s.mem := by
  unfold State.laneDone
  repeat' first
    | with_reducible rfl
    | split
    | (simp [*]; done)
    | (dsimp only; split)
    | refine (foldl_mem _ _ _ fun s x => ?_).trans ?_
    | refine (foldl_mem1 _ _ _ fun s x => ?_).trans ?_
    | (simp [*]; split)

@[simp] theorem State.holdReturn_mem (s : State) (p : Pair) (f : Field) (amt : Nat) :
    (State.holdReturn s p f amt).mem = s.mem := by
  unfold State.holdReturn
  repeat' first
    | with_reducible rfl
    | split
    | (simp [*]; done)
    | (dsimp only; split)
    | refine (foldl_mem _ _ _ fun s x => ?_).trans ?_
    | refine (foldl_mem1 _ _ _ fun s x => ?_).trans ?_
    | (simp [*]; split)

@[simp] theorem State.answer_mem (s : State) (gid n sb : Nat) (l : List Word64) :
    (State.answer s gid n sb l).mem = s.mem := by
  unfold State.answer
  repeat' first
    | with_reducible rfl
    | split
    | (simp [*]; done)
    | (dsimp only; split)
    | refine (foldl_mem _ _ _ fun s x => ?_).trans ?_
    | refine (foldl_mem1 _ _ _ fun s x => ?_).trans ?_
    | (simp [*]; split)

@[simp] theorem State.applyFtot_mem (dom sb : Nat) (others : List Totals) (s : State) (gid n : Nat) :
    (State.applyFtot dom sb others s gid n).mem = s.mem := by
  unfold State.applyFtot
  repeat' first
    | with_reducible rfl
    | split
    | (simp [*]; done)
    | (dsimp only; split)
    | refine (foldl_mem _ _ _ fun s x => ?_).trans ?_
    | refine (foldl_mem1 _ _ _ fun s x => ?_).trans ?_
    | (simp [*]; split)

@[simp] theorem State.opNow_mem (s : State) (mer : Bool) (kind : OpKind) (apply : State → Nat → Nat → State) (h_apply : ∀ x0 x1 x2, (apply x0 x1 x2).mem = x0.mem) :
    (State.opNow s mer kind apply).mem = s.mem := by
  unfold State.opNow
  repeat' first
    | with_reducible rfl
    | split
    | (simp [*]; done)
    | (dsimp only; split)
    | refine (foldl_mem _ _ _ fun s x => ?_).trans ?_
    | refine (foldl_mem1 _ _ _ fun s x => ?_).trans ?_
    | (simp [*]; split)

@[simp] theorem State.ownSum_mem (s : State) (ctx : Nat) (f : Field) (y0 : Nat) (y1 : Nat) :
    (State.ownSum s ctx f y0 y1).1.mem = s.mem := by
  induction y1 generalizing s y0 with
  | zero => simp [State.ownSum]
  | succ n ih =>
    unfold State.ownSum
    repeat' first
      | with_reducible rfl
      | split
      | (simp [*]; done)
      | (dsimp only; split)
      | simp only [State.modGroup_mem, State.modTeam_mem, State.completeOp_mem, State.setCtx_mem]
      | refine (foldl_mem _ _ _ fun s x => ?_).trans ?_
      | refine (foldl_mem1 _ _ _ fun s x => ?_).trans ?_
      | (simp [*]; split)

@[simp] theorem State.register_mem (s : State) (ctx : Nat) (desc : List Byte) :
    (State.register s ctx desc).1.mem = s.mem := by
  unfold State.register
  repeat' first
    | with_reducible rfl
    | split
    | (simp [*]; done)
    | (dsimp only; split)
    | refine (foldl_mem _ _ _ fun s x => ?_).trans ?_
    | refine (foldl_mem1 _ _ _ fun s x => ?_).trans ?_
    | (simp [*]; split)

@[simp] theorem State.applyFdef_mem (desc : List Byte) (sb : Nat) (s : State) (gid n : Nat) :
    (State.applyFdef desc sb s gid n).mem = s.mem := by
  unfold State.applyFdef
  repeat' first
    | with_reducible rfl
    | split
    | (simp [*]; done)
    | (dsimp only; split)
    | refine (foldl_mem _ _ _ fun s x => ?_).trans ?_
    | refine (foldl_mem1 _ _ _ fun s x => ?_).trans ?_
    | (simp [*]; split)

@[simp] theorem State.bndSum_mem (s : State) (ctx own : Nat) (f : Field) :
    (State.bndSum s ctx own f).1.mem = s.mem := by
  unfold State.bndSum
  repeat' first
    | with_reducible rfl
    | split
    | (simp [*]; done)
    | (dsimp only; split)
    | refine (foldl_mem _ _ _ fun s x => ?_).trans ?_
    | refine (foldl_mem1 _ _ _ fun s x => ?_).trans ?_
    | (simp [*]; split)

@[simp] theorem State.dropField_mem (s : State) (ctx n : Nat) (f : Field) :
    (State.dropField s ctx n f).mem = s.mem := by
  unfold State.dropField
  repeat' first
    | with_reducible rfl
    | split
    | (simp [*]; done)
    | (dsimp only; split)
    | refine (foldl_mem _ _ _ fun s x => ?_).trans ?_
    | refine (foldl_mem1 _ _ _ fun s x => ?_).trans ?_
    | (simp [*]; split)

@[simp] theorem State.applyFdrop_mem (handle : Word64) (sb : Nat) (s : State) (gid n : Nat) :
    (State.applyFdrop handle sb s gid n).mem = s.mem := by
  unfold State.applyFdrop
  repeat' first
    | with_reducible rfl
    | split
    | (simp [*]; done)
    | (dsimp only; split)
    | refine (foldl_mem _ _ _ fun s x => ?_).trans ?_
    | refine (foldl_mem1 _ _ _ fun s x => ?_).trans ?_
    | (simp [*]; split)

@[simp] theorem State.bndCell_mem (s : State) (ctx : Nat) (f : Field) (j : Nat) :
    (State.bndCell s ctx f j).1.mem = s.mem := by
  unfold State.bndCell
  repeat' first
    | with_reducible rfl
    | split
    | (simp [*]; done)
    | (dsimp only; split)
    | refine (foldl_mem _ _ _ fun s x => ?_).trans ?_
    | refine (foldl_mem1 _ _ _ fun s x => ?_).trans ?_
    | (simp [*]; split)

@[simp] theorem State.fbndCell_mem (s : State) (ctx : Nat) (handle : Word64) (j : Nat) :
    (State.fbndCell s ctx handle j).1.mem = s.mem := by
  unfold State.fbndCell
  repeat' first
    | with_reducible rfl
    | split
    | (simp [*]; done)
    | (dsimp only; split)
    | refine (foldl_mem _ _ _ fun s x => ?_).trans ?_
    | refine (foldl_mem1 _ _ _ fun s x => ?_).trans ?_
    | (simp [*]; split)

@[simp] theorem State.modQueue_mem (s : State) (q : Nat) (f : Queue → Queue) :
    (State.modQueue s q f).mem = s.mem := by
  unfold State.modQueue
  repeat' first
    | with_reducible rfl
    | split
    | (simp [*]; done)
    | (dsimp only; split)
    | refine (foldl_mem _ _ _ fun s x => ?_).trans ?_
    | refine (foldl_mem1 _ _ _ fun s x => ?_).trans ?_
    | (simp [*]; split)

@[simp] theorem State.queueDone_mem (s : State) (gid n : Nat) (sb : Option Nat) (st : Word64) (clock : BitVec 48) :
    (State.queueDone s gid n sb st clock).mem = s.mem := by
  unfold State.queueDone
  repeat' first
    | with_reducible rfl
    | split
    | (simp [*]; done)
    | (dsimp only; split)
    | refine (foldl_mem _ _ _ fun s x => ?_).trans ?_
    | refine (foldl_mem1 _ _ _ fun s x => ?_).trans ?_
    | (simp [*]; split)

@[simp] theorem State.setOp_mem (s : State) (gid n : Nat) (k : OpKind) :
    (State.setOp s gid n k).mem = s.mem := by
  unfold State.setOp
  repeat' first
    | with_reducible rfl
    | split
    | (simp [*]; done)
    | (dsimp only; split)
    | refine (foldl_mem _ _ _ fun s x => ?_).trans ?_
    | refine (foldl_mem1 _ _ _ fun s x => ?_).trans ?_
    | (simp [*]; split)

@[simp] theorem State.takeEntry_mem (s : State) (g : Group) (n queue : Nat) :
    (State.takeEntry s g n queue).1.mem = s.mem := by
  unfold State.takeEntry
  repeat' first
    | with_reducible rfl
    | split
    | (simp [*]; done)
    | (dsimp only; split)
    | refine (foldl_mem _ _ _ fun s x => ?_).trans ?_
    | refine (foldl_mem1 _ _ _ fun s x => ?_).trans ?_
    | (simp [*]; split)

@[simp] theorem State.assignEntry_mem (s : State) (queue : Nat) :
    (State.assignEntry s queue).mem = s.mem := by
  unfold State.assignEntry
  repeat' first
    | with_reducible rfl
    | split
    | (simp [*]; done)
    | (dsimp only; split)
    | refine (foldl_mem _ _ _ fun s x => ?_).trans ?_
    | refine (foldl_mem1 _ _ _ fun s x => ?_).trans ?_
    | (simp [*]; split)

@[simp] theorem State.feed_mem (s : State) (queue : Nat) :
    (State.feed s queue).mem = s.mem := by
  unfold State.feed
  repeat' first
    | with_reducible rfl
    | split
    | (simp [*]; done)
    | (dsimp only; split)
    | refine (foldl_mem _ _ _ fun s x => ?_).trans ?_
    | refine (foldl_mem1 _ _ _ fun s x => ?_).trans ?_
    | (simp [*]; split)

@[simp] theorem State.laneZero_mem (s : State) (gid : Nat) (code : Nat) :
    (State.laneZero s gid code).mem = s.mem := by
  unfold State.laneZero
  repeat' first
    | with_reducible rfl
    | split
    | (simp [*]; done)
    | (dsimp only; split)
    | refine (foldl_mem _ _ _ fun s x => ?_).trans ?_
    | refine (foldl_mem1 _ _ _ fun s x => ?_).trans ?_
    | (simp [*]; split)

@[simp] theorem State.withRecord_mem (s : State) (g : Group) (va : Word64) (f : State → State) (h_f : ∀ x0, (f x0).mem = x0.mem) :
    (State.withRecord s g va f).mem = s.mem := by
  unfold State.withRecord
  repeat' first
    | with_reducible rfl
    | split
    | (simp [*]; done)
    | (dsimp only; split)
    | refine (foldl_mem _ _ _ fun s x => ?_).trans ?_
    | refine (foldl_mem1 _ _ _ fun s x => ?_).trans ?_
    | (simp [*]; split)

@[simp] theorem State.failWaiter_mem (s : State) (w : Waiter) :
    (State.failWaiter s w).mem = s.mem := by
  unfold State.failWaiter
  repeat' first
    | with_reducible rfl
    | split
    | (simp [*]; done)
    | (dsimp only; split)
    | refine (foldl_mem _ _ _ fun s x => ?_).trans ?_
    | refine (foldl_mem1 _ _ _ fun s x => ?_).trans ?_
    | (simp [*]; split)

@[simp] theorem State.setInst_mem (s : State) (team unit : Nat) (x : Inst) :
    (State.setInst s team unit x).mem = s.mem := by
  unfold State.setInst
  repeat' first
    | with_reducible rfl
    | split
    | (simp [*]; done)
    | (dsimp only; split)
    | refine (foldl_mem _ _ _ fun s x => ?_).trans ?_
    | refine (foldl_mem1 _ _ _ fun s x => ?_).trans ?_
    | (simp [*]; split)

@[simp] theorem State.streamTrap_mem (s : State) (sub detail : BitVec 8) (wordAt : Word64) :
    (State.streamTrap s sub detail wordAt).mem = s.mem := by
  unfold State.streamTrap
  repeat' first
    | with_reducible rfl
    | split
    | (simp [*]; done)
    | (dsimp only; split)
    | refine (foldl_mem _ _ _ fun s x => ?_).trans ?_
    | refine (foldl_mem1 _ _ _ fun s x => ?_).trans ?_
    | (simp [*]; split)

@[simp] theorem State.streamDone_mem (s : State) (cost : Nat) (x : Inst) :
    (State.streamDone s cost x).mem = s.mem := by
  unfold State.streamDone
  repeat' first
    | with_reducible rfl
    | split
    | (simp [*]; done)
    | (dsimp only; split)
    | refine (foldl_mem _ _ _ fun s x => ?_).trans ?_
    | refine (foldl_mem1 _ _ _ fun s x => ?_).trans ?_
    | (simp [*]; split)

@[simp] theorem State.guardedStream_mem (s : State) (i : Instr) (f : Team → Inst → State) (h_f : ∀ x0 x1, (f x0 x1).mem = s.mem) :
    (State.guardedStream s i f).mem = s.mem := by
  unfold State.guardedStream
  repeat' first
    | with_reducible rfl
    | split
    | (simp [*]; done)
    | (dsimp only; split)
    | refine (foldl_mem _ _ _ fun s x => ?_).trans ?_
    | refine (foldl_mem1 _ _ _ fun s x => ?_).trans ?_
    | (simp [*]; split)

@[simp] theorem State.streamGo_mem (s : State) (n : Inst) (target : Word64) :
    (State.streamGo s n target).mem = s.mem := by
  unfold State.streamGo
  repeat' first
    | with_reducible rfl
    | split
    | (simp [*]; done)
    | (dsimp only; split)
    | refine (foldl_mem _ _ _ fun s x => ?_).trans ?_
    | refine (foldl_mem1 _ _ _ fun s x => ?_).trans ?_
    | (simp [*]; split)

@[simp] theorem State.region_mem (s : State) (team : Nat) (t : Team) (n : Inst) (off bytes : Nat) (write : Bool) :
    (State.region s team t n off bytes write).1.mem = s.mem := by
  unfold State.region
  repeat' first
    | with_reducible rfl
    | split
    | (simp [*]; done)
    | (dsimp only; split)
    | refine (foldl_mem _ _ _ fun s x => ?_).trans ?_
    | refine (foldl_mem1 _ _ _ fun s x => ?_).trans ?_
    | (simp [*]; split)

@[simp] theorem State.withRegion_mem (s : State) (t : Team) (n : Inst) (off bytes : Nat) (write : Bool) (f : State → Nat → Nat → State) (h_f : ∀ x0 x1 x2, (f x0 x1 x2).mem = x0.mem) :
    (State.withRegion s t n off bytes write f).mem = s.mem := by
  unfold State.withRegion
  repeat' first
    | with_reducible rfl
    | split
    | (simp [*]; done)
    | (dsimp only; split)
    | refine (foldl_mem _ _ _ fun s x => ?_).trans ?_
    | refine (foldl_mem1 _ _ _ fun s x => ?_).trans ?_
    | (simp [*]; split)

@[simp] theorem State.endByMatrix_mem (s : State) (t : Team) (tr : StreamTrap) :
    (State.endByMatrix s t tr).mem = s.mem := by
  unfold State.endByMatrix
  repeat' first
    | with_reducible rfl
    | split
    | (simp [*]; done)
    | (dsimp only; split)
    | refine (foldl_mem _ _ _ fun s x => ?_).trans ?_
    | refine (foldl_mem1 _ _ _ fun s x => ?_).trans ?_
    | (simp [*]; split)

@[simp] theorem State.signal_mem (s : State) (v : Nat) :
    (State.signal s v).mem = s.mem := by
  unfold State.signal
  repeat' first
    | with_reducible rfl
    | split
    | (simp [*]; done)
    | (dsimp only; split)
    | refine (foldl_mem _ _ _ fun s x => ?_).trans ?_
    | refine (foldl_mem1 _ _ _ fun s x => ?_).trans ?_
    | (simp [*]; split)

@[simp] theorem State.endInval_mem (page : Option Word64) (cst : Bool) (bound : Nat) (s : State) (gid n : Nat) :
    (State.endInval page cst bound s gid n).mem = s.mem := by
  unfold State.endInval
  repeat' first
    | with_reducible rfl
    | split
    | (simp [*]; done)
    | (dsimp only; split)
    | refine (foldl_mem _ _ _ fun s x => ?_).trans ?_
    | refine (foldl_mem1 _ _ _ fun s x => ?_).trans ?_
    | (simp [*]; split)

@[simp] theorem State.settleBusy_mem (s : State) :
    (State.settleBusy s).mem = s.mem := by
  unfold State.settleBusy
  repeat' first
    | with_reducible rfl
    | split
    | (simp [*]; done)
    | (dsimp only; split)
    | refine (foldl_mem _ _ _ fun s x => ?_).trans ?_
    | refine (foldl_mem1 _ _ _ fun s x => ?_).trans ?_
    | (simp [*]; split)

@[simp] theorem State.pathFrom_mem (s : State) (die va : Nat) (y0 : Nat) (y1 : Nat) (y2 : Nat) :
    (State.pathFrom s die va y0 y1 y2).1.mem = s.mem := by
  induction y0 generalizing s y1 y2 with
  | zero => unfold State.pathFrom; rfl
  | succ n ih =>
    unfold State.pathFrom
    repeat' first
      | with_reducible rfl
      | split
      | (simp [*]; done)
      | (dsimp only; split)
      | refine (foldl_mem _ _ _ fun s x => ?_).trans ?_
      | refine (foldl_mem1 _ _ _ fun s x => ?_).trans ?_
      | (simp [*]; split)

@[simp] theorem State.pool_mem (s : State) (die c : Nat) :
    (State.pool s die c).1.mem = s.mem := by
  unfold State.pool
  repeat' first
    | with_reducible rfl
    | split
    | (simp [*]; done)
    | (dsimp only; split)
    | refine (foldl_mem _ _ _ fun s x => ?_).trans ?_
    | refine (foldl_mem1 _ _ _ fun s x => ?_).trans ?_
    | (simp [*]; split)

@[simp] theorem State.directory_mem (s : State) (die : Nat) (p : Pool) :
    (State.directory s die p).1.mem = s.mem := by
  unfold State.directory
  repeat' first
    | with_reducible rfl
    | split
    | (simp [*]; done)
    | (dsimp only; split)
    | refine (foldl_mem _ _ _ fun s x => ?_).trans ?_
    | refine (foldl_mem1 _ _ _ fun s x => ?_).trans ?_
    | (simp [*]; split)

@[simp] theorem State.mapTarget_mem (s : State) (die c : Nat) (va : Word64) :
    (State.mapTarget s die c va).1.mem = s.mem := by
  unfold State.mapTarget
  repeat' first
    | with_reducible rfl
    | split
    | (simp [*]; done)
    | (dsimp only; split)
    | refine (foldl_mem _ _ _ fun s x => ?_).trans ?_
    | refine (foldl_mem1 _ _ _ fun s x => ?_).trans ?_
    | (simp [*]; split)

@[simp] theorem mapNow_mem (i : Instr) (q : QFields) (f : State → Nat → Nat → Word64 → State × Nat) (s : State) (h_f : ∀ x0 x1 x2 x3, (f x0 x1 x2 x3).1.mem = x0.mem) :
    (mapNow i q f s).mem = s.mem := by
  unfold mapNow
  repeat' first
    | with_reducible rfl
    | split
    | (simp [*]; done)
    | (dsimp only; split)
    | refine (foldl_mem _ _ _ fun s x => ?_).trans ?_
    | refine (foldl_mem1 _ _ _ fun s x => ?_).trans ?_
    | (simp [*]; split)

@[simp] theorem State.replicas_mem (s : State) (die : Nat) (y0 : Nat) (y1 : Nat) (y2 : Nat) :
    (State.replicas s die y0 y1 y2).1.mem = s.mem := by
  induction y0 generalizing s y1 y2 with
  | zero => unfold State.replicas; rfl
  | succ n ih =>
    unfold State.replicas
    repeat' first
      | with_reducible rfl
      | split
      | (simp [*]; done)
      | (dsimp only; split)
      | refine (foldl_mem _ _ _ fun s x => ?_).trans ?_
      | refine (foldl_mem1 _ _ _ fun s x => ?_).trans ?_
      | (simp [*]; split)

@[simp] theorem State.vplaces_mem (s : State) (c : Nat) (write : Bool) (y0 : Nat) (y1 : Word64) :
    (State.vplaces s c write y0 y1).1.mem = s.mem := by
  induction y0 generalizing s y1 with
  | zero => unfold State.vplaces; rfl
  | succ n ih =>
    unfold State.vplaces
    repeat' first
      | with_reducible rfl
      | split
      | (simp [*]; done)
      | (dsimp only; split)
      | refine (foldl_mem _ _ _ fun s x => ?_).trans ?_
      | refine (foldl_mem1 _ _ _ fun s x => ?_).trans ?_
      | (simp [*]; split)

@[simp] theorem State.vread_mem (s : State) (c n : Nat) (va : Word64) :
    (State.vread s c n va).1.mem = s.mem := by
  unfold State.vread
  repeat' first
    | with_reducible rfl
    | split
    | (simp [*]; done)
    | (dsimp only; split)
    | refine (foldl_mem _ _ _ fun s x => ?_).trans ?_
    | refine (foldl_mem1 _ _ _ fun s x => ?_).trans ?_
    | (simp [*]; split)

@[simp] theorem State.depHeader_mem (s : State) (c : Nat) (l : LaunchRec) :
    (State.depHeader s c l).1.mem = s.mem := by
  unfold State.depHeader
  repeat' first
    | with_reducible rfl
    | split
    | (simp [*]; done)
    | (dsimp only; split)
    | refine (foldl_mem _ _ _ fun s x => ?_).trans ?_
    | refine (foldl_mem1 _ _ _ fun s x => ?_).trans ?_
    | (simp [*]; split)

@[simp] theorem State.depBits_mem (s : State) (c t : Nat) (l : LaunchRec) (teams : Nat) :
    (State.depBits s c t l teams).1.mem = s.mem := by
  unfold State.depBits
  repeat' first
    | with_reducible rfl
    | split
    | (simp [*]; done)
    | (dsimp only; split)
    | refine (foldl_mem _ _ _ fun s x => ?_).trans ?_
    | refine (foldl_mem1 _ _ _ fun s x => ?_).trans ?_
    | (simp [*]; split)

@[simp] theorem State.depends_mem (s : State) (c t : Nat) (l : LaunchRec) :
    (State.depends s c t l).1.mem = s.mem := by
  unfold State.depends
  repeat' first
    | with_reducible rfl
    | split
    | (simp [*]; done)
    | (dsimp only; split)
    | refine (foldl_mem _ _ _ fun s x => ?_).trans ?_
    | refine (foldl_mem1 _ _ _ fun s x => ?_).trans ?_
    | (simp [*]; split)

@[simp] theorem State.dependAll_mem (s : State) (c : Nat) (l : LaunchRec) (y0 : Nat) :
    (State.dependAll s c l y0).1.mem = s.mem := by
  induction y0 generalizing s with
  | zero => unfold State.dependAll; rfl
  | succ n ih =>
    unfold State.dependAll
    repeat' first
      | with_reducible rfl
      | split
      | (simp [*]; done)
      | (dsimp only; split)
      | refine (foldl_mem _ _ _ fun s x => ?_).trans ?_
      | refine (foldl_mem1 _ _ _ fun s x => ?_).trans ?_
      | (simp [*]; split)

@[simp] theorem State.headOf_mem (s : State) (q : Queue) :
    (State.headOf s q).1.mem = s.mem := by
  unfold State.headOf
  repeat' first
    | with_reducible rfl
    | split
    | (simp [*]; done)
    | (dsimp only; split)
    | refine (foldl_mem _ _ _ fun s x => ?_).trans ?_
    | refine (foldl_mem1 _ _ _ fun s x => ?_).trans ?_
    | (simp [*]; split)

@[simp] theorem State.heads_mem (s : State) :
    (State.heads s).1.mem = s.mem := by
  unfold State.heads
  repeat' first
    | with_reducible rfl
    | split
    | (simp [*]; done)
    | (dsimp only; split)
    | refine (foldl_mem _ _ _ fun s x => ?_).trans ?_
    | refine (foldl_mem1 _ _ _ fun s x => ?_).trans ?_
    | (simp [*]; split)

@[simp] theorem State.admission_mem (s : State) (c : Nat) (l : LaunchRec) :
    (State.admission s c l).1.mem = s.mem := by
  unfold State.admission
  repeat' first
    | with_reducible rfl
    | split
    | (simp [*]; done)
    | (dsimp only; split)
    | refine (foldl_mem _ _ _ fun s x => ?_).trans ?_
    | refine (foldl_mem1 _ _ _ fun s x => ?_).trans ?_
    | (simp [*]; split)

@[simp] theorem State.depCheck_mem (s : State) (gr : Grid) (t : Nat) :
    (State.depCheck s gr t).1.mem = s.mem := by
  unfold State.depCheck
  repeat' first
    | with_reducible rfl
    | split
    | (simp [*]; done)
    | (dsimp only; split)
    | refine (foldl_mem _ _ _ fun s x => ?_).trans ?_
    | refine (foldl_mem1 _ _ _ fun s x => ?_).trans ?_
    | (simp [*]; split)

@[simp] theorem State.markLate_mem (s : State) (cl : Nat) :
    (State.markLate s cl).mem = s.mem := by
  unfold State.markLate
  repeat' first
    | with_reducible rfl
    | split
    | (simp [*]; done)
    | (dsimp only; split)
    | refine (foldl_mem _ _ _ fun s x => ?_).trans ?_
    | refine (foldl_mem1 _ _ _ fun s x => ?_).trans ?_
    | (simp [*]; split)

@[simp] theorem State.finalRefusal_mem (s : State) (gid : Nat) (g : Group) (e : LastExit) (r : Refusal285) :
    (State.finalRefusal s gid g e r).mem = s.mem := by
  unfold State.finalRefusal
  repeat' first
    | with_reducible rfl
    | split
    | (simp [*]; done)
    | (dsimp only; split)
    | refine (foldl_mem _ _ _ fun s x => ?_).trans ?_
    | refine (foldl_mem1 _ _ _ fun s x => ?_).trans ?_
    | (simp [*]; split)

@[simp] theorem State.commitCopy_mem (s : State) (gid : Nat) (b : BrineOp) :
    (State.commitCopy s gid b).mem = s.mem := by
  unfold State.commitCopy
  repeat' first
    | with_reducible rfl
    | split
    | (simp [*]; done)
    | (dsimp only; split)
    | refine (foldl_mem _ _ _ fun s x => ?_).trans ?_
    | refine (foldl_mem1 _ _ _ fun s x => ?_).trans ?_
    | (simp [*]; split)

@[simp] theorem State.sendUnit_mem (s : State) (u : Unit64) :
    (State.sendUnit s u).mem = s.mem := by
  unfold State.sendUnit
  repeat' first
    | with_reducible rfl
    | split
    | (simp [*]; done)
    | (dsimp only; split)
    | refine (foldl_mem _ _ _ fun s x => ?_).trans ?_
    | refine (foldl_mem1 _ _ _ fun s x => ?_).trans ?_
    | (simp [*]; split)

@[simp] theorem State.invalidateHost_mem (s : State) :
    (State.invalidateHost s).mem = s.mem := by
  unfold State.invalidateHost
  repeat' first
    | with_reducible rfl
    | split
    | (simp [*]; done)
    | (dsimp only; split)
    | refine (foldl_mem _ _ _ fun s x => ?_).trans ?_
    | refine (foldl_mem1 _ _ _ fun s x => ?_).trans ?_
    | (simp [*]; split)

@[simp] theorem State.writeValid_mem (s : State) (ctx : Nat) (v : Bool) :
    (State.writeValid s ctx v).mem = s.mem := by
  unfold State.writeValid
  repeat' first
    | with_reducible rfl
    | split
    | (simp [*]; done)
    | (dsimp only; split)
    | refine (foldl_mem _ _ _ fun s x => ?_).trans ?_
    | refine (foldl_mem1 _ _ _ fun s x => ?_).trans ?_
    | (simp [*]; split)

@[simp] theorem State.writeEntry_mem (s : State) (ctx off : Nat) (v : Word64) :
    (State.writeEntry s ctx off v).mem = s.mem := by
  unfold State.writeEntry
  repeat' first
    | with_reducible rfl
    | split
    | (simp [*]; done)
    | (dsimp only; split)
    | refine (foldl_mem _ _ _ fun s x => ?_).trans ?_
    | refine (foldl_mem1 _ _ _ fun s x => ?_).trans ?_
    | (simp [*]; split)

@[simp] theorem State.msixWrite_mem (s : State) (word : Nat) (v : Word64) :
    (State.msixWrite s word v).mem = s.mem := by
  unfold State.msixWrite
  repeat' first
    | with_reducible rfl
    | split
    | (simp [*]; done)
    | (dsimp only; split)
    | refine (foldl_mem _ _ _ fun s x => ?_).trans ?_
    | refine (foldl_mem1 _ _ _ fun s x => ?_).trans ?_
    | (simp [*]; split)

@[simp] theorem State.grant_mem (s : State) (o pa : Nat) (own : Bool) (req : HostReq) :
    (State.grant s o pa own req).mem = s.mem := by
  unfold State.grant
  repeat' first
    | with_reducible rfl
    | split
    | (simp [*]; done)
    | (dsimp only; split)
    | refine (foldl_mem _ _ _ fun s x => ?_).trans ?_
    | refine (foldl_mem1 _ _ _ fun s x => ?_).trans ?_
    | (simp [*]; split)

@[simp] theorem State.removeTeam_mem (s : State) (team : Nat) (t : Team) :
    (State.removeTeam s team t).mem = s.mem := by
  unfold State.removeTeam
  repeat' first
    | with_reducible rfl
    | split
    | (simp [*]; done)
    | (dsimp only; split)
    | refine (foldl_mem _ _ _ fun s x => ?_).trans ?_
    | refine (foldl_mem1 _ _ _ fun s x => ?_).trans ?_
    | (simp [*]; split)

@[simp] theorem State.freeClauses_mem (s : State) (c : Nat) :
    (State.freeClauses s c).mem = s.mem := by
  unfold State.freeClauses
  repeat' first
    | with_reducible rfl
    | split
    | (simp [*]; done)
    | (dsimp only; split)
    | refine (foldl_mem _ _ _ fun s x => ?_).trans ?_
    | refine (foldl_mem1 _ _ _ fun s x => ?_).trans ?_
    | (simp [*]; split)

@[simp] theorem State.portEvent_mem (s : State) (typ p : Nat) (old new : BitVec 16) (place : Word64) :
    (State.portEvent s typ p old new place).mem = s.mem := by
  unfold State.portEvent
  repeat' first
    | with_reducible rfl
    | split
    | (simp [*]; done)
    | (dsimp only; split)
    | refine (foldl_mem _ _ _ fun s x => ?_).trans ?_
    | refine (foldl_mem1 _ _ _ fun s x => ?_).trans ?_
    | (simp [*]; split)

@[simp] theorem State.resend_mem (s : State) (p : Nat) :
    (State.resend s p).mem = s.mem := by
  unfold State.resend
  repeat' first
    | with_reducible rfl
    | split
    | (simp [*]; done)
    | (dsimp only; split)
    | refine (foldl_mem _ _ _ fun s x => ?_).trans ?_
    | refine (foldl_mem1 _ _ _ fun s x => ?_).trans ?_
    | (simp [*]; split)

@[simp] theorem State.takeAck_mem (s : State) (p : Nat) (f : Flit) :
    (State.takeAck s p f).mem = s.mem := by
  unfold State.takeAck
  repeat' first
    | with_reducible rfl
    | split
    | (simp [*]; done)
    | (dsimp only; split)
    | refine (foldl_mem _ _ _ fun s x => ?_).trans ?_
    | refine (foldl_mem1 _ _ _ fun s x => ?_).trans ?_
    | (simp [*]; split)

@[simp] theorem State.resendReq_mem (s : State) (down : Nat) (r : PortReq) :
    (State.resendReq s down r).mem = s.mem := by
  unfold State.resendReq
  repeat' first
    | with_reducible rfl
    | split
    | (simp [*]; done)
    | (dsimp only; split)
    | refine (foldl_mem _ _ _ fun s x => ?_).trans ?_
    | refine (foldl_mem1 _ _ _ fun s x => ?_).trans ?_
    | (simp [*]; split)

@[simp] theorem State.portStops_mem (s : State) (p : Nat) :
    (State.portStops s p).mem = s.mem := by
  unfold State.portStops
  repeat' first
    | with_reducible rfl
    | split
    | with_reducible refine (State.drain_mem ..).trans ?_
    | with_reducible refine (State.reqLost_mem ..).trans ?_
    | with_reducible refine (State.resendReq_mem ..).trans ?_
    | with_reducible refine (State.sendQueued_mem ..).trans ?_
    | with_reducible refine (State.setPort_mem ..).trans ?_
    | refine (foldl_mem _ _ _ fun s x => ?_).trans ?_
    | refine (foldl_mem1 _ _ _ fun s x => ?_).trans ?_
    | (simp [*]; done)
    | (dsimp only; split)
    | dsimp only

@[simp] theorem State.goDown_mem (s : State) (p : Nat) :
    (State.goDown s p).mem = s.mem := by
  unfold State.goDown
  repeat' first
    | with_reducible rfl
    | split
    | (simp [*]; done)
    | (dsimp only; split)
    | refine (foldl_mem _ _ _ fun s x => ?_).trans ?_
    | refine (foldl_mem1 _ _ _ fun s x => ?_).trans ?_
    | (simp [*]; split)

@[simp] theorem State.askReplay_mem (s : State) (p : Nat) :
    (State.askReplay s p).mem = s.mem := by
  unfold State.askReplay
  repeat' first
    | with_reducible rfl
    | split
    | (simp [*]; done)
    | (dsimp only; split)
    | refine (foldl_mem _ _ _ fun s x => ?_).trans ?_
    | refine (foldl_mem1 _ _ _ fun s x => ?_).trans ?_
    | (simp [*]; split)

@[simp] theorem State.authFail_mem (s : State) (p : Nat) (next : Bool) :
    (State.authFail s p next).mem = s.mem := by
  unfold State.authFail
  repeat' first
    | with_reducible rfl
    | split
    | (simp [*]; done)
    | (dsimp only; split)
    | refine (foldl_mem _ _ _ fun s x => ?_).trans ?_
    | refine (foldl_mem1 _ _ _ fun s x => ?_).trans ?_
    | (simp [*]; split)

@[simp] theorem State.heard_mem (s : State) (p : Nat) :
    (State.heard s p).mem = s.mem := by
  unfold State.heard
  repeat' first
    | with_reducible rfl
    | split
    | (simp [*]; done)
    | (dsimp only; split)
    | refine (foldl_mem _ _ _ fun s x => ?_).trans ?_
    | refine (foldl_mem1 _ _ _ fun s x => ?_).trans ?_
    | (simp [*]; split)

@[simp] theorem State.switchRx_mem (s : State) (p : Nat) :
    (State.switchRx s p).mem = s.mem := by
  unfold State.switchRx
  repeat' first
    | with_reducible rfl
    | split
    | (simp [*]; done)
    | (dsimp only; split)
    | refine (foldl_mem _ _ _ fun s x => ?_).trans ?_
    | refine (foldl_mem1 _ _ _ fun s x => ?_).trans ?_
    | (simp [*]; split)

@[simp] theorem State.returnCredit_mem (s : State) (p c : Nat) :
    (State.returnCredit s p c).mem = s.mem := by
  unfold State.returnCredit
  repeat' first
    | with_reducible rfl
    | split
    | (simp [*]; done)
    | (dsimp only; split)
    | refine (foldl_mem _ _ _ fun s x => ?_).trans ?_
    | refine (foldl_mem1 _ _ _ fun s x => ?_).trans ?_
    | (simp [*]; split)

@[simp] theorem State.accept_mem (s : State) (p : Nat) (f : Flit) (deliver : State → Flit → State) (h_deliver : ∀ x0 x1, (deliver x0 x1).mem = x0.mem) :
    (State.accept s p f deliver).mem = s.mem := by
  unfold State.accept
  repeat' first
    | with_reducible rfl
    | split
    | (simp [*]; done)
    | (dsimp only; split)
    | refine (foldl_mem _ _ _ fun s x => ?_).trans ?_
    | refine (foldl_mem1 _ _ _ fun s x => ?_).trans ?_
    | (simp [*]; split)

@[simp] theorem State.plain_mem (s : State) (p : Nat) (f : Flit) (act : State → State) (h_act : ∀ x0, (act x0).mem = x0.mem) :
    (State.plain s p f act).mem = s.mem := by
  unfold State.plain
  repeat' first
    | with_reducible rfl
    | split
    | (simp [*]; done)
    | (dsimp only; split)
    | refine (foldl_mem _ _ _ fun s x => ?_).trans ?_
    | refine (foldl_mem1 _ _ _ fun s x => ?_).trans ?_
    | (simp [*]; split)

@[simp] theorem State.dropReq_mem (s : State) (p tag : Nat) :
    (State.dropReq s p tag).mem = s.mem := by
  unfold State.dropReq
  repeat' first
    | with_reducible rfl
    | split
    | (simp [*]; done)
    | (dsimp only; split)
    | refine (foldl_mem _ _ _ fun s x => ?_).trans ?_
    | refine (foldl_mem1 _ _ _ fun s x => ?_).trans ?_
    | (simp [*]; split)

@[simp] theorem State.modBulk_mem (s : State) (p tag : Nat) (f : Bulk → Bulk) :
    (State.modBulk s p tag f).mem = s.mem := by
  unfold State.modBulk
  repeat' first
    | with_reducible rfl
    | split
    | (simp [*]; done)
    | (dsimp only; split)
    | refine (foldl_mem _ _ _ fun s x => ?_).trans ?_
    | refine (foldl_mem1 _ _ _ fun s x => ?_).trans ?_
    | (simp [*]; split)

@[simp] theorem State.announce_mem (s : State) (p : Nat) (mask : BitVec 16) (e : BitVec 12) :
    (State.announce s p mask e).mem = s.mem := by
  unfold State.announce
  repeat' first
    | with_reducible rfl
    | split
    | (simp [*]; done)
    | (dsimp only; split)
    | refine (foldl_mem _ _ _ fun s x => ?_).trans ?_
    | refine (foldl_mem1 _ _ _ fun s x => ?_).trans ?_
    | (simp [*]; split)

@[simp] theorem State.loseLight_mem (s : State) (m : BitVec 16) (p : Nat) :
    (State.loseLight s m p).mem = s.mem := by
  unfold State.loseLight
  repeat' first
    | with_reducible rfl
    | split
    | (simp [*]; done)
    | (dsimp only; split)
    | refine (foldl_mem _ _ _ fun s x => ?_).trans ?_
    | refine (foldl_mem1 _ _ _ fun s x => ?_).trans ?_
    | (simp [*]; split)

@[simp] theorem State.applyMode_mem (s : State) (p : Nat) (v : Word64) :
    (State.applyMode s p v).mem = s.mem := by
  unfold State.applyMode
  repeat' first
    | with_reducible rfl
    | split
    | (simp [*]; done)
    | (dsimp only; split)
    | refine (foldl_mem _ _ _ fun s x => ?_).trans ?_
    | refine (foldl_mem1 _ _ _ fun s x => ?_).trans ?_
    | (simp [*]; split)

@[simp] theorem State.enqueueOps_mem (s : State) :
    (State.enqueueOps s).mem = s.mem := by
  unfold State.enqueueOps
  repeat' first
    | with_reducible rfl
    | split
    | (simp [*]; done)
    | (dsimp only; split)
    | refine (foldl_mem _ _ _ fun s x => ?_).trans ?_
    | refine (foldl_mem1 _ _ _ fun s x => ?_).trans ?_
    | (simp [*]; split)

@[simp] theorem State.inOrder_mem (s : State) (gid n : Nat) (cst : Bool) (act : State → State) (h_act : ∀ x0, (act x0).mem = x0.mem) :
    (State.inOrder s gid n cst act).mem = s.mem := by
  unfold State.inOrder
  repeat' first
    | with_reducible rfl
    | split
    | (simp [*]; done)
    | (dsimp only; split)
    | refine (foldl_mem _ _ _ fun s x => ?_).trans ?_
    | refine (foldl_mem1 _ _ _ fun s x => ?_).trans ?_
    | (simp [*]; split)

@[simp] theorem State.endFtot_mem (s : State) (gid n : Nat) (g : Group) (dom sb : Nat) (mer : Nat) :
    (State.endFtot s gid n g dom sb mer).mem = s.mem := by
  unfold State.endFtot
  repeat' first
    | with_reducible rfl
    | split
    | (simp [*]; done)
    | (dsimp only; split)
    | refine (foldl_mem _ _ _ fun s x => ?_).trans ?_
    | refine (foldl_mem1 _ _ _ fun s x => ?_).trans ?_
    | (simp [*]; split)

@[simp] theorem State.endFdrop_mem (s : State) (gid n : Nat) (g : Group) (handle : Word64) (sb : Nat) (mer : Nat) :
    (State.endFdrop s gid n g handle sb mer).mem = s.mem := by
  unfold State.endFdrop
  repeat' first
    | with_reducible rfl
    | split
    | (simp [*]; done)
    | (dsimp only; split)
    | refine (foldl_mem _ _ _ fun s x => ?_).trans ?_
    | refine (foldl_mem1 _ _ _ fun s x => ?_).trans ?_
    | (simp [*]; split)

@[simp] theorem State.note_mem (s : State) (tag : BitVec 32) (x : Nat) :
    (State.note s tag x).mem = s.mem := by
  unfold State.note
  repeat' first
    | with_reducible rfl
    | split
    | (simp [*]; done)
    | (dsimp only; split)
    | refine (foldl_mem _ _ _ fun s x => ?_).trans ?_
    | refine (foldl_mem1 _ _ _ fun s x => ?_).trans ?_
    | (simp [*]; split)

@[simp] theorem State.answerTo_mem (s : State) (agent typ : Nat) (tag : BitVec 32) (body : BitVec 416) :
    (State.answerTo s agent typ tag body).mem = s.mem := by
  unfold State.answerTo
  repeat' first
    | with_reducible rfl
    | split
    | (simp [*]; done)
    | (dsimp only; split)
    | refine (foldl_mem _ _ _ fun s x => ?_).trans ?_
    | refine (foldl_mem1 _ _ _ fun s x => ?_).trans ?_
    | (simp [*]; split)

@[simp] theorem State.cellPlace_mem (s : State) (ctx : Nat) (f : Field) (i : Nat) :
    (State.cellPlace s ctx f i).1.mem = s.mem := by
  unfold State.cellPlace
  repeat' first
    | with_reducible rfl
    | split
    | (simp [*]; done)
    | (dsimp only; split)
    | refine (foldl_mem _ _ _ fun s x => ?_).trans ?_
    | refine (foldl_mem1 _ _ _ fun s x => ?_).trans ?_
    | (simp [*]; split)

@[simp] theorem State.putReturn_mem (s : State) (p : Pair) (amt : Nat) :
    (State.putReturn s p amt).mem = s.mem := by
  unfold State.putReturn
  repeat' first
    | with_reducible rfl
    | split
    | (simp [*]; done)
    | (dsimp only; split)
    | refine (foldl_mem _ _ _ fun s x => ?_).trans ?_
    | refine (foldl_mem1 _ _ _ fun s x => ?_).trans ?_
    | (simp [*]; split)

@[simp] theorem State.learn_mem (s : State) (p : Pair) (reason amount : Nat) (back : Bool) :
    (State.learn s p reason amount back).mem = s.mem := by
  unfold State.learn
  repeat' first
    | with_reducible rfl
    | split
    | (simp [*]; done)
    | (dsimp only; split)
    | refine (foldl_mem _ _ _ fun s x => ?_).trans ?_
    | refine (foldl_mem1 _ _ _ fun s x => ?_).trans ?_
    | (simp [*]; split)

@[simp] theorem State.tell_mem (s : State) (p : Pair) (reason amount : Nat) (back : Bool) :
    (State.tell s p reason amount back).mem = s.mem := by
  unfold State.tell
  repeat' first
    | with_reducible rfl
    | split
    | (simp [*]; done)
    | (dsimp only; split)
    | refine (foldl_mem _ _ _ fun s x => ?_).trans ?_
    | refine (foldl_mem1 _ _ _ fun s x => ?_).trans ?_
    | (simp [*]; split)

@[simp] theorem State.holdFar_mem (s : State) (p : Pair) (dom : Option Nat) (back : Nat) :
    (State.holdFar s p dom back).mem = s.mem := by
  unfold State.holdFar
  repeat' first
    | with_reducible rfl
    | split
    | (simp [*]; done)
    | (dsimp only; split)
    | refine (foldl_mem _ _ _ fun s x => ?_).trans ?_
    | refine (foldl_mem1 _ _ _ fun s x => ?_).trans ?_
    | (simp [*]; split)

@[simp] theorem State.owe_mem (s : State) (u : Unit64) (ctx : Option Nat) (page : Option Word64) (fld : Option Nat) :
    (State.owe s u ctx page fld).mem = s.mem := by
  unfold State.owe
  repeat' first
    | with_reducible rfl
    | split
    | (simp [*]; done)
    | (dsimp only; split)
    | refine (foldl_mem _ _ _ fun s x => ?_).trans ?_
    | refine (foldl_mem1 _ _ _ fun s x => ?_).trans ?_
    | (simp [*]; split)

@[simp] theorem State.claim_mem (s : State) (key : Nat) (f : Dict (Nat × Bool) → Dict (Nat × Bool)) :
    (State.claim s key f).mem = s.mem := by
  unfold State.claim
  repeat' first
    | with_reducible rfl
    | split
    | (simp [*]; done)
    | (dsimp only; split)
    | refine (foldl_mem _ _ _ fun s x => ?_).trans ?_
    | refine (foldl_mem1 _ _ _ fun s x => ?_).trans ?_
    | (simp [*]; split)

@[simp] theorem State.registerUnit_mem (s : State) (u : Unit64) :
    (State.registerUnit s u).mem = s.mem := by
  unfold State.registerUnit
  repeat' first
    | with_reducible rfl
    | split
    | (simp [*]; done)
    | (dsimp only; split)
    | refine (foldl_mem _ _ _ fun s x => ?_).trans ?_
    | refine (foldl_mem1 _ _ _ fun s x => ?_).trans ?_
    | (simp [*]; split)

@[simp] theorem State.remoteAtomic_mem (s : State) (u : Unit64) :
    (State.remoteAtomic s u).mem = s.mem := by
  unfold State.remoteAtomic
  repeat' first
    | with_reducible rfl
    | split
    | (simp [*]; done)
    | (dsimp only; split)
    | refine (foldl_mem _ _ _ fun s x => ?_).trans ?_
    | refine (foldl_mem1 _ _ _ fun s x => ?_).trans ?_
    | (simp [*]; split)

@[simp] theorem State.remoteTotals_mem (s : State) (u : Unit64) :
    (State.remoteTotals s u).mem = s.mem := by
  unfold State.remoteTotals
  repeat' first
    | with_reducible rfl
    | split
    | (simp [*]; done)
    | (dsimp only; split)
    | refine (foldl_mem _ _ _ fun s x => ?_).trans ?_
    | refine (foldl_mem1 _ _ _ fun s x => ?_).trans ?_
    | (simp [*]; split)

@[simp] theorem State.totalsAnswer_mem (s : State) (u : Unit64) :
    (State.totalsAnswer s u).mem = s.mem := by
  unfold State.totalsAnswer
  repeat' first
    | with_reducible rfl
    | split
    | (simp [*]; done)
    | (dsimp only; split)
    | refine (foldl_mem _ _ _ fun s x => ?_).trans ?_
    | refine (foldl_mem1 _ _ _ fun s x => ?_).trans ?_
    | (simp [*]; split)

@[simp] theorem State.runAcks_mem (s : State) :
    (State.runAcks s).mem = s.mem := by
  unfold State.runAcks
  repeat' first
    | with_reducible rfl
    | split
    | (simp [*]; done)
    | (dsimp only; split)
    | refine (foldl_mem _ _ _ fun s x => ?_).trans ?_
    | refine (foldl_mem1 _ _ _ fun s x => ?_).trans ?_
    | (simp [*]; split)

@[simp] theorem State.takeGrants_mem (s : State) (frame : Nat) :
    (State.takeGrants s frame).mem = s.mem := by
  unfold State.takeGrants
  repeat' first
    | with_reducible rfl
    | split
    | (simp [*]; done)
    | (dsimp only; split)
    | refine (foldl_mem _ _ _ fun s x => ?_).trans ?_
    | refine (foldl_mem1 _ _ _ fun s x => ?_).trans ?_
    | (simp [*]; split)

@[simp] theorem State.takeDue_mem (s : State) (y0 : Nat) :
    (State.takeDue s y0).mem = s.mem := by
  induction y0 generalizing s with
  | zero => rfl
  | succ n ih =>
    unfold State.takeDue
    split
    · rfl
    · rw [ih, State.takeGrants_mem]

@[simp] theorem State.loseOps_mem (s : State) :
    (State.loseOps s).mem = s.mem := by
  unfold State.loseOps
  repeat' first
    | with_reducible rfl
    | split
    | (simp [*]; done)
    | (dsimp only; split)
    | refine (foldl_mem _ _ _ fun s x => ?_).trans ?_
    | refine (foldl_mem1 _ _ _ fun s x => ?_).trans ?_
    | (simp [*]; split)

@[simp] theorem State.sendRecord_mem (s : State) (f : Nat) :
    (State.sendRecord s f).mem = s.mem := by
  unfold State.sendRecord
  repeat' first
    | with_reducible rfl
    | split
    | (simp [*]; done)
    | (dsimp only; split)
    | refine (foldl_mem _ _ _ fun s x => ?_).trans ?_
    | refine (foldl_mem1 _ _ _ fun s x => ?_).trans ?_
    | (simp [*]; split)

@[simp] theorem State.tidy_mem (s : State) :
    (State.tidy s).mem = s.mem := by
  unfold State.tidy
  repeat' first
    | with_reducible rfl
    | split
    | (simp [*]; done)
    | (dsimp only; split)
    | refine (foldl_mem _ _ _ fun s x => ?_).trans ?_
    | refine (foldl_mem1 _ _ _ fun s x => ?_).trans ?_
    | (simp [*]; split)

@[simp] theorem State.findLost_mem (s : State) :
    (State.findLost s).mem = s.mem := by
  unfold State.findLost
  repeat' first
    | with_reducible rfl
    | split
    | (simp [*]; done)
    | (dsimp only; split)
    | refine (foldl_mem _ _ _ fun s x => ?_).trans ?_
    | refine (foldl_mem1 _ _ _ fun s x => ?_).trans ?_
    | (simp [*]; split)

@[simp] theorem State.startMeridian_mem (s : State) :
    (State.startMeridian s).mem = s.mem := by
  unfold State.startMeridian
  repeat' first
    | with_reducible rfl
    | split
    | (simp [*]; done)
    | (dsimp only; split)
    | refine (foldl_mem _ _ _ fun s x => ?_).trans ?_
    | refine (foldl_mem1 _ _ _ fun s x => ?_).trans ?_
    | (simp [*]; split)

@[simp] theorem State.loadFirmware_mem (s : State) (image signature : List Byte) :
    (State.loadFirmware s image signature).mem = s.mem := by
  unfold State.loadFirmware
  repeat' first
    | rfl
    | split
    | (unfold State.safeState; split <;> rfl)

@[simp] theorem State.bankStarts_mem (s : State) (b : Nat) :
    (State.bankStarts s b).mem = s.mem := by
  have k : ∀ s : State, (((List.range 11).map (fun i => 11 * b + i)).foldl (fun s p => match (s.port p).waits with
      | some v => s.applyMode p v
      | none => s) s).mem = s.mem := fun s => foldl_mem _ _ _ fun s x => by
    split
    · exact State.applyMode_mem ..
    · rfl
  unfold State.bankStarts
  dsimp only
  split
  · exact (State.startMeridian_mem _).trans (k _)
  · exact k _

@[simp] theorem State.mailboxDone_mem (s : State) (status : Nat) (rsp : List Byte) :
    (State.mailboxDone s status rsp).mem = s.mem := by
  unfold State.mailboxDone
  repeat' first
    | with_reducible rfl
    | split
    | (simp [*]; done)
    | (dsimp only; split)
    | refine (foldl_mem _ _ _ fun s x => ?_).trans ?_
    | refine (foldl_mem1 _ _ _ fun s x => ?_).trans ?_
    | (simp [*]; split)

@[simp] theorem State.mailbox_mem (s : State) (opc len : Nat) (safe : Bool) (act : State → State) (h_act : ∀ x0, (act x0).mem = x0.mem) :
    (State.mailbox s opc len safe act).mem = s.mem := by
  unfold State.mailbox
  repeat' first
    | with_reducible rfl
    | split
    | (simp [*]; done)
    | (dsimp only; split)
    | refine (foldl_mem _ _ _ fun s x => ?_).trans ?_
    | refine (foldl_mem1 _ _ _ fun s x => ?_).trans ?_
    | (simp [*]; split)

@[simp] theorem State.installTx_mem (s : State) (p slot : Nat) (key : BitVec 256) :
    (State.installTx s p slot key).mem = s.mem := by
  unfold State.installTx
  repeat' first
    | with_reducible rfl
    | split
    | (simp [*]; done)
    | (dsimp only; split)
    | refine (foldl_mem _ _ _ fun s x => ?_).trans ?_
    | refine (foldl_mem1 _ _ _ fun s x => ?_).trans ?_
    | (simp [*]; split)

@[simp] theorem State.installRx_mem (s : State) (p slot : Nat) (key : BitVec 256) :
    (State.installRx s p slot key).mem = s.mem := by
  unfold State.installRx
  repeat' first
    | with_reducible rfl
    | split
    | (simp [*]; done)
    | (dsimp only; split)
    | refine (foldl_mem _ _ _ fun s x => ?_).trans ?_
    | refine (foldl_mem1 _ _ _ fun s x => ?_).trans ?_
    | (simp [*]; split)

@[simp] theorem State.overrideContext_mem (s : State) (c : Nat) :
    (State.overrideContext s c).mem = s.mem := by
  unfold State.overrideContext
  repeat' first
    | with_reducible rfl
    | split
    | (simp [*]; done)
    | (dsimp only; split)
    | refine (foldl_mem _ _ _ fun s x => ?_).trans ?_
    | refine (foldl_mem1 _ _ _ fun s x => ?_).trans ?_
    | (simp [*]; split)

@[simp] theorem State.checkContext_mem (s : State) (c : Nat) :
    (State.checkContext s c).mem = s.mem := by
  unfold State.checkContext
  repeat' first
    | with_reducible rfl
    | split
    | (simp [*]; done)
    | (dsimp only; split)
    | refine (foldl_mem _ _ _ fun s x => ?_).trans ?_
    | refine (foldl_mem1 _ _ _ fun s x => ?_).trans ?_
    | (simp [*]; split)

@[simp] theorem State.fillByte_mem (s : State) (site pa : Nat) :
    (State.fillByte s site pa).mem = s.mem := by
  unfold State.fillByte
  repeat' first
    | with_reducible rfl
    | split
    | (simp [*]; done)
    | (dsimp only; split)
    | refine (foldl_mem _ _ _ fun s x => ?_).trans ?_
    | refine (foldl_mem1 _ _ _ fun s x => ?_).trans ?_
    | (simp [*]; split)

@[simp] theorem State.forget_mem (s : State) (site idx : Nat) :
    (State.forget s site idx).mem = s.mem := by
  unfold State.forget
  repeat' first
    | with_reducible rfl
    | split
    | (simp [*]; done)
    | (dsimp only; split)
    | refine (foldl_mem _ _ _ fun s x => ?_).trans ?_
    | refine (foldl_mem1 _ _ _ fun s x => ?_).trans ?_
    | (simp [*]; split)

end Sys2Proof.Machine
end

