-- ==== Sys2Proof/Laws/Tab.lean ====
section
/-!
SUPPORT. The two table types: a read after a write, and the canonical form that every write keeps.
-/
set_option Elab.async false
namespace Sys2Proof.Machine

variable {α : Type}

@[simp] theorem dget_nil (k : Nat) : dget ([] : Dict α) k = none := rfl
@[simp] theorem tget_nil (d : α) (k : Nat) : tget d [] k = d := rfl

theorem tget_eq_dget (d : α) (t : Tab α) (k : Nat) : tget d t k = (dget t k).getD d := by
  induction t with
  | nil => rfl
  | cons e t ih => obtain ⟨j, v⟩ := e; simp only [tget, dget]; split <;> simp [ih]

@[simp] theorem dget_dput_same (t : Dict α) (k : Nat) (v : α) : dget (dput t k v) k = some v := by
  induction t with
  | nil => simp [dput, dget]
  | cons e t ih =>
    obtain ⟨j, w⟩ := e
    simp only [dput]
    split
    · simp [dget]
    · split
      · simp [dget]
      · simp [dget, *]

theorem dget_dput_other (t : Dict α) {k n : Nat} (v : α) (h : n ≠ k) : dget (dput t k v) n = dget t n := by
  induction t with
  | nil => simp [dput, dget, Ne.symm h]
  | cons e t ih =>
    obtain ⟨j, w⟩ := e
    simp only [dput]
    split
    · simp [dget, Ne.symm h]
    · split
      · rename_i hj; subst hj; simp [dget, Ne.symm h]
      · simp only [dget, ih]

theorem dput_dput (t : Dict α) (k : Nat) (v w : α) : dput (dput t k v) k w = dput t k w := by
  induction t with
  | nil => simp [dput]
  | cons e t ih =>
    obtain ⟨j, x⟩ := e
    simp only [dput]
    split
    · simp [dput]
    · split
      · rename_i hj; subst hj; simp [dput]
      · simp [dput, *]

@[simp] theorem dget_ddel_same (t : Dict α) (k : Nat) : dget (ddel t k) k = none := by
  induction t with
  | nil => rfl
  | cons e t ih => obtain ⟨j, w⟩ := e; simp only [ddel]; split <;> simp_all [dget]

theorem dget_ddel_other (t : Dict α) {k n : Nat} (h : n ≠ k) : dget (ddel t k) n = dget t n := by
  induction t with
  | nil => rfl
  | cons e t ih =>
    obtain ⟨j, w⟩ := e
    simp only [ddel]
    split
    · rename_i hj; subst hj; simp [dget, Ne.symm h, ih]
    · simp only [dget, ih]

@[simp] theorem tget_tset_same [DecidableEq α] (d : α) (t : Tab α) (k : Nat) (v : α) : tget d (tset d t k v) k = v := by
  unfold tset
  split
  · simp [tget_eq_dget, *]
  · simp [tget_eq_dget]

theorem tget_tset_other [DecidableEq α] (d : α) (t : Tab α) {k n : Nat} (v : α) (h : n ≠ k) :
    tget d (tset d t k v) n = tget d t n := by
  unfold tset
  split
  · simp [tget_eq_dget, dget_ddel_other t h]
  · simp [tget_eq_dget, dget_dput_other t v h]

theorem tget_tset [DecidableEq α] (d : α) (t : Tab α) (k n : Nat) (v : α) :
    tget d (tset d t k v) n = if n = k then v else tget d t n := by
  split
  · subst_vars; simp
  · exact tget_tset_other d t v ‹_›

/-! ### The canonical form -/

/-- Every key of the list is above `n`. -/
def keysAbove (n : Nat) (t : Dict α) : Prop := ∀ e ∈ t, n < e.1

theorem keysRise_cons {j : Nat} {v : α} {t : Dict α} :
    keysRise ((j, v) :: t) = true ↔ keysAbove j t ∧ keysRise t = true := by
  induction t generalizing j v with
  | nil => simp [keysRise, keysAbove]
  | cons e t ih =>
    obtain ⟨k, w⟩ := e
    simp only [keysRise, Bool.and_eq_true, decide_eq_true_eq]
    constructor
    · rintro ⟨h, hr⟩
      refine ⟨?_, hr⟩
      intro e he
      rcases List.mem_cons.1 he with rfl | he
      · exact h
      · exact Nat.lt_trans h ((ih.1 hr).1 e he)
    · rintro ⟨ha, hr⟩
      exact ⟨ha (k, w) (by simp), hr⟩

theorem keysAbove_dput {n k : Nat} {t : Dict α} (v : α) (h : keysAbove n t) (hk : n < k) : keysAbove n (dput t k v) := by
  induction t with
  | nil => intro e he; simp [dput] at he; subst he; exact hk
  | cons e t ih =>
    obtain ⟨j, w⟩ := e
    have hj : n < j := h (j, w) (by simp)
    have ht : keysAbove n t := fun e he => h e (List.mem_cons_of_mem _ he)
    simp only [dput]
    split
    · intro e he
      rcases List.mem_cons.1 he with rfl | he
      · exact hk
      · exact h e he
    · split
      · intro e he
        rcases List.mem_cons.1 he with rfl | he
        · exact hk
        · exact ht e he
      · intro e he
        rcases List.mem_cons.1 he with rfl | he
        · exact hj
        · exact ih ht e he

theorem keysRise_dput {k : Nat} {t : Dict α} (v : α) (h : keysRise t = true) : keysRise (dput t k v) = true := by
  induction t with
  | nil => rfl
  | cons e t ih =>
    obtain ⟨j, w⟩ := e
    have hc := keysRise_cons.1 h
    simp only [dput]
    split
    · rename_i hk
      refine keysRise_cons.2 ⟨?_, h⟩
      intro e he
      rcases List.mem_cons.1 he with rfl | he
      · exact hk
      · exact Nat.lt_trans hk (hc.1 e he)
    · split
      · rename_i hj; subst hj; exact keysRise_cons.2 hc
      · exact keysRise_cons.2 ⟨keysAbove_dput v hc.1 (by omega), ih hc.2⟩

theorem mem_ddel {k : Nat} {t : Dict α} {e : Nat × α} (h : e ∈ ddel t k) : e ∈ t := by
  induction t with
  | nil => exact h
  | cons x t ih =>
    obtain ⟨j, w⟩ := x
    simp only [ddel] at h
    split at h
    · exact List.mem_cons_of_mem _ (ih h)
    · rcases List.mem_cons.1 h with rfl | h
      · simp
      · exact List.mem_cons_of_mem _ (ih h)

theorem keysRise_ddel {k : Nat} {t : Dict α} (h : keysRise t = true) : keysRise (ddel t k) = true := by
  induction t with
  | nil => rfl
  | cons e t ih =>
    obtain ⟨j, w⟩ := e
    have hc := keysRise_cons.1 h
    simp only [ddel]
    split
    · exact ih hc.2
    · exact keysRise_cons.2 ⟨fun e he => hc.1 e (mem_ddel he), ih hc.2⟩

theorem keysRise_filter {t : Dict α} (p : Nat × α → Bool) (h : keysRise t = true) : keysRise (t.filter p) = true := by
  induction t with
  | nil => rfl
  | cons e t ih =>
    obtain ⟨j, w⟩ := e
    have hc := keysRise_cons.1 h
    simp only [List.filter_cons]
    split
    · exact keysRise_cons.2 ⟨fun e he => hc.1 e (List.mem_filter.1 he).1, ih hc.2⟩
    · exact ih hc.2

theorem mem_dput {k : Nat} {v : α} {t : Dict α} {e : Nat × α} (h : e ∈ dput t k v) : e = (k, v) ∨ e ∈ t := by
  induction t with
  | nil => simp [dput] at h; exact .inl h
  | cons x t ih =>
    obtain ⟨j, w⟩ := x
    simp only [dput] at h
    split at h
    · rcases List.mem_cons.1 h with h | h
      · exact .inl h
      · exact .inr h
    · split at h
      · rcases List.mem_cons.1 h with h | h
        · exact .inl h
        · exact .inr (List.mem_cons_of_mem _ h)
      · rcases List.mem_cons.1 h with h | h
        · exact .inr (by simp [h])
        · rcases ih h with h | h
          · exact .inl h
          · exact .inr (List.mem_cons_of_mem _ h)

/-- A write keeps the canonical form. -/
theorem tabWf_tset [DecidableEq α] {d : α} {t : Tab α} (k : Nat) (v : α) (h : tabWf d t = true) :
    tabWf d (tset d t k v) = true := by
  simp only [tabWf, Bool.and_eq_true, List.all_eq_true, decide_eq_true_eq] at h ⊢
  unfold tset
  split
  · exact ⟨keysRise_ddel h.1, fun e he => h.2 e (mem_ddel he)⟩
  · refine ⟨keysRise_dput v h.1, fun e he => ?_⟩
    rcases mem_dput he with rfl | he
    · assumption
    · exact h.2 e he

/-- Dropping entries keeps the canonical form. -/
theorem tabWf_filter [DecidableEq α] {d : α} {t : Tab α} (p : Nat × α → Bool) (h : tabWf d t = true) :
    tabWf d (t.filter p) = true := by
  simp only [tabWf, Bool.and_eq_true, List.all_eq_true, decide_eq_true_eq] at h ⊢
  exact ⟨keysRise_filter p h.1, fun e he => h.2 e (List.mem_filter.1 he).1⟩

end Sys2Proof.Machine
end

