-- ==== Sys2Proof/Laws/Memory.lean ====
section
/-!
SUPPORT. Every operation that may change memory keeps its canonical form (log 1), and the memory after reset has it.
-/
set_option Elab.async false
set_option linter.unreachableTactic false
set_option linter.unusedTactic false

namespace Sys2Proof.Machine

theorem reset_wf : Memory.wf State.reset.mem = true := rfl

/-- Memory reads back what was written last, and every other byte as before: a byte that is at no node. -/
theorem State.rd_wr (s : State) (pa : Nat) (b : Byte) (qa : Nat) (hn : isPooled pa = false) :
    (s.wr pa b).rd qa = if qa = pa then b else s.rd qa := by
  unfold State.wr
  simp only [hn, Bool.false_eq_true, if_false]
  split
  · rename_i hu
    by_cases h : qa = pa
    · subst h
      have : State.uncached { s with hostPosted := s.hostPosted ++ [(qa, b)] } qa = true := hu
      simp [State.rd, this]
    · have : State.uncached { s with hostPosted := s.hostPosted ++ [(pa, b)] } qa = s.uncached qa := rfl
      simp [State.rd, this, h, Ne.symm h]
  · rename_i hu
    have ht : (s.touch pa true).hostPosted = s.hostPosted := by
      unfold State.touch; repeat' (first | rfl | split)
    have hs : (s.touch pa true).syscap = s.syscap := by
      unfold State.touch; repeat' (first | rfl | split)
    have key (t : State) (h1 : t.mem = tset 0 s.mem pa b) (h2 : t.hostPosted = s.hostPosted) (h3 : t.syscap = s.syscap) :
        t.rd qa = if qa = pa then b else s.rd qa := by
      have : t.uncached qa = s.uncached qa := by simp [State.uncached, State.hostCoherent, h3]
      simp only [State.rd, this, h1, h2]
      by_cases h : qa = pa
      · subst h; simp [hu, tget_tset]
      · simp [h, tget_tset]
    exact key _ rfl ht hs

theorem wf_tset {m : Tab Byte} (k : Nat) (v : Byte) (h : Memory.wf m = true) : Memory.wf (tset 0 m k v) = true :=
  tabWf_tset k v h

theorem flushFold_wf (l : List (Nat × Byte)) (m : Tab Byte) (h : Memory.wf m = true) :
    Memory.wf (l.foldl (fun m e => tset 0 m e.1 e.2) m) = true := by
  induction l generalizing m with
  | nil => exact h
  | cons x l ih => exact ih _ (wf_tset _ _ h)

theorem foldl_wf {α : Type} (f : State → α → State) (l : List α) (s : State) (h : Memory.wf s.mem = true)
    (k : ∀ s x, Memory.wf s.mem = true → Memory.wf (f s x).mem = true) : Memory.wf (l.foldl f s).mem = true := by
  induction l generalizing s with
  | nil => exact h
  | cons x l ih => exact ih _ (k _ _ h)

theorem foldl_wf1 {α β : Type} (f : State × β → α → State × β) (l : List α) (s : State × β)
    (h : Memory.wf s.1.mem = true) (k : ∀ s x, Memory.wf s.1.mem = true → Memory.wf (f s x).1.mem = true) :
    Memory.wf (l.foldl f s).1.mem = true := by
  induction l generalizing s with
  | nil => exact h
  | cons x l ih => exact ih _ (k _ _ h)

theorem State.guarded_wf (s : State) (i : Instr) (f : Group → State) (h_f : ∀ x0, Memory.wf s.mem = true → Memory.wf (f x0).mem = true) (hw : Memory.wf s.mem = true) :
    Memory.wf (State.guarded s i f).mem = true := by
  unfold State.guarded
  repeat' first
    | with_reducible assumption
    | intro _
    | split
    | with_reducible apply h_f
    | with_reducible rw [State.illegal_mem]
    | with_reducible rw [State.modGroup_mem]
    | with_reducible rw [State.modTeam_mem]
    | with_reducible rw [State.privilegeTrap_mem]
    | with_reducible rw [State.touch_mem]
    | (with_reducible refine foldl_wf _ _ _ ?_ fun s x h => ?_)
    | (with_reducible refine foldl_wf1 _ _ _ ?_ fun s x h => ?_)
    | with_reducible apply wf_tset
    | (dsimp only; with_reducible assumption)
    | (dsimp only; split)
    | dsimp only

theorem State.wr_wf (s : State) (pa : Nat) (b : Byte) (hw : Memory.wf s.mem = true) :
    Memory.wf (State.wr s pa b).mem = true := by
  unfold State.wr
  repeat' first
    | with_reducible assumption
    | intro _
    | split
    | with_reducible rw [State.modGroup_mem]
    | with_reducible rw [State.modTeam_mem]
    | with_reducible rw [State.nodeWrite_mem]
    | with_reducible rw [State.touch_mem]
    | (with_reducible refine foldl_wf _ _ _ ?_ fun s x h => ?_)
    | (with_reducible refine foldl_wf1 _ _ _ ?_ fun s x h => ?_)
    | with_reducible apply wf_tset
    | (dsimp only; with_reducible assumption)
    | (dsimp only; split)
    | dsimp only

theorem State.postOne_wf (s : State) (hw : Memory.wf s.mem = true) :
    Memory.wf (State.postOne s).mem = true := by
  unfold State.postOne
  repeat' first
    | with_reducible assumption
    | intro _
    | split
    | with_reducible rw [State.modGroup_mem]
    | with_reducible rw [State.modTeam_mem]
    | with_reducible rw [State.touch_mem]
    | (with_reducible refine foldl_wf _ _ _ ?_ fun s x h => ?_)
    | (with_reducible refine foldl_wf1 _ _ _ ?_ fun s x h => ?_)
    | with_reducible apply wf_tset
    | (dsimp only; with_reducible assumption)
    | (dsimp only; split)
    | dsimp only

theorem State.flushPosted_wf (s : State) (hw : Memory.wf s.mem = true) :
    Memory.wf (State.flushPosted s).mem = true := flushFold_wf _ _ hw

theorem State.l2FlushByte_wf (s : State) (pa die : Nat) (hw : Memory.wf s.mem = true) :
    Memory.wf (State.l2FlushByte s pa die).mem = true := by
  unfold State.l2FlushByte
  repeat' first
    | with_reducible assumption
    | intro _
    | split
    | with_reducible apply State.wr_wf
    | with_reducible rw [State.cdel_mem]
    | with_reducible rw [State.modGroup_mem]
    | with_reducible rw [State.modTeam_mem]
    | with_reducible rw [State.needOwn_mem]
    | with_reducible rw [State.touch_mem]
    | (with_reducible refine foldl_wf _ _ _ ?_ fun s x h => ?_)
    | (with_reducible refine foldl_wf1 _ _ _ ?_ fun s x h => ?_)
    | with_reducible apply wf_tset
    | (dsimp only; with_reducible assumption)
    | (dsimp only; split)
    | dsimp only

theorem State.l2Flush_wf (s : State) (pa die : Nat) (hw : Memory.wf s.mem = true) :
    Memory.wf (State.l2Flush s pa die).mem = true := by
  unfold State.l2Flush
  repeat' first
    | with_reducible assumption
    | intro _
    | split
    | with_reducible apply State.l2FlushByte_wf
    | with_reducible rw [State.modGroup_mem]
    | with_reducible rw [State.modTeam_mem]
    | with_reducible rw [State.touch_mem]
    | (with_reducible refine foldl_wf _ _ _ ?_ fun s x h => ?_)
    | (with_reducible refine foldl_wf1 _ _ _ ?_ fun s x h => ?_)
    | with_reducible apply wf_tset
    | (dsimp only; with_reducible assumption)
    | (dsimp only; split)
    | dsimp only

theorem State.l2None_wf (s : State) (pa : Nat) (hw : Memory.wf s.mem = true) :
    Memory.wf (State.l2None s pa).mem = true := by
  unfold State.l2None
  repeat' first
    | with_reducible assumption
    | intro _
    | split
    | with_reducible apply State.l2Flush_wf
    | with_reducible rw [State.modGroup_mem]
    | with_reducible rw [State.modTeam_mem]
    | with_reducible rw [State.touch_mem]
    | (with_reducible refine foldl_wf _ _ _ ?_ fun s x h => ?_)
    | (with_reducible refine foldl_wf1 _ _ _ ?_ fun s x h => ?_)
    | with_reducible apply wf_tset
    | (dsimp only; with_reducible assumption)
    | (dsimp only; split)
    | dsimp only

theorem State.devWrite_wf (s : State) (die pa : Nat) (b : Byte) (hw : Memory.wf s.mem = true) :
    Memory.wf (State.devWrite s die pa b).mem = true := by
  unfold State.devWrite
  repeat' first
    | with_reducible assumption
    | intro _
    | split
    | with_reducible apply State.wr_wf
    | with_reducible rw [State.cput_mem]
    | with_reducible rw [State.l2Alone_mem]
    | with_reducible rw [State.modGroup_mem]
    | with_reducible rw [State.modTeam_mem]
    | with_reducible rw [State.touch_mem]
    | (with_reducible refine foldl_wf _ _ _ ?_ fun s x h => ?_)
    | (with_reducible refine foldl_wf1 _ _ _ ?_ fun s x h => ?_)
    | with_reducible apply wf_tset
    | (dsimp only; with_reducible assumption)
    | (dsimp only; split)
    | dsimp only

theorem State.devPut_wf (s : State) (die : Nat) (y0 : List Byte) (y1 : Nat) (hw : Memory.wf s.mem = true) :
    Memory.wf (State.devPut s die y0 y1).mem = true := by
  induction y0 generalizing s y1 with
  | nil => unfold State.devPut; exact hw
  | cons x l ih =>
    unfold State.devPut
    repeat' first
      | with_reducible assumption
      | apply ih
      | intro _
      | split
      | with_reducible apply State.devWrite_wf
      | with_reducible rw [State.modGroup_mem]
      | with_reducible rw [State.modTeam_mem]
      | with_reducible rw [State.touch_mem]
      | (with_reducible refine foldl_wf _ _ _ ?_ fun s x h => ?_)
      | (with_reducible refine foldl_wf1 _ _ _ ?_ fun s x h => ?_)
      | with_reducible apply wf_tset
      | (dsimp only; with_reducible assumption)
      | (dsimp only; split)
      | dsimp only

theorem State.l1CleanByte_wf (s : State) (core pa : Nat) (hw : Memory.wf s.mem = true) :
    Memory.wf (State.l1CleanByte s core pa).mem = true := by
  unfold State.l1CleanByte
  repeat' first
    | with_reducible assumption
    | intro _
    | split
    | with_reducible apply State.devWrite_wf
    | with_reducible rw [State.cput_mem]
    | with_reducible rw [State.modGroup_mem]
    | with_reducible rw [State.modTeam_mem]
    | with_reducible rw [State.touch_mem]
    | (with_reducible refine foldl_wf _ _ _ ?_ fun s x h => ?_)
    | (with_reducible refine foldl_wf1 _ _ _ ?_ fun s x h => ?_)
    | with_reducible apply wf_tset
    | (dsimp only; with_reducible assumption)
    | (dsimp only; split)
    | dsimp only

theorem State.l1Clean_wf (s : State) (core pa : Nat) (hw : Memory.wf s.mem = true) :
    Memory.wf (State.l1Clean s core pa).mem = true := by
  unfold State.l1Clean
  repeat' first
    | with_reducible assumption
    | intro _
    | split
    | with_reducible apply State.l1CleanByte_wf
    | with_reducible rw [State.modGroup_mem]
    | with_reducible rw [State.modTeam_mem]
    | with_reducible rw [State.touch_mem]
    | (with_reducible refine foldl_wf _ _ _ ?_ fun s x h => ?_)
    | (with_reducible refine foldl_wf1 _ _ _ ?_ fun s x h => ?_)
    | with_reducible apply wf_tset
    | (dsimp only; with_reducible assumption)
    | (dsimp only; split)
    | dsimp only

theorem State.l1WriteBack_wf (s : State) (core : Nat) (hw : Memory.wf s.mem = true) :
    Memory.wf (State.l1WriteBack s core).mem = true := by
  unfold State.l1WriteBack
  repeat' first
    | with_reducible assumption
    | intro _
    | split
    | with_reducible apply State.l1CleanByte_wf
    | with_reducible rw [State.modGroup_mem]
    | with_reducible rw [State.modTeam_mem]
    | with_reducible rw [State.touch_mem]
    | (with_reducible refine foldl_wf _ _ _ ?_ fun s x h => ?_)
    | (with_reducible refine foldl_wf1 _ _ _ ?_ fun s x h => ?_)
    | with_reducible apply wf_tset
    | (dsimp only; with_reducible assumption)
    | (dsimp only; split)
    | dsimp only

theorem State.l2Pass_wf (s : State) (pa : Nat) (hw : Memory.wf s.mem = true) :
    Memory.wf (State.l2Pass s pa).mem = true := by
  unfold State.l2Pass
  repeat' first
    | with_reducible assumption
    | intro _
    | split
    | with_reducible apply State.l2Flush_wf
    | with_reducible rw [State.cdel_mem]
    | with_reducible rw [State.modGroup_mem]
    | with_reducible rw [State.modTeam_mem]
    | with_reducible rw [State.touch_mem]
    | (with_reducible refine foldl_wf _ _ _ ?_ fun s x h => ?_)
    | (with_reducible refine foldl_wf1 _ _ _ ?_ fun s x h => ?_)
    | with_reducible apply wf_tset
    | (dsimp only; with_reducible assumption)
    | (dsimp only; split)
    | dsimp only

theorem State.l2Leave_wf (s : State) (level pa : Nat) (hw : Memory.wf s.mem = true) :
    Memory.wf (State.l2Leave s level pa).mem = true := by
  unfold State.l2Leave
  repeat' first
    | with_reducible assumption
    | intro _
    | split
    | with_reducible apply State.l2None_wf
    | with_reducible apply State.l2Pass_wf
    | with_reducible rw [State.modGroup_mem]
    | with_reducible rw [State.modTeam_mem]
    | with_reducible rw [State.touch_mem]
    | (with_reducible refine foldl_wf _ _ _ ?_ fun s x h => ?_)
    | (with_reducible refine foldl_wf1 _ _ _ ?_ fun s x h => ?_)
    | with_reducible apply wf_tset
    | (dsimp only; with_reducible assumption)
    | (dsimp only; split)
    | dsimp only

theorem State.readPhys_wf (s : State) (core level pa : Nat) (hw : Memory.wf s.mem = true) :
    Memory.wf (State.readPhys s core level pa).1.mem = true := by
  unfold State.readPhys
  repeat' first
    | with_reducible assumption
    | intro _
    | split
    | with_reducible apply State.l2None_wf
    | with_reducible apply State.l1Clean_wf
    | with_reducible apply State.l2Pass_wf
    | with_reducible rw [State.answer_mem]
    | with_reducible rw [State.cdel_mem]
    | with_reducible rw [State.cput_mem]
    | with_reducible rw [State.devRead_mem]
    | with_reducible rw [State.modGroup_mem]
    | with_reducible rw [State.modTeam_mem]
    | with_reducible rw [State.touch_mem]
    | (with_reducible refine foldl_wf _ _ _ ?_ fun s x h => ?_)
    | (with_reducible refine foldl_wf1 _ _ _ ?_ fun s x h => ?_)
    | with_reducible apply wf_tset
    | (dsimp only; with_reducible assumption)
    | (dsimp only; split)
    | dsimp only

theorem State.homeWrite_wf (s : State) (level pa : Nat) (b : Byte) (hw : Memory.wf s.mem = true) :
    Memory.wf (State.homeWrite s level pa b).mem = true := by
  unfold State.homeWrite
  repeat' first
    | with_reducible assumption
    | intro _
    | split
    | with_reducible apply State.wr_wf
    | with_reducible rw [State.modGroup_mem]
    | with_reducible rw [State.modTeam_mem]
    | with_reducible rw [State.nodeWrite_mem]
    | with_reducible rw [State.touch_mem]
    | (with_reducible refine foldl_wf _ _ _ ?_ fun s x h => ?_)
    | (with_reducible refine foldl_wf1 _ _ _ ?_ fun s x h => ?_)
    | with_reducible apply wf_tset
    | (dsimp only; with_reducible assumption)
    | (dsimp only; split)
    | dsimp only

theorem State.writePhys_wf (s : State) (core level pa : Nat) (b : Byte) (hw : Memory.wf s.mem = true) :
    Memory.wf (State.writePhys s core level pa b).mem = true := by
  unfold State.writePhys
  repeat' first
    | with_reducible assumption
    | intro _
    | split
    | with_reducible apply State.wr_wf
    | with_reducible apply State.flushPosted_wf
    | with_reducible apply State.devWrite_wf
    | with_reducible apply State.l2Leave_wf
    | with_reducible apply State.homeWrite_wf
    | with_reducible rw [State.cdel_mem]
    | with_reducible rw [State.cput_mem]
    | with_reducible rw [State.modGroup_mem]
    | with_reducible rw [State.modTeam_mem]
    | with_reducible rw [State.touch_mem]
    | (with_reducible refine foldl_wf _ _ _ ?_ fun s x h => ?_)
    | (with_reducible refine foldl_wf1 _ _ _ ?_ fun s x h => ?_)
    | with_reducible apply wf_tset
    | (dsimp only; with_reducible assumption)
    | (dsimp only; split)
    | dsimp only

theorem State.readByte_wf (s : State) (core level : Nat) (y0 : Loc) (hw : Memory.wf s.mem = true) :
    Memory.wf (State.readByte s core level y0).1.mem = true := by
  unfold State.readByte
  repeat' first
    | with_reducible assumption
    | intro _
    | split
    | with_reducible apply State.readPhys_wf
    | with_reducible rw [State.modGroup_mem]
    | with_reducible rw [State.modTeam_mem]
    | with_reducible rw [State.touch_mem]
    | (with_reducible refine foldl_wf _ _ _ ?_ fun s x h => ?_)
    | (with_reducible refine foldl_wf1 _ _ _ ?_ fun s x h => ?_)
    | with_reducible apply wf_tset
    | (dsimp only; with_reducible assumption)
    | (dsimp only; split)
    | dsimp only

theorem State.writeByte_wf (s : State) (core level : Nat) (l : Loc) (b : Byte) (hw : Memory.wf s.mem = true) :
    Memory.wf (State.writeByte s core level l b).mem = true := by
  unfold State.writeByte
  repeat' first
    | with_reducible assumption
    | intro _
    | split
    | with_reducible apply State.writePhys_wf
    | with_reducible rw [State.modGroup_mem]
    | with_reducible rw [State.modTeam_mem]
    | with_reducible rw [State.touch_mem]
    | (with_reducible refine foldl_wf _ _ _ ?_ fun s x h => ?_)
    | (with_reducible refine foldl_wf1 _ _ _ ?_ fun s x h => ?_)
    | with_reducible apply wf_tset
    | (dsimp only; with_reducible assumption)
    | (dsimp only; split)
    | dsimp only

theorem State.readBytes_wf (s : State) (core level : Nat) (y0 : Nat) (y1 : Loc) (hw : Memory.wf s.mem = true) :
    Memory.wf (State.readBytes s core level y0 y1).1.mem = true := by
  induction y0 generalizing s y1 with
  | zero => unfold State.readBytes; exact hw
  | succ n ih =>
    unfold State.readBytes
    repeat' first
      | with_reducible assumption
      | apply ih
      | intro _
      | split
      | with_reducible apply State.readByte_wf
      | with_reducible rw [State.modGroup_mem]
      | with_reducible rw [State.modTeam_mem]
      | with_reducible rw [State.touch_mem]
      | (with_reducible refine foldl_wf _ _ _ ?_ fun s x h => ?_)
      | (with_reducible refine foldl_wf1 _ _ _ ?_ fun s x h => ?_)
      | with_reducible apply wf_tset
      | (dsimp only; with_reducible assumption)
      | (dsimp only; split)
      | dsimp only

theorem State.readLoc_wf (s : State) (core level n : Nat) (l : Loc) (hw : Memory.wf s.mem = true) :
    Memory.wf (State.readLoc s core level n l).1.mem = true := by
  unfold State.readLoc
  repeat' first
    | with_reducible assumption
    | intro _
    | split
    | with_reducible apply State.readBytes_wf
    | with_reducible rw [State.freshenLoc_mem]
    | with_reducible rw [State.modGroup_mem]
    | with_reducible rw [State.modTeam_mem]
    | with_reducible rw [State.touch_mem]
    | (with_reducible refine foldl_wf _ _ _ ?_ fun s x h => ?_)
    | (with_reducible refine foldl_wf1 _ _ _ ?_ fun s x h => ?_)
    | with_reducible apply wf_tset
    | (dsimp only; with_reducible assumption)
    | (dsimp only; split)
    | dsimp only

theorem State.writeLoc_wf (s : State) (core level : Nat) (y0 : List Byte) (y1 : Loc) (hw : Memory.wf s.mem = true) :
    Memory.wf (State.writeLoc s core level y0 y1).mem = true := by
  induction y0 generalizing s y1 with
  | nil => unfold State.writeLoc; exact hw
  | cons x l ih =>
    unfold State.writeLoc
    repeat' first
      | with_reducible assumption
      | apply ih
      | intro _
      | split
      | with_reducible apply State.writeByte_wf
      | with_reducible rw [State.modGroup_mem]
      | with_reducible rw [State.modTeam_mem]
      | with_reducible rw [State.touch_mem]
      | (with_reducible refine foldl_wf _ _ _ ?_ fun s x h => ?_)
      | (with_reducible refine foldl_wf1 _ _ _ ?_ fun s x h => ?_)
      | with_reducible apply wf_tset
      | (dsimp only; with_reducible assumption)
      | (dsimp only; split)
      | dsimp only

theorem State.fenceRel_wf (s : State) (core : Nat) (scope : Scope) (hw : Memory.wf s.mem = true) :
    Memory.wf (State.fenceRel s core scope).mem = true := by
  unfold State.fenceRel
  repeat' first
    | with_reducible assumption
    | intro _
    | split
    | with_reducible apply State.flushPosted_wf
    | with_reducible apply State.l2Flush_wf
    | with_reducible apply State.l1WriteBack_wf
    | with_reducible rw [State.modGroup_mem]
    | with_reducible rw [State.modTeam_mem]
    | with_reducible rw [State.touch_mem]
    | with_reducible rw [State.writes_mem]
    | (with_reducible refine foldl_wf _ _ _ ?_ fun s x h => ?_)
    | (with_reducible refine foldl_wf1 _ _ _ ?_ fun s x h => ?_)
    | with_reducible apply wf_tset
    | (dsimp only; with_reducible assumption)
    | (dsimp only; split)
    | dsimp only

theorem State.fenceAcq_wf (s : State) (core : Nat) (scope : Scope) (hw : Memory.wf s.mem = true) :
    Memory.wf (State.fenceAcq s core scope).mem = true := by
  unfold State.fenceAcq
  repeat' first
    | with_reducible assumption
    | intro _
    | split
    | with_reducible apply State.l1WriteBack_wf
    | with_reducible rw [State.cdel_mem]
    | with_reducible rw [State.l1Invalidate_mem]
    | with_reducible rw [State.modGroup_mem]
    | with_reducible rw [State.modTeam_mem]
    | with_reducible rw [State.touch_mem]
    | (with_reducible refine foldl_wf _ _ _ ?_ fun s x h => ?_)
    | (with_reducible refine foldl_wf1 _ _ _ ?_ fun s x h => ?_)
    | with_reducible apply wf_tset
    | (dsimp only; with_reducible assumption)
    | (dsimp only; split)
    | dsimp only

theorem State.fenceDo_wf (s : State) (core : Nat) (order : Order) (scope : Scope) (hw : Memory.wf s.mem = true) :
    Memory.wf (State.fenceDo s core order scope).mem = true := by
  unfold State.fenceDo
  repeat' first
    | with_reducible assumption
    | intro _
    | split
    | with_reducible apply State.fenceRel_wf
    | with_reducible apply State.fenceAcq_wf
    | with_reducible rw [State.modGroup_mem]
    | with_reducible rw [State.modTeam_mem]
    | with_reducible rw [State.touch_mem]
    | (with_reducible refine foldl_wf _ _ _ ?_ fun s x h => ?_)
    | (with_reducible refine foldl_wf1 _ _ _ ?_ fun s x h => ?_)
    | with_reducible apply wf_tset
    | (dsimp only; with_reducible assumption)
    | (dsimp only; split)
    | dsimp only

theorem State.performSpan_wf (s : State) (core : Nat) (sp : Span) (hw : Memory.wf s.mem = true) :
    Memory.wf (State.performSpan s core sp).mem = true := by
  unfold State.performSpan
  repeat' first
    | with_reducible assumption
    | intro _
    | split
    | with_reducible apply State.writePhys_wf
    | with_reducible rw [State.modGroup_mem]
    | with_reducible rw [State.modTeam_mem]
    | with_reducible rw [State.touch_mem]
    | (with_reducible refine foldl_wf _ _ _ ?_ fun s x h => ?_)
    | (with_reducible refine foldl_wf1 _ _ _ ?_ fun s x h => ?_)
    | with_reducible apply wf_tset
    | (dsimp only; with_reducible assumption)
    | (dsimp only; split)
    | dsimp only

theorem State.unbrine_wf (s : State) (gid : Nat) (pas : List Nat) (hw : Memory.wf s.mem = true) :
    Memory.wf (State.unbrine s gid pas).mem = true := by
  unfold State.unbrine
  repeat' first
    | with_reducible assumption
    | intro _
    | split
    | with_reducible apply State.performSpan_wf
    | with_reducible rw [State.modGroup_mem]
    | with_reducible rw [State.modTeam_mem]
    | with_reducible rw [State.touch_mem]
    | (with_reducible refine foldl_wf _ _ _ ?_ fun s x h => ?_)
    | (with_reducible refine foldl_wf1 _ _ _ ?_ fun s x h => ?_)
    | with_reducible apply wf_tset
    | (dsimp only; with_reducible assumption)
    | (dsimp only; split)
    | dsimp only

theorem State.brineStore_wf (s : State) (gid n : Nat) (o : Op) (accs : List (LaneAcc × List Byte)) (hw : Memory.wf s.mem = true) :
    Memory.wf (State.brineStore s gid n o accs).mem = true := by
  unfold State.brineStore
  repeat' first
    | with_reducible assumption
    | intro _
    | split
    | with_reducible apply State.writeLoc_wf
    | with_reducible rw [State.modGroup_mem]
    | with_reducible rw [State.modTeam_mem]
    | with_reducible rw [State.touch_mem]
    | (with_reducible refine foldl_wf _ _ _ ?_ fun s x h => ?_)
    | (with_reducible refine foldl_wf1 _ _ _ ?_ fun s x h => ?_)
    | with_reducible apply wf_tset
    | (dsimp only; with_reducible assumption)
    | (dsimp only; split)
    | dsimp only

theorem State.brinePending_wf (s : State) (gid : Nat) (hw : Memory.wf s.mem = true) :
    Memory.wf (State.brinePending s gid).mem = true := by
  unfold State.brinePending
  repeat' first
    | with_reducible assumption
    | intro _
    | split
    | with_reducible apply State.brineStore_wf
    | with_reducible rw [State.modGroup_mem]
    | with_reducible rw [State.modTeam_mem]
    | with_reducible rw [State.touch_mem]
    | (with_reducible refine foldl_wf _ _ _ ?_ fun s x h => ?_)
    | (with_reducible refine foldl_wf1 _ _ _ ?_ fun s x h => ?_)
    | with_reducible apply wf_tset
    | (dsimp only; with_reducible assumption)
    | (dsimp only; split)
    | dsimp only

theorem State.loadBytes_wf (s : State) (g : Group) (m : Nat) (o : Op) (level i : Nat) (y0 : Nat) (y1 : Loc) (hw : Memory.wf s.mem = true) :
    Memory.wf (State.loadBytes s g m o level i y0 y1).1.mem = true := by
  induction y0 generalizing s y1 with
  | zero => unfold State.loadBytes; exact hw
  | succ n ih =>
    unfold State.loadBytes
    repeat' first
      | with_reducible assumption
      | apply ih
      | intro _
      | split
      | with_reducible apply State.readByte_wf
      | with_reducible rw [State.modGroup_mem]
      | with_reducible rw [State.modTeam_mem]
      | with_reducible rw [State.touch_mem]
      | (with_reducible refine foldl_wf _ _ _ ?_ fun s x h => ?_)
      | (with_reducible refine foldl_wf1 _ _ _ ?_ fun s x h => ?_)
      | with_reducible apply wf_tset
      | (dsimp only; with_reducible assumption)
      | (dsimp only; split)
      | dsimp only

theorem State.loadLane_wf (s : State) (gid m : Nat) (o : Op) (order : Order) (scope : Scope) (n data : Nat) (form11 : Bool) (a : LaneAcc) (hw : Memory.wf s.mem = true) :
    Memory.wf (State.loadLane s gid m o order scope n data form11 a).mem = true := by
  unfold State.loadLane
  repeat' first
    | with_reducible assumption
    | intro _
    | split
    | with_reducible apply State.unbrine_wf
    | with_reducible apply State.loadBytes_wf
    | with_reducible rw [State.freshenLoc_mem]
    | with_reducible rw [State.markLine_mem]
    | with_reducible rw [State.modGroup_mem]
    | with_reducible rw [State.modTeam_mem]
    | with_reducible rw [State.nodeLost_mem]
    | with_reducible rw [State.touch_mem]
    | (with_reducible refine foldl_wf _ _ _ ?_ fun s x h => ?_)
    | (with_reducible refine foldl_wf1 _ _ _ ?_ fun s x h => ?_)
    | with_reducible apply wf_tset
    | (dsimp only; with_reducible assumption)
    | (dsimp only; split)
    | dsimp only

theorem State.atomicLane_wf (s : State) (gid : Nat) (o : Op) (k : AtomicKind) (order : Order) (scope : Scope) (n data : Nat) (form11 : Bool) (a : AtomicLane) (hw : Memory.wf s.mem = true) :
    Memory.wf (State.atomicLane s gid o k order scope n data form11 a).mem = true := by
  unfold State.atomicLane
  repeat' first
    | with_reducible assumption
    | intro _
    | split
    | with_reducible apply State.readLoc_wf
    | with_reducible apply State.writeLoc_wf
    | with_reducible apply State.unbrine_wf
    | with_reducible rw [State.modGroup_mem]
    | with_reducible rw [State.modTeam_mem]
    | with_reducible rw [State.needOwn_mem]
    | with_reducible rw [State.nodeLost_mem]
    | with_reducible rw [State.touch_mem]
    | (with_reducible refine foldl_wf _ _ _ ?_ fun s x h => ?_)
    | (with_reducible refine foldl_wf1 _ _ _ ?_ fun s x h => ?_)
    | with_reducible apply wf_tset
    | (dsimp only; with_reducible assumption)
    | (dsimp only; split)
    | dsimp only

theorem State.finishAccess_wf (s : State) (gid n : Nat) (order : Order) (scope : Scope) (hw : Memory.wf s.mem = true) :
    Memory.wf (State.finishAccess s gid n order scope).mem = true := by
  unfold State.finishAccess
  repeat' first
    | with_reducible assumption
    | intro _
    | split
    | with_reducible apply State.fenceAcq_wf
    | with_reducible rw [State.completeOp_mem]
    | with_reducible rw [State.modGroup_mem]
    | with_reducible rw [State.modTeam_mem]
    | with_reducible rw [State.touch_mem]
    | (with_reducible refine foldl_wf _ _ _ ?_ fun s x h => ?_)
    | (with_reducible refine foldl_wf1 _ _ _ ?_ fun s x h => ?_)
    | with_reducible apply wf_tset
    | (dsimp only; with_reducible assumption)
    | (dsimp only; split)
    | dsimp only

theorem State.released_wf (s : State) (gid n : Nat) (o : Op) (order : Order) (scope : Scope) (hw : Memory.wf s.mem = true) :
    Memory.wf (State.released s gid n o order scope).1.mem = true := by
  unfold State.released
  repeat' first
    | with_reducible assumption
    | intro _
    | split
    | with_reducible apply State.fenceRel_wf
    | with_reducible rw [State.modGroup_mem]
    | with_reducible rw [State.modTeam_mem]
    | with_reducible rw [State.touch_mem]
    | (with_reducible refine foldl_wf _ _ _ ?_ fun s x h => ?_)
    | (with_reducible refine foldl_wf1 _ _ _ ?_ fun s x h => ?_)
    | with_reducible apply wf_tset
    | (dsimp only; with_reducible assumption)
    | (dsimp only; split)
    | dsimp only

theorem State.endLoad_wf (s : State) (gid n : Nat) (order : Order) (scope : Scope) (hw : Memory.wf s.mem = true) :
    Memory.wf (State.endLoad s gid n order scope).mem = true := by
  unfold State.endLoad
  repeat' first
    | with_reducible assumption
    | intro _
    | split
    | with_reducible apply State.finishAccess_wf
    | with_reducible rw [State.modGroup_mem]
    | with_reducible rw [State.modTeam_mem]
    | with_reducible rw [State.touch_mem]
    | (with_reducible refine foldl_wf _ _ _ ?_ fun s x h => ?_)
    | (with_reducible refine foldl_wf1 _ _ _ ?_ fun s x h => ?_)
    | with_reducible apply wf_tset
    | (dsimp only; with_reducible assumption)
    | (dsimp only; split)
    | dsimp only

theorem State.loadSome_wf (s : State) (gid n : Nat) (o : Op) (p : LaneAcc → Bool) (hw : Memory.wf s.mem = true) :
    Memory.wf (State.loadSome s gid n o p).mem = true := by
  unfold State.loadSome
  repeat' first
    | with_reducible assumption
    | intro _
    | split
    | with_reducible apply State.loadLane_wf
    | with_reducible apply State.endLoad_wf
    | with_reducible rw [State.modGroup_mem]
    | with_reducible rw [State.modTeam_mem]
    | with_reducible rw [State.touch_mem]
    | (with_reducible refine foldl_wf _ _ _ ?_ fun s x h => ?_)
    | (with_reducible refine foldl_wf1 _ _ _ ?_ fun s x h => ?_)
    | with_reducible apply wf_tset
    | (dsimp only; with_reducible assumption)
    | (dsimp only; split)
    | dsimp only

theorem State.atomicSome_wf (s : State) (gid n : Nat) (o : Op) (p : LaneAcc → Bool) (hw : Memory.wf s.mem = true) :
    Memory.wf (State.atomicSome s gid n o p).mem = true := by
  unfold State.atomicSome
  repeat' first
    | with_reducible assumption
    | intro _
    | split
    | with_reducible apply State.atomicLane_wf
    | with_reducible apply State.finishAccess_wf
    | with_reducible apply State.released_wf
    | with_reducible rw [State.modGroup_mem]
    | with_reducible rw [State.modTeam_mem]
    | with_reducible rw [State.touch_mem]
    | (with_reducible refine foldl_wf _ _ _ ?_ fun s x h => ?_)
    | (with_reducible refine foldl_wf1 _ _ _ ?_ fun s x h => ?_)
    | with_reducible apply wf_tset
    | (dsimp only; with_reducible assumption)
    | (dsimp only; split)
    | dsimp only

theorem State.sendAtomic_wf (s : State) (gid n : Nat) (o : Op) (x : AtomicLane) (hw : Memory.wf s.mem = true) :
    Memory.wf (State.sendAtomic s gid n o x).mem = true := by
  unfold State.sendAtomic
  repeat' first
    | with_reducible assumption
    | intro _
    | split
    | with_reducible apply State.l2None_wf
    | with_reducible apply State.l1Clean_wf
    | with_reducible apply State.unbrine_wf
    | with_reducible apply State.released_wf
    | with_reducible rw [State.cdel_mem]
    | with_reducible rw [State.modGroup_mem]
    | with_reducible rw [State.modTeam_mem]
    | with_reducible rw [State.nodeLost_mem]
    | with_reducible rw [State.request_mem]
    | with_reducible rw [State.touch_mem]
    | (with_reducible refine foldl_wf _ _ _ ?_ fun s x h => ?_)
    | (with_reducible refine foldl_wf1 _ _ _ ?_ fun s x h => ?_)
    | with_reducible apply wf_tset
    | (dsimp only; with_reducible assumption)
    | (dsimp only; split)
    | dsimp only

theorem State.arrive_wf (s : State) (gid n lane : Nat) (hw : Memory.wf s.mem = true) :
    Memory.wf (State.arrive s gid n lane).mem = true := by
  unfold State.arrive
  repeat' first
    | with_reducible assumption
    | intro _
    | split
    | with_reducible apply State.endLoad_wf
    | with_reducible apply State.loadSome_wf
    | with_reducible apply State.atomicSome_wf
    | with_reducible apply State.sendAtomic_wf
    | with_reducible apply State.deliver_wf
    | with_reducible rw [State.modGroup_mem]
    | with_reducible rw [State.modTeam_mem]
    | with_reducible rw [State.touch_mem]
    | (with_reducible refine foldl_wf _ _ _ ?_ fun s x h => ?_)
    | (with_reducible refine foldl_wf1 _ _ _ ?_ fun s x h => ?_)
    | with_reducible apply wf_tset
    | (dsimp only; with_reducible assumption)
    | (dsimp only; split)
    | dsimp only

theorem State.storeLanes_wf (s : State) (gid : Nat) (g : Group) (order : Order) (level : Nat) (accs : List (LaneAcc × List Byte)) (hw : Memory.wf s.mem = true) :
    Memory.wf (State.storeLanes s gid g order level accs).mem = true := by
  unfold State.storeLanes
  repeat' first
    | with_reducible assumption
    | intro _
    | split
    | with_reducible apply State.writeLoc_wf
    | with_reducible apply State.unbrine_wf
    | with_reducible rw [State.markLine_mem]
    | with_reducible rw [State.modGroup_mem]
    | with_reducible rw [State.modTeam_mem]
    | with_reducible rw [State.nodeLost_mem]
    | with_reducible rw [State.touch_mem]
    | with_reducible rw [State.writes_mem]
    | (with_reducible refine foldl_wf _ _ _ ?_ fun s x h => ?_)
    | (with_reducible refine foldl_wf1 _ _ _ ?_ fun s x h => ?_)
    | with_reducible apply wf_tset
    | (dsimp only; with_reducible assumption)
    | (dsimp only; split)
    | dsimp only

theorem State.performStore_wf (s : State) (gid n : Nat) (hw : Memory.wf s.mem = true) :
    Memory.wf (State.performStore s gid n).mem = true := by
  unfold State.performStore
  repeat' first
    | with_reducible assumption
    | intro _
    | split
    | with_reducible apply State.brineStore_wf
    | with_reducible apply State.released_wf
    | with_reducible apply State.storeLanes_wf
    | with_reducible rw [State.completeOp_mem]
    | with_reducible rw [State.modGroup_mem]
    | with_reducible rw [State.modTeam_mem]
    | with_reducible rw [State.touch_mem]
    | (with_reducible refine foldl_wf _ _ _ ?_ fun s x h => ?_)
    | (with_reducible refine foldl_wf1 _ _ _ ?_ fun s x h => ?_)
    | with_reducible apply wf_tset
    | (dsimp only; with_reducible assumption)
    | (dsimp only; split)
    | dsimp only

theorem State.settleBytes_wf (s : State) (gid : Nat) (l : List (Loc × Nat × Bool)) (hw : Memory.wf s.mem = true) :
    Memory.wf (State.settleBytes s gid l).mem = true := by
  unfold State.settleBytes
  repeat' first
    | with_reducible assumption
    | intro _
    | split
    | with_reducible apply State.arrive_wf
    | with_reducible apply State.performStore_wf
    | with_reducible rw [State.modGroup_mem]
    | with_reducible rw [State.modTeam_mem]
    | with_reducible rw [State.touch_mem]
    | (with_reducible refine foldl_wf _ _ _ ?_ fun s x h => ?_)
    | (with_reducible refine foldl_wf1 _ _ _ ?_ fun s x h => ?_)
    | with_reducible apply wf_tset
    | (dsimp only; with_reducible assumption)
    | (dsimp only; split)
    | dsimp only

theorem State.afterBytes_wf (s : State) (l : List (Loc × Nat × Bool)) (f : State → State) (h_f : ∀ x0, Memory.wf x0.mem = true → Memory.wf (f x0).mem = true) (hw : Memory.wf s.mem = true) :
    Memory.wf (State.afterBytes s l f).mem = true := by
  unfold State.afterBytes
  repeat' first
    | with_reducible assumption
    | intro _
    | split
    | with_reducible apply h_f
    | with_reducible apply State.settleBytes_wf
    | with_reducible rw [State.modGroup_mem]
    | with_reducible rw [State.modTeam_mem]
    | with_reducible rw [State.touch_mem]
    | (with_reducible refine foldl_wf _ _ _ ?_ fun s x h => ?_)
    | (with_reducible refine foldl_wf1 _ _ _ ?_ fun s x h => ?_)
    | with_reducible apply wf_tset
    | (dsimp only; with_reducible assumption)
    | (dsimp only; split)
    | dsimp only

theorem State.afterNow_wf (s : State) (sel mer : Bool) (act : AfterAct) (apply : State → Nat → Nat → State) (h_apply : ∀ x0 x1 x2, Memory.wf x0.mem = true → Memory.wf (apply x0 x1 x2).mem = true) (hw : Memory.wf s.mem = true) :
    Memory.wf (State.afterNow s sel mer act apply).mem = true := by
  unfold State.afterNow
  repeat' first
    | with_reducible assumption
    | intro _
    | split
    | with_reducible apply h_apply
    | with_reducible rw [State.addOpMer_mem]
    | with_reducible rw [State.modGroup_mem]
    | with_reducible rw [State.modTeam_mem]
    | with_reducible rw [State.touch_mem]
    | (with_reducible refine foldl_wf _ _ _ ?_ fun s x h => ?_)
    | (with_reducible refine foldl_wf1 _ _ _ ?_ fun s x h => ?_)
    | with_reducible apply wf_tset
    | (dsimp only; with_reducible assumption)
    | (dsimp only; split)
    | dsimp only

theorem State.groupBytes_wf (s : State) (g : Group) (level n : Nat) (l : Loc) (hw : Memory.wf s.mem = true) :
    Memory.wf (State.groupBytes s g level n l).1.mem = true := by
  unfold State.groupBytes
  repeat' first
    | with_reducible assumption
    | intro _
    | split
    | with_reducible apply State.readLoc_wf
    | with_reducible rw [State.modGroup_mem]
    | with_reducible rw [State.modTeam_mem]
    | with_reducible rw [State.touch_mem]
    | (with_reducible refine foldl_wf _ _ _ ?_ fun s x h => ?_)
    | (with_reducible refine foldl_wf1 _ _ _ ?_ fun s x h => ?_)
    | with_reducible apply wf_tset
    | (dsimp only; with_reducible assumption)
    | (dsimp only; split)
    | dsimp only

theorem State.withLanes_wf (s : State) (g : Group) (n kind : Nat) (need : Need) (l : List (Nat × Word64)) (f : State → List LaneAcc → State) (h_f : ∀ x0 x1, Memory.wf x0.mem = true → Memory.wf (f x0 x1).mem = true) (hw : Memory.wf s.mem = true) :
    Memory.wf (State.withLanes s g n kind need l f).mem = true := by
  unfold State.withLanes
  repeat' first
    | with_reducible assumption
    | intro _
    | split
    | with_reducible apply h_f
    | with_reducible rw [State.checkLanes_mem]
    | with_reducible rw [State.modGroup_mem]
    | with_reducible rw [State.modTeam_mem]
    | with_reducible rw [State.touch_mem]
    | with_reducible rw [State.trapHere_mem]
    | with_reducible rw [State.wantPieces_mem]
    | (with_reducible refine foldl_wf _ _ _ ?_ fun s x h => ?_)
    | (with_reducible refine foldl_wf1 _ _ _ ?_ fun s x h => ?_)
    | with_reducible apply wf_tset
    | (dsimp only; with_reducible assumption)
    | (dsimp only; split)
    | dsimp only

theorem State.applyFence_wf (order : Order) (scope : Scope) (s : State) (gid n : Nat) (hw : Memory.wf s.mem = true) :
    Memory.wf (State.applyFence order scope s gid n).mem = true := by
  unfold State.applyFence
  repeat' first
    | with_reducible assumption
    | intro _
    | split
    | with_reducible apply State.finishAccess_wf
    | with_reducible apply State.released_wf
    | with_reducible rw [State.modGroup_mem]
    | with_reducible rw [State.modTeam_mem]
    | with_reducible rw [State.touch_mem]
    | (with_reducible refine foldl_wf _ _ _ ?_ fun s x h => ?_)
    | (with_reducible refine foldl_wf1 _ _ _ ?_ fun s x h => ?_)
    | with_reducible apply wf_tset
    | (dsimp only; with_reducible assumption)
    | (dsimp only; split)
    | dsimp only

theorem State.applyAcqr_wf (victim : Nat) (s : State) (gid n : Nat) (hw : Memory.wf s.mem = true) :
    Memory.wf (State.applyAcqr victim s gid n).mem = true := by
  unfold State.applyAcqr
  repeat' first
    | with_reducible assumption
    | intro _
    | split
    | with_reducible apply State.l1WriteBack_wf
    | with_reducible apply State.fenceAcq_wf
    | with_reducible rw [State.completeOp_mem]
    | with_reducible rw [State.l1Invalidate_mem]
    | with_reducible rw [State.modGroup_mem]
    | with_reducible rw [State.modTeam_mem]
    | with_reducible rw [State.touch_mem]
    | (with_reducible refine foldl_wf _ _ _ ?_ fun s x h => ?_)
    | (with_reducible refine foldl_wf1 _ _ _ ?_ fun s x h => ?_)
    | with_reducible apply wf_tset
    | (dsimp only; with_reducible assumption)
    | (dsimp only; split)
    | dsimp only

theorem State.mapWriteBack_wf (s : State) (c core team i level : Nat) (only : Option Nat) (hw : Memory.wf s.mem = true) :
    Memory.wf (State.mapWriteBack s c core team i level only).mem = true := by
  unfold State.mapWriteBack
  repeat' first
    | with_reducible assumption
    | intro _
    | split
    | with_reducible apply State.writePhys_wf
    | with_reducible rw [State.lookup_mem]
    | with_reducible rw [State.modGroup_mem]
    | with_reducible rw [State.modTeam_mem]
    | with_reducible rw [State.touch_mem]
    | (with_reducible refine foldl_wf _ _ _ ?_ fun s x h => ?_)
    | (with_reducible refine foldl_wf1 _ _ _ ?_ fun s x h => ?_)
    | with_reducible apply wf_tset
    | (dsimp only; with_reducible assumption)
    | (dsimp only; split)
    | dsimp only

theorem State.endMapping_wf (s : State) (c core team i level : Nat) (hw : Memory.wf s.mem = true) :
    Memory.wf (State.endMapping s c core team i level).mem = true := by
  unfold State.endMapping
  repeat' first
    | with_reducible assumption
    | intro _
    | split
    | with_reducible apply State.mapWriteBack_wf
    | with_reducible rw [State.modGroup_mem]
    | with_reducible rw [State.modTeam_mem]
    | with_reducible rw [State.touch_mem]
    | (with_reducible refine foldl_wf _ _ _ ?_ fun s x h => ?_)
    | (with_reducible refine foldl_wf1 _ _ _ ?_ fun s x h => ?_)
    | with_reducible apply wf_tset
    | (dsimp only; with_reducible assumption)
    | (dsimp only; split)
    | dsimp only

theorem State.mapRelease_wf (s : State) (g : Group) (slot off : Nat) (hw : Memory.wf s.mem = true) :
    Memory.wf (State.mapRelease s g slot off).mem = true := by
  unfold State.mapRelease
  repeat' first
    | with_reducible assumption
    | intro _
    | split
    | with_reducible apply State.mapWriteBack_wf
    | with_reducible rw [State.modGroup_mem]
    | with_reducible rw [State.modTeam_mem]
    | with_reducible rw [State.touch_mem]
    | (with_reducible refine foldl_wf _ _ _ ?_ fun s x h => ?_)
    | (with_reducible refine foldl_wf1 _ _ _ ?_ fun s x h => ?_)
    | with_reducible apply wf_tset
    | (dsimp only; with_reducible assumption)
    | (dsimp only; split)
    | dsimp only

theorem State.mapEnd_wf (s : State) (g : Group) (slot off : Nat) (hw : Memory.wf s.mem = true) :
    Memory.wf (State.mapEnd s g slot off).mem = true := by
  unfold State.mapEnd
  repeat' first
    | with_reducible assumption
    | intro _
    | split
    | with_reducible apply State.endMapping_wf
    | with_reducible rw [State.modGroup_mem]
    | with_reducible rw [State.modTeam_mem]
    | with_reducible rw [State.touch_mem]
    | (with_reducible refine foldl_wf _ _ _ ?_ fun s x h => ?_)
    | (with_reducible refine foldl_wf1 _ _ _ ?_ fun s x h => ?_)
    | with_reducible apply wf_tset
    | (dsimp only; with_reducible assumption)
    | (dsimp only; split)
    | dsimp only

theorem State.applyStwb_wf (slot off : Nat) (scope : Scope) (drop : Bool) (s : State) (gid n : Nat) (hw : Memory.wf s.mem = true) :
    Memory.wf (State.applyStwb slot off scope drop s gid n).mem = true := by
  unfold State.applyStwb
  repeat' first
    | with_reducible assumption
    | intro _
    | split
    | with_reducible apply State.released_wf
    | with_reducible apply State.mapRelease_wf
    | with_reducible apply State.mapEnd_wf
    | with_reducible rw [State.completeOp_mem]
    | with_reducible rw [State.modGroup_mem]
    | with_reducible rw [State.modTeam_mem]
    | with_reducible rw [State.plain_mem]
    | with_reducible rw [State.touch_mem]
    | (with_reducible refine foldl_wf _ _ _ ?_ fun s x h => ?_)
    | (with_reducible refine foldl_wf1 _ _ _ ?_ fun s x h => ?_)
    | with_reducible apply wf_tset
    | (dsimp only; with_reducible assumption)
    | (dsimp only; split)
    | dsimp only

theorem stwbMould_wf (i : Instr) (x : MFields) (drop : Bool) (s : State) (hw : Memory.wf s.mem = true) :
    Memory.wf (stwbMould i x drop s).mem = true := by
  unfold stwbMould
  repeat' first
    | with_reducible assumption
    | intro _
    | split
    | with_reducible apply State.guarded_wf
    | with_reducible apply State.afterNow_wf
    | with_reducible apply State.applyStwb_wf
    | with_reducible rw [State.addOp_mem]
    | with_reducible rw [State.advance_mem]
    | with_reducible rw [State.modGroup_mem]
    | with_reducible rw [State.modTeam_mem]
    | with_reducible rw [State.plain_mem]
    | with_reducible rw [State.touch_mem]
    | with_reducible rw [State.trapHere_mem]
    | (with_reducible refine foldl_wf _ _ _ ?_ fun s x h => ?_)
    | (with_reducible refine foldl_wf1 _ _ _ ?_ fun s x h => ?_)
    | with_reducible apply wf_tset
    | (dsimp only; with_reducible assumption)
    | (dsimp only; split)
    | dsimp only

theorem State.addMapping_wf (s : State) (c core team : Nat) (m : Mapping) (hw : Memory.wf s.mem = true) :
    Memory.wf (State.addMapping s c core team m).mem = true := by
  unfold State.addMapping
  repeat' first
    | with_reducible assumption
    | intro _
    | split
    | with_reducible apply State.endMapping_wf
    | with_reducible rw [State.modGroup_mem]
    | with_reducible rw [State.modTeam_mem]
    | with_reducible rw [State.touch_mem]
    | (with_reducible refine foldl_wf _ _ _ ?_ fun s x h => ?_)
    | (with_reducible refine foldl_wf1 _ _ _ ?_ fun s x h => ?_)
    | with_reducible apply wf_tset
    | (dsimp only; with_reducible assumption)
    | (dsimp only; split)
    | dsimp only

theorem State.completeWait_wf (s : State) (gid n : Nat) (scope : Scope) (clock : BitVec 48) (hw : Memory.wf s.mem = true) :
    Memory.wf (State.completeWait s gid n scope clock).mem = true := by
  unfold State.completeWait
  repeat' first
    | with_reducible assumption
    | intro _
    | split
    | with_reducible apply State.fenceAcq_wf
    | with_reducible rw [State.completeOp_mem]
    | with_reducible rw [State.modGroup_mem]
    | with_reducible rw [State.modTeam_mem]
    | with_reducible rw [State.touch_mem]
    | (with_reducible refine foldl_wf _ _ _ ?_ fun s x h => ?_)
    | (with_reducible refine foldl_wf1 _ _ _ ?_ fun s x h => ?_)
    | with_reducible apply wf_tset
    | (dsimp only; with_reducible assumption)
    | (dsimp only; split)
    | dsimp only

theorem State.completeWhere_wf (s : State) (p : Nat → Group → Op → Bool) (scope : Scope) (clock : BitVec 48) (hw : Memory.wf s.mem = true) :
    Memory.wf (State.completeWhere s p scope clock).mem = true := by
  unfold State.completeWhere
  repeat' first
    | with_reducible assumption
    | intro _
    | split
    | with_reducible apply State.completeWait_wf
    | with_reducible rw [State.modGroup_mem]
    | with_reducible rw [State.modTeam_mem]
    | with_reducible rw [State.touch_mem]
    | (with_reducible refine foldl_wf _ _ _ ?_ fun s x h => ?_)
    | (with_reducible refine foldl_wf1 _ _ _ ?_ fun s x h => ?_)
    | with_reducible apply wf_tset
    | (dsimp only; with_reducible assumption)
    | (dsimp only; split)
    | dsimp only

theorem State.barSettleTo_wf (s : State) (now core bar : Nat) (hw : Memory.wf s.mem = true) :
    Memory.wf (State.barSettleTo s now core bar).mem = true := by
  unfold State.barSettleTo
  repeat' first
    | with_reducible assumption
    | intro _
    | split
    | with_reducible apply State.completeWhere_wf
    | with_reducible rw [State.modGroup_mem]
    | with_reducible rw [State.modTeam_mem]
    | with_reducible rw [State.setBar_mem]
    | with_reducible rw [State.touch_mem]
    | (with_reducible refine foldl_wf _ _ _ ?_ fun s x h => ?_)
    | (with_reducible refine foldl_wf1 _ _ _ ?_ fun s x h => ?_)
    | with_reducible apply wf_tset
    | (dsimp only; with_reducible assumption)
    | (dsimp only; split)
    | dsimp only

theorem State.barSettle_wf (s : State) (core bar : Nat) (hw : Memory.wf s.mem = true) :
    Memory.wf (State.barSettle s core bar).mem = true := by
  unfold State.barSettle
  repeat' first
    | with_reducible assumption
    | intro _
    | split
    | with_reducible apply State.barSettleTo_wf
    | with_reducible rw [State.modGroup_mem]
    | with_reducible rw [State.modTeam_mem]
    | with_reducible rw [State.touch_mem]
    | (with_reducible refine foldl_wf _ _ _ ?_ fun s x h => ?_)
    | (with_reducible refine foldl_wf1 _ _ _ ?_ fun s x h => ?_)
    | with_reducible apply wf_tset
    | (dsimp only; with_reducible assumption)
    | (dsimp only; split)
    | dsimp only

theorem State.endBars_wf (s : State) (now : Nat) (hw : Memory.wf s.mem = true) :
    Memory.wf (State.endBars s now).mem = true := by
  unfold State.endBars
  repeat' first
    | with_reducible assumption
    | intro _
    | split
    | with_reducible apply State.barSettleTo_wf
    | with_reducible rw [State.modGroup_mem]
    | with_reducible rw [State.modTeam_mem]
    | with_reducible rw [State.touch_mem]
    | (with_reducible refine foldl_wf _ _ _ ?_ fun s x h => ?_)
    | (with_reducible refine foldl_wf1 _ _ _ ?_ fun s x h => ?_)
    | with_reducible apply wf_tset
    | (dsimp only; with_reducible assumption)
    | (dsimp only; split)
    | dsimp only

theorem State.applyBara_wf (core bar w sb : Nat) (s : State) (gid n : Nat) (hw : Memory.wf s.mem = true) :
    Memory.wf (State.applyBara core bar w sb s gid n).mem = true := by
  unfold State.applyBara
  repeat' first
    | with_reducible assumption
    | intro _
    | split
    | with_reducible apply State.fenceRel_wf
    | with_reducible apply State.arrive_wf
    | with_reducible apply State.barSettle_wf
    | with_reducible rw [State.completeOp_mem]
    | with_reducible rw [State.modGroup_mem]
    | with_reducible rw [State.modTeam_mem]
    | with_reducible rw [State.setBar_mem]
    | with_reducible rw [State.touch_mem]
    | (with_reducible refine foldl_wf _ _ _ ?_ fun s x h => ?_)
    | (with_reducible refine foldl_wf1 _ _ _ ?_ fun s x h => ?_)
    | with_reducible apply wf_tset
    | (dsimp only; with_reducible assumption)
    | (dsimp only; split)
    | dsimp only

theorem State.applyBarx_wf (core bar w : Nat) (s : State) (gid n : Nat) (hw : Memory.wf s.mem = true) :
    Memory.wf (State.applyBarx core bar w s gid n).mem = true := by
  unfold State.applyBarx
  repeat' first
    | with_reducible assumption
    | intro _
    | split
    | with_reducible apply State.fenceRel_wf
    | with_reducible apply State.arrive_wf
    | with_reducible apply State.barSettle_wf
    | with_reducible rw [State.modGroup_mem]
    | with_reducible rw [State.modTeam_mem]
    | with_reducible rw [State.setBar_mem]
    | with_reducible rw [State.touch_mem]
    | (with_reducible refine foldl_wf _ _ _ ?_ fun s x h => ?_)
    | (with_reducible refine foldl_wf1 _ _ _ ?_ fun s x h => ?_)
    | with_reducible apply wf_tset
    | (dsimp only; with_reducible assumption)
    | (dsimp only; split)
    | dsimp only

theorem barMould_wf (i : Instr) (q : QFields) (f : State → Group → Nat → State) (s : State) (h_f : ∀ x0 x1 x2, Memory.wf x0.mem = true → Memory.wf (f x0 x1 x2).mem = true) (hw : Memory.wf s.mem = true) :
    Memory.wf (barMould i q f s).mem = true := by
  unfold barMould
  repeat' first
    | with_reducible assumption
    | intro _
    | split
    | with_reducible apply h_f
    | with_reducible apply State.guarded_wf
    | with_reducible rw [State.barFault_mem]
    | with_reducible rw [State.modGroup_mem]
    | with_reducible rw [State.modTeam_mem]
    | with_reducible rw [State.touch_mem]
    | (with_reducible refine foldl_wf _ _ _ ?_ fun s x h => ?_)
    | (with_reducible refine foldl_wf1 _ _ _ ?_ fun s x h => ?_)
    | with_reducible apply wf_tset
    | (dsimp only; with_reducible assumption)
    | (dsimp only; split)
    | dsimp only

theorem State.applyTbar_wf (tb : Nat) (token : Option Nat) (s : State) (gid n : Nat) (hw : Memory.wf s.mem = true) :
    Memory.wf (State.applyTbar tb token s gid n).mem = true := by
  unfold State.applyTbar
  repeat' first
    | with_reducible assumption
    | intro _
    | split
    | with_reducible apply State.fenceRel_wf
    | with_reducible apply State.arrive_wf
    | with_reducible rw [State.completeOp_mem]
    | with_reducible rw [State.modGroup_mem]
    | with_reducible rw [State.modTeam_mem]
    | with_reducible rw [State.setTeam_mem]
    | with_reducible rw [State.tbarDecide_mem]
    | with_reducible rw [State.touch_mem]
    | (with_reducible refine foldl_wf _ _ _ ?_ fun s x h => ?_)
    | (with_reducible refine foldl_wf1 _ _ _ ?_ fun s x h => ?_)
    | with_reducible apply wf_tset
    | (dsimp only; with_reducible assumption)
    | (dsimp only; split)
    | dsimp only

theorem State.codeWords_wf (s : State) (a : Agent) (y0 : Nat) (y1 : Word64) (hw : Memory.wf s.mem = true) :
    Memory.wf (State.codeWords s a y0 y1).1.mem = true := by
  induction y0 generalizing s y1 with
  | zero => unfold State.codeWords; exact hw
  | succ n ih =>
    unfold State.codeWords
    repeat' first
      | with_reducible assumption
      | apply ih
      | intro _
      | split
      | with_reducible apply State.readLoc_wf
      | with_reducible rw [State.codeAt_mem]
      | with_reducible rw [State.modGroup_mem]
      | with_reducible rw [State.modTeam_mem]
      | with_reducible rw [State.touch_mem]
      | (with_reducible refine foldl_wf _ _ _ ?_ fun s x h => ?_)
      | (with_reducible refine foldl_wf1 _ _ _ ?_ fun s x h => ?_)
      | with_reducible apply wf_tset
      | (dsimp only; with_reducible assumption)
      | (dsimp only; split)
      | dsimp only

theorem State.landing_wf (s : State) (a : Agent) (t : Word64) (tag : BitVec 8) (hw : Memory.wf s.mem = true) :
    Memory.wf (State.landing s a t tag).1.mem = true := by
  unfold State.landing
  repeat' first
    | with_reducible assumption
    | intro _
    | split
    | with_reducible apply State.codeWords_wf
    | with_reducible rw [State.modGroup_mem]
    | with_reducible rw [State.modTeam_mem]
    | with_reducible rw [State.touch_mem]
    | (with_reducible refine foldl_wf _ _ _ ?_ fun s x h => ?_)
    | (with_reducible refine foldl_wf1 _ _ _ ?_ fun s x h => ?_)
    | with_reducible apply wf_tset
    | (dsimp only; with_reducible assumption)
    | (dsimp only; split)
    | dsimp only

theorem State.resolve_wf (s : State) (gid k : Nat) (g : Group) (tr : Transfer) (hw : Memory.wf s.mem = true) :
    Memory.wf (State.resolve s gid k g tr).mem = true := by
  unfold State.resolve
  repeat' first
    | with_reducible assumption
    | intro _
    | split
    | with_reducible apply State.landing_wf
    | with_reducible rw [State.applyTransfer_mem]
    | with_reducible rw [State.modGroup_mem]
    | with_reducible rw [State.modTeam_mem]
    | with_reducible rw [State.predUpdate_mem]
    | with_reducible rw [State.touch_mem]
    | with_reducible rw [State.trapTransfer_mem]
    | (with_reducible refine foldl_wf _ _ _ ?_ fun s x h => ?_)
    | (with_reducible refine foldl_wf1 _ _ _ ?_ fun s x h => ?_)
    | with_reducible apply wf_tset
    | (dsimp only; with_reducible assumption)
    | (dsimp only; split)
    | dsimp only

theorem State.fetchClause_wf (s : State) (gid k : Nat) (g : Group) (pc : Word64) (hw : Memory.wf s.mem = true) :
    Memory.wf (State.fetchClause s gid k g pc).1.mem = true := by
  unfold State.fetchClause
  repeat' first
    | with_reducible assumption
    | intro _
    | split
    | with_reducible apply State.codeWords_wf
    | with_reducible rw [State.modGroup_mem]
    | with_reducible rw [State.modTeam_mem]
    | with_reducible rw [State.touch_mem]
    | (with_reducible refine foldl_wf _ _ _ ?_ fun s x h => ?_)
    | (with_reducible refine foldl_wf1 _ _ _ ?_ fun s x h => ?_)
    | with_reducible apply wf_tset
    | (dsimp only; with_reducible assumption)
    | (dsimp only; split)
    | dsimp only

theorem State.remain_wf (s : State) (core : Nat) (scope : Scope) (obj : Loc) (hw : Memory.wf s.mem = true) :
    Memory.wf (State.remain s core scope obj).1.mem = true := by
  unfold State.remain
  repeat' first
    | with_reducible assumption
    | intro _
    | split
    | with_reducible apply State.readLoc_wf
    | with_reducible rw [State.modGroup_mem]
    | with_reducible rw [State.modTeam_mem]
    | with_reducible rw [State.touch_mem]
    | (with_reducible refine foldl_wf _ _ _ ?_ fun s x h => ?_)
    | (with_reducible refine foldl_wf1 _ _ _ ?_ fun s x h => ?_)
    | with_reducible apply wf_tset
    | (dsimp only; with_reducible assumption)
    | (dsimp only; split)
    | dsimp only

theorem State.countDown_wf (s : State) (core : Nat) (scope : Scope) (obj : Loc) (c e : Nat) (clock : BitVec 48) (hw : Memory.wf s.mem = true) :
    Memory.wf (State.countDown s core scope obj c e clock).mem = true := by
  unfold State.countDown
  repeat' first
    | with_reducible assumption
    | intro _
    | split
    | with_reducible apply State.readLoc_wf
    | with_reducible apply State.writeLoc_wf
    | with_reducible rw [State.modGroup_mem]
    | with_reducible rw [State.modTeam_mem]
    | with_reducible rw [State.needOwn_mem]
    | with_reducible rw [State.touch_mem]
    | (with_reducible refine foldl_wf _ _ _ ?_ fun s x h => ?_)
    | (with_reducible refine foldl_wf1 _ _ _ ?_ fun s x h => ?_)
    | with_reducible apply wf_tset
    | (dsimp only; with_reducible assumption)
    | (dsimp only; split)
    | dsimp only

theorem State.checkObj_wf (s : State) (a : Agent) (scope : Scope) (va : Word64) (kind : Nat) (hw : Memory.wf s.mem = true) :
    Memory.wf (State.checkObj s a scope va kind).1.mem = true := by
  unfold State.checkObj
  repeat' first
    | with_reducible assumption
    | intro _
    | split
    | with_reducible apply State.groupBytes_wf
    | with_reducible rw [State.lookup_mem]
    | with_reducible rw [State.modGroup_mem]
    | with_reducible rw [State.modTeam_mem]
    | with_reducible rw [State.pieceCheck_mem]
    | with_reducible rw [State.touch_mem]
    | (with_reducible refine foldl_wf _ _ _ ?_ fun s x h => ?_)
    | (with_reducible refine foldl_wf1 _ _ _ ?_ fun s x h => ?_)
    | with_reducible apply wf_tset
    | (dsimp only; with_reducible assumption)
    | (dsimp only; split)
    | dsimp only

theorem State.checkRec_wf (s : State) (a : Agent) (va : Word64) (hw : Memory.wf s.mem = true) :
    Memory.wf (State.checkRec s a va).1.mem = true := by
  unfold State.checkRec
  repeat' first
    | with_reducible assumption
    | intro _
    | split
    | with_reducible apply State.readLoc_wf
    | with_reducible apply State.checkObj_wf
    | with_reducible rw [State.modGroup_mem]
    | with_reducible rw [State.modTeam_mem]
    | with_reducible rw [State.pieceCheck_mem]
    | with_reducible rw [State.touch_mem]
    | (with_reducible refine foldl_wf _ _ _ ?_ fun s x h => ?_)
    | (with_reducible refine foldl_wf1 _ _ _ ?_ fun s x h => ?_)
    | with_reducible apply wf_tset
    | (dsimp only; with_reducible assumption)
    | (dsimp only; split)
    | dsimp only

theorem State.checkRecs_wf (s : State) (a : Agent) (y0 : Nat) (y1 : Word64) (hw : Memory.wf s.mem = true) :
    Memory.wf (State.checkRecs s a y0 y1).1.mem = true := by
  induction y0 generalizing s y1 with
  | zero => unfold State.checkRecs; exact hw
  | succ n ih =>
    unfold State.checkRecs
    repeat' first
      | with_reducible assumption
      | apply ih
      | intro _
      | split
      | with_reducible apply State.checkRec_wf
      | with_reducible rw [State.modGroup_mem]
      | with_reducible rw [State.modTeam_mem]
      | with_reducible rw [State.touch_mem]
      | (with_reducible refine foldl_wf _ _ _ ?_ fun s x h => ?_)
      | (with_reducible refine foldl_wf1 _ _ _ ?_ fun s x h => ?_)
      | with_reducible apply wf_tset
      | (dsimp only; with_reducible assumption)
      | (dsimp only; split)
      | dsimp only

theorem State.recStop_wf (s : State) (e : RecRes) (hw : Memory.wf s.mem = true) :
    Memory.wf (State.recStop s e).mem = true := by
  unfold State.recStop
  repeat' first
    | with_reducible assumption
    | intro _
    | split
    | with_reducible apply State.settleBytes_wf
    | with_reducible rw [State.modGroup_mem]
    | with_reducible rw [State.modTeam_mem]
    | with_reducible rw [State.touch_mem]
    | with_reducible rw [State.trapHere_mem]
    | with_reducible rw [State.wantPieces_mem]
    | (with_reducible refine foldl_wf _ _ _ ?_ fun s x h => ?_)
    | (with_reducible refine foldl_wf1 _ _ _ ?_ fun s x h => ?_)
    | with_reducible apply wf_tset
    | (dsimp only; with_reducible assumption)
    | (dsimp only; split)
    | dsimp only

theorem State.engRead_wf (s : State) (j : CopyJob) (va n : Nat) (hw : Memory.wf s.mem = true) :
    Memory.wf (State.engRead s j va n).1.mem = true := by
  unfold State.engRead
  repeat' first
    | with_reducible assumption
    | intro _
    | split
    | with_reducible apply State.readLoc_wf
    | with_reducible rw [State.engLoc_mem]
    | with_reducible rw [State.modGroup_mem]
    | with_reducible rw [State.modTeam_mem]
    | with_reducible rw [State.touch_mem]
    | (with_reducible refine foldl_wf _ _ _ ?_ fun s x h => ?_)
    | (with_reducible refine foldl_wf1 _ _ _ ?_ fun s x h => ?_)
    | with_reducible apply wf_tset
    | (dsimp only; with_reducible assumption)
    | (dsimp only; split)
    | dsimp only

theorem State.movePiece_wf (s : State) (key : Nat) (j : CopyJob) (hw : Memory.wf s.mem = true) :
    Memory.wf (State.movePiece s key j).1.mem = true := by
  unfold State.movePiece
  repeat' first
    | with_reducible assumption
    | intro _
    | split
    | with_reducible apply State.writeLoc_wf
    | with_reducible apply State.engRead_wf
    | with_reducible rw [State.engLoc_mem]
    | with_reducible rw [State.modGroup_mem]
    | with_reducible rw [State.modTeam_mem]
    | with_reducible rw [State.nodePut_mem]
    | with_reducible rw [State.touch_mem]
    | (with_reducible refine foldl_wf _ _ _ ?_ fun s x h => ?_)
    | (with_reducible refine foldl_wf1 _ _ _ ?_ fun s x h => ?_)
    | with_reducible apply wf_tset
    | (dsimp only; with_reducible assumption)
    | (dsimp only; split)
    | dsimp only

theorem State.countPiece_wf (s : State) (key n e : Nat) (j : CopyJob) (hw : Memory.wf s.mem = true) :
    Memory.wf (State.countPiece s key n e j).mem = true := by
  unfold State.countPiece
  repeat' first
    | with_reducible assumption
    | intro _
    | split
    | with_reducible apply State.countDown_wf
    | with_reducible rw [State.jobDone_mem]
    | with_reducible rw [State.modGroup_mem]
    | with_reducible rw [State.modTeam_mem]
    | with_reducible rw [State.touch_mem]
    | (with_reducible refine foldl_wf _ _ _ ?_ fun s x h => ?_)
    | (with_reducible refine foldl_wf1 _ _ _ ?_ fun s x h => ?_)
    | with_reducible apply wf_tset
    | (dsimp only; with_reducible assumption)
    | (dsimp only; split)
    | dsimp only

theorem State.pieceStep_wf (s : State) (key : Nat) (j : CopyJob) (hw : Memory.wf s.mem = true) :
    Memory.wf (State.pieceStep s key j).mem = true := by
  unfold State.pieceStep
  repeat' first
    | with_reducible assumption
    | intro _
    | split
    | with_reducible apply State.movePiece_wf
    | with_reducible apply State.countPiece_wf
    | with_reducible rw [State.modGroup_mem]
    | with_reducible rw [State.modTeam_mem]
    | with_reducible rw [State.touch_mem]
    | with_reducible rw [State.wantPieces_mem]
    | (with_reducible refine foldl_wf _ _ _ ?_ fun s x h => ?_)
    | (with_reducible refine foldl_wf1 _ _ _ ?_ fun s x h => ?_)
    | with_reducible apply wf_tset
    | (dsimp only; with_reducible assumption)
    | (dsimp only; split)
    | dsimp only

theorem State.withObj_wf (s : State) (g : Group) (q : QFields) (f : State → LaneAcc → State) (h_f : ∀ x0 x1, Memory.wf x0.mem = true → Memory.wf (f x0 x1).mem = true) (hw : Memory.wf s.mem = true) :
    Memory.wf (State.withObj s g q f).mem = true := by
  unfold State.withObj
  repeat' first
    | with_reducible assumption
    | intro _
    | split
    | with_reducible apply h_f
    | with_reducible rw [State.checkLanes_mem]
    | with_reducible rw [State.modGroup_mem]
    | with_reducible rw [State.modTeam_mem]
    | with_reducible rw [State.touch_mem]
    | with_reducible rw [State.trapHere_mem]
    | with_reducible rw [State.wantPieces_mem]
    | (with_reducible refine foldl_wf _ _ _ ?_ fun s x h => ?_)
    | (with_reducible refine foldl_wf1 _ _ _ ?_ fun s x h => ?_)
    | with_reducible apply wf_tset
    | (dsimp only; with_reducible assumption)
    | (dsimp only; split)
    | dsimp only

theorem State.pollObj_wf (s : State) (gid op : Nat) (hw : Memory.wf s.mem = true) :
    Memory.wf (State.pollObj s gid op).mem = true := by
  unfold State.pollObj
  repeat' first
    | with_reducible assumption
    | intro _
    | split
    | with_reducible apply State.completeWait_wf
    | with_reducible apply State.remain_wf
    | with_reducible rw [State.modGroup_mem]
    | with_reducible rw [State.modTeam_mem]
    | with_reducible rw [State.touch_mem]
    | (with_reducible refine foldl_wf _ _ _ ?_ fun s x h => ?_)
    | (with_reducible refine foldl_wf1 _ _ _ ?_ fun s x h => ?_)
    | with_reducible apply wf_tset
    | (dsimp only; with_reducible assumption)
    | (dsimp only; split)
    | dsimp only

theorem State.cellWrite_wf (s : State) (n pa : Nat) (x : Int) (hw : Memory.wf s.mem = true) :
    Memory.wf (State.cellWrite s n pa x).mem = true := by
  unfold State.cellWrite
  repeat' first
    | with_reducible assumption
    | intro _
    | split
    | with_reducible apply State.devPut_wf
    | with_reducible rw [State.modGroup_mem]
    | with_reducible rw [State.modTeam_mem]
    | with_reducible rw [State.touch_mem]
    | (with_reducible refine foldl_wf _ _ _ ?_ fun s x h => ?_)
    | (with_reducible refine foldl_wf1 _ _ _ ?_ fun s x h => ?_)
    | with_reducible apply wf_tset
    | (dsimp only; with_reducible assumption)
    | (dsimp only; split)
    | dsimp only

theorem State.cellAdd_wf (s : State) (ctx : Nat) (f : Field) (i pa : Nat) (x : Int) (hw : Memory.wf s.mem = true) :
    Memory.wf (State.cellAdd s ctx f i pa x).mem = true := by
  unfold State.cellAdd
  repeat' first
    | with_reducible assumption
    | intro _
    | split
    | with_reducible apply State.cellWrite_wf
    | with_reducible rw [State.cellRead_mem]
    | with_reducible rw [State.modDomain_mem]
    | with_reducible rw [State.modGroup_mem]
    | with_reducible rw [State.modTeam_mem]
    | with_reducible rw [State.touch_mem]
    | (with_reducible refine foldl_wf _ _ _ ?_ fun s x h => ?_)
    | (with_reducible refine foldl_wf1 _ _ _ ?_ fun s x h => ?_)
    | with_reducible apply wf_tset
    | (dsimp only; with_reducible assumption)
    | (dsimp only; split)
    | dsimp only

theorem State.applyPair_wf (s : State) (p : Pair) (hw : Memory.wf s.mem = true) :
    Memory.wf (State.applyPair s p).mem = true := by
  unfold State.applyPair
  repeat' first
    | with_reducible assumption
    | intro _
    | split
    | with_reducible apply State.cellAdd_wf
    | with_reducible rw [State.cellRead_mem]
    | with_reducible rw [State.holdReturn_mem]
    | with_reducible rw [State.laneDone_mem]
    | with_reducible rw [State.modGroup_mem]
    | with_reducible rw [State.modTeam_mem]
    | with_reducible rw [State.touch_mem]
    | (with_reducible refine foldl_wf _ _ _ ?_ fun s x h => ?_)
    | (with_reducible refine foldl_wf1 _ _ _ ?_ fun s x h => ?_)
    | with_reducible apply wf_tset
    | (dsimp only; with_reducible assumption)
    | (dsimp only; split)
    | dsimp only

theorem State.runPair_wf (s : State) (key : Nat) (p : Pair) (hw : Memory.wf s.mem = true) :
    Memory.wf (State.runPair s key p).mem = true := by
  unfold State.runPair
  repeat' first
    | with_reducible assumption
    | intro _
    | split
    | with_reducible apply State.applyPair_wf
    | with_reducible rw [State.modGroup_mem]
    | with_reducible rw [State.modTeam_mem]
    | with_reducible rw [State.touch_mem]
    | (with_reducible refine foldl_wf _ _ _ ?_ fun s x h => ?_)
    | (with_reducible refine foldl_wf1 _ _ _ ?_ fun s x h => ?_)
    | with_reducible apply wf_tset
    | (dsimp only; with_reducible assumption)
    | (dsimp only; split)
    | dsimp only

theorem State.runReturn_wf (s : State) (key : Nat) (p : Pair) (hw : Memory.wf s.mem = true) :
    Memory.wf (State.runReturn s key p).mem = true := by
  unfold State.runReturn
  repeat' first
    | with_reducible assumption
    | intro _
    | split
    | with_reducible apply State.cellAdd_wf
    | with_reducible rw [State.modDomain_mem]
    | with_reducible rw [State.modGroup_mem]
    | with_reducible rw [State.modTeam_mem]
    | with_reducible rw [State.touch_mem]
    | (with_reducible refine foldl_wf _ _ _ ?_ fun s x h => ?_)
    | (with_reducible refine foldl_wf1 _ _ _ ?_ fun s x h => ?_)
    | with_reducible apply wf_tset
    | (dsimp only; with_reducible assumption)
    | (dsimp only; split)
    | dsimp only

theorem State.opNow_wf (s : State) (mer : Bool) (kind : OpKind) (apply : State → Nat → Nat → State) (h_apply : ∀ x0 x1 x2, Memory.wf x0.mem = true → Memory.wf (apply x0 x1 x2).mem = true) (hw : Memory.wf s.mem = true) :
    Memory.wf (State.opNow s mer kind apply).mem = true := by
  unfold State.opNow
  repeat' first
    | with_reducible assumption
    | intro _
    | split
    | with_reducible apply h_apply
    | with_reducible rw [State.addOpMer_mem]
    | with_reducible rw [State.modGroup_mem]
    | with_reducible rw [State.modTeam_mem]
    | with_reducible rw [State.touch_mem]
    | (with_reducible refine foldl_wf _ _ _ ?_ fun s x h => ?_)
    | (with_reducible refine foldl_wf1 _ _ _ ?_ fun s x h => ?_)
    | with_reducible apply wf_tset
    | (dsimp only; with_reducible assumption)
    | (dsimp only; split)
    | dsimp only

theorem State.declare_wf (s : State) (ctx : Nat) (handle : Word64) (j : Nat) (sink : Bool) (cell : Option Nat) (hw : Memory.wf s.mem = true) :
    Memory.wf (State.declare s ctx handle j sink cell).1.mem = true := by
  unfold State.declare
  repeat' first
    | with_reducible assumption
    | intro _
    | split
    | with_reducible apply State.devPut_wf
    | with_reducible rw [State.modGroup_mem]
    | with_reducible rw [State.modTeam_mem]
    | with_reducible rw [State.touch_mem]
    | (with_reducible refine foldl_wf _ _ _ ?_ fun s x h => ?_)
    | (with_reducible refine foldl_wf1 _ _ _ ?_ fun s x h => ?_)
    | with_reducible apply wf_tset
    | (dsimp only; with_reducible assumption)
    | (dsimp only; split)
    | dsimp only

theorem State.applyFbnd_wf (handle : Word64) (sb j : Nat) (sink : Bool) (cell : Option Nat) (s : State) (gid n : Nat) (hw : Memory.wf s.mem = true) :
    Memory.wf (State.applyFbnd handle sb j sink cell s gid n).mem = true := by
  unfold State.applyFbnd
  repeat' first
    | with_reducible assumption
    | intro _
    | split
    | with_reducible apply State.declare_wf
    | with_reducible rw [State.answer_mem]
    | with_reducible rw [State.modGroup_mem]
    | with_reducible rw [State.modTeam_mem]
    | with_reducible rw [State.touch_mem]
    | (with_reducible refine foldl_wf _ _ _ ?_ fun s x h => ?_)
    | (with_reducible refine foldl_wf1 _ _ _ ?_ fun s x h => ?_)
    | with_reducible apply wf_tset
    | (dsimp only; with_reducible assumption)
    | (dsimp only; split)
    | dsimp only

theorem State.fbndNow_wf (handle : Word64) (sb j : Nat) (sink : Bool) (s : State) (gid n : Nat) (hw : Memory.wf s.mem = true) :
    Memory.wf (State.fbndNow handle sb j sink s gid n).mem = true := by
  unfold State.fbndNow
  repeat' first
    | with_reducible assumption
    | intro _
    | split
    | with_reducible apply State.applyFbnd_wf
    | with_reducible rw [State.fbndCell_mem]
    | with_reducible rw [State.modGroup_mem]
    | with_reducible rw [State.modTeam_mem]
    | with_reducible rw [State.touch_mem]
    | (with_reducible refine foldl_wf _ _ _ ?_ fun s x h => ?_)
    | (with_reducible refine foldl_wf1 _ _ _ ?_ fun s x h => ?_)
    | with_reducible apply wf_tset
    | (dsimp only; with_reducible assumption)
    | (dsimp only; split)
    | dsimp only

theorem State.endFfence_wf (s : State) (gid k n : Nat) (scope : Scope) (hw : Memory.wf s.mem = true) :
    Memory.wf (State.endFfence s gid k n scope).mem = true := by
  unfold State.endFfence
  repeat' first
    | with_reducible assumption
    | intro _
    | split
    | with_reducible apply State.fenceDo_wf
    | with_reducible rw [State.advance_mem]
    | with_reducible rw [State.completeOp_mem]
    | with_reducible rw [State.modGroup_mem]
    | with_reducible rw [State.modTeam_mem]
    | with_reducible rw [State.raiseRefusal_mem]
    | with_reducible rw [State.touch_mem]
    | (with_reducible refine foldl_wf _ _ _ ?_ fun s x h => ?_)
    | (with_reducible refine foldl_wf1 _ _ _ ?_ fun s x h => ?_)
    | with_reducible apply wf_tset
    | (dsimp only; with_reducible assumption)
    | (dsimp only; split)
    | dsimp only

theorem State.append_wf (s : State) (n : Nat) (entry : List Byte) (clock : Option (BitVec 48)) (hw : Memory.wf s.mem = true) :
    Memory.wf (State.append s n entry clock).mem = true := by
  unfold State.append
  repeat' first
    | with_reducible assumption
    | intro _
    | split
    | with_reducible apply State.devPut_wf
    | with_reducible rw [State.modGroup_mem]
    | with_reducible rw [State.modTeam_mem]
    | with_reducible rw [State.setQueue_mem]
    | with_reducible rw [State.touch_mem]
    | (with_reducible refine foldl_wf _ _ _ ?_ fun s x h => ?_)
    | (with_reducible refine foldl_wf1 _ _ _ ?_ fun s x h => ?_)
    | with_reducible apply wf_tset
    | (dsimp only; with_reducible assumption)
    | (dsimp only; split)
    | dsimp only

theorem State.admitRoom_wf (s : State) (queue : Nat) (hw : Memory.wf s.mem = true) :
    Memory.wf (State.admitRoom s queue).mem = true := by
  unfold State.admitRoom
  repeat' first
    | with_reducible assumption
    | intro _
    | split
    | with_reducible apply State.append_wf
    | with_reducible rw [State.modGroup_mem]
    | with_reducible rw [State.modQueue_mem]
    | with_reducible rw [State.modTeam_mem]
    | with_reducible rw [State.queueDone_mem]
    | with_reducible rw [State.setOp_mem]
    | with_reducible rw [State.setQueue_mem]
    | with_reducible rw [State.touch_mem]
    | (with_reducible refine foldl_wf _ _ _ ?_ fun s x h => ?_)
    | (with_reducible refine foldl_wf1 _ _ _ ?_ fun s x h => ?_)
    | with_reducible apply wf_tset
    | (dsimp only; with_reducible assumption)
    | (dsimp only; split)
    | dsimp only

theorem State.admitRooms_wf (s : State) (queue : Nat) (hw : Memory.wf s.mem = true) :
    Memory.wf (State.admitRooms s queue).mem = true := by
  unfold State.admitRooms
  repeat' first
    | with_reducible assumption
    | intro _
    | split
    | with_reducible apply State.admitRoom_wf
    | with_reducible rw [State.modGroup_mem]
    | with_reducible rw [State.modTeam_mem]
    | with_reducible rw [State.touch_mem]
    | (with_reducible refine foldl_wf _ _ _ ?_ fun s x h => ?_)
    | (with_reducible refine foldl_wf1 _ _ _ ?_ fun s x h => ?_)
    | with_reducible apply wf_tset
    | (dsimp only; with_reducible assumption)
    | (dsimp only; split)
    | dsimp only

theorem State.appendOrWait_wf (s : State) (gid n queue : Nat) (sb : Option Nat) (nowait : Bool) (clock : BitVec 48) (y0 : List (List Byte)) (hw : Memory.wf s.mem = true) :
    Memory.wf (State.appendOrWait s gid n queue sb nowait clock y0).mem = true := by
  induction y0 generalizing s with
  | nil => unfold State.appendOrWait; rw [State.modGroup_mem]; exact hw
  | cons x l ih =>
    unfold State.appendOrWait
    repeat' first
      | with_reducible assumption
      | apply ih
      | intro _
      | split
      | with_reducible apply State.append_wf
      | with_reducible rw [State.completeOp_mem]
      | with_reducible rw [State.modGroup_mem]
      | with_reducible rw [State.modQueue_mem]
      | with_reducible rw [State.modTeam_mem]
      | with_reducible rw [State.queueDone_mem]
      | with_reducible rw [State.setOp_mem]
      | with_reducible rw [State.touch_mem]
      | (with_reducible refine foldl_wf _ _ _ ?_ fun s x h => ?_)
      | (with_reducible refine foldl_wf1 _ _ _ ?_ fun s x h => ?_)
      | with_reducible apply wf_tset
      | (dsimp only; with_reducible assumption)
      | (dsimp only; split)
      | dsimp only

theorem State.applyEnq_wf (queue sb : Nat) (nowait : Bool) (src : Loc) (s : State) (gid n : Nat) (hw : Memory.wf s.mem = true) :
    Memory.wf (State.applyEnq queue sb nowait src s gid n).mem = true := by
  unfold State.applyEnq
  repeat' first
    | with_reducible assumption
    | intro _
    | split
    | with_reducible apply State.fenceRel_wf
    | with_reducible apply State.groupBytes_wf
    | with_reducible apply State.admitRooms_wf
    | with_reducible apply State.appendOrWait_wf
    | with_reducible rw [State.modGroup_mem]
    | with_reducible rw [State.modTeam_mem]
    | with_reducible rw [State.queueDone_mem]
    | with_reducible rw [State.touch_mem]
    | (with_reducible refine foldl_wf _ _ _ ?_ fun s x h => ?_)
    | (with_reducible refine foldl_wf1 _ _ _ ?_ fun s x h => ?_)
    | with_reducible apply wf_tset
    | (dsimp only; with_reducible assumption)
    | (dsimp only; split)
    | dsimp only

theorem State.giveEntry_wf (s : State) (gid n sb : Nat) (dst : LaneAcc) (serial : BitVec 48) (bytes : List Byte) (clock : BitVec 48) (hw : Memory.wf s.mem = true) :
    Memory.wf (State.giveEntry s gid n sb dst serial bytes clock).mem = true := by
  unfold State.giveEntry
  repeat' first
    | with_reducible assumption
    | intro _
    | split
    | with_reducible apply State.writeLoc_wf
    | with_reducible apply State.fenceAcq_wf
    | with_reducible rw [State.modGroup_mem]
    | with_reducible rw [State.modTeam_mem]
    | with_reducible rw [State.queueDone_mem]
    | with_reducible rw [State.touch_mem]
    | (with_reducible refine foldl_wf _ _ _ ?_ fun s x h => ?_)
    | (with_reducible refine foldl_wf1 _ _ _ ?_ fun s x h => ?_)
    | with_reducible apply wf_tset
    | (dsimp only; with_reducible assumption)
    | (dsimp only; split)
    | dsimp only

theorem State.deliver_wf (s : State) (gid n queue sb : Nat) (dst : LaneAcc) (wait : Bool) (hw : Memory.wf s.mem = true) :
    Memory.wf (State.deliver s gid n queue sb dst wait).mem = true := by
  unfold State.deliver
  repeat' first
    | with_reducible assumption
    | intro _
    | split
    | with_reducible apply State.giveEntry_wf
    | with_reducible rw [State.modGroup_mem]
    | with_reducible rw [State.modTeam_mem]
    | with_reducible rw [State.takeEntry_mem]
    | with_reducible rw [State.touch_mem]
    | (with_reducible refine foldl_wf _ _ _ ?_ fun s x h => ?_)
    | (with_reducible refine foldl_wf1 _ _ _ ?_ fun s x h => ?_)
    | with_reducible apply wf_tset
    | (dsimp only; with_reducible assumption)
    | (dsimp only; split)
    | dsimp only

theorem State.applyDeq_wf (queue sb : Nat) (nowait : Bool) (dst : LaneAcc) (s : State) (gid n : Nat) (hw : Memory.wf s.mem = true) :
    Memory.wf (State.applyDeq queue sb nowait dst s gid n).mem = true := by
  unfold State.applyDeq
  repeat' first
    | with_reducible assumption
    | intro _
    | split
    | with_reducible apply State.admitRooms_wf
    | with_reducible apply State.deliver_wf
    | with_reducible rw [State.feed_mem]
    | with_reducible rw [State.modGroup_mem]
    | with_reducible rw [State.modQueue_mem]
    | with_reducible rw [State.modTeam_mem]
    | with_reducible rw [State.queueDone_mem]
    | with_reducible rw [State.setOp_mem]
    | with_reducible rw [State.touch_mem]
    | (with_reducible refine foldl_wf _ _ _ ?_ fun s x h => ?_)
    | (with_reducible refine foldl_wf1 _ _ _ ?_ fun s x h => ?_)
    | with_reducible apply wf_tset
    | (dsimp only; with_reducible assumption)
    | (dsimp only; split)
    | dsimp only

theorem State.applyLaunch_wf (queue sb : Nat) (nowait : Bool) (recAt : Word64) (s : State) (gid n : Nat) (hw : Memory.wf s.mem = true) :
    Memory.wf (State.applyLaunch queue sb nowait recAt s gid n).mem = true := by
  unfold State.applyLaunch
  repeat' first
    | with_reducible assumption
    | intro _
    | split
    | with_reducible apply State.fenceRel_wf
    | with_reducible apply State.admitRooms_wf
    | with_reducible apply State.appendOrWait_wf
    | with_reducible rw [State.modGroup_mem]
    | with_reducible rw [State.modTeam_mem]
    | with_reducible rw [State.queueDone_mem]
    | with_reducible rw [State.touch_mem]
    | (with_reducible refine foldl_wf _ _ _ ?_ fun s x h => ?_)
    | (with_reducible refine foldl_wf1 _ _ _ ?_ fun s x h => ?_)
    | with_reducible apply wf_tset
    | (dsimp only; with_reducible assumption)
    | (dsimp only; split)
    | dsimp only

theorem State.applyLaunchLanes_wf (queue : Nat) (recAt : Word64) (args : List Word64) (s : State) (gid n : Nat) (hw : Memory.wf s.mem = true) :
    Memory.wf (State.applyLaunchLanes queue recAt args s gid n).mem = true := by
  unfold State.applyLaunchLanes
  repeat' first
    | with_reducible assumption
    | intro _
    | split
    | with_reducible apply State.fenceRel_wf
    | with_reducible apply State.admitRooms_wf
    | with_reducible apply State.appendOrWait_wf
    | with_reducible rw [State.completeOp_mem]
    | with_reducible rw [State.laneZero_mem]
    | with_reducible rw [State.modGroup_mem]
    | with_reducible rw [State.modTeam_mem]
    | with_reducible rw [State.touch_mem]
    | (with_reducible refine foldl_wf _ _ _ ?_ fun s x h => ?_)
    | (with_reducible refine foldl_wf1 _ _ _ ?_ fun s x h => ?_)
    | with_reducible apply wf_tset
    | (dsimp only; with_reducible assumption)
    | (dsimp only; split)
    | dsimp only

theorem State.withRecord_wf (s : State) (g : Group) (va : Word64) (f : State → State) (h_f : ∀ x0, Memory.wf x0.mem = true → Memory.wf (f x0).mem = true) (hw : Memory.wf s.mem = true) :
    Memory.wf (State.withRecord s g va f).mem = true := by
  unfold State.withRecord
  repeat' first
    | with_reducible assumption
    | intro _
    | split
    | with_reducible apply h_f
    | with_reducible rw [State.checkLanes_mem]
    | with_reducible rw [State.modGroup_mem]
    | with_reducible rw [State.modTeam_mem]
    | with_reducible rw [State.touch_mem]
    | with_reducible rw [State.trapHere_mem]
    | with_reducible rw [State.wantPieces_mem]
    | (with_reducible refine foldl_wf _ _ _ ?_ fun s x h => ?_)
    | (with_reducible refine foldl_wf1 _ _ _ ?_ fun s x h => ?_)
    | with_reducible apply wf_tset
    | (dsimp only; with_reducible assumption)
    | (dsimp only; split)
    | dsimp only

theorem State.disableQueue_wf (s : State) (n : Nat) (hw : Memory.wf s.mem = true) :
    Memory.wf (State.disableQueue s n).mem = true := by
  unfold State.disableQueue
  repeat' first
    | with_reducible assumption
    | intro _
    | split
    | with_reducible apply State.admitRooms_wf
    | with_reducible rw [State.failWaiter_mem]
    | with_reducible rw [State.feed_mem]
    | with_reducible rw [State.modGroup_mem]
    | with_reducible rw [State.modTeam_mem]
    | with_reducible rw [State.setQueue_mem]
    | with_reducible rw [State.touch_mem]
    | (with_reducible refine foldl_wf _ _ _ ?_ fun s x h => ?_)
    | (with_reducible refine foldl_wf1 _ _ _ ?_ fun s x h => ?_)
    | with_reducible apply wf_tset
    | (dsimp only; with_reducible assumption)
    | (dsimp only; split)
    | dsimp only

theorem State.guardedStream_wf (s : State) (i : Instr) (f : Team → Inst → State) (h_f : ∀ x0 x1, Memory.wf s.mem = true → Memory.wf (f x0 x1).mem = true) (hw : Memory.wf s.mem = true) :
    Memory.wf (State.guardedStream s i f).mem = true := by
  unfold State.guardedStream
  repeat' first
    | with_reducible assumption
    | intro _
    | split
    | with_reducible apply h_f
    | with_reducible rw [State.modGroup_mem]
    | with_reducible rw [State.modTeam_mem]
    | with_reducible rw [State.streamTrap_mem]
    | with_reducible rw [State.touch_mem]
    | (with_reducible refine foldl_wf _ _ _ ?_ fun s x h => ?_)
    | (with_reducible refine foldl_wf1 _ _ _ ?_ fun s x h => ?_)
    | with_reducible apply wf_tset
    | (dsimp only; with_reducible assumption)
    | (dsimp only; split)
    | dsimp only

theorem streamBar_wf (i : Instr) (x : MXFields) (f : State → Inst → Nat → Nat → State) (s : State) (h_f : ∀ x0 x1 x2 x3, Memory.wf x0.mem = true → Memory.wf (f x0 x1 x2 x3).mem = true) (hw : Memory.wf s.mem = true) :
    Memory.wf (streamBar i x f s).mem = true := by
  unfold streamBar
  repeat' first
    | with_reducible assumption
    | intro _
    | split
    | with_reducible apply h_f
    | with_reducible apply State.barSettle_wf
    | with_reducible apply State.guardedStream_wf
    | with_reducible rw [State.modGroup_mem]
    | with_reducible rw [State.modTeam_mem]
    | with_reducible rw [State.streamTrap_mem]
    | with_reducible rw [State.touch_mem]
    | (with_reducible refine foldl_wf _ _ _ ?_ fun s x h => ?_)
    | (with_reducible refine foldl_wf1 _ _ _ ?_ fun s x h => ?_)
    | with_reducible apply wf_tset
    | (dsimp only; with_reducible assumption)
    | (dsimp only; split)
    | dsimp only

theorem State.withRegion_wf (s : State) (t : Team) (n : Inst) (off bytes : Nat) (write : Bool) (f : State → Nat → Nat → State) (h_f : ∀ x0 x1 x2, Memory.wf x0.mem = true → Memory.wf (f x0 x1 x2).mem = true) (hw : Memory.wf s.mem = true) :
    Memory.wf (State.withRegion s t n off bytes write f).mem = true := by
  unfold State.withRegion
  repeat' first
    | with_reducible assumption
    | intro _
    | split
    | with_reducible apply h_f
    | with_reducible rw [State.modGroup_mem]
    | with_reducible rw [State.modTeam_mem]
    | with_reducible rw [State.region_mem]
    | with_reducible rw [State.streamTrap_mem]
    | with_reducible rw [State.touch_mem]
    | (with_reducible refine foldl_wf _ _ _ ?_ fun s x h => ?_)
    | (with_reducible refine foldl_wf1 _ _ _ ?_ fun s x h => ?_)
    | with_reducible apply wf_tset
    | (dsimp only; with_reducible assumption)
    | (dsimp only; split)
    | dsimp only

theorem State.homePut_wf (s : State) (y0 : List Byte) (y1 : Nat) (hw : Memory.wf s.mem = true) :
    Memory.wf (State.homePut s y0 y1).mem = true := by
  induction y0 generalizing s y1 with
  | nil => unfold State.homePut; exact hw
  | cons x l ih =>
    unfold State.homePut
    repeat' first
      | with_reducible assumption
      | apply ih
      | intro _
      | split
      | with_reducible apply State.wr_wf
      | with_reducible apply State.l2None_wf
      | with_reducible rw [State.modGroup_mem]
      | with_reducible rw [State.modTeam_mem]
      | with_reducible rw [State.touch_mem]
      | (with_reducible refine foldl_wf _ _ _ ?_ fun s x h => ?_)
      | (with_reducible refine foldl_wf1 _ _ _ ?_ fun s x h => ?_)
      | with_reducible apply wf_tset
      | (dsimp only; with_reducible assumption)
      | (dsimp only; split)
      | dsimp only

theorem State.event_wf (s : State) (typ unit index old new : Nat) (where_ detail : Word64) (hw : Memory.wf s.mem = true) :
    Memory.wf (State.event s typ unit index old new where_ detail).mem = true := by
  unfold State.event
  repeat' first
    | with_reducible assumption
    | intro _
    | split
    | with_reducible apply State.homePut_wf
    | with_reducible rw [State.modGroup_mem]
    | with_reducible rw [State.modTeam_mem]
    | with_reducible rw [State.signal_mem]
    | with_reducible rw [State.touch_mem]
    | (with_reducible refine foldl_wf _ _ _ ?_ fun s x h => ?_)
    | (with_reducible refine foldl_wf1 _ _ _ ?_ fun s x h => ?_)
    | with_reducible apply wf_tset
    | (dsimp only; with_reducible assumption)
    | (dsimp only; split)
    | dsimp only

theorem State.applyInvlp_wf (page : Option Word64) (cst : Bool) (s : State) (gid n : Nat) (hw : Memory.wf s.mem = true) :
    Memory.wf (State.applyInvlp page cst s gid n).mem = true := by
  unfold State.applyInvlp
  repeat' first
    | with_reducible assumption
    | intro _
    | split
    | with_reducible apply State.fenceRel_wf
    | with_reducible rw [State.completeOp_mem]
    | with_reducible rw [State.invalidate_mem]
    | with_reducible rw [State.modGroup_mem]
    | with_reducible rw [State.modTeam_mem]
    | with_reducible rw [State.setOp_mem]
    | with_reducible rw [State.touch_mem]
    | (with_reducible refine foldl_wf _ _ _ ?_ fun s x h => ?_)
    | (with_reducible refine foldl_wf1 _ _ _ ?_ fun s x h => ?_)
    | with_reducible apply wf_tset
    | (dsimp only; with_reducible assumption)
    | (dsimp only; split)
    | dsimp only

theorem invlpMould_wf (i : Instr) (q : QFields) (page : Group → Option Word64) (s : State) (hw : Memory.wf s.mem = true) :
    Memory.wf (invlpMould i q page s).mem = true := by
  unfold invlpMould
  repeat' first
    | with_reducible assumption
    | intro _
    | split
    | with_reducible apply State.guarded_wf
    | with_reducible apply State.afterNow_wf
    | with_reducible apply State.applyInvlp_wf
    | with_reducible rw [State.advance_mem]
    | with_reducible rw [State.modGroup_mem]
    | with_reducible rw [State.modTeam_mem]
    | with_reducible rw [State.touch_mem]
    | (with_reducible refine foldl_wf _ _ _ ?_ fun s x h => ?_)
    | (with_reducible refine foldl_wf1 _ _ _ ?_ fun s x h => ?_)
    | with_reducible apply wf_tset
    | (dsimp only; with_reducible assumption)
    | (dsimp only; split)
    | dsimp only

theorem State.takeFrame_wf (s : State) (die : Nat) (p : Pool) (hw : Memory.wf s.mem = true) :
    Memory.wf (State.takeFrame s die p).1.mem = true := by
  unfold State.takeFrame
  repeat' first
    | with_reducible assumption
    | intro _
    | split
    | with_reducible apply State.devPut_wf
    | with_reducible rw [State.devBytes_mem]
    | with_reducible rw [State.modGroup_mem]
    | with_reducible rw [State.modTeam_mem]
    | with_reducible rw [State.touch_mem]
    | (with_reducible refine foldl_wf _ _ _ ?_ fun s x h => ?_)
    | (with_reducible refine foldl_wf1 _ _ _ ?_ fun s x h => ?_)
    | with_reducible apply wf_tset
    | (dsimp only; with_reducible assumption)
    | (dsimp only; split)
    | dsimp only

theorem State.mapFirst_wf (s : State) (die c : Nat) (va : Word64) (perm : BitVec 12) (hw : Memory.wf s.mem = true) :
    Memory.wf (State.mapFirst s die c va perm).1.mem = true := by
  unfold State.mapFirst
  repeat' first
    | with_reducible assumption
    | intro _
    | split
    | with_reducible apply State.devPut_wf
    | with_reducible apply State.takeFrame_wf
    | with_reducible rw [State.mapTarget_mem]
    | with_reducible rw [State.modGroup_mem]
    | with_reducible rw [State.modTeam_mem]
    | with_reducible rw [State.touch_mem]
    | (with_reducible refine foldl_wf _ _ _ ?_ fun s x h => ?_)
    | (with_reducible refine foldl_wf1 _ _ _ ?_ fun s x h => ?_)
    | with_reducible apply wf_tset
    | (dsimp only; with_reducible assumption)
    | (dsimp only; split)
    | dsimp only

theorem State.mapReplica_wf (s : State) (die c : Nat) (va : Word64) (hw : Memory.wf s.mem = true) :
    Memory.wf (State.mapReplica s die c va).1.mem = true := by
  unfold State.mapReplica
  repeat' first
    | with_reducible assumption
    | intro _
    | split
    | with_reducible apply State.devPut_wf
    | with_reducible apply State.takeFrame_wf
    | with_reducible rw [State.devBytes_mem]
    | with_reducible rw [State.directory_mem]
    | with_reducible rw [State.mapTarget_mem]
    | with_reducible rw [State.modGroup_mem]
    | with_reducible rw [State.modTeam_mem]
    | with_reducible rw [State.touch_mem]
    | (with_reducible refine foldl_wf _ _ _ ?_ fun s x h => ?_)
    | (with_reducible refine foldl_wf1 _ _ _ ?_ fun s x h => ?_)
    | with_reducible apply wf_tset
    | (dsimp only; with_reducible assumption)
    | (dsimp only; split)
    | dsimp only

theorem mapNow_wf (i : Instr) (q : QFields) (f : State → Nat → Nat → Word64 → State × Nat) (s : State) (h_f : ∀ x0 x1 x2 x3, Memory.wf x0.mem = true → Memory.wf (f x0 x1 x2 x3).1.mem = true) (hw : Memory.wf s.mem = true) :
    Memory.wf (mapNow i q f s).mem = true := by
  unfold mapNow
  repeat' first
    | with_reducible assumption
    | intro _
    | split
    | with_reducible apply h_f
    | with_reducible apply State.guarded_wf
    | with_reducible rw [State.advance_mem]
    | with_reducible rw [State.modGroup_mem]
    | with_reducible rw [State.modTeam_mem]
    | with_reducible rw [State.touch_mem]
    | (with_reducible refine foldl_wf _ _ _ ?_ fun s x h => ?_)
    | (with_reducible refine foldl_wf1 _ _ _ ?_ fun s x h => ?_)
    | with_reducible apply wf_tset
    | (dsimp only; with_reducible assumption)
    | (dsimp only; split)
    | dsimp only

theorem State.collapseIn_wf (s : State) (c h : Nat) (hw : Memory.wf s.mem = true) :
    Memory.wf (State.collapseIn s c h).mem = true := by
  unfold State.collapseIn
  repeat' first
    | with_reducible assumption
    | intro _
    | split
    | with_reducible apply State.devPut_wf
    | with_reducible rw [State.directory_mem]
    | with_reducible rw [State.modGroup_mem]
    | with_reducible rw [State.modTeam_mem]
    | with_reducible rw [State.pool_mem]
    | with_reducible rw [State.replicas_mem]
    | with_reducible rw [State.touch_mem]
    | (with_reducible refine foldl_wf _ _ _ ?_ fun s x h => ?_)
    | (with_reducible refine foldl_wf1 _ _ _ ?_ fun s x h => ?_)
    | with_reducible apply wf_tset
    | (dsimp only; with_reducible assumption)
    | (dsimp only; split)
    | dsimp only

theorem State.collapse_wf (s : State) (h : Nat) (hw : Memory.wf s.mem = true) :
    Memory.wf (State.collapse s h).mem = true := by
  unfold State.collapse
  repeat' first
    | with_reducible assumption
    | intro _
    | split
    | with_reducible apply State.collapseIn_wf
    | with_reducible rw [State.modGroup_mem]
    | with_reducible rw [State.modTeam_mem]
    | with_reducible rw [State.touch_mem]
    | (with_reducible refine foldl_wf _ _ _ ?_ fun s x h => ?_)
    | (with_reducible refine foldl_wf1 _ _ _ ?_ fun s x h => ?_)
    | with_reducible apply wf_tset
    | (dsimp only; with_reducible assumption)
    | (dsimp only; split)
    | dsimp only

theorem State.applyCol_wf (va : Word64) (sb home : Nat) (s : State) (gid n : Nat) (hw : Memory.wf s.mem = true) :
    Memory.wf (State.applyCol va sb home s gid n).mem = true := by
  unfold State.applyCol
  repeat' first
    | with_reducible assumption
    | intro _
    | split
    | with_reducible apply State.collapse_wf
    | with_reducible rw [State.modGroup_mem]
    | with_reducible rw [State.modTeam_mem]
    | with_reducible rw [State.setOp_mem]
    | with_reducible rw [State.touch_mem]
    | (with_reducible refine foldl_wf _ _ _ ?_ fun s x h => ?_)
    | (with_reducible refine foldl_wf1 _ _ _ ?_ fun s x h => ?_)
    | with_reducible apply wf_tset
    | (dsimp only; with_reducible assumption)
    | (dsimp only; split)
    | dsimp only

theorem State.endCol_wf (va : Word64) (sb home bound : Nat) (s : State) (gid n : Nat) (hw : Memory.wf s.mem = true) :
    Memory.wf (State.endCol va sb home bound s gid n).mem = true := by
  unfold State.endCol
  repeat' first
    | with_reducible assumption
    | intro _
    | split
    | with_reducible apply State.devPut_wf
    | with_reducible rw [State.answer_mem]
    | with_reducible rw [State.modGroup_mem]
    | with_reducible rw [State.modTeam_mem]
    | with_reducible rw [State.pathFrom_mem]
    | with_reducible rw [State.touch_mem]
    | (with_reducible refine foldl_wf _ _ _ ?_ fun s x h => ?_)
    | (with_reducible refine foldl_wf1 _ _ _ ?_ fun s x h => ?_)
    | with_reducible apply wf_tset
    | (dsimp only; with_reducible assumption)
    | (dsimp only; split)
    | dsimp only

theorem State.post_wf (s : State) (gid sb : Nat) (word : BitVec 16) (mine : Bool) (at_ start : Nat) (hw : Memory.wf s.mem = true) :
    Memory.wf (State.post s gid sb word mine at_ start).mem = true := by
  unfold State.post
  repeat' first
    | with_reducible assumption
    | intro _
    | split
    | with_reducible apply State.fenceRel_wf
    | with_reducible apply State.homePut_wf
    | with_reducible rw [State.modGroup_mem]
    | with_reducible rw [State.modTeam_mem]
    | with_reducible rw [State.setCtx_mem]
    | with_reducible rw [State.signal_mem]
    | with_reducible rw [State.touch_mem]
    | (with_reducible refine foldl_wf _ _ _ ?_ fun s x h => ?_)
    | (with_reducible refine foldl_wf1 _ _ _ ?_ fun s x h => ?_)
    | with_reducible apply wf_tset
    | (dsimp only; with_reducible assumption)
    | (dsimp only; split)
    | dsimp only

theorem State.releaseAll_wf (s : State) (core : Nat) (hw : Memory.wf s.mem = true) :
    Memory.wf (State.releaseAll s core).1.mem = true := by
  unfold State.releaseAll
  repeat' first
    | with_reducible assumption
    | intro _
    | split
    | with_reducible apply State.fenceRel_wf
    | with_reducible rw [State.modGroup_mem]
    | with_reducible rw [State.modTeam_mem]
    | with_reducible rw [State.touch_mem]
    | (with_reducible refine foldl_wf _ _ _ ?_ fun s x h => ?_)
    | (with_reducible refine foldl_wf1 _ _ _ ?_ fun s x h => ?_)
    | with_reducible apply wf_tset
    | (dsimp only; with_reducible assumption)
    | (dsimp only; split)
    | dsimp only

theorem State.vwrite_wf (s : State) (c : Nat) (b : List Byte) (va : Word64) (hw : Memory.wf s.mem = true) :
    Memory.wf (State.vwrite s c b va).1.mem = true := by
  unfold State.vwrite
  repeat' first
    | with_reducible assumption
    | intro _
    | split
    | with_reducible apply State.devWrite_wf
    | with_reducible rw [State.modGroup_mem]
    | with_reducible rw [State.modTeam_mem]
    | with_reducible rw [State.touch_mem]
    | with_reducible rw [State.vplaces_mem]
    | (with_reducible refine foldl_wf _ _ _ ?_ fun s x h => ?_)
    | (with_reducible refine foldl_wf1 _ _ _ ?_ fun s x h => ?_)
    | with_reducible apply wf_tset
    | (dsimp only; with_reducible assumption)
    | (dsimp only; split)
    | dsimp only

theorem State.bitmapWrite_wf (s : State) (c : Nat) (b : List Byte) (va grid : Word64) (hw : Memory.wf s.mem = true) :
    Memory.wf (State.bitmapWrite s c b va grid).mem = true := by
  unfold State.bitmapWrite
  repeat' first
    | with_reducible assumption
    | intro _
    | split
    | with_reducible apply State.event_wf
    | with_reducible apply State.vwrite_wf
    | with_reducible rw [State.modGroup_mem]
    | with_reducible rw [State.modTeam_mem]
    | with_reducible rw [State.touch_mem]
    | (with_reducible refine foldl_wf _ _ _ ?_ fun s x h => ?_)
    | (with_reducible refine foldl_wf1 _ _ _ ?_ fun s x h => ?_)
    | with_reducible apply wf_tset
    | (dsimp only; with_reducible assumption)
    | (dsimp only; split)
    | dsimp only

theorem State.reject_wf (s : State) (queue : Nat) (grid recAt : Word64) (reason off : Nat) (l : Option LaunchRec) (hw : Memory.wf s.mem = true) :
    Memory.wf (State.reject s queue grid recAt reason off l).mem = true := by
  unfold State.reject
  repeat' first
    | with_reducible assumption
    | intro _
    | split
    | with_reducible apply State.homePut_wf
    | with_reducible apply State.bitmapWrite_wf
    | with_reducible rw [State.modGroup_mem]
    | with_reducible rw [State.modTeam_mem]
    | with_reducible rw [State.setQueue_mem]
    | with_reducible rw [State.signal_mem]
    | with_reducible rw [State.touch_mem]
    | (with_reducible refine foldl_wf _ _ _ ?_ fun s x h => ?_)
    | (with_reducible refine foldl_wf1 _ _ _ ?_ fun s x h => ?_)
    | with_reducible apply wf_tset
    | (dsimp only; with_reducible assumption)
    | (dsimp only; split)
    | dsimp only

theorem State.passStage2_wf (s : State) (key : Nat) (g : Grid) (hw : Memory.wf s.mem = true) :
    Memory.wf (State.passStage2 s key g).mem = true := by
  unfold State.passStage2
  repeat' first
    | with_reducible assumption
    | intro _
    | split
    | with_reducible apply State.bitmapWrite_wf
    | with_reducible rw [State.advance_mem]
    | with_reducible rw [State.modGroup_mem]
    | with_reducible rw [State.modTeam_mem]
    | with_reducible rw [State.setQueue_mem]
    | with_reducible rw [State.touch_mem]
    | (with_reducible refine foldl_wf _ _ _ ?_ fun s x h => ?_)
    | (with_reducible refine foldl_wf1 _ _ _ ?_ fun s x h => ?_)
    | with_reducible apply wf_tset
    | (dsimp only; with_reducible assumption)
    | (dsimp only; split)
    | dsimp only

theorem State.takeCores_wf (s : State) (t : Team) (bar : Nat → Nat → Bar) (hw : Memory.wf s.mem = true) :
    Memory.wf (State.takeCores s t bar).mem = true := by
  unfold State.takeCores
  repeat' first
    | with_reducible assumption
    | intro _
    | split
    | with_reducible apply State.fenceAcq_wf
    | with_reducible rw [State.modGroup_mem]
    | with_reducible rw [State.modTeam_mem]
    | with_reducible rw [State.setBar_mem]
    | with_reducible rw [State.touch_mem]
    | (with_reducible refine foldl_wf _ _ _ ?_ fun s x h => ?_)
    | (with_reducible refine foldl_wf1 _ _ _ ?_ fun s x h => ?_)
    | with_reducible apply wf_tset
    | (dsimp only; with_reducible assumption)
    | (dsimp only; split)
    | dsimp only

theorem State.placeTeam_wf (s : State) (key : Nat) (gr : Grid) (t cl : Nat) (at_ : List (Nat × List Nat)) (hw : Memory.wf s.mem = true) :
    Memory.wf (State.placeTeam s key gr t cl at_).mem = true := by
  unfold State.placeTeam
  repeat' first
    | with_reducible assumption
    | intro _
    | split
    | with_reducible apply State.takeCores_wf
    | with_reducible rw [State.modGroup_mem]
    | with_reducible rw [State.modTeam_mem]
    | with_reducible rw [State.pool_mem]
    | with_reducible rw [State.setCtx_mem]
    | with_reducible rw [State.setGroup_mem]
    | with_reducible rw [State.setTeam_mem]
    | with_reducible rw [State.touch_mem]
    | (with_reducible refine foldl_wf _ _ _ ?_ fun s x h => ?_)
    | (with_reducible refine foldl_wf1 _ _ _ ?_ fun s x h => ?_)
    | with_reducible apply wf_tset
    | (dsimp only; with_reducible assumption)
    | (dsimp only; split)
    | dsimp only

theorem State.depFails_wf (s : State) (key : Nat) (gr : Grid) (va : Option Word64) (hw : Memory.wf s.mem = true) :
    Memory.wf (State.depFails s key gr va).mem = true := by
  unfold State.depFails
  repeat' first
    | with_reducible assumption
    | intro _
    | split
    | with_reducible apply State.event_wf
    | with_reducible apply State.reject_wf
    | with_reducible rw [State.modGroup_mem]
    | with_reducible rw [State.modTeam_mem]
    | with_reducible rw [State.touch_mem]
    | (with_reducible refine foldl_wf _ _ _ ?_ fun s x h => ?_)
    | (with_reducible refine foldl_wf1 _ _ _ ?_ fun s x h => ?_)
    | with_reducible apply wf_tset
    | (dsimp only; with_reducible assumption)
    | (dsimp only; split)
    | dsimp only

theorem State.tryPlace_wf (s : State) (cl : Nat) (y0 : List (Nat × Grid)) (hw : Memory.wf s.mem = true) :
    Memory.wf (State.tryPlace s cl y0).mem = true := by
  induction y0 generalizing s with
  | nil => unfold State.tryPlace; exact hw
  | cons x l ih =>
    unfold State.tryPlace
    repeat' first
      | with_reducible assumption
      | apply ih
      | intro _
      | split
      | with_reducible apply State.placeTeam_wf
      | with_reducible apply State.depFails_wf
      | with_reducible rw [State.depCheck_mem]
      | with_reducible rw [State.modGroup_mem]
      | with_reducible rw [State.modTeam_mem]
      | with_reducible rw [State.touch_mem]
      | (with_reducible refine foldl_wf _ _ _ ?_ fun s x h => ?_)
      | (with_reducible refine foldl_wf1 _ _ _ ?_ fun s x h => ?_)
      | with_reducible apply wf_tset
      | (dsimp only; with_reducible assumption)
      | (dsimp only; split)
      | dsimp only

theorem State.regionMsg_wf (s : State) (gr : Grid) (out : Word64) (size : Nat) (hw : Memory.wf s.mem = true) :
    Memory.wf (State.regionMsg s gr out size).1.mem = true := by
  unfold State.regionMsg
  repeat' first
    | with_reducible assumption
    | intro _
    | split
    | with_reducible apply State.event_wf
    | with_reducible rw [State.modGroup_mem]
    | with_reducible rw [State.modTeam_mem]
    | with_reducible rw [State.touch_mem]
    | with_reducible rw [State.vread_mem]
    | (with_reducible refine foldl_wf _ _ _ ?_ fun s x h => ?_)
    | (with_reducible refine foldl_wf1 _ _ _ ?_ fun s x h => ?_)
    | with_reducible apply wf_tset
    | (dsimp only; with_reducible assumption)
    | (dsimp only; split)
    | dsimp only

theorem State.completeGrid_wf (s : State) (key : Nat) (gr : Grid) (hw : Memory.wf s.mem = true) :
    Memory.wf (State.completeGrid s key gr).mem = true := by
  unfold State.completeGrid
  repeat' first
    | with_reducible assumption
    | intro _
    | split
    | with_reducible apply State.bitmapWrite_wf
    | with_reducible apply State.regionMsg_wf
    | with_reducible apply State.complete_wf
    | with_reducible rw [State.modGroup_mem]
    | with_reducible rw [State.modTeam_mem]
    | with_reducible rw [State.touch_mem]
    | (with_reducible refine foldl_wf _ _ _ ?_ fun s x h => ?_)
    | (with_reducible refine foldl_wf1 _ _ _ ?_ fun s x h => ?_)
    | with_reducible apply wf_tset
    | (dsimp only; with_reducible assumption)
    | (dsimp only; split)
    | dsimp only

theorem State.saveBars_wf (s : State) (team : Nat) (t : Team) (hw : Memory.wf s.mem = true) :
    Memory.wf (State.saveBars s team t).mem = true := by
  unfold State.saveBars
  repeat' first
    | with_reducible assumption
    | intro _
    | split
    | with_reducible apply State.barSettle_wf
    | with_reducible rw [State.modGroup_mem]
    | with_reducible rw [State.modTeam_mem]
    | with_reducible rw [State.setBar_mem]
    | with_reducible rw [State.touch_mem]
    | (with_reducible refine foldl_wf _ _ _ ?_ fun s x h => ?_)
    | (with_reducible refine foldl_wf1 _ _ _ ?_ fun s x h => ?_)
    | with_reducible apply wf_tset
    | (dsimp only; with_reducible assumption)
    | (dsimp only; split)
    | dsimp only

theorem State.saveMaps_wf (s : State) (team : Nat) (t : Team) (hw : Memory.wf s.mem = true) :
    Memory.wf (State.saveMaps s team t).mem = true := by
  unfold State.saveMaps
  repeat' first
    | with_reducible assumption
    | intro _
    | split
    | with_reducible apply State.mapWriteBack_wf
    | with_reducible rw [State.modGroup_mem]
    | with_reducible rw [State.modTeam_mem]
    | with_reducible rw [State.touch_mem]
    | (with_reducible refine foldl_wf _ _ _ ?_ fun s x h => ?_)
    | (with_reducible refine foldl_wf1 _ _ _ ?_ fun s x h => ?_)
    | with_reducible apply wf_tset
    | (dsimp only; with_reducible assumption)
    | (dsimp only; split)
    | dsimp only

theorem State.refetch_wf (s : State) (team i p : Nat) (hw : Memory.wf s.mem = true) :
    Memory.wf (State.refetch s team i p).mem = true := by
  unfold State.refetch
  repeat' first
    | with_reducible assumption
    | intro _
    | split
    | with_reducible apply State.readLoc_wf
    | with_reducible rw [State.lookup_mem]
    | with_reducible rw [State.modGroup_mem]
    | with_reducible rw [State.modTeam_mem]
    | with_reducible rw [State.touch_mem]
    | with_reducible rw [foldl_mem]
    | (with_reducible refine foldl_wf _ _ _ ?_ fun s x h => ?_)
    | (with_reducible refine foldl_wf1 _ _ _ ?_ fun s x h => ?_)
    | with_reducible apply wf_tset
    | (dsimp only; with_reducible assumption)
    | (dsimp only; split)
    | dsimp only

theorem State.refetchMaps_wf (s : State) (team : Nat) (hw : Memory.wf s.mem = true) :
    Memory.wf (State.refetchMaps s team).mem = true := by
  unfold State.refetchMaps
  repeat' first
    | with_reducible assumption
    | intro _
    | split
    | with_reducible apply State.refetch_wf
    | with_reducible rw [State.modGroup_mem]
    | with_reducible rw [State.modTeam_mem]
    | with_reducible rw [State.touch_mem]
    | (with_reducible refine foldl_wf _ _ _ ?_ fun s x h => ?_)
    | (with_reducible refine foldl_wf1 _ _ _ ?_ fun s x h => ?_)
    | with_reducible apply wf_tset
    | (dsimp only; with_reducible assumption)
    | (dsimp only; split)
    | dsimp only

theorem State.saveTeam_wf (s : State) (team : Nat) (t : Team) (hw : Memory.wf s.mem = true) :
    Memory.wf (State.saveTeam s team t).mem = true := by
  unfold State.saveTeam
  repeat' first
    | with_reducible assumption
    | intro _
    | split
    | with_reducible apply State.fenceAcq_wf
    | with_reducible apply State.saveBars_wf
    | with_reducible apply State.saveMaps_wf
    | with_reducible rw [State.modGroup_mem]
    | with_reducible rw [State.modTeam_mem]
    | with_reducible rw [State.touch_mem]
    | (with_reducible refine foldl_wf _ _ _ ?_ fun s x h => ?_)
    | (with_reducible refine foldl_wf1 _ _ _ ?_ fun s x h => ?_)
    | with_reducible apply wf_tset
    | (dsimp only; with_reducible assumption)
    | (dsimp only; split)
    | dsimp only

theorem State.restoreTeam_wf (s : State) (team cl : Nat) (at_ : List (Nat × List Nat)) (hw : Memory.wf s.mem = true) :
    Memory.wf (State.restoreTeam s team cl at_).mem = true := by
  unfold State.restoreTeam
  repeat' first
    | with_reducible assumption
    | intro _
    | split
    | with_reducible apply State.takeCores_wf
    | with_reducible apply State.refetchMaps_wf
    | with_reducible rw [State.modGroup_mem]
    | with_reducible rw [State.modTeam_mem]
    | with_reducible rw [State.setGroup_mem]
    | with_reducible rw [State.setTeam_mem]
    | with_reducible rw [State.touch_mem]
    | (with_reducible refine foldl_wf _ _ _ ?_ fun s x h => ?_)
    | (with_reducible refine foldl_wf1 _ _ _ ?_ fun s x h => ?_)
    | with_reducible apply wf_tset
    | (dsimp only; with_reducible assumption)
    | (dsimp only; split)
    | dsimp only

theorem State.setBit_wf (s : State) (gr : Grid) (t : Nat) (hw : Memory.wf s.mem = true) :
    Memory.wf (State.setBit s gr t).mem = true := by
  unfold State.setBit
  repeat' first
    | with_reducible assumption
    | intro _
    | split
    | with_reducible apply State.devWrite_wf
    | with_reducible apply State.event_wf
    | with_reducible rw [State.devRead_mem]
    | with_reducible rw [State.modGroup_mem]
    | with_reducible rw [State.modTeam_mem]
    | with_reducible rw [State.touch_mem]
    | with_reducible rw [State.vplaces_mem]
    | (with_reducible refine foldl_wf _ _ _ ?_ fun s x h => ?_)
    | (with_reducible refine foldl_wf1 _ _ _ ?_ fun s x h => ?_)
    | with_reducible apply wf_tset
    | (dsimp only; with_reducible assumption)
    | (dsimp only; split)
    | dsimp only

theorem State.endMaps_wf (s : State) (team : Nat) (t : Team) (hw : Memory.wf s.mem = true) :
    Memory.wf (State.endMaps s team t).mem = true := by
  unfold State.endMaps
  repeat' first
    | with_reducible assumption
    | intro _
    | split
    | with_reducible apply State.mapWriteBack_wf
    | with_reducible rw [State.modGroup_mem]
    | with_reducible rw [State.modTeam_mem]
    | with_reducible rw [State.touch_mem]
    | (with_reducible refine foldl_wf _ _ _ ?_ fun s x h => ?_)
    | (with_reducible refine foldl_wf1 _ _ _ ?_ fun s x h => ?_)
    | with_reducible apply wf_tset
    | (dsimp only; with_reducible assumption)
    | (dsimp only; split)
    | dsimp only

theorem State.retireTeam_wf (s : State) (team : Nat) (t : Team) (hw : Memory.wf s.mem = true) :
    Memory.wf (State.retireTeam s team t).mem = true := by
  unfold State.retireTeam
  repeat' first
    | with_reducible assumption
    | intro _
    | split
    | with_reducible apply State.fenceRel_wf
    | with_reducible apply State.completeGrid_wf
    | with_reducible apply State.setBit_wf
    | with_reducible apply State.endMaps_wf
    | with_reducible rw [State.modGroup_mem]
    | with_reducible rw [State.modTeam_mem]
    | with_reducible rw [State.pool_mem]
    | with_reducible rw [State.setBar_mem]
    | with_reducible rw [State.setCtx_mem]
    | with_reducible rw [State.touch_mem]
    | (with_reducible refine foldl_wf _ _ _ ?_ fun s x h => ?_)
    | (with_reducible refine foldl_wf1 _ _ _ ?_ fun s x h => ?_)
    | with_reducible apply wf_tset
    | (dsimp only; with_reducible assumption)
    | (dsimp only; split)
    | dsimp only

theorem State.commitTxf_wf (s : State) (gid n : Nat) (hw : Memory.wf s.mem = true) :
    Memory.wf (State.commitTxf s gid n).mem = true := by
  unfold State.commitTxf
  repeat' first
    | with_reducible assumption
    | intro _
    | split
    | with_reducible apply State.runPair_wf
    | with_reducible apply State.runReturn_wf
    | with_reducible rw [State.modGroup_mem]
    | with_reducible rw [State.modTeam_mem]
    | with_reducible rw [State.touch_mem]
    | (with_reducible refine foldl_wf _ _ _ ?_ fun s x h => ?_)
    | (with_reducible refine foldl_wf1 _ _ _ ?_ fun s x h => ?_)
    | with_reducible apply wf_tset
    | (dsimp only; with_reducible assumption)
    | (dsimp only; split)
    | dsimp only

theorem State.commitTxfs_wf (s : State) (gid : Nat) (y0 : List Nat) (hw : Memory.wf s.mem = true) :
    Memory.wf (State.commitTxfs s gid y0).mem = true := by
  induction y0 generalizing s with
  | nil => unfold State.commitTxfs; exact hw
  | cons x l ih =>
    unfold State.commitTxfs
    repeat' first
      | with_reducible assumption
      | apply ih
      | intro _
      | split
      | with_reducible apply State.commitTxf_wf
      | with_reducible rw [State.modGroup_mem]
      | with_reducible rw [State.modTeam_mem]
      | with_reducible rw [State.touch_mem]
      | (with_reducible refine foldl_wf _ _ _ ?_ fun s x h => ?_)
      | (with_reducible refine foldl_wf1 _ _ _ ?_ fun s x h => ?_)
      | with_reducible apply wf_tset
      | (dsimp only; with_reducible assumption)
      | (dsimp only; split)
      | dsimp only

theorem State.commitGroup_wf (s : State) (gid : Nat) (hw : Memory.wf s.mem = true) :
    Memory.wf (State.commitGroup s gid).1.mem = true := by
  unfold State.commitGroup
  repeat' first
    | with_reducible assumption
    | intro _
    | split
    | with_reducible apply State.performSpan_wf
    | with_reducible apply State.brinePending_wf
    | with_reducible apply State.commitTxfs_wf
    | with_reducible rw [State.commitCopy_mem]
    | with_reducible rw [State.modGroup_mem]
    | with_reducible rw [State.modTeam_mem]
    | with_reducible rw [State.touch_mem]
    | (with_reducible refine foldl_wf _ _ _ ?_ fun s x h => ?_)
    | (with_reducible refine foldl_wf1 _ _ _ ?_ fun s x h => ?_)
    | with_reducible apply wf_tset
    | (dsimp only; with_reducible assumption)
    | (dsimp only; split)
    | dsimp only

theorem State.commitGroups_wf (s : State) (y0 : List Nat) (hw : Memory.wf s.mem = true) :
    Memory.wf (State.commitGroups s y0).1.mem = true := by
  induction y0 generalizing s with
  | nil => unfold State.commitGroups; exact hw
  | cons x l ih =>
    unfold State.commitGroups
    repeat' first
      | with_reducible assumption
      | apply ih
      | intro _
      | split
      | with_reducible apply State.commitGroup_wf
      | with_reducible rw [State.modGroup_mem]
      | with_reducible rw [State.modTeam_mem]
      | with_reducible rw [State.touch_mem]
      | (with_reducible refine foldl_wf _ _ _ ?_ fun s x h => ?_)
      | (with_reducible refine foldl_wf1 _ _ _ ?_ fun s x h => ?_)
      | with_reducible apply wf_tset
      | (dsimp only; with_reducible assumption)
      | (dsimp only; split)
      | dsimp only

theorem State.endCommit_wf (s : State) (key : Nat) (gr : Grid) (hw : Memory.wf s.mem = true) :
    Memory.wf (State.endCommit s key gr).mem = true := by
  unfold State.endCommit
  repeat' first
    | with_reducible assumption
    | intro _
    | split
    | with_reducible apply State.fenceDo_wf
    | with_reducible rw [State.modGroup_mem]
    | with_reducible rw [State.modTeam_mem]
    | with_reducible rw [State.touch_mem]
    | (with_reducible refine foldl_wf _ _ _ ?_ fun s x h => ?_)
    | (with_reducible refine foldl_wf1 _ _ _ ?_ fun s x h => ?_)
    | with_reducible apply wf_tset
    | (dsimp only; with_reducible assumption)
    | (dsimp only; split)
    | dsimp only

theorem State.commitGrid_wf (s : State) (key : Nat) (gr : Grid) (hw : Memory.wf s.mem = true) :
    Memory.wf (State.commitGrid s key gr).mem = true := by
  unfold State.commitGrid
  repeat' first
    | with_reducible assumption
    | intro _
    | split
    | with_reducible apply State.commitGroups_wf
    | with_reducible apply State.endCommit_wf
    | with_reducible rw [State.modGroup_mem]
    | with_reducible rw [State.modTeam_mem]
    | with_reducible rw [State.touch_mem]
    | (with_reducible refine foldl_wf _ _ _ ?_ fun s x h => ?_)
    | (with_reducible refine foldl_wf1 _ _ _ ?_ fun s x h => ?_)
    | with_reducible apply wf_tset
    | (dsimp only; with_reducible assumption)
    | (dsimp only; split)
    | dsimp only

theorem State.flushEvents_wf (s : State) (hw : Memory.wf s.mem = true) :
    Memory.wf (State.flushEvents s).mem = true := by
  unfold State.flushEvents
  repeat' first
    | with_reducible assumption
    | intro _
    | split
    | with_reducible apply State.event_wf
    | with_reducible rw [State.modGroup_mem]
    | with_reducible rw [State.modTeam_mem]
    | with_reducible rw [State.touch_mem]
    | (with_reducible refine foldl_wf _ _ _ ?_ fun s x h => ?_)
    | (with_reducible refine foldl_wf1 _ _ _ ?_ fun s x h => ?_)
    | with_reducible apply wf_tset
    | (dsimp only; with_reducible assumption)
    | (dsimp only; split)
    | dsimp only

theorem memPut_wf (s : State) (y0 : List Byte) (y1 : Nat) (hw : Memory.wf s.mem = true) :
    Memory.wf (memPut s y0 y1).mem = true := by
  induction y0 generalizing s y1 with
  | nil => unfold memPut; exact hw
  | cons x l ih =>
    unfold memPut
    repeat' first
      | with_reducible assumption
      | apply ih
      | intro _
      | split
      | with_reducible rw [State.modGroup_mem]
      | with_reducible rw [State.modTeam_mem]
      | with_reducible rw [State.touch_mem]
      | (with_reducible refine foldl_wf _ _ _ ?_ fun s x h => ?_)
      | (with_reducible refine foldl_wf1 _ _ _ ?_ fun s x h => ?_)
      | with_reducible apply wf_tset
      | (dsimp only; with_reducible assumption)
      | (dsimp only; split)
      | dsimp only

theorem State.serveHost_wf (s : State) (o pa : Nat) (req : HostReq) (hw : Memory.wf s.mem = true) :
    Memory.wf (State.serveHost s o pa req).mem = true := by
  unfold State.serveHost
  repeat' first
    | with_reducible assumption
    | intro _
    | split
    | with_reducible apply memPut_wf
    | with_reducible rw [State.grant_mem]
    | with_reducible rw [State.modGroup_mem]
    | with_reducible rw [State.modTeam_mem]
    | with_reducible rw [State.touch_mem]
    | (with_reducible refine foldl_wf _ _ _ ?_ fun s x h => ?_)
    | (with_reducible refine foldl_wf1 _ _ _ ?_ fun s x h => ?_)
    | with_reducible apply wf_tset
    | (dsimp only; with_reducible assumption)
    | (dsimp only; split)
    | dsimp only

theorem State.hostLine_wf (s : State) (o : Nat) (req : HostReq) (hw : Memory.wf s.mem = true) :
    Memory.wf (State.hostLine s o req).mem = true := by
  unfold State.hostLine
  repeat' first
    | with_reducible assumption
    | intro _
    | split
    | with_reducible apply State.serveHost_wf
    | with_reducible rw [State.modGroup_mem]
    | with_reducible rw [State.modTeam_mem]
    | with_reducible rw [State.touch_mem]
    | (with_reducible refine foldl_wf _ _ _ ?_ fun s x h => ?_)
    | (with_reducible refine foldl_wf1 _ _ _ ?_ fun s x h => ?_)
    | with_reducible apply wf_tset
    | (dsimp only; with_reducible assumption)
    | (dsimp only; split)
    | dsimp only

theorem State.serveHeld_wf (s : State) (hw : Memory.wf s.mem = true) :
    Memory.wf (State.serveHeld s).mem = true := by
  unfold State.serveHeld
  repeat' first
    | with_reducible assumption
    | intro _
    | split
    | with_reducible apply State.serveHost_wf
    | with_reducible rw [State.modGroup_mem]
    | with_reducible rw [State.modTeam_mem]
    | with_reducible rw [State.touch_mem]
    | (with_reducible refine foldl_wf _ _ _ ?_ fun s x h => ?_)
    | (with_reducible refine foldl_wf1 _ _ _ ?_ fun s x h => ?_)
    | with_reducible apply wf_tset
    | (dsimp only; with_reducible assumption)
    | (dsimp only; split)
    | dsimp only

theorem State.hostStore_wf (s : State) (pa : Nat) (bytes : List Byte) (hw : Memory.wf s.mem = true) :
    Memory.wf (State.hostStore s pa bytes).mem = true := by
  unfold State.hostStore
  repeat' first
    | with_reducible assumption
    | intro _
    | split
    | with_reducible apply memPut_wf
    | with_reducible rw [State.modGroup_mem]
    | with_reducible rw [State.modTeam_mem]
    | with_reducible rw [State.touch_mem]
    | (with_reducible refine foldl_wf _ _ _ ?_ fun s x h => ?_)
    | (with_reducible refine foldl_wf1 _ _ _ ?_ fun s x h => ?_)
    | with_reducible apply wf_tset
    | (dsimp only; with_reducible assumption)
    | (dsimp only; split)
    | dsimp only

theorem State.endGrid_wf (s : State) (key : Nat) (g : Grid) (hw : Memory.wf s.mem = true) :
    Memory.wf (State.endGrid s key g).mem = true := by
  unfold State.endGrid
  repeat' first
    | with_reducible assumption
    | intro _
    | split
    | with_reducible apply State.bitmapWrite_wf
    | with_reducible rw [State.modGroup_mem]
    | with_reducible rw [State.modTeam_mem]
    | with_reducible rw [State.touch_mem]
    | (with_reducible refine foldl_wf _ _ _ ?_ fun s x h => ?_)
    | (with_reducible refine foldl_wf1 _ _ _ ?_ fun s x h => ?_)
    | with_reducible apply wf_tset
    | (dsimp only; with_reducible assumption)
    | (dsimp only; split)
    | dsimp only

theorem State.termRecord_wf (s : State) (c : Nat) (reason : BitVec 8) (codes : BitVec 16) (detail grid : Word64) (hw : Memory.wf s.mem = true) :
    Memory.wf (State.termRecord s c reason codes detail grid).mem = true := by
  unfold State.termRecord
  repeat' first
    | with_reducible assumption
    | intro _
    | split
    | with_reducible apply State.homePut_wf
    | with_reducible rw [State.modGroup_mem]
    | with_reducible rw [State.modTeam_mem]
    | with_reducible rw [State.signal_mem]
    | with_reducible rw [State.touch_mem]
    | (with_reducible refine foldl_wf _ _ _ ?_ fun s x h => ?_)
    | (with_reducible refine foldl_wf1 _ _ _ ?_ fun s x h => ?_)
    | with_reducible apply wf_tset
    | (dsimp only; with_reducible assumption)
    | (dsimp only; split)
    | dsimp only

theorem State.runAfter_wf (s : State) (gid n : Nat) (y0 : AfterAct) (hw : Memory.wf s.mem = true) :
    Memory.wf (State.runAfter s gid n y0).mem = true := by
  unfold State.runAfter
  repeat' first
    | with_reducible assumption
    | intro _
    | split
    | with_reducible apply State.applyFence_wf
    | with_reducible apply State.applyAcqr_wf
    | with_reducible apply State.applyStwb_wf
    | with_reducible apply State.applyBara_wf
    | with_reducible apply State.applyBarx_wf
    | with_reducible apply State.applyTbar_wf
    | with_reducible apply State.applyEnq_wf
    | with_reducible apply State.applyDeq_wf
    | with_reducible apply State.applyLaunch_wf
    | with_reducible apply State.applyLaunchLanes_wf
    | with_reducible apply State.applyInvlp_wf
    | with_reducible rw [State.modGroup_mem]
    | with_reducible rw [State.modTeam_mem]
    | with_reducible rw [State.touch_mem]
    | (with_reducible refine foldl_wf _ _ _ ?_ fun s x h => ?_)
    | (with_reducible refine foldl_wf1 _ _ _ ?_ fun s x h => ?_)
    | with_reducible apply wf_tset
    | (dsimp only; with_reducible assumption)
    | (dsimp only; split)
    | dsimp only

theorem State.inOrder_wf (s : State) (gid n : Nat) (cst : Bool) (act : State → State) (h_act : ∀ x0, Memory.wf x0.mem = true → Memory.wf (act x0).mem = true) (hw : Memory.wf s.mem = true) :
    Memory.wf (State.inOrder s gid n cst act).mem = true := by
  unfold State.inOrder
  repeat' first
    | with_reducible assumption
    | intro _
    | split
    | with_reducible apply h_act
    | with_reducible apply State.act_wf
    | with_reducible rw [State.modGroup_mem]
    | with_reducible rw [State.modTeam_mem]
    | with_reducible rw [State.touch_mem]
    | (with_reducible refine foldl_wf _ _ _ ?_ fun s x h => ?_)
    | (with_reducible refine foldl_wf1 _ _ _ ?_ fun s x h => ?_)
    | with_reducible apply wf_tset
    | (dsimp only; with_reducible assumption)
    | (dsimp only; split)
    | dsimp only

theorem State.endFbnd_wf (s : State) (gid n : Nat) (g : Group) (handle : Word64) (sb j : Nat) (sink : Bool) (cell : Option Nat) (mer : Nat) (hw : Memory.wf s.mem = true) :
    Memory.wf (State.endFbnd s gid n g handle sb j sink cell mer).mem = true := by
  unfold State.endFbnd
  repeat' first
    | with_reducible assumption
    | intro _
    | split
    | with_reducible apply State.applyFbnd_wf
    | with_reducible apply State.fbndNow_wf
    | with_reducible apply State.inOrder_wf
    | with_reducible rw [State.modGroup_mem]
    | with_reducible rw [State.modTeam_mem]
    | with_reducible rw [State.sendUnit_mem]
    | with_reducible rw [State.touch_mem]
    | (with_reducible refine foldl_wf _ _ _ ?_ fun s x h => ?_)
    | (with_reducible refine foldl_wf1 _ _ _ ?_ fun s x h => ?_)
    | with_reducible apply wf_tset
    | (dsimp only; with_reducible assumption)
    | (dsimp only; split)
    | dsimp only

theorem State.act_wf (s : State) (gid n : Nat) (g : Group) (o : Op) (hw : Memory.wf s.mem = true) :
    Memory.wf (State.act s gid n g o).mem = true := by
  unfold State.act
  repeat' first
    | with_reducible assumption
    | intro _
    | split
    | with_reducible apply State.performStore_wf
    | with_reducible apply State.endFfence_wf
    | with_reducible apply State.applyCol_wf
    | with_reducible apply State.endCol_wf
    | with_reducible apply State.runAfter_wf
    | with_reducible apply State.endFbnd_wf
    | with_reducible rw [State.answer_mem]
    | with_reducible rw [State.applyFdef_mem]
    | with_reducible rw [State.endFdrop_mem]
    | with_reducible rw [State.endFtot_mem]
    | with_reducible rw [State.endInval_mem]
    | with_reducible rw [State.modGroup_mem]
    | with_reducible rw [State.modTeam_mem]
    | with_reducible rw [State.touch_mem]
    | (with_reducible refine foldl_wf _ _ _ ?_ fun s x h => ?_)
    | (with_reducible refine foldl_wf1 _ _ _ ?_ fun s x h => ?_)
    | with_reducible apply wf_tset
    | (dsimp only; with_reducible assumption)
    | (dsimp only; split)
    | dsimp only

theorem State.prepare_wf (s : State) (gid n : Nat) (g : Group) (o : Op) (hw : Memory.wf s.mem = true) :
    Memory.wf (State.prepare s gid n g o).mem = true := by
  unfold State.prepare
  repeat' first
    | with_reducible assumption
    | intro _
    | split
    | with_reducible apply State.l2None_wf
    | with_reducible apply State.l1Clean_wf
    | with_reducible apply State.fenceRel_wf
    | with_reducible apply State.mapRelease_wf
    | with_reducible apply State.endFfence_wf
    | with_reducible rw [State.fbndCell_mem]
    | with_reducible rw [State.modGroup_mem]
    | with_reducible rw [State.modTeam_mem]
    | with_reducible rw [State.touch_mem]
    | (with_reducible refine foldl_wf _ _ _ ?_ fun s x h => ?_)
    | (with_reducible refine foldl_wf1 _ _ _ ?_ fun s x h => ?_)
    | with_reducible apply wf_tset
    | (dsimp only; with_reducible assumption)
    | (dsimp only; split)
    | dsimp only

theorem State.complete_wf (s : State) (gid n : Nat) (g : Group) (o : Op) (hw : Memory.wf s.mem = true) :
    Memory.wf (State.complete s gid n g o).mem = true := by
  unfold State.complete
  repeat' first
    | with_reducible assumption
    | intro _
    | split
    | with_reducible apply State.act_wf
    | with_reducible apply State.prepare_wf
    | with_reducible rw [State.completeOp_mem]
    | with_reducible rw [State.modGroup_mem]
    | with_reducible rw [State.modTeam_mem]
    | with_reducible rw [State.touch_mem]
    | (with_reducible refine foldl_wf _ _ _ ?_ fun s x h => ?_)
    | (with_reducible refine foldl_wf1 _ _ _ ?_ fun s x h => ?_)
    | with_reducible apply wf_tset
    | (dsimp only; with_reducible assumption)
    | (dsimp only; split)
    | dsimp only

theorem State.opAt_wf (s : State) (gid n : Nat) (g : Group) (o : Op) (hw : Memory.wf s.mem = true) :
    Memory.wf (State.opAt s gid n g o).mem = true := by
  unfold State.opAt
  repeat' first
    | with_reducible assumption
    | intro _
    | split
    | with_reducible apply State.loadSome_wf
    | with_reducible apply State.atomicSome_wf
    | with_reducible apply State.pollObj_wf
    | with_reducible apply State.act_wf
    | with_reducible rw [State.answer_mem]
    | with_reducible rw [State.modGroup_mem]
    | with_reducible rw [State.modTeam_mem]
    | with_reducible rw [State.touch_mem]
    | (with_reducible refine foldl_wf _ _ _ ?_ fun s x h => ?_)
    | (with_reducible refine foldl_wf1 _ _ _ ?_ fun s x h => ?_)
    | with_reducible apply wf_tset
    | (dsimp only; with_reducible assumption)
    | (dsimp only; split)
    | dsimp only

theorem State.surrender_wf (s : State) (frame : Nat) (hw : Memory.wf s.mem = true) :
    Memory.wf (State.surrender s frame).mem = true := by
  unfold State.surrender
  repeat' first
    | with_reducible assumption
    | intro _
    | split
    | with_reducible apply State.wr_wf
    | with_reducible rw [State.cdel_mem]
    | with_reducible rw [State.modGroup_mem]
    | with_reducible rw [State.modTeam_mem]
    | with_reducible rw [State.touch_mem]
    | (with_reducible refine foldl_wf _ _ _ ?_ fun s x h => ?_)
    | (with_reducible refine foldl_wf1 _ _ _ ?_ fun s x h => ?_)
    | with_reducible apply wf_tset
    | (dsimp only; with_reducible assumption)
    | (dsimp only; split)
    | dsimp only

theorem State.debitHere_wf (s : State) (p : Pair) (hw : Memory.wf s.mem = true) :
    Memory.wf (State.debitHere s p).1.mem = true := by
  unfold State.debitHere
  repeat' first
    | with_reducible assumption
    | intro _
    | split
    | with_reducible apply State.cellAdd_wf
    | with_reducible rw [State.cellPlace_mem]
    | with_reducible rw [State.cellRead_mem]
    | with_reducible rw [State.modGroup_mem]
    | with_reducible rw [State.modTeam_mem]
    | with_reducible rw [State.touch_mem]
    | (with_reducible refine foldl_wf _ _ _ ?_ fun s x h => ?_)
    | (with_reducible refine foldl_wf1 _ _ _ ?_ fun s x h => ?_)
    | with_reducible apply wf_tset
    | (dsimp only; with_reducible assumption)
    | (dsimp only; split)
    | dsimp only

theorem State.creditHere_wf (s : State) (p : Pair) (d : Nat) (hw : Memory.wf s.mem = true) :
    Memory.wf (State.creditHere s p d).mem = true := by
  unfold State.creditHere
  repeat' first
    | with_reducible assumption
    | intro _
    | split
    | with_reducible apply State.cellAdd_wf
    | with_reducible rw [State.cellPlace_mem]
    | with_reducible rw [State.cellRead_mem]
    | with_reducible rw [State.holdFar_mem]
    | with_reducible rw [State.modGroup_mem]
    | with_reducible rw [State.modTeam_mem]
    | with_reducible rw [State.tell_mem]
    | with_reducible rw [State.touch_mem]
    | (with_reducible refine foldl_wf _ _ _ ?_ fun s x h => ?_)
    | (with_reducible refine foldl_wf1 _ _ _ ?_ fun s x h => ?_)
    | with_reducible apply wf_tset
    | (dsimp only; with_reducible assumption)
    | (dsimp only; split)
    | dsimp only

theorem State.returnAt_wf (s : State) (p : Pair) (amount : Nat) (hw : Memory.wf s.mem = true) :
    Memory.wf (State.returnAt s p amount).mem = true := by
  unfold State.returnAt
  repeat' first
    | with_reducible assumption
    | intro _
    | split
    | with_reducible apply State.cellAdd_wf
    | with_reducible rw [State.cellPlace_mem]
    | with_reducible rw [State.modDomain_mem]
    | with_reducible rw [State.modGroup_mem]
    | with_reducible rw [State.modTeam_mem]
    | with_reducible rw [State.touch_mem]
    | (with_reducible refine foldl_wf _ _ _ ?_ fun s x h => ?_)
    | (with_reducible refine foldl_wf1 _ _ _ ?_ fun s x h => ?_)
    | with_reducible apply wf_tset
    | (dsimp only; with_reducible assumption)
    | (dsimp only; split)
    | dsimp only

theorem State.transferAnswer_wf (s : State) (u : Unit64) (hw : Memory.wf s.mem = true) :
    Memory.wf (State.transferAnswer s u).mem = true := by
  unfold State.transferAnswer
  repeat' first
    | with_reducible assumption
    | intro _
    | split
    | with_reducible apply State.returnAt_wf
    | with_reducible rw [State.learn_mem]
    | with_reducible rw [State.modGroup_mem]
    | with_reducible rw [State.modTeam_mem]
    | with_reducible rw [State.touch_mem]
    | (with_reducible refine foldl_wf _ _ _ ?_ fun s x h => ?_)
    | (with_reducible refine foldl_wf1 _ _ _ ?_ fun s x h => ?_)
    | with_reducible apply wf_tset
    | (dsimp only; with_reducible assumption)
    | (dsimp only; split)
    | dsimp only

theorem State.remoteTrans_wf (s : State) (u : Unit64) (hw : Memory.wf s.mem = true) :
    Memory.wf (State.remoteTrans s u).mem = true := by
  unfold State.remoteTrans
  repeat' first
    | with_reducible assumption
    | intro _
    | split
    | with_reducible apply State.collapse_wf
    | with_reducible rw [State.invalidate_mem]
    | with_reducible rw [State.modGroup_mem]
    | with_reducible rw [State.modTeam_mem]
    | with_reducible rw [State.owe_mem]
    | with_reducible rw [State.touch_mem]
    | (with_reducible refine foldl_wf _ _ _ ?_ fun s x h => ?_)
    | (with_reducible refine foldl_wf1 _ _ _ ?_ fun s x h => ?_)
    | with_reducible apply wf_tset
    | (dsimp only; with_reducible assumption)
    | (dsimp only; split)
    | dsimp only

theorem State.nodeAnswer_wf (s : State) (u : Unit64) (hw : Memory.wf s.mem = true) :
    Memory.wf (State.nodeAnswer s u).mem = true := by
  unfold State.nodeAnswer
  repeat' first
    | with_reducible assumption
    | intro _
    | split
    | with_reducible apply State.loadSome_wf
    | with_reducible apply State.atomicSome_wf
    | with_reducible apply State.countPiece_wf
    | with_reducible apply State.pollObj_wf
    | with_reducible apply memPut_wf
    | with_reducible rw [State.modGroup_mem]
    | with_reducible rw [State.modTeam_mem]
    | with_reducible rw [State.note_mem]
    | with_reducible rw [State.touch_mem]
    | (with_reducible refine foldl_wf _ _ _ ?_ fun s x h => ?_)
    | (with_reducible refine foldl_wf1 _ _ _ ?_ fun s x h => ?_)
    | with_reducible apply wf_tset
    | (dsimp only; with_reducible assumption)
    | (dsimp only; split)
    | dsimp only

theorem State.ownUnitAt_wf (s : State) (u : Unit64) (hw : Memory.wf s.mem = true) :
    Memory.wf (State.ownUnitAt s u).mem = true := by
  unfold State.ownUnitAt
  repeat' first
    | with_reducible assumption
    | intro _
    | split
    | with_reducible apply State.countPiece_wf
    | with_reducible apply State.opAt_wf
    | with_reducible apply State.transferAnswer_wf
    | with_reducible rw [State.invalidateHost_mem]
    | with_reducible rw [State.modGroup_mem]
    | with_reducible rw [State.modTeam_mem]
    | with_reducible rw [State.registerUnit_mem]
    | with_reducible rw [State.touch_mem]
    | (with_reducible refine foldl_wf _ _ _ ?_ fun s x h => ?_)
    | (with_reducible refine foldl_wf1 _ _ _ ?_ fun s x h => ?_)
    | with_reducible apply wf_tset
    | (dsimp only; with_reducible assumption)
    | (dsimp only; split)
    | dsimp only

theorem State.takeOwner_wf (s : State) (u : Unit64) (hw : Memory.wf s.mem = true) :
    Memory.wf (State.takeOwner s u).mem = true := by
  unfold State.takeOwner
  repeat' first
    | with_reducible assumption
    | intro _
    | split
    | with_reducible apply State.surrender_wf
    | with_reducible rw [State.modGroup_mem]
    | with_reducible rw [State.modTeam_mem]
    | with_reducible rw [State.touch_mem]
    | (with_reducible refine foldl_wf _ _ _ ?_ fun s x h => ?_)
    | (with_reducible refine foldl_wf1 _ _ _ ?_ fun s x h => ?_)
    | with_reducible apply wf_tset
    | (dsimp only; with_reducible assumption)
    | (dsimp only; split)
    | dsimp only

theorem State.dropOwner_wf (s : State) (u : Unit64) (hw : Memory.wf s.mem = true) :
    Memory.wf (State.dropOwner s u).mem = true := by
  unfold State.dropOwner
  repeat' first
    | with_reducible assumption
    | intro _
    | split
    | with_reducible apply State.surrender_wf
    | with_reducible rw [State.answerTo_mem]
    | with_reducible rw [State.modGroup_mem]
    | with_reducible rw [State.modTeam_mem]
    | with_reducible rw [State.touch_mem]
    | (with_reducible refine foldl_wf _ _ _ ?_ fun s x h => ?_)
    | (with_reducible refine foldl_wf1 _ _ _ ?_ fun s x h => ?_)
    | with_reducible apply wf_tset
    | (dsimp only; with_reducible assumption)
    | (dsimp only; split)
    | dsimp only

theorem State.pairAt_wf (s : State) (p : Pair) (t : State) (h : s.pairAt p = some t) (hw : Memory.wf s.mem = true) :
    Memory.wf t.mem = true := by
  simp only [State.pairAt] at h
  have e : ∀ (x : Option (Nat × Pair)) (f : Nat × Pair → Dict Pair),
      Memory.wf (match x with
        | some q => { s with pairs := f q }
        | none => s).mem = true := fun x f => by cases x <;> exact hw
  repeat' first
    | split at h
    | (injection h with h; subst h)
    | (obtain ⟨d, -, rfl⟩ := Option.map_eq_some_iff.mp h)
  all_goals repeat' first
    | with_reducible assumption
    | split
    | with_reducible apply State.creditHere_wf
    | with_reducible apply State.debitHere_wf
    | with_reducible rw [State.tell_mem]
    | with_reducible rw [State.answerTo_mem]
    | with_reducible rw [State.putReturn_mem]
    | dsimp only

theorem State.nextPair_wf (s : State) (u : Unit64) (hw : Memory.wf s.mem = true) :
    Memory.wf (State.nextPair s u).1.mem = true := by
  have e : ∀ (p : Pair) (a : After64), Memory.wf (match s.pairAt p with
      | some t => (t, a)
      | none => (s, .hold)).1.mem = true := fun p a => by
    split
    · exact State.pairAt_wf _ _ _ ‹_› hw
    · exact hw
  unfold State.nextPair
  dsimp only
  split <;> first
    | exact e _ _
    | exact hw

theorem State.applyUnit_wf (s : State) (u : Unit64) (hw : Memory.wf s.mem = true) :
    Memory.wf (State.applyUnit s u).1.mem = true := by
  unfold State.applyUnit
  repeat' first
    | with_reducible assumption
    | intro _
    | split
    | with_reducible apply State.transferAnswer_wf
    | with_reducible apply State.remoteTrans_wf
    | with_reducible apply State.nodeAnswer_wf
    | with_reducible apply State.ownUnitAt_wf
    | with_reducible apply State.takeOwner_wf
    | with_reducible apply State.dropOwner_wf
    | with_reducible apply State.nextPair_wf
    | with_reducible rw [State.modGroup_mem]
    | with_reducible rw [State.modTeam_mem]
    | with_reducible rw [State.note_mem]
    | with_reducible rw [State.registerUnit_mem]
    | with_reducible rw [State.remoteAtomic_mem]
    | with_reducible rw [State.remoteTotals_mem]
    | with_reducible rw [State.totalsAnswer_mem]
    | with_reducible rw [State.touch_mem]
    | (with_reducible refine foldl_wf _ _ _ ?_ fun s x h => ?_)
    | (with_reducible refine foldl_wf1 _ _ _ ?_ fun s x h => ?_)
    | with_reducible apply wf_tset
    | (dsimp only; with_reducible assumption)
    | (dsimp only; split)
    | dsimp only

theorem State.runUnits_wf (s : State) (y0 : Nat) (hw : Memory.wf s.mem = true) :
    Memory.wf (State.runUnits s y0).mem = true := by
  induction y0 generalizing s with
  | zero => unfold State.runUnits; exact hw
  | succ n ih =>
    unfold State.runUnits
    repeat' first
      | with_reducible assumption
      | apply ih
      | intro _
      | split
      | with_reducible apply State.applyUnit_wf
      | with_reducible rw [State.askFor_mem]
      | with_reducible rw [State.modGroup_mem]
      | with_reducible rw [State.modTeam_mem]
      | with_reducible rw [State.touch_mem]
      | (with_reducible refine foldl_wf _ _ _ ?_ fun s x h => ?_)
      | (with_reducible refine foldl_wf1 _ _ _ ?_ fun s x h => ?_)
      | with_reducible apply wf_tset
      | (dsimp only; with_reducible assumption)
      | (dsimp only; split)
      | dsimp only

theorem State.takeRecord_wf (s : State) (f agent : Nat) (r : ResRecord) (hw : Memory.wf s.mem = true) :
    Memory.wf (State.takeRecord s f agent r).mem = true := by
  unfold State.takeRecord
  repeat' first
    | with_reducible assumption
    | intro _
    | split
    | with_reducible apply State.runUnits_wf
    | with_reducible rw [State.modGroup_mem]
    | with_reducible rw [State.modTeam_mem]
    | with_reducible rw [State.takeDue_mem]
    | with_reducible rw [State.touch_mem]
    | (with_reducible refine foldl_wf _ _ _ ?_ fun s x h => ?_)
    | (with_reducible refine foldl_wf1 _ _ _ ?_ fun s x h => ?_)
    | with_reducible apply wf_tset
    | (dsimp only; with_reducible assumption)
    | (dsimp only; split)
    | dsimp only

theorem State.evictLine_wf (s : State) (site pa : Nat) (hw : Memory.wf s.mem = true) :
    Memory.wf (State.evictLine s site pa).mem = true := by
  unfold State.evictLine
  repeat' first
    | with_reducible assumption
    | intro _
    | split
    | with_reducible apply State.l2Flush_wf
    | with_reducible apply State.l1Clean_wf
    | with_reducible rw [State.cdel_mem]
    | with_reducible rw [State.modGroup_mem]
    | with_reducible rw [State.modTeam_mem]
    | with_reducible rw [State.touch_mem]
    | with_reducible rw [State.unmark_mem]
    | (with_reducible refine foldl_wf _ _ _ ?_ fun s x h => ?_)
    | (with_reducible refine foldl_wf1 _ _ _ ?_ fun s x h => ?_)
    | with_reducible apply wf_tset
    | (dsimp only; with_reducible assumption)
    | (dsimp only; split)
    | dsimp only

end Sys2Proof.Machine
end

