-- ==== Sys2Proof/Laws/Ops.lean ====
section
/-!
SUPPORT. What the shared operations can do, one lemma per operation: the check before an instruction, the end of a step,
an access to the device's own memory that can be reached, and the fences where no cache holds a byte.
-/
set_option Elab.async false
namespace Sys2Proof.Machine

/-- The check before an instruction passes where the instruction issues. -/
theorem guarded_of_issues {s : State} {i : Instr} {g : Group} {r : Running} (h : s.issues i g r)
    (f : Group → State) : s.guarded i f = f g := by
  obtain ⟨h1, h2, h3, h4⟩ := h
  cases hp : privileged i <;> simp_all [State.guarded]

/-! ### The end of a step -/

/-- A step whose work met nothing out of reach answers that work. -/
theorem finish_of_settled {s t : State} (h : t.settled) : finish s t = .next t.settleNode := by
  obtain ⟨h1, h2, h3, h4, h5⟩ := h
  simp [finish, State.waits, h1, h2, h3, h4, h5]

/-- A state between two steps settles as it is. -/
theorem settleNode_of_calm {s : State} (h : s.calm) : s.settleNode = s := by
  obtain ⟨-, h1, h2, h3, h4⟩ := h
  simp [State.settleNode, h1, h2, h3, h4]

theorem finish_of_calm {s t : State} (h : t.calm) : finish s t = .next t := by
  rw [finish_of_settled h.1, settleNode_of_calm h]

/-- An effect under a condition is the step's answer wherever the condition makes its result settled. -/
theorem completesIf_of_finish {s t : State} {ok : Prop} {i : Instr} (h : exec i s = finish s t) (hok : ok → t.settled) :
    s.completesIf ok i t := fun hs => by rw [h, finish_of_settled (hs.elim hok id)]

/-! ### The device's own memory, where it can be reached -/

theorem isDevice_spec {pa : Nat} (h : isDevice pa = true) :
    ∃ d, d < 4 ∧ (region? pa = some (.near d) ∨ region? pa = some (.far d)) := by
  unfold isDevice at h
  split at h
  · rename_i d hr
    refine ⟨d, ?_, .inl hr⟩
    unfold region? at hr
    repeat' split at hr
    all_goals first | (simp only [Option.some.injEq, Region.near.injEq] at hr; omega) | cases hr
  · rename_i d hr
    refine ⟨d, ?_, .inr hr⟩
    unfold region? at hr
    repeat' split at hr
    all_goals first
      | (rename_i h2 _; simp only [Bool.and_eq_true, decide_eq_true_eq] at h2
         simp only [Option.some.injEq, Region.far.injEq] at hr; omega)
      | cases hr
  · cases h

theorem isDevice_not_pooled {pa : Nat} (h : isDevice pa = true) : isPooled pa = false := by
  obtain ⟨d, -, h | h⟩ := isDevice_spec h <;> simp [isPooled, h]

theorem isDevice_not_host {pa : Nat} (h : isDevice pa = true) : isHost pa = false := by
  obtain ⟨d, -, h | h⟩ := isDevice_spec h <;> simp [isHost, h]

theorem isDevice_not_throughL2 {s : State} {pa : Nat} (h : isDevice pa = true) : s.throughL2 pa = false := by
  obtain ⟨d, -, h | h⟩ := isDevice_spec h <;> simp [State.throughL2, isPooled, isHost, h]

/-- An access to a byte that can be reached leaves no note. -/
theorem touch_of_clear {s : State} (h : s.clear) {pa : Nat} (hd : isDevice pa = true) (w : Bool) : s.touch pa w = s := by
  obtain ⟨-, h1, h2, h3⟩ := h
  obtain ⟨d, hlt, hr⟩ := isDevice_spec hd
  have hready : s.memReady pa = true := by
    rcases hr with hr | hr <;> simp [State.memReady, hr, h3 d hlt]
  have hsome : (region? pa).isNone = false := by rcases hr with hr | hr <;> simp [hr]
  simp [State.touch, hsome, hready, State.hostHolds, h1, h2, isDevice_not_pooled hd]

theorem wr_of_clear {s : State} (h : s.clear) {pa : Nat} (hd : isDevice pa = true) (b : Byte) :
    s.wr pa b = { s with mem := tset 0 s.mem pa b } := by
  simp [State.wr, State.uncached, isDevice_not_pooled hd, isDevice_not_host hd, touch_of_clear h hd]

theorem State.clear.setMem {s : State} (h : s.clear) (m : Tab Byte) : State.clear { s with mem := m } := h

/-- A read of the device's own memory gives its bytes and changes nothing. -/
theorem devBytes_of_clear {s : State} (h : s.clear) (die n : Nat) : ∀ pa, (∀ k < n, isDevice (pa + k) = true) →
    s.devBytes die n pa = (s, (List.range n).map (fun k => s.rd (pa + k))) := by
  induction n with
  | zero => intro pa _; rfl
  | succ n ih =>
    intro pa hd
    have h0 : isDevice pa = true := hd 0 (Nat.succ_pos _)
    have hr : s.devRead die pa = (s, s.rd pa) := by
      simp [State.devRead, isDevice_not_throughL2 h0, touch_of_clear h h0]
    have hn := ih (pa + 1) (fun k hk => by simpa [Nat.add_comm, Nat.add_left_comm] using hd (k + 1) (by omega))
    simp only [State.devBytes, hr, hn, List.range_succ_eq_map, List.map_cons, List.map_map, Function.comp_def, Nat.add_zero]
    simp [Nat.add_comm, Nat.add_left_comm]

/-- A write to the device's own memory changes that memory alone. -/
theorem devPut_of_clear (die : Nat) (l : List Byte) : ∀ {s : State}, s.clear → ∀ pa, (∀ k < l.length, isDevice (pa + k) = true) →
    s.devPut die l pa = { s with mem := (s.devPut die l pa).mem } := by
  induction l with
  | nil => intro s _ pa _; rfl
  | cons b l ih =>
    intro s h pa hd
    have h0 : isDevice pa = true := hd 0 (Nat.succ_pos _)
    have hw : s.devWrite die pa b = { s with mem := tset 0 s.mem pa b } := by
      simp [State.devWrite, isDevice_not_throughL2 h0, wr_of_clear h h0]
    simp only [State.devPut, hw]
    exact ih (h.setMem _) (pa + 1) (fun k hk => by
      simpa [Nat.add_comm, Nat.add_left_comm] using hd (k + 1) (by simp only [List.length_cons]; omega))

/-! ### Fences where no cache holds a byte -/

theorem l1WriteBack_of_empty {s : State} (h : s.cache = []) (core : Nat) : s.l1WriteBack core = s := by
  simp [State.l1WriteBack, State.sitePas, h]

theorem l1Invalidate_of_empty {s : State} (h : s.cache = []) (core : Nat) : s.l1Invalidate core = s := by
  unfold State.l1Invalidate
  rw [h, List.filter_nil, ← h]

theorem flushPosted_of_empty {s : State} (h : s.hostPosted = []) : s.flushPosted = s := by
  unfold State.flushPosted
  rw [h, List.foldl_nil, ← h]

theorem fenceRel_of_empty {s : State} (h : s.cache = []) (hp : s.hostPosted = []) (core : Nat) (scope : Scope) :
    s.fenceRel core scope = s := by
  cases scope <;> simp [State.fenceRel, l1WriteBack_of_empty h, State.sitePas, h, flushPosted_of_empty hp]

theorem fenceAcq_of_empty {s : State} (h : s.cache = []) (core : Nat) (scope : Scope) : s.fenceAcq core scope = s := by
  have hc : { s with cache := s.cache.filter (fun e => decide (e.1 / 2 ^ 52 < 320) || e.2.dirty) } = s := by
    rw [h, List.filter_nil, ← h]
  cases scope <;> simp only [State.fenceAcq, l1WriteBack_of_empty h, l1Invalidate_of_empty h, hc]

/-- Without a cached byte a fence of any order does nothing to the memory. -/
theorem fenceDo_of_empty {s : State} (h : s.cache = []) (hp : s.hostPosted = []) (core : Nat) (order : Order)
    (scope : Scope) : s.fenceDo core order scope = s := by
  cases order <;> simp [State.fenceDo, fenceRel_of_empty h hp, fenceAcq_of_empty h]

end Sys2Proof.Machine
end

