-- ==== Sys2Proof/Laws/PerInstr.lean ====
section
/-!
SUPPORT. Statements about each instruction as syntax, one lemma per constructor.
-/
set_option Elab.async false
namespace Sys2Proof.Laws

/-- An instruction has a word exactly where a class holds it; a device step has none. -/
def HasWord.Statement (i : Instr) : Prop := (encode i).isSome = i.cls.isSome

theorem HasWord.iadd (o : Alu) : HasWord.Statement (.iadd o) := by cases o <;> rfl
theorem HasWord.isub (o : Alu) : HasWord.Statement (.isub o) := by cases o <;> rfl
theorem HasWord.imul (o : Alu) : HasWord.Statement (.imul o) := by cases o <;> rfl
theorem HasWord.imulh (r : RFields) : HasWord.Statement (.imulh r) := rfl
theorem HasWord.imad (r : RFields) : HasWord.Statement (.imad r) := rfl
theorem HasWord.iadds (o : Alu) : HasWord.Statement (.iadds o) := by cases o <;> rfl
theorem HasWord.iand (o : Alu) : HasWord.Statement (.iand o) := by cases o <;> rfl
theorem HasWord.ior (o : Alu) : HasWord.Statement (.ior o) := by cases o <;> rfl
theorem HasWord.ixor (o : Alu) : HasWord.Statement (.ixor o) := by cases o <;> rfl
theorem HasWord.ishl (o : Alu) : HasWord.Statement (.ishl o) := by cases o <;> rfl
theorem HasWord.ishr (o : Alu) : HasWord.Statement (.ishr o) := by cases o <;> rfl
theorem HasWord.imin (o : Alu) : HasWord.Statement (.imin o) := by cases o <;> rfl
theorem HasWord.imax (o : Alu) : HasWord.Statement (.imax o) := by cases o <;> rfl
theorem HasWord.icmp (o : Alu) : HasWord.Statement (.icmp o) := by cases o <;> rfl
theorem HasWord.isel (r : RFields) : HasWord.Statement (.isel r) := rfl
theorem HasWord.mov (r : RFields) : HasWord.Statement (.mov r) := rfl
theorem HasWord.movi (w : WFields) : HasWord.Statement (.movi w) := rfl
theorem HasWord.ibfe (o : Alu) : HasWord.Statement (.ibfe o) := by cases o <;> rfl
theorem HasWord.ibfi (r : RFields) : HasWord.Statement (.ibfi r) := rfl
theorem HasWord.iclz (r : RFields) : HasWord.Statement (.iclz r) := rfl
theorem HasWord.ipopc (r : RFields) : HasWord.Statement (.ipopc r) := rfl
theorem HasWord.plop (r : RFields) : HasWord.Statement (.plop r) := rfl
theorem HasWord.pmov (r : RFields) : HasWord.Statement (.pmov r) := rfl
theorem HasWord.pcnt (r : RFields) : HasWord.Statement (.pcnt r) := rfl
theorem HasWord.fadd (r : RFields) : HasWord.Statement (.fadd r) := rfl
theorem HasWord.fsub (r : RFields) : HasWord.Statement (.fsub r) := rfl
theorem HasWord.fmul (r : RFields) : HasWord.Statement (.fmul r) := rfl
theorem HasWord.ffma (r : RFields) : HasWord.Statement (.ffma r) := rfl
theorem HasWord.fmin (r : RFields) : HasWord.Statement (.fmin r) := rfl
theorem HasWord.fmax (r : RFields) : HasWord.Statement (.fmax r) := rfl
theorem HasWord.fcmp (r : RFields) : HasWord.Statement (.fcmp r) := rfl
theorem HasWord.fclass (r : RFields) : HasWord.Statement (.fclass r) := rfl
theorem HasWord.frcp (r : RFields) : HasWord.Statement (.frcp r) := rfl
theorem HasWord.frsq (r : RFields) : HasWord.Statement (.frsq r) := rfl
theorem HasWord.fsqrt (r : RFields) : HasWord.Statement (.fsqrt r) := rfl
theorem HasWord.fexp2 (r : RFields) : HasWord.Statement (.fexp2 r) := rfl
theorem HasWord.flog2 (r : RFields) : HasWord.Statement (.flog2 r) := rfl
theorem HasWord.fsin (r : RFields) : HasWord.Statement (.fsin r) := rfl
theorem HasWord.fcos (r : RFields) : HasWord.Statement (.fcos r) := rfl
theorem HasWord.cvt (r : RFields) : HasWord.Statement (.cvt r) := rfl
theorem HasWord.cvtfx (r : RFields) : HasWord.Statement (.cvtfx r) := rfl
theorem HasWord.cvtxf (r : RFields) : HasWord.Statement (.cvtxf r) := rfl
theorem HasWord.pack (r : RFields) : HasWord.Statement (.pack r) := rfl
theorem HasWord.unpack (r : RFields) : HasWord.Statement (.unpack r) := rfl
theorem HasWord.shfl (r : RFields) : HasWord.Statement (.shfl r) := rfl
theorem HasWord.vred (r : RFields) : HasWord.Statement (.vred r) := rfl
theorem HasWord.vscan (r : RFields) : HasWord.Statement (.vscan r) := rfl
theorem HasWord.vbal (r : RFields) : HasWord.Statement (.vbal r) := rfl
theorem HasWord.vbcast (r : RFields) : HasWord.Statement (.vbcast r) := rfl
theorem HasWord.vmatch (r : RFields) : HasWord.Statement (.vmatch r) := rfl
theorem HasWord.yield : HasWord.Statement (.yield) := rfl
theorem HasWord.bra (b : BFields) : HasWord.Statement (.bra b) := rfl
theorem HasWord.call (b : BFields) : HasWord.Statement (.call b) := rfl
theorem HasWord.brx (x : XFields) : HasWord.Statement (.brx x) := rfl
theorem HasWord.callx (x : XFields) : HasWord.Statement (.callx x) := rfl
theorem HasWord.ret (x : XFields) : HasWord.Statement (.ret x) := rfl
theorem HasWord.lpad (x : XFields) : HasWord.Statement (.lpad x) := rfl
theorem HasWord.exit (b : BFields) : HasWord.Statement (.exit b) := rfl
theorem HasWord.nop : HasWord.Statement (.nop) := rfl
theorem HasWord.ld (m : MFields) : HasWord.Statement (.ld m) := rfl
theorem HasWord.st (m : MFields) : HasWord.Statement (.st m) := rfl
theorem HasWord.cas (m : MFields) : HasWord.Statement (.cas m) := rfl
theorem HasWord.cas128 (m : MFields) : HasWord.Statement (.cas128 m) := rfl
theorem HasWord.fence (m : MFields) : HasWord.Statement (.fence m) := rfl
theorem HasWord.acqr (m : MFields) : HasWord.Statement (.acqr m) := rfl
theorem HasWord.stmap (m : MFields) : HasWord.Statement (.stmap m) := rfl
theorem HasWord.stunmap (m : MFields) : HasWord.Statement (.stunmap m) := rfl
theorem HasWord.stwb (m : MFields) : HasWord.Statement (.stwb m) := rfl
theorem HasWord.pfl (m : MFields) : HasWord.Statement (.pfl m) := rfl
theorem HasWord.atom (op : AtomicOp) (m : MFields) : HasWord.Statement (.atom op m) := rfl
theorem HasWord.atomt (op : AtomicOp) (m : MFields) : HasWord.Statement (.atomt op m) := rfl
theorem HasWord.txf (f : FFields) : HasWord.Statement (.txf f) := rfl
theorem HasWord.ftot (q : QFields) : HasWord.Statement (.ftot q) := rfl
theorem HasWord.ffence (q : QFields) : HasWord.Statement (.ffence q) := rfl
theorem HasWord.fstat (q : QFields) : HasWord.Statement (.fstat q) := rfl
theorem HasWord.fdef (q : QFields) : HasWord.Statement (.fdef q) := rfl
theorem HasWord.fdefDrop (q : QFields) : HasWord.Statement (.fdefDrop q) := rfl
theorem HasWord.fbnd (q : QFields) : HasWord.Statement (.fbnd q) := rfl
theorem HasWord.bara (q : QFields) : HasWord.Statement (.bara q) := rfl
theorem HasWord.baraInit (q : QFields) : HasWord.Statement (.baraInit q) := rfl
theorem HasWord.barw (q : QFields) : HasWord.Statement (.barw q) := rfl
theorem HasWord.barx (q : QFields) : HasWord.Statement (.barx q) := rfl
theorem HasWord.tbar (q : QFields) : HasWord.Statement (.tbar q) := rfl
theorem HasWord.tbarArr (q : QFields) : HasWord.Statement (.tbarArr q) := rfl
theorem HasWord.tbarWait (q : QFields) : HasWord.Statement (.tbarWait q) := rfl
theorem HasWord.kick (q : QFields) : HasWord.Statement (.kick q) := rfl
theorem HasWord.cpwait (q : QFields) : HasWord.Statement (.cpwait q) := rfl
theorem HasWord.yieldc (q : QFields) : HasWord.Statement (.yieldc q) := rfl
theorem HasWord.pfb (q : QFields) : HasWord.Statement (.pfb q) := rfl
theorem HasWord.enq (q : QFields) : HasWord.Statement (.enq q) := rfl
theorem HasWord.deq (q : QFields) : HasWord.Statement (.deq q) := rfl
theorem HasWord.launch (q : QFields) : HasWord.Statement (.launch q) := rfl
theorem HasWord.launchPerLane (q : QFields) : HasWord.Statement (.launchPerLane q) := rfl
theorem HasWord.setfmt (w : WFields) : HasWord.Statement (.setfmt w) := rfl
theorem HasWord.setmode (w : WFields) : HasWord.Statement (.setmode w) := rfl
theorem HasWord.srd (r : RFields) : HasWord.Statement (.srd r) := rfl
theorem HasWord.swr (r : RFields) : HasWord.Statement (.swr r) := rfl
theorem HasWord.csrr (q : QFields) : HasWord.Statement (.csrr q) := rfl
theorem HasWord.csrw (q : QFields) : HasWord.Statement (.csrw q) := rfl
theorem HasWord.trap (q : QFields) : HasWord.Statement (.trap q) := rfl
theorem HasWord.rte (q : QFields) : HasWord.Statement (.rte q) := rfl
theorem HasWord.rteSkip (q : QFields) : HasWord.Statement (.rteSkip q) := rfl
theorem HasWord.mappgFt (q : QFields) : HasWord.Statement (.mappgFt q) := rfl
theorem HasWord.mappgRep (q : QFields) : HasWord.Statement (.mappgRep q) := rfl
theorem HasWord.mappgCol (q : QFields) : HasWord.Statement (.mappgCol q) := rfl
theorem HasWord.fqpost (q : QFields) : HasWord.Statement (.fqpost q) := rfl
theorem HasWord.park (q : QFields) : HasWord.Statement (.park q) := rfl
theorem HasWord.invlpPg (q : QFields) : HasWord.Statement (.invlpPg q) := rfl
theorem HasWord.invlpCtx (q : QFields) : HasWord.Statement (.invlpCtx q) := rfl
theorem HasWord.qdig (q : QFields) : HasWord.Statement (.qdig q) := rfl
theorem HasWord.qend (q : QFields) : HasWord.Statement (.qend q) := rfl
theorem HasWord.mma (x : MXFields) : HasWord.Statement (.mma x) := rfl
theorem HasWord.mzero (x : MXFields) : HasWord.Statement (.mzero x) := rfl
theorem HasWord.mstc (x : MXFields) : HasWord.Statement (.mstc x) := rfl
theorem HasWord.mwait (x : MXFields) : HasWord.Statement (.mwait x) := rfl
theorem HasWord.marr (x : MXFields) : HasWord.Statement (.marr x) := rfl
theorem HasWord.mloop (x : MXFields) : HasWord.Statement (.mloop x) := rfl
theorem HasWord.mbr (x : MXFields) : HasWord.Statement (.mbr x) := rfl
theorem HasWord.mend (x : MXFields) : HasWord.Statement (.mend x) := rfl
theorem HasWord.msetf (x : MXFields) : HasWord.Statement (.msetf x) := rfl
theorem HasWord.clauseFetch (gid slot : Nat) : HasWord.Statement (.clauseFetch gid slot) := rfl
theorem HasWord.clauseStart (part : Nat) : HasWord.Statement (.clauseStart part) := rfl
theorem HasWord.resultWrite (gid : Nat) : HasWord.Statement (.resultWrite gid) := rfl
theorem HasWord.registerFill (part gid line : Nat) : HasWord.Statement (.registerFill part gid line) := rfl
theorem HasWord.variableResultArrival (gid op lane : Nat) : HasWord.Statement (.variableResultArrival gid op lane) := rfl
theorem HasWord.storeComplete (gid op : Nat) : HasWord.Statement (.storeComplete gid op) := rfl
theorem HasWord.transferResolve (gid slot : Nat) : HasWord.Statement (.transferResolve gid slot) := rfl
theorem HasWord.predictionRepair (gid : Nat) : HasWord.Statement (.predictionRepair gid) := rfl
theorem HasWord.spillPop (gid : Nat) : HasWord.Statement (.spillPop gid) := rfl
theorem HasWord.yieldBarLift (gid : Nat) : HasWord.Statement (.yieldBarLift gid) := rfl
theorem HasWord.trapEntry (gid : Nat) : HasWord.Statement (.trapEntry gid) := rfl
theorem HasWord.preemptionRequest (team : Nat) : HasWord.Statement (.preemptionRequest team) := rfl
theorem HasWord.preemptionBound (gid : Nat) : HasWord.Statement (.preemptionBound gid) := rfl
theorem HasWord.quiescence (team : Nat) : HasWord.Statement (.quiescence team) := rfl
theorem HasWord.teamRestore (team cluster : Nat) : HasWord.Statement (.teamRestore team cluster) := rfl
theorem HasWord.groupRetire (gid : Nat) : HasWord.Statement (.groupRetire gid) := rfl
theorem HasWord.teamRetire (team : Nat) : HasWord.Statement (.teamRetire team) := rfl
theorem HasWord.digestChain (queue : Nat) : HasWord.Statement (.digestChain queue) := rfl
theorem HasWord.dispatchHead : HasWord.Statement (.dispatchHead) := rfl
theorem HasWord.rangeSteal (grid cluster : Nat) : HasWord.Statement (.rangeSteal grid cluster) := rfl
theorem HasWord.teamPlacement (cluster : Nat) : HasWord.Statement (.teamPlacement cluster) := rfl
theorem HasWord.concurrentPlacement (queue : Nat) (clusters : List Nat) : HasWord.Statement (.concurrentPlacement queue clusters) := rfl
theorem HasWord.preemptDecision (cluster : Nat) : HasWord.Statement (.preemptDecision cluster) := rfl
theorem HasWord.barrierWaitComplete (core bar : Nat) : HasWord.Statement (.barrierWaitComplete core bar) := rfl
theorem HasWord.teamBarrierPhaseEnd (team tb : Nat) : HasWord.Statement (.teamBarrierPhaseEnd team tb) := rfl
theorem HasWord.cpwaitComplete (gid op : Nat) : HasWord.Statement (.cpwaitComplete gid op) := rfl
theorem HasWord.yieldcReactivate (gid slot : Nat) : HasWord.Statement (.yieldcReactivate gid slot) := rfl
theorem HasWord.deqWaiterComplete (queue : Nat) : HasWord.Statement (.deqWaiterComplete queue) := rfl
theorem HasWord.enqRoomComplete (queue : Nat) : HasWord.Statement (.enqRoomComplete queue) := rfl
theorem HasWord.fqpostComplete (ctx : Nat) : HasWord.Statement (.fqpostComplete ctx) := rfl
theorem HasWord.groupResume (ctx : Nat) : HasWord.Statement (.groupResume ctx) := rfl
theorem HasWord.stashFill (team slot piece : Nat) : HasWord.Statement (.stashFill team slot piece) := rfl
theorem HasWord.stashLazyWriteback (team slot piece : Nat) : HasWord.Statement (.stashLazyWriteback team slot piece) := rfl
theorem HasWord.recordAccept (core : Nat) : HasWord.Statement (.recordAccept core) := rfl
theorem HasWord.pieceCountdown (core rec : Nat) : HasWord.Statement (.pieceCountdown core rec) := rfl
theorem HasWord.pfbFrameArrive (core rec : Nat) : HasWord.Statement (.pfbFrameArrive core rec) := rfl
theorem HasWord.txfPairApply (pair : Nat) : HasWord.Statement (.txfPairApply pair) := rfl
theorem HasWord.txfReturn (ret : Nat) : HasWord.Statement (.txfReturn ret) := rfl
theorem HasWord.txfComplete (gid op : Nat) : HasWord.Statement (.txfComplete gid op) := rfl
theorem HasWord.streamClauseFetch (team unit : Nat) : HasWord.Statement (.streamClauseFetch team unit) := rfl
theorem HasWord.matrixStreamTrap (team unit : Nat) : HasWord.Statement (.matrixStreamTrap team unit) := rfl
theorem HasWord.matrixTrapDelivery (gid : Nat) : HasWord.Statement (.matrixTrapDelivery gid) := rfl
theorem HasWord.quantumCommit (grid : Nat) : HasWord.Statement (.quantumCommit grid) := rfl
theorem HasWord.contextTermination (ctx : Nat) : HasWord.Statement (.contextTermination ctx) := rfl
theorem HasWord.enqueuePortWrite (queue : Nat) (bytes : List Byte) : HasWord.Statement (.enqueuePortWrite queue bytes) := rfl
theorem HasWord.fqdb (ctx : Nat) (value : Word64) : HasWord.Statement (.fqdb ctx value) := rfl
theorem HasWord.hostInvalidation (value : Word64) : HasWord.Statement (.hostInvalidation value) := rfl
theorem HasWord.pctx (value : Word64) : HasWord.Statement (.pctx value) := rfl
theorem HasWord.contextValidWrite (ctx : Nat) (value : Byte) : HasWord.Statement (.contextValidWrite ctx value) := rfl
theorem HasWord.queueEnable (queue : Nat) (value : Word64) : HasWord.Statement (.queueEnable queue value) := rfl
theorem HasWord.queueDisable (queue : Nat) (value : Word64) : HasWord.Statement (.queueDisable queue value) := rfl
theorem HasWord.meridianEnable : HasWord.Statement (.meridianEnable) := rfl
theorem HasWord.registerWrite (offset : Nat) (value : Word64) : HasWord.Statement (.registerWrite offset value) := rfl
theorem HasWord.mailboxSelfTest : HasWord.Statement (.mailboxSelfTest) := rfl
theorem HasWord.mailboxPublicKey : HasWord.Statement (.mailboxPublicKey) := rfl
theorem HasWord.mailboxSignChain : HasWord.Statement (.mailboxSignChain) := rfl
theorem HasWord.mailboxInstallKey (inSession : Bool) : HasWord.Statement (.mailboxInstallKey inSession) := rfl
theorem HasWord.mailboxPowerLimit : HasWord.Statement (.mailboxPowerLimit) := rfl
theorem HasWord.mailboxErrorCounts : HasWord.Statement (.mailboxErrorCounts) := rfl
theorem HasWord.mailboxPowerState : HasWord.Statement (.mailboxPowerState) := rfl
theorem HasWord.mailboxBadCommand : HasWord.Statement (.mailboxBadCommand) := rfl
theorem HasWord.linkTraining (syscap : Word64) : HasWord.Statement (.linkTraining syscap) := rfl
theorem HasWord.hostMemRequest (offset : Nat) (req : HostReq) : HasWord.Statement (.hostMemRequest offset req) := rfl
theorem HasWord.backInvalidationResponse (line : Nat) (dirty : Option (List Byte)) :
    HasWord.Statement (.backInvalidationResponse line dirty) := rfl
theorem HasWord.hostSnoop (line : Nat) (kind : SnoopKind) : HasWord.Statement (.hostSnoop line kind) := rfl
theorem HasWord.atomicopCompletion (gid op : Nat) : HasWord.Statement (.atomicopCompletion gid op) := rfl
theorem HasWord.hostErrorCompletion (err : HostErr) (pa : Nat) : HasWord.Statement (.hostErrorCompletion err pa) := rfl
theorem HasWord.meridianFrame : HasWord.Statement (.meridianFrame) := rfl
theorem HasWord.reservationRecord (rec : Option ResRecord) (agent : Nat) : HasWord.Statement (.reservationRecord rec agent) := rfl
theorem HasWord.meridianUnit (unit : Unit64) : HasWord.Statement (.meridianUnit unit) := rfl
theorem HasWord.idleFlit (port : Nat) (f : Flit) : HasWord.Statement (.idleFlit port f) := rfl
theorem HasWord.requestFlit (port : Nat) (f : Flit) : HasWord.Statement (.requestFlit port f) := rfl
theorem HasWord.readDataFlit (port : Nat) (f : Flit) : HasWord.Statement (.readDataFlit port f) := rfl
theorem HasWord.writeDataFlit (port : Nat) (f : Flit) : HasWord.Statement (.writeDataFlit port f) := rfl
theorem HasWord.completionFlit (port : Nat) (f : Flit) : HasWord.Statement (.completionFlit port f) := rfl
theorem HasWord.keyRetire (port : Nat) (f : Flit) : HasWord.Statement (.keyRetire port f) := rfl
theorem HasWord.replayRequest (port : Nat) (f : Flit) : HasWord.Statement (.replayRequest port f) := rfl
theorem HasWord.dropNotice (port : Nat) (f : Flit) : HasWord.Statement (.dropNotice port f) := rfl
theorem HasWord.reservationRequest (port : Nat) (f : Flit) : HasWord.Statement (.reservationRequest port f) := rfl
theorem HasWord.reservationGrant (port : Nat) (f : Flit) : HasWord.Statement (.reservationGrant port f) := rfl
theorem HasWord.activeSetAnnouncement (port : Nat) (f : Flit) : HasWord.Statement (.activeSetAnnouncement port f) := rfl
theorem HasWord.activeSetEcho (port : Nat) (f : Flit) : HasWord.Statement (.activeSetEcho port f) := rfl
theorem HasWord.wavelengthRequest (port : Nat) (f : Flit) : HasWord.Statement (.wavelengthRequest port f) := rfl
theorem HasWord.replayTimeout (port : Nat) : HasWord.Statement (.replayTimeout port) := rfl
theorem HasWord.announcementRepeat (port : Nat) : HasWord.Statement (.announcementRepeat port) := rfl
theorem HasWord.berWindow (port lam rate : Nat) : HasWord.Statement (.berWindow port lam rate) := rfl
theorem HasWord.lossOfLight (source : Nat) : HasWord.Statement (.lossOfLight source) := rfl
theorem HasWord.lightRestored (source : Nat) : HasWord.Statement (.lightRestored source) := rfl
theorem HasWord.portDown (port : Nat) : HasWord.Statement (.portDown port) := rfl
theorem HasWord.reset (fw : Firmware) : HasWord.Statement (.reset fw) := rfl
theorem HasWord.unitStart (failure : Option TestFailure) : HasWord.Statement (.unitStart failure) := rfl
theorem HasWord.powerMeasurement (watts : Nat) : HasWord.Statement (.powerMeasurement watts) := rfl
theorem HasWord.unreach : HasWord.Statement (.unreach) := rfl
theorem HasWord.softErrorCorrected : HasWord.Statement (.softErrorCorrected) := rfl
theorem HasWord.machineCheck (owner : ErrorOwner) : HasWord.Statement (.machineCheck owner) := rfl
theorem HasWord.meridianDisable : HasWord.Statement (.meridianDisable) := rfl
theorem HasWord.portModeWrite (port : Nat) (value : Word64) : HasWord.Statement (.portModeWrite port value) := rfl
theorem HasWord.portTrained (port : Nat) (credits : List Nat) : HasWord.Statement (.portTrained port credits) := rfl
theorem HasWord.spdmMessage (request : List Byte) : HasWord.Statement (.spdmMessage request) := rfl
theorem HasWord.flitCrcFailure (port : Nat) (reservedKind : Bool) : HasWord.Statement (.flitCrcFailure port reservedKind) := rfl
theorem HasWord.reservationWindowStart (port tag : Nat) : HasWord.Statement (.reservationWindowStart port tag) := rfl

end Sys2Proof.Laws
end

