-- ==== Sys2Proof/Laws/Ready.lean ====
section
/-!
SUPPORT. READY is written by the start of units and by the safe state alone: every shared operation leaves it
as it is.
-/
set_option Elab.async false
set_option linter.unreachableTactic false
set_option linter.unusedSimpArgs false
set_option linter.unusedTactic false

namespace Sys2Proof.Machine

theorem foldl_ready {α : Type} (f : State → α → State) (l : List α) (s : State)
    (h : ∀ s x, (f s x).ready = s.ready) : (l.foldl f s).ready = s.ready := by
  induction l generalizing s with
  | nil => rfl
  | cons x l ih => simp [ih, h]

theorem foldl_ready1 {α β : Type} (f : State × β → α → State × β) (l : List α) (s : State × β)
    (h : ∀ s x, (f s x).1.ready = s.1.ready) : (l.foldl f s).1.ready = s.1.ready := by
  induction l generalizing s with
  | nil => rfl
  | cons x l ih => simp [ih, h]

@[simp] theorem State.modGroup_ready (s : State) (gid : Nat) (f : Group → Group) :
    (State.modGroup s gid f).ready = s.ready := by
  unfold State.modGroup
  repeat' first
    | with_reducible rfl
    | split
    | (simp [*]; done)
    | (dsimp only; split)
    | refine (foldl_ready _ _ _ fun s x => ?_).trans ?_
    | refine (foldl_ready1 _ _ _ fun s x => ?_).trans ?_
    | (simp [*]; split)

@[simp] theorem State.modTeam_ready (s : State) (t : Nat) (f : Team → Team) :
    (State.modTeam s t f).ready = s.ready := by
  unfold State.modTeam
  repeat' first
    | with_reducible rfl
    | split
    | (simp [*]; done)
    | (dsimp only; split)
    | refine (foldl_ready _ _ _ fun s x => ?_).trans ?_
    | refine (foldl_ready1 _ _ _ fun s x => ?_).trans ?_
    | (simp [*]; split)

@[simp] theorem State.terminate_ready (s : State) (c : Nat) (reason : BitVec 8) (codes : BitVec 16) (detail grid : Word64) :
    (State.terminate s c reason codes detail grid).ready = s.ready := by
  unfold State.terminate
  repeat' first
    | with_reducible rfl
    | split
    | (simp [*]; done)
    | (dsimp only; split)
    | refine (foldl_ready _ _ _ fun s x => ?_).trans ?_
    | refine (foldl_ready1 _ _ _ fun s x => ?_).trans ?_
    | (simp [*]; split)

@[simp] theorem State.freeCslot_ready (s : State) (part : Nat) (r : Running) :
    (State.freeCslot s part r).ready = s.ready := by
  unfold State.freeCslot
  repeat' first
    | with_reducible rfl
    | split
    | (simp [*]; done)
    | (dsimp only; split)
    | refine (foldl_ready _ _ _ fun s x => ?_).trans ?_
    | refine (foldl_ready1 _ _ _ fun s x => ?_).trans ?_
    | (simp [*]; split)

@[simp] theorem State.endClause_ready (s : State) (gid k : Nat) (next counted : Bool) :
    (State.endClause s gid k next counted).ready = s.ready := by
  unfold State.endClause
  repeat' first
    | with_reducible rfl
    | split
    | (simp [*]; done)
    | (dsimp only; split)
    | refine (foldl_ready _ _ _ fun s x => ?_).trans ?_
    | refine (foldl_ready1 _ _ _ fun s x => ?_).trans ?_
    | (simp [*]; split)

@[simp] theorem State.advanceWith_ready (s : State) (next counted : Bool) :
    (State.advanceWith s next counted).ready = s.ready := by
  unfold State.advanceWith
  repeat' first
    | with_reducible rfl
    | split
    | (simp [*]; done)
    | (dsimp only; split)
    | refine (foldl_ready _ _ _ fun s x => ?_).trans ?_
    | refine (foldl_ready1 _ _ _ fun s x => ?_).trans ?_
    | (simp [*]; split)

@[simp] theorem State.advance_ready (s : State) :
    (State.advance s).ready = s.ready := by
  unfold State.advance
  repeat' first
    | with_reducible rfl
    | split
    | (simp [*]; done)
    | (dsimp only; split)
    | refine (foldl_ready _ _ _ fun s x => ?_).trans ?_
    | refine (foldl_ready1 _ _ _ fun s x => ?_).trans ?_
    | (simp [*]; split)

@[simp] theorem State.pendResult_ready (s : State) (lat : Nat) (upds : List RegUpd) (sticky : List (Nat × BitVec 16)) :
    (State.pendResult s lat upds sticky).ready = s.ready := by
  unfold State.pendResult
  repeat' first
    | with_reducible rfl
    | split
    | (simp [*]; done)
    | (dsimp only; split)
    | refine (foldl_ready _ _ _ fun s x => ?_).trans ?_
    | refine (foldl_ready1 _ _ _ fun s x => ?_).trans ?_
    | (simp [*]; split)

@[simp] theorem State.addOpMer_ready (s : State) (sel mer : Bool) (kind : OpKind) :
    (State.addOpMer s sel mer kind).ready = s.ready := by
  unfold State.addOpMer
  repeat' first
    | with_reducible rfl
    | split
    | (simp [*]; done)
    | (dsimp only; split)
    | refine (foldl_ready _ _ _ fun s x => ?_).trans ?_
    | refine (foldl_ready1 _ _ _ fun s x => ?_).trans ?_
    | (simp [*]; split)

@[simp] theorem State.addOp_ready (s : State) (sel : Bool) (kind : OpKind) :
    (State.addOp s sel kind).ready = s.ready := by
  unfold State.addOp
  repeat' first
    | with_reducible rfl
    | split
    | (simp [*]; done)
    | (dsimp only; split)
    | refine (foldl_ready _ _ _ fun s x => ?_).trans ?_
    | refine (foldl_ready1 _ _ _ fun s x => ?_).trans ?_
    | (simp [*]; split)

@[simp] theorem State.completeOp_ready (s : State) (gid op : Nat) :
    (State.completeOp s gid op).ready = s.ready := by
  unfold State.completeOp
  repeat' first
    | with_reducible rfl
    | split
    | (simp [*]; done)
    | (dsimp only; split)
    | refine (foldl_ready _ _ _ fun s x => ?_).trans ?_
    | refine (foldl_ready1 _ _ _ fun s x => ?_).trans ?_
    | (simp [*]; split)

@[simp] theorem State.stopSlot_ready (s : State) (gid k idx : Nat) :
    (State.stopSlot s gid k idx).ready = s.ready := by
  unfold State.stopSlot
  repeat' first
    | with_reducible rfl
    | split
    | (simp [*]; done)
    | (dsimp only; split)
    | refine (foldl_ready _ _ _ fun s x => ?_).trans ?_
    | refine (foldl_ready1 _ _ _ fun s x => ?_).trans ?_
    | (simp [*]; split)

@[simp] theorem State.redoHalf_ready (s : State) (gid k : Nat) :
    (State.redoHalf s gid k).ready = s.ready := by
  unfold State.redoHalf
  repeat' first
    | with_reducible rfl
    | split
    | (simp [*]; done)
    | (dsimp only; split)
    | refine (foldl_ready _ _ _ fun s x => ?_).trans ?_
    | refine (foldl_ready1 _ _ _ fun s x => ?_).trans ?_
    | (simp [*]; split)

@[simp] theorem State.raiseTrap_ready (s : State) (gid : Nat) (r : TrapReq) :
    (State.raiseTrap s gid r).ready = s.ready := by
  unfold State.raiseTrap
  repeat' first
    | with_reducible rfl
    | split
    | (simp [*]; done)
    | (dsimp only; split)
    | refine (foldl_ready _ _ _ fun s x => ?_).trans ?_
    | refine (foldl_ready1 _ _ _ fun s x => ?_).trans ?_
    | (simp [*]; split)

@[simp] theorem State.trapHere_ready (s : State) (code : BitVec 8) (einfo : Word64) (lanes : Mask) (faddr : List (Nat × Word64)) :
    (State.trapHere s code einfo lanes faddr).ready = s.ready := by
  unfold State.trapHere
  repeat' first
    | with_reducible rfl
    | split
    | (simp [*]; done)
    | (dsimp only; split)
    | refine (foldl_ready _ _ _ fun s x => ?_).trans ?_
    | refine (foldl_ready1 _ _ _ fun s x => ?_).trans ?_
    | (simp [*]; split)

@[simp] theorem State.trapClause_ready (s : State) (gid k : Nat) (code : BitVec 8) (pc einfo etxf : Word64) (arg : BitVec 12) (lanes : Mask) (faddr : List (Nat × Word64)) :
    (State.trapClause s gid k code pc einfo etxf arg lanes faddr).ready = s.ready := by
  unfold State.trapClause
  repeat' first
    | with_reducible rfl
    | split
    | (simp [*]; done)
    | (dsimp only; split)
    | refine (foldl_ready _ _ _ fun s x => ?_).trans ?_
    | refine (foldl_ready1 _ _ _ fun s x => ?_).trans ?_
    | (simp [*]; split)

@[simp] theorem State.illegal_ready (s : State) :
    (State.illegal s).ready = s.ready := by
  unfold State.illegal
  repeat' first
    | with_reducible rfl
    | split
    | (simp [*]; done)
    | (dsimp only; split)
    | refine (foldl_ready _ _ _ fun s x => ?_).trans ?_
    | refine (foldl_ready1 _ _ _ fun s x => ?_).trans ?_
    | (simp [*]; split)

@[simp] theorem State.privilegeTrap_ready (s : State) :
    (State.privilegeTrap s).ready = s.ready := by
  unfold State.privilegeTrap
  repeat' first
    | with_reducible rfl
    | split
    | (simp [*]; done)
    | (dsimp only; split)
    | refine (foldl_ready _ _ _ fun s x => ?_).trans ?_
    | refine (foldl_ready1 _ _ _ fun s x => ?_).trans ?_
    | (simp [*]; split)

@[simp] theorem State.guarded_ready (s : State) (i : Instr) (f : Group → State) (h_f : ∀ x0, (f x0).ready = s.ready) :
    (State.guarded s i f).ready = s.ready := by
  unfold State.guarded
  repeat' first
    | with_reducible rfl
    | split
    | (simp [*]; done)
    | (dsimp only; split)
    | refine (foldl_ready _ _ _ fun s x => ?_).trans ?_
    | refine (foldl_ready1 _ _ _ fun s x => ?_).trans ?_
    | (simp [*]; split)

@[simp] theorem State.switchTx_ready (s : State) (p : Nat) :
    (State.switchTx s p).ready = s.ready := by
  unfold State.switchTx
  repeat' first
    | with_reducible rfl
    | split
    | (simp [*]; done)
    | (dsimp only; split)
    | refine (foldl_ready _ _ _ fun s x => ?_).trans ?_
    | refine (foldl_ready1 _ _ _ fun s x => ?_).trans ?_
    | (simp [*]; split)

@[simp] theorem State.sendPlain_ready (s : State) (p : Nat) (f : Flit) :
    (State.sendPlain s p f).ready = s.ready := by
  unfold State.sendPlain
  repeat' first
    | with_reducible rfl
    | split
    | (simp [*]; done)
    | (dsimp only; split)
    | refine (foldl_ready _ _ _ fun s x => ?_).trans ?_
    | refine (foldl_ready1 _ _ _ fun s x => ?_).trans ?_
    | (simp [*]; split)

@[simp] theorem State.sendNew_ready (s : State) (p : Nat) (f : Flit) :
    (State.sendNew s p f).ready = s.ready := by
  unfold State.sendNew
  repeat' first
    | with_reducible rfl
    | split
    | (simp [*]; done)
    | (dsimp only; split)
    | refine (foldl_ready _ _ _ fun s x => ?_).trans ?_
    | refine (foldl_ready1 _ _ _ fun s x => ?_).trans ?_
    | (simp [*]; split)

@[simp] theorem State.sendFlits_ready (s : State) (p : Nat) (y0 : List Flit) :
    (State.sendFlits s p y0).ready = s.ready := by
  induction y0 generalizing s with
  | nil => unfold State.sendFlits; rfl
  | cons x l ih =>
    unfold State.sendFlits
    repeat' first
      | with_reducible rfl
      | split
      | (simp [*]; done)
      | (dsimp only; split)
      | refine (foldl_ready _ _ _ fun s x => ?_).trans ?_
      | refine (foldl_ready1 _ _ _ fun s x => ?_).trans ?_
      | (simp [*]; split)

@[simp] theorem State.sendPackets_ready (s : State) (p : Nat) (y0 : List (List Flit)) (y1 : List (List Flit)) :
    (State.sendPackets s p y0 y1).ready = s.ready := by
  induction y0 generalizing s y1 with
  | nil => unfold State.sendPackets; rfl
  | cons x l ih =>
    unfold State.sendPackets
    repeat' first
      | with_reducible rfl
      | split
      | (simp [*]; done)
      | (dsimp only; split)
      | refine (foldl_ready _ _ _ fun s x => ?_).trans ?_
      | refine (foldl_ready1 _ _ _ fun s x => ?_).trans ?_
      | (simp [*]; split)

@[simp] theorem State.drain_ready (s : State) (p : Nat) :
    (State.drain s p).ready = s.ready := by
  unfold State.drain
  repeat' first
    | with_reducible rfl
    | split
    | (simp [*]; done)
    | (dsimp only; split)
    | refine (foldl_ready _ _ _ fun s x => ?_).trans ?_
    | refine (foldl_ready1 _ _ _ fun s x => ?_).trans ?_
    | (simp [*]; split)

@[simp] theorem State.sendAll_ready (s : State) (p : Nat) (l : List Flit) :
    (State.sendAll s p l).ready = s.ready := by
  unfold State.sendAll
  repeat' first
    | with_reducible rfl
    | split
    | (simp [*]; done)
    | (dsimp only; split)
    | refine (foldl_ready _ _ _ fun s x => ?_).trans ?_
    | refine (foldl_ready1 _ _ _ fun s x => ?_).trans ?_
    | (simp [*]; split)

@[simp] theorem State.place_ready (s : State) (p tag : Nat) (front : Bool) (r : PortReq) :
    (State.place s p tag front r).ready = s.ready := by
  unfold State.place
  repeat' first
    | with_reducible rfl
    | split
    | (simp [*]; done)
    | (dsimp only; split)
    | refine (foldl_ready _ _ _ fun s x => ?_).trans ?_
    | refine (foldl_ready1 _ _ _ fun s x => ?_).trans ?_
    | (simp [*]; split)

@[simp] theorem State.pieceLost_ready (s : State) (key n : Nat) :
    (State.pieceLost s key n).ready = s.ready := by
  unfold State.pieceLost
  repeat' first
    | with_reducible rfl
    | split
    | (simp [*]; done)
    | (dsimp only; split)
    | refine (foldl_ready _ _ _ fun s x => ?_).trans ?_
    | refine (foldl_ready1 _ _ _ fun s x => ?_).trans ?_
    | (simp [*]; split)

@[simp] theorem State.reqLost_ready (s : State) (r : PortReq) :
    (State.reqLost s r).ready = s.ready := by
  unfold State.reqLost
  repeat' first
    | with_reducible rfl
    | split
    | (simp [*]; done)
    | (dsimp only; split)
    | refine (foldl_ready _ _ _ fun s x => ?_).trans ?_
    | refine (foldl_ready1 _ _ _ fun s x => ?_).trans ?_
    | (simp [*]; split)

@[simp] theorem State.request_ready (s : State) (r : PortReq) :
    (State.request s r).ready = s.ready := by
  unfold State.request
  repeat' first
    | with_reducible rfl
    | split
    | (simp [*]; done)
    | (dsimp only; split)
    | refine (foldl_ready _ _ _ fun s x => ?_).trans ?_
    | refine (foldl_ready1 _ _ _ fun s x => ?_).trans ?_
    | (simp [*]; split)

@[simp] theorem State.sendQueued_ready (s : State) :
    (State.sendQueued s).ready = s.ready := by
  unfold State.sendQueued
  repeat' first
    | with_reducible rfl
    | split
    | (simp [*]; done)
    | (dsimp only; split)
    | refine (foldl_ready _ _ _ fun s x => ?_).trans ?_
    | refine (foldl_ready1 _ _ _ fun s x => ?_).trans ?_
    | (simp [*]; split)

@[simp] theorem State.ask_ready (s : State) (own : List Nat) (read : Tab Word64) :
    (State.ask s own read).ready = s.ready := by
  unfold State.ask
  repeat' first
    | with_reducible rfl
    | split
    | (simp [*]; done)
    | (dsimp only; split)
    | refine (foldl_ready _ _ _ fun s x => ?_).trans ?_
    | refine (foldl_ready1 _ _ _ fun s x => ?_).trans ?_
    | (simp [*]; split)

@[simp] theorem State.settleNode_ready (s : State) :
    (State.settleNode s).ready = s.ready := by
  unfold State.settleNode
  repeat' first
    | with_reducible rfl
    | split
    | (simp [*]; done)
    | (dsimp only; split)
    | refine (foldl_ready _ _ _ fun s x => ?_).trans ?_
    | refine (foldl_ready1 _ _ _ fun s x => ?_).trans ?_
    | (simp [*]; split)

@[simp] theorem State.askFor_ready (s0 s : State) :
    (State.askFor s0 s).ready = s0.ready := by
  unfold State.askFor
  repeat' first
    | with_reducible rfl
    | split
    | (simp [*]; done)
    | (dsimp only; split)
    | refine (foldl_ready _ _ _ fun s x => ?_).trans ?_
    | refine (foldl_ready1 _ _ _ fun s x => ?_).trans ?_
    | (simp [*]; split)

@[simp] theorem State.issueVec_ready (s : State) (m : Mask) (w : Bool) (dst lat : Nat) (f : Nat → Nat × BitVec 16) :
    (State.issueVec s m w dst lat f).ready = s.ready := by
  unfold State.issueVec
  repeat' first
    | with_reducible rfl
    | split
    | (simp [*]; done)
    | (dsimp only; split)
    | refine (foldl_ready _ _ _ fun s x => ?_).trans ?_
    | refine (foldl_ready1 _ _ _ fun s x => ?_).trans ?_
    | (simp [*]; split)

@[simp] theorem State.issueSca_ready (s : State) (dst lat : Nat) (x : Word64) (bits : BitVec 16) :
    (State.issueSca s dst lat x bits).ready = s.ready := by
  unfold State.issueSca
  repeat' first
    | with_reducible rfl
    | split
    | (simp [*]; done)
    | (dsimp only; split)
    | refine (foldl_ready _ _ _ fun s x => ?_).trans ?_
    | refine (foldl_ready1 _ _ _ fun s x => ?_).trans ?_
    | (simp [*]; split)

@[simp] theorem State.issuePred_ready (s : State) (dst lat : Nat) (m bits : Mask) (sticky : List (Nat × BitVec 16)) :
    (State.issuePred s dst lat m bits sticky).ready = s.ready := by
  unfold State.issuePred
  repeat' first
    | with_reducible rfl
    | split
    | (simp [*]; done)
    | (dsimp only; split)
    | refine (foldl_ready _ _ _ fun s x => ?_).trans ?_
    | refine (foldl_ready1 _ _ _ fun s x => ?_).trans ?_
    | (simp [*]; split)

@[simp] theorem intMould_ready (i : Instr) (o : Alu) (f : Bool → Nat → Nat → Nat → Nat × BitVec 16) (s : State) :
    (intMould i o f s).ready = s.ready := by
  unfold intMould
  repeat' first
    | with_reducible rfl
    | split
    | (simp [*]; done)
    | (dsimp only; split)
    | refine (foldl_ready _ _ _ fun s x => ?_).trans ?_
    | refine (foldl_ready1 _ _ _ fun s x => ?_).trans ?_
    | (simp [*]; split)

@[simp] theorem intMould3_ready (i : Instr) (r : RFields) (f : Bool → Nat → Nat → Nat → Nat → Nat) (s : State) :
    (intMould3 i r f s).ready = s.ready := by
  unfold intMould3
  repeat' first
    | with_reducible rfl
    | split
    | (simp [*]; done)
    | (dsimp only; split)
    | refine (foldl_ready _ _ _ fun s x => ?_).trans ?_
    | refine (foldl_ready1 _ _ _ fun s x => ?_).trans ?_
    | (simp [*]; split)

@[simp] theorem floatMould_ready (i : Instr) (r : RFields) (op : Bool → FVal → FVal → FVal → Exact) (s : State) :
    (floatMould i r op s).ready = s.ready := by
  unfold floatMould
  repeat' first
    | with_reducible rfl
    | split
    | (simp [*]; done)
    | (dsimp only; split)
    | refine (foldl_ready _ _ _ fun s x => ?_).trans ?_
    | refine (foldl_ready1 _ _ _ fun s x => ?_).trans ?_
    | (simp [*]; split)

@[simp] theorem minMaxMould_ready (i : Instr) (r : RFields) (isMax : Bool) (s : State) :
    (minMaxMould i r isMax s).ready = s.ready := by
  unfold minMaxMould
  repeat' first
    | with_reducible rfl
    | split
    | (simp [*]; done)
    | (dsimp only; split)
    | refine (foldl_ready _ _ _ fun s x => ?_).trans ?_
    | refine (foldl_ready1 _ _ _ fun s x => ?_).trans ?_
    | (simp [*]; split)

@[simp] theorem specialMould_ready (i : Instr) (r : RFields) (f : Rnd → Nat → Res) (s : State) :
    (specialMould i r f s).ready = s.ready := by
  unfold specialMould
  repeat' first
    | with_reducible rfl
    | split
    | (simp [*]; done)
    | (dsimp only; split)
    | refine (foldl_ready _ _ _ fun s x => ?_).trans ?_
    | refine (foldl_ready1 _ _ _ fun s x => ?_).trans ?_
    | (simp [*]; split)

@[simp] theorem State.nodeRead_ready (s : State) (pa : Nat) :
    (State.nodeRead s pa).ready = s.ready := by
  unfold State.nodeRead
  repeat' first
    | with_reducible rfl
    | split
    | (simp [*]; done)
    | (dsimp only; split)
    | refine (foldl_ready _ _ _ fun s x => ?_).trans ?_
    | refine (foldl_ready1 _ _ _ fun s x => ?_).trans ?_
    | (simp [*]; split)

@[simp] theorem State.nodeWrite_ready (s : State) (pa ch : Nat) (b : Byte) :
    (State.nodeWrite s pa ch b).ready = s.ready := by
  unfold State.nodeWrite
  repeat' first
    | with_reducible rfl
    | split
    | (simp [*]; done)
    | (dsimp only; split)
    | refine (foldl_ready _ _ _ fun s x => ?_).trans ?_
    | refine (foldl_ready1 _ _ _ fun s x => ?_).trans ?_
    | (simp [*]; split)

@[simp] theorem State.needOwn_ready (s : State) (pa : Nat) :
    (State.needOwn s pa).ready = s.ready := by
  unfold State.needOwn
  repeat' first
    | with_reducible rfl
    | split
    | (simp [*]; done)
    | (dsimp only; split)
    | refine (foldl_ready _ _ _ fun s x => ?_).trans ?_
    | refine (foldl_ready1 _ _ _ fun s x => ?_).trans ?_
    | (simp [*]; split)

@[simp] theorem State.touch_ready (s : State) (pa : Nat) (write : Bool) :
    (State.touch s pa write).ready = s.ready := by
  unfold State.touch
  repeat' first
    | with_reducible rfl
    | split
    | (simp [*]; done)
    | (dsimp only; split)
    | refine (foldl_ready _ _ _ fun s x => ?_).trans ?_
    | refine (foldl_ready1 _ _ _ fun s x => ?_).trans ?_
    | (simp [*]; split)

@[simp] theorem State.wr_ready (s : State) (pa : Nat) (b : Byte) :
    (State.wr s pa b).ready = s.ready := by
  unfold State.wr
  repeat' first
    | with_reducible rfl
    | split
    | (simp [*]; done)
    | (dsimp only; split)
    | refine (foldl_ready _ _ _ fun s x => ?_).trans ?_
    | refine (foldl_ready1 _ _ _ fun s x => ?_).trans ?_
    | (simp [*]; split)

@[simp] theorem State.postOne_ready (s : State) :
    (State.postOne s).ready = s.ready := by
  unfold State.postOne
  repeat' first
    | with_reducible rfl
    | split
    | (simp [*]; done)
    | (dsimp only; split)
    | refine (foldl_ready _ _ _ fun s x => ?_).trans ?_
    | refine (foldl_ready1 _ _ _ fun s x => ?_).trans ?_
    | (simp [*]; split)

@[simp] theorem State.flushPosted_ready (s : State) :
    (State.flushPosted s).ready = s.ready := by
  unfold State.flushPosted
  repeat' first
    | with_reducible rfl
    | split
    | (simp [*]; done)
    | (dsimp only; split)
    | refine (foldl_ready _ _ _ fun s x => ?_).trans ?_
    | refine (foldl_ready1 _ _ _ fun s x => ?_).trans ?_
    | (simp [*]; split)

@[simp] theorem State.l2FlushByte_ready (s : State) (pa die : Nat) :
    (State.l2FlushByte s pa die).ready = s.ready := by
  unfold State.l2FlushByte
  repeat' first
    | with_reducible rfl
    | split
    | (simp [*]; done)
    | (dsimp only; split)
    | refine (foldl_ready _ _ _ fun s x => ?_).trans ?_
    | refine (foldl_ready1 _ _ _ fun s x => ?_).trans ?_
    | (simp [*]; split)

@[simp] theorem State.l2Flush_ready (s : State) (pa die : Nat) :
    (State.l2Flush s pa die).ready = s.ready := by
  unfold State.l2Flush
  repeat' first
    | with_reducible rfl
    | split
    | (simp [*]; done)
    | (dsimp only; split)
    | refine (foldl_ready _ _ _ fun s x => ?_).trans ?_
    | refine (foldl_ready1 _ _ _ fun s x => ?_).trans ?_
    | (simp [*]; split)

@[simp] theorem State.l2MoveByte_ready (s : State) (pa d e : Nat) :
    (State.l2MoveByte s pa d e).ready = s.ready := by
  unfold State.l2MoveByte
  repeat' first
    | with_reducible rfl
    | split
    | (simp [*]; done)
    | (dsimp only; split)
    | refine (foldl_ready _ _ _ fun s x => ?_).trans ?_
    | refine (foldl_ready1 _ _ _ fun s x => ?_).trans ?_
    | (simp [*]; split)

@[simp] theorem State.l2Move_ready (s : State) (pa d e : Nat) :
    (State.l2Move s pa d e).ready = s.ready := by
  unfold State.l2Move
  repeat' first
    | with_reducible rfl
    | split
    | (simp [*]; done)
    | (dsimp only; split)
    | refine (foldl_ready _ _ _ fun s x => ?_).trans ?_
    | refine (foldl_ready1 _ _ _ fun s x => ?_).trans ?_
    | (simp [*]; split)

@[simp] theorem State.l2Alone_ready (s : State) (d pa : Nat) :
    (State.l2Alone s d pa).ready = s.ready := by
  unfold State.l2Alone
  repeat' first
    | with_reducible rfl
    | split
    | (simp [*]; done)
    | (dsimp only; split)
    | refine (foldl_ready _ _ _ fun s x => ?_).trans ?_
    | refine (foldl_ready1 _ _ _ fun s x => ?_).trans ?_
    | (simp [*]; split)

@[simp] theorem State.l2None_ready (s : State) (pa : Nat) :
    (State.l2None s pa).ready = s.ready := by
  unfold State.l2None
  repeat' first
    | with_reducible rfl
    | split
    | (simp [*]; done)
    | (dsimp only; split)
    | refine (foldl_ready _ _ _ fun s x => ?_).trans ?_
    | refine (foldl_ready1 _ _ _ fun s x => ?_).trans ?_
    | (simp [*]; split)

@[simp] theorem State.devRead_ready (s : State) (die pa : Nat) :
    (State.devRead s die pa).1.ready = s.ready := by
  unfold State.devRead
  repeat' first
    | with_reducible rfl
    | split
    | (simp [*]; done)
    | (dsimp only; split)
    | refine (foldl_ready _ _ _ fun s x => ?_).trans ?_
    | refine (foldl_ready1 _ _ _ fun s x => ?_).trans ?_
    | (simp [*]; split)

@[simp] theorem State.devWrite_ready (s : State) (die pa : Nat) (b : Byte) :
    (State.devWrite s die pa b).ready = s.ready := by
  unfold State.devWrite
  repeat' first
    | with_reducible rfl
    | split
    | (simp [*]; done)
    | (dsimp only; split)
    | refine (foldl_ready _ _ _ fun s x => ?_).trans ?_
    | refine (foldl_ready1 _ _ _ fun s x => ?_).trans ?_
    | (simp [*]; split)

@[simp] theorem State.devBytes_ready (s : State) (die : Nat) (y0 : Nat) (y1 : Nat) :
    (State.devBytes s die y0 y1).1.ready = s.ready := by
  induction y0 generalizing s y1 with
  | zero => unfold State.devBytes; rfl
  | succ n ih =>
    unfold State.devBytes
    repeat' first
      | with_reducible rfl
      | split
      | (simp [*]; done)
      | (dsimp only; split)
      | refine (foldl_ready _ _ _ fun s x => ?_).trans ?_
      | refine (foldl_ready1 _ _ _ fun s x => ?_).trans ?_
      | (simp [*]; split)

@[simp] theorem State.devPut_ready (s : State) (die : Nat) (y0 : List Byte) (y1 : Nat) :
    (State.devPut s die y0 y1).ready = s.ready := by
  induction y0 generalizing s y1 with
  | nil => unfold State.devPut; rfl
  | cons x l ih =>
    unfold State.devPut
    repeat' first
      | with_reducible rfl
      | split
      | (simp [*]; done)
      | (dsimp only; split)
      | refine (foldl_ready _ _ _ fun s x => ?_).trans ?_
      | refine (foldl_ready1 _ _ _ fun s x => ?_).trans ?_
      | (simp [*]; split)

@[simp] theorem State.l1CleanByte_ready (s : State) (core pa : Nat) :
    (State.l1CleanByte s core pa).ready = s.ready := by
  unfold State.l1CleanByte
  repeat' first
    | with_reducible rfl
    | split
    | (simp [*]; done)
    | (dsimp only; split)
    | refine (foldl_ready _ _ _ fun s x => ?_).trans ?_
    | refine (foldl_ready1 _ _ _ fun s x => ?_).trans ?_
    | (simp [*]; split)

@[simp] theorem State.l1Clean_ready (s : State) (core pa : Nat) :
    (State.l1Clean s core pa).ready = s.ready := by
  unfold State.l1Clean
  repeat' first
    | with_reducible rfl
    | split
    | (simp [*]; done)
    | (dsimp only; split)
    | refine (foldl_ready _ _ _ fun s x => ?_).trans ?_
    | refine (foldl_ready1 _ _ _ fun s x => ?_).trans ?_
    | (simp [*]; split)

@[simp] theorem State.freshen_ready (s : State) (core n pa : Nat) :
    (State.freshen s core n pa).ready = s.ready := by
  unfold State.freshen
  repeat' first
    | with_reducible rfl
    | split
    | (simp [*]; done)
    | (dsimp only; split)
    | refine (foldl_ready _ _ _ fun s x => ?_).trans ?_
    | refine (foldl_ready1 _ _ _ fun s x => ?_).trans ?_
    | (simp [*]; split)

@[simp] theorem State.l1WriteBack_ready (s : State) (core : Nat) :
    (State.l1WriteBack s core).ready = s.ready := by
  unfold State.l1WriteBack
  repeat' first
    | with_reducible rfl
    | split
    | (simp [*]; done)
    | (dsimp only; split)
    | refine (foldl_ready _ _ _ fun s x => ?_).trans ?_
    | refine (foldl_ready1 _ _ _ fun s x => ?_).trans ?_
    | (simp [*]; split)

@[simp] theorem State.l1Invalidate_ready (s : State) (core : Nat) :
    (State.l1Invalidate s core).ready = s.ready := by
  unfold State.l1Invalidate
  repeat' first
    | with_reducible rfl
    | split
    | (simp [*]; done)
    | (dsimp only; split)
    | refine (foldl_ready _ _ _ fun s x => ?_).trans ?_
    | refine (foldl_ready1 _ _ _ fun s x => ?_).trans ?_
    | (simp [*]; split)

@[simp] theorem State.l2Pass_ready (s : State) (pa : Nat) :
    (State.l2Pass s pa).ready = s.ready := by
  unfold State.l2Pass
  repeat' first
    | with_reducible rfl
    | split
    | (simp [*]; done)
    | (dsimp only; split)
    | refine (foldl_ready _ _ _ fun s x => ?_).trans ?_
    | refine (foldl_ready1 _ _ _ fun s x => ?_).trans ?_
    | (simp [*]; split)

@[simp] theorem State.l2Leave_ready (s : State) (level pa : Nat) :
    (State.l2Leave s level pa).ready = s.ready := by
  unfold State.l2Leave
  repeat' first
    | with_reducible rfl
    | split
    | (simp [*]; done)
    | (dsimp only; split)
    | refine (foldl_ready _ _ _ fun s x => ?_).trans ?_
    | refine (foldl_ready1 _ _ _ fun s x => ?_).trans ?_
    | (simp [*]; split)

@[simp] theorem State.readPhys_ready (s : State) (core level pa : Nat) :
    (State.readPhys s core level pa).1.ready = s.ready := by
  unfold State.readPhys
  repeat' first
    | with_reducible rfl
    | split
    | (simp [*]; done)
    | (dsimp only; split)
    | refine (foldl_ready _ _ _ fun s x => ?_).trans ?_
    | refine (foldl_ready1 _ _ _ fun s x => ?_).trans ?_
    | (simp [*]; split)

@[simp] theorem State.homeWrite_ready (s : State) (level pa : Nat) (b : Byte) :
    (State.homeWrite s level pa b).ready = s.ready := by
  unfold State.homeWrite
  repeat' first
    | with_reducible rfl
    | split
    | (simp [*]; done)
    | (dsimp only; split)
    | refine (foldl_ready _ _ _ fun s x => ?_).trans ?_
    | refine (foldl_ready1 _ _ _ fun s x => ?_).trans ?_
    | (simp [*]; split)

@[simp] theorem State.writePhys_ready (s : State) (core level pa : Nat) (b : Byte) :
    (State.writePhys s core level pa b).ready = s.ready := by
  unfold State.writePhys
  repeat' first
    | with_reducible rfl
    | split
    | (simp [*]; done)
    | (dsimp only; split)
    | refine (foldl_ready _ _ _ fun s x => ?_).trans ?_
    | refine (foldl_ready1 _ _ _ fun s x => ?_).trans ?_
    | (simp [*]; split)

@[simp] theorem State.readByte_ready (s : State) (core level : Nat) (y0 : Loc) :
    (State.readByte s core level y0).1.ready = s.ready := by
  unfold State.readByte
  repeat' first
    | with_reducible rfl
    | split
    | (simp [*]; done)
    | (dsimp only; split)
    | refine (foldl_ready _ _ _ fun s x => ?_).trans ?_
    | refine (foldl_ready1 _ _ _ fun s x => ?_).trans ?_
    | (simp [*]; split)

@[simp] theorem State.writeByte_ready (s : State) (core level : Nat) (l : Loc) (b : Byte) :
    (State.writeByte s core level l b).ready = s.ready := by
  unfold State.writeByte
  repeat' first
    | with_reducible rfl
    | split
    | (simp [*]; done)
    | (dsimp only; split)
    | refine (foldl_ready _ _ _ fun s x => ?_).trans ?_
    | refine (foldl_ready1 _ _ _ fun s x => ?_).trans ?_
    | (simp [*]; split)

@[simp] theorem State.freshenLoc_ready (s : State) (core level n : Nat) (y0 : Loc) :
    (State.freshenLoc s core level n y0).ready = s.ready := by
  unfold State.freshenLoc
  repeat' first
    | with_reducible rfl
    | split
    | (simp [*]; done)
    | (dsimp only; split)
    | refine (foldl_ready _ _ _ fun s x => ?_).trans ?_
    | refine (foldl_ready1 _ _ _ fun s x => ?_).trans ?_
    | (simp [*]; split)

@[simp] theorem State.readBytes_ready (s : State) (core level : Nat) (y0 : Nat) (y1 : Loc) :
    (State.readBytes s core level y0 y1).1.ready = s.ready := by
  induction y0 generalizing s y1 with
  | zero => unfold State.readBytes; rfl
  | succ n ih =>
    unfold State.readBytes
    repeat' first
      | with_reducible rfl
      | split
      | (simp [*]; done)
      | (dsimp only; split)
      | refine (foldl_ready _ _ _ fun s x => ?_).trans ?_
      | refine (foldl_ready1 _ _ _ fun s x => ?_).trans ?_
      | (simp [*]; split)

@[simp] theorem State.readLoc_ready (s : State) (core level n : Nat) (l : Loc) :
    (State.readLoc s core level n l).1.ready = s.ready := by
  unfold State.readLoc
  simp

@[simp] theorem State.writeLoc_ready (s : State) (core level : Nat) (y0 : List Byte) (y1 : Loc) :
    (State.writeLoc s core level y0 y1).ready = s.ready := by
  induction y0 generalizing s y1 with
  | nil => unfold State.writeLoc; rfl
  | cons x l ih =>
    unfold State.writeLoc
    repeat' first
      | with_reducible rfl
      | split
      | (simp [*]; done)
      | (dsimp only; split)
      | refine (foldl_ready _ _ _ fun s x => ?_).trans ?_
      | refine (foldl_ready1 _ _ _ fun s x => ?_).trans ?_
      | (simp [*]; split)

@[simp] theorem State.fenceRel_ready (s : State) (core : Nat) (scope : Scope) :
    (State.fenceRel s core scope).ready = s.ready := by
  unfold State.fenceRel
  repeat' first
    | with_reducible rfl
    | split
    | with_reducible refine (State.flushPosted_ready ..).trans ?_
    | with_reducible refine (State.l1WriteBack_ready ..).trans ?_
    | with_reducible refine (State.l2Flush_ready ..).trans ?_
    | with_reducible refine (State.writes_ready ..).trans ?_
    | refine (foldl_ready _ _ _ fun s x => ?_).trans ?_
    | refine (foldl_ready1 _ _ _ fun s x => ?_).trans ?_
    | (simp [*]; done)
    | (dsimp only; split)
    | dsimp only

@[simp] theorem State.fenceAcq_ready (s : State) (core : Nat) (scope : Scope) :
    (State.fenceAcq s core scope).ready = s.ready := by
  unfold State.fenceAcq
  repeat' first
    | with_reducible rfl
    | split
    | (simp [*]; done)
    | (dsimp only; split)
    | refine (foldl_ready _ _ _ fun s x => ?_).trans ?_
    | refine (foldl_ready1 _ _ _ fun s x => ?_).trans ?_
    | (simp [*]; split)

@[simp] theorem State.fenceDo_ready (s : State) (core : Nat) (order : Order) (scope : Scope) :
    (State.fenceDo s core order scope).ready = s.ready := by
  unfold State.fenceDo
  repeat' first
    | with_reducible rfl
    | split
    | (simp [*]; done)
    | (dsimp only; split)
    | refine (foldl_ready _ _ _ fun s x => ?_).trans ?_
    | refine (foldl_ready1 _ _ _ fun s x => ?_).trans ?_
    | (simp [*]; split)

@[simp] theorem State.markAt_ready (s : State) (order : Order) (site pa : Nat) :
    (State.markAt s order site pa).ready = s.ready := by
  unfold State.markAt
  repeat' first
    | with_reducible rfl
    | split
    | (simp [*]; done)
    | (dsimp only; split)
    | refine (foldl_ready _ _ _ fun s x => ?_).trans ?_
    | refine (foldl_ready1 _ _ _ fun s x => ?_).trans ?_
    | (simp [*]; split)

@[simp] theorem State.markL2_ready (s : State) (core : Nat) (order : Order) (pa : Nat) :
    (State.markL2 s core order pa).ready = s.ready := by
  unfold State.markL2
  repeat' first
    | with_reducible rfl
    | split
    | (simp [*]; done)
    | (dsimp only; split)
    | refine (foldl_ready _ _ _ fun s x => ?_).trans ?_
    | refine (foldl_ready1 _ _ _ fun s x => ?_).trans ?_
    | (simp [*]; split)

@[simp] theorem State.markLine_ready (s : State) (core : Nat) (order : Order) (y0 : Loc) :
    (State.markLine s core order y0).ready = s.ready := by
  unfold State.markLine
  repeat' first
    | with_reducible rfl
    | split
    | (simp [*]; done)
    | (dsimp only; split)
    | refine (foldl_ready _ _ _ fun s x => ?_).trans ?_
    | refine (foldl_ready1 _ _ _ fun s x => ?_).trans ?_
    | (simp [*]; split)

@[simp] theorem State.unmark_ready (s : State) (site pa : Nat) :
    (State.unmark s site pa).ready = s.ready := by
  unfold State.unmark
  repeat' first
    | with_reducible rfl
    | split
    | (simp [*]; done)
    | (dsimp only; split)
    | refine (foldl_ready _ _ _ fun s x => ?_).trans ?_
    | refine (foldl_ready1 _ _ _ fun s x => ?_).trans ?_
    | (simp [*]; split)

@[simp] theorem State.walkFrom_ready (s : State) (die va : Nat) (y0 : Nat) (y1 : Nat) (y2 : Nat) :
    (State.walkFrom s die va y0 y1 y2).1.ready = s.ready := by
  induction y0 generalizing s y1 y2 with
  | zero => unfold State.walkFrom; rfl
  | succ n ih =>
    unfold State.walkFrom
    repeat' first
      | with_reducible rfl
      | split
      | (simp [*]; done)
      | (dsimp only; split)
      | refine (foldl_ready _ _ _ fun s x => ?_).trans ?_
      | refine (foldl_ready1 _ _ _ fun s x => ?_).trans ?_
      | (simp [*]; split)

@[simp] theorem State.walk_ready (s : State) (die c va : Nat) :
    (State.walk s die c va).1.ready = s.ready := by
  unfold State.walk
  repeat' first
    | with_reducible rfl
    | split
    | (simp [*]; done)
    | (dsimp only; split)
    | refine (foldl_ready _ _ _ fun s x => ?_).trans ?_
    | refine (foldl_ready1 _ _ _ fun s x => ?_).trans ?_
    | (simp [*]; split)

@[simp] theorem State.tlbAdd_ready (s : State) (site cap c : Nat) (l : Leaf) :
    (State.tlbAdd s site cap c l).ready = s.ready := by
  unfold State.tlbAdd
  repeat' first
    | with_reducible rfl
    | split
    | (simp [*]; done)
    | (dsimp only; split)
    | refine (foldl_ready _ _ _ fun s x => ?_).trans ?_
    | refine (foldl_ready1 _ _ _ fun s x => ?_).trans ?_
    | (simp [*]; split)

@[simp] theorem State.lookup_ready (s : State) (core c va : Nat) :
    (State.lookup s core c va).1.ready = s.ready := by
  unfold State.lookup
  repeat' first
    | with_reducible rfl
    | split
    | (simp [*]; done)
    | (dsimp only; split)
    | refine (foldl_ready _ _ _ fun s x => ?_).trans ?_
    | refine (foldl_ready1 _ _ _ fun s x => ?_).trans ?_
    | (simp [*]; split)

@[simp] theorem State.noteLane_ready (s : State) (gid lane core c va : Nat) :
    (State.noteLane s gid lane core c va).1.ready = s.ready := by
  unfold State.noteLane
  repeat' first
    | with_reducible rfl
    | split
    | (simp [*]; done)
    | (dsimp only; split)
    | refine (foldl_ready _ _ _ fun s x => ?_).trans ?_
    | refine (foldl_ready1 _ _ _ fun s x => ?_).trans ?_
    | (simp [*]; split)

@[simp] theorem State.lookupLane_ready (s : State) (gid lane core c va : Nat) :
    (State.lookupLane s gid lane core c va).1.ready = s.ready := by
  unfold State.lookupLane
  repeat' first
    | with_reducible rfl
    | split
    | (simp [*]; done)
    | (dsimp only; split)
    | refine (foldl_ready _ _ _ fun s x => ?_).trans ?_
    | refine (foldl_ready1 _ _ _ fun s x => ?_).trans ?_
    | (simp [*]; split)

@[simp] theorem State.dropTrans_ready (s : State) (hit : TlbEntry → Bool) :
    (State.dropTrans s hit).ready = s.ready := by
  unfold State.dropTrans
  repeat' first
    | with_reducible rfl
    | split
    | (simp [*]; done)
    | (dsimp only; split)
    | refine (foldl_ready _ _ _ fun s x => ?_).trans ?_
    | refine (foldl_ready1 _ _ _ fun s x => ?_).trans ?_
    | (simp [*]; split)

@[simp] theorem State.invalidate_ready (s : State) (c : Nat) (va : Option Nat) :
    (State.invalidate s c va).ready = s.ready := by
  unfold State.invalidate
  repeat' first
    | with_reducible rfl
    | split
    | (simp [*]; done)
    | (dsimp only; split)
    | refine (foldl_ready _ _ _ fun s x => ?_).trans ?_
    | refine (foldl_ready1 _ _ _ fun s x => ?_).trans ?_
    | (simp [*]; split)

@[simp] theorem State.pieceCheck_ready (s : State) (a : Agent) (t : Team) (team c o v kind : Nat) (write : Bool) :
    (State.pieceCheck s a t team c o v kind write).1.ready = s.ready := by
  unfold State.pieceCheck
  repeat' first
    | with_reducible rfl
    | split
    | (simp [*]; done)
    | (dsimp only; split)
    | refine (foldl_ready _ _ _ fun s x => ?_).trans ?_
    | refine (foldl_ready1 _ _ _ fun s x => ?_).trans ?_
    | (simp [*]; split)

@[simp] theorem State.checkLane_ready (s : State) (a : Agent) (lane : Nat) (va : Word64) (n al kind : Nat) (need : Need) :
    (State.checkLane s a lane va n al kind need).1.ready = s.ready := by
  unfold State.checkLane
  repeat' first
    | with_reducible rfl
    | split
    | (simp [*]; done)
    | (dsimp only; split)
    | refine (foldl_ready _ _ _ fun s x => ?_).trans ?_
    | refine (foldl_ready1 _ _ _ fun s x => ?_).trans ?_
    | (simp [*]; split)

@[simp] theorem State.checkEach_ready (s : State) (a : Agent) (n al kind : Nat) (need : Need) (y0 : List (Nat × Word64)) :
    (State.checkEach s a n al kind need y0).1.ready = s.ready := by
  induction y0 generalizing s with
  | nil => unfold State.checkEach; rfl
  | cons x l ih =>
    unfold State.checkEach
    repeat' first
      | with_reducible rfl
      | split
      | (simp [*]; done)
      | (dsimp only; split)
      | refine (foldl_ready _ _ _ fun s x => ?_).trans ?_
      | refine (foldl_ready1 _ _ _ fun s x => ?_).trans ?_
      | (simp [*]; split)

@[simp] theorem State.checkLanes_ready (s : State) (a : Agent) (n al kind : Nat) (need : Need) (l : List (Nat × Word64)) :
    (State.checkLanes s a n al kind need l).1.ready = s.ready := by
  unfold State.checkLanes
  repeat' first
    | with_reducible rfl
    | split
    | (simp [*]; done)
    | (dsimp only; split)
    | refine (foldl_ready _ _ _ fun s x => ?_).trans ?_
    | refine (foldl_ready1 _ _ _ fun s x => ?_).trans ?_
    | (simp [*]; split)

@[simp] theorem State.wantPieces_ready (s : State) (l : List (Nat × Nat × Nat)) :
    (State.wantPieces s l).ready = s.ready := by
  unfold State.wantPieces
  repeat' first
    | with_reducible rfl
    | split
    | (simp [*]; done)
    | (dsimp only; split)
    | refine (foldl_ready _ _ _ fun s x => ?_).trans ?_
    | refine (foldl_ready1 _ _ _ fun s x => ?_).trans ?_
    | (simp [*]; split)

@[simp] theorem State.performSpan_ready (s : State) (core : Nat) (sp : Span) :
    (State.performSpan s core sp).ready = s.ready := by
  unfold State.performSpan
  repeat' first
    | with_reducible rfl
    | split
    | (simp [*]; done)
    | (dsimp only; split)
    | refine (foldl_ready _ _ _ fun s x => ?_).trans ?_
    | refine (foldl_ready1 _ _ _ fun s x => ?_).trans ?_
    | (simp [*]; split)

@[simp] theorem State.unbrine_ready (s : State) (gid : Nat) (pas : List Nat) :
    (State.unbrine s gid pas).ready = s.ready := by
  unfold State.unbrine
  repeat' first
    | with_reducible rfl
    | split
    | (simp [*]; done)
    | (dsimp only; split)
    | simp only [State.modGroup_ready, State.modTeam_ready, State.completeOp_ready, State.setCtx_ready]
    | refine (foldl_ready _ _ _ fun s x => ?_).trans ?_
    | refine (foldl_ready1 _ _ _ fun s x => ?_).trans ?_
    | (simp [*]; split)

@[simp] theorem State.brineStore_ready (s : State) (gid n : Nat) (o : Op) (accs : List (LaneAcc × List Byte)) :
    (State.brineStore s gid n o accs).ready = s.ready := by
  unfold State.brineStore
  repeat' first
    | with_reducible rfl
    | split
    | (simp [*]; done)
    | (dsimp only; split)
    | simp only [State.modGroup_ready, State.modTeam_ready, State.completeOp_ready, State.setCtx_ready]
    | refine (foldl_ready _ _ _ fun s x => ?_).trans ?_
    | refine (foldl_ready1 _ _ _ fun s x => ?_).trans ?_
    | (simp [*]; split)

@[simp] theorem State.brinePending_ready (s : State) (gid : Nat) :
    (State.brinePending s gid).ready = s.ready := by
  unfold State.brinePending
  repeat' first
    | with_reducible rfl
    | split
    | (simp [*]; done)
    | (dsimp only; split)
    | refine (foldl_ready _ _ _ fun s x => ?_).trans ?_
    | refine (foldl_ready1 _ _ _ fun s x => ?_).trans ?_
    | (simp [*]; split)

@[simp] theorem State.nodeLost_ready (s : State) (g : Group) (n : Nat) :
    (State.nodeLost s g n).ready = s.ready := by
  unfold State.nodeLost
  repeat' first
    | with_reducible rfl
    | split
    | (simp [*]; done)
    | (dsimp only; split)
    | refine (foldl_ready _ _ _ fun s x => ?_).trans ?_
    | refine (foldl_ready1 _ _ _ fun s x => ?_).trans ?_
    | (simp [*]; split)

@[simp] theorem State.loadBytes_ready (s : State) (g : Group) (m : Nat) (o : Op) (level i : Nat) (y0 : Nat) (y1 : Loc) :
    (State.loadBytes s g m o level i y0 y1).1.ready = s.ready := by
  induction y0 generalizing s y1 with
  | zero => unfold State.loadBytes; rfl
  | succ n ih =>
    unfold State.loadBytes
    repeat' first
      | with_reducible rfl
      | split
      | (simp [*]; done)
      | (dsimp only; split)
      | refine (foldl_ready _ _ _ fun s x => ?_).trans ?_
      | refine (foldl_ready1 _ _ _ fun s x => ?_).trans ?_
      | (simp [*]; split)

@[simp] theorem State.loadLane_ready (s : State) (gid m : Nat) (o : Op) (order : Order) (scope : Scope) (n data : Nat) (form11 : Bool) (a : LaneAcc) :
    (State.loadLane s gid m o order scope n data form11 a).ready = s.ready := by
  unfold State.loadLane
  repeat' first
    | with_reducible rfl
    | split
    | (simp [*]; done)
    | (dsimp only; split)
    | refine (foldl_ready _ _ _ fun s x => ?_).trans ?_
    | refine (foldl_ready1 _ _ _ fun s x => ?_).trans ?_
    | (simp [*]; split)

@[simp] theorem State.atomicLane_ready (s : State) (gid : Nat) (o : Op) (k : AtomicKind) (order : Order) (scope : Scope) (n data : Nat) (form11 : Bool) (a : AtomicLane) :
    (State.atomicLane s gid o k order scope n data form11 a).ready = s.ready := by
  unfold State.atomicLane
  repeat' first
    | with_reducible rfl
    | split
    | (simp [*]; done)
    | (dsimp only; split)
    | refine (foldl_ready _ _ _ fun s x => ?_).trans ?_
    | refine (foldl_ready1 _ _ _ fun s x => ?_).trans ?_
    | (simp [*]; split)

@[simp] theorem State.finishAccess_ready (s : State) (gid n : Nat) (order : Order) (scope : Scope) :
    (State.finishAccess s gid n order scope).ready = s.ready := by
  unfold State.finishAccess
  repeat' first
    | with_reducible rfl
    | split
    | (simp [*]; done)
    | (dsimp only; split)
    | refine (foldl_ready _ _ _ fun s x => ?_).trans ?_
    | refine (foldl_ready1 _ _ _ fun s x => ?_).trans ?_
    | (simp [*]; split)

@[simp] theorem State.released_ready (s : State) (gid n : Nat) (o : Op) (order : Order) (scope : Scope) :
    (State.released s gid n o order scope).1.ready = s.ready := by
  unfold State.released
  repeat' first
    | with_reducible rfl
    | split
    | with_reducible refine (State.fenceRel_ready ..).trans ?_
    | with_reducible refine (State.modGroup_ready ..).trans ?_
    | refine (foldl_ready _ _ _ fun s x => ?_).trans ?_
    | refine (foldl_ready1 _ _ _ fun s x => ?_).trans ?_
    | (simp [*]; done)
    | (dsimp only; split)
    | dsimp only

@[simp] theorem State.writes_ready (s : State) (g : Group) (level : Nat) (y0 : Loc) :
    (State.writes s g level y0).ready = s.ready := by
  unfold State.writes
  repeat' first
    | with_reducible rfl
    | split
    | (simp [*]; done)
    | (dsimp only; split)
    | refine (foldl_ready _ _ _ fun s x => ?_).trans ?_
    | refine (foldl_ready1 _ _ _ fun s x => ?_).trans ?_
    | (simp [*]; split)

@[simp] theorem State.endLoad_ready (s : State) (gid n : Nat) (order : Order) (scope : Scope) :
    (State.endLoad s gid n order scope).ready = s.ready := by
  unfold State.endLoad
  repeat' first
    | with_reducible rfl
    | split
    | (simp [*]; done)
    | (dsimp only; split)
    | refine (foldl_ready _ _ _ fun s x => ?_).trans ?_
    | refine (foldl_ready1 _ _ _ fun s x => ?_).trans ?_
    | (simp [*]; split)

@[simp] theorem State.loadSome_ready (s : State) (gid n : Nat) (o : Op) (p : LaneAcc → Bool) :
    (State.loadSome s gid n o p).ready = s.ready := by
  unfold State.loadSome
  repeat' first
    | with_reducible rfl
    | split
    | with_reducible refine (State.endLoad_ready ..).trans ?_
    | with_reducible refine (State.loadLane_ready ..).trans ?_
    | with_reducible refine (State.modGroup_ready ..).trans ?_
    | refine (foldl_ready _ _ _ fun s x => ?_).trans ?_
    | refine (foldl_ready1 _ _ _ fun s x => ?_).trans ?_
    | (simp [*]; done)
    | (dsimp only; split)
    | dsimp only

@[simp] theorem State.atomicSome_ready (s : State) (gid n : Nat) (o : Op) (p : LaneAcc → Bool) :
    (State.atomicSome s gid n o p).ready = s.ready := by
  unfold State.atomicSome
  repeat' first
    | with_reducible rfl
    | split
    | with_reducible refine (State.atomicLane_ready ..).trans ?_
    | with_reducible refine (State.beginAccess_ready ..).trans ?_
    | with_reducible refine (State.finishAccess_ready ..).trans ?_
    | with_reducible refine (State.modGroup_ready ..).trans ?_
    | refine (foldl_ready _ _ _ fun s x => ?_).trans ?_
    | refine (foldl_ready1 _ _ _ fun s x => ?_).trans ?_
    | (simp [*]; done)
    | (dsimp only; split)
    | dsimp only

@[simp] theorem State.sendAtomic_ready (s : State) (gid n : Nat) (o : Op) (x : AtomicLane) :
    (State.sendAtomic s gid n o x).ready = s.ready := by
  unfold State.sendAtomic
  repeat' first
    | with_reducible rfl
    | split
    | with_reducible refine (State.cdel_ready ..).trans ?_
    | with_reducible refine (State.l1Clean_ready ..).trans ?_
    | with_reducible refine (State.l2None_ready ..).trans ?_
    | with_reducible refine (State.nodeLost_ready ..).trans ?_
    | with_reducible refine (State.released_ready ..).trans ?_
    | with_reducible refine (State.request_ready ..).trans ?_
    | with_reducible refine (State.unbrine_ready ..).trans ?_
    | refine (foldl_ready _ _ _ fun s x => ?_).trans ?_
    | refine (foldl_ready1 _ _ _ fun s x => ?_).trans ?_
    | (simp [*]; done)
    | (dsimp only; split)
    | dsimp only

@[simp] theorem State.atomicDone_ready (s : State) (a : NodeAtomic) (old : Nat) :
    (State.atomicDone s a old).ready = s.ready := by
  unfold State.atomicDone
  repeat' first
    | with_reducible rfl
    | split
    | (simp [*]; done)
    | (dsimp only; split)
    | refine (foldl_ready _ _ _ fun s x => ?_).trans ?_
    | refine (foldl_ready1 _ _ _ fun s x => ?_).trans ?_
    | (simp [*]; split)

@[simp] theorem State.arrive_ready (s : State) (gid n lane : Nat) :
    (State.arrive s gid n lane).ready = s.ready := by
  unfold State.arrive
  repeat' first
    | with_reducible rfl
    | split
    | (simp [*]; done)
    | (dsimp only; split)
    | simp only [State.modGroup_ready, State.modTeam_ready, State.completeOp_ready, State.setCtx_ready, State.finishAccess_ready, State.beginAccess_ready]
    | refine (foldl_ready _ _ _ fun s x => ?_).trans ?_
    | refine (foldl_ready1 _ _ _ fun s x => ?_).trans ?_
    | (simp [*]; split)

@[simp] theorem State.storeLanes_ready (s : State) (gid : Nat) (g : Group) (order : Order) (level : Nat) (accs : List (LaneAcc × List Byte)) :
    (State.storeLanes s gid g order level accs).ready = s.ready := by
  unfold State.storeLanes
  repeat' first
    | with_reducible rfl
    | split
    | (simp [*]; done)
    | (dsimp only; split)
    | refine (foldl_ready _ _ _ fun s x => ?_).trans ?_
    | refine (foldl_ready1 _ _ _ fun s x => ?_).trans ?_
    | (simp [*]; split)

@[simp] theorem State.performStore_ready (s : State) (gid n : Nat) :
    (State.performStore s gid n).ready = s.ready := by
  unfold State.performStore
  repeat' first
    | with_reducible rfl
    | split
    | (simp [*]; done)
    | (dsimp only; split)
    | simp only [State.modGroup_ready, State.modTeam_ready, State.completeOp_ready, State.setCtx_ready, State.markLine_ready, State.writeLoc_ready, State.beginAccess_ready]
    | refine (foldl_ready _ _ _ fun s x => ?_).trans ?_
    | refine (foldl_ready1 _ _ _ fun s x => ?_).trans ?_
    | (simp [*]; split)

@[simp] theorem State.settleBytes_ready (s : State) (gid : Nat) (l : List (Loc × Nat × Bool)) :
    (State.settleBytes s gid l).ready = s.ready := by
  unfold State.settleBytes
  repeat' first
    | with_reducible rfl
    | split
    | (simp [*]; done)
    | (dsimp only; split)
    | refine (foldl_ready _ _ _ fun s x => ?_).trans ?_
    | refine (foldl_ready1 _ _ _ fun s x => ?_).trans ?_
    | (simp [*]; split)

@[simp] theorem State.afterBytes_ready (s : State) (l : List (Loc × Nat × Bool)) (f : State → State) (h_f : ∀ x0, (f x0).ready = x0.ready) :
    (State.afterBytes s l f).ready = s.ready := by
  unfold State.afterBytes
  repeat' first
    | with_reducible rfl
    | split
    | (simp [*]; done)
    | (dsimp only; split)
    | refine (foldl_ready _ _ _ fun s x => ?_).trans ?_
    | refine (foldl_ready1 _ _ _ fun s x => ?_).trans ?_
    | (simp [*]; split)

@[simp] theorem State.afterNow_ready (s : State) (sel mer : Bool) (act : AfterAct) (apply : State → Nat → Nat → State) (h_apply : ∀ x0 x1 x2, (apply x0 x1 x2).ready = x0.ready) :
    (State.afterNow s sel mer act apply).ready = s.ready := by
  unfold State.afterNow
  repeat' first
    | with_reducible rfl
    | split
    | (simp [*]; done)
    | (dsimp only; split)
    | refine (foldl_ready _ _ _ fun s x => ?_).trans ?_
    | refine (foldl_ready1 _ _ _ fun s x => ?_).trans ?_
    | (simp [*]; split)

@[simp] theorem State.groupBytes_ready (s : State) (g : Group) (level n : Nat) (l : Loc) :
    (State.groupBytes s g level n l).1.ready = s.ready := by
  unfold State.groupBytes
  repeat' first
    | with_reducible rfl
    | split
    | (simp [*]; done)
    | (dsimp only; split)
    | refine (foldl_ready _ _ _ fun s x => ?_).trans ?_
    | refine (foldl_ready1 _ _ _ fun s x => ?_).trans ?_
    | (simp [*]; split)

@[simp] theorem State.withLanes_ready (s : State) (g : Group) (n kind : Nat) (need : Need) (l : List (Nat × Word64)) (f : State → List LaneAcc → State) (h_f : ∀ x0 x1, (f x0 x1).ready = x0.ready) :
    (State.withLanes s g n kind need l f).ready = s.ready := by
  unfold State.withLanes
  repeat' first
    | with_reducible rfl
    | split
    | (simp [*]; done)
    | (dsimp only; split)
    | refine (foldl_ready _ _ _ fun s x => ?_).trans ?_
    | refine (foldl_ready1 _ _ _ fun s x => ?_).trans ?_
    | (simp [*]; split)

@[simp] theorem atomicMould_ready (i : Instr) (x : MFields) (k : AtomicKind) (tree : Bool) (s : State) :
    (atomicMould i x k tree s).ready = s.ready := by
  unfold atomicMould
  refine State.guarded_ready _ _ _ fun g => ?_
  refine State.withLanes_ready _ _ _ _ _ _ _ fun s l => ?_
  repeat' first
    | with_reducible rfl
    | split
    | (simp [*]; done)
    | (dsimp only; split)
    | simp only [State.modGroup_ready, State.modTeam_ready, State.completeOp_ready, State.setCtx_ready]
    | refine (foldl_ready _ _ _ fun s x => ?_).trans ?_
    | refine (foldl_ready1 _ _ _ fun s x => ?_).trans ?_
    | (simp [*]; split)

@[simp] theorem State.applyFence_ready (order : Order) (scope : Scope) (s : State) (gid n : Nat) :
    (State.applyFence order scope s gid n).ready = s.ready := by
  unfold State.applyFence
  repeat' first
    | with_reducible rfl
    | split
    | (simp [*]; done)
    | (dsimp only; split)
    | refine (foldl_ready _ _ _ fun s x => ?_).trans ?_
    | refine (foldl_ready1 _ _ _ fun s x => ?_).trans ?_
    | (simp [*]; split)

@[simp] theorem State.applyAcqr_ready (victim : Nat) (s : State) (gid n : Nat) :
    (State.applyAcqr victim s gid n).ready = s.ready := by
  unfold State.applyAcqr
  repeat' first
    | with_reducible rfl
    | split
    | (simp [*]; done)
    | (dsimp only; split)
    | refine (foldl_ready _ _ _ fun s x => ?_).trans ?_
    | refine (foldl_ready1 _ _ _ fun s x => ?_).trans ?_
    | (simp [*]; split)

@[simp] theorem State.mapWriteBack_ready (s : State) (c core team i level : Nat) (only : Option Nat) :
    (State.mapWriteBack s c core team i level only).ready = s.ready := by
  unfold State.mapWriteBack
  repeat' first
    | with_reducible rfl
    | split
    | (simp [*]; done)
    | (dsimp only; split)
    | simp only [State.modGroup_ready, State.modTeam_ready, State.completeOp_ready, State.setCtx_ready]
    | refine (foldl_ready _ _ _ fun s x => ?_).trans ?_
    | refine (foldl_ready1 _ _ _ fun s x => ?_).trans ?_
    | (simp [*]; split)

@[simp] theorem State.endMapping_ready (s : State) (c core team i level : Nat) :
    (State.endMapping s c core team i level).ready = s.ready := by
  unfold State.endMapping
  repeat' first
    | with_reducible rfl
    | split
    | (simp [*]; done)
    | (dsimp only; split)
    | refine (foldl_ready _ _ _ fun s x => ?_).trans ?_
    | refine (foldl_ready1 _ _ _ fun s x => ?_).trans ?_
    | (simp [*]; split)

@[simp] theorem State.mapRelease_ready (s : State) (g : Group) (slot off : Nat) :
    (State.mapRelease s g slot off).ready = s.ready := by
  unfold State.mapRelease
  repeat' first
    | with_reducible rfl
    | split
    | (simp [*]; done)
    | (dsimp only; split)
    | refine (foldl_ready _ _ _ fun s x => ?_).trans ?_
    | refine (foldl_ready1 _ _ _ fun s x => ?_).trans ?_
    | (simp [*]; split)

@[simp] theorem State.mapEnd_ready (s : State) (g : Group) (slot off : Nat) :
    (State.mapEnd s g slot off).ready = s.ready := by
  unfold State.mapEnd
  repeat' first
    | with_reducible rfl
    | split
    | (simp [*]; done)
    | (dsimp only; split)
    | refine (foldl_ready _ _ _ fun s x => ?_).trans ?_
    | refine (foldl_ready1 _ _ _ fun s x => ?_).trans ?_
    | (simp [*]; split)

@[simp] theorem State.applyStwb_ready (slot off : Nat) (scope : Scope) (drop : Bool) (s : State) (gid n : Nat) :
    (State.applyStwb slot off scope drop s gid n).ready = s.ready := by
  unfold State.applyStwb
  repeat' first
    | with_reducible rfl
    | split
    | (simp [*]; done)
    | (dsimp only; split)
    | refine (foldl_ready _ _ _ fun s x => ?_).trans ?_
    | refine (foldl_ready1 _ _ _ fun s x => ?_).trans ?_
    | (simp [*]; split)

@[simp] theorem stwbMould_ready (i : Instr) (x : MFields) (drop : Bool) (s : State) :
    (stwbMould i x drop s).ready = s.ready := by
  unfold stwbMould
  refine State.guarded_ready _ _ _ fun g => ?_
  repeat' first
    | with_reducible rfl
    | split
    | (simp [*]; done)
    | (dsimp only; split)
    | simp only [State.modGroup_ready, State.modTeam_ready, State.completeOp_ready, State.setCtx_ready, State.advance_ready]
    | refine (foldl_ready _ _ _ fun s x => ?_).trans ?_
    | refine (foldl_ready1 _ _ _ fun s x => ?_).trans ?_
    | (simp [*]; split)

@[simp] theorem State.regionFault_ready (s : State) (a : Agent) (rw : Bool) (cf : Option (Nat × Nat × Nat)) (y0 : List Nat) :
    (State.regionFault s a rw cf y0).1.ready = s.ready := by
  induction y0 generalizing s cf with
  | nil => unfold State.regionFault; rfl
  | cons x l ih =>
    unfold State.regionFault
    repeat' first
      | with_reducible rfl
      | split
      | (simp [*]; done)
      | (dsimp only; split)
      | refine (foldl_ready _ _ _ fun s x => ?_).trans ?_
      | refine (foldl_ready1 _ _ _ fun s x => ?_).trans ?_
      | (simp [*]; split)

@[simp] theorem State.addMapping_ready (s : State) (c core team : Nat) (m : Mapping) :
    (State.addMapping s c core team m).ready = s.ready := by
  unfold State.addMapping
  repeat' first
    | with_reducible rfl
    | split
    | (simp [*]; done)
    | (dsimp only; split)
    | simp only [State.modGroup_ready, State.modTeam_ready, State.completeOp_ready, State.setCtx_ready, State.endMapping_ready]
    | refine (foldl_ready _ _ _ fun s x => ?_).trans ?_
    | refine (foldl_ready1 _ _ _ fun s x => ?_).trans ?_
    | (simp [*]; split)

@[simp] theorem State.completeWait_ready (s : State) (gid n : Nat) (scope : Scope) (clock : BitVec 48) :
    (State.completeWait s gid n scope clock).ready = s.ready := by
  unfold State.completeWait
  repeat' first
    | with_reducible rfl
    | split
    | (simp [*]; done)
    | (dsimp only; split)
    | refine (foldl_ready _ _ _ fun s x => ?_).trans ?_
    | refine (foldl_ready1 _ _ _ fun s x => ?_).trans ?_
    | (simp [*]; split)

@[simp] theorem State.completeWhere_ready (s : State) (p : Nat → Group → Op → Bool) (scope : Scope) (clock : BitVec 48) :
    (State.completeWhere s p scope clock).ready = s.ready := by
  unfold State.completeWhere
  repeat' first
    | with_reducible rfl
    | split
    | (simp [*]; done)
    | (dsimp only; split)
    | refine (foldl_ready _ _ _ fun s x => ?_).trans ?_
    | refine (foldl_ready1 _ _ _ fun s x => ?_).trans ?_
    | (simp [*]; split)

@[simp] theorem State.barSettleTo_ready (s : State) (now core bar : Nat) :
    (State.barSettleTo s now core bar).ready = s.ready := by
  unfold State.barSettleTo
  repeat' first
    | with_reducible rfl
    | split
    | (simp [*]; done)
    | (dsimp only; split)
    | refine (foldl_ready _ _ _ fun s x => ?_).trans ?_
    | refine (foldl_ready1 _ _ _ fun s x => ?_).trans ?_
    | (simp [*]; split)

@[simp] theorem State.barSettle_ready (s : State) (core bar : Nat) :
    (State.barSettle s core bar).ready = s.ready := by
  unfold State.barSettle
  repeat' first
    | with_reducible rfl
    | split
    | (simp [*]; done)
    | (dsimp only; split)
    | refine (foldl_ready _ _ _ fun s x => ?_).trans ?_
    | refine (foldl_ready1 _ _ _ fun s x => ?_).trans ?_
    | (simp [*]; split)

@[simp] theorem State.endBars_ready (s : State) (now : Nat) :
    (State.endBars s now).ready = s.ready := by
  unfold State.endBars
  repeat' first
    | with_reducible rfl
    | split
    | (simp [*]; done)
    | (dsimp only; split)
    | refine (foldl_ready _ _ _ fun s x => ?_).trans ?_
    | refine (foldl_ready1 _ _ _ fun s x => ?_).trans ?_
    | (simp [*]; split)

@[simp] theorem State.barFault_ready (s : State) :
    (State.barFault s).ready = s.ready := by
  unfold State.barFault
  repeat' first
    | with_reducible rfl
    | split
    | (simp [*]; done)
    | (dsimp only; split)
    | refine (foldl_ready _ _ _ fun s x => ?_).trans ?_
    | refine (foldl_ready1 _ _ _ fun s x => ?_).trans ?_
    | (simp [*]; split)

@[simp] theorem State.applyBara_ready (core bar w sb : Nat) (s : State) (gid n : Nat) :
    (State.applyBara core bar w sb s gid n).ready = s.ready := by
  unfold State.applyBara
  repeat' first
    | with_reducible rfl
    | split
    | (simp [*]; done)
    | (dsimp only; split)
    | refine (foldl_ready _ _ _ fun s x => ?_).trans ?_
    | refine (foldl_ready1 _ _ _ fun s x => ?_).trans ?_
    | (simp [*]; split)

@[simp] theorem State.applyBarx_ready (core bar w : Nat) (s : State) (gid n : Nat) :
    (State.applyBarx core bar w s gid n).ready = s.ready := by
  unfold State.applyBarx
  repeat' first
    | with_reducible rfl
    | split
    | (simp [*]; done)
    | (dsimp only; split)
    | refine (foldl_ready _ _ _ fun s x => ?_).trans ?_
    | refine (foldl_ready1 _ _ _ fun s x => ?_).trans ?_
    | (simp [*]; split)

@[simp] theorem barMould_ready (i : Instr) (q : QFields) (f : State → Group → Nat → State) (s : State) (h_f : ∀ x0 x1 x2, (f x0 x1 x2).ready = x0.ready) :
    (barMould i q f s).ready = s.ready := by
  unfold barMould
  refine State.guarded_ready _ _ _ fun g => ?_
  repeat' first
    | with_reducible rfl
    | split
    | (simp [*]; done)
    | (dsimp only; split)
    | simp only [State.modGroup_ready, State.modTeam_ready, State.completeOp_ready, State.setCtx_ready]
    | refine (foldl_ready _ _ _ fun s x => ?_).trans ?_
    | refine (foldl_ready1 _ _ _ fun s x => ?_).trans ?_
    | (simp [*]; split)

@[simp] theorem State.tbarDecide_ready (s : State) (team tb : Nat) (clock : BitVec 48) :
    (State.tbarDecide s team tb clock).ready = s.ready := by
  unfold State.tbarDecide
  repeat' first
    | with_reducible rfl
    | split
    | (simp [*]; done)
    | (dsimp only; split)
    | refine (foldl_ready _ _ _ fun s x => ?_).trans ?_
    | refine (foldl_ready1 _ _ _ fun s x => ?_).trans ?_
    | (simp [*]; split)

@[simp] theorem State.applyTbar_ready (tb : Nat) (token : Option Nat) (s : State) (gid n : Nat) :
    (State.applyTbar tb token s gid n).ready = s.ready := by
  unfold State.applyTbar
  repeat' first
    | with_reducible rfl
    | split
    | (simp [*]; done)
    | (dsimp only; split)
    | refine (foldl_ready _ _ _ fun s x => ?_).trans ?_
    | refine (foldl_ready1 _ _ _ fun s x => ?_).trans ?_
    | (simp [*]; split)

@[simp] theorem State.codeAt_ready (s : State) (a : Agent) (va : Word64) :
    (State.codeAt s a va).1.ready = s.ready := by
  unfold State.codeAt
  repeat' first
    | with_reducible rfl
    | split
    | (simp [*]; done)
    | (dsimp only; split)
    | refine (foldl_ready _ _ _ fun s x => ?_).trans ?_
    | refine (foldl_ready1 _ _ _ fun s x => ?_).trans ?_
    | (simp [*]; split)

@[simp] theorem State.codeWords_ready (s : State) (a : Agent) (y0 : Nat) (y1 : Word64) :
    (State.codeWords s a y0 y1).1.ready = s.ready := by
  induction y0 generalizing s y1 with
  | zero => unfold State.codeWords; rfl
  | succ n ih =>
    unfold State.codeWords
    repeat' first
      | with_reducible rfl
      | split
      | (simp [*]; done)
      | (dsimp only; split)
      | refine (foldl_ready _ _ _ fun s x => ?_).trans ?_
      | refine (foldl_ready1 _ _ _ fun s x => ?_).trans ?_
      | (simp [*]; split)

@[simp] theorem State.issueTransfer_ready (s : State) (counted : Bool) (tr : Transfer) :
    (State.issueTransfer s counted tr).ready = s.ready := by
  unfold State.issueTransfer
  repeat' first
    | with_reducible rfl
    | split
    | (simp [*]; done)
    | (dsimp only; split)
    | refine (foldl_ready _ _ _ fun s x => ?_).trans ?_
    | refine (foldl_ready1 _ _ _ fun s x => ?_).trans ?_
    | (simp [*]; split)

@[simp] theorem brxMould_ready (i : Instr) (x : XFields) (call : Bool) (s : State) :
    (brxMould i x call s).ready = s.ready := by
  unfold brxMould
  repeat' first
    | with_reducible rfl
    | split
    | (simp [*]; done)
    | (dsimp only; split)
    | refine (foldl_ready _ _ _ fun s x => ?_).trans ?_
    | refine (foldl_ready1 _ _ _ fun s x => ?_).trans ?_
    | (simp [*]; split)

@[simp] theorem rteMould_ready (i : Instr) (skip : Bool) (s : State) :
    (rteMould i skip s).ready = s.ready := by
  unfold rteMould
  repeat' first
    | with_reducible rfl
    | split
    | (simp [*]; done)
    | (dsimp only; split)
    | refine (foldl_ready _ _ _ fun s x => ?_).trans ?_
    | refine (foldl_ready1 _ _ _ fun s x => ?_).trans ?_
    | (simp [*]; split)

@[simp] theorem State.predUpdate_ready (s : State) (g : Group) (k : Nat) (pc : Word64) (t : Mask) :
    (State.predUpdate s g k pc t).ready = s.ready := by
  unfold State.predUpdate
  repeat' first
    | with_reducible rfl
    | split
    | (simp [*]; done)
    | (dsimp only; split)
    | refine (foldl_ready _ _ _ fun s x => ?_).trans ?_
    | refine (foldl_ready1 _ _ _ fun s x => ?_).trans ?_
    | (simp [*]; split)

@[simp] theorem State.trapTransfer_ready (s : State) (gid k : Nat) (tr : Transfer) (code : BitVec 8) (einfo : Word64) (lanes : Mask) (faddr : List (Nat × Word64)) :
    (State.trapTransfer s gid k tr code einfo lanes faddr).ready = s.ready := by
  unfold State.trapTransfer
  repeat' first
    | with_reducible rfl
    | split
    | (simp [*]; done)
    | (dsimp only; split)
    | refine (foldl_ready _ _ _ fun s x => ?_).trans ?_
    | refine (foldl_ready1 _ _ _ fun s x => ?_).trans ?_
    | (simp [*]; split)

@[simp] theorem State.linkResult_ready (s : State) (gid k : Nat) (tr : Transfer) :
    (State.linkResult s gid k tr).ready = s.ready := by
  unfold State.linkResult
  repeat' first
    | with_reducible rfl
    | split
    | (simp [*]; done)
    | (dsimp only; split)
    | refine (foldl_ready _ _ _ fun s x => ?_).trans ?_
    | refine (foldl_ready1 _ _ _ fun s x => ?_).trans ?_
    | (simp [*]; split)

@[simp] theorem State.applyTransfer_ready (s : State) (gid k : Nat) (g : Group) (tr : Transfer) (f : Word64) (rest link : Bool) (lanes : Mask) :
    (State.applyTransfer s gid k g tr f rest link lanes).ready = s.ready := by
  unfold State.applyTransfer
  repeat' first
    | with_reducible rfl
    | split
    | (simp [*]; done)
    | (dsimp only; split)
    | refine (foldl_ready _ _ _ fun s x => ?_).trans ?_
    | refine (foldl_ready1 _ _ _ fun s x => ?_).trans ?_
    | (simp [*]; split)

@[simp] theorem State.landing_ready (s : State) (a : Agent) (t : Word64) (tag : BitVec 8) :
    (State.landing s a t tag).1.ready = s.ready := by
  unfold State.landing
  repeat' first
    | with_reducible rfl
    | split
    | (simp [*]; done)
    | (dsimp only; split)
    | refine (foldl_ready _ _ _ fun s x => ?_).trans ?_
    | refine (foldl_ready1 _ _ _ fun s x => ?_).trans ?_
    | (simp [*]; split)

@[simp] theorem State.resolve_ready (s : State) (gid k : Nat) (g : Group) (tr : Transfer) :
    (State.resolve s gid k g tr).ready = s.ready := by
  unfold State.resolve
  repeat' first
    | with_reducible rfl
    | split
    | (simp [*]; done)
    | (dsimp only; split)
    | refine (foldl_ready _ _ _ fun s x => ?_).trans ?_
    | refine (foldl_ready1 _ _ _ fun s x => ?_).trans ?_
    | (simp [*]; split)

@[simp] theorem State.haltSlot_ready (s : State) (gid k : Nat) :
    (State.haltSlot s gid k).ready = s.ready := by
  unfold State.haltSlot
  repeat' first
    | with_reducible rfl
    | split
    | (simp [*]; done)
    | (dsimp only; split)
    | refine (foldl_ready _ _ _ fun s x => ?_).trans ?_
    | refine (foldl_ready1 _ _ _ fun s x => ?_).trans ?_
    | (simp [*]; split)

@[simp] theorem State.repairHalf_ready (s : State) (gid : Nat) (x : Side) (h : Half) :
    (State.repairHalf s gid x h).ready = s.ready := by
  unfold State.repairHalf
  repeat' first
    | with_reducible rfl
    | split
    | (simp [*]; done)
    | (dsimp only; split)
    | refine (foldl_ready _ _ _ fun s x => ?_).trans ?_
    | refine (foldl_ready1 _ _ _ fun s x => ?_).trans ?_
    | (simp [*]; split)

@[simp] theorem State.specOverflow_ready (s : State) (gid : Nat) (sp : Spec) (depth : Nat) :
    (State.specOverflow s gid sp depth).ready = s.ready := by
  unfold State.specOverflow
  repeat' first
    | with_reducible rfl
    | split
    | (simp [*]; done)
    | (dsimp only; split)
    | simp only [State.modGroup_ready, State.modTeam_ready, State.completeOp_ready, State.setCtx_ready, State.raiseTrap_ready, State.trapClause_ready, State.trapTransfer_ready]
    | refine (foldl_ready _ _ _ fun s x => ?_).trans ?_
    | refine (foldl_ready1 _ _ _ fun s x => ?_).trans ?_
    | (simp [*]; split)

@[simp] theorem State.fetchClause_ready (s : State) (gid k : Nat) (g : Group) (pc : Word64) :
    (State.fetchClause s gid k g pc).1.ready = s.ready := by
  unfold State.fetchClause
  repeat' first
    | with_reducible rfl
    | split
    | (simp [*]; done)
    | (dsimp only; split)
    | refine (foldl_ready _ _ _ fun s x => ?_).trans ?_
    | refine (foldl_ready1 _ _ _ fun s x => ?_).trans ?_
    | (simp [*]; split)

@[simp] theorem State.remain_ready (s : State) (core : Nat) (scope : Scope) (obj : Loc) :
    (State.remain s core scope obj).1.ready = s.ready := by
  unfold State.remain
  repeat' first
    | with_reducible rfl
    | split
    | (simp [*]; done)
    | (dsimp only; split)
    | refine (foldl_ready _ _ _ fun s x => ?_).trans ?_
    | refine (foldl_ready1 _ _ _ fun s x => ?_).trans ?_
    | (simp [*]; split)

@[simp] theorem State.makeRoom_ready (s : State) (part gid : Nat) (y0 : Nat) :
    (State.makeRoom s part gid y0).ready = s.ready := by
  induction y0 generalizing s with
  | zero => unfold State.makeRoom; rfl
  | succ n ih =>
    unfold State.makeRoom
    repeat' first
      | with_reducible rfl
      | split
      | (simp [*]; done)
      | (dsimp only; split)
      | refine (foldl_ready _ _ _ fun s x => ?_).trans ?_
      | refine (foldl_ready1 _ _ _ fun s x => ?_).trans ?_
      | (simp [*]; split)

@[simp] theorem State.useLines_ready (s : State) (part gid : Nat) (lines : List Nat) :
    (State.useLines s part gid lines).ready = s.ready := by
  unfold State.useLines
  repeat' first
    | with_reducible rfl
    | split
    | (simp [*]; done)
    | (dsimp only; split)
    | refine (foldl_ready _ _ _ fun s x => ?_).trans ?_
    | refine (foldl_ready1 _ _ _ fun s x => ?_).trans ?_
    | (simp [*]; split)

@[simp] theorem State.liftBars_ready (s : State) (part gid : Nat) :
    (State.liftBars s part gid).ready = s.ready := by
  unfold State.liftBars
  repeat' first
    | with_reducible rfl
    | split
    | (simp [*]; done)
    | (dsimp only; split)
    | refine (foldl_ready _ _ _ fun s x => ?_).trans ?_
    | refine (foldl_ready1 _ _ _ fun s x => ?_).trans ?_
    | (simp [*]; split)

@[simp] theorem State.raiseRefusal_ready (s : State) (gid : Nat) (r : Refusal285) (req : TrapReq) :
    (State.raiseRefusal s gid r req).ready = s.ready := by
  unfold State.raiseRefusal
  repeat' first
    | with_reducible rfl
    | split
    | (simp [*]; done)
    | (dsimp only; split)
    | refine (foldl_ready _ _ _ fun s x => ?_).trans ?_
    | refine (foldl_ready1 _ _ _ fun s x => ?_).trans ?_
    | (simp [*]; split)

@[simp] theorem State.startClause_ready (s : State) (gid : Nat) (g : Group) (k cs : Nat) :
    (State.startClause s gid g k cs).ready = s.ready := by
  unfold State.startClause
  repeat' first
    | with_reducible rfl
    | split
    | (simp [*]; done)
    | (dsimp only; split)
    | refine (foldl_ready _ _ _ fun s x => ?_).trans ?_
    | refine (foldl_ready1 _ _ _ fun s x => ?_).trans ?_
    | (simp [*]; split)

@[simp] theorem State.countDown_ready (s : State) (core : Nat) (scope : Scope) (obj : Loc) (c e : Nat) (clock : BitVec 48) :
    (State.countDown s core scope obj c e clock).ready = s.ready := by
  unfold State.countDown
  repeat' first
    | with_reducible rfl
    | split
    | (simp [*]; done)
    | (dsimp only; split)
    | refine (foldl_ready _ _ _ fun s x => ?_).trans ?_
    | refine (foldl_ready1 _ _ _ fun s x => ?_).trans ?_
    | (simp [*]; split)

@[simp] theorem State.checkObj_ready (s : State) (a : Agent) (scope : Scope) (va : Word64) (kind : Nat) :
    (State.checkObj s a scope va kind).1.ready = s.ready := by
  unfold State.checkObj
  repeat' first
    | with_reducible rfl
    | split
    | (simp [*]; done)
    | (dsimp only; split)
    | refine (foldl_ready _ _ _ fun s x => ?_).trans ?_
    | refine (foldl_ready1 _ _ _ fun s x => ?_).trans ?_
    | (simp [*]; split)

@[simp] theorem State.checkRec_ready (s : State) (a : Agent) (va : Word64) :
    (State.checkRec s a va).1.ready = s.ready := by
  unfold State.checkRec
  repeat' first
    | with_reducible rfl
    | split
    | (simp [*]; done)
    | (dsimp only; split)
    | refine (foldl_ready _ _ _ fun s x => ?_).trans ?_
    | refine (foldl_ready1 _ _ _ fun s x => ?_).trans ?_
    | (simp [*]; split)

@[simp] theorem State.checkRecs_ready (s : State) (a : Agent) (y0 : Nat) (y1 : Word64) :
    (State.checkRecs s a y0 y1).1.ready = s.ready := by
  induction y0 generalizing s y1 with
  | zero => unfold State.checkRecs; rfl
  | succ n ih =>
    unfold State.checkRecs
    repeat' first
      | with_reducible rfl
      | split
      | (simp [*]; done)
      | (dsimp only; split)
      | refine (foldl_ready _ _ _ fun s x => ?_).trans ?_
      | refine (foldl_ready1 _ _ _ fun s x => ?_).trans ?_
      | (simp [*]; split)

@[simp] theorem State.queueJobs_ready (s : State) (gid op : Nat) (g : Group) (user : Bool) (clock : BitVec 48) (l : List CopyRec) :
    (State.queueJobs s gid op g user clock l).ready = s.ready := by
  unfold State.queueJobs
  repeat' first
    | with_reducible rfl
    | split
    | (simp [*]; done)
    | (dsimp only; split)
    | refine (foldl_ready _ _ _ fun s x => ?_).trans ?_
    | refine (foldl_ready1 _ _ _ fun s x => ?_).trans ?_
    | (simp [*]; split)

@[simp] theorem State.recStop_ready (s : State) (e : RecRes) :
    (State.recStop s e).ready = s.ready := by
  unfold State.recStop
  repeat' first
    | with_reducible rfl
    | split
    | (simp [*]; done)
    | (dsimp only; split)
    | refine (foldl_ready _ _ _ fun s x => ?_).trans ?_
    | refine (foldl_ready1 _ _ _ fun s x => ?_).trans ?_
    | (simp [*]; split)

@[simp] theorem State.acceptNext_ready (s : State) (core : Nat) :
    (State.acceptNext s core).ready = s.ready := by
  unfold State.acceptNext
  repeat' first
    | with_reducible rfl
    | split
    | (simp [*]; done)
    | (dsimp only; split)
    | refine (foldl_ready _ _ _ fun s x => ?_).trans ?_
    | refine (foldl_ready1 _ _ _ fun s x => ?_).trans ?_
    | (simp [*]; split)

@[simp] theorem State.engLoc_ready (s : State) (j : CopyJob) (va n : Nat) (write : Bool) :
    (State.engLoc s j va n write).1.ready = s.ready := by
  unfold State.engLoc
  repeat' first
    | with_reducible rfl
    | split
    | (simp [*]; done)
    | (dsimp only; split)
    | refine (foldl_ready _ _ _ fun s x => ?_).trans ?_
    | refine (foldl_ready1 _ _ _ fun s x => ?_).trans ?_
    | (simp [*]; split)

@[simp] theorem State.nodePut_ready (s : State) (core key pa : Nat) (b : List Byte) :
    (State.nodePut s core key pa b).ready = s.ready := by
  unfold State.nodePut
  split
  · rfl
  · dsimp only
    rw [State.request_ready]
    exact foldl_ready _ _ _ fun s x => foldl_ready _ _ _ fun s x => rfl

@[simp] theorem State.engRead_ready (s : State) (j : CopyJob) (va n : Nat) :
    (State.engRead s j va n).1.ready = s.ready := by
  unfold State.engRead
  repeat' first
    | with_reducible rfl
    | split
    | (simp [*]; done)
    | (dsimp only; split)
    | refine (foldl_ready _ _ _ fun s x => ?_).trans ?_
    | refine (foldl_ready1 _ _ _ fun s x => ?_).trans ?_
    | (simp [*]; split)

@[simp] theorem State.movePiece_ready (s : State) (key : Nat) (j : CopyJob) :
    (State.movePiece s key j).1.ready = s.ready := by
  unfold State.movePiece
  repeat' first
    | with_reducible rfl
    | split
    | (simp [*]; done)
    | (dsimp only; split)
    | refine (foldl_ready _ _ _ fun s x => ?_).trans ?_
    | refine (foldl_ready1 _ _ _ fun s x => ?_).trans ?_
    | (simp [*]; split)

@[simp] theorem State.jobDone_ready (s : State) (key n : Nat) (j : CopyJob) :
    (State.jobDone s key n j).ready = s.ready := by
  unfold State.jobDone
  repeat' first
    | with_reducible rfl
    | split
    | (simp [*]; done)
    | (dsimp only; split)
    | refine (foldl_ready _ _ _ fun s x => ?_).trans ?_
    | refine (foldl_ready1 _ _ _ fun s x => ?_).trans ?_
    | (simp [*]; split)

@[simp] theorem State.countPiece_ready (s : State) (key n e : Nat) (j : CopyJob) :
    (State.countPiece s key n e j).ready = s.ready := by
  unfold State.countPiece
  repeat' first
    | with_reducible rfl
    | split
    | (simp [*]; done)
    | (dsimp only; split)
    | refine (foldl_ready _ _ _ fun s x => ?_).trans ?_
    | refine (foldl_ready1 _ _ _ fun s x => ?_).trans ?_
    | (simp [*]; split)

@[simp] theorem State.pieceStep_ready (s : State) (key : Nat) (j : CopyJob) :
    (State.pieceStep s key j).ready = s.ready := by
  unfold State.pieceStep
  repeat' first
    | with_reducible rfl
    | split
    | (simp [*]; done)
    | (dsimp only; split)
    | refine (foldl_ready _ _ _ fun s x => ?_).trans ?_
    | refine (foldl_ready1 _ _ _ fun s x => ?_).trans ?_
    | (simp [*]; split)

@[simp] theorem State.withObj_ready (s : State) (g : Group) (q : QFields) (f : State → LaneAcc → State) (h_f : ∀ x0 x1, (f x0 x1).ready = x0.ready) :
    (State.withObj s g q f).ready = s.ready := by
  unfold State.withObj
  repeat' first
    | with_reducible rfl
    | split
    | (simp [*]; done)
    | (dsimp only; split)
    | refine (foldl_ready _ _ _ fun s x => ?_).trans ?_
    | refine (foldl_ready1 _ _ _ fun s x => ?_).trans ?_
    | (simp [*]; split)

@[simp] theorem State.pollObj_ready (s : State) (gid op : Nat) :
    (State.pollObj s gid op).ready = s.ready := by
  unfold State.pollObj
  repeat' first
    | with_reducible rfl
    | split
    | (simp [*]; done)
    | (dsimp only; split)
    | refine (foldl_ready _ _ _ fun s x => ?_).trans ?_
    | refine (foldl_ready1 _ _ _ fun s x => ?_).trans ?_
    | (simp [*]; split)

@[simp] theorem State.prefetch_ready (s : State) (j : PfbJob) (va : Nat) :
    (State.prefetch s j va).1.ready = s.ready := by
  unfold State.prefetch
  repeat' first
    | with_reducible rfl
    | split
    | (simp [*]; done)
    | (dsimp only; split)
    | refine (foldl_ready _ _ _ fun s x => ?_).trans ?_
    | refine (foldl_ready1 _ _ _ fun s x => ?_).trans ?_
    | (simp [*]; split)

@[simp] theorem State.fieldPage_ready (s : State) (ctx : Nat) (va : Word64) :
    (State.fieldPage s ctx va).1.ready = s.ready := by
  unfold State.fieldPage
  repeat' first
    | with_reducible rfl
    | split
    | (simp [*]; done)
    | (dsimp only; split)
    | refine (foldl_ready _ _ _ fun s x => ?_).trans ?_
    | refine (foldl_ready1 _ _ _ fun s x => ?_).trans ?_
    | (simp [*]; split)

@[simp] theorem State.cellRead_ready (s : State) (n pa : Nat) :
    (State.cellRead s n pa).1.ready = s.ready := by
  unfold State.cellRead
  repeat' first
    | with_reducible rfl
    | split
    | (simp [*]; done)
    | (dsimp only; split)
    | refine (foldl_ready _ _ _ fun s x => ?_).trans ?_
    | refine (foldl_ready1 _ _ _ fun s x => ?_).trans ?_
    | (simp [*]; split)

@[simp] theorem State.cellWrite_ready (s : State) (n pa : Nat) (x : Int) :
    (State.cellWrite s n pa x).ready = s.ready := by
  unfold State.cellWrite
  repeat' first
    | with_reducible rfl
    | split
    | (simp [*]; done)
    | (dsimp only; split)
    | refine (foldl_ready _ _ _ fun s x => ?_).trans ?_
    | refine (foldl_ready1 _ _ _ fun s x => ?_).trans ?_
    | (simp [*]; split)

@[simp] theorem State.modDomain_ready (s : State) (ctx d : Nat) (f : Domain → Domain) :
    (State.modDomain s ctx d f).ready = s.ready := by
  unfold State.modDomain
  repeat' first
    | with_reducible rfl
    | split
    | (simp [*]; done)
    | (dsimp only; split)
    | refine (foldl_ready _ _ _ fun s x => ?_).trans ?_
    | refine (foldl_ready1 _ _ _ fun s x => ?_).trans ?_
    | (simp [*]; split)

@[simp] theorem State.cellAdd_ready (s : State) (ctx : Nat) (f : Field) (i pa : Nat) (x : Int) :
    (State.cellAdd s ctx f i pa x).ready = s.ready := by
  unfold State.cellAdd
  repeat' first
    | with_reducible rfl
    | split
    | (simp [*]; done)
    | (dsimp only; split)
    | refine (foldl_ready _ _ _ fun s x => ?_).trans ?_
    | refine (foldl_ready1 _ _ _ fun s x => ?_).trans ?_
    | (simp [*]; split)

@[simp] theorem State.checkCells_ready (s : State) (a : Agent) (lane : Nat) (f : Field) (y0 : List Nat) :
    (State.checkCells s a lane f y0).1.ready = s.ready := by
  induction y0 generalizing s with
  | nil => unfold State.checkCells; rfl
  | cons x l ih =>
    unfold State.checkCells
    repeat' first
      | with_reducible rfl
      | split
      | (simp [*]; done)
      | (dsimp only; split)
      | refine (foldl_ready _ _ _ fun s x => ?_).trans ?_
      | refine (foldl_ready1 _ _ _ fun s x => ?_).trans ?_
      | (simp [*]; split)

@[simp] theorem State.checkTxf_ready (s : State) (a : Agent) (f : Option Field) (cells : Nat → List Nat) (lanes : List Nat) :
    (State.checkTxf s a f cells lanes).1.ready = s.ready := by
  unfold State.checkTxf
  repeat' first
    | with_reducible rfl
    | split
    | (simp [*]; done)
    | (dsimp only; split)
    | refine (foldl_ready _ _ _ fun s x => ?_).trans ?_
    | refine (foldl_ready1 _ _ _ fun s x => ?_).trans ?_
    | (simp [*]; split)

@[simp] theorem State.laneDone_ready (s : State) (p : Pair) (refused : Option Nat) (c : Nat) :
    (State.laneDone s p refused c).ready = s.ready := by
  unfold State.laneDone
  repeat' first
    | with_reducible rfl
    | split
    | (simp [*]; done)
    | (dsimp only; split)
    | refine (foldl_ready _ _ _ fun s x => ?_).trans ?_
    | refine (foldl_ready1 _ _ _ fun s x => ?_).trans ?_
    | (simp [*]; split)

@[simp] theorem State.holdReturn_ready (s : State) (p : Pair) (f : Field) (amt : Nat) :
    (State.holdReturn s p f amt).ready = s.ready := by
  unfold State.holdReturn
  repeat' first
    | with_reducible rfl
    | split
    | (simp [*]; done)
    | (dsimp only; split)
    | refine (foldl_ready _ _ _ fun s x => ?_).trans ?_
    | refine (foldl_ready1 _ _ _ fun s x => ?_).trans ?_
    | (simp [*]; split)

@[simp] theorem State.applyPair_ready (s : State) (p : Pair) :
    (State.applyPair s p).ready = s.ready := by
  unfold State.applyPair
  repeat' first
    | with_reducible rfl
    | split
    | (simp [*]; done)
    | (dsimp only; split)
    | refine (foldl_ready _ _ _ fun s x => ?_).trans ?_
    | refine (foldl_ready1 _ _ _ fun s x => ?_).trans ?_
    | (simp [*]; split)

@[simp] theorem State.runPair_ready (s : State) (key : Nat) (p : Pair) :
    (State.runPair s key p).ready = s.ready := by
  unfold State.runPair
  repeat' first
    | with_reducible rfl
    | split
    | (simp [*]; done)
    | (dsimp only; split)
    | refine (foldl_ready _ _ _ fun s x => ?_).trans ?_
    | refine (foldl_ready1 _ _ _ fun s x => ?_).trans ?_
    | (simp [*]; split)

@[simp] theorem State.runReturn_ready (s : State) (key : Nat) (p : Pair) :
    (State.runReturn s key p).ready = s.ready := by
  unfold State.runReturn
  repeat' first
    | with_reducible rfl
    | split
    | (simp [*]; done)
    | (dsimp only; split)
    | refine (foldl_ready _ _ _ fun s x => ?_).trans ?_
    | refine (foldl_ready1 _ _ _ fun s x => ?_).trans ?_
    | (simp [*]; split)

@[simp] theorem State.answer_ready (s : State) (gid n sb : Nat) (l : List Word64) :
    (State.answer s gid n sb l).ready = s.ready := by
  unfold State.answer
  repeat' first
    | with_reducible rfl
    | split
    | (simp [*]; done)
    | (dsimp only; split)
    | refine (foldl_ready _ _ _ fun s x => ?_).trans ?_
    | refine (foldl_ready1 _ _ _ fun s x => ?_).trans ?_
    | (simp [*]; split)

@[simp] theorem State.applyFtot_ready (dom sb : Nat) (others : List Totals) (s : State) (gid n : Nat) :
    (State.applyFtot dom sb others s gid n).ready = s.ready := by
  unfold State.applyFtot
  repeat' first
    | with_reducible rfl
    | split
    | (simp [*]; done)
    | (dsimp only; split)
    | refine (foldl_ready _ _ _ fun s x => ?_).trans ?_
    | refine (foldl_ready1 _ _ _ fun s x => ?_).trans ?_
    | (simp [*]; split)

@[simp] theorem State.opNow_ready (s : State) (mer : Bool) (kind : OpKind) (apply : State → Nat → Nat → State) (h_apply : ∀ x0 x1 x2, (apply x0 x1 x2).ready = x0.ready) :
    (State.opNow s mer kind apply).ready = s.ready := by
  unfold State.opNow
  repeat' first
    | with_reducible rfl
    | split
    | (simp [*]; done)
    | (dsimp only; split)
    | refine (foldl_ready _ _ _ fun s x => ?_).trans ?_
    | refine (foldl_ready1 _ _ _ fun s x => ?_).trans ?_
    | (simp [*]; split)

@[simp] theorem State.ownSum_ready (s : State) (ctx : Nat) (f : Field) (y0 : Nat) (y1 : Nat) :
    (State.ownSum s ctx f y0 y1).1.ready = s.ready := by
  induction y1 generalizing s y0 with
  | zero => simp [State.ownSum]
  | succ n ih =>
    unfold State.ownSum
    repeat' first
      | with_reducible rfl
      | split
      | (simp [*]; done)
      | (dsimp only; split)
      | simp only [State.modGroup_ready, State.modTeam_ready, State.completeOp_ready, State.setCtx_ready]
      | refine (foldl_ready _ _ _ fun s x => ?_).trans ?_
      | refine (foldl_ready1 _ _ _ fun s x => ?_).trans ?_
      | (simp [*]; split)

@[simp] theorem State.register_ready (s : State) (ctx : Nat) (desc : List Byte) :
    (State.register s ctx desc).1.ready = s.ready := by
  unfold State.register
  repeat' first
    | with_reducible rfl
    | split
    | (simp [*]; done)
    | (dsimp only; split)
    | refine (foldl_ready _ _ _ fun s x => ?_).trans ?_
    | refine (foldl_ready1 _ _ _ fun s x => ?_).trans ?_
    | (simp [*]; split)

@[simp] theorem State.applyFdef_ready (desc : List Byte) (sb : Nat) (s : State) (gid n : Nat) :
    (State.applyFdef desc sb s gid n).ready = s.ready := by
  unfold State.applyFdef
  repeat' first
    | with_reducible rfl
    | split
    | (simp [*]; done)
    | (dsimp only; split)
    | refine (foldl_ready _ _ _ fun s x => ?_).trans ?_
    | refine (foldl_ready1 _ _ _ fun s x => ?_).trans ?_
    | (simp [*]; split)

@[simp] theorem State.bndSum_ready (s : State) (ctx own : Nat) (f : Field) :
    (State.bndSum s ctx own f).1.ready = s.ready := by
  unfold State.bndSum
  repeat' first
    | with_reducible rfl
    | split
    | (simp [*]; done)
    | (dsimp only; split)
    | refine (foldl_ready _ _ _ fun s x => ?_).trans ?_
    | refine (foldl_ready1 _ _ _ fun s x => ?_).trans ?_
    | (simp [*]; split)

@[simp] theorem State.dropField_ready (s : State) (ctx n : Nat) (f : Field) :
    (State.dropField s ctx n f).ready = s.ready := by
  unfold State.dropField
  repeat' first
    | with_reducible rfl
    | split
    | (simp [*]; done)
    | (dsimp only; split)
    | refine (foldl_ready _ _ _ fun s x => ?_).trans ?_
    | refine (foldl_ready1 _ _ _ fun s x => ?_).trans ?_
    | (simp [*]; split)

@[simp] theorem State.applyFdrop_ready (handle : Word64) (sb : Nat) (s : State) (gid n : Nat) :
    (State.applyFdrop handle sb s gid n).ready = s.ready := by
  unfold State.applyFdrop
  repeat' first
    | with_reducible rfl
    | split
    | (simp [*]; done)
    | (dsimp only; split)
    | refine (foldl_ready _ _ _ fun s x => ?_).trans ?_
    | refine (foldl_ready1 _ _ _ fun s x => ?_).trans ?_
    | (simp [*]; split)

@[simp] theorem State.bndCell_ready (s : State) (ctx : Nat) (f : Field) (j : Nat) :
    (State.bndCell s ctx f j).1.ready = s.ready := by
  unfold State.bndCell
  repeat' first
    | with_reducible rfl
    | split
    | (simp [*]; done)
    | (dsimp only; split)
    | refine (foldl_ready _ _ _ fun s x => ?_).trans ?_
    | refine (foldl_ready1 _ _ _ fun s x => ?_).trans ?_
    | (simp [*]; split)

@[simp] theorem State.declare_ready (s : State) (ctx : Nat) (handle : Word64) (j : Nat) (sink : Bool) (cell : Option Nat) :
    (State.declare s ctx handle j sink cell).1.ready = s.ready := by
  unfold State.declare
  repeat' first
    | with_reducible rfl
    | split
    | (simp [*]; done)
    | (dsimp only; split)
    | refine (foldl_ready _ _ _ fun s x => ?_).trans ?_
    | refine (foldl_ready1 _ _ _ fun s x => ?_).trans ?_
    | (simp [*]; split)

@[simp] theorem State.fbndCell_ready (s : State) (ctx : Nat) (handle : Word64) (j : Nat) :
    (State.fbndCell s ctx handle j).1.ready = s.ready := by
  unfold State.fbndCell
  repeat' first
    | with_reducible rfl
    | split
    | (simp [*]; done)
    | (dsimp only; split)
    | refine (foldl_ready _ _ _ fun s x => ?_).trans ?_
    | refine (foldl_ready1 _ _ _ fun s x => ?_).trans ?_
    | (simp [*]; split)

@[simp] theorem State.applyFbnd_ready (handle : Word64) (sb j : Nat) (sink : Bool) (cell : Option Nat) (s : State) (gid n : Nat) :
    (State.applyFbnd handle sb j sink cell s gid n).ready = s.ready := by
  unfold State.applyFbnd
  repeat' first
    | with_reducible rfl
    | split
    | (simp [*]; done)
    | (dsimp only; split)
    | refine (foldl_ready _ _ _ fun s x => ?_).trans ?_
    | refine (foldl_ready1 _ _ _ fun s x => ?_).trans ?_
    | (simp [*]; split)

@[simp] theorem State.fbndNow_ready (handle : Word64) (sb j : Nat) (sink : Bool) (s : State) (gid n : Nat) :
    (State.fbndNow handle sb j sink s gid n).ready = s.ready := by
  unfold State.fbndNow
  repeat' first
    | with_reducible rfl
    | split
    | (simp [*]; done)
    | (dsimp only; split)
    | refine (foldl_ready _ _ _ fun s x => ?_).trans ?_
    | refine (foldl_ready1 _ _ _ fun s x => ?_).trans ?_
    | (simp [*]; split)

@[simp] theorem State.endFfence_ready (s : State) (gid k n : Nat) (scope : Scope) :
    (State.endFfence s gid k n scope).ready = s.ready := by
  unfold State.endFfence
  repeat' first
    | with_reducible rfl
    | split
    | (simp [*]; done)
    | (dsimp only; split)
    | refine (foldl_ready _ _ _ fun s x => ?_).trans ?_
    | refine (foldl_ready1 _ _ _ fun s x => ?_).trans ?_
    | (simp [*]; split)

@[simp] theorem State.modQueue_ready (s : State) (q : Nat) (f : Queue → Queue) :
    (State.modQueue s q f).ready = s.ready := by
  unfold State.modQueue
  repeat' first
    | with_reducible rfl
    | split
    | (simp [*]; done)
    | (dsimp only; split)
    | refine (foldl_ready _ _ _ fun s x => ?_).trans ?_
    | refine (foldl_ready1 _ _ _ fun s x => ?_).trans ?_
    | (simp [*]; split)

@[simp] theorem State.append_ready (s : State) (n : Nat) (entry : List Byte) (clock : Option (BitVec 48)) :
    (State.append s n entry clock).ready = s.ready := by
  unfold State.append
  repeat' first
    | with_reducible rfl
    | split
    | (simp [*]; done)
    | (dsimp only; split)
    | refine (foldl_ready _ _ _ fun s x => ?_).trans ?_
    | refine (foldl_ready1 _ _ _ fun s x => ?_).trans ?_
    | (simp [*]; split)

@[simp] theorem State.queueDone_ready (s : State) (gid n : Nat) (sb : Option Nat) (st : Word64) (clock : BitVec 48) :
    (State.queueDone s gid n sb st clock).ready = s.ready := by
  unfold State.queueDone
  repeat' first
    | with_reducible rfl
    | split
    | (simp [*]; done)
    | (dsimp only; split)
    | refine (foldl_ready _ _ _ fun s x => ?_).trans ?_
    | refine (foldl_ready1 _ _ _ fun s x => ?_).trans ?_
    | (simp [*]; split)

@[simp] theorem State.setOp_ready (s : State) (gid n : Nat) (k : OpKind) :
    (State.setOp s gid n k).ready = s.ready := by
  unfold State.setOp
  repeat' first
    | with_reducible rfl
    | split
    | (simp [*]; done)
    | (dsimp only; split)
    | refine (foldl_ready _ _ _ fun s x => ?_).trans ?_
    | refine (foldl_ready1 _ _ _ fun s x => ?_).trans ?_
    | (simp [*]; split)

@[simp] theorem State.admitRoom_ready (s : State) (queue : Nat) :
    (State.admitRoom s queue).ready = s.ready := by
  unfold State.admitRoom
  repeat' first
    | with_reducible rfl
    | split
    | (simp [*]; done)
    | (dsimp only; split)
    | refine (foldl_ready _ _ _ fun s x => ?_).trans ?_
    | refine (foldl_ready1 _ _ _ fun s x => ?_).trans ?_
    | (simp [*]; split)

@[simp] theorem State.admitRooms_ready (s : State) (queue : Nat) :
    (State.admitRooms s queue).ready = s.ready := by
  unfold State.admitRooms
  repeat' first
    | with_reducible rfl
    | split
    | (simp [*]; done)
    | (dsimp only; split)
    | refine (foldl_ready _ _ _ fun s x => ?_).trans ?_
    | refine (foldl_ready1 _ _ _ fun s x => ?_).trans ?_
    | (simp [*]; split)

@[simp] theorem State.appendOrWait_ready (s : State) (gid n queue : Nat) (sb : Option Nat) (nowait : Bool) (clock : BitVec 48) (y0 : List (List Byte)) :
    (State.appendOrWait s gid n queue sb nowait clock y0).ready = s.ready := by
  induction y0 generalizing s with
  | nil => simp [State.appendOrWait]
  | cons x l ih =>
    unfold State.appendOrWait
    repeat' first
      | with_reducible rfl
      | split
      | (simp [*]; done)
      | (dsimp only; split)
      | simp only [State.modGroup_ready, State.modTeam_ready, State.completeOp_ready, State.setCtx_ready]
      | refine (foldl_ready _ _ _ fun s x => ?_).trans ?_
      | refine (foldl_ready1 _ _ _ fun s x => ?_).trans ?_
      | (simp [*]; split)

@[simp] theorem State.applyEnq_ready (queue sb : Nat) (nowait : Bool) (src : Loc) (s : State) (gid n : Nat) :
    (State.applyEnq queue sb nowait src s gid n).ready = s.ready := by
  unfold State.applyEnq
  repeat' first
    | with_reducible rfl
    | split
    | (simp [*]; done)
    | (dsimp only; split)
    | refine (foldl_ready _ _ _ fun s x => ?_).trans ?_
    | refine (foldl_ready1 _ _ _ fun s x => ?_).trans ?_
    | (simp [*]; split)

@[simp] theorem State.takeEntry_ready (s : State) (g : Group) (n queue : Nat) :
    (State.takeEntry s g n queue).1.ready = s.ready := by
  unfold State.takeEntry
  repeat' first
    | with_reducible rfl
    | split
    | (simp [*]; done)
    | (dsimp only; split)
    | refine (foldl_ready _ _ _ fun s x => ?_).trans ?_
    | refine (foldl_ready1 _ _ _ fun s x => ?_).trans ?_
    | (simp [*]; split)

@[simp] theorem State.giveEntry_ready (s : State) (gid n sb : Nat) (dst : LaneAcc) (serial : BitVec 48) (bytes : List Byte) (clock : BitVec 48) :
    (State.giveEntry s gid n sb dst serial bytes clock).ready = s.ready := by
  unfold State.giveEntry
  repeat' first
    | with_reducible rfl
    | split
    | (simp [*]; done)
    | (dsimp only; split)
    | refine (foldl_ready _ _ _ fun s x => ?_).trans ?_
    | refine (foldl_ready1 _ _ _ fun s x => ?_).trans ?_
    | (simp [*]; split)

@[simp] theorem State.deliver_ready (s : State) (gid n queue sb : Nat) (dst : LaneAcc) (wait : Bool) :
    (State.deliver s gid n queue sb dst wait).ready = s.ready := by
  unfold State.deliver
  repeat' first
    | with_reducible rfl
    | split
    | (simp [*]; done)
    | (dsimp only; split)
    | refine (foldl_ready _ _ _ fun s x => ?_).trans ?_
    | refine (foldl_ready1 _ _ _ fun s x => ?_).trans ?_
    | (simp [*]; split)

@[simp] theorem State.assignEntry_ready (s : State) (queue : Nat) :
    (State.assignEntry s queue).ready = s.ready := by
  unfold State.assignEntry
  repeat' first
    | with_reducible rfl
    | split
    | (simp [*]; done)
    | (dsimp only; split)
    | refine (foldl_ready _ _ _ fun s x => ?_).trans ?_
    | refine (foldl_ready1 _ _ _ fun s x => ?_).trans ?_
    | (simp [*]; split)

@[simp] theorem State.feed_ready (s : State) (queue : Nat) :
    (State.feed s queue).ready = s.ready := by
  unfold State.feed
  repeat' first
    | with_reducible rfl
    | split
    | (simp [*]; done)
    | (dsimp only; split)
    | refine (foldl_ready _ _ _ fun s x => ?_).trans ?_
    | refine (foldl_ready1 _ _ _ fun s x => ?_).trans ?_
    | (simp [*]; split)

@[simp] theorem State.applyDeq_ready (queue sb : Nat) (nowait : Bool) (dst : LaneAcc) (s : State) (gid n : Nat) :
    (State.applyDeq queue sb nowait dst s gid n).ready = s.ready := by
  unfold State.applyDeq
  repeat' first
    | with_reducible rfl
    | split
    | (simp [*]; done)
    | (dsimp only; split)
    | refine (foldl_ready _ _ _ fun s x => ?_).trans ?_
    | refine (foldl_ready1 _ _ _ fun s x => ?_).trans ?_
    | (simp [*]; split)

@[simp] theorem State.applyLaunch_ready (queue sb : Nat) (nowait : Bool) (recAt : Word64) (s : State) (gid n : Nat) :
    (State.applyLaunch queue sb nowait recAt s gid n).ready = s.ready := by
  unfold State.applyLaunch
  repeat' first
    | with_reducible rfl
    | split
    | (simp [*]; done)
    | (dsimp only; split)
    | refine (foldl_ready _ _ _ fun s x => ?_).trans ?_
    | refine (foldl_ready1 _ _ _ fun s x => ?_).trans ?_
    | (simp [*]; split)

@[simp] theorem State.laneZero_ready (s : State) (gid : Nat) (code : Nat) :
    (State.laneZero s gid code).ready = s.ready := by
  unfold State.laneZero
  repeat' first
    | with_reducible rfl
    | split
    | (simp [*]; done)
    | (dsimp only; split)
    | refine (foldl_ready _ _ _ fun s x => ?_).trans ?_
    | refine (foldl_ready1 _ _ _ fun s x => ?_).trans ?_
    | (simp [*]; split)

@[simp] theorem State.applyLaunchLanes_ready (queue : Nat) (recAt : Word64) (args : List Word64) (s : State) (gid n : Nat) :
    (State.applyLaunchLanes queue recAt args s gid n).ready = s.ready := by
  unfold State.applyLaunchLanes
  repeat' first
    | with_reducible rfl
    | split
    | (simp [*]; done)
    | (dsimp only; split)
    | refine (foldl_ready _ _ _ fun s x => ?_).trans ?_
    | refine (foldl_ready1 _ _ _ fun s x => ?_).trans ?_
    | (simp [*]; split)

@[simp] theorem State.withRecord_ready (s : State) (g : Group) (va : Word64) (f : State → State) (h_f : ∀ x0, (f x0).ready = x0.ready) :
    (State.withRecord s g va f).ready = s.ready := by
  unfold State.withRecord
  repeat' first
    | with_reducible rfl
    | split
    | (simp [*]; done)
    | (dsimp only; split)
    | refine (foldl_ready _ _ _ fun s x => ?_).trans ?_
    | refine (foldl_ready1 _ _ _ fun s x => ?_).trans ?_
    | (simp [*]; split)

@[simp] theorem State.failWaiter_ready (s : State) (w : Waiter) :
    (State.failWaiter s w).ready = s.ready := by
  unfold State.failWaiter
  repeat' first
    | with_reducible rfl
    | split
    | (simp [*]; done)
    | (dsimp only; split)
    | refine (foldl_ready _ _ _ fun s x => ?_).trans ?_
    | refine (foldl_ready1 _ _ _ fun s x => ?_).trans ?_
    | (simp [*]; split)

@[simp] theorem State.disableQueue_ready (s : State) (n : Nat) :
    (State.disableQueue s n).ready = s.ready := by
  unfold State.disableQueue
  repeat' first
    | with_reducible rfl
    | split
    | (simp [*]; done)
    | (dsimp only; split)
    | refine (foldl_ready _ _ _ fun s x => ?_).trans ?_
    | refine (foldl_ready1 _ _ _ fun s x => ?_).trans ?_
    | (simp [*]; split)

@[simp] theorem State.setInst_ready (s : State) (team unit : Nat) (x : Inst) :
    (State.setInst s team unit x).ready = s.ready := by
  unfold State.setInst
  repeat' first
    | with_reducible rfl
    | split
    | (simp [*]; done)
    | (dsimp only; split)
    | refine (foldl_ready _ _ _ fun s x => ?_).trans ?_
    | refine (foldl_ready1 _ _ _ fun s x => ?_).trans ?_
    | (simp [*]; split)

@[simp] theorem State.streamTrap_ready (s : State) (sub detail : BitVec 8) (wordAt : Word64) :
    (State.streamTrap s sub detail wordAt).ready = s.ready := by
  unfold State.streamTrap
  repeat' first
    | with_reducible rfl
    | split
    | (simp [*]; done)
    | (dsimp only; split)
    | refine (foldl_ready _ _ _ fun s x => ?_).trans ?_
    | refine (foldl_ready1 _ _ _ fun s x => ?_).trans ?_
    | (simp [*]; split)

@[simp] theorem State.streamDone_ready (s : State) (cost : Nat) (x : Inst) :
    (State.streamDone s cost x).ready = s.ready := by
  unfold State.streamDone
  repeat' first
    | with_reducible rfl
    | split
    | (simp [*]; done)
    | (dsimp only; split)
    | refine (foldl_ready _ _ _ fun s x => ?_).trans ?_
    | refine (foldl_ready1 _ _ _ fun s x => ?_).trans ?_
    | (simp [*]; split)

@[simp] theorem State.guardedStream_ready (s : State) (i : Instr) (f : Team → Inst → State) (h_f : ∀ x0 x1, (f x0 x1).ready = s.ready) :
    (State.guardedStream s i f).ready = s.ready := by
  unfold State.guardedStream
  repeat' first
    | with_reducible rfl
    | split
    | (simp [*]; done)
    | (dsimp only; split)
    | refine (foldl_ready _ _ _ fun s x => ?_).trans ?_
    | refine (foldl_ready1 _ _ _ fun s x => ?_).trans ?_
    | (simp [*]; split)

@[simp] theorem State.streamGo_ready (s : State) (n : Inst) (target : Word64) :
    (State.streamGo s n target).ready = s.ready := by
  unfold State.streamGo
  repeat' first
    | with_reducible rfl
    | split
    | (simp [*]; done)
    | (dsimp only; split)
    | refine (foldl_ready _ _ _ fun s x => ?_).trans ?_
    | refine (foldl_ready1 _ _ _ fun s x => ?_).trans ?_
    | (simp [*]; split)

@[simp] theorem streamBar_ready (i : Instr) (x : MXFields) (f : State → Inst → Nat → Nat → State) (s : State) (h_f : ∀ x0 x1 x2 x3, (f x0 x1 x2 x3).ready = x0.ready) :
    (streamBar i x f s).ready = s.ready := by
  unfold streamBar
  refine State.guardedStream_ready _ _ _ fun t n => ?_
  repeat' first
    | with_reducible rfl
    | split
    | (simp [*]; done)
    | (dsimp only; split)
    | simp only [State.modGroup_ready, State.modTeam_ready, State.completeOp_ready, State.setCtx_ready]
    | refine (foldl_ready _ _ _ fun s x => ?_).trans ?_
    | refine (foldl_ready1 _ _ _ fun s x => ?_).trans ?_
    | (simp [*]; split)

@[simp] theorem State.region_ready (s : State) (team : Nat) (t : Team) (n : Inst) (off bytes : Nat) (write : Bool) :
    (State.region s team t n off bytes write).1.ready = s.ready := by
  unfold State.region
  repeat' first
    | with_reducible rfl
    | split
    | (simp [*]; done)
    | (dsimp only; split)
    | refine (foldl_ready _ _ _ fun s x => ?_).trans ?_
    | refine (foldl_ready1 _ _ _ fun s x => ?_).trans ?_
    | (simp [*]; split)

@[simp] theorem State.withRegion_ready (s : State) (t : Team) (n : Inst) (off bytes : Nat) (write : Bool) (f : State → Nat → Nat → State) (h_f : ∀ x0 x1 x2, (f x0 x1 x2).ready = x0.ready) :
    (State.withRegion s t n off bytes write f).ready = s.ready := by
  unfold State.withRegion
  repeat' first
    | with_reducible rfl
    | split
    | (simp [*]; done)
    | (dsimp only; split)
    | refine (foldl_ready _ _ _ fun s x => ?_).trans ?_
    | refine (foldl_ready1 _ _ _ fun s x => ?_).trans ?_
    | (simp [*]; split)

@[simp] theorem State.endByMatrix_ready (s : State) (t : Team) (tr : StreamTrap) :
    (State.endByMatrix s t tr).ready = s.ready := by
  unfold State.endByMatrix
  repeat' first
    | with_reducible rfl
    | split
    | (simp [*]; done)
    | (dsimp only; split)
    | refine (foldl_ready _ _ _ fun s x => ?_).trans ?_
    | refine (foldl_ready1 _ _ _ fun s x => ?_).trans ?_
    | (simp [*]; split)

@[simp] theorem State.homePut_ready (s : State) (y0 : List Byte) (y1 : Nat) :
    (State.homePut s y0 y1).ready = s.ready := by
  induction y0 generalizing s y1 with
  | nil => unfold State.homePut; rfl
  | cons x l ih =>
    unfold State.homePut
    repeat' first
      | with_reducible rfl
      | split
      | (simp [*]; done)
      | (dsimp only; split)
      | refine (foldl_ready _ _ _ fun s x => ?_).trans ?_
      | refine (foldl_ready1 _ _ _ fun s x => ?_).trans ?_
      | (simp [*]; split)

@[simp] theorem State.signal_ready (s : State) (v : Nat) :
    (State.signal s v).ready = s.ready := by
  unfold State.signal
  repeat' first
    | with_reducible rfl
    | split
    | (simp [*]; done)
    | (dsimp only; split)
    | refine (foldl_ready _ _ _ fun s x => ?_).trans ?_
    | refine (foldl_ready1 _ _ _ fun s x => ?_).trans ?_
    | (simp [*]; split)

@[simp] theorem State.event_ready (s : State) (typ unit index old new : Nat) (where_ detail : Word64) :
    (State.event s typ unit index old new where_ detail).ready = s.ready := by
  unfold State.event
  repeat' first
    | with_reducible rfl
    | split
    | (simp [*]; done)
    | (dsimp only; split)
    | refine (foldl_ready _ _ _ fun s x => ?_).trans ?_
    | refine (foldl_ready1 _ _ _ fun s x => ?_).trans ?_
    | (simp [*]; split)

@[simp] theorem State.applyInvlp_ready (page : Option Word64) (cst : Bool) (s : State) (gid n : Nat) :
    (State.applyInvlp page cst s gid n).ready = s.ready := by
  unfold State.applyInvlp
  repeat' first
    | with_reducible rfl
    | split
    | (simp [*]; done)
    | (dsimp only; split)
    | refine (foldl_ready _ _ _ fun s x => ?_).trans ?_
    | refine (foldl_ready1 _ _ _ fun s x => ?_).trans ?_
    | (simp [*]; split)

@[simp] theorem State.endInval_ready (page : Option Word64) (cst : Bool) (bound : Nat) (s : State) (gid n : Nat) :
    (State.endInval page cst bound s gid n).ready = s.ready := by
  unfold State.endInval
  repeat' first
    | with_reducible rfl
    | split
    | (simp [*]; done)
    | (dsimp only; split)
    | refine (foldl_ready _ _ _ fun s x => ?_).trans ?_
    | refine (foldl_ready1 _ _ _ fun s x => ?_).trans ?_
    | (simp [*]; split)

@[simp] theorem invlpMould_ready (i : Instr) (q : QFields) (page : Group → Option Word64) (s : State) :
    (invlpMould i q page s).ready = s.ready := by
  unfold invlpMould
  repeat' first
    | with_reducible rfl
    | split
    | (simp [*]; done)
    | (dsimp only; split)
    | refine (foldl_ready _ _ _ fun s x => ?_).trans ?_
    | refine (foldl_ready1 _ _ _ fun s x => ?_).trans ?_
    | (simp [*]; split)

@[simp] theorem State.settleBusy_ready (s : State) :
    (State.settleBusy s).ready = s.ready := by
  unfold State.settleBusy
  repeat' first
    | with_reducible rfl
    | split
    | (simp [*]; done)
    | (dsimp only; split)
    | refine (foldl_ready _ _ _ fun s x => ?_).trans ?_
    | refine (foldl_ready1 _ _ _ fun s x => ?_).trans ?_
    | (simp [*]; split)

@[simp] theorem State.pathFrom_ready (s : State) (die va : Nat) (y0 : Nat) (y1 : Nat) (y2 : Nat) :
    (State.pathFrom s die va y0 y1 y2).1.ready = s.ready := by
  induction y0 generalizing s y1 y2 with
  | zero => unfold State.pathFrom; rfl
  | succ n ih =>
    unfold State.pathFrom
    repeat' first
      | with_reducible rfl
      | split
      | (simp [*]; done)
      | (dsimp only; split)
      | refine (foldl_ready _ _ _ fun s x => ?_).trans ?_
      | refine (foldl_ready1 _ _ _ fun s x => ?_).trans ?_
      | (simp [*]; split)

@[simp] theorem State.pool_ready (s : State) (die c : Nat) :
    (State.pool s die c).1.ready = s.ready := by
  unfold State.pool
  repeat' first
    | with_reducible rfl
    | split
    | (simp [*]; done)
    | (dsimp only; split)
    | refine (foldl_ready _ _ _ fun s x => ?_).trans ?_
    | refine (foldl_ready1 _ _ _ fun s x => ?_).trans ?_
    | (simp [*]; split)

@[simp] theorem State.takeFrame_ready (s : State) (die : Nat) (p : Pool) :
    (State.takeFrame s die p).1.ready = s.ready := by
  unfold State.takeFrame
  repeat' first
    | with_reducible rfl
    | split
    | (simp [*]; done)
    | (dsimp only; split)
    | refine (foldl_ready _ _ _ fun s x => ?_).trans ?_
    | refine (foldl_ready1 _ _ _ fun s x => ?_).trans ?_
    | (simp [*]; split)

@[simp] theorem State.directory_ready (s : State) (die : Nat) (p : Pool) :
    (State.directory s die p).1.ready = s.ready := by
  unfold State.directory
  repeat' first
    | with_reducible rfl
    | split
    | (simp [*]; done)
    | (dsimp only; split)
    | refine (foldl_ready _ _ _ fun s x => ?_).trans ?_
    | refine (foldl_ready1 _ _ _ fun s x => ?_).trans ?_
    | (simp [*]; split)

@[simp] theorem State.mapTarget_ready (s : State) (die c : Nat) (va : Word64) :
    (State.mapTarget s die c va).1.ready = s.ready := by
  unfold State.mapTarget
  repeat' first
    | with_reducible rfl
    | split
    | (simp [*]; done)
    | (dsimp only; split)
    | refine (foldl_ready _ _ _ fun s x => ?_).trans ?_
    | refine (foldl_ready1 _ _ _ fun s x => ?_).trans ?_
    | (simp [*]; split)

@[simp] theorem State.mapFirst_ready (s : State) (die c : Nat) (va : Word64) (perm : BitVec 12) :
    (State.mapFirst s die c va perm).1.ready = s.ready := by
  unfold State.mapFirst
  dsimp only
  repeat' first
    | split
    | (simp only [State.devPut_ready, State.takeFrame_ready, State.mapTarget_ready]; done)

@[simp] theorem State.mapReplica_ready (s : State) (die c : Nat) (va : Word64) :
    (State.mapReplica s die c va).1.ready = s.ready := by
  unfold State.mapReplica
  repeat' first
    | with_reducible rfl
    | split
    | (simp [*]; done)
    | (dsimp only; split)
    | refine (foldl_ready _ _ _ fun s x => ?_).trans ?_
    | refine (foldl_ready1 _ _ _ fun s x => ?_).trans ?_
    | (simp [*]; split)

@[simp] theorem mapNow_ready (i : Instr) (q : QFields) (f : State → Nat → Nat → Word64 → State × Nat) (s : State) (h_f : ∀ x0 x1 x2 x3, (f x0 x1 x2 x3).1.ready = x0.ready) :
    (mapNow i q f s).ready = s.ready := by
  unfold mapNow
  repeat' first
    | with_reducible rfl
    | split
    | (simp [*]; done)
    | (dsimp only; split)
    | refine (foldl_ready _ _ _ fun s x => ?_).trans ?_
    | refine (foldl_ready1 _ _ _ fun s x => ?_).trans ?_
    | (simp [*]; split)

@[simp] theorem State.replicas_ready (s : State) (die : Nat) (y0 : Nat) (y1 : Nat) (y2 : Nat) :
    (State.replicas s die y0 y1 y2).1.ready = s.ready := by
  induction y0 generalizing s y1 y2 with
  | zero => unfold State.replicas; rfl
  | succ n ih =>
    unfold State.replicas
    repeat' first
      | with_reducible rfl
      | split
      | (simp [*]; done)
      | (dsimp only; split)
      | refine (foldl_ready _ _ _ fun s x => ?_).trans ?_
      | refine (foldl_ready1 _ _ _ fun s x => ?_).trans ?_
      | (simp [*]; split)

@[simp] theorem State.collapseIn_ready (s : State) (c h : Nat) :
    (State.collapseIn s c h).ready = s.ready := by
  unfold State.collapseIn
  dsimp only
  split
  · simp only [State.pool_ready]
  · split
    · simp only [State.pool_ready, State.directory_ready]
    · simp only [foldl_ready, State.devPut_ready, implies_true, State.replicas_ready, State.pool_ready, State.directory_ready]

@[simp] theorem State.collapse_ready (s : State) (h : Nat) :
    (State.collapse s h).ready = s.ready := by
  unfold State.collapse
  repeat' first
    | with_reducible rfl
    | split
    | (simp [*]; done)
    | (dsimp only; split)
    | refine (foldl_ready _ _ _ fun s x => ?_).trans ?_
    | refine (foldl_ready1 _ _ _ fun s x => ?_).trans ?_
    | (simp [*]; split)

@[simp] theorem State.applyCol_ready (va : Word64) (sb home : Nat) (s : State) (gid n : Nat) :
    (State.applyCol va sb home s gid n).ready = s.ready := by
  unfold State.applyCol
  repeat' first
    | with_reducible rfl
    | split
    | (simp [*]; done)
    | (dsimp only; split)
    | refine (foldl_ready _ _ _ fun s x => ?_).trans ?_
    | refine (foldl_ready1 _ _ _ fun s x => ?_).trans ?_
    | (simp [*]; split)

@[simp] theorem State.endCol_ready (va : Word64) (sb home bound : Nat) (s : State) (gid n : Nat) :
    (State.endCol va sb home bound s gid n).ready = s.ready := by
  unfold State.endCol
  repeat' first
    | with_reducible rfl
    | split
    | (simp [*]; done)
    | (dsimp only; split)
    | refine (foldl_ready _ _ _ fun s x => ?_).trans ?_
    | refine (foldl_ready1 _ _ _ fun s x => ?_).trans ?_
    | (simp [*]; split)

@[simp] theorem State.post_ready (s : State) (gid sb : Nat) (word : BitVec 16) (mine : Bool) (at_ start : Nat) :
    (State.post s gid sb word mine at_ start).ready = s.ready := by
  unfold State.post
  repeat' first
    | with_reducible rfl
    | split
    | (simp [*]; done)
    | (dsimp only; split)
    | refine (foldl_ready _ _ _ fun s x => ?_).trans ?_
    | refine (foldl_ready1 _ _ _ fun s x => ?_).trans ?_
    | (simp [*]; split)

@[simp] theorem State.releaseAll_ready (s : State) (core : Nat) :
    (State.releaseAll s core).1.ready = s.ready := by
  unfold State.releaseAll
  repeat' first
    | with_reducible rfl
    | split
    | with_reducible refine (State.fenceRel_ready ..).trans ?_
    | refine (foldl_ready _ _ _ fun s x => ?_).trans ?_
    | refine (foldl_ready1 _ _ _ fun s x => ?_).trans ?_
    | (simp [*]; done)
    | (dsimp only; split)
    | dsimp only

@[simp] theorem State.vplaces_ready (s : State) (c : Nat) (write : Bool) (y0 : Nat) (y1 : Word64) :
    (State.vplaces s c write y0 y1).1.ready = s.ready := by
  induction y0 generalizing s y1 with
  | zero => unfold State.vplaces; rfl
  | succ n ih =>
    unfold State.vplaces
    repeat' first
      | with_reducible rfl
      | split
      | (simp [*]; done)
      | (dsimp only; split)
      | refine (foldl_ready _ _ _ fun s x => ?_).trans ?_
      | refine (foldl_ready1 _ _ _ fun s x => ?_).trans ?_
      | (simp [*]; split)

@[simp] theorem State.vread_ready (s : State) (c n : Nat) (va : Word64) :
    (State.vread s c n va).1.ready = s.ready := by
  unfold State.vread
  repeat' first
    | with_reducible rfl
    | split
    | (simp [*]; done)
    | (dsimp only; split)
    | refine (foldl_ready _ _ _ fun s x => ?_).trans ?_
    | refine (foldl_ready1 _ _ _ fun s x => ?_).trans ?_
    | (simp [*]; split)

@[simp] theorem State.vwrite_ready (s : State) (c : Nat) (b : List Byte) (va : Word64) :
    (State.vwrite s c b va).1.ready = s.ready := by
  unfold State.vwrite
  repeat' first
    | with_reducible rfl
    | split
    | (simp [*]; done)
    | (dsimp only; split)
    | refine (foldl_ready _ _ _ fun s x => ?_).trans ?_
    | refine (foldl_ready1 _ _ _ fun s x => ?_).trans ?_
    | (simp [*]; split)

@[simp] theorem State.bitmapWrite_ready (s : State) (c : Nat) (b : List Byte) (va grid : Word64) :
    (State.bitmapWrite s c b va grid).ready = s.ready := by
  unfold State.bitmapWrite
  repeat' first
    | with_reducible rfl
    | split
    | (simp [*]; done)
    | (dsimp only; split)
    | refine (foldl_ready _ _ _ fun s x => ?_).trans ?_
    | refine (foldl_ready1 _ _ _ fun s x => ?_).trans ?_
    | (simp [*]; split)

@[simp] theorem State.depHeader_ready (s : State) (c : Nat) (l : LaunchRec) :
    (State.depHeader s c l).1.ready = s.ready := by
  unfold State.depHeader
  repeat' first
    | with_reducible rfl
    | split
    | (simp [*]; done)
    | (dsimp only; split)
    | refine (foldl_ready _ _ _ fun s x => ?_).trans ?_
    | refine (foldl_ready1 _ _ _ fun s x => ?_).trans ?_
    | (simp [*]; split)

@[simp] theorem State.depBits_ready (s : State) (c t : Nat) (l : LaunchRec) (teams : Nat) :
    (State.depBits s c t l teams).1.ready = s.ready := by
  unfold State.depBits
  repeat' first
    | with_reducible rfl
    | split
    | (simp [*]; done)
    | (dsimp only; split)
    | refine (foldl_ready _ _ _ fun s x => ?_).trans ?_
    | refine (foldl_ready1 _ _ _ fun s x => ?_).trans ?_
    | (simp [*]; split)

@[simp] theorem State.depends_ready (s : State) (c t : Nat) (l : LaunchRec) :
    (State.depends s c t l).1.ready = s.ready := by
  unfold State.depends
  repeat' first
    | with_reducible rfl
    | split
    | (simp [*]; done)
    | (dsimp only; split)
    | refine (foldl_ready _ _ _ fun s x => ?_).trans ?_
    | refine (foldl_ready1 _ _ _ fun s x => ?_).trans ?_
    | (simp [*]; split)

@[simp] theorem State.dependAll_ready (s : State) (c : Nat) (l : LaunchRec) (y0 : Nat) :
    (State.dependAll s c l y0).1.ready = s.ready := by
  induction y0 generalizing s with
  | zero => unfold State.dependAll; rfl
  | succ n ih =>
    unfold State.dependAll
    repeat' first
      | with_reducible rfl
      | split
      | (simp [*]; done)
      | (dsimp only; split)
      | refine (foldl_ready _ _ _ fun s x => ?_).trans ?_
      | refine (foldl_ready1 _ _ _ fun s x => ?_).trans ?_
      | (simp [*]; split)

@[simp] theorem State.reject_ready (s : State) (queue : Nat) (grid recAt : Word64) (reason off : Nat) (l : Option LaunchRec) :
    (State.reject s queue grid recAt reason off l).ready = s.ready := by
  unfold State.reject
  repeat' first
    | with_reducible rfl
    | split
    | (simp [*]; done)
    | (dsimp only; split)
    | refine (foldl_ready _ _ _ fun s x => ?_).trans ?_
    | refine (foldl_ready1 _ _ _ fun s x => ?_).trans ?_
    | (simp [*]; split)

@[simp] theorem State.headOf_ready (s : State) (q : Queue) :
    (State.headOf s q).1.ready = s.ready := by
  unfold State.headOf
  repeat' first
    | with_reducible rfl
    | split
    | (simp [*]; done)
    | (dsimp only; split)
    | refine (foldl_ready _ _ _ fun s x => ?_).trans ?_
    | refine (foldl_ready1 _ _ _ fun s x => ?_).trans ?_
    | (simp [*]; split)

@[simp] theorem State.heads_ready (s : State) :
    (State.heads s).1.ready = s.ready := by
  unfold State.heads
  repeat' first
    | with_reducible rfl
    | split
    | (simp [*]; done)
    | (dsimp only; split)
    | refine (foldl_ready _ _ _ fun s x => ?_).trans ?_
    | refine (foldl_ready1 _ _ _ fun s x => ?_).trans ?_
    | (simp [*]; split)

@[simp] theorem State.admission_ready (s : State) (c : Nat) (l : LaunchRec) :
    (State.admission s c l).1.ready = s.ready := by
  unfold State.admission
  repeat' first
    | with_reducible rfl
    | split
    | (simp [*]; done)
    | (dsimp only; split)
    | refine (foldl_ready _ _ _ fun s x => ?_).trans ?_
    | refine (foldl_ready1 _ _ _ fun s x => ?_).trans ?_
    | (simp [*]; split)

@[simp] theorem State.passStage2_ready (s : State) (key : Nat) (g : Grid) :
    (State.passStage2 s key g).ready = s.ready := by
  unfold State.passStage2
  repeat' first
    | with_reducible rfl
    | split
    | (simp [*]; done)
    | (dsimp only; split)
    | refine (foldl_ready _ _ _ fun s x => ?_).trans ?_
    | refine (foldl_ready1 _ _ _ fun s x => ?_).trans ?_
    | (simp [*]; split)

@[simp] theorem State.takeCores_ready (s : State) (t : Team) (bar : Nat → Nat → Bar) :
    (State.takeCores s t bar).ready = s.ready := by
  unfold State.takeCores
  repeat' first
    | with_reducible rfl
    | split
    | (simp [*]; done)
    | (dsimp only; split)
    | refine (foldl_ready _ _ _ fun s x => ?_).trans ?_
    | refine (foldl_ready1 _ _ _ fun s x => ?_).trans ?_
    | (simp [*]; split)

@[simp] theorem State.placeTeam_ready (s : State) (key : Nat) (gr : Grid) (t cl : Nat) (at_ : List (Nat × List Nat)) :
    (State.placeTeam s key gr t cl at_).ready = s.ready := by
  unfold State.placeTeam
  repeat' first
    | with_reducible rfl
    | split
    | (simp [*]; done)
    | (dsimp only; split)
    | refine (foldl_ready _ _ _ fun s x => ?_).trans ?_
    | refine (foldl_ready1 _ _ _ fun s x => ?_).trans ?_
    | (simp [*]; split)

@[simp] theorem State.depFails_ready (s : State) (key : Nat) (gr : Grid) (va : Option Word64) :
    (State.depFails s key gr va).ready = s.ready := by
  unfold State.depFails
  repeat' first
    | with_reducible rfl
    | split
    | (simp [*]; done)
    | (dsimp only; split)
    | refine (foldl_ready _ _ _ fun s x => ?_).trans ?_
    | refine (foldl_ready1 _ _ _ fun s x => ?_).trans ?_
    | (simp [*]; split)

@[simp] theorem State.depCheck_ready (s : State) (gr : Grid) (t : Nat) :
    (State.depCheck s gr t).1.ready = s.ready := by
  unfold State.depCheck
  repeat' first
    | with_reducible rfl
    | split
    | (simp [*]; done)
    | (dsimp only; split)
    | refine (foldl_ready _ _ _ fun s x => ?_).trans ?_
    | refine (foldl_ready1 _ _ _ fun s x => ?_).trans ?_
    | (simp [*]; split)

@[simp] theorem State.tryPlace_ready (s : State) (cl : Nat) (y0 : List (Nat × Grid)) :
    (State.tryPlace s cl y0).ready = s.ready := by
  induction y0 generalizing s with
  | nil => unfold State.tryPlace; rfl
  | cons x l ih =>
    unfold State.tryPlace
    repeat' first
      | with_reducible rfl
      | split
      | (simp [*]; done)
      | (dsimp only; split)
      | refine (foldl_ready _ _ _ fun s x => ?_).trans ?_
      | refine (foldl_ready1 _ _ _ fun s x => ?_).trans ?_
      | (simp [*]; split)

@[simp] theorem State.markLate_ready (s : State) (cl : Nat) :
    (State.markLate s cl).ready = s.ready := by
  unfold State.markLate
  repeat' first
    | with_reducible rfl
    | split
    | (simp [*]; done)
    | (dsimp only; split)
    | refine (foldl_ready _ _ _ fun s x => ?_).trans ?_
    | refine (foldl_ready1 _ _ _ fun s x => ?_).trans ?_
    | (simp [*]; split)

@[simp] theorem State.regionMsg_ready (s : State) (gr : Grid) (out : Word64) (size : Nat) :
    (State.regionMsg s gr out size).1.ready = s.ready := by
  unfold State.regionMsg
  repeat' first
    | with_reducible rfl
    | split
    | (simp [*]; done)
    | (dsimp only; split)
    | refine (foldl_ready _ _ _ fun s x => ?_).trans ?_
    | refine (foldl_ready1 _ _ _ fun s x => ?_).trans ?_
    | (simp [*]; split)

@[simp] theorem State.completeGrid_ready (s : State) (key : Nat) (gr : Grid) :
    (State.completeGrid s key gr).ready = s.ready := by
  unfold State.completeGrid
  repeat' first
    | with_reducible rfl
    | split
    | (simp [*]; done)
    | (dsimp only; split)
    | refine (foldl_ready _ _ _ fun s x => ?_).trans ?_
    | refine (foldl_ready1 _ _ _ fun s x => ?_).trans ?_
    | (simp [*]; split)

@[simp] theorem State.saveBars_ready (s : State) (team : Nat) (t : Team) :
    (State.saveBars s team t).ready = s.ready := by
  unfold State.saveBars
  repeat' first
    | with_reducible rfl
    | split
    | (simp [*]; done)
    | (dsimp only; split)
    | refine (foldl_ready _ _ _ fun s x => ?_).trans ?_
    | refine (foldl_ready1 _ _ _ fun s x => ?_).trans ?_
    | (simp [*]; split)

@[simp] theorem State.saveMaps_ready (s : State) (team : Nat) (t : Team) :
    (State.saveMaps s team t).ready = s.ready := by
  unfold State.saveMaps
  repeat' first
    | with_reducible rfl
    | split
    | (simp [*]; done)
    | (dsimp only; split)
    | simp only [State.modGroup_ready, State.modTeam_ready, State.completeOp_ready, State.setCtx_ready]
    | refine (foldl_ready _ _ _ fun s x => ?_).trans ?_
    | refine (foldl_ready1 _ _ _ fun s x => ?_).trans ?_
    | (simp [*]; split)

@[simp] theorem State.refetch_ready (s : State) (team i p : Nat) :
    (State.refetch s team i p).ready = s.ready := by
  unfold State.refetch
  repeat' first
    | with_reducible rfl
    | split
    | (simp [*]; done)
    | (dsimp only; split)
    | refine (foldl_ready _ _ _ fun s x => ?_).trans ?_
    | refine (foldl_ready1 _ _ _ fun s x => ?_).trans ?_
    | (simp [*]; split)

@[simp] theorem State.refetchMaps_ready (s : State) (team : Nat) :
    (State.refetchMaps s team).ready = s.ready := by
  unfold State.refetchMaps
  repeat' first
    | with_reducible rfl
    | split
    | (simp [*]; done)
    | (dsimp only; split)
    | refine (foldl_ready _ _ _ fun s x => ?_).trans ?_
    | refine (foldl_ready1 _ _ _ fun s x => ?_).trans ?_
    | (simp [*]; split)

@[simp] theorem State.saveTeam_ready (s : State) (team : Nat) (t : Team) :
    (State.saveTeam s team t).ready = s.ready := by
  unfold State.saveTeam
  repeat' first
    | with_reducible rfl
    | split
    | (simp [*]; done)
    | (dsimp only; split)
    | simp only [State.modGroup_ready, State.modTeam_ready, State.completeOp_ready, State.setCtx_ready]
    | refine (foldl_ready _ _ _ fun s x => ?_).trans ?_
    | refine (foldl_ready1 _ _ _ fun s x => ?_).trans ?_
    | (simp [*]; split)

@[simp] theorem State.restoreTeam_ready (s : State) (team cl : Nat) (at_ : List (Nat × List Nat)) :
    (State.restoreTeam s team cl at_).ready = s.ready := by
  unfold State.restoreTeam
  repeat' first
    | with_reducible rfl
    | split
    | with_reducible refine (State.modGroup_ready ..).trans ?_
    | with_reducible refine (State.refetchMaps_ready ..).trans ?_
    | with_reducible refine (State.setGroup_ready ..).trans ?_
    | with_reducible refine (State.setTeam_ready ..).trans ?_
    | with_reducible refine (State.takeCores_ready ..).trans ?_
    | refine (foldl_ready _ _ _ fun s x => ?_).trans ?_
    | refine (foldl_ready1 _ _ _ fun s x => ?_).trans ?_
    | (simp [*]; done)
    | (dsimp only; split)
    | dsimp only

@[simp] theorem State.finalRefusal_ready (s : State) (gid : Nat) (g : Group) (e : LastExit) (r : Refusal285) :
    (State.finalRefusal s gid g e r).ready = s.ready := by
  unfold State.finalRefusal
  repeat' first
    | with_reducible rfl
    | split
    | (simp [*]; done)
    | (dsimp only; split)
    | refine (foldl_ready _ _ _ fun s x => ?_).trans ?_
    | refine (foldl_ready1 _ _ _ fun s x => ?_).trans ?_
    | (simp [*]; split)

@[simp] theorem State.setBit_ready (s : State) (gr : Grid) (t : Nat) :
    (State.setBit s gr t).ready = s.ready := by
  unfold State.setBit
  repeat' first
    | with_reducible rfl
    | split
    | (simp [*]; done)
    | (dsimp only; split)
    | refine (foldl_ready _ _ _ fun s x => ?_).trans ?_
    | refine (foldl_ready1 _ _ _ fun s x => ?_).trans ?_
    | (simp [*]; split)

@[simp] theorem State.endMaps_ready (s : State) (team : Nat) (t : Team) :
    (State.endMaps s team t).ready = s.ready := by
  unfold State.endMaps
  repeat' first
    | with_reducible rfl
    | split
    | (simp [*]; done)
    | (dsimp only; split)
    | simp only [State.modGroup_ready, State.modTeam_ready, State.completeOp_ready, State.setCtx_ready]
    | refine (foldl_ready _ _ _ fun s x => ?_).trans ?_
    | refine (foldl_ready1 _ _ _ fun s x => ?_).trans ?_
    | (simp [*]; split)

@[simp] theorem State.retireTeam_ready (s : State) (team : Nat) (t : Team) :
    (State.retireTeam s team t).ready = s.ready := by
  have h : ∀ s : State, (t.barList.foldl (fun s b => s.setBar b.2.1 b.2.2 {}) s).ready = s.ready :=
    fun s => foldl_ready _ _ _ fun s x => rfl
  have k : ∀ s : State, (t.cores.foldl (fun s c => s.fenceRel c .device) s).ready = s.ready :=
    fun s => foldl_ready _ _ _ fun s x => State.fenceRel_ready ..
  unfold State.retireTeam
  dsimp only
  split
  · simp only [h, k, State.setCtx_ready, State.endMaps_ready]
  · split
    · simp only [State.completeGrid_ready, State.setBit_ready, h, k, State.setCtx_ready, State.endMaps_ready]
    · simp only [State.setBit_ready, h, k, State.setCtx_ready, State.endMaps_ready]

@[simp] theorem State.commitTxf_ready (s : State) (gid n : Nat) :
    (State.commitTxf s gid n).ready = s.ready := by
  unfold State.commitTxf
  repeat' first
    | with_reducible rfl
    | split
    | (simp [*]; done)
    | (dsimp only; split)
    | simp only [State.modGroup_ready, State.modTeam_ready, State.completeOp_ready, State.setCtx_ready]
    | refine (foldl_ready _ _ _ fun s x => ?_).trans ?_
    | refine (foldl_ready1 _ _ _ fun s x => ?_).trans ?_
    | (simp [*]; split)

@[simp] theorem State.commitTxfs_ready (s : State) (gid : Nat) (y0 : List Nat) :
    (State.commitTxfs s gid y0).ready = s.ready := by
  induction y0 generalizing s with
  | nil => unfold State.commitTxfs; rfl
  | cons x l ih =>
    unfold State.commitTxfs
    repeat' first
      | with_reducible rfl
      | split
      | (simp [*]; done)
      | (dsimp only; split)
      | refine (foldl_ready _ _ _ fun s x => ?_).trans ?_
      | refine (foldl_ready1 _ _ _ fun s x => ?_).trans ?_
      | (simp [*]; split)

@[simp] theorem State.commitCopy_ready (s : State) (gid : Nat) (b : BrineOp) :
    (State.commitCopy s gid b).ready = s.ready := by
  unfold State.commitCopy
  repeat' first
    | with_reducible rfl
    | split
    | (simp [*]; done)
    | (dsimp only; split)
    | refine (foldl_ready _ _ _ fun s x => ?_).trans ?_
    | refine (foldl_ready1 _ _ _ fun s x => ?_).trans ?_
    | (simp [*]; split)

@[simp] theorem State.commitGroup_ready (s : State) (gid : Nat) :
    (State.commitGroup s gid).1.ready = s.ready := by
  unfold State.commitGroup
  repeat' first
    | with_reducible rfl
    | split
    | with_reducible refine (State.brinePending_ready ..).trans ?_
    | with_reducible refine (State.commitCopy_ready ..).trans ?_
    | with_reducible refine (State.commitTxfs_ready ..).trans ?_
    | with_reducible refine (State.modGroup_ready ..).trans ?_
    | with_reducible refine (State.performSpan_ready ..).trans ?_
    | refine (foldl_ready _ _ _ fun s x => ?_).trans ?_
    | refine (foldl_ready1 _ _ _ fun s x => ?_).trans ?_
    | (simp [*]; done)
    | (dsimp only; split)
    | dsimp only

@[simp] theorem State.commitGroups_ready (s : State) (y0 : List Nat) :
    (State.commitGroups s y0).1.ready = s.ready := by
  induction y0 generalizing s with
  | nil => unfold State.commitGroups; rfl
  | cons x l ih =>
    unfold State.commitGroups
    repeat' first
      | with_reducible rfl
      | split
      | (simp [*]; done)
      | (dsimp only; split)
      | refine (foldl_ready _ _ _ fun s x => ?_).trans ?_
      | refine (foldl_ready1 _ _ _ fun s x => ?_).trans ?_
      | (simp [*]; split)

@[simp] theorem State.endCommit_ready (s : State) (key : Nat) (gr : Grid) :
    (State.endCommit s key gr).ready = s.ready := by
  unfold State.endCommit
  repeat' first
    | with_reducible rfl
    | split
    | (simp [*]; done)
    | (dsimp only; split)
    | refine (foldl_ready _ _ _ fun s x => ?_).trans ?_
    | refine (foldl_ready1 _ _ _ fun s x => ?_).trans ?_
    | (simp [*]; split)

@[simp] theorem State.commitGrid_ready (s : State) (key : Nat) (gr : Grid) :
    (State.commitGrid s key gr).ready = s.ready := by
  unfold State.commitGrid
  repeat' first
    | with_reducible rfl
    | split
    | (simp [*]; done)
    | (dsimp only; split)
    | refine (foldl_ready _ _ _ fun s x => ?_).trans ?_
    | refine (foldl_ready1 _ _ _ fun s x => ?_).trans ?_
    | (simp [*]; split)

@[simp] theorem State.flushEvents_ready (s : State) :
    (State.flushEvents s).ready = s.ready := by
  unfold State.flushEvents
  repeat' first
    | with_reducible rfl
    | split
    | (simp [*]; done)
    | (dsimp only; split)
    | refine (foldl_ready _ _ _ fun s x => ?_).trans ?_
    | refine (foldl_ready1 _ _ _ fun s x => ?_).trans ?_
    | (simp [*]; split)

@[simp] theorem State.sendUnit_ready (s : State) (u : Unit64) :
    (State.sendUnit s u).ready = s.ready := by
  unfold State.sendUnit
  repeat' first
    | with_reducible rfl
    | split
    | (simp [*]; done)
    | (dsimp only; split)
    | refine (foldl_ready _ _ _ fun s x => ?_).trans ?_
    | refine (foldl_ready1 _ _ _ fun s x => ?_).trans ?_
    | (simp [*]; split)

@[simp] theorem State.invalidateHost_ready (s : State) :
    (State.invalidateHost s).ready = s.ready := by
  unfold State.invalidateHost
  repeat' first
    | with_reducible rfl
    | split
    | (simp [*]; done)
    | (dsimp only; split)
    | refine (foldl_ready _ _ _ fun s x => ?_).trans ?_
    | refine (foldl_ready1 _ _ _ fun s x => ?_).trans ?_
    | (simp [*]; split)

@[simp] theorem State.writeValid_ready (s : State) (ctx : Nat) (v : Bool) :
    (State.writeValid s ctx v).ready = s.ready := by
  unfold State.writeValid
  repeat' first
    | with_reducible rfl
    | split
    | (simp [*]; done)
    | (dsimp only; split)
    | refine (foldl_ready _ _ _ fun s x => ?_).trans ?_
    | refine (foldl_ready1 _ _ _ fun s x => ?_).trans ?_
    | (simp [*]; split)

@[simp] theorem State.writeEntry_ready (s : State) (ctx off : Nat) (v : Word64) :
    (State.writeEntry s ctx off v).ready = s.ready := by
  unfold State.writeEntry
  repeat' first
    | with_reducible rfl
    | split
    | (simp [*]; done)
    | (dsimp only; split)
    | refine (foldl_ready _ _ _ fun s x => ?_).trans ?_
    | refine (foldl_ready1 _ _ _ fun s x => ?_).trans ?_
    | (simp [*]; split)

@[simp] theorem State.msixWrite_ready (s : State) (word : Nat) (v : Word64) :
    (State.msixWrite s word v).ready = s.ready := by
  unfold State.msixWrite
  repeat' first
    | with_reducible rfl
    | split
    | (simp [*]; done)
    | (dsimp only; split)
    | refine (foldl_ready _ _ _ fun s x => ?_).trans ?_
    | refine (foldl_ready1 _ _ _ fun s x => ?_).trans ?_
    | (simp [*]; split)

@[simp] theorem memPut_ready (s : State) (y0 : List Byte) (y1 : Nat) :
    (memPut s y0 y1).ready = s.ready := by
  induction y0 generalizing s y1 with
  | nil => unfold memPut; rfl
  | cons x l ih =>
    unfold memPut
    repeat' first
      | with_reducible rfl
      | split
      | (simp [*]; done)
      | (dsimp only; split)
      | refine (foldl_ready _ _ _ fun s x => ?_).trans ?_
      | refine (foldl_ready1 _ _ _ fun s x => ?_).trans ?_
      | (simp [*]; split)

@[simp] theorem State.grant_ready (s : State) (o pa : Nat) (own : Bool) (req : HostReq) :
    (State.grant s o pa own req).ready = s.ready := by
  unfold State.grant
  repeat' first
    | with_reducible rfl
    | split
    | (simp [*]; done)
    | (dsimp only; split)
    | refine (foldl_ready _ _ _ fun s x => ?_).trans ?_
    | refine (foldl_ready1 _ _ _ fun s x => ?_).trans ?_
    | (simp [*]; split)

@[simp] theorem State.serveHost_ready (s : State) (o pa : Nat) (req : HostReq) :
    (State.serveHost s o pa req).ready = s.ready := by
  unfold State.serveHost
  repeat' first
    | with_reducible rfl
    | split
    | (simp [*]; done)
    | (dsimp only; split)
    | refine (foldl_ready _ _ _ fun s x => ?_).trans ?_
    | refine (foldl_ready1 _ _ _ fun s x => ?_).trans ?_
    | (simp [*]; split)

@[simp] theorem State.hostLine_ready (s : State) (o : Nat) (req : HostReq) :
    (State.hostLine s o req).ready = s.ready := by
  unfold State.hostLine
  repeat' first
    | with_reducible rfl
    | split
    | (simp [*]; done)
    | (dsimp only; split)
    | refine (foldl_ready _ _ _ fun s x => ?_).trans ?_
    | refine (foldl_ready1 _ _ _ fun s x => ?_).trans ?_
    | (simp [*]; split)

@[simp] theorem State.serveHeld_ready (s : State) :
    (State.serveHeld s).ready = s.ready := by
  unfold State.serveHeld
  repeat' first
    | with_reducible rfl
    | split
    | (simp [*]; done)
    | (dsimp only; split)
    | refine (foldl_ready _ _ _ fun s x => ?_).trans ?_
    | refine (foldl_ready1 _ _ _ fun s x => ?_).trans ?_
    | (simp [*]; split)

@[simp] theorem State.hostStore_ready (s : State) (pa : Nat) (bytes : List Byte) :
    (State.hostStore s pa bytes).ready = s.ready := by
  unfold State.hostStore
  repeat' first
    | with_reducible rfl
    | split
    | (simp [*]; done)
    | (dsimp only; split)
    | refine (foldl_ready _ _ _ fun s x => ?_).trans ?_
    | refine (foldl_ready1 _ _ _ fun s x => ?_).trans ?_
    | (simp [*]; split)

@[simp] theorem State.removeTeam_ready (s : State) (team : Nat) (t : Team) :
    (State.removeTeam s team t).ready = s.ready := by
  unfold State.removeTeam
  repeat' first
    | with_reducible rfl
    | split
    | (simp [*]; done)
    | (dsimp only; split)
    | refine (foldl_ready _ _ _ fun s x => ?_).trans ?_
    | refine (foldl_ready1 _ _ _ fun s x => ?_).trans ?_
    | (simp [*]; split)

@[simp] theorem State.endGrid_ready (s : State) (key : Nat) (g : Grid) :
    (State.endGrid s key g).ready = s.ready := by
  unfold State.endGrid
  repeat' first
    | with_reducible rfl
    | split
    | (simp [*]; done)
    | (dsimp only; split)
    | refine (foldl_ready _ _ _ fun s x => ?_).trans ?_
    | refine (foldl_ready1 _ _ _ fun s x => ?_).trans ?_
    | (simp [*]; split)

@[simp] theorem State.termRecord_ready (s : State) (c : Nat) (reason : BitVec 8) (codes : BitVec 16) (detail grid : Word64) :
    (State.termRecord s c reason codes detail grid).ready = s.ready := by
  unfold State.termRecord
  repeat' first
    | with_reducible rfl
    | split
    | (simp [*]; done)
    | (dsimp only; split)
    | refine (foldl_ready _ _ _ fun s x => ?_).trans ?_
    | refine (foldl_ready1 _ _ _ fun s x => ?_).trans ?_
    | (simp [*]; split)

@[simp] theorem State.freeClauses_ready (s : State) (c : Nat) :
    (State.freeClauses s c).ready = s.ready := by
  unfold State.freeClauses
  repeat' first
    | with_reducible rfl
    | split
    | (simp [*]; done)
    | (dsimp only; split)
    | refine (foldl_ready _ _ _ fun s x => ?_).trans ?_
    | refine (foldl_ready1 _ _ _ fun s x => ?_).trans ?_
    | (simp [*]; split)

@[simp] theorem State.portEvent_ready (s : State) (typ p : Nat) (old new : BitVec 16) (place : Word64) :
    (State.portEvent s typ p old new place).ready = s.ready := by
  unfold State.portEvent
  repeat' first
    | with_reducible rfl
    | split
    | (simp [*]; done)
    | (dsimp only; split)
    | refine (foldl_ready _ _ _ fun s x => ?_).trans ?_
    | refine (foldl_ready1 _ _ _ fun s x => ?_).trans ?_
    | (simp [*]; split)

@[simp] theorem State.resend_ready (s : State) (p : Nat) :
    (State.resend s p).ready = s.ready := by
  unfold State.resend
  repeat' first
    | with_reducible rfl
    | split
    | (simp [*]; done)
    | (dsimp only; split)
    | refine (foldl_ready _ _ _ fun s x => ?_).trans ?_
    | refine (foldl_ready1 _ _ _ fun s x => ?_).trans ?_
    | (simp [*]; split)

@[simp] theorem State.takeAck_ready (s : State) (p : Nat) (f : Flit) :
    (State.takeAck s p f).ready = s.ready := by
  unfold State.takeAck
  repeat' first
    | with_reducible rfl
    | split
    | (simp [*]; done)
    | (dsimp only; split)
    | refine (foldl_ready _ _ _ fun s x => ?_).trans ?_
    | refine (foldl_ready1 _ _ _ fun s x => ?_).trans ?_
    | (simp [*]; split)

@[simp] theorem State.resendReq_ready (s : State) (down : Nat) (r : PortReq) :
    (State.resendReq s down r).ready = s.ready := by
  unfold State.resendReq
  repeat' first
    | with_reducible rfl
    | split
    | (simp [*]; done)
    | (dsimp only; split)
    | refine (foldl_ready _ _ _ fun s x => ?_).trans ?_
    | refine (foldl_ready1 _ _ _ fun s x => ?_).trans ?_
    | (simp [*]; split)

@[simp] theorem State.portStops_ready (s : State) (p : Nat) :
    (State.portStops s p).ready = s.ready := by
  unfold State.portStops
  repeat' first
    | with_reducible rfl
    | split
    | with_reducible refine (State.drain_ready ..).trans ?_
    | with_reducible refine (State.reqLost_ready ..).trans ?_
    | with_reducible refine (State.resendReq_ready ..).trans ?_
    | with_reducible refine (State.sendQueued_ready ..).trans ?_
    | with_reducible refine (State.setPort_ready ..).trans ?_
    | refine (foldl_ready _ _ _ fun s x => ?_).trans ?_
    | refine (foldl_ready1 _ _ _ fun s x => ?_).trans ?_
    | (simp [*]; done)
    | (dsimp only; split)
    | dsimp only

@[simp] theorem State.goDown_ready (s : State) (p : Nat) :
    (State.goDown s p).ready = s.ready := by
  unfold State.goDown
  repeat' first
    | with_reducible rfl
    | split
    | (simp [*]; done)
    | (dsimp only; split)
    | refine (foldl_ready _ _ _ fun s x => ?_).trans ?_
    | refine (foldl_ready1 _ _ _ fun s x => ?_).trans ?_
    | (simp [*]; split)

@[simp] theorem State.askReplay_ready (s : State) (p : Nat) :
    (State.askReplay s p).ready = s.ready := by
  unfold State.askReplay
  repeat' first
    | with_reducible rfl
    | split
    | (simp [*]; done)
    | (dsimp only; split)
    | refine (foldl_ready _ _ _ fun s x => ?_).trans ?_
    | refine (foldl_ready1 _ _ _ fun s x => ?_).trans ?_
    | (simp [*]; split)

@[simp] theorem State.authFail_ready (s : State) (p : Nat) (next : Bool) :
    (State.authFail s p next).ready = s.ready := by
  unfold State.authFail
  repeat' first
    | with_reducible rfl
    | split
    | (simp [*]; done)
    | (dsimp only; split)
    | refine (foldl_ready _ _ _ fun s x => ?_).trans ?_
    | refine (foldl_ready1 _ _ _ fun s x => ?_).trans ?_
    | (simp [*]; split)

@[simp] theorem State.heard_ready (s : State) (p : Nat) :
    (State.heard s p).ready = s.ready := by
  unfold State.heard
  repeat' first
    | with_reducible rfl
    | split
    | (simp [*]; done)
    | (dsimp only; split)
    | refine (foldl_ready _ _ _ fun s x => ?_).trans ?_
    | refine (foldl_ready1 _ _ _ fun s x => ?_).trans ?_
    | (simp [*]; split)

@[simp] theorem State.switchRx_ready (s : State) (p : Nat) :
    (State.switchRx s p).ready = s.ready := by
  unfold State.switchRx
  repeat' first
    | with_reducible rfl
    | split
    | (simp [*]; done)
    | (dsimp only; split)
    | refine (foldl_ready _ _ _ fun s x => ?_).trans ?_
    | refine (foldl_ready1 _ _ _ fun s x => ?_).trans ?_
    | (simp [*]; split)

@[simp] theorem State.returnCredit_ready (s : State) (p c : Nat) :
    (State.returnCredit s p c).ready = s.ready := by
  unfold State.returnCredit
  repeat' first
    | with_reducible rfl
    | split
    | (simp [*]; done)
    | (dsimp only; split)
    | refine (foldl_ready _ _ _ fun s x => ?_).trans ?_
    | refine (foldl_ready1 _ _ _ fun s x => ?_).trans ?_
    | (simp [*]; split)

@[simp] theorem State.accept_ready (s : State) (p : Nat) (f : Flit) (deliver : State → Flit → State) (h_deliver : ∀ x0 x1, (deliver x0 x1).ready = x0.ready) :
    (State.accept s p f deliver).ready = s.ready := by
  unfold State.accept
  repeat' first
    | with_reducible rfl
    | split
    | (simp [*]; done)
    | (dsimp only; split)
    | refine (foldl_ready _ _ _ fun s x => ?_).trans ?_
    | refine (foldl_ready1 _ _ _ fun s x => ?_).trans ?_
    | (simp [*]; split)

@[simp] theorem State.plain_ready (s : State) (p : Nat) (f : Flit) (act : State → State) (h_act : ∀ x0, (act x0).ready = x0.ready) :
    (State.plain s p f act).ready = s.ready := by
  unfold State.plain
  repeat' first
    | with_reducible rfl
    | split
    | (simp [*]; done)
    | (dsimp only; split)
    | refine (foldl_ready _ _ _ fun s x => ?_).trans ?_
    | refine (foldl_ready1 _ _ _ fun s x => ?_).trans ?_
    | (simp [*]; split)

@[simp] theorem State.dropReq_ready (s : State) (p tag : Nat) :
    (State.dropReq s p tag).ready = s.ready := by
  unfold State.dropReq
  repeat' first
    | with_reducible rfl
    | split
    | (simp [*]; done)
    | (dsimp only; split)
    | refine (foldl_ready _ _ _ fun s x => ?_).trans ?_
    | refine (foldl_ready1 _ _ _ fun s x => ?_).trans ?_
    | (simp [*]; split)

@[simp] theorem State.modBulk_ready (s : State) (p tag : Nat) (f : Bulk → Bulk) :
    (State.modBulk s p tag f).ready = s.ready := by
  unfold State.modBulk
  repeat' first
    | with_reducible rfl
    | split
    | (simp [*]; done)
    | (dsimp only; split)
    | refine (foldl_ready _ _ _ fun s x => ?_).trans ?_
    | refine (foldl_ready1 _ _ _ fun s x => ?_).trans ?_
    | (simp [*]; split)

@[simp] theorem State.announce_ready (s : State) (p : Nat) (mask : BitVec 16) (e : BitVec 12) :
    (State.announce s p mask e).ready = s.ready := by
  unfold State.announce
  repeat' first
    | with_reducible rfl
    | split
    | (simp [*]; done)
    | (dsimp only; split)
    | refine (foldl_ready _ _ _ fun s x => ?_).trans ?_
    | refine (foldl_ready1 _ _ _ fun s x => ?_).trans ?_
    | (simp [*]; split)

@[simp] theorem State.loseLight_ready (s : State) (m : BitVec 16) (p : Nat) :
    (State.loseLight s m p).ready = s.ready := by
  unfold State.loseLight
  repeat' first
    | with_reducible rfl
    | split
    | (simp [*]; done)
    | (dsimp only; split)
    | refine (foldl_ready _ _ _ fun s x => ?_).trans ?_
    | refine (foldl_ready1 _ _ _ fun s x => ?_).trans ?_
    | (simp [*]; split)

@[simp] theorem State.applyMode_ready (s : State) (p : Nat) (v : Word64) :
    (State.applyMode s p v).ready = s.ready := by
  unfold State.applyMode
  repeat' first
    | with_reducible rfl
    | split
    | (simp [*]; done)
    | (dsimp only; split)
    | refine (foldl_ready _ _ _ fun s x => ?_).trans ?_
    | refine (foldl_ready1 _ _ _ fun s x => ?_).trans ?_
    | (simp [*]; split)

@[simp] theorem State.runAfter_ready (s : State) (gid n : Nat) (y0 : AfterAct) :
    (State.runAfter s gid n y0).ready = s.ready := by
  unfold State.runAfter
  repeat' first
    | with_reducible rfl
    | split
    | (simp [*]; done)
    | (dsimp only; split)
    | refine (foldl_ready _ _ _ fun s x => ?_).trans ?_
    | refine (foldl_ready1 _ _ _ fun s x => ?_).trans ?_
    | (simp [*]; split)

@[simp] theorem State.enqueueOps_ready (s : State) :
    (State.enqueueOps s).ready = s.ready := by
  unfold State.enqueueOps
  repeat' first
    | with_reducible rfl
    | split
    | (simp [*]; done)
    | (dsimp only; split)
    | refine (foldl_ready _ _ _ fun s x => ?_).trans ?_
    | refine (foldl_ready1 _ _ _ fun s x => ?_).trans ?_
    | (simp [*]; split)

@[simp] theorem State.inOrder_ready (s : State) (gid n : Nat) (cst : Bool) (act : State → State) (h_act : ∀ x0, (act x0).ready = x0.ready) :
    (State.inOrder s gid n cst act).ready = s.ready := by
  unfold State.inOrder
  repeat' first
    | with_reducible rfl
    | split
    | (simp [*]; done)
    | (dsimp only; split)
    | refine (foldl_ready _ _ _ fun s x => ?_).trans ?_
    | refine (foldl_ready1 _ _ _ fun s x => ?_).trans ?_
    | (simp [*]; split)

@[simp] theorem State.endFtot_ready (s : State) (gid n : Nat) (g : Group) (dom sb : Nat) (mer : Nat) :
    (State.endFtot s gid n g dom sb mer).ready = s.ready := by
  unfold State.endFtot
  repeat' first
    | with_reducible rfl
    | split
    | (simp [*]; done)
    | (dsimp only; split)
    | refine (foldl_ready _ _ _ fun s x => ?_).trans ?_
    | refine (foldl_ready1 _ _ _ fun s x => ?_).trans ?_
    | (simp [*]; split)

@[simp] theorem State.endFdrop_ready (s : State) (gid n : Nat) (g : Group) (handle : Word64) (sb : Nat) (mer : Nat) :
    (State.endFdrop s gid n g handle sb mer).ready = s.ready := by
  unfold State.endFdrop
  repeat' first
    | with_reducible rfl
    | split
    | (simp [*]; done)
    | (dsimp only; split)
    | refine (foldl_ready _ _ _ fun s x => ?_).trans ?_
    | refine (foldl_ready1 _ _ _ fun s x => ?_).trans ?_
    | (simp [*]; split)

@[simp] theorem State.endFbnd_ready (s : State) (gid n : Nat) (g : Group) (handle : Word64) (sb j : Nat) (sink : Bool) (cell : Option Nat) (mer : Nat) :
    (State.endFbnd s gid n g handle sb j sink cell mer).ready = s.ready := by
  unfold State.endFbnd
  repeat' first
    | with_reducible rfl
    | split
    | (simp [*]; done)
    | (dsimp only; split)
    | refine (foldl_ready _ _ _ fun s x => ?_).trans ?_
    | refine (foldl_ready1 _ _ _ fun s x => ?_).trans ?_
    | (simp [*]; split)

@[simp] theorem State.act_ready (s : State) (gid n : Nat) (g : Group) (o : Op) :
    (State.act s gid n g o).ready = s.ready := by
  unfold State.act
  repeat' first
    | with_reducible rfl
    | split
    | (simp [*]; done)
    | (dsimp only; split)
    | refine (foldl_ready _ _ _ fun s x => ?_).trans ?_
    | refine (foldl_ready1 _ _ _ fun s x => ?_).trans ?_
    | (simp [*]; split)

@[simp] theorem State.prepare_ready (s : State) (gid n : Nat) (g : Group) (o : Op) :
    (State.prepare s gid n g o).ready = s.ready := by
  unfold State.prepare
  repeat' first
    | with_reducible rfl
    | split
    | with_reducible refine (State.endFfence_ready ..).trans ?_
    | with_reducible refine (State.fbndCell_ready ..).trans ?_
    | with_reducible refine (State.fenceRel_ready ..).trans ?_
    | with_reducible refine (State.l1Clean_ready ..).trans ?_
    | with_reducible refine (State.l2None_ready ..).trans ?_
    | with_reducible refine (State.modGroup_ready ..).trans ?_
    | refine (foldl_ready _ _ _ fun s x => ?_).trans ?_
    | refine (foldl_ready1 _ _ _ fun s x => ?_).trans ?_
    | (simp [*]; done)
    | (dsimp only; split)
    | dsimp only

@[simp] theorem State.complete_ready (s : State) (gid n : Nat) (g : Group) (o : Op) :
    (State.complete s gid n g o).ready = s.ready := by
  unfold State.complete
  repeat' first
    | with_reducible rfl
    | split
    | (simp [*]; done)
    | (dsimp only; split)
    | refine (foldl_ready _ _ _ fun s x => ?_).trans ?_
    | refine (foldl_ready1 _ _ _ fun s x => ?_).trans ?_
    | (simp [*]; split)

@[simp] theorem State.opAt_ready (s : State) (gid n : Nat) (g : Group) (o : Op) :
    (State.opAt s gid n g o).ready = s.ready := by
  unfold State.opAt
  repeat' first
    | with_reducible rfl
    | split
    | (simp [*]; done)
    | (dsimp only; split)
    | refine (foldl_ready _ _ _ fun s x => ?_).trans ?_
    | refine (foldl_ready1 _ _ _ fun s x => ?_).trans ?_
    | (simp [*]; split)

@[simp] theorem State.surrender_ready (s : State) (frame : Nat) :
    (State.surrender s frame).ready = s.ready := by
  unfold State.surrender
  repeat' first
    | with_reducible rfl
    | split
    | (simp [*]; done)
    | (dsimp only; split)
    | refine (foldl_ready _ _ _ fun s x => ?_).trans ?_
    | refine (foldl_ready1 _ _ _ fun s x => ?_).trans ?_
    | (simp [*]; split)

@[simp] theorem State.note_ready (s : State) (tag : BitVec 32) (x : Nat) :
    (State.note s tag x).ready = s.ready := by
  unfold State.note
  repeat' first
    | with_reducible rfl
    | split
    | (simp [*]; done)
    | (dsimp only; split)
    | refine (foldl_ready _ _ _ fun s x => ?_).trans ?_
    | refine (foldl_ready1 _ _ _ fun s x => ?_).trans ?_
    | (simp [*]; split)

@[simp] theorem State.answerTo_ready (s : State) (agent typ : Nat) (tag : BitVec 32) (body : BitVec 416) :
    (State.answerTo s agent typ tag body).ready = s.ready := by
  unfold State.answerTo
  repeat' first
    | with_reducible rfl
    | split
    | (simp [*]; done)
    | (dsimp only; split)
    | refine (foldl_ready _ _ _ fun s x => ?_).trans ?_
    | refine (foldl_ready1 _ _ _ fun s x => ?_).trans ?_
    | (simp [*]; split)

@[simp] theorem State.cellPlace_ready (s : State) (ctx : Nat) (f : Field) (i : Nat) :
    (State.cellPlace s ctx f i).1.ready = s.ready := by
  unfold State.cellPlace
  repeat' first
    | with_reducible rfl
    | split
    | (simp [*]; done)
    | (dsimp only; split)
    | refine (foldl_ready _ _ _ fun s x => ?_).trans ?_
    | refine (foldl_ready1 _ _ _ fun s x => ?_).trans ?_
    | (simp [*]; split)

@[simp] theorem State.putReturn_ready (s : State) (p : Pair) (amt : Nat) :
    (State.putReturn s p amt).ready = s.ready := by
  unfold State.putReturn
  repeat' first
    | with_reducible rfl
    | split
    | (simp [*]; done)
    | (dsimp only; split)
    | refine (foldl_ready _ _ _ fun s x => ?_).trans ?_
    | refine (foldl_ready1 _ _ _ fun s x => ?_).trans ?_
    | (simp [*]; split)

@[simp] theorem State.learn_ready (s : State) (p : Pair) (reason amount : Nat) (back : Bool) :
    (State.learn s p reason amount back).ready = s.ready := by
  unfold State.learn
  repeat' first
    | with_reducible rfl
    | split
    | (simp [*]; done)
    | (dsimp only; split)
    | refine (foldl_ready _ _ _ fun s x => ?_).trans ?_
    | refine (foldl_ready1 _ _ _ fun s x => ?_).trans ?_
    | (simp [*]; split)

@[simp] theorem State.tell_ready (s : State) (p : Pair) (reason amount : Nat) (back : Bool) :
    (State.tell s p reason amount back).ready = s.ready := by
  unfold State.tell
  repeat' first
    | with_reducible rfl
    | split
    | (simp [*]; done)
    | (dsimp only; split)
    | refine (foldl_ready _ _ _ fun s x => ?_).trans ?_
    | refine (foldl_ready1 _ _ _ fun s x => ?_).trans ?_
    | (simp [*]; split)

@[simp] theorem State.holdFar_ready (s : State) (p : Pair) (dom : Option Nat) (back : Nat) :
    (State.holdFar s p dom back).ready = s.ready := by
  unfold State.holdFar
  repeat' first
    | with_reducible rfl
    | split
    | (simp [*]; done)
    | (dsimp only; split)
    | refine (foldl_ready _ _ _ fun s x => ?_).trans ?_
    | refine (foldl_ready1 _ _ _ fun s x => ?_).trans ?_
    | (simp [*]; split)

@[simp] theorem State.debitHere_ready (s : State) (p : Pair) :
    (State.debitHere s p).1.ready = s.ready := by
  unfold State.debitHere
  repeat' first
    | with_reducible rfl
    | split
    | (simp [*]; done)
    | (dsimp only; split)
    | refine (foldl_ready _ _ _ fun s x => ?_).trans ?_
    | refine (foldl_ready1 _ _ _ fun s x => ?_).trans ?_
    | (simp [*]; split)

@[simp] theorem State.creditHere_ready (s : State) (p : Pair) (d : Nat) :
    (State.creditHere s p d).ready = s.ready := by
  unfold State.creditHere
  repeat' first
    | with_reducible rfl
    | split
    | (simp [*]; done)
    | (dsimp only; split)
    | refine (foldl_ready _ _ _ fun s x => ?_).trans ?_
    | refine (foldl_ready1 _ _ _ fun s x => ?_).trans ?_
    | (simp [*]; split)

@[simp] theorem State.returnAt_ready (s : State) (p : Pair) (amount : Nat) :
    (State.returnAt s p amount).ready = s.ready := by
  unfold State.returnAt
  repeat' first
    | with_reducible rfl
    | split
    | (simp [*]; done)
    | (dsimp only; split)
    | refine (foldl_ready _ _ _ fun s x => ?_).trans ?_
    | refine (foldl_ready1 _ _ _ fun s x => ?_).trans ?_
    | (simp [*]; split)

@[simp] theorem State.transferAnswer_ready (s : State) (u : Unit64) :
    (State.transferAnswer s u).ready = s.ready := by
  unfold State.transferAnswer
  repeat' first
    | with_reducible rfl
    | split
    | (simp [*]; done)
    | (dsimp only; split)
    | refine (foldl_ready _ _ _ fun s x => ?_).trans ?_
    | refine (foldl_ready1 _ _ _ fun s x => ?_).trans ?_
    | (simp [*]; split)

@[simp] theorem State.owe_ready (s : State) (u : Unit64) (ctx : Option Nat) (page : Option Word64) (fld : Option Nat) :
    (State.owe s u ctx page fld).ready = s.ready := by
  unfold State.owe
  repeat' first
    | with_reducible rfl
    | split
    | (simp [*]; done)
    | (dsimp only; split)
    | refine (foldl_ready _ _ _ fun s x => ?_).trans ?_
    | refine (foldl_ready1 _ _ _ fun s x => ?_).trans ?_
    | (simp [*]; split)

@[simp] theorem State.remoteTrans_ready (s : State) (u : Unit64) :
    (State.remoteTrans s u).ready = s.ready := by
  unfold State.remoteTrans
  repeat' first
    | with_reducible rfl
    | split
    | (simp [*]; done)
    | (dsimp only; split)
    | refine (foldl_ready _ _ _ fun s x => ?_).trans ?_
    | refine (foldl_ready1 _ _ _ fun s x => ?_).trans ?_
    | (simp [*]; split)

@[simp] theorem State.claim_ready (s : State) (key : Nat) (f : Dict (Nat × Bool) → Dict (Nat × Bool)) :
    (State.claim s key f).ready = s.ready := by
  unfold State.claim
  repeat' first
    | with_reducible rfl
    | split
    | (simp [*]; done)
    | (dsimp only; split)
    | refine (foldl_ready _ _ _ fun s x => ?_).trans ?_
    | refine (foldl_ready1 _ _ _ fun s x => ?_).trans ?_
    | (simp [*]; split)

@[simp] theorem State.registerUnit_ready (s : State) (u : Unit64) :
    (State.registerUnit s u).ready = s.ready := by
  unfold State.registerUnit
  repeat' first
    | with_reducible rfl
    | split
    | (simp [*]; done)
    | (dsimp only; split)
    | refine (foldl_ready _ _ _ fun s x => ?_).trans ?_
    | refine (foldl_ready1 _ _ _ fun s x => ?_).trans ?_
    | (simp [*]; split)

@[simp] theorem State.remoteAtomic_ready (s : State) (u : Unit64) :
    (State.remoteAtomic s u).ready = s.ready := by
  unfold State.remoteAtomic
  repeat' first
    | with_reducible rfl
    | split
    | (simp [*]; done)
    | (dsimp only; split)
    | refine (foldl_ready _ _ _ fun s x => ?_).trans ?_
    | refine (foldl_ready1 _ _ _ fun s x => ?_).trans ?_
    | (simp [*]; split)

@[simp] theorem State.nodeAnswer_ready (s : State) (u : Unit64) :
    (State.nodeAnswer s u).ready = s.ready := by
  unfold State.nodeAnswer
  repeat' first
    | with_reducible rfl
    | split
    | (simp [*]; done)
    | (dsimp only; split)
    | refine (foldl_ready _ _ _ fun s x => ?_).trans ?_
    | refine (foldl_ready1 _ _ _ fun s x => ?_).trans ?_
    | (simp [*]; split)

@[simp] theorem State.ownUnitAt_ready (s : State) (u : Unit64) :
    (State.ownUnitAt s u).ready = s.ready := by
  unfold State.ownUnitAt
  repeat' first
    | with_reducible rfl
    | split
    | (simp [*]; done)
    | (dsimp only; split)
    | refine (foldl_ready _ _ _ fun s x => ?_).trans ?_
    | refine (foldl_ready1 _ _ _ fun s x => ?_).trans ?_
    | (simp [*]; split)

@[simp] theorem State.takeOwner_ready (s : State) (u : Unit64) :
    (State.takeOwner s u).ready = s.ready := by
  unfold State.takeOwner
  repeat' first
    | with_reducible rfl
    | split
    | (simp [*]; done)
    | (dsimp only; split)
    | refine (foldl_ready _ _ _ fun s x => ?_).trans ?_
    | refine (foldl_ready1 _ _ _ fun s x => ?_).trans ?_
    | (simp [*]; split)

@[simp] theorem State.dropOwner_ready (s : State) (u : Unit64) :
    (State.dropOwner s u).ready = s.ready := by
  unfold State.dropOwner
  repeat' first
    | with_reducible rfl
    | split
    | (simp [*]; done)
    | (dsimp only; split)
    | refine (foldl_ready _ _ _ fun s x => ?_).trans ?_
    | refine (foldl_ready1 _ _ _ fun s x => ?_).trans ?_
    | (simp [*]; split)

@[simp] theorem State.remoteTotals_ready (s : State) (u : Unit64) :
    (State.remoteTotals s u).ready = s.ready := by
  unfold State.remoteTotals
  repeat' first
    | with_reducible rfl
    | split
    | (simp [*]; done)
    | (dsimp only; split)
    | refine (foldl_ready _ _ _ fun s x => ?_).trans ?_
    | refine (foldl_ready1 _ _ _ fun s x => ?_).trans ?_
    | (simp [*]; split)

@[simp] theorem State.totalsAnswer_ready (s : State) (u : Unit64) :
    (State.totalsAnswer s u).ready = s.ready := by
  unfold State.totalsAnswer
  repeat' first
    | with_reducible rfl
    | split
    | (simp [*]; done)
    | (dsimp only; split)
    | refine (foldl_ready _ _ _ fun s x => ?_).trans ?_
    | refine (foldl_ready1 _ _ _ fun s x => ?_).trans ?_
    | (simp [*]; split)

theorem State.pairAt_ready (s : State) (p : Pair) (t : State) (h : s.pairAt p = some t) : t.ready = s.ready := by
  simp only [State.pairAt] at h
  have e : ∀ (x : Option (Nat × Pair)) (f : Nat × Pair → Dict Pair),
      (match x with
        | some q => { s with pairs := f q }
        | none => s).ready = s.ready := fun x f => by cases x <;> rfl
  repeat' first
    | split at h
    | (injection h with h; subst h)
    | (obtain ⟨d, -, rfl⟩ := Option.map_eq_some_iff.mp h)
  all_goals repeat' first
    | with_reducible rfl
    | split
    | (simp [*]; done)

@[simp] theorem State.nextPair_ready (s : State) (u : Unit64) :
    (State.nextPair s u).1.ready = s.ready := by
  have e : ∀ (p : Pair) (a : After64), (match s.pairAt p with
      | some t => (t, a)
      | none => (s, .hold)).1.ready = s.ready := fun p a => by
    split
    · exact State.pairAt_ready _ _ _ ‹_›
    · rfl
  unfold State.nextPair
  dsimp only
  split <;> first
    | exact e _ _
    | rfl

@[simp] theorem State.applyUnit_ready (s : State) (u : Unit64) :
    (State.applyUnit s u).1.ready = s.ready := by
  unfold State.applyUnit
  repeat' first
    | with_reducible rfl
    | split
    | (simp [*]; done)
    | (dsimp only; split)
    | refine (foldl_ready _ _ _ fun s x => ?_).trans ?_
    | refine (foldl_ready1 _ _ _ fun s x => ?_).trans ?_
    | (simp [*]; split)

@[simp] theorem State.runUnits_ready (s : State) (y0 : Nat) :
    (State.runUnits s y0).ready = s.ready := by
  induction y0 generalizing s with
  | zero => unfold State.runUnits; rfl
  | succ n ih =>
    unfold State.runUnits
    repeat' first
      | with_reducible rfl
      | split
      | (simp [*]; done)
      | (dsimp only; split)
      | refine (foldl_ready _ _ _ fun s x => ?_).trans ?_
      | refine (foldl_ready1 _ _ _ fun s x => ?_).trans ?_
      | (simp [*]; split)

@[simp] theorem State.runAcks_ready (s : State) :
    (State.runAcks s).ready = s.ready := by
  unfold State.runAcks
  repeat' first
    | with_reducible rfl
    | split
    | (simp [*]; done)
    | (dsimp only; split)
    | refine (foldl_ready _ _ _ fun s x => ?_).trans ?_
    | refine (foldl_ready1 _ _ _ fun s x => ?_).trans ?_
    | (simp [*]; split)

@[simp] theorem State.takeGrants_ready (s : State) (frame : Nat) :
    (State.takeGrants s frame).ready = s.ready := by
  unfold State.takeGrants
  repeat' first
    | with_reducible rfl
    | split
    | (simp [*]; done)
    | (dsimp only; split)
    | refine (foldl_ready _ _ _ fun s x => ?_).trans ?_
    | refine (foldl_ready1 _ _ _ fun s x => ?_).trans ?_
    | (simp [*]; split)

@[simp] theorem State.takeDue_ready (s : State) (y0 : Nat) :
    (State.takeDue s y0).ready = s.ready := by
  induction y0 generalizing s with
  | zero => rfl
  | succ n ih =>
    unfold State.takeDue
    split
    · rfl
    · rw [ih, State.takeGrants_ready]

@[simp] theorem State.loseOps_ready (s : State) :
    (State.loseOps s).ready = s.ready := by
  unfold State.loseOps
  repeat' first
    | with_reducible rfl
    | split
    | (simp [*]; done)
    | (dsimp only; split)
    | refine (foldl_ready _ _ _ fun s x => ?_).trans ?_
    | refine (foldl_ready1 _ _ _ fun s x => ?_).trans ?_
    | (simp [*]; split)

@[simp] theorem State.sendRecord_ready (s : State) (f : Nat) :
    (State.sendRecord s f).ready = s.ready := by
  unfold State.sendRecord
  repeat' first
    | with_reducible rfl
    | split
    | (simp [*]; done)
    | (dsimp only; split)
    | refine (foldl_ready _ _ _ fun s x => ?_).trans ?_
    | refine (foldl_ready1 _ _ _ fun s x => ?_).trans ?_
    | (simp [*]; split)

@[simp] theorem State.tidy_ready (s : State) :
    (State.tidy s).ready = s.ready := by
  unfold State.tidy
  repeat' first
    | with_reducible rfl
    | split
    | (simp [*]; done)
    | (dsimp only; split)
    | refine (foldl_ready _ _ _ fun s x => ?_).trans ?_
    | refine (foldl_ready1 _ _ _ fun s x => ?_).trans ?_
    | (simp [*]; split)

@[simp] theorem State.findLost_ready (s : State) :
    (State.findLost s).ready = s.ready := by
  unfold State.findLost
  repeat' first
    | with_reducible rfl
    | split
    | (simp [*]; done)
    | (dsimp only; split)
    | refine (foldl_ready _ _ _ fun s x => ?_).trans ?_
    | refine (foldl_ready1 _ _ _ fun s x => ?_).trans ?_
    | (simp [*]; split)

@[simp] theorem State.takeRecord_ready (s : State) (f agent : Nat) (r : ResRecord) :
    (State.takeRecord s f agent r).ready = s.ready := by
  unfold State.takeRecord
  repeat' first
    | with_reducible rfl
    | split
    | (simp [*]; done)
    | (dsimp only; split)
    | refine (foldl_ready _ _ _ fun s x => ?_).trans ?_
    | refine (foldl_ready1 _ _ _ fun s x => ?_).trans ?_
    | (simp [*]; split)

@[simp] theorem State.startMeridian_ready (s : State) :
    (State.startMeridian s).ready = s.ready := by
  unfold State.startMeridian
  repeat' first
    | with_reducible rfl
    | split
    | (simp [*]; done)
    | (dsimp only; split)
    | refine (foldl_ready _ _ _ fun s x => ?_).trans ?_
    | refine (foldl_ready1 _ _ _ fun s x => ?_).trans ?_
    | (simp [*]; split)

@[simp] theorem State.bankStarts_ready (s : State) (b : Nat) :
    (State.bankStarts s b).ready = s.ready := by
  have k : ∀ s : State, (((List.range 11).map (fun i => 11 * b + i)).foldl (fun s p => match (s.port p).waits with
      | some v => s.applyMode p v
      | none => s) s).ready = s.ready := fun s => foldl_ready _ _ _ fun s x => by
    split
    · exact State.applyMode_ready ..
    · rfl
  unfold State.bankStarts
  dsimp only
  split
  · exact (State.startMeridian_ready _).trans (k _)
  · exact k _

@[simp] theorem State.mailboxDone_ready (s : State) (status : Nat) (rsp : List Byte) :
    (State.mailboxDone s status rsp).ready = s.ready := by
  unfold State.mailboxDone
  repeat' first
    | with_reducible rfl
    | split
    | (simp [*]; done)
    | (dsimp only; split)
    | refine (foldl_ready _ _ _ fun s x => ?_).trans ?_
    | refine (foldl_ready1 _ _ _ fun s x => ?_).trans ?_
    | (simp [*]; split)

@[simp] theorem State.mailbox_ready (s : State) (opc len : Nat) (safe : Bool) (act : State → State) (h_act : ∀ x0, (act x0).ready = x0.ready) :
    (State.mailbox s opc len safe act).ready = s.ready := by
  unfold State.mailbox
  repeat' first
    | with_reducible rfl
    | split
    | (simp [*]; done)
    | (dsimp only; split)
    | refine (foldl_ready _ _ _ fun s x => ?_).trans ?_
    | refine (foldl_ready1 _ _ _ fun s x => ?_).trans ?_
    | (simp [*]; split)

@[simp] theorem State.installTx_ready (s : State) (p slot : Nat) (key : BitVec 256) :
    (State.installTx s p slot key).ready = s.ready := by
  unfold State.installTx
  repeat' first
    | with_reducible rfl
    | split
    | (simp [*]; done)
    | (dsimp only; split)
    | refine (foldl_ready _ _ _ fun s x => ?_).trans ?_
    | refine (foldl_ready1 _ _ _ fun s x => ?_).trans ?_
    | (simp [*]; split)

@[simp] theorem State.installRx_ready (s : State) (p slot : Nat) (key : BitVec 256) :
    (State.installRx s p slot key).ready = s.ready := by
  unfold State.installRx
  repeat' first
    | with_reducible rfl
    | split
    | (simp [*]; done)
    | (dsimp only; split)
    | refine (foldl_ready _ _ _ fun s x => ?_).trans ?_
    | refine (foldl_ready1 _ _ _ fun s x => ?_).trans ?_
    | (simp [*]; split)

@[simp] theorem State.overrideContext_ready (s : State) (c : Nat) :
    (State.overrideContext s c).ready = s.ready := by
  unfold State.overrideContext
  repeat' first
    | with_reducible rfl
    | split
    | (simp [*]; done)
    | (dsimp only; split)
    | refine (foldl_ready _ _ _ fun s x => ?_).trans ?_
    | refine (foldl_ready1 _ _ _ fun s x => ?_).trans ?_
    | (simp [*]; split)

@[simp] theorem State.checkContext_ready (s : State) (c : Nat) :
    (State.checkContext s c).ready = s.ready := by
  unfold State.checkContext
  repeat' first
    | with_reducible rfl
    | split
    | (simp [*]; done)
    | (dsimp only; split)
    | refine (foldl_ready _ _ _ fun s x => ?_).trans ?_
    | refine (foldl_ready1 _ _ _ fun s x => ?_).trans ?_
    | (simp [*]; split)

@[simp] theorem State.fillByte_ready (s : State) (site pa : Nat) :
    (State.fillByte s site pa).ready = s.ready := by
  unfold State.fillByte
  repeat' first
    | with_reducible rfl
    | split
    | (simp [*]; done)
    | (dsimp only; split)
    | refine (foldl_ready _ _ _ fun s x => ?_).trans ?_
    | refine (foldl_ready1 _ _ _ fun s x => ?_).trans ?_
    | (simp [*]; split)

@[simp] theorem State.evictLine_ready (s : State) (site pa : Nat) :
    (State.evictLine s site pa).ready = s.ready := by
  unfold State.evictLine
  repeat' first
    | with_reducible rfl
    | split
    | with_reducible refine (State.cdel_ready ..).trans ?_
    | with_reducible refine (State.l1Clean_ready ..).trans ?_
    | with_reducible refine (State.l2Flush_ready ..).trans ?_
    | with_reducible refine (State.unmark_ready ..).trans ?_
    | refine (foldl_ready _ _ _ fun s x => ?_).trans ?_
    | refine (foldl_ready1 _ _ _ fun s x => ?_).trans ?_
    | (simp [*]; done)
    | (dsimp only; split)
    | dsimp only

@[simp] theorem State.forget_ready (s : State) (site idx : Nat) :
    (State.forget s site idx).ready = s.ready := by
  unfold State.forget
  repeat' first
    | with_reducible rfl
    | split
    | (simp [*]; done)
    | (dsimp only; split)
    | refine (foldl_ready _ _ _ fun s x => ?_).trans ?_
    | refine (foldl_ready1 _ _ _ fun s x => ?_).trans ?_
    | (simp [*]; split)

end Sys2Proof.Machine
end

