-- ==== Sys2Proof/Tests/Slice0.lean ====
section
/-!
SUPPORT. Tests: words written out from the encodings of R60 to R67 and R77 to R83 with the instructions they
stand for, an ill-formed term for each check, the worked examples of spec/, and for each statement about the
machine a state and operands that meet its hypotheses.
-/
set_option Elab.async false
open Sys2Proof Sys2Proof.Machine
namespace Sys2Proof.Tests

/-! ### A laboratory -/

/-- The header of a clause of class `c` that counts nothing. -/
def headerOf (c : Sys2Proof.Class) : Word64 :=
  BitVec.ofNat 3 (match c with
    | .alu => 0 | .mem => 1 | .field => 2 | .async => 3 | .sys => 4 | .matrix => 5) ++ (0 : BitVec 61)

/-- The machine after reset with instruction `i` laid before it in a group changed by `f`; memory is ready. -/
def lab (c : Sys2Proof.Class) (i : Instr) (f : Group → Group) : State :=
  (State.reset.lay (headerOf c) ((encode i).getD 0)).modGroup 0 f

/-- The state in which that instruction issues. -/
def labCur (c : Sys2Proof.Class) (i : Instr) (f : Group → Group) : State :=
  (((lab c i f).issueNext 0 0).map (fun x => x.1)).getD State.reset

/-- Group 0 of a state. -/
def gr (s : State) : Group := (s.group? 0).getD (groupOf s 0 0)

/-- The state that a step answers. -/
def nextOf (o : Host.Outcome State Fault Refusal) : State :=
  match o with
  | .next t => t
  | _ => State.reset

/-- The state one step after `lab`. -/
def ran (c : Sys2Proof.Class) (i : Instr) (f : Group → Group) : State := nextOf (step (lab c i f))

/-- One scalar result that waits to be written, and the MODE bits it raises. -/
def scaOut (s : State) : Option (Nat × Word64 × List (Nat × BitVec 16)) :=
  match (gr s).results with
  | [p] => match p.upds with
    | [.sca n x] => some (n, x, p.sticky)
    | _ => none
  | _ => none

/-- Lane `i` of one vector result, and the MODE bits raised. -/
def vecOut (s : State) (i : Nat) : Option (Nat × Word32 × List (Nat × BitVec 16)) :=
  match (gr s).results with
  | [p] => match p.upds with
    | .vec n _ x :: _ => some (n, lane x i, p.sticky)
    | _ => none
  | _ => none

/-- One predicate result: the register, the bits written and their values. -/
def predOut (s : State) : Option (Nat × Mask × Mask) :=
  match (gr s).results with
  | [p] => match p.upds with
    | [.pred n m b] => some (n, m, b)
    | _ => none
  | _ => none

/-- A group with scalars. -/
def sregs (l : List (Nat × Word64)) (g : Group) : Group := { g with sregs := l }
/-- A group with predicates. -/
def preds (l : List (Nat × Mask)) (g : Group) : Group := { g with preds := l }
/-- A group with lane 0 alone, and these vector lines. -/
def lane0 (l : List (Nat × Line)) (g : Group) : Group :=
  { g with vregs := l, slot0 := { g.slot0 with mask := 1 } }

/-- Does `i` issue in `s`? -/
def canIssue (s : State) (i : Instr) : Bool :=
  match s.group? s.cur.gid with
  | none => false
  | some g => match (g.slot s.cur.slot).running with
    | none => false
    | some r => g.legal s.cur.slot i && (!privileged i || g.supervisor) && !r.replay

theorem canIssue_issues (s : State) (i : Instr) (h : canIssue s i = true) :
    ∃ g r, s.issues i g r ∧ r.replay = false := by
  unfold canIssue at h
  split at h
  · cases h
  · rename_i g hg
    split at h
    · cases h
    · rename_i r hr
      simp only [Bool.and_eq_true, Bool.or_eq_true, Bool.not_eq_true'] at h
      refine ⟨g, r, ⟨hg, hr, h.1.1, fun hp => ?_⟩, h.2⟩
      simpa [hp] using h.1.2

def rr (f : Form) (m d a b c t : Nat) : RFields :=
  ⟨f, false, 0, BitVec.ofNat 3 m, BitVec.ofNat 11 d, BitVec.ofNat 11 a, BitVec.ofNat 11 b, BitVec.ofNat 11 c,
    BitVec.ofNat 4 t⟩
def ii (f : Form) (m d a imm t : Nat) : IFields :=
  ⟨f, false, 0, BitVec.ofNat 3 m, BitVec.ofNat 11 d, BitVec.ofNat 11 a, BitVec.ofNat 22 imm, BitVec.ofNat 4 t⟩

/-! ### Words written out from the tables of R62 to R67 and R77 to R83 -/

theorem test_decode_integer_registers_1 :
    decode .alu 0x005800A018038000 = some (.iadd (.reg ⟨.f00, true, 3, 0, 5, 6, 7, 0, 0⟩)) ∧
    decode .alu 0x02D900C018038001 = some (.isub (.reg ⟨.f01, true, 3, 1, 6, 6, 7, 0, 1⟩)) ∧
    decode .alu 0x055A00E018038002 = some (.imul (.reg ⟨.f10, true, 3, 2, 7, 6, 7, 0, 2⟩)) ∧
    decode .alu 0x0ADD014018038001 = some (.iadds (.reg ⟨.f01, true, 3, 5, 10, 6, 7, 0, 1⟩)) ∧
    decode .alu 0x0D5E016018038002 = some (.iand (.reg ⟨.f10, true, 3, 6, 11, 6, 7, 0, 2⟩)) ∧
    decode .alu 0x0FDF018018038003 = some (.ior (.reg ⟨.f11, true, 3, 7, 12, 6, 7, 0, 3⟩)) ∧
    decode .alu 0x105801A018038000 = some (.ixor (.reg ⟨.f00, true, 3, 0, 13, 6, 7, 0, 0⟩)) ∧
    decode .alu 0x12D901C018038001 = some (.ishl (.reg ⟨.f01, true, 3, 1, 14, 6, 7, 0, 1⟩)) ∧
    decode .alu 0x155A01E018038002 = some (.ishr (.reg ⟨.f10, true, 3, 2, 15, 6, 7, 0, 2⟩)) ∧
    decode .alu 0x17DB020018038003 = some (.imin (.reg ⟨.f11, true, 3, 3, 16, 6, 7, 0, 3⟩)) := by decide

theorem test_decode_integer_registers_2 :
    decode .alu 0x185C022018038000 = some (.imax (.reg ⟨.f00, true, 3, 4, 17, 6, 7, 0, 0⟩)) ∧
    decode .alu 0x1ADD024018038001 = some (.icmp (.reg ⟨.f01, true, 3, 5, 18, 6, 7, 0, 1⟩)) ∧
    decode .alu 0x230800E018640001 = some (.ibfe (.reg ⟨.f10, false, 1, 0, 7, 6, 200, 0, 1⟩)) := by decide

theorem test_decode_integer_immediates_1 :
    decode .alu 0x801101202BFFFFF3 = some (.iadd (.imm ⟨.f00, false, 2, 1, 9, 10, 4194303, 3⟩)) ∧
    decode .alu 0x829101202FFFFFE3 = some (.isub (.imm ⟨.f01, false, 2, 1, 9, 11, 4194302, 3⟩)) ∧
    decode .alu 0x8591012033FFFFD3 = some (.imul (.imm ⟨.f11, false, 2, 1, 9, 12, 4194301, 3⟩)) ∧
    decode .alu 0x8B9101203FFFFFA3 = some (.iadds (.imm ⟨.f11, false, 2, 1, 9, 15, 4194298, 3⟩)) ∧
    decode .alu 0x8C11012043FFFF93 = some (.iand (.imm ⟨.f00, false, 2, 1, 9, 16, 4194297, 3⟩)) ∧
    decode .alu 0x8E91012047FFFF83 = some (.ior (.imm ⟨.f01, false, 2, 1, 9, 17, 4194296, 3⟩)) ∧
    decode .alu 0x919101204BFFFF73 = some (.ixor (.imm ⟨.f11, false, 2, 1, 9, 18, 4194295, 3⟩)) ∧
    decode .alu 0x921101204FFFFF63 = some (.ishl (.imm ⟨.f00, false, 2, 1, 9, 19, 4194294, 3⟩)) ∧
    decode .alu 0x9491012053FFFF53 = some (.ishr (.imm ⟨.f01, false, 2, 1, 9, 20, 4194293, 3⟩)) ∧
    decode .alu 0x9791012057FFFF43 = some (.imin (.imm ⟨.f11, false, 2, 1, 9, 21, 4194292, 3⟩)) := by decide

theorem test_decode_integer_immediates_2 :
    decode .alu 0x981101205BFFFF33 = some (.imax (.imm ⟨.f00, false, 2, 1, 9, 22, 4194291, 3⟩)) ∧
    decode .alu 0x9A9101205FFFFF23 = some (.icmp (.imm ⟨.f01, false, 2, 1, 9, 23, 4194290, 3⟩)) ∧
    decode .alu 0xA20000E01800C040 = some (.ibfe (.imm ⟨.f00, false, 0, 0, 7, 6, 3076, 0⟩)) := by decide

theorem test_decode_integer_others_1 :
    decode .alu 0x0683008014030072 = some (.imulh ⟨.f01, false, 0, 3, 4, 5, 6, 7, 2⟩) ∧
    decode .alu 0x0903008014030072 = some (.imad ⟨.f10, false, 0, 3, 4, 5, 6, 7, 2⟩) ∧
    decode .alu 0x1C03008014030072 = some (.isel ⟨.f00, false, 0, 3, 4, 5, 6, 7, 2⟩) ∧
    decode .alu 0x1E83008014030072 = some (.mov ⟨.f01, false, 0, 3, 4, 5, 6, 7, 2⟩) ∧
    decode .alu 0x2583008014030072 = some (.ibfi ⟨.f11, false, 0, 3, 4, 5, 6, 7, 2⟩) ∧
    decode .alu 0x2603008014030072 = some (.iclz ⟨.f00, false, 0, 3, 4, 5, 6, 7, 2⟩) ∧
    decode .alu 0x2983008014030072 = some (.ipopc ⟨.f11, false, 0, 3, 4, 5, 6, 7, 2⟩) ∧
    decode .alu 0x2B83008014030072 = some (.plop ⟨.f11, false, 0, 3, 4, 5, 6, 7, 2⟩) ∧
    decode .alu 0x2D83008014030072 = some (.pmov ⟨.f11, false, 0, 3, 4, 5, 6, 7, 2⟩) ∧
    decode .alu 0x2F83008014030072 = some (.pcnt ⟨.f11, false, 0, 3, 4, 5, 6, 7, 2⟩) := by decide

theorem test_decode_integer_others_2 :
    decode .alu 0x2180008000000253 = some (.movi ⟨.f11, false, 0, 4, 18, true, 3⟩) := by decide

theorem test_decode_floating_point_1 :
    decode .alu 0x40080100240500B4 = some (.fadd ⟨.f00, false, 1, 0, 8, 9, 10, 11, 4⟩) ∧
    decode .alu 0x42890100240500B4 = some (.fsub ⟨.f01, false, 1, 1, 8, 9, 10, 11, 4⟩) ∧
    decode .alu 0x450A0100240500B4 = some (.fmul ⟨.f10, false, 1, 2, 8, 9, 10, 11, 4⟩) ∧
    decode .alu 0x460B0100240500B4 = some (.ffma ⟨.f00, false, 1, 3, 8, 9, 10, 11, 4⟩) ∧
    decode .alu 0x488C0100240500B4 = some (.fmin ⟨.f01, false, 1, 4, 8, 9, 10, 11, 4⟩) ∧
    decode .alu 0x4B0D0100240500B4 = some (.fmax ⟨.f10, false, 1, 5, 8, 9, 10, 11, 4⟩) ∧
    decode .alu 0x4C0E0100240500B4 = some (.fcmp ⟨.f00, false, 1, 6, 8, 9, 10, 11, 4⟩) ∧
    decode .alu 0x4E50018034000004 = some (.fclass ⟨.f00, true, 2, 0, 12, 13, 0, 0, 4⟩) ∧
    decode .alu 0x5050018034000004 = some (.frcp ⟨.f00, true, 2, 0, 12, 13, 0, 0, 4⟩) ∧
    decode .alu 0x5250018034000004 = some (.frsq ⟨.f00, true, 2, 0, 12, 13, 0, 0, 4⟩) := by decide

theorem test_decode_floating_point_2 :
    decode .alu 0x5450018034000004 = some (.fsqrt ⟨.f00, true, 2, 0, 12, 13, 0, 0, 4⟩) ∧
    decode .alu 0x5650018034000004 = some (.fexp2 ⟨.f00, true, 2, 0, 12, 13, 0, 0, 4⟩) ∧
    decode .alu 0x5850018034000004 = some (.flog2 ⟨.f00, true, 2, 0, 12, 13, 0, 0, 4⟩) ∧
    decode .alu 0x5A50018034000004 = some (.fsin ⟨.f00, true, 2, 0, 12, 13, 0, 0, 4⟩) ∧
    decode .alu 0x5C50018034000004 = some (.fcos ⟨.f00, true, 2, 0, 12, 13, 0, 0, 4⟩) := by decide

theorem test_decode_conversion_and_cross_lane_1 :
    decode .alu 0x600200A018038084 = some (.cvt ⟨.f00, false, 0, 2, 5, 6, 7, 8, 4⟩) ∧
    decode .alu 0x620200A018038084 = some (.cvtfx ⟨.f00, false, 0, 2, 5, 6, 7, 8, 4⟩) ∧
    decode .alu 0x640200A018038084 = some (.cvtxf ⟨.f00, false, 0, 2, 5, 6, 7, 8, 4⟩) ∧
    decode .alu 0x660200A018038084 = some (.pack ⟨.f00, false, 0, 2, 5, 6, 7, 8, 4⟩) ∧
    decode .alu 0x680200A018038084 = some (.unpack ⟨.f00, false, 0, 2, 5, 6, 7, 8, 4⟩) ∧
    decode .alu 0x712101C03C080009 = some (.shfl ⟨.f10, false, 4, 1, 14, 15, 16, 0, 9⟩) ∧
    decode .alu 0x722101C03C080009 = some (.vred ⟨.f00, false, 4, 1, 14, 15, 16, 0, 9⟩) ∧
    decode .alu 0x742101C03C080009 = some (.vscan ⟨.f00, false, 4, 1, 14, 15, 16, 0, 9⟩) ∧
    decode .alu 0x762101C03C080009 = some (.vbal ⟨.f00, false, 4, 1, 14, 15, 16, 0, 9⟩) ∧
    decode .alu 0x792101C03C080009 = some (.vbcast ⟨.f10, false, 4, 1, 14, 15, 16, 0, 9⟩) := by decide

theorem test_decode_conversion_and_cross_lane_2 :
    decode .alu 0x7A2101C03C080009 = some (.vmatch ⟨.f00, false, 4, 1, 14, 15, 16, 0, 9⟩) := by decide

theorem test_decode_control_alu :
    decode .alu 0xEF80000000000000 = some (.yield) ∧
    decode .alu 0xFF80000000000000 = some (.nop) ∧
    decode .alu 0xF04A00000B00000D = some (.bra ⟨.f00, true, 1, 2, 11, 13⟩) ∧
    decode .alu 0xF3800500E0000C60 = some (.brx ⟨.f11, false, 0, 40, 7, 99⟩) ∧
    decode .alu 0xF410FFFFFE000000 = some (.call ⟨.f00, false, 2, 0, 16777214, 0⟩) ∧
    decode .alu 0xF6000781200000A0 = some (.callx ⟨.f00, false, 0, 60, 9, 5⟩) ∧
    decode .alu 0xF800FFC000000000 = some (.ret ⟨.f00, false, 0, 2046, 0, 0⟩) ∧
    decode .alu 0xFB800000E0000000 = some (.lpad ⟨.f11, false, 0, 0, 7, 0⟩) ∧
    decode .alu 0xFC58000000000000 = some (.exit ⟨.f00, true, 3, 0, 0, 0⟩) := by decide

theorem test_decode_control_sys :
    decode .sys 0xEF80000000000000 = some (.yield) ∧
    decode .sys 0xFF80000000000000 = some (.nop) ∧
    decode .sys 0xF04A00000B00000D = some (.bra ⟨.f00, true, 1, 2, 11, 13⟩) ∧
    decode .sys 0xF3800500E0000C60 = some (.brx ⟨.f11, false, 0, 40, 7, 99⟩) ∧
    decode .sys 0xF410FFFFFE000000 = some (.call ⟨.f00, false, 2, 0, 16777214, 0⟩) ∧
    decode .sys 0xF6000781200000A0 = some (.callx ⟨.f00, false, 0, 60, 9, 5⟩) ∧
    decode .sys 0xF800FFC000000000 = some (.ret ⟨.f00, false, 0, 2046, 0, 0⟩) ∧
    decode .sys 0xFB800000E0000000 = some (.lpad ⟨.f11, false, 0, 0, 7, 0⟩) ∧
    decode .sys 0xFC58000000000000 = some (.exit ⟨.f00, true, 3, 0, 0, 0⟩) := by decide

theorem test_decode_memory :
    decode .mem 0x008302004423FFDD = some (.ld ⟨.f01, false, 0, 3, 16, 17, 8, true, 2047, 3, 5⟩) ∧
    decode .mem 0x020302004423FFDD = some (.st ⟨.f00, false, 0, 3, 16, 17, 8, true, 2047, 3, 5⟩) ∧
    decode .mem 0x098302004423FFDD = some (.cas ⟨.f11, false, 0, 3, 16, 17, 8, true, 2047, 3, 5⟩) ∧
    decode .mem 0x0A0302004423FFDD = some (.cas128 ⟨.f00, false, 0, 3, 16, 17, 8, true, 2047, 3, 5⟩) ∧
    decode .mem 0x118302004423FFDD = some (.fence ⟨.f11, false, 0, 3, 16, 17, 8, true, 2047, 3, 5⟩) ∧
    decode .mem 0x138302004423FFDD = some (.acqr ⟨.f11, false, 0, 3, 16, 17, 8, true, 2047, 3, 5⟩) ∧
    decode .mem 0x218302004423FFDD = some (.stmap ⟨.f11, false, 0, 3, 16, 17, 8, true, 2047, 3, 5⟩) ∧
    decode .mem 0x238302004423FFDD = some (.stunmap ⟨.f11, false, 0, 3, 16, 17, 8, true, 2047, 3, 5⟩) ∧
    decode .mem 0x258302004423FFDD = some (.stwb ⟨.f11, false, 0, 3, 16, 17, 8, true, 2047, 3, 5⟩) ∧
    decode .mem 0x268302004423FFDD = some (.pfl ⟨.f01, false, 0, 3, 16, 17, 8, true, 2047, 3, 5⟩) := by decide

theorem test_decode_atomics_1 :
    decode .mem 0x400C02805824001A = some (.atom .add ⟨.f00, false, 1, 4, 20, 22, 9, false, 0, 3, 2⟩) ∧
    decode .mem 0x6080028008260011 = some (.atomt .add ⟨.f01, false, 0, 0, 20, 2, 9, true, 0, 2, 1⟩) ∧
    decode .mem 0x420C02805824005A = some (.atom .and ⟨.f00, false, 1, 4, 20, 22, 9, false, 1, 3, 2⟩) ∧
    decode .mem 0x6280028008260051 = some (.atomt .and ⟨.f01, false, 0, 0, 20, 2, 9, true, 1, 2, 1⟩) ∧
    decode .mem 0x440C02805824009A = some (.atom .or ⟨.f00, false, 1, 4, 20, 22, 9, false, 2, 3, 2⟩) ∧
    decode .mem 0x6480028008260091 = some (.atomt .or ⟨.f01, false, 0, 0, 20, 2, 9, true, 2, 2, 1⟩) ∧
    decode .mem 0x460C0280582400DA = some (.atom .xor ⟨.f00, false, 1, 4, 20, 22, 9, false, 3, 3, 2⟩) ∧
    decode .mem 0x66800280082600D1 = some (.atomt .xor ⟨.f01, false, 0, 0, 20, 2, 9, true, 3, 2, 1⟩) ∧
    decode .mem 0x480C02805824011A = some (.atom .min ⟨.f00, false, 1, 4, 20, 22, 9, false, 4, 3, 2⟩) ∧
    decode .mem 0x6880028008260111 = some (.atomt .min ⟨.f01, false, 0, 0, 20, 2, 9, true, 4, 2, 1⟩) := by decide

theorem test_decode_atomics_2 :
    decode .mem 0x4A0C02805824015A = some (.atom .max ⟨.f00, false, 1, 4, 20, 22, 9, false, 5, 3, 2⟩) ∧
    decode .mem 0x6A80028008260151 = some (.atomt .max ⟨.f01, false, 0, 0, 20, 2, 9, true, 5, 2, 1⟩) ∧
    decode .mem 0x4C0C02805824019A = some (.atom .swap ⟨.f00, false, 1, 4, 20, 22, 9, false, 6, 3, 2⟩) ∧
    decode .mem 0x6C80028008260191 = some (.atomt .swap ⟨.f01, false, 0, 0, 20, 2, 9, true, 6, 2, 1⟩) := by decide

theorem test_decode_field :
    decode .field 0x000A00601003050A = some (.txf ⟨.f00, false, 1, 2, 3, 4, 6, 10, 10⟩) ∧
    decode .field 0x0380010200600A00 = some (.ftot ⟨.f11, false, 0, 1, 2, 3, 5, false⟩) ∧
    decode .field 0x0580010200600A00 = some (.ffence ⟨.f11, false, 0, 1, 2, 3, 5, false⟩) ∧
    decode .field 0x0780010200600A00 = some (.fstat ⟨.f11, false, 0, 1, 2, 3, 5, false⟩) ∧
    decode .field 0x0980010200600A00 = some (.fdef ⟨.f11, false, 0, 1, 2, 3, 5, false⟩) ∧
    decode .field 0x0981010200600A00 = some (.fdefDrop ⟨.f11, false, 0, 1, 2, 3, 5, false⟩) ∧
    decode .field 0x0B80010200600A00 = some (.fbnd ⟨.f11, false, 0, 1, 2, 3, 5, false⟩) := by decide

theorem test_decode_async_1 :
    decode .async 0x01800A1400500300 = some (.bara ⟨.f11, false, 0, 10, 20, 2, 2049, true⟩) ∧
    decode .async 0x01810A1400500300 = some (.baraInit ⟨.f11, false, 0, 10, 20, 2, 2049, true⟩) ∧
    decode .async 0x03800A1400500300 = some (.barw ⟨.f11, false, 0, 10, 20, 2, 2049, true⟩) ∧
    decode .async 0x05800A1400500300 = some (.barx ⟨.f11, false, 0, 10, 20, 2, 2049, true⟩) ∧
    decode .async 0x07800A1400500300 = some (.tbar ⟨.f11, false, 0, 10, 20, 2, 2049, true⟩) ∧
    decode .async 0x07810A1400500300 = some (.tbarArr ⟨.f11, false, 0, 10, 20, 2, 2049, true⟩) ∧
    decode .async 0x07820A1400500300 = some (.tbarWait ⟨.f11, false, 0, 10, 20, 2, 2049, true⟩) ∧
    decode .async 0x11800A1400500300 = some (.kick ⟨.f11, false, 0, 10, 20, 2, 2049, true⟩) ∧
    decode .async 0x13800A1400500300 = some (.cpwait ⟨.f11, false, 0, 10, 20, 2, 2049, true⟩) ∧
    decode .async 0x15800A1400500300 = some (.yieldc ⟨.f11, false, 0, 10, 20, 2, 2049, true⟩) := by decide

theorem test_decode_async_2 :
    decode .async 0x17800A1400500300 = some (.pfb ⟨.f11, false, 0, 10, 20, 2, 2049, true⟩) ∧
    decode .async 0x21800A1400500300 = some (.enq ⟨.f11, false, 0, 10, 20, 2, 2049, true⟩) ∧
    decode .async 0x23800A1400500300 = some (.deq ⟨.f11, false, 0, 10, 20, 2, 2049, true⟩) ∧
    decode .async 0x25800A1400500300 = some (.launch ⟨.f11, false, 0, 10, 20, 2, 2049, true⟩) ∧
    decode .async 0x24000A1400500300 = some (.launchPerLane ⟨.f00, false, 0, 10, 20, 2, 2049, true⟩) := by decide

theorem test_decode_system_1 :
    decode .sys 0x0180000028EE0080 = some (.setfmt ⟨.f11, false, 0, 0, 21458948, false, 0⟩) ∧
    decode .sys 0x0380000000E00040 = some (.setmode ⟨.f11, false, 0, 0, 458754, false, 0⟩) ∧
    decode .sys 0x041000C02C000000 = some (.srd ⟨.f00, false, 2, 0, 6, 11, 0, 0, 0⟩) ∧
    decode .sys 0x078000E078000000 = some (.swr ⟨.f11, false, 0, 0, 7, 30, 0, 0, 0⟩) ∧
    decode .sys 0x1180FA03003FFF00 = some (.csrr ⟨.f11, false, 0, 250, 3, 1, 4095, true⟩) ∧
    decode .sys 0x1380FA03003FFF00 = some (.csrw ⟨.f11, false, 0, 250, 3, 1, 4095, true⟩) ∧
    decode .sys 0x1580FA03003FFF00 = some (.trap ⟨.f11, false, 0, 250, 3, 1, 4095, true⟩) ∧
    decode .sys 0x1780FA03003FFF00 = some (.rte ⟨.f11, false, 0, 250, 3, 1, 4095, true⟩) ∧
    decode .sys 0x1781FA03003FFF00 = some (.rteSkip ⟨.f11, false, 0, 250, 3, 1, 4095, true⟩) ∧
    decode .sys 0x2180FA03003FFF00 = some (.mappgFt ⟨.f11, false, 0, 250, 3, 1, 4095, true⟩) := by decide

theorem test_decode_system_2 :
    decode .sys 0x2181FA03003FFF00 = some (.mappgRep ⟨.f11, false, 0, 250, 3, 1, 4095, true⟩) ∧
    decode .sys 0x2182FA03003FFF00 = some (.mappgCol ⟨.f11, false, 0, 250, 3, 1, 4095, true⟩) ∧
    decode .sys 0x2380FA03003FFF00 = some (.fqpost ⟨.f11, false, 0, 250, 3, 1, 4095, true⟩) ∧
    decode .sys 0x2580FA03003FFF00 = some (.park ⟨.f11, false, 0, 250, 3, 1, 4095, true⟩) ∧
    decode .sys 0x2780FA03003FFF00 = some (.invlpPg ⟨.f11, false, 0, 250, 3, 1, 4095, true⟩) ∧
    decode .sys 0x2781FA03003FFF00 = some (.invlpCtx ⟨.f11, false, 0, 250, 3, 1, 4095, true⟩) ∧
    decode .sys 0x3180FA03003FFF00 = some (.qdig ⟨.f11, false, 0, 250, 3, 1, 4095, true⟩) ∧
    decode .sys 0x3380FA03003FFF00 = some (.qend ⟨.f11, false, 0, 250, 3, 1, 4095, true⟩) := by decide

theorem test_decode_matrix :
    decode .matrix 0x000087884FFFFC00 = some (.mma ⟨0, true, 0, 15, 132, 1048572⟩) ∧
    decode .matrix 0x02018F085FFFFC00 = some (.mzero ⟨1, true, 1, 14, 133, 1048572⟩) ∧
    decode .matrix 0x040096886FFFFC00 = some (.mstc ⟨0, true, 2, 13, 134, 1048572⟩) ∧
    decode .matrix 0x06019E087FFFFC00 = some (.mwait ⟨1, true, 3, 12, 135, 1048572⟩) ∧
    decode .matrix 0x0800A5888FFFFC00 = some (.marr ⟨0, true, 4, 11, 136, 1048572⟩) ∧
    decode .matrix 0x0A01AD089FFFFC00 = some (.mloop ⟨1, true, 5, 10, 137, 1048572⟩) ∧
    decode .matrix 0x0C00B488AFFFFC00 = some (.mbr ⟨0, true, 6, 9, 138, 1048572⟩) ∧
    decode .matrix 0x0E01BC08BFFFFC00 = some (.mend ⟨1, true, 7, 8, 139, 1048572⟩) ∧
    decode .matrix 0x1000C388CFFFFC00 = some (.msetf ⟨0, true, 8, 7, 140, 1048572⟩) := by decide

/-- R73, R77 to R83: how many words of OP and FORM with every other field zero a class assigns, for OP 8k to 8k + 7. -/
def assigned (c : Sys2Proof.Class) (k : Nat) : Nat :=
  ((List.range 32).filter (fun n => (decode c (BitVec.ofNat 64 ((32 * k + n) * 2 ^ 55))).isSome)).length

/-- The assigned (OP, FORM) pairs of R77 to R83; their sums are those of chapter 4: 172, 48, 7, 12, 26 and 9. -/
theorem test_assigned_alu : (List.range 16).map (assigned .alu) =
    [32, 31, 17, 0, 22, 7, 5, 8, 18, 18, 3, 0, 0, 0, 1, 10] := by decide +kernel
theorem test_assigned_mem : (List.range 16).map (assigned .mem) =
    [12, 2, 6, 0, 21, 0, 7, 0, 0, 0, 0, 0, 0, 0, 0, 0] := by decide +kernel
theorem test_assigned_field : (List.range 16).map (assigned .field) =
    [7, 0, 0, 0, 0, 0, 0, 0, 0, 0, 0, 0, 0, 0, 0, 0] := by decide +kernel
theorem test_assigned_async : (List.range 16).map (assigned .async) =
    [4, 4, 4, 0, 0, 0, 0, 0, 0, 0, 0, 0, 0, 0, 0, 0] := by decide +kernel
theorem test_assigned_sys : (List.range 16).map (assigned .sys) =
    [5, 4, 4, 2, 0, 0, 0, 0, 0, 0, 0, 0, 0, 0, 1, 10] := by decide +kernel
theorem test_assigned_matrix : (List.range 16).map (assigned .matrix) =
    [8, 1, 0, 0, 0, 0, 0, 0, 0, 0, 0, 0, 0, 0, 0, 0] := by decide +kernel

/-- The words of the clause that chapter 4 encodes word by word. -/
theorem test_decode_listed_clause :
    decode .alu 0x0000006004010000 = some (.iadd (.reg ⟨.f00, false, 0, 0, 3, 1, 2, 0, 0⟩)) ∧
    decode .alu 0x818000A014000012 = some (.iadd (.imm ⟨.f11, false, 0, 0, 5, 5, 1, 2⟩)) ∧
    decode .alu 0x040000800C018000 = some (.imul (.reg ⟨.f00, false, 0, 0, 4, 3, 3, 0, 0⟩)) := by decide

/-- R59, R73: no word outside the tables: OP 0x18, form 01 of ICLZ, form 10 of MOV and of an immediate, form 00 of
PLOP, MOVI with a modifier; atomic operation 7; FIELD OP 6, FSEL in class 2; ASYNC OP 4; SYS OP 4; MATRIX OP 9, a
reserved bit of MX, of Q and of X; classes 6 and 7. -/
theorem test_reserved_words :
    [(Sys2Proof.Class.alu, 0x3000000000000000#64), (.alu, 0x2680000000000000), (.alu, 0x1F00000000000000),
     (.alu, 0x8100000000000000), (.alu, 0x2A00000000000000), (.alu, 0x2181008000000253), (.mem, 0x4E80000000000000),
     (.mem, 0x6080000000000000 ||| 0x0100000000000000), (.field, 0x0D80000000000000), (.field, 0x0380000000000100),
     (.async, 0x0980000000000000), (.async, 0x0180000000000201), (.sys, 0x0980000000000000),
     (.sys, 0x1181000000000001), (.matrix, 0x1200000000000000), (.matrix, 0x0000003800000001),
     (.matrix, 0x0080000000000000)].all (fun e => (decode e.1 e.2).isNone) = true := by decide
theorem test_unassigned_class :
    decodeTableWord 128 (0x0000006004010000 * 2 ^ 64 + 6 * 2 ^ 61) = none ∧
    decodeTableWord 128 (0x0000006004010000 * 2 ^ 64 + 7 * 2 ^ 61) = none ∧
    decodeTableWord 128 (0x0000006004010000 * 2 ^ 64) = some (.iadd (.reg ⟨.f00, false, 0, 0, 3, 1, 2, 0, 0⟩)) := by
  decide +kernel

/-! ### Well-formedness: an ill-formed term for each check -/

def wf (i : Instr) : Bool := i.wellFormed 32 0
def qq (f : Form) (sa sb obj imm : Nat) : QFields :=
  ⟨f, false, 0, BitVec.ofNat 8 sa, BitVec.ofNat 8 sb, BitVec.ofNat 11 obj, BitVec.ofNat 12 imm, false⟩
def mm (f : Form) (order data addr sbase off size scope : Nat) : MFields :=
  ⟨f, false, 0, BitVec.ofNat 3 order, BitVec.ofNat 11 data, BitVec.ofNat 11 addr, BitVec.ofNat 8 sbase, false,
    BitVec.ofNat 11 off, BitVec.ofNat 3 size, BitVec.ofNat 3 scope⟩
def xx (m : Nat) (acc : Bool) (ta tb num imm : Nat) : MXFields :=
  ⟨BitVec.ofNat 3 m, acc, BitVec.ofNat 4 ta, BitVec.ofNat 4 tb, BitVec.ofNat 11 num, BitVec.ofNat 20 imm⟩

/-- R60, R61, R68 to R71, R77: forms, predicates, registers of the budget, pairs, types and unused fields. -/
theorem test_wf_alu :
    wf (.iadd (.reg (rr .f00 0 5 3 4 0 0))) = true ∧ wf (.iadd (.reg (rr .f00 0 21 2047 4 0 0))) = true ∧
    [Instr.iadd (.reg (rr .f00 0 22 3 4 0 0)), .iadd (.reg (rr .f00 0 5 32 4 0 0)), .iadd (.reg (rr .f11 0 256 3 4 0 0)),
     .iadd (.reg (rr .f00 0 5 2 4 0 2)), .iadd (.reg (rr .f00 0 5 3 4 0 4)), .iadd (.reg (rr .f00 0 5 3 4 1 0)),
     .iadd (.reg (rr .f00 1 5 3 4 0 0)), .iadds (.reg (rr .f00 2 5 3 4 0 0)), .iadd (.imm (ii .f10 0 5 3 1 0)),
     .iadd (.reg { rr .f11 0 5 3 4 0 0 with pred := 1 }), .iadd (.reg { rr .f00 0 5 3 4 0 0 with neg := true }),
     .imul (.reg (rr .f00 0 5 3 4 0 10)), .icmp (.reg (rr .f00 0 8 3 4 0 0)), .icmp (.reg (rr .f00 6 5 3 4 0 0)),
     .ibfe (.imm (ii .f00 0 7 6 0x010C04 0)), .ibfe (.reg (rr .f00 0 7 6 5 1 0)), .isel (rr .f00 0 5 3 4 8 0),
     .mov (rr .f10 0 5 3 0 0 0), .mov (rr .f00 0 5 3 1 0 0), .movi ⟨.f00, false, 0, 5, 1, true, 0⟩,
     .movi ⟨.f11, false, 0, 5, 1, true, 0⟩, .movi ⟨.f00, false, 0, 5, 1, false, 2⟩, .iclz (rr .f01 0 7 6 0 0 0),
     .plop (rr .f11 0 8 1 2 0 0), .plop (rr .f00 0 3 1 2 0 0), .pmov (rr .f11 4 3 1 0 0 0), .pmov (rr .f11 3 3 1 0 0 0),
     .pcnt (rr .f11 4 3 1 0 0 0), .fadd (rr .f11 0 5 3 4 0 4), .fadd (rr .f00 7 5 3 4 0 4), .fadd (rr .f00 0 5 3 4 0 0),
     .fmin (rr .f00 1 5 3 4 0 4), .fcmp (rr .f00 7 2 3 4 0 4), .fclass (rr .f00 0 5 3 0 0 5), .frsq (rr .f00 1 5 3 0 0 4),
     .cvt (rr .f00 0 5 6 4 0 4), .cvt (rr .f00 0 5 6 16 0 4), .cvt (rr .f00 0 5 6 2 0 4), .cvtfx (rr .f00 0 5 6 32 0 10),
     .cvtxf (rr .f00 0 5 6 64 0 11), .pack (rr .f00 0 8 2 0 0 7), .unpack (rr .f00 0 9 8 0 0 7), .shfl (rr .f00 4 3 2 7 0 0),
     .vred (rr .f00 3 6 2 0 0 4), .vscan (rr .f00 0 6 2 0 2 0), .vbal (rr .f00 2 6 2 0 0 0), .vbcast (rr .f01 0 6 2 0 0 0),
     .vmatch (rr .f00 0 5 2 0 0 0)].all (fun i => !wf i) = true := by decide

/-- R82, R118 to R125: the control block. -/
theorem test_wf_control :
    wf (.bra ⟨.f00, false, 1, 0, 1, 2⟩) = true ∧
    [Instr.bra ⟨.f00, false, 1, 3, 1, 2⟩, .bra ⟨.f00, false, 1, 1, 1, 2⟩, .bra ⟨.f11, false, 0, 0, 1, 2⟩,
     .call ⟨.f00, false, 1, 0, 1, 2⟩, .brx ⟨.f00, false, 1, 2, 0, 0⟩, .brx ⟨.f00, false, 0, 3, 0, 0⟩,
     .brx ⟨.f11, false, 0, 3, 0, 1⟩, .callx ⟨.f01, false, 0, 2, 0, 0⟩, .ret ⟨.f00, false, 0, 2, 1, 0⟩,
     .lpad ⟨.f11, false, 0, 1, 0, 0⟩, .exit ⟨.f00, false, 0, 0, 1, 0⟩].all (fun i => !wf i) = true := by decide

/-- R229 to R247: orders, scopes, sizes and data registers. -/
theorem test_wf_memory :
    wf (.ld (mm .f00 0 4 2 5 0 2 0)) = true ∧ wf (.atom .add (mm .f00 4 4 2 5 0 2 3)) = true ∧
    [Instr.ld (mm .f00 2 4 2 5 0 2 0), .ld (mm .f00 0 4 2 5 0 6 0), .ld (mm .f00 0 4 2 5 0 2 1), .ld (mm .f00 1 4 2 5 0 2 6),
     .ld (mm .f00 4 4 2 5 0 1 3), .ld (mm .f00 0 5 2 5 0 3 0), .ld (mm .f10 0 4 2 5 0 2 0), .st (mm .f00 1 4 2 5 0 2 0),
     .pfl (mm .f00 0 1 2 5 0 2 0), .pfl (mm .f00 0 0 2 5 0 2 1), .atom .add (mm .f00 0 4 2 5 0 2 3),
     .atom .add (mm .f00 4 4 2 5 0 1 3), .atomt .add (mm .f00 4 4 2 5 0 2 3), .cas (mm .f11 4 4 2 5 0 4 3),
     .cas (mm .f11 4 5 2 5 0 3 3), .cas128 (mm .f11 4 4 2 5 0 3 3), .fence (mm .f11 0 0 0 0 0 0 3),
     .fence (mm .f11 3 0 0 0 0 0 6), .fence (mm .f11 3 1 0 0 0 0 3), .acqr (mm .f11 1 0 0 5 0 0 2),
     .stmap (mm .f11 0 5 2 6 0 4 0), .stmap (mm .f11 0 4 2 6 0 3 0), .stunmap (mm .f11 0 0 0 6 0 0 0),
     .stwb (mm .f11 0 0 0 6 1 0 3)].all (fun i => !wf i) = true := by decide

/-- R276 to R289, R248 to R252, R316 to R328, R346: classes 2 and 3. -/
theorem test_wf_field_and_async :
    wf (.ftot (qq .f11 0 16 0 5)) = true ∧ wf (.kick (qq .f11 10 0 0 1)) = true ∧
    [Instr.txf ⟨.f00, false, 1, 3, 2, 3, 6, 10, 10⟩, .txf ⟨.f00, false, 1, 0, 2, 3, 6, 10, 0⟩,
     .txf ⟨.f00, false, 1, 0, 2, 3, 7, 10, 11⟩, .ftot (qq .f11 0 15 0 5), .ftot (qq .f11 0 16 0 1024),
     .ftot { qq .f11 0 16 0 5 with fsel := true }, .ffence (qq .f11 0 0 0 0), .fstat (qq .f11 0 16 0 1),
     .fdef (qq .f11 4 5 1 0), .fdefDrop (qq .f11 4 5 0 1), .fbnd (qq .f11 4 5 0 512), .bara (qq .f11 0 5 3 0),
     .baraInit (qq .f11 0 5 3 1), .barw (qq .f11 4 5 3 0), .barx (qq .f11 0 0 3 0), .tbar (qq .f11 0 0 16 0),
     .tbarArr (qq .f11 1 5 3 0), .tbarWait (qq .f11 4 5 3 0), .kick (qq .f11 10 0 0 0), .kick (qq .f11 10 0 0 257),
     .cpwait (qq .f11 10 0 0 0), .yieldc (qq .f11 10 11 0 6), .pfb (qq .f11 10 11 0 0), .enq (qq .f11 10 11 1024 0),
     .deq (qq .f11 10 11 3 2), .launch (qq .f00 10 11 3 0), .launchPerLane (qq .f00 10 3 3 0),
     .launchPerLane (qq .f00 10 4 3 1)].all (fun i => !wf i) = true := by decide

/-- R127 to R129, R143 to R145, R223 to R227, R301 to R308: classes 4 and 5. -/
theorem test_wf_system_and_matrix :
    wf (.setfmt ⟨.f11, false, 0, 0, 0x01477004, false, 0⟩) = true ∧ wf (.mma (xx 0 false 7 7 16 0x40)) = true ∧
    [Instr.setfmt ⟨.f11, false, 0, 0, 0x0147700C, false, 0⟩, .setfmt ⟨.f11, false, 0, 0, 0x81477004, false, 0⟩,
     .setmode ⟨.f11, false, 0, 1, 0, false, 0⟩, .srd (rr .f11 0 5 0 0 0 0), .srd (rr .f00 0 5 1 0 0 0),
     .srd (rr .f11 0 5 17 0 0 0), .srd (rr .f00 0 5 11 0 0 0), .swr (rr .f11 0 5 3 0 0 0), .csrr (qq .f11 4 0 12 0),
     .csrw (qq .f11 4 1 1 0), .trap (qq .f11 4 0 1 0), .rte (qq .f11 1 0 0 0), .rteSkip (qq .f11 0 0 0 1),
     .mappgFt (qq .f11 4 5 0 32), .mappgRep (qq .f11 4 5 0 1), .mappgCol (qq .f11 4 5 1 0), .fqpost (qq .f11 4 5 0 1),
     .park (qq .f11 0 0 0 1), .invlpPg (qq .f11 4 0 0 2), .invlpCtx (qq .f11 4 0 0 0), .qdig (qq .f11 0 6 0 0),
     .qend (qq .f11 0 0 1 0), .mma (xx 2 false 7 7 16 0x40), .mma (xx 0 false 4 7 16 0x40), .mzero (xx 0 true 1 0 0 0),
     .mstc (xx 6 false 0 0 0 0), .mstc (xx 0 false 1 0 0 0), .mwait (xx 0 false 0 0 3 1), .marr (xx 0 false 0 0 3 0),
     .marr (xx 0 false 0 0 3 4096), .mloop (xx 0 false 0 0 3 0), .mbr (xx 2 false 0 0 0 4), .mend (xx 0 false 0 0 1 0),
     .msetf (xx 0 false 0 0 0 0x4000), .msetf (xx 2 false 0 0 0 1)].all (fun i => !wf i) = true := by decide

/-! ### Integer, predicate and move instructions: the worked examples of R178 to R188 -/

/-- R178: iadds.sub of 0x7FFFFFF0 and −32 clamps and sets OF, as i32 and as n32. -/
theorem test_iadds_clamps :
    vecOut (ran .alu (.iadds (.reg (rr .f00 1 5 3 4 0 0))) (lane0 [(3, 0x7FFFFFF0), (4, 0xFFFFFFE0)])) 0 ==
      some (5, 0x7FFFFFFF, [(0, bitOF)]) &&
    vecOut (ran .alu (.iadds (.reg (rr .f00 1 5 3 4 0 1))) (lane0 [(3, 0x7FFFFFF0), (4, 0xFFFFFFE0)])) 0 ==
      some (5, 0, [(0, bitOF)]) := by decide +kernel

/-- R177 by hand: sums and products wrap to W bits, a scalar result is extended by the type's signedness (R175). -/
theorem test_sums_and_products :
    scaOut (ran .alu (.iadd (.imm (ii .f11 0 5 3 0x3FFFFF 2))) (sregs [(3, 0)])) == some (5, 0xFFFFFFFFFFFFFFFF, []) &&
    scaOut (ran .alu (.iadd (.reg (rr .f11 0 5 3 4 0 0))) (sregs [(3, 0x7FFFFFFF), (4, 1)])) ==
      some (5, 0xFFFFFFFF80000000, []) &&
    scaOut (ran .alu (.isub (.reg (rr .f11 0 5 3 4 0 1))) (sregs [(3, 0), (4, 1)])) == some (5, 0x00000000FFFFFFFF, []) &&
    scaOut (ran .alu (.imul (.reg (rr .f11 0 5 3 4 0 3))) (sregs [(3, 0x8000000000000001), (4, 2)])) == some (5, 2, []) &&
    scaOut (ran .alu (.imulh (rr .f11 0 5 3 4 0 2)) (sregs [(3, 0xFFFFFFFFFFFFFFFF), (4, 2)])) ==
      some (5, 0xFFFFFFFFFFFFFFFF, []) &&
    scaOut (ran .alu (.imulh (rr .f11 0 5 3 4 0 3)) (sregs [(3, 0xFFFFFFFFFFFFFFFF), (4, 2)])) == some (5, 1, []) &&
    scaOut (ran .alu (.imad (rr .f11 0 5 3 4 6 0)) (sregs [(3, 3), (4, 5), (6, 0xFFFFFFF0)])) ==
      some (5, 0xFFFFFFFFFFFFFFFF, []) := by decide +kernel

/-- R177 by hand: the bitwise functions, and the lesser and the greater by signedness. -/
theorem test_bitwise_and_order :
    scaOut (ran .alu (.iand (.reg (rr .f11 0 5 3 4 0 3))) (sregs [(3, 12), (4, 10)])) == some (5, 8, []) &&
    scaOut (ran .alu (.ior (.reg (rr .f11 0 5 3 4 0 3))) (sregs [(3, 12), (4, 10)])) == some (5, 14, []) &&
    scaOut (ran .alu (.ixor (.reg (rr .f11 0 5 3 4 0 3))) (sregs [(3, 12), (4, 10)])) == some (5, 6, []) &&
    scaOut (ran .alu (.imin (.reg (rr .f11 0 5 3 4 0 0))) (sregs [(3, 0xFFFFFFFF), (4, 1)])) ==
      some (5, 0xFFFFFFFFFFFFFFFF, []) &&
    scaOut (ran .alu (.imin (.reg (rr .f11 0 5 3 4 0 1))) (sregs [(3, 0xFFFFFFFF), (4, 1)])) == some (5, 1, []) &&
    scaOut (ran .alu (.imax (.reg (rr .f11 0 5 3 4 0 0))) (sregs [(3, 0xFFFFFFFF), (4, 1)])) == some (5, 1, []) := by
  decide +kernel

/-- R179: the examples with a = 0x80000001. -/
theorem test_shifts :
    vecOut (ran .alu (.ishr (.imm (ii .f00 0 5 3 4 0))) (lane0 [(3, 0x80000001)])) 0 == some (5, 0xF8000000, []) &&
    vecOut (ran .alu (.ishr (.imm (ii .f00 0 5 3 4 1))) (lane0 [(3, 0x80000001)])) 0 == some (5, 0x08000000, []) &&
    vecOut (ran .alu (.ishr (.imm (ii .f00 0 5 3 40 0))) (lane0 [(3, 0x80000001)])) 0 == some (5, 0xFFFFFFFF, []) &&
    vecOut (ran .alu (.ishl (.imm (ii .f00 0 5 3 32 0))) (lane0 [(3, 0x80000001)])) 0 == some (5, 0, []) &&
    vecOut (ran .alu (.ishr (.imm (ii .f00 1 5 3 36 1))) (lane0 [(3, 0x80000001)])) 0 == some (5, 0x18000000, []) &&
    vecOut (ran .alu (.ishl (.imm (ii .f00 1 5 3 36 1))) (lane0 [(3, 0x80000001)])) 0 == some (5, 0x00000018, []) &&
    vecOut (ran .alu (.ishl (.imm (ii .f00 0 5 3 0x3FFFFF 0))) (lane0 [(3, 0x80000001)])) 0 == some (5, 0, []) := by decide +kernel

/-- R184: ibfe of 0xABCD by 0x0C04 in both signednesses, the 64-bit cut at W, and the example of ibfi. R185 by hand. -/
theorem test_fields_and_counts :
    vecOut (ran .alu (.ibfe (.imm (ii .f00 0 7 6 0x0C04 0))) (lane0 [(6, 0xABCD)])) 0 == some (7, 0xFFFFFABC, []) &&
    vecOut (ran .alu (.ibfe (.imm (ii .f00 0 7 6 0x0C04 1))) (lane0 [(6, 0xABCD)])) 0 == some (7, 0x00000ABC, []) &&
    scaOut (ran .alu (.ibfe (.imm (ii .f11 0 7 6 0x0A3C 3))) (sregs [(6, 0xF123456789ABCDEF)])) == some (7, 0xF, []) &&
    vecOut (ran .alu (.ibfi (rr .f00 0 8 1 2 3 1)) (lane0 [(1, 5), (2, 0xFFFFFFFF), (3, 0x0304)])) 0 ==
      some (8, 0xFFFFFFDF, []) &&
    scaOut (ran .alu (.iclz (rr .f11 0 7 6 0 0 0)) (sregs [(6, 0x00010000)])) == some (7, 15, []) &&
    scaOut (ran .alu (.iclz (rr .f11 0 7 6 0 0 2)) (sregs [])) == some (7, 64, []) &&
    scaOut (ran .alu (.ipopc (rr .f11 0 7 6 0 0 2)) (sregs [(6, 0xF0F0000000000001)])) == some (7, 9, []) := by
  decide +kernel

/-- R180 to R183 by hand: −1 is below 1 as i32 and above it as n32; ISEL, MOV, MOVI and MOVI.HI. -/
theorem test_compare_select_move :
    scaOut (ran .alu (.icmp (.reg (rr .f11 2 5 3 4 0 0))) (sregs [(3, 0xFFFFFFFF), (4, 1)])) == some (5, 1, []) &&
    scaOut (ran .alu (.icmp (.reg (rr .f11 2 5 3 4 0 1))) (sregs [(3, 0xFFFFFFFF), (4, 1)])) == some (5, 0, []) &&
    predOut (ran .alu (.icmp (.imm (ii .f00 4 1 2 50 0))) (lane0 [(2, 51)])) == some (1, 1, 1) &&
    scaOut (ran .alu (.isel (rr .f11 0 5 3 4 6 3)) (sregs [(3, 10), (4, 20), (6, 0)])) == some (5, 20, []) &&
    scaOut (ran .alu (.isel (rr .f11 0 5 3 4 6 3)) (sregs [(3, 10), (4, 20), (6, 7)])) == some (5, 10, []) &&
    scaOut (ran .alu (.mov (rr .f11 0 5 3 0 0 0)) (sregs [(3, 0x80000000)])) == some (5, 0xFFFFFFFF80000000, []) &&
    scaOut (ran .alu (.movi ⟨.f11, false, 0, 5, 0x80000000, false, 2⟩) (sregs [])) == some (5, 0xFFFFFFFF80000000, []) &&
    scaOut (ran .alu (.movi ⟨.f11, false, 0, 5, 0x12345678, true, 3⟩) (sregs [(5, 0xAAAAAAAA9ABCDEF0)])) ==
      some (5, 0x123456789ABCDEF0, []) := by decide +kernel

/-- R186 to R188: plop.nand p2, p0, p2 inverts p2; plop.andn; pmov; the example of pcnt. -/
theorem test_predicates :
    predOut (ran .alu (.plop (rr .f11 5 2 0 2 0 0)) (preds [(2, 0xFF)])) == some (2, allLanes, 0xFFFFFFFFFFFFFF00) &&
    predOut (ran .alu (.plop (rr .f11 3 3 1 2 0 0)) (preds [(1, 0xFF), (2, 0x0F)])) == some (3, allLanes, 0xF0) &&
    scaOut (ran .alu (.pmov (rr .f11 1 4 1 0 0 0)) (preds [(1, 0xFF)])) == some (4, 0xFF, []) &&
    predOut (ran .alu (.pmov (rr .f11 3 4 0 0 0 0)) (lane0 [])) == some (4, allLanes, 1) &&
    scaOut (ran .alu (.pcnt (rr .f11 1 7 0 0 0 0)) (lane0 [])) == some (7, 1, []) &&
    scaOut (ran .alu (.pcnt (rr .f11 2 7 1 0 0 0)) (preds [(1, 0x00000100FFFFFFDF)])) == some (7, 0, []) &&
    scaOut (ran .alu (.pcnt (rr .f11 3 7 1 0 0 0)) (preds [(1, 0x00000100FFFFFFDF)])) == some (7, 40, []) := by
  decide +kernel

/-! ### Floating point, conversions, cross-lane -/

/-- R194, R161, R167 by hand: 1 + 2⁻²⁴ is a tie to even; 3 · 1.5; a fused product; 1 − 1 is +0; ∞ − ∞ is invalid;
the largest number doubled overflows to ∞. -/
theorem test_float_arithmetic :
    vecOut (ran .alu (.fadd (rr .f00 1 5 3 4 0 4)) (lane0 [(3, 0x3F800000), (4, 0x33800000)])) 0 ==
      some (5, 0x3F800000, [(0, bitNX)]) &&
    vecOut (ran .alu (.fmul (rr .f00 1 5 3 4 0 4)) (lane0 [(3, 0x40400000), (4, 0x3FC00000)])) 0 == some (5, 0x40900000, []) &&
    vecOut (ran .alu (.ffma (rr .f00 1 5 3 4 6 4)) (lane0 [(3, 0x40400000), (4, 0x3FC00000), (6, 0xBF000000)])) 0 ==
      some (5, 0x40800000, []) &&
    vecOut (ran .alu (.fsub (rr .f00 1 5 3 3 0 4)) (lane0 [(3, 0x3F800000)])) 0 == some (5, 0, []) &&
    vecOut (ran .alu (.fsub (rr .f00 1 5 3 3 0 4)) (lane0 [(3, 0x7F800000)])) 0 == some (5, 0x7FC00000, [(0, bitNV)]) &&
    vecOut (ran .alu (.fadd (rr .f00 1 5 3 3 0 4)) (lane0 [(3, 0x7F7FFFFF)])) 0 ==
      some (5, 0x7F800000, [(0, bitOF ||| bitNX)]) := by decide +kernel

/-- R195 to R197: −0 is below +0; a number before a NaN; NaN is unordered; the classes of −0 and of a signalling NaN. -/
theorem test_float_order :
    vecOut (ran .alu (.fmin (rr .f00 0 5 3 4 0 4)) (lane0 [(3, 0), (4, 0x80000000)])) 0 == some (5, 0x80000000, []) &&
    vecOut (ran .alu (.fmax (rr .f00 0 5 3 4 0 4)) (lane0 [(3, 0x7FC00000), (4, 0xC0000000)])) 0 == some (5, 0xC0000000, []) &&
    predOut (ran .alu (.fcmp (rr .f00 0 2 3 4 0 4)) (lane0 [(3, 0), (4, 0x80000000)])) == some (2, 1, 1) &&
    predOut (ran .alu (.fcmp (rr .f00 6 2 3 4 0 4)) (lane0 [(3, 0x7FC00000), (4, 0)])) == some (2, 1, 1) &&
    vecOut (ran .alu (.fclass (rr .f00 0 5 3 0 0 4)) (lane0 [(3, 0x80000000)])) 0 == some (5, 0x008, []) &&
    vecOut (ran .alu (.fclass (rr .f00 0 5 3 0 0 4)) (lane0 [(3, 0x7F800001)])) 0 == some (5, 0x100, []) := by
  decide +kernel

/-- R198, R199: 1/3 rounded to nearest, and the special inputs. -/
theorem test_special_functions :
    vecOut (ran .alu (.frcp (rr .f00 1 5 3 0 0 4)) (lane0 [(3, 0x40400000)])) 0 == some (5, 0x3EAAAAAB, [(0, bitNX)]) &&
    vecOut (ran .alu (.frcp (rr .f00 1 5 3 0 0 4)) (lane0 [(3, 0x80000000)])) 0 == some (5, 0xFF800000, [(0, bitDZ)]) &&
    vecOut (ran .alu (.fsqrt (rr .f00 1 5 3 0 0 4)) (lane0 [(3, 0x40800000)])) 0 == some (5, 0x40000000, []) &&
    vecOut (ran .alu (.frsq (rr .f00 0 5 3 0 0 4)) (lane0 [(3, 0x7F800000)])) 0 == some (5, 0, []) &&
    vecOut (ran .alu (.fexp2 (rr .f00 0 5 3 0 0 4)) (lane0 [(3, 0)])) 0 == some (5, 0x3F800000, []) &&
    vecOut (ran .alu (.flog2 (rr .f00 0 5 3 0 0 4)) (lane0 [(3, 0)])) 0 == some (5, 0xFF800000, [(0, bitDZ)]) &&
    vecOut (ran .alu (.fsin (rr .f00 0 5 3 0 0 4)) (lane0 [(3, 0x7F800000)])) 0 == some (5, 0x7FC00000, [(0, bitNV)]) &&
    vecOut (ran .alu (.fcos (rr .f00 0 5 3 0 0 4)) (lane0 [(3, 0)])) 0 == some (5, 0x3F800000, []) := by
  decide +kernel

/-- R200 to R202: the examples of CVT and CVTFX; n32 0x80000000 to i32 saturates; CVTXF of Q16.16 0x00034000. -/
theorem test_conversions :
    vecOut (ran .alu (.cvt (rr .f00 2 5 6 0 0 4)) (lane0 [(6, 0xC0300000)])) 0 == some (5, 0xFFFFFFFE, [(0, bitNX)]) &&
    vecOut (ran .alu (.cvt (rr .f00 0 5 6 0 0 1)) (lane0 [(6, 0x80000000)])) 0 == some (5, 0x7FFFFFFF, [(0, bitOF)]) &&
    vecOut (ran .alu (.cvtfx (rr .f00 1 20 12 16 0 10)) (lane0 [(12, 0x40500000)])) 0 == some (20, 0x00034000, []) &&
    vecOut (ran .alu (.cvtxf (rr .f00 1 20 12 16 0 10)) (lane0 [(12, 0x00034000)])) 0 == some (20, 0x40500000, []) := by
  decide +kernel

/-- The listing of chapter 12 and the table of R158: pack.rn.dm8 of 3.140625, 250, −0.00042 and 1, and unpack. -/
theorem test_pack_and_unpack :
    vecOut (ran .alu (.pack (rr .f00 1 8 0 0 0 7))
      (lane0 [(0, 0x40490000), (1, 0x437A0000), (2, 0xB9DC33C3), (3, 0x3F800000)])) 0 ==
      some (8, 0x40857148, [(0, bitNX)]) &&
    ((gr (ran .alu (.unpack (rr .f00 1 12 8 0 0 7)) (lane0 [(8, 0x40857148)]))).results.map (fun p =>
      (p.upds.map (fun u => match u with
        | .vec n _ x => if n = 14 then (n, 0) else (n, lane x 0)
        | _ => (0, 0)), p.sticky))) ==
      [([(12, 0x40500000), (13, 0x43548000), (14, 0), (15, 0x3F800000)], [(0, bitNX)])] := by decide +kernel

/-- Lanes 0, 1 and 3, holding 1, 2 and 4; lane 2 holds 9. -/
def threeLanes (g : Group) : Group :=
  { g with vregs := [(2, 0x00000004000000090000000200000001)], sregs := [(7, 1)]
           slot0 := { g.slot0 with mask := 0b1011 } }
def laneOut (i : Instr) : List (Option Word32) :=
  [0, 1, 3].map (fun l => (vecOut (ran .alu i threeLanes) l).map (fun x => x.2.1))

/-- R204 to R208: lanes 0, 1 and 3 hold 1, 2 and 4. -/
theorem test_cross_lane :
    laneOut (.vscan (rr .f00 0 3 2 0 0 0)) == [some 1, some 3, some 7] &&
    laneOut (.vscan (rr .f00 0 3 2 0 1 0)) == [some 0, some 1, some 3] &&
    laneOut (.shfl (rr .f10 2 3 2 7 0 0)) == [some 2, some 2, some 4] &&
    laneOut (.vbcast (rr .f10 0 3 2 7 0 0)) == [some 2, some 2, some 2] &&
    laneOut (.vmatch (rr .f00 0 4 2 0 0 0)) == [some 1, some 2, some 8] &&
    scaOut (ran .alu (.vred (rr .f00 0 6 2 0 0 0)) threeLanes) == some (6, 7, []) &&
    scaOut (ran .alu (.vred (rr .f00 2 6 2 0 0 0)) threeLanes) == some (6, 4, []) &&
    scaOut (ran .alu (.vbal (rr .f00 1 6 2 0 0 0)) threeLanes) == some (6, 0b1011, []) := by decide +kernel

/-! ### Witnesses: what meets the hypotheses of the statements about instruction words -/

/-- A group in supervisor mode. -/
def sup (g : Group) : Group := { g with supervisor := true }

/-- Each class's instructions, well formed. -/
def integerWords : List Instr :=
  let o : Alu := .reg (rr .f00 0 5 3 4 0 0)
  [.iadd o, .isub o, .imul o, .iadds o, .iand o, .ior o, .ixor o, .ishl o, .ishr o, .imin o, .imax o, .icmp o, .ibfe o,
   .iadd (.imm (ii .f11 0 5 3 1 2)), .ibfe (.imm (ii .f11 0 5 3 0x0A3C 3)), .imulh (rr .f00 0 5 3 4 0 0),
   .imad (rr .f01 0 5 3 4 6 0), .isel (rr .f00 0 5 3 4 1 0), .isel (rr .f11 0 5 3 4 6 3), .mov (rr .f01 0 5 3 0 0 0),
   .movi ⟨.f00, false, 0, 5, 1, false, 0⟩, .movi ⟨.f11, false, 0, 5, 1, true, 2⟩, .movi ⟨.f11, false, 0, 5, 1, false, 2⟩,
   .ibfi (rr .f10 0 5 3 4 6 0), .iclz (rr .f00 0 5 3 0 0 0), .ipopc (rr .f11 0 5 3 0 0 0), .plop (rr .f11 0 3 1 2 0 0),
   .pmov (rr .f11 0 3 1 0 0 0), .pmov (rr .f11 1 3 1 0 0 0), .pmov (rr .f11 2 3 1 0 0 0), .pmov (rr .f11 3 3 0 0 0 0),
   .pcnt (rr .f11 0 3 1 0 0 0), .pcnt (rr .f11 3 3 1 0 0 0)]
def floatWords : List Instr :=
  let q := rr .f00 0 5 3 4 0 4
  let u := rr .f00 0 5 3 0 0 4
  [.fadd q, .fsub q, .fmul q, .ffma q, .fmin q, .fmax q, .fcmp q, .fcmp { q with mod := 6 }, .fclass u, .frcp u, .frsq u,
   .fsqrt u, .fexp2 u, .flog2 u, .fsin u, .fcos u, .cvt u, .cvtfx (rr .f00 0 5 3 4 0 10), .cvtxf (rr .f00 0 5 3 4 0 10),
   .pack (rr .f00 0 8 0 0 0 7), .unpack (rr .f00 0 8 0 0 0 7), .shfl (rr .f00 0 5 3 4 0 0), .shfl (rr .f10 3 5 3 4 0 0),
   .vred (rr .f00 0 5 3 0 0 0), .vscan (rr .f00 0 5 3 0 1 0), .vbal (rr .f00 0 5 3 0 0 0), .vbal (rr .f00 1 5 3 0 0 0),
   .vbcast (rr .f00 0 5 3 0 0 0), .vbcast (rr .f10 1 5 3 4 0 0), .vmatch (rr .f00 0 4 2 0 0 0)]
def controlWords : List Instr :=
  [.yield, .nop, .bra ⟨.f00, false, 1, 0, 1, 2⟩, .bra ⟨.f00, false, 1, 2, 1, 0⟩, .call ⟨.f00, false, 1, 0, 1, 0⟩,
   .brx ⟨.f00, false, 0, 2, 7, 1⟩, .brx ⟨.f11, false, 0, 2, 7, 0⟩, .callx ⟨.f00, false, 0, 2, 7, 1⟩,
   .callx ⟨.f11, false, 0, 2, 7, 0⟩, .ret ⟨.f00, false, 0, 2, 0, 0⟩, .lpad ⟨.f11, false, 0, 0, 7, 0⟩,
   .exit ⟨.f00, false, 1, 0, 0, 0⟩]
def memoryWords : List Instr :=
  [.ld (mm .f00 0 4 2 5 0 2 0), .ld (mm .f11 1 4 2 5 1 3 3), .st (mm .f01 2 4 2 5 0 2 3), .cas (mm .f11 4 4 2 5 0 3 3),
   .cas128 (mm .f11 4 4 2 5 0 4 3), .fence (mm .f11 3 0 0 0 0 0 3), .fence (mm .f11 3 0 0 0 0 0 4),
   .acqr (mm .f11 1 0 0 5 0 0 3), .stmap (mm .f11 0 4 2 6 0 4 0), .stunmap (mm .f11 0 0 0 6 0 0 3),
   .stwb (mm .f11 0 0 0 6 0 0 3), .pfl (mm .f00 0 0 2 5 0 2 2), .atom .add (mm .f00 4 4 2 5 0 2 3),
   .atom .swap (mm .f11 3 4 2 5 0 3 5), .atomt .max (mm .f01 4 4 2 5 0 2 3)]
def fieldWords : List Instr :=
  [.txf ⟨.f00, false, 1, 0, 2, 3, 6, 10, 10⟩, .txf ⟨.f11, false, 0, 1, 2, 3, 6, 10, 11⟩, .ftot (qq .f11 0 16 0 5),
   .ffence (qq .f11 0 0 0 3), .fstat (qq .f11 0 16 0 0), .fdef (qq .f11 4 5 0 0), .fdefDrop (qq .f11 4 5 0 0),
   .fbnd (qq .f11 4 5 0 0x101)]
def asyncWords : List Instr :=
  [.bara (qq .f11 0 5 3 1), .baraInit (qq .f11 0 0 3 2), .barw (qq .f11 4 0 3 0), .barx (qq .f11 0 0 3 1),
   .tbar (qq .f11 0 0 15 0), .tbarArr (qq .f11 0 5 3 0), .tbarWait (qq .f11 4 0 3 0), .kick (qq .f11 10 0 0 256),
   .cpwait (qq .f11 10 0 0 3), .yieldc (qq .f11 10 11 0 5), .pfb (qq .f11 10 11 0 4), .enq (qq .f11 10 11 1023 1),
   .deq (qq .f11 10 11 3 0), .launch (qq .f11 10 11 3 0), .launchPerLane (qq .f00 10 4 3 0)]
def systemWords : List Instr :=
  [.setfmt ⟨.f11, false, 0, 0, 0x01477004, false, 0⟩, .setmode ⟨.f11, false, 0, 0, 0x00070003, false, 0⟩,
   .srd (rr .f00 0 5 0 0 0 0), .srd (rr .f00 0 6 11 0 0 0), .srd (rr .f11 0 5 16 0 0 0), .swr (rr .f11 0 6 3 0 0 0),
   .swr (rr .f11 0 16 3 0 0 0), .trap (qq .f11 4 0 0 9), .qdig (qq .f11 0 8 0 0), .qend (qq .f11 0 0 0 0)]
def privilegedWords : List Instr :=
  [.csrr (qq .f11 250 0 1 0), .csrr (qq .f11 250 0 20 0), .csrw (qq .f11 250 0 2 0), .csrw (qq .f11 250 0 16 0),
   .rte (qq .f11 0 0 0 0), .rteSkip (qq .f11 0 0 0 0), .mappgFt (qq .f11 250 251 0 0x13), .mappgRep (qq .f11 250 251 0 0),
   .mappgCol (qq .f11 250 251 0 0), .fqpost (qq .f11 250 251 0 0), .park (qq .f11 0 0 0 0), .invlpPg (qq .f11 250 0 0 1),
   .invlpCtx (qq .f11 0 0 0 0)]

def allIssue (c : Sys2Proof.Class) (f : Group → Group) (l : List Instr) : Bool :=
  l.all (fun i => canIssue (labCur c i f) i)
theorem issues_of_all {c : Sys2Proof.Class} {f : Group → Group} {l : List Instr} (h : allIssue c f l = true) :
    ∀ i ∈ l, ∃ g r, (labCur c i f).issues i g r ∧ r.replay = false := by
  intro i hi
  exact canIssue_issues _ _ (by simpa [allIssue] using (List.all_eq_true.mp h) i hi)

/-- IntegerResults, ShiftFieldAndCountResults, CompareSelectAndMoveResults, PredicateInstructionResults: every form
issues from the laboratory's state. -/
theorem witness_integer_words : ∀ i ∈ integerWords, ∃ g r, (labCur .alu i id).issues i g r ∧ r.replay = false :=
  issues_of_all (by decide +kernel)
/-- FloatArithmetic, FloatOrderAndClassResults, SpecialFunctionResults, ConversionResults, CrossLaneResults,
ReductionResults. -/
theorem witness_float_words : ∀ i ∈ floatWords, ∃ g r, (labCur .alu i id).issues i g r ∧ r.replay = false :=
  issues_of_all (by decide +kernel)
/-- NopChangesOnlyTheCounts, LpadYieldAndExit, TransfersIssue. -/
theorem witness_control_words : ∀ i ∈ controlWords, ∃ g r, (labCur .alu i id).issues i g r ∧ r.replay = false :=
  issues_of_all (by decide +kernel)
/-- MemoryWordsIssue, FenceAndWriteBackWordsIssue, StashMappingsActAsTheRulesSay. -/
theorem witness_memory_words : ∀ i ∈ memoryWords, ∃ g r, (labCur .mem i id).issues i g r ∧ r.replay = false :=
  issues_of_all (by decide +kernel)
/-- FieldWordsIssue. -/
theorem witness_field_words : ∀ i ∈ fieldWords, ∃ g r, (labCur .field i id).issues i g r ∧ r.replay = false :=
  issues_of_all (by decide +kernel)
/-- BarrierWordsIssue, CopyWordsIssue, QueueWordsIssue. -/
theorem witness_async_words : ∀ i ∈ asyncWords, ∃ g r, (labCur .async i id).issues i g r ∧ r.replay = false :=
  issues_of_all (by decide +kernel)
/-- SpecialRegisters, IllegalPrivilegedAndTrap, SystemWordsIssue. -/
theorem witness_system_words : ∀ i ∈ systemWords, ∃ g r, (labCur .sys i id).issues i g r ∧ r.replay = false :=
  issues_of_all (by decide +kernel)
/-- The privileged words of SpecialRegisters, TrapEntryAndReturn and SystemWordsIssue, in supervisor mode. -/
theorem witness_privileged_words : ∀ i ∈ privilegedWords, ∃ g r, (labCur .sys i sup).issues i g r ∧ r.replay = false :=
  issues_of_all (by decide +kernel)

/-! ### Witnesses: states for the steps of the device -/

/-- A team of one group on core 0, with half of its largest stash. -/
def team0 : Team := { gridKey := 1, index := 0, ctx := 0, cores := [0], parts := [[0]], gids := [0], stashSize := 2 ^ 19 }
/-- A group at the address 0x10000 in slot 0, no clause in hand. -/
def g0 : Group := { team := 0, g := 0, gridKey := 1, ctx := 0, started := true, budget := 256
                    slot0 := { pc := 0x10000, mask := allLanes } }
/-- The machine with that team and the group `g`; all units started. -/
def one (g : Group) : State :=
  { State.reset with ready := 0x00FFFFFFFFFF3FFF, cycle := 1000, nextId := 10, groups := [(0, g)], teams := [(0, team0)] }
/-- A page of 64 KiB at 0x10000 that may be read, written, executed and used in user mode. -/
def page0 : Leaf := { vbase := 0x10000, bits := 16, frame := 0x20000, r := true, w := true, x := true, u := true,
                      cf := false, rep := false }
/-- `one`, with that page translated for core 0. -/
def paged (g : Group) : State := { one g with tlb := [(0, ⟨0, page0⟩)] }
/-- `State.settled`, `State.calm`, `State.bare` and `State.clear` as tests. -/
def settledB (s : State) : Bool :=
  s.absent.isNone && !s.unready && s.conflict.isNone && s.askOwn.isEmpty && s.askRead.isEmpty
def calmB (s : State) : Bool :=
  settledB s && s.wrote.isEmpty && s.gotRead.isEmpty && s.backTook.isEmpty && s.writer.isNone
def bareB (s : State) : Bool := calmB s && s.cache.isEmpty && s.hostPosted.isEmpty
def clearB (s : State) : Bool := bareB s && s.hostDir.isEmpty && s.backDone.isEmpty &&
  (List.range 4).all (fun d => s.usable (2 + d) && s.usable (6 + d))
theorem settledB_iff (s : State) : settledB s = true ↔ s.settled := by
  simp [settledB, State.settled, and_assoc]
theorem calmB_iff (s : State) : calmB s = true ↔ s.calm := by
  simp [calmB, State.calm, settledB_iff, and_assoc]
theorem bareB_iff (s : State) : bareB s = true ↔ s.bare := by
  simp [bareB, State.bare, calmB_iff, and_assoc]
theorem clearB_iff (s : State) : clearB s = true ↔ s.clear := by
  simp [clearB, State.clear, bareB_iff, and_assoc]
def okLoc : LaneRes → Bool
  | .ok _ => true
  | _ => false
def okLanes : LanesRes → Bool
  | .ok (_ :: _) => true
  | _ => false
def trapLanes : LanesRes → Bool
  | .trap .. => true
  | _ => false
def waitLanes : LanesRes → Bool
  | .wait (_ :: _) => true
  | _ => false

/-- StepRunsTheDecodedInstruction, NopChangesOnlyTheCounts. -/
theorem witness_step : (lab .alu .nop id).agenda = [.issue 0 0] ∧
    (((lab .alu .nop id).issueNext 0 0).map (fun x => x.2)) = some (some .nop) ∧
    ((((State.reset.lay (headerOf .alu) 0x3000000000000000).issueNext 0 0).map (fun x => x.2)) = some none) ∧
    (decodeTableWord 128 (0xFF80000000000000 * 2 ^ 64) = some .nop) ∧ Instr.nop.cls = some .alu ∧
    ((gr (labCur .alu .nop id)).half? 0).isNone = true := by
  refine ⟨?_, ?_, ?_, ?_, ?_, ?_⟩ <;> decide +kernel

/-- IssueLeavesRegistersAndMemory: the group has another result on its way, and its clause ends or goes on. -/
theorem witness_issue : (gr (labCur .alu .nop id)).slot0.running.isSome = true ∧
    ((gr (labCur .alu .nop id)).slot0.running.map (fun r => (r.replay, decide (r.count ≤ r.idx + 1)))) = some (false, true) ∧
    ((gr (labCur .alu .nop (fun g => { g with slot0 := { g.slot0 with
      running := g.slot0.running.map (fun r => { r with count := 2 }) } }))).slot0.running.map
        (fun r => decide (r.idx + 1 < r.count))) = some true := by
  refine ⟨?_, ?_, ?_⟩ <;> decide +kernel

/-- LpadYieldAndExit: a YIELD that ends its clause in user mode; an EXIT of some lanes, and of all. -/
theorem witness_yield_exit :
    ((gr (labCur .alu .yield id)).slot0.running.map (fun r => (clauseHasYield r, r.idx + 1 == r.count))) =
      some (true, true) ∧ (gr (labCur .alu .yield id)).supervisor = false ∧
    (let e := (gr (labCur .alu (.exit ⟨.f00, false, 1, 0, 0, 0⟩) (preds [(1, 0xFF)]))).exec allLanes false 1
     (allLanes &&& ~~~e ≠ 0 ∧ (0x10010 : Word64) ≠ noJoin)) ∧
    allLanes &&& ~~~((gr (labCur .alu (.exit ⟨.f00, false, 0, 0, 0, 0⟩) id)).exec allLanes false 0) = 0 := by
  refine ⟨?_, ?_, ⟨?_, ?_⟩, ?_⟩ <;> decide +kernel

/-- TransfersIssue: a branch the predictor guesses, and one it does not. -/
theorem witness_transfers :
    let b : BFields := ⟨.f00, false, 1, 0, 1, 2⟩
    let f (g : Group) : Group := { g with slot0 := { g.slot0 with running := g.slot0.running.map (fun r =>
      { r with clause := { r.clause with lookup := some (0xFF, 2) } }) } }
    canIssue (labCur .alu (.bra b) f) (.bra b) = true ∧
    (labCur .alu (.bra b) f).predicts (gr (labCur .alu (.bra b) f)) b = some 0xFF ∧
    (labCur .alu (.bra b) id).predicts (gr (labCur .alu (.bra b) id)) b = none ∧
    (gr (labCur .alu (.bra b) id)).slot0.mask ≠ 0 := by
  refine ⟨?_, ?_, ?_, ?_⟩ <;> decide +kernel

/-- IllegalPrivilegedAndTrap: an odd pair is illegal; CSRR is legal and privileged, in user mode. -/
theorem witness_illegal :
    let i : Instr := .iadd (.reg (rr .f00 0 5 2 4 0 2))
    let j : Instr := .csrr (qq .f11 250 0 1 0)
    (gr (labCur .alu i id)).legal 0 i = false ∧ i.cls = some .alu ∧ (labCur .alu i id).calm ∧
    (gr (labCur .sys j id)).legal 0 j = true ∧ privileged j = true ∧ (gr (labCur .sys j id)).supervisor = false ∧
    (gr (labCur .sys j id)).trapReq = none ∧ ((gr (labCur .sys j id)).half? 0).isNone = true := by
  refine ⟨?_, ?_, ?_, ?_, ?_, ?_, ?_, ?_⟩
  case refine_3 => unfold State.calm State.settled; decide +kernel
  all_goals decide +kernel
/-- IllegalPrivilegedAndTrap: TRAP in supervisor mode, in a context not yet ending. -/
theorem witness_double_trap : let i : Instr := .trap (qq .f11 4 0 0 9)
    canIssue (labCur .sys i sup) i = true ∧ (gr (labCur .sys i sup)).supervisor = true ∧
    ((labCur .sys i sup).ctx 0).terminate = none := by
  refine ⟨?_, ?_, ?_⟩ <;> decide +kernel

/-- A trap that waits for its entry. -/
def trap0 : TrapReq := { slot := 0, cycle := 990, code := 4, atClause := false, idx := 2, pc := 0x10000, done := false,
                         arg := 0, einfo := 5, etxf := 0, lanes := 1, faddr := [(3, 0x7000)] }
/-- TrapEntryAndReturn: the entry's hypotheses (the return's are those of `witness_privileged_words`, with lanes that
have exited or not). -/
theorem witness_trap_entry : let g : Group := { g0 with trapReq := some trap0 }
    (one g).group? 0 = some g ∧ g.trapReq = some trap0 ∧ trap0.slot ≤ 1 ∧ g.results = [] ∧ g.noClause = true ∧
    g.otherSettled (1 - trap0.slot) = true ∧ g.supervisor = false ∧ ((one g).ctx 0).terminate = none := by
  refine ⟨rfl, ?_, ?_, ?_, ?_, ?_, ?_, ?_⟩ <;> decide +kernel
theorem witness_rte : let i : Instr := .rte (qq .f11 0 0 0 0)
    let f (g : Group) : Group := { g with supervisor := true, tr := { g.tr with emask := 0xF } }
    (gr (labCur .sys i f)).tr.emask &&& ~~~(gr (labCur .sys i f)).xmask ≠ 0 := by decide +kernel

/-- Results that wait to be written: a vector of lanes 0 to 3, a scalar, a predicate. -/
def pend (k : Nat) (u : RegUpd) : Pending :=
  { due := 1001, issueAt := 997, startAt := 990 + k, seq := k, clauseId := 0, slot := 0, half := false, upds := [u], sticky := [(0, bitNX)] }
/-- RegisterWritesArrive, first part: one result, and one of two. -/
theorem witness_result_write : ∀ u ∈ [RegUpd.vec 5 0xF 7, .sca 3 9, .pred 1 0xF 3, .pred 0 0xF 3],
    let p := pend 1 u
    let g : Group := { g0 with results := [pend 2 (.sca 4 4), p] }
    (one g).group? 0 = some g ∧ p ∈ g.results ∧ (∀ q ∈ g.results, q ≠ p → p.before q = true ∧ q.before p = false) ∧
      p.due ≤ (one g).cycle + 1 ∧ p.half = false ∧ p.sup = g.supervisor ∧ imageLine g.budget 5 < 2048 := by
  intro u hu
  simp only [List.mem_cons, List.not_mem_nil, or_false] at hu
  rcases hu with rfl | rfl | rfl | rfl <;>
    refine ⟨rfl, ?_, ?_, ?_, ?_, ?_, ?_⟩ <;> decide +kernel

/-- A clause of one `iadd v0, v0, v0`. -/
def clause0 : ClauseBuf := { addr := 0x10000, header := 0, words := [0] }
/-- RegisterWritesArrive, second part: a wanted line and a cache with room, and a full one with a victim. -/
theorem witness_register_fill : let g : Group := { g0 with slot0 := { g0.slot0 with clause := some clause0 } }
    let full : State := { one g with rcache := [(0, List.replicate 1024 ⟨7, 7, 0, false⟩)] }
    (one g).wantsLine 0 0 0 = true ∧ g.part = 0 ∧ (one g).rlines 0 = [] ∧ (one g).shadowCount 0 = 0 ∧
    full.wantsLine 0 0 0 = true ∧ 1024 ≤ (full.rlines 0).length + full.shadowCount 0 ∧
    (full.rlines 0).all (fun x => !x.is 0 0) = true ∧ full.victim 0 0 (full.rlines 0) = some ⟨7, 7, 0, false⟩ := by
  refine ⟨?_, ?_, ?_, ?_, ?_, ?_, ?_, ?_⟩ <;> decide +kernel
theorem witness_yield_bar : ({ g0 with yieldAt := some 5 } : Group).yieldAt = some 5 := rfl

/-- ClauseFetchAndStart: a slot that fetches; a clause of zeros is legal, a page without code traps; a candidate in a
free clause slot starts; one that waits on a refused TXF's flag traps. -/
theorem witness_clause_fetch :
    g0.fetchAt 0 = some (0x10000, true) ∧ (g0.half? 0).isNone = true ∧
    ((paged g0).fetchClause 0 0 g0 0x10000).2 = .clause ⟨0x10000, 0, [0], none, 4⟩ ∧ g0.slot0.resumeIdx < 1 ∧
    settledB ((paged g0).fetchClause 0 0 g0 0x10000).1 = true ∧
    ((one g0).fetchClause 0 0 g0 0x10000).2 = .trap 1 3 ∧ settledB ((one g0).fetchClause 0 0 g0 0x10000).1 = true := by
  refine ⟨?_, ?_, ?_, ?_, ?_, ?_, ?_⟩ <;> decide +kernel
theorem witness_clause_start : let g : Group := { g0 with slot0 := { g0.slot0 with clause := some clause0 } }
    let s : State := { one g with rcache := [(0, [⟨0, 0, 0, false⟩])] }
    tget 0 s.startedAt 0 ≠ s.cycle + 1 ∧ s.freeSlot 0 = some 0 ∧ s.chosen 0 = some (0, g, 0) ∧
    g.candidate 0 = some (clause0, 0, 1, false) ∧ g.refusalAt clause0 = none ∧ (∀ e ∈ s.groups, e.2.part = 0 → e.2.det = false) := by
  refine ⟨?_, ?_, ?_, ?_, ?_, ?_⟩ <;> decide +kernel
theorem witness_refused_start : let c : ClauseBuf := { clause0 with header := 0x0000200000000000 }
    let g : Group := { g0 with slot0 := { g0.slot0 with clause := some c }, refusals := [⟨1, 0x9000, 0, [(2, 5)]⟩] }
    let s : State := { one g with rcache := [(0, [⟨0, 0, 0, false⟩])] }
    s.chosen 0 = some (0, g, 0) ∧ g.refusalAt c = some ⟨1, 0x9000, 0, [(2, 5)]⟩ := by
  refine ⟨?_, ?_⟩ <;> decide +kernel

/-- DivergenceSplitsTheSlot: room and overflow, a half that is at the join, another slot with lanes, and one that
still runs a clause or has one to replay. -/
theorem witness_divergence : let T : Mask := 0xFF
    let two : Group := { g0 with slot1 := { mask := 0xF000 }, slot0 := { g0.slot0 with mask := 0xFFF } }
    let runs : Group := { two with slot1 := { two.slot1 with running := (gr (labCur .alu .nop id)).slot0.running } }
    g0.slot1.running = none ∧ g0.slot1.replays = [] ∧ T ≠ 0 ∧ g0.slot0.mask &&& ~~~T ≠ 0 ∧
    g0.slot0.mask &&& ~~~allLanes = 0 ∧ (0x10100 : Word64) ≠ 0x10300 ∧ g0.slot0.join ≠ (0x10300 : Word64) ∧ two.slot1.mask ≠ 0 ∧
    runs.slot1.running ≠ none ∧ runs.slot1.mask ≠ 0 ∧ runs.slot0.mask &&& ~~~T ≠ 0 ∧ runs.spill.length + 2 ≤ 64 := by
  refine ⟨?_, ?_, ?_, ?_, ?_, ?_, ?_, ?_, ?_, ?_, ?_, ?_⟩ <;> decide +kernel

/-- A transfer that is due. -/
def tr0 (k : TransferKind) (t : Word64) : Transfer :=
  { kind := k, taken := 0xFF, target := t, fall := 0x10010, join := 0x10300, clauseAt := 0x10000, wordAt := 0x10008,
    idx := 0, issueAt := 990, readyAt := 997 }
def isDone : Diverge → Bool
  | .done _ => true
  | _ => false
/-- TransferResolutionCompletes: each kind of transfer splits, an odd target, a target without an LPAD. -/
theorem witness_transfer_resolve : ∀ k ∈ [TransferKind.bra, .call, .brx, .callx, .ret],
    let g : Group := { g0 with slot0 := { g0.slot0 with transfer := some (tr0 k 0x10100) } }
    g.spec = none ∧ (tr0 k 0x10100).readyAt ≤ (one g).cycle ∧ g.trapReq = none ∧ g.slot0.held = false ∧
    g.slot1.running = none ∧ g.mustWait 0 (tr0 k 0x10100) 1000 = false ∧ settledB (one g) = true ∧
    isDone ((g.setSlot 0 { g.slot0 with transfer := none, eligFrom := 1001 }).diverge 0 0xFF 0x10100 0x10010 0x10300
      false 1000) = true ∧ (tr0 k 0x10101).target.toNat % 8 ≠ 0 ∧
    ((paged g).landing (agentOf 0 g) 0x10100 7).2 = .inl false ∧ settledB ((paged g).landing (agentOf 0 g) 0x10100 7).1 = true ∧
    ((one g).landing (agentOf 0 g) 0x10100 7).2 = .inr (1, 3) ∧ settledB ((one g).landing (agentOf 0 g) 0x10100 7).1 = true := by
  intro k hk
  simp only [List.mem_cons, List.not_mem_nil, or_false] at hk
  rcases hk with rfl | rfl | rfl | rfl | rfl <;>
    refine ⟨?_, ?_, ?_, ?_, ?_, ?_, ?_, ?_, ?_, ?_, ?_, ?_, ?_⟩ <;> decide +kernel
/-- An unresolved prediction. -/
def spec0 : Spec := { slot := 0, issueAt := 990, wordAt := 0x10008, clauseAt := 0x10000, idx := 0, taken := 0xFF, guess := 0xFF,
                      target := 0x10100, fall := 0x10010, join := 0x10300, sMask := allLanes, sJoin := noJoin,
                      sFmt := fmtReset, halves := [] }
/-- TransferResolutionCompletes, SpillPopAndRepairResults: a prediction that resolves, one to repair, an entry to pop. -/
theorem witness_prediction_and_pop :
    let g : Group := { g0 with spec := some spec0 }
    let e : SpillEntry := ⟨0x10200, 0xF, noJoin, fmtReset, false, 0, none, none, false⟩
    g.spec = some spec0 ∧ spec0.slot = 0 ∧ spec0.resolved = false ∧ spec0.issueAt + 8 ≤ (one g).cycle ∧
    ({ spec0 with resolved := true }).overflows g.spill.length = false ∧ (spec0.taken ≠ 0 ∧ spec0.sMask &&& ~~~spec0.taken ≠ 0) ∧
    ({ g0 with spill := [e] } : Group).canPop e 1000 = true ∧ e.mask &&& ~~~g0.xmask ≠ 0 ∧ e.pc ≠ e.join := by
  refine ⟨?_, ?_, ?_, ?_, ?_, ⟨?_, ?_⟩, ?_, ?_, ?_⟩ <;> decide +kernel

/-- LaneCheckOrder: each clause of the check, at its boundary: the first address that is not canonical, the last bytes of
the team's stash, the first beyond and an access across that end, an odd address, no leaf, a replica, a refused permission, a CF page, a lock, a pass. -/
theorem witness_lane_check :
    let a : Agent := agentOf 0 g0
    let load : Need := { r := true }
    let store : Need := { w := true, cfTraps := true }
    let withLeaf (l : Leaf) : State := { one g0 with tlb := [(0, ⟨0, l⟩)] }
    ((one g0).checkLane a 0 (2 ^ 55) 4 4 0 load).2 = .fault 0x02 (5 * 2 ^ 12) (2 ^ 55) ∧
    (one g0).windowLoc 0 0xFF8000000007FFFC 4 = some (.stash 0 0 0x7FFFC) ∧
    (one g0).windowLoc 0 0xFF80000000080000 4 = none ∧
    ((one g0).checkLane a 0 0xFF80000000080000 4 4 0 load).2 = .fault 0x02 (6 * 2 ^ 12) 0xFF80000000080000 ∧
    ((one g0).checkLane a 0 0xFF8000000007FFFC 8 8 0 load).2 = .fault 0x02 (6 * 2 ^ 12) 0xFF80000000080000 ∧
    ((one g0).checkLane a 0 0xFF80000000000002 4 4 0 load).2 = .fault 0x0A 0 0xFF80000000000002 ∧
    ((one g0).checkLane a 0 0x10002 4 4 1 store).2 = .fault 0x0A 1 0x10002 ∧
    ((one g0).checkLane a 0 0x10000 4 4 0 load).2 = .fault 0x01 0 0x10000 ∧
    ((withLeaf { page0 with rep := true }).checkLane a 0 0x10000 4 4 1 store).2 = .fault 0x01 (4 * 2 ^ 12 + 4 * 2 ^ 8 + 1) 0x10000 ∧
    ((withLeaf { page0 with w := false }).checkLane a 0 0x10000 4 4 1 store).2 = .fault 0x01 (2 * 2 ^ 12 + 4 * 2 ^ 8 + 1) 0x10000 ∧
    ((withLeaf { page0 with cf := true }).checkLane a 0 0x10000 4 4 1 store).2 = .fault 0x08 1 0x10000 ∧
    (({ paged g0 with locks := [(3, ⟨0, 0, 0x10000, 16, true, 5⟩)] } : State).checkLane a 0 0x1000C 4 4 0 load).2 =
      .fault 0x09 3 0x1000C ∧
    ((paged g0).checkLane a 0 0x1FFFC 4 4 0 load).2 = .ok (.phys 0x2FFFC) := by
  refine ⟨?_, ?_, ?_, ?_, ?_, ?_, ?_, ?_, ?_, ?_, ?_, ?_, ?_⟩ <;> decide +kernel

/-- The laboratory with a stash of 1 MiB, where s5 is the window's base. -/
def labStash (c : Sys2Proof.Class) (i : Instr) (l : List (Nat × Word64)) : State :=
  let s := labCur c i (sregs ((5, 0xFF80000000000000) :: l))
  { s with teams := [(0, { team0 with gridKey := 0 })] }

/-- MemoryWordsIssue: in form 11, the check passes, faults or waits for a piece; the word issues. -/
theorem witness_memory_checks :
    let ld : Instr := .ld (mm .f11 0 4 2 5 0 3 0)
    let need : Need := { r := true }
    let s := labStash .mem ld []
    let check (s : State) (va : Word64) := (s.checkLanes (agentOf 0 (gr s)) 8 8 0 need [(0, va)]).2
    let m : Mapping := ⟨0, 0, false, 1, 64, 0, 0x10000, [], [], []⟩
    canIssue s ld = true ∧ okLanes (check s 0xFF80000000000000) = true ∧ trapLanes (check s (2 ^ 55)) = true ∧
    waitLanes (check { s with teams := [(0, { team0 with maps := [m] })], tlb := [(0, ⟨0, page0⟩)] } 0xFF80000000000000) = true ∧
    (gr s).det = false := by
  refine ⟨?_, ?_, ?_, ?_, ?_⟩ <;> decide +kernel
/-- MemoryWordsIssue: an atomic on the host, with and without the link's capability for its size. -/
theorem witness_host_atomic :
    (one g0).hostAtomic .acqRel .system (.phys (2 ^ 51)) = true ∧ (one g0).hostAtomic .acqRel .device (.phys 0x2000) = false ∧
    (one g0).syscap.getLsbD 4 = false ∧ ({ one g0 with syscap := 0x3F } : State).syscap.getLsbD 4 = true := by
  refine ⟨?_, ?_, ?_, ?_⟩ <;> decide +kernel

/-- An operation of group 0 of slot 0, counted once on flag 0. -/
def op (k : OpKind) : Op := { slot := 0, flag := some 0, counts := 1, wordAt := 0x10008, half := false, kind := k }
def withOp (k : OpKind) : Group := { g0 with ops := [(5, op k)], flags := [(0, 1)] }
def acc0 (loc : Loc) : LaneAcc := ⟨0, 0xFF80000000000000, loc⟩
/-- OperationsEnterAndWait: nothing before; an operation that is no access; and an access before that is not held. -/
theorem witness_after :
    (∀ e ∈ (withOp (.kick [])).ops, e.2.at_ e.1 < 10 → e.2.kind.isAccess = false ∧ e.2.kind.syncs = false ∧
      e.2.kind.waitsFor = false) ∧
    (∃ e ∈ (withOp (.store .plain .group 4 [])).ops, e.1 ≠ 10 ∧ e.2.at_ e.1 < 10 ∧ e.2.kind.isAccess = true ∧ e.2.held = false) ∧
    (withOp (.store .plain .group 4 [])).det = false ∧ (OpKind.ftot 3 8).isAccess = false := by
  refine ⟨?_, ⟨(5, op (.store .plain .group 4 [])), ?_⟩, ?_, ?_⟩ <;> decide +kernel
/-- AccessesPerform: a load, a store to a stash and to device memory, an atomic: each may be performed, and what it
touches is at hand; one register of a wide load that is still to be written, and the last. -/
theorem witness_accesses : ∀ k ∈ [OpKind.load .plain .group 4 7 false [acc0 (.stash 0 0 8)] [0],
      .store .plain .group 4 [(acc0 (.stash 0 0 8), [1, 2, 3, 4])], .store .plain .device 4 [(acc0 (.phys 0x20000), [1, 2, 3, 4])],
      .atomic (.rmw .add) .rlx .device 4 7 false false [⟨acc0 (.phys 0x20000), 0, 5⟩]],
    (one (withOp k)).group? 0 = some (withOp k) ∧ dget (withOp k).ops 5 = some (op k) ∧
    (withOp k).canPerform 5 (op k) = true ∧ (withOp k).det = false ∧ (one (withOp k)).lostNode 0 0 (.stash 0 0 8) = none ∧
    isDevice 0x20000 = true ∧ isPooled 0x20000 = false ∧
    settledB (((one (withOp k)).writeLoc 0 0 [1, 2, 3, 4] (.phys 0x20000))) = true ∧
    settledB ((one (withOp k)).readLoc 0 1 4 (.phys 0x20000)).1 = true := by
  intro k hk
  simp only [List.mem_cons, List.not_mem_nil, or_false] at hk
  rcases hk with rfl | rfl | rfl | rfl <;>
    refine ⟨rfl, ?_, ?_, ?_, ?_, ?_, ?_, ?_, ?_⟩ <;> decide +kernel
theorem witness_wide_load : let k : OpKind := .load .plain .group 16 8 false [acc0 (.stash 0 0 16)] []
    let u (n : Nat) : RegUpd := .vec n 1 (BitVec.ofNat 2048 n)
    let o : Op := { op k with data := [u 8, u 9] }
    o.data.filter (fun v => v.reg == 8) = [u 8] ∧ o.data.filter (fun v => v.reg != 8) ≠ [] ∧
    ({ op k with data := [u 9] } : Op).data.filter (fun v => v.reg != 9) = [] ∧
    ({ g0 with ops := [(5, o)] } : Group).canPerform 5 o = true ∧ (dataUpds false 16 8 0 7).length = 4 := by
  refine ⟨?_, ?_, ?_, ?_, ?_⟩ <;> decide +kernel
/-- R231, by hand: a load of 4 bytes 01 02 03 04 puts 0x04030201 into lane 0; the operation and its flag end. -/
theorem test_load_arrives :
    let k : OpKind := .load .plain .group 4 7 false [acc0 (.stash 0 0 8)] [0]
    let s : State := { one (withOp k) with teams := [(0, { team0 with stash := [(0, [(8, 1), (9, 2), (10, 3), (11, 4)])] })] }
    let t := nextOf (exec (.variableResultArrival 0 5 0) s)
    lane ((gr t).vreg 7) 0 = 0x04030201 ∧ (gr t).ops = [] ∧ (gr t).flag 0 = 0 := by
  refine ⟨?_, ?_, ?_⟩ <;> decide +kernel
/-- R238, R239, by hand: a fetch-and-add of 5 on the bytes FE 00 00 00 leaves 03 01 00 00 and returns 0xFE. -/
theorem test_atomic_add :
    let k : OpKind := .atomic (.rmw .add) .rlx .device 4 7 false false [⟨acc0 (.phys 0x20000), 0, 5⟩]
    let t := nextOf (exec (.variableResultArrival 0 5 0) { one (withOp k) with mem := [(0x20000, 0xFE)] })
    t.rd 0x20000 = 3 ∧ t.rd 0x20001 = 1 ∧ lane ((gr t).vreg 7) 0 = 0xFE := by
  refine ⟨?_, ?_, ?_⟩ <;> decide +kernel

/-- CachesAndFences: a core whose L1 holds a dirty byte of device memory, and an L2 that holds one of the host's. -/
theorem witness_caches : let s : State := { one g0 with cache := [(0x20000, ⟨9, true⟩), (320 * 2 ^ 52 + 2 ^ 51, ⟨1, false⟩)] }
    keysRise s.cache = true ∧ (∀ e ∈ s.cache, e.1 / 2 ^ 52 = 0 → isDevice (e.1 % 2 ^ 52) = true) ∧
    (∀ e ∈ s.cache, 320 ≤ e.1 / 2 ^ 52 → isDevice (e.1 % 2 ^ 52) = false) ∧
    s.cached 0 0x20000 = some ⟨9, true⟩ ∧ isDevice 0x20000 = true ∧ Scope.device ≠ .group := by
  refine ⟨?_, ?_, ?_, ?_, ?_, ?_⟩ <;> decide +kernel

/-- FenceAndWriteBackWordsIssue: an address in a mapping's window, outside every window, and in no team core's. -/
theorem witness_stwb : let s := labStash .mem (.stwb (mm .f11 0 0 0 5 0 0 3)) []
    inWindow 0xFF80000000000000 = true ∧ s.windowLoc 0 0xFF80000000000000 1 = some (.stash 0 0 0) ∧
    inWindow 0x10000 = false ∧ canonical (BitVec.ofNat 64 0x10000) = true ∧ inWindow 0xFF80000000700000 = true ∧
    s.windowLoc 0 0xFF80000000700000 1 = none ∧
    (({ team0 with maps := [⟨0, 0, true, 1, 64, 0, 0x10000, [], [], []⟩] } : Team).mapAt 0 8).isSome = true ∧ bareB s = true ∧
    s.team? 0 = some { team0 with gridKey := 0 } := by
  refine ⟨?_, ?_, ?_, ?_, ?_, ?_, ?_, ?_, ?_⟩ <;> decide +kernel
/-- StashMappingsActAsTheRulesSay: a good description (8 rows of 64 bytes) with its region readable, bad ones, a window
that it leaves, a row outside; a free slot and one that an access is under way to. -/
theorem witness_stmap : let s := labStash .mem (.stmap (mm .f11 0 4 2 5 0 4 0)) [(2, 0x10000), (4, 0x80040)]
    let p : State := { s with tlb := [(0, ⟨0, page0⟩)] }
    let d : Word64 := 0x80040
    let pages := regionPages 0x10000 8 64 0
    let v := p.regionFault (agentOf 0 (gr s)) false none pages
    let outside (va : Nat) : Bool := !canonical (BitVec.ofNat 64 va) || inWindow va
    d.toNat / 2 ^ 28 % 2 ^ 35 = 0 ∧ d.toNat / 2 ^ 16 % 2 ^ 12 = 8 ∧ d.toNat % 2 ^ 16 = 64 ∧ inWindow 0xFF80000000000000 = true ∧
    s.windowLoc 0 0xFF80000000000000 512 = some (.stash 0 0 0) ∧ pages.find? outside = none ∧
    (regionPages 0xFF80000000000000 8 64 0).find? outside ≠ none ∧ v.2 = none ∧ settledB v.1 = true ∧
    (s.regionFault (agentOf 0 (gr s)) false none pages).2.isSome = true ∧
    v.1.stmapLock (agentOf 0 (gr s)) 0 0xFF80000000000000 512 64 ((List.range 8).map (fun _ => 0x10000)) = none ∧
    (gr s).touching [(.stash 0 0 0, 2 ^ 20, true)] = false ∧
    (withOp (.store .plain .group 4 [(acc0 (.stash 0 0 8), [1])])).touching [(.stash 0 0 0, 2 ^ 20, true)] = true ∧
    (0xFF8000000007FFC0 - 0xFF80000000000000) % 2 ^ 20 + 512 ≤ 2 ^ 20 ∧ s.windowLoc 0 0xFF8000000007FFC0 512 = none := by
  refine ⟨?_, ?_, ?_, ?_, ?_, ?_, ?_, ?_, ?_, ?_, ?_, ?_, ?_, ?_, ?_⟩ <;> decide +kernel
theorem witness_stash_steps : let m : Mapping := ⟨0, 0, true, 1, 64, 0, 0x10000, [], [0], []⟩
    let s : State := { paged g0 with teams := [(0, { team0 with maps := [m] })] }
    (s.lookup 0 0 0x10000).2 = .leaf page0 ∧ m.wanted.contains 0 = true ∧ m.touched.contains 0 = false ∧
    settledB (s.readLoc 0 1 64 (.phys 0x20000)).1 = true ∧
    ({ m with dirty := [3, 5] } : Mapping).dirty.any (fun b => b / 64 == 0) = true ∧
    settledB (s.writePhys 0 1 0x20003 7) = true := by
  refine ⟨?_, ?_, ?_, ?_, ?_, ?_⟩ <;> decide +kernel

/-- BarrierWordsIssue: a barrier in the team's range and one outside; a team barrier whose phase is the token, and not. -/
theorem witness_barriers : let s : State := { labCur .async (.bara (qq .f11 0 5 3 1)) id with
      teams := [(0, { team0 with gridKey := 0, blo := 3, bnum := 1 })] }
    s.barInRange 0 3 = true ∧ s.barInRange 0 4 = false ∧ s.barInRange 0 2 = false ∧ (team0.tbar 3).ph = false ∧ bareB s = true := by
  refine ⟨?_, ?_, ?_, ?_, ?_⟩ <;> decide +kernel
/-- BarrierPhases: a phase ends one cycle after its arrivals; a waiting BARW and BARX; a team barrier decided. -/
theorem witness_phases : let b : Bar := { exp := 2, cnt := 2, last := 999 }
    let s : State := { one (withOp (.barw 0 3 true)) with bars := [(3, b)] }
    b.last ≤ 999 ∧ (b.exp ≠ 0 ∧ b.exp ≤ b.cnt) ∧ (b.settle 1000).1.ph = true ∧ b.last < s.cycle ∧
    ((s.bar 0 3).settle s.cycle).1.ph ≠ false ∧ ((s.bar 0 3).settle s.cycle).2 ≤ 1 ∧ 1 ≤ ((s.bar 0 3).settle s.cycle).2 ∧
    s.isSaved 0 = false ∧ bareB s = true ∧ 900 + (if team0.cores.length = 1 then 6 else 20) ≤ s.cycle := by
  refine ⟨?_, ⟨?_, ?_⟩, ?_, ?_, ?_, ?_, ?_, ?_, ?_, ?_⟩ <;> decide +kernel
/-- BarrierPhases: an arrival of a group that has not arrived, one that has, one with a held arrival; all have arrived,
or not; a decided phase with a group that waits for its end. -/
theorem witness_team_barrier : let t : Team := { team0 with tbars := [(3, { arrived := [0] })] }
    let b : TeamBar := { arrived := [0], held := [(0, 5)] }
    let s : State := { one (withOp (.tbar 3 1)) with teams := [(0, { team0 with tbars := [(3, { arrived := [0], decided := some 900 })] })] }
    (t.tbar 3).decided = none ∧ (t.tbar 3).arrived ≠ [] ∧ (∀ gid ∈ t.gids, gid ∈ (t.tbar 3).arrived) ∧
    (({ team0 with tbars := [(3, { arrived := [1] })] } : Team).tbar 3).arrived = [1] ∧ g0.xmask ≠ allLanes ∧
    (1 ∉ b.arrived ∧ 0 ∈ b.arrived ∧ (∃ e ∈ b.held, e.1 = 0) ∧ ∀ e ∈ b.held, e.1 ≠ 2) ∧
    (((s.team? 0).getD team0).tbar 3).decided = some 900 ∧ 900 + 6 ≤ s.cycle ∧ bareB s = true ∧
    dget (withOp (.tbar 3 1)).ops 5 = some (op (.tbar 3 1)) := by
  refine ⟨?_, ?_, ?_, ?_, ?_, ⟨?_, ?_, ⟨(0, 5), ?_⟩, ?_⟩, ?_, ?_, ?_, ?_⟩ <;> decide +kernel

/-- CopyWordsIssue: a record of 32 bytes in the stash, a copy of 64 bytes, passes its checks (its object holds zeros), one of zeros
does not; a barrier object in the stash. -/
def recBytes : Tab Byte :=
  let l : List Byte := toBytes 8 0x0C80000000010000 ++ toBytes 8 0x0080000000020000 ++ toBytes 8 0x0080000000030000 ++
    toBytes 8 64
  (l.zip (List.range 32)).filterMap (fun e => if e.1 = 0 then none else some (e.2, e.1))
theorem witness_copy : let s := labStash .async (.cpwait (qq .f11 5 0 0 3)) []
    let k := labStash .async (.kick (qq .f11 5 0 0 1)) []
    let w : State := { k with teams := [(0, { team0 with gridKey := 0, stash := [(0, recBytes)] })] }
    let l := k.recordBytes 0 0xFF80000000000000 1
    ((gr k).mayRead l = true ∧ (withOp (.store .plain .group 4 [(acc0 (.stash 0 0 8), [1])])).mayRead l = false ∧
      (w.checkRecs (agentOf 0 (gr k)) 1 0xFF80000000000000).2.isLeft = true ∧
      (k.checkRecs (agentOf 0 (gr k)) 1 0xFF80000000000000).2.isLeft = false ∧
      settledB (w.checkRecs (agentOf 0 (gr k)) 1 0xFF80000000000000).1 = true) ∧
    okLanes (s.checkLanes (agentOf 0 (gr s)) 16 16 7 { r := true } [(0, 0xFF80000000000000)]).2 = true ∧
    trapLanes (s.checkLanes (agentOf 0 (gr s)) 16 16 7 { r := true } [(0, 0xFF80000000000008)]).2 = true ∧
    ((s.checkObj (agentOf 0 (gr s)) .device 0xFF80000000000000 7).2) = .inl (.stash 0 0 0) ∧ (gr s).det = false ∧
    (0x10008 : Word64).toNat % 8 = 0 ∧ (0x1000C : Word64).toNat % 8 ≠ 0 ∧ (gr s).ops = [] := by
  refine ⟨⟨?_, ?_, ?_, ?_, ?_⟩, ?_, ?_, ?_, ?_, ?_, ?_, ?_⟩ <;> decide +kernel

/-- A record of 64 bytes from 0x10000 in device scope to the stash. -/
def rec0 : CopyRec := { kind := 0, scope := .device, src := 0x10000, mask := 0, dst := 0xFF80000000020000, bobj := .stash 0 0 0,
                        bytes := 64, rows := 1, rowb := 64, sstr := 0, dstr := 0 }
def job0 (a : Bool) : CopyJob := { core := 0, gid := 0, op := 5, ctx := 0, team := 0, req := rec0, accepted := a, user := true,
                                   pos := 0, clock := 0, order := 1 }
/-- CopyEngineSteps: a record to accept, one to move, an object at 0 and above, a prefetch. -/
theorem witness_copy_steps : let s : State := { paged (withOp (.kick [rec0])) with jobs := [(6, job0 false)] }
    let t : State := { paged (withOp (.kick [rec0])) with jobs := [(6, job0 true)] }
    let c : OpKind := .cpwait (acc0 (.stash 0 0 0)) .device false
    s.nextJob 0 = some (6, job0 false) ∧ (enterLocks (s.locksOf 6 (job0 false)) s.locks).isSome = true ∧
    dget t.jobs 6 = some (job0 true) ∧ t.jobWaits 6 (job0 true) = false ∧ 0 < rec0.rowb ∧
    (t.movePiece 6 (job0 true)).2 = .inl (some 0) ∧ settledB (t.movePiece 6 (job0 true)).1 = true ∧
    (job0 true).needsPos = false ∧ (withOp c).canPerform 5 (op c) = true ∧
    ofBytes ((one (withOp c)).readLoc 0 (levelOf .acq .device) 8 (.stash 0 0 0)).2 = 0 ∧
    ofBytes (({ one (withOp c) with teams := [(0, { team0 with stash := [(0, [(0, 1)])] })] } : State).readLoc 0
      (levelOf .acq .device) 8 (.stash 0 0 0)).2 ≠ 0 ∧ bareB (one (withOp c)) = true := by
  refine ⟨?_, ?_, ?_, ?_, ?_, ?_, ?_, ?_, ?_, ?_, ?_, ?_⟩ <;> decide +kernel
theorem witness_copy_more : let y : OpKind := .yieldc (acc0 (.stash 0 0 0)) .device
    let g : Group := { withOp y with slot0 := { (withOp y).slot0 with yieldc := some 5 } }
    let c : CopyJob := { job0 true with req := { rec0 with scope := .constellation, bobj := .phys 0x20000 } }
    g.canPerform 5 (op y) = true ∧ g.slot0.yieldc = some 5 ∧ bareB (one g) = true ∧ c.needsPos = true ∧
    (let j : PfbJob := { core := 0, gid := 0, ctx := 0, team := 0, base := 0x10000, bytes := 256, pos := 0,
                         bobj := .stash 0 0 0, user := true, clock := 0, held := false }
     settledB (((paged g0).prefetch j 0x10000).1.countDown 0 .device j.bobj 256 0 0) = true) := by
  refine ⟨?_, ?_, ?_, ?_, ?_⟩ <;> decide +kernel
/-- CopyEngineSteps: a full lock table. -/
theorem witness_lock_table_full : enterLocks [(0, ⟨0, 0, 0, 1, true, 1⟩)]
    ((List.range 64).map (fun i => (i, (⟨0, 0, 0, 1, true, 1⟩ : RangeLock)))) = none := by decide +kernel

/-- A data queue of 16 slots. -/
def queue0 : Queue := { qbase := 0x20000, en := true, mode := 1, ctx := 0, sz := 0 }
/-- QueueWordsIssue: a record in the stash, aligned or not, no lane, and a ring in the device's own memory that can be
reached. -/
theorem witness_queue_words : let s : State := { labStash .async (.enq (qq .f11 5 11 3 1)) [] with queues := [(3, queue0)] }
    okLanes (s.checkLanes (agentOf 0 (gr s)) 64 64 0 { r := true } [(0, 0xFF80000000000000)]).2 = true ∧
    okLanes (s.checkLanes (agentOf 0 (gr s)) 64 64 1 { w := true, cfTraps := true } [(0, 0xFF80000000000000)]).2 = true ∧
    okLanes (s.checkLanes (agentOf 0 (gr s)) 64 128 0 { r := true } [(0, 0xFF80000000000000)]).2 = true ∧
    trapLanes (s.checkLanes (agentOf 0 (gr s)) 64 64 0 { r := true } [(0, 0xFF80000000000008)]).2 = true ∧
    (0xFF80000000000000 : Word64).toNat % 128 = 0 ∧ (0x40 : Word64).toNat % 128 ≠ 0 ∧
    (gr s).exec allLanes false 1 = 0 ∧ (gr s).exec allLanes false 0 ≠ 0 ∧ clearB s = true ∧ s.queue 3 = queue0 := by
  refine ⟨?_, ?_, ?_, ?_, ?_, ?_, ?_, ?_, ?_, ?_⟩ <;> decide +kernel
/-- QueueOperations: room, a full queue, an empty one; each failure code; a waiter at the head for an entry, and for a
slot; an entry that a DEQ keeps. -/
theorem witness_queues : let full : Queue := { queue0 with tail := 16 }
    let s (q : Queue) : State := { one g0 with queues := [(3, q)] }
    let d : OpKind := .deq 3 8 (acc0 (.stash 0 0 0)) none
    let l : OpKind := .launch 3 (some 8) [List.replicate 64 1]
    let k : OpKind := .deq 3 8 (acc0 (.stash 0 0 0)) (some (0, List.replicate 64 1, 0))
    queue0.count < queue0.cap ∧ (s queue0).queueFull 3 = false ∧ (s full).queueFull 3 = true ∧ queue0.count = 0 ∧ full.count ≠ 0 ∧
    queueFail queue0 0 false false = none ∧ queueFail queue0 1 false false = some 2 ∧ queueFail { queue0 with mode := 0 } 0 true false = some 3 ∧
    queueFail queue0 0 false true = some 3 ∧ queueFail { queue0 with sz := 13 } 0 false false = some 2 ∧
    (one (withOp d)).isSaved 0 = false ∧ dget (withOp d).ops 5 = some (op d) ∧ dget (withOp l).ops 5 = some (op l) ∧
    ({ full with waiters := [.item 0 5] } : Queue).waiters = [.item 0 5] ∧
    ((one (withOp k)).gotEntry 3).map (fun x => (x.1, x.2.1, x.2.2.1)) = some (0, 5, 8) ∧ clearB (one (withOp d)) = true ∧
    ({ one (withOp d) with teams := [(0, { team0 with saved := true })] } : State).isSaved 0 = true := by
  refine ⟨?_, ?_, ?_, ?_, ?_, ?_, ?_, ?_, ?_, ?_, ?_, ?_, ?_, ?_, ?_, ?_, ?_⟩ <;> decide +kernel
theorem witness_queue_ring : ∀ k < 64 * queue0.cap, isDevice (queue0.qbase + k) = true := by
  have h : 64 * queue0.cap = 1024 := rfl
  have hb : queue0.qbase = 0x20000 := rfl
  intro k hk
  rw [h] at hk
  simp only [isDevice, region?, hb]
  rw [if_pos (by omega), if_pos (by omega)]

/-- A field of 100 cells of 4 bytes at 0x10000 in domain 2. -/
def field0 : Field := { base := 0x10000, count := 100, wide := false, frac := 16, cst := false, limit := false, nonneg := false,
                        domain := 2, block := 1, first := 0, ndev := 1, btab := 0, share := 0, bnd := [] }
def domain0 : Domain := { cst := false, frac := 16, first := 0, id := 10, bd := 0, k := 10, fields := 1 }
def pair0 : Pair := { gid := 0, op := 5, lane := 0, ctx := 0, fld := 3, src := 1, dst := 2, spa := some 0x20004, dpa := some 0x20008,
                      amt := 4, swapped := false, limit := false }
/-- A machine with that field and domain. -/
def fielded (g : Group) : State := { paged g with fields := [(3, field0)], domains := [(2, domain0)], mem := [(0x20004, 10)] }
def txf0 : TxfState := ⟨0x10008, 3, 7, false, false, [], [], [(2, 4)]⟩
/-- FieldWordsIssue: every lane's cells may be read and written; a cell, not a cell, a handle without a field. -/
theorem witness_txf : let x : FFields := ⟨.f11, false, 0, 0, 2, 3, 6, 10, 10⟩
    let s : State := { labCur .field (.txf x) (sregs [(2, 1), (3, 2), (6, 4), (10, 3)]) with
      tlb := [(0, ⟨0, { page0 with cf := true }⟩)], fields := [(3, field0)], domains := [(2, domain0)] }
    let a : Agent := { agentOf 0 (gr s) with user := false }
    canIssue s (.txf x) = true ∧ s.field? 0 3 = some field0 ∧ s.field? 0 4 = none ∧ field0.isCell 1 = true ∧
    field0.isCell 100 = false ∧ (s.checkTxf a (some field0) (fun _ => [1, 2]) [0]).2.length = 1 ∧
    (∀ e ∈ (s.checkTxf a (some field0) (fun _ => [1, 2]) [0]).2, (match e.2 with | .inl _ => true | .inr _ => false) = true) := by
  refine ⟨?_, ?_, ?_, ?_, ?_, ?_, ?_⟩ <;> decide +kernel
/-- FieldPairKeepsTheTotal, FieldEngineSteps: two cells of device memory, 4 bytes each; a lane whose turn it is; a return;
a TXF that is decided. -/
theorem witness_pair : let s : State := { fielded (withOp (.txf txf0)) with pairs := [(7, pair0)], returns := [(8, pair0)] }
    dget s.fields (pair0.ctx * 4096 + pair0.fld) = some field0 ∧ dget s.domains (pair0.ctx * 1024 + field0.domain) = some domain0 ∧
    (∀ k < 16, isDevice (0x20004 + k) = true ∧ isDevice (0x20008 + k) = true) ∧ 0x20004 + 4 ≤ 0x20008 ∧
    (s.cellRead 4 0x20004).2 = 10 ∧ s.pairFirst pair0 = true ∧
    (withOp (.txf txf0)).canPerform 5 { op (.txf txf0) with mer := 0 } = true ∧ dget s.returns 8 = some pair0 := by
  refine ⟨?_, ?_, ?_, ?_, ?_, ?_, ?_, ?_⟩ <;> decide +kernel
/-- FieldWordsIssue: a descriptor that may be read at once and one behind the group's own store; a group with nothing
outstanding and one with an access; FieldEngineSteps: all of the device's memory at hand. -/
theorem witness_field_more : let s : State := fielded (withOp (.txf txf0))
    g0.mayRead [(.phys 0x20000, 64, false)] = true ∧
    (withOp (.store .plain .group 4 [(acc0 (.phys 0x20000), [1])])).mayRead [(.phys 0x20000, 64, false)] = false ∧
    (one g0).fieldQuiet 0 g0 = true ∧ g0.earlier 10 = false ∧ Scope.device ≠ Scope.constellation ∧
    (withOp (.store .plain .group 4 [(acc0 (.phys 0x20000), [1])])).earlier 10 = true ∧ clearB s = true ∧
    isDevice (0x20004 + 15) = true ∧ (({ withOp (.txf { txf0 with open_ := [] }) with flags := [] } : Group).canPerform 5
      { op (.txf { txf0 with open_ := [] }) with mer := 0 }) = true := by
  refine ⟨?_, ?_, ?_, ?_, ?_, ?_, ?_, ?_, ?_⟩ <;> decide +kernel
/-- R279 to R281 by hand: 4 of the 10 in cell 1 go to cell 2; in limit mode 12 give 10, in trap mode nothing moves where the
cells must not go below 0. -/
theorem test_pair :
    let s : State := fielded (withOp (.txf txf0))
    let t (p : Pair) (f : Field) := State.applyPair { s with fields := [(3, f)] } p
    let nn : Field := { field0 with nonneg := true }
    ((t pair0 field0).cellRead 4 0x20004).2 = 6 ∧ ((t pair0 field0).cellRead 4 0x20008).2 = 4 ∧
    ((t { pair0 with limit := true, amt := 12 } nn).cellRead 4 0x20008).2 = 10 ∧
    ((t { pair0 with amt := 12 } nn).cellRead 4 0x20004).2 = 10 := by
  refine ⟨?_, ?_, ?_, ?_⟩ <;> decide +kernel

/-- SystemWordsIssue: no fault-queue entry waits; one may be posted; a parked group that RESOLVED has passed; MAPPG's
target not canonical, valid, remote and first-touch. -/
theorem witness_system : let s : State := { paged { g0 with parked := some 0 } with
      ctxs := [(0, { posted := 1, resolved := 1, posting := [(0, 5)] })] }
    ((one g0).ctx 0).posting = [] ∧ s.groups = [(0, { g0 with parked := some 0 })] ∧ (s.ctx 0).passed 0 = true ∧
    s.resumedAt ≠ s.cycle + 1 ∧ (s.ctx 0).posting = [(0, 5)] ∧ canonical (2 ^ 55 : Word64) = false ∧
    (s.ctx 0).terminate = none := by
  refine ⟨?_, ?_, ?_, ?_, ?_, ?_, ?_⟩ <;> decide +kernel
/-- SystemWordsIssue: an entry in the device's own memory, room for it; an FQPOST of the group's own that waits, and none; the
entry at which a parked group resumes; MAPPG and INVLP with no cache. -/
theorem witness_system_more : let x : Ctx := { posted := 1, resolved := 1, posting := [(0, 5)] }
    let k : OpKind := .fqpost 8 7 true
    let s : State := { one { withOp k with parked := some 0 } with ctxs := [(0, x)] }
    clearB s = true ∧ isDevice (x.fqEntry x.posted) = true ∧ isDevice (x.fqEntry x.posted + 63) = true ∧ x.fqFull = false ∧
    (withOp k).posting = true ∧ g0.posting = false ∧ dget (withOp k).ops 5 = some (op k) ∧ (withOp k).unperformed 5 = false ∧
    g0.unperformed 10 = false ∧ settledB (s.devBytes 0 2 ((s.ctx 0).fqEntry 0 + 62)).1 = true ∧
    (withOp (.store .plain .group 4 [(acc0 (.phys 0x20000), [1])])).unperformed 10 = true ∧
    (g0.slot 0).mask ≠ 0 ∧ canonical (0x10000 : Word64) = true ∧ ((s.mapTarget 0 0 0x10000).2 matches .inr _) = true := by
  refine ⟨?_, ?_, ?_, ?_, ?_, ?_, ?_, ?_, ?_, ?_, ?_, ?_, ?_, ?_⟩ <;> decide +kernel

/-- An instance of a stream at its first instruction. -/
def inst0 : Inst := { part := 0, pc := 0x10000, owned := 2, clause := some clause0 }
/-- A team whose quad is groups 0 to 3, on partition 0. -/
def quadState (x : Inst) : State :=
  { one g0 with
    groups := [(0, { g0 with budget := 512 }), (1, { g0 with budget := 512 }), (2, { g0 with budget := 512 }), (3, { g0 with budget := 512 })]
    teams := [(0, { team0 with gids := [0, 1, 2, 3], insts := [(0, x)], blo := 3, bnum := 1 })] }
/-- MatrixWordsComplete: every word is legal with two accumulators; a quad that is full and one that is not; a region of the
stash and one outside. -/
theorem witness_matrix :
    [Instr.mma (xx 0 false 7 7 16 0x40), .mma (xx 1 true 8 8 16 0), .mzero (xx 0 true 0 0 0 0), .mstc (xx 0 false 0 0 0 0),
      .mwait (xx 0 false 0 0 3 0), .marr (xx 0 false 0 0 3 1), .mloop (xx 0 false 0 0 3 2), .mbr (xx 0 false 0 0 0 4),
      .mbr (xx 1 false 0 0 0 4), .mend (xx 0 false 0 0 0 0), .msetf (xx 0 false 0 0 0 0x477), .msetf (xx 2 false 0 0 0 0)].all
      (fun i => (sigOf 2048 4 i).ok) = true ∧
    inst0.owned ≠ 1 ∧ inst0.clause.isSome = true ∧ inst0.ended = false ∧ inst0.trap = none ∧ inst0.waits = none ∧
    ((quadState inst0).team? 0).any (fun t => ((quadState inst0).fullQuad t 0).isSome) = true ∧
    ((one g0).fullQuad team0 0).isSome = false ∧
    ((quadState inst0).region 0 team0 inst0 0x40 8192 false).2 = .ok 0 0x1000 ∧
    ((quadState inst0).region 0 team0 inst0 0x4000 8192 false).2 = .outside ∧
    (quadState inst0).barInRange 0 3 = true ∧ (quadState inst0).barInRange 0 9 = false := by
  refine ⟨?_, ?_, ?_, ?_, ?_, ?_, ?_, ?_, ?_, ?_, ?_, ?_⟩ <;> decide +kernel
/-- MatrixWordsComplete: operand lines that are resident, and that are not; a budget that reaches the operands and one that
does not; the region of a mapped piece that is not there, a barrier in range with no cache. -/
theorem witness_matrix_more :
    let lines : List CacheLine := (List.range 4).flatMap (fun g => (List.range 32).map (fun l => ⟨g, l, 0, false⟩))
    let s := quadState inst0
    let r : State := { s with rcache := [(0, lines)] }
    let t : Team := { team0 with gids := [0, 1, 2, 3], insts := [(0, inst0)], blo := 3, bnum := 1 }
    let m : Mapping := ⟨0, 0, false, 64, 64, 0, 0x10000, [], [], []⟩
    let w : State := { s with teams := [(0, { t with maps := [m] })], tlb := [(0, ⟨0, page0⟩)] }
    s.quadResident t 0 inst0 16 false = false ∧ r.quadResident t 0 inst0 16 false = true ∧
    (((s.fullQuad t 0).getD []).all (fun g => decide (16 + 7 + 11 ≤ g.budget))) = true ∧ (20 : Nat) < 16 + 7 + 11 ∧
    (w.region 0 { t with maps := [m] } inst0 0 8192 false).2 = .wait ∧
    settledB (w.region 0 { t with maps := [m] } inst0 0 8192 false).1 = true ∧ bareB s = true ∧
    ((s.quad { t with gids := [] } 0).headD none).isNone = true := by
  refine ⟨?_, ?_, ?_, ?_, ?_, ?_, ?_, ?_⟩ <;> decide +kernel
theorem witness_matrix_operands : let q : List Group := [g0, g0, g0, g0]
    (∀ m ∈ [0, 1, 127], scalesOk (tileRow team0 0 0 m true) = true) ∧ (∀ k ∈ [0, 127], scalesOk (quadCol q 16 k true) = true) ∧
    scalesOk (tileRow { team0 with stash := [(0, (List.range 256).map (fun i => (8192 + i, 0x7F)))] } 0 0 0 true) = false := by
  refine ⟨?_, ?_, ?_⟩ <;> decide +kernel
/-- MatrixEngineSteps: an instance without a clause fetches; a trap to be delivered to a group between two clauses. -/
theorem witness_matrix_steps : let x : Inst := { inst0 with clause := none }
    let s : State := { quadState x with tlb := [(0, ⟨0, page0⟩)] }
    let g : Group := { g0 with matrixTraps := [⟨4, 0, 0x10008⟩] }
    s.mayStream team0 = true ∧ (s.codeWords ⟨0, 0, 0, 0, true⟩ 1 0x10000).2 = .inl [0] ∧
    ((quadState x).codeWords ⟨0, 0, 0, 0, true⟩ 1 0x10000).2 = .inr (1, 3) ∧ g.slot0.live = true ∧ g.slot0.running = none ∧
    g.slot0.transfer = none ∧ g.slot0.replays = [] ∧ g.xmask ≠ allLanes ∧
    clauseCheck 2048 4 true (decodeHeader 0xA000000000000000) [0x0E00000000000000] = 0 ∧
    clauseCheck 2048 4 true (decodeHeader 0) [0] ≠ 0 := by
  refine ⟨?_, ?_, ?_, ?_, ?_, ?_, ?_, ?_, ?_, ?_⟩ <;> decide +kernel
/-- MatrixEngineSteps: the reads of a clause are at hand, of a page that is there and of one that is not; a group that has
exited with a trap to come, alone in its team. -/
theorem witness_matrix_steps_more : let x : Inst := { inst0 with clause := none }
    let s : State := { quadState x with tlb := [(0, ⟨0, page0⟩)] }
    let e : Group := { g0 with xmask := allLanes, slot0 := {}, matrixTraps := [⟨4, 0, 0x10008⟩] }
    settledB (s.codeWords ⟨0, 0, 0, 0, true⟩ 1 0x10000).1 = true ∧ settledB ((quadState x).codeWords ⟨0, 0, 0, 0, true⟩ 1 0x10000).1 = true ∧
    (one e).group? 0 = some e ∧ (one e).team? e.team = some team0 ∧ e.xmask = allLanes ∧ (one e).unexited team0 = [] ∧
    ((one e).ctx 0).terminate = none ∧ g0.slot0.resumeIdx = 0 := by
  refine ⟨?_, ?_, ?_, ?_, ?_, ?_, ?_, ?_⟩ <;> decide +kernel

/-- A launch record of one team of one producer group with B = 32. -/
def recordBytes : List Byte :=
  toBytes 8 0x10000 ++ toBytes 24 0 ++ toBytes 8 0 ++ toBytes 4 0x100 ++ toBytes 4 4 ++ toBytes 80 0
def lrec0 : LaunchRec := parseLaunch recordBytes
def grid0 : Grid := { lrec := lrec0, gridId := 0, ctx := 0, queue := 3, serial := 0, recAt := 0x10000, arg := 7, seed := 9, order := 1 }

/-- GroupAndTeamLife, first part: the last team of a grid of 2 × 3 × 4 teams, its last group. -/
theorem witness_new_group : let gr : Grid := { grid0 with lrec := { lrec0 with x := 2, y := 3, z := 4 } }
    gr.lrec.x ≤ 2 ^ 20 ∧ gr.lrec.y ≤ 2 ^ 20 ∧ 23 < gr.lrec.x * gr.lrec.y * gr.lrec.z ∧ gr.lrec.z ≤ 2 ^ 20 ∧ 63 < 64 := by
  refine ⟨?_, ?_, ?_, ?_, ?_⟩ <;> decide +kernel
/-- A group all of whose lanes have left and that has nothing under way. -/
def gone : Group := { g0 with xmask := allLanes, slot0 := {} }
/-- GroupAndTeamLife: a team to be pre-empted, a bound reached, a quiescent team, a saved one with room on cluster 0, a group
that is done (with a refusal and without), a team that is done, a context with nothing under way. -/
theorem witness_life :
    let s : State := { one g0 with victims := [0] }
    let q : State := { one g0 with teams := [(0, { team0 with preempt := some 990 })] }
    0 ∈ s.victims ∧ team0.saved = false ∧ team0.preempt = none ∧ (∀ e ∈ s.teams, e.2.preempt = none) ∧
    q.quiescent 0 { team0 with preempt := some 990 } = true ∧ (one g0).mayRestore 0 = false ∧
    ({ one g0 with ctxs := [(0, { valid := true })] } : State).mayRestore 0 = true ∧
    ({ one g0 with teams := [(0, { team0 with saved := true })] } : State).fits lrec0 0 = some [(0, [0])] ∧
    lrec0.whole = false ∧ gone.done = true ∧ gone.supervisor = false ∧ gone.refusals = [] ∧
    ({ one g0 with groups := [] } : State).teamDone 0 { team0 with lastGone := some 999 } = true ∧ (one g0).drained 0 = true := by
  refine ⟨?_, ?_, ?_, ?_, ?_, ?_, ?_, ?_, ?_, ?_, ?_, ?_, ?_, ?_⟩ <;> decide +kernel
/-- GroupAndTeamLife: the first victim of its cluster; a team with nothing mapped and no cache; a saved team that no other
grid outranks, and one whose context may not be restored; a grid without a completion bitmap; a context to end whose ring
lies in the device's own memory. -/
theorem witness_life_more :
    let s : State := { one g0 with victims := [0] }
    let v : Team := { team0 with saved := true }
    let r : State := { one g0 with teams := [(0, v)], ctxs := [(0, { valid := true })], grids := [(1, grid0)] }
    let e : State := { one gone with ctxs := [(0, { terminate := some (2, 0, 0, 0) })], tring := 0x30000 }
    s.victims.find? (fun v => ((s.team? v).map (fun x => x.cluster == team0.cluster && !x.saved)).getD false) = some 0 ∧
    bareB s = true ∧ team0.maps = [] ∧ r.outranked 1 grid0 0 = false ∧ r.mayRestore 0 = true ∧ bareB r = true ∧
    dget r.grids v.gridKey = some grid0 ∧ (r.fits grid0.lrec 0).isSome = true ∧ (r.ctx 0).terminate = none ∧
    grid0.lrec.whole = false ∧ (∀ m ∈ v.maps, m.rw = true) ∧ grid0.lrec.cbmap = 0 ∧ grid0.lrec.osz0 = 0 ∧ grid0.lrec.osz1 = 0 ∧
    e.drained 0 = true ∧ clearB e = true ∧ (∀ k < 32, isDevice (ringAt e.tring e.trpos.toNat + k) = true) ∧
    (e.ctx 0).terminate = some (2, 0, 0, 0) ∧ settledB (one g0) = true ∧ (one g0).isSaved 0 = false := by
  refine ⟨?_, ?_, ?_, ?_, ?_, ?_, ?_, ?_, ?_, ?_, ?_, ?_, ?_, ?_, ?_, ?_, ?_, ?_, ?_, ?_⟩ <;> decide +kernel

/-- A launch queue that holds one entry. -/
def lqueue : Queue := { qbase := 0x20000, en := true, mode := 0, tail := 1 }
/-- Memory that holds bytes from an address on. -/
def memOf (pa : Nat) (b : List Byte) : Tab Byte :=
  (b.zip (List.range b.length)).filterMap (fun e => if e.1 = 0 then none else some (pa + e.2, e.1))
/-- A machine whose queue 3 holds the entry `e`, and whose context 0 reads `recordBytes` at 0x10000. -/
def queued (e : List Byte) : State :=
  { one g0 with queues := [(3, lqueue)], ctxs := [(0, { valid := true })], mem := memOf 0x20000 (e ++ List.replicate (0x80 - e.length) 0 ++ recordBytes)
                tlb := [(324, ⟨0, { page0 with vbase := 0x10000, frame := 0x20000 }⟩), (0, ⟨0, page0⟩)] }
def isLaunch : Option (Nat × Head) → Bool
  | some (3, .launch _ _ _) => true
  | _ => false
/-- DispatchSteps: a seed entry, an entry of no type, a launch entry whose record is admitted, rejected fields. -/
theorem witness_heads :
    let picks (s : State) := pickHead s.heads.1.served s.heads.2
    picks (queued (toBytes 8 2 ++ toBytes 8 77)) = some (3, .seed 77) ∧
    picks (queued (toBytes 8 3)) = some (3, .bad 7 0) ∧
    isLaunch (picks (queued (toBytes 8 1 ++ toBytes 8 0x10080))) = true ∧
    badFields lrec0 = none ∧ badClass lrec0 = none ∧ lrec0.perUnit = 1 ∧ lrec0.whole = false ∧
    (({ one g0 with ctxs := [(0, { valid := true, raw := [(48, 16)] })] } : State).admission 0 lrec0).2 = none ∧
    badFields (parseLaunch (List.replicate 128 0)) = some 40 ∧ badClass { lrec0 with cls := 3 } = some 48 ∧
    ({ lrec0 with p := 17 } : LaunchRec).perUnit = 17 ∧
    ({ lrec0 with cls := 2, x := 20481 } : LaunchRec).capacity 40 < ({ lrec0 with cls := 2, x := 20481 } : LaunchRec).teams := by
  refine ⟨?_, ?_, ?_, ?_, ?_, ?_, ?_, ?_, ?_, ?_, ?_, ?_⟩ <;> decide +kernel
/-- DispatchSteps: a grid with a part at cluster 0 and room there; one that waits in stage 2; a part to steal; a grid without
room; a digest to chain; a deterministic grid whose groups have met. -/
theorem witness_grids :
    let gr : Grid := { grid0 with ranges := [⟨0, 0, 1⟩, ⟨1, 1, 5⟩] }
    let s : State := { one gone with teams := [], groups := [], grids := [(1, gr)], ctxs := [(0, { valid := true, raw := [(48, 16)] })] }
    let w : Grid := { grid0 with waiting := true }
    s.gridOrder = [(1, gr)] ∧ gr.nextRange 0 = some ⟨0, 0, 1⟩ ∧ s.mayPlace gr = true ∧ bareB s = true ∧
    s.restoreFirst 1 gr 0 = false ∧ gr.nextRange 2 = none ∧ s.fits gr.lrec 2 ≠ none ∧
    gr.lrec.dbmap = 0 ∧ s.fits gr.lrec 0 = some [(0, [0])] ∧ s.poolFits 0 gr.lrec = true ∧
    stealFrom [⟨0, 0, 0⟩, ⟨1, 1, 5⟩] 0 = [⟨1, 1, 5⟩] ∧ stealFrom [⟨0, 0, 0⟩, ⟨1, 1, 5⟩] 20 ≠ [] ∧ s.needsRoom { gr with roomless := 1 } = false ∧ s.needsRoom w = true ∧
    ({ s with grids := [(1, w)] } : State).grids.find? (fun e => e.2.queue == 3 && e.2.waiting) = some (1, w) ∧
    (s.dependAll 0 w.lrec w.lrec.teams).2 = .ok ∧
    ((({ s with grids := [(1, w)], queues := [(3, lqueue)] } : State).passStage2 1 w).grids.find? (fun e => e.1 == 1)).isSome = true := by
  refine ⟨?_, ?_, ?_, ?_, ?_, ?_, ?_, ?_, ?_, ?_, ?_, ?_, ?_, ?_, ?_, ?_, ?_⟩ <;> decide +kernel
theorem witness_chain : let d : Grid := { grid0 with digest := some 5, complete := true }
    ({ one g0 with grids := [(1, d)] } : State).nextChained 3 = some (1, d) ∧
    ({ one { g0 with met := true, det := true } with grids := [(1, { grid0 with lrec := { lrec0 with det := true } })] } : State).allMet 1
      { grid0 with lrec := { lrec0 with det := true } } = true ∧
    (0 + 1) * lrec0.quant < 2 ^ 48 ∧ (∀ i < 40, (splitRanges 100)[i]?.isSome = true) := by
  refine ⟨?_, ?_, ?_, ?_⟩ <;> decide +kernel
/-- DispatchSteps: no head considered in this cycle yet, and one; what the heads touch is at hand; a launch entry of either
class that is admitted; a deterministic grid's groups with empty brines. -/
theorem witness_dispatch_more :
    let s := queued (toBytes 8 1 ++ toBytes 8 0x10080)
    let gr : Grid := { grid0 with lrec := { lrec0 with det := true } }
    let m : State := { one { g0 with met := true, det := true } with grids := [(1, gr)] }
    s.headAt ≠ s.cycle + 1 ∧ settledB s.heads.1 = true ∧ settledB (s.heads.1.admission 0 lrec0).1 = true ∧ lrec0.cbmap = 0 ∧
    ({ s with headAt := s.cycle + 1 } : State).headAt = s.cycle + 1 ∧
    (((({ one g0 with ctxs := [(0, { valid := true, raw := [(48, 16)] })] } : State).admission 0 { lrec0 with cls := 2 })).2) = none ∧
    ({ lrec0 with cls := 2 } : LaunchRec).whole = true ∧ gr.commits = none ∧ gr.lrec.det = true ∧ m.allMet 1 gr = true ∧
    bareB m = true ∧ (∀ e ∈ m.groups, m.group? e.1 = some e.2 ∧ e.2.brine.txfs = [] ∧ e.2.brine.spans = [] ∧ e.2.brine.ops = [] ∧
      e.2.ops = []) ∧ m.grids = [(1, gr)] := by
  refine ⟨?_, ?_, ?_, ?_, ?_, ?_, ?_, ?_, ?_, ?_, ?_, ?_, ?_⟩ <;> decide +kernel
/-- R342 by hand: 100 teams over 40 clusters give 25 a die, and its clusters 2 and 3 in turn. -/
theorem test_ranges : (splitRanges 100).map (fun r => r.hi - r.lo) = (List.replicate 20 [2, 3]).flatten := by decide +kernel

/-- HostRegisterSteps: RESOLVED within POSTED and beyond it, an entry whose reserved fields are zero and one whose are not, a
queue off and on, an invalidation under way or not. -/
theorem witness_host_registers :
    let x : Ctx := { posted := 5, resolved := 2 }
    (4 : Word32) ≠ x.resolved ∧ ((4 : Word32) - x.resolved).toNat ≤ (x.posted - x.resolved).toNat ∧
    (x.posted - x.resolved).toNat < ((6 : Word32) - x.resolved).toNat ∧ (one g0).busy = false ∧ (one g0).pbusy = false ∧
    ((one g0).ctx 0).reservedOk = true ∧ ({ raw := [(0, 1)] } : Ctx).reservedOk = false ∧ (1 : Byte).getLsbD 0 = true ∧
    (∃ e ∈ (one g0).teams, e.2.ctx = 0 ∧ e.2.saved = false) ∧ (∀ e ∈ (one g0).teams, e.2.ctx = 1 → e.2.saved = true) ∧
    ((one g0).queue 3).en = false ∧ queue0.en = true ∧ (one g0).ready.getLsbD 0 = true := by
  refine ⟨?_, ?_, ?_, ?_, ?_, ?_, ?_, ?_, ⟨(0, team0), ?_⟩, ?_, ?_, ?_, ?_⟩ <;> decide +kernel
/-- HostRegisterSteps: an enabled queue all of whose grids wait, and one with a grid that runs; a queue without waiters. -/
theorem witness_queue_enable : let s (w : Bool) : State := { one g0 with queues := [(3, queue0)], grids := [(1, { grid0 with waiting := w })] }
    (∀ e ∈ (s true).grids, e.2.queue = 3 → e.2.waiting = true) ∧ (∃ e ∈ (s false).grids, e.2.queue = 3 ∧ e.2.waiting = false) ∧
    ((s true).queue 3).en = true ∧ (queue0.waiters = []) ∧ settledB (s true) = true ∧ (1#64 <<< 63).getLsbD 63 = true ∧
    inWindow (0xFF80000000000000 : Word64).toNat = true := by
  refine ⟨?_, ⟨(1, { grid0 with waiting := false }), ?_⟩, ?_, ?_, ?_, ?_, ?_⟩ <;> decide +kernel
/-- HostMemorySteps: the first byte of each near memory and of a far one, and the end; a free line and a busy one; a granted
line; a snoop of a line of the host's; a load of host memory. -/
theorem witness_host_memory :
    let s : State := { one g0 with backInv := [0x20000], hostDir := [⟨0x20000, true⟩], syscap := 2 }
    hostPa 0 = some 0 ∧ hostPa (3 * 2 ^ 30) = some (2 ^ 32) ∧ hostPa (12 * 2 ^ 30) = some (2 ^ 40) ∧ hostPa (204 * 2 ^ 30) = none ∧
    hostPa 0x20000 = some 0x20000 ∧ s.memReady 0x20000 = true ∧ s.lineBusy 0x20000 = true ∧ (one g0).lineBusy 0x20000 = false ∧
    0x20000 ∈ s.backInv ∧ isHost (2 ^ 51) = true ∧ s.syscap.getLsbD 1 = true ∧
    dget (withOp (.load .plain .group 4 7 false [acc0 (.phys (2 ^ 51))] [0])).ops 5 =
      some (op (.load .plain .group 4 7 false [acc0 (.phys (2 ^ 51))] [0])) := by
  refine ⟨?_, ?_, ?_, ?_, ?_, ?_, ?_, ?_, ?_, ?_, ?_, ?_⟩ <;> decide +kernel
/-- R395 by hand: a compare-and-swap of 4 bytes that holds 5 with 5 and 9 leaves 9. -/
theorem test_host_cas : let t := nextOf (exec (.hostMemRequest 0x20000 (.cas 4 5 9)) { one g0 with mem := [(0x20000, 5)] })
    t.rd 0x20000 = 9 ∧ t.hostOut = [[5, 0, 0, 0]] := by
  refine ⟨?_, ?_⟩ <;> decide +kernel

/-- MailboxCommands: every command with its length, in the running module and in the safe state. -/
theorem witness_mailbox : let m (o l : Nat) : Mailbox := { opc := BitVec.ofNat 16 o, len := BitVec.ofNat 16 l }
    let s (x : Mailbox) : State := { one g0 with mbox := x }
    (∀ o ∈ [0, 1, 2, 3, 4, 5, 6, 7, 8], (s (m o 0)).mbox.status ≠ 1) ∧ (s (m 3 2)).ready.getLsbD 0 = true ∧
    (s (m 3 2)).ready.getLsbD 56 = false ∧ (m 4 35).len = 35 ∧ (m 5 2).len = 2 ∧
    ({ one g0 with ready := 1#64 <<< 56 } : State).ready.getLsbD 56 = true ∧ dget ((one g0).port 43).txKeys 1 = none ∧
    dget ({ txKeys := [(1, 5)] } : Port).txKeys 1 ≠ none := by
  refine ⟨?_, ?_, ?_, ?_, ?_, ?_, ?_, ?_⟩ <;> decide +kernel
/-- R405 by hand: a power limit of 600 W is taken, one of 599 W is not. -/
theorem test_power_limit : let m (w : Nat) : State := { one g0 with mbox := { status := 1, opc := 5, len := 2, req := memOf 0 (toBytes 2 w) } }
    (nextOf (exec .mailboxPowerLimit (m 600))).power.limit = 600 ∧ (nextOf (exec .mailboxPowerLimit (m 599))).power.limit = 2700 ∧
    (nextOf (exec .mailboxPowerLimit (m 599))).mbox.status = 2 := by
  refine ⟨?_, ?_, ?_⟩ <;> decide +kernel

/-- A machine of the Meridian with agents 0 (this device) and 1, in frame 4. -/
def meridian : State :=
  { one g0 with fabid := 0, members := 3, cycle := 1000
                mer := { en := true, epoch := 0, frame := 4, pos := (4, 0), taken := 5
                         records := [(4, 0, ⟨0, 2, 0, false, []⟩), (4, 1, ⟨1, 1, 0, false, []⟩)] } }
def unit0 : Unit64 := { frame := 5, index := 0, src := 1, dst := 0, bc := true, typ := 5, tag := 0, body := 0, good := true }
/-- MeridianSteps: banks ready, or not; the records of a frame and their grants; a frame that ends, with and without a halt;
a record to come; a unit at hand. -/
theorem witness_meridian :
    (one g0).mer.en = false ∧ (one g0).banksReady = true ∧ State.reset.banksReady = false ∧
    (meridian.recordsFor 4).isSome = true ∧ (meridian.grantTable 4).isSome = true ∧ meridian.mer.en = true ∧
    (meridian.mer.frame.toNat + 1) * 512 ≤ (meridian.cycle - meridian.mer.epoch) * 5 ∧ meridian.mer.halt = false ∧
    State.unserviceable { meridian with mer := { meridian.mer with frame := 5 } } 5 = none ∧
    State.unserviceable { meridian with mer := { meridian.mer with
      frame := 30, records := [(30, 0, ⟨0, 0, 0, false, [(2, 7)]⟩), (30, 1, ⟨1, 0, 0, false, []⟩)] } } 30 = some (2, 7) ∧
    meridian.members.getLsbD 1 = true ∧ (1 : Nat) ≠ meridian.fabid ∧ meridian.record? 6 1 = none ∧ meridian.mer.lost = [] := by
  refine ⟨?_, ?_, ?_, ?_, ?_, ?_, ?_, ?_, ?_, ?_, ?_, ?_, ?_, ?_⟩ <;> decide +kernel
theorem witness_meridian_units :
    unit0.src.toNat ≠ meridian.fabid ∧ unit0.index < 960 ∧ meridian.mer.pos.1 < unit0.frame.toNat ∧ unit0.good = true ∧
    unit0.typ.toNat ≤ 0x0C ∧ (∀ y ∈ meridian.mer.held, y.frame = unit0.frame → y.index ≠ unit0.index) ∧ unit0.bc = true ∧
    (((meridian.grantTable 4).getD []).find? (fun e => decide (0 ≤ e.1))).any (fun e => match e.2 with
      | .own _ => true
      | _ => false) = true := by
  refine ⟨?_, ?_, ?_, ?_, ?_, ?_, ?_, ?_⟩ <;> decide +kernel
/-- MeridianSteps: no unit at hand when a frame ends; a position that waits for a unit; the unit at the position, which is
done. -/
theorem witness_meridian_more :
    let x : Unit64 := { unit0 with frame := 4, index := 0, src := 0 }
    let m : State := { meridian with mer := { meridian.mer with held := [x] } }
    let f : State := { meridian with mer := { meridian.mer with frame := 5 } }
    calmB meridian = true ∧ ((State.enqueueOps (State.runAcks f)).takeDue 18).mer.held = [] ∧
    (State.takeDue { meridian with mer := { meridian.mer with records := meridian.mer.records ++ [(6, 1, ⟨1, 1, 0, false, []⟩)] } }
      18).mer.held = [] ∧
    (match ({ meridian with mer := { meridian.mer with held := [unit0] } } : State).nextSlot 4 0 with
      | .wait => true | .missing _ => true | _ => false) = true ∧
    meridian.mer.held = [] ∧ m.mer.pos.1 ≤ m.mer.frame.toNat ∧ m.mer.held.find? (fun y => y.frame.toNat == 4 && y.index == 0) = some x ∧
    (m.applyUnit x).1.waits = false ∧ (match (m.applyUnit x).2 with | .done => true | _ => false) = true := by
  refine ⟨?_, ?_, ?_, ?_, ?_, ?_, ?_, ?_, ?_⟩ <;> decide +kernel

/-- A port that is up, with a receive key in slot 0. -/
def port0 : Port := { mode := 1, up := true, rxKeys := [(0, 5)], txKeys := [(0, 6)], txact := 0xFFFF, rxact := 0xFFFF }
def ported (x : Port) : State := { one g0 with ports := [(0, x)], lit := 0xFFFF }
/-- A flit of a sequence number, with the AUTH of its contents. -/
def flit0 (q : BitVec 12) : Flit :=
  let f : Flit := mkFlit 1 0 7 false 3
  let f := { f with seq := q }
  { f with auth := Config.gcmTag 5 (ivOf 0 1 0 0) (flitHead f) f.payload }
/-- SequencedFlits: a flit in order with a good AUTH, a duplicate, a gap; a request outstanding. -/
theorem witness_flit : (ported port0).port 0 = port0 ∧ dget port0.rxKeys (if (flit0 0).ks then 1 else 0) = some 5 ∧
    (flit0 0).seq = port0.rxNext ∧
    Config.gcmTag 5 (ivOf 0 1 (if (flit0 0).ks then 1 else 0) (tget 0 port0.rxCount (if (flit0 0).ks then 1 else 0)))
      (flitHead (flit0 0)) (flit0 0).payload = (flit0 0).auth ∧
    (flit0 0xFFF).seq ≠ port0.rxNext ∧ (port0.rxNext - 1 - (flit0 0xFFF).seq).toNat < 2048 ∧
    (flit0 5).seq ≠ port0.rxNext ∧ 2048 ≤ (port0.rxNext - 1 - (flit0 5).seq).toNat := by
  refine ⟨rfl, rfl, rfl, rfl, ?_, ?_, ?_, ?_⟩ <;> decide
/-- SequencedFlits: a good AUTH need not be there: one whose AUTH is another word. -/
theorem witness_bad_auth : let f : Flit := { flit0 0 with auth := (flit0 0).auth + 1 }
    Config.gcmTag 5 (ivOf 0 1 0 0) (flitHead f) f.payload ≠ f.auth := by
  show (flit0 0).auth ≠ (flit0 0).auth + 1
  intro h
  have := congrArg BitVec.toNat h
  rw [BitVec.toNat_add] at this
  have h1 : (1 : BitVec 32).toNat = 1 := rfl
  have := (flit0 0).auth.isLt
  omega
def req0 (w : Bool) : PortReq := { tag := 7, frame := 2 ^ 38, words := 0xFFFF, write := w, job := some (6, 256) }
theorem witness_requests : ((ported { port0 with reqs := [req0 false] }).findReq 0 (flit0 0)).isSome = true ∧
    (quarters (req0 false).words)[(req0 false).got]? = some 0 ∧ (req0 true).write = true ∧
    (dget ({ ported port0 with jobs := [(6, job0 true)] } : State).jobs 6).isSome = true := by
  refine ⟨?_, ?_, ?_, ?_⟩ <;> decide +kernel
/-- UnsequencedFlits: an announcement of a boundary passed and of one to come, an echo of our own, a wavelength request that
leaves 8 wavelengths and one that leaves 7. -/
theorem witness_unsequenced : let ann : Announce := { mask := 0x0FFF, bound := 5, sentAt := 0 }
    let x : Port := { port0 with ann := some ann, rxNext := 9 }
    0 < (x.rxNext - 5).toNat ∧ (x.rxNext - 5).toNat < 2048 ∧ ¬ (0 < (x.rxNext - 9).toNat) ∧ x.lossHold = false ∧
    (BitVec.extractLsb' 0 16 (0x50FFF : BitVec 512)) = ann.mask ∧ (BitVec.extractLsb' 16 12 (0x50FFF : BitVec 512)) = ann.bound ∧
    8 ≤ popcount ((0x01FF : BitVec 16) &&& ~~~(1#16 <<< 8)) ∧ popcount ((0x00FF : BitVec 16) &&& ~~~(1#16 <<< 7)) < 8 ∧ port0.ann = none ∧
    (0x01FF &&& ~~~(1#16 <<< 8) : BitVec 16) ≠ 0x01FF := by
  refine ⟨?_, ?_, ?_, ?_, ?_, ?_, ?_, ?_, ?_, ?_⟩ <;> decide +kernel
/-- PortEvents: a replay due, an announcement due, a silent port and one heard, training, a bank ready and not, error rates on
both sides of the thresholds, a granted bulk packet, a source lit and one not. -/
theorem witness_port_events : let x : Port := { port0 with replay := [flit0 0] }
    x.replay ≠ [] ∧ x.ackAt + 1600 ≤ (2000 : Nat) ∧ x.lastRx + 8000 ≤ (9000 : Nat) ∧ (1000 : Nat) < x.lastRx + 8000 ∧
    x.authf ≠ 0xFFFF ∧ ({ training := true } : Port).up = false ∧ (ported x).usable 10 = true ∧ State.reset.usable 10 = false ∧
    x.rxact &&& (1#16 <<< 3) ≠ 0 ∧ (ported x).rethr * 100 < 20001 ∧ 8 ≤ popcount (x.rxact &&& ~~~(1#16 <<< 3)) ∧
    popcount ((0x00FF : BitVec 16) &&& ~~~(1#16 <<< 3)) < 8 ∧ (4999 : Nat) < (ported x).rethr * 25 := by
  refine ⟨by simp, ?_, ?_, ?_, ?_, ?_, ?_, ?_, ?_, ?_, ?_, ?_, ?_⟩ <;> decide +kernel
theorem witness_port_events_more :
    ([({ tag := 3, flits := [], dropped := true, grant := some (100, 5000) } : Bulk)].find? (fun b => b.tag == 3)).isSome = true ∧
    ((100 * 4 + 4) / 5 ≤ (1000 : Nat)) ∧ (ported port0).lit.getLsbD 3 = true ∧
    (({ ported port0 with lit := 0xFFF7 } : State).lit.getLsbD 3 = false ∧ (ported port0).ready.getLsbD 10 = true) ∧
    (0xFFFF &&& ~~~(0xF#16 <<< 12) : BitVec 16) ≠ 0xFFFF ∧ 8 ≤ popcount ((0xFFFF : BitVec 16) &&& ~~~(0xF#16 <<< 12)) := by
  refine ⟨?_, ?_, ?_, ⟨?_, ?_⟩, ?_, ?_⟩ <;> decide +kernel

/-- ManagementSteps: the first unit, the host link once trained, the last unit; a measurement due, above and within the limit;
UNREACH due; a context not ending. -/
theorem witness_management : let s : State := State.reset
    s.nextUnit = 0 ∧ s.ready.getLsbD 56 = false ∧ s.readyAt ≤ s.cycle ∧
    ({ s with syscap := 0x1000 } : State).syscap.toNat / 2 ^ 12 % 16 ≠ 0 ∧ ({ s with nextUnit := 53 } : State).nextUnit < 54 ∧
    (({ one g0 with cycle := 800000 } : State).power.at_ + 800000 ≤ 800000) ∧ (one g0).power.limit < 2701 ∧
    (one g0).power.matrix ≤ 15 ∧ (one g0).power.issue ≤ 15 ∧ 100 ≤ ({ overRun := 100 } : Power).overRun ∧
    (one g0).power.unreach = false ∧ ((one g0).ctx 63).terminate = none := by
  refine ⟨?_, ?_, ?_, ?_, ?_, ?_, ?_, ?_, ?_, ?_, ?_, ?_⟩ <;> decide +kernel

/-! ### Witnesses: numbers, encodings, invariants -/

/-- FloatArithmetic, RoundingResults, SpecialFunctionResults, ConversionResults, FloatOrderAndClassResults: a code that is a
number, a zero, an infinity, a NaN of each kind. -/
theorem witness_float_values :
    (match fmtF32.decode 0x3F800000 with | .num x => decide (0 < x.mag.d) && decide (0 < x.num) | _ => false) = true ∧
    (match fmtF32.decode 0xBF800000 with | .num x => decide (0 < x.mag.d) && decide (x.num < 0) | _ => false) = true ∧
    (fmtF32.decode 0x80000000).isZero = true ∧ fmtF32.decode 0x7F800000 = .inf false ∧ fmtF32.decode 0xFF800000 = .inf true ∧
    fmtF32.decode 0x7FC00000 = .nan false ∧ fmtF32.decode 0x7F800001 = .nan true ∧ fmtF32.width = 32 ∧
    (0x3F800000 : Nat) < 2 ^ fmtF32.width ∧ (modeReset.getLsbD 3 = false) := by
  refine ⟨?_, ?_, ?_, ?_, ?_, ?_, ?_, ?_, ?_, ?_⟩ <;> decide +kernel
theorem witness_f32_format : fmtF32 ∈ ieeeFormats ∧ (⟨1, 0, false, false, false⟩ : Rnd).fzo = false := ⟨by simp [ieeeFormats], rfl⟩
/-- EncodeAndDecodeAgree. -/
theorem witness_encode : let i : Instr := .iadd (.reg (rr .f00 0 5 3 4 0 0))
    i.formOk = true ∧ i.cls = some .alu ∧ decode .alu 0x000000A00C020000 = some i := by
  refine ⟨?_, ?_, ?_⟩ <;> decide
/-- MemoryStaysCanonical, ReadyKeepsItsForm: the machine after reset, and a step of it. -/
theorem witness_invariants : Memory.wf State.reset.mem = true ∧
    State.reset.ready &&& ~~~0x01FFFFFFFFFF3FFF#64 = 0 ∧ State.reset.ready.getLsbD 56 = false ∧
    (1#64 <<< 56).getLsbD 56 = true := by
  refine ⟨?_, ?_, ?_, ?_⟩ <;> decide +kernel
theorem witness_step_of_reset : ∃ t, step (lab .alu .nop id) = .next t ∧ t.ready = 0x00FFFFFFFFFF3FFF := by
  have h : (match step (lab .alu .nop id) with | .next t => decide (t.ready = 0x00FFFFFFFFFF3FFF) | _ => false) = true := by
    decide +kernel
  revert h
  generalize step (lab .alu .nop id) = o
  cases o <;> simp

/-- A value of f32 of 2^23 or more in magnitude is an integer. -/
theorem f32_integer_above (c : Nat) (u : SFrac) (h : fmtF32.decode c = .num u) (hu : (2 : ℝ) ^ 23 ≤ |(u.val : ℝ)|) :
    ∃ k : ℤ, (u.val : ℝ) = k := by
  have e : ∃ (n : Bool) (m : Nat) (x : Int), m < 2 ^ 24 ∧ u = ⟨n, Frac.ofPow2 m x⟩ := by
    simp only [BinFmt.decode] at h
    have hm (y : Nat) : y % 2 ^ fmtF32.fracBits < 2 ^ 23 := Nat.mod_lt _ (by decide)
    split at h
    · split at h <;> cases h
    · split at h <;> cases h
      · exact ⟨_, _, _, Nat.lt_trans (hm _) (by decide), rfl⟩
      · refine ⟨_, _, _, ?_, rfl⟩
        have := hm (c % fmtF32.signBit)
        have : 2 ^ fmtF32.fracBits = 2 ^ 23 := rfl
        omega
  obtain ⟨n, m, x, hm, rfl⟩ := e
  have hr : (m : ℝ) < 2 ^ 24 := by exact_mod_cast hm
  by_cases hx : x < 0
  · exfalso
    have hd : (2 : ℝ) ≤ (2 : ℝ) ^ (-x).toNat := by
      calc (2 : ℝ) = 2 ^ 1 := by norm_num
        _ ≤ 2 ^ (-x).toNat := pow_le_pow_right₀ (by norm_num) (by omega)
    have : |((SFrac.val ⟨n, Frac.ofPow2 m x⟩ : ℚ) : ℝ)| = m / (2 : ℝ) ^ (-x).toNat := by
      cases n <;> simp [SFrac.val, SFrac.num, Frac.ofPow2, hx, abs_div]
    rw [this, le_div_iff₀ (by positivity)] at hu
    nlinarith
  · refine ⟨if n then -(m * 2 ^ x.toNat) else m * 2 ^ x.toNat, ?_⟩
    cases n <;> simp [SFrac.val, SFrac.num, Frac.ofPow2, hx]
theorem f32_neighbours (v : ℝ) (h : (2 : ℝ) ^ 23 < v ∧ v < 2 ^ 23 + 1) : neighbours fmtF32.isValue (2 ^ 23) v (2 ^ 23 + 1) := by
  refine ⟨⟨0x4B000000, ⟨false, ⟨2 ^ 23, 1⟩⟩, by decide, by decide +kernel, ?_⟩,
    ⟨0x4B000001, ⟨false, ⟨2 ^ 23 + 1, 1⟩⟩, by decide, by decide +kernel, ?_⟩, h.1, h.2, ?_⟩
  · norm_num [SFrac.val, SFrac.num]
  · norm_num [SFrac.val, SFrac.num]
  · rintro y ⟨c, u, -, hc, rfl⟩ ⟨h1, h2⟩
    obtain ⟨k, hk⟩ := f32_integer_above c u hc (by rw [abs_of_pos (by linarith [show (0 : ℝ) < 2 ^ 23 by norm_num])]; exact h1.le)
    rw [hk] at h1 h2
    have : (2 ^ 23 : ℤ) < k := by exact_mod_cast h1
    have : k < 2 ^ 23 + 1 := by exact_mod_cast h2
    omega
/-- RoundingResults: a value between two of f32, one beyond the largest, a tiny one, one just below the smallest normal;
SpecialFunctionResults: a number whose root is between two values of f32, one whose root is a value. -/
theorem witness_rounding_values :
    neighbours fmtF32.isValue (2 ^ 23) (((⟨false, ⟨2 ^ 24 + 1, 2⟩⟩ : SFrac).val : ℚ) : ℝ) (2 ^ 23 + 1) ∧
    neighbours fmtF32.isValue (2 ^ 23) (Real.sqrt (((⟨false, ⟨2 ^ 46 + 2 ^ 23, 1⟩⟩ : SFrac).val : ℚ) : ℝ)) (2 ^ 23 + 1) ∧
    fmtF32.decode 0x56800001 = .num ⟨false, ⟨2 ^ 46 + 2 ^ 23, 1⟩⟩ ∧
    Real.sqrt (((⟨false, ⟨4, 1⟩⟩ : SFrac).val : ℚ) : ℝ) = 2 := by
  refine ⟨f32_neighbours _ ⟨?_, ?_⟩, f32_neighbours _ ⟨?_, ?_⟩, by decide +kernel, ?_⟩
  · norm_num [SFrac.val, SFrac.num]
  · norm_num [SFrac.val, SFrac.num]
  · rw [Real.lt_sqrt (by norm_num)]; norm_num [SFrac.val, SFrac.num]
  · rw [Real.sqrt_lt' (by norm_num)]; norm_num [SFrac.val, SFrac.num]
  · rw [show (((⟨false, ⟨4, 1⟩⟩ : SFrac).val : ℚ) : ℝ) = 2 ^ 2 by norm_num [SFrac.val, SFrac.num]]
    exact Real.sqrt_sq (by norm_num)
theorem witness_rounding_bounds :
    let top : ℝ := 2 ^ (fmtF32.bias + 1)
    let small : ℝ := 2 ^ (1 - (fmtF32.bias : Int))
    let ulps (n : Nat) : ℝ := 1 - (2 : ℝ)⁻¹ ^ (fmtF32.fracBits + n)
    let big : SFrac := ⟨false, ⟨2 ^ 128, 1⟩⟩
    let tiny : SFrac := ⟨true, ⟨1, 2 ^ 127⟩⟩
    top ≤ |((big.val : ℚ) : ℝ)| ∧ top * ulps 1 < |((big.val : ℚ) : ℝ)| ∧ small ≤ |((big.val : ℚ) : ℝ)| ∧
    |((tiny.val : ℚ) : ℝ)| ≤ small * ulps 1 ∧ ulps 2 < 1 ∧ ulps 1 < ulps 2 ∧ big.val ≠ 0 ∧ tiny.val ≠ 0 ∧
    infOnOverflow ⟨1, 0, false, false, false⟩ false false ∧ ¬ infOnOverflow ⟨2, 0, false, false, false⟩ false false ∧
    100000 < |((big.val : ℚ) : ℝ)| := by
  refine ⟨?_, ?_, ?_, ?_, ?_, ?_, ?_, ?_, ?_, ?_, ?_⟩ <;> norm_num [SFrac.val, SFrac.num, fmtF32, infOnOverflow]
/-- SpecialFunctionBounds: an integer from −149 up, one below, 128, no integer; a power of 2 and none. -/
theorem witness_special_values : let v (n d : Nat) : ℚ := (⟨false, ⟨n, d⟩⟩ : SFrac).val
    128 ≤ v 128 1 ∧ (∃ n : Int, v 3 1 = n ∧ -149 ≤ n) ∧ (⟨true, ⟨127, 1⟩⟩ : SFrac).val < -126 ∧
    (¬ ∃ n : Int, v 1 2 = n ∧ -149 ≤ n) ∧ (∃ n : Int, v 1 2 = 2 ^ n) ∧ (¬ ∃ n : Int, v 3 1 = 2 ^ n) ∧
    (∃ u, fmtF32.decode 0x43000000 = .num u ∧ u.val = 128) ∧ (∃ n : Int, v 4 1 = 4 ^ n) ∧ (¬ ∃ n : Int, v 2 1 = 4 ^ n) := by
  refine ⟨?_, ⟨3, ?_, ?_⟩, ?_, ?_, ⟨-1, ?_⟩, ?_, ⟨⟨false, ⟨2 ^ 23, 2 ^ 16⟩⟩, by decide +kernel, ?_⟩, ⟨1, ?_⟩, ?_⟩
  · norm_num [SFrac.val, SFrac.num]
  · norm_num [SFrac.val, SFrac.num]
  · norm_num
  · norm_num [SFrac.val, SFrac.num]
  · rintro ⟨n, h, -⟩
    have h2 : (2 * n : ℚ) = 1 := by rw [← h]; norm_num [SFrac.val, SFrac.num]
    have : 2 * n = 1 := by exact_mod_cast h2
    omega
  · norm_num [SFrac.val, SFrac.num]
  · rintro ⟨n, h⟩
    have h3 : (3 : ℚ) = 2 ^ n := by rw [← h]; norm_num [SFrac.val, SFrac.num]
    have h1 : (2 : ℚ) ^ (1 : Int) < 2 ^ n := by rw [← h3]; norm_num
    have h4 : (2 : ℚ) ^ n < 2 ^ (2 : Int) := by rw [← h3]; norm_num
    have := (zpow_lt_zpow_iff_right₀ (by norm_num : (1 : ℚ) < 2)).1 h1
    have := (zpow_lt_zpow_iff_right₀ (by norm_num : (1 : ℚ) < 2)).1 h4
    omega
  · norm_num [SFrac.val, SFrac.num]
  · norm_num [SFrac.val, SFrac.num]
  · rintro ⟨n, h⟩
    have h3 : (2 : ℚ) = 4 ^ n := by rw [← h]; norm_num [SFrac.val, SFrac.num]
    have h1 : (4 : ℚ) ^ (0 : Int) < 4 ^ n := by rw [← h3]; norm_num
    have h4 : (4 : ℚ) ^ n < 4 ^ (1 : Int) := by rw [← h3]; norm_num
    have := (zpow_lt_zpow_iff_right₀ (by norm_num : (1 : ℚ) < 4)).1 h1
    have := (zpow_lt_zpow_iff_right₀ (by norm_num : (1 : ℚ) < 4)).1 h4
    omega
/-- RoundingResults: a value between two of DM8. -/
theorem witness_dm8 : neighbours dm8Value 0 (1 / 10 ^ 7) (1 / 10 ^ 6) := by
  have all : ∀ c < 256, (match dm8Decode c with
      | .num u => decide (u.num ≤ 0) || (decide (0 < u.mag.d) && decide ((u.mag.d : Int) ≤ u.num * 10 ^ 6))
      | _ => true) = true := by decide +kernel
  refine ⟨⟨0, ⟨false, ⟨0, 1⟩⟩, by decide, by decide +kernel, ?_⟩, ⟨1, ⟨false, ⟨1, 10 ^ 6⟩⟩, by decide, by decide +kernel, ?_⟩,
    by norm_num, by norm_num, ?_⟩
  · norm_num [SFrac.val, SFrac.num]
  · norm_num [SFrac.val, SFrac.num]
  · rintro y ⟨c, u, hc, hu, rfl⟩ ⟨h1, h2⟩
    have := all c hc
    rw [hu] at this
    simp only [Bool.or_eq_true, Bool.and_eq_true, decide_eq_true_eq] at this
    simp only [SFrac.val, Rat.cast_div, Rat.cast_intCast, Rat.cast_natCast] at h1 h2
    rcases this with h | ⟨hd, h⟩
    · have : (u.num : ℝ) ≤ 0 := by exact_mod_cast h
      linarith [div_nonpos_of_nonpos_of_nonneg this (Nat.cast_nonneg (α := ℝ) u.mag.d)]
    · have hd : (0 : ℝ) < u.mag.d := by exact_mod_cast hd
      have h : (u.mag.d : ℝ) ≤ u.num * 10 ^ 6 := by exact_mod_cast h
      rw [div_lt_div_iff₀ hd (by norm_num)] at h2
      linarith

/-- ClauseFetchAndStart: code in device memory that the translation cache holds, a legal header and one that fails a
check, in an L1 with room. -/
theorem witness_clause_code : let bad : State := { paged g0 with mem := [(0x20000, 0xFF)] }
    let check (s : State) : Nat := clauseCheck 256 4 false (decodeHeader (s.codeWord (agentOf 0 g0) 0x10000)) [0]
    clearB (paged g0) = true ∧ (∀ n ≤ 2, (paged g0).codeHere (agentOf 0 g0) 0x10000 n) ∧ 136 ≤ (paged g0).lineRoom g0.core ∧
    (decodeHeader ((paged g0).codeWord (agentOf 0 g0) 0x10000)).n = 1 ∧ check (paged g0) = 0 ∧ check bad ≠ 0 ∧
    fld g0.slot0.fmt 3 0 = 4 ∧ clearB bad = true := by
  refine ⟨by decide +kernel, ?_, by decide +kernel, by decide +kernel, by decide +kernel, by decide +kernel, by decide +kernel,
    by decide +kernel⟩
  intro n hn j hj
  have : j = 0 ∨ j = 1 := by omega
  rcases this with rfl | rfl
  · exact ⟨0x20000, by decide +kernel, by decide +kernel⟩
  · exact ⟨0x20008, by decide +kernel, by decide +kernel⟩
/-- DivergenceSplitsTheSlot: a target that is the join; a stack with room for what is pushed, and one that overflows.
TransferResolutionCompletes: an overflow of each kind, and a landing at the right pad. -/
theorem witness_overflow : ∀ k ∈ [TransferKind.bra, .call, .brx, .callx, .ret],
    let e : SpillEntry := ⟨0x10200, 0xF, noJoin, fmtReset, false, 0, none, none, false⟩
    let g : Group := { g0 with slot0 := { g0.slot0 with transfer := some (tr0 k 0x10100) }, spill := List.replicate 64 e }
    let d := ((g.setSlot 0 { g.slot0 with transfer := none, eligFrom := 1001 }).diverge 0 0xFF 0x10100 0x10010 0x10300 false 1000)
    (d matches .overflow) = true ∧ 64 < g.spill.length + 1 ∧ g0.spill.length + 2 ≤ 64 ∧ ((0x10300 : Word64) = 0x10300 ∨ False) ∧
    g.mustWait 0 (tr0 k 0x10100) 1000 = false := by
  intro k hk
  simp only [List.mem_cons, List.not_mem_nil, or_false] at hk
  rcases hk with rfl | rfl | rfl | rfl | rfl <;> refine ⟨?_, ?_, ?_, ?_, ?_⟩ <;> decide +kernel
theorem witness_landing : let l := ((({ paged g0 with mem := memOf 0x20008 (toBytes 8 0xFB80000000000000) } : State)).landing (agentOf 0 g0) 0x10000 0)
    (l.2 matches .inl _) = true ∧ settledB l.1 = true := by
  refine ⟨?_, ?_⟩ <;> decide +kernel
/-- The halves of a prediction of lanes 0 to 7 taken, where lanes 0 to 3 were: one with wrong lanes, a shadowed line and a
held store, one that lacks lanes and has a clause to replay. -/
def halfA : Half := { slot := 0, ph := 0xFF, startPc := 0x10100, shadows := [(3, 7)], retired := 2 }
def halfB : Half := { slot := 1, ph := 0xFF00, startPc := 0x10010, clauses := [⟨clause0, 0, 1, []⟩], retired := 1 }
def spec1 : Spec := { spec0 with taken := 0xF, sMask := 0xFFFF, resolved := true, halves := [halfA, halfB] }
theorem witness_repair :
    let st : OpKind := .store .plain .group 4 [(acc0 (.stash 0 0 8), [1]), (⟨5, 0, .stash 0 0 12⟩, [2])]
    let g : Group := { withOp st with spec := some spec1, slot0 := { g0.slot0 with mask := 0xFF }, slot1 := { mask := 0xFF00 },
                                      ops := [(5, { op st with half := true })] }
    let right (x : Half) : Mask := if x.ph = spec1.guess then spec1.taken else spec1.sMask &&& ~~~spec1.taken
    spec1.placed ∧ g.spec = some spec1 ∧ spec1.issueAt + 8 ≤ (one g).cycle ∧ spec1.overflows g.spill.length = false ∧
    keysRise g.ops = true ∧ right halfA = 0xF ∧ (halfA.ph &&& ~~~right halfA).getLsbD 5 = true ∧ right halfA &&& ~~~halfA.ph = 0 ∧
    right halfB &&& ~~~halfB.ph ≠ 0 ∧ halfB.clauses.reverse.filter (fun c => decide (c.first < c.count)) ≠ [] ∧
    g.slot0.pc ≠ g.slot0.join ∧ dget g.ops 5 = some { op st with half := true } ∧
    (∀ e' ∈ halfA.shadows, e'.1 = 3 → e' = (3, 7)) := by
  refine ⟨⟨by decide, by decide, by decide, .inl ⟨by decide, by decide, halfA, halfB, rfl, rfl, rfl, rfl, by decide⟩⟩, rfl, ?_, ?_, ?_, ?_,
    ?_, ?_, ?_, ?_, ?_, ?_, ?_⟩ <;> decide +kernel
/-- SpillPopAndRepairResults: a prediction whose one side alone was placed, of either kind, with the other side live after
the repair; a half no lane of which was right. -/
theorem witness_repair_one : let a : Half := { halfA with ph := 0xFFFF }
    let p (guess : Mask) : Spec := { spec1 with guess := guess, halves := [a] }
    (p 0).placed ∧ (p 0xFFFF).placed ∧ spec1.taken ≠ 0 ∧ spec1.sMask &&& ~~~spec1.taken ≠ 0 ∧ spec1.target ≠ spec1.join ∧
    spec1.fall ≠ spec1.join ∧ (let q : Spec := { spec1 with taken := 0xFFFF }; q.sMask &&& ~~~q.taken = 0) := by
  refine ⟨⟨by decide, by decide, by decide, .inr ⟨.inl rfl, _, rfl, rfl, by decide⟩⟩,
    ⟨by decide, by decide, by decide, .inr ⟨.inr (by decide), _, rfl, rfl, by decide⟩⟩, ?_, ?_, ?_, ?_, ?_⟩ <;> decide
/-- An instruction that is the newest to write a scalar, and one that is not (R190). -/
theorem witness_newest : g0.newest false 5 1 1 ∧ ({ g0 with scaAt := [(scaKey false 5, (3, 1))] } : Group).newest false 5 3 1 ∧
    ¬ ({ g0 with scaAt := [(scaKey false 5, (3, 1))] } : Group).newest false 5 2 9 := by
  have e : dget [(scaKey false 5, ((3, 1) : Nat × Nat))] (scaKey false 5) = some (3, 1) := by decide +kernel
  have z : dget g0.scaAt (scaKey false 5) = none := by decide +kernel
  refine ⟨fun i j h => by simp [z] at h, fun i j h => ?_, fun h => ?_⟩
  · have := e.symm.trans h
    simp at this
    omega
  · have := h 3 1 e
    omega
/-- IllegalPrivilegedAndTrap: a TRAP behind another trap of the group; SpecialRegisters: a half under replay with bits of its
own, and none; TrapEntryAndReturn: a trap that counts on a flag, a stream's trap. -/
theorem witness_traps : let g : Group := { g0 with trapReq := some trap0 }
    let z : StreamTrap := ⟨4, 0, 0x10008⟩
    g.takesTrap 0 1000 = false ∧ g.supervisor = false ∧ g0.slot0.redo = none ∧ g0.slot1.redo = none ∧
    ({ g0 with slot1 := { redo := some { halfA with raised := 0x800 } } } : Group).slot1.redo = some { halfA with raised := 0x800 } ∧
    ({ trap0 with flag := some 3, matrix := some z } : TrapReq).flag = some 3 ∧
    ({ trap0 with matrix := some z } : TrapReq).matrix = some z := by
  refine ⟨?_, ?_, ?_, ?_, ?_, ?_, ?_⟩ <;> decide +kernel
/-- OperationsEnterAndWait, AccessesPerform, FenceAndWriteBackWordsIssue: an operation that needs no Meridian position; a core
whose release has sent everything, and one with a write to a node on its way. -/
theorem witness_release : let w : PortReq := { frame := 2 ^ 38, words := 1, write := true, num := 3 }
    let s : State := { one g0 with ports := [(0, { up := true, reqs := [w] })] }
    (op .idle).mer = 0 ∧ (op .idle).relAt = none ∧ (one g0).relBusy 10 = false ∧ (one g0).wrote = [] ∧ s.relBusy 10 = true ∧
    (∀ e ∈ ([] : List (Nat × Byte)), isDevice e.1 = false) ∧ (319 : Nat) ≤ 319 := by
  refine ⟨?_, ?_, ?_, ?_, ?_, ?_, ?_⟩ <;> decide +kernel
/-- StashMappingsActAsTheRulesSay: a slot with no mapping, with one that the new one meets, and with 32. -/
theorem witness_add_mapping : let m : Mapping := ⟨0, 0, true, 1, 64, 0, 0x10000, [], [0], []⟩
    let n : Mapping := { m with off := 4096 }
    let meets (x : Mapping) : Bool := x.slot == m.slot && decide (x.off < m.off + m.rows * m.rowb) && decide (m.off < x.off + x.rows * x.rowb)
    meets m = true ∧ meets n = false ∧ meets { m with off := 64 } = false ∧ meets { m with off := 63 } = true ∧
    32 ≤ ((List.replicate 32 n).filter (fun x => x.slot == m.slot)).length ∧ (List.replicate 32 n).filter (fun x => !meets x) = List.replicate 32 n ∧
    ([n, m][1]? = some m ∧ ∀ j y, [n, m][j]? = some y → meets y = true → j = 1) := by
  refine ⟨?_, ?_, ?_, ?_, ?_, ?_, ?_, ?_⟩
  case refine_8 =>
    intro j y h hm
    match j with
    | 0 => cases h; exact absurd hm (by decide +kernel)
    | 1 => rfl
    | j + 2 => cases h
  all_goals decide +kernel
/-- CopyEngineSteps: bytes of a record that are at their node and wait to be counted, and none; a count that takes a Meridian
position. -/
theorem witness_counts : let j : CopyJob := { job0 true with ended := [(900, 64, 0)] }
    j.ended.find? (fun x => decide (x.1 < 1000)) = some (900, 64, 0) ∧ (job0 true).ended.find? (fun x => decide (x.1 < 1000)) = none ∧
    (job0 true).pos < (job0 true).req.total ∧ (job0 true).due = none ∧ (job0 true).cnt + 63 < (job0 true).req.total ∧
    (job0 true).req.total ≤ (job0 true).cnt + 64 := by
  refine ⟨?_, ?_, ?_, ?_, ?_, ?_⟩ <;> decide +kernel

/-- FieldWordsIssue: cells whose page is not there, and cells in the window whose mapped piece is still to come; one cell
that passes step 1. -/
theorem witness_txf_faults : let a : Agent := { agentOf 0 g0 with user := false }
    let w : Field := { field0 with base := 0xFF80000000000000 }
    let m : Mapping := ⟨0, 0, true, 8, 64, 0, 0x10000, [], [], []⟩
    let s : State := { paged g0 with teams := [(0, { team0 with maps := [m] })] }
    let chk (s : State) (f : Field) := s.checkTxf a (some f) (fun _ => [1, 2]) [0]
    (chk (one g0) field0).2.any (fun e => e.2 matches .inr (.fault ..)) = true ∧ settledB (chk (one g0) field0).1 = true ∧
    (chk s w).2.any (fun e => e.2 matches .inr (.wait ..)) = true ∧ settledB (chk s w).1 = true ∧
    ((paged g0).checkLane a 0 (field0.va 1) (field0.size 1) 1 4 { w := true, user := false }).2 = .ok (.phys 0x20004) ∧
    ((one g0).checkLane a 0 (field0.va 1) (field0.size 1) 1 4 { w := true, user := false }).2 matches .fault .. := by
  refine ⟨?_, ?_, ?_, ?_, ?_, ?_⟩ <;> decide +kernel
/-- FieldPairKeepsTheTotal, FieldEngineSteps: the transfer of a pair; one lane's amount to write; refused lanes. -/
theorem witness_decided : let st : TxfState := { txf0 with open_ := [0] }
    let d : TxfState := { txf0 with open_ := [], writes := [(0, 4)], refused := [] }
    (one (withOp (.txf st))).group? pair0.gid = some (withOp (.txf st)) ∧ dget (withOp (.txf st)).ops pair0.op = some (op (.txf st)) ∧
    d.writes = [(0, 4)] ∧ d.form11 = false ∧ 2 ≤ (withOp (.txf d)).budget ∧ d.wide = false ∧ txf0.refused ≠ [] ∧
    (withOp (.txf d)).canPerform 5 { op (.txf d) with mer := 0 } = true := by
  refine ⟨rfl, ?_, ?_, ?_, ?_, ?_, ?_, ?_⟩ <;> decide +kernel
/-- QueueOperations: a queue whose earlier waiters wait for a slot or for an entry, of other groups; what the waiters leave;
a store of the host that is held. -/
theorem witness_queue_waiters : let r : Queue := { queue0 with tail := 16, waiters := [.room 1 5] }
    let i : Queue := { queue0 with tail := 1, waiters := [.item 1 5] }
    let s (q : Queue) : State := { one g0 with queues := [(3, q)] }
    (∀ w ∈ r.waiters ++ i.waiters, ∀ k, w ≠ .item 0 k ∧ w ≠ .room 0 k) ∧ ((s r).admitRooms 3).queueFull 3 = true ∧
    (((s queue0).feed 3).admitRooms 3).queue 3 = queue0 ∧ (((s { queue0 with tail := 1 }).feed 3).admitRooms 3).queue 3 ≠ queue0 ∧
    ({ one g0 with heldHost := [⟨0x20000, .write [1]⟩] } : State).hostBehind = true ∧ (one g0).hostBehind = false ∧
    (one g0).isSaved 0 = false := by
  refine ⟨?_, ?_, ?_, ?_, ?_, ?_, ?_⟩
  · intro w hw k
    simp only [List.mem_append, List.mem_singleton] at hw
    rcases hw with rfl | rfl <;> simp
  all_goals decide +kernel
/-- SystemWordsIssue: the lowest lane of an activation's lanes. -/
theorem witness_lowest_lane : let g : Group := { g0 with supP7 := 0xF8, supervisor := true, faddr := [(3, 0x7000)] }
    g.supP7.getLsbD 3 = true ∧ (∀ j < 3, g.supP7.getLsbD j = false) ∧ (one g).group? 0 = some g := by
  refine ⟨?_, ?_, rfl⟩ <;> decide +kernel
/-- MatrixWordsComplete: a member of the quad whose FMT is legal for MSETF, and one whose is not; a barrier whose phase is
the token's, and another; 16 tokens without this barrier's. -/
theorem witness_msetf : let legal (f : Nat) : Bool := decide (5 ≤ f / 2 ^ 12 % 16 ∧ f / 2 ^ 12 % 16 ≤ 9 ∧ 5 ≤ f / 2 ^ 16 % 16 ∧
      f / 2 ^ 16 % 16 ≤ 9 ∧ (f / 2 ^ 20 % 16 = 0 ∨ f / 2 ^ 20 % 16 = 4) ∧ f / 2 ^ 24 % 4 ≤ 1)
    let n : Inst := { inst0 with tokens := (List.range 16).map (fun b => (b + 10, true)) }
    let s (ph : Bool) : State := { quadState inst0 with bars := [(3, { exp := 2, ph := ph })] }
    ((((quadState inst0).team? 0).map (fun t => ((quadState inst0).quad t 0).headD none)).join.map (fun g => legal g.slot0.fmt.toNat)) =
      some true ∧ legal 0x01577004 = false ∧ legal 0x02477004 = false ∧ dget n.tokens 3 = none ∧ 16 ≤ n.tokens.length ∧
    (((s true).barSettle 0 3).bar 0 3).ph = true ∧ (((s false).barSettle 0 3).bar 0 3).ph = false ∧
    (dget inst0.tokens 3).getD false = false ∧ bareB (s true) = true := by
  refine ⟨?_, ?_, ?_, ?_, ?_, ?_, ?_, ?_, ?_⟩ <;> decide +kernel
/-- DispatchSteps: a grid that has had no room for 4,096 cycles beside one whose team has a lower priority, on a cluster that
is ready; no part of it late. -/
theorem witness_victims : let gr : Grid := { grid0 with roomless := 1, lrec := { lrec0 with prio := 5 } }
    let s : State := { one g0 with cycle := 9000, grids := [(2, gr), (1, grid0)] }
    s.usable 16 = true ∧ (2, gr) ∈ s.grids ∧ s.needsRoom gr = true ∧ (∀ e ∈ s.grids, e.2.lrec.whole = false ∧
      (e.1 ≠ 2 → s.needsRoom e.2 = false)) ∧ (s.grids.map (fun e => e.1)).Nodup ∧ (s.teams.map (fun e => e.1)).Nodup ∧
    s.victims = [] ∧ (∀ e ∈ s.teams, e.2.saved = false ∧ e.2.preempt = none) ∧ s.lateOn gr 0 = false ∧
    ((dget s.grids team0.gridKey).map (fun g => g.lrec.prio)).getD 8 < gr.lrec.prio := by
  refine ⟨?_, ?_, ?_, ?_, ?_, ?_, ?_, ?_, ?_, ?_⟩ <;> decide +kernel
/-- GroupAndTeamLife: a saved team that an earlier grid outranks; a group that ends with a refusal not yet taken. -/
theorem witness_life_last : let hi : Grid := { grid0 with lrec := { lrec0 with prio := 7 }, waiting := true, order := 0 }
    let s : State := { one g0 with teams := [(0, { team0 with saved := true })], ctxs := [(0, { valid := true, raw := [(48, 16)] })]
                                   grids := [(2, hi), (1, grid0)] }
    let e : Group := { gone with refusals := [⟨1, 0x9000, 0, [(2, 5)]⟩], lastExit := some ⟨0, 0x10000, 3, 1, 0, 0⟩ }
    s.outranked 1 grid0 0 = true ∧ settledB s = true ∧ e.done = true ∧ e.refusals.length = 1 ∧
    e.lastExit = some ⟨0, 0x10000, 3, 1, 0, 0⟩ ∧ (one e).isSaved 0 = false ∧ e.supervisor = false := by
  refine ⟨?_, ?_, ?_, ?_, ?_, ?_, ?_⟩
  · unfold State.outranked
    rw [Bool.or_eq_true]
    exact .inr (by decide +kernel)
  all_goals decide +kernel
/-- HostMemorySteps: memory that the host is offered, by CXL.mem or a plain link, and is not; an address that may be served,
one held behind another of its line; a grant that the host holds unowned; a load whose one lane a failed request served. -/
theorem witness_host_more : let k : OpKind := .load .plain .group 4 7 false [acc0 (.phys (2 ^ 51))] [0]
    let j : CopyJob := { job0 true with req := { rec0 with src := 0x10000 } }
    let s : State := { one g0 with jobs := [(6, j)], tlb := [(0, ⟨0, { page0 with frame := 2 ^ 51 }⟩)], ctxs := [(0, { valid := true })] }
    (one g0).memOffered = true ∧ ({ one g0 with syscap := 5 } : State).memOffered = true ∧ ({ one g0 with syscap := 1 } : State).memOffered = false ∧
    (one g0).hostWaits 0x20000 = false ∧ ({ one g0 with backInv := [0x20000] } : State).hostWaits 0x20000 = true ∧
    (∃ h ∈ ({ one g0 with heldHost := [⟨0x20010, .read 1⟩] } : State).heldHost, h.offset / 64 = 0x20000 / 64) ∧
    (0x2003F + 1) % 64 = 0 ∧ (∀ e ∈ [(⟨0x20000, false⟩ : DirEntry)], e.line = 0x20000 → e.owned = false) ∧
    hitBy (2 ^ 51) 64 4 (.phys (2 ^ 51)) = true ∧ dget (withOp k).ops 5 = some (op k) ∧ s.pieceHost j = some (2 ^ 51) ∧
    j.pos < j.req.total ∧ (s.ctx 0).valid = true ∧ (s.ctx 0).terminate = none := by
  refine ⟨?_, ?_, ?_, ?_, ?_, ⟨⟨0x20010, .read 1⟩, ?_⟩, ?_, ?_, ?_, ?_, ?_, ?_, ?_, ?_⟩ <;> decide +kernel
/-- MailboxCommands: a command under way, with its length and another; HostRegisterSteps: the safe state. -/
theorem witness_mailbox_busy : let m : Mailbox := { status := 1, opc := 5, len := 3 }
    let s : State := { one g0 with mbox := m }
    s.mbox.status = 1 ∧ s.mbox.len.toNat ≠ 2 ∧ s.mbox.opc.toNat = 5 ∧ (one g0).mbox.status ≠ 1 ∧ s.ready.getLsbD 56 = false ∧
    ({ s with ready := 1#64 <<< 56 } : State).ready.getLsbD 56 = true := by
  refine ⟨?_, ?_, ?_, ?_, ?_, ?_⟩ <;> decide +kernel
/-- MeridianSteps: units that stay wanted over a disable and units that do not; operations that a halt loses; a unit that
gives up a frame that this device owns, and one that it does not. -/
theorem witness_meridian_loss : let s : State := { meridian with
      groups := [(0, { g0 with ops := [(5, { op .idle with mer := 2 }), (6, { op .idle with mer := 4 })] })] }
    let f := 2 ^ 38
    let own (o : List (Nat × Nat)) : State := { meridian with mer := { meridian.mer with owners := o } }
    dget ((s.group? 0).getD g0).ops 5 = some { op .idle with mer := 2 } ∧ (own [(f, 0)]).owns (f * 256) = true ∧
    (own []).owns (f * 256) = false ∧ ({ unit0 with typ := 0x07 } : Unit64).typ = 0x07 ∧
    ({ unit0 with typ := 1, body := BitVec.ofNat 416 (f * 256) } : Unit64).body.extractLsb' 8 44 = BitVec.ofNat 44 f := by
  refine ⟨?_, ?_, ?_, ?_, ?_⟩ <;> decide +kernel
/-- SequencedFlits: a channel with room for a flit, and one without; a request for an atomic, and one for a write.
UnsequencedFlits: a port on which an announcement alone may go. -/
theorem witness_port_slots : let x : Port := { port0 with slots := [(0, 16)], reqs := [{ req0 false with atom := some ⟨0, 5, 0, 8, 4, 0, 1, 2⟩ }] }
    let m : Port := { port0 with ann := some { mask := 0x0FFF, bound := 0, sentAt := 0 } }
    tget 0 x.owed 0 < tget 0 x.slots 0 ∧ tget 0 port0.slots 0 ≤ tget 0 port0.owed 0 ∧ (ported x).reqQueue = [] ∧
    (((ported x).findReq 0 (flit0 0)).map (fun y => y.2.atom.isSome)) = some true ∧ m.mute = true ∧ port0.mute = false ∧
    port0.again = false := by
  refine ⟨?_, ?_, ?_, ?_, ?_, ?_, ?_⟩ <;> decide +kernel
/-- PortEvents: a granted packet that goes within its time, and one that no longer does; a port that goes down with two
requests unacknowledged and another that leads to their node. -/
theorem witness_port_windows : let b : Bulk := { tag := 7, flits := [flit0 0, flit0 1], dropped := true, grant := some (100, 5000) }
    let x : Port := { port0 with credits := (List.range 8).map (fun i => (i, 16)), bulks := [b] }
    let l := b.flits.map (fun f => { f with drp := false })
    1000 * 1250 + l.length * 661 ≤ (100 + 5000) * 1000 ∧ (100 + 500) * 1000 < 1000 * 1250 + l.length * 661 ∧ x.open_ = true ∧
    x.ann = none ∧ x.mid = [] ∧ x.affords l = true := by
  refine ⟨?_, ?_, ?_, ?_, ?_, ?_⟩ <;> decide +kernel
theorem witness_port_down :
    let fl (k t : Nat) : Flit := mkFlit k 0 t false 0
    let p0 : Port := { port0 with lastRx := 100, replay := [fl 1 8, fl 3 8], pend := [[fl 1 7]],
                                  reqs := [{ req0 false with tag := 7 }, { req0 true with tag := 8, data := [(0, 5)] }] }
    let s : State := { one g0 with lit := 0xFFFF, cycle := 20000, ports := [(0, p0), (1, { port0 with lastRx := 19000, lossHold := true })] }
    let down := s.setPort 0 { p0 with up := false }
    p0.unacked.length = 2 ∧ (∀ r ∈ p0.unacked, down.portFor r.frame = some 1) ∧ (s.port 1).open_ = false ∧
    p0.lastRx + 8000 ≤ s.cycle ∧ (s.port 1).reqs.length + p0.unacked.length ≤ 1024 ∧ s.reqQueue = [] := by
  refine ⟨?_, ?_, ?_, ?_, ?_, ?_⟩ <;> decide +kernel
/-- ManagementSteps: a store not yet performed that carries an error; ReadyKeepsItsForm: a step in the safe state. -/
theorem witness_damage : let k : OpKind := .store .plain .group 4 [(acc0 (.phys 0x20000), [1])]
    (op k).mer = 0 ∧ (op k).kind.bytes.any (fun b => b.2.2) = true ∧ ((one (withOp k)).ctx 0).terminate = none ∧
    (step { State.reset with ready := 1#64 <<< 56, agenda := [.event .softErrorCorrected] } matches .next _) = true := by
  refine ⟨?_, ?_, ?_, ?_⟩ <;> decide +kernel

end Sys2Proof.Tests
end

section
/-!
PROOFS. The machine after reset: what each of its tables and its memory answers, and O59.
-/
namespace Sys2Proof.Machine

/-- With no posted write on its way (R392), a byte reads what memory lists for it. -/
theorem State.rd_of_hostPosted_nil {s : State} (h : s.hostPosted = []) (pa : Nat) : s.rd pa = tget 0 s.mem pa := by
  unfold State.rd
  split
  case isTrue => simp [h]
  case isFalse => rfl

@[simp] theorem reset_rd (pa : Nat) : State.reset.rd pa = 0 :=
  (State.rd_of_hostPosted_nil rfl pa).trans (tget_nil 0 pa)

@[simp] theorem reset_port (p : Nat) : State.reset.port p = {} := tget_nil _ p

@[simp] theorem reset_queue (q : Nat) : State.reset.queue q = {} := tget_nil _ q

@[simp] theorem reset_ctx (c : Nat) : State.reset.ctx c = {} := tget_nil _ c

/-- Settles O59: memory, ports, queues and contexts list nothing after reset, so that each read answers its table's
default; every other register is a field of `State.reset`. -/
theorem resetState : Obligations.ResetState := by
  unfold Obligations.ResetState
  have ports (p : Nat) : (State.reset.port p).mode = 0 ∧ (State.reset.port p).up = false ∧
      (State.reset.port p).node = 0 ∧ (State.reset.port p).authf = 0 := by simp
  have queues (q : Nat) : (State.reset.queue q).en = false ∧ (State.reset.queue q).head = 0 ∧
      (State.reset.queue q).tail = 0 ∧ (State.reset.queue q).drop = 0 := by simp
  have contexts (c : Nat) : (State.reset.ctx c).valid = false := by simp
  exact ⟨reset_wf, reset_rd, rfl, rfl, rfl, rfl, rfl, rfl, rfl, rfl, rfl, rfl, rfl, rfl, rfl, rfl, rfl, rfl, rfl, rfl, rfl,
    rfl, ports, queues, contexts⟩

end Sys2Proof.Machine
end

section
/-!
PROOFS. O13: a step that issues runs the meaning of the word that comes next, and a laid instruction comes next.
-/
namespace Sys2Proof.Machine

/-! ### The next word of a slot -/

theorem nextWord_eq_some {g : Group} {k : Nat} {r : Running} {w : Word64} {o : Option Instr}
    (h : g.nextWord k = some (r, w, o)) :
    (g.slot k).running = some r ∧ r.clause.words[r.idx]? = some w ∧
      o = (classOf (decodeHeader r.clause.header).cls).bind (fun c => decode c w) := by
  unfold Group.nextWord at h
  split at h
  · cases h
  next r' hr =>
    split at h
    · cases h
    next w' hw =>
      cases h
      exact ⟨hr, hw, rfl⟩

theorem readyAt_le_of_issueReady {s : State} {g : Group} {k : Nat} {r : Running} (h : s.issueReady g k = true)
    (hr : (g.slot k).running = some r) : r.readyAt ≤ s.cycle := by
  simp only [State.issueReady, hr, Bool.and_eq_true, decide_eq_true_eq] at h
  obtain ⟨⟨⟨⟨⟨⟨hready, -⟩, -⟩, -⟩, -⟩, -⟩, -⟩ := h
  exact hready

/-- What issues where `issueNext` answers (R55): slot k's clause has a word at its index, and its distance is over. -/
theorem issueNext_eq_some {s t : State} {gid k : Nat} {o : Option Instr} (h : s.issueNext gid k = some (t, o)) :
    ∃ g r w ports, s.group? gid = some g ∧ s.issueReady g k = true ∧ g.nextWord k = some (r, w, o) ∧
      t = { s with
        portAt := ports
        cur := { gid := gid, slot := k, addr := r.clause.addr + w64n (8 * (r.idx + 1)), word := w,
                 mask := (g.slot k).mask, idx := r.idx, header := r.clause.header, clauseAt := r.clause.addr } } := by
  unfold State.issueNext at h
  split at h
  · cases h
  next g hg =>
    split at h
    · cases h
    next hcond =>
      have hready : s.issueReady g k = true := by simp_all
      split at h
      · cases h
      next r w i hw =>
        simp only [Option.some.injEq, Prod.mk.injEq] at h
        obtain ⟨rfl, rfl⟩ := h
        split
        · exact ⟨g, r, w, _, hg, hready, hw, rfl⟩
        · exact ⟨g, r, w, s.portAt, hg, hready, hw, rfl⟩

/-! ### A step whose move is an issue -/

theorem nextMove_of_agenda {s : State} {m : Move} {rest : List Move} (h : s.agenda = m :: rest) :
    s.nextMove = ({ s with agenda := rest }, m) := by
  simp only [State.nextMove, h]

theorem step_issue {s t : State} {gid k : Nat} {rest : List Move} {i : Instr} (h : s.agenda = .issue gid k :: rest)
    (hi : State.issueNext { s with agenda := rest } gid k = some (t, some i)) : step s = exec i t := by
  simp only [step, nextMove_of_agenda h, State.move, hi]

theorem step_issue_undecodable {s t : State} {gid k : Nat} {rest : List Move} (h : s.agenda = .issue gid k :: rest)
    (hi : State.issueNext { s with agenda := rest } gid k = some (t, none)) : step s = .next t.illegal := by
  simp only [step, nextMove_of_agenda h, State.move, hi]

/-! ### An instruction laid before the machine (log 5, log 16) -/

theorem cls_of_asMX {w : Word64} {f : MXFields → Instr} {i : Instr} (hf : ∀ q, (f q).cls = some .matrix)
    (h : asMX w f = some i) : i.cls = some .matrix := by
  unfold asMX at h
  split at h
  · cases h
    exact hf _
  · cases h

theorem cls_of_decodeMatrix {w : Word64} {i : Instr} (h : decodeMatrix w = some i) : i.cls = some .matrix := by
  unfold decodeMatrix at h
  split at h
  case h_10 => cases h
  all_goals exact cls_of_asMX (fun _ => rfl) h

/-- The laid state as the step finds it that issues its instruction. -/
def State.laid (s : State) (header word : Word64) : State := { s.lay header word with agenda := [] }

theorem group?_laid (s : State) (header word : Word64) : (s.laid header word).group? 0 = some (groupOf s header word) := rfl

theorem issueReady_laid (s : State) (header word : Word64) :
    (s.laid header word).issueReady (groupOf s header word) 0 = true := by
  simp [State.issueReady, State.laid, State.lay, groupOf, Group.slot, State.ctx]

theorem portTakes_laid (s : State) (header word : Word64) :
    (s.laid header word).portTakes 0 (groupOf s header word) 0 = true := by
  -- the group is alone, and its slot 1 runs nothing
  have other (t : State) : t.issueReady (groupOf s header word) 1 = false := rfl
  unfold State.portTakes
  split
  · rfl
  · simp [State.laid, State.lay, other]

theorem nextWord_groupOf (s : State) (header word : Word64) : ∃ r, (groupOf s header word).nextWord 0 =
    some (r, word, (classOf (decodeHeader header).cls).bind (fun c => decode c word)) := ⟨_, rfl⟩

/-- A laid word is the next that slot 0 of group 0 issues. -/
theorem issueNext_laid (s : State) (header word : Word64) : ∃ t, (s.laid header word).issueNext 0 0 =
    some (t, (classOf (decodeHeader header).cls).bind (fun c => decode c word)) := by
  obtain ⟨r, hw⟩ := nextWord_groupOf s header word
  exact ⟨_, by simp [State.issueNext, group?_laid, issueReady_laid, portTakes_laid, hw]; rfl⟩

theorem agenda_lay {s : State} {header : Word64} (word : Word64) (h : classOf (decodeHeader header).cls ≠ some .matrix) :
    (s.lay header word).agenda = [.issue 0 0] := by
  simp [State.lay, h]

/-- The class of a word's clause, where the word stands for an instruction of another class than matrix. -/
theorem classOf_of_decodeTableWord {w : Nat} {i : Instr} {c : Sys2Proof.Class} (h : decodeTableWord 128 w = some i)
    (hi : i.cls = some c) (hc : c ≠ .matrix) :
    classOf (decodeHeader (BitVec.ofNat 64 (w % 2 ^ 128))).cls ≠ some .matrix ∧
    (classOf (decodeHeader (BitVec.ofNat 64 (w % 2 ^ 128))).cls).bind
      (fun c => decode c (BitVec.ofNat 64 (w % 2 ^ 128 / 2 ^ 64))) = some i := by
  unfold decodeTableWord at h
  simp only at h
  split at h
  · cases h
  next d hd =>
    refine ⟨?_, by rw [hd]; exact h⟩
    rw [hd]
    rintro ⟨⟩
    have hm := cls_of_decodeMatrix h
    exact hc (Option.some.inj (hi.symm.trans hm))

/-- Settles O13: `issueNext` says what a step issues, and the word laid before the machine is what it finds. -/
theorem stepRunsTheDecodedInstruction : Obligations.StepRunsTheDecodedInstruction := by
  refine ⟨fun s w i c hw hi hc => ?_, fun s gid k rest ha => ⟨fun t i h => step_issue ha h,
    fun t h => step_issue_undecodable ha h, fun t o h => ?_⟩⟩
  · obtain ⟨hclass, hdecode⟩ := classOf_of_decodeTableWord hw hi hc
    obtain ⟨t, ht⟩ := issueNext_laid s (BitVec.ofNat 64 (w % 2 ^ 128)) (BitVec.ofNat 64 (w % 2 ^ 128 / 2 ^ 64))
    rw [hdecode] at ht
    obtain ⟨g, r, w', ports, hg, -, hnext, rfl⟩ := issueNext_eq_some ht
    obtain ⟨hr, -, -⟩ := nextWord_eq_some hnext
    obtain rfl : groupOf s _ _ = g := Option.some.inj hg
    exact ⟨_, _, r, step_issue (agenda_lay _ hclass) ht, rfl, hr, rfl, rfl⟩
  · obtain ⟨g, r, w, ports, hg, hready, hnext, rfl⟩ := issueNext_eq_some h
    obtain ⟨hr, hword, ho⟩ := nextWord_eq_some hnext
    exact ⟨g, r, w, hg, hr, hword, readyAt_le_of_issueReady hready hr, ho, rfl⟩

end Sys2Proof.Machine
end

section
/-!
PROOFS. O23: what a resolved transfer does to the slots of a group (R115).
-/
namespace Sys2Proof.Machine

/-! ### The two slots of a group -/

@[simp] theorem Group.slot_setSlot_same (g : Group) (k : Nat) (x : Slot) : (g.setSlot k x).slot k = x := by
  unfold Group.slot Group.setSlot
  split <;> rfl

/-- A write to one slot keeps the other: of two slots that are not both slot 1. -/
theorem Group.slot_setSlot_other (g : Group) {k j : Nat} (x : Slot) (h : k = 0 ∧ j ≠ 0 ∨ k ≠ 0 ∧ j = 0) :
    (g.setSlot k x).slot j = g.slot j := by
  unfold Group.slot Group.setSlot
  obtain ⟨hk, hj⟩ | ⟨hk, hj⟩ := h <;> simp [hk, hj]

theorem Group.slot_one_sub_setSlot (g : Group) {k : Nat} (x : Slot) (h : k ≤ 1) :
    (g.setSlot k x).slot (1 - k) = g.slot (1 - k) := g.slot_setSlot_other x (by omega)

theorem Group.slot_setSlot_one_sub (g : Group) {k : Nat} (x : Slot) (h : k ≤ 1) :
    (g.setSlot (1 - k) x).slot k = g.slot k := g.slot_setSlot_other x (by omega)

/-! ### The parts of a split (R115) -/

/-- The entry that a split pushes for the join J of slot S. -/
def joinEntry (S : Slot) (J : Word64) : SpillEntry :=
  { pc := J, mask := S.mask, join := S.join, fmt := S.fmt, brxrest := false }

/-- What a split pushes for the join: nothing where J is the slot's own join. -/
def joinEntries (S : Slot) (J : Word64) : List SpillEntry := if J ≠ S.join then [joinEntry S J] else []

/-- What a split pushes of the other slot's content. -/
def otherEntries (O : Slot) : List SpillEntry := if O.mask ≠ 0 then [spillOf O] else []

/-- The half of slot S with lanes m at pc. -/
def halfOf (S : Slot) (m : Mask) (pc J : Word64) (rest : Bool) (stamp cycle : Nat) : Slot :=
  { emptySlot with pc := pc, mask := m, join := J, fmt := S.fmt, resting := rest, stamp := stamp, eligFrom := cycle + 1 }

/-- The same half with the clause that slot S has fetched for its PC. -/
def fetchedHalf (S : Slot) (m : Mask) (pc J : Word64) (rest : Bool) (cycle : Nat) : Slot :=
  { halfOf S m pc J rest S.stamp cycle with clause := S.clause.filter (fun c => c.addr == pc) }

theorem length_joinEntries (S : Slot) (J : Word64) : (joinEntries S J).length = if J ≠ S.join then 1 else 0 := by
  unfold joinEntries; split <;> rfl

theorem length_otherEntries (O : Slot) : (otherEntries O).length = if O.mask ≠ 0 then 1 else 0 := by
  unfold otherEntries; split <;> rfl

theorem boolBit_false : boolBit false = 0 := rfl

theorem boolBit_join (S : Slot) (J : Word64) : boolBit (J != S.join) = (joinEntries S J).length := by
  simp [length_joinEntries, boolBit]

theorem boolBit_live (O : Slot) : boolBit O.live = (otherEntries O).length := by
  simp [length_otherEntries, boolBit, Slot.live]

theorem joinEntries_eq (S : Slot) (J : Word64) :
    (if (J != S.join) = true then [({ pc := J, mask := S.mask, join := S.join, fmt := S.fmt, brxrest := false } : SpillEntry)]
     else []) = joinEntries S J := by
  simp [joinEntries, joinEntry]

theorem otherEntries_eq (O : Slot) : (if O.live = true then [spillOf O] else []) = otherEntries O := by
  simp [otherEntries, Slot.live]

section
variable {g : Group} {k : Nat} {T : Mask} {t f J : Word64} {rest : Bool} {cycle : Nat}

theorem diverge_of_none_taken (hT : T = 0) : g.diverge k T t f J rest cycle = .done (g.setPc k f) := by
  unfold Group.diverge
  exact if_pos hT

theorem diverge_of_all_taken (hT : T ≠ 0) (hN : (g.slot k).mask &&& ~~~T = 0) :
    g.diverge k T t f J rest cycle = .done (g.setPc k t) := by
  unfold Group.diverge
  exact (if_neg hT).trans (if_pos hN)

/-- A mixed transfer with neither half at the join. -/
theorem diverge_of_mixed (hT : T ≠ 0) (hN : (g.slot k).mask &&& ~~~T ≠ 0) (ht : t ≠ J) (hf : f ≠ J) :
    g.diverge k T t f J rest cycle =
      if 64 < g.spill.length + (joinEntries (g.slot k) J).length + (otherEntries (g.slot (1 - k))).length then .overflow
      else if (g.slot (1 - k)).mask ≠ 0 ∧ ((g.slot (1 - k)).running ≠ none ∨ (g.slot (1 - k)).replays ≠ []) then .wait
      else .done ((Group.setSlot { g with
          spill := otherEntries (g.slot (1 - k)) ++ joinEntries (g.slot k) J ++ g.spill, first := k } k
          (fetchedHalf (g.slot k) T t J false cycle)).setSlot (1 - k)
            (halfOf (g.slot k) ((g.slot k).mask &&& ~~~T) f J rest (g.slot (1 - k)).stamp cycle)) := by
  unfold Group.diverge
  refine (if_neg hT).trans ((if_neg hN).trans ?_)
  have halves : [(T, t, false), ((g.slot k).mask &&& ~~~T, f, rest)].filter (fun h => h.2.1 != J) =
      [(T, t, false), ((g.slot k).mask &&& ~~~T, f, rest)] := by simp [ht, hf]
  simp only [halves, List.length_cons, List.length_nil, Nat.reduceAdd, Nat.reduceBEq, Bool.true_and, boolBit_join, boolBit_live,
    joinEntries_eq, otherEntries_eq]
  congr 1
  simp only [Slot.live, bne_iff_ne, Bool.and_eq_true, Bool.or_eq_true, Option.isSome_iff_ne_none]
  congr 1

/-- A mixed transfer with a half at the join: that half is dropped. -/
theorem diverge_of_join (hT : T ≠ 0) (hN : (g.slot k).mask &&& ~~~T ≠ 0) (h : t = J ∨ f = J) :
    g.diverge k T t f J rest cycle =
      if 64 < g.spill.length + (joinEntries (g.slot k) J).length then .overflow
      else .done (Group.setSlot { g with spill := joinEntries (g.slot k) J ++ g.spill, first := k } k
        (if t ≠ J then fetchedHalf (g.slot k) T t J false cycle
         else if f ≠ J then fetchedHalf (g.slot k) ((g.slot k).mask &&& ~~~T) f J rest cycle
         else { emptySlot with stamp := (g.slot k).stamp })) := by
  unfold Group.diverge
  refine (if_neg hT).trans ((if_neg hN).trans ?_)
  have halves : [(T, t, false), ((g.slot k).mask &&& ~~~T, f, rest)].filter (fun h => h.2.1 != J) =
      if t ≠ J then [(T, t, false)] else if f ≠ J then [((g.slot k).mask &&& ~~~T, f, rest)] else [] := by
    obtain rfl | rfl := h <;> simp [List.filter_cons]
  simp only [halves]
  -- at most one half is left, so the other slot stays
  by_cases ht : t = J
  · by_cases hf : f = J <;>
      simp only [ht, hf, ne_eq, not_true_eq_false, not_false_eq_true, if_true, if_false, List.length_cons, List.length_nil,
        Nat.reduceAdd, Nat.reduceBEq, Bool.false_and, Bool.false_eq_true, boolBit_false, Nat.add_zero, List.nil_append,
        boolBit_join, joinEntries_eq] <;> rfl
  · simp only [ht, ne_eq, not_false_eq_true, if_true, List.length_cons, List.length_nil, Nat.reduceAdd, Nat.reduceBEq,
      Bool.false_and, Bool.false_eq_true, if_false, boolBit_false, Nat.add_zero, List.nil_append, boolBit_join, joinEntries_eq]
    rfl
end

/-- How many entries a split pushes, and where they lie on the stack. -/
theorem spill_of_split (O S : Slot) (J : Word64) (l : List SpillEntry) :
    let pushed := (if O.mask ≠ 0 then 1 else 0) + (if J ≠ S.join then 1 else 0)
    let spill := otherEntries O ++ joinEntries S J ++ l
    spill.length = l.length + pushed ∧ spill.drop pushed = l ∧
      (J ≠ S.join → (spill.drop (pushed - 1)).head? = some (joinEntry S J)) ∧
      (O.mask ≠ 0 → spill.head? = some (spillOf O)) := by
  by_cases hO : O.mask = 0 <;> by_cases hJ : J = S.join <;>
    simp only [otherEntries, joinEntries, hO, hJ, ne_eq, not_true_eq_false, not_false_eq_true, if_true, if_false, List.nil_append,
      List.cons_append, List.length_cons, List.drop_succ_cons, List.drop_zero, List.head?_cons, Nat.add_zero, Nat.zero_add,
      Nat.reduceAdd, Nat.reduceSub, false_implies, true_implies, and_self]

theorem diverge_waits {g : Group} {k : Nat} {T : Mask} {t f J : Word64} (rest : Bool) (cycle : Nat)
    (hbusy : (g.slot (1 - k)).running ≠ none ∨ (g.slot (1 - k)).replays ≠ []) (hO : (g.slot (1 - k)).mask ≠ 0)
    (hT : T ≠ 0) (hN : (g.slot k).mask &&& ~~~T ≠ 0) (ht : t ≠ J) (hf : f ≠ J)
    (hroom : g.spill.length + 1 + (if J ≠ (g.slot k).join then 1 else 0) ≤ 64) :
    g.diverge k T t f J rest cycle = .wait := by
  have hfits : ¬ 64 < g.spill.length + (joinEntries (g.slot k) J).length + (otherEntries (g.slot (1 - k))).length := by
    rw [length_joinEntries, length_otherEntries, if_pos hO]
    omega
  rw [diverge_of_mixed hT hN ht hf, if_neg hfits, if_pos ⟨hO, hbusy⟩]

/-- Settles O23: the equation of each kind of transfer, and where the pushed entries lie. -/
theorem divergenceSplitsTheSlot : Obligations.DivergenceSplitsTheSlot := by
  intro g k T t f J rest cycle hk S O N
  refine ⟨diverge_waits rest cycle, fun hrun hrep => ⟨diverge_of_none_taken, diverge_of_all_taken,
    ?_⟩, ?_⟩
  · intro hT hN ht hf pushed
    have hsum : g.spill.length + (joinEntries S J).length + (otherEntries O).length = g.spill.length + pushed := by
      simp only [length_joinEntries, length_otherEntries, pushed]
      omega
    obtain ⟨hlength, hdrop, hjoin, hother⟩ := spill_of_split O S J g.spill
    rw [diverge_of_mixed hT hN ht hf, hsum]
    have hfree : ¬ (O.mask ≠ 0 ∧ (O.running ≠ none ∨ O.replays ≠ [])) := fun h => h.2.elim (absurd hrun) (absurd hrep)
    refine ⟨fun hover => if_pos hover, fun hroom => ⟨_, (if_neg (by omega)).trans (if_neg hfree), ?_⟩⟩
    simp only [Group.slot_setSlot_same, Group.slot_setSlot_one_sub _ _ hk, Group.setSlot_spill, Group.setSlot_vregs,
        Group.setSlot_sregs]
    exact ⟨rfl, rfl, rfl, rfl, rfl, rfl, rfl, rfl, hlength, hdrop,
      fun hJ => ⟨_, hjoin hJ, rfl, rfl, rfl, rfl, rfl⟩, fun hO => ⟨_, hother hO, rfl, rfl, rfl, rfl, rfl⟩, trivial, trivial⟩
  · intro hT hN h pushed
    have hlength : (joinEntries S J).length = pushed := length_joinEntries S J
    rw [diverge_of_join hT hN h, hlength]
    refine ⟨fun hover => if_pos hover, fun hroom => ⟨_, if_neg (by omega), ?_⟩⟩
    simp only [Group.slot_setSlot_same, Group.slot_one_sub_setSlot _ _ hk, Group.setSlot_spill, Group.setSlot_vregs,
        Group.setSlot_sregs]
    refine ⟨rfl, by rw [List.length_append, hlength, Nat.add_comm], by rw [← hlength, List.drop_left], fun hJ => ?_,
      fun ht => ?_, fun hf => ?_, fun ht hf => ?_, trivial, trivial⟩
    · exact ⟨joinEntry S J, by rw [joinEntries, if_pos hJ]; rfl, rfl, rfl, rfl, rfl, rfl⟩
    · rw [if_pos ht]
      exact ⟨rfl, rfl, rfl, rfl, rfl⟩
    · rw [if_neg (not_not.mpr (h.resolve_right hf)), if_pos hf]
      exact ⟨rfl, rfl, rfl, rfl, rfl⟩
    · rw [if_neg (not_not.mpr ht), if_neg (not_not.mpr hf)]
      rfl

end Sys2Proof.Machine
end

section
/-!
PROOFS. What an access to memory leaves unchanged: everything but memory itself, the caches, the translations, the notes
that a step keeps of its accesses and the event records that a failed one writes.
-/
namespace Sys2Proof.Machine

/-- What a state holds beyond memory, the caches, the translations, the notes of an access and its event records. -/
def State.beyond (s : State) : State :=
  { s with absent := none, conflict := none, unready := false, askOwn := [], askRead := [], gotRead := [], wrote := []
           nodeData := [], mem := [], cache := [], marks := [], hostPosted := [], backTook := [], tlb := [], evpos := 0
           msix := [], msixPend := [] }

theorem foldl_beyond {α : Type} (f : State → α → State) (l : List α) (s : State)
    (h : ∀ s x, (f s x).beyond = s.beyond) : (l.foldl f s).beyond = s.beyond := by
  induction l generalizing s with
  | nil => rfl
  | cons x l ih => exact (ih _).trans (h _ _)

section
variable (s : State)

@[simp] theorem nodeRead_beyond (pa : Nat) : (s.nodeRead pa).beyond = s.beyond := by
  unfold State.nodeRead
  dsimp only
  split <;> rfl

@[simp] theorem touch_beyond (pa : Nat) (w : Bool) : (s.touch pa w).beyond = s.beyond := by
  unfold State.touch
  repeat' split
  case isTrue.isFalse => exact nodeRead_beyond s pa
  all_goals rfl

@[simp] theorem nodeWrite_beyond (pa ch : Nat) (b : Byte) : (s.nodeWrite pa ch b).beyond = s.beyond := by
  unfold State.nodeWrite
  split <;> rfl

@[simp] theorem needOwn_beyond (pa : Nat) : (s.needOwn pa).beyond = s.beyond := by
  unfold State.needOwn
  split <;> rfl

@[simp] theorem wr_beyond (pa : Nat) (b : Byte) : (s.wr pa b).beyond = s.beyond := by
  unfold State.wr
  split
  · exact nodeWrite_beyond s pa 4 b
  · split
    · rfl
    · exact touch_beyond s pa true

@[simp] theorem flushPosted_beyond : s.flushPosted.beyond = s.beyond := rfl

theorem setCache_beyond (c : Dict CByte) : State.beyond { s with cache := c } = s.beyond := rfl

@[simp] theorem cput_beyond (site pa : Nat) (c : CByte) : (s.cput site pa c).beyond = s.beyond := rfl

@[simp] theorem cdel_beyond (site pa : Nat) : (s.cdel site pa).beyond = s.beyond := rfl

@[simp] theorem l2FlushByte_beyond (pa die : Nat) : (s.l2FlushByte pa die).beyond = s.beyond := by
  unfold State.l2FlushByte
  split
  · rfl
  · rw [cdel_beyond]
    split
    · rw [wr_beyond]
      split
      · exact needOwn_beyond s pa
      · rfl
    · rfl

@[simp] theorem l2Flush_beyond (pa die : Nat) : (s.l2Flush pa die).beyond = s.beyond :=
  foldl_beyond _ _ _ fun s p => l2FlushByte_beyond s p die

@[simp] theorem l2MoveByte_beyond (pa d e : Nat) : (s.l2MoveByte pa d e).beyond = s.beyond := by
  unfold State.l2MoveByte
  split <;> rfl

@[simp] theorem l2Alone_beyond (d pa : Nat) : (s.l2Alone d pa).beyond = s.beyond :=
  foldl_beyond _ _ _ fun _ e => foldl_beyond _ _ _ fun s p => l2MoveByte_beyond s p d e

@[simp] theorem devRead_beyond (die pa : Nat) : (s.devRead die pa).1.beyond = s.beyond := by
  unfold State.devRead
  split
  · dsimp only
    split
    · exact l2Alone_beyond s die pa
    · rw [cput_beyond, touch_beyond, l2Alone_beyond]
  · exact touch_beyond s pa false

@[simp] theorem devWrite_beyond (die pa : Nat) (b : Byte) : (s.devWrite die pa b).beyond = s.beyond := by
  unfold State.devWrite
  split
  · rw [cput_beyond, l2Alone_beyond]
  · exact wr_beyond s pa b

@[simp] theorem l1CleanByte_beyond (core pa : Nat) : (s.l1CleanByte core pa).beyond = s.beyond := by
  unfold State.l1CleanByte
  split
  · split
    · rw [cput_beyond, devWrite_beyond]
    · rfl
  · rfl

@[simp] theorem l1WriteBack_beyond (core : Nat) : (s.l1WriteBack core).beyond = s.beyond :=
  foldl_beyond _ _ _ fun s pa => l1CleanByte_beyond s core pa

@[simp] theorem l1Invalidate_beyond (core : Nat) : (s.l1Invalidate core).beyond = s.beyond := rfl

@[simp] theorem fenceRel_beyond (core : Nat) (scope : Scope) : (s.fenceRel core scope).beyond = s.beyond := by
  have flush (s : State) : ([0, 1, 2, 3].foldl (fun s d => (s.sitePas (l2Site d) (fun c => c.dirty)).foldl (fun s pa =>
      if isPooled pa || scope == .system then s.l2Flush pa d else s) s) s).beyond = s.beyond :=
    foldl_beyond _ _ _ fun s d => foldl_beyond _ _ _ fun s pa => by
      split
      · exact l2Flush_beyond s pa d
      · rfl
  cases scope
  case group => rfl
  case team | die | device => exact l1WriteBack_beyond s core
  case constellation => exact (flush _).trans (l1WriteBack_beyond s core)
  case system => exact (flushPosted_beyond _).trans ((flush _).trans (l1WriteBack_beyond s core))

@[simp] theorem fenceAcq_beyond (core : Nat) (scope : Scope) : (s.fenceAcq core scope).beyond = s.beyond := by
  cases scope
  case group => rfl
  case team | die | device => exact (l1Invalidate_beyond _ core).trans (l1WriteBack_beyond s core)
  case constellation | system => exact (setCache_beyond _ _).trans ((l1Invalidate_beyond _ core).trans (l1WriteBack_beyond s core))

/-! ### Accesses at a level -/

@[simp] theorem l2None_beyond (pa : Nat) : (s.l2None pa).beyond = s.beyond :=
  foldl_beyond _ _ _ fun s e => l2Flush_beyond s pa e

@[simp] theorem l2Pass_beyond (pa : Nat) : (s.l2Pass pa).beyond = s.beyond :=
  foldl_beyond _ _ _ fun s e => by
    split
    · rfl
    · repeat' split
      · exact l2Flush_beyond s pa e
      · rfl
      · rfl

@[simp] theorem l2Leave_beyond (level pa : Nat) : (s.l2Leave level pa).beyond = s.beyond := by
  unfold State.l2Leave
  split
  · exact l2Pass_beyond s pa
  · exact l2None_beyond s pa

@[simp] theorem homeWrite_beyond (level pa : Nat) (b : Byte) : (s.homeWrite level pa b).beyond = s.beyond := by
  unfold State.homeWrite
  split
  · split
    · rfl
    · exact nodeWrite_beyond s pa 5 b
  · exact wr_beyond s pa b

@[simp] theorem l1Clean_beyond (core pa : Nat) : (s.l1Clean core pa).beyond = s.beyond :=
  foldl_beyond _ _ _ fun s p => l1CleanByte_beyond s core p

@[simp] theorem writePhys_beyond (core level pa : Nat) (b : Byte) : (s.writePhys core level pa b).beyond = s.beyond := by
  have body (s : State) : (if s.atL2 level pa || isDevice pa then s.devWrite (dieOf core) pa b
      else (s.l2Leave level pa).homeWrite level pa b).beyond = s.beyond := by
    split
    · exact devWrite_beyond s (dieOf core) pa b
    · rw [homeWrite_beyond, l2Leave_beyond]
  unfold State.writePhys
  split
  · split
    · exact wr_beyond s pa b
    · rfl
  · split
    · rfl
    · dsimp only
      split
      · exact (cput_beyond ..).trans ((body _).trans (cdel_beyond ..))
      · exact (body _).trans (cdel_beyond ..)

@[simp] theorem readPhys_beyond (core level pa : Nat) : (s.readPhys core level pa).1.beyond = s.beyond := by
  have cleaned (s : State) : ((s.l1Clean core pa).cdel core pa).beyond = s.beyond :=
    (cdel_beyond ..).trans (l1Clean_beyond s core pa)
  unfold State.readPhys
  split
  · rfl
  · split
    · split
      · rfl
      · exact (cput_beyond ..).trans (devRead_beyond s (dieOf core) pa)
    · dsimp only
      split
      · exact (devRead_beyond ..).trans (cleaned s)
      · split
        · exact (l2Pass_beyond ..).trans (cleaned s)
        · exact (touch_beyond ..).trans ((l2None_beyond ..).trans (cleaned s))

theorem readBytes_phys_beyond (core level n : Nat) : ∀ (s : State) (pa : Nat),
    (s.readBytes core level n (.phys pa)).1.beyond = s.beyond := by
  induction n with
  | zero => intro s pa; rfl
  | succ n ih => intro s pa; exact (ih _ _).trans (readPhys_beyond s core level pa)

@[simp] theorem readLoc_phys_beyond (core level n pa : Nat) : (s.readLoc core level n (.phys pa)).1.beyond = s.beyond := by
  have fresh : (s.freshenLoc core level n (.phys pa)).beyond = s.beyond := by
    unfold State.freshenLoc
    dsimp only
    split
    · unfold State.freshen
      split <;> rfl
    · rfl
  exact (readBytes_phys_beyond core level n _ pa).trans fresh

/-! ### Translation -/

theorem devBytes_beyond (die n : Nat) : ∀ (s : State) (pa : Nat), (s.devBytes die n pa).1.beyond = s.beyond := by
  induction n with
  | zero => intro s pa; rfl
  | succ n ih => intro s pa; exact (ih _ _).trans (devRead_beyond s die pa)

theorem devPut_beyond (die : Nat) (l : List Byte) : ∀ (s : State) (pa : Nat), (s.devPut die l pa).beyond = s.beyond := by
  induction l with
  | nil => intro s pa; rfl
  | cons b l ih => intro s pa; exact (ih _ _).trans (devWrite_beyond s die pa b)

theorem walkFrom_beyond (die va fuel : Nat) : ∀ (s : State) (level table : Nat),
    (s.walkFrom die va fuel level table).1.beyond = s.beyond := by
  induction fuel with
  | zero => intro s level table; rfl
  | succ n ih =>
    intro s level table
    have read (pa : Nat) := devBytes_beyond die 8 s pa
    unfold State.walkFrom
    dsimp only
    split
    · dsimp only
      exact read _
    · rw [ih, read]

@[simp] theorem tlbAdd_beyond (site cap c : Nat) (l : Leaf) : (s.tlbAdd site cap c l).beyond = s.beyond := rfl

@[simp] theorem lookup_beyond (core c va : Nat) : (s.lookup core c va).1.beyond = s.beyond := by
  have walk : (s.walk (dieOf core) c va).1.beyond = s.beyond := walkFrom_beyond ..
  unfold State.lookup
  dsimp only
  split
  · rfl
  · split
    · rfl
    · split
      · exact (tlbAdd_beyond ..).trans ((tlbAdd_beyond ..).trans walk)
      · exact walk

/-! ### Records and the memory of a context -/

theorem homePut_beyond (l : List Byte) : ∀ (s : State) (pa : Nat), (s.homePut l pa).beyond = s.beyond := by
  induction l with
  | nil => intro s pa; rfl
  | cons b l ih => intro s pa; exact (ih _ _).trans ((wr_beyond ..).trans (l2None_beyond s pa))

@[simp] theorem signal_beyond (v : Nat) : (s.signal v).beyond = s.beyond := by
  unfold State.signal
  split <;> rfl

theorem setEvpos_beyond (n : BitVec 48) : State.beyond { s with evpos := n } = s.beyond := rfl

@[simp] theorem event_beyond (typ unit index old new : Nat) (place detail : Word64) :
    (s.event typ unit index old new place detail).beyond = s.beyond := by
  rw [State.event, signal_beyond, setEvpos_beyond, homePut_beyond]

theorem vplaces_beyond (c : Nat) (write : Bool) (n : Nat) : ∀ (s : State) (va : Word64),
    (s.vplaces c write n va).1.beyond = s.beyond := by
  induction n with
  | zero => intro s va; rfl
  | succ n ih =>
    intro s va
    have look := lookup_beyond s 0 c va.toNat
    unfold State.vplaces
    dsimp only
    split
    · rfl
    · split
      · exact look
      · split
        · exact look
        · exact (ih _ _).trans look

@[simp] theorem vread_beyond (c n : Nat) (va : Word64) : (s.vread c n va).1.beyond = s.beyond := by
  have places := vplaces_beyond c false n s va
  have reads (l : List Nat) : ∀ acc : State × List Byte, (l.foldl (fun (acc : State × List Byte) pa =>
      let x := acc.1.devRead 0 pa; (x.1, acc.2 ++ [x.2])) acc).1.beyond = acc.1.beyond := by
    induction l with
    | nil => intro acc; rfl
    | cons pa l ih => intro acc; exact (ih _).trans (devRead_beyond acc.1 0 pa)
  unfold State.vread
  dsimp only
  split
  · exact places
  · exact (reads _ _).trans places

@[simp] theorem vwrite_beyond (c : Nat) (b : List Byte) (va : Word64) : (s.vwrite c b va).1.beyond = s.beyond := by
  have places := vplaces_beyond c true b.length s va
  unfold State.vwrite
  dsimp only
  split
  · exact places
  · exact (foldl_beyond _ _ _ fun s x => devWrite_beyond s 0 (Prod.fst x) (Prod.snd x)).trans places

@[simp] theorem bitmapWrite_beyond (c : Nat) (b : List Byte) (va grid : Word64) :
    (s.bitmapWrite c b va grid).beyond = s.beyond := by
  unfold State.bitmapWrite
  dsimp only
  split
  · exact vwrite_beyond s c b va
  · exact (event_beyond ..).trans (vwrite_beyond s c b va)

end

/-! ### The tables that a memory access keeps -/

section
variable {s t : State} (h : t.beyond = s.beyond)
include h

theorem groups_of_beyond : t.groups = s.groups :=
  show t.beyond.groups = s.beyond.groups from congrArg State.groups h
theorem group?_of_beyond (gid : Nat) : t.group? gid = s.group? gid :=
  show t.beyond.group? gid = s.beyond.group? gid from congrArg (fun x : State => x.group? gid) h
theorem teams_of_beyond : t.teams = s.teams :=
  show t.beyond.teams = s.beyond.teams from congrArg State.teams h
theorem bars_of_beyond : t.bars = s.bars :=
  show t.beyond.bars = s.beyond.bars from congrArg State.bars h
theorem cycle_of_beyond : t.cycle = s.cycle :=
  show t.beyond.cycle = s.beyond.cycle from congrArg State.cycle h
theorem grids_of_beyond : t.grids = s.grids :=
  show t.beyond.grids = s.beyond.grids from congrArg State.grids h
theorem queues_of_beyond : t.queues = s.queues :=
  show t.beyond.queues = s.beyond.queues from congrArg State.queues h
theorem ctxs_of_beyond : t.ctxs = s.ctxs :=
  show t.beyond.ctxs = s.beyond.ctxs from congrArg State.ctxs h

end

/-! ### The notes of an access -/

/-- What a state notes of its accesses, and what a fence would find: all that `State.bare` speaks of. -/
def State.access (s : State) : Option Nat × Bool × Option Nat × List Nat × Tab Word64 × List (Nat × Nat × Nat × Byte) ×
    Tab Word64 × List Nat × Option (Nat × Word64) × Dict CByte × List (Nat × Byte) :=
  (s.absent, s.unready, s.conflict, s.askOwn, s.askRead, s.wrote, s.gotRead, s.backTook, s.writer, s.cache, s.hostPosted)

theorem bare_iff_access (s : State) :
    s.bare ↔ s.access = (none, false, none, [], [], [], [], [], none, [], []) := by
  simp only [State.bare, State.calm, State.settled, State.access, Prod.mk.injEq]
  tauto

theorem bare_of_access {s t : State} (h : t.access = s.access) (hs : s.bare) : t.bare :=
  (bare_iff_access t).mpr (h.trans ((bare_iff_access s).mp hs))

theorem settled_of_bare {s : State} (h : s.bare) : s.settled := h.1.1

theorem cache_of_bare {s : State} (h : s.bare) : s.cache = [] := h.2.1

/-- A step that leaves a bare state bare keeps it so along a list. -/
theorem foldl_bare {α : Type} (f : State → α → State) (l : List α) {s : State} (hs : s.bare)
    (h : ∀ s x, s.bare → (f s x).bare) : (l.foldl f s).bare := by
  induction l generalizing s with
  | nil => exact hs
  | cons x l ih => exact ih (h s x hs)

/-! ### A table whose entries are changed one by one -/

theorem dget_map {α β : Type} {f : Nat × α → Nat × β} (hf : ∀ e, (f e).1 = e.1) (t : Dict α) (k : Nat) :
    dget (t.map f) k = (dget t k).map (fun v => (f (k, v)).2) := by
  induction t with
  | nil => rfl
  | cons e t ih =>
    obtain ⟨j, v⟩ := e
    have hstep : dget (f (j, v) :: t.map f) k = if j = k then some (f (j, v)).2 else dget (t.map f) k := by
      show (if (f (j, v)).1 = k then _ else _) = _
      rw [hf (j, v)]
    rw [List.map_cons, hstep, ih, dget]
    split
    · simp_all
    · rfl

theorem dget_map_none {α β : Type} {f : Nat × α → Nat × β} {t : Dict α} {k : Nat} (h : dget t k = none)
    (hf : ∀ e, (f e).1 = e.1) : dget (t.map f) k = none := by
  rw [dget_map hf, h, Option.map_none]

theorem dget_map_some {α β : Type} {f : Nat × α → Nat × β} {t : Dict α} {k : Nat} {v : α} (h : dget t k = some v)
    (hf : ∀ e, (f e).1 = e.1) : dget (t.map f) k = some (f (k, v)).2 := by
  rw [dget_map hf, h, Option.map_some]

/-- What p sees of the entries, where the change of them keeps it. -/
theorem map_dget_map {α β γ : Type} {f : Nat × α → Nat × β} {p : α → γ} {q : β → γ} (hp : ∀ e, q (f e).2 = p e.2)
    (hf : ∀ e, (f e).1 = e.1) (t : Dict α) (k : Nat) : (dget (t.map f) k).map q = (dget t k).map p := by
  rw [dget_map hf, Option.map_map]
  exact Option.map_congr fun v _ => hp (k, v)

theorem mem_of_dget {α : Type} {t : Dict α} {k : Nat} {v : α} (h : dget t k = some v) : (k, v) ∈ t := by
  induction t with
  | nil => cases h
  | cons e t ih =>
    obtain ⟨j, w⟩ := e
    simp only [dget] at h
    split at h
    · simp_all
    · exact List.mem_cons_of_mem _ (ih h)

end Sys2Proof.Machine
end

section
/-!
PROOFS. O34: named barriers and team barriers in time (R249 to R252).
-/
namespace Sys2Proof.Machine

/-! ### A named barrier between two cycles (R250) -/

/-- The phase changes of a barrier up to the cycle `now`. -/
def Bar.changes (b : Bar) (now : Nat) : Nat := if b.exp = 0 then 0 else min (now - b.last) (b.cnt / b.exp)

theorem settle_changes (b : Bar) (now : Nat) : (b.settle now).2 = b.changes now := rfl
theorem settle_exp (b : Bar) (now : Nat) : (b.settle now).1.exp = b.exp := rfl
theorem settle_cnt (b : Bar) (now : Nat) : (b.settle now).1.cnt = b.cnt - b.changes now * b.exp := rfl
theorem settle_ph (b : Bar) (now : Nat) :
    (b.settle now).1.ph = if b.changes now % 2 = 1 then !b.ph else b.ph := rfl

theorem changes_last (b : Bar) : b.changes b.last = 0 := by
  simp [Bar.changes]

/-- One more cycle brings one more change where the count still reaches the expected number, else none. -/
theorem changes_succ {b : Bar} {now : Nat} (h : b.last ≤ now) :
    b.changes (now + 1) =
      b.changes now + if b.exp ≠ 0 ∧ b.exp ≤ b.cnt - b.changes now * b.exp then 1 else 0 := by
  unfold Bar.changes
  by_cases he : b.exp = 0
  · simp [he]
  · have hpos : 0 < b.exp := Nat.pos_of_ne_zero he
    rw [if_neg he, if_neg he, Nat.succ_sub h]
    by_cases hlt : now - b.last < b.cnt / b.exp
    · -- arrivals for at least one more phase
      have hroom : (now - b.last + 1) * b.exp ≤ b.cnt := (Nat.le_div_iff_mul_le hpos).mp hlt
      rw [Nat.succ_mul] at hroom
      rw [min_eq_left hlt, min_eq_left hlt.le, if_pos ⟨he, by omega⟩]
    · have hless : b.cnt < b.cnt / b.exp * b.exp + b.exp := by
        have hdiv := Nat.div_add_mod b.cnt b.exp
        have hmod := Nat.mod_lt b.cnt hpos
        rw [Nat.mul_comm] at hdiv
        omega
      rw [min_eq_right (by omega), min_eq_right (by omega), if_neg (by omega), Nat.add_zero]

theorem bar_changes_at_most_once_a_cycle (b : Bar) (now : Nat) (h : b.last ≤ now) :
    let c := (b.settle now).1
    let d := (b.settle (now + 1)).1
    (now = b.last → c.ph = b.ph ∧ c.cnt = b.cnt ∧ c.exp = b.exp) ∧ d.exp = c.exp ∧
    (if c.exp ≠ 0 ∧ c.exp ≤ c.cnt then d.ph = !c.ph ∧ d.cnt = c.cnt - c.exp else d.ph = c.ph ∧ d.cnt = c.cnt) := by
  refine ⟨fun hnow => ?_, rfl, ?_⟩
  · simp [settle_ph, settle_cnt, settle_exp, hnow, changes_last]
  · simp only [settle_ph, settle_cnt, settle_exp, changes_succ h]
    split
    · refine ⟨?_, by rw [Nat.succ_mul]; omega⟩
      obtain hp | hp := Nat.mod_two_eq_zero_or_one (b.changes now)
      · rw [if_pos (by omega), if_neg (by omega)]
      · rw [if_neg (by omega), if_pos hp, Bool.not_not]
    · exact ⟨rfl, rfl⟩

/-! ### The operations of a group as waits complete -/

/-- Operation n of group gid is no longer there. -/
def State.opGone (s : State) (gid n : Nat) : Prop := ∃ g, s.group? gid = some g ∧ dget g.ops n = none

theorem dget_completeOp_same (g : Group) (n : Nat) : dget (g.completeOp n).ops n = none := by
  unfold Group.completeOp
  split
  case h_1 h => exact h
  case h_2 =>
    dsimp only
    split <;> exact dget_ddel_same _ n

theorem dget_completeOp_of_none {g : Group} {m : Nat} (n : Nat) (h : dget g.ops m = none) :
    dget (g.completeOp n).ops m = none := by
  by_cases hmn : m = n
  · rw [hmn]
    exact dget_completeOp_same g n
  · unfold Group.completeOp
    split
    · exact h
    · dsimp only
      split <;> exact (dget_ddel_other _ hmn).trans h

theorem dget_takeClock (g : Group) (clock : BitVec 48) (m : Nat) (h : dget g.ops m = none) :
    dget (g.takeClock clock).ops m = none := by
  unfold Group.takeClock
  split
  · exact dget_map_none h fun _ => rfl
  · exact h

theorem group?_modGroup_same {s : State} {gid : Nat} {g : Group} (h : s.group? gid = some g) (f : Group → Group) :
    (s.modGroup gid f).group? gid = some (f g) := by
  unfold State.group? at h
  simp only [State.modGroup, h]
  exact dget_dput_same _ _ _

theorem group?_modGroup_other (s : State) {gid other : Nat} (h : other ≠ gid) (f : Group → Group) :
    (s.modGroup gid f).group? other = s.group? other := by
  unfold State.modGroup
  split
  · rfl
  · exact dget_dput_other _ _ h

/-- A wait that completes: what becomes of its group, and that it changes groups and memory alone. -/
theorem group?_completeWait_same {s : State} {gid : Nat} {g : Group} (h : s.group? gid = some g) (n : Nat) (scope : Scope)
    (clock : BitVec 48) :
    (s.completeWait gid n scope clock).group? gid = some ((g.completeOp n).takeClock clock) := by
  have hfence : (s.fenceAcq g.core scope).group? gid = some g := (group?_of_beyond (fenceAcq_beyond ..) gid).trans h
  unfold State.completeWait
  simp only [h]
  exact group?_modGroup_same (group?_modGroup_same hfence _) _

theorem group?_completeWait_other (s : State) {gid other : Nat} (hne : other ≠ gid) (n : Nat) (scope : Scope)
    (clock : BitVec 48) : (s.completeWait gid n scope clock).group? other = s.group? other := by
  unfold State.completeWait
  split
  · rfl
  · rw [group?_modGroup_other _ hne, State.completeOp, group?_modGroup_other _ hne, group?_of_beyond (fenceAcq_beyond ..)]

/-- What a state holds beyond memory and groups. -/
def State.beyondGroups (s : State) : State := { s.beyond with groups := [] }

theorem beyondGroups_of_beyond {s t : State} (h : t.beyond = s.beyond) : t.beyondGroups = s.beyondGroups :=
  congrArg (fun x : State => { x with groups := [] }) h

theorem modGroup_beyondGroups (s : State) (gid : Nat) (f : Group → Group) : (s.modGroup gid f).beyondGroups = s.beyondGroups := by
  unfold State.modGroup
  split <;> rfl

theorem completeWait_beyondGroups (s : State) (gid n : Nat) (scope : Scope) (clock : BitVec 48) :
    (s.completeWait gid n scope clock).beyondGroups = s.beyondGroups := by
  unfold State.completeWait
  split
  · rfl
  · exact (modGroup_beyondGroups _ _ _).trans ((modGroup_beyondGroups _ _ _).trans
      (beyondGroups_of_beyond (fenceAcq_beyond ..)))

/-- Where no cache holds a byte, a wait that completes changes groups alone. -/
theorem completeWait_of_empty {s : State} (h : s.cache = []) (gid n : Nat) (scope : Scope) (clock : BitVec 48) :
    s.completeWait gid n scope clock = { s with groups := (s.completeWait gid n scope clock).groups } := by
  have modGroup_eq (s : State) (gid : Nat) (f : Group → Group) :
      s.modGroup gid f = { s with groups := (s.modGroup gid f).groups } := by
    unfold State.modGroup
    split <;> rfl
  unfold State.completeWait
  split
  · rfl
  · rw [fenceAcq_of_empty h, modGroup_eq, State.completeOp, modGroup_eq]

theorem exists_completeWait {s : State} {gid : Nat} (h : ∃ g, s.group? gid = some g) (other n : Nat) (scope : Scope)
    (clock : BitVec 48) : ∃ g, (s.completeWait other n scope clock).group? gid = some g := by
  obtain ⟨g, hg⟩ := h
  by_cases hne : gid = other
  · subst hne
    exact ⟨_, group?_completeWait_same hg n scope clock⟩
  · exact ⟨g, (group?_completeWait_other s hne n scope clock).trans hg⟩

theorem opGone_completeWait_same {s : State} {gid : Nat} (h : ∃ g, s.group? gid = some g) (n : Nat) (scope : Scope)
    (clock : BitVec 48) : (s.completeWait gid n scope clock).opGone gid n := by
  obtain ⟨g, hg⟩ := h
  exact ⟨_, group?_completeWait_same hg n scope clock, dget_takeClock _ _ _ (dget_completeOp_same g n)⟩

theorem opGone_completeWait {s : State} {gid m : Nat} (h : s.opGone gid m) (other n : Nat) (scope : Scope)
    (clock : BitVec 48) : (s.completeWait other n scope clock).opGone gid m := by
  obtain ⟨g, hg, hm⟩ := h
  by_cases hne : gid = other
  · subst hne
    exact ⟨_, group?_completeWait_same hg n scope clock, dget_takeClock _ _ _ (dget_completeOp_of_none n hm)⟩
  · exact ⟨g, (group?_completeWait_other s hne n scope clock).trans hg, hm⟩

section
variable (scope : Scope) (clock : BitVec 48)

/-- The waits of a list complete, one after another. -/
def State.completeAll (s : State) (l : List (Nat × Nat)) : State :=
  l.foldl (fun s x => s.completeWait x.1 x.2 scope clock) s

theorem completeAll_beyondGroups (l : List (Nat × Nat)) (s : State) :
    (s.completeAll scope clock l).beyondGroups = s.beyondGroups := by
  induction l generalizing s with
  | nil => rfl
  | cons x l ih => exact (ih _).trans (completeWait_beyondGroups s x.1 x.2 scope clock)

theorem completeAll_of_empty (l : List (Nat × Nat)) {s : State} (h : s.cache = []) :
    s.completeAll scope clock l = { s with groups := (s.completeAll scope clock l).groups } := by
  induction l generalizing s with
  | nil => rfl
  | cons x l ih =>
    have hx := completeWait_of_empty h x.1 x.2 scope clock
    have hl := ih (s := s.completeWait x.1 x.2 scope clock) (by rw [hx]; exact h)
    change (s.completeWait x.1 x.2 scope clock).completeAll scope clock l =
      { s with groups := ((s.completeWait x.1 x.2 scope clock).completeAll scope clock l).groups }
    rw [hl, hx]

theorem exists_completeAll (l : List (Nat × Nat)) {s : State} {gid : Nat} (h : ∃ g, s.group? gid = some g) :
    ∃ g, (s.completeAll scope clock l).group? gid = some g := by
  induction l generalizing s with
  | nil => exact h
  | cons x l ih => exact ih (exists_completeWait h x.1 x.2 scope clock)

theorem opGone_completeAll (l : List (Nat × Nat)) {s : State} {gid n : Nat} (h : s.opGone gid n) :
    (s.completeAll scope clock l).opGone gid n := by
  induction l generalizing s with
  | nil => exact h
  | cons x l ih => exact ih (opGone_completeWait h x.1 x.2 scope clock)

theorem opGone_completeAll_of_mem {l : List (Nat × Nat)} {s : State} {gid n : Nat} (hg : ∃ g, s.group? gid = some g)
    (h : (gid, n) ∈ l) : (s.completeAll scope clock l).opGone gid n := by
  induction l generalizing s with
  | nil => cases h
  | cons x l ih =>
    rcases List.mem_cons.mp h with rfl | h
    · exact opGone_completeAll scope clock l (opGone_completeWait_same hg n scope clock)
    · exact ih (exists_completeWait hg x.1 x.2 scope clock) h

/-- Every operation that `p` accepts completes. -/
theorem opGone_completeWhere {s : State} {p : Nat → Group → Op → Bool} {gid n : Nat} {g : Group} {o : Op}
    (hg : s.group? gid = some g) (ho : dget g.ops n = some o) (hp : p gid g o = true) :
    (s.completeWhere p scope clock).opGone gid n := by
  refine opGone_completeAll_of_mem scope clock ⟨g, hg⟩ (List.mem_flatMap.mpr ⟨(gid, g), mem_of_dget hg, ?_⟩)
  exact List.mem_map.mpr ⟨(n, o), List.mem_filter.mpr ⟨mem_of_dget ho, hp⟩, rfl⟩

end

/-! ### Settling a named barrier (R250, steps 3 and 4) -/

/-- The waits that settling a barrier completes. -/
def State.barDone (s : State) (now core bar : Nat) (_ : Nat) (g : Group) (o : Op) : Bool :=
  let b := s.bar core bar
  !s.isSaved g.team && match o.kind with
  | .barw c n tok => c == core && n == bar && b.passed now (b.changes now) tok
  | .barx c n ph => c == core && n == bar && ((ph == b.ph && decide (1 ≤ b.changes now)) || decide (2 ≤ b.changes now))
  | _ => false

/-- The state in which a barrier is settled and its groups' waits are complete. -/
def State.barWaits (s : State) (now core bar : Nat) : State :=
  let b := ((s.bar core bar).settle now).1
  (s.setBar core bar b).completeWhere (s.barDone now core bar) .team b.endClock

theorem barSettleTo_eq (s : State) (now core bar : Nat) :
    s.barSettleTo now core bar = { s.barWaits now core bar with teams := (s.barSettleTo now core bar).teams } := rfl

theorem bars_completeWhere (s : State) (p : Nat → Group → Op → Bool) (scope : Scope) (clock : BitVec 48) :
    (s.completeWhere p scope clock).bars = s.bars :=
  show (s.completeWhere p scope clock).beyondGroups.bars = s.beyondGroups.bars from
    congrArg State.bars (completeAll_beyondGroups scope clock _ s)

theorem teams_completeWhere (s : State) (p : Nat → Group → Op → Bool) (scope : Scope) (clock : BitVec 48) :
    (s.completeWhere p scope clock).teams = s.teams :=
  show (s.completeWhere p scope clock).beyondGroups.teams = s.beyondGroups.teams from
    congrArg State.teams (completeAll_beyondGroups scope clock _ s)

theorem cycle_completeWhere (s : State) (p : Nat → Group → Op → Bool) (scope : Scope) (clock : BitVec 48) :
    (s.completeWhere p scope clock).cycle = s.cycle :=
  show (s.completeWhere p scope clock).beyondGroups.cycle = s.beyondGroups.cycle from
    congrArg State.cycle (completeAll_beyondGroups scope clock _ s)

theorem bar_setBar (s : State) (core bar : Nat) (b : Bar) : (s.setBar core bar b).bar core bar = b :=
  tget_tset_same _ _ _ _

theorem bar_of_bars {s t : State} (h : t.bars = s.bars) (core bar : Nat) : t.bar core bar = s.bar core bar := by
  rw [State.bar, State.bar, h]

/-- A settled barrier has made the changes of the cycles before this one. -/
theorem bar_barSettle (s : State) (core bar : Nat) : (s.barSettle core bar).bar core bar = ((s.bar core bar).settle s.cycle).1 :=
  (bar_of_bars (bars_completeWhere ..) core bar).trans (bar_setBar ..)

/-- In a bare state the settling of a barrier touches nothing of the memory. -/
theorem barSettle_bare {s : State} (h : s.bare) (core bar : Nat) : (s.barSettle core bar).bare := by
  have hw : s.barWaits s.cycle core bar = { s.setBar core bar ((s.bar core bar).settle s.cycle).1 with
      groups := (s.barWaits s.cycle core bar).groups } := completeAll_of_empty _ _ _ (cache_of_bare h)
  have hu : (s.barSettle core bar).access = s.access := by
    rw [State.barSettle, barSettleTo_eq, hw]
    rfl
  exact bare_of_access hu h

theorem opGone_barSettle {s : State} {core bar gid n : Nat} {g : Group} {o : Op} (hg : s.group? gid = some g)
    (ho : dget g.ops n = some o) (hdone : s.barDone s.cycle core bar gid g o = true) :
    (s.barSettle core bar).opGone gid n :=
  opGone_completeWhere (s := s.setBar core bar _) .team _ hg ho hdone

/-- A BARW whose token differs from PH has its phase behind it, after at most one change. -/
theorem passed_of_ph_ne {b : Bar} {now : Nat} {tok : Bool} (hlast : b.last < now)
    (hph : (b.settle now).1.ph ≠ tok) (hone : b.changes now ≤ 1) : b.passed now (b.changes now) tok = true := by
  rw [settle_ph] at hph
  obtain h | h : b.changes now = 0 ∨ b.changes now = 1 := by omega
  · have htok : b.ph ≠ tok := by simpa [h] using hph
    simp [Bar.passed, hlast, h, htok]
  · have htok : b.ph = tok := by simpa [h] using hph
    simp [Bar.passed, hlast, h, htok]

theorem barSettle_completes (s : State) (core bar : Nat) (hc : core < 320) (hb : bar < 2048) :
    let b := s.bar core bar
    let x := b.settle s.cycle
    let t := s.barSettle core bar
    s.completesIf s.bare (.barrierWaitComplete core bar) t ∧ t.bar core bar = x.1 ∧
    ∀ gid g n o, s.group? gid = some g → dget g.ops n = some o → s.isSaved g.team = false →
      (∀ tok, o.kind = .barw core bar tok → b.last < s.cycle → x.1.ph ≠ tok → x.2 ≤ 1 →
        ∃ h, t.group? gid = some h ∧ dget h.ops n = none) ∧
      (∀ ph, o.kind = .barx core bar ph → b.ph = ph → 1 ≤ x.2 → ∃ h, t.group? gid = some h ∧ dget h.ops n = none) := by
  have hexec : exec (.barrierWaitComplete core bar) s = finish s (s.barSettle core bar) := by
    show execBarrierWaitComplete core bar s = _
    simp [execBarrierWaitComplete, hc, hb]
  refine ⟨completesIf_of_finish hexec fun h => settled_of_bare (barSettle_bare h core bar), bar_barSettle s core bar,
    fun gid g n o hg ho hsaved => ⟨fun tok hkind hlast hph hone => ?_, fun ph hkind hph hone => ?_⟩⟩
  · have hpassed := passed_of_ph_ne hlast hph hone
    exact opGone_barSettle hg ho (by simp [State.barDone, hsaved, hkind, hpassed])
  · rw [settle_changes] at hone
    exact opGone_barSettle hg ho (by simp [State.barDone, hsaved, hkind, hph, hone])

/-! ### BARA at its arrival (R249, R251) -/

theorem sreg_putSca_of_newest {g : Group} {n at_ start : Nat} {x : Word64} (h : g.newest g.supervisor n at_ start) :
    (g.putSca g.supervisor n x at_ start).sreg n = x := by
  have hput : g.putSca g.supervisor n x at_ start =
      { g.setSregAs g.supervisor n x with scaAt := dput g.scaAt (scaKey g.supervisor n) (at_, start) } := by
    unfold Group.putSca
    dsimp only
    split
    · rfl
    next i j hij =>
      have hnot : ¬ ((at_ < i || (at_ == i && decide (start < j))) = true) := by
        have := h i j hij
        simp only [Bool.or_eq_true, decide_eq_true_eq, Bool.and_eq_true, beq_iff_eq]
        omega
      exact if_neg hnot
  rw [hput]
  cases hb : (g.supervisor && decide (248 ≤ n)) <;> simp [Group.sreg, Group.setSregAs, hb]

@[simp] theorem putSca_supervisor (g : Group) (sup : Bool) (n : Nat) (x : Word64) (at_ start : Nat) :
    (g.putSca sup n x at_ start).supervisor = g.supervisor := by
  unfold Group.putSca Group.setSregAs
  dsimp only
  repeat' split
  all_goals rfl

@[simp] theorem completeOp_sreg (g : Group) (n k : Nat) : (g.completeOp n).sreg k = g.sreg k := by
  unfold Group.completeOp
  split
  · rfl
  · dsimp only
    split <;> rfl

/-- The groups and barriers of a state as a release leaves them. -/
theorem exists_group?_barSettle {s : State} {gid : Nat} (h : ∃ g, s.group? gid = some g) (core bar : Nat) :
    ∃ g, (s.barSettle core bar).group? gid = some g :=
  exists_completeAll (s := s.setBar core bar _) _ _ _ h

theorem modGroup_bars (s : State) (gid : Nat) (f : Group → Group) : (s.modGroup gid f).bars = s.bars :=
  show (s.modGroup gid f).beyondGroups.bars = s.beyondGroups.bars from congrArg State.bars (modGroup_beyondGroups s gid f)

/-- BARA takes its token before the cycle's phase change, and its weight counts (R249). -/
theorem applyBara_spec {s : State} {gid : Nat} {g : Group} (core bar w sb n : Nat) (hg : s.group? gid = some g) :
    let s1 := (s.fenceRel g.core .team).barSettle core bar
    let b := s1.bar core bar
    let t := s.applyBara core bar w sb gid n
    t.bar core bar = b.arrive w (g.opClock n) ∧ t.mem = s1.mem ∧
    ∃ h, t.group? gid = some h ∧ dget h.ops n = none ∧
      ∀ h1 o, s1.group? gid = some h1 → dget h1.ops n = some o → o.sup = h1.supervisor →
        h1.newest o.sup sb o.issueAt o.startAt → h.sreg sb = if b.ph then 1 else 0 := by
  intro s1 b t
  have ht : t = ((s1.setBar core bar (b.arrive w (g.opClock n))).modGroup gid (fun g =>
      g.opSca n sb (w64n (boolBit b.ph)))).completeOp gid n := by
    show s.applyBara core bar w sb gid n = _
    unfold State.applyBara
    simp only [hg]
    rfl
  obtain ⟨g1, hg1⟩ : ∃ g1, s1.group? gid = some g1 :=
    exists_group?_barSettle ⟨g, (group?_of_beyond (fenceRel_beyond ..) gid).trans hg⟩ core bar
  have hgroup : t.group? gid = some ((g1.opSca n sb (w64n (boolBit b.ph))).completeOp n) := by
    rw [ht]
    exact group?_modGroup_same (group?_modGroup_same (s := s1.setBar core bar _) hg1 _) _
  refine ⟨?_, ?_, _, hgroup, dget_completeOp_same _ n, fun h1 o hh1 ho hsup hnew => ?_⟩
  · rw [ht, State.completeOp]
    exact (bar_of_bars ((modGroup_bars _ _ _).trans (modGroup_bars _ _ _)) core bar).trans (bar_setBar ..)
  · rw [ht, State.completeOp, State.modGroup_mem, State.modGroup_mem]
    rfl
  · obtain rfl : g1 = h1 := Option.some.inj (hg1.symm.trans hh1)
    rw [hsup] at hnew
    simp only [completeOp_sreg, Group.opSca, ho, hsup, sreg_putSca_of_newest hnew]
    cases b.ph <;> rfl

/-! ### Team barriers (R252) -/

theorem teamBar_arrive_first {b : TeamBar} {gid : Nat} (clock : BitVec 48) (h : gid ∉ b.arrived) (hd : b.decided = none) :
    b.arrive gid clock = ({ b with arrived := b.arrived ++ [gid],
                                   clock := if b.clock.toNat < clock.toNat then clock else b.clock }, 1) := by
  simp [TeamBar.arrive, h, hd]

theorem teamBar_arrive_held {b : TeamBar} {gid : Nat} (clock : BitVec 48) (h : gid ∈ b.arrived ∨ b.decided ≠ none) :
    b.arrive gid clock =
      ({ b with held := b.held ++ [(gid, clock)] }, 2 + (b.held.filter (fun e => e.1 == gid)).length) := by
  have hc : (b.arrived.contains gid || b.decided.isSome) = true := by
    simpa [Option.isSome_iff_ne_none] using h
  exact if_pos hc

theorem teamBar_arrive_counts (b : TeamBar) (gid : Nat) (clock : BitVec 48) :
    let r := b.arrive gid clock
    (gid ∉ b.arrived → b.decided = none → r.1.arrived = b.arrived ++ [gid] ∧ r.1.held = b.held ∧ r.2 = 1 ∧
      b.phaseOf r.2 = b.ph) ∧
    (gid ∈ b.arrived ∨ b.decided ≠ none → r.1.arrived = b.arrived ∧ r.1.held = b.held ++ [(gid, clock)] ∧
      ((∀ e ∈ b.held, e.1 ≠ gid) → r.2 = 2 ∧ b.phaseOf r.2 = !b.ph) ∧
      (∀ e ∈ b.held, e.1 = gid → 3 ≤ r.2)) := by
  refine ⟨fun h hd => ?_, fun h => ?_⟩
  · rw [teamBar_arrive_first clock h hd]
    exact ⟨rfl, rfl, rfl, rfl⟩
  · rw [teamBar_arrive_held clock h]
    refine ⟨rfl, rfl, fun hno => ?_, fun e he heq => ?_⟩
    · have hnil : b.held.filter (fun e => e.1 == gid) = [] :=
        List.filter_eq_nil_iff.mpr fun e he => by simpa using hno e he
      simp only [hnil, List.length_nil, Nat.add_zero, true_and]
      rfl
    · have hpos : 0 < (b.held.filter (fun e => e.1 == gid)).length :=
        List.length_pos_of_mem (List.mem_filter.mpr ⟨he, by simpa using heq⟩)
      exact Nat.add_le_add_left hpos 2

/-- Have all groups of a team that have not exited arrived? -/
def State.allArrived (s : State) (t : Team) (b : TeamBar) : Bool :=
  t.gids.all (fun gid => match s.group? gid with
    | some g => g.exited || b.arrived.contains gid
    | none => true)

theorem allArrived_iff (s : State) (t : Team) (b : TeamBar) : s.allArrived t b = true ↔
    ∀ gid ∈ t.gids, ∀ g, s.group? gid = some g → g.xmask = allLanes ∨ gid ∈ b.arrived := by
  simp only [State.allArrived, List.all_eq_true]
  refine forall₂_congr fun gid _ => ?_
  cases s.group? gid <;> simp [Group.exited]

/-- The barrier of a phase that is decided now. -/
def TeamBar.decide (b : TeamBar) (cycle : Nat) (clock : BitVec 48) : TeamBar :=
  { b with decided := some cycle, clock := if b.clock.toNat < clock.toNat then clock else b.clock }

theorem tbarDecide_eq {s : State} {team tb : Nat} {t : Team} (clock : BitVec 48) (ht : s.team? team = some t) :
    s.tbarDecide team tb clock =
      if (t.tbar tb).decided = none ∧ (t.tbar tb).arrived ≠ [] ∧ s.allArrived t (t.tbar tb) = true then
        s.setTeam team { t with tbars := dput t.tbars tb ((t.tbar tb).decide s.cycle clock) }
      else s := by
  unfold State.tbarDecide
  simp only [ht]
  congr 1
  show ((_ && _ && s.allArrived t (t.tbar tb)) = true) = _
  simp [and_assoc]

theorem tbar_dput (t : Team) (tb : Nat) (b : TeamBar) : Team.tbar { t with tbars := dput t.tbars tb b } tb = b := by
  simp [Team.tbar]

theorem team?_setTeam (s : State) (team : Nat) (t : Team) : (s.setTeam team t).team? team = some t := dget_dput_same _ _ _

theorem tbarDecide_spec (s : State) (team tb : Nat) (clock : BitVec 48) (t : Team) (ht : s.team? team = some t) :
    let b := t.tbar tb
    b.decided = none → b.arrived ≠ [] →
    ((∀ gid ∈ t.gids, ∀ g, s.group? gid = some g → g.xmask = allLanes ∨ gid ∈ b.arrived) →
      ∃ u, (s.tbarDecide team tb clock).team? team = some u ∧ (u.tbar tb).decided = some s.cycle) ∧
    ((∃ gid ∈ t.gids, ∃ g, s.group? gid = some g ∧ g.xmask ≠ allLanes ∧ gid ∉ b.arrived) →
      s.tbarDecide team tb clock = s) := by
  intro b hd ha
  rw [tbarDecide_eq clock ht]
  refine ⟨fun hall => ?_, fun ⟨gid, hmem, g, hg, hx, hnot⟩ => if_neg fun ⟨_, _, hall⟩ => ?_⟩
  · rw [if_pos ⟨hd, ha, (allArrived_iff s t _).mpr hall⟩]
    exact ⟨_, team?_setTeam .., congrArg TeamBar.decided (tbar_dput ..)⟩
  · exact ((allArrived_iff s t _).mp hall gid hmem g hg).elim hx hnot

/-- What one arrival leaves of a barrier whose phase is not decided: the group counts once, and more is held. -/
theorem arrive_undecided {b : TeamBar} (gid : Nat) (clock : BitVec 48) (hd : b.decided = none) :
    let c := (b.arrive gid clock).1
    c.ph = b.ph ∧ c.decided = none ∧ (∀ other, other ∈ c.arrived ↔ other ∈ b.arrived ∨ other = gid) ∧
      c.arrived.length + c.held.length = b.arrived.length + b.held.length + 1 := by
  by_cases h : gid ∈ b.arrived
  · rw [teamBar_arrive_held clock (.inl h)]
    refine ⟨rfl, hd, fun other => ⟨.inl, Or.rec id fun heq => heq ▸ h⟩, ?_⟩
    simp only [List.length_append, List.length_cons, List.length_nil]
    omega
  · rw [teamBar_arrive_first clock h hd]
    refine ⟨rfl, hd, fun other => by simp, ?_⟩
    simp only [List.length_append, List.length_cons, List.length_nil]
    omega

/-- The arrivals of a list on a barrier whose phase is not decided. -/
theorem foldl_arrive (l : List (Nat × BitVec 48)) {b : TeamBar} (hd : b.decided = none) :
    let c := l.foldl (fun b e => (b.arrive e.1 e.2).1) b
    c.ph = b.ph ∧ (∀ gid, gid ∈ c.arrived ↔ gid ∈ b.arrived ∨ ∃ clock, (gid, clock) ∈ l) ∧
      c.arrived.length + c.held.length = b.arrived.length + b.held.length + l.length := by
  induction l generalizing b with
  | nil => simp
  | cons e l ih =>
    obtain ⟨hph, hdec, hmem, hlen⟩ := arrive_undecided e.1 e.2 hd
    obtain ⟨hph', hmem', hlen'⟩ := ih hdec
    refine ⟨hph'.trans hph, fun gid => (hmem' gid).trans ?_, hlen'.trans ?_⟩
    · rw [hmem gid, or_assoc]
      refine or_congr_right ⟨?_, ?_⟩
      · rintro (rfl | ⟨clock, hc⟩)
        · exact ⟨e.2, List.mem_cons_self⟩
        · exact ⟨clock, List.mem_cons_of_mem _ hc⟩
      · rintro ⟨clock, hc⟩
        obtain rfl | hc := List.mem_cons.mp hc
        · exact .inl rfl
        · exact .inr ⟨clock, hc⟩
    · rw [hlen, List.length_cons]
      omega

/-- After a phase end the phase has changed, and of the held arrivals one for each group counts (R252). -/
theorem teamBar_next_spec (b : TeamBar) : b.next.ph = (!b.ph) ∧
    (∀ gid, gid ∈ b.next.arrived ↔ ∃ clock, (gid, clock) ∈ b.held) ∧
    b.next.arrived.length + b.next.held.length = b.held.length := by
  obtain ⟨hph, hmem, hlen⟩ := foldl_arrive b.held (b := { ph := !b.ph, endClock := b.clock }) rfl
  exact ⟨hph, fun gid => (hmem gid).trans (by simp), hlen.trans (by simp)⟩

/-- The waits that a phase end of a team barrier completes. -/
def endsNow (t : Team) (tb gid : Nat) (_ : Group) (o : Op) : Bool :=
  t.gids.contains gid && (match o.kind with
    | .tbar n ends => n == tb && decide (ends ≤ 1)
    | _ => false)

/-- The state in which the phase of a team barrier has ended, before the next one is decided. -/
def State.tbarEnd (s : State) (team tb : Nat) (t : Team) : State :=
  let u := (s.setTeam team { t with tbars := dput t.tbars tb (t.tbar tb).next }).completeWhere (endsNow t tb) .team (t.tbar tb).clock
  { u with groups := u.groups.map (fun (e : Nat × Group) => (e.1, if t.gids.contains e.1 then e.2.tbarEnded tb else e.2)) }

theorem team?_tbarEnd (s : State) (team tb : Nat) (t : Team) :
    (s.tbarEnd team tb t).team? team = some { t with tbars := dput t.tbars tb (t.tbar tb).next } := by
  have hteams : (s.tbarEnd team tb t).teams = (s.setTeam team { t with tbars := dput t.tbars tb (t.tbar tb).next }).teams :=
    teams_completeWhere ..
  rw [State.team?, hteams]
  exact team?_setTeam ..

theorem dget_tbarEnded_of_none {g : Group} {n : Nat} (tb : Nat) (h : dget g.ops n = none) :
    dget (g.tbarEnded tb).ops n = none := by
  exact dget_map_none h fun _ => rfl

theorem opGone_tbarEnd {s : State} {team tb gid n : Nat} {t : Team} {g : Group} {o : Op} (hmem : gid ∈ t.gids)
    (hg : s.group? gid = some g) (ho : dget g.ops n = some o) (hkind : o.kind = .tbar tb 1) :
    (s.tbarEnd team tb t).opGone gid n := by
  obtain ⟨h, hh, hn⟩ := opGone_completeWhere (s := s.setTeam team { t with tbars := dput t.tbars tb (t.tbar tb).next })
    (p := endsNow t tb) .team (t.tbar tb).clock hg ho (by simp [endsNow, hmem, hkind])
  refine ⟨h.tbarEnded tb, ?_, dget_tbarEnded_of_none tb hn⟩
  refine Eq.trans (b := some (if t.gids.contains gid then h.tbarEnded tb else h)) ?_ (by simp [hmem])
  exact dget_map_some hh fun _ => rfl

theorem tbarEnd_bare {s : State} (h : s.bare) (team tb : Nat) (t : Team) : (s.tbarEnd team tb t).bare := by
  have hu : s.tbarEnd team tb t = { s.setTeam team { t with tbars := dput t.tbars tb (t.tbar tb).next } with
      groups := (s.tbarEnd team tb t).groups } :=
    congrArg (fun u : State => { u with groups := (s.tbarEnd team tb t).groups })
      (completeAll_of_empty (s := s.setTeam team _) .team (t.tbar tb).clock _ (cache_of_bare h))
  have haccess : (s.tbarEnd team tb t).access = s.access := by
    rw [hu]
    rfl
  exact bare_of_access haccess h

/-- A decision touches the team's barrier alone, and of it neither the phase nor the arrivals. -/
theorem tbarDecide_keeps {s : State} {team tb : Nat} {t : Team} (clock : BitVec 48) (ht : s.team? team = some t) :
    ∃ v, (s.tbarDecide team tb clock).team? team = some v ∧ (v.tbar tb).ph = (t.tbar tb).ph ∧
      (v.tbar tb).arrived = (t.tbar tb).arrived ∧ (v.tbar tb).held = (t.tbar tb).held := by
  rw [tbarDecide_eq clock ht]
  split
  · refine ⟨_, team?_setTeam .., ?_⟩
    rw [tbar_dput]
    exact ⟨rfl, rfl, rfl⟩
  · exact ⟨t, ht, rfl, rfl, rfl⟩

theorem group?_tbarDecide (s : State) (team tb : Nat) (clock : BitVec 48) (gid : Nat) :
    (s.tbarDecide team tb clock).group? gid = s.group? gid := by
  unfold State.tbarDecide
  split
  · rfl
  · dsimp only
    split <;> rfl

theorem tbarDecide_settled {s : State} (h : s.settled) (team tb : Nat) (clock : BitVec 48) :
    (s.tbarDecide team tb clock).settled := by
  unfold State.tbarDecide
  split
  · exact h
  · dsimp only
    split <;> exact h

theorem exec_teamBarrierPhaseEnd {s : State} {team tb c : Nat} {t : Team} (ht : s.team? team = some t)
    (hd : (t.tbar tb).decided = some c) (hc : c + (if t.cores.length = 1 then 6 else 20) ≤ s.cycle) :
    exec (.teamBarrierPhaseEnd team tb) s = finish s ((s.tbarEnd team tb t).tbarDecide team tb 0) := by
  show execTeamBarrierPhaseEnd team tb s = _
  unfold execTeamBarrierPhaseEnd
  simp only [ht, hd]
  rw [if_neg (Nat.not_lt.mpr hc)]
  rfl

theorem teamBarrierPhaseEnd_spec (s : State) (team tb c : Nat) (t : Team) (ht : s.team? team = some t)
    (hd : (t.tbar tb).decided = some c) (hc : c + (if t.cores.length = 1 then 6 else 20) ≤ s.cycle) :
    let b := t.tbar tb
    ∃ u, s.completesIf s.bare (.teamBarrierPhaseEnd team tb) u ∧ (∃ v, u.team? team = some v ∧ (v.tbar tb).ph = !b.ph ∧
        (∀ gid, gid ∈ (v.tbar tb).arrived ↔ ∃ clock, (gid, clock) ∈ b.held) ∧
        (v.tbar tb).arrived.length + (v.tbar tb).held.length = b.held.length) ∧
      ∀ gid g n o, gid ∈ t.gids → s.group? gid = some g → dget g.ops n = some o → o.kind = .tbar tb 1 →
        ∃ h, u.group? gid = some h ∧ dget h.ops n = none := by
  intro b
  refine ⟨(s.tbarEnd team tb t).tbarDecide team tb 0, ?_, ?_, fun gid g n o hmem hg ho hkind => ?_⟩
  · exact completesIf_of_finish (exec_teamBarrierPhaseEnd ht hd hc)
      fun h => tbarDecide_settled (settled_of_bare (tbarEnd_bare h team tb t)) team tb 0
  · obtain ⟨v, hv, hph, harr, hheld⟩ := tbarDecide_keeps (tb := tb) 0 (team?_tbarEnd s team tb t)
    rw [tbar_dput] at hph harr hheld
    obtain ⟨hnph, hnmem, hnlen⟩ := teamBar_next_spec b
    exact ⟨v, hv, hph.trans hnph, fun gid => harr ▸ hnmem gid, by rw [harr, hheld, hnlen]⟩
  · obtain ⟨h, hh, hn⟩ := opGone_tbarEnd (team := team) hmem hg ho hkind
    exact ⟨h, (group?_tbarDecide ..).trans hh, hn⟩

/-- Settles O34: a named barrier's changes are counted by `Bar.changes`, and the waits that a phase end completes are
taken from their groups one after another. -/
theorem barrierPhases : Obligations.BarrierPhases :=
  ⟨⟨fun b now h => bar_changes_at_most_once_a_cycle b now h, fun _ _ _ => ⟨rfl, rfl, rfl⟩,
      fun _ core bar w sb _ n _ hg => applyBara_spec core bar w sb n hg,
      fun s core bar hc hb => barSettle_completes s core bar hc hb⟩,
    ⟨teamBar_arrive_counts, fun s team tb clock t ht => tbarDecide_spec s team tb clock t ht,
      fun s team tb c t ht hd hc => teamBarrierPhaseEnd_spec s team tb c t ht hd hc⟩⟩

end Sys2Proof.Machine
end

section
/-!
PROOFS. O45, first part: a group at its start (R28, R32, R38, R39).
-/
namespace Sys2Proof.Machine

theorem teamIndex_bounds {t x y z : Nat} (h : t < x * y * z) : 0 < x ∧ 0 < y ∧ t / (x * y) < z := by
  have hxyz : 0 < x * y * z := Nat.zero_lt_of_lt h
  have hxy : 0 < x * y := Nat.pos_of_mul_pos_right hxyz
  exact ⟨Nat.pos_of_mul_pos_right hxy, Nat.pos_of_mul_pos_left hxy, Nat.div_lt_of_lt_mul h⟩

/-- The three coordinates of a team stand in TEAMID at bits 0, 20 and 40 (R39). -/
theorem teamId_fields {a b c : Nat} (ha : a < 2 ^ 20) (hb : b < 2 ^ 20) (hc : c < 2 ^ 20) :
    let id := w64n (a + b * 2 ^ 20 + c * 2 ^ 40)
    id.toNat % 2 ^ 20 = a ∧ id.toNat / 2 ^ 20 % 2 ^ 20 = b ∧ id.toNat / 2 ^ 40 = c := by
  intro id
  have hid : id.toNat = a + b * 2 ^ 20 + c * 2 ^ 40 := by
    rw [show id = BitVec.ofNat 64 _ from rfl, BitVec.toNat_ofNat, Nat.mod_eq_of_lt (by omega)]
  rw [hid]
  omega

theorem newGroup_spec (gr : Grid) (key team t n part resident cycle : Nat) (area : Word64) (hx : gr.lrec.x ≤ 2 ^ 20)
    (hy : gr.lrec.y ≤ 2 ^ 20) (ht : t < gr.lrec.x * gr.lrec.y * gr.lrec.z) (hz : gr.lrec.z ≤ 2 ^ 20) :
    let g := newGroup gr key team t n part resident cycle area
    let l := gr.lrec
    (g.slot0.pc = if n < l.p then l.entry0 else l.entry1) ∧ g.slot0.mask = allLanes ∧ g.slot1.mask = 0 ∧
    g.slot0.fmt = 0x01477004 ∧ g.slot0.join = 0xFFFFFFFFFFFFFFFF ∧ g.mode = 1 ∧
    (∀ k, g.sreg k = if k = 0 then gr.arg else 0) ∧ (∀ k, g.vreg k = 0) ∧ (∀ k, 0 < k → g.preg k = 0) ∧
    (∀ k, g.flag k = 0) ∧ g.dix = 0 ∧ g.lclk = 0 ∧ g.xmask = 0 ∧ g.spill = [] ∧ g.supervisor = false ∧
    (g.budget = if n < l.p then l.b0 else l.b1) ∧ g.linear.toNat = (64 * t + n) % 2 ^ 54 ∧
    g.teamId.toNat % 2 ^ 20 = t % l.x ∧ g.teamId.toNat / 2 ^ 20 % 2 ^ 20 = t / l.x % l.y ∧
    g.teamId.toNat / 2 ^ 40 = t / (l.x * l.y) ∧ g.seed = gr.seed ∧ g.gridId = gr.gridId := by
  intro g l
  obtain ⟨hx0, hy0, hz0⟩ := teamIndex_bounds ht
  obtain ⟨hid0, hid1, hid2⟩ := teamId_fields ((Nat.mod_lt t hx0).trans_le hx) ((Nat.mod_lt (t / l.x) hy0).trans_le hy)
    (hz0.trans_le hz)
  have role {α : Type} (a b : α) : (if decide (l.p ≤ n) then a else b) = if n < l.p then b else a := by
    by_cases h : n < l.p
    · simp [h]
    · simp [h, Nat.le_of_not_lt h]
  have hsreg (k : Nat) : g.sreg k = if k = 0 then gr.arg else 0 := tget_tset 0 [] 0 k gr.arg
  have hpreg (k : Nat) (hk : 0 < k) : g.preg k = 0 := if_neg hk.ne'
  have hlinear : g.linear.toNat = (64 * t + n) % 2 ^ 54 := by
    rw [Nat.mul_comm]
    exact BitVec.toNat_ofNat _ _
  exact ⟨role _ _, rfl, rfl, rfl, rfl, rfl, hsreg, fun _ => rfl, hpreg, fun _ => rfl, rfl, rfl, rfl, rfl, rfl, role _ _, hlinear,
    hid0, hid1, hid2, rfl, rfl⟩

end Sys2Proof.Machine
end

section
/-!
PROOFS. O45, second part: pre-emption (R146, R150), the save and the restore of a team (R147, R148, R311).
-/
namespace Sys2Proof.Machine

/-! ### The start and the bound of a pre-emption -/

theorem preemptionRequest_spec {s : State} {team : Nat} {t : Team} (ht : s.team? team = some t) (hsaved : t.saved = false)
    (hpre : t.preempt = none)
    (hfirst : s.victims.find? (fun v => ((s.team? v).map (fun x => x.cluster == t.cluster && !x.saved)).getD false) = some team)
    (halone : ∀ e ∈ s.teams, e.2.cluster = t.cluster → e.2.preempt ≠ none → e.2.saved = true) :
    exec (.preemptionRequest team) s = .next
      { s.setTeam team { t with preempt := some s.cycle } with victims := s.victims.filter (fun v => v != team) } := by
  have hbusy : s.teams.any (fun e => e.2.cluster == t.cluster && e.2.preempt.isSome && !e.2.saved) = false := by
    refine List.any_eq_false.mpr fun e he hbad => ?_
    simp only [Bool.and_eq_true, beq_iff_eq, Option.isSome_iff_ne_none, Bool.not_eq_true'] at hbad
    obtain ⟨⟨hcl, hp⟩, hs⟩ := hbad
    exact absurd (halone e he hcl hp) (by simp [hs])
  show execPreemptionRequest team s = _
  simp [execPreemptionRequest, ht, hfirst, hsaved, hpre, hbusy]

theorem preemptionBound_spec {s : State} {gid p : Nat} {g : Group} {t : Team} (hg : s.group? gid = some g)
    (ht : s.team? g.team = some t) (hp : t.preempt = some p) :
    exec (.preemptionBound gid) s = .next
      (if g.supervisor = true ∧ p + 65536 ≤ s.cycle then s.setGroup gid { g with stopped := true } else s) := by
  show execPreemptionBound gid s = _
  simp [execPreemptionBound, hg, ht, hp]

/-! ### The retirement of a group (R45, R142) -/

theorem groupRetire_spec {s : State} {gid : Nat} {g : Group} (hg : s.group? gid = some g) (hdone : g.done = true)
    (hsaved : s.isSaved g.team = false) :
    (g.supervisor = true ∨ g.refusals = [] → exec (.groupRetire gid) s = .next
      ({ s with groups := ddel s.groups gid }.modTeam g.team (fun t => { t with lastGone := some s.cycle }))) ∧
    (∀ x l e, g.supervisor = false → g.refusals = x :: l → g.lastExit = some e →
      exec (.groupRetire gid) s = .next (s.finalRefusal gid g e x)) := by
  have hexec : exec (.groupRetire gid) s = execGroupRetire gid s := rfl
  rw [hexec]
  refine ⟨fun h => ?_, fun x l e hsup hrefused hexit => ?_⟩
  · obtain hsup | hnone := h
    · simp [execGroupRetire, hg, hdone, hsaved, hsup]
    · simp [execGroupRetire, hg, hdone, hsaved, hnone]
  · simp [execGroupRetire, hg, hdone, hsaved, hsup, hrefused, hexit]

/-! ### What the save of a team keeps of its groups -/

/-- The registers of a group that a save and a restore keep. -/
structure Registers where
  vregs : Tab Line
  sregs : Tab Word64
  preds : Tab Mask
  mode  : BitVec 16
  dix   : BitVec 48
  spill : List SpillEntry
  pc0   : Word64
  pc1   : Word64
  index : Nat

def Group.registers (g : Group) : Registers :=
  { vregs := g.vregs, sregs := g.sregs, preds := g.preds, mode := g.mode, dix := g.dix, spill := g.spill
    pc0 := g.slot0.pc, pc1 := g.slot1.pc, index := g.g }

/-- What p sees of the group of a handle. -/
def State.groupAs {α : Type} (p : Group → α) (s : State) (gid : Nat) : Option α := (s.group? gid).map p

section
variable {α : Type} {p : Group → α}

theorem groupAs_of_groups {s t : State} (h : t.groups = s.groups) (gid : Nat) : t.groupAs p gid = s.groupAs p gid := by
  rw [State.groupAs, State.groupAs, State.group?, State.group?, h]

theorem groupAs_modGroup (s : State) (other : Nat) {f : Group → Group} (hf : ∀ g, p (f g) = p g) (gid : Nat) :
    (s.modGroup other f).groupAs p gid = s.groupAs p gid := by
  by_cases hne : gid = other
  · subst hne
    cases hg : s.group? gid with
    | none =>
      unfold State.group? at hg
      simp [State.groupAs, State.modGroup, hg]
    | some g => simp [State.groupAs, group?_modGroup_same hg, hg, hf]
  · simp [State.groupAs, group?_modGroup_other s hne]

theorem groupAs_foldl {β : Type} (f : State → β → State) (gid : Nat) (l : List β) (s : State)
    (h : ∀ s x, (f s x).groupAs p gid = s.groupAs p gid) : (l.foldl f s).groupAs p gid = s.groupAs p gid := by
  induction l generalizing s with
  | nil => rfl
  | cons x l ih => exact (ih _).trans (h _ _)

end

theorem registers_completeOp (g : Group) (n : Nat) : (g.completeOp n).registers = g.registers := by
  unfold Group.completeOp
  split
  · rfl
  · dsimp only
    split <;> rfl

theorem registers_takeClock (g : Group) (clock : BitVec 48) : (g.takeClock clock).registers = g.registers := by
  unfold Group.takeClock
  split <;> rfl

theorem registers_completeWait (s : State) (other n : Nat) (scope : Scope) (clock : BitVec 48) (gid : Nat) :
    (s.completeWait other n scope clock).groupAs Group.registers gid = s.groupAs Group.registers gid := by
  unfold State.completeWait
  split
  · rfl
  · refine (groupAs_modGroup _ other (fun g => registers_takeClock g clock) gid).trans ?_
    exact (groupAs_modGroup _ other (fun g => registers_completeOp g n) gid).trans
      (groupAs_of_groups (groups_of_beyond (fenceAcq_beyond ..)) gid)

theorem registers_barSettle (s : State) (core bar gid : Nat) : (s.barSettle core bar).groupAs Group.registers gid = s.groupAs Group.registers gid :=
  groupAs_foldl _ gid _ (s.setBar core bar _) fun s x => registers_completeWait s x.1 x.2 .team _ gid

theorem modTeam_groups (s : State) (team : Nat) (f : Team → Team) : (s.modTeam team f).groups = s.groups := by
  unfold State.modTeam
  split <;> rfl

theorem registers_saveBars (s : State) (team : Nat) (t : Team) (gid : Nat) :
    (s.saveBars team t).groupAs Group.registers gid = s.groupAs Group.registers gid :=
  groupAs_foldl _ gid _ s fun s x =>
    (groupAs_of_groups (modTeam_groups ..) gid).trans (registers_barSettle s x.2.1 x.2.2 gid)

/-- Writing a mapping home touches memory and the mappings of the team. -/
theorem mapWriteBack_cases (s : State) (c core team i level : Nat) (only : Option Nat) :
    ∃ w : State, w.beyond = s.beyond ∧ (s.mapWriteBack c core team i level only = w ∨ ∃ m : Mapping,
      s.mapWriteBack c core team i level only = w.modTeam team (fun t => { t with maps := listSet t.maps i m })) := by
  unfold State.mapWriteBack
  split
  · exact ⟨s, rfl, .inl rfl⟩
  next t m _ =>
    refine ⟨_, foldl_beyond _ _ s fun s b => ?_, .inr ⟨_, rfl⟩⟩
    dsimp only
    split
    · exact (writePhys_beyond ..).trans (lookup_beyond ..)
    · exact lookup_beyond ..

theorem mapWriteBack_groups (s : State) (c core team i level : Nat) (only : Option Nat) :
    (s.mapWriteBack c core team i level only).groups = s.groups := by
  obtain ⟨w, hw, h | ⟨m, h⟩⟩ := mapWriteBack_cases s c core team i level only
  · rw [h, groups_of_beyond hw]
  · rw [h, modTeam_groups, groups_of_beyond hw]

/-- The mappings of a team are written home one after another. -/
def State.writeMapsBack (s : State) (team : Nat) (t : Team) : State :=
  (List.range t.maps.length).foldl (fun s i => match t.maps[i]? with
    | none => s
    | some m => s.mapWriteBack t.ctx ((t.cores[m.slot]?).getD 0) team i 1 none) s

theorem writeMapsBack_of_nil (s : State) (team : Nat) {t : Team} (h : t.maps = []) : s.writeMapsBack team t = s := by
  simp [State.writeMapsBack, h]

/-- What every write of a mapping keeps, the writes of all of them keep. -/
theorem writeMapsBack_keeps {α : Type} {P : State → α} (team : Nat) (t : Team)
    (h : ∀ (s : State) (core i : Nat), P (s.mapWriteBack t.ctx core team i 1 none) = P s) (s : State) :
    P (s.writeMapsBack team t) = P s := by
  have step (l : List Nat) : ∀ s : State, P (l.foldl (fun s i => match t.maps[i]? with
      | none => s
      | some m => s.mapWriteBack t.ctx ((t.cores[m.slot]?).getD 0) team i 1 none) s) = P s := by
    induction l with
    | nil => intro s; rfl
    | cons i l ih =>
      intro s
      refine (ih _).trans ?_
      dsimp only
      split
      · rfl
      · exact h s _ i
  exact step _ s

theorem saveMaps_eq (s : State) (team : Nat) (t : Team) : s.saveMaps team t =
    (s.writeMapsBack team t).modTeam team (fun t => { t with maps := t.maps.map (fun m =>
      { m with touched := if m.rw then [] else m.touched, wanted := [] }) }) := rfl

theorem saveMaps_groups (s : State) (team : Nat) (t : Team) : (s.saveMaps team t).groups = s.groups := by
  rw [saveMaps_eq, modTeam_groups]
  exact writeMapsBack_keeps team t (fun s core i => mapWriteBack_groups s t.ctx core team i 1 none) s

/-! ### What it keeps of a team -/

/-- What p sees of the team of a key. -/
def State.teamAs {α : Type} (p : Team → α) (s : State) (team : Nat) : Option α := (s.team? team).map p

section
variable {α : Type} {p : Team → α}

theorem teamAs_of_teams {s t : State} (h : t.teams = s.teams) (team : Nat) : t.teamAs p team = s.teamAs p team := by
  rw [State.teamAs, State.teamAs, State.team?, State.team?, h]

theorem team?_modTeam_same {s : State} {team : Nat} {t : Team} (h : s.team? team = some t) (f : Team → Team) :
    (s.modTeam team f).team? team = some (f t) := by
  unfold State.team? at h
  simp only [State.modTeam, h]
  exact dget_dput_same _ _ _

theorem team?_modTeam_other (s : State) {team other : Nat} (h : other ≠ team) (f : Team → Team) :
    (s.modTeam team f).team? other = s.team? other := by
  unfold State.modTeam
  split
  · rfl
  · exact dget_dput_other _ _ h

theorem teamAs_modTeam (s : State) (other : Nat) {f : Team → Team} (hf : ∀ t, p (f t) = p t) (team : Nat) :
    (s.modTeam other f).teamAs p team = s.teamAs p team := by
  by_cases hne : team = other
  · subst hne
    cases ht : s.team? team with
    | none =>
      unfold State.team? at ht
      simp [State.teamAs, State.modTeam, ht]
    | some t => simp [State.teamAs, team?_modTeam_same ht, ht, hf]
  · simp [State.teamAs, team?_modTeam_other s hne]

theorem teamAs_foldl {β : Type} (f : State → β → State) (team : Nat) (l : List β) (s : State)
    (h : ∀ s x, (f s x).teamAs p team = s.teamAs p team) : (l.foldl f s).teamAs p team = s.teamAs p team := by
  induction l generalizing s with
  | nil => rfl
  | cons x l ih => exact (ih _).trans (h _ _)

theorem teamAs_barSettle (s : State) (core bar : Nat) (hp : ∀ (t : Team) insts, p { t with insts := insts } = p t)
    (team : Nat) : (s.barSettle core bar).teamAs p team = s.teamAs p team := by
  have hteams : (s.barWaits s.cycle core bar).teams = s.teams := teams_completeWhere ..
  refine Eq.trans ?_ (teamAs_of_teams hteams team)
  unfold State.teamAs State.team?
  refine map_dget_map (fun e => ?_) (fun e => ?_) (s.barWaits s.cycle core bar).teams team
  · exact hp e.2 _
  · rfl

theorem teamAs_saveBars (s : State) (team : Nat) (t : Team) (hi : ∀ (t : Team) insts, p { t with insts := insts } = p t)
    (hb : ∀ (t : Team) bars, p { t with savedBars := bars } = p t) (other : Nat) :
    (s.saveBars team t).teamAs p other = s.teamAs p other :=
  teamAs_foldl _ other _ s fun s x =>
    (teamAs_modTeam _ team (fun t => hb t _) other).trans (teamAs_barSettle s x.2.1 x.2.2 hi other)

theorem teamAs_mapWriteBack (s : State) (c core team i level : Nat) (only : Option Nat)
    (hm : ∀ (t : Team) maps, p { t with maps := maps } = p t) (other : Nat) :
    (s.mapWriteBack c core team i level only).teamAs p other = s.teamAs p other := by
  obtain ⟨w, hw, h | ⟨m, h⟩⟩ := mapWriteBack_cases s c core team i level only
  · rw [h, teamAs_of_teams (teams_of_beyond hw)]
  · rw [h, teamAs_modTeam w team (fun t => hm t _), teamAs_of_teams (teams_of_beyond hw)]

theorem teamAs_saveMaps (s : State) (team : Nat) (t : Team) (hm : ∀ (t : Team) maps, p { t with maps := maps } = p t)
    (other : Nat) : (s.saveMaps team t).teamAs p other = s.teamAs p other := by
  rw [saveMaps_eq, teamAs_modTeam _ team (fun t => hm t _)]
  exact writeMapsBack_keeps (P := fun s => s.teamAs p other) team t
    (fun s core i => teamAs_mapWriteBack s t.ctx core team i 1 none hm other) s

end

/-! ### The save (R147, R311) -/

/-- Change the groups of a list one after another. -/
def State.modGroups (s : State) (l : List Nat) (f : Group → Group) : State := l.foldl (fun s gid => s.modGroup gid f) s

theorem group?_modGroups_of_image {f : Group → Group} (hf : ∀ g, f (f g) = f g) (l : List Nat) {s : State} {gid : Nat}
    {g : Group} (h : s.group? gid = some (f g)) : (s.modGroups l f).group? gid = some (f g) := by
  induction l generalizing s with
  | nil => exact h
  | cons x l ih =>
    refine ih ?_
    by_cases hx : gid = x
    · subst hx
      rw [group?_modGroup_same h, hf]
    · rw [group?_modGroup_other s hx, h]

/-- An idempotent change reaches each group of the list once. -/
theorem group?_modGroups_of_mem {f : Group → Group} (hf : ∀ g, f (f g) = f g) {l : List Nat} {s : State} {gid : Nat}
    {g : Group} (hmem : gid ∈ l) (h : s.group? gid = some g) : (s.modGroups l f).group? gid = some (f g) := by
  induction l generalizing s with
  | nil => cases hmem
  | cons x l ih =>
    by_cases hx : gid = x
    · subst hx
      exact group?_modGroups_of_image hf l (group?_modGroup_same h f)
    · exact ih ((List.mem_cons.mp hmem).resolve_left hx) ((group?_modGroup_other s hx f).trans h)

theorem modGroup_teams (s : State) (gid : Nat) (f : Group → Group) : (s.modGroup gid f).teams = s.teams := by
  unfold State.modGroup
  split <;> rfl

theorem modGroup_access (s : State) (gid : Nat) (f : Group → Group) : (s.modGroup gid f).access = s.access := by
  unfold State.modGroup
  split <;> rfl

theorem modTeam_access (s : State) (team : Nat) (f : Team → Team) : (s.modTeam team f).access = s.access := by
  unfold State.modTeam
  split <;> rfl

theorem modGroups_teams (s : State) (l : List Nat) (f : Group → Group) : (s.modGroups l f).teams = s.teams := by
  induction l generalizing s with
  | nil => rfl
  | cons x l ih => exact (ih _).trans (modGroup_teams s x f)

theorem modGroups_access (s : State) (l : List Nat) (f : Group → Group) : (s.modGroups l f).access = s.access := by
  induction l generalizing s with
  | nil => rfl
  | cons x l ih => exact (ih _).trans (modGroup_access s x f)

/-- The acquires on the cores of a team. -/
def State.acquireCores (s : State) (cores : List Nat) : State := cores.foldl (fun s c => s.fenceAcq c .device) s

theorem acquireCores_beyond (s : State) (cores : List Nat) : (s.acquireCores cores).beyond = s.beyond :=
  foldl_beyond _ _ s fun s c => fenceAcq_beyond s c .device

theorem acquireCores_bare {s : State} (h : s.bare) (cores : List Nat) : (s.acquireCores cores).bare :=
  foldl_bare _ _ h fun s c hs => by rwa [fenceAcq_of_empty (cache_of_bare hs)]

/-- A team as its save leaves it. -/
def Team.afterSave (t : Team) : Team :=
  { t with saved := true, preempt := none, cores := [], parts := []
           insts := t.insts.map (fun e => (e.1, { e.2 with waits := none, marked := none })) }

/-- What a save has done to memory, barriers and mappings before it turns to the groups. -/
def State.saveMemory (s : State) (team : Nat) (t : Team) : State :=
  ((s.saveBars team t).saveMaps team t).acquireCores t.cores

/-- The register lines of a team's groups marked evictable (R146). -/
def State.markEvictable (s : State) (gids : List Nat) : State :=
  { s with rcache := s.rcache.map (fun e => (e.1, e.2.map (fun c => if gids.contains c.gid then { c with evict := true } else c))) }

theorem saveTeam_eq (s : State) (team : Nat) (t : Team) : s.saveTeam team t =
    ((((s.saveMemory team t).modGroups t.gids Group.save).markEvictable t.gids).modTeam team Team.afterSave) := rfl

theorem registers_saveMemory (s : State) (team : Nat) (t : Team) (gid : Nat) :
    (s.saveMemory team t).groupAs Group.registers gid = s.groupAs Group.registers gid :=
  (groupAs_of_groups (groups_of_beyond (acquireCores_beyond ..)) gid).trans
    ((groupAs_of_groups (saveMaps_groups ..) gid).trans (registers_saveBars s team t gid))

/-- What of a team a save does not touch before its last step. -/
def Team.saveView (t : Team) : Team := { t with insts := [], savedBars := [], maps := [] }

theorem teamAs_saveMemory (s : State) (team : Nat) (t : Team) (other : Nat) :
    (s.saveMemory team t).teamAs Team.saveView other = s.teamAs Team.saveView other :=
  (teamAs_of_teams (teams_of_beyond (acquireCores_beyond ..)) other).trans
    ((teamAs_saveMaps _ team t (fun _ _ => rfl) other).trans (teamAs_saveBars s team t (fun _ _ => rfl) (fun _ _ => rfl) other))

theorem team?_saveTeam {s : State} {team : Nat} {t : Team} (ht : s.team? team = some t) : ∃ v,
    (s.saveTeam team t).team? team = some v ∧ v.saved = true ∧ v.preempt = none ∧ v.cores = [] ∧ v.stash = t.stash ∧
      v.gids = t.gids := by
  have hview : (s.saveMemory team t).teamAs Team.saveView team = some t.saveView := by
    rw [teamAs_saveMemory, State.teamAs, ht, Option.map_some]
  obtain ⟨w, hw, hwt⟩ := Option.map_eq_some_iff.mp hview
  have hteam : (((s.saveMemory team t).modGroups t.gids Group.save).markEvictable t.gids).team? team = some w := by
    show dget ((s.saveMemory team t).modGroups t.gids Group.save).teams team = some w
    rw [modGroups_teams]
    exact hw
  exact ⟨w.afterSave, team?_modTeam_same hteam Team.afterSave, rfl, rfl, rfl,
    show w.saveView.stash = t.saveView.stash from congrArg Team.stash hwt,
    show w.saveView.gids = t.saveView.gids from congrArg Team.gids hwt⟩

theorem group?_saveTeam {s : State} {team gid : Nat} {t : Team} {g : Group} (hmem : gid ∈ t.gids)
    (hg : s.group? gid = some g) : ∃ h, (s.saveTeam team t).group? gid = some h ∧ h.registers = g.registers ∧ h.lastPage = [] := by
  have hregs : (s.saveMemory team t).groupAs Group.registers gid = some g.registers := by
    rw [registers_saveMemory, State.groupAs, hg, Option.map_some]
  obtain ⟨w, hw, hwg⟩ := Option.map_eq_some_iff.mp hregs
  refine ⟨w.save, ?_, hwg, rfl⟩
  rw [saveTeam_eq, State.group?, modTeam_groups]
  exact group?_modGroups_of_mem (f := Group.save) (fun _ => rfl) hmem hw

theorem saveBars_bare {s : State} (h : s.bare) (team : Nat) (t : Team) : (s.saveBars team t).bare :=
  foldl_bare _ _ h fun _ x hs => bare_of_access ((modTeam_access ..).trans rfl) (barSettle_bare hs x.2.1 x.2.2)

theorem saveTeam_bare {s : State} (h : s.bare) (team : Nat) {t : Team} (hm : t.maps = []) : (s.saveTeam team t).bare := by
  have hmaps : ((s.saveBars team t).saveMaps team t).bare := by
    rw [saveMaps_eq, writeMapsBack_of_nil _ _ hm]
    exact bare_of_access (modTeam_access ..) (saveBars_bare h team t)
  have hmem : (s.saveMemory team t).bare := acquireCores_bare hmaps t.cores
  rw [saveTeam_eq]
  exact bare_of_access ((modTeam_access ..).trans (modGroups_access ..)) hmem

theorem quiescence_spec {s : State} {team : Nat} {t : Team} (ht : s.team? team = some t) (hpre : t.preempt ≠ none)
    (hsaved : t.saved = false) (hq : s.quiescent team t = true) :
    ∃ u v, s.completesIf (s.bare ∧ t.maps = []) (.quiescence team) u ∧ u.team? team = some v ∧ v.saved = true ∧
      v.preempt = none ∧ v.cores = [] ∧ v.stash = t.stash ∧ v.gids = t.gids ∧
      ∀ gid ∈ t.gids, ∀ g, s.group? gid = some g → ∃ h, u.group? gid = some h ∧
        h.vregs = g.vregs ∧ h.sregs = g.sregs ∧ h.preds = g.preds ∧ h.mode = g.mode ∧ h.dix = g.dix ∧ h.spill = g.spill ∧
        h.slot0.pc = g.slot0.pc ∧ h.slot1.pc = g.slot1.pc ∧ h.lastPage = [] := by
  have hexec : exec (.quiescence team) s = finish s (s.saveTeam team t) := by
    show execQuiescence team s = _
    simp [execQuiescence, ht, Option.isSome_iff_ne_none, hpre, hsaved, hq]
  obtain ⟨v, hv, hvsaved, hvpre, hvcores, hvstash, hvgids⟩ := team?_saveTeam ht
  refine ⟨_, v, completesIf_of_finish hexec fun ⟨hb, hm⟩ => settled_of_bare (saveTeam_bare hb team hm), hv, hvsaved, hvpre,
    hvcores, hvstash, hvgids, fun gid hmem g hg => ?_⟩
  obtain ⟨h, hh, hregs, hpage⟩ := group?_saveTeam (team := team) hmem hg
  exact ⟨h, hh, congrArg Registers.vregs hregs, congrArg Registers.sregs hregs, congrArg Registers.preds hregs,
    congrArg Registers.mode hregs, congrArg Registers.dix hregs, congrArg Registers.spill hregs,
    congrArg Registers.pc0 hregs, congrArg Registers.pc1 hregs, hpage⟩

end Sys2Proof.Machine
end

section
/-!
PROOFS. O45, third part: a saved team comes back (R148, R343).
-/
namespace Sys2Proof.Machine

/-! ### The cores of a team -/

/-- The barriers of a team's core are set. -/
def State.setBars (s : State) (t : Team) (bar : Nat → Nat → Bar) (c : Nat × Nat) : State :=
  (List.range t.bnum).foldl (fun s i => s.setBar c.1 (t.blo + i) { bar c.2 (t.blo + i) with last := s.cycle }) s

/-- What no write of a barrier touches, the barriers of a core leave. -/
theorem setBars_keeps {α : Type} {P : State → α} (hP : ∀ (s : State) bars, P { s with bars := bars } = P s) (s : State)
    (t : Team) (bar : Nat → Nat → Bar) (c : Nat × Nat) : P (s.setBars t bar c) = P s := by
  have step (l : List Nat) : ∀ s : State,
      P (l.foldl (fun s i => s.setBar c.1 (t.blo + i) { bar c.2 (t.blo + i) with last := s.cycle }) s) = P s := by
    induction l with
    | nil => intro s; rfl
    | cons i l ih => intro s; exact (ih _).trans (hP s _)
  exact step _ s

theorem takeCores_eq (s : State) (t : Team) (bar : Nat → Nat → Bar) : s.takeCores t bar =
    (t.cores.zip (List.range t.cores.length)).foldl (fun s c => (s.fenceAcq c.1 .device).setBars t bar c) s := rfl

/-- Taking cores touches memory and barriers alone. -/
theorem takeCores_keeps {α : Type} {P : State → α} (hP : ∀ (s : State) bars, P { s with bars := bars } = P s)
    (hmem : ∀ s t : State, t.beyond = s.beyond → P t = P s) (s : State) (t : Team) (bar : Nat → Nat → Bar) :
    P (s.takeCores t bar) = P s := by
  have step (l : List (Nat × Nat)) : ∀ s : State,
      P (l.foldl (fun s c => (s.fenceAcq c.1 .device).setBars t bar c) s) = P s := by
    induction l with
    | nil => intro s; rfl
    | cons c l ih => intro s; exact (ih _).trans ((setBars_keeps hP _ t bar c).trans (hmem _ _ (fenceAcq_beyond ..)))
  exact step _ s

theorem takeCores_groups (s : State) (t : Team) (bar : Nat → Nat → Bar) : (s.takeCores t bar).groups = s.groups :=
  takeCores_keeps (P := State.groups) (fun _ _ => rfl) (fun _ _ h => groups_of_beyond h) s t bar

theorem takeCores_bare {s : State} (h : s.bare) (t : Team) (bar : Nat → Nat → Bar) : (s.takeCores t bar).bare :=
  foldl_bare _ _ h fun s c hs => by
    rw [fenceAcq_of_empty (cache_of_bare hs)]
    exact bare_of_access (setBars_keeps (P := State.access) (fun _ _ => rfl) s t bar c) hs

/-! ### The groups of a restored team -/

/-- Group gid goes on where its index puts it among the placement units. -/
def State.restoreGroup (units : List Nat) (s : State) (gid : Nat) : State :=
  match s.group? gid with
  | none => s
  | some g =>
    let part := (units[g.g % max 1 units.length]?).getD 0
    s.setGroup gid (g.restore part (s.freeIndex part) s.cycle)

/-- The partition of a group among the placement units. -/
def unitOf (units : List Nat) (g : Group) : Nat := (units[g.g % max 1 units.length]?).getD 0

theorem group?_restoreGroup_same {units : List Nat} {s : State} {gid : Nat} {g : Group} (h : s.group? gid = some g) :
    ∃ r, (s.restoreGroup units gid).group? gid = some (g.restore (unitOf units g) r s.cycle) := by
  unfold State.restoreGroup
  rw [h]
  exact ⟨_, dget_dput_same _ _ _⟩

theorem group?_restoreGroup_other (units : List Nat) (s : State) {gid other : Nat} (h : other ≠ gid) :
    (s.restoreGroup units gid).group? other = s.group? other := by
  unfold State.restoreGroup
  split
  · rfl
  · exact dget_dput_other _ _ h

theorem restoreGroup_teams (units : List Nat) (s : State) (gid : Nat) : (s.restoreGroup units gid).teams = s.teams := by
  unfold State.restoreGroup
  split <;> rfl

theorem restoreGroup_access (units : List Nat) (s : State) (gid : Nat) : (s.restoreGroup units gid).access = s.access := by
  unfold State.restoreGroup
  split <;> rfl

/-- What a restore keeps of a group. -/
def Group.restoreView (g : Group) : Registers × Tab Nat := (g.registers, g.flags)

theorem restoreView_restoreGroup (units : List Nat) (s : State) (gid other : Nat) :
    (s.restoreGroup units gid).groupAs Group.restoreView other = s.groupAs Group.restoreView other := by
  by_cases hne : other = gid
  · subst hne
    cases hg : s.group? other with
    | none => simp only [State.groupAs, State.restoreGroup, hg]
    | some g =>
      obtain ⟨r, hr⟩ := group?_restoreGroup_same (units := units) hg
      rw [State.groupAs, State.groupAs, hg, hr]
      rfl
  · rw [State.groupAs, group?_restoreGroup_other units s hne]
    rfl

/-- The group stands on its partition among the placement units. -/
def State.onUnit (units : List Nat) (s : State) (gid : Nat) : Prop :=
  ∃ g, s.group? gid = some g ∧ g.part = unitOf units g

theorem onUnit_restoreGroup_same {units : List Nat} {s : State} {gid : Nat} {g : Group} (h : s.group? gid = some g) :
    (s.restoreGroup units gid).onUnit units gid := by
  obtain ⟨r, hr⟩ := group?_restoreGroup_same (units := units) h
  exact ⟨_, hr, rfl⟩

theorem onUnit_restoreGroup {units : List Nat} {s : State} {gid : Nat} (h : s.onUnit units gid) (other : Nat) :
    (s.restoreGroup units other).onUnit units gid := by
  obtain ⟨g, hg, hpart⟩ := h
  by_cases hne : gid = other
  · subst hne
    exact onUnit_restoreGroup_same hg
  · exact ⟨g, (group?_restoreGroup_other units s hne).trans hg, hpart⟩

/-- The groups of a list go on one after another. -/
def State.restoreGroups (units : List Nat) (s : State) (l : List Nat) : State := l.foldl (State.restoreGroup units) s

theorem restoreGroups_teams (units : List Nat) (l : List Nat) (s : State) : (s.restoreGroups units l).teams = s.teams := by
  induction l generalizing s with
  | nil => rfl
  | cons x l ih => exact (ih _).trans (restoreGroup_teams units s x)

theorem restoreGroups_access (units : List Nat) (l : List Nat) (s : State) : (s.restoreGroups units l).access = s.access := by
  induction l generalizing s with
  | nil => rfl
  | cons x l ih => exact (ih _).trans (restoreGroup_access units s x)

theorem restoreView_restoreGroups (units : List Nat) (l : List Nat) (s : State) (gid : Nat) :
    (s.restoreGroups units l).groupAs Group.restoreView gid = s.groupAs Group.restoreView gid :=
  groupAs_foldl _ gid l s fun s x => restoreView_restoreGroup units s x gid

theorem onUnit_restoreGroups {units : List Nat} (l : List Nat) {s : State} {gid : Nat} (h : s.onUnit units gid) :
    (s.restoreGroups units l).onUnit units gid := by
  induction l generalizing s with
  | nil => exact h
  | cons x l ih => exact ih (onUnit_restoreGroup h x)

theorem onUnit_restoreGroups_of_mem {units : List Nat} {l : List Nat} {s : State} {gid : Nat} {g : Group} (hmem : gid ∈ l)
    (h : s.group? gid = some g) : (s.restoreGroups units l).onUnit units gid := by
  induction l generalizing s g with
  | nil => cases hmem
  | cons x l ih =>
    by_cases hx : gid = x
    · subst hx
      exact onUnit_restoreGroups l (onUnit_restoreGroup_same h)
    · exact ih ((List.mem_cons.mp hmem).resolve_left hx) ((group?_restoreGroup_other units s hx).trans h)

/-! ### The read-only tiles (R148, R245) -/

/-- What of a team the fetch of a tile does not touch. -/
def Team.tileView (t : Team) : Team := { t with stash := [], maps := [] }

theorem tileView_stashPuts (slot : Nat) (l : List (Nat × Byte)) (at_ : Nat → Nat) (t : Team) :
    (l.foldl (fun (t : Team) e => t.stashPut slot (at_ e.1) e.2) t).tileView = t.tileView := by
  induction l generalizing t with
  | nil => rfl
  | cons e l ih => exact ih _

theorem refetch_cases (s : State) (team i p : Nat) : ∃ w : State, w.beyond = s.beyond ∧ (s.refetch team i p = w ∨
    ∃ f : Team → Team, (∀ t, (f t).tileView = t.tileView) ∧ s.refetch team i p = w.modTeam team f) := by
  unfold State.refetch
  split
  · exact ⟨s, rfl, .inl rfl⟩
  · dsimp only
    split
    · exact ⟨_, (readLoc_phys_beyond ..).trans (lookup_beyond ..), .inr ⟨_, fun t => tileView_stashPuts _ _ (fun k => _ + k) t, rfl⟩⟩
    · refine ⟨_, lookup_beyond .., .inr ⟨_, fun t => ?_, rfl⟩⟩
      rfl

/-- What neither memory nor the tile's team shows, a fetch of tiles keeps. -/
theorem refetchMaps_keeps {α : Type} {P : State → α} (team : Nat)
    (h : ∀ (s : State) (i p : Nat), P (s.refetch team i p) = P s) (s : State) : P (s.refetchMaps team) = P s := by
  have pieces (i : Nat) (l : List Nat) : ∀ s : State, P (l.foldl (fun s p => s.refetch team i p) s) = P s := by
    induction l with
    | nil => intro s; rfl
    | cons p l ih => intro s; exact (ih _).trans (h s i p)
  have tiles (t : Team) (l : List Nat) : ∀ s : State, P (l.foldl (fun s i => match t.maps[i]? with
      | none => s
      | some m => if m.rw then s else m.touched.foldl (fun s p => s.refetch team i p) s) s) = P s := by
    induction l with
    | nil => intro s; rfl
    | cons i l ih =>
      intro s
      refine (ih _).trans ?_
      dsimp only
      split
      · rfl
      · split
        · rfl
        · exact pieces i _ s
  unfold State.refetchMaps
  split
  · rfl
  · exact tiles _ _ s

theorem refetchMaps_groups (s : State) (team : Nat) : (s.refetchMaps team).groups = s.groups :=
  refetchMaps_keeps (P := State.groups) team (fun s i p => by
    obtain ⟨w, hw, h | ⟨f, -, h⟩⟩ := refetch_cases s team i p
    · rw [h, groups_of_beyond hw]
    · rw [h, modTeam_groups, groups_of_beyond hw]) s

theorem teamAs_refetchMaps (s : State) (team other : Nat) :
    (s.refetchMaps team).teamAs Team.tileView other = s.teamAs Team.tileView other :=
  refetchMaps_keeps (P := fun s => s.teamAs Team.tileView other) team (fun s i p => by
    obtain ⟨w, hw, h | ⟨f, hf, h⟩⟩ := refetch_cases s team i p
    · rw [h, teamAs_of_teams (teams_of_beyond hw)]
    · rw [h, teamAs_modTeam w team hf, teamAs_of_teams (teams_of_beyond hw)]) s

/-- A team without read-only tiles has nothing to fetch. -/
theorem refetchMaps_of_rw {s : State} {team : Nat} {t : Team} (ht : s.team? team = some t) (h : ∀ m ∈ t.maps, m.rw = true) :
    s.refetchMaps team = s := by
  have tiles (l : List Nat) : l.foldl (fun s i => match t.maps[i]? with
      | none => s
      | some m => if m.rw then s else m.touched.foldl (fun s p => s.refetch team i p) s) s = s := by
    induction l with
    | nil => rfl
    | cons i l ih =>
      rw [List.foldl_cons]
      cases hm : t.maps[i]? with
      | none => exact ih
      | some m =>
        simp only [h m (List.mem_of_getElem? hm), if_true]
        exact ih
  unfold State.refetchMaps
  simp only [ht]
  exact tiles _

/-! ### The restore (R148) -/

/-- The team that comes back on the cores and partitions `at_` of a cluster. -/
def Team.restored (t : Team) (cl cycle : Nat) (at_ : List (Nat × List Nat)) : Team :=
  { t with
    saved := false, cluster := cl, cores := at_.map (fun e => e.1), parts := at_.map (fun e => e.2), savedBars := []
    placedAt := cycle
    insts := t.insts.map (fun e => (e.1, { e.2 with
      part := ((at_.map (fun e => e.2)).flatten[e.1]?).getD 0, placed := cycle, busyTo := cycle })) }

/-- The cores taken, and the places of the groups before the save given up (R105). -/
def State.takeBack (s : State) (t t' : Team) : State :=
  (s.takeCores t' (fun c b => (dget t.savedBars (c * 2048 + b)).getD {})).modGroups t.gids (fun g => { g with part := 1280 })

/-- The team back on its cores, with its groups, before its tiles are fetched. -/
def State.putBack (s : State) (team : Nat) (t : Team) (cl : Nat) (at_ : List (Nat × List Nat)) : State :=
  ((s.takeBack t (t.restored cl s.cycle at_)).setTeam team (t.restored cl s.cycle at_)).restoreGroups
    (at_.map (fun e => e.2)).flatten t.gids

theorem team?_putBack (s : State) (team : Nat) (t : Team) (cl : Nat) (at_ : List (Nat × List Nat)) :
    (s.putBack team t cl at_).team? team = some (t.restored cl s.cycle at_) := by
  rw [State.team?, State.putBack, restoreGroups_teams]
  exact team?_setTeam ..

theorem group?_putBack {s : State} {gid : Nat} {t : Team} {g : Group} (team cl : Nat) (at_ : List (Nat × List Nat))
    (hmem : gid ∈ t.gids) (hg : s.group? gid = some g) : ∃ h, (s.putBack team t cl at_).group? gid = some h ∧
      h.restoreView = g.restoreView ∧ h.part = unitOf (at_.map (fun e => e.2)).flatten g := by
  have hfree : ((s.takeBack t (t.restored cl s.cycle at_)).setTeam team (t.restored cl s.cycle at_)).group? gid =
      some { g with part := 1280 } := by
    refine group?_modGroups_of_mem (f := fun g => { g with part := 1280 }) (fun _ => rfl) hmem ?_
    rw [State.group?, takeCores_groups]
    exact hg
  obtain ⟨h, hh, hpart⟩ := onUnit_restoreGroups_of_mem (units := (at_.map (fun e => e.2)).flatten) hmem hfree
  have hview : some h.restoreView = some g.restoreView := by
    have hv := restoreView_restoreGroups (at_.map (fun e => e.2)).flatten t.gids
      ((s.takeBack t (t.restored cl s.cycle at_)).setTeam team (t.restored cl s.cycle at_)) gid
    rw [State.groupAs, State.groupAs, hh, hfree] at hv
    exact hv
  have hindex : h.g = g.g := congrArg (fun v : Registers × Tab Nat => v.1.index) (Option.some.inj hview)
  exact ⟨h, hh, Option.some.inj hview, by rw [hpart, unitOf, unitOf, hindex]⟩

theorem putBack_bare {s : State} (hb : s.bare) (team : Nat) (t : Team) (cl : Nat) (at_ : List (Nat × List Nat)) :
    (s.putBack team t cl at_).bare :=
  bare_of_access ((restoreGroups_access ..).trans (modGroups_access ..)) (takeCores_bare hb _ _)

section
variable {s : State} {team : Nat} {t : Team} (ht : s.team? team = some t) (cl : Nat) (at_ : List (Nat × List Nat))
include ht

theorem restoreTeam_eq : s.restoreTeam team cl at_ = (s.putBack team t cl at_).refetchMaps team := by
  unfold State.restoreTeam
  simp only [ht]
  rfl

theorem restoreTeam_of_rw (h : ∀ m ∈ t.maps, m.rw = true) : s.restoreTeam team cl at_ = s.putBack team t cl at_ := by
  rw [restoreTeam_eq ht, refetchMaps_of_rw (team?_putBack ..) h]

theorem team?_restoreTeam : ∃ v, (s.restoreTeam team cl at_).team? team = some v ∧ v.saved = false ∧ v.cluster = cl ∧
    v.cores = at_.map (fun e => e.1) ∧ v.parts = at_.map (fun e => e.2) ∧
    ((∀ m ∈ t.maps, m.rw = true) → v.stash = t.stash) := by
  have hview : (s.restoreTeam team cl at_).teamAs Team.tileView team = some (t.restored cl s.cycle at_).tileView := by
    rw [restoreTeam_eq ht, teamAs_refetchMaps, State.teamAs, team?_putBack, Option.map_some]
  obtain ⟨v, hv, hvt⟩ := Option.map_eq_some_iff.mp hview
  refine ⟨v, hv, congrArg Team.saved hvt, congrArg Team.cluster hvt, congrArg Team.cores hvt, congrArg Team.parts hvt,
    fun hrw => ?_⟩
  rw [restoreTeam_of_rw ht cl at_ hrw, team?_putBack] at hv
  rw [← Option.some.inj hv]
  rfl

theorem group?_restoreTeam {gid : Nat} {g : Group} (hmem : gid ∈ t.gids) (hg : s.group? gid = some g) :
    ∃ h, (s.restoreTeam team cl at_).group? gid = some h ∧ h.restoreView = g.restoreView ∧
      h.part = unitOf (at_.map (fun e => e.2)).flatten g := by
  obtain ⟨h, hh, hview⟩ := group?_putBack team cl at_ hmem hg
  exact ⟨h, by rw [restoreTeam_eq ht, State.group?, refetchMaps_groups]; exact hh, hview⟩

end

/-- A team alone finds its room on the cluster given. -/
theorem restoreAll_singleton {s : State} {l : LaunchRec} {cl : Nat} {at_ : List (Nat × List Nat)} (hfits : s.fits l cl = some at_)
    (team : Nat) : s.restoreAll l [team] (some cl) = some (s.restoreTeam team cl at_) := by
  simp [State.restoreAll, hfits]

section
variable {s : State} {team cl : Nat} {t : Team} {gr : Grid} (ht : s.team? team = some t)
  (hgr : dget s.grids t.gridKey = some gr)
include ht hgr

theorem exec_teamRestore {at_ : List (Nat × List Nat)} (hsaved : t.saved = true) (hcl : cl < 40)
    (hmay : s.mayRestore t.ctx = true) (hterm : (s.ctx t.ctx).terminate = none) (hrank : s.outranked t.gridKey gr cl = false)
    (hfits : s.fits gr.lrec cl = some at_)
    (halone : gr.lrec.whole = false ∨ ∀ e ∈ s.teams, e.2.gridKey = t.gridKey → e = (team, t)) :
    exec (.teamRestore team cl) s = finish s (s.restoreTeam team cl at_) := by
  have hall := restoreAll_singleton hfits team
  show execTeamRestore team cl s = _
  cases hw : gr.lrec.whole with
  | false => simp [execTeamRestore, ht, hgr, hsaved, hmay, hterm, hrank, hw, hall, Nat.not_le.mpr hcl]
  | true =>
    have hone := halone.resolve_left (by simp [hw])
    have hany : s.teams.any (fun e => e.2.gridKey == t.gridKey && !e.2.saved) = false := by
      refine List.any_eq_false.mpr fun e he hbad => ?_
      simp only [Bool.and_eq_true, beq_iff_eq, Bool.not_eq_true'] at hbad
      rw [hone e he hbad.1, hsaved] at hbad
      exact absurd hbad.2 (by decide)
    have hothers : ((s.savedTeams t.gridKey).map (fun e => e.1)).filter (fun x => x != team) = [] := by
      refine List.filter_eq_nil_iff.mpr fun x hx => ?_
      obtain ⟨e, he, rfl⟩ := List.mem_map.mp hx
      simp only [State.savedTeams, List.mem_filter, Bool.and_eq_true, beq_iff_eq] at he
      rw [hone e he.1 he.2.1]
      simp
    simp [execTeamRestore, ht, hgr, hsaved, hmay, hterm, hrank, hw, hall, Nat.not_le.mpr hcl, hany, hothers]

theorem teamRestore_spec {at_ : List (Nat × List Nat)} (hsaved : t.saved = true) (hcl : cl < 40)
    (hmay : s.mayRestore t.ctx = true) (hterm : (s.ctx t.ctx).terminate = none) (hrank : s.outranked t.gridKey gr cl = false)
    (hfits : s.fits gr.lrec cl = some at_)
    (halone : gr.lrec.whole = false ∨ ∀ e ∈ s.teams, e.2.gridKey = t.gridKey → e = (team, t)) :
    ∃ u v, s.completesIf (s.bare ∧ ∀ m ∈ t.maps, m.rw = true) (.teamRestore team cl) u ∧ u.team? team = some v ∧
      v.saved = false ∧ v.cluster = cl ∧ v.cores = at_.map (fun e => e.1) ∧ v.parts = at_.map (fun e => e.2) ∧
      ((∀ m ∈ t.maps, m.rw = true) → v.stash = t.stash) ∧
      ∀ gid ∈ t.gids, ∀ g, s.group? gid = some g → ∃ h, u.group? gid = some h ∧
        h.part = ((v.parts.flatten)[g.g % max 1 v.parts.flatten.length]?).getD 0 ∧
        h.vregs = g.vregs ∧ h.sregs = g.sregs ∧ h.preds = g.preds ∧ h.mode = g.mode ∧ h.flags = g.flags := by
  have hexec := exec_teamRestore ht hgr hsaved hcl hmay hterm hrank hfits halone
  obtain ⟨v, hv, hvsaved, hvcl, hvcores, hvparts, hvstash⟩ := team?_restoreTeam ht cl at_
  refine ⟨_, v, completesIf_of_finish hexec fun ⟨hb, hrw⟩ => ?_, hv, hvsaved, hvcl, hvcores, hvparts, hvstash,
    fun gid hmem g hg => ?_⟩
  · rw [restoreTeam_of_rw ht cl at_ hrw]
    exact settled_of_bare (putBack_bare hb team t cl at_)
  · obtain ⟨h, hh, hview, hpart⟩ := group?_restoreTeam ht cl at_ hmem hg
    have hregs : h.registers = g.registers := congrArg Prod.fst hview
    exact ⟨h, hh, by rw [hpart, hvparts]; rfl, congrArg Registers.vregs hregs, congrArg Registers.sregs hregs,
      congrArg Registers.preds hregs, congrArg Registers.mode hregs, congrArg Prod.snd hview⟩

/-- Where the cluster serves another grid first, the team is not saved, its context may not come back, or a team of a grid
that comes back as a whole is still there, nothing happens. -/
theorem teamRestore_idle (hset : s.settled) (h : s.outranked t.gridKey gr cl = true ∨ t.saved = false ∨
      s.mayRestore t.ctx = false ∨ (gr.lrec.whole = true ∧ ∃ e ∈ s.teams, e.2.gridKey = t.gridKey ∧ e.2.saved = false)) :
    exec (.teamRestore team cl) s = .next s.settleNode := by
  have hexec : exec (.teamRestore team cl) s = finish s s := by
    show execTeamRestore team cl s = _
    unfold execTeamRestore
    simp only [ht, hgr]
    obtain hrank | hsaved | hmay | ⟨hw, e, he, hkey, hsaved⟩ := h
    · simp [hrank]
    · simp [hsaved]
    · simp [hmay]
    · have hany : s.teams.any (fun e => e.2.gridKey == t.gridKey && !e.2.saved) = true :=
        List.any_eq_true.mpr ⟨e, he, by simp [hkey, hsaved]⟩
      simp [hw, hany]
  rw [hexec, finish_of_settled hset]

end

end Sys2Proof.Machine
end

section
/-!
PROOFS. O45, fourth part: the retirement of a team (R46, R47, R344).
-/
namespace Sys2Proof.Machine

/-! ### The bit and the digest of a grid -/

theorem setBit_beyond (s : State) (gr : Grid) (t : Nat) : (s.setBit gr t).beyond = s.beyond := by
  have places := vplaces_beyond gr.ctx true 1 s (gr.lrec.cbmap + 64 + w64n (t / 8))
  unfold State.setBit
  split
  · rfl
  · dsimp only
    split
    · exact (event_beyond ..).trans places
    · exact (foldl_beyond _ _ _ fun s pa => (devWrite_beyond ..).trans (devRead_beyond s 0 pa)).trans places

theorem setBit_of_unmapped (s : State) {gr : Grid} (h : gr.lrec.cbmap = 0) (t : Nat) : s.setBit gr t = s := if_pos h

theorem regionMsg_beyond (s : State) (gr : Grid) (out : Word64) (size : Nat) : (s.regionMsg gr out size).1.beyond = s.beyond := by
  unfold State.regionMsg
  split
  · rfl
  · dsimp only
    split
    · exact vread_beyond s gr.ctx size out
    · exact (event_beyond ..).trans (vread_beyond s gr.ctx size out)

/-- A grid that completes is marked so, and its regions and bitmap are memory. -/
theorem completeGrid_cases (s : State) (key : Nat) (gr : Grid) : ∃ (w : State) (d : BitVec 256), w.beyond = s.beyond ∧
    s.completeGrid key gr = { w with grids := dput w.grids key { gr with complete := true, digest := some d } } ∧
    (gr.lrec.cbmap = 0 → gr.lrec.osz0 = 0 → gr.lrec.osz1 = 0 → w = s) := by
  have head : (if gr.lrec.cbmap = 0 then s else s.bitmapWrite gr.ctx (toBytes 1 1) (gr.lrec.cbmap + 16) gr.gridId).beyond =
      s.beyond := by
    split
    · rfl
    · exact bitmapWrite_beyond ..
  refine ⟨_, _, ((regionMsg_beyond ..).trans (regionMsg_beyond ..)).trans head, rfl, fun hc h0 h1 => ?_⟩
  simp [State.regionMsg, hc, h0, h1]

/-! ### A team leaves its cores -/

/-- The releases on the cores of a team. -/
def State.releaseCores (s : State) (cores : List Nat) : State := cores.foldl (fun s c => s.fenceRel c .device) s

theorem releaseCores_beyond (s : State) (cores : List Nat) : (s.releaseCores cores).beyond = s.beyond :=
  foldl_beyond _ _ s fun s c => fenceRel_beyond s c .device

theorem releaseCores_bare {s : State} (h : s.bare) (cores : List Nat) : (s.releaseCores cores).bare :=
  foldl_bare _ _ h fun s c hs => by rwa [fenceRel_of_empty (cache_of_bare hs) hs.2.2]

/-- The barriers of a list go back to their reset values. -/
def State.clearBars (s : State) (l : List (Nat × Nat × Nat)) : State := l.foldl (fun s b => s.setBar b.2.1 b.2.2 {}) s

theorem clearBars_keeps {α : Type} {P : State → α} (hP : ∀ (s : State) bars, P { s with bars := bars } = P s)
    (l : List (Nat × Nat × Nat)) (s : State) : P (s.clearBars l) = P s := by
  induction l generalizing s with
  | nil => rfl
  | cons b l ih => exact (ih _).trans (hP s _)

/-- The state in which a team's work on memory is at its end, as it retires. -/
def State.closeTeam (s : State) (team : Nat) (t : Team) : State := (s.endMaps team t).releaseCores t.cores

/-- The team's reservation of the image pool returned (R147). -/
def State.returnPool (s : State) (team : Nat) (t : Team) : State :=
  let w := s.closeTeam team t
  w.setCtx t.ctx { w.ctx t.ctx with poolUsed := (w.ctx t.ctx).poolUsed - t.pool }

/-- The state in which a team has gone, before its grid counts it. -/
def State.dropTeam (s : State) (team : Nat) (t : Team) : State :=
  let v := (s.returnPool team t).clearBars t.barList
  { v with teams := ddel v.teams team, victims := v.victims.filter (fun v => v != team) }

/-- The grid counts a team that has gone. -/
def State.countRetired (s : State) (key : Nat) (gr : Grid) (t : Nat) : State :=
  let w := { s.setBit gr t with bitAt := s.cycle + 1 }
  { w with grids := dput w.grids key { gr with retired := t :: gr.retired } }

section
variable (s : State) (team : Nat) (t : Team)

/-- What neither memory nor a team's mappings show, the end of its work on memory keeps. -/
theorem closeTeam_keeps {α : Type} {P : State → α} (hmem : ∀ s t : State, t.beyond = s.beyond → P t = P s)
    (hteams : ∀ (s : State) teams, P { s with teams := teams } = P s) : P (s.closeTeam team t) = P s := by
  have modTeam (w : State) (f : Team → Team) : P (w.modTeam team f) = P w := by
    unfold State.modTeam
    split
    · rfl
    · exact hteams w _
  refine (hmem _ _ (releaseCores_beyond _ t.cores)).trans ((modTeam _ _).trans ?_)
  refine writeMapsBack_keeps (P := P) team t (fun s core i => ?_) s
  obtain ⟨w, hw, h | ⟨m, h⟩⟩ := mapWriteBack_cases s t.ctx core team i 1 none
  · rw [h, hmem _ _ hw]
  · rw [h, modTeam, hmem _ _ hw]

theorem closeTeam_bare (h : s.bare) (hm : t.maps = []) : (s.closeTeam team t).bare := by
  refine releaseCores_bare ?_ t.cores
  show ((s.writeMapsBack team t).modTeam team _).bare
  rw [writeMapsBack_of_nil s team hm]
  exact bare_of_access (modTeam_access ..) h

theorem dropTeam_grids : (s.dropTeam team t).grids = s.grids :=
  (clearBars_keeps (P := State.grids) (fun _ _ => rfl) t.barList (s.returnPool team t)).trans
    (closeTeam_keeps (P := State.grids) s team t (fun _ _ h => grids_of_beyond h) (fun _ _ => rfl))

theorem dropTeam_team? : (s.dropTeam team t).team? team = none := dget_ddel_same _ team

theorem dropTeam_poolUsed : ((s.dropTeam team t).ctx t.ctx).poolUsed = (s.ctx t.ctx).poolUsed - t.pool := by
  have hclose : (s.closeTeam team t).ctxs = s.ctxs :=
    closeTeam_keeps (P := State.ctxs) s team t (fun _ _ h => ctxs_of_beyond h) (fun _ _ => rfl)
  have hdrop : (s.dropTeam team t).ctxs = (s.returnPool team t).ctxs :=
    clearBars_keeps (P := State.ctxs) (fun _ _ => rfl) t.barList (s.returnPool team t)
  rw [State.ctx, hdrop]
  refine (congrArg Ctx.poolUsed (tget_tset_same ({} : Ctx) _ t.ctx _)).trans ?_
  rw [State.ctx, State.ctx, hclose]

theorem dropTeam_bare (h : s.bare) (hm : t.maps = []) : (s.dropTeam team t).bare :=
  bare_of_access (clearBars_keeps (P := State.access) (fun _ _ => rfl) t.barList (s.returnPool team t))
    (closeTeam_bare s team t h hm)

end

/-! ### The grid of a team that has gone -/

theorem countRetired_cases (s : State) (key : Nat) (gr : Grid) (t : Nat) : ∃ w : State, w.beyond = s.beyond ∧
    s.countRetired key gr t =
      { w with bitAt := s.cycle + 1, grids := dput w.grids key { gr with retired := t :: gr.retired } } ∧
    (gr.lrec.cbmap = 0 → w = s) :=
  ⟨s.setBit gr t, setBit_beyond s gr t, rfl, fun h => setBit_of_unmapped s h t⟩

/-- The grid's record of a team that has retired, the digest of a grid that completes, and what else they keep. -/
theorem retireTeam_of_grid {s : State} {team : Nat} {t : Team} {gr : Grid} (hgr : dget s.grids t.gridKey = some gr) :
    (s.retireTeam team t).teams = (s.dropTeam team t).teams ∧ (s.retireTeam team t).ctxs = (s.dropTeam team t).ctxs ∧
    (∃ h, dget (s.retireTeam team t).grids t.gridKey = some h ∧ h.retired = t.index :: gr.retired ∧
      (h.retired.length = gr.lrec.teams → h.complete = true)) ∧
    (gr.lrec.cbmap = 0 → gr.lrec.osz0 = 0 → gr.lrec.osz1 = 0 →
      (s.retireTeam team t).access = (s.dropTeam team t).access) := by
  obtain ⟨w, hw, hcount, hwnone⟩ := countRetired_cases (s.dropTeam team t) t.gridKey gr t.index
  have hretire : s.retireTeam team t =
      if (t.index :: gr.retired).length = gr.lrec.teams then
        ((s.dropTeam team t).countRetired t.gridKey gr t.index).completeGrid t.gridKey { gr with retired := t.index :: gr.retired }
      else (s.dropTeam team t).countRetired t.gridKey gr t.index := by
    show (match dget (s.dropTeam team t).grids t.gridKey with | none => _ | some gr => _) = _
    rw [dropTeam_grids, hgr]
    rfl
  rw [hretire]
  split
  next hlen =>
    obtain ⟨v, d, hv, hcomplete, hvnone⟩ := completeGrid_cases ((s.dropTeam team t).countRetired t.gridKey gr t.index)
      t.gridKey { gr with retired := t.index :: gr.retired }
    rw [hcomplete]
    refine ⟨?_, ?_, ⟨_, dget_dput_same _ _ _, rfl, fun _ => rfl⟩, fun hc h0 h1 => ?_⟩
    · show v.teams = _
      rw [teams_of_beyond hv, hcount, ← teams_of_beyond hw]
    · show v.ctxs = _
      rw [ctxs_of_beyond hv, hcount, ← ctxs_of_beyond hw]
    · show v.access = _
      rw [hvnone hc h0 h1, hcount, hwnone hc]
      rfl
  next hlen =>
    rw [hcount]
    refine ⟨teams_of_beyond (t := w) hw, ctxs_of_beyond (t := w) hw, ⟨_, dget_dput_same _ _ _, rfl, fun h => absurd h hlen⟩, fun hc h0 h1 => ?_⟩
    rw [hwnone hc]
    rfl

theorem retireTeam_of_no_grid {s : State} {team : Nat} {t : Team} (hgr : dget s.grids t.gridKey = none) :
    s.retireTeam team t = s.dropTeam team t := by
  show (match dget (s.dropTeam team t).grids t.gridKey with | none => _ | some gr => _) = _
  rw [dropTeam_grids, hgr]
  rfl

theorem teamRetire_spec {s : State} {team : Nat} {t : Team} (ht : s.team? team = some t) (hdone : s.teamDone team t = true) :
    ∃ u, s.completesIf (s.bare ∧ t.maps = [] ∧ ∀ gr, dget s.grids t.gridKey = some gr →
        gr.lrec.cbmap = 0 ∧ gr.lrec.osz0 = 0 ∧ gr.lrec.osz1 = 0) (.teamRetire team) u ∧ u.team? team = none ∧
      (u.ctx t.ctx).poolUsed = (s.ctx t.ctx).poolUsed - t.pool ∧
      ∀ gr, dget s.grids t.gridKey = some gr → ∃ h, dget u.grids t.gridKey = some h ∧ h.retired = t.index :: gr.retired ∧
        (h.retired.length = gr.lrec.teams → h.complete = true) := by
  have hexec : exec (.teamRetire team) s = finish s (s.retireTeam team t) := by
    show execTeamRetire team s = _
    simp [execTeamRetire, ht, hdone]
  refine ⟨_, completesIf_of_finish hexec fun ⟨hb, hm, hsmall⟩ => ?_, ?_⟩
  · have hdrop := dropTeam_bare s team t hb hm
    cases hgr : dget s.grids t.gridKey with
    | none =>
      rw [retireTeam_of_no_grid hgr]
      exact settled_of_bare hdrop
    | some gr =>
      obtain ⟨hc, h0, h1⟩ := hsmall gr hgr
      obtain ⟨-, -, -, haccess⟩ := retireTeam_of_grid (team := team) hgr
      exact settled_of_bare (bare_of_access (haccess hc h0 h1) hdrop)
  · cases hgr : dget s.grids t.gridKey with
    | none =>
      rw [retireTeam_of_no_grid hgr]
      exact ⟨dropTeam_team? s team t, dropTeam_poolUsed s team t, fun gr h => absurd h (by simp)⟩
    | some gr =>
      obtain ⟨hteams, hctxs, hgrid, -⟩ := retireTeam_of_grid (team := team) hgr
      refine ⟨?_, ?_, fun gr' h => Option.some.inj h ▸ hgrid⟩
      · rw [State.team?, hteams]
        exact dropTeam_team? s team t
      · rw [State.ctx, hctxs]
        exact dropTeam_poolUsed s team t

end Sys2Proof.Machine
end

/-! PROOFS. GroupAndTeamLife (O45): its clause on the termination of a context says nothing of a number that the table of the
queues lists twice, and fails for it. -/
section
namespace Sys2Proof.Machine

/-- A group of context 1 whose DEQ waits on queue 5. -/
def deqWaiter : Group :=
  { team := 9, g := 0, gridKey := 0, ctx := 1,
    ops := [(1, { slot := 0, flag := none, counts := 0, wordAt := 0, half := false,
                  kind := .deq 5 0 ⟨0, 0, .phys 0⟩ none })] }

/-- Context 0 is to be terminated and nothing of it is left. Number 5 stands twice in the table of the queues: the machine
reads the first entry, of context 1, which holds an entry, a waiter for it and a ring where no memory is (R211); the second
one is of context 0 and has no waiters. -/
def queueListedTwice : State :=
  { State.reset with
    ready := 0x00FFFFFFFFFF3FFF
    ctxs := [(0, { terminate := some (1, 0, 0, 0) })]
    queues := [(5, { qbase := 2 ^ 41, en := true, ctx := 1, tail := 1, waiters := [.item 7 1] }), (5, { en := true })]
    groups := [(7, deqWaiter)] }

theorem queueListedTwice_clear : queueListedTwice.clear := by
  refine ⟨⟨⟨⟨rfl, rfl, rfl, rfl, rfl⟩, rfl, rfl, rfl, rfl⟩, rfl, rfl⟩, rfl, rfl, ?_⟩
  decide

/-- Its ring of termination records lies in the device's own memory. -/
theorem queueListedTwice_ring :
    ∀ k < 32, isDevice (ringAt queueListedTwice.tring queueListedTwice.trpos.toNat + k) = true := by
  decide +kernel

/-- Disabling queue 5 gives the waiter of its first entry what its ring holds: an address that does not exist. -/
theorem contextTermination_queueListedTwice :
    exec (.contextTermination 0) queueListedTwice matches .fault (.absentAddress 0x20000000000) := by
  decide +kernel

/-- Refutes O45 in its last clause, the termination of a context: for a number that the table of the queues lists twice,
the hypothesis on the waiters speaks of the entry of the context, and the machine disables the entry that it finds first,
another context's. The other clauses hold. -/
theorem not_groupAndTeamLife : ¬ Obligations.GroupAndTeamLife := by
  unfold Obligations.GroupAndTeamLife
  rintro ⟨-, -, -, -, -, -, -, -, contextTermination⟩
  obtain ⟨u, completes, -⟩ := contextTermination queueListedTwice 0 1 0 0 0 rfl rfl
  have answers := completes (.inl ⟨queueListedTwice_clear, queueListedTwice_ring, by decide, by decide⟩)
  have faults := contextTermination_queueListedTwice
  rw [answers] at faults
  cases faults

end Sys2Proof.Machine
end

/-! PROOFS. DispatchSteps (O46): its clause on the commit of a quantum leaves out that the grid's context goes on (R411). -/
section
namespace Sys2Proof.Machine

/-! ### The requests at the end of a step leave the grids alone -/

section
variable (s : State)

@[simp] theorem setPort_grids (p : Nat) (x : Port) : (s.setPort p x).grids = s.grids := rfl

@[simp] theorem switchTx_grids (p : Nat) : (s.switchTx p).grids = s.grids := by
  unfold State.switchTx
  dsimp only
  repeat' split
  all_goals rfl

@[simp] theorem sendNew_grids (p : Nat) (f : Flit) : (s.sendNew p f).grids = s.grids := by
  simp [State.sendNew]

@[simp] theorem sendFlits_grids (p : Nat) (l : List Flit) : (s.sendFlits p l).grids = s.grids := by
  induction l generalizing s with
  | nil => rfl
  | cons f t ih =>
    unfold State.sendFlits
    split
    · exact (ih _).trans (sendNew_grids s p f)
    · rfl

@[simp] theorem sendPackets_grids (p : Nat) (l kept : List (List Flit)) :
    (s.sendPackets p l kept).grids = s.grids := by
  induction l generalizing s kept with
  | nil => rfl
  | cons f t ih =>
    unfold State.sendPackets
    dsimp only
    split
    · exact (ih _ _).trans (sendFlits_grids s p f)
    · exact ih _ _

@[simp] theorem drain_grids (p : Nat) : (s.drain p).grids = s.grids := by
  simp [State.drain]

@[simp] theorem place_grids (p tag : Nat) (front : Bool) (r : PortReq) : (s.place p tag front r).grids = s.grids := rfl

@[simp] theorem terminate_grids (c : Nat) (reason : BitVec 8) (codes : BitVec 16) (detail grid : Word64) :
    (s.terminate c reason codes detail grid).grids = s.grids := by
  unfold State.terminate
  dsimp only
  split <;> rfl

@[simp] theorem pieceLost_grids (key n : Nat) : (s.pieceLost key n).grids = s.grids := by
  unfold State.pieceLost
  split <;> rfl

@[simp] theorem reqLost_grids (r : PortReq) : (s.reqLost r).grids = s.grids := by
  unfold State.reqLost
  split
  · exact pieceLost_grids ..
  · exact terminate_grids ..
  · split <;> rfl

@[simp] theorem request_grids (r : PortReq) : (s.request r).grids = s.grids := by
  unfold State.request
  repeat' split
  all_goals simp

theorem requests_grids {α : Type} (f : α → PortReq) (l : List α) :
    (l.foldl (fun t k => t.request (f k)) s).grids = s.grids := by
  induction l generalizing s with
  | nil => rfl
  | cons k l ih => exact (ih _).trans (request_grids s _)

@[simp] theorem settleNode_grids : s.settleNode.grids = s.grids := by
  unfold State.settleNode
  split
  · rfl
  · exact requests_grids ..

end

/-! ### A grid whose context is to end -/

/-- A deterministic grid with quanta of 256 instructions. -/
def meetingGrid : Grid :=
  { lrec := { parseLaunch (List.replicate 128 0) with det := true, quant := 256 }
    gridId := 0, ctx := 0, queue := 0, serial := 0, recAt := 0, arg := 0, seed := 0, order := 1 }

/-- The grid's one group stands at the meeting, with an empty brine, and their context is to be terminated. -/
def meetingInEndedContext : State :=
  { State.reset with
    ctxs := [(0, { terminate := some (1, 0, 0, 0) })]
    grids := [(1, meetingGrid)]
    groups := [(7, { team := 9, g := 0, gridKey := 1, ctx := 0, det := true, met := true })] }

theorem meetingInEndedContext_bare : meetingInEndedContext.bare :=
  ⟨⟨⟨rfl, rfl, rfl, rfl, rfl⟩, rfl, rfl, rfl, rfl⟩, rfl, rfl⟩

/-- Every group has met, so that the statement promises a commit. -/
theorem meetingInEndedContext_allMet : meetingInEndedContext.allMet 1 meetingGrid = true := by
  decide +kernel

/-- No quantum of a grid is committed once its context is to end (R411). -/
theorem quantumCommit_of_terminate {s : State} {key : Nat} {gr : Grid} (hgr : dget s.grids key = some gr)
    (hend : (s.ctx gr.ctx).terminate.isNone = false) : exec (.quantumCommit key) s = finish s s := by
  show execQuantumCommit key s = _
  simp [execQuantumCommit, hgr, hend]

/-- Refutes O46 in its last clause, the commit of a quantum: it takes no hypothesis on the grid's context, and a grid whose
context is to be terminated stays in its quantum. -/
theorem not_dispatchSteps : ¬ Obligations.DispatchSteps := by
  unfold Obligations.DispatchSteps
  rintro ⟨-, -, -, -, -, -, -, -, -, -, quantumCommit⟩
  obtain ⟨u, completes, ⟨x, hx, hquantum⟩, -⟩ :=
    quantumCommit meetingInEndedContext 1 meetingGrid rfl rfl rfl meetingInEndedContext_allMet (by decide +kernel)
  have answers := completes (.inl ⟨meetingInEndedContext_bare, by decide +kernel⟩)
  have stays := quantumCommit_of_terminate (s := meetingInEndedContext) (key := 1) (gr := meetingGrid) rfl rfl
  rw [answers, finish_of_settled meetingInEndedContext_bare.1.1, Host.Outcome.next.injEq] at stays
  have grids : u.grids = meetingInEndedContext.grids := by
    rw [← settleNode_grids u, stays, settleNode_grids]
  rw [grids] at hx
  cases hx
  exact absurd hquantum (by decide)

end Sys2Proof.Machine
end

section
/-!
PROOFS. O55 and O56: the encoder and the six tables (R60 to R67, R77 to R83).
-/
namespace Sys2Proof

/-! ### Fields of a word put together from fields -/

theorem bits_formOfBits (b : BitVec 2) : (formOfBits b).bits = b := by decide +revert

@[simp] theorem formOfBits_bits (f : Form) : formOfBits f.bits = f := by cases f <;> rfl

section
variable {v w start len : Nat} (x : BitVec v) (y : BitVec w)

-- stated with `BitVec.append`, whose width is no argument: a word of 64 bits is the append of two widths that make 64
theorem extract_append_high (h : w ≤ start) :
    (BitVec.append x y).extractLsb' start len = x.extractLsb' (start - w) len :=
  BitVec.extractLsb'_append_eq_of_le h

theorem extract_append_low (h : start + len ≤ w) :
    (BitVec.append x y).extractLsb' start len = y.extractLsb' start len :=
  BitVec.extractLsb'_append_eq_of_add_le h

theorem bit_append (i : Nat) :
    (BitVec.append x y).getLsbD i = if i < w then y.getLsbD i else x.getLsbD (i - w) :=
  BitVec.getLsbD_append

/-- Neighbouring fields join. -/
theorem append_extract {s₁ s₂ l₁ l₂ : Nat} (h : s₂ = s₁ + l₁) :
    BitVec.append (x.extractLsb' s₂ l₂) (x.extractLsb' s₁ l₁) = x.extractLsb' s₁ (l₂ + l₁) :=
  BitVec.extractLsb'_append_extractLsb'_eq_extractLsb' h

/-- A field of one bit. -/
theorem ofBool_bit (i : Nat) : BitVec.ofBool (x.getLsbD i) = x.extractLsb' i 1 := by
  ext j hj
  obtain rfl : j = 0 := by omega
  simp

end

/-! ### The word of the fields that a format reads (R62 to R67) -/

section
variable (w : Word64)

/-- The formats without reserved bits. -/
theorem enc_fields : encR (opOf w) (fieldsR w) = w ∧ encI (opOf w) (fieldsI w) = w ∧ encM (opOf w) (fieldsM w) = w ∧
    encB (opOf w) (fieldsB w) = w := by
  simp [encR, encI, encM, encB, fieldsR, fieldsI, fieldsM, fieldsB, opOf, formOf, negOf, predOf, modOf, bits_formOfBits,
    HAppend.hAppend, append_extract, ofBool_bit, -BitVec.append_eq, -BitVec.getLsbD_eq_getElem]

theorem encW_fieldsW (h : modOf w = 0#3) : encW (opOf w) (fieldsW w) = w := by
  rw [encW, ← h]
  simp [fieldsW, opOf, formOf, negOf, predOf, modOf, bits_formOfBits, HAppend.hAppend, append_extract, ofBool_bit,
    -BitVec.append_eq, -BitVec.getLsbD_eq_getElem]

theorem encX_fieldsX (h : modOf w = 0#3) (h0 : w.extractLsb' 0 5 = 0#5) : encX (opOf w) (fieldsX w) = w := by
  rw [encX, ← h, ← h0]
  simp [fieldsX, opOf, formOf, negOf, predOf, modOf, bits_formOfBits, HAppend.hAppend, append_extract, ofBool_bit,
    -BitVec.append_eq, -BitVec.getLsbD_eq_getElem]

theorem encF_fieldsF (h : w.extractLsb' 4 3 = 0#3) : encF (opOf w) (fieldsF w) = w := by
  rw [encF, ← h]
  simp [fieldsF, opOf, formOf, negOf, predOf, modOf, bits_formOfBits, HAppend.hAppend, append_extract, ofBool_bit,
    -BitVec.append_eq, -BitVec.getLsbD_eq_getElem]

theorem encQ_fieldsQ (h0 : w.extractLsb' 0 8 = 0#8) : encQ (opOf w) (modOf w) (fieldsQ w) = w := by
  rw [encQ, ← h0]
  simp [fieldsQ, opOf, formOf, negOf, predOf, modOf, bits_formOfBits, HAppend.hAppend, append_extract, ofBool_bit,
    -BitVec.append_eq, -BitVec.getLsbD_eq_getElem]

theorem extract_form : w.extractLsb' 55 2 = (formOf w).bits := (bits_formOfBits _).symm

theorem encMX_fieldsMX (hf : formOf w = .f00) (hn : negOf w = false) (hp : predOf w = 0#3) (h0 : w.extractLsb' 0 8 = 0#8) :
    encMX (opOf w) (fieldsMX w) = w := by
  have hform : w.extractLsb' 55 2 = 0#2 := by rw [extract_form, hf]; rfl
  have hneg : w.extractLsb' 54 1 = 0#1 := by rw [← ofBool_bit]; exact congrArg BitVec.ofBool hn
  rw [encMX, ← hform, ← hneg, ← hp, ← h0]
  simp [fieldsMX, opOf, predOf, modOf, HAppend.hAppend, append_extract, ofBool_bit,
    -BitVec.append_eq, -BitVec.getLsbD_eq_getElem]

/-- YIELD and NOP have no fields. -/
def noFields : BFields := ⟨.f11, false, 0, 0, 0, 0⟩

theorem encB_noFields (op : BitVec 7) : encB op noFields = op ++ 3#2 ++ 0#55 := by decide +revert

theorem encB_of_zero (hf : formOf w = .f11) (h0 : w.extractLsb' 0 55 = 0#55) : encB (opOf w) noFields = w := by
  have hform : w.extractLsb' 55 2 = 3#2 := by rw [extract_form, hf]; rfl
  rw [encB_noFields, ← hform, ← h0]
  simp [opOf, HAppend.hAppend, append_extract, -BitVec.append_eq]

end

/-! ### The fields of a format's word -/

section
variable (op : BitVec 7)

theorem read_encR (f : RFields) : opOf (encR op f) = op ∧ formOf (encR op f) = f.form ∧ fieldsR (encR op f) = f := by
  simp [encR, fieldsR, opOf, formOf, negOf, predOf, modOf, HAppend.hAppend, extract_append_high, extract_append_low, bit_append,
    -BitVec.append_eq, -BitVec.getLsbD_eq_getElem]

theorem read_encI (f : IFields) : opOf (encI op f) = op ∧ formOf (encI op f) = f.form ∧ fieldsI (encI op f) = f := by
  simp [encI, fieldsI, opOf, formOf, negOf, predOf, modOf, HAppend.hAppend, extract_append_high, extract_append_low, bit_append,
    -BitVec.append_eq, -BitVec.getLsbD_eq_getElem]

theorem read_encM (f : MFields) : opOf (encM op f) = op ∧ formOf (encM op f) = f.form ∧ fieldsM (encM op f) = f := by
  simp [encM, fieldsM, opOf, formOf, negOf, predOf, modOf, HAppend.hAppend, extract_append_high, extract_append_low, bit_append,
    -BitVec.append_eq, -BitVec.getLsbD_eq_getElem]

theorem read_encB (f : BFields) : opOf (encB op f) = op ∧ formOf (encB op f) = f.form ∧ fieldsB (encB op f) = f := by
  simp [encB, fieldsB, opOf, formOf, negOf, predOf, modOf, HAppend.hAppend, extract_append_high, extract_append_low, bit_append,
    -BitVec.append_eq, -BitVec.getLsbD_eq_getElem]

theorem read_encW (f : WFields) : opOf (encW op f) = op ∧ formOf (encW op f) = f.form ∧ modOf (encW op f) = 0#3 ∧
    fieldsW (encW op f) = f := by
  simp [encW, fieldsW, opOf, formOf, negOf, predOf, modOf, HAppend.hAppend, extract_append_high, extract_append_low, bit_append,
    -BitVec.append_eq, -BitVec.getLsbD_eq_getElem]

theorem read_encX (f : XFields) : opOf (encX op f) = op ∧ formOf (encX op f) = f.form ∧ modOf (encX op f) = 0#3 ∧
    (encX op f).extractLsb' 0 5 = 0#5 ∧ fieldsX (encX op f) = f := by
  simp [encX, fieldsX, opOf, formOf, negOf, predOf, modOf, HAppend.hAppend, extract_append_high, extract_append_low, bit_append,
    -BitVec.append_eq, -BitVec.getLsbD_eq_getElem]

theorem read_encF (f : FFields) : opOf (encF op f) = op ∧ formOf (encF op f) = f.form ∧
    (encF op f).extractLsb' 4 3 = 0#3 ∧ fieldsF (encF op f) = f := by
  simp [encF, fieldsF, opOf, formOf, negOf, predOf, modOf, HAppend.hAppend, extract_append_high, extract_append_low, bit_append,
    -BitVec.append_eq, -BitVec.getLsbD_eq_getElem]

theorem read_encQ (sub : BitVec 3) (f : QFields) : opOf (encQ op sub f) = op ∧ formOf (encQ op sub f) = f.form ∧
    modOf (encQ op sub f) = sub ∧ (encQ op sub f).extractLsb' 0 8 = 0#8 ∧ (encQ op sub f).getLsbD 8 = f.fsel ∧
    fieldsQ (encQ op sub f) = f := by
  simp [encQ, fieldsQ, opOf, formOf, negOf, predOf, modOf, HAppend.hAppend, extract_append_high, extract_append_low, bit_append,
    -BitVec.append_eq, -BitVec.getLsbD_eq_getElem]

theorem read_encMX (f : MXFields) : opOf (encMX op f) = op ∧ formOf (encMX op f) = .f00 ∧ negOf (encMX op f) = false ∧
    predOf (encMX op f) = 0#3 ∧ (encMX op f).extractLsb' 0 8 = 0#8 ∧ fieldsMX (encMX op f) = f := by
  simp [encMX, fieldsMX, opOf, formOf, negOf, predOf, modOf, HAppend.hAppend, extract_append_high, extract_append_low,
    bit_append, formOfBits, -BitVec.append_eq, -BitVec.getLsbD_eq_getElem]

end

/-! ### One row of a table: what it reads of its own words, and whose words it reads -/

section
variable (op : BitVec 7) (fs : List Form)

@[simp] theorem asR_encR (k : RFields → Instr) (f : RFields) :
    asR (encR op f) fs k = if fs.contains f.form then some (k f) else none := by
  obtain ⟨-, hform, hf⟩ := read_encR op f
  rw [asR, hform, hf]

@[simp] theorem asI_encI (k : IFields → Instr) (f : IFields) :
    asI (encI op f) fs k = if fs.contains f.form then some (k f) else none := by
  obtain ⟨-, hform, hf⟩ := read_encI op f
  rw [asI, hform, hf]

@[simp] theorem asM_encM (k : MFields → Instr) (f : MFields) :
    asM (encM op f) fs k = if fs.contains f.form then some (k f) else none := by
  obtain ⟨-, hform, hf⟩ := read_encM op f
  rw [asM, hform, hf]

@[simp] theorem asB_encB (k : BFields → Instr) (f : BFields) :
    asB (encB op f) fs k = if fs.contains f.form then some (k f) else none := by
  obtain ⟨-, hform, hf⟩ := read_encB op f
  rw [asB, hform, hf]

@[simp] theorem asW_encW (k : WFields → Instr) (f : WFields) :
    asW (encW op f) fs k = if fs.contains f.form then some (k f) else none := by
  obtain ⟨-, hform, hmod, hf⟩ := read_encW op f
  rw [asW, hform, hmod, hf]
  simp

@[simp] theorem asX_encX (k : XFields → Instr) (f : XFields) :
    asX (encX op f) fs k = if fs.contains f.form then some (k f) else none := by
  obtain ⟨-, hform, hmod, hzero, hf⟩ := read_encX op f
  rw [asX, hform, hmod, hzero, hf]
  simp

@[simp] theorem asF_encF (k : FFields → Instr) (f : FFields) :
    asF (encF op f) fs k = if fs.contains f.form then some (k f) else none := by
  obtain ⟨-, hform, hzero, hf⟩ := read_encF op f
  rw [asF, hform, hzero, hf]
  simp

@[simp] theorem asQ_encQ (sub sub' : BitVec 3) (k : QFields → Instr) (f : QFields) :
    asQ (encQ op sub f) fs sub' k = if sub = sub' then if fs.contains f.form then some (k f) else none else none := by
  obtain ⟨-, hform, hmod, hzero, -, hf⟩ := read_encQ op sub f
  rw [asQ, hform, hmod, hzero, hf]
  by_cases h : sub = sub' <;> simp [h]

/-- In class 2 the form and FSEL are checked together. -/
@[simp] theorem asQ0_encQ (sub sub' : BitVec 3) (k : QFields → Instr) (f : QFields) :
    asQ0 (encQ op sub f) [.f11] sub' k = if sub = sub' then if formQ2 f then some (k f) else none else none := by
  obtain ⟨-, -, -, -, hsel, -⟩ := read_encQ op sub f
  rw [asQ0, hsel, asQ_encQ]
  cases hs : f.fsel <;> by_cases h : sub = sub' <;> simp [formQ2, hs, h]

@[simp] theorem asMX_encMX (k : MXFields → Instr) (f : MXFields) : asMX (encMX op f) k = some (k f) := by
  obtain ⟨-, hform, hneg, hpred, hzero, hf⟩ := read_encMX op f
  rw [asMX, hform, hneg, hpred, hzero, hf]
  rfl

end
/-! ### The forms of a row -/

theorem contains_any (f : Form) : [Form.f00, .f01, .f10, .f11].contains f = formAny f := by cases f <;> rfl
theorem contains_vbs (f : Form) : [Form.f00, .f01, .f11].contains f = formVBS f := by cases f <;> rfl
theorem contains_vec (f : Form) : [Form.f00, .f01, .f10].contains f = formVec f := by cases f <;> rfl
theorem contains_vs (f : Form) : [Form.f00, .f11].contains f = formVS f := by cases f <;> rfl
theorem contains_va (f : Form) : [Form.f00, .f10].contains f = formVA f := by cases f <;> rfl
theorem contains_v (f : Form) : [Form.f00].contains f = formV f := by cases f <;> rfl
theorem contains_b (f : Form) : [Form.f01].contains f = formB f := by cases f <;> rfl
theorem contains_s (f : Form) : [Form.f11].contains f = formS f := by cases f <;> rfl

/-! ### The tables read what the encoder writes -/

section
variable (op : BitVec 7)
@[simp] theorem opOf_encR (f : RFields) : opOf (encR op f) = op := (read_encR op f).1
@[simp] theorem opOf_encI (f : IFields) : opOf (encI op f) = op := (read_encI op f).1
@[simp] theorem opOf_encW (f : WFields) : opOf (encW op f) = op := (read_encW op f).1
@[simp] theorem opOf_encM (f : MFields) : opOf (encM op f) = op := (read_encM op f).1
@[simp] theorem opOf_encB (f : BFields) : opOf (encB op f) = op := (read_encB op f).1
@[simp] theorem opOf_encX (f : XFields) : opOf (encX op f) = op := (read_encX op f).1
@[simp] theorem opOf_encF (f : FFields) : opOf (encF op f) = op := (read_encF op f).1
@[simp] theorem opOf_encQ (sub : BitVec 3) (f : QFields) : opOf (encQ op sub f) = op := (read_encQ op sub f).1
@[simp] theorem opOf_encMX (f : MXFields) : opOf (encMX op f) = op := (read_encMX op f).1
end

theorem decodeMem_encode {i : Instr} (hf : i.formOk = true) (hc : i.cls = some .mem) :
    ∃ w, encode i = some w ∧ decodeMem w = some i := by
  cases i <;> cases hc
  case atom op m =>
    cases op <;> exact ⟨_, rfl, by
      simp only [AtomicOp.code, BitVec.reduceAdd, decodeMem, BitVec.ofNat_eq_ofNat, BitVec.toNat_ofNat, opOf_encM, asM_encM,
        contains_vbs]
      exact if_pos hf⟩
  case atomt op m =>
    cases op <;> exact ⟨_, rfl, by
      simp only [AtomicOp.code, BitVec.reduceAdd, decodeMem, BitVec.ofNat_eq_ofNat, BitVec.toNat_ofNat, opOf_encM, asM_encM,
        contains_b]
      exact if_pos hf⟩
  all_goals exact ⟨_, rfl, by
    simp only [decodeMem, BitVec.ofNat_eq_ofNat, BitVec.toNat_ofNat, opOf_encM, asM_encM, contains_vbs, contains_s]
    exact if_pos hf⟩

theorem decodeField_encode {i : Instr} (hf : i.formOk = true) (hc : i.cls = some .field) :
    ∃ w, encode i = some w ∧ decodeField w = some i := by
  cases i <;> cases hc
  all_goals exact ⟨_, rfl, by
    simp only [decodeField, BitVec.ofNat_eq_ofNat, BitVec.toNat_ofNat, opOf_encF, opOf_encQ, asF_encF, asQ0_encQ,
      contains_vs, BitVec.reduceEq, if_true, if_false, Option.or_none, Option.none_or]
    exact if_pos hf⟩

theorem decodeAsync_encode {i : Instr} (hf : i.formOk = true) (hc : i.cls = some .async) :
    ∃ w, encode i = some w ∧ decodeAsync w = some i := by
  cases i <;> cases hc
  case launchPerLane q =>
    have hv : formV q.form = true := hf
    have hs : formS q.form = false := by
      revert hv
      cases q.form <;> decide
    refine ⟨_, rfl, ?_⟩
    simp only [decodeAsync, BitVec.ofNat_eq_ofNat, BitVec.toNat_ofNat, opOf_encQ, asQ_encQ, contains_s, contains_v, hs,
      if_true, if_false, Option.none_or, Bool.false_eq_true]
    exact if_pos hv
  case launch q =>
    have hs : formS q.form = true := hf
    exact ⟨_, rfl, by
      simp only [decodeAsync, BitVec.ofNat_eq_ofNat, BitVec.toNat_ofNat, opOf_encQ, asQ_encQ, contains_s, hs, if_true,
        Option.or]⟩
  all_goals exact ⟨_, rfl, by
    simp only [decodeAsync, BitVec.ofNat_eq_ofNat, BitVec.toNat_ofNat, opOf_encQ, asQ_encQ, contains_s,
      BitVec.reduceEq, if_true, if_false, Option.or_none, Option.none_or]
    exact if_pos hf⟩

theorem decodeSys_encode {i : Instr} (hf : i.formOk = true) (hc : i.cls = some .sys) :
    ∃ w, encode i = some w ∧ decodeSys w = some i := by
  cases i <;> cases hc
  all_goals exact ⟨_, rfl, by
    simp only [decodeSys, BitVec.ofNat_eq_ofNat, BitVec.toNat_ofNat, opOf_encR, opOf_encW, opOf_encQ, asR_encR,
      asW_encW, asQ_encQ, contains_s, contains_vs, BitVec.reduceEq, if_true, if_false, Option.or_none, Option.none_or]
    exact if_pos hf⟩

theorem decodeMatrix_encode {i : Instr} (hc : i.cls = some .matrix) :
    ∃ w, encode i = some w ∧ decodeMatrix w = some i := by
  cases i <;> cases hc
  all_goals exact ⟨_, rfl, by
    simp only [decodeMatrix, BitVec.ofNat_eq_ofNat, BitVec.toNat_ofNat, opOf_encMX, asMX_encMX]⟩

/-- From opcode 0x77 on, classes 0 and 4 read the control block (R82). -/
theorem decode_control {w : Word64} (h : 0x77 ≤ (opOf w).toNat) :
    decodeAlu w = decodeControl w ∧ decodeSys w = decodeControl w := by
  constructor
  · unfold decodeAlu
    split
    case h_64 => rfl
    all_goals omega
  · unfold decodeSys
    split
    case h_15 => rfl
    all_goals omega

theorem decodeAlu_encode {i : Instr} (hf : i.formOk = true) (hc : i.cls = some .alu) :
    ∃ w, encode i = some w ∧ decodeAlu w = some i := by
  cases i <;> cases hc
  case iadd o | isub o | imul o | iadds o | iand o | ior o | ixor o | ishl o | ishr o | imin o | imax o | icmp o | ibfe o =>
    cases o <;> exact ⟨_, rfl, by
      simp only [decodeAlu, BitVec.ofNat_eq_ofNat, BitVec.toNat_ofNat, opOf_encR, opOf_encI, asR_encR, asI_encI,
        contains_any, contains_vbs]
      exact if_pos hf⟩
  case yield | nop => exact ⟨_, rfl, by decide⟩
  case bra | call | exit =>
    refine ⟨_, rfl, (decode_control (by rw [opOf_encB]; decide)).1.trans ?_⟩
    simp only [decodeControl, BitVec.ofNat_eq_ofNat, BitVec.toNat_ofNat, opOf_encB, asB_encB, contains_v]
    exact if_pos hf
  case brx | callx | ret | lpad =>
    refine ⟨_, rfl, (decode_control (by rw [opOf_encX]; decide)).1.trans ?_⟩
    simp only [decodeControl, BitVec.ofNat_eq_ofNat, BitVec.toNat_ofNat, opOf_encX, asX_encX, contains_v,
      contains_vs, contains_s]
    exact if_pos hf
  all_goals exact ⟨_, rfl, by
    simp only [decodeAlu, BitVec.ofNat_eq_ofNat, BitVec.toNat_ofNat, opOf_encR, opOf_encW, asR_encR, asW_encW,
      contains_any, contains_vbs, contains_vec, contains_vs, contains_va, contains_v, contains_s]
    exact if_pos hf⟩

/-! ### The encoder writes what the tables read -/

/-- A table of class c reads word w as i, and w is the word of i. -/
def ReadsBack (c : Class) (w : Word64) (i : Instr) : Prop := encode i = some w ∧ i.formOk = true ∧ i.cls = some c

section
variable {w : Word64} {i : Instr} {c : Class} {fs : List Form} {n : Nat}

theorem opOf_eq (h : (opOf w).toNat = n) : BitVec.ofNat 7 n = opOf w := by rw [← h, BitVec.ofNat_toNat, BitVec.setWidth_eq]

theorem asR_reads {k : RFields → Instr} (hop : (opOf w).toNat = n) (h : asR w fs k = some i)
    (henc : ∀ f, encode (k f) = some (encR (BitVec.ofNat 7 n) f)) (hform : ∀ f, fs.contains f.form = (k f).formOk)
    (hcls : ∀ f, (k f).cls = some c) : ReadsBack c w i := by
  rw [asR, Option.ite_none_right_eq_some] at h
  obtain ⟨hf, ⟨⟩⟩ := h
  exact ⟨by rw [henc, opOf_eq hop, (enc_fields w).1], hform (fieldsR w) ▸ hf, hcls _⟩

theorem asI_reads {k : IFields → Instr} (hop : (opOf w).toNat = n) (h : asI w fs k = some i)
    (henc : ∀ f, encode (k f) = some (encI (BitVec.ofNat 7 n) f)) (hform : ∀ f, fs.contains f.form = (k f).formOk)
    (hcls : ∀ f, (k f).cls = some c) : ReadsBack c w i := by
  rw [asI, Option.ite_none_right_eq_some] at h
  obtain ⟨hf, ⟨⟩⟩ := h
  exact ⟨by rw [henc, opOf_eq hop, (enc_fields w).2.1], hform (fieldsI w) ▸ hf, hcls _⟩

theorem asM_reads {k : MFields → Instr} (hop : (opOf w).toNat = n) (h : asM w fs k = some i)
    (henc : ∀ f, encode (k f) = some (encM (BitVec.ofNat 7 n) f)) (hform : ∀ f, fs.contains f.form = (k f).formOk)
    (hcls : ∀ f, (k f).cls = some c) : ReadsBack c w i := by
  rw [asM, Option.ite_none_right_eq_some] at h
  obtain ⟨hf, ⟨⟩⟩ := h
  exact ⟨by rw [henc, opOf_eq hop, (enc_fields w).2.2.1], hform (fieldsM w) ▸ hf, hcls _⟩

theorem asB_reads {k : BFields → Instr} (hop : (opOf w).toNat = n) (h : asB w fs k = some i)
    (henc : ∀ f, encode (k f) = some (encB (BitVec.ofNat 7 n) f)) (hform : ∀ f, fs.contains f.form = (k f).formOk)
    (hcls : ∀ f, (k f).cls = some c) : ReadsBack c w i := by
  rw [asB, Option.ite_none_right_eq_some] at h
  obtain ⟨hf, ⟨⟩⟩ := h
  exact ⟨by rw [henc, opOf_eq hop, (enc_fields w).2.2.2], hform (fieldsB w) ▸ hf, hcls _⟩

theorem asW_reads {k : WFields → Instr} (hop : (opOf w).toNat = n) (h : asW w fs k = some i)
    (henc : ∀ f, encode (k f) = some (encW (BitVec.ofNat 7 n) f)) (hform : ∀ f, fs.contains f.form = (k f).formOk)
    (hcls : ∀ f, (k f).cls = some c) : ReadsBack c w i := by
  rw [asW, Option.ite_none_right_eq_some, Bool.and_eq_true, beq_iff_eq] at h
  obtain ⟨⟨hf, hmod⟩, ⟨⟩⟩ := h
  exact ⟨by rw [henc, opOf_eq hop, encW_fieldsW w hmod], hform (fieldsW w) ▸ hf, hcls _⟩

theorem asX_reads {k : XFields → Instr} (hop : (opOf w).toNat = n) (h : asX w fs k = some i)
    (henc : ∀ f, encode (k f) = some (encX (BitVec.ofNat 7 n) f)) (hform : ∀ f, fs.contains f.form = (k f).formOk)
    (hcls : ∀ f, (k f).cls = some c) : ReadsBack c w i := by
  rw [asX, Option.ite_none_right_eq_some, Bool.and_eq_true, Bool.and_eq_true, beq_iff_eq, beq_iff_eq] at h
  obtain ⟨⟨⟨hf, hmod⟩, hzero⟩, ⟨⟩⟩ := h
  exact ⟨by rw [henc, opOf_eq hop, encX_fieldsX w hmod hzero], hform (fieldsX w) ▸ hf, hcls _⟩

theorem asF_reads {k : FFields → Instr} (hop : (opOf w).toNat = n) (h : asF w fs k = some i)
    (henc : ∀ f, encode (k f) = some (encF (BitVec.ofNat 7 n) f)) (hform : ∀ f, fs.contains f.form = (k f).formOk)
    (hcls : ∀ f, (k f).cls = some c) : ReadsBack c w i := by
  rw [asF, Option.ite_none_right_eq_some, Bool.and_eq_true, beq_iff_eq] at h
  obtain ⟨⟨hf, hzero⟩, ⟨⟩⟩ := h
  exact ⟨by rw [henc, opOf_eq hop, encF_fieldsF w hzero], hform (fieldsF w) ▸ hf, hcls _⟩

theorem asQ_reads {k : QFields → Instr} {sub : BitVec 3} (hop : (opOf w).toNat = n) (h : asQ w fs sub k = some i)
    (henc : ∀ f, encode (k f) = some (encQ (BitVec.ofNat 7 n) sub f)) (hform : ∀ f, fs.contains f.form = (k f).formOk)
    (hcls : ∀ f, (k f).cls = some c) : ReadsBack c w i := by
  rw [asQ, Option.ite_none_right_eq_some, Bool.and_eq_true, Bool.and_eq_true, beq_iff_eq, beq_iff_eq] at h
  obtain ⟨⟨⟨hf, rfl⟩, hzero⟩, ⟨⟩⟩ := h
  exact ⟨by rw [henc, opOf_eq hop, encQ_fieldsQ w hzero], hform (fieldsQ w) ▸ hf, hcls _⟩

theorem asQ0_reads {k : QFields → Instr} {sub : BitVec 3} (hop : (opOf w).toNat = n) (h : asQ0 w [.f11] sub k = some i)
    (henc : ∀ f, encode (k f) = some (encQ (BitVec.ofNat 7 n) sub f)) (hform : ∀ f, formQ2 f = (k f).formOk)
    (hcls : ∀ f, (k f).cls = some c) : ReadsBack c w i := by
  rw [asQ0, Option.ite_none_left_eq_some, asQ, Option.ite_none_right_eq_some, Bool.and_eq_true, Bool.and_eq_true, beq_iff_eq,
    beq_iff_eq] at h
  obtain ⟨hsel, ⟨⟨hf, rfl⟩, hzero⟩, ⟨⟩⟩ := h
  have hform2 : formQ2 (fieldsQ w) = true :=
    Bool.and_eq_true_iff.mpr ⟨(contains_s (formOf w)).symm.trans hf, by
    simpa [fieldsQ] using hsel⟩
  exact ⟨by rw [henc, opOf_eq hop, encQ_fieldsQ w hzero], hform (fieldsQ w) ▸ hform2, hcls _⟩

theorem asMX_reads {k : MXFields → Instr} (hop : (opOf w).toNat = n) (h : asMX w k = some i)
    (henc : ∀ f, encode (k f) = some (encMX (BitVec.ofNat 7 n) f)) (hform : ∀ f, (k f).formOk = true)
    (hcls : ∀ f, (k f).cls = some c) : ReadsBack c w i := by
  rw [asMX, Option.ite_none_right_eq_some] at h
  simp only [Bool.and_eq_true, beq_iff_eq, Bool.not_eq_true'] at h
  obtain ⟨⟨⟨⟨hf, hneg⟩, hpred⟩, hzero⟩, ⟨⟩⟩ := h
  exact ⟨by rw [henc, opOf_eq hop, encMX_fieldsMX w hf hneg hpred hzero], hform _, hcls _⟩

theorem asN_reads {j : Instr} (hop : (opOf w).toNat = n) (h : asN w j = some i)
    (henc : encode j = some (encB (BitVec.ofNat 7 n) noFields)) (hform : j.formOk = true) (hcls : j.cls = some c) :
    ReadsBack c w i := by
  rw [asN, Option.ite_none_right_eq_some, Bool.and_eq_true, beq_iff_eq, beq_iff_eq] at h
  obtain ⟨⟨hf, hzero⟩, ⟨⟩⟩ := h
  exact ⟨by rw [henc, opOf_eq hop, encB_of_zero w hf hzero], hform, hcls⟩

theorem decodeControl_reads (h : decodeControl w = some i) : ReadsBack .alu w i := by
  unfold decodeControl at h
  split at h
  case h_1 hop | h_9 hop => exact asN_reads hop h rfl rfl rfl
  case h_2 hop | h_4 hop | h_8 hop => exact asB_reads hop h (fun _ => rfl) (fun f => contains_v f.form) (fun _ => rfl)
  case h_3 hop | h_5 hop => exact asX_reads hop h (fun _ => rfl) (fun f => contains_vs f.form) (fun _ => rfl)
  case h_6 hop => exact asX_reads hop h (fun _ => rfl) (fun f => contains_v f.form) (fun _ => rfl)
  case h_7 hop => exact asX_reads hop h (fun _ => rfl) (fun f => contains_s f.form) (fun _ => rfl)
  case h_10 => cases h

theorem decodeMatrix_reads (h : decodeMatrix w = some i) : ReadsBack .matrix w i := by
  unfold decodeMatrix at h
  split at h
  case h_10 => cases h
  all_goals next hop => exact asMX_reads hop h (fun _ => rfl) (fun _ => rfl) (fun _ => rfl)

theorem decodeMem_reads (h : decodeMem w = some i) : ReadsBack .mem w i := by
  unfold decodeMem at h
  split at h
  case h_25 => cases h
  all_goals next hop =>
    exact asM_reads hop h (fun _ => rfl) (fun _ => by simp only [contains_vbs, contains_s, contains_b]; rfl) (fun _ => rfl)

theorem decodeField_reads (h : decodeField w = some i) : ReadsBack .field w i := by
  unfold decodeField at h
  split at h
  case h_1 hop => exact asF_reads hop h (fun _ => rfl) (fun f => contains_vs f.form) (fun _ => rfl)
  case h_5 hop =>
    obtain h | ⟨-, h⟩ := Option.or_eq_some_iff.mp h
    all_goals exact asQ0_reads hop h (fun _ => rfl) (fun _ => rfl) (fun _ => rfl)
  case h_7 => cases h
  all_goals next hop => exact asQ0_reads hop h (fun _ => rfl) (fun _ => rfl) (fun _ => rfl)

theorem decodeAlu_reads (h : decodeAlu w = some i) : ReadsBack .alu w i := by
  unfold decodeAlu at h
  split at h
  iterate 16 next hop =>
    exact asR_reads hop h (fun _ => rfl) (fun _ => by simp only [contains_any, contains_vbs]; rfl) (fun _ => rfl)
  next hop => exact asW_reads hop h (fun _ => rfl) (fun f => contains_vs f.form) (fun _ => rfl)
  iterate 33 next hop =>
    exact asR_reads hop h (fun _ => rfl)
      (fun _ => by simp only [contains_any, contains_vec, contains_vs, contains_va, contains_v, contains_s]; rfl) (fun _ => rfl)
  iterate 13 next hop => exact asI_reads hop h (fun _ => rfl) (fun f => contains_vbs f.form) (fun _ => rfl)
  exact decodeControl_reads h

theorem decodeAsync_reads (h : decodeAsync w = some i) : ReadsBack .async w i := by
  unfold decodeAsync at h
  split at h
  case h_1 hop =>
    obtain h | ⟨-, h⟩ := Option.or_eq_some_iff.mp h
    all_goals exact asQ_reads hop h (fun _ => rfl) (fun f => contains_s f.form) (fun _ => rfl)
  case h_4 hop =>
    obtain h | ⟨-, h⟩ := Option.or_eq_some_iff.mp h
    · obtain h | ⟨-, h⟩ := Option.or_eq_some_iff.mp h
      all_goals exact asQ_reads hop h (fun _ => rfl) (fun f => contains_s f.form) (fun _ => rfl)
    · exact asQ_reads hop h (fun _ => rfl) (fun f => contains_s f.form) (fun _ => rfl)
  case h_11 hop =>
    obtain h | ⟨-, h⟩ := Option.or_eq_some_iff.mp h
    · exact asQ_reads hop h (fun _ => rfl) (fun f => contains_s f.form) (fun _ => rfl)
    · exact asQ_reads hop h (fun _ => rfl) (fun f => contains_v f.form) (fun _ => rfl)
  case h_12 => cases h
  all_goals next hop => exact asQ_reads hop h (fun _ => rfl) (fun f => contains_s f.form) (fun _ => rfl)

/-- A word of class 4, or of the control block, which stands in the table of class 0 too. -/
theorem decodeSys_reads (h : decodeSys w = some i) : ReadsBack .sys w i ∨ ReadsBack .alu w i := by
  unfold decodeSys at h
  split at h
  case h_1 hop | h_2 hop => exact .inl (asW_reads hop h (fun _ => rfl) (fun f => contains_s f.form) (fun _ => rfl))
  case h_3 hop => exact .inl (asR_reads hop h (fun _ => rfl) (fun f => contains_vs f.form) (fun _ => rfl))
  case h_4 hop => exact .inl (asR_reads hop h (fun _ => rfl) (fun f => contains_s f.form) (fun _ => rfl))
  case h_8 hop | h_12 hop =>
    obtain h | ⟨-, h⟩ := Option.or_eq_some_iff.mp h
    all_goals exact .inl (asQ_reads hop h (fun _ => rfl) (fun f => contains_s f.form) (fun _ => rfl))
  case h_9 hop =>
    obtain h | ⟨-, h⟩ := Option.or_eq_some_iff.mp h
    · obtain h | ⟨-, h⟩ := Option.or_eq_some_iff.mp h
      all_goals exact .inl (asQ_reads hop h (fun _ => rfl) (fun f => contains_s f.form) (fun _ => rfl))
    · exact .inl (asQ_reads hop h (fun _ => rfl) (fun f => contains_s f.form) (fun _ => rfl))
  case h_15 => exact .inr (decodeControl_reads h)
  all_goals next hop => exact .inl (asQ_reads hop h (fun _ => rfl) (fun f => contains_s f.form) (fun _ => rfl))

end

/-! ### O55 and O56 -/

theorem decode_encode {i : Instr} {c : Class} (hf : i.formOk = true) (hc : i.cls = some c) :
    ∃ w, encode i = some w ∧ decode c w = some i := by
  cases c
  case alu => exact decodeAlu_encode hf hc
  case mem => exact decodeMem_encode hf hc
  case field => exact decodeField_encode hf hc
  case async => exact decodeAsync_encode hf hc
  case sys => exact decodeSys_encode hf hc
  case matrix => exact decodeMatrix_encode hc

theorem decode_reads {w : Word64} {i : Instr} {c : Class} (h : decode c w = some i) :
    ReadsBack c w i ∨ c = .sys ∧ ReadsBack .alu w i := by
  cases c
  case alu => exact .inl (decodeAlu_reads h)
  case mem => exact .inl (decodeMem_reads h)
  case field => exact .inl (decodeField_reads h)
  case async => exact .inl (decodeAsync_reads h)
  case sys => exact (decodeSys_reads h).imp_right fun hc => ⟨rfl, hc⟩
  case matrix => exact .inl (decodeMatrix_reads h)

/-- Settles O55: each row of a table reads its own words, and only words of the instruction it answers. -/
theorem encodeAndDecodeAgree : Obligations.EncodeAndDecodeAgree := by
  refine ⟨fun i c hf hc => ?_, fun w c i h => ?_⟩
  · obtain ⟨w, henc, hdec⟩ := decode_encode hf hc
    refine ⟨w, henc, hdec, ?_⟩
    rintro rfl hop
    obtain ⟨halu, hsys⟩ := decode_control hop
    exact (hsys.trans halu.symm).trans hdec
  · obtain ⟨henc, hf, hc⟩ | ⟨hsys, henc, hf, hc⟩ := decode_reads h
    · exact ⟨henc, hf, .inl hc⟩
    · exact ⟨henc, hf, .inr ⟨hsys, hc⟩⟩

/-- Settles O56: the tables evaluate on each word. -/
theorem specWordsDecode : Obligations.SpecWordsDecode := by
  unfold Obligations.SpecWordsDecode
  decide

end Sys2Proof
end

section
/-!
PROOFS. O14: an instruction that has issued retires, and its clause goes on or ends (R55, R101, R135).
-/
namespace Sys2Proof.Machine

/-! ### What the course of the clauses leaves of a group -/

/-- A group without what the course of its clauses changes: the slots and the predictions, the counts of instructions, the
flags with the clauses that count on them, the yield bar. -/
def Group.still (g : Group) : Group :=
  { g with slot0 := {}, slot1 := {}, spec := none, dix := 0, lclk := 0, flags := [], counts := [], yieldAt := none }

@[simp] theorem setSlot_still (g : Group) (k : Nat) (x : Slot) : (g.setSlot k x).still = g.still := by
  unfold Group.setSlot
  split <;> rfl

@[simp] theorem modHalf_still (g : Group) (k : Nat) (f : Half → Half) : (g.modHalf k f).still = g.still := by
  unfold Group.modHalf
  split <;> rfl

@[simp] theorem retire_still (g : Group) (k : Nat) (replay : Bool) : (g.retire k replay).still = g.still := by
  unfold Group.retire
  split
  · rfl
  · split
    · exact modHalf_still g k _
    · rfl

@[simp] theorem applyYield_still (g : Group) (cycle : Nat) : (g.applyYield cycle).still = g.still := by
  unfold Group.applyYield
  dsimp only
  split <;> rfl

@[simp] theorem endCount_still (g : Group) (id : Nat) : (g.endCount id).still = g.still := rfl

@[simp] theorem incFlag_still (g : Group) (f : Nat) : (g.incFlag f).still = g.still := rfl

@[simp] theorem setPc_still (g : Group) (k : Nat) (pc : Word64) : (g.setPc k pc).still = g.still := by
  unfold Group.setPc Group.clearSlot
  dsimp only
  split
  · exact setSlot_still g k _
  · split
    · exact (modHalf_still _ k _).trans (setSlot_still g k _)
    · exact setSlot_still g k _

/-! ### Flags and counts of instructions -/

section
variable (g : Group) (k : Nat)

@[simp] theorem modHalf_slot (j : Nat) (f : Half → Half) : (g.modHalf j f).slot k = g.slot k := by
  unfold Group.modHalf
  split <;> rfl

@[simp] theorem retire_slot (j : Nat) (replay : Bool) : (g.retire j replay).slot k = g.slot k := by
  unfold Group.retire
  split
  · rfl
  · split
    · exact modHalf_slot g k j _
    · rfl

/-- What the clauses count: the instructions, on the flags, and for whom. -/
def Group.counters (g : Group) : BitVec 48 × BitVec 48 × Tab Nat × List ClauseCount := (g.dix, g.lclk, g.flags, g.counts)

@[simp] theorem setSlot_counters (x : Slot) : (g.setSlot k x).counters = g.counters := by
  unfold Group.setSlot
  split <;> rfl

@[simp] theorem modHalf_counters (f : Half → Half) : (g.modHalf k f).counters = g.counters := by
  unfold Group.modHalf
  split <;> rfl

@[simp] theorem applyYield_counters (cycle : Nat) : (g.applyYield cycle).counters = g.counters := by
  unfold Group.applyYield
  dsimp only
  split <;> rfl

@[simp] theorem setPc_counters (pc : Word64) : (g.setPc k pc).counters = g.counters := by
  unfold Group.setPc Group.clearSlot
  dsimp only
  split
  · exact setSlot_counters g k _
  · split
    · exact (modHalf_counters _ k _).trans (setSlot_counters g k _)
    · exact setSlot_counters g k _

/-- Outside a speculative half an instruction that retires counts (R135). -/
theorem retire_counters (h : (g.half? k).isNone = true) :
    (g.retire k false).counters = (g.dix + 1, g.lclk + 1, g.flags, g.counts) := by
  rw [Option.isNone_iff_eq_none] at h
  simp [Group.retire, h, Group.counters]

/-- A retiring instruction changes no flag. -/
theorem retire_flags (replay : Bool) : (g.retire k replay).flags = g.flags ∧ (g.retire k replay).counts = g.counts := by
  have half (f : Half → Half) : (g.modHalf k f).flags = g.flags ∧ (g.modHalf k f).counts = g.counts := by
    have h := modHalf_counters g k f
    simp only [Group.counters, Prod.mk.injEq] at h
    exact ⟨h.2.2.1, h.2.2.2⟩
  unfold Group.retire
  split
  · exact ⟨rfl, rfl⟩
  · split
    · exact half _
    · exact ⟨rfl, rfl⟩

end

theorem tget_foldl_countDown (l : List ClauseCount) (fl : Tab Nat) {f : Nat} (h : ∀ c ∈ l, c.flag ≠ f) :
    tget 0 (l.foldl (fun fl c => tset 0 fl c.flag (tget 0 fl c.flag - 1)) fl) f = tget 0 fl f := by
  induction l generalizing fl with
  | nil => rfl
  | cons c l ih =>
    have hc : f ≠ c.flag := (h c List.mem_cons_self).symm
    exact (ih _ fun d hd => h d (List.mem_cons_of_mem _ hd)).trans (tget_tset_other _ _ _ hc)

/-- The end of a clause changes the flags of counted clauses alone (R52). -/
theorem flag_settleCounts {g : Group} {f : Nat} (h : ∀ c ∈ g.counts, c.flag ≠ f) : g.settleCounts.flag f = g.flag f :=
  tget_foldl_countDown _ _ fun c hc => h c (List.mem_filter.mp hc).1

theorem flag_endCount {g : Group} {f : Nat} (id : Nat) (h : ∀ c ∈ g.counts, c.flag ≠ f) : (g.endCount id).flag f = g.flag f := by
  refine flag_settleCounts fun c hc => ?_
  obtain ⟨d, hd, rfl⟩ := List.mem_map.mp hc
  split
  · exact h d hd
  · exact h d hd

/-! ### The end of an instruction, as an equation -/

/-- The clause at its next instruction (R55). -/
def Running.next (r : Running) (cycle : Nat) : Running :=
  { r with idx := r.idx + 1, readyAt := cycle + (decodeHeader r.clause.header).distance (r.idx + 1) }

/-- The group whose slot k goes on in its clause after an instruction of number `num`. -/
def Group.goesOn (g : Group) (k : Nat) (r : Running) (cycle num : Nat) : Group :=
  let h := (g.retire k false).modHalf k (fun h => { h with clauses := match h.clauses with
    | [] => []
    | c :: t => { c with count := r.idx + 1, nums := c.nums ++ [num] } :: t })
  h.setSlot k { h.slot k with running := some (r.next cycle) }

/-- The group whose slot k has freed the clause slot of its clause, which is no replay. -/
def Group.clauseFreed (g : Group) (k : Nat) (r : Running) (cycle : Nat) (counted : Bool) : Group :=
  let g := g.setSlot k { g.slot k with running := none, eligFrom := cycle + 1 }
  let g := if clauseHasYield r then g.applyYield cycle else g
  if counted then g.endCount r.clauseId else g

/-- The group whose slot k has ended its clause, and with `next` goes on at the one in sequence. -/
def Group.clauseEnded (g : Group) (k : Nat) (r : Running) (cycle : Nat) (next counted : Bool) : Group :=
  let h := g.clauseFreed k r cycle counted
  if next then h.setPc k (r.clause.addr + w64n (8 * (r.clause.words.length + 1))) else h

section
variable {s : State} {g : Group} {r : Running}

theorem group?_setGroup_same (s : State) (gid : Nat) (g : Group) : (s.setGroup gid g).group? gid = some g := dget_dput_same _ _ _

theorem group?_setGroup_other (s : State) {gid n : Nat} (g : Group) (h : n ≠ gid) : (s.setGroup gid g).group? n = s.group? n :=
  dget_dput_other _ _ h

theorem setGroup_setGroup (s : State) (gid : Nat) (g h : Group) : (s.setGroup gid g).setGroup gid h = s.setGroup gid h := by
  simp only [State.setGroup, dput_dput]

theorem endClause_eq {gid k : Nat} (hg : s.group? gid = some g) (hr : (g.slot k).running = some r) (hp : r.replay = false)
    (next counted : Bool) : s.endClause gid k next counted =
      (s.freeCslot g.part r).setGroup gid (g.clauseEnded k r s.cycle next counted) := by
  unfold State.endClause
  simp only [hg, hr, hp, Bool.not_false, Bool.and_true, Bool.false_eq_true, if_false]
  rfl

theorem advanceWith_eq (hg : s.group? s.cur.gid = some g) (hr : (g.slot s.cur.slot).running = some r) (hp : r.replay = false)
    (next counted : Bool) : s.advanceWith next counted =
      let h := g.goesOn s.cur.slot r s.cycle (s.nextId - 1)
      if r.idx + 1 < r.count then s.setGroup s.cur.gid h
      else (s.freeCslot g.part r).setGroup s.cur.gid (h.clauseEnded s.cur.slot (r.next s.cycle) s.cycle next counted) := by
  have hpart : (g.goesOn s.cur.slot r s.cycle (s.nextId - 1)).part = g.part := by
    have hstill : (g.goesOn s.cur.slot r s.cycle (s.nextId - 1)).still = g.still := by simp [Group.goesOn]
    exact show Group.part (Group.still _) = Group.part g.still from congrArg Group.part hstill
  have ends := endClause_eq (s := s.setGroup s.cur.gid (g.goesOn s.cur.slot r s.cycle (s.nextId - 1))) (r := r.next s.cycle)
    (group?_setGroup_same ..) (congrArg Slot.running (Group.slot_setSlot_same ..)) hp next counted
  rw [hpart] at ends
  obtain ⟨cslot, clause, idx, count, readyAt, startAt, clauseId, aluFlag, replay, sync⟩ := r
  obtain rfl : replay = false := hp
  unfold State.advanceWith
  simp only [hg, hr, Bool.false_eq_true, if_false]
  split
  · rfl
  · exact ends.trans (setGroup_setGroup (s.freeCslot g.part _) ..)


end

/-! ### The frame of an instruction that has issued (R55, R101, R135) -/

theorem still_goesOn (g : Group) (k : Nat) (r : Running) (cycle num : Nat) : (g.goesOn k r cycle num).still = g.still := by
  simp [Group.goesOn]

theorem counters_goesOn (g : Group) (k : Nat) (r : Running) (cycle num : Nat) :
    (g.goesOn k r cycle num).counters = (g.retire k false).counters := by
  simp [Group.goesOn]

/-- What all the parts of a clause's end keep of a group. -/
theorem clauseEnded_keeps {α : Type} {P : Group → α} (hslot : ∀ g k x, P (Group.setSlot g k x) = P g)
    (hyield : ∀ g cycle, P (Group.applyYield g cycle) = P g) (hcount : ∀ g id, P (Group.endCount g id) = P g)
    (hpc : ∀ g k pc, P (Group.setPc g k pc) = P g) (g : Group) (k : Nat) (r : Running) (cycle : Nat) (next counted : Bool) :
    P (g.clauseEnded k r cycle next counted) = P g := by
  have yield (g : Group) : P (if clauseHasYield r then g.applyYield cycle else g) = P g := by
    split
    · exact hyield g cycle
    · rfl
  have count (g : Group) : P (if counted then g.endCount r.clauseId else g) = P g := by
    split
    · exact hcount g r.clauseId
    · rfl
  have freed : P (g.clauseFreed k r cycle counted) = P g := (count _).trans ((yield _).trans (hslot g k _))
  unfold Group.clauseEnded
  dsimp only
  split
  · exact (hpc ..).trans freed
  · exact freed

theorem still_clauseEnded (g : Group) (k : Nat) (r : Running) (cycle : Nat) (next counted : Bool) :
    (g.clauseEnded k r cycle next counted).still = g.still :=
  clauseEnded_keeps setSlot_still applyYield_still endCount_still setPc_still g k r cycle next counted

/-- The two counts of instructions (R135). -/
def Group.retired (g : Group) : BitVec 48 × BitVec 48 := (g.dix, g.lclk)

theorem retired_of_counters {g h : Group} (e : h.counters = g.counters) : h.retired = g.retired :=
  congrArg (fun x => (x.1, x.2.1)) e

theorem flags_of_counters {g h : Group} (e : h.counters = g.counters) : h.flags = g.flags := congrArg (fun x => x.2.2.1) e

theorem counts_of_counters {g h : Group} (e : h.counters = g.counters) : h.counts = g.counts := congrArg (fun x => x.2.2.2) e

theorem flag_of_counters {g h : Group} (e : h.counters = g.counters) (f : Nat) : h.flag f = g.flag f :=
  congrArg (fun fl => tget 0 fl f) (flags_of_counters e)

theorem retired_clauseEnded (g : Group) (k : Nat) (r : Running) (cycle : Nat) (next counted : Bool) :
    (g.clauseEnded k r cycle next counted).retired = g.retired :=
  clauseEnded_keeps (fun g k x => retired_of_counters (setSlot_counters g k x))
    (fun g cycle => retired_of_counters (applyYield_counters g cycle)) (fun _ _ => rfl)
    (fun g k pc => retired_of_counters (setPc_counters g k pc)) g k r cycle next counted

theorem flag_clauseEnded {g : Group} {f : Nat} (h : ∀ c ∈ g.counts, c.flag ≠ f) (k : Nat) (r : Running) (cycle : Nat)
    (next counted : Bool) : (g.clauseEnded k r cycle next counted).flag f = g.flag f := by
  have yield (g : Group) : (if clauseHasYield r then g.applyYield cycle else g).counters = g.counters := by
    split
    · exact applyYield_counters g cycle
    · rfl
  have begun := (yield (g.setSlot k { g.slot k with running := none, eligFrom := cycle + 1 })).trans (setSlot_counters g k _)
  have freed : (g.clauseFreed k r cycle counted).flag f = g.flag f := by
    unfold Group.clauseFreed
    dsimp only
    split
    · rw [flag_endCount _ (by rwa [counts_of_counters begun]), flag_of_counters begun]
    · exact flag_of_counters begun f
  unfold Group.clauseEnded
  dsimp only
  split
  · exact (flag_of_counters (setPc_counters ..) f).trans freed
  · exact freed

theorem running_setPc {g : Group} {k : Nat} (h : (g.slot k).running = none) (pc : Word64) :
    ((g.setPc k pc).slot k).running = none := by
  unfold Group.setPc Group.clearSlot
  dsimp only
  split
  · rw [Group.slot_setSlot_same]
    rfl
  · split
    · rw [modHalf_slot, Group.slot_setSlot_same]
      exact h
    · rw [Group.slot_setSlot_same]
      exact h

theorem running_applyYield (g : Group) (k cycle : Nat) : ((g.applyYield cycle).slot k).running = (g.slot k).running := by
  have stamp (x : Slot) : (if x.live then { x with stamp := cycle } else x).running = x.running := by split <;> rfl
  unfold Group.applyYield
  dsimp only
  split
  · rfl
  · unfold Group.slot
    split
    · exact stamp g.slot0
    · exact stamp g.slot1

/-- A clause that has ended runs no more. -/
theorem running_clauseEnded (g : Group) (k : Nat) (r : Running) (cycle : Nat) (next counted : Bool) :
    ((g.clauseEnded k r cycle next counted).slot k).running = none := by
  have yield (g : Group) : ((if clauseHasYield r then g.applyYield cycle else g).slot k).running = (g.slot k).running := by
    split
    · exact running_applyYield g k cycle
    · rfl
  have count (g : Group) : (if counted then g.endCount r.clauseId else g).slot k = g.slot k := by split <;> rfl
  have freed : ((g.clauseFreed k r cycle counted).slot k).running = none :=
    (congrArg Slot.running (count _)).trans ((yield _).trans (congrArg Slot.running (Group.slot_setSlot_same ..)))
  unfold Group.clauseEnded
  dsimp only
  split
  · exact running_setPc freed _
  · exact freed

section
variable {s : State} {g : Group} {r : Running}

/-- The group of an instruction that has issued, and ends its clause in the ordinary way. -/
def State.issuedIn (s : State) (g : Group) (r : Running) : Group :=
  let h := g.goesOn s.cur.slot r s.cycle (s.nextId - 1)
  if r.idx + 1 < r.count then h else h.clauseEnded s.cur.slot (r.next s.cycle) s.cycle true true

theorem group?_advance (hg : s.group? s.cur.gid = some g) (hr : (g.slot s.cur.slot).running = some r) (hp : r.replay = false) :
    s.advance.group? s.cur.gid = some (s.issuedIn g r) := by
  rw [State.advance, advanceWith_eq hg hr hp]
  unfold State.issuedIn
  dsimp only
  split <;> exact group?_setGroup_same ..

/-- An instruction that has issued changes its own group, and where its clause ends a clause slot. -/
theorem advance_changes (hg : s.group? s.cur.gid = some g) (hr : (g.slot s.cur.slot).running = some r) (hp : r.replay = false) :
    s.advance = { s with groups := s.advance.groups, slotFree := s.advance.slotFree } ∧
      (∀ n, n ≠ s.cur.gid → s.advance.group? n = s.group? n) ∧
      (r.count ≤ r.idx + 1 → tget 0 s.advance.slotFree (g.part * 2 + r.cslot) = s.cycle + 1) := by
  rw [State.advance, advanceWith_eq hg hr hp]
  dsimp only
  split
  case isTrue hmore => exact ⟨rfl, fun n hn => group?_setGroup_other s _ hn, fun hlast => absurd hmore (Nat.not_lt.mpr hlast)⟩
  case isFalse =>
    exact ⟨rfl, fun n hn => group?_setGroup_other (s.freeCslot g.part r) _ hn,
      fun _ => tget_tset_same 0 s.slotFree (g.part * 2 + r.cslot) (s.cycle + 1)⟩

theorem still_issuedIn (s : State) (g : Group) (r : Running) : (s.issuedIn g r).still = g.still := by
  unfold State.issuedIn
  dsimp only
  split
  · exact still_goesOn ..
  · exact (still_clauseEnded ..).trans (still_goesOn ..)

theorem flag_issuedIn (s : State) (r : Running) {f : Nat} (h : ∀ c ∈ g.counts, c.flag ≠ f) : (s.issuedIn g r).flag f = g.flag f := by
  obtain ⟨hflags, hcounts⟩ := retire_flags g s.cur.slot false
  have hgo := counters_goesOn g s.cur.slot r s.cycle (s.nextId - 1)
  have goes : (g.goesOn s.cur.slot r s.cycle (s.nextId - 1)).flag f = g.flag f :=
    (flag_of_counters hgo f).trans (congrArg (fun fl => tget 0 fl f) hflags)
  unfold State.issuedIn
  dsimp only
  split
  · exact goes
  · rw [flag_clauseEnded (by rwa [counts_of_counters hgo, hcounts]), goes]

theorem retired_issuedIn (s : State) (r : Running) (h : (g.half? s.cur.slot).isNone = true) :
    (s.issuedIn g r).dix = g.dix + 1 ∧ (s.issuedIn g r).lclk = g.lclk + 1 := by
  have goes : (g.goesOn s.cur.slot r s.cycle (s.nextId - 1)).retired = (g.dix + 1, g.lclk + 1) :=
    congrArg (fun x => (x.1, x.2.1)) ((counters_goesOn ..).trans (retire_counters g s.cur.slot h))
  have issued : (s.issuedIn g r).retired = (g.dix + 1, g.lclk + 1) := by
    unfold State.issuedIn
    dsimp only
    split
    · exact goes
    · exact (retired_clauseEnded ..).trans goes
  simpa only [Group.retired, Prod.mk.injEq] using issued

/-- The clause goes on (R55), or has ended (R101). -/
theorem running_issuedIn (s : State) (g : Group) (r : Running) : ((s.issuedIn g r).slot s.cur.slot).running =
    if r.idx + 1 < r.count then some (r.next s.cycle) else none := by
  unfold State.issuedIn
  dsimp only
  split
  · exact congrArg Slot.running (Group.slot_setSlot_same ..)
  · exact running_clauseEnded ..

end

/-! ### Results on their way (R56) -/

/-- The result that the instruction at `cur` queues. -/
def State.pending (s : State) (g : Group) (r : Running) (lat : Nat) (upds : List RegUpd) (sticky : List (Nat × BitVec 16)) : Pending :=
  { due := s.cycle + lat, issueAt := s.cycle, startAt := r.startAt, seq := s.nextId, clauseId := r.clauseId, slot := s.cur.slot,
    half := g.undoable s.cur.slot, sup := g.supervisor, upds := upds, sticky := sticky }

theorem pendResult_eq {s : State} {g : Group} {r : Running} (hg : s.group? s.cur.gid = some g)
    (hr : (g.slot s.cur.slot).running = some r) (lat : Nat) (upds : List RegUpd) (sticky : List (Nat × BitVec 16)) :
    s.pendResult lat upds sticky =
      { s.setGroup s.cur.gid { g with results := g.results ++ [s.pending g r lat upds sticky] } with nextId := s.nextId + 1 } := by
  unfold State.pendResult
  simp only [hg, hr]
  rfl

/-- Settles O14: the frame of an issued instruction, in the group that has its result queued. -/
theorem issueLeavesRegistersAndMemory : Obligations.IssueLeavesRegistersAndMemory := by
  intro s g r lat upds bits hg hr hp t
  let q := s.pending g r lat upds bits
  let g' : Group := { g with results := g.results ++ [q] }
  let s' : State := { s.setGroup s.cur.gid g' with nextId := s.nextId + 1 }
  have ht : t = s'.advance := congrArg State.advance (pendResult_eq hg hr lat upds bits)
  have hg' : s'.group? s'.cur.gid = some g' := group?_setGroup_same ..
  obtain ⟨hchanges, hothers, hfree⟩ := advance_changes hg' hr hp
  have hstill := still_issuedIn s' g' r
  have hrunning := running_issuedIn s' g' r
  have keeps {α : Type} (p : Group → α) : p (s'.issuedIn g' r).still = p g'.still := congrArg p hstill
  rw [ht]
  refine ⟨hchanges.trans rfl, fun n hn => (hothers n hn).trans (group?_setGroup_other s g' hn), s'.issuedIn g' r,
    group?_advance hg' hr hp, keeps Group.vregs, keeps Group.written, keeps Group.sregs, keeps Group.supS, keeps Group.preds,
    keeps Group.supP7, keeps Group.mode, keeps Group.faddr, keeps Group.xmask, keeps Group.tr, keeps Group.ops,
    keeps Group.spill, keeps Group.supervisor, keeps Group.trapReq, fun f hf => flag_issuedIn s' r hf,
    fun hhalf => retired_issuedIn s' r hhalf, fun hmore => ?_, fun hlast => ?_, q, keeps Group.results, rfl, rfl, rfl, rfl, rfl⟩
  · exact ⟨r.next s.cycle, hrunning.trans (if_pos hmore), rfl, rfl⟩
  · exact ⟨hrunning.trans (if_neg (Nat.not_lt.mpr hlast)), hfree hlast⟩

end Sys2Proof.Machine
end

section
/-!
PROOFS. O26: an operation counts once on its flag, and acts after the earlier accesses it must follow (R52, R235, R242, R371).
-/
namespace Sys2Proof.Machine

/-! ### An operation enters -/

/-- The operation that the instruction at `cur` enters. -/
def State.entered (s : State) (g : Group) (sel mer : Bool) (kind : OpKind) : Op :=
  { slot := s.cur.slot, flag := some (unitFlag (decodeHeader s.cur.header) sel), counts := 1, wordAt := s.cur.addr,
    half := g.undoable s.cur.slot, sup := g.supervisor, mer := boolBit mer, place := g.firstIssue s.cur.slot, clock := g.lclk,
    issueAt := s.cycle, startAt := g.startOf s.cur.slot, kind := kind }

/-- The group with an operation of number n more, counted on its flag. -/
def Group.withOp (g : Group) (n f : Nat) (o : Op) : Group := { g.incFlag f with ops := dput g.ops n o }

/-- The group of the instruction at `cur`, with the operation that it enters. -/
def State.withEntered (s : State) (g : Group) (sel mer : Bool) (kind : OpKind) : Group :=
  g.withOp s.nextId (unitFlag (decodeHeader s.cur.header) sel) (s.entered g sel mer kind)

theorem addOpMer_eq {s : State} {g : Group} (hg : s.group? s.cur.gid = some g) (sel mer : Bool) (kind : OpKind) :
    s.addOpMer sel mer kind =
      { s.setGroup s.cur.gid (s.withEntered g sel mer kind) with nextId := s.nextId + 1 } := by
  unfold State.addOpMer
  simp only [hg]
  rfl

/-- Only a replay has numbers of a first issue (R133). -/
theorem firstIssue_of_not_replay {g : Group} {k : Nat} {r : Running} (hr : (g.slot k).running = some r) (hp : r.replay = false) :
    g.firstIssue k = none := by
  unfold Group.firstIssue
  rw [hr]
  split
  next x c t hx hc =>
    obtain rfl := Option.some.inj hx
    simp [hp]
  · rfl

theorem flag_withOp_same (g : Group) (n f : Nat) (o : Op) : (g.withOp n f o).flag f = g.flag f + 1 :=
  tget_tset_same 0 g.flags f (g.flag f + 1)

theorem flag_withOp_other (g : Group) (n : Nat) {f m : Nat} (o : Op) (h : m ≠ f) : (g.withOp n f o).flag m = g.flag m :=
  tget_tset_other 0 g.flags (g.flag f + 1) h

/-- The frame of an instruction that enters an operation (R52, R55). -/
theorem addOpMer_advance (s : State) (g : Group) (r : Running) (sel mer : Bool) (kind : OpKind)
    (hg : s.group? s.cur.gid = some g) (hr : (g.slot s.cur.slot).running = some r) (hp : r.replay = false) :
    let h0 := decodeHeader s.cur.header
    let f := (if sel then h0.bflag else h0.aflag).toNat
    let t := (s.addOpMer sel mer kind).advance
    t = { s with groups := t.groups, slotFree := t.slotFree, nextId := s.nextId + 1 } ∧
    (∀ n, n ≠ s.cur.gid → t.group? n = s.group? n) ∧
    ∃ h : Group, t.group? s.cur.gid = some h ∧
      dget h.ops s.nextId = some { slot := s.cur.slot, flag := some f, counts := 1, wordAt := s.cur.addr,
                                   half := g.undoable s.cur.slot, sup := g.supervisor, mer := if mer then 1 else 0,
                                   clock := g.lclk, issueAt := s.cycle, startAt := g.startOf s.cur.slot,
                                   kind := kind } ∧
      (∀ n, n ≠ s.nextId → dget h.ops n = dget g.ops n) ∧
      ((∀ c ∈ g.counts, c.flag ≠ f) → h.flag f = g.flag f + 1) ∧
      (∀ n, n ≠ f → (∀ c ∈ g.counts, c.flag ≠ n) → h.flag n = g.flag n) ∧
      ((g.half? s.cur.slot).isNone → h.dix = g.dix + 1 ∧ h.lclk = g.lclk + 1) ∧
      h.vregs = g.vregs ∧ h.sregs = g.sregs ∧ h.supS = g.supS ∧ h.preds = g.preds ∧ h.mode = g.mode ∧
      h.xmask = g.xmask ∧ h.tr = g.tr ∧ h.spill = g.spill ∧ h.results = g.results ∧ h.trapReq = g.trapReq := by
  intro h0 f t
  have hf : unitFlag h0 sel = f := by
    show unitFlag h0 sel = (if sel then h0.bflag else h0.aflag).toNat
    cases sel <;> rfl
  let o := s.entered g sel mer kind
  let g' := g.withOp s.nextId f o
  let s' : State := { s.setGroup s.cur.gid g' with nextId := s.nextId + 1 }
  have ht : t = s'.advance := by
    show (s.addOpMer sel mer kind).advance = _
    rw [addOpMer_eq hg, State.withEntered, hf]
  have hg' : s'.group? s'.cur.gid = some g' := group?_setGroup_same ..
  obtain ⟨hchanges, hothers, -⟩ := advance_changes hg' hr hp
  have keeps {α : Type} (p : Group → α) : p (s'.issuedIn g' r).still = p g'.still := congrArg p (still_issuedIn s' g' r)
  have hops : (s'.issuedIn g' r).ops = dput g.ops s.nextId o := keeps Group.ops
  have ho : o = { slot := s.cur.slot, flag := some f, counts := 1, wordAt := s.cur.addr, half := g.undoable s.cur.slot,
                  sup := g.supervisor, mer := if mer then 1 else 0, clock := g.lclk, issueAt := s.cycle,
                  startAt := g.startOf s.cur.slot, kind := kind } := by
    show s.entered g sel mer kind = _
    rw [State.entered, firstIssue_of_not_replay hr hp, hf]
    rfl
  rw [ht]
  refine ⟨hchanges.trans rfl, fun n hn => (hothers n hn).trans (group?_setGroup_other s g' hn), s'.issuedIn g' r,
    group?_advance hg' hr hp, ?_, fun n hn => ?_, fun hc => ?_, fun n hn hc => ?_, fun hhalf => retired_issuedIn s' r hhalf,
    keeps Group.vregs, keeps Group.sregs, keeps Group.supS, keeps Group.preds, keeps Group.mode, keeps Group.xmask,
    keeps Group.tr, keeps Group.spill, keeps Group.results, keeps Group.trapReq⟩
  · rw [hops, dget_dput_same, ho]
  · rw [hops, dget_dput_other _ _ hn]
  · exact (flag_issuedIn (g := g') s' r hc).trans (flag_withOp_same g s.nextId f o)
  · exact (flag_issuedIn (g := g') s' r hc).trans (flag_withOp_other g s.nextId o hn)

/-! ### What holds an operation back -/

/-- A pending operation that is no access, does not synchronise and waits for nothing holds none back. -/
theorem blocks_eq_false {e : Op} (hacc : e.kind.isAccess = false) (hsync : e.kind.syncs = false) (hwait : e.kind.waitsFor = false)
    (o : Op) (fenced free : Bool) : e.blocks o fenced free = false := by
  have hacq : e.kind.acquires = false := by
    cases hk : e.kind <;> simp_all [OpKind.isAccess, OpKind.acquires]
  have hrel : e.toRelease = false := by
    unfold Op.toRelease
    cases hk : e.kind <;> simp_all [OpKind.isAccess]
  have hhold : e.holds o = false := by
    unfold Op.holds
    rw [hwait]
    cases hk : e.kind <;> simp_all [OpKind.syncs]
  simp [Op.blocks, hacq, hrel, hhold, hsync, hacc]

theorem mem_dput_of_ne {α : Type} {k : Nat} {v : α} {t : Dict α} {e : Nat × α} (h : e ∈ t) (hk : e.1 ≠ k) : e ∈ dput t k v := by
  induction t with
  | nil => cases h
  | cons x t ih =>
    obtain ⟨j, w⟩ := x
    simp only [dput]
    split
    · exact List.mem_cons_of_mem _ h
    · split
      · rename_i hj
        rcases List.mem_cons.mp h with rfl | h
        · exact absurd hj hk
        · exact List.mem_cons_of_mem _ h
      · rcases List.mem_cons.mp h with rfl | h
        · exact List.mem_cons_self
        · exact List.mem_cons_of_mem _ (ih h)

/-- The pending operations before number n are none that hold an operation back (R235, R242, R262). -/
def Group.quietBefore (g : Group) (n : Nat) : Prop :=
  ∀ e ∈ g.ops, e.2.at_ e.1 < n → e.2.kind.isAccess = false ∧ e.2.kind.syncs = false ∧ e.2.kind.waitsFor = false

/-- An access that an operation of number n must follow is pending (R235, R242). -/
def Group.busyBefore (g : Group) (n : Nat) : Prop :=
  ∃ e ∈ g.ops, e.1 ≠ n ∧ e.2.at_ e.1 < n ∧ e.2.kind.isAccess = true ∧ e.2.held = false

/-- With nothing before it, an operation that has just entered may be performed. -/
theorem canPerform_of_quiet {g : Group} {n : Nat} (f : Nat) {o : Op} (hq : g.quietBefore n) (hplace : o.place = none)
    (hheld : o.held = false) (hmer : o.mer = 0) : (g.withOp n f o).canPerform n o = true := by
  have hat : o.at_ n = n := by simp [Op.at_, hplace]
  unfold Group.canPerform
  dsimp only
  rw [hheld, hmer, hat]
  simp only [Bool.not_false, BEq.rfl, Bool.true_or, Bool.true_and, List.all_eq_true, List.mem_filter, Bool.and_eq_true,
    decide_eq_true_eq, Bool.not_eq_true']
  rintro e ⟨he, ⟨hlt, -⟩, -⟩
  rcases mem_dput he with rfl | he
  · exact absurd hlt (by simp [hat])
  · obtain ⟨hacc, hsync, hwait⟩ := hq e he hlt
    exact blocks_eq_false hacc hsync hwait ..

/-- A pending access before it keeps an operation that follows accesses waiting. -/
theorem canPerform_of_busy {g : Group} {n : Nat} (f : Nat) {o : Op} (hb : g.busyBefore n) (hplace : o.place = none)
    (hrel : o.kind.releases = true) (hdet : g.det = false) : (g.withOp n f o).canPerform n o = false := by
  obtain ⟨e, he, hne, hlt, hacc, hheld⟩ := hb
  have hat : o.at_ n = n := by simp [Op.at_, hplace]
  have hdet' : (g.withOp n f o).det = false := hdet
  have hmem : e ∈ (g.withOp n f o).ops := mem_dput_of_ne he hne
  unfold Group.canPerform
  rw [hat, hdet']
  refine Bool.and_eq_false_iff.mpr (.inr (List.all_eq_false.mpr ⟨e, List.mem_filter.mpr ⟨hmem, ?_⟩, ?_⟩))
  · simp [hlt, hheld]
  · simp [Op.blocks, hacc, hrel]

/-- An operation for a Meridian position waits for its answer (R371). -/
theorem canPerform_of_meridian (g : Group) (n : Nat) {o : Op} (h : o.mer = 1) : g.canPerform n o = false := by
  unfold Group.canPerform
  rw [h]
  simp

section
variable {s : State} {g : Group} {r : Running} (hg : s.group? s.cur.gid = some g)
include hg

/-- The operation that has entered, as the group that holds it sees it. -/
theorem entered_of_addOpMer (sel mer : Bool) (kind : OpKind) :
    ((s.addOpMer sel mer kind).group? (s.addOpMer sel mer kind).cur.gid).bind
        (fun g => (dget g.ops s.nextId).map (fun o => (g, o))) =
      some (s.withEntered g sel mer kind, s.entered g sel mer kind) := by
  rw [addOpMer_eq hg]
  show ((s.setGroup s.cur.gid (s.withEntered g sel mer kind)).group? s.cur.gid).bind _ = _
  rw [group?_setGroup_same]
  show (dget (dput g.ops s.nextId _) s.nextId).map _ = _
  rw [dget_dput_same]
  rfl

theorem afterNow_eq (sel mer : Bool) (act : AfterAct) (apply : State → Nat → Nat → State) :
    s.afterNow sel mer act apply =
      if (s.addOpMer sel mer (.after act)).canAct s.cur.gid (s.withEntered g sel mer (.after act)) s.nextId
          (s.entered g sel mer (.after act))
      then apply (s.addOpMer sel mer (.after act)) s.cur.gid s.nextId else s.addOpMer sel mer (.after act) := by
  unfold State.afterNow
  dsimp only
  rw [entered_of_addOpMer hg, addOpMer_eq hg]
  rfl

theorem opNow_eq (mer : Bool) (kind : OpKind) (apply : State → Nat → Nat → State) :
    s.opNow mer kind apply =
      if (s.addOpMer false mer kind).canAct s.cur.gid (s.withEntered g false mer kind) s.nextId (s.entered g false mer kind)
      then apply (s.addOpMer false mer kind) s.cur.gid s.nextId else s.addOpMer false mer kind := by
  unfold State.opNow
  dsimp only
  rw [entered_of_addOpMer hg, addOpMer_eq hg]
  rfl

end

section
variable {s : State} {g : Group} {r : Running} (hr : (g.slot s.cur.slot).running = some r) (hp : r.replay = false)
include hr hp

theorem canAct_of_quiet (t : State) (gid : Nat) (sel : Bool) {kind : OpKind} (hdet : g.det = false) (hq : g.quietBefore s.nextId)
    (hheld : (s.entered g sel false kind).held = false) :
    t.canAct gid (s.withEntered g sel false kind) s.nextId (s.entered g sel false kind) = true := by
  have hturn : t.detTurn gid (s.withEntered g sel false kind) (s.entered g sel false kind) = true := by
    have : (s.withEntered g sel false kind).det = false := hdet
    simp [State.detTurn, this]
  unfold State.canAct
  rw [hturn, Bool.and_true]
  exact canPerform_of_quiet _ hq (firstIssue_of_not_replay hr hp) hheld rfl

theorem canAct_of_busy (t : State) (gid : Nat) (sel mer : Bool) {kind : OpKind} (hdet : g.det = false)
    (hb : g.busyBefore s.nextId) (hrel : kind.releases = true) :
    t.canAct gid (s.withEntered g sel mer kind) s.nextId (s.entered g sel mer kind) = false := by
  unfold State.canAct
  rw [show (s.withEntered g sel mer kind).canPerform _ _ = false from
    canPerform_of_busy _ hb (firstIssue_of_not_replay hr hp) hrel hdet, Bool.false_and]

end

theorem canAct_of_meridian (s t : State) (g : Group) (gid : Nat) (sel : Bool) (kind : OpKind) :
    t.canAct gid (s.withEntered g sel true kind) s.nextId (s.entered g sel true kind) = false := by
  unfold State.canAct
  rw [canPerform_of_meridian _ _ rfl, Bool.false_and]

/-- An operation that is no access is no store that a half holds. -/
theorem held_eq_false {o : Op} (h : o.kind.isAccess = false) : o.held = false := by
  unfold Op.held
  cases hk : o.kind <;> simp_all [OpKind.isAccess]

/-- An effect is no store that a half holds. -/
theorem held_after {o : Op} {act : AfterAct} (h : o.kind = .after act) : o.held = false := by
  simp [Op.held, h]

/-- Settles O26: an operation enters as `withOp`, then the instruction retires; what may hold it back are the
operations before its own number. -/
theorem operationsEnterAndWait : Obligations.OperationsEnterAndWait := by
  refine ⟨addOpMer_advance, ?_⟩
  intro s g r sel mer apply hg hr hp hdet quiet busy
  refine ⟨fun act => ⟨fun hq hmer => ?_, fun hwait => ?_⟩, fun kind hacc => ⟨fun hq hmer => ?_, fun hmer => ?_⟩⟩
  · subst hmer
    rw [afterNow_eq hg, if_pos (canAct_of_quiet hr hp _ _ sel hdet hq (held_after rfl))]
  · rw [afterNow_eq hg, if_neg]
    rcases hwait with hb | rfl
    · simp [canAct_of_busy hr hp _ _ sel mer hdet hb (kind := .after act) rfl]
    · simp [canAct_of_meridian]
  · subst hmer
    rw [opNow_eq hg, if_pos (canAct_of_quiet hr hp _ _ false hdet hq (held_eq_false hacc))]
  · subst hmer
    rw [opNow_eq hg, if_neg (by simp [canAct_of_meridian])]

end Sys2Proof.Machine
end

section
/-!
PROOFS. O19: illegal words, privileged words and TRAP (R59, R75, R145). Refuted: TRAP ends its clause, and where the clause
counts as a whole on the same flag, that count goes down in the same step.
-/
namespace Sys2Proof.Machine

/-- TRAP with the number 9, on flag A. -/
def trap9 : QFields := { form := .f11, neg := false, pred := 0, sa := 4, sb := 0, obj := 0, imm := 9, fsel := false }

/-- A SYS clause of NOP and TRAP with flag A = 0, at its TRAP. -/
def trapClauseRun : Running :=
  { cslot := 0, clause := { addr := 0x10000, header := 0x8200100000000000, words := [0xFF80000000000000, 0x1580040000001200] },
    idx := 1, count := 2, readyAt := 0, startAt := 0, clauseId := 7 }

/-- A group that runs the clause. For its NOP the clause counts as a whole on flag 0 (R52); no result is on its way. -/
def trapGroup : Group :=
  { team := 0, g := 0, gridKey := 0, ctx := 0, slot0 := { mask := 1, running := some trapClauseRun }, flags := [(0, 1)],
    counts := [{ clauseId := 7, flag := 0, ended := false }] }

/-- The machine with that group, at the TRAP. -/
def trapInCountedClause : State :=
  { State.reset with
    groups := [(0, trapGroup)]
    cur := { addr := 0x10010, word := 0x1580040000001200, mask := 1, idx := 1, header := 0x8200100000000000, clauseAt := 0x10000 } }

/-- The flags of a group that a step leaves. -/
def flagsAfter (o : Host.Outcome State Fault Refusal) (gid : Nat) : Option (Tab Nat) :=
  match o with
  | .next t => (t.group? gid).map Group.flags
  | _ => none

/-- The TRAP counts on flag 0, and the end of the clause takes the clause's count from it. -/
theorem flagsAfter_trapInCountedClause : flagsAfter (exec (.trap trap9) trapInCountedClause) 0 = some [(0, 1)] := by
  decide +kernel

/-- Refutes O19 in the clause that a TRAP raises its flag and leaves the others as they are: the step also stops the slot,
which ends the clause, and the count of the clause (R52) may be on the same flag. -/
theorem not_illegalPrivilegedAndTrap : ¬ Obligations.IllegalPrivilegedAndTrap := by
  unfold Obligations.IllegalPrivilegedAndTrap
  rintro ⟨-, trap⟩
  have issues : trapInCountedClause.issues (.trap trap9) trapGroup trapClauseRun := ⟨rfl, rfl, by decide, by decide⟩
  obtain ⟨t, h, answers, hgroup, effect⟩ := trap _ _ _ _ issues rfl rfl
  obtain ⟨-, -, raised⟩ := effect.1 rfl
  have counted := flagsAfter_trapInCountedClause
  have left : flagsAfter (exec (.trap trap9) trapInCountedClause) 0 = some h.flags := by
    rw [answers]
    exact congrArg (Option.map Group.flags) hgroup
  rw [left, raised] at counted
  exact absurd counted (by decide)

end Sys2Proof.Machine
end

section
/-!
PROOFS. O21: results, fills of the register cache and the end of a yield bar (R56, R110, R113, R190).
-/
namespace Sys2Proof.Machine

/-! ### Lanes of a line (R61) -/

theorem getLsbD_packLanes (f : Nat → Word32) {n k : Nat} (hn : n ≤ 64) (hk : k < 2048) :
    (packLanes n f).getLsbD k = (decide (k / 32 < n) && (f (k / 32)).getLsbD (k % 32)) := by
  induction n with
  | zero => simp [packLanes]
  | succ n ih =>
    rw [packLanes, BitVec.getLsbD_or, ih (by omega), BitVec.getLsbD_shiftLeft]
    rcases Nat.lt_trichotomy (k / 32) n with hlt | heq | hgt
    · simp [hlt, show k < 32 * n by omega, show k / 32 < n + 1 by omega]
    · have hbit : k - 32 * n = k % 32 := by omega
      simp [heq, hk, hbit, show ¬ k < 32 * n by omega, show k % 32 < 2048 by omega]
    · have hout : (f n).getLsbD (k - 32 * n) = false := BitVec.getLsbD_of_ge _ _ (by omega)
      simp [hout, show ¬ k / 32 < n by omega, show ¬ k / 32 < n + 1 by omega]

theorem lane_mkLine (f : Nat → Word32) {i : Nat} (hi : i < 64) : lane (mkLine f) i = f i := by
  refine BitVec.eq_of_getLsbD_eq fun j hj => ?_
  rw [lane, BitVec.getLsbD_extractLsb', mkLine, getLsbD_packLanes f le_rfl (by omega)]
  simp [hj, show (32 * i + j) / 32 = i by omega, show (32 * i + j) % 32 = j by omega, hi]

theorem lane_mergeLine (m : Mask) (old new : Line) {i : Nat} (hi : i < 64) :
    lane (mergeLine m old new) i = if m.getLsbD i then lane new i else lane old i := lane_mkLine _ hi

theorem lane_setVreg (g : Group) (n : Nat) (m : Mask) (l : Line) {i : Nat} (hi : i < 64) :
    lane ((g.setVreg n m l).vreg n) i = if m.getLsbD i then lane l i else lane (g.vreg n) i := by
  have hput : (g.setVreg n m l).vreg n = mergeLine m (g.vreg n) l :=
    tget_tset_same 0 g.vregs (imageLine g.budget n) (mergeLine m (g.vreg n) l)
  rw [hput, lane_mergeLine m _ _ hi]

theorem setVreg_vregs_other (g : Group) {n j : Nat} (m : Mask) (l : Line) (hj : j ≠ imageLine g.budget n) :
    tget 0 (g.setVreg n m l).vregs j = tget 0 g.vregs j :=
  tget_tset_other 0 g.vregs (mergeLine m (tget 0 g.vregs (imageLine g.budget n)) l) hj

theorem setVreg_written_same (g : Group) {n : Nat} {m : Mask} (l : Line) (hm : m ≠ 0) (hn : imageLine g.budget n < 2048) :
    (g.setVreg n m l).written.getLsbD (imageLine g.budget n) = true := by
  rw [Group.setVreg, if_neg hm, BitVec.getLsbD_or, BitVec.getLsbD_shiftLeft]
  simp [hn]

/-! ### A predicate's bits (R71) -/

theorem setPregAs_zero (g : Group) (sup : Bool) (m b : Mask) : g.setPregAs sup 0 m b = g := rfl

theorem preg_setPregAs (g : Group) {n : Nat} (m b : Mask) (hn : n ≠ 0) :
    (g.setPregAs g.supervisor n m b).preg n = (g.preg n &&& ~~~m) ||| (b &&& m) := by
  cases hb : (g.supervisor && n == 7) <;> simp [Group.preg, Group.setPregAs, Group.pregAs, hn, hb]

theorem setPregAs_banks (g : Group) (sup : Bool) (n : Nat) (m b : Mask) :
    (g.setPregAs sup n m b).vregs = g.vregs ∧ (g.setPregAs sup n m b).sregs = g.sregs := by
  unfold Group.setPregAs
  dsimp only
  repeat' split
  all_goals exact ⟨rfl, rfl⟩

/-! ### A scalar's write (R190) -/

theorem putSca_of_not_newest {g : Group} {sup : Bool} {n at_ start : Nat} (x : Word64) (h : ¬ g.newest sup n at_ start) :
    g.putSca sup n x at_ start = g := by
  unfold Group.putSca
  dsimp only
  split
  next hnone => exact absurd (fun i j hij => by rw [hnone] at hij; cases hij) h
  next i j hij =>
    have hlater : (decide (at_ < i) || (at_ == i && decide (start < j))) = true := by
      by_contra hnot
      refine h fun i' j' hij' => ?_
      rw [hij] at hij'
      cases hij'
      simp only [Bool.or_eq_true, decide_eq_true_eq, Bool.and_eq_true, beq_iff_eq] at hnot
      omega
    exact if_pos hlater

theorem putSca_banks (g : Group) (sup : Bool) (n : Nat) (x : Word64) (at_ start : Nat) :
    (g.putSca sup n x at_ start).vregs = g.vregs ∧ (g.putSca sup n x at_ start).preds = g.preds := by
  unfold Group.putSca Group.setSregAs
  dsimp only
  repeat' split
  all_goals exact ⟨rfl, rfl⟩

/-- A write in user mode is to the user's bank, and to its register only. -/
theorem putSca_user (g : Group) (n : Nat) (x : Word64) (at_ start : Nat) :
    (g.putSca false n x at_ start).supS = g.supS ∧
      ∀ j, j ≠ n → tget 0 (g.putSca false n x at_ start).sregs j = tget 0 g.sregs j := by
  have hput : ∀ j, j ≠ n → tget 0 (tset 0 g.sregs n x) j = tget 0 g.sregs j := fun j hj => tget_tset_other 0 g.sregs x hj
  unfold Group.putSca
  dsimp only
  split
  · exact ⟨rfl, hput⟩
  · split
    · exact ⟨rfl, fun _ _ => rfl⟩
    · exact ⟨rfl, hput⟩

/-! ### The first of the results -/

theorem firstOf_mem {α : Type} {lt : α → α → Bool} {l : List α} {p : α} (h : firstOf lt l = some p) : p ∈ l := by
  induction l generalizing p with
  | nil => cases h
  | cons x t ih =>
    simp only [firstOf] at h
    split at h
    · cases h; exact List.mem_cons_self
    next y hy =>
      cases h
      split
      · exact List.mem_cons_of_mem _ (ih hy)
      · exact List.mem_cons_self

/-- What comes before every other comes first. -/
theorem firstOf_eq {α : Type} {lt : α → α → Bool} {l : List α} {p : α} (hp : p ∈ l)
    (hfirst : ∀ q ∈ l, q ≠ p → lt p q = true ∧ lt q p = false) : firstOf lt l = some p := by
  induction l with
  | nil => cases hp
  | cons x t ih =>
    have hrest (q : α) (hq : q ∈ t) (hne : q ≠ p) := hfirst q (List.mem_cons_of_mem _ hq) hne
    simp only [firstOf]
    by_cases hpt : p ∈ t
    · rw [ih hpt hrest]
      by_cases hx : x = p
      · simp [hx]
      · simp [hfirst x List.mem_cons_self hx]
    · obtain rfl : p = x := (List.mem_cons.mp hp).resolve_right hpt
      split
      · rfl
      next y hy =>
        have hyt := firstOf_mem hy
        have hne : y ≠ p := fun h => hpt (h ▸ hyt)
        simp [hrest y hyt hne]

/-! ### The write of a result (R56, R139, R165) -/

/-- One register update of a result. -/
def Group.putUpd (p : Pending) (g : Group) : RegUpd → Group
  | .vec r m l => (if p.half then g.shadow p.slot r else g).setVreg r m l
  | .sca r x => g.putSca p.sup r x p.issueAt p.startAt
  | .pred r m b => g.setPregAs p.sup r m b

theorem writeResult_eq (g : Group) (p : Pending) :
    g.writeResult p = ((p.upds.foldl (Group.putUpd p) g).takeSticky p).settleCounts := rfl

/-- The group but for what the sticky bits and the flags of ended clauses change. -/
def Group.banks (g : Group) : Group := { g with slot0 := {}, slot1 := {}, mode := 0, counts := [], flags := [] }

theorem banks_takeSticky {g : Group} {p : Pending} (hhalf : p.half = false) : (g.takeSticky p).settleCounts.banks = g.banks := by
  unfold Group.takeSticky
  rw [hhalf]
  rfl

theorem mode_takeSticky {g : Group} {p : Pending} (hhalf : p.half = false) :
    (g.takeSticky p).settleCounts.mode = g.mode ||| stickyOr p.sticky (fun _ => true) := by
  unfold Group.takeSticky
  rw [hhalf]
  rfl

/-- An update touches registers only. -/
theorem putUpd_keeps {p : Pending} (hhalf : p.half = false) (g : Group) (u : RegUpd) :
    (g.putUpd p u).results = g.results ∧ (g.putUpd p u).closedAt = g.closedAt ∧ (g.putUpd p u).mode = g.mode := by
  cases u with
  | vec r m l => simp [Group.putUpd, hhalf]
  | sca r x =>
    simp only [Group.putUpd]
    unfold Group.putSca Group.setSregAs
    dsimp only
    repeat' split
    all_goals exact ⟨rfl, rfl, rfl⟩
  | pred r m b =>
    simp only [Group.putUpd]
    unfold Group.setPregAs
    dsimp only
    repeat' split
    all_goals exact ⟨rfl, rfl, rfl⟩

theorem foldl_putUpd_keeps {p : Pending} (hhalf : p.half = false) (us : List RegUpd) (g : Group) :
    (us.foldl (Group.putUpd p) g).results = g.results ∧ (us.foldl (Group.putUpd p) g).closedAt = g.closedAt ∧
      (us.foldl (Group.putUpd p) g).mode = g.mode := by
  induction us generalizing g with
  | nil => exact ⟨rfl, rfl, rfl⟩
  | cons u us ih =>
    obtain ⟨hresults, hclosed, hmode⟩ := putUpd_keeps hhalf g u
    obtain ⟨hresults', hclosed', hmode'⟩ := ih (g.putUpd p u)
    exact ⟨hresults'.trans hresults, hclosed'.trans hclosed, hmode'.trans hmode⟩

/-- The group without the result p, at the end of a cycle. -/
def Group.closing (g : Group) (p : Pending) (cycle : Nat) : Group :=
  { g with results := g.results.filter (fun q => q != p), closedAt := some cycle }

theorem modGroup_eq {s : State} {gid : Nat} {g : Group} (hg : s.group? gid = some g) (f : Group → Group) :
    s.modGroup gid f = s.setGroup gid (f g) := by
  have hget : dget s.groups gid = some g := hg
  rw [State.modGroup, hget]

theorem exec_resultWrite {s : State} {gid : Nat} {g : Group} {p : Pending} (hg : s.group? gid = some g)
    (hfirst : firstOf Pending.before g.results = some p) (hdue : p.due ≤ s.cycle + 1) :
    exec (.resultWrite gid) s = .next (s.setGroup gid ((g.closing p s.cycle).writeResult p)) := by
  show execResultWrite gid s = _
  rw [execResultWrite, modGroup_eq hg, hfirst]
  dsimp only
  rw [if_neg (by omega)]
  rfl

section
variable {g : Group} {p : Pending} {u : RegUpd} (hhalf : p.half = false)
include hhalf

/-- A result of one update leaves what the update leaves. -/
theorem banks_writeResult (hupds : p.upds = [u]) : (g.writeResult p).banks = (g.putUpd p u).banks := by
  rw [writeResult_eq, banks_takeSticky hhalf, hupds]
  rfl

theorem writeResult_keeps : (g.writeResult p).results = g.results ∧ (g.writeResult p).closedAt = g.closedAt ∧
    (g.writeResult p).mode = g.mode ||| stickyOr p.sticky (fun _ => true) := by
  obtain ⟨hresults, hclosed, hmode⟩ := foldl_putUpd_keeps hhalf p.upds g
  have hbanks := banks_takeSticky (g := p.upds.foldl (Group.putUpd p) g) hhalf
  rw [writeResult_eq]
  refine ⟨(congrArg Group.results hbanks).trans hresults, (congrArg Group.closedAt hbanks).trans hclosed, ?_⟩
  rw [mode_takeSticky hhalf, hmode]

theorem writeResult_vec {n : Nat} {m : Mask} {l : Line} (hupds : p.upds = [.vec n m l]) :
    (g.writeResult p).banks = (g.setVreg n m l).banks := by
  rw [banks_writeResult hhalf hupds, Group.putUpd, hhalf]
  rfl

end

/-- RESULT_WRITE (R56, R61, R71, R139, R165, R190). -/
theorem resultWrite_effect (s : State) (gid : Nat) (g : Group) (p : Pending) (hg : s.group? gid = some g) (hp : p ∈ g.results)
    (hfirst : ∀ q ∈ g.results, q ≠ p → p.before q = true ∧ q.before p = false) (hdue : p.due ≤ s.cycle + 1)
    (hhalf : p.half = false) :
    ∃ h : Group, exec (.resultWrite gid) s = .next (s.setGroup gid h) ∧ p ∉ h.results ∧
      (∀ q ∈ g.results, q ≠ p → q ∈ h.results) ∧ h.closedAt = some s.cycle ∧
      h.mode = g.mode ||| stickyOr p.sticky (fun _ => true) ∧
      (∀ n m l, p.upds = [.vec n m l] →
        (∀ i < 64, lane (h.vreg n) i = if m.getLsbD i then lane l i else lane (g.vreg n) i) ∧
        (∀ j, j ≠ imageLine g.budget n → tget 0 h.vregs j = tget 0 g.vregs j) ∧
        (m ≠ 0 → imageLine g.budget n < 2048 → h.written.getLsbD (imageLine g.budget n) = true) ∧
        h.sregs = g.sregs ∧ h.preds = g.preds) ∧
      (∀ n x, p.upds = [.sca n x] → h.vregs = g.vregs ∧ h.preds = g.preds ∧
        let newest := g.newest p.sup n p.issueAt p.startAt
        (newest → p.sup = g.supervisor → h.sreg n = x) ∧ (¬ newest → h.sregs = g.sregs ∧ h.supS = g.supS) ∧
        (p.sup = false → h.supS = g.supS ∧ ∀ j, j ≠ n → tget 0 h.sregs j = tget 0 g.sregs j)) ∧
      (∀ n m b, p.upds = [.pred n m b] → h.vregs = g.vregs ∧ h.sregs = g.sregs ∧
        (n = 0 → h.preds = g.preds ∧ h.supP7 = g.supP7) ∧
        (n ≠ 0 → p.sup = g.supervisor →
          ∀ i < 64, (h.preg n).getLsbD i = if m.getLsbD i then b.getLsbD i else (g.preg n).getLsbD i)) := by
  let c := g.closing p s.cycle
  obtain ⟨hresults, hclosed, hmode⟩ := writeResult_keeps (g := c) hhalf
  refine ⟨c.writeResult p, exec_resultWrite hg (firstOf_eq hp hfirst) hdue, ?_, fun q hq hne => ?_, hclosed, hmode,
    fun n m l hupds => ?_, fun n x hupds => ?_, fun n m b hupds => ?_⟩
  · rw [hresults]
    simp [c, Group.closing]
  · rw [hresults]
    simp [c, Group.closing, hq, hne]
  · have hbanks := writeResult_vec (g := c) hhalf hupds
    refine ⟨fun i hi => ?_, fun j hj => ?_, fun hm hn => ?_, (congrArg Group.sregs hbanks).trans rfl,
      (congrArg Group.preds hbanks).trans rfl⟩
    · exact (congrArg (fun h : Group => lane (h.vreg n) i) hbanks).trans (lane_setVreg c n m l hi)
    · exact (congrArg (fun h : Group => tget 0 h.vregs j) hbanks).trans (setVreg_vregs_other c m l hj)
    · exact (congrArg (fun h : Group => h.written.getLsbD (imageLine g.budget n)) hbanks).trans
        (setVreg_written_same c l hm hn)
  · have hbanks : (c.writeResult p).banks = (c.putSca p.sup n x p.issueAt p.startAt).banks :=
      banks_writeResult (u := .sca n x) hhalf hupds
    obtain ⟨hvregs, hpreds⟩ := putSca_banks c p.sup n x p.issueAt p.startAt
    refine ⟨(congrArg Group.vregs hbanks).trans hvregs, (congrArg Group.preds hbanks).trans hpreds, fun hnew hsup => ?_,
      fun hnot => ?_, fun hsup => ?_⟩
    · refine (congrArg (fun h : Group => h.sreg n) hbanks).trans ?_
      rw [hsup] at hnew ⊢
      exact sreg_putSca_of_newest (g := c) hnew
    · rw [putSca_of_not_newest (g := c) x hnot] at hbanks
      exact ⟨(congrArg Group.sregs hbanks).trans rfl, (congrArg Group.supS hbanks).trans rfl⟩
    · rw [hsup] at hbanks
      obtain ⟨hsupS, hsregs⟩ := putSca_user c n x p.issueAt p.startAt
      exact ⟨(congrArg Group.supS hbanks).trans hsupS,
        fun j hj => (congrArg (fun h : Group => tget 0 h.sregs j) hbanks).trans (hsregs j hj)⟩
  · have hbanks : (c.writeResult p).banks = (c.setPregAs p.sup n m b).banks :=
      banks_writeResult (u := .pred n m b) hhalf hupds
    obtain ⟨hvregs, hsregs⟩ := setPregAs_banks c p.sup n m b
    refine ⟨(congrArg Group.vregs hbanks).trans hvregs, (congrArg Group.sregs hbanks).trans hsregs, fun hn => ?_,
      fun hn hsup i hi => ?_⟩
    · rw [hn, setPregAs_zero] at hbanks
      exact ⟨(congrArg Group.preds hbanks).trans rfl, (congrArg Group.supP7 hbanks).trans rfl⟩
    · rw [hsup] at hbanks
      have hpreg : (c.writeResult p).preg n = (g.preg n &&& ~~~m) ||| (b &&& m) :=
        (congrArg (fun h : Group => h.preg n) hbanks).trans (preg_setPregAs c m b hn)
      rw [hpreg, BitVec.getLsbD_or, BitVec.getLsbD_and, BitVec.getLsbD_and, BitVec.getLsbD_not]
      cases m.getLsbD i <;> simp [hi]

/-! ### REGISTER_FILL and YIELD_BAR_LIFT (R110, R111, R113) -/

theorem exec_registerFill {s : State} {part gid line : Nat} {g : Group} (hg : s.group? gid = some g) (hpart : g.part = part)
    (hwants : s.wantsLine part gid line = true) (hmiss : ∀ x ∈ s.rlines part, x.is gid line = false) :
    let put (l : List CacheLine) : State :=
      { s with rcache := dput s.rcache part ({ gid := gid, line := line, since := s.cycle + 1 } :: l) }
    exec (.registerFill part gid line) s = .next
      (if (s.rlines part).length + s.shadowCount part < 1024 then put (s.rlines part)
       else match s.victim part gid (s.rlines part) with
        | none => s
        | some v => put ((s.rlines part).filter (fun x => x != v))) := by
  have hany : (s.rlines part).any (fun x => x.is gid line) = false := by simpa using hmiss
  show execRegisterFill part gid line s = _
  unfold execRegisterFill
  simp only [hg]
  rw [if_neg (by simp [hpart, hany, hwants])] <;> rfl

theorem exec_yieldBarLift {s : State} {gid n : Nat} {g : Group} (hg : s.group? gid = some g) (hbar : g.yieldAt = some n) :
    exec (.yieldBarLift gid) s = .next (s.setGroup gid (if n + 16 ≤ s.cycle then { g with yieldAt := none } else g)) := by
  show execYieldBarLift gid s = _
  rw [execYieldBarLift, modGroup_eq hg, hbar]

/-- Settles O21: a result that comes before every other is the first of the list, and its write touches its register, its
sticky bits and the flag of its clause only. -/
theorem registerWritesArrive : Obligations.RegisterWritesArrive := by
  refine ⟨resultWrite_effect, ?_, fun s gid n g hg hbar => exec_yieldBarLift hg hbar⟩
  intro s part gid line g hg hpart hwants c new hmiss
  have hfill := exec_registerFill hg hpart hwants hmiss
  dsimp only at hfill
  refine ⟨fun hroom => ?_, fun hfull v hv => ?_⟩
  · rw [hfill, if_pos hroom]
  · have hvictim : s.victim part gid (s.rlines part) = some v := hv
    rw [hfill, if_neg (Nat.not_lt.mpr hfull), hvictim]

end Sys2Proof.Machine
end

section
/-!
PROOFS. What the check of an access, the end of an instruction and a trap leave unchanged: the notes of the accesses on the one
hand, the groups but for their last-page registers (R217) on the other.
-/
namespace Sys2Proof.Machine

/-! ### The notes of an access are left as they are -/

theorem settled_of_access {s t : State} (h : t.access = s.access) (hs : s.settled) : t.settled := by
  simp only [State.access, Prod.mk.injEq] at h
  obtain ⟨habsent, hunready, hconflict, hown, hread, -⟩ := h
  simpa [State.settled, habsent, hunready, hconflict, hown, hread] using hs

theorem endClause_access (s : State) (gid k : Nat) (next counted : Bool) : (s.endClause gid k next counted).access = s.access := by
  unfold State.endClause
  split
  · rfl
  · dsimp only
    split <;> rfl

theorem advanceWith_access (s : State) (next counted : Bool) : (s.advanceWith next counted).access = s.access := by
  unfold State.advanceWith
  dsimp only
  split
  · rfl
  · split
    · rfl
    · split
      · rfl
      · exact endClause_access _ _ _ next counted

theorem advance_access (s : State) : s.advance.access = s.access := advanceWith_access s true true

theorem addOpMer_access (s : State) (sel mer : Bool) (kind : OpKind) : (s.addOpMer sel mer kind).access = s.access := by
  unfold State.addOpMer
  split <;> rfl

theorem stopSlot_access (s : State) (gid k idx : Nat) : (s.stopSlot gid k idx).access = s.access := by
  unfold State.stopSlot
  split
  · rfl
  · dsimp only
    split <;> rfl

theorem redoHalf_access (s : State) (gid k : Nat) : (s.redoHalf gid k).access = s.access := by
  unfold State.redoHalf
  split
  · rfl
  · dsimp only
    split <;> rfl

theorem terminate_access (s : State) (c : Nat) (reason : BitVec 8) (codes : BitVec 16) (detail grid : Word64) :
    (s.terminate c reason codes detail grid).access = s.access := by
  unfold State.terminate
  dsimp only
  split <;> rfl

theorem raiseTrap_access (s : State) (gid : Nat) (q : TrapReq) : (s.raiseTrap gid q).access = s.access := by
  have stopped (g : Group → Group) : ((s.stopSlot gid q.slot q.idx).modGroup gid g).access = s.access :=
    (modGroup_access ..).trans (stopSlot_access ..)
  unfold State.raiseTrap
  split
  · rfl
  · dsimp only
    split
    · exact (redoHalf_access ..).trans (stopSlot_access ..)
    · split
      · exact (terminate_access ..).trans (stopSlot_access ..)
      · split
        · exact stopped _
        · split
          · exact stopped _
          · split
            · exact stopped _
            · exact stopSlot_access ..

theorem wantPieces_access (s : State) (l : List (Nat × Nat × Nat)) : (s.wantPieces l).access = s.access := by
  induction l generalizing s with
  | nil => rfl
  | cons x l ih => exact (ih _).trans (modTeam_access ..)

/-! ### The check of a lane leaves the groups but for a last-page register (R217, R232) -/

/-- The group but for the last-page registers. -/
def Group.unpaged (g : Group) : Group := { g with lastPage := [] }

/-- What a state holds beyond its groups and what an access may change. -/
def State.apart (s : State) : State := { s.beyond with groups := [] }

/-- State t has all of s but for what an access may change and the last-page registers. -/
def State.checksTo (s t : State) : Prop :=
  t.apart = s.apart ∧ ∀ n, (t.group? n).map Group.unpaged = (s.group? n).map Group.unpaged

theorem checksTo_refl (s : State) : s.checksTo s := ⟨rfl, fun _ => rfl⟩

theorem checksTo_trans {s t u : State} (h : s.checksTo t) (h' : t.checksTo u) : s.checksTo u :=
  ⟨h'.1.trans h.1, fun n => (h'.2 n).trans (h.2 n)⟩

theorem checksTo_of_beyond {s t : State} (h : t.beyond = s.beyond) : s.checksTo t :=
  ⟨congrArg (fun x : State => { x with groups := [] }) h, fun n => congrArg (Option.map Group.unpaged) (group?_of_beyond h n)⟩

theorem cur_of_checksTo {s t : State} (h : s.checksTo t) : t.cur = s.cur :=
  show t.apart.cur = s.apart.cur from congrArg State.cur h.1

theorem cycle_of_checksTo {s t : State} (h : s.checksTo t) : t.cycle = s.cycle :=
  show t.apart.cycle = s.apart.cycle from congrArg State.cycle h.1

/-- A group after a check is the group before it, but for its last-page registers. -/
theorem group?_of_checksTo {s t : State} (h : s.checksTo t) {gid : Nat} {g : Group} (hg : s.group? gid = some g) :
    ∃ g', t.group? gid = some g' ∧ g'.unpaged = g.unpaged := by
  have hsame := h.2 gid
  rw [hg, Option.map_some, Option.map_eq_some_iff] at hsame
  exact hsame

theorem modGroup_checksTo (s : State) (gid : Nat) {f : Group → Group} (hf : ∀ g, (f g).unpaged = g.unpaged) :
    s.checksTo (s.modGroup gid f) := by
  refine ⟨?_, fun n => ?_⟩
  · unfold State.modGroup
    split <;> rfl
  · by_cases hn : n = gid
    · subst hn
      cases hg : s.group? n with
      | none =>
        have hsame : s.modGroup n f = s := by
          have hget : dget s.groups n = none := hg
          rw [State.modGroup, hget]
        rw [hsame, hg]
      | some g => rw [group?_modGroup_same hg, Option.map_some, Option.map_some, hf]
    · rw [group?_modGroup_other s hn]

theorem noteLane_checksTo (s : State) (gid lane core c va : Nat) : s.checksTo (s.noteLane gid lane core c va).1 := by
  have hlookup := checksTo_of_beyond (lookup_beyond s core c va)
  unfold State.noteLane
  dsimp only
  split
  · exact checksTo_trans hlookup (modGroup_checksTo _ gid fun _ => rfl)
  · exact hlookup

theorem lookupLane_checksTo (s : State) (gid lane core c va : Nat) : s.checksTo (s.lookupLane gid lane core c va).1 := by
  unfold State.lookupLane
  split
  · split
    · exact checksTo_refl s
    · exact noteLane_checksTo s gid lane core c va
  · exact noteLane_checksTo s gid lane core c va

theorem pieceCheck_checksTo (s : State) (a : Agent) (t : Team) (team c o v kind : Nat) (write : Bool) :
    s.checksTo (s.pieceCheck a t team c o v kind write).1 := by
  unfold State.pieceCheck
  split
  · exact checksTo_refl s
  · split
    · exact checksTo_refl s
    · dsimp only
      split
      · exact checksTo_refl s
      · split
        · split <;> exact checksTo_of_beyond (lookup_beyond ..)
        · exact checksTo_of_beyond (lookup_beyond ..)

theorem checkLane_checksTo (s : State) (a : Agent) (lane : Nat) (va : Word64) (n al kind : Nat) (need : Need) :
    s.checksTo (s.checkLane a lane va n al kind need).1 := by
  unfold State.checkLane
  dsimp only
  split
  · exact checksTo_refl s
  · split
    · split
      · exact checksTo_refl s
      · split
        · exact checksTo_refl s
        · split
          · split
            · exact pieceCheck_checksTo ..
            · split <;> exact pieceCheck_checksTo ..
          · split <;> exact checksTo_refl s
    · split
      · exact checksTo_refl s
      · split
        · exact lookupLane_checksTo ..
        · split
          · exact lookupLane_checksTo ..
          · split
            · exact lookupLane_checksTo ..
            · split <;> exact lookupLane_checksTo ..

theorem checkEach_checksTo (s : State) (a : Agent) (n al kind : Nat) (need : Need) (l : List (Nat × Word64)) :
    s.checksTo (s.checkEach a n al kind need l).1 := by
  induction l generalizing s with
  | nil => exact checksTo_refl s
  | cons e l ih =>
    obtain ⟨i, va⟩ := e
    exact checksTo_trans (checkLane_checksTo s a i va n al kind need) (ih _)

theorem checkLanes_checksTo (s : State) (a : Agent) (n al kind : Nat) (need : Need) (l : List (Nat × Word64)) :
    s.checksTo (s.checkLanes a n al kind need l).1 := checkEach_checksTo s a n al kind need l

/-! ### A read through the L1 leaves memory as it is (R255) -/

theorem readPhys_l1_mem (s : State) (core pa : Nat) : (s.readPhys core 0 pa).1.mem = s.mem := by
  unfold State.readPhys
  split
  · rfl
  · rw [if_pos rfl]
    split
    · rfl
    · rw [State.cput_mem, State.devRead_mem]

theorem readBytes_l1_mem (core n : Nat) : ∀ (s : State) (pa : Nat), (s.readBytes core 0 n (.phys pa)).1.mem = s.mem := by
  induction n with
  | zero => intro s pa; rfl
  | succ n ih => intro s pa; exact (ih _ _).trans (readPhys_l1_mem s core pa)

theorem readLoc_l1_mem (s : State) (core n pa : Nat) : (s.readLoc core 0 n (.phys pa)).1.mem = s.mem := by
  have fresh : (s.freshenLoc core 0 n (.phys pa)).mem = s.mem := by
    show (s.freshen core n pa).mem = s.mem
    unfold State.freshen
    split <;> rfl
  exact (readBytes_l1_mem core n _ pa).trans fresh

theorem markAt_beyond (s : State) (order : Order) (site pa : Nat) : (s.markAt order site pa).beyond = s.beyond := by
  unfold State.markAt
  split
  · rfl
  · split <;> rfl

theorem markL2_beyond (s : State) (core : Nat) (order : Order) (pa : Nat) : (s.markL2 core order pa).beyond = s.beyond := by
  unfold State.markL2
  split
  · exact markAt_beyond ..
  · rfl

theorem markLine_beyond (s : State) (core : Nat) (order : Order) (pa : Nat) :
    (s.markLine core order (.phys pa)).beyond = s.beyond := by
  show (if s.uncached pa then s else (s.markAt order core pa).markL2 core order pa).beyond = s.beyond
  split
  · rfl
  · exact (markL2_beyond ..).trans (markAt_beyond ..)

end Sys2Proof.Machine
end

section
/-!
PROOFS. O28: loads, stores, atomics and prefetches issue when every lane passes its check (R63, R231, R233, R238, R247).
-/
namespace Sys2Proof.Machine

/-! ### Addresses and lanes (R63) -/

/-- The place of lane i's access, as R63 writes it. -/
theorem ea_eq (g : Group) (x : MFields) (i : Nat) : g.ea x i = g.sreg x.sbase.toNat +
    (if x.form = .f00 then (lane (g.vreg x.addr.toNat) i).setWidth 64 else g.sreg x.addr.toNat) +
    BitVec.ofInt 64 (x.off.toInt * (2 ^ x.size.toNat : Nat)) := by
  have hoff : x.off.signExtend 64 * w64n (sizeBytes x.size) = BitVec.ofInt 64 (x.off.toInt * (2 ^ x.size.toNat : Nat)) := by
    rw [BitVec.ofInt_mul, BitVec.ofInt_natCast]
    rfl
  unfold Group.ea
  dsimp only
  rw [hoff]
  cases x.form <;> rfl

/-- The lanes of a memory instruction with the places of their accesses. -/
theorem laneAddresses (s : State) (g : Group) (x : MFields) :
    (g.memLanes s x.form x.neg x.pred).map (fun i => (i, g.ea x i)) =
      (if x.form = .f11 then [0] else (List.range 64).filter (fun i => (g.exec s.cur.mask x.neg x.pred).getLsbD i)).map
        (fun i => (i, g.sreg x.sbase.toNat +
          (if x.form = .f00 then (lane (g.vreg x.addr.toNat) i).setWidth 64 else g.sreg x.addr.toNat) +
          BitVec.ofInt 64 (x.off.toInt * (2 ^ x.size.toNat : Nat)))) := by
  have hlanes : g.memLanes s x.form x.neg x.pred = if x.form = .f11 then [0] else
      (List.range 64).filter (fun i => (g.exec s.cur.mask x.neg x.pred).getLsbD i) := by
    unfold Group.memLanes lanesOf
    cases x.form <;> rfl
  rw [hlanes]
  exact List.map_congr_left fun i _ => by rw [ea_eq]

/-! ### What the check of the lanes answers (R231, R245) -/

section
variable {s s1 : State} {g : Group} {n kind : Nat} {need : Need} {l : List (Nat × Word64)} (f : State → List LaneAcc → State)

theorem withLanes_ok {accs : List LaneAcc} (h : s.checkLanes (agentOf s.cur.gid g) n n kind need l = (s1, .ok accs)) :
    s.withLanes g n kind need l f = f s1 accs := by
  simp only [State.withLanes, h]

theorem withLanes_trap {code e : Nat} {lanes : Mask} {faddr : List (Nat × Word64)}
    (h : s.checkLanes (agentOf s.cur.gid g) n n kind need l = (s1, .trap code e lanes faddr)) :
    s.withLanes g n kind need l f = s1.trapHere (BitVec.ofNat 8 code) (BitVec.ofNat 64 e) lanes faddr := by
  simp only [State.withLanes, h, w64n]

theorem withLanes_wait {pieces : List (Nat × Nat × Nat)}
    (h : s.checkLanes (agentOf s.cur.gid g) n n kind need l = (s1, .wait pieces)) :
    s.withLanes g n kind need l f = s1.wantPieces pieces := by
  simp only [State.withLanes, h]

end

/-! ### The issue of an access -/

/-- An access enters, and the instruction retires. -/
def State.enterAccess (s : State) (x : MFields) (kind : OpKind) : State :=
  (s.addOpMer x.fsel (needsMeridian (orderOf x.order) (scopeOf x.scope.toNat)) kind).advance

theorem enterAccess_settled {s : State} (h : s.settled) (x : MFields) (kind : OpKind) : (s.enterAccess x kind).settled :=
  settled_of_access ((advance_access _).trans (addOpMer_access ..)) h

/-- What LD does once its lanes have passed. -/
def issueLoad (x : MFields) (s : State) (accs : List LaneAcc) : State :=
  s.enterAccess x (.load (orderOf x.order) (scopeOf x.scope.toNat) (sizeBytes x.size) x.data.toNat (x.form == .f11) accs
    (accs.map (fun a => a.lane)))

/-- The accesses of ST with their bytes. -/
def storeData (g : Group) (x : MFields) (accs : List LaneAcc) : List (LaneAcc × List Byte) :=
  accs.map (fun a => (a, toBytes (sizeBytes x.size) (g.getData (x.form == .f11) (sizeBytes x.size) x.data.toNat a.lane)))

/-- What ST does once its lanes have passed, outside a replay and a deterministic group. -/
def issueStore (g : Group) (x : MFields) (s : State) (accs : List LaneAcc) : State :=
  s.enterAccess x (.store (orderOf x.order) (scopeOf x.scope.toNat) (sizeBytes x.size) (storeData g x accs))

/-- What ST does once its lanes have passed: a replayed store joins a held one (R133), one of a deterministic group may enter
the brine (R356). -/
def storeLanes (g : Group) (x : MFields) (s : State) (accs : List LaneAcc) : State :=
  let data := storeData g x accs
  let replay := ((g.slot s.cur.slot).running.map (fun r => r.replay)).getD false
  match (if replay then g.heldStore? s.cur.slot s.cur.addr else none) with
  | some (k, o) => (s.modGroup s.cur.gid (fun g => g.joinStore k o data)).advance
  | none =>
    let t := s.addOpMer x.fsel (needsMeridian (orderOf x.order) (scopeOf x.scope.toNat))
      (.store (orderOf x.order) (scopeOf x.scope.toNat) (sizeBytes x.size) data)
    (if ((t.group? t.cur.gid).bind (fun g => (dget g.ops s.nextId).bind (fun o => brines g o))).isSome then
      t.settleBytes t.cur.gid (accs.map (fun a => (a.loc, sizeBytes x.size, true)))
    else t).advance

/-- A store of a group that is not deterministic enters no brine. -/
theorem brines_eq_none {g : Group} (h : g.det = false) (o : Op) : brines g o = none := by
  unfold brines
  split
  · simp [h]
  · rfl

theorem storeLanes_eq {g g' : Group} {r : Running} {x : MFields} {s : State} (hg : s.group? s.cur.gid = some g')
    (hdet : g'.det = false) (hr : (g.slot s.cur.slot).running = some r) (hp : r.replay = false) (accs : List LaneAcc) :
    storeLanes g x s accs = issueStore g x s accs := by
  unfold storeLanes
  simp only [hr, Option.map_some, Option.getD_some, hp, Bool.false_eq_true, if_false]
  rw [if_neg]
  · rfl
  · rw [addOpMer_eq hg]
    show ¬ ((((s.setGroup s.cur.gid _).group? s.cur.gid).bind _).isSome = true)
    rw [group?_setGroup_same, Option.bind_some]
    cases dget (s.withEntered g' _ _ _).ops s.nextId with
    | none => simp
    | some o => simp [brines_eq_none (g := s.withEntered g' _ _ _) hdet]

/-- The operands of an atomic's lanes, read at its issue. -/
def atomicData (g : Group) (x : MFields) (k : AtomicKind) (accs : List LaneAcc) : List AtomicLane :=
  let f11 := x.form == .f11
  let n := sizeBytes x.size
  let step := if f11 then max 1 (n / 8) else max 1 (n / 4)
  accs.map (fun a => match k with
    | .cas => ⟨a, BitVec.ofNat 128 (g.getData f11 n x.data.toNat a.lane),
        BitVec.ofNat 128 (g.getData f11 n (x.data.toNat + step) a.lane)⟩
    | .rmw _ => ⟨a, 0, BitVec.ofNat 128 (g.getData f11 n x.data.toNat a.lane)⟩)

/-- What an atomic does once its lanes have passed. -/
def issueAtomic (g : Group) (x : MFields) (k : AtomicKind) (tree : Bool) (s : State) (accs : List LaneAcc) : State :=
  if accs.any (fun a => s.hostAtomic (orderOf x.order) (scopeOf x.scope.toNat) a.loc) && !hostAtomicOk s (sizeBytes x.size) then
    s.trapHere 0x0C 0 s.curExec []
  else s.enterAccess x (.atomic k (orderOf x.order) (scopeOf x.scope.toNat) (sizeBytes x.size) x.data.toNat (x.form == .f11) tree
    (atomicData g x k accs))

/-- What PFL brings in for a lane that passes (R247). -/
def fetchLane (core : Nat) (x : MFields) (s : State) (e : Nat × Word64 × LaneRes) : State :=
  match e.2.2 with
  | .ok (.phys pa) =>
    if (s.lostNode core 0 (.phys pa)).isSome || s.uncached pa then s
    else if x.scope = 0 then (s.readLoc core 0 (sizeBytes x.size) (.phys pa)).1.markLine core (orderOf x.order) (.phys pa)
    else (s.devBytes (dieOf core) (sizeBytes x.size) pa).1.markL2 core (orderOf x.order) pa
  | _ => s

theorem fetchLane_beyond (core : Nat) (x : MFields) (s : State) (e : Nat × Word64 × LaneRes) :
    (fetchLane core x s e).beyond = s.beyond := by
  unfold fetchLane
  split
  · split
    · rfl
    · split
      · exact (markLine_beyond ..).trans (readLoc_phys_beyond ..)
      · exact (markL2_beyond ..).trans (devBytes_beyond ..)
  · rfl

theorem fetchLane_mem (core : Nat) (x : MFields) (s : State) (e : Nat × Word64 × LaneRes) :
    (fetchLane core x s e).mem = s.mem := by
  unfold fetchLane
  split
  · split
    · rfl
    · split
      · rw [State.markLine_mem, readLoc_l1_mem]
      · rw [State.markL2_mem, State.devBytes_mem]
  · rfl

theorem foldl_fetchLane_mem (core : Nat) (x : MFields) (l : List (Nat × Word64 × LaneRes)) (s : State) :
    (l.foldl (fetchLane core x) s).mem = s.mem := by
  induction l generalizing s with
  | nil => rfl
  | cons e l ih => exact (ih _).trans (fetchLane_mem core x s e)

/-! ### The instructions -/

section
variable {s : State} {g : Group} {r : Running} {x : MFields}

theorem exec_ld (h : s.issues (.ld x) g r) : exec (.ld x) s = finish s (s.withLanes g (sizeBytes x.size) kindLoad (needLoad g)
    ((g.memLanes s x.form x.neg x.pred).map (fun i => (i, g.ea x i))) (issueLoad x)) := by
  show execLd x s = _
  unfold execLd
  rw [guarded_of_issues h]
  rfl

theorem exec_st (h : s.issues (.st x) g r) : exec (.st x) s = finish s (s.withLanes g (sizeBytes x.size) kindStore (needStore g)
    ((g.memLanes s x.form x.neg x.pred).map (fun i => (i, g.ea x i))) (storeLanes g x)) := by
  show execSt x s = _
  unfold execSt
  rw [guarded_of_issues h]
  rfl

theorem exec_atomic {i : Instr} {k : AtomicKind} {tree : Bool} (hexec : exec i s = finish s (atomicMould i x k tree s))
    (h : s.issues i g r) : exec i s = finish s (s.withLanes g (sizeBytes x.size) kindAtomic (needStore g)
      ((g.memLanes s x.form x.neg x.pred).map (fun i => (i, g.ea x i))) (issueAtomic g x k tree)) := by
  rw [hexec]
  unfold atomicMould
  rw [guarded_of_issues h]
  cases k <;> rfl

theorem exec_pfl (h : s.issues (.pfl x) g r) :
    let lanes := (g.memLanes s x.form x.neg x.pred).map (fun i => (i, g.ea x i))
    let c := s.checkEach (agentOf s.cur.gid g) (sizeBytes x.size) (sizeBytes x.size) kindLoad (needLoad g) lanes
    let s1 := c.2.foldl (fetchLane g.core x) c.1
    exec (.pfl x) s = finish s (if lanes = [] then s1.addOp x.fsel .idle else s1).advance := by
  show execPfl x s = _
  unfold execPfl
  rw [guarded_of_issues h]
  simp only [List.isEmpty_iff]
  rfl

end

/-! ### Where the lanes do not pass (R231, R245) -/

section
variable {s s1 : State} {g : Group} {i : Instr} {n kind : Nat} {need : Need} {l : List (Nat × Word64)}
  {f : State → List LaneAcc → State} (hexec : exec i s = finish s (s.withLanes g n kind need l f))
include hexec

theorem completesIf_trapHere {code e : Nat} {lanes : Mask} {faddr : List (Nat × Word64)}
    (h : s.checkLanes (agentOf s.cur.gid g) n n kind need l = (s1, .trap code e lanes faddr)) :
    s.completesIf s1.settled i (s1.trapHere (BitVec.ofNat 8 code) (BitVec.ofNat 64 e) lanes faddr) :=
  completesIf_of_finish (hexec.trans (by rw [withLanes_trap f h])) (settled_of_access (raiseTrap_access ..))

theorem completesIf_wantPieces {pieces : List (Nat × Nat × Nat)}
    (h : s.checkLanes (agentOf s.cur.gid g) n n kind need l = (s1, .wait pieces)) :
    s.completesIf s1.settled i (s1.wantPieces pieces) :=
  completesIf_of_finish (hexec.trans (by rw [withLanes_wait f h])) (settled_of_access (wantPieces_access ..))

/-- Where the lanes pass, the step answers what the instruction does then. -/
theorem exec_of_passed {accs : List LaneAcc} (h : s.checkLanes (agentOf s.cur.gid g) n n kind need l = (s1, .ok accs))
    (hsettled : (f s1 accs).settled) : exec i s = .next (f s1 accs).settleNode := by
  rw [hexec, withLanes_ok f h, finish_of_settled hsettled]

end

/-! ### Atomics on the host (R393) -/

theorem hostAtomicOk_eq (s : State) (n : Nat) :
    hostAtomicOk s n = s.syscap.getLsbD (if n = 16 then 5 else if n = 8 then 4 else 3) := by
  simp [hostAtomicOk]

/-- The second operand follows the first: 8 bytes to a scalar, 4 to a lane (R238). -/
theorem atomicData_eq (g : Group) (x : MFields) (k : AtomicKind) (accs : List LaneAcc) :
    atomicData g x k accs =
      let n : Nat := 2 ^ x.size.toNat
      let f11 := x.form == .f11
      let datum (k i : Nat) : BitVec 128 := BitVec.ofNat 128 (g.getData f11 n k i)
      let d := x.data.toNat
      accs.map (fun a => match k with
        | .cas => ⟨a, datum d a.lane, datum (d + max 1 (n / if f11 then 8 else 4)) a.lane⟩
        | .rmw _ => ⟨a, 0, datum d a.lane⟩) := by
  unfold atomicData sizeBytes
  cases k <;> cases x.form <;> rfl

section
variable {g : Group} {x : MFields} {k : AtomicKind} {tree : Bool} {s : State} {accs : List LaneAcc}

theorem issueAtomic_host (hhost : accs.any (fun a => s.hostAtomic (orderOf x.order) (scopeOf x.scope.toNat) a.loc) = true)
    (hok : hostAtomicOk s (sizeBytes x.size) = false) : issueAtomic g x k tree s accs = s.trapHere 0x0C 0 s.curExec [] := by
  simp [issueAtomic, hhost, hok]

theorem issueAtomic_device
    (h : accs.any (fun a => s.hostAtomic (orderOf x.order) (scopeOf x.scope.toNat) a.loc) = false ∨
      hostAtomicOk s (sizeBytes x.size) = true) :
    issueAtomic g x k tree s accs = s.enterAccess x (.atomic k (orderOf x.order) (scopeOf x.scope.toNat) (sizeBytes x.size)
      x.data.toNat (x.form == .f11) tree (atomicData g x k accs)) := by
  unfold issueAtomic
  rw [if_neg (by rcases h with h | h <;> simp [h])]

theorem issueAtomic_settled (h : s.settled) : (issueAtomic g x k tree s accs).settled := by
  unfold issueAtomic
  split
  · exact settled_of_access (raiseTrap_access ..) h
  · exact enterAccess_settled h x _

end

/-- What an atomic instruction is, by its fields, its function and its kind of delivery (R238, R239). -/
theorem atomic_cases {i : Instr} {x : MFields} {k : AtomicKind} {tree : Bool} (s : State)
    (h : (∃ op, (i = .atom op x ∧ tree = false ∨ i = .atomt op x ∧ tree = true) ∧ k = AtomicKind.rmw op) ∨
      ((i = Instr.cas x ∨ i = .cas128 x) ∧ tree = false ∧ k = .cas)) : exec i s = finish s (atomicMould i x k tree s) := by
  obtain ⟨op, hi, rfl⟩ | ⟨hi, rfl, rfl⟩ := h
  · obtain ⟨rfl, rfl⟩ | ⟨rfl, rfl⟩ := hi <;> rfl
  · obtain rfl | rfl := hi <;> rfl

theorem exec_of_atomic {s : State} {g : Group} {r : Running} {x : MFields} {i : Instr}
    (hi : i = .cas x ∨ i = .cas128 x ∨ ∃ op, i = .atom op x ∨ i = .atomt op x) (h : s.issues i g r) :
    ∃ f, exec i s = finish s (s.withLanes g (sizeBytes x.size) kindAtomic (needStore g)
      ((g.memLanes s x.form x.neg x.pred).map (fun i => (i, g.ea x i))) f) := by
  obtain rfl | rfl | ⟨op, rfl | rfl⟩ := hi
  · exact ⟨_, exec_atomic (atomic_cases s (.inr ⟨.inl rfl, rfl, rfl⟩)) h⟩
  · exact ⟨_, exec_atomic (atomic_cases s (.inr ⟨.inr rfl, rfl, rfl⟩)) h⟩
  · exact ⟨_, exec_atomic (atomic_cases s (.inl ⟨op, .inl ⟨rfl, rfl⟩, rfl⟩)) h⟩
  · exact ⟨_, exec_atomic (atomic_cases s (.inl ⟨op, .inr ⟨rfl, rfl⟩, rfl⟩)) h⟩

/-! ### PFL (R247) -/

section
variable {s : State} {g : Group} {x : MFields} (l : List (Nat × Word64))

/-- What PFL does to its group's registers and to memory: nothing. -/
theorem prefetch_keeps (hg : s.group? s.cur.gid = some g) (a : Agent) (n kind core : Nat) (need : Need) :
    let c := s.checkEach a n n kind need l
    let s1 := c.2.foldl (fetchLane core x) c.1
    s1.mem = s.mem ∧ ∀ h, s1.group? s.cur.gid = some h → h.vregs = g.vregs ∧ h.sregs = g.sregs ∧ h.flags = g.flags := by
  intro c s1
  have hchecks : s.checksTo s1 := checksTo_trans (checkEach_checksTo s a n n kind need l)
    (checksTo_of_beyond (foldl_beyond _ _ _ (fetchLane_beyond core x)))
  refine ⟨(foldl_fetchLane_mem core x c.2 c.1).trans (State.checkEach_mem ..), fun h hh => ?_⟩
  obtain ⟨g', hg', hsame⟩ := group?_of_checksTo hchecks hg
  obtain rfl : g' = h := Option.some.inj (hg'.symm.trans hh)
  exact ⟨(congrArg Group.vregs hsame :), (congrArg Group.sregs hsame :), (congrArg Group.flags hsame :)⟩

theorem prefetch_settled {s1 : State} (h : s1.settled) : (if l = [] then s1.addOp x.fsel .idle else s1).advance.settled := by
  refine settled_of_access (advance_access _) ?_
  split
  · exact settled_of_access (addOpMer_access ..) h
  · exact h

end

/-- Settles O28: each instruction checks its lanes and goes on by what the check answers. -/
theorem memoryWordsIssue : Obligations.MemoryWordsIssue := by
  intro s g r x n f11 ea at_ order scope check load store lanesOf_ datum d enter
  have hlanes : (g.memLanes s x.form x.neg x.pred).map (fun i => (i, g.ea x i)) = at_ := laneAddresses s g x
  refine ⟨fun h s1 accs hcheck hs1 => ?_, fun h hdet hp s1 accs hcheck hs1 => ?_,
    fun i k tree hi h s1 accs hcheck hs1 => ?_, fun h => ?_, fun i kind need hi h => ?_⟩
  · have hexec := exec_ld h
    rw [hlanes] at hexec
    exact exec_of_passed hexec hcheck (enterAccess_settled hs1 x _)
  · have hexec := exec_st h
    rw [hlanes] at hexec
    obtain ⟨hg, hr, -⟩ := h
    have hchecks : s.checksTo s1 := by
      have := checkLanes_checksTo s (agentOf s.cur.gid g) n n 1 store at_
      rwa [show s.checkLanes (agentOf s.cur.gid g) n n 1 store at_ = (s1, .ok accs) from hcheck] at this
    have hcur := cur_of_checksTo hchecks
    obtain ⟨g', hg', hsame⟩ := group?_of_checksTo hchecks hg
    have hstore : storeLanes g x s1 accs = issueStore g x s1 accs := by
      rw [← hcur] at hg' hr
      exact storeLanes_eq hg' ((congrArg Group.det hsame :).trans hdet) hr hp accs
    have hissued := exec_of_passed hexec hcheck (hstore ▸ enterAccess_settled hs1 x _)
    rw [hstore] at hissued
    exact hissued
  · have hexec := exec_atomic (atomic_cases s hi) h
    rw [hlanes] at hexec
    have hissued := exec_of_passed hexec hcheck (issueAtomic_settled hs1)
    have hok := hostAtomicOk_eq s1 n
    refine ⟨fun hhost hbit => ?_, fun hfree => ?_⟩
    · rw [issueAtomic_host hhost (hok.trans hbit)] at hissued
      exact hissued
    · rw [issueAtomic_device (hfree.imp id hok.trans), atomicData_eq] at hissued
      cases k <;> exact hissued
  · have hexec := exec_pfl h
    rw [hlanes] at hexec
    obtain ⟨hmem, hregs⟩ := prefetch_keeps (x := x) at_ h.1 (agentOf s.cur.gid g) n 0 g.core load
    refine ⟨hmem, hregs, fun hs1 => ?_⟩
    exact hexec.trans (finish_of_settled (prefetch_settled at_ hs1))
  · have hexec : ∃ f, exec i s = finish s (s.withLanes g n kind need at_ f) := by
      rw [← hlanes]
      obtain ⟨rfl, rfl, rfl⟩ | ⟨rfl, rfl, rfl⟩ | ⟨rfl, rfl, hi⟩ := hi
      · exact ⟨_, exec_ld h⟩
      · exact ⟨_, exec_st h⟩
      · exact exec_of_atomic hi h
    obtain ⟨f, hexec⟩ := hexec
    exact ⟨fun s1 code e lanes faddr hcheck => completesIf_trapHere hexec hcheck,
      fun s1 l hcheck => completesIf_wantPieces hexec hcheck⟩

end Sys2Proof.Machine
end

section
/-!
PROOFS. O22, the checks of a clause (R57, R58): what each one refuses, and which of them CLAUSE_FETCH names.
-/
namespace Sys2Proof.Machine

/-! ### The checks, one by one -/

/-- What check k of R58 finds in a clause of a group. -/
def checkFails (B elt : Nat) (h : Header) (ws : List Word64) : Nat → Bool
  | 1 => decide (6 ≤ h.cls.toNat) || (h.cls.toNat == 5) != false
  | 2 =>
    let flagBad (v : Bool) (f : BitVec 4) : Bool := (v && decide (12 ≤ f.toNat)) || (!v && f != 0)
    flagBad h.av h.aflag || flagBad h.bv h.bflag || (h.av && h.bv && h.aflag == h.bflag)
  | 3 =>
    let sel := ws.filterMap (fun w => (classOf h.cls).bind (fun c => wordSel c w))
    (sel.contains false && !h.av) || (sel.contains true && !h.bv) ||
      ((h.cls.toNat == 1 || h.cls.toNat == 2) && !h.av) || (h.cls.toNat == 3 && !h.av && !h.bv)
  | 4 => h.dist.extractLsb' 0 2 != 0 || h.dist.toNat / 4 ^ ws.length != 0 ||
      !distancesOk h ((legalAll B elt h ws).map (fun o => o.map (fun i => sigOf B elt i)))
  | 5 => (List.range ws.length).any (fun i => match ((legalAll B elt h ws)[i]?).join with
      | some x => (lastOnly x && i + 1 != ws.length) || (isLpad x && i != 0)
      | none => false)
  | 6 => h.rsv != 0
  | _ => false

/-- The lowest number from 1 to 6 that f accepts, 0 for none. -/
def lowestOfSix (f : Nat → Bool) : Nat := ((List.range' 1 6).find? f).getD 0

theorem getD_find?_cons (f : Nat → Bool) (k : Nat) (l : List Nat) :
    ((k :: l).find? f).getD 0 = if f k then k else (l.find? f).getD 0 := by
  rw [List.find?_cons]
  cases f k <;> rfl

theorem clauseCheck_eq (B elt : Nat) (h : Header) (ws : List Word64) :
    clauseCheck B elt false h ws = lowestOfSix (checkFails B elt h ws) := by
  rw [lowestOfSix, show List.range' 1 6 = [1, 2, 3, 4, 5, 6] from rfl]
  simp only [getD_find?_cons]
  unfold clauseCheck checkFails
  simp only [Bool.not_false, Bool.true_and, Bool.false_and, Bool.false_eq_true, if_false] <;> rfl

theorem lowestOfSix_spec {f : Nat → Bool} {fails : Nat → Prop} (hfails : ∀ k, f k = true ↔ fails k)
    (hrange : ∀ k, fails k → 1 ≤ k ∧ k ≤ 6) :
    (lowestOfSix f = 0 ↔ ∀ k, ¬ fails k) ∧
      (lowestOfSix f ≠ 0 → fails (lowestOfSix f) ∧ ∀ k < lowestOfSix f, ¬ fails k) := by
  unfold lowestOfSix
  cases hfind : (List.range' 1 6).find? f with
  | none =>
    rw [List.find?_eq_none] at hfind
    refine ⟨⟨fun _ k hk => ?_, fun _ => rfl⟩, fun h => absurd rfl h⟩
    obtain ⟨hlow, hhigh⟩ := hrange k hk
    exact hfind k (by rw [List.mem_range'_1]; omega) ((hfails k).mpr hk)
  | some m =>
    obtain ⟨hm, hmem, hlower⟩ := List.find?_range'_eq_some.mp hfind
    rw [List.mem_range'_1] at hmem
    have hpos : m ≠ 0 := by omega
    refine ⟨⟨fun h => absurd h hpos, fun hno => absurd ((hfails m).mp hm) (hno m)⟩, fun _ => ⟨(hfails m).mp hm, ?_⟩⟩
    intro k hk hf
    have := hlower k (hrange k hf).1 hk
    simp [(hfails k).mpr hf] at this

/-! ### What the checks say -/

section
variable {B elt : Nat} {h : Header} {ws : List Word64}

theorem legalAll_length : (legalAll B elt h ws).length = ws.length := by
  unfold legalAll decodeAll
  split <;> simp

theorem checkFails_one : checkFails B elt h ws 1 = true ↔ 5 ≤ h.cls.toNat := by
  simp only [checkFails, bne_iff_ne, ne_eq, Bool.or_eq_true, decide_eq_true_eq, beq_eq_false_iff_ne, not_not]
  omega

theorem checkFails_two : checkFails B elt h ws 2 = true ↔
    (h.av = true ∧ 12 ≤ h.aflag.toNat) ∨ (h.bv = true ∧ 12 ≤ h.bflag.toNat) ∨ (h.av = false ∧ h.aflag ≠ 0) ∨
      (h.bv = false ∧ h.bflag ≠ 0) ∨ (h.av = true ∧ h.bv = true ∧ h.aflag = h.bflag) := by
  simp only [checkFails, Bool.or_eq_true, Bool.and_eq_true, decide_eq_true_eq, Bool.not_eq_true', bne_iff_ne, beq_iff_eq]
  tauto

/-- A clause has a word that selects flag B (true) or A. -/
theorem selects_iff (b : Bool) : (ws.filterMap (fun w => (classOf h.cls).bind (fun c => wordSel c w))).contains b = true ↔
    ∃ w ∈ ws, ∃ y, classOf h.cls = some y ∧ wordSel y w = some b := by
  simp only [List.contains_iff_mem, List.mem_filterMap, Option.bind_eq_some_iff]

theorem checkFails_three : checkFails B elt h ws 3 = true ↔
    ((∃ w ∈ ws, ∃ y, classOf h.cls = some y ∧ wordSel y w = some false) ∧ h.av = false) ∨
      ((∃ w ∈ ws, ∃ y, classOf h.cls = some y ∧ wordSel y w = some true) ∧ h.bv = false) ∨
      ((h.cls.toNat = 1 ∨ h.cls.toNat = 2) ∧ h.av = false) ∨ (h.cls.toNat = 3 ∧ h.av = false ∧ h.bv = false) := by
  rw [← selects_iff, ← selects_iff]
  simp only [checkFails, Bool.or_eq_true, Bool.and_eq_true, Bool.not_eq_true', beq_iff_eq]
  tauto

/-- R57 is broken by a pair of fixed latency whose second comes too soon after the first. -/
theorem pairOk_eq_false (a b : Sig) (d : Nat) : pairOk a b d = false ↔ a.fixed = true ∧ b.fixed = true ∧
    ((∃ r ∈ a.writes, r ∈ b.reads ∧ d < a.lat) ∨ (∃ r ∈ a.writes, r ∈ b.writes ∧ b.lat < a.lat ∧ d < a.lat - b.lat + 1)) := by
  simp only [pairOk, Bool.or_eq_false_iff, Bool.and_eq_false_iff, Bool.not_eq_false', List.any_eq_true, List.contains_iff_mem,
    decide_eq_false_iff_not, Nat.not_le]
  constructor
  · rintro ⟨⟨ha, hb⟩, ⟨⟨r, hr, hread⟩, hd⟩ | ⟨⟨⟨r, hr, hwrite⟩, hlat⟩, hd⟩⟩
    · exact ⟨ha, hb, .inl ⟨r, hr, hread, hd⟩⟩
    · exact ⟨ha, hb, .inr ⟨r, hr, hwrite, hlat, hd⟩⟩
  · rintro ⟨ha, hb, ⟨r, hr, hread, hd⟩ | ⟨r, hr, hwrite, hlat, hd⟩⟩
    · exact ⟨⟨ha, hb⟩, .inl ⟨⟨r, hr, hread⟩, hd⟩⟩
    · exact ⟨⟨ha, hb⟩, .inr ⟨⟨⟨r, hr, hwrite⟩, hlat⟩, hd⟩⟩

theorem distancesOk_eq_false (l : List (Option Sig)) : distancesOk h l = false ↔
    ∃ i j a b, i < j ∧ (l[i]?).join = some a ∧ (l[j]?).join = some b ∧ pairOk a b (headerSpan h i j) = false := by
  simp only [distancesOk, List.all_eq_false, List.mem_range]
  constructor
  · rintro ⟨j, hj, hpairs⟩
    simp only [Bool.not_eq_true, List.all_eq_false, List.mem_range] at hpairs
    obtain ⟨i, hi, hpair⟩ := hpairs
    split at hpair
    next a b ha hb => exact ⟨i, j, a, b, hi, ha, hb, by simpa using hpair⟩
    · cases hpair
  · rintro ⟨i, j, a, b, hi, ha, hb, hpair⟩
    have hj : j < l.length := by
      by_contra hnot
      rw [List.getElem?_eq_none (by omega)] at hb
      cases hb
    refine ⟨j, hj, ?_⟩
    simp only [Bool.not_eq_true, List.all_eq_false, List.mem_range]
    exact ⟨i, hi, by simp [ha, hb, hpair]⟩

theorem join_getElem?_map (f : Instr → Sig) (l : List (Option Instr)) (i : Nat) :
    ((l.map (fun o => o.map f))[i]?).join = (l[i]?).join.map f := by
  rw [List.getElem?_map]
  cases l[i]? with
  | none => rfl
  | some o => rfl

theorem checkFails_four : checkFails B elt h ws 4 = true ↔
    let word (i : Nat) : Option Sig := ((legalAll B elt h ws)[i]?).join.map (fun x => sigOf B elt x)
    h.dist.toNat % 4 ≠ 0 ∨ h.dist.toNat / 4 ^ ws.length ≠ 0 ∨ ∃ i j a b, i < j ∧ word i = some a ∧ word j = some b ∧
      a.fixed = true ∧ b.fixed = true ∧
      let d := ((List.range j).filter (fun k => decide (i ≤ k))).foldl (fun x k => x + h.distance (k + 1)) 0
      ((∃ r ∈ a.writes, r ∈ b.reads ∧ d < a.lat) ∨
        (∃ r ∈ a.writes, r ∈ b.writes ∧ b.lat < a.lat ∧ d < a.lat - b.lat + 1)) := by
  have hfirst : h.dist.extractLsb' 0 2 = 0 ↔ h.dist.toNat % 4 = 0 := by
    rw [← BitVec.toNat_inj, BitVec.extractLsb'_toNat]
    simp
  have hpair (i j : Nat) (a b : Sig) := pairOk_eq_false a b (headerSpan h i j)
  simp only [checkFails, Bool.or_eq_true, bne_iff_ne, ne_eq, Bool.not_eq_true', distancesOk_eq_false, join_getElem?_map,
    hfirst, hpair, or_assoc]
  rfl

theorem checkFails_five : checkFails B elt h ws 5 = true ↔ ∃ i x, (legalAll B elt h ws)[i]? = some (some x) ∧
    ((lastOnly x = true ∧ i + 1 ≠ ws.length) ∨ (isLpad x = true ∧ i ≠ 0)) := by
  simp only [checkFails, List.any_eq_true, List.mem_range]
  constructor
  · rintro ⟨i, -, hplace⟩
    split at hplace
    next x hx => exact ⟨i, x, Option.join_eq_some_iff.mp hx, by simpa using hplace⟩
    · cases hplace
  · rintro ⟨i, x, hx, hplace⟩
    have hi : i < ws.length := by
      obtain ⟨hlt, -⟩ := List.getElem?_eq_some_iff.mp hx
      rwa [legalAll_length] at hlt
    exact ⟨i, hi, by simpa [hx] using hplace⟩

theorem checkFails_six : checkFails B elt h ws 6 = true ↔ h.rsv ≠ 0 := by
  simp [checkFails]

end

/-- The number that a clause's check gives is that of the first check of R58 that fails. -/
theorem clauseCheck_spec (B elt : Nat) (h : Header) (ws : List Word64) :
    let c := h.cls.toNat
    let n := ws.length
    let word (i : Nat) : Option Sig := ((legalAll B elt h ws)[i]?).join.map (fun x => sigOf B elt x)
    let selects (b : Bool) : Prop := ∃ w ∈ ws, ∃ y, classOf h.cls = some y ∧ wordSel y w = some b
    let fails : Nat → Prop
      | 1 => 5 ≤ c
      | 2 => (h.av = true ∧ 12 ≤ h.aflag.toNat) ∨ (h.bv = true ∧ 12 ≤ h.bflag.toNat) ∨ (h.av = false ∧ h.aflag ≠ 0) ∨
          (h.bv = false ∧ h.bflag ≠ 0) ∨ (h.av = true ∧ h.bv = true ∧ h.aflag = h.bflag)
      | 3 => (selects false ∧ h.av = false) ∨ (selects true ∧ h.bv = false) ∨ ((c = 1 ∨ c = 2) ∧ h.av = false) ∨
          (c = 3 ∧ h.av = false ∧ h.bv = false)
      | 4 => h.dist.toNat % 4 ≠ 0 ∨ h.dist.toNat / 4 ^ n ≠ 0 ∨ ∃ i j a b, i < j ∧ word i = some a ∧ word j = some b ∧
          a.fixed = true ∧ b.fixed = true ∧
          let d := ((List.range j).filter (fun k => decide (i ≤ k))).foldl (fun x k => x + h.distance (k + 1)) 0
          ((∃ r ∈ a.writes, r ∈ b.reads ∧ d < a.lat) ∨
            (∃ r ∈ a.writes, r ∈ b.writes ∧ b.lat < a.lat ∧ d < a.lat - b.lat + 1))
      | 5 => ∃ i x, (legalAll B elt h ws)[i]? = some (some x) ∧
          ((lastOnly x = true ∧ i + 1 ≠ n) ∨ (isLpad x = true ∧ i ≠ 0))
      | 6 => h.rsv ≠ 0
      | _ => False
    let m := clauseCheck B elt false h ws
    (m = 0 ↔ ∀ k, ¬ fails k) ∧ (m ≠ 0 → fails m ∧ ∀ k < m, ¬ fails k) := by
  intro c n word selects fails m
  have hfails : ∀ k, checkFails B elt h ws k = true ↔ fails k
    | 0 => by simp [checkFails, fails]
    | 1 => checkFails_one
    | 2 => checkFails_two
    | 3 => checkFails_three
    | 4 => checkFails_four
    | 5 => checkFails_five
    | 6 => checkFails_six
    | k + 7 => by simp [checkFails, fails]
  have hrange : ∀ k, fails k → 1 ≤ k ∧ k ≤ 6 := fun k hk => by
    match k with
    | 0 => exact hk.elim
    | k + 7 => exact hk.elim
    | 1 | 2 | 3 | 4 | 5 | 6 => decide
  have hm : m = lowestOfSix (checkFails B elt h ws) := clauseCheck_eq B elt h ws
  rw [hm]
  exact lowestOfSix_spec hfails hrange

end Sys2Proof.Machine
end

section
/-!
PROOFS. O22, CLAUSE_FETCH and CLAUSE_START as steps (R53, R58, R101, R104, R105, R142).
-/
namespace Sys2Proof.Machine

/-! ### CLAUSE_START (R53, R101, R105) -/

/-- The clause that the candidate of slot k brings into clause slot cs, as clause number id of the machine. -/
def Group.runOf (g : Group) (k cs cycle id : Nat) (c : ClauseBuf) (first count : Nat) (replay : Bool) : Running :=
  { cslot := cs, clause := c, idx := first, count := count, readyAt := cycle, startAt := cycle, clauseId := id,
    aluFlag := g.wholeFlag k c first, replay := replay,
    sync := g.det && (g.instrs k c).any (fun o => (o.map isSync).getD false) }

/-- The group whose slot k has started that clause, counted on its flag where the clause counts as a whole (R52). -/
def Group.withStarted (g : Group) (k cs cycle id : Nat) (c : ClauseBuf) (first count : Nat) (replay : Bool) : Group :=
  let x : Slot := { g.slot k with running := some (g.runOf k cs cycle id c first count replay), clause := none, stamp := cycle
                                  resumeIdx := if replay then (g.slot k).resumeIdx else 0 }
  let g' := g.setSlot k x
  let g' : Group := match g.wholeFlag k c first with
    | some f => let g'' := g'.incFlag f
                { g'' with counts := g''.counts ++ [(⟨id, f, false⟩ : ClauseCount)] }
    | none => g'
  if replay then { g' with mpreplay := g'.mpreplay + 1 }
  else g'.modHalf k (fun (h : Half) => { h with clauses := (⟨c, first, first, []⟩ : Replay) :: h.clauses })

section
variable (g : Group) (k cs cycle id : Nat) (c : ClauseBuf) (first count : Nat) (replay : Bool)

theorem slot_started : (g.withStarted k cs cycle id c first count replay).slot k =
    { g.slot k with running := some (g.runOf k cs cycle id c first count replay), clause := none, stamp := cycle
                    resumeIdx := if replay then (g.slot k).resumeIdx else 0 } := by
  unfold Group.withStarted
  dsimp only
  cases g.wholeFlag k c first <;> cases replay
  case none.false | some.false =>
    simp only [Bool.false_eq_true, if_false, modHalf_slot]
    exact Group.slot_setSlot_same ..
  all_goals exact Group.slot_setSlot_same ..

theorem vregs_setSlot (g : Group) (k : Nat) (x : Slot) : (g.setSlot k x).vregs = g.vregs := by
  unfold Group.setSlot
  split <;> rfl

theorem flags_setSlot (g : Group) (k : Nat) (x : Slot) : (g.setSlot k x).flags = g.flags := by
  unfold Group.setSlot
  split <;> rfl

theorem modHalf_vregs (g : Group) (f : Half → Half) : (g.modHalf k f).vregs = g.vregs := by
  unfold Group.modHalf
  split <;> rfl

theorem modHalf_flags (g : Group) (f : Half → Half) : (g.modHalf k f).flags = g.flags := by
  unfold Group.modHalf
  split <;> rfl

theorem vregs_started : (g.withStarted k cs cycle id c first count replay).vregs = g.vregs := by
  unfold Group.withStarted
  dsimp only
  cases g.wholeFlag k c first <;> cases replay
  case none.false | some.false =>
    simp only [Bool.false_eq_true, if_false, modHalf_vregs]
    exact vregs_setSlot ..
  all_goals exact vregs_setSlot ..

theorem flag_started {f : Nat} (hf : g.wholeFlag k c first = some f) :
    (g.withStarted k cs cycle id c first count replay).flag f = g.flag f + 1 := by
  unfold Group.withStarted Group.flag
  rw [hf]
  dsimp only
  have counted (x : Slot) : tget 0 ((g.setSlot k x).incFlag f).flags f = tget 0 g.flags f + 1 := by
    refine (tget_tset_same 0 (g.setSlot k x).flags f ((g.setSlot k x).flag f + 1)).trans ?_
    rw [Group.flag, flags_setSlot]
  cases replay
  · simp only [Bool.false_eq_true, if_false, modHalf_flags]
    exact counted _
  · exact counted _

end

/-! ### What a start does to the register cache and to the bars of other groups leaves the group alone -/

theorem makeRoom_groups (part gid n : Nat) : ∀ s : State, (s.makeRoom part gid n).groups = s.groups ∧
    (s.makeRoom part gid n).access = s.access := by
  induction n with
  | zero => intro s; exact ⟨rfl, rfl⟩
  | succ n ih =>
    intro s
    unfold State.makeRoom
    dsimp only
    split
    · exact ⟨rfl, rfl⟩
    · split
      · exact ⟨rfl, rfl⟩
      · obtain ⟨hgroups, haccess⟩ := ih _
        exact ⟨hgroups.trans rfl, haccess.trans rfl⟩

theorem group?_liftBars (s : State) (part gid : Nat) : (s.liftBars part gid).group? gid = s.group? gid := by
  unfold State.liftBars State.group?
  dsimp only
  rw [dget_map (by intro e; split <;> [split; skip] <;> rfl)]
  cases hg : dget s.groups gid with
  | none => rfl
  | some g =>
    rw [Option.map_some]
    split
    · simp
    · rfl

/-- The machine with that group, which has used the lines that the clause names. -/
def State.putStarted (s : State) (gid : Nat) (g : Group) (k : Nat) (c : ClauseBuf) (g' : Group) : State :=
  { (s.setGroup gid g') with nextId := s.nextId + 1
                             startedAt := tset 0 s.startedAt g.part (s.cycle + 1) }.useLines g.part gid (g.lines k c)

section
variable {s : State} {g : Group} {gid k cs first count : Nat} {c : ClauseBuf} {replay : Bool}
  (hcand : g.candidate k = some (c, first, count, replay))
include hcand

/-- A start writes the group, then the register cache; in user mode it lifts bars. -/
theorem startClause_eq : s.startClause gid g k cs =
    let u := s.putStarted gid g k c (g.withStarted k cs s.cycle s.nextId c first count replay)
    let v := if (g.half? k).isSome then u.makeRoom g.part gid 64 else u
    if g.supervisor then v else v.liftBars g.part gid := by
  unfold State.startClause
  rw [hcand]
  rfl

theorem group?_startClause : (s.startClause gid g k cs).group? gid = some (g.withStarted k cs s.cycle s.nextId c first count replay) := by
  have hput (g' : Group) : (s.putStarted gid g k c g').group? gid = some g' := dget_dput_same ..
  have hroom (u : State) : (if (g.half? k).isSome then u.makeRoom g.part gid 64 else u).group? gid = u.group? gid := by
    split
    · exact congrArg (fun l => dget l gid) (makeRoom_groups g.part gid 64 u).1
    · rfl
  rw [startClause_eq hcand]
  dsimp only
  split
  · rw [hroom, hput]
  · rw [group?_liftBars, hroom, hput]

theorem startClause_access : (s.startClause gid g k cs).access = s.access := by
  have hput (g' : Group) : (s.putStarted gid g k c g').access = s.access := rfl
  have hroom (u : State) : (if (g.half? k).isSome then u.makeRoom g.part gid 64 else u).access = u.access := by
    split
    · exact (makeRoom_groups g.part gid 64 u).2
    · rfl
  have hlift (u : State) : (u.liftBars g.part gid).access = u.access := rfl
  rw [startClause_eq hcand]
  dsimp only
  split
  · rw [hroom, hput]
  · rw [hlift, hroom, hput]

end

/-! ### The step -/

/-- A partition without deterministic groups holds no stores back for their brines (R356). -/
theorem foldl_brinePending {s : State} {part : Nat} (hdet : ∀ e ∈ s.groups, e.2.part = part → e.2.det = false) :
    s.groups.foldl (fun s e => if e.2.part == part && e.2.det then s.brinePending e.1 else s) s = s := by
  have hnone : ∀ l : List (Nat × Group), (∀ e ∈ l, e.2.part = part → e.2.det = false) → ∀ s : State,
      l.foldl (fun s e => if e.2.part == part && e.2.det then s.brinePending e.1 else s) s = s := by
    intro l
    induction l with
    | nil => intro _ s; rfl
    | cons e l ih =>
      intro hl s
      have hskip : (e.2.part == part && e.2.det) = false := by
        by_cases hpart : e.2.part = part
        · simp [hl e List.mem_cons_self hpart]
        · simp [hpart]
      rw [List.foldl_cons, hskip]
      exact ih (fun x hx => hl x (List.mem_cons_of_mem _ hx)) s
  exact hnone s.groups hdet s

section
variable {s : State} {part cs gid k : Nat} {g : Group} (hdet : ∀ e ∈ s.groups, e.2.part = part → e.2.det = false)
  (hone : tget 0 s.startedAt part ≠ s.cycle + 1) (hfree : s.freeSlot part = some cs) (hchosen : s.chosen part = some (gid, g, k))
  {c : ClauseBuf} {first count : Nat} {replay : Bool} (hcand : g.candidate k = some (c, first, count, replay))
include hdet hone hfree hchosen hcand

theorem exec_clauseStart (hgo : g.supervisor = true ∨ (g.half? k).isSome ∨ replay = true ∨ g.refusalAt c = none) :
    exec (.clauseStart part) s = finish s (s.startClause gid g k cs) := by
  show execClauseStart part s = _
  unfold execClauseStart
  rw [foldl_brinePending hdet]
  dsimp only
  rw [if_neg hone, hfree, hchosen]
  dsimp only
  split
  · rfl
  next hplain =>
    rw [hcand]
    cases replay with
    | true => rfl
    | false =>
      have hnone : g.refusalAt c = none := by
        simp only [Bool.or_eq_true, not_or] at hplain
        simpa [hplain.1, hplain.2] using hgo
      simp only [hnone]

theorem exec_clauseStart_refused {x : Refusal285} (huser : g.supervisor = false) (hhalf : (g.half? k).isNone)
    (hreplay : replay = false) (hrefused : g.refusalAt c = some x) :
    exec (.clauseStart part) s = finish s (s.raiseRefusal gid x
      { slot := k, cycle := s.cycle, code := 0x0B, atClause := first == 0, idx := first, pc := c.addr, done := false,
        arg := 0, einfo := x.lanes, etxf := x.wordAt, lanes := x.lanes, faddr := [] }) := by
  show execClauseStart part s = _
  unfold execClauseStart
  rw [foldl_brinePending hdet]
  dsimp only
  rw [if_neg hone, hfree, hchosen]
  dsimp only
  rw [if_neg (by simpa [huser] using hhalf), hcand, hreplay]
  simp only [hrefused]

end

/-- CLAUSE_START in a partition with no deterministic group (R53, R101, R105, R142). -/
theorem clauseStart_effect (s : State) (part cs gid k : Nat) (g : Group)
    (hdet : ∀ e ∈ s.groups, e.2.part = part → e.2.det = false) (hone : tget 0 s.startedAt part ≠ s.cycle + 1)
    (hfree : s.freeSlot part = some cs) (hchosen : s.chosen part = some (gid, g, k)) :
    ∀ c first count replay, g.candidate k = some (c, first, count, replay) →
      (g.supervisor = true ∨ (g.half? k).isSome ∨ replay = true ∨ g.refusalAt c = none →
        s.completesIf s.settled (.clauseStart part) (s.startClause gid g k cs) ∧
        (s.group? gid = some g → ∃ h r, (s.startClause gid g k cs).group? gid = some h ∧ (h.slot k).running = some r ∧
          r.cslot = cs ∧ r.clause = c ∧ r.idx = first ∧ r.count = count ∧ r.readyAt = s.cycle ∧
          (h.slot k).clause = none ∧ h.vregs = g.vregs ∧
          ∀ f, g.wholeFlag k c first = some f → h.flag f = g.flag f + 1)) ∧
      (∀ x, g.supervisor = false → (g.half? k).isNone → replay = false → g.refusalAt c = some x →
        s.completesIf s.settled (.clauseStart part) (s.raiseRefusal gid x
          { slot := k, cycle := s.cycle, code := 0x0B, atClause := first == 0, idx := first, pc := c.addr, done := false,
            arg := 0, einfo := x.lanes, etxf := x.wordAt, lanes := x.lanes, faddr := [] })) := by
  intro c first count replay hcand
  refine ⟨fun hgo => ⟨?_, fun _ => ?_⟩, fun x huser hhalf hreplay hrefused => ?_⟩
  · exact completesIf_of_finish (exec_clauseStart hdet hone hfree hchosen hcand hgo)
      (settled_of_access (startClause_access hcand))
  · have hslot := slot_started g k cs s.cycle s.nextId c first count replay
    exact ⟨_, g.runOf k cs s.cycle s.nextId c first count replay, group?_startClause hcand, congrArg Slot.running hslot,
      rfl, rfl, rfl, rfl, rfl, congrArg Slot.clause hslot, vregs_started .., fun f hf => flag_started _ _ _ _ _ _ _ _ _ hf⟩
  · exact completesIf_of_finish (exec_clauseStart_refused hdet hone hfree hchosen hcand huser hhalf hreplay hrefused)
      (settled_of_access (raiseTrap_access ..))

end Sys2Proof.Machine
end

section
/-!
PROOFS. O22, the code of a clause: its words are read through the core's L1 (R104), which leaves the groups as they are; from
the device's own memory they are what memory holds.
-/
namespace Sys2Proof.Machine

/-! ### A code read leaves all but the caches and notes -/

theorem codeAt_beyond (s : State) (a : Agent) (va : Word64) : (s.codeAt a va).1.beyond = s.beyond := by
  unfold State.codeAt
  split
  · rfl
  · split
    · rfl
    · dsimp only
      split
      · exact lookup_beyond ..
      · split <;> exact lookup_beyond ..

theorem codeWords_beyond (a : Agent) (n : Nat) : ∀ (s : State) (va : Word64), (s.codeWords a n va).1.beyond = s.beyond := by
  induction n with
  | zero => intro s va; rfl
  | succ n ih =>
    intro s va
    unfold State.codeWords
    dsimp only
    split
    · exact codeAt_beyond s a va
    · split <;> exact (ih _ _).trans ((readLoc_phys_beyond ..).trans (codeAt_beyond s a va))

theorem codeWords_length {a : Agent} {n : Nat} : ∀ {s : State} {va : Word64} {ws : List Word64},
    (s.codeWords a n va).2 = .inl ws → ws.length = n := by
  induction n with
  | zero =>
    intro s va ws h
    cases h
    rfl
  | succ n ih =>
    intro s va ws h
    unfold State.codeWords at h
    dsimp only at h
    split at h
    · cases h
    · split at h
      next rest hrest =>
        cases h
        rw [List.length_cons, ih hrest]
      · cases h

theorem fetchClause_beyond (s : State) (gid k : Nat) (g : Group) (pc : Word64) :
    (s.fetchClause gid k g pc).1.beyond = s.beyond := by
  unfold State.fetchClause
  dsimp only
  split
  · exact codeWords_beyond ..
  · split
    · exact (codeWords_beyond ..).trans (codeWords_beyond ..)
    · split <;> exact (codeWords_beyond ..).trans (codeWords_beyond ..)

/-- A fetched clause stands at the PC, has as many words as its header says, and has passed the checks (R58). -/
theorem fetchClause_clause {s : State} {gid k : Nat} {g : Group} {pc : Word64} {c : ClauseBuf}
    (h : (s.fetchClause gid k g pc).2 = .clause c) : c.addr = pc ∧ c.words.length = (decodeHeader c.header).n ∧
      clauseCheck g.budget (fld (g.slot k).fmt 3 0) false (decodeHeader c.header) c.words = 0 := by
  unfold State.fetchClause at h
  dsimp only at h
  split at h
  · cases h
  · split at h
    · cases h
    next ws hws =>
      split at h
      next hcheck =>
        cases h
        exact ⟨rfl, codeWords_length hws, hcheck⟩
      · cases h

/-! ### CLAUSE_FETCH, in its branches (R104) -/

section
variable {s : State} {gid k : Nat} {g : Group} {pc : Word64} {awaited : Bool} (hg : s.group? gid = some g) (hk : k ≤ 1)
  (hat : g.fetchAt k = some (pc, awaited)) (hhalf : (g.half? k).isNone)
include hg hk hat

/-- A clause goes into the slot's buffer, but an awaited one only where the slot goes on within it. -/
theorem exec_clauseFetch_clause {c : ClauseBuf} (hclause : (s.fetchClause gid k g pc).2 = .clause c)
    (hresume : awaited = false ∨ (g.slot k).resumeIdx < c.words.length) :
    exec (.clauseFetch gid k) s =
      finish s ((s.fetchClause gid k g pc).1.modGroup gid (fun h => h.setSlot k { h.slot k with clause := some c })) := by
  have hgroup : (s.fetchClause gid k g pc).1.group? gid = some g :=
    (group?_of_beyond (fetchClause_beyond s gid k g pc) gid).trans hg
  have hnot : ¬ ((awaited && decide (c.words.length ≤ (g.slot k).resumeIdx)) = true) := by
    rw [Bool.and_eq_true, decide_eq_true_eq]
    rintro ⟨hawaited, hbeyond⟩
    rcases hresume with hresume | hresume
    · simp [hresume] at hawaited
    · omega
  show execClauseFetch gid k s = _
  unfold execClauseFetch
  simp only [hg, hat, hclause]
  rw [if_neg (by omega), modGroup_eq hgroup, modGroup_eq hgroup, if_neg hnot]

/-- An awaited clause that the slot's resumption index lies beyond is left out (R145). -/
theorem exec_clauseFetch_beyond {c : ClauseBuf} (hclause : (s.fetchClause gid k g pc).2 = .clause c)
    (hawaited : awaited = true) (hresume : c.words.length ≤ (g.slot k).resumeIdx) :
    exec (.clauseFetch gid k) s =
      finish s ((s.fetchClause gid k g pc).1.setGroup gid (g.setPc k (pc + w64n (8 * (c.words.length + 1))))) := by
  have hgroup : (s.fetchClause gid k g pc).1.group? gid = some g :=
    (group?_of_beyond (fetchClause_beyond s gid k g pc) gid).trans hg
  show execClauseFetch gid k s = _
  unfold execClauseFetch
  simp only [hg, hat, hclause]
  rw [if_neg (by omega), modGroup_eq hgroup]
  rw [if_pos (by simp [hawaited, hresume])]

/-- A failed fetch of a clause that is not awaited yet does nothing. -/
theorem exec_clauseFetch_idle {code e : Nat} (htrap : (s.fetchClause gid k g pc).2 = .trap code e) (hawaited : awaited = false) :
    exec (.clauseFetch gid k) s = finish s (s.fetchClause gid k g pc).1 := by
  show execClauseFetch gid k s = _
  unfold execClauseFetch
  simp only [hg, hat, htrap]
  rw [if_neg (by omega), if_pos (by simp [hawaited])]

include hhalf in
theorem exec_clauseFetch_trap {code e : Nat} (htrap : (s.fetchClause gid k g pc).2 = .trap code e) (hawaited : awaited = true) :
    exec (.clauseFetch gid k) s =
      finish s ((s.fetchClause gid k g pc).1.trapClause gid k (BitVec.ofNat 8 code) pc (BitVec.ofNat 64 e) 0 0 (g.slot k).mask
        (if code = 1 ∨ code = 2 then (lanesOf (g.slot k).mask).map (fun i => (i, pc)) else [])) := by
  have hnone : (g.half? k).isSome = false := by simpa using hhalf
  show execClauseFetch gid k s = _
  unfold execClauseFetch
  simp only [hg, hat, htrap]
  rw [if_neg (by omega), if_neg (by simp [hawaited, hnone])]
  simp only [Bool.or_eq_true, beq_iff_eq, w64n]

end

/-- CLAUSE_FETCH of an awaited clause outside a half (R104, R58). -/
theorem clauseFetch_awaited (s : State) (gid k : Nat) (g : Group) (pc : Word64) (hg : s.group? gid = some g) (hk : k ≤ 1)
    (hat : g.fetchAt k = some (pc, true)) (hhalf : (g.half? k).isNone) :
    let x := s.fetchClause gid k g pc
    (∀ c, x.2 = .clause c → (g.slot k).resumeIdx < c.words.length →
      s.completesIf x.1.settled (.clauseFetch gid k)
        (x.1.modGroup gid (fun h => h.setSlot k { h.slot k with clause := some c }))) ∧
    (∀ c, x.2 = .clause c → c.addr = pc ∧ c.words.length = (decodeHeader c.header).n ∧
      clauseCheck g.budget (fld (g.slot k).fmt 3 0) false (decodeHeader c.header) c.words = 0) ∧
    (∀ code e, x.2 = .trap code e → s.completesIf x.1.settled (.clauseFetch gid k)
      (x.1.trapClause gid k (BitVec.ofNat 8 code) pc (BitVec.ofNat 64 e) 0 0 (g.slot k).mask
        (if code = 1 ∨ code = 2 then (lanesOf (g.slot k).mask).map (fun i => (i, pc)) else []))) :=
  ⟨fun _ hclause hresume => completesIf_of_finish (exec_clauseFetch_clause hg hk hat hclause (.inr hresume))
      (settled_of_access (modGroup_access ..)),
    fun _ hclause => fetchClause_clause hclause,
    fun _ _ htrap => completesIf_of_finish (exec_clauseFetch_trap hg hk hat hhalf htrap rfl)
      (settled_of_access (raiseTrap_access ..))⟩

end Sys2Proof.Machine
end

section
/-!
PROOFS. O22, a clause in the device's own memory: the fetch brings its bytes into the core's L1 and nothing else, and answers
what memory holds (R104, R58).
-/
namespace Sys2Proof.Machine

/-! ### Reads of device memory through an L1 that holds copies of it only (R255, R256) -/

/-- State t is s with at most n bytes in the caches; those under the keys of a core's L1 are what memory holds. -/
def State.copies (s t : State) (core n : Nat) : Prop :=
  t = { s with cache := t.cache, marks := t.marks } ∧ t.cache.length ≤ n ∧
    ∀ pa v, (cacheKey core pa, v) ∈ t.cache → v.val = s.rd pa

theorem copies_of_clear {s : State} (h : s.clear) (core : Nat) : s.copies s core 0 := by
  have hempty : s.cache = [] := cache_of_bare h.1
  refine ⟨rfl, by rw [hempty]; exact le_rfl, fun pa v hv => ?_⟩
  rw [hempty] at hv
  cases hv

theorem cacheKey_inj {core pa pb : Nat} (h : cacheKey core pa = cacheKey core pb) : pa = pb := Nat.add_left_cancel h

theorem length_dput_le {α : Type} (l : Dict α) (k : Nat) (v : α) : (dput l k v).length ≤ l.length + 1 := by
  induction l with
  | nil => exact le_rfl
  | cons e l ih =>
    obtain ⟨j, w⟩ := e
    simp only [dput]
    split
    · simp
    · split <;> simp_all

section
variable {s t : State} {core n : Nat} (hclear : s.clear) (h : s.copies t core n)
include h

theorem rd_of_copies (pa : Nat) : t.rd pa = s.rd pa := by
  rw [h.1]
  rfl

theorem group?_of_copies (gid : Nat) : t.group? gid = s.group? gid := by
  rw [h.1]
  rfl

theorem mem_of_copies : t.mem = s.mem := by
  rw [h.1]

theorem cycle_of_copies : t.cycle = s.cycle := by
  rw [h.1]

theorem copies_of_le {m : Nat} (hm : n ≤ m) : s.copies t core m := ⟨h.1, h.2.1.trans hm, h.2.2⟩

include hclear

theorem calm_of_copies : t.calm := by
  rw [h.1]
  exact hclear.1.1

/-- An access to a byte of the device's own memory leaves no note. -/
theorem touch_of_copies {pa : Nat} (hd : isDevice pa = true) (w : Bool) : t.touch pa w = t := by
  obtain ⟨-, hdir, hdone, husable⟩ := hclear
  obtain ⟨d, hlt, hregion⟩ := isDevice_spec hd
  have hready : s.memReady pa = true := by
    rcases hregion with hr | hr <;> simp [State.memReady, hr, husable d hlt]
  have hready' : t.memReady pa = true := by
    rw [h.1]
    exact hready
  have hsome : (region? pa).isNone = false := by rcases hregion with hr | hr <;> simp [hr]
  have hdir' : t.hostDir = [] := by
    rw [h.1]
    exact hdir
  have hdone' : t.backDone = [] := by
    rw [h.1]
    exact hdone
  simp [State.touch, hsome, hready', State.hostHolds, hdir', hdone', isDevice_not_pooled hd]

/-- A byte of the device's own memory comes into the L1, where that has room, or is there. -/
theorem readPhys_of_copies {pa : Nat} (hd : isDevice pa = true) (hroom : n < s.lineRoom core) :
    (t.readPhys core 0 pa).2 = s.rd pa ∧ s.copies (t.readPhys core 0 pa).1 core (n + 1) := by
  obtain ⟨hsame, hlength, hvalues⟩ := h
  have huncached : t.uncached pa = false := by simp [State.uncached, isDevice_not_host hd]
  unfold State.readPhys
  rw [huncached]
  simp only [Bool.false_eq_true, if_false, if_true]
  cases hcached : t.cached core pa with
  | some c => exact ⟨hvalues pa c (mem_of_dget hcached), copies_of_le ⟨hsame, hlength, hvalues⟩ (Nat.le_succ n)⟩
  | none =>
    have hread : t.devRead (dieOf core) pa = (t, s.rd pa) := by
      rw [State.devRead, if_neg (by simp [isDevice_not_throughL2 hd]), touch_of_copies hclear ⟨hsame, hlength, hvalues⟩ hd,
        rd_of_copies ⟨hsame, hlength, hvalues⟩]
    have hnotfull : t.cacheFull core pa = false := by
      have hline : t.lineRoom core = s.lineRoom core := by
        rw [hsame]
        rfl
      simp only [State.cacheFull, hline]
      simp [show ¬ s.lineRoom core ≤ t.cache.length by omega]
    dsimp only
    rw [hread]
    refine ⟨rfl, ?_, ?_, fun pa' v hv => ?_⟩
    · have hput := congrArg (fun u : State => { u with cache := (t.cput core pa ⟨s.rd pa, false⟩).cache
                                                       marks := (t.cput core pa ⟨s.rd pa, false⟩).marks }) hsame
      rw [State.cput, hnotfull, Bool.or_false] at hput ⊢
      exact hput
    · exact Nat.le_trans (length_dput_le t.cache (cacheKey core pa) ⟨s.rd pa, false⟩) (Nat.succ_le_succ hlength)
    · rcases mem_dput hv with heq | hv
      · obtain ⟨hkey, rfl⟩ := Prod.mk.inj heq
        rw [cacheKey_inj hkey]
      · exact hvalues pa' v hv

end

section
variable {s : State} {core : Nat} (hclear : s.clear)
include hclear

/-- The bytes of a word, one by one. -/
theorem readBytes_of_copies (m : Nat) : ∀ {t : State} {n : Nat} (pa : Nat), s.copies t core n → (∀ k < m, isDevice (pa + k) = true) →
    n + m ≤ s.lineRoom core → (t.readBytes core 0 m (.phys pa)).2 = (List.range m).map (fun k => s.rd (pa + k)) ∧
      s.copies (t.readBytes core 0 m (.phys pa)).1 core (n + m) := by
  induction m with
  | zero => intro t n pa h _ _; exact ⟨rfl, h⟩
  | succ m ih =>
    intro t n pa h hd hroom
    have hd0 : isDevice pa = true := hd 0 (by omega)
    obtain ⟨hbyte, hcopies⟩ := readPhys_of_copies hclear h hd0 (by omega)
    obtain ⟨hrest, hcopies'⟩ := ih (pa + 1) hcopies (fun k hk => by
      simpa [Nat.add_comm, Nat.add_left_comm] using hd (k + 1) (by omega)) (by omega)
    refine ⟨?_, ?_⟩
    · show (t.readPhys core 0 pa).2 :: ((t.readPhys core 0 pa).1.readBytes core 0 m (.phys (pa + 1))).2 = _
      rw [hrest, List.range_succ_eq_map, List.map_cons, List.map_map]
      exact congrArg₂ _ hbyte (List.map_congr_left fun k _ => by
        rw [Function.comp_apply, Nat.succ_eq_add_one, Nat.add_assoc, Nat.add_comm 1 k])
    · rw [show n + (m + 1) = n + 1 + m by omega]
      exact hcopies'

omit hclear in
/-- Of a word that the L1 does not hold whole, its clean copies go first (R234). -/
theorem freshen_of_copies {t : State} {n : Nat} (h : s.copies t core n) (m pa : Nat) : s.copies (t.freshen core m pa) core n := by
  obtain ⟨hsame, hlength, hvalues⟩ := h
  unfold State.freshen
  split
  · exact ⟨hsame, hlength, hvalues⟩
  · refine ⟨?_, (List.length_filter_le ..).trans hlength, fun pa v hv => hvalues pa v (List.mem_filter.mp hv).1⟩
    exact congrArg (fun u : State => { u with cache := t.cache.filter (fun e => e.2.dirty || e.1 / 2 ^ 52 != core ||
      decide (e.1 % 2 ^ 52 / 8 < pa / 8) || decide ((pa + m - 1) / 8 < e.1 % 2 ^ 52 / 8)) }) hsame

theorem readLoc_of_copies {t : State} {n : Nat} (h : s.copies t core n) {pa m : Nat} (hd : ∀ k < m, isDevice (pa + k) = true)
    (hroom : n + m ≤ s.lineRoom core) : (t.readLoc core 0 m (.phys pa)).2 = (List.range m).map (fun k => s.rd (pa + k)) ∧
      s.copies (t.readLoc core 0 m (.phys pa)).1 core (n + m) :=
  readBytes_of_copies hclear m pa (freshen_of_copies h m pa) hd hroom

end

/-! ### The words of a clause (R104) -/

section
variable {s : State} {a : Agent} (hclear : s.clear)

/-- A word's place, where the core's own translation cache has its page. -/
theorem codeAt_of_copies {t : State} {n : Nat} (h : s.copies t a.core n) {va : Word64} {pa : Nat} (hpa : s.codePa a va = some pa) :
    t.codeAt a va = (t, .ok pa) := by
  unfold State.codePa at hpa
  split at hpa
  next hva =>
    obtain ⟨hcanonical, hwindow⟩ := hva
    obtain ⟨l, hl, hpage⟩ := Option.bind_eq_some_iff.mp hpa
    split at hpage
    next hallowed =>
      obtain ⟨hx, huser⟩ := hallowed
      cases hpage
      have hfind : t.tlbFind a.core a.ctx va.toNat = some l := by
        rw [h.1]
        exact hl
      have hlookup : t.lookup a.core a.ctx va.toNat = (t, .leaf l) := by
        simp only [State.lookup, hfind]
      have hfetch : (needFetch a).refuse l = none := by
        cases hu : a.user
        · simp [Need.refuse, needFetch, hx, hu]
        · simp [Need.refuse, needFetch, hx, hu, huser hu]
      simp only [State.codeAt, hcanonical, hwindow, hlookup, hfetch]
      rfl
    · cases hpage
  · cases hpa

include hclear

/-- n words of code are what memory holds at their places. -/
theorem codeWords_of_copies (m : Nat) : ∀ {t : State} {n : Nat} {va : Word64}, s.copies t a.core n → s.codeHere a va m →
    n + 8 * m ≤ s.lineRoom a.core →
    (t.codeWords a m va).2 = .inl ((List.range m).map (fun j => s.codeWord a (va + BitVec.ofNat 64 (8 * j)))) ∧
      s.copies (t.codeWords a m va).1 a.core (n + 8 * m) := by
  induction m with
  | zero => intro t n va h _ _; exact ⟨rfl, h⟩
  | succ m ih =>
    intro t n va h hhere hroom
    obtain ⟨pa, hpa, hd⟩ := hhere 0 (by omega)
    rw [show va + BitVec.ofNat 64 (8 * 0) = va by simp] at hpa
    obtain ⟨hbytes, hcopies⟩ := readLoc_of_copies hclear h hd (by omega)
    have hstep (j : Nat) : va + 8 + BitVec.ofNat 64 (8 * j) = va + BitVec.ofNat 64 (8 * (j + 1)) := by
      rw [Nat.mul_add, Nat.add_comm, BitVec.ofNat_add, BitVec.add_assoc]
      rfl
    obtain ⟨hrest, hcopies'⟩ := ih (va := va + 8) hcopies (fun j hj => by
      rw [hstep]
      exact hhere (j + 1) (by omega)) (by omega)
    have hword : w64n (ofBytes (t.readLoc a.core 0 8 (.phys pa)).2) = s.codeWord a va := by
      rw [hbytes, State.codeWord, hpa]
      rfl
    have hwords : (t.codeWords a (m + 1) va) = (((t.readLoc a.core 0 8 (.phys pa)).1.codeWords a m (va + 8)).1,
        .inl (s.codeWord a va :: (List.range m).map (fun j => s.codeWord a (va + 8 + BitVec.ofNat 64 (8 * j))))) := by
      rw [State.codeWords]
      simp only [codeAt_of_copies h hpa, hrest, hword]
    rw [hwords]
    refine ⟨?_, ?_⟩
    · rw [List.range_succ_eq_map, List.map_cons, List.map_map]
      refine congrArg Sum.inl (congrArg₂ _ (by simp) (List.map_congr_left fun j _ => ?_))
      rw [Function.comp_apply, Nat.succ_eq_add_one, hstep]
    · rw [show n + 8 * (m + 1) = n + 8 + 8 * m by omega]
      exact hcopies'

end

end Sys2Proof.Machine
end

section
/-!
PROOFS. O22, a clause in the device's own memory, from its fetch to the slot's buffer or to its trap (R58, R104); O22 settled.
-/
namespace Sys2Proof.Machine

theorem calm_of_access {s t : State} (h : t.access = s.access) (hs : s.calm) : t.calm := by
  have hsettled := settled_of_access h hs.1
  simp only [State.access, Prod.mk.injEq] at h
  obtain ⟨-, -, -, -, -, hwrote, hgot, htook, hwriter, -⟩ := h
  obtain ⟨-, hwrote', hgot', htook', hwriter'⟩ := hs
  exact ⟨hsettled, hwrote.trans hwrote', hgot.trans hgot', htook.trans htook', hwriter.trans hwriter'⟩

/-! ### What the fetch answers -/

/-- A clause has at most 16 words (R50). -/
theorem n_le_sixteen (h : Header) : h.n ≤ 16 := by
  have := h.count.isLt
  unfold Header.n
  omega

/-- What the fetch answers, by the words that it has read. -/
theorem fetchClause_of_words {s : State} {gid k : Nat} {g : Group} {pc w : Word64} {ws : List Word64}
    (hheader : (s.codeWords (agentOf gid g) 1 pc).2 = .inl [w])
    (hwords : ((s.codeWords (agentOf gid g) 1 pc).1.codeWords (agentOf gid g) (decodeHeader w).n (pc + 8)).2 = .inl ws) :
    let t := ((s.codeWords (agentOf gid g) 1 pc).1.codeWords (agentOf gid g) (decodeHeader w).n (pc + 8)).1
    let check := clauseCheck g.budget (fld (g.slot k).fmt 3 0) false (decodeHeader w) ws
    (s.fetchClause gid k g pc).1 = t ∧
      (check = 0 → (s.fetchClause gid k g pc).2 =
        .clause ⟨pc, w, ws, t.predLook g k pc (decodeHeader w) ws, fld (g.slot k).fmt 3 0⟩) ∧
      (check ≠ 0 → (s.fetchClause gid k g pc).2 = .trap 0x03 check) := by
  intro t check
  unfold State.fetchClause
  dsimp only
  rw [hheader]
  dsimp only [List.headD_cons]
  rw [hwords]
  dsimp only
  refine ⟨?_, fun hcheck => ?_, fun hcheck => ?_⟩
  · split <;> rfl
  · split
    · rfl
    next hpositive => exact (hpositive hcheck).elim
  · split
    next hzero => exact absurd hzero hcheck
    · rfl

/-- A fetch from the device's own memory leaves all but copies in the caches as it is; it answers the clause that memory holds
at the PC, or the first check of R58 that it fails. -/
theorem fetchClause_of_clear {s : State} {gid k : Nat} {g : Group} {pc : Word64} (hclear : s.clear)
    (hroom : 136 ≤ s.lineRoom g.core) :
    let a := agentOf gid g
    let h := decodeHeader (s.codeWord a pc)
    let ws := (List.range h.n).map (fun j => s.codeWord a (pc + BitVec.ofNat 64 (8 * (j + 1))))
    let check := clauseCheck g.budget (fld (g.slot k).fmt 3 0) false h ws
    s.codeHere a pc (1 + h.n) →
    s.copies (s.fetchClause gid k g pc).1 g.core 136 ∧
      (check = 0 → ∃ c : ClauseBuf, (s.fetchClause gid k g pc).2 = .clause c ∧ c.addr = pc ∧ c.header = s.codeWord a pc ∧
        c.words = ws) ∧
      (check ≠ 0 → (s.fetchClause gid k g pc).2 = .trap 0x03 check) := by
  intro a h ws check hhere
  have hn : h.n ≤ 16 := n_le_sixteen h
  obtain ⟨hheader, hcopies⟩ := codeWords_of_copies (a := a) hclear 1 (copies_of_clear hclear g.core)
    (fun j hj => hhere j (by omega)) (by show 0 + 8 * 1 ≤ s.lineRoom g.core; omega)
  have hstep (j : Nat) : pc + 8 + BitVec.ofNat 64 (8 * j) = pc + BitVec.ofNat 64 (8 * (j + 1)) := by
    rw [Nat.mul_add, Nat.add_comm, BitVec.ofNat_add, BitVec.add_assoc]
    rfl
  obtain ⟨hwords, hcopies'⟩ := codeWords_of_copies (a := a) (va := pc + 8) hclear h.n hcopies
    (fun j hj => by
      rw [hstep]
      exact hhere (j + 1) (by omega)) (by show 0 + 8 * 1 + 8 * h.n ≤ s.lineRoom g.core; omega)
  have hws : (List.range h.n).map (fun j => s.codeWord a (pc + 8 + BitVec.ofNat 64 (8 * j))) = ws :=
    List.map_congr_left fun j _ => by rw [hstep]
  rw [hws] at hwords
  have hhw : (s.codeWords a 1 pc).2 = .inl [s.codeWord a pc] := by
    rw [hheader]
    simp
  obtain ⟨hstate, hpassed, hfailed⟩ := fetchClause_of_words (g := g) (k := k) hhw hwords
  refine ⟨?_, fun hcheck => ⟨_, hpassed hcheck, rfl, rfl, rfl⟩, hfailed⟩
  rw [hstate]
  exact copies_of_le hcopies' (by omega)

/-! ### What the step leaves of the group -/

/-- An awaited clause is fetched for an idle slot of a group without a pending trap (R104). -/
theorem fetchAt_awaited {g : Group} {k : Nat} {pc : Word64} (hhalf : (g.half? k).isNone) (h : g.fetchAt k = some (pc, true)) :
    (g.slot k).running = none ∧ g.trapReq = none := by
  have hnone : g.half? k = none := Option.isNone_iff_eq_none.mp hhalf
  simp only [Group.fetchAt, hnone] at h
  split at h
  · cases h
  next hstop =>
    simp only [Bool.or_eq_true, not_or] at hstop
    have htrap : g.trapReq = none := by simpa using hstop.1.1.2
    split at h
    · split at h <;> cases h
    · split at h
      · cases h
      · split at h
        next hrunning => exact ⟨hrunning, htrap⟩
        · split at h <;> cases h

/-- A trap at an idle slot stops that slot alone. -/
theorem raiseTrap_idle {s : State} {gid : Nat} {g : Group} {q : TrapReq} (hg : s.group? gid = some g) (hk : q.slot ≤ 1)
    (hrunning : (g.slot q.slot).running = none) (hhalf : (g.half? q.slot).isNone) (hreq : g.trapReq = none) :
    ∃ h, (s.raiseTrap gid q).group? gid = some h ∧ h.vregs = g.vregs ∧ h.sregs = g.sregs ∧
      h.slot (1 - q.slot) = g.slot (1 - q.slot) ∧ (g.supervisor = false → h.trapReq = some q) := by
  let stopped := g.setSlot q.slot { g.slot q.slot with resumeIdx := q.idx, clause := none }
  have hstop : s.stopSlot gid q.slot q.idx = s.setGroup gid stopped := by
    unfold State.stopSlot
    rw [hg]
    dsimp only
    split
    · rfl
    next r hr => exact absurd (hr.symm.trans hrunning) (by simp)
  have hstill : stopped.still = g.still := setSlot_still ..
  have hother : stopped.slot (1 - q.slot) = g.slot (1 - q.slot) := g.slot_one_sub_setSlot _ hk
  have hgroup : (s.setGroup gid stopped).group? gid = some stopped := group?_setGroup_same ..
  unfold State.raiseTrap
  simp only [hg, hstop, hrunning, Option.map_none, Option.getD_none, Bool.false_eq_true, if_false,
    show (g.half? q.slot).isSome = false by simpa using hhalf, hreq]
  cases hsup : g.supervisor with
  | true =>
    refine ⟨stopped, ?_, (congrArg Group.vregs hstill :), (congrArg Group.sregs hstill :), hother, nofun⟩
    rw [if_pos rfl, State.terminate]
    split <;> exact hgroup
  | false =>
    exact ⟨{ stopped with trapReq := some q }, group?_modGroup_same hgroup _, (congrArg Group.vregs hstill :),
      (congrArg Group.sregs hstill :), hother, fun _ => rfl⟩

/-- Outside a half, a new PC leaves the other slot as it is (R114). -/
theorem setPc_slot_other {g : Group} {k : Nat} (hk : k ≤ 1) (hhalf : (g.half? k).isNone) (pc : Word64) :
    (g.setPc k pc).slot (1 - k) = g.slot (1 - k) := by
  unfold Group.setPc
  dsimp only
  by_cases hjoin : pc = (g.slot k).join
  · rw [if_pos (by simp [hjoin, hhalf])]
    exact g.slot_one_sub_setSlot _ hk
  · rw [if_neg (by simp [hjoin]), if_neg hjoin]
    exact g.slot_one_sub_setSlot _ hk

/-! ### CLAUSE_FETCH in a state where memory can be reached -/

/-- What the step shows: memory, the group's registers and its other slot stay, and the group has `effect`. -/
def State.fetchesTo (s : State) (gid k : Nat) (g : Group) (effect : Group → Prop) : Prop :=
  ∃ t x, exec (.clauseFetch gid k) s = .next t ∧ t.group? gid = some x ∧ t.mem = s.mem ∧ x.vregs = g.vregs ∧
    x.sregs = g.sregs ∧ x.slot (1 - k) = g.slot (1 - k) ∧ effect x

section
variable {s : State} {gid k : Nat} {g : Group} {pc : Word64} {awaited : Bool} (hclear : s.clear) (hg : s.group? gid = some g)
  (hk : k ≤ 1) (hat : g.fetchAt k = some (pc, awaited)) (hhalf : (g.half? k).isNone)
  (hcopies : s.copies (s.fetchClause gid k g pc).1 g.core 136)
include hclear hcopies

/-- A step that ends the fetch with a change of groups answers just that. -/
theorem finish_of_fetch {u : State} (haccess : u.access = (s.fetchClause gid k g pc).1.access) : finish s u = .next u :=
  finish_of_calm (calm_of_access haccess (calm_of_copies hclear hcopies))

include hg hk hat hhalf

theorem fetchesTo_clause {c : ClauseBuf} (hclause : (s.fetchClause gid k g pc).2 = .clause c) :
    s.fetchesTo gid k g (fun x => (g.slot k).resumeIdx < c.words.length → (x.slot k).clause = some c) := by
  have hgroup : (s.fetchClause gid k g pc).1.group? gid = some g := (group?_of_copies hcopies gid).trans hg
  by_cases hresume : awaited = false ∨ (g.slot k).resumeIdx < c.words.length
  · have hexec := exec_clauseFetch_clause hg hk hat hclause hresume
    rw [finish_of_fetch hclear hcopies (modGroup_access ..)] at hexec
    have hstill : (g.setSlot k { g.slot k with clause := some c }).still = g.still := setSlot_still ..
    exact ⟨_, _, hexec, group?_modGroup_same hgroup _, (State.modGroup_mem ..).trans (mem_of_copies hcopies),
      (congrArg Group.vregs hstill :), (congrArg Group.sregs hstill :), g.slot_one_sub_setSlot _ hk,
      fun _ => congrArg Slot.clause (Group.slot_setSlot_same ..)⟩
  · obtain ⟨hawaited, hbeyond⟩ := not_or.mp hresume
    have hexec := (exec_clauseFetch_beyond hg hk hat hclause (by simpa using hawaited) (by omega)).trans
      (finish_of_fetch hclear hcopies rfl)
    have hstill := setPc_still g k (pc + w64n (8 * (c.words.length + 1)))
    exact ⟨_, _, hexec, group?_setGroup_same .., (State.setGroup_mem ..).trans (mem_of_copies hcopies), (congrArg Group.vregs hstill :),
      (congrArg Group.sregs hstill :), setPc_slot_other hk hhalf _, fun h => absurd h hbeyond⟩

theorem fetchesTo_trap {e : Nat} (htrap : (s.fetchClause gid k g pc).2 = .trap 0x03 e) :
    s.fetchesTo gid k g (fun x => awaited = true → g.supervisor = false → x.trapReq =
      some { slot := k, cycle := s.cycle, code := 0x03, atClause := true, idx := 0, pc := pc, done := false, arg := 0, etxf := 0,
             lanes := (g.slot k).mask, faddr := [], einfo := BitVec.ofNat 64 e }) := by
  have hgroup : (s.fetchClause gid k g pc).1.group? gid = some g := (group?_of_copies hcopies gid).trans hg
  cases awaited with
  | false =>
    have hexec := (exec_clauseFetch_idle hg hk hat htrap rfl).trans (finish_of_fetch hclear hcopies rfl)
    exact ⟨_, g, hexec, hgroup, mem_of_copies hcopies, rfl, rfl, rfl, nofun⟩
  | true =>
    have hexec := (exec_clauseFetch_trap hg hk hat hhalf htrap rfl).trans (finish_of_fetch hclear hcopies (raiseTrap_access ..))
    obtain ⟨hrunning, hreq⟩ := fetchAt_awaited hhalf hat
    obtain ⟨h, hh, hvregs, hsregs, hother, htrapped⟩ := raiseTrap_idle (q :=
      { slot := k, cycle := (s.fetchClause gid k g pc).1.cycle, code := 0x03, atClause := true, idx := 0, pc := pc, done := false,
        arg := 0, etxf := 0, lanes := (g.slot k).mask, faddr := [], einfo := BitVec.ofNat 64 e }) hgroup hk hrunning hhalf hreq
    refine ⟨_, h, hexec, hh, (State.raiseTrap_mem ..).trans (mem_of_copies hcopies), hvregs, hsregs, hother, fun _ hsup => ?_⟩
    rw [htrapped hsup, cycle_of_copies hcopies]

end

theorem clauseFetch_device (s : State) (gid k : Nat) (g : Group) (pc : Word64) (awaited : Bool) (hclear : s.clear)
    (hg : s.group? gid = some g) (hk : k ≤ 1) (hat : g.fetchAt k = some (pc, awaited)) (hhalf : (g.half? k).isNone)
    (hroom : 136 ≤ s.lineRoom g.core) :
    let a := agentOf gid g
    let at_ (j : Nat) : Word64 := pc + BitVec.ofNat 64 (8 * j)
    let h := decodeHeader (s.codeWord a pc)
    let ws := (List.range h.n).map (fun j => s.codeWord a (at_ (j + 1)))
    s.codeHere a pc (1 + h.n) →
    ∃ t x, exec (.clauseFetch gid k) s = .next t ∧ t.group? gid = some x ∧ t.mem = s.mem ∧ x.vregs = g.vregs ∧
      x.sregs = g.sregs ∧ x.slot (1 - k) = g.slot (1 - k) ∧
      (clauseCheck g.budget (fld (g.slot k).fmt 3 0) false h ws = 0 → (g.slot k).resumeIdx < h.n →
        ∃ c, (x.slot k).clause = some c ∧ c.addr = pc ∧ c.header = s.codeWord a pc ∧ c.words = ws) ∧
      (clauseCheck g.budget (fld (g.slot k).fmt 3 0) false h ws ≠ 0 → awaited = true → g.supervisor = false →
        x.trapReq = some { slot := k, cycle := s.cycle, code := 0x03, atClause := true, idx := 0, pc := pc, done := false,
                           arg := 0, etxf := 0, lanes := (g.slot k).mask, faddr := [],
                           einfo := BitVec.ofNat 64 (clauseCheck g.budget (fld (g.slot k).fmt 3 0) false h ws) }) := by
  intro a at_ h ws hhere
  obtain ⟨hcopies, hpassed, hfailed⟩ := fetchClause_of_clear (k := k) hclear hroom hhere
  by_cases hcheck : clauseCheck g.budget (fld (g.slot k).fmt 3 0) false h ws = 0
  · obtain ⟨c, hclause, haddr, hheader, hwords⟩ := hpassed hcheck
    obtain ⟨t, x, hexec, hx, hmem, hvregs, hsregs, hother, heffect⟩ := fetchesTo_clause hclear hg hk hat hhalf hcopies hclause
    have hlength : c.words.length = h.n := by
      rw [hwords, List.length_map, List.length_range]
    exact ⟨t, x, hexec, hx, hmem, hvregs, hsregs, hother,
      fun _ hresume => ⟨c, heffect (hlength ▸ hresume), haddr, hheader, hwords⟩, fun hne => absurd hcheck hne⟩
  · obtain ⟨t, x, hexec, hx, hmem, hvregs, hsregs, hother, heffect⟩ :=
      fetchesTo_trap hclear hg hk hat hhalf hcopies (hfailed hcheck)
    exact ⟨t, x, hexec, hx, hmem, hvregs, hsregs, hother, fun h0 => absurd h0 hcheck, fun _ => heffect⟩

/-- Settles O22: a fetch in general, a fetch from the device's own memory, the checks of R58, and a start. -/
theorem clauseFetchAndStart : Obligations.ClauseFetchAndStart :=
  ⟨clauseFetch_awaited, clauseFetch_device, fun B elt h ws _ => clauseCheck_spec B elt h ws, clauseStart_effect⟩

end Sys2Proof.Machine
end

section
/-!
PROOFS. O16: LPAD, YIELD and EXIT (R113, R124, R125).
-/
namespace Sys2Proof.Machine

/-! ### The end of a clause without a next one -/

/-- What setting a PC leaves: all that its slot and its half leave. -/
theorem setPc_keeps {α : Type} {P : Group → α} (hslot : ∀ g k x, P (Group.setSlot g k x) = P g)
    (hhalf : ∀ g k f, P (Group.modHalf g k f) = P g) (g : Group) (k : Nat) (pc : Word64) : P (g.setPc k pc) = P g := by
  unfold Group.setPc Group.clearSlot
  dsimp only
  split
  · exact hslot g k _
  · split
    · exact (hhalf _ k _).trans (hslot g k _)
    · exact hslot g k _

/-- A slot's lanes, its PC and its join. -/
def Slot.place (x : Slot) : Mask × Word64 × Word64 := (x.mask, x.pc, x.join)

theorem place_setSlot {g : Group} {k : Nat} {x : Slot} (h : x.place = (g.slot k).place) (j : Nat) :
    ((g.setSlot k x).slot j).place = (g.slot j).place := by
  unfold Group.slot at h ⊢
  unfold Group.setSlot
  by_cases hk : k = 0 <;> by_cases hj : j = 0 <;> simp_all

theorem place_applyYield (g : Group) (cycle j : Nat) : ((g.applyYield cycle).slot j).place = (g.slot j).place := by
  have stamp (x : Slot) : (if x.live then { x with stamp := cycle } else x).place = x.place := by split <;> rfl
  unfold Group.applyYield
  dsimp only
  split
  · rfl
  · unfold Group.slot
    split
    · exact stamp g.slot0
    · exact stamp g.slot1

theorem place_goesOn (g : Group) (k : Nat) (r : Running) (cycle num j : Nat) :
    ((g.goesOn k r cycle num).slot j).place = (g.slot j).place := by
  refine (place_setSlot ?_ j).trans (congrArg Slot.place ((modHalf_slot ..).trans (retire_slot ..)))
  rfl

/-- A clause that ends leaves every slot where it is, but for the PC that goes on. -/
theorem place_clauseFreed (g : Group) (k : Nat) (r : Running) (cycle : Nat) (counted : Bool) (j : Nat) :
    ((g.clauseFreed k r cycle counted).slot j).place = (g.slot j).place := by
  have freed : ((g.setSlot k { g.slot k with running := none, eligFrom := cycle + 1 }).slot j).place = (g.slot j).place := by
    refine place_setSlot ?_ j
    rfl
  have yield (g : Group) : ((if clauseHasYield r then g.applyYield cycle else g).slot j).place = (g.slot j).place := by
    split
    · exact place_applyYield g cycle j
    · rfl
  have count (g : Group) : (if counted then g.endCount r.clauseId else g).slot j = g.slot j := by split <;> rfl
  exact (congrArg Slot.place (count _)).trans ((yield _).trans freed)

/-- The group of an instruction that issues and says itself where its slot goes on: its slots stay where they are. -/
theorem group?_advanceWith_stays {s : State} {g : Group} {r : Running} (hg : s.group? s.cur.gid = some g)
    (hr : (g.slot s.cur.slot).running = some r) (hp : r.replay = false) (counted : Bool) :
    ∃ h, (s.advanceWith false counted).group? s.cur.gid = some h ∧ h.still = g.still ∧
      ∀ j, (h.slot j).place = (g.slot j).place := by
  rw [advanceWith_eq hg hr hp]
  dsimp only
  split
  · exact ⟨_, group?_setGroup_same .., still_goesOn .., place_goesOn g s.cur.slot r s.cycle (s.nextId - 1)⟩
  · exact ⟨_, group?_setGroup_same .., (still_clauseEnded ..).trans (still_goesOn ..),
      fun j => (place_clauseFreed _ _ _ _ counted j).trans (place_goesOn ..)⟩

/-! ### YIELD (R113) -/

theorem yieldAt_setSlot (g : Group) (k : Nat) (x : Slot) : (g.setSlot k x).yieldAt = g.yieldAt := by
  unfold Group.setSlot
  split <;> rfl

theorem yieldAt_modHalf (g : Group) (k : Nat) (f : Half → Half) : (g.modHalf k f).yieldAt = g.yieldAt := by
  unfold Group.modHalf
  split <;> rfl

/-- In user mode a group whose clause holds a YIELD goes behind the yield bar as that clause ends. -/
theorem yieldAt_clauseEnded {g : Group} {r : Running} (hyield : clauseHasYield r = true) (huser : g.supervisor = false)
    (k cycle : Nat) (next counted : Bool) : (g.clauseEnded k r cycle next counted).yieldAt = some cycle := by
  have bar (g : Group) (h : g.supervisor = false) : (g.applyYield cycle).yieldAt = some cycle := by
    unfold Group.applyYield
    rw [if_neg (by simp [h])]
  have count (g : Group) : (if counted then g.endCount r.clauseId else g).yieldAt = g.yieldAt := by split <;> rfl
  have freed : (g.clauseFreed k r cycle counted).yieldAt = some cycle := by
    unfold Group.clauseFreed
    dsimp only
    rw [if_pos hyield, count, bar]
    exact (congrArg Group.supervisor (setSlot_still g k _) :).trans huser
  unfold Group.clauseEnded
  dsimp only
  split
  · exact (setPc_keeps yieldAt_setSlot yieldAt_modHalf ..).trans freed
  · exact freed

theorem yield_raisesBar {s : State} {g : Group} {r : Running} (h : s.issues .yield g r) (hyield : clauseHasYield r = true)
    (hp : r.replay = false) (hlast : r.idx + 1 = r.count) (huser : g.supervisor = false) :
    ∃ x, s.advance.group? s.cur.gid = some x ∧ x.yieldAt = some s.cycle := by
  obtain ⟨hg, hr, -⟩ := h
  have huser' : (g.goesOn s.cur.slot r s.cycle (s.nextId - 1)).supervisor = false :=
    (congrArg Group.supervisor (still_goesOn g s.cur.slot r s.cycle (s.nextId - 1)) :).trans huser
  have hended : s.issuedIn g r = (g.goesOn s.cur.slot r s.cycle (s.nextId - 1)).clauseEnded s.cur.slot (r.next s.cycle) s.cycle
      true true := if_neg (by omega)
  exact ⟨_, group?_advance hg hr hp, hended ▸ yieldAt_clauseEnded (r := r.next s.cycle) hyield huser' ..⟩

/-! ### EXIT (R125) -/

theorem place_setPc {g : Group} {k : Nat} {pc : Word64} (h : pc ≠ (g.slot k).join) :
    ((g.setPc k pc).slot k).place = ((g.slot k).mask, pc, (g.slot k).join) := by
  unfold Group.setPc
  dsimp only
  rw [if_neg (by simp [h]), if_neg h, Group.slot_setSlot_same]
  rfl

/-- The lanes e of slot k end, as x tells; those that are left go on at pc. -/
def Group.exitLanes (g : Group) (k : Nat) (e : Mask) (pc : Word64) (x : LastExit) : Group :=
  let g' : Group := { g with xmask := g.xmask ||| e, lastExit := some x }
  if (g.slot k).mask &&& ~~~e = 0 then g'.clearSlot k
  else (g'.setSlot k { g'.slot k with mask := (g.slot k).mask &&& ~~~e }).setPc k pc

section
variable (g : Group) (k : Nat) (e : Mask) (pc : Word64) (x : LastExit)

theorem exitLanes_still : (g.exitLanes k e pc x).still = { g.still with xmask := g.xmask ||| e, lastExit := some x } := by
  unfold Group.exitLanes Group.clearSlot
  dsimp only
  split
  · exact setSlot_still ..
  · exact (setPc_still ..).trans (setSlot_still ..)

/-- The other slot keeps its lanes, its PC and its join. -/
theorem exitLanes_slot_other : ((g.exitLanes k e pc x).slot (1 - k)).place = (g.slot (1 - k)).place := by
  have other (g : Group) (y : Slot) : (g.setSlot k y).slot (1 - k) = g.slot (1 - k) := g.slot_setSlot_other y (by omega)
  have setPc (g : Group) : ((g.setPc k pc).slot (1 - k)) = g.slot (1 - k) := by
    unfold Group.setPc Group.clearSlot
    dsimp only
    split
    · exact other g _
    · split
      · exact (modHalf_slot ..).trans (other g _)
      · exact other g _
  refine congrArg Slot.place ?_
  unfold Group.exitLanes Group.clearSlot
  dsimp only
  split
  · exact other _ _
  · exact (setPc _).trans (other _ _)

theorem exitLanes_mask_of_none_left (h : (g.slot k).mask &&& ~~~e = 0) : ((g.exitLanes k e pc x).slot k).mask = 0 := by
  unfold Group.exitLanes Group.clearSlot
  dsimp only
  rw [if_pos h, Group.slot_setSlot_same]
  rfl

theorem exitLanes_place_of_left (h : (g.slot k).mask &&& ~~~e ≠ 0) (hjoin : pc ≠ (g.slot k).join) :
    ((g.exitLanes k e pc x).slot k).place = ((g.slot k).mask &&& ~~~e, pc, (g.slot k).join) := by
  unfold Group.exitLanes
  dsimp only
  rw [if_neg h, place_setPc (by rw [Group.slot_setSlot_same]; exact hjoin), Group.slot_setSlot_same]
  rfl

end

/-- Once all lanes of a group have exited, its team's barriers no longer wait for it (R252). -/
def State.exitBarriers (s : State) (gid : Nat) : State :=
  match s.group? gid with
  | none => s
  | some g => if g.exited then (List.range 16).foldl (fun s tb => s.tbarDecide g.team tb g.lclk) s else s

theorem exec_exit {s : State} {g : Group} {r : Running} {b : BFields} (h : s.issues (.exit b) g r) :
    let k := s.cur.slot
    let e := g.exec s.cur.mask b.neg b.pred
    exec (.exit b) s = .next (((s.advanceWith false true).modGroup s.cur.gid (fun x => x.exitLanes k e (s.cur.addr + 8)
      ⟨k, s.cur.clauseAt, s.cur.idx, e, (g.slot k).fmt, (g.slot k).join⟩)).exitBarriers s.cur.gid) :=
  congrArg Host.Outcome.next (guarded_of_issues h _)

theorem tbarDecide_access (s : State) (team tb : Nat) (clock : BitVec 48) : (s.tbarDecide team tb clock).access = s.access := by
  unfold State.tbarDecide
  split
  · rfl
  · dsimp only
    split <;> rfl

/-- The barriers of a team are apart from groups, memory and caches. -/
theorem exitBarriers_keeps {α : Type} {P : State → α} (h : ∀ s team tb clock, P (State.tbarDecide s team tb clock) = P s)
    (s : State) (gid : Nat) : P (s.exitBarriers gid) = P s := by
  have decided (g : Group) (l : List Nat) (s : State) : P (l.foldl (fun s tb => s.tbarDecide g.team tb g.lclk) s) = P s := by
    induction l generalizing s with
    | nil => rfl
    | cons tb l ih => exact (ih _).trans (h ..)
  unfold State.exitBarriers
  split
  · rfl
  · split
    · exact decided _ _ s
    · rfl

theorem exit_effect (s : State) (g : Group) (r : Running) (b : BFields) (hissues : s.issues (.exit b) g r) (hp : r.replay = false) :
    let k := s.cur.slot
    let e := g.exec s.cur.mask b.neg b.pred
    let left := (g.slot k).mask &&& ~~~e
    ∃ t h, exec (.exit b) s = .next t ∧ t.group? s.cur.gid = some h ∧ h.xmask = g.xmask ||| e ∧
      (left = 0 → (h.slot k).mask = 0) ∧
      (left ≠ 0 → s.cur.addr + 8 ≠ (g.slot k).join →
        (h.slot k).mask = left ∧ (h.slot k).pc = s.cur.addr + 8 ∧ (h.slot k).join = (g.slot k).join) ∧
      (h.slot (1 - k)).mask = (g.slot (1 - k)).mask ∧ (h.slot (1 - k)).pc = (g.slot (1 - k)).pc ∧
      h.vregs = g.vregs ∧ h.sregs = g.sregs ∧ h.preds = g.preds ∧ h.mode = g.mode ∧ h.spill = g.spill ∧
      t.mem = s.mem ∧ t.cache = s.cache := by
  intro k e left
  obtain ⟨hg, hr, -⟩ := id hissues
  obtain ⟨h₀, hh₀, hstill₀, hplace₀⟩ := group?_advanceWith_stays hg hr hp true
  have hslot := hplace₀ k
  simp only [Slot.place, Prod.mk.injEq] at hslot
  obtain ⟨hmask, -, hjoin⟩ := hslot
  let x : LastExit := ⟨k, s.cur.clauseAt, s.cur.idx, e, (g.slot k).fmt, (g.slot k).join⟩
  let h := h₀.exitLanes k e (s.cur.addr + 8) x
  have hstill : h.still = { g.still with xmask := g.xmask ||| e, lastExit := some x } :=
    (exitLanes_still ..).trans (congrArg (fun y : Group => { y with xmask := y.xmask ||| e, lastExit := some x }) hstill₀)
  have hother := (exitLanes_slot_other h₀ k e (s.cur.addr + 8) x).trans (hplace₀ (1 - k))
  simp only [Slot.place, Prod.mk.injEq] at hother
  obtain ⟨homask, hopc, -⟩ := hother
  let u := (s.advanceWith false true).modGroup s.cur.gid (fun y => y.exitLanes k e (s.cur.addr + 8) x)
  refine ⟨u.exitBarriers s.cur.gid, h, exec_exit hissues, ?_, (congrArg Group.xmask hstill :), fun hnone => ?_, fun hleft hpc => ?_,
    homask, hopc, (congrArg Group.vregs hstill :), (congrArg Group.sregs hstill :), (congrArg Group.preds hstill :),
    (congrArg Group.mode hstill :), (congrArg Group.spill hstill :), ?_, ?_⟩
  · have hbarriers : (u.exitBarriers s.cur.gid).group? s.cur.gid = u.group? s.cur.gid :=
      exitBarriers_keeps (P := fun v => v.group? s.cur.gid) (fun v team tb clock => group?_tbarDecide v team tb clock _) u _
    exact hbarriers.trans (group?_modGroup_same hh₀ _)
  · exact exitLanes_mask_of_none_left h₀ k e _ x (hmask.symm ▸ hnone)
  · have hplace := exitLanes_place_of_left h₀ k e (s.cur.addr + 8) x (hmask.symm ▸ hleft) (hjoin.symm ▸ hpc)
    simpa only [Slot.place, hmask, hjoin, Prod.mk.injEq] using hplace
  · exact (exitBarriers_keeps State.tbarDecide_mem u _).trans ((State.modGroup_mem ..).trans (State.advanceWith_mem ..))
  · have haccess : (u.exitBarriers s.cur.gid).access = s.access :=
      (exitBarriers_keeps tbarDecide_access u _).trans ((modGroup_access ..).trans (advanceWith_access s false true))
    exact congrArg (fun a => a.2.2.2.2.2.2.2.2.2.1) haccess

/-- Settles O16: LPAD and YIELD advance; a clause's end raises the yield bar; EXIT is `Group.exitLanes`. -/
theorem lpadYieldAndExit : Obligations.LpadYieldAndExit :=
  ⟨fun _ _ _ => ⟨fun _ h => congrArg Host.Outcome.next (guarded_of_issues h _),
    fun h => ⟨congrArg Host.Outcome.next (guarded_of_issues h _), yield_raisesBar h⟩⟩, exit_effect⟩

end Sys2Proof.Machine
end

section
/-!
PROOFS. O41, the steps of the field engine (R280 to R283, R285). Refuted: the clause on the amounts of a completed TXF takes
every register number, and all numbers from 2048 on have one line (`imageLine`).
-/
namespace Sys2Proof.Machine

/-- A decided wide TXF of limit mode, with the amount 1 of lane 0 to write to v2048 and v2049. -/
def txfBeyondNumbers : Op :=
  { slot := 0, flag := none, counts := 0, wordAt := 0, half := false,
    kind := .txf { wordAt := 0, fld := 0, amtReg := 2048, form11 := false, wide := true, open_ := [], writes := [(0, 1)],
                   refused := [] } }

/-- A group whose one operation it is. -/
def groupBeyondNumbers : Group := { team := 0, g := 0, gridKey := 0, ctx := 0, ops := [(0, txfBeyondNumbers)] }

/-- The machine with that group. -/
def amountBeyondNumbers : State := { State.reset with groups := [(0, groupBeyondNumbers)] }

/-- Lane 0 of v2048 in the group that a step leaves. -/
def laneAfter (o : Host.Outcome State Fault Refusal) : Option Word32 :=
  match o with
  | .next t => (t.group? 0).map (fun g => lane (g.vreg 2048) 0)
  | _ => none

/-- The high half of the amount, 0, comes to stand where its low half, 1, was written. -/
theorem laneAfter_amountBeyondNumbers : laneAfter (exec (.txfComplete 0 0) amountBeyondNumbers) = some 0 := by
  decide +kernel

/-- Refutes O41 in the clause on the amounts that a completed TXF writes, for a wide amount to v2048 and v2049: the model reads
both in one line, which cannot hold the two halves of the amount 1. (No instruction names such a register: AMT has 11 bits.) -/
theorem not_fieldEngineSteps : ¬ Obligations.FieldEngineSteps := by
  unfold Obligations.FieldEngineSteps
  rintro ⟨-, -, txfComplete, -⟩
  obtain ⟨t, h, answers, hgroup, -, -, -, amounts, -⟩ :=
    txfComplete amountBeyondNumbers 0 0 groupBeyondNumbers txfBeyondNumbers _ rfl rfl rfl rfl rfl (by decide)
  obtain ⟨-, registers⟩ := (amounts 0 1 rfl (by decide) rfl).2 rfl (by decide) (fun _ => rfl)
  have low : lane (h.vreg 2048) 0 = 1 := registers 0 (by decide) 0 (by decide)
  have left := laneAfter_amountBeyondNumbers
  rw [answers] at left
  have high : lane (h.vreg 2048) 0 = 0 := by simpa [laneAfter, hgroup] using left
  exact absurd (low.symm.trans high) (by decide)

end Sys2Proof.Machine
end

section
/-!
PROOFS. O29, the value that an atomic leaves (R238, R239).
-/
namespace Sys2Proof.Machine

theorem sgn_of_lt {W x : Nat} (hW : 0 < W) (hx : x < 2 ^ W) : sgn W x = if x < 2 ^ (W - 1) then (x : Int) else (x : Int) - 2 ^ W := by
  have hhalf : 2 ^ W = 2 * 2 ^ (W - 1) := by rw [← Nat.pow_succ']; congr 1; omega
  have hsign : 2 * x < 2 ^ W ↔ x < 2 ^ (W - 1) := by omega
  simp only [sgn, Nat.mod_eq_of_lt hx, hsign, Nat.cast_pow, Nat.cast_ofNat]

/-- MIN and MAX leave the lesser and the greater of two signed values. -/
theorem sgn_atomicFn_min_max (W old d : Nat) :
    sgn W (atomicFn .min W old d) = min (sgn W old) (sgn W d) ∧ sgn W (atomicFn .max W old d) = max (sgn W old) (sgn W d) := by
  simp only [atomicFn, apply_ite (sgn W)]
  exact ⟨(min_def ..).symm, by rw [max_comm, max_def]⟩

/-- An operand of W bits comes out of MIN and MAX with W bits. -/
theorem atomicFn_min_max_lt {W old d : Nat} (hold : old < 2 ^ W) (hd : d < 2 ^ W) :
    atomicFn .min W old d < 2 ^ W ∧ atomicFn .max W old d < 2 ^ W := by
  dsimp only [atomicFn]
  constructor
  · split <;> assumption
  · split <;> assumption

theorem atomic_values (W old : Nat) (a : AtomicLane) (hW : W = 32 ∨ W = 64 ∨ W = 128) (hold : old < 2 ^ W)
    (hval : a.val.toNat < 2 ^ W) :
    let d := a.val.toNat
    let f (op : AtomicOp) : Nat := atomicFn op W old d
    (∀ op, atomicNew (.rmw op) W old a = some (f op)) ∧
    f .add = (old + d) % 2 ^ W ∧
    (∀ i, (f .and).testBit i = (old.testBit i && d.testBit i)) ∧
    (∀ i, (f .or).testBit i = (old.testBit i || d.testBit i)) ∧
    (∀ i, (f .xor).testBit i = (old.testBit i ^^ d.testBit i)) ∧
    (let sg (x : Nat) : Int := if x < 2 ^ (W - 1) then x else (x : Int) - 2 ^ W
     sg (f .min) = min (sg old) (sg d) ∧ sg (f .max) = max (sg old) (sg d)) ∧
    f .swap = d ∧
    atomicNew .cas W old a = (if old = a.cmp.toNat then some d else none) := by
  intro d f
  refine ⟨fun _ => rfl, rfl, fun i => Nat.testBit_and old d i, fun i => Nat.testBit_or old d i, fun i => Nat.testBit_xor old d i,
    ?_, rfl, rfl⟩
  have hpos : 0 < W := by omega
  obtain ⟨hmin, hmax⟩ := atomicFn_min_max_lt hold hval
  have hsigned := sgn_atomicFn_min_max W old d
  rwa [sgn_of_lt hpos hmin, sgn_of_lt hpos hmax, sgn_of_lt hpos hold, sgn_of_lt hpos hval] at hsigned

end Sys2Proof.Machine
end

section
/-!
PROOFS. O29, an operation that may be performed: the step finds it, what a datum changes in its group, and its end (R112, R231,
R235).
-/
namespace Sys2Proof.Machine

/-! ### The step finds the operation -/

section
variable {s : State} {gid n : Nat} {g : Group} {o : Op}

/-- The operation that a step of the memory engine looks up, with its group. -/
theorem operation_eq (hg : s.group? gid = some g) (ho : dget g.ops n = some o) :
    (s.group? gid).bind (fun g => (dget g.ops n).map (fun o => (g, o))) = some (g, o) := by
  rw [hg, Option.bind_some, ho, Option.map_some]

theorem canAct_of_canPerform (s : State) (gid : Nat) (hperf : g.canPerform n o = true) (hdet : g.det = false) :
    s.canAct gid g n o = true := by
  simp [State.canAct, State.detTurn, hperf, hdet]

/-- An operation that may be performed needs no Meridian position, or has reached it (R371). -/
theorem mer_of_canPerform (hperf : g.canPerform n o = true) : o.mer = 0 ∨ o.mer = 3 := by
  simp only [Group.canPerform, Bool.and_eq_true, Bool.or_eq_true, beq_iff_eq] at hperf
  exact hperf.1.2

/-! ### The end of an operation (R235) -/

theorem flag_completeOp (ho : dget g.ops n = some o) {f : Nat} (hf : o.flag = some f) :
    (g.completeOp n).flag f = g.flag f - o.counts := by
  unfold Group.completeOp
  rw [ho]
  dsimp only
  rw [hf]
  exact tget_tset_same 0 g.flags f _

/-- An access that is no acquire ends as any operation does. -/
theorem finishAccess_eq (s : State) (gid n : Nat) {order : Order} (scope : Scope) (hacq : order ≠ .acq)
    (hacqRel : order ≠ .acqRel) : s.finishAccess gid n order scope = s.completeOp gid n := by
  unfold State.finishAccess
  split
  next hnone =>
    have hget : dget s.groups gid = none := hnone
    rw [State.completeOp, State.modGroup, hget]
  · rw [if_neg (by simp [hacq, hacqRel])]

/-! ### What a datum changes in its group (R231) -/

/-- The operations, predicates and flags of a group: what no datum touches. -/
def Group.besideData (g : Group) : Dict Op × Tab Mask × Tab Nat := (g.ops, g.preds, g.flags)

theorem shadow_besideData (g : Group) (k r : Nat) : (g.shadow k r).besideData = g.besideData := by
  unfold Group.shadow Group.setSlot
  dsimp only
  repeat' split
  all_goals rfl

theorem putSca_besideData (g : Group) (sup : Bool) (r : Nat) (x : Word64) (at_ start : Nat) :
    (g.putSca sup r x at_ start).besideData = g.besideData := by
  unfold Group.putSca Group.setSregAs
  dsimp only
  repeat' split
  all_goals rfl

theorem putReg_besideData (g : Group) (o : Op) (u : RegUpd) : (g.putReg o u).besideData = g.besideData := by
  cases u with
  | vec r lanes line =>
    show ((if o.half then g.shadow o.slot r else g).setVreg r lanes line).besideData = _
    split
    · exact shadow_besideData g o.slot r
    · rfl
  | sca r x => exact putSca_besideData ..
  | pred r lanes bits => rfl

theorem putData_besideData (g : Group) (o : Op) (f11 : Bool) (b data i x : Nat) :
    (g.putData o f11 b data i x).besideData = g.besideData := by
  have put (us : List RegUpd) (g : Group) : (us.foldl (fun (g : Group) u => g.putReg o u) g).besideData = g.besideData := by
    induction us generalizing g with
    | nil => rfl
    | cons u us ih => exact (ih _).trans (putReg_besideData g o u)
  exact put _ g

end

/-! ### What an access leaves of the groups, and its notes -/

theorem readByte_beyond (s : State) (core level : Nat) (l : Loc) : (s.readByte core level l).1.beyond = s.beyond := by
  cases l with
  | phys pa => exact readPhys_beyond s core level pa
  | stash t c f => rfl

theorem loadBytes_beyond (g : Group) (m : Nat) (o : Op) (level i n : Nat) : ∀ (s : State) (l : Loc),
    (s.loadBytes g m o level i n l).1.beyond = s.beyond := by
  induction n with
  | zero => intro s l; rfl
  | succ n ih => intro s l; exact (ih _ _).trans (readByte_beyond s g.core level l)

theorem readBytes_beyond (core level n : Nat) : ∀ (s : State) (l : Loc), (s.readBytes core level n l).1.beyond = s.beyond := by
  induction n with
  | zero => intro s l; rfl
  | succ n ih => intro s l; exact (ih _ _).trans (readByte_beyond s core level l)

theorem freshenLoc_beyond (s : State) (core level n : Nat) (l : Loc) : (s.freshenLoc core level n l).beyond = s.beyond := by
  cases l with
  | phys pa =>
    unfold State.freshenLoc State.freshen
    dsimp only
    repeat' split
    all_goals rfl
  | stash t c f => rfl

theorem readLoc_beyond (s : State) (core level n : Nat) (l : Loc) : (s.readLoc core level n l).1.beyond = s.beyond :=
  (readBytes_beyond ..).trans (freshenLoc_beyond ..)

theorem writeLoc_groups (core level : Nat) (bytes : List Byte) : ∀ (s : State) (l : Loc),
    (s.writeLoc core level bytes l).groups = s.groups := by
  induction bytes with
  | nil => intro s l; rfl
  | cons b bytes ih =>
    intro s l
    refine (ih _ _).trans ?_
    cases l with
    | phys pa => exact groups_of_beyond (writePhys_beyond s core level pa b)
    | stash t c f => exact modTeam_groups ..

theorem group?_of_groups {s t : State} (h : t.groups = s.groups) (gid : Nat) : t.group? gid = s.group? gid := by
  rw [State.group?, State.group?, h]

theorem markLine_group? (s : State) (core : Nat) (order : Order) (l : Loc) (gid : Nat) :
    (s.markLine core order l).group? gid = s.group? gid := by
  cases l with
  | phys pa => exact group?_of_beyond (markLine_beyond s core order pa) gid
  | stash t c f => rfl

theorem markAt_access (s : State) (order : Order) (site pa : Nat) : (s.markAt order site pa).access = s.access := by
  unfold State.markAt
  split
  · rfl
  · split <;> rfl

/-- A mark on a line is no note of an access. -/
theorem markLine_access (s : State) (core : Nat) (order : Order) (l : Loc) : (s.markLine core order l).access = s.access := by
  cases l with
  | stash t c f => rfl
  | phys pa =>
    show (if s.uncached pa then s else (s.markAt order core pa).markL2 core order pa).access = s.access
    unfold State.markL2
    split
    · rfl
    · split
      · exact (markAt_access ..).trans (markAt_access ..)
      · exact markAt_access ..

theorem completeOp_access (s : State) (gid n : Nat) : (s.completeOp gid n).access = s.access := modGroup_access ..

end Sys2Proof.Machine
end

section
/-!
PROOFS. O29, loads: VARIABLE_RESULT_ARRIVAL for one lane, and for one register of a wide load (R54, R112, R231).
-/
namespace Sys2Proof.Machine

/-! ### The end of a load -/

/-- A load of which no lane is left ends where no register waits. -/
theorem endLoad_eq {t : State} {gid n b data : Nat} {h : Group} {q : Op} {order order' : Order} {scope scope' : Scope} {f11 : Bool}
    {accs : List LaneAcc} (hh : t.group? gid = some h) (hq : dget h.ops n = some q)
    (hkind : q.kind = .load order' scope' b data f11 accs []) (hacq : order ≠ .acq) (hacqRel : order ≠ .acqRel) :
    t.endLoad gid n order scope = if q.data = [] then t.completeOp gid n else t := by
  unfold State.endLoad
  rw [hh, Option.bind_some, hq]
  simp only [hkind, List.isEmpty_iff, finishAccess_eq t gid n scope hacq hacqRel]

theorem endLoad_keeps {α : Type} {P : State → α} (hP : ∀ t gid n, P (State.completeOp t gid n) = P t) (t : State) (gid n : Nat)
    {order : Order} (scope : Scope) (hacq : order ≠ .acq) (hacqRel : order ≠ .acqRel) : P (t.endLoad gid n order scope) = P t := by
  unfold State.endLoad
  split
  · split
    · split
      · rw [finishAccess_eq t gid n scope hacq hacqRel, hP]
      · rfl
    · rfl
  · rfl

section
variable {s : State} {gid n : Nat} {g : Group} {o : Op} {order : Order} {scope : Scope} {b data : Nat} {f11 : Bool} {a : LaneAcc}

/-- Load n, of one lane, with its lane performed. -/
def Group.laneGone (g : Group) (n : Nat) (o : Op) (order : Order) (scope : Scope) (b data : Nat) (f11 : Bool) (a : LaneAcc) : Group :=
  { g with ops := dput g.ops n { o with kind := .load order scope b data f11 [a] [] } }

/-- The state that a read of the lane leaves, and the bytes that it finds. -/
def State.laneRead (s : State) (gid n : Nat) (g : Group) (o : Op) (order : Order) (scope : Scope) (b data : Nat) (f11 : Bool)
    (a : LaneAcc) : State × List Byte :=
  let g0 := g.laneGone n o order scope b data f11 a
  ((s.setGroup gid g0).freshenLoc g.core (levelOf order scope) b a.loc).loadBytes g0 n o (levelOf order scope) a.lane b a.loc

/-- The state in which the lane's data have reached the group. -/
def State.laneArrived (s : State) (gid n : Nat) (g : Group) (o : Op) (order : Order) (scope : Scope) (b data : Nat) (f11 : Bool)
    (a : LaneAcc) : State :=
  let x := s.laneRead gid n g o order scope b data f11 a
  (x.1.markLine g.core order a.loc).modGroup gid (fun g => g.takeData n o f11 b data a.lane (ofBytes x.2))

theorem laneRead_group? : (s.laneRead gid n g o order scope b data f11 a).1.group? gid =
    some (g.laneGone n o order scope b data f11 a) :=
  (group?_of_beyond ((loadBytes_beyond ..).trans (freshenLoc_beyond ..)) gid).trans (group?_setGroup_same ..)

theorem laneArrived_access : (s.laneArrived gid n g o order scope b data f11 a).access =
    (s.laneRead gid n g o order scope b data f11 a).1.access :=
  (modGroup_access ..).trans (markLine_access ..)

theorem laneArrived_mem : (s.laneArrived gid n g o order scope b data f11 a).mem =
    (s.laneRead gid n g o order scope b data f11 a).1.mem :=
  (State.modGroup_mem ..).trans (State.markLine_mem ..)

theorem laneArrived_group? : (s.laneArrived gid n g o order scope b data f11 a).group? gid =
    some ((g.laneGone n o order scope b data f11 a).takeData n o f11 b data a.lane
      (ofBytes (s.laneRead gid n g o order scope b data f11 a).2)) :=
  group?_modGroup_same ((markLine_group? ..).trans laneRead_group?) _

/-- The data of load n that are still to be written once those of the lane have come (R54). -/
def Op.unwritten (o : Op) (f11 : Bool) (b data i x : Nat) : List RegUpd :=
  if b < 16 then o.data else o.data ++ dataUpds f11 b data i x

theorem takeData_op (x : Nat) :
    dget ((g.laneGone n o order scope b data f11 a).takeData n o f11 b data a.lane x).ops n =
      some { o with kind := .load order scope b data f11 [a] []
                    data := o.unwritten f11 b data a.lane x } := by
  have hput : dget (g.laneGone n o order scope b data f11 a).ops n = some { o with kind := .load order scope b data f11 [a] [] } :=
    dget_dput_same ..
  unfold Group.takeData Op.unwritten
  split
  · exact (congrArg (fun d => dget d.1 n) (putData_besideData ..) :).trans hput
  · rw [hput]
    exact dget_dput_same ..

theorem takeData_of_narrow (hb : b < 16) (m i x : Nat) : g.takeData m o f11 b data i x = g.putData o f11 b data i x := if_pos hb

/-- The data of a wide load reach no register as they come. -/
theorem takeData_of_wide (hb : 16 ≤ b) (m i x : Nat) :
    (g.takeData m o f11 b data i x).vregs = g.vregs ∧ (g.takeData m o f11 b data i x).sregs = g.sregs := by
  unfold Group.takeData
  rw [if_neg (by omega)]
  split <;> exact ⟨rfl, rfl⟩

theorem takeData_preds (m i x : Nat) : (g.takeData m o f11 b data i x).preds = g.preds := by
  unfold Group.takeData
  split
  · exact congrArg (fun d => d.2.1) (putData_besideData ..)
  · split <;> rfl

/-- The group once the lane's data have come: its load ends where none of them waits to be written (R54). -/
theorem laneEnded_group? (hacq : order ≠ .acq) (hacqRel : order ≠ .acqRel) :
    let bytes := (s.laneRead gid n g o order scope b data f11 a).2
    let h := (g.laneGone n o order scope b data f11 a).takeData n o f11 b data a.lane (ofBytes bytes)
    ((s.laneArrived gid n g o order scope b data f11 a).endLoad gid n order scope).group? gid =
      some (if o.unwritten f11 b data a.lane (ofBytes bytes) = [] then h.completeOp n else h) := by
  intro bytes h
  rw [endLoad_eq laneArrived_group? (takeData_op (ofBytes bytes)) rfl hacq hacqRel]
  split
  · exact group?_modGroup_same laneArrived_group? _
  · exact laneArrived_group?

variable (hg : s.group? gid = some g) (ho : dget g.ops n = some o) (hperf : g.canPerform n o = true) (hdet : g.det = false)
include hg ho hperf hdet

/-- The arrival of a load's only lane. -/
theorem exec_arrival_lane (hkind : o.kind = .load order scope b data f11 [a] [a.lane])
    (hlost : s.lostNode g.core (levelOf order scope) a.loc = none) : exec (.variableResultArrival gid n a.lane) s =
      finish s ((s.laneArrived gid n g o order scope b data f11 a).endLoad gid n order scope) := by
  have hsome : s.loadSome gid n o (fun y => Loc.frame y.loc == Loc.frame a.loc) =
      ((s.setGroup gid (g.laneGone n o order scope b data f11 a)).loadLane gid n o order scope b data f11 a).endLoad
        gid n order scope := by
    unfold State.loadSome
    simp only [hkind, modGroup_eq hg]
    simp [Group.laneGone]
  have hlane : (s.setGroup gid (g.laneGone n o order scope b data f11 a)).loadLane gid n o order scope b data f11 a =
      s.laneArrived gid n g o order scope b data f11 a := by
    have hlost' : (s.setGroup gid (g.laneGone n o order scope b data f11 a)).lostNode
        (g.laneGone n o order scope b data f11 a).core (levelOf order scope) a.loc = none := hlost
    have hdet' : (g.laneGone n o order scope b data f11 a).det = false := hdet
    unfold State.loadLane State.laneArrived State.laneRead
    simp only [group?_setGroup_same, hlost', hdet', Bool.false_and, Bool.false_eq_true, if_false]
    cases a.loc <;> rfl
  show finish s (s.arrive gid n a.lane) = _
  unfold State.arrive
  simp only [operation_eq hg ho, canAct_of_canPerform s gid hperf hdet, hkind]
  simp [hsome, hlane]

theorem arrival_lane (hkind : o.kind = .load order scope b data f11 [a] [a.lane]) (hacq : order ≠ .acq) (hacqRel : order ≠ .acqRel)
    (hlost : s.lostNode g.core (levelOf order scope) a.loc = none) :
    let x := s.laneRead gid n g o order scope b data f11 a
    x.1.settled → ∃ t : State, exec (.variableResultArrival gid n a.lane) s = .next t.settleNode ∧ t.mem = x.1.mem ∧
      ∀ g1, x.1.group? gid = some g1 → ∃ h : Group, t.group? gid = some h ∧ h.preds = g1.preds ∧
        (b < 16 → o.data = [] → dget h.ops n = none ∧
          h.vregs = (g1.putData o f11 b data a.lane (ofBytes x.2)).vregs ∧
          h.sregs = (g1.putData o f11 b data a.lane (ofBytes x.2)).sregs ∧
          ∀ f, o.flag = some f → h.flag f = g1.flag f - o.counts) ∧
        (16 ≤ b → 0 < (dataUpds f11 b data a.lane (ofBytes x.2)).length →
          ∀ p, dget g1.ops n = some p → h.vregs = g1.vregs ∧ h.sregs = g1.sregs ∧
          ∃ q : Op, dget h.ops n = some q ∧ q.data = p.data ++ dataUpds f11 b data a.lane (ofBytes x.2) ∧
            q.kind = .load order scope b data f11 [a] []) := by
  intro x hsettled
  let t := (s.laneArrived gid n g o order scope b data f11 a).endLoad gid n order scope
  have haccess : t.access = x.1.access := (endLoad_keeps completeOp_access _ gid n scope hacq hacqRel).trans laneArrived_access
  have hmem : t.mem = x.1.mem := (endLoad_keeps State.completeOp_mem _ gid n scope hacq hacqRel).trans laneArrived_mem
  refine ⟨t, ?_, hmem, fun g1 hg1 => ?_⟩
  · rw [exec_arrival_lane hg ho hperf hdet hkind hlost, finish_of_settled (settled_of_access haccess hsettled)]
  obtain rfl : g.laneGone n o order scope b data f11 a = g1 := Option.some.inj (laneRead_group?.symm.trans hg1)
  let h := (g.laneGone n o order scope b data f11 a).takeData n o f11 b data a.lane (ofBytes x.2)
  refine ⟨_, laneEnded_group? hacq hacqRel, ?_, fun hb hdata => ?_, fun hb hupds p hp => ?_⟩
  · have hpreds : h.preds = (g.laneGone n o order scope b data f11 a).preds := takeData_preds ..
    split
    · exact (congrArg Registers.preds (registers_completeOp h n) :).trans hpreds
    · exact hpreds
  · have hput : h = (g.laneGone n o order scope b data f11 a).putData o f11 b data a.lane (ofBytes x.2) := takeData_of_narrow hb ..
    have hflags : h.flags = (g.laneGone n o order scope b data f11 a).flags :=
      hput ▸ congrArg (fun d => d.2.2) (putData_besideData ..)
    have hdone : o.unwritten f11 b data a.lane (ofBytes x.2) = [] := (if_pos hb).trans hdata
    rw [if_pos hdone, ← hput]
    refine ⟨dget_completeOp_same h n, (congrArg Registers.vregs (registers_completeOp h n) :),
      (congrArg Registers.sregs (registers_completeOp h n) :), fun f hf => ?_⟩
    rw [flag_completeOp (takeData_op _) hf]
    exact congrArg (fun fl => tget 0 fl f - o.counts) hflags
  · obtain rfl : { o with kind := .load order scope b data f11 [a] [] } = p := Option.some.inj ((dget_dput_same ..).symm.trans hp)
    have hdata : o.unwritten f11 b data a.lane (ofBytes x.2) = o.data ++ dataUpds f11 b data a.lane (ofBytes x.2) :=
      if_neg (by omega)
    obtain ⟨hvregs, hsregs⟩ : h.vregs = _ ∧ h.sregs = _ := takeData_of_wide hb ..
    rw [if_neg (hdata ▸ List.append_ne_nil_of_right_ne_nil _ (List.ne_nil_of_length_pos hupds))]
    exact ⟨hvregs, hsregs, _, takeData_op _, hdata, rfl⟩

/-! ### One register of a wide load (R54) -/

omit hg hperf hdet in
theorem deliver_eq {reg : Nat} {u : RegUpd} (hone : o.data.filter (fun v => v.reg == reg) = [u]) : g.deliver n reg =
    Group.putReg { g with ops := dput g.ops n { o with data := o.data.filter (fun v => v.reg != reg) } } o u := by
  unfold Group.deliver
  rw [ho]
  dsimp only
  rw [hone]
  rfl

theorem arrival_register {accs : List LaneAcc} {reg : Nat} {u : RegUpd} (hkind : o.kind = .load order scope b data f11 accs [])
    (hacq : order ≠ .acq) (hacqRel : order ≠ .acqRel) (hsettled : s.settled) (hone : o.data.filter (fun v => v.reg == reg) = [u]) :
    let rest := o.data.filter (fun v => v.reg != reg)
    let g0 : Group := { g with ops := dput g.ops n { o with data := rest } }
    ∃ h : Group, exec (.variableResultArrival gid n (64 + reg)) s = .next (s.setGroup gid h).settleNode ∧
      h.vregs = (g0.putReg o u).vregs ∧ h.sregs = (g0.putReg o u).sregs ∧
      (rest = [] → dget h.ops n = none ∧ ∀ f, o.flag = some f → h.flag f = g.flag f - o.counts) ∧
      (rest ≠ [] → dget h.ops n = some { o with data := rest }) := by
  intro rest g0
  let h := g0.putReg o u
  have hbeside := putReg_besideData g0 o u
  have hop : dget h.ops n = some { o with data := rest } :=
    (congrArg (fun d => dget d.1 n) hbeside :).trans (dget_dput_same ..)
  have hflags (f : Nat) : h.flag f = g.flag f := (congrArg (fun d => tget 0 d.2.2 f) hbeside :)
  have hexec : exec (.variableResultArrival gid n (64 + reg)) s = finish s ((s.setGroup gid h).endLoad gid n order scope) := by
    have hdeliver : s.modGroup gid (fun g => g.deliver n reg) = s.setGroup gid h := by
      rw [modGroup_eq hg, deliver_eq ho hone]
    show finish s (s.arrive gid n (64 + reg)) = _
    unfold State.arrive
    simp only [operation_eq hg ho, canAct_of_canPerform s gid hperf hdet, hkind]
    simp [hdeliver]
  have hend := endLoad_eq (scope := scope) (group?_setGroup_same s gid h) hop hkind hacq hacqRel
  have settled (h : Group) : (s.setGroup gid h).settled := hsettled
  by_cases hrest : rest = []
  · have hcomplete : (s.setGroup gid h).completeOp gid n = s.setGroup gid (h.completeOp n) :=
      (modGroup_eq (group?_setGroup_same ..) _).trans (setGroup_setGroup ..)
    rw [hend, if_pos hrest, hcomplete, finish_of_settled (settled _)] at hexec
    refine ⟨_, hexec, (congrArg Registers.vregs (registers_completeOp h n) :),
      (congrArg Registers.sregs (registers_completeOp h n) :), fun _ => ⟨dget_completeOp_same h n, fun f hf => ?_⟩,
      fun hne => absurd hrest hne⟩
    rw [flag_completeOp hop hf, hflags]
  · rw [hend, if_neg hrest, finish_of_settled (settled _)] at hexec
    exact ⟨h, hexec, rfl, rfl, fun h0 => absurd h0 hrest, fun _ => hop⟩

end

end Sys2Proof.Machine
end

section
/-!
PROOFS. O29, stores and atomics: STORE_COMPLETE, VARIABLE_RESULT_ARRIVAL and ATOMICOP_COMPLETION of one lane (R112, R233, R238,
R393); O29 settled.
-/
namespace Sys2Proof.Machine

/-! ### Stores -/

theorem writeLoc_stash_access (core level : Nat) (bytes : List Byte) (team slot : Nat) : ∀ (s : State) (off : Nat),
    (s.writeLoc core level bytes (.stash team slot off)).access = s.access := by
  induction bytes with
  | nil => intro s off; rfl
  | cons b bytes ih => intro s off; exact (ih _ _).trans (modTeam_access ..)

theorem isPlain_iff {order : Order} : isPlain order = true ↔ order = .plain ∨ order = .evictFirst ∨ order = .evictLast := by
  simp only [isPlain, Bool.or_eq_true, beq_iff_eq, or_assoc]

/-- A plain access is performed in the core's own L1, and is no release. -/
theorem isPlain_spec {order : Order} (h : isPlain order = true) (scope : Scope) :
    levelOf order scope = 0 ∧ isRelease order = false := by
  obtain rfl | rfl | rfl := isPlain_iff.mp h <;> exact ⟨rfl, rfl⟩

section
variable {s : State} {gid n : Nat} {g : Group} {o : Op} {order : Order} {scope : Scope}

/-- No port stands between a core and the device's own memory (R374). -/
theorem lostNode_of_device {pa : Nat} (s : State) (core level : Nat) (h : isDevice pa = true) :
    s.lostNode core level (.phys pa) = none := by
  unfold isDevice at h
  unfold State.lostNode
  dsimp only
  cases hregion : region? pa with
  | none => rfl
  | some r => cases r with
    | pooled node =>
      rw [hregion] at h
      cases h
    | _ => rfl

/-- The write of one lane of a store. -/
def State.storeLane (s : State) (core : Nat) (order : Order) (level : Nat) (a : LaneAcc × List Byte) : State :=
  (s.writeLoc core level a.2 a.1.loc).markLine core order a.1.loc

theorem storeLanes_stash {accs : List (LaneAcc × List Byte)} (level : Nat)
    (hstash : ∀ e ∈ accs, ∃ t c f, e.1.loc = .stash t c f) :
    s.storeLanes gid g order level accs = accs.foldl (fun s a => s.storeLane g.core order level a) s := by
  unfold State.storeLanes
  refine List.foldl_ext _ _ _ fun s e he => ?_
  obtain ⟨t, c, f, hloc⟩ := hstash e he
  unfold State.storeLane
  rw [hloc]
  rfl

theorem foldl_storeLane_access (core level : Nat) {accs : List (LaneAcc × List Byte)}
    (hstash : ∀ e ∈ accs, ∃ t c f, e.1.loc = .stash t c f) (s : State) :
    (accs.foldl (fun s a => s.storeLane core order level a) s).access = s.access := by
  induction accs generalizing s with
  | nil => rfl
  | cons e accs ih =>
    obtain ⟨t, c, f, hloc⟩ := hstash e List.mem_cons_self
    refine (ih (fun e he => hstash e (List.mem_cons_of_mem _ he)) _).trans ((markLine_access ..).trans ?_)
    rw [hloc]
    exact writeLoc_stash_access ..

theorem storeLanes_device {pa lane : Nat} {va : Word64} {bytes : List Byte} (level : Nat) (hdet : g.det = false)
    (hd : isDevice pa = true) : s.storeLanes gid g order level [(⟨lane, va, .phys pa⟩, bytes)] =
      s.storeLane g.core order level (⟨lane, va, .phys pa⟩, bytes) := by
  have hwrites (t : State) : t.writes g level (.phys pa) = t := if_neg (by simp [isDevice_not_pooled hd])
  simp [State.storeLanes, State.storeLane, lostNode_of_device s g.core level hd, hdet, hwrites]

variable (hg : s.group? gid = some g) (ho : dget g.ops n = some o) (hperf : g.canPerform n o = true) (hdet : g.det = false)
include hg ho hperf hdet

/-- A store that is no release writes its lanes and completes. -/
theorem exec_storeComplete {b : Nat} {accs : List (LaneAcc × List Byte)} (hkind : o.kind = .store order scope b accs)
    (hrel : isRelease order = false) : exec (.storeComplete gid n) s =
      finish s ((s.storeLanes gid g order (levelOf order scope) accs).completeOp gid n) := by
  have hact := canAct_of_canPerform s gid hperf hdet
  have hperform : s.performStore gid n = (s.storeLanes gid g order (levelOf order scope) accs).completeOp gid n := by
    have hreleased : s.released gid n o order scope = (s, true) := by
      unfold State.released
      rw [hg]
      simp [hrel]
    unfold State.performStore
    simp [operation_eq hg ho, hact, hkind, brines_eq_none hdet, hreleased]
  have hcomplete : s.complete gid n g o = s.performStore gid n := by
    unfold State.complete
    rw [if_neg (by simp [hkind]), if_neg (by rcases mer_of_canPerform hperf with h | h <;> simp [h]),
      if_neg (by rcases mer_of_canPerform hperf with h | h <;> simp [h]), if_pos hact]
    unfold State.act
    rw [hkind]
  show finish s (match (s.group? gid).bind (fun g => (dget g.ops n).map (fun o => (g, o))) with
    | none => s
    | some (g, o) => s.complete gid n g o) = _
  rw [operation_eq hg ho]
  exact congrArg (finish s) (hcomplete.trans hperform)

theorem storeComplete_stash {b : Nat} {accs : List (LaneAcc × List Byte)} (hkind : o.kind = .store order scope b accs)
    (hplain : isPlain order = true) (hstash : ∀ e ∈ accs, ∃ t c f, e.1.loc = .stash t c f) (hsettled : s.settled) :
    exec (.storeComplete gid n) s = .next
      ((accs.foldl (fun s a => (s.writeLoc g.core 0 a.2 a.1.loc).markLine g.core order a.1.loc) s).completeOp gid n).settleNode := by
  obtain ⟨hlevel, hrel⟩ := isPlain_spec hplain scope
  rw [exec_storeComplete hg ho hperf hdet hkind hrel, hlevel, storeLanes_stash 0 hstash]
  exact finish_of_settled (settled_of_access ((completeOp_access ..).trans (foldl_storeLane_access g.core 0 hstash s)) hsettled)

theorem storeComplete_device {b pa lane : Nat} {va : Word64} {bytes : List Byte}
    (hkind : o.kind = .store order scope b [(⟨lane, va, .phys pa⟩, bytes)]) (hnotRel : order ≠ .rel)
    (hnotAcqRel : order ≠ .acqRel) (hd : isDevice pa = true) :
    let w := s.writeLoc g.core (levelOf order scope) bytes (.phys pa)
    w.settled → exec (.storeComplete gid n) s = .next ((w.markLine g.core order (.phys pa)).completeOp gid n).settleNode := by
  intro w hsettled
  have hrel : isRelease order = false := by simp [isRelease, hnotRel, hnotAcqRel]
  rw [exec_storeComplete hg ho hperf hdet hkind hrel, storeLanes_device _ hdet hd]
  exact finish_of_settled (settled_of_access ((completeOp_access ..).trans (markLine_access ..)) hsettled)

end

/-! ### Atomics -/

/-- The state in which an atomic's lane has been performed at a level, and the old value that it finds. -/
def State.atomicDoneAt (s : State) (core level b : Nat) (k : AtomicKind) (a : AtomicLane) : State × Nat :=
  let x := s.readLoc core level b a.acc.loc
  (match atomicNew k (8 * b) (ofBytes x.2) a with
    | some new => x.1.writeLoc core level (toBytes b new) a.acc.loc
    | none => x.1, ofBytes x.2)

theorem atomicDoneAt_groups (s : State) (core level b : Nat) (k : AtomicKind) (a : AtomicLane) :
    (s.atomicDoneAt core level b k a).1.groups = s.groups := by
  have hread := groups_of_beyond (readLoc_beyond s core level b a.acc.loc)
  unfold State.atomicDoneAt
  dsimp only
  split
  · exact (writeLoc_groups ..).trans hread
  · exact hread

section
variable {s : State} {gid n : Nat} {g : Group} {o : Op} {k : AtomicKind} {order : Order} {scope : Scope} {b data : Nat}
  {f11 tree : Bool} {a : AtomicLane}

variable (hg : s.group? gid = some g) (hdet : g.det = false) (hnotPooled : ∀ pa, a.acc.loc = .phys pa → isPooled pa = false)
  (hlost : s.lostNode g.core (levelOf order scope) a.acc.loc = none)
include hg hdet hnotPooled hlost

/-- One lane of an atomic, away from pooled memory. -/
theorem atomicLane_eq : s.atomicLane gid o k order scope b data f11 a =
    let w := s.atomicDoneAt g.core (s.atomicLevel (levelOf order scope) a.acc.loc) b k a
    w.1.modGroup gid (fun g => g.putData o f11 b data a.acc.lane w.2) := by
  unfold State.atomicLane State.atomicDoneAt
  simp only [hg, hlost, hdet]
  cases hloc : a.acc.loc with
  | stash t c f => rfl
  | phys pa => simp only [hnotPooled pa hloc, Bool.false_and, Bool.false_eq_true, if_false] <;> rfl

variable (hkind : o.kind = .atomic k order scope b data f11 tree [a])
include hkind

/-- The end of an atomic of one lane, which is neither an acquire nor a release. -/
theorem atomicSome_eq {p : LaneAcc → Bool} (hp : p a.acc = true) (horder : order = .rlx ∨ order = .plain) :
    let w := s.atomicDoneAt g.core (s.atomicLevel (levelOf order scope) a.acc.loc) b k a
    let h := g.putData o f11 b data a.acc.lane w.2
    s.atomicSome gid n o p = w.1.setGroup gid
      (Group.completeOp { h with ops := dput h.ops n { o with kind := .atomic k order scope b data f11 tree [] } } n) := by
  intro w h
  have hreleased : s.released gid n o order scope = (s, true) := by
    unfold State.released
    rw [hg]
    rcases horder with rfl | rfl <;> rfl
  have hw : w.1.group? gid = some g := (group?_of_groups (atomicDoneAt_groups ..) gid).trans hg
  have hlane : s.atomicLane gid o k order scope b data f11 a = w.1.setGroup gid h :=
    (atomicLane_eq hg hdet hnotPooled hlost).trans (modGroup_eq hw _)
  have hacq : order ≠ .acq ∧ order ≠ .acqRel := by rcases horder with rfl | rfl <;> decide
  have hsome : s.atomicSome gid n o p = ((s.atomicLane gid o k order scope b data f11 a).modGroup gid (fun g =>
      { g with ops := dput g.ops n { o with kind := .atomic k order scope b data f11 tree [] } })).completeOp gid n := by
    unfold State.atomicSome
    simp [hkind, hreleased, hp, finishAccess_eq _ _ _ _ hacq.1 hacq.2]
  rw [hsome, hlane, modGroup_eq (group?_setGroup_same ..), setGroup_setGroup, State.completeOp,
    modGroup_eq (group?_setGroup_same ..), setGroup_setGroup]

end

section
variable {s : State} {gid n : Nat} {g : Group} {o : Op} {k : AtomicKind} {order : Order} {scope : Scope} {b data : Nat}
  {f11 tree : Bool} {a : AtomicLane}
variable (hg : s.group? gid = some g) (ho : dget g.ops n = some o) (hperf : g.canPerform n o = true) (hdet : g.det = false)
  (hkind : o.kind = .atomic k order scope b data f11 tree [a])
include hg ho hperf hdet hkind

/-- The step that performs an atomic's only lane: on the host an AtomicOp returns, elsewhere its result arrives (R237, R393). -/
theorem exec_atomic_lane (hnotPooled : ∀ pa, a.acc.loc = .phys pa → isPooled pa = false) :
    ∃ p : LaneAcc → Bool, p a.acc = true ∧
      exec (if s.hostAtomic order scope a.acc.loc then .atomicopCompletion gid n else .variableResultArrival gid n a.acc.lane) s =
        finish s (s.atomicSome gid n o p) := by
  have hact := canAct_of_canPerform s gid hperf hdet
  cases hhost : s.hostAtomic order scope a.acc.loc with
  | true =>
    refine ⟨fun y => tree || y.lane == a.acc.lane, by simp, ?_⟩
    rw [if_pos rfl]
    show execAtomicopCompletion gid n s = _
    unfold execAtomicopCompletion
    simp [operation_eq hg ho, hact, hkind, hhost]
  | false =>
    have hhome : atNodeHome order scope a.acc.loc = false := by
      cases hloc : a.acc.loc with
      | stash t c f => rfl
      | phys pa => simp [atNodeHome, hnotPooled pa hloc]
    refine ⟨fun y => tree || Loc.frame y.loc == Loc.frame a.acc.loc, by simp, ?_⟩
    rw [if_neg (by simp)]
    show finish s (s.arrive gid n a.acc.lane) = _
    unfold State.arrive
    simp [operation_eq hg ho, hact, hkind, hhost, hhome]

theorem atomic_performs (horder : order = .rlx ∨ order = .plain) (hlost : s.lostNode g.core (levelOf order scope) a.acc.loc = none)
    (hnotPooled : ∀ pa, a.acc.loc = .phys pa → isPooled pa = false) :
    let w := s.atomicDoneAt g.core (s.atomicLevel (levelOf order scope) a.acc.loc) b k a
    let i : Instr := if s.hostAtomic order scope a.acc.loc then .atomicopCompletion gid n else .variableResultArrival gid n a.acc.lane
    w.1.settled → ∃ t : State, exec i s = .next t.settleNode ∧ t.mem = w.1.mem ∧ t.cache = w.1.cache ∧
      ∀ g1, w.1.group? gid = some g1 → ∃ h : Group, t.group? gid = some h ∧ dget h.ops n = none ∧
        h.vregs = (g1.putData o f11 b data a.acc.lane w.2).vregs ∧
        h.sregs = (g1.putData o f11 b data a.acc.lane w.2).sregs := by
  intro w i hsettled
  obtain ⟨p, hp, hexec⟩ := exec_atomic_lane hg ho hperf hdet hkind hnotPooled
  rw [atomicSome_eq hg hdet hnotPooled hlost hkind hp horder] at hexec
  refine ⟨_, hexec.trans (finish_of_settled (settled_of_access rfl hsettled)), rfl, rfl, fun g1 hg1 => ?_⟩
  have hw : w.1.group? gid = some g := (group?_of_groups (atomicDoneAt_groups ..) gid).trans hg
  obtain rfl : g = g1 := Option.some.inj (hw.symm.trans hg1)
  exact ⟨_, group?_setGroup_same .., dget_completeOp_same _ n, (congrArg Registers.vregs (registers_completeOp _ n) :),
    (congrArg Registers.sregs (registers_completeOp _ n) :)⟩

end

/-- Settles O29: the values of R238; a lane of a load and a register of a wide one; stores to a stash and to device memory; a
lane of an atomic. -/
theorem accessesPerform : Obligations.AccessesPerform :=
  ⟨atomic_values, fun _ _ _ _ _ hg ho hperf hdet =>
    ⟨fun _ _ _ _ _ _ hkind hacq hacqRel hlost => arrival_lane hg ho hperf hdet hkind hacq hacqRel hlost,
      fun _ _ _ _ _ _ _ _ hkind hacq hacqRel hsettled hone => arrival_register hg ho hperf hdet hkind hacq hacqRel hsettled hone,
      fun _ _ _ _ hkind hplain hstash hsettled => storeComplete_stash hg ho hperf hdet hkind hplain hstash hsettled,
      fun _ _ _ _ _ _ _ hkind hrel hacqRel hd => storeComplete_device hg ho hperf hdet hkind hrel hacqRel hd,
      fun _ _ _ _ _ _ _ _ hkind horder hlost hnotPooled => atomic_performs hg ho hperf hdet hkind horder hlost hnotPooled⟩⟩

end Sys2Proof.Machine
end

section
/-!
PROOFS. O15: NOP (R126).
-/
namespace Sys2Proof.Machine

/-- The word of NOP. -/
def nopWord : Word64 := 0xFF80000000000000

theorem encode_nop : encode .nop = some nopWord := by decide

/-- A word that the table reads as NOP is NOP's one word: the encoder writes it. -/
theorem asN_nop {w : Word64} (hop : (opOf w).toNat = 0x7F) : asN w .nop = if w = nopWord then some .nop else none := by
  split
  next h =>
    subst h
    decide
  next h =>
    refine Option.eq_none_iff_forall_not_mem.mpr fun i hi => h ?_
    obtain rfl : Instr.nop = i := (Option.ite_none_right_eq_some.mp hi).2 |> Option.some.inj
    obtain ⟨hword, -, -⟩ := asN_reads (c := .alu) hop hi rfl rfl rfl
    exact Option.some.inj (hword.symm.trans encode_nop)

/-- Opcode 0x7F stands in the control block, which ALU and SYS clauses read. -/
theorem decode_nop {w : Word64} (hop : (opOf w).toNat = 0x7F) {c : Sys2Proof.Class} (hc : c ∈ [Sys2Proof.Class.alu, .sys]) :
    decode c w = if w = nopWord then some .nop else none := by
  obtain ⟨halu, hsys⟩ := decode_control (w := w) (by omega)
  have hcontrol : decodeControl w = asN w .nop := by simp only [decodeControl, hop]
  rw [← asN_nop hop, ← hcontrol]
  obtain rfl | rfl : c = .alu ∨ c = .sys := by simpa using hc
  · exact halu
  · exact hsys

theorem exec_nop {s : State} {g : Group} {r : Running} (h : s.issues .nop g r) : exec .nop s = .next s.advance :=
  congrArg Host.Outcome.next (guarded_of_issues h _)

/-- Settles O15: the table reads one word as NOP, a word without a meaning traps, and NOP is `State.advance`, whose frame is
that of an issued instruction (O14). -/
theorem nopChangesOnlyTheCounts : Obligations.NopChangesOnlyTheCounts := by
  refine ⟨encode_nop, fun w hop c hc => decode_nop hop hc, fun s gid k rest t ha hi => step_issue_undecodable ha hi,
    fun s g r h hp hhalf => ?_⟩
  obtain ⟨hg, hr, -⟩ := id h
  obtain ⟨hchanges, hothers, -⟩ := advance_changes hg hr hp
  have hstill := still_issuedIn s g r
  have keeps {α : Type} (p : Group → α) : p (s.issuedIn g r).still = p g.still := congrArg p hstill
  obtain ⟨hdix, hlclk⟩ := retired_issuedIn s r hhalf
  exact ⟨exec_nop h, hchanges, hothers, s.issuedIn g r, group?_advance hg hr hp, hdix, hlclk, keeps Group.vregs,
    keeps Group.written, keeps Group.sregs, keeps Group.supS, keeps Group.preds, keeps Group.supP7, keeps Group.mode,
    keeps Group.faddr, keeps Group.xmask, keeps Group.tr, keeps Group.ops, keeps Group.results, keeps Group.spill,
    keeps Group.supervisor, keeps Group.trapReq, fun f hf => flag_issuedIn s r hf⟩

end Sys2Proof.Machine
end

section
/-!
PROOFS. O17: BRA, CALL, BRX, CALLX and RET at their issue (R118 to R122, R131).
-/
namespace Sys2Proof.Machine

/-! ### Masks of lanes -/

theorem getLsbD_one_shiftLeft {i j : Nat} (hj : j < 64) : (1#64 <<< i).getLsbD j = decide (i = j) := by
  refine (BitVec.getLsbD_twoPow i j).trans ?_
  by_cases h : i = j <;> simp [h, hj]

theorem getLsbD_maskOf {f : Nat → Bool} {j : Nat} (hj : j < 64) : (maskOf f).getLsbD j = f j := by
  have upTo (n : Nat) : ((List.range n).foldl (fun a i => if f i then a ||| (1#64 <<< i) else a) 0#64).getLsbD j =
      (decide (j < n) && f j) := by
    induction n with
    | zero => simp
    | succ n ih =>
      rw [List.range_succ, List.foldl_append, List.foldl_cons, List.foldl_nil]
      obtain rfl | hne := eq_or_ne n j
      · cases hn : f n <;> simp [hn, ih, BitVec.getLsbD_or, getLsbD_one_shiftLeft hj]
      · have hlt : j < n + 1 ↔ j < n := by omega
        split <;> simp [ih, BitVec.getLsbD_or, getLsbD_one_shiftLeft hj, hne, hlt]
  exact (upTo 64).trans (by simp [hj])

theorem maskOf_getLsbD (m : Mask) : maskOf (fun i => m.getLsbD i) = m :=
  BitVec.eq_of_getLsbD_eq fun _ hi => getLsbD_maskOf hi

/-- A mask that is not empty has a lowest lane. -/
theorem lowest?_spec {m : Mask} (h : m ≠ 0) :
    ∃ a, lowest? m = some a ∧ m.getLsbD a = true ∧ ∀ i < a, m.getLsbD i = false := by
  unfold lowest?
  cases hfind : (List.range 64).find? (fun i => m.getLsbD i) with
  | none =>
    rw [List.find?_eq_none] at hfind
    exact absurd (BitVec.eq_of_getLsbD_eq fun i hi => by simpa using hfind i (List.mem_range.mpr hi)) h
  | some a =>
    rw [List.find?_range_eq_some] at hfind
    obtain ⟨ha, -, hbelow⟩ := hfind
    exact ⟨a, rfl, ha, fun i hi => by simpa using hbelow i hi⟩

/-! ### Targets -/

/-- Target and join of format B stand as signed words from the transfer's own (R64). -/
theorem branchTo_eq (at_ : Word64) (off : BitVec 24) : branchTo at_ off = at_ + BitVec.ofInt 64 (8 * off.toInt) := by
  rw [branchTo, BitVec.ofInt_mul]
  rfl

section
variable (g : Group) (k treg : Nat)

/-- In a vector form the lanes whose target is that of the lowest one go (R122). -/
theorem select_vec :
    let m := (g.slot k).mask
    let at_ (i : Nat) : Word64 := BitVec.ofNat 64 (g.vecVal true treg i)
    (m ≠ 0 → ∃ a, m.getLsbD a = true ∧ (∀ i < a, m.getLsbD i = false) ∧ (g.select k treg true).2 = at_ a) ∧
      ∀ i < 64, (g.select k treg true).1.getLsbD i = true ↔ m.getLsbD i = true ∧ at_ i = (g.select k treg true).2 := by
  intro m at_
  refine ⟨fun hm => ?_, fun i hi => ?_⟩
  · obtain ⟨a, hlow, ha, hbelow⟩ := lowest?_spec hm
    exact ⟨a, ha, hbelow, congrArg (fun o : Option Nat => at_ (o.getD 0)) hlow⟩
  · show (maskOf _).getLsbD i = true ↔ _
    rw [getLsbD_maskOf hi, Bool.and_eq_true, beq_iff_eq]
    rfl

/-- In the scalar form every lane of the slot goes to the scalar's value. -/
theorem select_scalar : g.select k treg false = ((g.slot k).mask, g.sreg treg) := by
  show (maskOf _, _) = _
  simp only [Bool.false_eq_true, if_false, beq_self_eq_true, Bool.and_true, maskOf_getLsbD]

end

/-! ### The instructions -/

section
variable {s : State} {g : Group} {r : Running}

/-- The taken lanes of BRA by its KIND (R118). -/
def braTaken (g : Group) (k : Nat) (e : Mask) (kind : BitVec 3) : Mask :=
  match kind.toNat with
  | 0 => e
  | 1 => if e ≠ 0 then (g.slot k).mask else 0
  | _ => if e = (g.slot k).mask then (g.slot k).mask else 0

theorem exec_bra {b : BFields} (h : s.issues (.bra b) g r) :
    let T := braTaken g s.cur.slot (g.exec s.cur.mask b.neg b.pred) b.kind
    exec (.bra b) s = .next (match s.predicts g b with
      | some m => (s.advanceWith false true).modGroup s.cur.gid (fun g =>
          g.speculate s.cur.slot m T (branchTo s.cur.addr b.toff) (s.cur.addr + 8) (branchTo s.cur.addr b.joff) s.cur.addr
            s.cur.clauseAt s.cur.idx s.cycle)
      | none => s.issueTransfer true
          { s.mkTransfer .bra T (branchTo s.cur.addr b.toff) (branchTo s.cur.addr b.joff) (if b.pred = 0 then 0 else 7) with
            looked := b.kind == 0 && b.pred != 0 }) :=
  congrArg Host.Outcome.next (guarded_of_issues h _)

theorem exec_call {b : BFields} (h : s.issues (.call b) g r) :
    exec (.call b) s = .next (s.issueTransfer false (s.mkTransfer .call (g.exec s.cur.mask b.neg b.pred)
      (branchTo s.cur.addr b.toff) (s.cur.addr + 8) (if b.pred = 0 then 0 else 7))) :=
  congrArg Host.Outcome.next (guarded_of_issues h _)

/-- BRX and CALLX in one mould: their lanes and target are those that `Group.select` answers. -/
theorem brxMould_eq {i : Instr} {x : XFields} (h : s.issues i g r) (call : Bool) :
    let sel := g.select s.cur.slot x.treg.toNat (decide (x.form = .f00))
    brxMould i x call s = s.issueTransfer (!call)
      { s.mkTransfer (if call then .callx else .brx) sel.1 sel.2
          (if x.form = .f00 then branchTo s.cur.addr x.joff else (g.slot s.cur.slot).join) (if x.form = .f00 then 7 else 1) with
        tag := x.tag } := by
  unfold brxMould
  rw [guarded_of_issues h]
  cases x.form <;> rfl

theorem exec_ret {x : XFields} (h : s.issues (.ret x) g r) :
    let sel := g.select s.cur.slot x.treg.toNat true
    exec (.ret x) s = .next (s.issueTransfer true (s.mkTransfer .ret sel.1 sel.2 (g.slot s.cur.slot).join 7)) :=
  congrArg Host.Outcome.next (guarded_of_issues h _)

end

/-- Settles O17: each instruction as an equation, and the lanes and targets that `Group.select` answers. -/
theorem transfersIssue : Obligations.TransfersIssue := by
  intro s g r S at_ to_ tr select
  have hselect (vec : Bool) (treg : BitVec 11) :
      select vec treg (g.select s.cur.slot treg.toNat vec).1 (g.select s.cur.slot treg.toNat vec).2 := by
    cases vec
    · show _ ∧ _
      rw [select_scalar]
      exact ⟨rfl, rfl⟩
    · exact select_vec g s.cur.slot treg.toNat
  refine ⟨fun b h => ⟨braTaken g s.cur.slot (g.exec s.cur.mask b.neg b.pred) b.kind, fun hkind => ?_, fun hkind => ?_,
    fun hkind => ?_, fun hnone => ?_, fun m hsome => ?_⟩, fun b h => ?_, fun x h => ⟨_, _, hselect _ x.treg, ?_⟩,
    fun x h => ⟨_, _, hselect _ x.treg, ?_⟩, fun x h => ⟨_, _, hselect true x.treg, exec_ret h⟩⟩
  · rw [hkind]; rfl
  · rw [hkind]; rfl
  · rw [hkind]; rfl
  · have hlooked : (b.kind == 0 && b.pred != 0) = (decide (b.kind = 0) && decide (b.pred ≠ 0)) := by
      rw [Bool.eq_iff_iff]
      simp
    simp only [exec_bra h, hnone, branchTo_eq, hlooked]
    rfl
  · simp only [exec_bra h, hsome, branchTo_eq]
    rfl
  · rw [exec_call h, branchTo_eq]
    rfl
  · show Host.Outcome.next (brxMould (.brx x) x false s) = _
    rw [brxMould_eq h, branchTo_eq]
    rfl
  · show Host.Outcome.next (brxMould (.callx x) x true s) = _
    rw [brxMould_eq h, branchTo_eq]
    rfl

end Sys2Proof.Machine
end

section
/-!
PROOFS. O18: SETFMT, SETMODE, SWR, SRD, CSRR and CSRW (R127 to R129, R143 to R145, R164).
-/
namespace Sys2Proof.Machine

/-! ### A field of a word -/

/-- A word with a field replaced: the bits above it, the field, the bits below it. -/
theorem toNat_setFld {n : Nat} (w : BitVec n) {hi lo : Nat} (h : lo ≤ hi + 1) (x : Nat) : (setFld w hi lo x).toNat =
    (2 ^ lo * (2 ^ (hi + 1 - lo) * (w.toNat / 2 ^ (hi + 1)) + x % 2 ^ (hi + 1 - lo)) + w.toNat % 2 ^ lo) % 2 ^ n := by
  obtain ⟨k, hsum⟩ := Nat.exists_eq_add_of_le h
  rw [setFld, hsum, Nat.add_sub_cancel_left, BitVec.toNat_ofNat, Nat.pow_add, ← Nat.div_div_eq_div_mul]
  congr 1
  generalize w.toNat = W
  have below := Nat.div_add_mod W (2 ^ lo)
  have field := Nat.div_add_mod (W / 2 ^ lo) (2 ^ k)
  generalize W % 2 ^ lo = d at below ⊢
  generalize W / 2 ^ lo = q at below field ⊢
  generalize q / 2 ^ k = u at field ⊢
  generalize q % 2 ^ k = v at field ⊢
  subst field below
  have cleared : 2 ^ lo * (2 ^ k * u + v) + d - v * 2 ^ lo = 2 ^ lo * (2 ^ k * u) + d := by
    rw [Nat.mul_add, Nat.mul_comm v]
    omega
  rw [cleared]
  ring

theorem getLsbD_setFld {n : Nat} (w : BitVec n) {hi lo : Nat} (h : lo ≤ hi + 1) (x : Nat) {i : Nat} (hi' : i < n) :
    (setFld w hi lo x).getLsbD i = if lo ≤ i ∧ i ≤ hi then x.testBit (i - lo) else w.getLsbD i := by
  have hlow : w.toNat % 2 ^ lo < 2 ^ lo := Nat.mod_lt _ (Nat.two_pow_pos lo)
  have hfield : x % 2 ^ (hi + 1 - lo) < 2 ^ (hi + 1 - lo) := Nat.mod_lt _ (Nat.two_pow_pos _)
  rw [BitVec.getLsbD, toNat_setFld w h, Nat.testBit_mod_two_pow, Nat.testBit_two_pow_mul_add _ hlow,
    Nat.testBit_two_pow_mul_add _ hfield, Nat.testBit_mod_two_pow, Nat.testBit_mod_two_pow, Nat.testBit_div_two_pow]
  by_cases hbelow : i < lo
  · rw [if_pos hbelow, if_neg (by omega)]
    simp [hi', hbelow, BitVec.getLsbD, -BitVec.getLsbD_eq_getElem]
  · by_cases habove : i ≤ hi
    · rw [if_neg hbelow, if_pos (by omega), if_pos (by omega)]
      simp [hi', show i - lo < hi + 1 - lo by omega]
    · rw [if_neg hbelow, if_neg (by omega), if_neg (by omega)]
      simp [hi', show i - lo - (hi + 1 - lo) + (hi + 1) = i by omega, BitVec.getLsbD, -BitVec.getLsbD_eq_getElem]

/-- A bit of a field (R129). -/
theorem testBit_fld {n : Nat} (w : BitVec n) {hi lo i : Nat} (h : i ≤ hi) (h' : lo ≤ i) : (fld w hi lo).testBit (i - lo) = w.getLsbD i := by
  rw [fld, BitVec.testBit_toNat, BitVec.getLsbD_extractLsb', Nat.add_sub_cancel' h']
  simp only [show i - lo < hi + 1 - lo by omega, decide_true, Bool.true_and]

/-- A field that takes the bits of the same field of another word. -/
theorem getLsbD_setFld_fld {n m : Nat} (w : BitVec n) (v : BitVec m) {hi lo : Nat} (h : lo ≤ hi + 1) {i : Nat} (hi' : i < n) :
    (setFld w hi lo (fld v hi lo)).getLsbD i = if lo ≤ i ∧ i ≤ hi then v.getLsbD i else w.getLsbD i := by
  rw [getLsbD_setFld w h _ hi']
  split
  next hin => exact testBit_fld v hin.2 hin.1
  next => rfl

/-! ### MODE (R164) -/

theorem fld_low {n : Nat} (w : BitVec n) : fld w 2 0 = w.toNat % 8 := by
  simp [fld]

/-- MODE holds no reserved bit, and no rounding code 000 or 111. -/
theorem modeStore_spec (x : BitVec 16) :
    (∀ i < 16, 3 ≤ i → (modeStore x).getLsbD i = (x.getLsbD i && !decide (i ∈ [6, 7, 14, 15]))) ∧
      (modeStore x).toNat % 8 = if x.toNat % 8 = 0 ∨ x.toNat % 8 = 7 then 1 else x.toNat % 8 := by
  have reserved (i : Nat) (hi : i < 16) : (0x3F3F#16).getLsbD i = !decide (i ∈ [6, 7, 14, 15]) := by
    revert i
    decide
  have kept (i : Nat) (hi : i < 16) : (x &&& 0x3F3F#16).getLsbD i = (x.getLsbD i && !decide (i ∈ [6, 7, 14, 15])) := by
    rw [BitVec.getLsbD_and, reserved i hi]
  have hlow : (x &&& 0x3F3F#16).toNat % 8 = x.toNat % 8 := by
    have hand : (x &&& 0x3F3F#16).toNat % 2 ^ 3 = x.toNat % 2 ^ 3 := by
      rw [BitVec.toNat_and, Nat.and_mod_two_pow]
      show x.toNat % 2 ^ 3 &&& (2 ^ 3 - 1) = _
      rw [Nat.and_two_pow_sub_one_eq_mod, Nat.mod_mod]
    exact hand
  unfold modeStore
  simp only [fld_low, hlow, Bool.or_eq_true, decide_eq_true_eq]
  split
  · refine ⟨fun i hi hi3 => ?_, ?_⟩
    · rw [getLsbD_setFld _ (by decide) _ hi, if_neg (by omega), kept i hi]
    · rw [toNat_setFld _ (by decide)]
      omega
  · exact ⟨fun i hi _ => kept i hi, hlow⟩

/-- The bits that SETMODE selects (R127). -/
theorem getLsbD_merged (old : BitVec 16) (imm : BitVec 32) {i : Nat} (hi : i < 16) :
    (old &&& ~~~(imm.extractLsb' 16 16) ||| imm.extractLsb' 0 16 &&& imm.extractLsb' 16 16).getLsbD i =
      if imm.getLsbD (16 + i) then imm.getLsbD i else old.getLsbD i := by
  simp only [BitVec.getLsbD_or, BitVec.getLsbD_and, BitVec.getLsbD_not, BitVec.getLsbD_extractLsb', hi, decide_true, Bool.true_and,
    Nat.zero_add]
  cases imm.getLsbD (16 + i) <;> simp

theorem settleBits_of_no_replay {g : Group} (h0 : g.slot0.redo = none) (h1 : g.slot1.redo = none) (w v : BitVec 16) :
    (g.settleBits w).setMode v = { g with mode := v } := by
  have none_own (x : Slot) (h : x.redo = none) : x.sharesBits w = x := by
    obtain ⟨⟩ := x
    cases h
    rfl
  unfold Group.settleBits Group.setMode
  rw [none_own _ h0, none_own _ h1]

theorem redo_settleBits {g : Group} {j : Nat} {d : Half} (h : (g.slot j).redo = some d) (w v : BitVec 16) :
    (((g.settleBits w).setMode v).slot j).redo = some { d with raised := d.raised &&& ~~~w } := by
  have shared : ((g.settleBits w).setMode v).slot j = (g.slot j).sharesBits w := by
    unfold Group.settleBits Group.setMode Group.slot
    split <;> rfl
  rw [shared, Slot.sharesBits, h]
  rfl

/-! ### The instructions -/

section
variable {s : State} {g : Group} {r : Running}

theorem exec_setfmt {x : WFields} (h : s.issues (.setfmt x) g r) : exec (.setfmt x) s =
    .next (s.setGroup s.cur.gid (g.setSlot s.cur.slot { g.slot s.cur.slot with fmt := x.imm })).advance :=
  congrArg Host.Outcome.next (guarded_of_issues h _)

theorem exec_setmode {x : WFields} (h : s.issues (.setmode x) g r) : exec (.setmode x) s =
    .next (s.setGroup s.cur.gid ((g.settleBits (x.imm.extractLsb' 16 16)).setMode
      (modeMerge g.mode (x.imm.extractLsb' 16 16) (x.imm.extractLsb' 0 16)))).advance :=
  congrArg Host.Outcome.next (guarded_of_issues h _)

/-- The group with special register n written (R129). -/
def Group.withSpecial (g : Group) (k n : Nat) (x : Word64) : Group :=
  match n with
  | 6 => g.setSlot k { g.slot k with fmt := x.setWidth 32 }
  | 7 => (g.settleBits 0xFFFF#16).setMode (modeStore (x.setWidth 16))
  | 14 => { g with mphit := x.setWidth 48 }
  | 15 => { g with mpmiss := x.setWidth 48 }
  | _ => { g with mpreplay := x.setWidth 48 }

theorem exec_swr {q : RFields} (h : s.issues (.swr q) g r) : exec (.swr q) s =
    .next (s.setGroup s.cur.gid (g.withSpecial s.cur.slot q.dst.toNat (g.sreg q.a.toNat))).advance :=
  congrArg Host.Outcome.next (guarded_of_issues h _)

theorem exec_srd {q : RFields} (h : s.issues (.srd q) g r) :
    let m := g.exec s.cur.mask q.neg q.pred
    exec (.srd q) s = .next (
      if q.a.toNat = 0 then s.issueVec m false q.dst.toNat 4 (fun i => (i, 0))
      else if q.a.toNat = 11 then s.issueVec m true q.dst.toNat 4 (fun i => ((tget 0 g.faddr i).toNat, 0))
      else s.issueSca q.dst.toNat 2 (s.special g q.a.toNat) 0) :=
  congrArg Host.Outcome.next (guarded_of_issues h _)

/-- SRD of a scalar special register. -/
theorem exec_srd_scalar {q : RFields} (h : s.issues (.srd q) g r) {n : BitVec 11} {x : Word64} (hq : q.a = n)
    (hx : s.special g n.toNat = x) (hscalar : n.toNat ≠ 0 ∧ n.toNat ≠ 11 := by decide) :
    exec (.srd q) s = .next (s.issueSca q.dst.toNat 2 x 0) := by
  subst hq hx
  exact (exec_srd h).trans (congrArg Host.Outcome.next ((if_neg hscalar.1).trans (if_neg hscalar.2)))

theorem exec_csrr {q : QFields} (h : s.issues (.csrr q) g r) : exec (.csrr q) s =
    .next (s.setGroup s.cur.gid (s.putNow g q.sa.toNat (s.csr g q.obj.toNat))).advance :=
  congrArg Host.Outcome.next (guarded_of_issues h _)

/-- ESTATE after a write: its RW fields are bits 0 to 3, 9 and 11 (R144). -/
def mergeEstate (old x : Word64) : Word64 :=
  setFld (setFld (setFld old 3 0 (fld x 3 0)) 9 9 (fld x 9 9)) 11 11 (fld x 11 11)

/-- The machine with trap or context register n of group g written by CSRW (R143, R144, R221). -/
def State.withCsr (s : State) (g : Group) (n : Nat) (x : Word64) : State :=
  let set (tr : TrapRegs) : State := s.setGroup s.cur.gid { g with tr := tr }
  match n with
  | 1 => set { g.tr with epc := setFld x 2 0 0 }
  | 2 => set { g.tr with estate := mergeEstate g.tr.estate x }
  | 3 => set { g.tr with emask := x }
  | 4 => set { g.tr with ejoin := x }
  | 5 => set { g.tr with efmt := x.setWidth 32 }
  | 8 => set { g.tr with emode := x.setWidth 16 }
  | 19 => s.setCtx g.ctx ((s.ctx g.ctx).resolve (x.setWidth 32))
  | _ => s

theorem exec_csrw {q : QFields} (h : s.issues (.csrw q) g r) : exec (.csrw q) s =
    .next (s.withCsr g q.obj.toNat (g.sreg q.sa.toNat)).advance :=
  congrArg Host.Outcome.next (guarded_of_issues h _)

/-- EPC is a multiple of 8. -/
theorem setFld_zero (x : Word64) : setFld x 2 0 0 = x &&& ~~~7#64 := by
  refine BitVec.eq_of_getLsbD_eq fun i hi => ?_
  have hseven : (7#64).getLsbD i = decide (i ≤ 2) := by
    revert i
    decide
  rw [getLsbD_setFld x (by decide) 0 hi, BitVec.getLsbD_and, BitVec.getLsbD_not, hseven]
  by_cases h : i ≤ 2 <;> simp [h, hi]

theorem getLsbD_mergeEstate (old x : Word64) {i : Nat} (hi : i < 64) :
    (mergeEstate old x).getLsbD i = if i ≤ 3 ∨ i = 9 ∨ i = 11 then x.getLsbD i else old.getLsbD i := by
  rw [mergeEstate, getLsbD_setFld_fld _ x (by decide) hi, getLsbD_setFld_fld _ x (by decide) hi, getLsbD_setFld_fld _ x (by decide) hi]
  grind

end

/-- Settles O18: each instruction as an equation, what MODE stores, and the fields that a write replaces. -/
theorem specialRegisters : Obligations.SpecialRegisters := by
  refine ⟨fun s g r => ⟨fun x h => exec_setfmt h, fun x h => ⟨_, _, modeStore_spec _,
      fun i hi => getLsbD_merged g.mode x.imm hi, exec_setmode h⟩, fun q h => ?_, settleBits_of_no_replay,
    fun w v j d hd => ⟨_, redo_settleBits hd w v, rfl⟩⟩, fun s g r => ⟨fun q h => ?_, fun q h => ?_⟩, fun s g r q h => ?_⟩
  · have written {n : BitVec 11} (hq : q.dst = n) : exec (.swr q) s =
        .next (s.setGroup s.cur.gid (g.withSpecial s.cur.slot n.toNat (g.sreg q.a.toNat))).advance := hq ▸ exec_swr h
    exact ⟨written, fun hq => ⟨_, modeStore_spec _, written hq⟩, written, written, written⟩
  · have vector {n : BitVec 11} (hq : q.a = n) := hq ▸ exec_srd h
    have scalar {n : BitVec 11} {x : Word64} (hx : s.special g n.toNat = x) (hscalar : n.toNat ≠ 0 ∧ n.toNat ≠ 11 := by decide)
      (hq : q.a = n) := exec_srd_scalar h hq hx hscalar
    exact ⟨vector, vector, scalar rfl, scalar rfl, scalar rfl, scalar rfl, scalar rfl, scalar rfl, scalar rfl, scalar rfl,
      scalar rfl, scalar rfl, scalar rfl, scalar rfl, scalar rfl, scalar rfl, scalar rfl⟩
  · refine ⟨_, exec_csrr h, ?_⟩
    have read {n : BitVec 11} (hq : q.obj = n) : s.csr g q.obj.toNat = s.csr g n.toNat := by rw [hq]
    refine ⟨read, read, read, read, read, read, read, read, read, read, read, fun hq t ht => ?_, read, read⟩
    rw [read hq]
    show s.preemptReg g = _
    simp only [State.preemptReg, ht, Option.bind_some]
    cases t.preempt <;> rfl
  · have written {n : BitVec 11} (hq : q.obj = n) : exec (.csrw q) s =
        .next (s.withCsr g n.toNat (g.sreg q.sa.toNat)).advance := hq ▸ exec_csrw h
    refine ⟨fun hq => ?_, fun hq => ⟨_, written hq, fun i hi => getLsbD_mergeEstate _ _ hi⟩, written, written, written, written,
      fun hq => ?_⟩
    · rw [← setFld_zero]
      exact written hq
    · rw [exec_csrw h]
      generalize q.obj.toNat = n at hq
      fin_cases hq <;> rfl

end Sys2Proof.Machine
end

section
/-!
PROOFS. O24: TRANSFER_RESOLVE (R115, R119 to R122, R124, R131).
-/
namespace Sys2Proof.Machine

/-! ### What a transfer's effect leaves alone: the notes of the accesses -/

theorem predUpdate_access (s : State) (g : Group) (k : Nat) (pc : Word64) (t : Mask) : (s.predUpdate g k pc t).access = s.access := rfl

theorem setGroup_access (s : State) (gid : Nat) (g : Group) : (s.setGroup gid g).access = s.access := rfl

theorem trapTransfer_access (s : State) (gid k : Nat) (tr : Transfer) (code : BitVec 8) (einfo : Word64) (lanes : Mask)
    (faddr : List (Nat × Word64)) : (s.trapTransfer gid k tr code einfo lanes faddr).access = s.access :=
  (raiseTrap_access ..).trans (modGroup_access ..)

theorem linkResult_access (s : State) (gid k : Nat) (tr : Transfer) : (s.linkResult gid k tr).access = s.access :=
  modGroup_access s gid _

/-! ### The effect of R115 -/

/-- The group whose slot k has its transfer behind it. -/
def Group.freed (g : Group) (k cycle : Nat) : Group :=
  g.setSlot k { g.slot k with transfer := none, eligFrom := cycle + 1 }

section
variable {s : State} {gid k : Nat} {g : Group} {tr : Transfer} {f : Word64} {rest link : Bool} {lanes : Mask}

theorem applyTransfer_done {h : Group} (hd : (g.freed k s.cycle).diverge k tr.taken tr.target f tr.join rest s.cycle = .done h) :
    s.applyTransfer gid k g tr f rest link lanes =
      if link then (s.setGroup gid h).linkResult gid k tr else s.setGroup gid h := by
  unfold Group.freed at hd
  simp only [State.applyTransfer, hd]

theorem applyTransfer_overflow (hd : (g.freed k s.cycle).diverge k tr.taken tr.target f tr.join rest s.cycle = .overflow) :
    s.applyTransfer gid k g tr f rest link lanes =
      s.trapTransfer gid k tr 0x06 (BitVec.ofNat 64 g.spill.length) lanes [] := by
  unfold Group.freed at hd
  simp only [State.applyTransfer, hd]
  rfl

end

/-! ### TRANSFER_RESOLVE -/

section
variable {s : State} {gid k : Nat} {g : Group} (hg : s.group? gid = some g) (hk : k ≤ 1)
include hg hk

theorem exec_transferResolve_predicted {p : Spec} (hp : g.spec = some p) (hslot : p.slot = k) (hres : p.resolved = false)
    (hdue : p.issueAt + 7 ≤ s.cycle) : exec (.transferResolve gid k) s =
      finish s ((s.predUpdate g k p.wordAt p.taken).setGroup gid { g with spec := some { p with resolved := true } }) := by
  subst hslot
  show execTransferResolve gid p.slot s = _
  unfold execTransferResolve
  simp only [hg, hp, hres, if_neg (Nat.not_lt.mpr hk), Nat.not_lt.mpr hdue, decide_false, Bool.false_or, bne_self_eq_false,
    Bool.false_eq_true, if_false]

variable {tr : Transfer} (hspec : g.spec = none) (htr : (g.slot k).transfer = some tr) (hdue : tr.readyAt ≤ s.cycle)
  (htrap : g.trapReq = none) (hheld : (g.slot k).held = false) (hwait : g.mustWait k tr s.cycle = false)
include hspec htr hdue htrap hheld hwait

theorem exec_transferResolve : exec (.transferResolve gid k) s = finish s (s.resolve gid k g tr) := by
  show execTransferResolve gid k s = _
  unfold execTransferResolve
  simp only [hg, hspec, htr, htrap, hheld, hwait, if_neg (Nat.not_lt.mpr hk), Nat.not_lt.mpr hdue, decide_false,
    Option.isSome_none, Bool.false_and, Bool.or_self, Bool.false_eq_true, if_false]

/-- A transfer that takes the effect of R115 completes in it, from a state u whose notes it leaves. -/
theorem completes_applied {u : State} {g1 : Group} {f : Word64} {rest link : Bool} {lanes : Mask}
    (hres : s.resolve gid k g tr = u.applyTransfer gid k g1 tr f rest link lanes) :
    let d := (g1.freed k u.cycle).diverge k tr.taken tr.target f tr.join rest u.cycle
    (∀ h, d = .done h → s.completesIf u.settled (.transferResolve gid k)
      (if link then (u.setGroup gid h).linkResult gid k tr else u.setGroup gid h)) ∧
    (d = .overflow → s.completesIf u.settled (.transferResolve gid k)
      (u.trapTransfer gid k tr 0x06 (BitVec.ofNat 64 g1.spill.length) lanes [])) := by
  have hexec := (exec_transferResolve hg hk hspec htr hdue htrap hheld hwait).trans (congrArg (finish s) hres)
  refine ⟨fun h hd => ?_, fun hd => ?_⟩
  · refine completesIf_of_finish (hexec.trans (congrArg (finish s) (applyTransfer_done hd))) (settled_of_access ?_)
    split
    · exact linkResult_access (u.setGroup gid h) gid k tr
    · rfl
  · exact completesIf_of_finish (hexec.trans (congrArg (finish s) (applyTransfer_overflow hd)))
      (settled_of_access (trapTransfer_access ..))

/-- A transfer that traps completes in its trap. -/
theorem completes_trapped {u : State} {code : BitVec 8} {einfo : Word64} {lanes : Mask} {faddr : List (Nat × Word64)}
    (hres : s.resolve gid k g tr = u.trapTransfer gid k tr code einfo lanes faddr) :
    s.completesIf u.settled (.transferResolve gid k) (u.trapTransfer gid k tr code einfo lanes faddr) :=
  completesIf_of_finish ((exec_transferResolve hg hk hspec htr hdue htrap hheld hwait).trans (congrArg (finish s) hres))
    (settled_of_access (trapTransfer_access ..))

end

/-! ### The kinds of transfers -/

section
variable {s : State} {gid k : Nat} {g : Group} {tr : Transfer}

/-- The state in which a conditional BRA has trained the predictor (R131). -/
def State.trained (s : State) (g : Group) (k : Nat) (tr : Transfer) : State :=
  if tr.kind = .bra ∧ tr.looked = true then s.predUpdate g k tr.wordAt tr.taken else s

theorem trained_cycle : (s.trained g k tr).cycle = s.cycle := by
  unfold State.trained
  split <;> rfl

theorem trained_access : (s.trained g k tr).access = s.access := by
  unfold State.trained
  split <;> rfl

theorem resolve_branch (h : tr.kind = .bra ∨ tr.kind = .call) : s.resolve gid k g tr =
    (s.trained g k tr).applyTransfer gid k g tr tr.fall false (decide (tr.kind = .call)) tr.taken := by
  obtain h | h := h <;> simp [State.resolve, State.trained, h]

theorem resolve_misaligned (hbra : tr.kind ≠ .bra) (hcall : tr.kind ≠ .call) (h : tr.target.toNat % 8 ≠ 0) :
    s.resolve gid k g tr = s.trapTransfer gid k tr 0x07 tr.target (g.slot k).mask [] := by
  rw [← fld_low] at h
  cases hkind : tr.kind <;> simp_all [State.resolve]

theorem resolve_ret (hkind : tr.kind = .ret) (h : ¬ tr.target.toNat % 8 ≠ 0) : s.resolve gid k g tr =
    s.applyTransfer gid k g tr tr.clauseAt true false (g.slot k).mask := by
  rw [← fld_low] at h
  simp [State.resolve, hkind, h]

/-- What a BRX or a CALLX does after the landing-pad check has answered `l` (R124). -/
def State.landed (l : State × (Bool ⊕ (Nat × Nat))) (gid k : Nat) (tr : Transfer) (m : Mask) : State :=
  match l.2 with
  | .inr (code, einfo) =>
    l.1.trapTransfer gid k tr (BitVec.ofNat 8 code) (w64n einfo) m ((lanesOf m).map (fun i => (i, tr.target)))
  | .inl false => l.1.trapTransfer gid k tr 0x07 tr.target m []
  | .inl true => match l.1.group? gid with
    | none => l.1
    | some g => l.1.applyTransfer gid k g tr tr.clauseAt true (decide (tr.kind = .callx)) m

theorem resolve_indirect (hkind : tr.kind = .brx ∨ tr.kind = .callx) (h : ¬ tr.target.toNat % 8 ≠ 0) : s.resolve gid k g tr =
    State.landed (s.landing (agentOf gid g) tr.target tr.tag) gid k tr (g.slot k).mask := by
  rw [← fld_low] at h
  unfold State.resolve State.landed
  obtain hkind | hkind := hkind <;> simp only [hkind, if_neg h] <;> rfl

/-- The check reads code, and leaves all but the caches and notes. -/
theorem landing_beyond (a : Agent) (t : Word64) (tag : BitVec 8) : (s.landing a t tag).1.beyond = s.beyond := by
  unfold State.landing
  dsimp only
  split
  · exact codeWords_beyond a 1 s t
  · split
    all_goals exact (codeWords_beyond ..).trans (codeWords_beyond ..)

end

/-- Settles O24: each kind of transfer resolves into the effect of R115 or into a trap, both as equations. -/
theorem transferResolutionCompletes : Obligations.TransferResolutionCompletes := by
  intro s gid k g hg hk i m
  refine ⟨fun p hp hslot hres hdue => completesIf_of_finish (exec_transferResolve_predicted hg hk hp hslot hres hdue)
    (settled_of_access rfl), fun tr hspec htr hdue htrap hheld hwait => ?_⟩
  intro s1 free full misaligned
  have applied := @completes_applied s gid k g hg hk tr hspec htr hdue htrap hheld hwait
  have trapped := @completes_trapped s gid k g hg hk tr hspec htr hdue htrap hheld hwait
  refine ⟨fun hkind => ?_, fun hkind hal => ?_, fun hbra hcall hal => ?_, fun hkind hal => ?_⟩
  · obtain ⟨done, overflow⟩ := applied (resolve_branch hkind)
    simp only [trained_cycle, decide_eq_true_eq] at done overflow
    have hset : s.settled → (s.trained g k tr).settled := settled_of_access trained_access
    refine ⟨fun h hd hor => ?_, fun hd hor => overflow hd (hor.imp_left hset)⟩
    by_cases hcall : tr.kind = .call
    · have htrained : s.trained g k tr = s := if_neg (by simp [hcall])
      have answers := done h hd
      rw [htrained, if_pos hcall] at answers
      rw [if_pos hcall] at hor ⊢
      exact answers hor
    · have answers := done h hd
      rw [if_neg hcall] at answers hor ⊢
      exact answers (hor.imp_left hset)
  · exact applied (resolve_ret hkind hal)
  · exact trapped (resolve_misaligned hbra hcall hal)
  · have hres := resolve_indirect (s := s) (gid := gid) (k := k) (g := g) hkind hal
    intro l
    have landed {o : Bool ⊕ (Nat × Nat)} (ho : l.2 = o) : s.resolve gid k g tr = State.landed (l.1, o) gid k tr m := by
      rw [← ho]
      exact hres
    refine ⟨fun code e ho => ?_, fun ho => ?_, fun ho g1 hg1 => ?_⟩
    · exact trapped (landed ho)
    · exact trapped (landed ho)
    · have happlied : State.landed (l.1, .inl true) gid k tr m =
          l.1.applyTransfer gid k g1 tr tr.clauseAt true (decide (tr.kind = .callx)) m := by
        simp only [State.landed, hg1]
      obtain ⟨done, overflow⟩ := applied ((landed ho).trans happlied)
      have hcycle : l.1.cycle = s.cycle := cycle_of_beyond (landing_beyond (agentOf gid g) tr.target tr.tag)
      simp only [hcycle, decide_eq_true_eq] at done overflow
      exact ⟨overflow, done⟩

end Sys2Proof.Machine
end

section
/-!
PROOFS. O25, first part: SPILL_POP (R116), and what PREDICTION_REPAIR does to one half (R133).
-/
namespace Sys2Proof.Machine

/-! ### SPILL_POP -/

theorem exec_spillPop {s : State} {gid : Nat} {g : Group} {e : SpillEntry} {rest : List SpillEntry} (hg : s.group? gid = some g)
    (hspill : g.spill = e :: rest) (hpop : g.canPop e s.cycle = true) :
    exec (.spillPop gid) s = .next (s.setGroup gid (g.pop e rest s.cycle)) := by
  show Host.Outcome.next (s.modGroup gid _) = _
  rw [modGroup_eq hg]
  simp only [hspill, hpop, if_true]

/-- The slot that takes a popped entry: the lowest empty one (R116). -/
def Group.popSlot (g : Group) : Nat := if g.slot0.mask = 0 then 0 else 1

theorem pop_dropped {g : Group} {e : SpillEntry} (rest : List SpillEntry) (cycle : Nat)
    (h : e.mask &&& ~~~g.xmask = 0 ∨ e.pc = e.join) : g.pop e rest cycle = { g with spill := rest, poppedAt := some cycle } := by
  unfold Group.pop
  exact if_pos (by simpa using h)

theorem pop_taken {g : Group} {e : SpillEntry} (rest : List SpillEntry) (cycle : Nat) (hm : e.mask &&& ~~~g.xmask ≠ 0)
    (hpc : e.pc ≠ e.join) : ∃ first, g.pop e rest cycle =
      { Group.setSlot { g with spill := rest, poppedAt := some cycle } g.popSlot (e.toSlot (e.mask &&& ~~~g.xmask) cycle) with
        first := first } := by
  have hslot : (if (g.slot 0).live then 1 else 0) = g.popSlot := by
    by_cases h : g.slot0.mask = 0 <;> simp [Group.popSlot, Slot.live, Group.slot, h]
  unfold Group.pop
  rw [hslot]
  exact ⟨_, if_neg (by simpa using ⟨hm, hpc⟩)⟩

theorem spillPop_effect (s : State) (gid : Nat) (g : Group) (e : SpillEntry) (rest : List SpillEntry) (hg : s.group? gid = some g)
    (hspill : g.spill = e :: rest) (hpop : g.canPop e s.cycle = true) :
    let k := g.popSlot
    let m := e.mask &&& ~~~g.xmask
    ∃ h : Group, exec (.spillPop gid) s = .next (s.setGroup gid h) ∧ h.spill = rest ∧
      (m = 0 ∨ e.pc = e.join → h.slot0 = g.slot0 ∧ h.slot1 = g.slot1) ∧
      (m ≠ 0 → e.pc ≠ e.join → (h.slot k).pc = e.pc ∧ (h.slot k).mask = m ∧ (h.slot k).join = e.join ∧
        (h.slot k).fmt = e.fmt ∧ (h.slot k).resting = e.brxrest ∧ h.slot (1 - k) = g.slot (1 - k)) ∧
      h.vregs = g.vregs ∧ h.sregs = g.sregs ∧ h.flags = g.flags := by
  intro k m
  refine ⟨_, exec_spillPop hg hspill hpop, ?_⟩
  by_cases hdrop : m = 0 ∨ e.pc = e.join
  · rw [pop_dropped rest s.cycle hdrop]
    exact ⟨rfl, fun _ => ⟨rfl, rfl⟩, fun hm hpc => absurd hdrop (not_or.mpr ⟨hm, hpc⟩), rfl, rfl, rfl⟩
  · obtain ⟨hm, hpc⟩ := not_or.mp hdrop
    obtain ⟨first, htaken⟩ := pop_taken rest s.cycle hm hpc
    have hk : k ≤ 1 := by
      show g.popSlot ≤ 1
      unfold Group.popSlot
      split <;> omega
    rw [htaken]
    let g' : Group := { g with spill := rest, poppedAt := some s.cycle }
    have hsame := g'.slot_setSlot_same k (e.toSlot m s.cycle)
    refine ⟨Group.setSlot_spill g' k _, fun h => absurd h hdrop, fun _ _ => ⟨congrArg Slot.pc hsame, congrArg Slot.mask hsame,
      congrArg Slot.join hsame, congrArg Slot.fmt hsame, congrArg Slot.resting hsame, g'.slot_one_sub_setSlot _ hk⟩,
      Group.setSlot_vregs g' k _, Group.setSlot_sregs g' k _, Group.setSlot_flags g' k _⟩

/-! ### Shadowed lines (R133) -/

/-- The words of the lanes of m come back from the shadowed lines. -/
def restore (m : Mask) (l : List (Nat × Line)) (v : Tab Line) : Tab Line :=
  l.foldl (fun v e => tset 0 v e.1 (mergeLine m (tget 0 v e.1) e.2)) v

theorem foldl_restore (m : Mask) (l : List (Nat × Line)) (g : Group) :
    l.foldl (fun (g : Group) e => { g with vregs := tset 0 g.vregs e.1 (mergeLine m (tget 0 g.vregs e.1) e.2) }) g =
      { g with vregs := restore m l g.vregs } := by
  induction l generalizing g with
  | nil => rfl
  | cons e l ih => exact ih _

section
variable {m : Mask} {i : Nat} (hi : i < 64)
include hi

/-- One shadowed line restores its own register, in the lanes of m. -/
theorem lane_restore_one (v : Tab Line) (e : Nat × Line) (n : Nat) :
    lane (tget 0 (tset 0 v e.1 (mergeLine m (tget 0 v e.1) e.2)) n) i =
      if n = e.1 ∧ m.getLsbD i = true then lane e.2 i else lane (tget 0 v n) i := by
  by_cases hn : n = e.1
  · subst hn
    rw [tget_tset_same, lane_mergeLine m _ _ hi]
    simp only [true_and]
  · rw [tget_tset_other 0 v _ hn, if_neg (fun h => hn h.1)]

theorem lane_restore_kept {n : Nat} (l : List (Nat × Line)) (v : Tab Line)
    (h : m.getLsbD i = false ∨ ∀ e ∈ l, e.1 ≠ n) : lane (tget 0 (restore m l v) n) i = lane (tget 0 v n) i := by
  induction l generalizing v with
  | nil => rfl
  | cons e l ih =>
    have hrest := ih (tset 0 v e.1 (mergeLine m (tget 0 v e.1) e.2)) (h.imp_right fun h d hd => h d (List.mem_cons_of_mem _ hd))
    refine Eq.trans hrest ((lane_restore_one hi v e n).trans (if_neg ?_))
    rintro ⟨rfl, hm⟩
    exact h.elim (fun hf => by simp [hm] at hf) fun h => h e List.mem_cons_self rfl

/-- A register that is shadowed once comes back. -/
theorem lane_restore_shadowed {l : List (Nat × Line)} {e : Nat × Line} (he : e ∈ l) (honce : ∀ d ∈ l, d.1 = e.1 → d = e)
    (hm : m.getLsbD i = true) (v : Tab Line) : lane (tget 0 (restore m l v) e.1) i = lane e.2 i := by
  induction l generalizing v with
  | nil => cases he
  | cons d l ih =>
    by_cases hin : e ∈ l
    · exact ih hin (fun d hd => honce d (List.mem_cons_of_mem _ hd)) _
    · obtain rfl : e = d := (List.mem_cons.mp he).resolve_right hin
      have hkept := lane_restore_kept (m := m) hi (n := e.1) l (tset 0 v e.1 (mergeLine m (tget 0 v e.1) e.2))
        (.inr fun d hd hkey => hin (honce d (List.mem_cons_of_mem _ hd) hkey ▸ hd))
      exact Eq.trans hkept ((lane_restore_one hi v e e.1).trans (if_pos ⟨rfl, hm⟩))

end

/-! ### Operations that complete one by one -/

theorem dget_of_mem {α : Type} {t : Dict α} {k : Nat} {v : α} (hrise : keysRise t = true) (h : (k, v) ∈ t) : dget t k = some v := by
  induction t with
  | nil => cases h
  | cons e t ih =>
    obtain ⟨j, w⟩ := e
    obtain ⟨habove, hrise'⟩ := keysRise_cons.mp hrise
    rw [dget]
    obtain heq | hin := List.mem_cons.mp h
    · cases heq
      exact if_pos rfl
    · rw [if_neg (Nat.ne_of_lt (habove _ hin)), ih hrise' hin]

theorem keysRise_map {α β : Type} {f : Nat × α → Nat × β} (hf : ∀ e, (f e).1 = e.1) {t : Dict α} (h : keysRise t = true) :
    keysRise (t.map f) = true := by
  induction t with
  | nil => rfl
  | cons e t ih =>
    obtain ⟨habove, hrise⟩ := keysRise_cons.mp h
    refine (keysRise_cons (v := (f e).2)).mpr ⟨fun d hd => ?_, ih hrise⟩
    obtain ⟨c, hc, rfl⟩ := List.mem_map.mp hd
    rw [hf, hf]
    exact habove c hc

theorem dget_completeOp_other (g : Group) {m n : Nat} (h : m ≠ n) : dget (g.completeOp n).ops m = dget g.ops m := by
  unfold Group.completeOp
  split
  · rfl
  · dsimp only
    split <;> exact dget_ddel_other _ h

theorem keysRise_completeOp {g : Group} (n : Nat) (h : keysRise g.ops = true) : keysRise (g.completeOp n).ops = true := by
  unfold Group.completeOp
  split
  · exact h
  · dsimp only
    split <;> exact keysRise_ddel h

/-- The operations of a list complete. -/
def Group.completeOps (g : Group) (l : List Nat) : Group := l.foldl Group.completeOp g

theorem dget_completeOps_of_none {g : Group} {n : Nat} (l : List Nat) (h : dget g.ops n = none) :
    dget (g.completeOps l).ops n = none := by
  induction l generalizing g with
  | nil => exact h
  | cons m l ih => exact ih (dget_completeOp_of_none m h)

theorem dget_completeOps (g : Group) (l : List Nat) (n : Nat) :
    dget (g.completeOps l).ops n = if n ∈ l then none else dget g.ops n := by
  induction l generalizing g with
  | nil => rfl
  | cons m l ih =>
    show dget ((g.completeOp m).completeOps l).ops n = _
    obtain rfl | hne := eq_or_ne n m
    · rw [if_pos List.mem_cons_self]
      exact dget_completeOps_of_none l (dget_completeOp_same g n)
    · rw [ih, dget_completeOp_other g hne]
      simp [hne]

theorem keysRise_completeOps {g : Group} (l : List Nat) (h : keysRise g.ops = true) : keysRise (g.completeOps l).ops = true := by
  induction l generalizing g with
  | nil => exact h
  | cons m l ih => exact ih (keysRise_completeOp m h)

/-- A group without its operations and flags, which are all that completing operations changes. -/
def Group.sansOps (g : Group) : Group := { g with ops := [], flags := [] }

theorem completeOps_sansOps (g : Group) (l : List Nat) : (g.completeOps l).sansOps = g.sansOps := by
  induction l generalizing g with
  | nil => rfl
  | cons m l ih =>
    refine (ih (g.completeOp m)).trans ?_
    unfold Group.completeOp
    split
    · rfl
    · dsimp only
      split <;> rfl

/-! ### What is undone of a half (R133) -/

/-- What becomes of an operation of slot k as the lanes of m are undone, and whether it completes. -/
def Op.undone (k : Nat) (m : Mask) (all keep : Bool) (o : Op) : Op × Bool :=
  if o.slot == k && o.half then match o.kind with
    | .store or sc n accs =>
      let rest := accs.filter (fun a => !m.getLsbD a.1.lane)
      ({ o with kind := .store or sc n rest }, all || (rest.isEmpty && !accs.isEmpty))
    | .load or sc n d f accs left =>
      ({ o with half := keep, data := o.data.map (fun u => u.drop m),
                  kind := .load or sc n d f (accs.filter (fun a => !m.getLsbD a.lane)) (left.filter (fun i => !m.getLsbD i)) }, all)
    | _ => (o, all)
  else (o, false)

theorem undone_other {k : Nat} {o : Op} (h : o.slot ≠ k) (m : Mask) (all keep : Bool) : o.undone k m all keep = (o, false) :=
  if_neg (by simp [h])

section
variable (g : Group) (h : Half) (m : Mask) (all keep : Bool)

theorem undo_eq : ∃ results, g.undo h m all keep =
    Group.completeOps { g with
        vregs := restore m h.shadows g.vregs
        results := results
        ops := g.ops.map (fun e => (e.1, (e.2.undone h.slot m all keep).1)) }
      ((g.ops.filter (fun e => (e.2.undone h.slot m all keep).2)).map (fun e => e.1)) := by
  refine ⟨?_, ?_⟩
  rotate_left
  · unfold Group.undo
    rw [foldl_restore]
    rfl

/-- A group without what the repair of a half undoes in it. -/
def Group.sansWork (g : Group) : Group := { g with vregs := [], results := [], ops := [], flags := [] }

theorem undo_sansWork : (g.undo h m all keep).sansWork = g.sansWork := by
  obtain ⟨results, heq⟩ := undo_eq g h m all keep
  rw [heq]
  exact congrArg (fun x : Group => { x with vregs := [], results := [] }) (completeOps_sansOps ..)

theorem undo_vregs : (g.undo h m all keep).vregs = restore m h.shadows g.vregs := by
  obtain ⟨results, heq⟩ := undo_eq g h m all keep
  rw [heq]
  exact (congrArg Group.vregs (completeOps_sansOps ..) :)

theorem undo_slot (k : Nat) : (g.undo h m all keep).slot k = g.slot k :=
  (congrArg (fun x : Group => x.slot k) (undo_sansWork g h m all keep) :)

variable {g}

theorem dget_undo_of_none {n : Nat} (ho : dget g.ops n = none) : dget (g.undo h m all keep).ops n = none := by
  obtain ⟨results, heq⟩ := undo_eq g h m all keep
  rw [heq]
  exact dget_completeOps_of_none _ (dget_map_none ho fun _ => rfl)

theorem dget_undo (hrise : keysRise g.ops = true) {n : Nat} {o : Op} (ho : dget g.ops n = some o) :
    dget (g.undo h m all keep).ops n =
      if (o.undone h.slot m all keep).2 then none else some (o.undone h.slot m all keep).1 := by
  have hdone : n ∈ (g.ops.filter (fun e => (e.2.undone h.slot m all keep).2)).map (fun e => e.1) ↔
      (o.undone h.slot m all keep).2 = true := by
    simp only [List.mem_map, List.mem_filter]
    refine ⟨?_, fun hall => ⟨(n, o), ⟨mem_of_dget ho, hall⟩, rfl⟩⟩
    rintro ⟨⟨n', o'⟩, ⟨hin, hall⟩, rfl⟩
    obtain rfl : o' = o := Option.some.inj ((dget_of_mem hrise hin).symm.trans ho)
    exact hall
  obtain ⟨results, heq⟩ := undo_eq g h m all keep
  rw [heq, dget_completeOps]
  have hmap : dget (g.ops.map (fun e => (e.1, (e.2.undone h.slot m all keep).1))) n = some (o.undone h.slot m all keep).1 :=
    dget_map_some ho fun _ => rfl
  simp only [hdone, hmap]

theorem keysRise_undo (hrise : keysRise g.ops = true) : keysRise (g.undo h m all keep).ops = true := by
  obtain ⟨results, heq⟩ := undo_eq g h m all keep
  rw [heq]
  exact keysRise_completeOps _ (keysRise_map (f := fun e => (e.1, (e.2.undone h.slot m all keep).1)) (fun _ => rfl) hrise)

end

end Sys2Proof.Machine
end

section
/-!
PROOFS. O25, second part: the repair of one half, as a change of its group (R133).
-/
namespace Sys2Proof.Machine

/-! ### The lanes of a half -/

/-- The lanes of a half that were predicted wrongly, where ch are its correct lanes; those that it lacks; the clauses that it
has to replay; and whether it replays them. -/
def Half.wrong (h : Half) (ch : Mask) : Mask := h.ph &&& ~~~ch
def Half.lacks (h : Half) (ch : Mask) : Mask := ch &&& ~~~h.ph
def Half.again (h : Half) : List Replay := h.clauses.reverse.filter (fun c => decide (c.first < c.count))
def Half.redoes (h : Half) (ch : Mask) : Bool := h.lacks ch != 0 && ch != 0 && !h.again.isEmpty

theorem redoes_iff (h : Half) {ch : Mask} (hch : ch ≠ 0) : h.redoes ch = true ↔ h.lacks ch ≠ 0 ∧ h.again ≠ [] := by
  rw [Half.redoes, Bool.and_eq_true, Bool.and_eq_true, bne_iff_ne, bne_iff_ne, Bool.not_eq_true', List.isEmpty_eq_false_iff]
  exact ⟨fun ⟨⟨hlacks, _⟩, hagain⟩ => ⟨hlacks, hagain⟩, fun ⟨hlacks, hagain⟩ => ⟨⟨hlacks, hch⟩, hagain⟩⟩

/-! ### A half's repair as a change of its group -/

/-- The clause of slot k stops. -/
def Group.halt (g : Group) (k : Nat) : Group :=
  match (g.slot k).running with
  | none => g
  | some r => (g.setSlot k { g.slot k with running := none, resumeIdx := if r.idx < r.count then r.idx else 0 }).endCount r.clauseId

/-- The group with the clause of a half stopped, where the half empties or replays its clauses. -/
def Group.halted (g : Group) (h : Half) (ch : Mask) : Group := if ch = 0 || h.redoes ch then g.halt h.slot else g

/-- The group with the wrong lanes of a half undone. -/
def Group.withdrawn (g : Group) (h : Half) (ch : Mask) : Group :=
  (g.halted h ch).undo h (h.wrong ch) (ch == 0) (h.redoes ch)

/-- The slot of a half with correct lanes ch after the repair, S its slot before. -/
def Slot.corrected (S : Slot) (h : Half) (ch : Mask) (cycle : Nat) : Slot :=
  if h.redoes ch then
    { S with mask := h.lacks ch, finalMask := ch, replays := h.again, redo := some { h with raised := 0 }, eligFrom := cycle + 1 }
  else { S with mask := ch, eligFrom := cycle + 1 }

/-- The group with a half that has correct lanes put right: its instructions count, and its slot goes on. -/
def Group.kept (g : Group) (h : Half) (ch : Mask) (cycle : Nat) : Group :=
  let n := BitVec.ofNat 48 h.retired
  let g : Group := { g with dix := g.dix + n, lclk := g.lclk + n }
  let g := g.setSlot h.slot ((g.slot h.slot).corrected h ch cycle)
  (if h.redoes ch then g else g.releaseHeld h.slot).raiseFor h.slot true (h.bits ch)

/-- The group with a half repaired, whose correct lanes are ch. -/
def Group.repair (g : Group) (h : Half) (ch : Mask) (cycle : Nat) : Group :=
  if ch = 0 then ((g.withdrawn h ch).clearSlot h.slot).settleCounts else (g.withdrawn h ch).kept h ch cycle

theorem haltSlot_halts {s : State} {gid : Nat} {g : Group} (hg : s.group? gid = some g) (k : Nat) :
    (s.haltSlot gid k).group? gid = some (g.halt k) ∧ (s.haltSlot gid k).cycle = s.cycle := by
  unfold State.haltSlot Group.halt
  simp only [hg]
  cases (g.slot k).running with
  | none => exact ⟨hg, rfl⟩
  | some r =>
    dsimp only
    refine ⟨group?_modGroup_same (group?_setGroup_same ..) _, ?_⟩
    rw [modGroup_eq (group?_setGroup_same ..)]
    rfl

theorem repairHalf_repairs {s : State} {gid : Nat} {g : Group} (hg : s.group? gid = some g) {x : Side} {h : Half} (hx : x.ph = h.ph) :
    (s.repairHalf gid x h).group? gid = some (g.repair h x.ch s.cycle) ∧ (s.repairHalf gid x h).cycle = s.cycle := by
  have halts : (if (decide (x.ch = 0) || h.redoes x.ch) = true then s.haltSlot gid h.slot else s).group? gid =
        some (g.halted h x.ch) ∧
      (if (decide (x.ch = 0) || h.redoes x.ch) = true then s.haltSlot gid h.slot else s).cycle = s.cycle := by
    unfold Group.halted
    split
    · exact haltSlot_halts hg h.slot
    · exact ⟨hg, rfl⟩
  obtain ⟨hgroup, hcycle⟩ := halts
  have hredo : ((x.ch &&& ~~~x.ph) != 0 && x.ch != 0 && !(h.clauses.reverse.filter (fun c => decide (c.first < c.count))).isEmpty) =
      h.redoes x.ch := by rw [hx]; rfl
  unfold State.repairHalf
  dsimp only
  rw [hredo]
  refine ⟨?_, ?_⟩
  · rw [group?_modGroup_same hgroup, hcycle, hx]
    unfold Group.repair Group.withdrawn Group.halted Group.kept Slot.corrected
    dsimp only
    congr 1
    split
    · rfl
    · by_cases hr : h.redoes x.ch = true <;> simp only [hr, if_true] <;> rfl
  · rw [modGroup_eq hgroup]
    exact hcycle

/-! ### What the repair of a half leaves -/

/-- A group without what the course of its slots changes: slots, MODE, flags and counted clauses. -/
def Group.sansCourse (g : Group) : Group := { g with slot0 := {}, slot1 := {}, mode := 0, flags := [], counts := [] }

theorem setSlot_sansCourse (g : Group) (k : Nat) (x : Slot) : (g.setSlot k x).sansCourse = g.sansCourse := by
  unfold Group.setSlot
  split <;> rfl

theorem halt_sansCourse (g : Group) (k : Nat) : (g.halt k).sansCourse = g.sansCourse := by
  unfold Group.halt
  split
  · rfl
  · exact setSlot_sansCourse g k _

theorem raiseFor_sansCourse (g : Group) (k : Nat) (half : Bool) (bits : BitVec 16) :
    (g.raiseFor k half bits).sansCourse = g.sansCourse := by
  unfold Group.raiseFor
  split
  · exact setSlot_sansCourse g k _
  · rfl

/-- A slot without the note of the half that it replays. -/
def Slot.sansRedo (x : Slot) : Slot := { x with redo := none }

theorem raiseFor_slot (g : Group) (k : Nat) (half : Bool) (bits : BitVec 16) (j : Nat) :
    ((g.raiseFor k half bits).slot j).sansRedo = (g.slot j).sansRedo := by
  unfold Group.raiseFor
  split
  · unfold Group.slot Group.setSlot
    by_cases hk : k = 0 <;> by_cases hj : j = 0 <;> simp [hk, hj, Slot.sansRedo]
  · unfold Group.slot
    dsimp only
    split <;> rfl

section
variable (g : Group) (h : Half) (ch : Mask) (cycle : Nat)

theorem halted_sansCourse : (g.halted h ch).sansCourse = g.sansCourse := by
  unfold Group.halted
  split
  · exact halt_sansCourse g h.slot
  · rfl

theorem withdrawn_vregs : (g.withdrawn h ch).vregs = restore (h.wrong ch) h.shadows g.vregs :=
  (undo_vregs ..).trans (congrArg (restore (h.wrong ch) h.shadows) (congrArg Group.vregs (halted_sansCourse g h ch) :))

/-- A group without what the repair of a half changes. -/
def Group.sansRepair (g : Group) : Group :=
  { g.sansCourse with vregs := [], results := [], ops := [], dix := 0, lclk := 0 }

theorem sansRepair_of_sansCourse {g' : Group} (e : g'.sansCourse = g.sansCourse) : g'.sansRepair = g.sansRepair :=
  congrArg (fun x : Group => { x with vregs := [], results := [], ops := [], dix := 0, lclk := 0 }) e

theorem withdrawn_sansRepair : (g.withdrawn h ch).sansRepair = g.sansRepair := by
  have hundo := congrArg Group.sansRepair (undo_sansWork (g.halted h ch) h (h.wrong ch) (ch == 0) (h.redoes ch))
  have hhalted : (g.halted h ch).sansRepair = g.sansRepair := sansRepair_of_sansCourse g (halted_sansCourse g h ch)
  exact hundo.trans hhalted

theorem withdrawn_dix : (g.withdrawn h ch).dix = g.dix :=
  (congrArg Group.dix (undo_sansWork (g.halted h ch) ..) :).trans (congrArg Group.dix (halted_sansCourse g h ch) :)

/-- The operations of slot k may be performed from now on. -/
def Op.released (k : Nat) (o : Op) : Op := if o.slot == k then { o with half := false } else o
def released (k : Nat) (ops : Dict Op) : Dict Op := ops.map (fun e => (e.1, e.2.released k))

/-- A half with correct lanes counts its instructions, and releases its operations unless it replays clauses. -/
theorem kept_sansCourse : (g.kept h ch cycle).sansCourse =
    { g.sansCourse with
      dix := g.dix + BitVec.ofNat 48 h.retired
      lclk := g.lclk + BitVec.ofNat 48 h.retired
      ops := if h.redoes ch then g.ops else released h.slot g.ops } := by
  let g' : Group := { g with dix := g.dix + BitVec.ofNat 48 h.retired, lclk := g.lclk + BitVec.ofNat 48 h.retired }
  let x := (g'.slot h.slot).corrected h ch cycle
  have hset : (g'.setSlot h.slot x).sansCourse = g'.sansCourse := setSlot_sansCourse g' h.slot x
  refine (raiseFor_sansCourse ..).trans ?_
  split
  · exact hset
  · have hops : (g'.setSlot h.slot x).ops = g.ops := (congrArg Group.ops hset :)
    refine (congrArg (fun y : Group => { y with ops := released h.slot (g'.setSlot h.slot x).ops }) hset).trans ?_
    rw [hops]
    rfl

theorem repair_none_sansCourse : ((g.clearSlot h.slot).settleCounts).sansCourse = g.sansCourse := setSlot_sansCourse g h.slot _

theorem repair_vregs : (g.repair h ch cycle).vregs = restore (h.wrong ch) h.shadows g.vregs := by
  refine Eq.trans ?_ (withdrawn_vregs g h ch)
  unfold Group.repair
  split
  · exact (congrArg Group.vregs (repair_none_sansCourse (g.withdrawn h ch) h) :)
  · exact (congrArg Group.vregs (kept_sansCourse (g.withdrawn h ch) h ch cycle) :)

theorem repair_dix : (g.repair h ch cycle).dix = g.dix + BitVec.ofNat 48 (if ch = 0 then 0 else h.retired) := by
  rw [← withdrawn_dix g h ch]
  unfold Group.repair
  split
  · exact (congrArg Group.dix (repair_none_sansCourse (g.withdrawn h ch) h) :).trans (BitVec.add_zero _).symm
  · exact (congrArg Group.dix (kept_sansCourse (g.withdrawn h ch) h ch cycle) :)

theorem repair_ops : (g.repair h ch cycle).ops =
    if ch = 0 ∨ h.redoes ch = true then (g.withdrawn h ch).ops else released h.slot (g.withdrawn h ch).ops := by
  unfold Group.repair
  by_cases hch : ch = 0
  · rw [if_pos hch, if_pos (.inl hch)]
    exact (congrArg Group.ops (repair_none_sansCourse (g.withdrawn h ch) h) :)
  · rw [if_neg hch]
    refine (congrArg Group.ops (kept_sansCourse (g.withdrawn h ch) h ch cycle) :).trans ?_
    simp only [hch, false_or]

theorem repair_sansRepair : (g.repair h ch cycle).sansRepair = g.sansRepair := by
  refine Eq.trans ?_ (withdrawn_sansRepair g h ch)
  unfold Group.repair
  split
  · exact sansRepair_of_sansCourse _ (repair_none_sansCourse (g.withdrawn h ch) h)
  · exact (congrArg (fun x : Group => { x with vregs := [], results := [], ops := [], dix := 0, lclk := 0 })
      (kept_sansCourse (g.withdrawn h ch) h ch cycle) :)

end

/-! ### The slots after the repair of a half -/

section
variable (g : Group) (h : Half) (ch : Mask) (cycle : Nat)

theorem halt_slot_same (k : Nat) : ∃ idx, (g.halt k).slot k = { g.slot k with running := none, resumeIdx := idx } := by
  unfold Group.halt
  split
  next hr =>
    refine ⟨(g.slot k).resumeIdx, ?_⟩
    rw [← hr]
  next r hr => exact ⟨_, g.slot_setSlot_same k _⟩

theorem halt_slot_other {j k : Nat} (hjk : k = 0 ∧ j ≠ 0 ∨ k ≠ 0 ∧ j = 0) : (g.halt k).slot j = g.slot j := by
  unfold Group.halt
  split
  · rfl
  · exact g.slot_setSlot_other _ hjk

theorem withdrawn_slot (j : Nat) : (g.withdrawn h ch).slot j = (g.halted h ch).slot j := undo_slot ..

theorem kept_slot (j : Nat) : ((g.kept h ch cycle).slot j).sansRedo =
    ((g.setSlot h.slot ((g.slot h.slot).corrected h ch cycle)).slot j).sansRedo := by
  refine (raiseFor_slot ..).trans ?_
  unfold Group.setSlot Group.slot Group.releaseHeld
  by_cases hk : h.slot = 0 <;> by_cases hj : j = 0 <;> simp [hk, hj, apply_ite]

/-- The repair of a half leaves the other slot. -/
theorem repair_slot_other {j : Nat} (hj : h.slot = 0 ∧ j ≠ 0 ∨ h.slot ≠ 0 ∧ j = 0) :
    ((g.repair h ch cycle).slot j).sansRedo = (g.slot j).sansRedo := by
  have hhalted : (g.halted h ch).slot j = g.slot j := by
    unfold Group.halted
    split
    · exact halt_slot_other g hj
    · rfl
  refine Eq.trans ?_ (congrArg Slot.sansRedo ((withdrawn_slot g h ch j).trans hhalted))
  unfold Group.repair
  split
  · exact congrArg Slot.sansRedo ((g.withdrawn h ch).slot_setSlot_other _ hj)
  · exact (kept_slot ..).trans (congrArg Slot.sansRedo ((g.withdrawn h ch).slot_setSlot_other _ hj))

/-- A half without a correct lane empties. -/
theorem repair_mask_of_none : ((g.repair h 0 cycle).slot h.slot).mask = 0 := by
  unfold Group.repair
  rw [if_pos rfl]
  exact congrArg Slot.mask ((g.withdrawn h 0).slot_setSlot_same h.slot _)

variable {ch}

theorem repair_slot_same (hch : ch ≠ 0) : ((g.repair h ch cycle).slot h.slot).sansRedo =
    (((g.halted h ch).slot h.slot).corrected h ch cycle).sansRedo := by
  unfold Group.repair
  rw [if_neg hch, kept_slot, Group.slot_setSlot_same, withdrawn_slot]

/-- A half that lacks lanes is to replay its clauses in those. -/
theorem repair_replays (hch : ch ≠ 0) (hredo : h.redoes ch = true) :
    let S := (g.repair h ch cycle).slot h.slot
    S.mask = h.lacks ch ∧ S.finalMask = ch ∧ S.replays = h.again ∧ S.running = none := by
  have hslot := repair_slot_same g h cycle hch
  obtain ⟨idx, hhalt⟩ := halt_slot_same g h.slot
  have hhalted : (g.halted h ch).slot h.slot = { g.slot h.slot with running := none, resumeIdx := idx } := by
    unfold Group.halted
    rw [if_pos (by simp [hredo]), hhalt]
  rw [hhalted, Slot.corrected, if_pos hredo] at hslot
  exact ⟨(congrArg Slot.mask hslot :), (congrArg Slot.finalMask hslot :), (congrArg Slot.replays hslot :),
    (congrArg Slot.running hslot :)⟩

/-- Another half takes its correct lanes at once. -/
theorem repair_corrects (hch : ch ≠ 0) (hredo : h.redoes ch = false) : ((g.repair h ch cycle).slot h.slot).place =
    (ch, (g.slot h.slot).pc, (g.slot h.slot).join) := by
  have hslot := repair_slot_same g h cycle hch
  have hhalted : g.halted h ch = g := if_neg (by simpa [hredo] using hch)
  rw [hhalted, Slot.corrected, if_neg (by simp [hredo])] at hslot
  exact (congrArg Slot.place hslot :)

end

/-! ### The operations after the repair of a half -/

section
variable {g : Group} (h : Half) (ch : Mask) (cycle : Nat) {n : Nat}

theorem halted_ops : (g.halted h ch).ops = g.ops := (congrArg Group.ops (halted_sansCourse g h ch) :)

theorem dget_released (k : Nat) (ops : Dict Op) : dget (released k ops) n =
    (dget ops n).map (Op.released k) :=
  dget_map (f := fun e : Nat × Op => (e.1, e.2.released k)) (fun _ => rfl) ops n

theorem keysRise_repair (hrise : keysRise g.ops = true) : keysRise (g.repair h ch cycle).ops = true := by
  have hwithdrawn : keysRise (g.withdrawn h ch).ops = true :=
    keysRise_undo (g := g.halted h ch) h _ _ _ ((halted_ops h ch).symm ▸ hrise)
  rw [repair_ops]
  split
  · exact hwithdrawn
  · exact keysRise_map (f := fun e => (e.1, e.2.released h.slot)) (fun _ => rfl) hwithdrawn

theorem dget_repair_of_none (ho : dget g.ops n = none) : dget (g.repair h ch cycle).ops n = none := by
  have hwithdrawn : dget (g.withdrawn h ch).ops n = none :=
    dget_undo_of_none (g := g.halted h ch) h _ _ _ ((halted_ops h ch).symm ▸ ho)
  rw [repair_ops]
  split
  · exact hwithdrawn
  · rw [dget_released, hwithdrawn, Option.map_none]

variable {o : Op} (hrise : keysRise g.ops = true) (ho : dget g.ops n = some o)
include hrise ho

theorem dget_withdrawn : dget (g.withdrawn h ch).ops n =
    if (o.undone h.slot (h.wrong ch) (ch == 0) (h.redoes ch)).2 then none
    else some (o.undone h.slot (h.wrong ch) (ch == 0) (h.redoes ch)).1 :=
  dget_undo (g := g.halted h ch) h _ _ _ ((halted_ops h ch).symm ▸ hrise) ((halted_ops h ch).symm ▸ ho)

/-- The repair of a half leaves the operations of the other slot. -/
theorem dget_repair_other (hslot : o.slot ≠ h.slot) : dget (g.repair h ch cycle).ops n = some o := by
  have hwithdrawn := dget_withdrawn h ch hrise ho
  rw [undone_other hslot] at hwithdrawn
  simp only [Bool.false_eq_true, if_false] at hwithdrawn
  rw [repair_ops]
  split
  · exact hwithdrawn
  · simp [dget_released, hwithdrawn, Op.released, hslot]

/-- A store of a half that has correct lanes loses its wrong lanes, and completes where no other is left; it is released
unless the half replays clauses. -/
theorem dget_repair_store (hch : ch ≠ 0) (hslot : o.slot = h.slot) (hhalf : o.half = true) {order : Order} {scope : Scope} {b : Nat}
    {accs : List (LaneAcc × List Byte)} (hkind : o.kind = .store order scope b accs) :
    let rest := accs.filter (fun a => !(h.wrong ch).getLsbD a.1.lane)
    (rest = [] → accs ≠ [] → dget (g.repair h ch cycle).ops n = none) ∧
    (rest ≠ [] → dget (g.repair h ch cycle).ops n =
      some { o with half := h.redoes ch, kind := .store order scope b rest }) := by
  intro rest
  have hundone : o.undone h.slot (h.wrong ch) (ch == 0) (h.redoes ch) =
      ({ o with kind := .store order scope b rest }, rest.isEmpty && !accs.isEmpty) := by
    have hall : (ch == 0) = false := beq_eq_false_iff_ne.mpr hch
    rw [hall]
    simp [Op.undone, hslot, hhalf, hkind, rest]
  have hwithdrawn := dget_withdrawn h ch hrise ho
  rw [hundone] at hwithdrawn
  rw [repair_ops]
  refine ⟨fun hnone haccs => ?_, fun hrest => ?_⟩
  · have hgone : dget (g.withdrawn h ch).ops n = none := by simpa [hnone, haccs] using hwithdrawn
    split
    · exact hgone
    · rw [dget_released, hgone, Option.map_none]
  · have hstays : dget (g.withdrawn h ch).ops n = some { o with kind := .store order scope b rest } := by
      simpa [hrest] using hwithdrawn
    by_cases hredo : h.redoes ch = true
    · rw [if_pos (.inr hredo), hstays, hredo, ← hhalf]
    · rw [if_neg (not_or.mpr ⟨hch, hredo⟩), dget_released, hstays]
      simp [Op.released, hslot, hredo]

end

end Sys2Proof.Machine
end

section
/-!
PROOFS. O25, third part: PREDICTION_REPAIR (R133, R134).
-/
namespace Sys2Proof.Machine

/-! ### The end of the repair -/

/-- Is the outcome of the branch mixed? -/
def Spec.mixed (p : Spec) : Bool := p.taken != 0 && (p.sMask &&& ~~~p.taken) != 0

theorem mixed_iff (p : Spec) : p.mixed = true ↔ p.taken ≠ 0 ∧ p.sMask &&& ~~~p.taken ≠ 0 := by
  rw [Spec.mixed, Bool.and_eq_true, bne_iff_ne, bne_iff_ne]

/-- The join that a slot of join J has after the repair: the joined lanes of an outcome that is not mixed go on to the join of
the slot that branched. -/
def Spec.joinAfter (p : Spec) (J : Word64) : Word64 := if p.mixed then J else p.sJoin

/-- The spill stack after the repair. -/
def Spec.spillAfter (p : Spec) (l : List SpillEntry) : List SpillEntry :=
  if p.mixed && p.join != p.sJoin then
    { pc := p.join, mask := p.sMask, join := p.sJoin, fmt := p.sFmt, brxrest := false } :: l
  else l

/-- Slot k takes the join of the slot that branched. -/
def Group.rejoin (g : Group) (p : Spec) (k : Nat) : Group :=
  if (g.slot k).live then g.setSlot k { g.slot k with join := p.sJoin } else g

/-- The group with its prediction ended and counted. -/
def Group.closed (g : Group) (p : Spec) (cycle : Nat) : Group :=
  { g with
    spec := none
    closedAt := some cycle
    mphit := if p.guess == p.taken then g.mphit + 1 else g.mphit
    mpmiss := if p.guess == p.taken then g.mpmiss else g.mpmiss + 1
    spill := p.spillAfter g.spill }

theorem settleSpec_eq (g : Group) (p : Spec) (cycle : Nat) : g.settleSpec p cycle =
    ((if p.mixed then g.closed p cycle else ((g.closed p cycle).rejoin p 0).rejoin p 1).joinEmpty 0).joinEmpty 1 := by
  unfold Group.settleSpec Group.closed Group.rejoin Spec.spillAfter
  change Group.joinEmpty (Group.joinEmpty (if p.mixed = true then _ else _) 0) 1 = _
  congr 2
  cases p.mixed
  · rfl
  · cases p.join != p.sJoin <;> rfl

/-- A slot that has come to its join, with nothing left to do, empties. -/
def Slot.ended (x : Slot) : Slot :=
  if x.live && x.pc == x.join && x.replays.isEmpty && x.running.isNone && x.resumeIdx == 0 then
    { emptySlot with stamp := x.stamp }
  else x

/-- A slot after the repair. -/
def Slot.settled (p : Spec) (x : Slot) : Slot :=
  (if x.live then { x with join := p.joinAfter x.join } else x).ended

/-- A step on each slot of its own. -/
theorem slot_each {f : Group → Nat → Group} {φ : Slot → Slot} (hsame : ∀ g k, (f g k).slot k = φ (g.slot k))
    (hother : ∀ g k j, (k = 0 ∧ j ≠ 0 ∨ k ≠ 0 ∧ j = 0) → (f g k).slot j = g.slot j) (g : Group) {j : Nat} (hj : j ≤ 1) :
    (f (f g 0) 1).slot j = φ (g.slot j) := by
  obtain rfl | rfl := Nat.le_one_iff_eq_zero_or_eq_one.mp hj
  · rw [hother _ _ _ (by omega), hsame]
  · rw [hsame, hother _ _ _ (by omega)]

theorem slot_joinEmpty (g : Group) {j : Nat} (hj : j ≤ 1) : ((g.joinEmpty 0).joinEmpty 1).slot j = (g.slot j).ended := by
  refine slot_each (fun g k => ?_) (fun g k j hjk => ?_) g hj
  · unfold Group.joinEmpty Slot.ended Group.clearSlot
    dsimp only
    split
    · exact g.slot_setSlot_same k _
    · rfl
  · unfold Group.joinEmpty Group.clearSlot
    dsimp only
    split
    · exact g.slot_setSlot_other _ hjk
    · rfl

theorem slot_rejoin (g : Group) (p : Spec) {j : Nat} (hj : j ≤ 1) : ((g.rejoin p 0).rejoin p 1).slot j =
    if (g.slot j).live then { g.slot j with join := p.sJoin } else g.slot j := by
  refine slot_each (f := fun g => g.rejoin p) (φ := fun x => if x.live then { x with join := p.sJoin } else x)
    (fun g k => ?_) (fun g k j hjk => ?_) g hj
  · unfold Group.rejoin
    split
    · exact g.slot_setSlot_same k _
    · rfl
  · unfold Group.rejoin
    split
    · exact g.slot_setSlot_other _ hjk
    · rfl

theorem slot_settleSpec (g : Group) (p : Spec) (cycle : Nat) {j : Nat} (hj : j ≤ 1) :
    (g.settleSpec p cycle).slot j = (g.slot j).settled p := by
  have hclosed : (g.closed p cycle).slot j = g.slot j := rfl
  rw [settleSpec_eq, slot_joinEmpty _ hj, Slot.settled]
  congr 1
  unfold Spec.joinAfter
  cases p.mixed
  · exact (slot_rejoin (g.closed p cycle) p hj).trans (by rw [hclosed]; rfl)
  · exact hclosed.trans (ite_self _).symm

theorem settled_of_empty (p : Spec) {x : Slot} (h : x.mask = 0) : (x.settled p).mask = 0 := by
  have hlive : x.live = false := by simp [Slot.live, h]
  unfold Slot.settled Slot.ended
  simp [hlive, h]

/-- A slot that has something left to do keeps its lanes. -/
theorem settled_of_busy (p : Spec) {x : Slot} (hmask : x.mask ≠ 0) (h : x.replays ≠ [] ∨ x.pc ≠ p.joinAfter x.join) :
    x.settled p = { x with join := p.joinAfter x.join } := by
  have hlive : x.live = true := bne_iff_ne.mpr hmask
  unfold Slot.settled Slot.ended
  rw [if_pos hlive]
  refine if_neg ?_
  simp only [Bool.and_eq_true, List.isEmpty_iff, beq_iff_eq]
  rintro ⟨⟨⟨⟨-, hpc⟩, hreplays⟩, -⟩, -⟩
  exact h.elim (fun h => h hreplays) (fun h => h hpc)

/-! ### The side that was not placed -/

section
variable {g : Group} {x : Side} (p : Spec) (cycle : Nat)

theorem openSide_of_half (hx : x.half.isSome = true) : g.openSide x p cycle = g := if_pos (by simp [hx])

theorem openSide_of_empty (hx : x.ch = 0) : g.openSide x p cycle = g := if_pos (by simp [hx])

/-- The slot that takes the side: the empty one. -/
def Group.freeSlot (g : Group) (k : Nat) : Nat := if (g.slot k).live then 1 - k else k

theorem openSide_opens (hhalf : x.half = none) (hch : x.ch ≠ 0) : ∃ first, g.openSide x p cycle =
    { g.setSlot (g.freeSlot p.slot) { emptySlot with pc := x.pc, mask := x.ch, join := p.join, fmt := p.sFmt,
                                                      stamp := (g.slot (g.freeSlot p.slot)).stamp, eligFrom := cycle + 1 } with
      first := first } := by
  unfold Group.openSide
  rw [if_neg (by simpa [hhalf] using hch)]
  dsimp only
  split
  · exact ⟨_, rfl⟩
  · exact ⟨_, rfl⟩

/-- A group without what the opening of a side changes. -/
def Group.sansSlots (g : Group) : Group := { g.sansCourse with first := 0 }

theorem openSide_sansSlots : (g.openSide x p cycle).sansSlots = g.sansSlots := by
  by_cases hhalf : x.half = none
  · by_cases hch : x.ch = 0
    · rw [openSide_of_empty p cycle hch]
    · obtain ⟨first, heq⟩ := openSide_opens (g := g) p cycle hhalf hch
      rw [heq]
      exact congrArg (fun y : Group => { y with first := 0 }) (setSlot_sansCourse g _ _)
  · rw [openSide_of_half p cycle (Option.isSome_iff_ne_none.mpr hhalf)]

end

theorem settleSpec_sansSlots (g : Group) (p : Spec) (cycle : Nat) :
    (g.settleSpec p cycle).sansSlots = (g.closed p cycle).sansSlots := by
  have ends (g : Group) (k : Nat) : (g.joinEmpty k).sansCourse = g.sansCourse := by
    unfold Group.joinEmpty Group.clearSlot
    dsimp only
    split
    · exact setSlot_sansCourse g k _
    · rfl
  have joins (g : Group) (k : Nat) : (g.rejoin p k).sansCourse = g.sansCourse := by
    unfold Group.rejoin
    split
    · exact setSlot_sansCourse g k _
    · rfl
  refine congrArg (fun y : Group => { y with first := 0 }) ?_
  rw [settleSpec_eq, ends, ends]
  split
  · rfl
  · rw [joins, joins]

section
variable {x y : Group}

theorem banks_of_sansSlots (e : x.sansSlots = y.sansSlots) :
    x.vregs = y.vregs ∧ x.sregs = y.sregs ∧ x.preds = y.preds ∧ x.ops = y.ops ∧ x.dix = y.dix :=
  ⟨(congrArg Group.vregs e :), (congrArg Group.sregs e :), (congrArg Group.preds e :), (congrArg Group.ops e :),
    (congrArg Group.dix e :)⟩

theorem prediction_of_sansSlots (e : x.sansSlots = y.sansSlots) :
    x.spec = y.spec ∧ x.mphit = y.mphit ∧ x.mpmiss = y.mpmiss ∧ x.spill = y.spill :=
  ⟨(congrArg Group.spec e :), (congrArg Group.mphit e :), (congrArg Group.mpmiss e :), (congrArg Group.spill e :)⟩

theorem fields_of_sansRepair (e : x.sansRepair = y.sansRepair) :
    x.sregs = y.sregs ∧ x.preds = y.preds ∧ x.mphit = y.mphit ∧ x.mpmiss = y.mpmiss ∧ x.spill = y.spill :=
  ⟨(congrArg Group.sregs e :), (congrArg Group.preds e :), (congrArg Group.mphit e :), (congrArg Group.mpmiss e :),
    (congrArg Group.spill e :)⟩

end

/-! ### PREDICTION_REPAIR as a change of its group -/

/-- The repair of a side's half, if it was placed. -/
def State.repairSide (s : State) (gid : Nat) (x : Side) : State :=
  match x.half with
  | some h => s.repairHalf gid x h
  | none => s
def Group.repairSide (cycle : Nat) (g : Group) (x : Side) : Group :=
  match x.half with
  | some h => g.repair h x.ch cycle
  | none => g

/-- The group with its placed halves repaired, and with its sides open. -/
def Group.repairSides (g : Group) (p : Spec) (cycle : Nat) : Group := p.sides.foldl (Group.repairSide cycle) g
def Group.openSides (g : Group) (p : Spec) (cycle : Nat) : Group := p.sides.foldl (fun g x => g.openSide x p cycle) g

/-- The group after PREDICTION_REPAIR. -/
def Group.repaired (g : Group) (p : Spec) (cycle : Nat) : Group := ((g.repairSides p cycle).openSides p cycle).settleSpec p cycle

theorem repairSides_group {gid : Nat} {l : List Side} (hl : ∀ x ∈ l, ∀ h, x.half = some h → x.ph = h.ph) {s : State} {g : Group}
    (hg : s.group? gid = some g) :
    let t := l.foldl (fun s x => s.repairSide gid x) s
    t.group? gid = some (l.foldl (Group.repairSide s.cycle) g) ∧ t.cycle = s.cycle ∧ t.mem = s.mem := by
  induction l generalizing s g with
  | nil => exact ⟨hg, rfl, rfl⟩
  | cons x l ih =>
    have one : (s.repairSide gid x).group? gid = some (g.repairSide s.cycle x) ∧ (s.repairSide gid x).cycle = s.cycle ∧
        (s.repairSide gid x).mem = s.mem := by
      unfold State.repairSide Group.repairSide
      split
      next h hh =>
        obtain ⟨hgroup, hcycle⟩ := repairHalf_repairs hg (hl x List.mem_cons_self h hh)
        exact ⟨hgroup, hcycle, State.repairHalf_mem ..⟩
      next => exact ⟨hg, rfl, rfl⟩
    obtain ⟨hgroup, hcycle, hmem⟩ := one
    obtain ⟨hgroup', hcycle', hmem'⟩ := ih (fun y hy => hl y (List.mem_cons_of_mem _ hy)) hgroup
    rw [hcycle] at hgroup' hcycle'
    exact ⟨hgroup', hcycle', hmem'.trans hmem⟩

theorem sides_ph (p : Spec) : ∀ x ∈ p.sides, ∀ h, x.half = some h → x.ph = h.ph := by
  have found {m : Mask} {h : Half} (hh : (if m = 0 then none else p.halves.find? (fun h => h.ph == m)) = some h) : m = h.ph := by
    obtain ⟨-, hfind⟩ := Option.ite_none_left_eq_some.mp hh
    have hph : (h.ph == m) = true := List.find?_some (p := fun h : Half => h.ph == m) hfind
    exact (beq_iff_eq.mp hph).symm
  intro x hx h hh
  obtain rfl | rfl : _ ∨ _ := by simpa [Spec.sides] using hx
  · exact found hh
  · exact found hh

theorem exec_predictionRepair {s : State} {gid : Nat} {g : Group} {p : Spec} (hg : s.group? gid = some g) (hp : g.spec = some p)
    (hres : p.resolved = true) (hdue : p.issueAt + 8 ≤ s.cycle) (hroom : p.overflows g.spill.length = false) :
    ∃ t, exec (.predictionRepair gid) s = .next t ∧ t.group? gid = some (g.repaired p s.cycle) ∧ t.mem = s.mem := by
  let t := p.sides.foldl (fun s x => s.repairSide gid x) s
  obtain ⟨hgroup, hcycle, hmem⟩ := repairSides_group (sides_ph p) hg
  refine ⟨t.modGroup gid (fun g => (g.openSides p t.cycle).settleSpec p t.cycle), ?_, ?_, (State.modGroup_mem ..).trans hmem⟩
  · show Host.Outcome.next _ = _
    congr 1
    simp only [hg, hp, hres, hroom, Nat.not_lt.mpr hdue, decide_false, Bool.not_true, Bool.or_self, Bool.false_eq_true, if_false]
    rfl
  · rw [group?_modGroup_same hgroup, hcycle]
    rfl

theorem repairSides_sansRepair (g : Group) (p : Spec) (cycle : Nat) : (g.repairSides p cycle).sansRepair = g.sansRepair := by
  unfold Group.repairSides
  induction p.sides generalizing g with
  | nil => rfl
  | cons x l ih =>
    refine (ih _).trans ?_
    unfold Group.repairSide
    split
    · exact repair_sansRepair ..
    · rfl

theorem openSides_sansSlots (g : Group) (p : Spec) (cycle : Nat) : (g.openSides p cycle).sansSlots = g.sansSlots := by
  unfold Group.openSides
  induction p.sides generalizing g with
  | nil => rfl
  | cons x l ih => exact (ih _).trans (openSide_sansSlots p cycle)

/-- The end of the prediction, and the stack. -/
theorem repaired_prediction (g : Group) (p : Spec) (cycle : Nat) :
    let h := g.repaired p cycle
    h.spec = none ∧ h.mphit = (if p.guess = p.taken then g.mphit + 1 else g.mphit) ∧
    h.mpmiss = (if p.guess = p.taken then g.mpmiss else g.mpmiss + 1) ∧ h.spill = p.spillAfter g.spill := by
  intro h
  obtain ⟨hspec, hmphit, hmpmiss, hspill⟩ :=
    prediction_of_sansSlots (settleSpec_sansSlots ((g.repairSides p cycle).openSides p cycle) p cycle)
  obtain ⟨-, hmphit₁, hmpmiss₁, hspill₁⟩ := prediction_of_sansSlots (openSides_sansSlots (g.repairSides p cycle) p cycle)
  obtain ⟨-, -, hmphit₂, hmpmiss₂, hspill₂⟩ := fields_of_sansRepair (repairSides_sansRepair g p cycle)
  refine ⟨hspec, hmphit.trans ?_, hmpmiss.trans ?_, hspill.trans ?_⟩
  · simp only [Group.closed, beq_iff_eq, hmphit₁, hmphit₂]
  · simp only [Group.closed, beq_iff_eq, hmpmiss₁, hmpmiss₂]
  · simp only [Group.closed, hspill₁, hspill₂]

/-- The banks of registers, the operations and DIX are those that the repairs of the halves leave. -/
theorem repaired_banks (g : Group) (p : Spec) (cycle : Nat) :
    let h := g.repaired p cycle
    let g' := g.repairSides p cycle
    h.vregs = g'.vregs ∧ h.sregs = g'.sregs ∧ h.preds = g'.preds ∧ h.ops = g'.ops ∧ h.dix = g'.dix := by
  intro h g'
  obtain ⟨hvregs, hsregs, hpreds, hops, hdix⟩ := banks_of_sansSlots (settleSpec_sansSlots (g'.openSides p cycle) p cycle)
  obtain ⟨hvregs', hsregs', hpreds', hops', hdix'⟩ := banks_of_sansSlots (openSides_sansSlots g' p cycle)
  exact ⟨hvregs.trans hvregs', hsregs.trans hsregs', hpreds.trans hpreds', hops.trans hops', hdix.trans hdix'⟩

theorem repair_ends (s : State) (gid : Nat) (g : Group) (p : Spec) (hg : s.group? gid = some g) (hp : g.spec = some p)
    (hres : p.resolved = true) (hdue : p.issueAt + 8 ≤ s.cycle) (hroom : p.overflows g.spill.length = false) :
    ∃ t h, exec (.predictionRepair gid) s = .next t ∧ t.group? gid = some h ∧ h.spec = none ∧
      h.mphit = (if p.guess = p.taken then g.mphit + 1 else g.mphit) ∧
      h.mpmiss = (if p.guess = p.taken then g.mpmiss else g.mpmiss + 1) ∧ t.mem = s.mem ∧
      (let mixed := p.taken ≠ 0 ∧ p.sMask &&& ~~~p.taken ≠ 0
       (mixed ∧ p.join ≠ p.sJoin → ∃ e, h.spill = e :: g.spill ∧ e.pc = p.join ∧ e.mask = p.sMask ∧ e.join = p.sJoin ∧
          e.fmt = p.sFmt ∧ e.brxrest = false) ∧
       (¬ (mixed ∧ p.join ≠ p.sJoin) → h.spill = g.spill)) := by
  obtain ⟨t, hexec, hgroup, hmem⟩ := exec_predictionRepair hg hp hres hdue hroom
  obtain ⟨hspec, hmphit, hmpmiss, hspill⟩ := repaired_prediction g p s.cycle
  refine ⟨t, g.repaired p s.cycle, hexec, hgroup, hspec, hmphit, hmpmiss, hmem, fun hpush => ?_, fun hnone => ?_⟩
  · rw [← mixed_iff] at hpush
    exact ⟨_, hspill.trans (if_pos (by simpa using hpush)), rfl, rfl, rfl, rfl, rfl⟩
  · rw [← mixed_iff] at hnone
    exact hspill.trans (if_neg (by simpa using hnone))

end Sys2Proof.Machine
end

section
/-!
PROOFS. O25, fourth part: the repair of halves that stand as R131 places them.
-/
namespace Sys2Proof.Machine

/-! ### Halves apart -/

/-- The lanes of the branch that a half rightly has. -/
def Spec.right (p : Spec) (x : Half) : Mask := if x.ph = p.guess then p.taken else p.sMask &&& ~~~p.taken

/-- Two halves in different slots, with no lane in common. -/
def Half.apart (x y : Half) : Prop := (x.slot = 0 ∧ y.slot ≠ 0 ∨ x.slot ≠ 0 ∧ y.slot = 0) ∧ x.ph &&& y.ph = 0

theorem apart_symm {x y : Half} (h : x.apart y) : y.apart x :=
  ⟨h.1.symm.imp And.symm And.symm, (BitVec.and_comm ..).trans h.2⟩

/-- The lanes of two halves have nothing in common. -/
theorem wrong_of_apart {x y : Half} (h : x.apart y) {i : Nat} (hx : x.ph.getLsbD i = true) (ch : Mask) :
    (y.wrong ch).getLsbD i = false := by
  have hand : (x.ph &&& y.ph).getLsbD i = false := by rw [h.2]; exact BitVec.getLsbD_zero
  rw [BitVec.getLsbD_and, hx, Bool.true_and] at hand
  rw [Half.wrong, BitVec.getLsbD_and, hand, Bool.false_and]

theorem ph_of_wrong {x : Half} {ch : Mask} {i : Nat} (h : (x.wrong ch).getLsbD i = true) : x.ph.getLsbD i = true := by
  rw [Half.wrong, BitVec.getLsbD_and, Bool.and_eq_true] at h
  exact h.1

/-! ### The repair of several halves -/

/-- The halves of a list repaired one after another. -/
def Group.repairAll (g : Group) (p : Spec) (cycle : Nat) (l : List Half) : Group :=
  l.foldl (fun g x => g.repair x (p.right x) cycle) g

section
variable (p : Spec) (cycle : Nat) (l : List Half)

theorem repairAll_append (g : Group) (pre post : List Half) (x : Half) : g.repairAll p cycle (pre ++ x :: post) =
    ((g.repairAll p cycle pre).repair x (p.right x) cycle).repairAll p cycle post :=
  List.foldl_append

theorem repairAll_dix (g : Group) : (g.repairAll p cycle l).dix =
    g.dix + BitVec.ofNat 48 ((l.map (fun x => if p.right x = 0 then 0 else x.retired)).sum) := by
  induction l generalizing g with
  | nil => exact (BitVec.add_zero _).symm
  | cons x l ih =>
    refine (ih (g.repair x (p.right x) cycle)).trans ?_
    rw [repair_dix, BitVec.add_assoc, ← BitVec.ofNat_add, List.map_cons, List.sum_cons]

theorem lane_repairAll (g : Group) (n : Nat) {i : Nat} (hi : i < 64) (h : ∀ x ∈ l, (x.wrong (p.right x)).getLsbD i = false) :
    lane (tget 0 (g.repairAll p cycle l).vregs n) i = lane (tget 0 g.vregs n) i := by
  induction l generalizing g with
  | nil => rfl
  | cons x l ih =>
    refine (ih (g.repair x (p.right x) cycle) fun y hy => h y (List.mem_cons_of_mem _ hy)).trans ?_
    rw [repair_vregs, lane_restore_kept hi _ _ (.inl (h x List.mem_cons_self))]

theorem keysRise_repairAll {g : Group} (h : keysRise g.ops = true) : keysRise (g.repairAll p cycle l).ops = true := by
  induction l generalizing g with
  | nil => exact h
  | cons x l ih => exact ih (keysRise_repair x (p.right x) cycle h)

theorem dget_repairAll_of_none {g : Group} {n : Nat} (h : dget g.ops n = none) : dget (g.repairAll p cycle l).ops n = none := by
  induction l generalizing g with
  | nil => exact h
  | cons x l ih => exact ih (dget_repair_of_none x (p.right x) cycle h)

variable {l} {x : Half} (hl : ∀ y ∈ l, x.apart y)
include hl

theorem slot_repairAll (g : Group) : ((g.repairAll p cycle l).slot x.slot).sansRedo = (g.slot x.slot).sansRedo := by
  induction l generalizing g with
  | nil => rfl
  | cons y l ih =>
    exact (ih (fun z hz => hl z (List.mem_cons_of_mem _ hz)) (g.repair y (p.right y) cycle)).trans
      (repair_slot_other g y (p.right y) cycle (apart_symm (hl y List.mem_cons_self)).1)

theorem dget_repairAll {g : Group} (hrise : keysRise g.ops = true) {n : Nat} {o : Op} (ho : dget g.ops n = some o)
    (hslot : o.slot = x.slot) : dget (g.repairAll p cycle l).ops n = some o := by
  induction l generalizing g with
  | nil => exact ho
  | cons y l ih =>
    have hne : o.slot ≠ y.slot := by
      obtain ⟨hslots, -⟩ := hl y List.mem_cons_self
      omega
    exact ih (fun z hz => hl z (List.mem_cons_of_mem _ hz)) (keysRise_repair y (p.right y) cycle hrise)
      (dget_repair_other y (p.right y) cycle hrise ho hne)

end

/-! ### A half among the others -/

section
variable {p : Spec} {x : Half} (hp : p.halves.Pairwise Half.apart) (hx : x ∈ p.halves) (g : Group) (cycle : Nat)
include hp hx

/-- The repair of all halves is that of x, of the halves before it and of those behind it, which are apart from x. -/
theorem repairAll_around : ∃ pre post, (∀ y ∈ pre, x.apart y) ∧ (∀ y ∈ post, x.apart y) ∧
    g.repairAll p cycle p.halves = ((g.repairAll p cycle pre).repair x (p.right x) cycle).repairAll p cycle post := by
  obtain ⟨pre, post, hsplit⟩ := List.append_of_mem hx
  rw [hsplit, List.pairwise_append, List.pairwise_cons] at hp
  obtain ⟨-, ⟨hpost, -⟩, hpre⟩ := hp
  exact ⟨pre, post, fun y hy => apart_symm (hpre y hy x List.mem_cons_self), hpost, by rw [hsplit, repairAll_append]⟩

/-- Of x's slot the repair of all halves makes what its own repair makes of it. -/
theorem slot_repairAll_mem : ∃ g' : Group, (g'.slot x.slot).sansRedo = (g.slot x.slot).sansRedo ∧
    ((g.repairAll p cycle p.halves).slot x.slot).sansRedo = ((g'.repair x (p.right x) cycle).slot x.slot).sansRedo := by
  obtain ⟨pre, post, hpre, hpost, heq⟩ := repairAll_around hp hx g cycle
  exact ⟨g.repairAll p cycle pre, slot_repairAll p cycle hpre g, by rw [heq, slot_repairAll p cycle hpost]⟩

/-- A line that x has shadowed once comes back in x's wrong lanes. -/
theorem lane_repairAll_shadowed {e : Nat × Line} (he : e ∈ x.shadows) (honce : ∀ d ∈ x.shadows, d.1 = e.1 → d = e) {i : Nat}
    (hi : i < 64) (hwrong : (x.wrong (p.right x)).getLsbD i = true) :
    lane (tget 0 (g.repairAll p cycle p.halves).vregs e.1) i = lane e.2 i := by
  obtain ⟨pre, post, -, hpost, heq⟩ := repairAll_around hp hx g cycle
  rw [heq, lane_repairAll p cycle post _ _ hi fun y hy => wrong_of_apart (hpost y hy) (ph_of_wrong hwrong) _, repair_vregs]
  exact lane_restore_shadowed hi he honce hwrong _

/-- What becomes of a store that x holds. -/
theorem dget_repairAll_store (hrise : keysRise g.ops = true) (hright : p.right x ≠ 0) {n : Nat} {o : Op}
    (ho : dget g.ops n = some o) (hslot : o.slot = x.slot) (hhalf : o.half = true) {order : Order} {scope : Scope} {b : Nat}
    {accs : List (LaneAcc × List Byte)} (hkind : o.kind = .store order scope b accs) :
    let rest := accs.filter (fun a => !(x.wrong (p.right x)).getLsbD a.1.lane)
    (rest = [] → accs ≠ [] → dget (g.repairAll p cycle p.halves).ops n = none) ∧
    (rest ≠ [] → dget (g.repairAll p cycle p.halves).ops n =
      some { o with half := x.redoes (p.right x), kind := .store order scope b rest }) := by
  obtain ⟨pre, post, hpre, hpost, heq⟩ := repairAll_around hp hx g cycle
  have hrise' := keysRise_repairAll p cycle pre hrise
  obtain ⟨gone, stays⟩ := dget_repair_store x (p.right x) cycle hrise' (dget_repairAll p cycle hpre hrise ho hslot) hright hslot
    hhalf hkind
  rw [heq]
  exact ⟨fun hrest haccs => dget_repairAll_of_none p cycle post (gone hrest haccs),
    fun hrest => dget_repairAll p cycle hpost (keysRise_repair x _ cycle hrise') (stays hrest) hslot⟩

end

/-! ### The halves of a predicted branch (R131) -/

/-- The sides of a branch whose halves are placed: both, or the one of an outcome predicted uniform. -/
theorem sides_of_placed {p : Spec} (hp : p.placed) :
    (∃ a b, p.halves = [a, b] ∧ a.apart b ∧ a.slot ≤ 1 ∧ b.slot ≤ 1 ∧ p.guess ≠ 0 ∧ p.guess ≠ p.sMask ∧
      p.sides = [⟨p.target, p.guess, p.right a, some a⟩, ⟨p.fall, p.sMask &&& ~~~p.guess, p.right b, some b⟩]) ∨
    (∃ a, p.halves = [a] ∧ a.slot = p.slot ∧ p.slot ≤ 1 ∧
      (p.guess = 0 ∧ p.guess ≠ p.sMask ∧
          p.sides = [⟨p.target, p.guess, p.taken, none⟩, ⟨p.fall, p.sMask &&& ~~~p.guess, p.right a, some a⟩] ∨
        p.guess = p.sMask ∧ p.guess ≠ 0 ∧
          p.sides = [⟨p.target, p.guess, p.right a, some a⟩,
            ⟨p.fall, p.sMask &&& ~~~p.guess, p.sMask &&& ~~~p.taken, none⟩])) := by
  obtain ⟨hmask, hslot, hsub, ⟨hguess, hrest, a, b, hhalves, hasl, hbsl, haph, hbph⟩ | ⟨huniform, a, hhalves, hasl, haph⟩⟩ := hp
  · have hdisjoint : p.guess &&& (p.sMask &&& ~~~p.guess) = 0 := by
      rw [← BitVec.and_assoc, BitVec.and_comm p.guess, BitVec.and_assoc, BitVec.and_not_self]
      exact BitVec.and_zero
    have hne : p.guess ≠ p.sMask &&& ~~~p.guess := fun h => hguess (by
      rw [← h, BitVec.and_self] at hdisjoint
      exact hdisjoint)
    refine .inl ⟨a, b, hhalves, ⟨by omega, by rw [haph, hbph]; exact hdisjoint⟩, by omega, by omega, hguess,
      fun h => hrest (by rw [h, BitVec.and_not_self]), ?_⟩
    have hfirst : (a.ph == p.guess) = true := beq_iff_eq.mpr haph
    have hpassed : (a.ph == p.sMask &&& ~~~p.guess) = false := beq_eq_false_iff_ne.mpr (haph.symm ▸ hne)
    have hsecond : (b.ph == p.sMask &&& ~~~p.guess) = true := beq_iff_eq.mpr hbph
    have hra : p.right a = p.taken := if_pos haph
    have hrb : p.right b = p.sMask &&& ~~~p.taken := if_neg (hbph.symm ▸ hne.symm)
    simp only [Spec.sides, hhalves, if_neg hguess, if_neg hrest, List.find?_cons, hfirst, hpassed, hsecond, hra, hrb]
  · have hone (m : Mask) : [a].find? (fun h => h.ph == m) = if p.sMask = m then some a else none := by
      by_cases hm : p.sMask = m <;> simp [haph, hm]
    refine .inr ⟨a, hhalves, hasl, hslot, ?_⟩
    by_cases hguess : p.guess = 0
    · have hne : p.guess ≠ p.sMask := fun h => hmask (h.symm.trans hguess)
      have hfall : p.sMask &&& ~~~p.guess = p.sMask := by
        rw [hguess, BitVec.ofNat_eq_ofNat, BitVec.not_zero, BitVec.and_allOnes]
      have hra : p.right a = p.sMask &&& ~~~p.taken := if_neg (haph.symm ▸ hne.symm)
      refine .inl ⟨hguess, hne, ?_⟩
      simp only [Spec.sides, hhalves, hone, hfall, if_pos hguess, if_neg hmask, if_true, hra]
    · have hrest : p.sMask &&& ~~~p.guess = 0 := huniform.resolve_left hguess
      have hall : p.guess = p.sMask := by
        refine BitVec.eq_of_getLsbD_eq fun i hi => ?_
        have h1 : (p.guess &&& ~~~p.sMask).getLsbD i = false := by rw [hsub]; exact BitVec.getLsbD_zero
        have h2 : (p.sMask &&& ~~~p.guess).getLsbD i = false := by rw [hrest]; exact BitVec.getLsbD_zero
        simp only [BitVec.getLsbD_and, BitVec.getLsbD_not, hi, decide_true, Bool.true_and] at h1 h2
        cases hb : p.guess.getLsbD i <;> simp_all
      have hra : p.right a = p.taken := if_pos (haph.trans hall.symm)
      refine .inr ⟨hall, hguess, ?_⟩
      simp only [Spec.sides, hhalves, hone, if_neg hguess, if_pos hrest, if_pos hall.symm, hra]

end Sys2Proof.Machine
end

section
/-!
PROOFS. O25: SPILL_POP, and PREDICTION_REPAIR of placed halves.
-/
namespace Sys2Proof.Machine

/-! ### Where placed halves stand -/

section
variable {p : Spec} (hp : p.placed)
include hp

theorem halves_apart : p.halves.Pairwise Half.apart := by
  obtain ⟨a, b, hhalves, hapart, -⟩ | ⟨a, hhalves, -⟩ := sides_of_placed hp
  · rw [hhalves]
    exact List.pairwise_pair.mpr hapart
  · rw [hhalves]
    exact List.pairwise_singleton _ a

theorem halves_slot : ∀ x ∈ p.halves, x.slot ≤ 1 := by
  obtain ⟨a, b, hhalves, -, ha, hb, -⟩ | ⟨a, hhalves, ha, hslot, -⟩ := sides_of_placed hp
  · rw [hhalves]
    simp [ha, hb]
  · rw [hhalves]
    simp [ha, hslot]

/-- The repair goes through the halves, each of its own side. -/
theorem repairSides_of_placed (g : Group) (cycle : Nat) : g.repairSides p cycle = g.repairAll p cycle p.halves := by
  unfold Group.repairSides
  obtain ⟨a, b, hhalves, -, -, -, -, -, hsides⟩ | ⟨a, hhalves, -, -, ⟨-, -, hsides⟩ | ⟨-, -, hsides⟩⟩ := sides_of_placed hp
  all_goals
    rw [hhalves, hsides]
    rfl

end

/-! ### The side that was not placed -/

section
variable {p : Spec} (cycle : Nat)

theorem openSide_placed (g : Group) (pc : Word64) (ph ch : Mask) (a : Half) : g.openSide ⟨pc, ph, ch, some a⟩ p cycle = g :=
  openSide_of_half p cycle rfl

theorem openSides_of_sides (g : Group) {x y : Side} (h : p.sides = [x, y]) :
    g.openSides p cycle = (g.openSide x p cycle).openSide y p cycle := by
  unfold Group.openSides
  rw [h]
  rfl

/-- The opening of a side leaves a slot that is live. -/
theorem slot_openSide_live {g : Group} {x : Side} (hk : p.slot ≤ 1) (hhalf : x.half = none) (hlive : (g.slot p.slot).mask ≠ 0) :
    (g.openSide x p cycle).slot p.slot = g.slot p.slot := by
  by_cases hch : x.ch = 0
  · rw [openSide_of_empty p cycle hch]
  · obtain ⟨first, heq⟩ := openSide_opens (g := g) p cycle hhalf hch
    have hfree : g.freeSlot p.slot = 1 - p.slot := if_pos (bne_iff_ne.mpr hlive)
    rw [heq, hfree]
    exact g.slot_setSlot_one_sub _ hk

/-- A side that opens takes a slot at its start. -/
theorem slot_openSide_opened (g : Group) {x : Side} (hk : p.slot ≤ 1) (hhalf : x.half = none) (hch : x.ch ≠ 0) :
    ∃ k, k ≤ 1 ∧ ((g.openSide x p cycle).slot k).place = (x.ch, x.pc, p.join) := by
  obtain ⟨first, heq⟩ := openSide_opens (g := g) p cycle hhalf hch
  refine ⟨g.freeSlot p.slot, ?_, ?_⟩
  · unfold Group.freeSlot
    split <;> omega
  · rw [heq]
    exact congrArg Slot.place (g.slot_setSlot_same (g.freeSlot p.slot) _)

variable (hp : p.placed) (g : Group)
include hp

theorem slot_openSides {x : Half} (hx : x ∈ p.halves) (h : p.halves.length = 2 ∨ (g.slot x.slot).mask ≠ 0) :
    (g.openSides p cycle).slot x.slot = g.slot x.slot := by
  obtain ⟨a, b, hhalves, -, -, -, -, -, hsides⟩ | ⟨a, hhalves, hslot, hk, hone⟩ := sides_of_placed hp
  · rw [openSides_of_sides cycle g hsides, openSide_placed, openSide_placed]
  · rw [hhalves] at hx h
    obtain rfl := List.mem_singleton.mp hx
    have hlive := h.resolve_left (by simp)
    rw [hslot] at hlive ⊢
    obtain ⟨-, -, hsides⟩ | ⟨-, -, hsides⟩ := hone
    all_goals
      rw [openSides_of_sides cycle g hsides, openSide_placed]
      exact slot_openSide_live cycle hk rfl hlive

/-- The side without a half, of lanes m, becomes live. -/
theorem openSides_opened {m : Mask} {pc : Word64}
    (h : p.guess = 0 ∧ m = p.taken ∧ pc = p.target ∨ p.guess = p.sMask ∧ m = p.sMask &&& ~~~p.taken ∧ pc = p.fall) (hm : m ≠ 0) :
    ∃ k, k ≤ 1 ∧ ((g.openSides p cycle).slot k).place = (m, pc, p.join) := by
  obtain ⟨a, b, -, -, -, -, hzero, hall, -⟩ | ⟨a, -, -, hk, ⟨hzero, hall, hsides⟩ | ⟨hall, hzero, hsides⟩⟩ := sides_of_placed hp
  · exact (h.elim (fun h => hzero h.1) (fun h => hall h.1)).elim
  · obtain ⟨-, rfl, rfl⟩ := h.resolve_right fun h => hall h.1
    rw [openSides_of_sides cycle g hsides, openSide_placed]
    exact slot_openSide_opened (x := ⟨p.target, p.guess, p.taken, none⟩) cycle g hk rfl hm
  · obtain ⟨-, rfl, rfl⟩ := h.resolve_left fun h => hzero h.1
    rw [openSides_of_sides cycle g hsides, openSide_placed]
    exact slot_openSide_opened (x := ⟨p.fall, p.sMask &&& ~~~p.guess, p.sMask &&& ~~~p.taken, none⟩) cycle g hk rfl hm

end

/-! ### The slots after PREDICTION_REPAIR -/

theorem joinAfter_eq (p : Spec) (J : Word64) :
    p.joinAfter J = if p.taken ≠ 0 ∧ p.sMask &&& ~~~p.taken ≠ 0 then J else p.sJoin := if_congr (mixed_iff p) rfl rfl

section
variable {p : Spec} (hp : p.placed) (g : Group) (cycle : Nat) {x : Half} (hx : x ∈ p.halves)
include hp hx

/-- The slot of a half is settled as the half's own repair leaves it. -/
theorem slot_repaired (h : p.halves.length = 2 ∨ ((g.repairAll p cycle p.halves).slot x.slot).mask ≠ 0) :
    (g.repaired p cycle).slot x.slot = ((g.repairAll p cycle p.halves).slot x.slot).settled p := by
  unfold Group.repaired
  rw [slot_settleSpec _ p cycle (halves_slot hp x hx), repairSides_of_placed hp, slot_openSides cycle hp _ hx h]

theorem repaired_empties (hright : p.right x = 0) (htwo : p.halves.length = 2) : ((g.repaired p cycle).slot x.slot).mask = 0 := by
  obtain ⟨g', -, hslot⟩ := slot_repairAll_mem (halves_apart hp) hx g cycle
  rw [slot_repaired hp g cycle hx (.inl htwo)]
  refine settled_of_empty p ?_
  rw [hright] at hslot
  exact (congrArg Slot.mask hslot :).trans (repair_mask_of_none g' x cycle)

theorem repaired_replays (hright : p.right x ≠ 0) (hlacks : x.lacks (p.right x) ≠ 0) (hagain : x.again ≠ []) :
    let S := (g.repaired p cycle).slot x.slot
    S.mask = x.lacks (p.right x) ∧ S.finalMask = p.right x ∧ S.replays = x.again ∧ S.running = none := by
  obtain ⟨g', -, hslot⟩ := slot_repairAll_mem (halves_apart hp) hx g cycle
  obtain ⟨hmask, hfinal, hreplays, hrunning⟩ := repair_replays g' x cycle hright ((redoes_iff x hright).mpr ⟨hlacks, hagain⟩)
  have hmask' := (congrArg Slot.mask hslot :).trans hmask
  have hreplays' := (congrArg Slot.replays hslot :).trans hreplays
  intro S
  have hS : S = _ := slot_repaired hp g cycle hx (.inr (hmask'.symm ▸ hlacks))
  rw [hS, settled_of_busy p (hmask'.symm ▸ hlacks) (.inl (hreplays'.symm ▸ hagain))]
  exact ⟨hmask', (congrArg Slot.finalMask hslot :).trans hfinal, hreplays', (congrArg Slot.running hslot :).trans hrunning⟩

theorem repaired_corrects (hright : p.right x ≠ 0) (hnone : x.lacks (p.right x) = 0 ∨ x.again = [])
    (hpc : (g.slot x.slot).pc ≠ p.joinAfter (g.slot x.slot).join) :
    ((g.repaired p cycle).slot x.slot).mask = p.right x ∧ ((g.repaired p cycle).slot x.slot).pc = (g.slot x.slot).pc := by
  obtain ⟨g', hbefore, hslot⟩ := slot_repairAll_mem (halves_apart hp) hx g cycle
  have hredo : x.redoes (p.right x) = false := by
    rw [← Bool.not_eq_true, redoes_iff x hright]
    rintro ⟨hlacks, hagain⟩
    exact hnone.elim hlacks hagain
  have hplace : ((g.repairAll p cycle p.halves).slot x.slot).place = (p.right x, (g.slot x.slot).pc, (g.slot x.slot).join) := by
    refine (congrArg Slot.place hslot :).trans ((repair_corrects g' x cycle hright hredo).trans ?_)
    rw [show (g'.slot x.slot).pc = (g.slot x.slot).pc from (congrArg Slot.pc hbefore :),
      show (g'.slot x.slot).join = (g.slot x.slot).join from (congrArg Slot.join hbefore :)]
  simp only [Slot.place, Prod.mk.injEq] at hplace
  obtain ⟨hmask, hpc', hjoin⟩ := hplace
  have hmask' := hmask.symm ▸ hright
  rw [slot_repaired hp g cycle hx (.inr hmask'), settled_of_busy p hmask' (.inr (by rw [hpc', hjoin]; exact hpc))]
  exact ⟨hmask, hpc'⟩

end

/-- A side that was not placed is live after the repair, unless its start is its join. -/
theorem repaired_opened {p : Spec} (hp : p.placed) (g : Group) (cycle : Nat) {m : Mask} {pc : Word64}
    (h : p.guess = 0 ∧ m = p.taken ∧ pc = p.target ∨ p.guess = p.sMask ∧ m = p.sMask &&& ~~~p.taken ∧ pc = p.fall) (hm : m ≠ 0)
    (hpc : pc ≠ p.joinAfter p.join) :
    ∃ k, k ≤ 1 ∧ ((g.repaired p cycle).slot k).mask = m ∧ ((g.repaired p cycle).slot k).pc = pc := by
  obtain ⟨k, hk, hplace⟩ := openSides_opened cycle hp (g.repairSides p cycle) h hm
  simp only [Slot.place, Prod.mk.injEq] at hplace
  obtain ⟨hmask, hpc', hjoin⟩ := hplace
  refine ⟨k, hk, ?_⟩
  unfold Group.repaired
  rw [slot_settleSpec _ p cycle hk, settled_of_busy p (hmask.symm ▸ hm) (.inr (by rw [hpc', hjoin]; exact hpc))]
  exact ⟨hmask, hpc'⟩

/-- Settles O25: a pop, the end of every prediction, and the repair of placed halves, each as a change of the group. -/
theorem spillPopAndRepairResults : Obligations.SpillPopAndRepairResults := by
  refine ⟨spillPop_effect, repair_ends, fun s gid g p hg hspec hp hres hdue hroom hrise => ?_⟩
  intro mixed right wrong lacks again
  obtain ⟨t, hexec, hgroup, -⟩ := exec_predictionRepair hg hspec hres hdue hroom
  obtain ⟨hvregs, hsregs, hpreds, hops, hdix⟩ := repaired_banks g p s.cycle
  obtain ⟨hsregs', hpreds', -⟩ := fields_of_sansRepair (repairSides_sansRepair g p s.cycle)
  rw [repairSides_of_placed hp] at hvregs hops hdix
  have hapart := halves_apart hp
  refine ⟨t, g.repaired p s.cycle, hexec, hgroup, hsregs.trans hsregs', hpreds.trans hpreds',
    hdix.trans (repairAll_dix p s.cycle p.halves g), ?_, fun x hx => ⟨?_, repaired_empties hp g s.cycle hx,
      repaired_replays hp g s.cycle hx, fun hright hnone hpc => ?_, fun hright n o order scope b accs ho hslot hhalf hkind => ?_⟩,
    fun m pc hside hm hpc => ?_⟩
  · rw [hvregs]
    exact fun n i hi hright => lane_repairAll p s.cycle p.halves g n hi hright
  · rw [hvregs]
    exact fun e he honce i hi hwrong => lane_repairAll_shadowed hapart hx g s.cycle he honce hi hwrong
  · rw [← joinAfter_eq] at hpc
    exact repaired_corrects hp g s.cycle hx hright hnone hpc
  · have hredo : decide (lacks x ≠ 0 ∧ again x ≠ []) = x.redoes (p.right x) :=
      Bool.eq_iff_iff.mpr (decide_eq_true_iff.trans (redoes_iff x hright).symm)
    rw [hops, hredo]
    exact dget_repairAll_store hapart hx g s.cycle hrise hright ho hslot hhalf hkind
  · rw [← joinAfter_eq] at hpc
    exact repaired_opened hp g s.cycle hside hm hpc

end Sys2Proof.Machine
end

section
/-!
PROOFS. O20: entry to a trap handler and the return from it (R139, R145, R164).
-/
namespace Sys2Proof.Machine

/-! ### The values that the entry saves -/

/-- The registers of R143 that the trap r of slot S writes, with MODE of the user (R139, step 3). -/
def TrapReq.saved (r : TrapReq) (S : Slot) (mode : BitVec 16) : TrapRegs :=
  { ecause := w64n (r.code.toNat + r.arg.toNat * 2 ^ 16), epc := r.pc,
    estate := mkEstate r.done r.slot S.resting r.atClause (if r.atClause then 0 else r.idx), emask := S.mask, ejoin := S.join,
    efmt := S.fmt, einfo := r.einfo, etxf := r.etxf, emode := mode }

/-- CODE and ARG lie beside each other in ECAUSE (R144). -/
theorem toNat_ecause (r : TrapReq) (S : Slot) (mode : BitVec 16) :
    (r.saved S mode).ecause.toNat = r.code.toNat + r.arg.toNat * 2 ^ 16 := by
  have hcode := r.code.isLt
  have harg := r.arg.isLt
  exact (BitVec.toNat_ofNat ..).trans (Nat.mod_eq_of_lt (by omega))

/-- The fields of ESTATE lie beside each other (R144). -/
theorem toNat_mkEstate (done rest clause : Bool) {slot : Nat} (h : slot ≤ 1) (idx : Nat) :
    (mkEstate done slot rest clause (if clause then 0 else idx)).toNat =
      (if done then 2 ^ 11 else 0) + slot * 2 ^ 10 + (if rest then 2 ^ 9 else 0) + (if clause then 2 ^ 8 else idx % 16) := by
  have bit (b : Bool) : boolBit b ≤ 1 := by cases b <;> decide
  have scaled (b : Bool) (n : Nat) : (if b then n else 0) = boolBit b * n := by cases b <;> simp [boolBit]
  have hplace : (if clause then 2 ^ 8 else idx % 16) = boolBit clause * 2 ^ 8 + (if clause then 0 else idx) % 16 := by
    cases clause <;> simp [boolBit]
  have hdone := bit done
  have hrest := bit rest
  have hclause := bit clause
  rw [scaled done, scaled rest, hplace]
  exact (BitVec.toNat_ofNat ..).trans (by omega)

/-! ### What the entry leaves of the group (R139) -/

/-- The slot S as the trap r sends it to its handler (R139, step 6). -/
def TrapReq.handlerSlot (r : TrapReq) (S : Slot) (tvec fvec : Word64) (cycle : Nat) : Slot :=
  { emptySlot with pc := if r.code = 0x01 then fvec else tvec, mask := S.mask, stamp := S.stamp, eligFrom := cycle + 1 }

/-- The two slots as the trap r is entered: its own goes on in the handler, the other waits (R139, steps 1 and 6). -/
def Group.atHandler (g : Group) (r : TrapReq) (tvec fvec : Word64) (cycle : Nat) : Group :=
  (g.setSlot r.slot (r.handlerSlot (g.slot r.slot) tvec fvec cycle)).setSlot (1 - r.slot)
    { g.slot (1 - r.slot) with held := true }

/-- The flag that counts the trap r is counted down (R52, R145). -/
def Group.uncounted (g : Group) (r : TrapReq) : Group :=
  match r.flag with
  | some f => g.decFlag f 1
  | none => g

/-- What the entry changes of a group besides its slots and its flags. -/
def Group.inHandler (g : Group) (r : TrapReq) (saved : TrapRegs) (wasFirst : Bool) : Group :=
  { g with tr := saved, supervisor := true, supP7 := r.lanes, mode := modeReset, trapReq := none, posted := none,
           floor := g.spill.length, curRefusal := r.refusal, first := r.slot, wasFirst := wasFirst,
           refusals := g.refusals.filter (fun x => some x != r.refusal),
           matrixTraps := match r.matrix with
             | some x => g.matrixTraps.erase x
             | none => g.matrixTraps,
           faddr := r.faddr.foldl (fun f e => tset 0 f e.1 e.2) g.faddr }

section
variable (g : Group) (r : TrapReq) (tvec fvec : Word64) (cycle : Nat)

theorem enterTrap_eq : g.enterTrap r tvec fvec cycle =
    ((g.atHandler r tvec fvec cycle).uncounted r).inHandler r (r.saved (g.slot r.slot) g.mode) (g.first == r.slot) := rfl

theorem uncounted_still : (g.uncounted r).still = g.still := by
  unfold Group.uncounted
  split <;> rfl

theorem uncounted_slot (k : Nat) : (g.uncounted r).slot k = g.slot k := by
  unfold Group.uncounted
  split <;> rfl

theorem atHandler_still : (g.atHandler r tvec fvec cycle).still = g.still :=
  (setSlot_still ..).trans (setSlot_still ..)

theorem atHandler_counters : (g.atHandler r tvec fvec cycle).counters = g.counters :=
  (setSlot_counters ..).trans (setSlot_counters ..)

theorem enterTrap_still : (g.enterTrap r tvec fvec cycle).still =
    g.still.inHandler r (r.saved (g.slot r.slot) g.mode) (g.first == r.slot) := by
  rw [enterTrap_eq]
  exact congrArg (fun x : Group => x.inHandler r (r.saved (g.slot r.slot) g.mode) (g.first == r.slot))
    ((uncounted_still _ r).trans (atHandler_still ..))

/-- The counts of instructions stay, and of the flags the one that counts the trap alone is counted down. -/
theorem enterTrap_counters : (g.enterTrap r tvec fvec cycle).counters = (g.uncounted r).counters := by
  have hcounters := atHandler_counters g r tvec fvec cycle
  rw [enterTrap_eq]
  show ((g.atHandler r tvec fvec cycle).uncounted r).counters = _
  unfold Group.uncounted
  split
  · exact congrArg (fun c => (c.1, c.2.1, tset 0 c.2.2.1 _ (tget 0 c.2.2.1 _ - 1), c.2.2.2)) hcounters
  · exact hcounters

/-- Instructions are not counted by a trap's entry (R135). -/
theorem enterTrap_retired : (g.enterTrap r tvec fvec cycle).dix = g.dix ∧ (g.enterTrap r tvec fvec cycle).lclk = g.lclk := by
  have huncounted : (g.uncounted r).retired = g.retired := by
    unfold Group.uncounted
    split <;> rfl
  have hretired := (retired_of_counters (enterTrap_counters g r tvec fvec cycle)).trans huncounted
  simpa only [Group.retired, Prod.mk.injEq] using hretired

theorem enterTrap_flags : (g.enterTrap r tvec fvec cycle).flags = (g.uncounted r).flags :=
  flags_of_counters (enterTrap_counters ..)

theorem enterTrap_slot (k : Nat) : (g.enterTrap r tvec fvec cycle).slot k = (g.atHandler r tvec fvec cycle).slot k :=
  uncounted_slot ..

theorem enterTrap_slot_same (h : r.slot ≤ 1) :
    (g.enterTrap r tvec fvec cycle).slot r.slot = r.handlerSlot (g.slot r.slot) tvec fvec cycle := by
  rw [enterTrap_slot, Group.atHandler, Group.slot_setSlot_one_sub _ _ h, Group.slot_setSlot_same]

theorem enterTrap_slot_other : (g.enterTrap r tvec fvec cycle).slot (1 - r.slot) = { g.slot (1 - r.slot) with held := true } := by
  rw [enterTrap_slot, Group.atHandler, Group.slot_setSlot_same]

end

/-- A table keeps what is listed of no entry that is written. -/
theorem tget_foldl_tset_other {l : List (Nat × Word64)} {i : Nat} (h : ∀ e ∈ l, e.1 ≠ i) (t : Tab Word64) :
    tget 0 (l.foldl (fun t e => tset 0 t e.1 e.2) t) i = tget 0 t i := by
  induction l generalizing t with
  | nil => rfl
  | cons e l ih =>
    exact (ih (fun d hd => h d (List.mem_cons_of_mem _ hd)) _).trans (tget_tset_other 0 t e.2 (h e List.mem_cons_self).symm)

theorem exec_trapEntry {s : State} {gid : Nat} {g : Group} {r : TrapReq} (hg : s.group? gid = some g) (hreq : g.trapReq = some r)
    (hresults : g.results = []) (hclause : g.noClause = true) (hother : g.otherSettled (1 - r.slot) = true)
    (huser : g.supervisor = false) (hlive : (s.ctx g.ctx).terminate = none) :
    exec (.trapEntry gid) s =
      .next (s.setGroup gid (g.enterTrap r (s.ctx g.ctx).tvec (s.ctx g.ctx).fvec s.cycle)) := by
  show execTrapEntry gid s = _
  unfold execTrapEntry
  simp [hg, hreq, hresults, hclause, hother, huser, hlive]

/-! ### RTE (R145) -/

/-- Where RTE goes on in the clause: `skip` takes DONE as set. -/
def resumption (st : Word64) (skip : Bool) : Nat :=
  if st.getLsbD 8 then 0 else fld st 3 0 + boolBit (st.getLsbD 11 || (skip && !st.getLsbD 8))

theorem resumption_eq (st : Word64) (skip : Bool) : resumption st skip =
    if st.getLsbD 8 then 0 else st.toNat % 16 + (if st.getLsbD 11 = true ∨ skip = true then 1 else 0) := by
  have hidx : fld st 3 0 = st.toNat % 16 := by simp [fld]
  unfold resumption boolBit
  rw [hidx]
  split
  next => rfl
  next hinside => simp [Bool.eq_false_of_not_eq_true hinside, -BitVec.getLsbD_eq_getElem]

/-- The slot that RTE restores with the lanes m that are left (R145). -/
def TrapRegs.restored (tr : TrapRegs) (m : Mask) (skip : Bool) (stamp cycle : Nat) (yieldc : Option Nat) : Slot :=
  { emptySlot with pc := tr.epc, mask := m, fmt := tr.efmt, join := tr.ejoin, resting := tr.estate.getLsbD 9, stamp := stamp,
                   resumeIdx := resumption tr.estate skip, eligFrom := cycle + 1, yieldc := yieldc }

/-- The two slots as RTE leaves them: slot k is empty where no lane of EMASK is left, the other may start again. -/
def Group.backInUser (g : Group) (k : Nat) (skip : Bool) (cycle : Nat) : Group :=
  let m := g.tr.emask &&& ~~~g.xmask
  (g.setSlot k (if m = 0 then { emptySlot with stamp := (g.slot k).stamp }
    else g.tr.restored m skip (g.slot k).stamp cycle g.strayYieldc)).setSlot (1 - k) { g.slot (1 - k) with held := false }

section
variable (g : Group) (k : Nat) (skip : Bool) (cycle : Nat)

theorem leaveTrap_slot (j : Nat) : (g.leaveTrap k skip cycle).slot j = (g.backInUser k skip cycle).slot j := rfl

theorem leaveTrap_slot_same : (g.leaveTrap k skip cycle).slot k =
    if g.tr.emask &&& ~~~g.xmask = 0 then { emptySlot with stamp := (g.slot k).stamp }
    else g.tr.restored (g.tr.emask &&& ~~~g.xmask) skip (g.slot k).stamp cycle g.strayYieldc := by
  rw [leaveTrap_slot, Group.backInUser, Group.slot_setSlot_other _ _ (by omega), Group.slot_setSlot_same]

theorem leaveTrap_slot_other : (g.leaveTrap k skip cycle).slot (1 - k) = { g.slot (1 - k) with held := false } := by
  rw [leaveTrap_slot, Group.backInUser, Group.slot_setSlot_same]

theorem backInUser_still : (g.backInUser k skip cycle).still = g.still :=
  (setSlot_still ..).trans (setSlot_still ..)

/-- The registers of user mode come back as they are (R139, step 4). -/
theorem leaveTrap_banks : (g.leaveTrap k skip cycle).vregs = g.vregs ∧ (g.leaveTrap k skip cycle).sregs = g.sregs ∧
    (g.leaveTrap k skip cycle).preds = g.preds :=
  have hstill := backInUser_still g k skip cycle
  ⟨(congrArg Group.vregs hstill :), (congrArg Group.sregs hstill :), (congrArg Group.preds hstill :)⟩

/-- The reserved bits of MODE read zero (R164). -/
theorem leaveTrap_mode : (g.leaveTrap k skip cycle).mode = g.tr.emode &&& 0x3F3F#16 :=
  (congrArg (fun x : Group => x.tr.emode &&& 0x3F3F#16) (backInUser_still g k skip cycle) :)

/-- Of a trap inside a clause RTE.SKIP sets DONE (R145); else the trap registers stay. -/
theorem leaveTrap_tr : (g.leaveTrap k skip cycle).tr =
    if skip = true ∧ g.tr.estate.getLsbD 8 = false then { g.tr with estate := g.tr.estate ||| 0x800 } else g.tr := by
  refine (congrArg (fun x : Group => if skip && !g.tr.estate.getLsbD 8 then { x.tr with estate := g.tr.estate ||| 0x800#64 }
    else x.tr) (backInUser_still g k skip cycle)).trans ?_
  simp only [Bool.and_eq_true, Bool.not_eq_true']
  rfl

end

section
variable {s : State} {i : Instr} {g : Group} {r : Running} (h : s.issues i g r) (skip : Bool)
include h

theorem rteMould_eq : rteMould i skip s =
    (s.advanceWith false true).modGroup s.cur.gid (fun x => x.leaveTrap s.cur.slot skip s.cycle) :=
  guarded_of_issues h _

/-- RTE returns from the trap in the group whose clause has ended, which leaves both slots where they are. -/
theorem group?_rteMould (hp : r.replay = false) : ∃ g' : Group,
    (rteMould i skip s).group? s.cur.gid = some (g'.leaveTrap s.cur.slot skip s.cycle) ∧ g'.still = g.still ∧
      ∀ j, (g'.slot j).place = (g.slot j).place := by
  obtain ⟨g', hg', hstill, hplace⟩ := group?_advanceWith_stays h.1 h.2.1 hp true
  exact ⟨g', rteMould_eq h skip ▸ group?_modGroup_same hg' _, hstill, hplace⟩

theorem rteMould_access : (rteMould i skip s).access = s.access := by
  rw [rteMould_eq h, modGroup_access, advanceWith_access]

end

theorem exec_of_rte {q : QFields} {i : Instr} (h : i = .rte q ∨ i = .rteSkip q) (s : State) :
    ∃ skip, exec i s = .next (rteMould i skip s) ∧ (i = .rteSkip q ↔ skip = true) := by
  obtain rfl | rfl := h
  · exact ⟨false, rfl, by simp⟩
  · exact ⟨true, rfl, by simp⟩

/-- Settles O20: the entry is `Group.enterTrap`, the return `Group.leaveTrap` of the group whose clause has ended. -/
theorem trapEntryAndReturn : Obligations.TrapEntryAndReturn := by
  refine ⟨fun s gid g q hg hreq hslot hresults hclause hother huser hlive => ?_, fun s g r q i hi hissues hp => ?_⟩
  · intro S
    let h := g.enterTrap q (s.ctx g.ctx).tvec (s.ctx g.ctx).fvec s.cycle
    have hstill : h.still = _ := enterTrap_still ..
    have hsame : h.slot q.slot = _ := enterTrap_slot_same g q _ _ _ hslot
    have hwaits : h.slot (1 - q.slot) = _ := enterTrap_slot_other ..
    obtain ⟨hdix, hlclk⟩ := enterTrap_retired g q (s.ctx g.ctx).tvec (s.ctx g.ctx).fvec s.cycle
    refine ⟨h, exec_trapEntry hg hreq hresults hclause hother huser hlive, toNat_ecause q S g.mode, rfl, rfl, rfl, rfl, rfl,
      rfl, rfl, toNat_mkEstate q.done S.resting q.atClause hslot q.idx, rfl, rfl, rfl, rfl, congrArg Slot.pc hsame,
      (congrArg Slot.mask hsame :), congrArg Slot.join hsame, congrArg Slot.fmt hsame, congrArg Slot.held hwaits,
      (congrArg Slot.mask hwaits :), (congrArg Group.vregs hstill :), (congrArg Group.sregs hstill :),
      (congrArg Group.supS hstill :), (congrArg Group.preds hstill :), (enterTrap_flags g q _ _ _).trans ?_,
      fun z hz => ?_, (congrArg Group.ops hstill :), hdix, hlclk, (congrArg Group.xmask hstill :), fun i hi => ?_⟩
    · unfold Group.uncounted
      cases q.flag <;> rfl
    · refine (congrArg Group.matrixTraps hstill :).trans ?_
      simp only [Group.inHandler, hz]
      rfl
    · have hfaddr : h.faddr = q.faddr.foldl (fun t e => tset 0 t e.1 e.2) g.faddr := (congrArg Group.faddr hstill :)
      rw [hfaddr, tget_foldl_tset_other hi]
  · intro k st m
    obtain ⟨skip, hexec, hskip⟩ := exec_of_rte hi s
    obtain ⟨g', hgroup, hstill, hplace⟩ := group?_rteMould hissues skip hp
    have htr : g'.tr = g.tr := (congrArg Group.tr hstill :)
    have hxmask : g'.xmask = g.xmask := (congrArg Group.xmask hstill :)
    obtain ⟨hvregs, hsregs, hpreds⟩ := leaveTrap_banks g' k skip s.cycle
    have hsame := leaveTrap_slot_same g' k skip s.cycle
    have hother := leaveTrap_slot_other g' k skip s.cycle
    have hregs := leaveTrap_tr g' k skip s.cycle
    rw [htr, hxmask] at hsame
    rw [htr] at hregs
    simp only [hskip]
    refine ⟨_, g'.leaveTrap k skip s.cycle, hexec, hgroup, rfl, ?_, ?_, fun hm => ?_, congrArg Slot.held hother, ?_,
      hvregs.trans (congrArg Group.vregs hstill :), hsregs.trans (congrArg Group.sregs hstill :),
      hpreds.trans (congrArg Group.preds hstill :), rteMould_mem .., ?_, hregs⟩
    · exact (leaveTrap_mode ..).trans (congrArg (fun tr : TrapRegs => tr.emode &&& 0x3F3F#16) htr)
    · rw [hsame]
      split
      next hnone => exact hnone.symm
      next => rfl
    · have hrestored := hsame.trans (if_neg hm)
      exact ⟨congrArg Slot.pc hrestored, congrArg Slot.join hrestored, congrArg Slot.fmt hrestored,
        congrArg Slot.resting hrestored, (congrArg Slot.resumeIdx hrestored).trans (resumption_eq st skip)⟩
    · exact (congrArg Slot.mask hother :).trans (congrArg (fun p => p.1) (hplace (1 - k)) :)
    · exact congrArg (fun a => a.2.2.2.2.2.2.2.2.2.1) (rteMould_access hissues skip)

end Sys2Proof.Machine
end

section
/-!
PROOFS. O6: rounding (R161 to R163). Refuted: its clause on overflow asks the largest finite value of every code that
`infOnOverflow` does not list, the codes 0 and 7 too, which name no rounding of R161 and for which the model gives infinity.
-/
namespace Sys2Proof.Machine

/-- RM 000, which names no rounding and which a handler can leave in EMODE (log 29). -/
def unnamedRounding : Rnd := ⟨0, 0, false, false, false⟩

/-- 2^128, the first power of two beyond f32. -/
def beyondF32 : SFrac := ⟨false, ⟨2 ^ 128, 1⟩⟩

theorem val_beyondF32 : beyondF32.val = 2 ^ 128 := by
  norm_num [beyondF32, SFrac.val, SFrac.num]

theorem round_beyondF32 : fmtF32.round false unnamedRounding beyondF32 = ⟨0x7F800000, bitOF ||| bitNX⟩ := by
  decide +kernel

/-- Refutes O6 in the clause on overflow, for 2^128 to f32 under code 0: the statement asks the largest finite value, the
model gives infinity. -/
theorem not_roundingResults : ¬ Obligations.RoundingResults := by
  unfold Obligations.RoundingResults
  rintro ⟨-, -, round, -⟩
  have magnitude : |((beyondF32.val : ℚ) : ℝ)| = 2 ^ 128 := by
    rw [val_beyondF32]
    norm_num
  obtain ⟨-, overflow, -⟩ := round fmtF32 false unnamedRounding beyondF32 (by simp [ieeeFormats]) (by decide)
    (by rw [val_beyondF32]; norm_num) rfl
  have isTop : (2 : ℝ) ^ (fmtF32.bias + 1) ≤ |((beyondF32.val : ℚ) : ℝ)| := magnitude.ge
  have isBeyond : (2 : ℝ) ^ (fmtF32.bias + 1) * (1 - (2 : ℝ)⁻¹ ^ (fmtF32.fracBits + 1)) < |((beyondF32.val : ℚ) : ℝ)| := by
    rw [magnitude]
    norm_num [fmtF32]
  have notListed : ¬ infOnOverflow unnamedRounding false beyondF32.neg := by simp [infOnOverflow, unnamedRounding]
  have largest := ((overflow isBeyond).1 (.inl isTop)).2 notListed
  rw [round_beyondF32] at largest
  exact absurd (congrArg Res.code largest) (by decide)

end Sys2Proof.Machine
end

section
/-!
PROOFS. O10: conversions (R200 to R202, with R162 and R167 for what saturates and for the special values).
-/
namespace Sys2Proof.Machine

/-! ### Fields of a word -/

theorem fld_eq {n : Nat} (w : BitVec n) (hi lo : Nat) : fld w hi lo = w.toNat / 2 ^ lo % 2 ^ (hi + 1 - lo) := by
  rw [fld, BitVec.extractLsb'_toNat, Nat.shiftRight_eq_div_pow]

/-! ### Integers of n bits -/

theorem toCode_eq (n : Nat) (x : Int) : toCode n x = (x % 2 ^ n).toNat := by
  simp [toCode]

/-- The n-bit two's complement values. -/
theorem sgn_mem (n x : Nat) : -2 ^ n ≤ sgn (n + 1) x ∧ sgn (n + 1) x ≤ 2 ^ n - 1 := by
  have hlt : x % 2 ^ (n + 1) < 2 ^ (n + 1) := Nat.mod_lt _ (Nat.two_pow_pos _)
  have hpow : 2 ^ (n + 1) = 2 * 2 ^ n := by ring
  simp only [sgn]
  rw [hpow] at hlt ⊢
  have hcast : ((2 ^ n : Nat) : Int) = 2 ^ n := by push_cast; rfl
  split <;> omega

/-- Saturation is a clamp to the limits of the type; the flag tells a value beyond them (R162). -/
theorem satInt_eq (sg : Bool) (n : Nat) (flag : BitVec 16) (x : Int) :
    let lo : Int := if sg then -2 ^ (n - 1) else 0
    let hi : Int := if sg then 2 ^ (n - 1) - 1 else 2 ^ n - 1
    satInt sg n flag x = ⟨(min (max x lo) hi % 2 ^ n).toNat, if x < lo ∨ hi < x then flag else 0⟩ := by
  intro lo hi
  have hle : lo ≤ hi := by
    have hpos (k : Nat) : (0 : Int) < 2 ^ k := by positivity
    have := hpos n
    have := hpos (n - 1)
    cases sg <;> simp only [lo, hi, Bool.false_eq_true, if_true, if_false] <;> omega
  have hsat : satInt sg n flag x = if x < lo then ⟨toCode n lo, flag⟩ else if hi < x then ⟨toCode n hi, flag⟩
      else ⟨toCode n x, 0⟩ := by
    simp [satInt, lo, hi]
  rw [hsat]
  split
  next hlow =>
    rw [max_eq_right hlow.le, min_eq_left hle, if_pos (.inl hlow), toCode_eq]
  next hlow =>
    rw [max_eq_left (not_lt.mp hlow)]
    split
    next hhigh => rw [min_eq_right hhigh.le, if_pos (.inr hhigh), toCode_eq]
    next hhigh => rw [min_eq_left (not_lt.mp hhigh), if_neg (by tauto), toCode_eq]

/-- A value within the limits of a signed type stays as it is. -/
theorem satInt_of_mem {n : Nat} (flag : BitVec 16) {x : Int} (hlo : -2 ^ n ≤ x) (hhi : x ≤ 2 ^ n - 1) :
    satInt true (n + 1) flag x = ⟨(x % 2 ^ (n + 1)).toNat, 0⟩ := by
  rw [satInt_eq]
  simp only [if_true, Nat.add_sub_cancel]
  rw [max_eq_left hlo, min_eq_left hhi, if_neg (by omega)]

/-- i4 is symmetric: −7 to 7 (R159). -/
theorem satI4_eq (x : Int) : satI4 x = ⟨(min (max x (-7)) 7 % 16).toNat, if x < -7 ∨ 7 < x then bitOF else 0⟩ := by
  unfold satI4
  split
  next hlow => rw [max_eq_right hlow.le, if_pos (.inl hlow)]; rfl
  next hlow =>
    rw [max_eq_left (not_lt.mp hlow)]
    split
    next hhigh => rw [min_eq_right hhigh.le, if_pos (.inr hhigh)]; rfl
    next hhigh => rw [min_eq_left (not_lt.mp hhigh), if_neg (by tauto)]; rfl

/-- An i4 code is its two's complement value, but 1000, which is 0 and raises RESV (R159). -/
theorem i4Value_eq {c : Nat} (h : c < 16) : i4Value c = (if c = 8 then 0 else sgn 4 c, if c = 8 then bitRESV else 0) := by
  interval_cases c <;> rfl

/-! ### One element -/

theorem convElem_of_int {src : Nat} (h : src < 4) (rnd : Rnd) (dst c : Nat) :
    convElem rnd src dst c = intTo rnd dst (valOf (signedTy src) (elemBits src) c) := by
  interval_cases src <;> rfl

theorem intTo_int {dst : Nat} (h : dst < 4) (rnd : Rnd) (x : Int) :
    intTo rnd dst x = satInt (signedTy dst) (elemBits dst) bitOF x := by
  interval_cases dst <;> rfl

theorem floatTo_int {dst : Nat} (h : dst < 4) (rnd : Rnd) (v : FVal) :
    floatTo rnd dst v = fvalToInt rnd (signedTy dst) (elemBits dst) v := by
  interval_cases dst <;> rfl

/-- An i4 to an i32, where every value has room (R201). -/
theorem convElem_i4_i32 (rnd : Rnd) {c : Nat} (h : c < 16) : convElem rnd 9 0 c =
    ⟨((if c = 8 then 0 else sgn 4 c) % 2 ^ 32).toNat, if c = 8 then bitRESV else 0⟩ := by
  have hconv : convElem rnd 9 0 c = ⟨(satInt true 32 bitOF (i4Value c).1).code,
    (satInt true 32 bitOF (i4Value c).1).flags ||| (i4Value c).2⟩ := rfl
  have hmem : -2 ^ 31 ≤ (i4Value c).1 ∧ (i4Value c).1 ≤ 2 ^ 31 - 1 := by
    obtain ⟨hlo, hhi⟩ : -2 ^ 3 ≤ sgn 4 c ∧ sgn 4 c ≤ 2 ^ 3 - 1 := sgn_mem 3 c
    rw [i4Value_eq h]
    dsimp only
    split <;> omega
  rw [hconv, satInt_of_mem bitOF hmem.1 hmem.2, i4Value_eq h]
  exact congrArg (Res.mk _) BitVec.zero_or

theorem convElem_i8_i32 (rnd : Rnd) (c : Nat) : convElem rnd 8 0 c = ⟨(sgn 8 c % 2 ^ 32).toNat, 0⟩ := by
  have hconv : convElem rnd 8 0 c = satInt true 32 bitOF (sgn 8 c) := rfl
  obtain ⟨hlo, hhi⟩ : -2 ^ 7 ≤ sgn 8 c ∧ sgn 8 c ≤ 2 ^ 7 - 1 := sgn_mem 7 c
  rw [hconv, satInt_of_mem bitOF (by omega) (by omega)]

theorem convElem_i32_i8 (rnd : Rnd) (c : Nat) : convElem rnd 0 8 c = satInt true 8 bitOF (sgn 32 c) := rfl

theorem convElem_i32_i4 (rnd : Rnd) (c : Nat) : convElem rnd 0 9 c = satI4 (sgn 32 c) := rfl

theorem convElem_f32 (rnd : Rnd) (dst c : Nat) :
    convElem rnd 4 dst c = floatTo rnd dst (fmtF32.decode (fmtF32.flushIn rnd.fzi c)) := rfl

theorem intTo_f32 (rnd : Rnd) (x : Int) : intTo rnd 4 x = fmtF32.round false rnd (SFrac.ofInt x) := by
  simp [intTo, isFloatTy, floatFmt]

theorem floatTo_narrow (rnd : Rnd) (v : FVal) : floatTo rnd 5 v = fvalToBin fmtBF16 true rnd v ∧
    floatTo rnd 6 v = fvalToBin fmtF16 true rnd v ∧ floatTo rnd 7 v = fvalToDm8 rnd v := ⟨rfl, rfl, rfl⟩

theorem nanCode_narrow : fmtBF16.nanCode = 0x7FC0 ∧ fmtF16.nanCode = 0x7E00 := by decide

/-! ### The values of fractions -/

theorem Frac.ofPow2_den_pos (m : Nat) (e : Int) : 0 < (Frac.ofPow2 m e).d := by
  unfold Frac.ofPow2
  split
  · exact Nat.two_pow_pos _
  · exact Nat.one_pos

theorem decode_den_pos {f : BinFmt} {c : Nat} {x : SFrac} (h : f.decode c = .num x) : 0 < x.mag.d := by
  unfold BinFmt.decode at h
  dsimp only at h
  split at h
  · split at h <;> cases h
  · split at h <;> cases h <;> exact Frac.ofPow2_den_pos _ _

theorem num_ofIntDiv (n : Int) (d : Nat) : (SFrac.ofIntDiv n d).num = n := by
  simp only [SFrac.num, SFrac.ofIntDiv, decide_eq_true_eq]
  split <;> omega

theorem val_ofIntDiv (n : Int) (d : Nat) : (SFrac.ofIntDiv n d).val = (n : ℚ) / d := by
  rw [SFrac.val, num_ofIntDiv]
  rfl

/-- The value that CVTFX rounds is the number times 2^f (R202). -/
theorem val_scale2 (x : SFrac) (f : Nat) : (⟨x.neg, x.mag.mul ⟨2 ^ f, 1⟩⟩ : SFrac).val = x.val * 2 ^ f := by
  cases hneg : x.neg <;> simp [SFrac.val, SFrac.num, Frac.mul, hneg] <;> ring

/-! ### The instructions -/

section
variable {s : State} {g : Group} {r : Running} {q : RFields}

theorem exec_cvt (h : s.issues (.cvt q) g r) :
    let t := s.ty g q.ty
    let dst := q.b.toNat % 16
    exec (.cvt q) s = .next (s.issueVec (g.exec s.cur.mask q.neg q.pred) (wide dst) q.dst.toNat 8 (fun l =>
      packRes (if t ≤ 4 then 1 else 32 / elemBits t) (elemBits dst) (fun j =>
        convElem (g.rnd q.mod l j) t dst (elemOf (elemBits t) (g.vecVal (wide t) q.a.toNat l) j)))) := by
  have hdst : fld q.b 3 0 = q.b.toNat % 16 := by simp [fld_eq]
  refine (congrArg Host.Outcome.next (guarded_of_issues h _)).trans ?_
  simp only [hdst]

theorem exec_pack (h : s.issues (.pack q) g r) :
    let t := s.ty g q.ty
    exec (.pack q) s = .next (s.issueVec (g.exec s.cur.mask q.neg q.pred) false q.dst.toNat 8 (fun l =>
      packRes (packElems t) (elemBits t) (fun j =>
        convElem (g.rnd q.mod l j) (wideOf t) t (g.vecVal false (q.a.toNat + j) l)))) :=
  congrArg Host.Outcome.next (guarded_of_issues h _)

theorem exec_unpack (h : s.issues (.unpack q) g r) :
    let t := s.ty g q.ty
    let m := g.exec s.cur.mask q.neg q.pred
    let x (l j : Nat) : Res :=
      convElem (g.rnd q.mod l j) t (wideOf t) (elemOf (elemBits t) (g.vecVal false q.a.toNat l) j)
    let es := List.range (packElems t)
    exec (.unpack q) s = .next (s.pendResult 8
      (es.flatMap (fun j => vecUpd false (q.dst.toNat + j) m (fun l => (x l j).code)))
      (stickyOf m (fun l => es.foldl (fun y j => y ||| (x l j).flags) 0))).advance :=
  congrArg Host.Outcome.next (guarded_of_issues h _)

theorem exec_cvtfx (h : s.issues (.cvtfx q) g r) :
    let t := s.ty g q.ty
    exec (.cvtfx q) s = .next (s.issueVec (g.exec s.cur.mask q.neg q.pred) (wide t) q.dst.toNat 8 (fun l =>
      let x := fvalToInt (g.rnd q.mod l 0) true (elemBits t) (FVal.scale2 (q.b.toNat % 64)
        (fmtF32.decode (fmtF32.flushIn (g.mode.getLsbD 3) (g.vecVal false q.a.toNat l))))
      (x.code, x.flags))) := by
  have hshift : fld q.b 5 0 = q.b.toNat % 64 := by simp [fld_eq]
  rw [← hshift]
  exact congrArg Host.Outcome.next (guarded_of_issues h _)

theorem exec_cvtxf (h : s.issues (.cvtxf q) g r) :
    let t := s.ty g q.ty
    exec (.cvtxf q) s = .next (s.issueVec (g.exec s.cur.mask q.neg q.pred) false q.dst.toNat 8 (fun l =>
      let x := fmtF32.round false (g.rnd q.mod l 0)
        (SFrac.ofIntDiv (sgn (elemBits t) (g.vecVal (wide t) q.a.toNat l)) (2 ^ (q.b.toNat % 64)))
      (x.code, x.flags))) := by
  have hshift : fld q.b 5 0 = q.b.toNat % 64 := by simp [fld_eq]
  rw [← hshift]
  exact congrArg Host.Outcome.next (guarded_of_issues h _)

end

theorem packElems_eq (t : Nat) : packElems t = if t = 9 then 8 else if t = 7 ∨ t = 8 then 4 else 2 := by
  simp [packElems]

theorem wideOf_eq (t : Nat) : wideOf t = if t = 8 ∨ t = 9 then 0 else 4 := by
  simp [wideOf]

/-- What CVTFX makes of each kind of float (R167, R202). -/
theorem fvalToInt_scale2 (rnd : Rnd) {n : Nat} (hn : 0 < n) (f : Nat) {v : FVal} (hv : ∀ x, v = .num x → 0 < x.mag.d) :
    let y := fvalToInt rnd true n (FVal.scale2 f v)
    (∀ sg, v = .nan sg → y = ⟨0, bitNV⟩) ∧
    (v = .inf true → y = ⟨2 ^ (n - 1), bitNV⟩) ∧ (v = .inf false → y = ⟨2 ^ (n - 1) - 1, bitNV⟩) ∧
    (∀ x, v = .num x → ∃ z : SFrac, 0 < z.mag.d ∧ z.val = x.val * 2 ^ f ∧ y = roundIntSat rnd true n bitNV z) := by
  obtain ⟨k, rfl⟩ := Nat.exists_eq_succ_of_ne_zero hn.ne'
  have hpow : (2 : Int) ^ (k + 1) = 2 * 2 ^ k := by ring
  have hpos : (0 : Int) < 2 ^ k := by positivity
  have hcast : ((2 ^ k : Nat) : Int) = 2 ^ k := by push_cast; rfl
  have lowest : toCode (k + 1) (-((2 ^ k : Nat) : Int)) = 2 ^ k := by
    rw [toCode_eq, hpow, hcast, ← Int.add_emod_right, Int.emod_eq_of_lt (by omega) (by omega)]
    omega
  have highest : toCode (k + 1) (((2 ^ k : Nat) : Int) - 1) = 2 ^ k - 1 := by
    rw [toCode_eq, hpow, hcast, Int.emod_eq_of_lt (by omega) (by omega)]
    omega
  refine ⟨?_, ?_, ?_, ?_⟩
  · rintro sg rfl
    rfl
  · rintro rfl
    exact congrArg (Res.mk · bitNV) lowest
  · rintro rfl
    exact congrArg (Res.mk · bitNV) highest
  · rintro x rfl
    exact ⟨⟨x.neg, x.mag.mul ⟨2 ^ f, 1⟩⟩, Nat.mul_pos (hv x rfl) Nat.one_pos, val_scale2 x f, rfl⟩

theorem elemBits_pos (t : Nat) : 0 < elemBits t := by
  unfold elemBits
  repeat' split
  all_goals decide

/-- Settles O10: the instructions by their equations, an element by the branch of `convElem` for its two types. -/
theorem conversionResults : Obligations.ConversionResults := by
  refine ⟨fun s g r q => ⟨exec_cvt, fun h => ?_, fun h => ?_, fun h => ?_, fun h => ?_⟩,
    fun rnd src dst c => ⟨fun hs hd => ?_, ?_, convElem_i8_i32 rnd c, convElem_i4_i32 rnd, ?_, fun hs => ?_, ?_⟩⟩
  · rw [exec_pack h, packElems_eq, wideOf_eq]
  · rw [exec_unpack h]
    simp only [packElems_eq, wideOf_eq]
  · exact ⟨_, exec_cvtfx h, fun l => fvalToInt_scale2 _ (elemBits_pos _) _ fun x hx => decode_den_pos hx⟩
  · exact ⟨_, exec_cvtxf h, fun l => ⟨_, Nat.two_pow_pos _, by rw [val_ofIntDiv]; push_cast; rfl, rfl⟩⟩
  · rw [convElem_of_int hs, intTo_int hd]
    exact satInt_eq ..
  · rw [convElem_i32_i8, satInt_eq]
  · rw [convElem_i32_i4, satI4_eq]
  · rw [convElem_of_int hs, intTo_f32]
  · rintro v rfl
    obtain ⟨bf16, f16, dm8⟩ := floatTo_narrow rnd (fmtF32.decode (fmtF32.flushIn rnd.fzi c))
    refine ⟨fun hd => ?_, fun sg hv => ?_, fun x hv => ?_⟩
    · simp only [convElem_f32, floatTo_int hd]
      exact ⟨fun x hv => congrArg (fvalToInt rnd (signedTy dst) (elemBits dst)) hv,
        fun sg hv => congrArg (fvalToInt rnd (signedTy dst) (elemBits dst)) hv⟩
    · rw [convElem_f32, convElem_f32, convElem_f32, bf16, f16, dm8, hv, ← nanCode_narrow.1, ← nanCode_narrow.2]
      exact ⟨rfl, rfl, rfl⟩
    · rw [convElem_f32, convElem_f32, convElem_f32, bf16, f16, dm8, hv]
      exact ⟨rfl, rfl, rfl⟩

end Sys2Proof.Machine
end

section
/-!
PROOFS. The streams of the matrix engine: the check before a matrix instruction (R301), its trap and its end, and what a region of
the team window (R295) and the settling of a barrier leave unchanged.
-/
namespace Sys2Proof.Machine

/-! ### A stream at work -/

section
variable {s : State} {i : Instr} {t : Team} {n : Inst} (h : s.streams i t n)
include h

theorem stream?_of_streams : s.stream? s.cur.team s.cur.unit = some (t, n) := by
  obtain ⟨hteam, hinst, -⟩ := h
  simp [State.stream?, hteam, hinst]

/-- The check before a matrix instruction passes where the stream runs it (R301). -/
theorem guardedStream_of_streams (f : Team → Inst → State) : s.guardedStream i f = f t n := by
  have hstream := stream?_of_streams h
  obtain ⟨-, -, hclause, hended, htrap, hwaits, hlegal, howned⟩ := h
  have hacc : (accField i && n.owned == 1) = false := by
    cases hi : accField i
    · rfl
    · simpa using howned hi
  cases hc : n.clause
  · simp [hc] at hclause
  · simp [State.guardedStream, hstream, hc, hended, htrap, hwaits, hlegal, hacc]

theorem streamTrap_of_streams (sub detail : BitVec 8) (at_ : Word64) : s.streamTrap sub detail at_ =
    s.setInst s.cur.team s.cur.unit { n with trap := some ⟨sub, detail, at_⟩ } := by
  simp only [State.streamTrap, stream?_of_streams h]

end

theorem setInst_access (s : State) (team unit : Nat) (x : Inst) : (s.setInst team unit x).access = s.access :=
  modTeam_access ..

theorem streamTrap_access (s : State) (sub detail : BitVec 8) (at_ : Word64) : (s.streamTrap sub detail at_).access = s.access := by
  unfold State.streamTrap
  split
  · rfl
  · exact setInst_access ..

/-- The end of an instruction in a state at the same word. -/
theorem streamDone_of_cur {s s1 : State} (h : s1.cur = s.cur) (cost : Nat) (x : Inst) :
    s1.streamDone cost x = s1.setInst s.cur.team s.cur.unit (x.nextInstr.runs s1.cycle cost) := by
  rw [State.streamDone, h]

theorem streamDone_access (s : State) (cost : Nat) (x : Inst) : (s.streamDone cost x).access = s.access := setInst_access ..

theorem team?_setInst {s : State} {team : Nat} {t : Team} (h : s.team? team = some t) (unit : Nat) (x : Inst) :
    (s.setInst team unit x).team? team = some { t with insts := dput t.insts unit x } :=
  team?_modTeam_same h _

/-- The end of an instruction leaves the accumulators. -/
theorem acc_nextInstr (n : Inst) (a : Bool) : n.nextInstr.acc a = n.acc a ∧ n.nextInstr.acct a = n.acct a := by
  unfold Inst.nextInstr
  split
  · exact ⟨rfl, rfl⟩
  · split <;> exact ⟨rfl, rfl⟩

theorem acc_setAcc (n : Inst) (a : Bool) (v : Tab Word32) (f32 : Bool) :
    (n.setAcc a v f32).acc a = v ∧ (n.setAcc a v f32).acct a = f32 ∧ (n.setAcc a v f32).acc (!a) = n.acc (!a) := by
  cases a <;> exact ⟨rfl, rfl, rfl⟩

/-- An instruction whose check fails traps, and nothing else changes (R309). -/
theorem completesIf_streamTrap {s : State} {i : Instr} {t : Team} {n : Inst} (h : s.streams i t n) {sub detail : BitVec 8}
    (hexec : exec i s = finish s (s.streamTrap sub detail n.wordAt)) : s.completesIf s.settled i
      (s.setInst s.cur.team s.cur.unit { n with trap := some ⟨sub, detail, n.wordAt⟩ }) := by
  rw [← streamTrap_of_streams h]
  exact completesIf_of_finish hexec (settled_of_access (streamTrap_access ..))

/-! ### What keeps the word of the step and the cycle -/

/-- State t is at the same word as s, in the same cycle. -/
def State.sameAt (s t : State) : Prop := t.cur = s.cur ∧ t.cycle = s.cycle

theorem sameAt_trans {s t u : State} (h : s.sameAt t) (h' : t.sameAt u) : s.sameAt u :=
  ⟨h'.1.trans h.1, h'.2.trans h.2⟩

theorem sameAt_of_checksTo {s t : State} (h : s.checksTo t) : s.sameAt t := ⟨cur_of_checksTo h, cycle_of_checksTo h⟩

theorem sameAt_modTeam (s : State) (team : Nat) (f : Team → Team) : s.sameAt (s.modTeam team f) := by
  unfold State.modTeam
  split <;> exact ⟨rfl, rfl⟩

theorem sameAt_wantPieces (s : State) (l : List (Nat × Nat × Nat)) : s.sameAt (s.wantPieces l) := by
  induction l generalizing s with
  | nil => exact ⟨rfl, rfl⟩
  | cons x l ih => exact sameAt_trans (sameAt_modTeam ..) (ih _)

theorem sameAt_writeStash (core level : Nat) (bytes : List Byte) (team slot : Nat) : ∀ (s : State) (off : Nat),
    s.sameAt (s.writeLoc core level bytes (.stash team slot off)) := by
  induction bytes with
  | nil => intro s off; exact ⟨rfl, rfl⟩
  | cons b bytes ih => intro s off; exact sameAt_trans (sameAt_modTeam ..) (ih _ _)

theorem sameAt_barSettle (s : State) (core bar : Nat) : s.sameAt (s.barSettle core bar) := by
  have hwaits : (s.barWaits s.cycle core bar).beyondGroups = (s.setBar core bar ((s.bar core bar).settle s.cycle).1).beyondGroups :=
    completeAll_beyondGroups .team _ _ _
  have hsame : s.sameAt (s.barWaits s.cycle core bar) :=
    ⟨show (s.barWaits s.cycle core bar).beyondGroups.cur = _ by rw [hwaits]; rfl,
      show (s.barWaits s.cycle core bar).beyondGroups.cycle = _ by rw [hwaits]; rfl⟩
  exact sameAt_trans hsame (by rw [State.barSettle, barSettleTo_eq]; exact ⟨rfl, rfl⟩)

/-! ### Regions of the team window (R295, R305) -/

theorem sameAt_region (s : State) (team : Nat) (t : Team) (n : Inst) (off bytes : Nat) (write : Bool) :
    s.sameAt (s.region team t n off bytes write).1 := by
  unfold State.region
  dsimp only
  split
  · split
    · exact ⟨rfl, rfl⟩
    · refine List.foldlRecOn (motive := fun (acc : State × RegionRes) => s.sameAt acc.1) _ _ ⟨rfl, rfl⟩ fun acc hacc i _ => ?_
      split
      · exact hacc
      · have hpiece (c o v kind : Nat) :
            s.sameAt (acc.1.pieceCheck ⟨0, coreOfPart n.part, t.ctx, team, true⟩ t team c o v kind write).1 :=
          sameAt_trans hacc (sameAt_of_checksTo (pieceCheck_checksTo ..))
        split
        · exact hpiece ..
        · exact sameAt_trans (hpiece ..) (sameAt_wantPieces ..)
        · exact hpiece ..
  · exact ⟨rfl, rfl⟩

theorem sameAt_of_region {s s1 : State} {team : Nat} {t : Team} {n : Inst} {off bytes : Nat} {write : Bool} {r : RegionRes}
    (h : s.region team t n off bytes write = (s1, r)) : s.sameAt s1 := by
  have hsame := sameAt_region s team t n off bytes write
  rwa [h] at hsame

section
variable {s s1 : State} {t : Team} {n : Inst} {i : Instr} {off bytes : Nat} {write : Bool} {f : State → Nat → Nat → State}
  (hexec : exec i s = finish s (s.withRegion t n off bytes write f))
include hexec

theorem exec_of_outside (h : s.region s.cur.team t n off bytes write = (s1, .outside)) :
    exec i s = finish s (s.streamTrap 0x02 2 n.wordAt) :=
  hexec.trans (by simp only [State.withRegion, h])

theorem completesIf_regionFault (h : s.region s.cur.team t n off bytes write = (s1, .fault)) :
    s.completesIf s1.settled i (s1.streamTrap 0x05 0 n.wordAt) :=
  completesIf_of_finish (hexec.trans (by simp only [State.withRegion, h])) (settled_of_access (streamTrap_access ..))

theorem completesIf_regionWait (h : s.region s.cur.team t n off bytes write = (s1, .wait)) :
    s.completesIf s1.settled i s1 :=
  completesIf_of_finish (hexec.trans (by simp only [State.withRegion, h])) id

theorem exec_of_region {c o : Nat} (h : s.region s.cur.team t n off bytes write = (s1, .ok c o)) :
    exec i s = finish s (f s1 c o) :=
  hexec.trans (by simp only [State.withRegion, h])

end

end Sys2Proof.Machine
end

section
/-!
PROOFS. O43, the instructions of a stream but MMA: MSETF, MZERO, MLOOP, MBR, MEND, MWAIT, MARR and MSTC (R302, R303, R305 to R308).
-/
namespace Sys2Proof.Machine

/-! ### MSETF, MZERO, MLOOP, MBR, MEND -/

/-- Is MFMT.MC f32 (R298)? -/
def Inst.mcIsF32 (n : Inst) : Bool := decide (n.mfmt.toNat / 2 ^ 8 % 16 = 4)

theorem mcF32_eq (n : Inst) : n.mcF32 = n.mcIsF32 := by
  rw [Inst.mcF32, Inst.mcIsF32, fld_eq]
  exact Bool.beq_eq_decide_eq ..

/-- The FMT that MSETF takes from a member of the quad (R302). -/
def Group.fmtForStream (g : Group) : Nat :=
  (if g.slot0.live then g.slot0.fmt else if g.slot1.live then g.slot1.fmt else 0x01477004).toNat

theorem mfmtOk_iff (ma mb mc scl : Nat) : mfmtOk ma mb mc scl = true ↔
    5 ≤ ma ∧ ma ≤ 9 ∧ 5 ≤ mb ∧ mb ≤ 9 ∧ (mc = 0 ∨ mc = 4) ∧ scl ≤ 1 := by
  simp [mfmtOk, and_assoc]

theorem boolBit_mul (b : Bool) (k : Nat) : boolBit b * k = if b then k else 0 := by
  cases b
  · exact Nat.zero_mul k
  · exact Nat.one_mul k

section
variable {s : State} {t : Team} {n : Inst} {x : MXFields}

theorem exec_msetf_imm (h : s.streams (.msetf x) t n) (hform : x.mod.getLsbD 1 = false) : exec (.msetf x) s =
    .next (s.streamDone 1 { n with
      mfmt := BitVec.ofNat 16 ((if x.mod.getLsbD 0 then 2 ^ 14 else 0) + x.imm.toNat % 2 ^ 14) }) := by
  have himm : fld x.imm 13 0 = x.imm.toNat % 2 ^ 14 := by simp [fld_eq]
  refine (congrArg Host.Outcome.next (guardedStream_of_streams h _)).trans ?_
  simp only [hform, himm, boolBit_mul, Bool.false_eq_true, if_false]

theorem exec_msetf_alone (h : s.streams (.msetf x) t n) (hform : x.mod.getLsbD 1 = true)
    (hquad : (s.quad t s.cur.unit).headD none = none) : exec (.msetf x) s =
      .next (s.setInst s.cur.team s.cur.unit { n with trap := some ⟨0x01, 0, n.wordAt⟩ }) := by
  refine (congrArg Host.Outcome.next (guardedStream_of_streams h _)).trans ?_
  simp only [hform, hquad, if_true, streamTrap_of_streams h]

theorem exec_msetf_fmt {g : Group} (h : s.streams (.msetf x) t n) (hform : x.mod.getLsbD 1 = true)
    (hquad : (s.quad t s.cur.unit).headD none = some g) :
    let f := g.fmtForStream
    let ma := f / 2 ^ 12 % 16
    let mb := f / 2 ^ 16 % 16
    let mc := f / 2 ^ 20 % 16
    let scl := f / 2 ^ 24 % 4
    let legal := 5 ≤ ma ∧ ma ≤ 9 ∧ 5 ≤ mb ∧ mb ≤ 9 ∧ (mc = 0 ∨ mc = 4) ∧ scl ≤ 1
    (legal → exec (.msetf x) s = .next (s.streamDone 1 { n with
      mfmt := BitVec.ofNat 16 ((if x.mod.getLsbD 0 then 2 ^ 14 else 0) + scl * 2 ^ 12 + mc * 2 ^ 8 + mb * 2 ^ 4 + ma) })) ∧
    (¬ legal → exec (.msetf x) s =
      .next (s.setInst s.cur.team s.cur.unit { n with trap := some ⟨0x04, 0, n.wordAt⟩ })) := by
  intro f ma mb mc scl legal
  have hexec : exec (.msetf x) s = .next (if mfmtOk ma mb mc scl then s.streamDone 1 { n with
      mfmt := BitVec.ofNat 16 ((if x.mod.getLsbD 0 then 2 ^ 14 else 0) + scl * 2 ^ 12 + mc * 2 ^ 8 + mb * 2 ^ 4 + ma) }
      else s.streamTrap 0x04 0 n.wordAt) := by
    refine (congrArg Host.Outcome.next (guardedStream_of_streams h _)).trans ?_
    simp only [hform, hquad, if_true, fld_eq, boolBit_mul, Nat.add_assoc]
    rfl
  exact ⟨fun hlegal => by rw [hexec, if_pos ((mfmtOk_iff ..).mpr hlegal)],
    fun hillegal => by rw [hexec, if_neg (mt (mfmtOk_iff ..).mp hillegal), streamTrap_of_streams h]⟩

theorem exec_mzero (h : s.streams (.mzero x) t n) :
    exec (.mzero x) s = .next (s.streamDone 16 (n.setAcc x.acc [] n.mcIsF32)) := by
  rw [← mcF32_eq]
  exact congrArg Host.Outcome.next (guardedStream_of_streams h _)

theorem exec_mloop (h : s.streams (.mloop x) t n) :
    exec (.mloop x) s = .next (s.streamDone 1 { n with lc := x.imm, ls := x.num, li := 0 }) :=
  congrArg Host.Outcome.next (guardedStream_of_streams h _)

/-- MBR: the target lies IMM words from the instruction's own (R307). -/
theorem exec_mbr (h : s.streams (.mbr x) t n) :
    let target := n.wordAt + BitVec.ofInt 64 (8 * x.imm.toInt)
    (x.mod = 1 → exec (.mbr x) s = .next (s.streamGo n target)) ∧
    (x.mod ≠ 1 → 1 < n.lc.toNat →
      exec (.mbr x) s = .next (s.streamGo { n with lc := n.lc - 1, li := n.li + 1 } target)) ∧
    (x.mod ≠ 1 → n.lc.toNat ≤ 1 → exec (.mbr x) s = .next (s.streamDone 1 { n with lc := 0, li := 0 })) := by
  intro target
  have htarget : BitVec.ofInt 64 (8 * x.imm.toInt) = 8 * x.imm.signExtend 64 := BitVec.ofInt_mul ..
  have hexec : exec (.mbr x) s = .next (if x.mod = 1 then s.streamGo n target
      else if 1 < n.lc.toNat then s.streamGo { n with lc := n.lc - 1, li := n.li + 1 } target
      else s.streamDone 1 { n with lc := 0, li := 0 }) := by
    simp only [target, htarget]
    exact congrArg Host.Outcome.next (guardedStream_of_streams h _)
  exact ⟨fun hmod => by rw [hexec, if_pos hmod], fun hmod hlc => by rw [hexec, if_neg hmod, if_pos hlc],
    fun hmod hlc => by rw [hexec, if_neg hmod, if_neg (not_lt.mpr hlc)]⟩

theorem exec_mend (h : s.streams (.mend x) t n) : exec (.mend x) s =
    .next (s.setInst s.cur.team s.cur.unit (Inst.runs { n with ended := true, clause := none } s.cycle 1)) :=
  congrArg Host.Outcome.next (guardedStream_of_streams h _)

end

/-! ### MWAIT and MARR (R306) -/

/-- What MWAIT does with a settled barrier: where the phase is another one than its token already, it has the sequencer for
this cycle (R300, R306). -/
def State.mwaitOn (s : State) (n : Inst) (core bar : Nat) : State :=
  let tok := (dget n.tokens bar).getD false
  let c := s.cycle + 1
  let turn (old : Nat) : Nat := if (s.bar core bar).ph = tok then old else c
  s.setInst s.cur.team s.cur.unit { n with
    tokens := dput n.tokens bar tok, waits := some (bar, tok), busyTo := turn n.busyTo, ranTo := turn n.ranTo }

/-- What MARR does with it (R306). -/
def State.marrOn (x : MXFields) (s : State) (n : Inst) (core bar : Nat) : State :=
  let b := s.bar core bar
  (s.setBar core bar (b.arrive x.imm.toNat 0)).streamDone 1
    { n with tokens := dput n.tokens bar b.ph, marked := some bar }

theorem mwaitOn_eq (s : State) (n : Inst) (core bar : Nat) : s.mwaitOn n core bar =
    (let tok := (dget n.tokens bar).getD false
     let n : Inst := if (s.bar core bar).ph != tok then n.runs s.cycle 1 else n
     s.setInst s.cur.team s.cur.unit { n with tokens := dput n.tokens bar tok, waits := some (bar, tok) }) := by
  unfold State.mwaitOn
  by_cases hph : (s.bar core bar).ph = (dget n.tokens bar).getD false <;> simp [hph, Inst.runs]

theorem exec_mwait (x : MXFields) (s : State) : exec (.mwait x) s = finish s (streamBar (.mwait x) x State.mwaitOn s) := by
  rw [show State.mwaitOn = _ from funext fun s => funext₃ (mwaitOn_eq s)]
  rfl

theorem exec_marr (x : MXFields) (s : State) : exec (.marr x) s = finish s (streamBar (.marr x) x (State.marrOn x) s) := rfl

section
variable {s : State} {t : Team} {n : Inst} {x : MXFields} {i : Instr} {f : State → Inst → Nat → Nat → State}
  (h : s.streams i t n)
include h

theorem streamBar_outside (hrange : s.barInRange s.cur.team x.num.toNat = false) :
    streamBar i x f s = s.streamTrap 0x02 3 n.wordAt := by
  unfold streamBar
  rw [guardedStream_of_streams h]
  simp [hrange]

theorem streamBar_full (hrange : s.barInRange s.cur.team x.num.toNat = true) (htoken : dget n.tokens x.num.toNat = none)
    (hfull : 16 ≤ n.tokens.length) : streamBar i x f s = s.streamTrap 0x04 0 n.wordAt := by
  unfold streamBar
  rw [guardedStream_of_streams h]
  simp [hrange, htoken, hfull]

theorem streamBar_settled (hrange : s.barInRange s.cur.team x.num.toNat = true)
    (htoken : dget n.tokens x.num.toNat ≠ none ∨ n.tokens.length < 16) {t1 : Team} {m : Inst}
    (hteam : (s.barSettle (n.part / 4) x.num.toNat).team? s.cur.team = some t1) (hinst : dget t1.insts s.cur.unit = some m) :
    streamBar i x f s = f (s.barSettle (n.part / 4) x.num.toNat) m (n.part / 4) x.num.toNat := by
  have hroom : ((dget n.tokens x.num.toNat).isNone && decide (16 ≤ n.tokens.length)) = false := by
    obtain htoken | hless := htoken
    · rw [Option.isNone_eq_false_iff.mpr (Option.isSome_iff_ne_none.mpr htoken), Bool.false_and]
    · rw [decide_eq_false (not_le.mpr hless), Bool.and_false]
  have hstream : (s.barSettle (n.part / 4) x.num.toNat).stream? (s.barSettle (n.part / 4) x.num.toNat).cur.team
      (s.barSettle (n.part / 4) x.num.toNat).cur.unit = some (t1, m) := by
    rw [(sameAt_barSettle s _ _).1]
    simp [State.stream?, hteam, hinst]
  unfold streamBar
  rw [guardedStream_of_streams h]
  simp only [hrange, hroom, coreOfPart, hstream]
  rfl

end

theorem exec_streamBar {x : MXFields} (s : State) {i : Instr} (hi : i = .mwait x ∨ i = .marr x) :
    ∃ f, exec i s = finish s (streamBar i x f s) := by
  obtain rfl | rfl := hi
  · exact ⟨_, exec_mwait x s⟩
  · exact ⟨_, exec_marr x s⟩

section
variable {s : State} {t : Team} {n : Inst} {x : MXFields} {i : Instr}

theorem completesIf_barOutside (hi : i = .mwait x ∨ i = .marr x) (h : s.streams i t n)
    (hrange : s.barInRange s.cur.team x.num.toNat = false) : s.completesIf s.settled i
      (s.setInst s.cur.team s.cur.unit { n with trap := some ⟨0x02, 3, n.wordAt⟩ }) := by
  obtain ⟨f, hexec⟩ := exec_streamBar s hi
  exact completesIf_streamTrap h (by rw [hexec, streamBar_outside h hrange])

theorem completesIf_tokensFull (hi : i = .mwait x ∨ i = .marr x) (h : s.streams i t n)
    (hrange : s.barInRange s.cur.team x.num.toNat = true) (htoken : dget n.tokens x.num.toNat = none)
    (hfull : 16 ≤ n.tokens.length) : s.completesIf s.settled i
      (s.setInst s.cur.team s.cur.unit { n with trap := some ⟨0x04, 0, n.wordAt⟩ }) := by
  obtain ⟨f, hexec⟩ := exec_streamBar s hi
  exact completesIf_streamTrap h (by rw [hexec, streamBar_full h hrange htoken hfull])

/-- What MWAIT and MARR do with their barrier once it is settled is the step's answer in a bare state. -/
theorem completesIf_streamBar {f : State → Inst → Nat → Nat → State} (hexec : exec i s = finish s (streamBar i x f s))
    (h : s.streams i t n) (hrange : s.barInRange s.cur.team x.num.toNat = true)
    (htoken : dget n.tokens x.num.toNat ≠ none ∨ n.tokens.length < 16) {t1 : Team} {m : Inst}
    (hteam : (s.barSettle (n.part / 4) x.num.toNat).team? s.cur.team = some t1) (hinst : dget t1.insts s.cur.unit = some m)
    (hf : ∀ s m core bar, (f s m core bar).access = s.access) :
    s.completesIf s.bare i (f (s.barSettle (n.part / 4) x.num.toNat) m (n.part / 4) x.num.toNat) := by
  rw [streamBar_settled h hrange htoken hteam hinst] at hexec
  exact completesIf_of_finish hexec fun hbare => settled_of_access (hf ..) (settled_of_bare (barSettle_bare hbare _ _))

end

/-- MWAIT at a settled barrier, with the word and the cycle of the step. -/
theorem mwaitOn_barSettle (s : State) (m : Inst) (core bar : Nat) :
    let s1 := s.barSettle core bar
    let tok := (dget m.tokens bar).getD false
    let turn (old : Nat) : Nat := if (s1.bar core bar).ph = tok then old else s.cycle + 1
    s1.mwaitOn m core bar = s1.setInst s.cur.team s.cur.unit { m with
      tokens := dput m.tokens bar tok, waits := some (bar, tok), busyTo := turn m.busyTo, ranTo := turn m.ranTo } := by
  obtain ⟨hcur, hcycle⟩ := sameAt_barSettle s core bar
  simp only [State.mwaitOn, hcur, hcycle]

/-- MARR at a settled barrier, with the word of the step. -/
theorem marrOn_barSettle (x : MXFields) (s : State) (m : Inst) (core bar : Nat) :
    let s1 := s.barSettle core bar
    let b := s1.bar core bar
    let s2 := s1.setBar core bar (b.arrive x.imm.toNat 0)
    State.marrOn x s1 m core bar = s2.setInst s.cur.team s.cur.unit
      (Inst.runs (Inst.nextInstr { m with tokens := dput m.tokens bar b.ph, marked := some bar }) s2.cycle 1) := by
  intro s1 b s2
  have hcur : s2.cur = s.cur := (sameAt_barSettle s core bar).1
  exact streamDone_of_cur hcur ..

/-! ### MSTC (R305) -/

/-- What MSTC does with its region of the window (R305). -/
def State.mstcOn (n : Inst) (x : MXFields) (s : State) (c o : Nat) : State :=
  let size := elemBits x.ta.toNat / 8
  (s.writeLoc (n.part / 4) 0 ((List.range 16384).flatMap (fun i =>
      toBytes size (storeElem (n.acct x.acc) x.mod.toNat x.ta.toNat (tget 0 (n.acc x.acc) i))))
    (.stash s.cur.team c o)).streamDone (if size = 4 then 128 else 64) n

section
variable {s : State} {t : Team} {n : Inst} {x : MXFields} (h : s.streams (.mstc x) t n)
include h

theorem exec_mstc_type (hty : n.acct x.acc ≠ (x.ta.toNat != 0 && x.ta.toNat != 8)) :
    exec (.mstc x) s = finish s (s.streamTrap 0x04 0 n.wordAt) := by
  refine (congrArg (finish s) (guardedStream_of_streams h _)).trans ?_
  simp only [bne_iff_ne, ne_eq, hty, not_false_eq_true, if_true]

theorem exec_mstc_region (hty : n.acct x.acc = (x.ta.toNat != 0 && x.ta.toNat != 8)) :
    exec (.mstc x) s = finish s (s.withRegion t n (x.imm.toNat + n.li.toNat * n.ls.toNat)
      (16384 * (elemBits x.ta.toNat / 8)) true (State.mstcOn n x)) := by
  refine (congrArg (finish s) (guardedStream_of_streams h _)).trans ?_
  have hsame : ¬ ((n.acct x.acc != (x.ta.toNat != 0 && x.ta.toNat != 8)) = true) := by simp [hty]
  exact congrArg (finish s) (if_neg hsame)

theorem completesIf_mstc {s1 : State} {c o : Nat} (hty : n.acct x.acc = (x.ta.toNat != 0 && x.ta.toNat != 8))
    (hregion : s.region s.cur.team t n (x.imm.toNat + n.li.toNat * n.ls.toNat) (16384 * (elemBits x.ta.toNat / 8)) true =
      (s1, .ok c o)) :
    let size := elemBits x.ta.toNat / 8
    let s2 := s1.writeLoc (n.part / 4) 0 ((List.range 16384).flatMap (fun i =>
        toBytes size (storeElem (n.acct x.acc) x.mod.toNat x.ta.toNat (tget 0 (n.acc x.acc) i)))) (.stash s.cur.team c o)
    s.completesIf s1.settled (.mstc x)
      (s2.setInst s.cur.team s.cur.unit (n.nextInstr.runs s2.cycle (if size = 4 then 128 else 64))) := by
  intro size s2
  have hsame := sameAt_of_region hregion
  have heffect : State.mstcOn n x s1 c o = s2.streamDone (if size = 4 then 128 else 64) n := by
    rw [State.mstcOn, hsame.1]
  rw [← streamDone_of_cur (sameAt_trans hsame (sameAt_writeStash ..)).1, ← heffect]
  exact completesIf_of_finish (exec_of_region (exec_mstc_region h hty) hregion)
    (settled_of_access ((streamDone_access ..).trans (writeLoc_stash_access ..)))

end

end Sys2Proof.Machine
end

section
/-!
PROOFS. O43, MMA (R304): its operands, its tile and the dot products (R159, R171); O43 settled.
-/
namespace Sys2Proof.Machine

/-! ### A tile and its elements -/

/-- What a table answers that lists f of some keys, the default left out. -/
theorem tget_filter_map {α : Type} [DecidableEq α] (d : α) (f : Nat → α) (l : List Nat) (k : Nat) :
    tget d ((l.map (fun i => (i, f i))).filter (fun e => e.2 != d)) k = if k ∈ l then f k else d := by
  induction l with
  | nil => rfl
  | cons j l ih =>
    rw [List.map_cons, List.filter_cons]
    by_cases hk : j = k
    · subst hk
      by_cases hd : f j = d <;> simp [hd, ih, tget]
    · by_cases hd : f j = d <;> simp [hd, ih, tget, hk, Ne.symm hk]

/-- Element (a, b) of a tile stands at 128a + b (R304). -/
theorem tget_mkTile (f : Nat → Nat → Word32) {a b : Nat} (ha : a < 128) (hb : b < 128) :
    tget 0 (mkTile f) (128 * a + b) = f a b := by
  have hdiv : (128 * a + b) / 128 = a := by omega
  have hmod : (128 * a + b) % 128 = b := by omega
  refine (tget_filter_map 0 (fun i => f (i / 128) (i % 128)) _ _).trans ?_
  rw [if_pos (List.mem_range.mpr (by omega)), hdiv, hmod]

/-- A tile is what its 128 × 128 elements are. -/
theorem mkTile_congr {f f' : Nat → Nat → Word32} (h : ∀ a < 128, ∀ b < 128, f a b = f' a b) : mkTile f = mkTile f' := by
  refine congrArg (List.filter _) (List.map_congr_left fun i hi => ?_)
  have hlt := List.mem_range.mp hi
  rw [h (i / 128) (by omega) (i % 128) (by omega)]

/-! ### Dot products of integers (R159, R171) -/

theorem dotInt_eq (ta : Nat) (c : Word32) (a b : OpRow) : dotInt ta c a b =
    c + BitVec.ofInt 32 (((List.range (depthOf ta)).map (fun k => a.int ta k * b.int ta k)).sum) := by
  unfold dotInt
  induction List.range (depthOf ta) generalizing c with
  | nil => simp
  | cons k l ih => rw [List.foldl_cons, ih, List.map_cons, List.sum_cons, BitVec.ofInt_add, BitVec.add_assoc]

theorem int_i8 (r : OpRow) (k : Nat) : r.int 8 k =
    (let e := r.bits / 2 ^ (8 * k) % 256; if e < 128 then (e : Int) else (e : Int) - 256) := by
  have helem : r.int 8 k = sgn 8 (r.bits / 2 ^ (8 * k) % 256) := rfl
  have hlt : r.bits / 2 ^ (8 * k) % 256 < 2 ^ 8 := Nat.mod_lt _ (by decide)
  rw [helem, sgn_of_lt (by decide) hlt]
  rfl

theorem int_i4 (r : OpRow) (k : Nat) : r.int 9 k =
    (let e := r.bits / 2 ^ (4 * k) % 16; if e = 8 then 0 else if e < 8 then (e : Int) else (e : Int) - 16) := by
  have helem : r.int 9 k = (i4Value (r.bits / 2 ^ (4 * k) % 16)).1 := rfl
  rw [helem, i4Value]
  dsimp only
  repeat' split
  all_goals rfl

/-! ### MMA (R304) -/

/-- The element types of A and B (R304). -/
def Inst.mmaA (n : Inst) (x : MXFields) : Nat := if x.ta = 15 then n.mfmt.toNat % 16 else x.ta.toNat
def Inst.mmaB (n : Inst) (x : MXFields) : Nat := if x.tb = 15 then n.mfmt.toNat / 2 ^ 4 % 16 else x.tb.toNat

/-- The types of A, B and the accumulator go together (R293, R304). -/
def Inst.mmaTyped (n : Inst) (x : MXFields) : Prop :=
  n.mmaA x = n.mmaB x ∧ n.mcIsF32 = decide (n.mmaA x ≤ 7) ∧ (x.mod = 1 ∨ n.acct x.acc = n.mcIsF32)

/-- Do the operands carry decade scales (R158, R293)? -/
def Inst.mmaScaled (n : Inst) (x : MXFields) : Bool := n.mmaA x == 7 && decide (n.mfmt.toNat / 2 ^ 12 % 4 = 1)

/-- Is the sum the sequential loop of R173? -/
def State.mmaOrdered (s : State) (t : Team) (n : Inst) : Bool :=
  n.mfmt.getLsbD 14 || ((dget s.grids t.gridKey).map (fun g => g.lrec.det)).getD false

/-- Row a of A and column b of B (R294, R295). -/
def Inst.mmaRow (n : Inst) (x : MXFields) (t : Team) (c o a : Nat) : OpRow := tileRow t c o a (n.mmaScaled x)
def Inst.mmaCol (n : Inst) (x : MXFields) (q : List Group) (b : Nat) : OpRow := quadCol q x.num.toNat b (n.mmaScaled x)

/-- Element (a, b) of the product (R304). -/
def State.mmaElem (s : State) (t : Team) (n : Inst) (x : MXFields) (q : List Group) (c o a b : Nat) : Word32 :=
  let old := if x.mod = 1 then 0 else tget 0 (n.acc x.acc) (128 * a + b)
  if !n.mcIsF32 then dotInt (n.mmaA x) old (n.mmaRow x t c o a) (n.mmaCol x q b)
  else if s.mmaOrdered t n then dotSeq (n.mmaA x) old (n.mmaRow x t c o a) (n.mmaCol x q b)
  else dotUnordered (n.mmaA x) old (n.mmaRow x t c o a) (n.mmaCol x q b) (Config.mmaSum (s.fresh + 128 * a + b))

/-- The end of an MMA that has made a tile (R300, R304). -/
def State.mmaPut (t : Team) (n : Inst) (x : MXFields) (s : State) (tile : Tab Word32) : State :=
  { s.streamDone (if n.mcIsF32 && s.mmaOrdered t n then 256 else 128) (n.setAcc x.acc tile n.mcIsF32) with
    fresh := s.fresh + 16384 }

/-- What it does with its region of the window. -/
def State.mmaOn (t : Team) (n : Inst) (x : MXFields) (q : List Group) (s : State) (c o : Nat) : State :=
  if (List.range 128).all (fun m => scalesOk (n.mmaRow x t c o m)) && (List.range 128).all (fun m => scalesOk (n.mmaCol x q m))
  then State.mmaPut t n x s (mkTile (s.mmaElem t n x q c o))
  else s.streamTrap 0x02 1 n.wordAt

/-- What it does with a quad that is full. -/
def State.mmaQuad (t : Team) (n : Inst) (x : MXFields) (q : List Group) (s : State) : State :=
  let scl := n.mmaScaled x
  if q.any (fun g => decide (g.budget < x.num.toNat + (if scl then 8 else 7) + 11)) then s.streamTrap 0x04 0 n.wordAt
  else if !s.quadResident t s.cur.unit n x.num.toNat scl then s
  else s.withRegion t n (x.imm.toNat + n.li.toNat * n.ls.toNat) (if scl then 8448 else 8192) false (State.mmaOn t n x q)

/-- What it does with the quad that it finds. -/
def State.mmaStart (t : Team) (n : Inst) (x : MXFields) (s : State) : State :=
  match s.fullQuad t s.cur.unit with
  | none => s.streamTrap 0x01 0 n.wordAt
  | some q => State.mmaQuad t n x q s

/-- The check of the types in the model's form. -/
theorem mmaTyped_iff (n : Inst) (x : MXFields) : n.mmaTyped x ↔ (n.mmaA x != n.mmaB x || n.mcIsF32 != decide (n.mmaA x ≤ 7) ||
    (!(x.mod == 1) && n.acct x.acc != n.mcIsF32)) = false := by
  simp [Inst.mmaTyped, and_assoc, or_iff_not_imp_left]

theorem exec_mma {s : State} {t : Team} {n : Inst} {x : MXFields} (h : s.streams (.mma x) t n) : exec (.mma x) s =
    finish s (if (n.mmaA x != n.mmaB x || n.mcIsF32 != decide (n.mmaA x ≤ 7) || (!(x.mod == 1) && n.acct x.acc != n.mcIsF32))
      then s.streamTrap 0x04 0 n.wordAt else State.mmaStart t n x s) := by
  have hA : (if x.ta = 15 then fld n.mfmt 3 0 else x.ta.toNat) = n.mmaA x := by simp [Inst.mmaA, fld_eq]
  have hB : (if x.tb = 15 then fld n.mfmt 7 4 else x.tb.toNat) = n.mmaB x := by simp [Inst.mmaB, fld_eq]
  have hscl : (n.mmaA x == 7 && fld n.mfmt 13 12 == 1) = n.mmaScaled x := by
    simp [Inst.mmaScaled, fld_eq, Bool.beq_eq_decide_eq]
  refine (congrArg (finish s) (guardedStream_of_streams h _)).trans ?_
  simp only [hA, hB, hscl, mcF32_eq]
  congr 1
  refine if_congr Iff.rfl rfl ?_
  unfold State.mmaStart
  cases s.fullQuad t s.cur.unit with
  | none => rfl
  | some q =>
    refine if_congr Iff.rfl rfl (if_congr Iff.rfl rfl ?_)
    refine congrArg (s.withRegion t n _ _ false) ?_
    funext s1 c o
    refine (if_congr (by rw [Bool.not_eq_true', ← Bool.not_eq_true, List.all_map, List.all_map]; exact Iff.rfl) rfl
      (congrArg (State.mmaPut t n x s1) (mkTile_congr fun a ha b hb => ?_))).trans (ite_not ..)
    simp only [List.getElem?_map, List.getElem?_range ha, List.getElem?_range hb, Option.map_some, Option.getD_some, beq_iff_eq]
    rfl

section
variable {s : State} {t : Team} {n : Inst} {x : MXFields} (h : s.streams (.mma x) t n)
include h

theorem exec_mma_untyped (hty : ¬ n.mmaTyped x) : exec (.mma x) s = finish s (s.streamTrap 0x04 0 n.wordAt) := by
  rw [exec_mma h, if_pos (Bool.not_eq_false _ ▸ (mmaTyped_iff n x).not.mp hty)]

theorem exec_mma_alone (hty : n.mmaTyped x) (hquad : s.fullQuad t s.cur.unit = none) :
    exec (.mma x) s = finish s (s.streamTrap 0x01 0 n.wordAt) := by
  rw [exec_mma h, (mmaTyped_iff n x).mp hty, State.mmaStart, hquad]
  rfl

variable {q : List Group}

theorem exec_mma_quad (hty : n.mmaTyped x) (hquad : s.fullQuad t s.cur.unit = some q) :
    exec (.mma x) s = finish s (State.mmaQuad t n x q s) := by
  rw [exec_mma h, (mmaTyped_iff n x).mp hty, State.mmaStart, hquad]
  rfl

theorem exec_mma_budget (hty : n.mmaTyped x) (hquad : s.fullQuad t s.cur.unit = some q)
    (hbudget : ∃ g ∈ q, g.budget < x.num.toNat + (if n.mmaScaled x then 8 else 7) + 11) :
    exec (.mma x) s = finish s (s.streamTrap 0x04 0 n.wordAt) := by
  rw [exec_mma_quad h hty hquad, State.mmaQuad, if_pos (by simpa using hbudget)]

variable (hty : n.mmaTyped x) (hquad : s.fullQuad t s.cur.unit = some q)
  (hbudget : ∀ g ∈ q, x.num.toNat + (if n.mmaScaled x then 8 else 7) + 11 ≤ g.budget)
include hty hquad hbudget

theorem exec_mma_nonresident (hresident : s.quadResident t s.cur.unit n x.num.toNat (n.mmaScaled x) = false) :
    exec (.mma x) s = finish s s := by
  rw [exec_mma_quad h hty hquad, State.mmaQuad, if_neg (by simpa using hbudget), hresident]
  rfl

theorem exec_mma_region (hresident : s.quadResident t s.cur.unit n x.num.toNat (n.mmaScaled x) = true) :
    exec (.mma x) s = finish s (s.withRegion t n (x.imm.toNat + n.li.toNat * n.ls.toNat)
      (if n.mmaScaled x then 8448 else 8192) false (State.mmaOn t n x q)) := by
  rw [exec_mma_quad h hty hquad, State.mmaQuad, if_neg (by simpa using hbudget), hresident]
  rfl

end

section
variable {t : Team} {n : Inst} {x : MXFields} {q : List Group} {c o : Nat}

theorem mmaOn_badScales (s : State) (h : ∃ m < 128, scalesOk (n.mmaRow x t c o m) = false ∨ scalesOk (n.mmaCol x q m) = false) :
    State.mmaOn t n x q s c o = s.streamTrap 0x02 1 n.wordAt := by
  obtain ⟨m, hm, hbad⟩ := h
  refine if_neg fun hall => ?_
  simp only [Bool.and_eq_true, List.all_eq_true, List.mem_range] at hall
  obtain ⟨hrows, hcols⟩ := hall
  obtain hbad | hbad := hbad
  · exact Bool.false_ne_true (hbad.symm.trans (hrows m hm))
  · exact Bool.false_ne_true (hbad.symm.trans (hcols m hm))

theorem mmaOn_goodScales (s : State) (h : ∀ m < 128, scalesOk (n.mmaRow x t c o m) = true ∧ scalesOk (n.mmaCol x q m) = true) :
    State.mmaOn t n x q s c o = State.mmaPut t n x s (mkTile (s.mmaElem t n x q c o)) := by
  refine if_pos ?_
  simp only [Bool.and_eq_true, List.all_eq_true, List.mem_range]
  exact ⟨fun m hm => (h m hm).1, fun m hm => (h m hm).2⟩

/-- What the tile of an MMA leaves in its stream, and of the machine. -/
theorem mmaPut_spec {s : State} {v : Team} (h : s.team? s.cur.team = some v) (tile : Tab Word32) :
    let u := State.mmaPut t n x s tile
    ∃ v m, u.team? s.cur.team = some v ∧ dget v.insts s.cur.unit = some m ∧ u.mem = s.mem ∧ u.groups = s.groups ∧
      m.acct x.acc = n.mcIsF32 ∧ m.acc (!x.acc) = n.acc (!x.acc) ∧
      m.busyTo = s.cycle + (if n.mcIsF32 && s.mmaOrdered t n then 256 else 128) ∧ m.acc x.acc = tile := by
  obtain ⟨hacc, hacct, hother⟩ := acc_setAcc n x.acc tile n.mcIsF32
  have hnext (a : Bool) := acc_nextInstr (n.setAcc x.acc tile n.mcIsF32) a
  exact ⟨_, _, team?_setInst h _ _, dget_dput_same _ _ _, State.setInst_mem .., modTeam_groups .., (hnext _).2.trans hacct,
    (hnext _).1.trans hother, rfl, (hnext _).1.trans hacc⟩

end

/-- MMA where the scales of its operands are in range: the accumulator holds the product (R304). -/
theorem mma_completes {s s1 : State} {t : Team} {n : Inst} {x : MXFields} {q : List Group} {c o : Nat}
    (hexec : exec (.mma x) s = finish s (State.mmaOn t n x q s1 c o)) (hsame : s.sameAt s1)
    (hscales : ∀ m < 128, scalesOk (n.mmaRow x t c o m) = true ∧ scalesOk (n.mmaCol x q m) = true)
    (hteam : s1.team? s.cur.team ≠ none) :
    ∃ u v m, s.completesIf s1.settled (.mma x) u ∧ u.team? s.cur.team = some v ∧ dget v.insts s.cur.unit = some m ∧
      u.mem = s1.mem ∧ u.groups = s1.groups ∧ m.acct x.acc = n.mcIsF32 ∧ m.acc (!x.acc) = n.acc (!x.acc) ∧
      m.busyTo = s.cycle + (if n.mcIsF32 && s1.mmaOrdered t n then 256 else 128) ∧
      ∀ a < 128, ∀ b < 128, tget 0 (m.acc x.acc) (128 * a + b) = s1.mmaElem t n x q c o a b := by
  obtain ⟨v0, hv0⟩ := Option.ne_none_iff_exists'.mp hteam
  rw [← hsame.1] at hv0 ⊢
  obtain ⟨v, m, hteam', hinst, hmem, hgroups, hacct, hother, hbusy, htile⟩ := mmaPut_spec hv0 (mkTile (s1.mmaElem t n x q c o))
  refine ⟨_, v, m, completesIf_of_finish (hexec.trans (congrArg (finish s) (mmaOn_goodScales s1 hscales)))
    (settled_of_access (streamDone_access s1 _ _)), hteam', hinst, hmem, hgroups, hacct, hother, hsame.2 ▸ hbusy, ?_⟩
  intro a ha b hb
  rw [htile, tget_mkTile _ ha hb]

/-- Settles O43, instruction by instruction: the check of `guardedStream` passes, and what is left are the branches of each
one's meaning. -/
theorem matrixWordsComplete : Obligations.MatrixWordsComplete := by
  refine ⟨fun s t n x => ⟨exec_msetf_imm, exec_msetf_alone, fun g => exec_msetf_fmt, fun h => ⟨_, exec_mzero h, rfl⟩, exec_mloop,
    exec_mbr, exec_mend,
    fun i hi h => ⟨completesIf_barOutside hi h, completesIf_tokensFull hi h,
      fun hrange htoken t1 m hteam hinst => ⟨?mwait, ?marr⟩⟩, fun h => ⟨?mstcType, ?mstc⟩,
    fun h => ⟨?mmaType, ?mmaAlone, fun hty q hquad => ⟨?mmaBudget, fun hbudget => ⟨?mmaFill, ?mma⟩⟩⟩⟩, ?dot,
    fun k r => ⟨int_i8 r k, int_i4 r k⟩⟩
  case mwait =>
    rintro rfl
    have heffect := completesIf_streamBar (exec_mwait x s) h hrange htoken hteam hinst fun _ _ _ _ => setInst_access ..
    rwa [mwaitOn_barSettle] at heffect
  case marr =>
    rintro rfl
    have heffect := completesIf_streamBar (exec_marr x s) h hrange htoken hteam hinst fun _ _ _ _ => streamDone_access ..
    rwa [marrOn_barSettle] at heffect
  case mstcType => exact fun hty => completesIf_streamTrap h (exec_mstc_type h hty)
  case mstc =>
    intro hty
    have hexec := exec_mstc_region h hty
    exact ⟨fun s1 hr => completesIf_streamTrap h (exec_of_outside hexec hr), fun s1 hr => completesIf_regionFault hexec hr,
      fun s1 hr => completesIf_regionWait hexec hr, fun s1 c o hr => completesIf_mstc h hty hr⟩
  case mmaType => exact fun hty => completesIf_streamTrap h (exec_mma_untyped h hty)
  case mmaAlone => exact fun hty hquad => completesIf_streamTrap h (exec_mma_alone h hty hquad)
  case mmaBudget => exact fun hbudget => completesIf_streamTrap h (exec_mma_budget h hty hquad hbudget)
  case mmaFill => exact fun hresident => completesIf_of_finish (exec_mma_nonresident h hty hquad hbudget hresident) id
  case mma =>
    intro hresident
    have hexec := exec_mma_region h hty hquad hbudget hresident
    exact ⟨fun s1 hr => completesIf_streamTrap h (exec_of_outside hexec hr), fun s1 hr => completesIf_regionFault hexec hr,
      fun s1 hr => completesIf_regionWait hexec hr, fun s1 c o hr =>
        ⟨fun hscales => completesIf_of_finish
            ((exec_of_region hexec hr).trans (congrArg (finish s) (mmaOn_badScales s1 hscales)))
            (settled_of_access (streamTrap_access ..)),
          mma_completes (exec_of_region hexec hr) (sameAt_of_region hr)⟩⟩
  case dot =>
    intro ta c a b hta
    rw [dotInt_eq]
    obtain rfl | rfl := hta <;> rfl

end Sys2Proof.Machine
end

section
/-!
PROOFS. The moulds of the integer instructions (R175, R177): what each answers, and the width of its operands.
-/
namespace Sys2Proof.Machine

/-! ### The moulds -/

section
variable {s : State} {i : Instr} {g : Group} {r : Running}

/-- An instruction of the mould, its function known by the values. -/
theorem exec_intMould {o : Alu} {f f' : Bool → Nat → Nat → Nat → Nat × BitVec 16} (h : s.issues i g r)
    (hexec : exec i s = .next (intMould i o f s)) (hf : ∀ sg W a b, f sg W a b = f' sg W a b) :
    let t := s.ty g (aluTy o)
    exec i s = .next (s.aluResult g o (fun l =>
      f' (signedTy t) (widthOf (wide t)) (aluA g o (wide t) l) (aluB g o (wide t) l))) := by
  obtain rfl : f = f' := by
    funext sg W a b
    exact hf sg W a b
  exact hexec.trans (congrArg Host.Outcome.next (guarded_of_issues h _))

/-- The same for an instruction of format R alone. -/
theorem exec_intMould_reg {q : RFields} {f f' : Bool → Nat → Nat → Nat → Nat × BitVec 16} (h : s.issues i g r)
    (hexec : exec i s = .next (intMould i (.reg q) f s)) (hf : ∀ sg W a b, f sg W a b = f' sg W a b) :
    let t := s.ty g q.ty
    exec i s = .next (s.regResult g q (fun l => f' (signedTy t) (widthOf (wide t))
      (g.opVal (aVec q.form) (wide t) q.a.toNat l) (g.opVal (bVec q.form) (wide t) q.b.toNat l))) :=
  exec_intMould h hexec hf

theorem exec_intMould3 {q : RFields} {f : Bool → Nat → Nat → Nat → Nat → Nat} (h : s.issues i g r)
    (hexec : exec i s = .next (intMould3 i q f s)) :
    let t := s.ty g q.ty
    exec i s = .next (s.regResult g q (fun l =>
      (f (signedTy t) (widthOf (wide t)) (g.opVal (aVec q.form) (wide t) q.a.toNat l)
        (g.opVal (bVec q.form) (wide t) q.b.toNat l) (g.opVal (isVec q.form) (wide t) q.c.toNat l), 0))) :=
  hexec.trans (congrArg Host.Outcome.next (guarded_of_issues h _))

end

/-! ### Operands have W bits (R175) -/

theorem vecVal_lt (g : Group) (w : Bool) (n i : Nat) : g.vecVal w n i < 2 ^ widthOf w := by
  have hlow := (lane (g.vreg n) i).isLt
  have hhigh := (lane (g.vreg (n + 1)) i).isLt
  cases w
  · exact hlow
  · show _ + _ * 2 ^ 32 < 2 ^ 64
    omega

theorem scaVal_lt (g : Group) (w : Bool) (n : Nat) : g.scaVal w n < 2 ^ widthOf w := by
  cases w
  · exact Nat.mod_lt _ (Nat.two_pow_pos 32)
  · exact (g.sreg n).isLt

theorem opVal_lt (g : Group) (vec w : Bool) (n i : Nat) : g.opVal vec w n i < 2 ^ widthOf w := by
  cases vec
  · exact scaVal_lt g w n
  · exact vecVal_lt g w n i

theorem aluA_lt (g : Group) (o : Alu) (w : Bool) (i : Nat) : aluA g o w i < 2 ^ widthOf w := by
  cases o <;> exact opVal_lt ..

end Sys2Proof.Machine
end

section
/-!
PROOFS. O1: integer arithmetic, logic, minimum and maximum (R177) and the saturating add (R178).
-/
namespace Sys2Proof.Machine

/-! ### Results modulo 2^W as residues of the exact integers -/

theorem addR_eq (sg : Bool) (W a b : Nat) : addR sg W a b = (((a + b : Int) % 2 ^ W).toNat, 0) := by
  have hres : ((a + b : Int) % 2 ^ W) = ((a + b) % 2 ^ W : Nat) := by push_cast; rfl
  rw [hres, Int.toNat_natCast, addR]

theorem mulR_eq (sg : Bool) (W a b : Nat) : mulR sg W a b = (((a * b : Int) % 2 ^ W).toNat, 0) := by
  have hres : ((a * b : Int) % 2 ^ W) = (a * b % 2 ^ W : Nat) := by push_cast; rfl
  rw [hres, Int.toNat_natCast, mulR]

/-- The subtrahend is first reduced, so that the difference of naturals is exact. -/
theorem subR_eq (sg : Bool) (W a b : Nat) : subR sg W a b = (((a - b : Int) % 2 ^ W).toNat, 0) := by
  have hle : b % 2 ^ W ≤ a + 2 ^ W := by
    have := Nat.mod_lt b (Nat.two_pow_pos W)
    omega
  have hred : ((a + 2 ^ W - b % 2 ^ W : Nat) : Int) = (a - b) + 2 ^ W * (b / 2 ^ W + 1) := by
    have := Int.emod_add_mul_ediv b (2 ^ W)
    push_cast [Nat.cast_sub hle]
    linarith
  have hres : ((a - b : Int) % 2 ^ W) = ((a + 2 ^ W - b % 2 ^ W) % 2 ^ W : Nat) := by
    rw [Int.natCast_mod, hred, Nat.cast_pow, Nat.cast_ofNat, Int.add_mul_emod_self_left]
  rw [hres, Int.toNat_natCast, subR]

theorem floorDiv_two_pow (x : Int) (n : Nat) : floorDiv x (2 ^ n) = x / 2 ^ n := by
  rw [floorDiv, Int.fdiv_eq_ediv_of_nonneg _ (Int.natCast_nonneg _), Nat.cast_pow, Nat.cast_ofNat]

theorem mulhR_eq (sg : Bool) (W a b : Nat) :
    mulhR sg W a b = ((⌊(valOf sg W a * valOf sg W b : ℚ) / 2 ^ W⌋ % 2 ^ W).toNat, 0) := by
  have hfloor := Rat.floor_intCast_div_natCast (valOf sg W a * valOf sg W b) (2 ^ W)
  push_cast at hfloor
  rw [mulhR, toCode_eq, floorDiv_two_pow, hfloor]

theorem addsR_eq (sub sg : Bool) (W a b : Nat) :
    let lo : Int := if sg then -2 ^ (W - 1) else 0
    let hi : Int := if sg then 2 ^ (W - 1) - 1 else 2 ^ W - 1
    let x : Int := if sub then valOf sg W a - valOf sg W b else valOf sg W a + valOf sg W b
    addsR sub sg W a b = ((min (max x lo) hi % 2 ^ W).toNat, if x < lo ∨ hi < x then bitOF else 0) := by
  intro lo hi x
  have hsat : satInt sg W bitOF x = _ := satInt_eq sg W bitOF x
  exact congrArg (fun z : Res => (z.code, z.flags)) hsat

/-! ### The instructions -/

/-- Settles O1: each instruction is the mould of R177 with its function, and each function by its equation. -/
theorem integerResults : Obligations.IntegerResults := by
  refine ⟨fun s g r => ⟨fun o => ⟨fun h => ?iadd, fun h => ?isub, fun h => ?imul⟩, fun q => ⟨fun h => ?imulh, fun h => ?imad⟩⟩,
    fun s g r o => ⟨fun h => ?iand, fun h => ?ior, fun h => ?ixor, fun h => ?imin, fun h => ?imax⟩, fun s g r o h => ?iadds⟩
  case iadd => exact (exec_intMould h rfl addR_eq :)
  case isub => exact (exec_intMould h rfl subR_eq :)
  case imul => exact (exec_intMould h rfl mulR_eq :)
  case imulh => exact (exec_intMould_reg h rfl mulhR_eq :)
  case imad => exact (exec_intMould3 h rfl :)
  case iand => exact ⟨_, fun l j => Nat.testBit_and .., (exec_intMould h rfl fun sg W a b => rfl :)⟩
  case ior => exact ⟨_, fun l j => Nat.testBit_or .., (exec_intMould h rfl fun sg W a b => rfl :)⟩
  case ixor => exact ⟨_, fun l j => Nat.testBit_xor .., (exec_intMould h rfl fun sg W a b => rfl :)⟩
  case imin => exact (exec_intMould h rfl fun sg W a b => rfl :)
  case imax => exact (exec_intMould h rfl fun sg W a b => rfl :)
  case iadds =>
    refine (exec_intMould h rfl (addsR_eq (aluMod o == 1))).trans ?_
    simp only [beq_iff_eq]

end Sys2Proof.Machine
end

section
/-!
PROOFS. What makes an ALU word of this chapter illegal (R59, R71, R176): an operand field or a modifier of its signature.
-/
namespace Sys2Proof.Machine

/-- The check before an instruction fails on an illegal word. -/
theorem exec_illegal {s : State} {i : Instr} {g : Group} {r : Running} {f : Group → State}
    (hg : s.group? s.cur.gid = some g) (hr : (g.slot s.cur.slot).running = some r)
    (hexec : exec i s = .next (s.guarded i f)) (hbad : ¬ g.legal s.cur.slot i = true) : exec i s = .next s.illegal := by
  rw [hexec]
  simp [State.guarded, hg, hr, hbad]

theorem mkSig_ok {f : Form} {neg : Bool} {p : BitVec 3} {ok : Bool} {dst : Opnd} {srcs : List Opnd} {lat : Nat} {fixed : Bool}
    (h : (mkSig f neg p ok dst srcs lat fixed).ok = true) : ok = true ∧ ∀ o ∈ srcs, o.1 = true := by
  simp only [mkSig, Bool.and_eq_true, List.all_eq_true] at h
  obtain ⟨⟨⟨-, hok⟩, -⟩, hsrcs⟩ := h
  exact ⟨hok, hsrcs⟩

@[simp] theorem zeroF_fst {n : Nat} (x : BitVec n) : (zeroF x).1 = true ↔ x = 0 := beq_iff_eq

theorem sigMould_mod {B elt : Nat} {tys mods : List Nat} {o : Alu} (h : (sigMould B elt tys mods o).ok = true) :
    (aluMod o).toNat ∈ mods := by
  cases o <;> exact List.contains_iff_mem.mp (Bool.and_eq_true_iff.mp (mkSig_ok h).1).2

theorem sigMould_unused {B elt : Nat} {tys mods : List Nat} {q : RFields} (h : (sigMould B elt tys mods (.reg q)).ok = true) :
    q.c = 0 := by
  have hsrcs := (mkSig_ok h).2
  exact (zeroF_fst q.c).mp (hsrcs _ (by simp))

/-- A word of format R: its modifier is one of the row's, its B and C as the row asks. -/
theorem sigR_ok {B elt : Nat} {q : RFields} {tys mods : List Nat} {bo co : Opnd} {lat : Nat}
    (h : (sigR B elt q tys mods bo co lat).ok = true) : q.mod.toNat ∈ mods ∧ bo.1 = true ∧ co.1 = true := by
  obtain ⟨hok, hsrcs⟩ := mkSig_ok h
  exact ⟨List.contains_iff_mem.mp (Bool.and_eq_true_iff.mp hok).2, hsrcs _ (by simp), hsrcs _ (by simp)⟩

/-- A word whose form the row does not list. -/
theorem asR_of_not_mem {w : Word64} {fs : List Form} (k : RFields → Instr) (h : formOf w ∉ fs) : asR w fs k = none :=
  if_neg fun hmem => h (List.contains_iff_mem.mp hmem)

end Sys2Proof.Machine
end

section
/-!
PROOFS. O2: shifts and rotates (R179), bit fields (R184) and bit counts (R185).
-/
namespace Sys2Proof.Machine

theorem widthOf_pos (w : Bool) : 0 < widthOf w := by
  cases w <;> decide

/-! ### Shifts and rotates (R179) -/

section
variable {W a : Nat} (ha : a < 2 ^ W) (n : Nat)
include ha

theorem rotl_eq : rotl W a (n % W) = ((BitVec.ofNat W a).rotateLeft n).toNat := by
  rw [BitVec.rotateLeft_def, BitVec.toNat_or, BitVec.toNat_shiftLeft, BitVec.toNat_ushiftRight, BitVec.toNat_ofNat,
    Nat.mod_eq_of_lt ha, Nat.shiftLeft_eq, Nat.shiftRight_eq_div_pow, rotl]

theorem rotr_eq : rotr W a (n % W) = ((BitVec.ofNat W a).rotateRight n).toNat := by
  rw [BitVec.rotateRight_def, BitVec.toNat_or, BitVec.toNat_shiftLeft, BitVec.toNat_ushiftRight, BitVec.toNat_ofNat,
    Nat.mod_eq_of_lt ha, Nat.shiftLeft_eq, Nat.shiftRight_eq_div_pow, rotr]

end

theorem toInt_ofNat (W x : Nat) : (BitVec.ofNat W x).toInt = sgn W x := by
  simp [BitVec.toInt, sgn]

/-- Two's complement of the value of an n-bit code is the code's extension with its sign. -/
theorem toCode_sgn (W n x : Nat) : toCode W (sgn n x) = ((BitVec.ofNat n x).signExtend W).toNat := by
  rw [BitVec.signExtend, BitVec.toNat_ofInt, toInt_ofNat, toCode]

/-- The sign is all that an amount of W or more leaves. -/
theorem sgn_ediv_two_pow {W n : Nat} (hW : 0 < W) (h : W ≤ n) (x : Nat) : sgn W x / 2 ^ n = if sgn W x < 0 then -1 else 0 := by
  obtain ⟨k, rfl⟩ := Nat.exists_eq_add_one_of_ne_zero hW.ne'
  obtain ⟨hlo, hhi⟩ := sgn_mem k x
  have hpow : (2 : Int) ^ k ≤ 2 ^ n := pow_le_pow_right₀ (by decide) (by omega)
  have hpos : (0 : Int) < 2 ^ n := by positivity
  rw [Int.ediv_eq_iff_of_pos hpos]
  split <;> omega

theorem sshiftRight_eq {W : Nat} (hW : 0 < W) (a n : Nat) : ((BitVec.ofNat W a).sshiftRight n).toNat =
    if W ≤ n then (if sgn W a < 0 then 2 ^ W - 1 else 0) else toCode W (floorDiv (sgn W a) (2 ^ n)) := by
  have hcode : ((BitVec.ofNat W a).sshiftRight n).toNat = toCode W (sgn W a / 2 ^ n) := by
    rw [BitVec.sshiftRight, BitVec.toNat_ofInt, toInt_ofNat, Int.shiftRight_eq_div_pow, toCode, Nat.cast_pow, Nat.cast_pow]
    rfl
  rw [hcode, floorDiv_two_pow]
  split
  next hbig =>
    rw [sgn_ediv_two_pow hW hbig, toCode_eq]
    split
    · have : (0 : Int) < 2 ^ W := by positivity
      rw [Int.emod_eq_add_self_emod, Int.emod_eq_of_lt (by omega) (by omega)]
      have : ((2 ^ W : Nat) : Int) = 2 ^ W := by push_cast; rfl
      omega
    · rfl
  next => rfl

theorem shlR_eq {W a : Nat} (ha : a < 2 ^ W) (rot sg : Bool) (n : Nat) : shlR rot sg W a n =
    (if rot then ((BitVec.ofNat W a).rotateLeft n).toNat else if W ≤ n then 0 else a * 2 ^ n % 2 ^ W, 0) := by
  rw [shlR, rotl_eq ha]

theorem shrR_eq {W a : Nat} (hW : 0 < W) (ha : a < 2 ^ W) (rot sg : Bool) (n : Nat) : shrR rot sg W a n =
    (if rot then ((BitVec.ofNat W a).rotateRight n).toNat
     else if sg then ((BitVec.ofNat W a).sshiftRight n).toNat else if W ≤ n then 0 else a / 2 ^ n, 0) := by
  rw [shrR, rotr_eq ha, sshiftRight_eq hW]

/-! ### Bit fields (R184) -/

/-- The field of `len` bits from bit `pos` on, cut at W. -/
def fieldBits (W a pos len : Nat) : Nat := a / 2 ^ pos % 2 ^ (min (pos + len) W - pos)

theorem testBit_fieldBits (W a pos len j : Nat) :
    (fieldBits W a pos len).testBit j = (decide (pos + j < min (pos + len) W) && a.testBit (pos + j)) := by
  have hlt : j < min (pos + len) W - pos ↔ pos + j < min (pos + len) W := by omega
  rw [fieldBits, Nat.testBit_mod_two_pow, Nat.testBit_div_two_pow, Nat.add_comm j pos, decide_eq_decide.mpr hlt]

/-- A field that is not empty, extended with zeros or with its highest bit. -/
theorem testBit_extended {W pos len : Nat} (sg : Bool) (a : Nat) (hpos : pos < W) (hlen : 0 < len) {j : Nat} (hj : j < W) :
    let e := min (pos + len) W
    let f := fieldBits W a pos len
    (if sg then ((BitVec.ofNat (e - pos) f).signExtend W).toNat else f).testBit j =
      if pos + j < e then a.testBit (pos + j) else sg && a.testBit (e - 1) := by
  intro e f
  have hbit (i : Nat) : f.testBit i = (decide (pos + i < e) && a.testBit (pos + i)) := testBit_fieldBits ..
  cases sg with
  | false =>
    rw [if_neg Bool.false_ne_true, hbit]
    split <;> simp [*]
  | true =>
    have htop : pos + (e - pos - 1) = e - 1 := by omega
    rw [if_pos rfl, BitVec.testBit_toNat, BitVec.getLsbD_signExtend, BitVec.msb_eq_getLsbD_last, BitVec.getLsbD_ofNat,
      BitVec.getLsbD_ofNat, hbit, hbit, htop]
    by_cases hin : pos + j < e
    · simp [hj, hin, show j < e - pos by omega]
    · simp [hj, hin, show ¬ j < e - pos by omega, show 0 < e - pos by omega, show e - 1 < e by omega]

/-- What IBFE extracts. -/
def extracted (sg : Bool) (W a pos len : Nat) : Nat :=
  if W ≤ pos ∨ len = 0 then 0
  else if sg then ((BitVec.ofNat (min (pos + len) W - pos) (fieldBits W a pos len)).signExtend W).toNat
  else fieldBits W a pos len

theorem bfeR_eq (sg : Bool) (W a ctl : Nat) : bfeR sg W a ctl = (extracted sg W a (ctl % 256) (ctl / 256 % 256), 0) := by
  simp only [bfeR, extracted, toCode_sgn, Bool.or_eq_true, decide_eq_true_eq]
  split <;> rfl

theorem extracted_spec (sg : Bool) (W a pos len : Nat) :
    let e := min (pos + len) W
    extracted sg W a pos len < 2 ^ W ∧ ∀ j < W, (extracted sg W a pos len).testBit j =
      (decide (pos < W) && decide (0 < len) && (if pos + j < e then a.testBit (pos + j) else sg && a.testBit (e - 1))) := by
  intro e
  by_cases hempty : W ≤ pos ∨ len = 0
  · rw [extracted, if_pos hempty]
    have hnone : ¬ (pos < W ∧ 0 < len) := by omega
    exact ⟨Nat.two_pow_pos W, fun j hj => by simp [← Bool.decide_and, hnone]⟩
  obtain ⟨hpos, hlen⟩ : pos < W ∧ 0 < len := by omega
  rw [extracted, if_neg hempty, decide_eq_true hpos, decide_eq_true hlen]
  refine ⟨?_, fun j hj => testBit_extended sg a hpos hlen hj⟩
  split
  · exact BitVec.isLt _
  · exact (Nat.mod_lt _ (Nat.two_pow_pos _)).trans_le (Nat.pow_le_pow_right (by decide) (by omega))

/-- The bits from `pos` on, `len` of them, below W: the mask of IBFI. -/
def fieldMask (W pos len : Nat) : Nat := if W ≤ pos then 0 else (2 ^ min len W - 1) * 2 ^ pos % 2 ^ W

theorem testBit_fieldMask (W pos len : Nat) {j : Nat} (hj : j < W) :
    (fieldMask W pos len).testBit j = decide (pos ≤ j ∧ j < pos + len) := by
  unfold fieldMask
  split
  next hout => simp [show ¬ pos ≤ j by omega]
  next =>
    rw [Nat.testBit_mod_two_pow, Nat.testBit_mul_two_pow, Nat.testBit_two_pow_sub_one, ← Bool.decide_and, ← Bool.decide_and]
    exact decide_eq_decide.mpr (by omega)

theorem fieldMask_lt (W pos len : Nat) : fieldMask W pos len < 2 ^ W := by
  unfold fieldMask
  split
  · exact Nat.two_pow_pos W
  · exact Nat.mod_lt _ (Nat.two_pow_pos W)

theorem bfiR_eq (sg : Bool) (W a b ctl : Nat) :
    let m := fieldMask W (ctl % 256) (ctl / 256 % 256)
    bfiR sg W a b ctl = (b &&& (2 ^ W - (m + 1))) ||| ((a * 2 ^ (ctl % 256) % 2 ^ W) &&& m) := by
  intro m
  rw [Nat.add_comm m 1, ← Nat.sub_sub]
  rfl

theorem bfiR_spec (sg : Bool) (W a b ctl : Nat) :
    let pos := ctl % 256
    let len := ctl / 256 % 256
    bfiR sg W a b ctl < 2 ^ W ∧ ∀ j < W, (bfiR sg W a b ctl).testBit j =
      if pos ≤ j ∧ j < pos + len then a.testBit (j - pos) else b.testBit j := by
  intro pos len
  have hm : fieldMask W pos len < 2 ^ W := fieldMask_lt ..
  rw [bfiR_eq]
  refine ⟨Nat.or_lt_two_pow ?_ ?_, fun j hj => ?_⟩
  · exact Nat.and_lt_two_pow _ (Nat.sub_lt (Nat.two_pow_pos W) (Nat.succ_pos _))
  · exact Nat.and_lt_two_pow _ hm
  · rw [Nat.testBit_or, Nat.testBit_and, Nat.testBit_and, Nat.testBit_two_pow_sub_succ hm, Nat.testBit_mod_two_pow,
      Nat.testBit_mul_two_pow, testBit_fieldMask _ _ _ hj]
    by_cases hin : pos ≤ j ∧ j < pos + len
    · simp [hj, hin, pos]
    · simp [hj, hin]

/-! ### Bit counts (R185) -/

theorem clz_spec {W a : Nat} (ha : a < 2 ^ W) :
    clz W a ≤ W ∧ (∀ j, W - clz W a ≤ j → j < W → a.testBit j = false) ∧ (clz W a < W → a.testBit (W - 1 - clz W a) = true) := by
  obtain rfl | hne := eq_or_ne a 0
  · simp [clz]
  have hlog : a.log2 < W := (Nat.log2_lt hne).mpr ha
  have hclz : clz W a = W - 1 - a.log2 := if_neg hne
  refine ⟨by omega, fun j hlow _ => ?_, fun _ => ?_⟩
  · exact Nat.testBit_lt_two_pow (Nat.lt_log2_self.trans_le (Nat.pow_le_pow_right (by decide) (by omega)))
  · rw [hclz, show W - 1 - (W - 1 - a.log2) = a.log2 by omega]
    exact Nat.testBit_log2 hne

theorem popc_eq (W a : Nat) : popc W a = ((List.range W).filter (fun j => a.testBit j)).length := by
  unfold popc
  induction W with
  | zero => rfl
  | succ n ih =>
    rw [List.range_succ, List.foldl_append, ih, List.filter_append, List.length_append, List.foldl_cons, List.foldl_nil]
    have hbit : a / 2 ^ n % 2 = (a.testBit n).toNat := (Nat.toNat_testBit a n).symm
    rw [hbit]
    cases h : a.testBit n <;> simp [h]

/-! ### The instructions -/

/-- What of this family is illegal. -/
theorem shiftFieldAndCount_illegal {s : State} {g : Group} {r : Running} (hg : s.group? s.cur.gid = some g)
    (hr : (g.slot s.cur.slot).running = some r) :
    (∀ o : Alu, 2 ≤ aluMod o → exec (.ishl o) s = .next s.illegal ∧ exec (.ishr o) s = .next s.illegal) ∧
    (∀ i : IFields, i.imm.extractLsb' 16 6 ≠ 0 → exec (.ibfe (.imm i)) s = .next s.illegal) ∧
    (∀ q : RFields, q.c ≠ 0 → exec (.ibfe (.reg q)) s = .next s.illegal ∧ exec (.iclz q) s = .next s.illegal ∧
      exec (.ipopc q) s = .next s.illegal) ∧
    (∀ q : RFields, q.b ≠ 0 → exec (.iclz q) s = .next s.illegal ∧ exec (.ipopc q) s = .next s.illegal) := by
  refine ⟨fun o hmod => ?_, fun i himm => ?_, fun q hc => ?_, fun q hb => ?_⟩
  · have hbad {B elt : Nat} : ¬ (sigMould B elt tyBits [0, 1] o).ok = true := fun h => by
      have hmem := sigMould_mod h
      have hle : 2 ≤ (aluMod o).toNat := hmod
      simp only [List.mem_cons, List.not_mem_nil, or_false] at hmem
      omega
    exact ⟨exec_illegal hg hr rfl hbad, exec_illegal hg hr rfl hbad⟩
  · exact exec_illegal hg hr rfl fun h => himm (beq_iff_eq.mp (Bool.and_eq_true_iff.mp h).2)
  · have hbad {B elt : Nat} {bo : Opnd} {lat : Nat} : ¬ (sigR B elt q tyBits [0] bo (zeroF q.c) lat).ok = true := fun h =>
      hc ((zeroF_fst q.c).mp (sigR_ok h).2.2)
    exact ⟨exec_illegal hg hr rfl fun h => hc (sigMould_unused h), exec_illegal hg hr rfl hbad, exec_illegal hg hr rfl hbad⟩
  · have hbad {B elt : Nat} {co : Opnd} {lat : Nat} : ¬ (sigR B elt q tyBits [0] (zeroF q.b) co lat).ok = true := fun h =>
      hb ((zeroF_fst q.b).mp (sigR_ok h).2.1)
    exact ⟨exec_illegal hg hr rfl hbad, exec_illegal hg hr rfl hbad⟩

/-- ICLZ and IPOPC have no form 01 (R77, R185). -/
theorem decode_count_f01 {w : Word64} (hop : (opOf w).toNat = 0x13 ∨ (opOf w).toNat = 0x14) (hform : formOf w = .f01) :
    decode .alu w = none := by
  have hnot : formOf w ∉ [Form.f00, .f11] := by simp [hform]
  obtain hop | hop := hop
  · simp only [decode, decodeAlu, hop, asR_of_not_mem _ hnot]
  · simp only [decode, decodeAlu, hop, asR_of_not_mem _ hnot]

/-- Settles O2: each result by the specification of its function of natural numbers, on operands of W bits. -/
theorem shiftFieldAndCountResults : Obligations.ShiftFieldAndCountResults := by
  refine ⟨fun s g r o => ⟨fun h => ?ishl, fun h => ?ishr⟩, fun s g r => ⟨fun o h => ?ibfe, fun q h => ?ibfi⟩,
    fun s g r q => ⟨fun h => ?iclz, fun h => ?ipopc⟩, fun s g r => shiftFieldAndCount_illegal, fun w => decode_count_f01⟩
  case ishl =>
    refine (exec_intMould h rfl fun sg W a b => rfl).trans ?_
    simp only [shlR_eq (aluA_lt ..), beq_iff_eq]
  case ishr =>
    refine (exec_intMould h rfl fun sg W a b => rfl).trans ?_
    simp only [shrR_eq (widthOf_pos _) (aluA_lt ..), beq_iff_eq]
  case ibfe => exact ⟨_, (exec_intMould h rfl bfeR_eq :), fun l => extracted_spec ..⟩
  case ibfi => exact ⟨_, (exec_intMould3 h rfl :), fun l => bfiR_spec ..⟩
  case iclz => exact ⟨_, (exec_intMould_reg h rfl fun sg W a b => rfl :), fun l => clz_spec (opVal_lt ..)⟩
  case ipopc => exact (exec_intMould_reg h rfl fun sg W a b => by rw [popc_eq] :)

end Sys2Proof.Machine
end

section
/-!
PROOFS. O3: ICMP, ISEL, MOV and MOVI (R180 to R183).
-/
namespace Sys2Proof.Machine

/-! ### Results -/

/-- The conditions of ICMP (R180). -/
theorem icmpCond_spec (m : BitVec 3) (a b : Int) : let res := icmpCond m.toNat a b
    (m = 0 → (res ↔ a = b)) ∧ (m = 1 → (res ↔ a ≠ b)) ∧ (m = 2 → (res ↔ a < b)) ∧ (m = 3 → (res ↔ a ≤ b)) ∧
      (m = 4 → (res ↔ a > b)) ∧ (m = 5 → (res ↔ a ≥ b)) := by
  refine ⟨?_, ?_, ?_, ?_, ?_, ?_⟩
  all_goals
    rintro rfl
    exact decide_eq_true_iff

theorem aVec_of_not_isVec {f : Form} (h : isVec f = false) : aVec f = false := by
  cases f with
  | f11 => rfl
  | _ => cases h

/-- The two halves of a scalar after MOVI.HI (R183). -/
theorem movi_hi (imm : BitVec 32) (x : Word64) :
    imm ++ x.extractLsb' 0 32 = BitVec.ofNat 64 (imm.toNat * 2 ^ 32 + x.toNat % 2 ^ 32) := by
  apply BitVec.eq_of_toNat_eq
  have := imm.isLt
  have hlow : x.toNat % 2 ^ 32 < 2 ^ 32 := Nat.mod_lt _ (by decide)
  rw [BitVec.toNat_append, BitVec.extractLsb'_toNat, Nat.shiftRight_zero, BitVec.toNat_ofNat, ← Nat.shiftLeft_add_eq_or_of_lt hlow,
    Nat.shiftLeft_eq, Nat.mod_eq_of_lt (a := _ + _) (by omega)]

/-! ### The instructions -/

section
variable {s : State} {g : Group} {r : Running}

theorem exec_icmp {o : Alu} (h : s.issues (.icmp o) g r) :
    let t := s.ty g (aluTy o)
    let W := widthOf (wide t)
    let res (l : Nat) : Bool := icmpCond (aluMod o).toNat (valOf (signedTy t) W (aluA g o (wide t) l))
      (valOf (signedTy t) W (aluB g o (wide t) l))
    exec (.icmp o) s = .next (
      if isVec (aluForm o) then
        s.issuePred (aluDst o).toNat 4 (g.exec s.cur.mask (aluNeg o) (aluPred o)) (maskOf res) []
      else s.issueSca (aluDst o).toNat 2 (if res 0 then 1 else 0) 0) := by
  intro t W res
  have hbit (b : Bool) : w64n (boolBit b) = if b then 1 else 0 := by cases b <;> rfl
  refine (congrArg Host.Outcome.next (guarded_of_issues h _)).trans ?_
  rw [← hbit]

theorem exec_isel {q : RFields} (h : s.issues (.isel q) g r) :
    let w := wide (s.ty g q.ty)
    exec (.isel q) s = .next (s.regResult g q (fun l =>
      (if (if isVec q.form then (g.preg q.c.toNat).getLsbD l = true else g.sreg q.c.toNat ≠ 0)
       then g.opVal (aVec q.form) w q.a.toNat l else g.opVal (bVec q.form) w q.b.toNat l, 0))) := by
  intro w
  refine (congrArg Host.Outcome.next (guarded_of_issues h _)).trans ?_
  simp only [State.regResult, State.intResult]
  cases isVec q.form with
  | true => rfl
  | false =>
    simp only [Bool.false_eq_true, if_false, bne_iff_ne]
    rfl

theorem exec_mov {q : RFields} (h : s.issues (.mov q) g r) :
    exec (.mov q) s = .next (s.regResult g q (fun l => (g.opVal (aVec q.form) (wide (s.ty g q.ty)) q.a.toNat l, 0))) := by
  refine (congrArg Host.Outcome.next (guarded_of_issues h _)).trans ?_
  simp only [State.regResult, State.intResult]
  split
  next => rfl
  next hform =>
    rw [aVec_of_not_isVec (Bool.eq_false_iff.mpr hform)]
    rfl

theorem exec_movi_vec {x : WFields} (h : s.issues (.movi x) g r) (hform : isVec x.form = true) :
    exec (.movi x) s = .next
      (s.issueVec (g.exec s.cur.mask x.neg x.pred) false x.dst.toNat 4 (fun _ => (x.imm.toNat, 0))) :=
  (congrArg Host.Outcome.next (guarded_of_issues h _)).trans (congrArg Host.Outcome.next (if_pos hform))

theorem exec_movi_low {x : WFields} (h : s.issues (.movi x) g r) (hform : isVec x.form = false) (hhi : x.hi = false) :
    let t := s.ty g x.ty
    exec (.movi x) s = .next (s.issueSca x.dst.toNat 2
      (if t = 0 ∨ t = 2 then BitVec.ofInt 64 x.imm.toInt else BitVec.ofNat 64 x.imm.toNat) 0) := by
  intro t
  refine (congrArg Host.Outcome.next (guarded_of_issues h _)).trans ?_
  have hzero : x.imm.zeroExtend 64 = BitVec.ofNat 64 x.imm.toNat := (BitVec.ofNat_toNat 64 x.imm).symm
  simp only [hform, hhi, Bool.false_eq_true, if_false, Bool.or_eq_true, beq_iff_eq, hzero]
  rfl

theorem exec_movi_high {x : WFields} (h : s.issues (.movi x) g r) (hform : isVec x.form = false) (hhi : x.hi = true) :
    exec (.movi x) s = .next (s.issueSca x.dst.toNat 2
      (BitVec.ofNat 64 (x.imm.toNat * 2 ^ 32 + (g.sreg x.dst.toNat).toNat % 2 ^ 32)) 0) := by
  refine (congrArg Host.Outcome.next (guarded_of_issues h _)).trans ?_
  rw [← movi_hi]
  simp only [hform, hhi, Bool.false_eq_true, if_false, if_true]

end

/-! ### What is illegal -/

section
variable {B elt : Nat}

theorem sigIcmp_mod {o : Alu} (h : (sigIcmp B elt o).ok = true) : (aluMod o).toNat ≤ 5 := by
  cases o <;> exact of_decide_eq_true (Bool.and_eq_true_iff.mp (mkSig_ok h).1).2

theorem sigMovi_ok {x : WFields} (h : (sigMovi B elt x).ok = true) : let t := resolveTy elt x.ty
    (x.hi = true → isVec x.form = false ∧ (t = 2 ∨ t = 3)) ∧ (isVec x.form = true → t = 0 ∨ t = 1 ∨ t = 4) := by
  intro t
  obtain ⟨hty, hhi⟩ := Bool.and_eq_true_iff.mp (mkSig_ok h).1
  refine ⟨fun hx => ?_, fun hvec => ?_⟩
  · simpa [hx, isVec] using hhi
  · have hne : (x.form == .f11) = false := by simpa [isVec] using hvec
    simpa [hne] using hty

end

theorem compareSelectAndMove_illegal {s : State} {g : Group} {r : Running} (hg : s.group? s.cur.gid = some g)
    (hr : (g.slot s.cur.slot).running = some r) :
    (∀ o : Alu, 6 ≤ aluMod o → exec (.icmp o) s = .next s.illegal) ∧
    (∀ q : RFields, q.mod ≠ 0 → exec (.isel q) s = .next s.illegal ∧ exec (.mov q) s = .next s.illegal) ∧
    (∀ q : RFields, q.b ≠ 0 ∨ q.c ≠ 0 → exec (.mov q) s = .next s.illegal) ∧
    (∀ x : WFields, let t := s.ty g x.ty
      (x.hi = true → isVec x.form = true ∨ (t ≠ 2 ∧ t ≠ 3) → exec (.movi x) s = .next s.illegal) ∧
      (isVec x.form = true → t ≠ 0 → t ≠ 1 → t ≠ 4 → exec (.movi x) s = .next s.illegal)) := by
  refine ⟨fun o hmod => ?_, fun q hmod => ?_, fun q hunused => ?_, fun x => ⟨fun hhi hbad => ?_, fun hvec h0 h1 h4 => ?_⟩⟩
  · refine exec_illegal hg hr rfl fun h => ?_
    have hle : 6 ≤ (aluMod o).toNat := hmod
    have := sigIcmp_mod h
    omega
  · have hbad {B elt : Nat} {bo co : Opnd} {lat : Nat} : ¬ (sigR B elt q tyAny [0] bo co lat).ok = true := fun h =>
      hmod (BitVec.eq_of_toNat_eq (List.mem_singleton.mp (sigR_ok h).1))
    exact ⟨exec_illegal hg hr rfl hbad, exec_illegal hg hr rfl hbad⟩
  · refine exec_illegal hg hr rfl fun h => ?_
    obtain ⟨-, hb, hc⟩ := sigR_ok h
    exact hunused.elim (· ((zeroF_fst q.b).mp hb)) (· ((zeroF_fst q.c).mp hc))
  · refine exec_illegal hg hr rfl fun h => ?_
    obtain ⟨hform, hty⟩ := (sigMovi_ok h).1 hhi
    obtain hvec | ⟨h2, h3⟩ := hbad
    · exact absurd (hform.symm.trans hvec) Bool.false_ne_true
    · exact hty.elim h2 h3
  · refine exec_illegal hg hr rfl fun h => ?_
    obtain ht | ht | ht := (sigMovi_ok h).2 hvec
    exacts [h0 ht, h1 ht, h4 ht]

theorem asW_eq_none {w : Word64} {fs : List Form} {k : WFields → Instr} (h : formOf w ∈ fs → modOf w ≠ 0) : asW w fs k = none :=
  if_neg fun hok => by
    obtain ⟨hform, hmod⟩ := Bool.and_eq_true_iff.mp hok
    exact h (List.contains_iff_mem.mp hform) (beq_iff_eq.mp hmod)

/-- MOV has no form 10; MOVI has forms 00 and 11, and its bits [50:48] are zero. -/
theorem decode_mov_movi (w : Word64) : ((opOf w).toNat = 0x0F → formOf w = .f10 → decode .alu w = none) ∧
    ((opOf w).toNat = 0x10 → formOf w ≠ .f00 → formOf w ≠ .f11 → decode .alu w = none) ∧
    ((opOf w).toNat = 0x10 → modOf w ≠ 0 → decode .alu w = none) := by
  refine ⟨fun hop hform => ?_, fun hop h00 h11 => ?_, fun hop hmod => ?_⟩
  · have hnot : formOf w ∉ [Form.f00, .f01, .f11] := by simp [hform]
    simp only [decode, decodeAlu, hop, asR_of_not_mem _ hnot]
  · simp only [decode, decodeAlu, hop, asW_eq_none (w := w) (fs := [.f00, .f11]) fun h => absurd h (by simp [h00, h11])]
  · simp only [decode, decodeAlu, hop, asW_eq_none (w := w) (fs := [.f00, .f11]) fun _ => hmod]

/-- Settles O3: each instruction by its equation, the conditions of ICMP by `icmpCond_spec`. -/
theorem compareSelectAndMoveResults : Obligations.CompareSelectAndMoveResults :=
  ⟨fun _ _ _ _ h => ⟨_, fun _ => icmpCond_spec .., exec_icmp h⟩, fun _ _ _ _ => ⟨exec_isel, exec_mov⟩,
    fun _ _ _ _ h => ⟨exec_movi_vec h, exec_movi_low h, exec_movi_high h⟩,
    fun _ _ _ => compareSelectAndMove_illegal, decode_mov_movi⟩

end Sys2Proof.Machine
end

section
/-!
PROOFS. O4: PLOP, PMOV and PCNT (R186 to R188), and p0 (R71).
-/
namespace Sys2Proof.Machine

/-! ### Masks -/

theorem popcount_eq {n : Nat} (m : BitVec n) : popcount m = ((List.range n).filter (fun i => m.getLsbD i)).length := by
  have upTo (k : Nat) : (List.range k).foldl (fun a i => if m.getLsbD i then a + 1 else a) 0 =
      ((List.range k).filter (fun i => m.getLsbD i)).length := by
    induction k with
    | zero => rfl
    | succ k ih =>
      rw [List.range_succ, List.foldl_append, ih, List.filter_append, List.length_append, List.foldl_cons, List.foldl_nil]
      cases h : m.getLsbD k <;> simp [h]
  exact upTo n

/-- The search from the top of a range finds the greatest index. -/
theorem find?_reverse_range {p : Nat → Bool} {n : Nat} (h : ∃ i < n, p i = true) :
    ∃ a, (List.range n).reverse.find? p = some a ∧ a < n ∧ p a = true ∧ ∀ i < n, a < i → p i = false := by
  induction n with
  | zero =>
    obtain ⟨i, hi, -⟩ := h
    exact absurd hi (Nat.not_lt_zero i)
  | succ n ih =>
    rw [List.range_succ, List.reverse_append, List.reverse_singleton, List.singleton_append]
    cases hn : p n with
    | true => exact ⟨n, List.find?_cons_of_pos hn, Nat.lt_succ_self n, hn, fun i hi hlt => by omega⟩
    | false =>
      have hne {i : Nat} (hi : p i = true) : i ≠ n := by
        rintro rfl
        simp [hn] at hi
      obtain ⟨i, hi, hpi⟩ := h
      obtain ⟨a, hfind, ha, hpa, habove⟩ := ih ⟨i, by have := hne hpi; omega, hpi⟩
      refine ⟨a, (List.find?_cons_of_neg (by simp [hn])).trans hfind, by omega, hpa, fun i hi hlt => ?_⟩
      obtain rfl | hlow := Nat.eq_or_lt_of_le (Nat.le_of_lt_succ hi)
      · exact hn
      · exact habove i hlow hlt

/-- A mask that is not empty has a highest lane. -/
theorem highest?_spec {m : Mask} (h : m ≠ 0) :
    ∃ a, highest? m = some a ∧ a < 64 ∧ m.getLsbD a = true ∧ ∀ i, a < i → m.getLsbD i = false := by
  obtain ⟨b, -, hb, -⟩ := lowest?_spec h
  obtain ⟨a, hfind, ha, hset, habove⟩ := find?_reverse_range ⟨b, BitVec.lt_of_getLsbD hb, hb⟩
  refine ⟨a, hfind, ha, hset, fun i hi => ?_⟩
  by_cases hlt : i < 64
  · exact habove i hlt hi
  · exact BitVec.getLsbD_of_ge m i (not_lt.mp hlt)

theorem getLsbD_plopFn (m : Nat) (x y : Mask) {i : Nat} (hi : i < 64) : (plopFn m x y).getLsbD i = match m with
    | 0 => x.getLsbD i && y.getLsbD i
    | 1 => x.getLsbD i || y.getLsbD i
    | 2 => x.getLsbD i ^^ y.getLsbD i
    | 3 => x.getLsbD i && !y.getLsbD i
    | 4 => x.getLsbD i || !y.getLsbD i
    | 5 => !(x.getLsbD i && y.getLsbD i)
    | 6 => !(x.getLsbD i || y.getLsbD i)
    | _ => !(x.getLsbD i ^^ y.getLsbD i) := by
  have hnot (z : Mask) : (~~~z).getLsbD i = !z.getLsbD i := by rw [BitVec.getLsbD_not, decide_eq_true hi, Bool.true_and]
  unfold plopFn
  split <;> simp only [hnot, BitVec.getLsbD_and, BitVec.getLsbD_or, BitVec.getLsbD_xor]

theorem pcntFn_spec (m : BitVec 3) (x act : Mask) : let n := pcntFn m.toNat x act
    (m = 0 → n = ((List.range 64).filter (fun i => x.getLsbD i)).length) ∧
    (m = 1 → n = ((List.range 64).filter (fun i => x.getLsbD i && act.getLsbD i)).length) ∧
    (m = 2 → (x = 0 ∧ n = 64) ∨ (x.getLsbD n = true ∧ ∀ i < n, x.getLsbD i = false)) ∧
    (m = 3 → (x = 0 ∧ n = 64) ∨ (n < 64 ∧ x.getLsbD n = true ∧ ∀ i, n < i → x.getLsbD i = false)) := by
  refine ⟨?all, ?act, ?low, ?high⟩
  case all =>
    rintro rfl
    exact popcount_eq x
  case act =>
    rintro rfl
    simp only [← BitVec.getLsbD_and]
    exact popcount_eq (x &&& act)
  case low =>
    rintro rfl
    obtain rfl | hx := eq_or_ne x 0
    · exact .inl ⟨rfl, rfl⟩
    · obtain ⟨a, hlow, ha, hbelow⟩ := lowest?_spec hx
      have hn : pcntFn (2 : BitVec 3).toNat x act = a := congrArg (·.getD 64) hlow
      exact .inr (hn ▸ ⟨ha, hbelow⟩)
  case high =>
    rintro rfl
    obtain rfl | hx := eq_or_ne x 0
    · exact .inl ⟨rfl, rfl⟩
    · obtain ⟨a, hhigh, ha, hset, habove⟩ := highest?_spec hx
      have hn : pcntFn (3 : BitVec 3).toNat x act = a := congrArg (·.getD 64) hhigh
      exact .inr (hn ▸ ⟨ha, hset, habove⟩)

/-! ### The instructions -/

section
variable {s : State} {g : Group} {r : Running} {q : RFields}

theorem exec_plop (h : s.issues (.plop q) g r) : exec (.plop q) s = .next (s.issuePred q.dst.toNat 2 allLanes
    (plopFn q.mod.toNat (g.preg q.a.toNat) (g.preg q.b.toNat)) []) :=
  congrArg Host.Outcome.next (guarded_of_issues h _)

theorem exec_pmov (h : s.issues (.pmov q) g r) : exec (.pmov q) s = .next (
    if q.mod = 1 then s.issueSca q.dst.toNat 2 (g.preg q.a.toNat) 0
    else s.issuePred q.dst.toNat 2 allLanes (if q.mod = 0 then g.sreg q.a.toNat
      else if q.mod = 2 then g.preg q.a.toNat else (g.slot s.cur.slot).mask) []) := by
  refine (congrArg Host.Outcome.next (guarded_of_issues h _)).trans ?_
  have is {k : BitVec 3} (h : q.mod.toNat = k.toNat) : q.mod = k := BitVec.eq_of_toNat_eq h
  have isNot {k : BitVec 3} (h : q.mod.toNat ≠ k.toNat) : q.mod ≠ k := fun heq => h (congrArg BitVec.toNat heq)
  split
  next h0 => rw [is (k := 0) h0]; rfl
  next h1 => rw [is (k := 1) h1]; rfl
  next h2 => rw [is (k := 2) h2]; rfl
  next h0 h1 h2 => rw [if_neg (isNot (k := 1) h1), if_neg (isNot (k := 0) h0), if_neg (isNot (k := 2) h2)]

theorem exec_pcnt (h : s.issues (.pcnt q) g r) : exec (.pcnt q) s = .next (s.issueSca q.dst.toNat 2
    (BitVec.ofNat 64 (pcntFn q.mod.toNat (g.preg q.a.toNat) (g.slot s.cur.slot).mask)) 0) :=
  congrArg Host.Outcome.next (guarded_of_issues h _)

/-! ### What is illegal -/

theorem sigPmov_ok (h : (sigPmov q).ok = true) : q.mod.toNat ≤ 3 ∧ (q.mod = 3 → q.a = 0) := by
  obtain ⟨hok, hsrcs⟩ := mkSig_ok h
  refine ⟨of_decide_eq_true (Bool.and_eq_true_iff.mp hok).2, fun hmod => ?_⟩
  have hsrc := hsrcs _ (List.mem_cons_self ..)
  rw [hmod] at hsrc
  exact (zeroF_fst q.a).mp hsrc

/-- A predicate instruction has four modifiers, and PMOV.ACT no source. -/
theorem predicate_illegal (hg : s.group? s.cur.gid = some g) (hr : (g.slot s.cur.slot).running = some r) :
    (4 ≤ q.mod.toNat → exec (.pmov q) s = .next s.illegal ∧ exec (.pcnt q) s = .next s.illegal) ∧
    (q.mod = 3 → q.a ≠ 0 → exec (.pmov q) s = .next s.illegal) := by
  refine ⟨fun hmod => ⟨exec_illegal hg hr rfl fun h => ?_, exec_illegal hg hr rfl fun h => ?_⟩,
    fun hmod ha => exec_illegal hg hr rfl fun h => ha ((sigPmov_ok h).2 hmod)⟩
  · exact absurd (sigPmov_ok h).1 (by show ¬ q.mod.toNat ≤ 3; omega)
  · have hle : q.mod.toNat ≤ 3 := of_decide_eq_true (Bool.and_eq_true_iff.mp (mkSig_ok h).1).2
    omega

end

/-- Settles O4: the check of the modifiers, p0, and each instruction by its equation. -/
theorem predicateInstructionResults : Obligations.PredicateInstructionResults :=
  ⟨fun _ _ _ _ => predicate_illegal, fun _ => ⟨rfl, fun _ _ _ => rfl⟩,
    fun _ _ _ _ => ⟨fun h => ⟨_, exec_plop h, fun _ hi => getLsbD_plopFn _ _ _ hi⟩, exec_pmov,
      fun h => ⟨_, exec_pcnt h, pcntFn_spec ..⟩⟩⟩

end Sys2Proof.Machine
end

section
/-!
PROOFS. O12: VRED and VSCAN (R205).
-/
namespace Sys2Proof.Machine

/-! ### Combining lanes in ascending order -/

section
variable (mode : BitVec 16) (op t : Nat) (a : Nat → Nat) (m : Mask)

/-- A combination and the value of one lane more. -/
def combineNext (o : Option (Nat × BitVec 16)) (y : Nat) : Nat × BitVec 16 :=
  o.elim (y, 0) fun x => ((redCombine mode op t x.1 y).code, x.2 ||| (redCombine mode op t x.1 y).flags)

theorem combineLanes_concat (l : List Nat) (k : Nat) :
    combineLanes mode op t a (l ++ [k]) = some (combineNext mode op t (combineLanes mode op t a l) (a k)) := by
  cases l with
  | nil => rfl
  | cons j l =>
    rw [List.cons_append, combineLanes, List.foldl_append]
    rfl

/-- The combination of the lanes of `m` below n. -/
def combineTo (n : Nat) : Option (Nat × BitVec 16) :=
  combineLanes mode op t a ((List.range n).filter (fun i => m.getLsbD i))

theorem combineTo_succ_of_mem {n : Nat} (h : m.getLsbD n = true) :
    combineTo mode op t a m (n + 1) = some (combineNext mode op t (combineTo mode op t a m n) (a n)) := by
  rw [combineTo, List.range_succ, List.filter_append, List.filter_singleton, h]
  exact combineLanes_concat ..

theorem combineTo_succ_of_not_mem {n : Nat} (h : m.getLsbD n = false) :
    combineTo mode op t a m (n + 1) = combineTo mode op t a m n := by
  rw [combineTo, List.range_succ, List.filter_append, List.filter_singleton, h]
  exact congrArg (combineLanes mode op t a) (List.append_nil _)

/-! ### The running combination of the model -/

/-- `z` has run over the lanes of `m` below n. -/
structure Scan.ranTo (z : Scan) (n : Nat) : Prop where
  acc : z.acc = (combineTo mode op t a m n).map Prod.fst
  flags : z.flags = ((combineTo mode op t a m n).map Prod.snd).getD 0
  incl : ∀ k < n, m.getLsbD k = true → dget z.incl k = (combineTo mode op t a m (k + 1)).map Prod.fst
  excl : ∀ k < n, m.getLsbD k = true →
    dget z.excl k = some (((combineTo mode op t a m k).map Prod.fst).getD (redIdentity op t))
  fresh : ∀ k, n ≤ k → dget z.incl k = none ∧ dget z.excl k = none

variable {mode op t a m}

theorem scanStep_eq {z : Scan} {o : Option (Nat × BitVec 16)} (hacc : z.acc = o.map Prod.fst)
    (hflags : z.flags = (o.map Prod.snd).getD 0) (k : Nat) : scanStep mode op t a z k =
      ⟨some (combineNext mode op t o (a k)).1, z.incl ++ [(k, (combineNext mode op t o (a k)).1)],
        z.excl ++ [(k, (o.map Prod.fst).getD (redIdentity op t))], (combineNext mode op t o (a k)).2⟩ := by
  cases o with
  | none => simp [scanStep, hacc, hflags, combineNext]
  | some x => simp [scanStep, hacc, hflags, combineNext]

theorem dget_concat {α : Type} (l : Dict α) (k : Nat) (v : α) (j : Nat) :
    dget (l ++ [(k, v)]) j = (dget l j).or (if k = j then some v else none) := by
  induction l with
  | nil => rfl
  | cons e l ih =>
    simp only [List.cons_append, dget, ih]
    split <;> rfl

theorem ranTo_step {z : Scan} {n : Nat} (h : z.ranTo mode op t a m n) (hn : m.getLsbD n = true) :
    (scanStep mode op t a z n).ranTo mode op t a m (n + 1) := by
  have hnext := combineTo_succ_of_mem mode op t a m hn
  rw [scanStep_eq h.acc h.flags]
  refine ⟨by rw [hnext]; rfl, by rw [hnext]; rfl, fun k hk hm => ?_, fun k hk hm => ?_, fun k hk => ?_⟩
  · rw [dget_concat]
    obtain rfl | hlt := Nat.eq_or_lt_of_le (Nat.le_of_lt_succ hk)
    · rw [(h.fresh k le_rfl).1, if_pos rfl, hnext]
      rfl
    · rw [h.incl k hlt hm, if_neg (by omega), Option.or_none]
  · rw [dget_concat]
    obtain rfl | hlt := Nat.eq_or_lt_of_le (Nat.le_of_lt_succ hk)
    · rw [(h.fresh k le_rfl).2, if_pos rfl]
      rfl
    · rw [h.excl k hlt hm, if_neg (by omega), Option.or_none]
  · obtain ⟨hincl, hexcl⟩ := h.fresh k (by omega)
    rw [dget_concat, dget_concat, hincl, hexcl, if_neg (by omega), if_neg (by omega)]
    exact ⟨rfl, rfl⟩

theorem ranTo_skip {z : Scan} {n : Nat} (h : z.ranTo mode op t a m n) (hn : m.getLsbD n = false) :
    z.ranTo mode op t a m (n + 1) := by
  have hsame := combineTo_succ_of_not_mem mode op t a m hn
  have below {k : Nat} (hk : k < n + 1) (hm : m.getLsbD k = true) : k < n := by
    obtain rfl | hlt := Nat.eq_or_lt_of_le (Nat.le_of_lt_succ hk)
    · exact absurd (hn.symm.trans hm) Bool.false_ne_true
    · exact hlt
  exact ⟨hsame ▸ h.acc, hsame ▸ h.flags, fun k hk hm => h.incl k (below hk hm) hm, fun k hk hm => h.excl k (below hk hm) hm,
    fun k hk => h.fresh k (by omega)⟩

theorem foldl_scanStep_ranTo (n : Nat) : (((List.range n).filter (fun i => m.getLsbD i)).foldl (scanStep mode op t a)
    ⟨none, [], [], 0⟩).ranTo mode op t a m n := by
  induction n with
  | zero => exact ⟨rfl, rfl, fun k hk => absurd hk (Nat.not_lt_zero k), fun k hk => absurd hk (Nat.not_lt_zero k), fun _ _ => ⟨rfl, rfl⟩⟩
  | succ n ih =>
    rw [List.range_succ, List.filter_append, List.foldl_append, List.filter_singleton]
    cases hn : m.getLsbD n with
    | true => exact ranTo_step ih hn
    | false => exact ranTo_skip ih hn

theorem scanLanes_ranTo : (scanLanes mode op t m a).ranTo mode op t a m 64 := foldl_scanStep_ranTo 64

end

theorem redIdentity_eq (op t : Nat) : redIdentity op t =
    if op = 1 then (if t = 4 then 0x7F800000 else if signedTy t then 2 ^ (elemBits t - 1) - 1 else 2 ^ elemBits t - 1)
    else if op = 2 then (if t = 4 then 0xFF800000 else if signedTy t then 2 ^ (elemBits t - 1) else 0)
    else if op = 3 then 2 ^ elemBits t - 1 else 0 := by
  have hinf : fmtF32.infCode = 0x7F800000 := rfl
  have hneg : fmtF32.withSign true fmtF32.infCode = 0xFF800000 := rfl
  unfold redIdentity
  split
  next => simp [hinf]
  next => simp [hneg]
  next => rfl
  next h1 h2 h3 => rw [if_neg h1, if_neg h2, if_neg h3]

/-! ### Two values -/

section
variable (mode : BitVec 16) (x y : Nat)

section
variable {t : Nat} (ht : t ≠ 4)
include ht

theorem redCombine_int_sum : redCombine mode 0 t x y = ⟨(x + y) % 2 ^ elemBits t, 0⟩ := if_neg (by simpa using ht)

theorem redCombine_int_min : redCombine mode 1 t x y =
    ⟨if valOf (signedTy t) (elemBits t) x ≤ valOf (signedTy t) (elemBits t) y then x else y, 0⟩ := if_neg (by simpa using ht)

theorem redCombine_int_max : redCombine mode 2 t x y =
    ⟨if valOf (signedTy t) (elemBits t) x ≥ valOf (signedTy t) (elemBits t) y then x else y, 0⟩ := if_neg (by simpa using ht)

end

theorem redCombine_f32_sum : redCombine mode 0 4 x y = roundExact fmtF32 false (redRnd mode)
    (addExact false (readFloat (redRnd mode).fzi 4 x) (readFloat (redRnd mode).fzi 4 y)) := rfl

/-- MODE.RM is not read. -/
theorem redRnd_setFld (rm : Nat) : redRnd (setFld mode 2 0 rm) = redRnd mode := by
  have above {i : Nat} (hi : 2 < i) (hi' : i < 16) : (setFld mode 2 0 rm).getLsbD i = mode.getLsbD i := by
    rw [getLsbD_setFld mode (by decide) rm hi', if_neg (by omega)]
  rw [redRnd, above (by decide) (by decide), above (by decide) (by decide), above (by decide) (by decide), redRnd]

theorem redCombine_f32_sum_rm (rm : Nat) : redCombine mode 0 4 x y = redCombine (setFld mode 2 0 rm) 0 4 x y := by
  rw [redCombine_f32_sum, redCombine_f32_sum, redRnd_setFld]

end

theorem val_add {u v : SFrac} (hu : 0 < u.mag.d) (hv : 0 < v.mag.d) : (u.add v).val = u.val + v.val := by
  have hu' : (u.mag.d : ℚ) ≠ 0 := by positivity
  have hv' : (v.mag.d : ℚ) ≠ 0 := by positivity
  rw [SFrac.add, val_ofIntDiv, SFrac.val, SFrac.val]
  push_cast
  field_simp

/-- A sum that is not zero is the exact sum, whatever the rounding. -/
theorem sumExact_of_val_ne_zero (rm : Bool) {u v : SFrac} (h : (u.add v).val ≠ 0) : sumExact rm u v = u.add v := by
  refine if_neg fun hzero => h ?_
  have hn : (u.add v).mag.n = 0 := beq_iff_eq.mp hzero
  have hnum : (u.add v).num = 0 := by simp [SFrac.num, hn]
  rw [SFrac.val, hnum, Int.cast_zero, zero_div]

theorem redCombine_f32_numbers {mode : BitVec 16} {x y : Nat} {u v : SFrac} (hfzi : mode.getLsbD 3 = false)
    (hx : fmtF32.decode x = .num u) (hy : fmtF32.decode y = .num v) (hu : 0 < u.mag.d) (hv : 0 < v.mag.d)
    (hne : u.val + v.val ≠ 0) : ∃ z : SFrac, z.val = u.val + v.val ∧
      redCombine mode 0 4 x y = fmtF32.round false ⟨1, 0, false, mode.getLsbD 4, mode.getLsbD 5⟩ z := by
  have hadd := val_add hu hv
  have hread (c : Nat) : readFloat (redRnd mode).fzi 4 c = fmtF32.decode c := by
    have hoff : (redRnd mode).fzi = false := hfzi
    rw [hoff]
    rfl
  refine ⟨u.add v, hadd, ?_⟩
  rw [redCombine_f32_sum, hread, hread, hx, hy, redRnd, hfzi]
  exact congrArg (fmtF32.round false _) (sumExact_of_val_ne_zero false (hadd ▸ hne))

/-! ### The instructions -/

section
variable {s : State} {g : Group} {r : Running} {q : RFields}

theorem exec_vred (h : s.issues (.vred q) g r) :
    let t := s.ty g q.ty
    let z := scanLanes g.mode q.mod.toNat t (g.exec s.cur.mask q.neg q.pred) (fun l => g.vecVal (wide t) q.a.toNat l)
    exec (.vred q) s = .next (z.acc.elim s.advance fun v =>
      s.issueSca q.dst.toNat 8 (scalarOf (signedTy t) (wide t) v) z.flags) := by
  intro t z
  refine (congrArg Host.Outcome.next (guarded_of_issues h _)).trans ?_
  dsimp only
  split
  next hacc => rw [show z.acc = none from hacc]; rfl
  next v hacc => rw [show z.acc = some v from hacc]; rfl

theorem exec_vscan (h : s.issues (.vscan q) g r) :
    let t := s.ty g q.ty
    let m := g.exec s.cur.mask q.neg q.pred
    let z := scanLanes g.mode q.mod.toNat t m (fun l => g.vecVal (wide t) q.a.toNat l)
    exec (.vscan q) s = .next (s.pendResult 8 (vecUpd (wide t) q.dst.toNat m
        (fun l => (dget (if q.c.getLsbD 0 then z.excl else z.incl) l).getD 0))
      (if z.flags = 0 then [] else [(0, z.flags)])).advance :=
  congrArg Host.Outcome.next (guarded_of_issues h _)

end

/-- Settles O12: the model's running combination has, after each lane, combined the lanes up to it; two values by the
branch of `redCombine`. -/
theorem reductionResults : Obligations.ReductionResults := by
  refine ⟨fun s g r q => ?lanes, fun mode t x y => ⟨redCombine_int_sum mode x y, redCombine_int_min mode x y,
    redCombine_int_max mode x y, fun _ => Nat.testBit_and .., fun _ => Nat.testBit_or .., fun _ => Nat.testBit_xor ..,
    redCombine_f32_sum_rm mode x y, fun _ _ => redCombine_f32_numbers⟩⟩
  have hran := scanLanes_ranTo (mode := g.mode) (op := q.mod.toNat) (t := s.ty g q.ty)
    (a := fun l => g.vecVal (wide (s.ty g q.ty)) q.a.toNat l) (m := g.exec s.cur.mask q.neg q.pred)
  refine ⟨fun h => ?vred, fun h => ?vscan⟩
  case vred =>
    rw [exec_vred h, hran.acc, hran.flags]
    refine ⟨fun hnone => ?_, fun v fl hsome => ?_⟩
    · rw [show combineTo _ _ _ _ _ 64 = none from hnone]
      rfl
    · rw [show combineTo _ _ _ _ _ 64 = some (v, fl) from hsome]
      rfl
  case vscan =>
    refine ⟨_, fun k hk hm => ?_, _, hran.flags, exec_vscan h⟩
    cases q.c.getLsbD 0 with
    | true =>
      rw [if_pos rfl, if_pos rfl, hran.excl k hk hm, redIdentity_eq]
      rfl
    | false =>
      rw [if_neg Bool.false_ne_true, if_neg Bool.false_ne_true, hran.incl k hk hm]
      rfl

end Sys2Proof.Machine
end

section
/-!
PROOFS. O11: SHFL, VBAL, VBCAST and VMATCH (R203, R204, R206 to R208).
-/
namespace Sys2Proof.Machine

theorem inExec_iff (m : Mask) (j : Int) : inExec m j = true ↔ 0 ≤ j ∧ j ≤ 63 ∧ m.getLsbD j.toNat = true := by
  simp [inExec, and_assoc]

section
variable {s : State} {g : Group} {r : Running} {q : RFields}

theorem exec_shfl (h : s.issues (.shfl q) g r) :
    let w := wide (s.ty g q.ty)
    let m := g.exec s.cur.mask q.neg q.pred
    let j (i : Nat) : Int := shflLane q.mod.toNat (g.opVal (bVec q.form) false q.b.toNat i) i
    exec (.shfl q) s = .next (s.issueVec m w q.dst.toNat 8 (fun i =>
      (g.vecVal w q.a.toNat (if inExec m (j i) then (j i).toNat else i), 0))) :=
  congrArg Host.Outcome.next (guarded_of_issues h _)

theorem exec_vbal (h : s.issues (.vbal q) g r) :
    let m := g.exec s.cur.mask q.neg q.pred
    let b := maskOf (fun l => m.getLsbD l && g.vecVal (wide (s.ty g q.ty)) q.a.toNat l != 0)
    exec (.vbal q) s = .next (if q.mod = 0 then s.issuePred q.dst.toNat 8 allLanes b []
      else s.issueSca q.dst.toNat 8 b 0) :=
  congrArg Host.Outcome.next (guarded_of_issues h _)

/-- The source lane of VBCAST (R207). -/
def vbcastLane (g : Group) (q : RFields) (m : Mask) : Nat :=
  if q.form = .f00 then (lowest? m).getD 0 else (g.sreg q.b.toNat).toNat % 2 ^ 32

theorem exec_vbcast (h : s.issues (.vbcast q) g r) :
    let t := s.ty g q.ty
    let m := g.exec s.cur.mask q.neg q.pred
    let j := vbcastLane g q m
    let v := if inExec m j then g.vecVal (wide t) q.a.toNat j else 0
    exec (.vbcast q) s = .next (if q.mod = 0 then s.issueVec m (wide t) q.dst.toNat 8 (fun _ => (v, 0))
      else if m = 0 then s.advance else s.issueSca q.dst.toNat 8 (scalarOf (signedTy t) (wide t) v) 0) := by
  refine (congrArg Host.Outcome.next (guarded_of_issues h _)).trans ?_
  simp only [beq_iff_eq]
  rfl

theorem exec_vmatch (h : s.issues (.vmatch q) g r) :
    let m := g.exec s.cur.mask q.neg q.pred
    let a (l : Nat) : Nat := g.vecVal (wide (s.ty g q.ty)) q.a.toNat l
    exec (.vmatch q) s = .next (s.issueVec m true q.dst.toNat 8 (fun i =>
      ((maskOf (fun k => m.getLsbD k && a k == a i)).toNat, 0))) :=
  congrArg Host.Outcome.next (guarded_of_issues h _)

end

/-- In form 00 the source lane is the lowest of exec, where there is one. -/
theorem vbcastLane_spec (g : Group) (q : RFields) (m : Mask) : let j := vbcastLane g q m
    if q.form = .f00 then m ≠ 0 → (m.getLsbD j = true ∧ ∀ i < j, m.getLsbD i = false)
    else j = (g.sreg q.b.toNat).toNat % 2 ^ 32 := by
  intro j
  split
  next hform =>
    intro hm
    obtain ⟨a, hlow, ha, hbelow⟩ := lowest?_spec hm
    have hj : j = a := (if_pos hform).trans (congrArg (·.getD 0) hlow)
    exact hj ▸ ⟨ha, hbelow⟩
  next hform => exact if_neg hform

/-- Settles O11: each instruction by its equation, and the lanes of its masks by `getLsbD_maskOf`. -/
theorem crossLaneResults : Obligations.CrossLaneResults := by
  intro s g r q m t w a there
  have present {j : Int} : there j ↔ inExec m j = true := (inExec_iff m j).symm
  refine ⟨fun h => ⟨_, exec_shfl h, fun i => ?shfl⟩, fun h => ⟨_, fun i hi => ?vbal, exec_vbal h⟩,
    fun h => ⟨_, vbcastLane g q m, vbcastLane_spec g q m, fun _ => ⟨fun hj => ?vbcast, fun hj => ?vbcastNone⟩, exec_vbcast h⟩,
    fun h => ⟨_, fun i k hk => ?vmatch, exec_vmatch h⟩⟩
  case shfl =>
    intro n j
    exact ⟨fun hj => congrArg a (if_pos (present.mp hj)), fun hj => congrArg a (if_neg fun hin => hj (present.mpr hin))⟩
  case vbal => rw [getLsbD_maskOf hi, Bool.and_eq_true, bne_iff_ne]
  case vbcast => exact if_pos (present.mp hj)
  case vbcastNone => exact if_neg fun hin => hj (present.mpr hin)
  case vmatch => rw [getLsbD_maskOf hk, Bool.and_eq_true, beq_iff_eq]

end Sys2Proof.Machine
end

section
/-!
PROOFS. O5: FADD, FSUB, FMUL and FFMA (R193, R194).
-/
namespace Sys2Proof.Machine

/-! ### The exact sum and product -/

theorem num_eq_zero_iff (x : SFrac) : x.num = 0 ↔ x.mag.n = 0 := by
  unfold SFrac.num
  split <;> omega

theorem val_eq_zero_iff {x : SFrac} (h : 0 < x.mag.d) : x.val = 0 ↔ x.mag.n = 0 := by
  rw [SFrac.val, div_eq_zero_iff, Int.cast_eq_zero, num_eq_zero_iff, Nat.cast_eq_zero, or_iff_left h.ne']

theorem val_mul (x y : SFrac) : (x.mul y).val = x.val * y.val := by
  cases hx : x.neg <;> cases hy : y.neg <;> simp [SFrac.val, SFrac.num, SFrac.mul, Frac.mul, hx, hy] <;> ring

/-- The sum is exact, and a zero has the sign that R194 gives it. -/
theorem sumExact_spec (rm : Bool) {x y : SFrac} (hx : 0 < x.mag.d) (hy : 0 < y.mag.d) :
    (sumExact rm x y).val = x.val + y.val ∧
    ((sumExact rm x y).val = 0 → (sumExact rm x y).neg = if x.neg = y.neg then x.neg else rm) := by
  have hadd := val_add hx hy
  have hden : 0 < (x.add y).mag.d := Nat.mul_pos hx hy
  cases hzero : (x.add y).mag.isZero with
  | true =>
    have hsum : sumExact rm x y = ⟨if x.neg == y.neg then x.neg else rm, ⟨0, 1⟩⟩ := if_pos hzero
    have hval : (sumExact rm x y).val = 0 := by
      rw [val_eq_zero_iff (by rw [hsum]; exact Nat.one_pos), hsum]
    rw [hval, ← hadd, (val_eq_zero_iff hden).mpr (beq_iff_eq.mp hzero), hsum]
    simp only [beq_iff_eq, implies_true, and_self]
  | false =>
    have hsum : sumExact rm x y = x.add y := if_neg (by simp [hzero])
    rw [hsum]
    exact ⟨hadd, fun h0 => absurd ((val_eq_zero_iff hden).mp h0) (beq_eq_false_iff_ne.mp hzero)⟩

theorem arithmetic_of_numbers (rm : Bool) {x y z : SFrac} (hx : 0 < x.mag.d) (hy : 0 < y.mag.d) (hz : 0 < z.mag.d) :
    (∃ u, addExact rm (.num x) (.num y) = .num u ∧ u.val = x.val + y.val ∧
      (u.val = 0 → u.neg = if x.neg = y.neg then x.neg else rm)) ∧
    (∃ u, mulExact (.num x) (.num y) = .num u ∧ u.val = x.val * y.val ∧ u.neg = (x.neg ^^ y.neg)) ∧
    (∃ u, fmaExact rm (.num x) (.num y) (.num z) = .num u ∧ u.val = x.val * y.val + z.val ∧
      (u.val = 0 → u.neg = if (x.neg ^^ y.neg) = z.neg then z.neg else rm)) := by
  have hneg : (x.mul y).neg = (x.neg ^^ y.neg) := by simp [SFrac.mul]
  obtain ⟨hfma, hfmaZero⟩ := sumExact_spec rm (x := x.mul y) (Nat.mul_pos hx hy) hz
  refine ⟨⟨_, rfl, sumExact_spec rm hx hy⟩, ⟨_, rfl, val_mul x y, hneg⟩,
    ⟨sumExact rm (x.mul y) z, ?_, hfma.trans (by rw [val_mul]), fun h0 => (hfmaZero h0).trans ?_⟩⟩
  · simp [fmaExact, mulExact, FVal.isZero, FVal.isInf, FVal.isNan]
  · rw [hneg]
    split
    next heq => exact heq
    next => rfl

/-! ### Infinities and NaN (R194) -/

section
variable (rm n : Bool) {a b : FVal}

/-- A NaN operand gives NaN, invalid where one signals. -/
theorem exact_of_nan (h : a.isNan ∨ b.isNan) :
    addExact rm a b = .nan (a.isSig || b.isSig) ∧ mulExact a b = .nan (a.isSig || b.isSig) := by
  cases a <;> cases b <;> simp_all [FVal.isNan, addExact, mulExact, FVal.isSig]

theorem mulExact_zero_inf (h : a.isZero) : mulExact a (.inf n) = .nan true ∧ mulExact (.inf n) a = .nan true := by
  cases a <;> simp_all [FVal.isZero, mulExact, FVal.isInf]

theorem fmaExact_zero_inf (h : a.isZero) (c : FVal) :
    fmaExact rm a (.inf n) c = .nan true ∧ fmaExact rm (.inf n) a c = .nan true := by
  constructor <;> exact if_pos (by simp [h, FVal.isInf])

/-- An infinite product is of the sign of its factors. -/
theorem mulExact_inf (ha : ¬ a.isNan) (hb : ¬ b.isNan) (ha0 : ¬ a.isZero) (hb0 : ¬ b.isZero) (h : a.isInf ∨ b.isInf) :
    mulExact a b = .inf (a.neg ^^ b.neg) := by
  cases a <;> cases b <;> simp_all [FVal.isNan, FVal.isZero, FVal.isInf, FVal.neg, mulExact]

/-- An infinite product less the infinity of its own sign is invalid. -/
theorem fmaExact_inf_sub_inf (ha : ¬ a.isNan) (hb : ¬ b.isNan) (ha0 : ¬ a.isZero) (hb0 : ¬ b.isZero)
    (h : a.isInf ∨ b.isInf) : fmaExact rm a b (.inf !(a.neg ^^ b.neg)) = .nan true := by
  have hc (m : Bool) : (FVal.inf m).isNan = false := rfl
  rw [fmaExact, mulExact_inf ha hb ha0 hb0 h]
  simp [ha, hb, ha0, hb0, hc]

theorem fmaExact_of_nan {c : FVal} (h : a.isNan ∨ b.isNan ∨ c.isNan) (h1 : ¬ (a.isZero ∧ b.isInf))
    (h2 : ¬ (a.isInf ∧ b.isZero)) : fmaExact rm a b c = .nan (a.isSig || b.isSig || c.isSig) := by
  have hgood : ¬ ((a.isZero && b.isInf) || (a.isInf && b.isZero)) = true := by
    simpa only [Bool.or_eq_true, Bool.and_eq_true, not_or] using And.intro h1 h2
  have hnan : (a.isNan || b.isNan || c.isNan) = true := by simpa only [Bool.or_eq_true, or_assoc] using h
  exact (if_neg hgood).trans (if_pos hnan)

end

/-! ### The instructions -/

/-- What the four have in common (R193): each element is decoded, computed exactly and rounded once. -/
theorem floatMould_eq {s : State} {g : Group} {r : Running} {i : Instr} (h : s.issues i g r) (q : RFields)
    (op : Bool → FVal → FVal → FVal → Exact) :
    let t := s.ty g q.ty
    let f := floatFmt t
    let val (vec : Bool) (n : BitVec 11) (l j : Nat) : FVal :=
      f.decode (f.flushIn (g.mode.getLsbD 3) (elemOf f.width (g.opVal vec false n.toNat l) j))
    floatMould i q op s = s.issueVec (g.exec s.cur.mask q.neg q.pred) false q.dst.toNat 4 (fun l =>
      packRes (floatElems t) f.width (fun j => roundExact f (t != 4) (g.rnd q.mod l j)
        (op (rndCode g.mode q.mod == 4) (val (aVec q.form) q.a l j) (val (bVec q.form) q.b l j) (val true q.c l j)))) :=
  guarded_of_issues h _

/-- Settles O5: the mould of the four, the values of the exact results, and the special cases. -/
theorem floatArithmetic : Obligations.FloatArithmetic := by
  refine ⟨fun s g r q => ?_, fun rm x y z => arithmetic_of_numbers rm, fun rm n a b c => ⟨?_, exact_of_nan rm, fun ha => ?_,
    fmaExact_inf_sub_inf rm, fmaExact_of_nan rm⟩⟩
  · intro t f val rm meaning
    refine ⟨?_, ?_, ?_, ?_⟩ <;> exact fun h => congrArg Host.Outcome.next (floatMould_eq h q _)
  · cases n <;> rfl
  · obtain ⟨hmul, hmul'⟩ := mulExact_zero_inf n ha
    obtain ⟨hfma, hfma'⟩ := fmaExact_zero_inf rm n ha c
    exact ⟨hmul, hmul', hfma, hfma'⟩

end Sys2Proof.Machine
end

section
/-!
PROOFS. The values of f32 (R154, R161 to R163): fractions as reals, the number a code stands for, and what the rounding of
a magnitude does at the last place.
-/
namespace Sys2Proof.Machine

/-! ### Fractions as real numbers -/

/-- The value of a fraction. -/
noncomputable def Frac.real (x : Frac) : ℝ := x.n / x.d

namespace Frac

theorem real_nonneg (x : Frac) : 0 ≤ x.real := by
  unfold Frac.real
  positivity

theorem real_pos {x : Frac} (hn : 0 < x.n) (hd : 0 < x.d) : 0 < x.real := by
  unfold Frac.real
  positivity

theorem real_eq_zero_iff {x : Frac} (hd : 0 < x.d) : x.real = 0 ↔ x.n = 0 := by
  rw [Frac.real, div_eq_zero_iff, Nat.cast_eq_zero, Nat.cast_eq_zero, or_iff_left hd.ne']

@[simp] theorem real_ofPow2 (m : Nat) (e : Int) : (Frac.ofPow2 m e).real = m * 2 ^ e := by
  unfold Frac.ofPow2 Frac.real
  split
  next h =>
    have he : e = -((-e).toNat : Int) := by omega
    conv_rhs => rw [he, zpow_neg, zpow_natCast]
    simp [div_eq_mul_inv]
  next h =>
    have he : e = (e.toNat : Int) := by omega
    conv_rhs => rw [he, zpow_natCast]
    simp

@[simp] theorem real_mul (x y : Frac) : (x.mul y).real = x.real * y.real := by
  simp [Frac.real, Frac.mul, div_mul_div_comm]

@[simp] theorem real_inv (x : Frac) : x.inv.real = x.real⁻¹ := by
  simp [Frac.real, Frac.inv]

theorem le_iff_real {x y : Frac} (hx : 0 < x.d) (hy : 0 < y.d) : x.le y = true ↔ x.real ≤ y.real := by
  have hx' : (0 : ℝ) < x.d := by exact_mod_cast hx
  have hy' : (0 : ℝ) < y.d := by exact_mod_cast hy
  rw [Frac.le, decide_eq_true_eq, Frac.real, Frac.real, div_le_div_iff₀ hx' hy']
  exact_mod_cast Iff.rfl

theorem lt_iff_real {x y : Frac} (hx : 0 < x.d) (hy : 0 < y.d) : x.lt y = true ↔ x.real < y.real := by
  have hx' : (0 : ℝ) < x.d := by exact_mod_cast hx
  have hy' : (0 : ℝ) < y.d := by exact_mod_cast hy
  rw [Frac.lt, decide_eq_true_eq, Frac.real, Frac.real, div_lt_div_iff₀ hx' hy']
  exact_mod_cast Iff.rfl

theorem real_sub {x y : Frac} (hx : 0 < x.d) (hy : 0 < y.d) (h : y.real ≤ x.real) : (x.sub y).real = x.real - y.real := by
  have hx' : (x.d : ℝ) ≠ 0 := by positivity
  have hy' : (y.d : ℝ) ≠ 0 := by positivity
  have hle : y.n * x.d ≤ x.n * y.d := of_decide_eq_true ((le_iff_real hy hx).mpr h)
  rw [Frac.real, Frac.real, Frac.real, Frac.sub, Nat.cast_sub hle]
  push_cast
  field_simp

/-- The integer part of a fraction. -/
theorem div_spec {x : Frac} (hd : 0 < x.d) :
    ((x.n / x.d : Nat) : ℝ) ≤ x.real ∧ x.real = (x.n / x.d : Nat) + ((x.n % x.d : Nat) : ℝ) / x.d ∧
      x.real < (x.n / x.d : Nat) + 1 := by
  have hd' : (0 : ℝ) < x.d := by exact_mod_cast hd
  have hsplit : (x.n : ℝ) = x.d * (x.n / x.d : Nat) + (x.n % x.d : Nat) := by exact_mod_cast (Nat.div_add_mod x.n x.d).symm
  have hmod : ((x.n % x.d : Nat) : ℝ) < x.d := by exact_mod_cast Nat.mod_lt _ hd
  have hreal : x.real = (x.n / x.d : Nat) + ((x.n % x.d : Nat) : ℝ) / x.d := by
    rw [Frac.real, div_eq_iff hd'.ne', add_mul, div_mul_cancel₀ _ hd'.ne', mul_comm]
    exact hsplit
  have hfrac : ((x.n % x.d : Nat) : ℝ) / x.d < 1 := (div_lt_one hd').mpr hmod
  have hfrac0 : 0 ≤ ((x.n % x.d : Nat) : ℝ) / x.d := by positivity
  exact ⟨by linarith, hreal, by linarith⟩

end Frac

/-- The value of a signed fraction by its sign and its magnitude. -/
theorem SFrac.val_real (x : SFrac) : ((x.val : ℚ) : ℝ) = if x.neg then -x.mag.real else x.mag.real := by
  cases h : x.neg <;> simp [SFrac.val, SFrac.num, Frac.real, h, neg_div]

theorem SFrac.abs_val (x : SFrac) : |((x.val : ℚ) : ℝ)| = x.mag.real := by
  rw [SFrac.val_real]
  split
  · rw [abs_neg, abs_of_nonneg x.mag.real_nonneg]
  · rw [abs_of_nonneg x.mag.real_nonneg]

/-- A number above zero has no sign. -/
theorem SFrac.of_val_pos {x : SFrac} (h : 0 < x.val) : x.neg = false ∧ ((x.val : ℚ) : ℝ) = x.mag.real ∧ 0 < x.mag.real := by
  have hreal : (0 : ℝ) < x.val := by exact_mod_cast h
  have hval := x.val_real
  have habs := x.mag.real_nonneg
  cases hneg : x.neg with
  | true =>
    rw [hneg, if_pos rfl] at hval
    linarith
  | false =>
    rw [hneg, if_neg Bool.false_ne_true] at hval
    exact ⟨rfl, hval, hval ▸ hreal⟩

/-! ### Binades -/

/-- Powers of two do not lie inside a binade. -/
theorem binade_unique {v : ℝ} {e k : Int} (he : 2 ^ e ≤ v) (he' : v < 2 ^ (e + 1)) (hk : 2 ^ k ≤ v) (hk' : v < 2 ^ (k + 1)) :
    e = k := by
  have h1 := (zpow_lt_zpow_iff_right₀ (one_lt_two (α := ℝ))).mp (he.trans_lt hk')
  have h2 := (zpow_lt_zpow_iff_right₀ (one_lt_two (α := ℝ))).mp (hk.trans_lt he')
  omega

theorem floorLog2_spec {x : Frac} (hn : 0 < x.n) (hd : 0 < x.d) :
    (2 : ℝ) ^ floorLog2 x ≤ x.real ∧ x.real < 2 ^ (floorLog2 x + 1) := by
  have hn' : (0 : ℝ) < x.n := by exact_mod_cast hn
  have hd' : (0 : ℝ) < x.d := by exact_mod_cast hd
  have bounds {n : Nat} (h : 0 < n) : (2 : ℝ) ^ (n.log2 : Int) ≤ n ∧ (n : ℝ) < 2 ^ ((n.log2 : Int) + 1) := by
    rw [← Nat.cast_succ, zpow_natCast, zpow_natCast]
    exact ⟨by exact_mod_cast Nat.log2_self_le h.ne', by exact_mod_cast Nat.lt_log2_self⟩
  obtain ⟨hnlo, hnhi⟩ := bounds hn
  obtain ⟨hdlo, hdhi⟩ := bounds hd
  have two : (2 : ℝ) ≠ 0 := two_ne_zero
  have hlow : (2 : ℝ) ^ ((x.n.log2 : Int) - x.d.log2 - 1) ≤ x.real := by
    rw [Frac.real, le_div_iff₀ hd']
    calc (2 : ℝ) ^ ((x.n.log2 : Int) - x.d.log2 - 1) * x.d
        ≤ 2 ^ ((x.n.log2 : Int) - x.d.log2 - 1) * 2 ^ ((x.d.log2 : Int) + 1) := by gcongr
      _ = 2 ^ (x.n.log2 : Int) := by rw [← zpow_add₀ two]; congr 1; omega
      _ ≤ x.n := hnlo
  have hhigh : x.real < 2 ^ ((x.n.log2 : Int) - x.d.log2 + 1) := by
    rw [Frac.real, div_lt_iff₀ hd']
    calc (x.n : ℝ) < 2 ^ ((x.n.log2 : Int) + 1) := hnhi
      _ = 2 ^ ((x.n.log2 : Int) - x.d.log2 + 1) * 2 ^ (x.d.log2 : Int) := by rw [← zpow_add₀ two]; congr 1; omega
      _ ≤ 2 ^ ((x.n.log2 : Int) - x.d.log2 + 1) * x.d := by gcongr
  have htest : (Frac.ofPow2 1 ((x.n.log2 : Int) - x.d.log2)).le x = true ↔ (2 : ℝ) ^ ((x.n.log2 : Int) - x.d.log2) ≤ x.real := by
    rw [Frac.le_iff_real (Frac.ofPow2_den_pos _ _) hd, Frac.real_ofPow2, Nat.cast_one, one_mul]
  unfold floorLog2
  dsimp only
  split
  next h => exact ⟨htest.mp h, hhigh⟩
  next h =>
    rw [sub_add_cancel]
    exact ⟨hlow, not_le.mp (mt htest.mpr h)⟩

theorem floorLog2_eq {x : Frac} (hn : 0 < x.n) (hd : 0 < x.d) {k : Int} (h : 2 ^ k ≤ x.real) (h' : x.real < 2 ^ (k + 1)) :
    floorLog2 x = k :=
  binade_unique (floorLog2_spec hn hd).1 (floorLog2_spec hn hd).2 h h'

/-- The unit of R198 inside a binade. -/
theorem ulp_eq {v : ℝ} {e : Int} (h : 2 ^ e ≤ |v|) (h' : |v| < 2 ^ (e + 1)) : ulp v = 2 ^ (max e (-126) - 23) := by
  have hpos : 0 < |v| := lt_of_lt_of_le (by positivity) h
  have hfloor : ⌊Real.logb 2 |v|⌋ = e := by
    rw [Int.floor_eq_iff, Real.le_logb_iff_rpow_le one_lt_two hpos, Real.logb_lt_iff_lt_rpow one_lt_two hpos]
    refine ⟨by rwa [Real.rpow_intCast], ?_⟩
    rw [← Int.cast_one, ← Int.cast_add, Real.rpow_intCast]
    exact h'
  rw [ulp, hfloor]

theorem real_ulpOf {x : Frac} (hn : 0 < x.n) (hd : 0 < x.d) : (ulpOf x).real = ulp x.real := by
  obtain ⟨hlo, hhi⟩ := floorLog2_spec hn hd
  rw [← abs_of_nonneg x.real_nonneg] at hlo hhi
  rw [ulp_eq hlo hhi, ulpOf, Frac.real_ofPow2, Nat.cast_one, one_mul]

theorem ulp_pos (v : ℝ) : 0 < ulp v := by
  unfold ulp
  positivity

/-! ### The number that a code stands for -/

/-- A code's exponent field less one, zero for a subnormal. -/
def f32Exp (c : Nat) : Nat := c % 2 ^ 31 / 2 ^ 23 - 1
/-- A code's fraction field with the leading one of a normal number. -/
def f32Sig (c : Nat) : Nat := c % 2 ^ 31 - f32Exp c * 2 ^ 23

theorem f32_constants : fmtF32.signBit = 2 ^ 31 ∧ fmtF32.fracBits = 23 ∧ fmtF32.expBits = 8 ∧ fmtF32.bias = 127 ∧
    fmtF32.infCode = 0x7F800000 ∧ fmtF32.width = 32 := by decide

/-- The finite codes: significand times a power of two, from 2^-149 up (R154). -/
theorem decode_f32_finite {c : Nat} (h : c % 2 ^ 31 < 0x7F800000) :
    fmtF32.decode c = .num ⟨decide (2 ^ 31 ≤ c), Frac.ofPow2 (f32Sig c) ((f32Exp c : Int) - 149)⟩ := by
  have hdecode : fmtF32.decode c = if c % 2 ^ 31 / 2 ^ 23 = 255 then
      (if c % 2 ^ 31 % 2 ^ 23 = 0 then .inf (decide (2 ^ 31 ≤ c)) else .nan (decide (c % 2 ^ 31 % 2 ^ 23 < 2 ^ 22)))
    else if c % 2 ^ 31 / 2 ^ 23 = 0 then .num ⟨decide (2 ^ 31 ≤ c), Frac.ofPow2 (c % 2 ^ 31 % 2 ^ 23) (-149)⟩
    else .num ⟨decide (2 ^ 31 ≤ c), Frac.ofPow2 (2 ^ 23 + c % 2 ^ 31 % 2 ^ 23) ((c % 2 ^ 31 / 2 ^ 23 : Nat) - 127 - 23 : Int)⟩ := rfl
  rw [hdecode, if_neg (by omega)]
  unfold f32Sig f32Exp
  split
  next hzero =>
    rw [hzero]
    congr 3
    omega
  next hnormal =>
    congr 3 <;> omega

theorem decode_f32_inf {c : Nat} (h : c % 2 ^ 31 = 0x7F800000) : fmtF32.decode c = .inf (decide (2 ^ 31 ≤ c)) := by
  have hex : c % 2 ^ 31 / 2 ^ 23 = 2 ^ 8 - 1 := by omega
  have hfrac : c % 2 ^ 31 % 2 ^ 23 = 0 := by omega
  exact (if_pos hex).trans (if_pos hfrac)

theorem decode_f32_nan {c : Nat} (h : 0x7F800000 < c % 2 ^ 31) :
    fmtF32.decode c = .nan (decide (c % 2 ^ 31 < 0x7FC00000)) := by
  have hex : c % 2 ^ 31 / 2 ^ 23 = 2 ^ 8 - 1 := by omega
  have hfrac : ¬ c % 2 ^ 31 % 2 ^ 23 = 0 := by omega
  have hquiet : c % 2 ^ 31 < 0x7FC00000 ↔ c % 2 ^ 31 % 2 ^ 23 < 2 ^ 22 := by omega
  rw [decide_eq_decide.mpr hquiet]
  exact (if_pos hex).trans (if_neg hfrac)

theorem decode_f32_num {c : Nat} {u : SFrac} (h : fmtF32.decode c = .num u) : c % 2 ^ 31 < 0x7F800000 ∧
    u = ⟨decide (2 ^ 31 ≤ c), Frac.ofPow2 (f32Sig c) ((f32Exp c : Int) - 149)⟩ := by
  obtain hlt | heq | hgt := Nat.lt_trichotomy (c % 2 ^ 31) 0x7F800000
  · rw [decode_f32_finite hlt] at h
    exact ⟨hlt, (FVal.num.inj h).symm⟩
  · rw [decode_f32_inf heq] at h
    exact FVal.noConfusion h
  · rw [decode_f32_nan hgt] at h
    exact FVal.noConfusion h

theorem isSubnormal_f32 (c : Nat) : fmtF32.isSubnormal c = true ↔ 0 < c % 2 ^ 31 ∧ c % 2 ^ 31 < 2 ^ 23 := by
  simp only [BinFmt.isSubnormal, Bool.and_eq_true, decide_eq_true_eq]
  exact Iff.rfl

/-- What the two parts of a finite code are worth. -/
theorem f32Sig_spec {c : Nat} (h : c % 2 ^ 31 < 0x7F800000) : f32Exp c * 2 ^ 23 + f32Sig c = c % 2 ^ 31 ∧ f32Sig c < 2 ^ 24 ∧
    (f32Exp c = 0 ∨ 2 ^ 23 ≤ f32Sig c) ∧ f32Exp c ≤ 253 := by
  unfold f32Sig f32Exp
  omega

theorem withSign_f32 (neg : Bool) {m : Nat} (hm : m < 2 ^ 31) : fmtF32.withSign neg m % 2 ^ 31 = m ∧
    fmtF32.withSign neg m < 2 ^ 32 ∧ decide (2 ^ 31 ≤ fmtF32.withSign neg m) = neg := by
  have hbit : fmtF32.signBit = 2 ^ 31 := rfl
  cases neg <;> simp only [BinFmt.withSign, hbit, Bool.false_eq_true, if_true, if_false, decide_eq_true_eq,
    decide_eq_false_iff_not] <;> omega

/-- A significand of at most 24 bits, at a place that suits it, is the code of its value; 2^24 carries into the exponent. -/
theorem decode_f32_compose (neg : Bool) {k m : Nat} (hm : m ≤ 2 ^ 24) (hk : k = 0 ∨ 2 ^ 23 ≤ m)
    (hlt : k * 2 ^ 23 + m < 0x7F800000) : ∃ u, fmtF32.decode (fmtF32.withSign neg (k * 2 ^ 23 + m)) = .num u ∧
      u.neg = neg ∧ u.mag.real = m * 2 ^ ((k : Int) - 149) := by
  obtain ⟨hmag, -, hneg⟩ := withSign_f32 neg (m := k * 2 ^ 23 + m) (by omega)
  refine ⟨_, decode_f32_finite (hmag.trans_lt hlt), hneg, ?_⟩
  rw [Frac.real_ofPow2, f32Sig, f32Exp, hmag]
  obtain hsmall | rfl := Nat.lt_or_eq_of_le hm
  · have hexp : (k * 2 ^ 23 + m) / 2 ^ 23 - 1 = k := by omega
    rw [hexp, Nat.add_sub_cancel_left]
  · have hexp : (k * 2 ^ 23 + 2 ^ 24) / 2 ^ 23 - 1 = k + 1 := by omega
    have hsig : k * 2 ^ 23 + 2 ^ 24 - (k + 1) * 2 ^ 23 = 2 ^ 23 := by omega
    rw [hexp, hsig, Nat.cast_succ, add_sub_right_comm, zpow_add_one₀ two_ne_zero]
    push_cast
    ring

/-! ### Rounding to f32 (R161 to R163) -/

/-- The exponent of the last place of a result of magnitude x. -/
def f32Place (x : Frac) : Int := max (floorLog2 x) (-126) - 23
/-- The magnitude in units of its last place. -/
def f32Units (x : Frac) : Frac := x.mul (Frac.ofPow2 1 (-f32Place x))
/-- The whole units of x, and the remainder. -/
def f32Floor (x : Frac) : Nat := (f32Units x).n / (f32Units x).d
def f32Rest (x : Frac) : Nat := (f32Units x).n % (f32Units x).d
/-- The units of the result. -/
def f32Rounded (rnd : Rnd) (x : SFrac) : Nat :=
  if roundsAway rnd x.neg (f32Floor x.mag % 2 == 1) (f32Rest x.mag) (f32Units x.mag).d then f32Floor x.mag + 1
  else f32Floor x.mag
/-- The magnitude code of the result. -/
def f32Code (rnd : Rnd) (x : SFrac) : Nat := (f32Place x.mag + 149).toNat * 2 ^ 23 + f32Rounded rnd x

theorem f32Place_ge (x : Frac) : -149 ≤ f32Place x := by
  unfold f32Place
  omega

theorem f32Units_den_pos {x : Frac} (hd : 0 < x.d) : 0 < (f32Units x).d := Nat.mul_pos hd (Frac.ofPow2_den_pos _ _)

theorem real_f32Units (x : Frac) : (f32Units x).real * 2 ^ f32Place x = x.real := by
  rw [f32Units, Frac.real_mul, Frac.real_ofPow2, Nat.cast_one, one_mul, mul_assoc, ← zpow_add₀ two_ne_zero, neg_add_cancel,
    zpow_zero, mul_one]

section
variable {x : Frac} (hd : 0 < x.d)
include hd

theorem f32Floor_le : (f32Floor x : ℝ) ≤ (f32Units x).real := (Frac.div_spec (f32Units_den_pos hd)).1

theorem lt_f32Floor_add_one : (f32Units x).real < f32Floor x + 1 := (Frac.div_spec (f32Units_den_pos hd)).2.2

theorem f32Rest_eq_zero_iff : f32Rest x = 0 ↔ (f32Units x).real = f32Floor x := by
  have hden : ((f32Units x).d : ℝ) ≠ 0 := by exact_mod_cast (f32Units_den_pos hd).ne'
  have hsplit : (f32Units x).real = f32Floor x + (f32Rest x : ℝ) / (f32Units x).d := (Frac.div_spec (f32Units_den_pos hd)).2.1
  rw [hsplit, add_eq_left, div_eq_zero_iff, Nat.cast_eq_zero, or_iff_left hden]

/-- How twice the remainder compares with a whole unit tells which half the magnitude is in. -/
theorem f32Rest_half : (2 * f32Rest x < (f32Units x).d ↔ (f32Units x).real < f32Floor x + 1 / 2) ∧
    (2 * f32Rest x = (f32Units x).d ↔ (f32Units x).real = f32Floor x + 1 / 2) := by
  have hden : (0 : ℝ) < (f32Units x).d := by exact_mod_cast f32Units_den_pos hd
  have hsplit : (f32Units x).real = f32Floor x + (f32Rest x : ℝ) / (f32Units x).d := (Frac.div_spec (f32Units_den_pos hd)).2.1
  rw [hsplit]
  constructor
  · rw [add_lt_add_iff_left, div_lt_iff₀ hden, ← @Nat.cast_lt ℝ]
    push_cast
    constructor <;> intro h <;> linarith
  · rw [add_right_inj, div_eq_iff hden.ne', ← @Nat.cast_inj ℝ]
    push_cast
    constructor <;> intro h <;> linarith

/-- The units have at most 24 bits, and 24 where the number is normal. -/
theorem f32Units_bounds (hn : 0 < x.n) : (f32Units x).real < 2 ^ 24 ∧ (f32Place x = -149 ∨ (2 : ℝ) ^ 23 ≤ (f32Units x).real) ∧
    (-126 ≤ floorLog2 x → (2 : ℝ) ^ 23 ≤ (f32Units x).real) := by
  obtain ⟨hlo, hhi⟩ := floorLog2_spec hn hd
  have hplace : (0 : ℝ) < 2 ^ f32Place x := by positivity
  have hunits := real_f32Units x
  have hnormal : -126 ≤ floorLog2 x → (2 : ℝ) ^ 23 ≤ (f32Units x).real := fun h => by
    refine le_of_mul_le_mul_right ?_ hplace
    rw [hunits, ← zpow_natCast, ← zpow_add₀ two_ne_zero]
    refine (zpow_le_zpow_right₀ one_le_two ?_).trans hlo
    unfold f32Place
    push_cast
    omega
  refine ⟨?_, ?_, hnormal⟩
  · refine lt_of_mul_lt_mul_right ?_ hplace.le
    rw [hunits, ← zpow_natCast, ← zpow_add₀ two_ne_zero]
    refine hhi.trans_le (zpow_le_zpow_right₀ one_le_two ?_)
    unfold f32Place
    push_cast
    omega
  · by_cases h : -126 ≤ floorLog2 x
    · exact .inr (hnormal h)
    · exact .inl (by unfold f32Place; omega)

end

section
variable (rnd : Rnd) {x : SFrac} (hd : 0 < x.mag.d)

theorem f32Rounded_mem : f32Rounded rnd x = f32Floor x.mag ∨ f32Rounded rnd x = f32Floor x.mag + 1 := by
  unfold f32Rounded
  split
  · exact .inr rfl
  · exact .inl rfl

theorem f32Rounded_of_exact (h : f32Rest x.mag = 0) : f32Rounded rnd x = f32Floor x.mag := by
  rw [f32Rounded, h]
  exact if_neg (by simp [roundsAway])

include hd

/-- Rounding to nearest moves by half a unit at most. -/
theorem f32Rounded_nearest (h : rnd.code = 1) : |(f32Rounded rnd x : ℝ) - (f32Units x.mag).real| ≤ 1 / 2 := by
  have hle := f32Floor_le hd
  have hlt := lt_f32Floor_add_one hd
  obtain ⟨hbelow, hmid⟩ := f32Rest_half hd
  by_cases hexact : f32Rest x.mag = 0
  · rw [f32Rounded_of_exact rnd hexact, (f32Rest_eq_zero_iff hd).mp hexact, sub_self, abs_zero]
    norm_num
  have haway : roundsAway rnd x.neg (f32Floor x.mag % 2 == 1) (f32Rest x.mag) (f32Units x.mag).d =
      (decide (2 * f32Rest x.mag > (f32Units x.mag).d) ||
        (decide (2 * f32Rest x.mag = (f32Units x.mag).d) && (f32Floor x.mag % 2 == 1))) := by
    simp [roundsAway, h, hexact]
  unfold f32Rounded
  rw [haway, abs_le]
  split
  next hup =>
    have hge : ¬ 2 * f32Rest x.mag < (f32Units x.mag).d := by
      simp only [Bool.or_eq_true, Bool.and_eq_true, decide_eq_true_eq] at hup
      omega
    have := not_lt.mp (mt hbelow.mpr hge)
    push_cast
    constructor <;> linarith
  next hdown =>
    have hle' : (f32Units x.mag).real ≤ f32Floor x.mag + 1 / 2 := by
      simp only [Bool.or_eq_true, Bool.and_eq_true, decide_eq_true_eq, not_or] at hdown
      obtain hlow | heq : 2 * f32Rest x.mag < (f32Units x.mag).d ∨ 2 * f32Rest x.mag = (f32Units x.mag).d := by omega
      · exact (hbelow.mp hlow).le
      · exact (hmid.mp heq).le
    constructor <;> linarith

variable (hn : 0 < x.mag.n)
include hn

theorem f32Floor_lt : f32Floor x.mag < 2 ^ 24 := by
  have := (f32Floor_le hd).trans_lt (f32Units_bounds hd hn).1
  exact_mod_cast this

theorem le_f32Floor : (f32Place x.mag + 149).toNat = 0 ∨ 2 ^ 23 ≤ f32Floor x.mag := by
  refine (f32Units_bounds hd hn).2.1.imp (fun h => by omega) fun h => ?_
  have hlt := h.trans_lt (lt_f32Floor_add_one hd)
  have : 2 ^ 23 < f32Floor x.mag + 1 := by exact_mod_cast hlt
  omega

theorem f32Rounded_bounds : f32Rounded rnd x ≤ 2 ^ 24 ∧ ((f32Place x.mag + 149).toNat = 0 ∨ 2 ^ 23 ≤ f32Rounded rnd x) := by
  have hlt := f32Floor_lt hd hn
  have hge := le_f32Floor hd hn
  obtain h | h := f32Rounded_mem (x := x) rnd <;> omega

/-- Below the last step under 2^128 nothing overflows. -/
theorem f32Code_lt (h : x.mag.real < 2 ^ 128 - 2 ^ 104) : f32Code rnd x < 0x7F800000 := by
  obtain ⟨hlo, -⟩ := floorLog2_spec hn hd
  have hlog : floorLog2 x.mag < 128 := by
    refine (zpow_lt_zpow_iff_right₀ (one_lt_two (α := ℝ))).mp (hlo.trans_lt (h.trans ?_))
    norm_num
  have hfloor := f32Floor_lt hd hn
  have hmem := f32Rounded_mem (x := x) rnd
  unfold f32Code
  by_cases htop : floorLog2 x.mag = 127
  · have hplace : f32Place x.mag = 104 := by
      unfold f32Place
      omega
    have hunits := real_f32Units x.mag
    have hlast : f32Floor x.mag + 1 < 2 ^ 24 := by
      have hle := f32Floor_le hd
      rw [hplace] at hunits
      have : (f32Floor x.mag : ℝ) + 1 < 2 ^ 24 := by
        norm_num at hunits h ⊢
        linarith
      exact_mod_cast this
    rw [hplace]
    omega
  · unfold f32Place
    omega

variable {rnd}

/-- The magnitude code of the result stands for its units. -/
theorem decode_f32Code (hlt : f32Code rnd x < 0x7F800000) : ∃ u, fmtF32.decode (fmtF32.withSign x.neg (f32Code rnd x)) = .num u ∧
    u.neg = x.neg ∧ u.mag.real = f32Rounded rnd x * 2 ^ f32Place x.mag := by
  obtain ⟨hle, hge⟩ := f32Rounded_bounds rnd hd hn
  obtain ⟨u, hu, hneg, hreal⟩ := decode_f32_compose x.neg hle hge hlt
  have hplace := f32Place_ge x.mag
  refine ⟨u, hu, hneg, hreal.trans ?_⟩
  congr 2
  omega

end

/-- The bits that a result short of overflow raises (R163): inexact, and underflow where it is tiny as well. -/
def f32Flags (rnd : Rnd) (x : SFrac) : BitVec 16 :=
  let e := floorLog2 x.mag
  let tiny := decide (e < -126) && (
    let u := x.mag.mul (Frac.ofPow2 1 (-(e - 23)))
    let q := if roundsAway rnd x.neg (u.n / u.d % 2 == 1) (u.n % u.d) u.d then u.n / u.d + 1 else u.n / u.d
    (Frac.ofPow2 q (e - 23)).lt (Frac.ofPow2 1 (-126)))
  (if f32Rest x.mag = 0 then 0 else bitNX) ||| (if tiny && f32Rest x.mag ≠ 0 then bitUF else 0)

/-- The rounding of a number that is not zero, short of overflow. -/
theorem round_f32 (narrow : Bool) {rnd : Rnd} {x : SFrac} (hn : 0 < x.mag.n) (hlt : f32Code rnd x < 0x7F800000) :
    fmtF32.round narrow rnd x =
      if rnd.fzo && fmtF32.isSubnormal (fmtF32.withSign x.neg (f32Code rnd x)) then ⟨fmtF32.withSign x.neg 0, bitUF ||| bitNX⟩
      else ⟨fmtF32.withSign x.neg (f32Code rnd x), f32Flags rnd x⟩ := by
  have hzero : ¬ x.mag.isZero = true := by
    rw [Frac.isZero, beq_iff_eq]
    omega
  have hplace := f32Place_ge x.mag
  have hcode : ((f32Place x.mag + 23 + 127).toNat - 1) * 2 ^ 23 + f32Rounded rnd x = f32Code rnd x := by
    unfold f32Code
    omega
  have hfinite : ¬ fmtF32.infCode ≤ ((f32Place x.mag + 23 + 127).toNat - 1) * 2 ^ 23 + f32Rounded rnd x := by
    rw [hcode]
    exact not_le.mpr hlt
  rw [← hcode]
  exact (if_neg hzero).trans (if_neg hfinite)

theorem round_f32_zero (narrow : Bool) (rnd : Rnd) {x : SFrac} (hn : x.mag.n = 0) :
    fmtF32.round narrow rnd x = ⟨fmtF32.withSign x.neg 0, 0⟩ := if_pos (beq_iff_eq.mpr hn)

theorem f32Flags_of_exact (rnd : Rnd) {x : SFrac} (h : f32Rest x.mag = 0) : f32Flags rnd x = 0 := by
  simp [f32Flags, h]

theorem f32Flags_of_normal (rnd : Rnd) {x : SFrac} (h : -126 ≤ floorLog2 x.mag) :
    f32Flags rnd x = if f32Rest x.mag = 0 then 0 else bitNX := by
  simp [f32Flags, not_lt.mpr h]

/-- A normal result is no subnormal code. -/
theorem isSubnormal_f32Code (rnd : Rnd) {x : SFrac} (hd : 0 < x.mag.d) (hn : 0 < x.mag.n) (hlt : f32Code rnd x < 0x7F800000)
    (h : -126 ≤ floorLog2 x.mag) : fmtF32.isSubnormal (fmtF32.withSign x.neg (f32Code rnd x)) = false := by
  obtain ⟨hmag, -, -⟩ := withSign_f32 x.neg (m := f32Code rnd x) (by omega)
  have hunits := ((f32Units_bounds hd hn).2.2 h).trans_lt (lt_f32Floor_add_one hd)
  have hfloor : 2 ^ 23 < f32Floor x.mag + 1 := by exact_mod_cast hunits
  rw [← Bool.not_eq_true, isSubnormal_f32, hmag]
  have := f32Rounded_mem (x := x) rnd
  unfold f32Code
  omega

/-- A normal result, under FZO or not. -/
theorem round_f32_normal (narrow : Bool) {rnd : Rnd} {x : SFrac} (hd : 0 < x.mag.d) (hn : 0 < x.mag.n)
    (hlt : f32Code rnd x < 0x7F800000) (h : -126 ≤ floorLog2 x.mag) :
    fmtF32.round narrow rnd x = ⟨fmtF32.withSign x.neg (f32Code rnd x), if f32Rest x.mag = 0 then 0 else bitNX⟩ := by
  rw [round_f32 narrow hn hlt, isSubnormal_f32Code rnd hd hn hlt h, Bool.and_false, if_neg Bool.false_ne_true,
    f32Flags_of_normal rnd h]

end Sys2Proof.Machine
end

section
/-!
PROOFS. O7: FMIN, FMAX, FCMP and FCLASS (R195 to R197).
-/
namespace Sys2Proof.Machine

/-! ### The order of values -/

theorem lt_iff_val_lt {x y : SFrac} (hx : 0 < x.mag.d) (hy : 0 < y.mag.d) : x.lt y = true ↔ x.val < y.val := by
  have hx' : (0 : ℚ) < x.mag.d := by exact_mod_cast hx
  have hy' : (0 : ℚ) < y.mag.d := by exact_mod_cast hy
  rw [SFrac.lt, decide_eq_true_eq, SFrac.val, SFrac.val, div_lt_div_iff₀ hx' hy']
  exact_mod_cast Iff.rfl

section
variable {a b : FVal} (ha : ¬ a.isNan) (hb : ¬ b.isNan) (hda : ∀ x, a = .num x → 0 < x.mag.d)
  (hdb : ∀ x, b = .num x → 0 < x.mag.d)
include ha hb hda hdb

theorem FVal.lt_iff_rank : FVal.lt a b = true ↔ a.rank < b.rank := by
  match a, b with
  | .nan _, _ => exact absurd rfl ha
  | _, .nan _ => exact absurd rfl hb
  | .inf true, .inf true => simp [FVal.lt, FVal.rank]
  | .inf true, .inf false => simp [FVal.lt, FVal.rank]
  | .inf true, .num y => simp [FVal.lt, FVal.rank]
  | .inf false, .inf true => simp [FVal.lt, FVal.rank]
  | .inf false, .inf false => simp [FVal.lt, FVal.rank]
  | .inf false, .num y => simp [FVal.lt, FVal.rank]
  | .num x, .inf true => simp [FVal.lt, FVal.rank]
  | .num x, .inf false => exact iff_of_true rfl (WithBot.coe_lt_coe.mpr (WithTop.coe_lt_top x.val))
  | .num x, .num y => simpa [FVal.lt, FVal.rank] using lt_iff_val_lt (hda x rfl) (hdb y rfl)

theorem FVal.eqv_iff_rank : FVal.eqv a b = true ↔ a.rank = b.rank := by
  have hlt := FVal.lt_iff_rank ha hb hda hdb
  have hgt := FVal.lt_iff_rank hb ha hdb hda
  have hnan : a.isNan = false ∧ b.isNan = false := by simpa using And.intro ha hb
  simp only [FVal.eqv, hnan, Bool.not_false, Bool.true_and, Bool.and_eq_true, Bool.not_eq_true', ← Bool.not_eq_true, hlt, hgt]
  exact ⟨fun ⟨h1, h2⟩ => le_antisymm (not_lt.mp h2) (not_lt.mp h1), fun h => ⟨h.not_lt, h.not_gt⟩⟩

/-- The order of R195, in which −0 is before +0. -/
theorem FVal.before_iff_rank : FVal.before a b = true ↔
    a.rank < b.rank ∨ (a.rank = b.rank ∧ a.neg = true ∧ b.neg = false) := by
  simp only [FVal.before, Bool.or_eq_true, Bool.and_eq_true, Bool.not_eq_true', FVal.lt_iff_rank ha hb hda hdb,
    FVal.eqv_iff_rank ha hb hda hdb, and_assoc]

end

/-! ### Minimum and maximum (R195) -/

/-- What FMIN and FMAX choose: B where it is `better`, else A, and a number before a NaN. -/
theorem minMaxCode_spec (f : BinFmt) (fzi isMax : Bool) (x y : Nat) :
    let below (a b : FVal) : Prop := a.rank < b.rank ∨ (a.rank = b.rank ∧ a.neg = true ∧ b.neg = false)
    let better (a b : FVal) : Prop := if isMax then below b a else below a b
    let ca := f.flushIn fzi x
    let cb := f.flushIn fzi y
    let a := f.decode ca
    let b := f.decode cb
    let res := minMaxCode f fzi isMax x y
    res.flags = (if a.isSig || b.isSig then bitNV else 0) ∧
    (a.isNan → b.isNan → res.code = f.nanCode) ∧ (a.isNan → ¬ b.isNan → res.code = cb) ∧
    (¬ a.isNan → b.isNan → res.code = ca) ∧
    (¬ a.isNan → ¬ b.isNan → (better b a → res.code = cb) ∧ (¬ better b a → res.code = ca)) := by
  intro below better ca cb a b res
  have hres : res = _ := minMaxCode.eq_def f fzi isMax x y
  refine ⟨?flags, fun ha hb => ?nan, fun ha hb => ?second, fun ha hb => ?first, fun ha hb => ?numbers⟩
  case flags =>
    rw [hres]
    dsimp only
    split_ifs <;> rfl
  case nan => exact congrArg Res.code (hres.trans (if_pos (Bool.and_eq_true_iff.mpr ⟨ha, hb⟩)))
  case second =>
    have hboth : ¬ (a.isNan && b.isNan) = true := fun h => hb (Bool.and_eq_true_iff.mp h).2
    exact congrArg Res.code (hres.trans ((if_neg hboth).trans (if_pos ha)))
  case first =>
    have hboth : ¬ (a.isNan && b.isNan) = true := fun h => ha (Bool.and_eq_true_iff.mp h).1
    exact congrArg Res.code (hres.trans ((if_neg hboth).trans ((if_neg ha).trans (if_pos hb))))
  case numbers =>
    have hboth : ¬ (a.isNan && b.isNan) = true := fun h => ha (Bool.and_eq_true_iff.mp h).1
    have hcode : res.code = if isMax then (if FVal.before a b then cb else ca) else (if FVal.before b a then cb else ca) :=
      congrArg Res.code (hres.trans ((if_neg hboth).trans ((if_neg ha).trans (if_neg hb))))
    have hda : ∀ u, a = .num u → 0 < u.mag.d := fun u => decode_den_pos
    have hdb : ∀ u, b = .num u → 0 < u.mag.d := fun u => decode_den_pos
    rw [hcode]
    cases isMax with
    | false => exact ⟨fun h => if_pos ((FVal.before_iff_rank hb ha hdb hda).mpr h),
        fun h => if_neg fun h' => h ((FVal.before_iff_rank hb ha hdb hda).mp h')⟩
    | true => exact ⟨fun h => if_pos ((FVal.before_iff_rank ha hb hda hdb).mpr h),
        fun h => if_neg fun h' => h ((FVal.before_iff_rank ha hb hda hdb).mp h')⟩

/-! ### FCMP (R196) -/

theorem fcmpCond_spec (m : BitVec 3) {a b : FVal} (hda : ∀ x, a = .num x → 0 < x.mag.d)
    (hdb : ∀ x, b = .num x → 0 < x.mag.d) :
    let nan := a.isNan ∨ b.isNan
    let res := fcmpCond m.toNat a b = true
    (m = 0 → (res ↔ ¬ nan ∧ a.rank = b.rank)) ∧ (m = 1 → (res ↔ nan ∨ a.rank ≠ b.rank)) ∧
    (m = 2 → (res ↔ ¬ nan ∧ a.rank < b.rank)) ∧ (m = 3 → (res ↔ ¬ nan ∧ a.rank ≤ b.rank)) ∧
    (m = 4 → (res ↔ ¬ nan ∧ a.rank > b.rank)) ∧ (m = 5 → (res ↔ ¬ nan ∧ a.rank ≥ b.rank)) ∧
    (m = 6 → (res ↔ nan)) := by
  intro nan res
  have hnan : (a.isNan || b.isNan) = true ↔ nan := Bool.or_eq_true_iff
  by_cases h : nan
  · have hor := hnan.mpr h
    refine ⟨?_, ?_, ?_, ?_, ?_, ?_, ?_⟩ <;> rintro rfl <;> simp [res, fcmpCond, hor, h]
  · have hor : (a.isNan || b.isNan) = false := Bool.eq_false_iff.mpr (mt hnan.mp h)
    obtain ⟨ha, hb⟩ := not_or.mp h
    have hlt := FVal.lt_iff_rank ha hb hda hdb
    have hgt := FVal.lt_iff_rank hb ha hdb hda
    have heq := FVal.eqv_iff_rank ha hb hda hdb
    have hno (p : Bool) : (!(a.isNan || b.isNan) && p) = true ↔ ¬ nan ∧ p = true := by simp [hor, h]
    refine ⟨?eq, ?ne, ?lt, ?le, ?gt, ?ge, ?un⟩ <;> rintro rfl
    case eq => exact (hno _).trans (and_congr_right' heq)
    case ne =>
      show ((a.isNan || b.isNan) || !FVal.eqv a b) = true ↔ _
      rw [Bool.or_eq_true, hnan, Bool.not_eq_true', ← Bool.not_eq_true, heq]
    case lt => exact (hno _).trans (and_congr_right' hlt)
    case le => exact (hno _).trans (and_congr_right' (by rw [Bool.or_eq_true, hlt, heq, le_iff_lt_or_eq]))
    case gt => exact (hno _).trans (and_congr_right' hgt)
    case ge => exact (hno _).trans (and_congr_right' (by rw [Bool.or_eq_true, hgt, heq, ge_iff_le, le_iff_lt_or_eq, eq_comm]))
    case un => exact hnan

/-! ### FCLASS (R197) -/

/-- The class of a code by its magnitude and its sign. -/
theorem fclassBit_eq (c : Nat) :
    let mag := c % 2 ^ 31
    let neg := 2 ^ 31 ≤ c
    fclassBit c = if mag = 0 then (if neg then 3 else 4)
      else if mag < 0x00800000 then (if neg then 2 else 5)
      else if mag < 0x7F800000 then (if neg then 1 else 6)
      else if mag = 0x7F800000 then (if neg then 0 else 7)
      else if mag < 0x7FC00000 then 8 else 9 := by
  intro mag neg
  obtain hlt | heq | hgt := Nat.lt_trichotomy mag 0x7F800000
  · obtain ⟨hsplit, -, hexp, -⟩ := f32Sig_spec hlt
    have hzero : (Frac.ofPow2 (f32Sig c) ((f32Exp c : Int) - 149)).isZero = true ↔ mag = 0 := by
      have hpow : (Frac.ofPow2 (f32Sig c) ((f32Exp c : Int) - 149)).n = 0 ↔ f32Sig c = 0 := by
        rw [← Frac.real_eq_zero_iff (Frac.ofPow2_den_pos _ _), Frac.real_ofPow2, mul_eq_zero, Nat.cast_eq_zero,
          or_iff_left (by positivity)]
      rw [Frac.isZero, beq_iff_eq, hpow]
      omega
    have hsub : fmtF32.isSubnormal c = true ↔ 0 < mag ∧ mag < 0x00800000 := isSubnormal_f32 c
    rw [fclassBit, decode_f32_finite hlt]
    simp only [hzero, hsub, decide_eq_true_eq, if_pos hlt]
    by_cases h0 : mag = 0
    · rw [if_pos h0, if_pos h0]
    · rw [if_neg h0, if_neg h0]
      simp only [Nat.pos_of_ne_zero h0, true_and]
      rfl
  · rw [fclassBit, decode_f32_inf heq, if_neg (by omega), if_neg (by omega), if_neg (by omega), if_pos heq]
    simp only [decide_eq_true_eq]
    rfl
  · rw [fclassBit, decode_f32_nan hgt, if_neg (by omega), if_neg (by omega), if_neg (by omega), if_neg (by omega)]
    simp only [decide_eq_true_eq]
    rfl

/-! ### The instructions -/

section
variable {s : State} {g : Group} {r : Running} {q : RFields}

theorem minMaxMould_eq {i : Instr} (h : s.issues i g r) (isMax : Bool) :
    let f := floatFmt (s.ty g q.ty)
    minMaxMould i q isMax s = s.issueVec (g.exec s.cur.mask q.neg q.pred) false q.dst.toNat 4 (fun l =>
      packRes (floatElems (s.ty g q.ty)) f.width (fun j => minMaxCode f (g.mode.getLsbD 3) isMax
        (elemOf f.width (g.opVal (aVec q.form) false q.a.toNat l) j)
        (elemOf f.width (g.opVal (bVec q.form) false q.b.toNat l) j))) :=
  guarded_of_issues h _

/-- The value of an f32 operand of FCMP in a lane. -/
def Group.f32Val (g : Group) (vec : Bool) (n : BitVec 11) (l : Nat) : FVal :=
  fmtF32.decode (fmtF32.flushIn (g.mode.getLsbD 3) (g.opVal vec false n.toNat l))

theorem exec_fcmp (h : s.issues (.fcmp q) g r) :
    let m := g.exec s.cur.mask q.neg q.pred
    let a := g.f32Val (aVec q.form) q.a
    let b := g.f32Val (bVec q.form) q.b
    exec (.fcmp q) s = .next (s.issuePred q.dst.toNat 4 m
      (maskOf (fun l => m.getLsbD l && fcmpCond q.mod.toNat (a l) (b l)))
      (stickyOf m (fun l => if (a l).isSig || (b l).isSig then bitNV else 0))) :=
  congrArg Host.Outcome.next (guarded_of_issues h _)

theorem exec_fclass (h : s.issues (.fclass q) g r) : exec (.fclass q) s = .next (s.issueVec
    (g.exec s.cur.mask q.neg q.pred) false q.dst.toNat 4 (fun l => (2 ^ fclassBit (g.vecVal false q.a.toNat l), 0))) :=
  congrArg Host.Outcome.next (guarded_of_issues h _)

end

/-- Settles O7: the instructions by their equations, the choice by `minMaxCode_spec`, the conditions by `fcmpCond_spec`, the
classes by `fclassBit_eq`. -/
theorem floatOrderAndClassResults : Obligations.FloatOrderAndClassResults := by
  intro s g r q m fzi t f code choice below val
  refine ⟨fun h => ⟨_, congrArg Host.Outcome.next (minMaxMould_eq h false), fun l j => ?_⟩,
    fun h => ⟨_, congrArg Host.Outcome.next (minMaxMould_eq h true), fun l j => ?_⟩,
    fun h => ⟨_, exec_fcmp h, fun l => fcmpCond_spec q.mod (fun x => decode_den_pos) (fun x => decode_den_pos)⟩,
    fun h => ⟨_, exec_fclass h, fun l => fclassBit_eq _⟩⟩
  · exact minMaxCode_spec f fzi false _ _
  · exact minMaxCode_spec f fzi true _ _

end Sys2Proof.Machine
end

section
/-!
PROOFS. What the seven special functions share (R198, R199): numbers that need no rounding, a free value accepted within a
bound, and the mould of the instructions.
-/
namespace Sys2Proof.Machine

/-! ### Numbers of the format -/

/-- A multiple of 2^b of at most 24 bits, b not below −149, has no rest at the last place. -/
theorem f32Rest_eq_zero {x : Frac} (hn : 0 < x.n) (hd : 0 < x.d) {a : Nat} {b : Int} (h : x.real = a * 2 ^ b) (ha : a < 2 ^ 24)
    (hb : -149 ≤ b) : f32Rest x = 0 := by
  obtain ⟨hlo, -⟩ := floorLog2_spec hn hd
  have hplace : f32Place x ≤ b := by
    have hlt : (2 : ℝ) ^ floorLog2 x < 2 ^ (24 + b) := by
      refine hlo.trans_lt ?_
      rw [h, zpow_add₀ two_ne_zero]
      have : (a : ℝ) < 2 ^ (24 : Int) := by exact_mod_cast ha
      gcongr
    have := (zpow_lt_zpow_iff_right₀ (one_lt_two (α := ℝ))).mp hlt
    unfold f32Place
    omega
  have hunits : (f32Units x).real = (a * 2 ^ (b - f32Place x).toNat : Nat) := by
    have hdiff : ((b - f32Place x).toNat : Int) = b - f32Place x := Int.toNat_of_nonneg (by omega)
    refine mul_right_cancel₀ (zpow_ne_zero (f32Place x) two_ne_zero) ?_
    rw [real_f32Units, h, Nat.cast_mul, Nat.cast_pow, Nat.cast_ofNat, ← zpow_natCast, hdiff, mul_assoc, ← zpow_add₀ two_ne_zero,
      sub_add_cancel]
  have hle := f32Floor_le hd
  have hlt := lt_f32Floor_add_one hd
  rw [f32Rest_eq_zero_iff hd]
  rw [hunits] at hle hlt ⊢
  have h1 : f32Floor x ≤ a * 2 ^ (b - f32Place x).toNat := by exact_mod_cast hle
  have h2 : a * 2 ^ (b - f32Place x).toNat < f32Floor x + 1 := by exact_mod_cast hlt
  exact_mod_cast (by omega : a * 2 ^ (b - f32Place x).toNat = f32Floor x)

/-- Such a number is rounded to itself, and nothing is raised, unless FZO flushes it. -/
theorem round_f32_exact (narrow : Bool) (rnd : Rnd) {x : SFrac} (hn : 0 < x.mag.n) (hd : 0 < x.mag.d)
    (hlt : x.mag.real < 2 ^ 128 - 2 ^ 104) (hrest : f32Rest x.mag = 0) (hfzo : rnd.fzo = false ∨ -126 ≤ floorLog2 x.mag) :
    (fmtF32.round narrow rnd x).flags = 0 ∧
      ∃ u, fmtF32.decode (fmtF32.round narrow rnd x).code = .num u ∧ ((u.val : ℚ) : ℝ) = x.val := by
  have hcode := f32Code_lt rnd hd hn hlt
  have hround : fmtF32.round narrow rnd x = ⟨fmtF32.withSign x.neg (f32Code rnd x), 0⟩ := by
    obtain hoff | hnormal := hfzo
    · rw [round_f32 narrow hn hcode, hoff, f32Flags_of_exact rnd hrest]
      rfl
    · rw [round_f32_normal narrow hd hn hcode hnormal, if_pos hrest]
  obtain ⟨u, hu, hneg, hreal⟩ := decode_f32Code hd hn hcode
  rw [hround]
  refine ⟨rfl, u, hu, ?_⟩
  rw [SFrac.val_real, SFrac.val_real, hneg, hreal, f32Rounded_of_exact rnd hrest, ← (f32Rest_eq_zero_iff hd).mp hrest,
    real_f32Units]

/-- A code that is a number: its sign, and its magnitude in units of its last place. -/
theorem f32_num_real {c : Nat} {u : SFrac} (h : fmtF32.decode c = .num u) :
    u.neg = decide (2 ^ 31 ≤ c) ∧ u.mag.real = f32Sig c * 2 ^ ((f32Exp c : Int) - 149) := by
  obtain ⟨-, rfl⟩ := decode_f32_num h
  exact ⟨rfl, Frac.real_ofPow2 _ _⟩

/-- The numbers of f32 other than zero are from 2^-149 to below 2^128 in magnitude. -/
theorem f32_num_bounds {c : Nat} {u : SFrac} (h : fmtF32.decode c = .num u) (h0 : u.val ≠ 0) :
    0 < u.mag.n ∧ (2 : ℝ) ^ (-149 : Int) ≤ u.mag.real ∧ u.mag.real < 2 ^ (128 : Int) := by
  have hd := decode_den_pos h
  obtain ⟨-, hreal⟩ := f32_num_real h
  obtain ⟨-, hsig, -, hexp⟩ := f32Sig_spec (decode_f32_num h).1
  have hpos : 0 < u.mag.real := by
    refine lt_of_le_of_ne u.mag.real_nonneg fun hzero => h0 ?_
    have := SFrac.abs_val u
    rw [← hzero, abs_eq_zero] at this
    exact_mod_cast this
  have hsigpos : f32Sig c ≠ 0 := by
    intro hzero
    rw [hreal, hzero, Nat.cast_zero, zero_mul] at hpos
    exact lt_irrefl _ hpos
  refine ⟨Nat.pos_of_ne_zero fun hzero => hpos.ne' ((Frac.real_eq_zero_iff hd).mpr hzero), ?_, ?_⟩
  · calc (2 : ℝ) ^ (-149 : Int) ≤ 2 ^ ((f32Exp c : Int) - 149) := zpow_le_zpow_right₀ one_le_two (by omega)
      _ = (1 : Nat) * 2 ^ ((f32Exp c : Int) - 149) := by rw [Nat.cast_one, one_mul]
      _ ≤ f32Sig c * 2 ^ ((f32Exp c : Int) - 149) := by
        have : 1 ≤ f32Sig c := Nat.pos_of_ne_zero hsigpos
        gcongr
      _ = u.mag.real := hreal.symm
  · calc u.mag.real = f32Sig c * 2 ^ ((f32Exp c : Int) - 149) := hreal
      _ < 2 ^ (24 : Int) * 2 ^ ((f32Exp c : Int) - 149) := by
        have : (f32Sig c : ℝ) < 2 ^ (24 : Int) := by exact_mod_cast hsig
        gcongr
      _ = 2 ^ (24 + ((f32Exp c : Int) - 149)) := (zpow_add₀ two_ne_zero _ _).symm
      _ ≤ 2 ^ (128 : Int) := zpow_le_zpow_right₀ one_le_two (by omega)

/-! ### Accepting a free value -/

theorem SFrac.val_negate (x : SFrac) : x.negate.val = -x.val := by
  cases h : x.neg <;> simp [SFrac.val, SFrac.num, SFrac.negate, h, neg_div]

theorem SFrac.real_dist {x y : SFrac} (hx : 0 < x.mag.d) (hy : 0 < y.mag.d) :
    (SFrac.dist x y).real = |((x.val : ℚ) : ℝ) - y.val| := by
  rw [SFrac.dist, ← SFrac.abs_val, val_add hx (by exact hy), SFrac.val_negate]
  push_cast
  rfl

/-- Numbers of one sign are as far apart as their magnitudes. -/
theorem SFrac.abs_val_sub_val {x y : SFrac} (h : x.neg = y.neg) : |((x.val : ℚ) : ℝ) - y.val| = |x.mag.real - y.mag.real| := by
  rw [SFrac.val_real, SFrac.val_real, h]
  split
  · rw [neg_sub_neg, abs_sub_comm]
  · rfl

theorem shy_den_pos {b : Frac} (hb : 0 < b.d) : 0 < (shy b).d :=
  Nat.mul_pos hb (Nat.mul_pos hb (Frac.ofPow2_den_pos _ _))

theorem real_shy {b : Frac} (hb : 0 < b.d) : (shy b).real = b.real * (1 - 2 ^ (-40 : Int)) := by
  have hpow : (0 : ℝ) ≤ 1 - 2 ^ (-40 : Int) := by norm_num
  have hpart : (b.mul (Frac.ofPow2 1 (-40))).real = b.real * 2 ^ (-40 : Int) := by
    rw [Frac.real_mul, Frac.real_ofPow2, Nat.cast_one, one_mul]
  rw [shy, Frac.real_sub hb (Nat.mul_pos hb (Frac.ofPow2_den_pos _ _)) ?_, hpart]
  · ring
  · rw [hpart]
    have := mul_nonneg b.real_nonneg hpow
    linarith

/-- The nearest f32 and the bits of its rounding, FZO aside. -/
def nearestF32 (x : SFrac) : Res := fmtF32.round false { rndRN with fzo := false } x

theorem nearestF32_spec {x : SFrac} (hd : 0 < x.mag.d) (hlt : x.mag.real < 2 ^ 128 - 2 ^ 104) :
    (nearestF32 x).code < 2 ^ 32 ∧ ∃ u, fmtF32.decode (nearestF32 x).code = .num u ∧
      |((u.val : ℚ) : ℝ) - x.val| ≤ 2 ^ f32Place x.mag / 2 := by
  obtain hzero | hn := Nat.eq_zero_or_pos x.mag.n
  · have hround : nearestF32 x = ⟨fmtF32.withSign x.neg 0, 0⟩ := round_f32_zero _ _ hzero
    obtain ⟨hmag, hbound, hsign⟩ := withSign_f32 x.neg (m := 0) (by decide)
    obtain ⟨u, hu, hneg, hreal⟩ := decode_f32_compose x.neg (k := 0) (m := 0) (by decide) (.inl rfl) (by decide)
    rw [hround]
    refine ⟨hbound, u, hu, ?_⟩
    rw [SFrac.abs_val_sub_val hneg, hreal, (Frac.real_eq_zero_iff hd).mpr hzero, Nat.cast_zero, zero_mul, sub_zero, abs_zero]
    positivity
  · have hcode := f32Code_lt { rndRN with fzo := false } hd hn hlt
    have hround : nearestF32 x = ⟨fmtF32.withSign x.neg (f32Code { rndRN with fzo := false } x),
      f32Flags { rndRN with fzo := false } x⟩ := round_f32 false hn hcode
    obtain ⟨-, hbound, -⟩ := withSign_f32 x.neg (m := f32Code { rndRN with fzo := false } x) (by omega)
    obtain ⟨u, hu, hneg, hreal⟩ := decode_f32Code hd hn hcode
    rw [hround]
    refine ⟨hbound, u, hu, ?_⟩
    rw [SFrac.abs_val_sub_val hneg, hreal, ← real_f32Units x.mag, ← sub_mul, abs_mul,
      abs_of_pos (zpow_pos (two_pos (α := ℝ)) (f32Place x.mag))]
    have hnear := f32Rounded_nearest { rndRN with fzo := false } hd rfl
    calc _ ≤ 1 / 2 * (2 : ℝ) ^ f32Place x.mag := by gcongr
      _ = 2 ^ f32Place x.mag / 2 := by ring

/-- What is returned for `ref`: a number within the bound, or one within half a unit; inexact, and zero where FZO flushes it. -/
theorem acceptWithin_spec (fzo : Bool) (raw : Word32) {ref : SFrac} {bound : Frac} (hd : 0 < ref.mag.d)
    (hlt : ref.mag.real < 2 ^ 128 - 2 ^ 104) (hb : 0 < bound.d) : ∃ c u, c < 2 ^ 32 ∧ fmtF32.decode c = .num u ∧
      (|((u.val : ℚ) : ℝ) - ref.val| ≤ bound.real ∨ |((u.val : ℚ) : ℝ) - ref.val| ≤ 2 ^ f32Place ref.mag / 2) ∧
      acceptWithin fzo raw ref bound =
        if fzo && fmtF32.isSubnormal c then
          ⟨fmtF32.withSign (decide (2 ^ 31 ≤ c)) 0, (nearestF32 ref).flags ||| bitNX ||| bitUF⟩
        else ⟨c, (nearestF32 ref).flags ||| bitNX⟩ := by
  obtain ⟨hcode, u, hu, herr⟩ := nearestF32_spec hd hlt
  generalize hok : ((nearestF32 ref).flags &&& bitOF = 0 && (match fmtF32.decode raw.toNat with
    | .num x => (SFrac.dist x ref).le bound
    | _ => false) : Bool) = ok
  have haccept : acceptWithin fzo raw ref bound =
      let c := if ok then raw.toNat else (nearestF32 ref).code
      if fzo && fmtF32.isSubnormal c then
        ⟨fmtF32.withSign (decide (2 ^ 31 ≤ c)) 0, (nearestF32 ref).flags ||| bitNX ||| bitUF⟩
      else ⟨c, (nearestF32 ref).flags ||| bitNX⟩ := by
    subst hok
    rfl
  rw [haccept]
  cases ok with
  | false => exact ⟨_, u, hcode, hu, .inr herr, rfl⟩
  | true =>
    have hmatch := (Bool.and_eq_true_iff.mp hok).2
    split at hmatch
    next x hx =>
      refine ⟨_, x, raw.isLt, hx, .inl ?_, rfl⟩
      have hx' := decode_den_pos hx
      rw [← SFrac.real_dist hx' hd]
      exact (Frac.le_iff_real (Nat.mul_pos hx' hd) hb).mp hmatch
    next => exact absurd hmatch Bool.false_ne_true

/-- A reference that is a normal number raises nothing but NX. -/
theorem nearestF32_flags {x : SFrac} (hd : 0 < x.mag.d) (hn : 0 < x.mag.n) (hlt : x.mag.real < 2 ^ 128 - 2 ^ 104)
    (h : -126 ≤ floorLog2 x.mag) : (nearestF32 x).flags ||| bitNX = bitNX := by
  have hround : nearestF32 x = _ := round_f32_normal false hd hn (f32Code_lt _ hd hn hlt) h
  rw [hround]
  dsimp only
  split <;> decide

/-! ### The instructions -/

/-- What R199's table asks of the result y for the value v of the source: its entries for −∞, +∞, −0, +0 and for a finite
number below zero, and `more` of every other number. -/
def specialTable (v : FVal) (y minf pinf mzero pzero : Res) (below : Option Res) (more : SFrac → Prop) : Prop :=
  (∀ sg, v = .nan sg → y = nanRes sg) ∧ (v = .inf true → y = minf) ∧ (v = .inf false → y = pinf) ∧
  (∀ x, v = .num x → x.val = 0 → y = if x.neg then mzero else pzero) ∧
  (∀ x, v = .num x → x.val < 0 → ∀ z, below = some z → y = z) ∧ (∀ x, v = .num x → x.val ≠ 0 → more x)

/-- The seven instructions have one mould. -/
theorem specialMould_eq {s : State} {g : Group} {r : Running} {i : Instr} (h : s.issues i g r) (q : RFields)
    (f : Rnd → Nat → Res) : specialMould i q f s =
      let y (l : Nat) : Res := f (g.rnd q.mod l 0) (fmtF32.flushIn (g.mode.getLsbD 3) (g.vecVal false q.a.toNat l))
      s.issueVec (g.exec s.cur.mask q.neg q.pred) false q.dst.toNat 8 (fun l => ((y l).code, (y l).flags)) :=
  guarded_of_issues h _

theorem isZero_iff_val {x : SFrac} (hd : 0 < x.mag.d) : x.mag.isZero = true ↔ x.val = 0 := by
  rw [val_eq_zero_iff hd, Frac.isZero, beq_iff_eq]

theorem neg_of_val_neg {x : SFrac} (h : x.val < 0) : x.neg = true := by
  have hreal : ((x.val : ℚ) : ℝ) < 0 := by exact_mod_cast h
  have hval := x.val_real
  have habs := x.mag.real_nonneg
  cases hneg : x.neg with
  | true => rfl
  | false =>
    rw [hneg, if_neg Bool.false_ne_true] at hval
    linarith

end Sys2Proof.Machine
end

section
/-!
PROOFS. The square root of Special.lean: 91 bits of the root, and a half of the last bit where it goes on.
-/
namespace Sys2Proof.Machine

/-! ### The integer root -/

/-- The root is refined from the top: after b steps it is that of n / 4^(96 − b). -/
theorem isqrt_eq {n b : Nat} (hn : n < 4 ^ 96) (hb : b ≤ 96) : isqrt n b = Nat.sqrt (n / 4 ^ (96 - b)) := by
  induction b with
  | zero => rw [Nat.div_eq_of_lt hn]; rfl
  | succ b ih =>
    have hpow : 4 ^ (96 - b) = 4 ^ (96 - (b + 1)) * 4 := by rw [← pow_succ]; congr 1; omega
    have hroot : isqrt n b = Nat.sqrt (n / 4 ^ (96 - (b + 1)) / 4) := by rw [ih (by omega), hpow, Nat.div_div_eq_div_mul]
    unfold isqrt
    rw [hroot]
    generalize n / 4 ^ (96 - (b + 1)) = N
    have hlow : Nat.sqrt (N / 4) * Nat.sqrt (N / 4) ≤ N / 4 := Nat.sqrt_le _
    have hhigh : N / 4 < (Nat.sqrt (N / 4) + 1) * (Nat.sqrt (N / 4) + 1) := Nat.lt_succ_sqrt _
    generalize Nat.sqrt (N / 4) = r at hlow hhigh
    have hle : 4 * (r * r) ≤ N := by omega
    have hlt : N < 4 * ((r + 1) * (r + 1)) := by omega
    dsimp only
    split
    next hup => exact Nat.eq_sqrt.mpr ⟨hup, by nlinarith⟩
    next hdown => exact Nat.eq_sqrt.mpr ⟨by nlinarith, not_le.mp hdown⟩

/-! ### Where the root lies -/

/-- v, and t in its place: both the same multiple r of 2^(e − 90), or v between it and the next and t in the middle. -/
def rootCell (v t : ℝ) (e : Int) (r : Nat) : Prop :=
  2 ^ 90 ≤ r ∧ r < 2 ^ 91 ∧ ((v = r * 2 ^ (e - 90) ∧ t = v) ∨
    (r * 2 ^ (e - 90) < v ∧ v < (r + 1) * 2 ^ (e - 90) ∧ t = (r + 1 / 2) * 2 ^ (e - 90)))

/-- The multiple of 2^(−s) below the root of a number that has 91 bits there. -/
theorem sqrt_between {x : Frac} {s : Int} {n r : Nat} (hlo : (n : ℝ) ≤ x.real * 2 ^ (2 * s)) (hhi : x.real * 2 ^ (2 * s) < n + 1)
    (hr : r = Nat.sqrt n) : (r : ℝ) * 2 ^ (-s) ≤ √x.real ∧ √x.real < (r + 1) * 2 ^ (-s) ∧
      (√x.real = r * 2 ^ (-s) ↔ r * r = n ∧ (n : ℝ) = x.real * 2 ^ (2 * s)) := by
  obtain ⟨hle, hlt⟩ := Nat.eq_sqrt.mp hr
  have hle' : (r : ℝ) * r ≤ n := by exact_mod_cast hle
  have hlt' : (n : ℝ) + 1 ≤ (r + 1) * (r + 1) := by exact_mod_cast hlt
  have hpow : (0 : ℝ) < 2 ^ s := by positivity
  have hscale : (2 : ℝ) ^ (2 * s) = 2 ^ s * 2 ^ s := by rw [two_mul, zpow_add₀ two_ne_zero]
  have hroot : √(x.real * 2 ^ (2 * s)) = √x.real * 2 ^ s := by
    rw [Real.sqrt_mul x.real_nonneg, hscale, Real.sqrt_mul_self hpow.le]
  have hback (a : ℝ) : a * 2 ^ (-s) = a / 2 ^ s := by rw [zpow_neg, div_eq_mul_inv]
  rw [hback, hback, div_le_iff₀ hpow, lt_div_iff₀ hpow, eq_div_iff hpow.ne', ← hroot]
  have hr0 : (0 : ℝ) ≤ r := r.cast_nonneg
  refine ⟨Real.le_sqrt_of_sq_le (by nlinarith), (Real.sqrt_lt' (by positivity)).mpr (by nlinarith), ?_⟩
  rw [Real.sqrt_eq_iff_mul_self_eq (mul_nonneg x.real_nonneg (by positivity)) hr0]
  constructor
  · intro h
    have hn : (r : ℝ) * r = n := le_antisymm hle' (h ▸ hlo)
    exact ⟨by exact_mod_cast hn, hn.symm.trans h.symm⟩
  · rintro ⟨h1, h2⟩
    rw [← h2]
    exact_mod_cast h1.symm

/-- The scaled radicand has between 181 and 182 bits. -/
theorem sqrt_scale {x : Frac} (hn : 0 < x.n) (hd : 0 < x.d) {s : Int} (hs : s = 90 - Int.fdiv (floorLog2 x) 2) :
    (2 : ℝ) ^ 180 ≤ x.real * 2 ^ (2 * s) ∧ x.real * 2 ^ (2 * s) < 2 ^ 182 := by
  obtain ⟨hlo, hhi⟩ := floorLog2_spec hn hd
  have hdiv : Int.fdiv (floorLog2 x) 2 = floorLog2 x / 2 := Int.fdiv_eq_ediv_of_nonneg _ (by decide)
  have hpow : (0 : ℝ) < 2 ^ (2 * s) := by positivity
  constructor
  · calc (2 : ℝ) ^ 180 = 2 ^ (180 : Int) := by norm_num
      _ ≤ 2 ^ (floorLog2 x + 2 * s) := zpow_le_zpow_right₀ one_le_two (by omega)
      _ = 2 ^ floorLog2 x * 2 ^ (2 * s) := zpow_add₀ two_ne_zero _ _
      _ ≤ x.real * 2 ^ (2 * s) := by gcongr
  · calc x.real * 2 ^ (2 * s) < 2 ^ (floorLog2 x + 1) * 2 ^ (2 * s) := by gcongr
      _ = 2 ^ (floorLog2 x + 1 + 2 * s) := (zpow_add₀ two_ne_zero _ _).symm
      _ ≤ 2 ^ (182 : Int) := zpow_le_zpow_right₀ one_le_two (by omega)
      _ = 2 ^ 182 := by norm_num

theorem sqrtFrac_den_pos (x : Frac) : 0 < (sqrtFrac x).d := by
  unfold sqrtFrac
  dsimp only
  split <;> exact Frac.ofPow2_den_pos _ _

/-- `sqrtFrac` is the root in 91 bits, and half a bit more where the root goes on. -/
theorem sqrtFrac_eq {x : Frac} (hn : 0 < x.n) (hd : 0 < x.d) : ∃ (s : Int) (r : Nat), 2 ^ 90 ≤ r ∧ r < 2 ^ 91 ∧
    ((√x.real = r * 2 ^ (-s) ∧ (sqrtFrac x).real = r * 2 ^ (-s)) ∨
      (r * 2 ^ (-s) < √x.real ∧ √x.real < (r + 1) * 2 ^ (-s) ∧ (sqrtFrac x).real = (r + 1 / 2) * 2 ^ (-s))) := by
  obtain ⟨s, hs⟩ : ∃ s, s = 90 - Int.fdiv (floorLog2 x) 2 := ⟨_, rfl⟩
  obtain ⟨hlo, hhi⟩ := sqrt_scale hn hd hs
  have hyd : 0 < (x.mul (Frac.ofPow2 1 (2 * s))).d := Nat.mul_pos hd (Frac.ofPow2_den_pos _ _)
  have hy : (x.mul (Frac.ofPow2 1 (2 * s))).real = x.real * 2 ^ (2 * s) := by simp
  have hresult : sqrtFrac x =
      let y := x.mul (Frac.ofPow2 1 (2 * s))
      let n := y.n / y.d
      if isqrt n 96 * isqrt n 96 = n && y.n % y.d = 0 then Frac.ofPow2 (isqrt n 96) (-s)
      else Frac.ofPow2 (2 * isqrt n 96 + 1) (-s - 1) := by
    subst hs
    rfl
  generalize x.mul (Frac.ofPow2 1 (2 * s)) = y at hyd hy hresult
  obtain ⟨hfloor, hsplit, hceil⟩ := Frac.div_spec hyd
  obtain ⟨n, hndef⟩ : ∃ n, n = y.n / y.d := ⟨_, rfl⟩
  have hexact : y.n % y.d = 0 ↔ (n : ℝ) = x.real * 2 ^ (2 * s) := by
    have hden : (y.d : ℝ) ≠ 0 := by positivity
    rw [← hy, hsplit, ← hndef, left_eq_add, div_eq_zero_iff, Nat.cast_eq_zero, or_iff_left hden]
  rw [← hndef, hy] at hfloor hceil
  have hnlo : 2 ^ 180 ≤ n := by
    have : (2 : ℝ) ^ 180 < n + 1 := hlo.trans_lt hceil
    have : 2 ^ 180 < n + 1 := by exact_mod_cast this
    omega
  have hnhi : n < 2 ^ 182 := by exact_mod_cast hfloor.trans_lt hhi
  obtain ⟨r, hr⟩ : ∃ r, r = Nat.sqrt n := ⟨_, rfl⟩
  have hisqrt : isqrt n 96 = r := by
    rw [isqrt_eq (hnhi.trans (by norm_num)) le_rfl, hr, Nat.sub_self, pow_zero, Nat.div_one]
  obtain ⟨hle, hlt, heq⟩ := sqrt_between hfloor hceil hr
  refine ⟨s, r, hr ▸ Nat.le_sqrt.mpr (by omega), hr ▸ Nat.sqrt_lt.mpr (by omega), ?_⟩
  rw [hresult]
  dsimp only
  rw [← hndef, hisqrt]
  split
  next htest =>
    obtain ⟨h1, h2⟩ := Bool.and_eq_true_iff.mp htest
    exact .inl ⟨heq.mpr ⟨of_decide_eq_true h1, hexact.mp (of_decide_eq_true h2)⟩, Frac.real_ofPow2 _ _⟩
  next htest =>
    refine .inr ⟨lt_of_le_of_ne hle fun h => htest ?_, hlt, ?_⟩
    · obtain ⟨h1, h2⟩ := heq.mp h.symm
      exact Bool.and_eq_true_iff.mpr ⟨decide_eq_true h1, decide_eq_true (hexact.mpr h2)⟩
    · rw [Frac.real_ofPow2, zpow_sub_one₀ two_ne_zero]
      push_cast
      ring

theorem sqrtFrac_cell {x : Frac} (hn : 0 < x.n) (hd : 0 < x.d) :
    0 < (sqrtFrac x).n ∧ ∃ r, rootCell (√x.real) (sqrtFrac x).real (floorLog2 (sqrtFrac x)) r := by
  obtain ⟨s, r, hlo, hhi, hcase⟩ := sqrtFrac_eq hn hd
  have hpow : (0 : ℝ) < 2 ^ (-s) := by positivity
  have hlo' : (2 : ℝ) ^ 90 ≤ r := by exact_mod_cast hlo
  have hhi' : (r : ℝ) + 1 ≤ 2 ^ 91 := by exact_mod_cast hhi
  have hreal : (r : ℝ) * 2 ^ (-s) ≤ (sqrtFrac x).real ∧ (sqrtFrac x).real < (r + 1) * 2 ^ (-s) := by
    obtain ⟨-, h⟩ | ⟨-, -, h⟩ := hcase <;> rw [h] <;> constructor <;> gcongr <;> linarith
  have hbinade (k : Nat) : (2 : ℝ) ^ (k - s) = 2 ^ k * 2 ^ (-s) := by
    rw [sub_eq_add_neg, zpow_add₀ two_ne_zero, zpow_natCast]
  have hpos : 0 < (sqrtFrac x).n := by
    refine Nat.pos_of_ne_zero fun h => ?_
    have hzero := (Frac.real_eq_zero_iff (sqrtFrac_den_pos x)).mpr h
    have : 0 < (r : ℝ) * 2 ^ (-s) := mul_pos (lt_of_lt_of_le (by positivity) hlo') hpow
    linarith [hreal.1]
  have hlog : floorLog2 (sqrtFrac x) = 90 - s := by
    refine floorLog2_eq hpos (sqrtFrac_den_pos x) ?_ ?_
    · refine ((hbinade 90).le.trans ?_).trans hreal.1
      gcongr
    · refine hreal.2.trans_le ?_
      rw [show (90 : Int) - s + 1 = (91 : Nat) - s by push_cast; ring, hbinade]
      gcongr
  refine ⟨hpos, r, hlo, hhi, ?_⟩
  rw [hlog, sub_sub_cancel_left]
  exact hcase.imp (fun ⟨h1, h2⟩ => ⟨h1, h2.trans h1.symm⟩) id

section
variable {v t : ℝ} {e : Int} {r : Nat} (h : rootCell v t e r)
include h

/-- What is compared with a multiple of 2^(e − 90) may be compared in the place of the root. -/
theorem rootCell_lt_iff (j : Nat) : (j * 2 ^ (e - 90) < v ↔ j * 2 ^ (e - 90) < t) ∧ (v < j * 2 ^ (e - 90) ↔ t < j * 2 ^ (e - 90)) := by
  have hpow : (0 : ℝ) < 2 ^ (e - 90) := by positivity
  obtain ⟨-, -, ⟨-, rfl⟩ | ⟨hlo, hhi, rfl⟩⟩ := h
  · exact ⟨Iff.rfl, Iff.rfl⟩
  · rcases Nat.lt_or_ge r j with hj | hj
    · have hj' : (r : ℝ) + 1 ≤ j := by exact_mod_cast hj
      have h1 : v < j * 2 ^ (e - 90) := hhi.trans_le (by gcongr)
      have h2 : (r + 1 / 2) * 2 ^ (e - 90) < j * (2 : ℝ) ^ (e - 90) := by
        gcongr
        linarith
      exact ⟨iff_of_false h1.not_gt h2.not_gt, iff_of_true h1 h2⟩
    · have hj' : (j : ℝ) ≤ r := by exact_mod_cast hj
      have h1 : j * 2 ^ (e - 90) < v := lt_of_le_of_lt (by gcongr) hlo
      have h2 : j * (2 : ℝ) ^ (e - 90) < (r + 1 / 2) * 2 ^ (e - 90) := by
        gcongr
        linarith
      exact ⟨iff_of_true h1 h2, iff_of_false h1.not_gt h2.not_gt⟩

theorem rootCell_eq_iff (j : Nat) : v = j * 2 ^ (e - 90) ↔ t = j * 2 ^ (e - 90) := by
  obtain ⟨hlt, hgt⟩ := rootCell_lt_iff h j
  rw [eq_iff_le_not_lt, eq_iff_le_not_lt, ← not_lt, ← not_lt, hlt, hgt]

/-- They are in one binade, and nearer than its last of 91 bits. -/
theorem rootCell_spec : 2 ^ e ≤ v ∧ v < 2 ^ (e + 1) ∧ |t - v| < 2 ^ (e - 90) := by
  obtain ⟨hlo, hhi, hcase⟩ := h
  have hlo' : (2 : ℝ) ^ 90 ≤ r := by exact_mod_cast hlo
  have hhi' : (r : ℝ) + 1 ≤ 2 ^ 91 := by exact_mod_cast hhi
  have hpow : (0 : ℝ) < 2 ^ (e - 90) := by positivity
  have hbelow : (2 : ℝ) ^ e = 2 ^ 90 * 2 ^ (e - 90) := by rw [← zpow_natCast, ← zpow_add₀ two_ne_zero]; congr 1; push_cast; ring
  have habove : (2 : ℝ) ^ (e + 1) = 2 ^ 91 * 2 ^ (e - 90) := by
    rw [← zpow_natCast, ← zpow_add₀ two_ne_zero]
    congr 1
    push_cast
    ring
  have hle : (r : ℝ) * 2 ^ (e - 90) ≤ v ∧ v < (r + 1) * 2 ^ (e - 90) := by
    obtain ⟨rfl, -⟩ | ⟨h1, h2, -⟩ := hcase
    · exact ⟨le_rfl, by gcongr; linarith⟩
    · exact ⟨h1.le, h2⟩
  refine ⟨hbelow.trans_le (le_trans (by gcongr) hle.1), hle.2.trans_le (le_of_le_of_eq (by gcongr) habove.symm), ?_⟩
  obtain ⟨-, rfl⟩ | ⟨h1, h2, rfl⟩ := hcase
  · rw [sub_self, abs_zero]
    exact hpow
  · rw [abs_lt]
    constructor <;> linarith

end

end Sys2Proof.Machine
end

section
/-!
PROOFS. O8: the special inputs of the seven functions (R199), and FRCP, FSQRT and FRSQ (R198).
-/
namespace Sys2Proof.Machine

/-! ### Neighbours among the values of f32 (R161) -/

theorem neighbours_unique {value : ℝ → Prop} {v lo hi lo' hi' : ℝ} (h : neighbours value lo v hi)
    (h' : neighbours value lo' v hi') : lo = lo' ∧ hi = hi' := by
  obtain ⟨hlo, hhi, hlov, hvhi, hnone⟩ := h
  obtain ⟨hlo', hhi', hlov', hvhi', hnone'⟩ := h'
  constructor
  · exact le_antisymm (not_lt.mp fun hlt => hnone' lo hlo ⟨hlt, hlov.trans hvhi'⟩)
      (not_lt.mp fun hlt => hnone lo' hlo' ⟨hlt, hlov'.trans hvhi⟩)
  · exact le_antisymm (not_lt.mp fun hlt => hnone hi' hhi' ⟨hlov.trans hvhi', hlt⟩)
      (not_lt.mp fun hlt => hnone' hi hhi ⟨hlov'.trans hvhi, hlt⟩)

theorem not_value_of_neighbours {value : ℝ → Prop} {v lo hi : ℝ} (h : neighbours value lo v hi) : ¬ value v := by
  obtain ⟨-, -, hlo, hhi, hnone⟩ := h
  exact fun hv => hnone v hv ⟨hlo, hhi⟩

theorem f32_isValue {k m : Nat} (hm : m ≤ 2 ^ 24) (hk : k = 0 ∨ 2 ^ 23 ≤ m) (hlt : k * 2 ^ 23 + m < 0x7F800000) :
    fmtF32.isValue (m * 2 ^ ((k : Int) - 149)) := by
  obtain ⟨u, hu, hneg, hreal⟩ := decode_f32_compose false hm hk hlt
  refine ⟨_, u, (withSign_f32 false (m := k * 2 ^ 23 + m) (by omega)).2.1, hu, ?_⟩
  rw [SFrac.val_real, hneg, if_neg Bool.false_ne_true, hreal]

/-- A value of 2^e or more has no bits below 2^(e − 23). -/
theorem f32_multiple {c : Nat} {u : SFrac} (h : fmtF32.decode c = .num u) {e : Int} (he : 2 ^ e ≤ u.mag.real) :
    ∃ j : Nat, u.mag.real = j * 2 ^ (e - 23) := by
  obtain ⟨-, hreal⟩ := f32_num_real h
  obtain ⟨-, hsig, -, -⟩ := f32Sig_spec (decode_f32_num h).1
  have hplace : e - 23 ≤ (f32Exp c : Int) - 149 := by
    have hlt : (2 : ℝ) ^ e < 2 ^ (24 + ((f32Exp c : Int) - 149)) := by
      refine he.trans_lt ?_
      rw [hreal, zpow_add₀ two_ne_zero]
      have : (f32Sig c : ℝ) < 2 ^ (24 : Int) := by exact_mod_cast hsig
      gcongr
    have := (zpow_lt_zpow_iff_right₀ (one_lt_two (α := ℝ))).mp hlt
    omega
  refine ⟨f32Sig c * 2 ^ ((f32Exp c : Int) - 149 - (e - 23)).toNat, ?_⟩
  have hdiff : ((((f32Exp c : Int) - 149 - (e - 23)).toNat : Nat) : Int) = (f32Exp c : Int) - 149 - (e - 23) :=
    Int.toNat_of_nonneg (by omega)
  rw [hreal, Nat.cast_mul, Nat.cast_pow, Nat.cast_ofNat, ← zpow_natCast, hdiff, mul_assoc, ← zpow_add₀ two_ne_zero, sub_add_cancel]

/-- The neighbours of a number inside a step of a binade are the ends of the step. -/
theorem f32_neighbours_of_between {v : ℝ} {e : Int} {q : Nat} (hq : 2 ^ 23 ≤ q) (hq' : q < 2 ^ 24) (he : -126 ≤ e) (he' : e ≤ 126)
    (hlo : q * 2 ^ (e - 23) < v) (hhi : v < (q + 1) * 2 ^ (e - 23)) :
    neighbours fmtF32.isValue (q * 2 ^ (e - 23)) v ((q + 1) * 2 ^ (e - 23)) := by
  have hpow : (0 : ℝ) < 2 ^ (e - 23) := by positivity
  have hplace : (((e + 126).toNat : Nat) : Int) - 149 = e - 23 := by omega
  have value {m : Nat} (hm : 2 ^ 23 ≤ m) (hm' : m ≤ 2 ^ 24) : fmtF32.isValue (m * 2 ^ (e - 23)) :=
    hplace ▸ f32_isValue hm' (.inr hm) (by omega)
  refine ⟨value hq hq'.le, by simpa using value (m := q + 1) (by omega) (by omega), hlo, hhi, ?_⟩
  rintro w ⟨c, u, -, hu, rfl⟩ ⟨hlow, hhigh⟩
  have hstart : (2 : ℝ) ^ e ≤ q * 2 ^ (e - 23) := by
    have : (2 : ℝ) ^ e = 2 ^ 23 * 2 ^ (e - 23) := by rw [← zpow_natCast, ← zpow_add₀ two_ne_zero]; congr 1; push_cast; ring
    rw [this]
    have : (2 : ℝ) ^ 23 ≤ q := by exact_mod_cast hq
    gcongr
  have hpos : 0 < u.val := by
    have : (0 : ℝ) < u.val := lt_of_le_of_lt (by positivity) hlow
    exact_mod_cast this
  obtain ⟨-, hval, -⟩ := SFrac.of_val_pos hpos
  rw [hval] at hlow hhigh
  obtain ⟨j, hj⟩ := f32_multiple hu (hstart.trans hlow.le)
  rw [hj] at hlow hhigh
  have h1 : (q : ℝ) < j := lt_of_mul_lt_mul_right hlow hpow.le
  have h2 : (j : ℝ) < q + 1 := lt_of_mul_lt_mul_right hhigh hpow.le
  have h1' : q < j := by exact_mod_cast h1
  have h2' : j < q + 1 := by exact_mod_cast h2
  omega

/-- A magnitude has one code. -/
theorem f32_code_unique {c c' : Nat} {u u' : SFrac} (hc : c < 2 ^ 31) (hc' : c' < 2 ^ 31) (h : fmtF32.decode c = .num u)
    (h' : fmtF32.decode c' = .num u') (heq : u.mag.real = u'.mag.real) : c = c' := by
  have order {c c' : Nat} {u u' : SFrac} (h : fmtF32.decode c = .num u) (h' : fmtF32.decode c' = .num u')
      (heq : u.mag.real = u'.mag.real) : f32Exp c' ≤ f32Exp c := by
    obtain ⟨-, hsig, -, -⟩ := f32Sig_spec (decode_f32_num h).1
    obtain ⟨-, -, hexp', -⟩ := f32Sig_spec (decode_f32_num h').1
    obtain ⟨-, hreal⟩ := f32_num_real h
    obtain ⟨-, hreal'⟩ := f32_num_real h'
    by_contra hlt
    have hbig : (2 : ℝ) ^ (23 : Int) ≤ f32Sig c' := by exact_mod_cast hexp'.resolve_left (by omega)
    have hsmall : (f32Sig c : ℝ) < 2 ^ (24 : Int) := by exact_mod_cast hsig
    have : u.mag.real < u'.mag.real := by
      rw [hreal, hreal']
      calc (f32Sig c : ℝ) * 2 ^ ((f32Exp c : Int) - 149) < 2 ^ (24 : Int) * 2 ^ ((f32Exp c : Int) - 149) := by gcongr
        _ = 2 ^ (24 + ((f32Exp c : Int) - 149)) := (zpow_add₀ two_ne_zero _ _).symm
        _ ≤ 2 ^ (23 + ((f32Exp c' : Int) - 149)) := zpow_le_zpow_right₀ one_le_two (by omega)
        _ = 2 ^ (23 : Int) * 2 ^ ((f32Exp c' : Int) - 149) := zpow_add₀ two_ne_zero _ _
        _ ≤ f32Sig c' * 2 ^ ((f32Exp c' : Int) - 149) := by gcongr
    exact this.ne heq
  have hexp : f32Exp c = f32Exp c' := le_antisymm (order h' h heq.symm) (order h h' heq)
  have hsig : (f32Sig c : ℝ) = f32Sig c' := by
    rw [(f32_num_real h).2, (f32_num_real h').2, hexp] at heq
    exact mul_right_cancel₀ (by positivity) heq
  have hsig' : f32Sig c = f32Sig c' := by exact_mod_cast hsig
  have hsplit := (f32Sig_spec (decode_f32_num h).1).1
  have hsplit' := (f32Sig_spec (decode_f32_num h').1).1
  rw [hexp, hsig'] at hsplit
  omega

/-! ### What the rounding picks (R161) -/

/-- A magnitude t that rounds in place of v, where no half unit is between them: the result is what R161 picks for v. -/
theorem picks_f32Rounded (rnd : Rnd) {t : SFrac} (hneg : t.neg = false) (hd : 0 < t.mag.d) (hrest : f32Rest t.mag ≠ 0)
    {unit v : ℝ} (hunit : 0 < unit) (hlo : f32Floor t.mag * unit < v) (hhi : v < (f32Floor t.mag + 1) * unit)
    (hbelow : (f32Units t.mag).real < f32Floor t.mag + 1 / 2 ↔ v < (f32Floor t.mag + 1 / 2) * unit)
    (hmid : (f32Units t.mag).real = f32Floor t.mag + 1 / 2 ↔ v = (f32Floor t.mag + 1 / 2) * unit)
    {c : Nat} (hc : c % 2 = f32Rounded rnd t % 2) :
    picks rnd.code (f32Floor t.mag * unit) v ((f32Floor t.mag + 1) * unit) (f32Rounded rnd t * unit) c := by
  obtain ⟨hless, hhalf⟩ := f32Rest_half hd
  rw [hbelow] at hless
  rw [hmid] at hhalf
  have hq : (0 : ℝ) ≤ f32Floor t.mag * unit := by positivity
  obtain ⟨up, hup⟩ : ∃ up, up = roundsAway rnd t.neg (f32Floor t.mag % 2 == 1) (f32Rest t.mag) (f32Units t.mag).d := ⟨_, rfl⟩
  have hrounded : f32Rounded rnd t = if up then f32Floor t.mag + 1 else f32Floor t.mag := by rw [f32Rounded, ← hup]
  unfold roundsAway at hup
  rw [if_neg hrest] at hup
  generalize f32Floor t.mag = q at *
  generalize f32Rest t.mag = rest at *
  generalize (f32Units t.mag).d = den at *
  have hval : (f32Rounded rnd t : ℝ) * unit = if up then (q + 1) * unit else q * unit := by
    rw [hrounded]
    split <;> simp
  rw [hrounded] at hc
  rw [hval]
  have tie : v - q * unit = (q + 1) * unit - v ↔ v = (q + 1 / 2) * unit := by constructor <;> intro h <;> linarith
  refine ⟨?either, fun hcode => ?nearest, fun hcode => ?zero, fun hcode => ?up, fun hcode => ?down, fun hcode => ?away⟩
  case either => cases up <;> simp
  case nearest =>
    rw [tie, ← hhalf]
    simp only [hcode] at hup
    cases up with
    | true =>
      have hge : ¬ 2 * rest < den ∧ (2 * rest = den → q % 2 = 1) := by
        simp only [Bool.true_eq, Bool.or_eq_true, Bool.and_eq_true, decide_eq_true_eq, beq_iff_eq] at hup
        omega
      have hge' := not_lt.mp (mt hless.mpr hge.1)
      simp only [if_true] at hc ⊢
      rw [abs_of_pos (by linarith)]
      exact ⟨by linarith, le_rfl, fun heq => by have := hge.2 heq; omega⟩
    | false =>
      have hle : ¬ den < 2 * rest ∧ (2 * rest = den → q % 2 = 0) := by
        simp only [Bool.false_eq, Bool.or_eq_false_iff, Bool.and_eq_false_iff, decide_eq_false_iff_not, beq_eq_false_iff_ne] at hup
        omega
      have hle' : v ≤ (q + 1 / 2) * unit := by
        obtain h | h : 2 * rest < den ∨ 2 * rest = den := by omega
        · exact (hless.mp h).le
        · exact (hhalf.mp h).le
      simp only [Bool.false_eq_true, if_false] at hc ⊢
      rw [abs_sub_comm, abs_of_pos (by linarith)]
      exact ⟨le_rfl, by linarith, fun heq => by have := hle.2 heq; omega⟩
  case zero =>
    simp only [hcode] at hup
    subst hup
    simp only [Bool.false_eq_true, if_false, le_refl, true_and]
    rw [abs_of_nonneg hq, abs_of_nonneg (by linarith)]
    linarith
  case up =>
    simp only [hcode, hneg, Bool.not_false] at hup
    rw [hup, if_pos rfl]
  case down =>
    simp only [hcode, hneg] at hup
    rw [hup, if_neg Bool.false_ne_true]
  case away =>
    rw [tie, ← hhalf]
    simp only [hcode] at hup
    cases up with
    | true =>
      have hge : ¬ 2 * rest < den := by
        simp only [Bool.true_eq, decide_eq_true_eq] at hup
        omega
      have hge' := not_lt.mp (mt hless.mpr hge)
      simp only [if_true]
      rw [abs_of_pos (by linarith), abs_of_nonneg hq, abs_of_nonneg (by linarith)]
      exact ⟨by linarith, le_rfl, fun _ => ⟨by linarith, le_rfl⟩⟩
    | false =>
      have hlt : 2 * rest < den := by
        simp only [Bool.false_eq, decide_eq_false_iff_not] at hup
        omega
      have hlt' := hless.mp hlt
      simp only [Bool.false_eq_true, if_false]
      rw [abs_sub_comm, abs_of_pos (by linarith)]
      exact ⟨le_rfl, by linarith, fun heq => by omega⟩

/-! ### FSQRT (R198) -/

/-- The root of a number of f32, and its binade. -/
theorem f32_sqrt_bounds {v : ℝ} (hlo : 2 ^ (-149 : Int) ≤ v) (hhi : v ≤ 2 ^ (149 : Int)) :
    2 ^ (-75 : Int) ≤ √v ∧ √v < 2 ^ (75 : Int) := by
  constructor
  · refine Real.le_sqrt_of_sq_le (le_trans ?_ hlo)
    norm_num
  · refine (Real.sqrt_lt' (by positivity)).mpr (hhi.trans_lt ?_)
    norm_num

/-- A number that stands for a root: where it is, in units of its last place. -/
theorem sqrtFrac_f32 {x : Frac} (hd : 0 < x.d) (hlo : 2 ^ (-149 : Int) ≤ x.real) (hhi : x.real ≤ 2 ^ (149 : Int)) :
    0 < (sqrtFrac x).n ∧ -75 ≤ floorLog2 (sqrtFrac x) ∧ floorLog2 (sqrtFrac x) < 75 ∧ (sqrtFrac x).real < 2 ^ 128 - 2 ^ 104 ∧
      ∃ r, rootCell (√x.real) (sqrtFrac x).real (floorLog2 (sqrtFrac x)) r := by
  have hpos : 0 < x.real := lt_of_lt_of_le (by positivity) hlo
  have hn : 0 < x.n := Nat.pos_of_ne_zero fun h => hpos.ne' ((Frac.real_eq_zero_iff hd).mpr h)
  obtain ⟨htn, r, hcell⟩ := sqrtFrac_cell hn hd
  obtain ⟨hbelow, habove, -⟩ := rootCell_spec hcell
  obtain ⟨hrlo, hrhi⟩ := f32_sqrt_bounds hlo hhi
  have h1 := (zpow_lt_zpow_iff_right₀ (one_lt_two (α := ℝ))).mp (hrlo.trans_lt habove)
  have h2 := (zpow_lt_zpow_iff_right₀ (one_lt_two (α := ℝ))).mp (hbelow.trans_lt hrhi)
  refine ⟨htn, by omega, h2, ?_, r, hcell⟩
  calc (sqrtFrac x).real < 2 ^ (floorLog2 (sqrtFrac x) + 1) := (floorLog2_spec htn (sqrtFrac_den_pos x)).2
    _ ≤ 2 ^ (75 : Int) := zpow_le_zpow_right₀ one_le_two (by omega)
    _ < 2 ^ 128 - 2 ^ 104 := by norm_num

/-! ### The rounding of a root is that of the number in its place -/

/-- The unit of the last place of a number in the binade e. -/
noncomputable def unitAt (e : Int) : ℝ := 2 ^ (e - 23)

theorem unitAt_pos (e : Int) : 0 < unitAt e := by
  unfold unitAt
  positivity

section
variable {t : SFrac} {v : ℝ} {r : Nat} (he : -126 ≤ floorLog2 t.mag)
include he

theorem unitAt_of_normal : (2 : ℝ) ^ f32Place t.mag = unitAt (floorLog2 t.mag) := by
  rw [f32Place, max_eq_left he, unitAt]

theorem real_f32Units_of_normal : (f32Units t.mag).real * unitAt (floorLog2 t.mag) = t.mag.real :=
  unitAt_of_normal he ▸ real_f32Units t.mag

/-- The result: its code, the bits, and its value. -/
theorem round_positive_normal (htd : 0 < t.mag.d) (hneg : t.neg = false) (htn : 0 < t.mag.n) (hlt : t.mag.real < 2 ^ 128 - 2 ^ 104)
    (rnd : Rnd) : fmtF32.round false rnd t = ⟨f32Code rnd t, if f32Rest t.mag = 0 then 0 else bitNX⟩ ∧
    ∃ u, fmtF32.decode (f32Code rnd t) = .num u ∧ u.neg = false ∧ u.mag.real = f32Rounded rnd t * unitAt (floorLog2 t.mag) := by
  have hcode := f32Code_lt rnd htd htn hlt
  have hsign : fmtF32.withSign t.neg (f32Code rnd t) = f32Code rnd t := by rw [hneg]; rfl
  have hround := round_f32_normal false (rnd := rnd) htd htn hcode he
  obtain ⟨u, hu, huneg, hreal⟩ := decode_f32Code (rnd := rnd) htd htn hcode
  rw [hsign] at hround hu
  exact ⟨hround, u, hu, huneg.trans hneg, unitAt_of_normal he ▸ hreal⟩

variable (hcell : rootCell v t.mag.real (floorLog2 t.mag) r)
include hcell

/-- Every half unit is a multiple of the cell's width, so that v and t lie alike. -/
theorem rootCell_halves (j : Nat) : ((f32Units t.mag).real < j / 2 ↔ v < j / 2 * unitAt (floorLog2 t.mag)) ∧
    ((f32Units t.mag).real = j / 2 ↔ v = j / 2 * unitAt (floorLog2 t.mag)) := by
  have hmultiple : (j : ℝ) / 2 * unitAt (floorLog2 t.mag) = (j * 2 ^ 66 : Nat) * 2 ^ (floorLog2 t.mag - 90) := by
    have : unitAt (floorLog2 t.mag) = 2 ^ 67 * 2 ^ (floorLog2 t.mag - 90) := by
      rw [unitAt, ← zpow_natCast, ← zpow_add₀ two_ne_zero]
      congr 1
      push_cast
      ring
    rw [this]
    push_cast
    ring
  have hunit := unitAt_pos (floorLog2 t.mag)
  rw [hmultiple, (rootCell_lt_iff hcell _).2, rootCell_eq_iff hcell, ← hmultiple, ← real_f32Units_of_normal he]
  exact ⟨(mul_lt_mul_iff_left₀ hunit).symm, (mul_left_inj' hunit.ne').symm⟩

theorem rootCell_whole (j : Nat) : ((f32Units t.mag).real < j ↔ v < j * unitAt (floorLog2 t.mag)) ∧
    ((f32Units t.mag).real = j ↔ v = j * unitAt (floorLog2 t.mag)) := by
  have h := rootCell_halves he hcell (2 * j)
  rwa [Nat.cast_mul, Nat.cast_ofNat, mul_div_cancel_left₀ _ two_ne_zero] at h

variable (htd : 0 < t.mag.d)
include htd

/-- v is in the step that t is rounded in. -/
theorem rootCell_step : f32Floor t.mag * unitAt (floorLog2 t.mag) ≤ v ∧ v < (f32Floor t.mag + 1) * unitAt (floorLog2 t.mag) ∧
    (f32Rest t.mag = 0 ↔ v = f32Floor t.mag * unitAt (floorLog2 t.mag)) := by
  obtain ⟨hlt, heq⟩ := rootCell_whole he hcell (f32Floor t.mag)
  have hnext := (rootCell_whole he hcell (f32Floor t.mag + 1)).1
  rw [Nat.cast_succ] at hnext
  exact ⟨not_lt.mp (mt hlt.mpr (not_lt.mpr (f32Floor_le htd))), hnext.mp (lt_f32Floor_add_one htd),
    (f32Rest_eq_zero_iff htd).trans heq⟩

variable (hneg : t.neg = false) (htn : 0 < t.mag.n) (hlt : t.mag.real < 2 ^ 128 - 2 ^ 104) (rnd : Rnd)
include hneg htn hlt

/-- A root that is a number of f32 is given exactly. -/
theorem round_rootCell_exact {c : Nat} {u : SFrac} (hc : c < 2 ^ 31) (hu : fmtF32.decode c = .num u)
    (huv : ((u.val : ℚ) : ℝ) = v) : fmtF32.round false rnd t = ⟨c, 0⟩ := by
  have hbinade := (rootCell_spec hcell).1
  have hupos : 0 < u.val := by
    have : (0 : ℝ) < u.val := huv ▸ lt_of_lt_of_le (by positivity) hbinade
    exact_mod_cast this
  have hureal : u.mag.real = v := (SFrac.of_val_pos hupos).2.1.symm.trans huv
  obtain ⟨j, hj⟩ := f32_multiple hu (hureal ▸ hbinade)
  have htreal : t.mag.real = u.mag.real := by
    have hunits := (rootCell_whole he hcell j).2.mpr (hureal.symm.trans hj)
    rw [← real_f32Units_of_normal he, hunits, hj, unitAt]
  have hrest : f32Rest t.mag = 0 :=
    f32Rest_eq_zero htn htd (htreal.trans (f32_num_real hu).2) (f32Sig_spec (decode_f32_num hu).1).2.1 (by omega)
  obtain ⟨hround, u', hu', -, hreal'⟩ := round_positive_normal he htd hneg htn hlt rnd
  have hcode := f32Code_lt rnd htd htn hlt
  have hsame : f32Code rnd t = c := by
    refine f32_code_unique (by omega) hc hu' hu ?_
    rw [hreal', f32Rounded_of_exact rnd hrest, ← (f32Rest_eq_zero_iff htd).mp hrest, real_f32Units_of_normal he, htreal]
  rw [hround, if_pos hrest, hsame]

/-- A root between two numbers of f32 is rounded once. -/
theorem round_rootCell_neighbours (he' : floorLog2 t.mag ≤ 126) {lo hi : ℝ} (hnb : neighbours fmtF32.isValue lo v hi) :
    let y := fmtF32.round false rnd t
    y.flags = bitNX ∧ ∃ u, fmtF32.decode y.code = .num u ∧ picks rnd.code lo v hi u.val y.code := by
  obtain ⟨hlow, hhigh, hwhole⟩ := rootCell_step he hcell htd
  obtain ⟨hround, u, hu, huneg, hreal⟩ := round_positive_normal he htd hneg htn hlt rnd
  have hunits := ((f32Units_bounds htd htn).2.2 he).trans_lt (lt_f32Floor_add_one htd)
  have hfloor : 2 ^ 23 < f32Floor t.mag + 1 := by exact_mod_cast hunits
  have hfloor' := f32Floor_lt htd htn
  have hvalue : fmtF32.isValue (f32Floor t.mag * unitAt (floorLog2 t.mag)) := by
    have hplace : (((floorLog2 t.mag + 126).toNat : Nat) : Int) - 149 = floorLog2 t.mag - 23 := by omega
    rw [unitAt, ← hplace]
    exact f32_isValue (by omega) (.inr (by omega)) (by omega)
  have hne : v ≠ f32Floor t.mag * unitAt (floorLog2 t.mag) := fun h => not_value_of_neighbours hnb (h ▸ hvalue)
  have hstrict := lt_of_le_of_ne hlow hne.symm
  have hrest : f32Rest t.mag ≠ 0 := mt hwhole.mp hne
  obtain ⟨rfl, rfl⟩ := neighbours_unique hnb (f32_neighbours_of_between (by omega) hfloor' he he' hstrict hhigh)
  have huval : ((u.val : ℚ) : ℝ) = f32Rounded rnd t * unitAt (floorLog2 t.mag) := by
    rw [SFrac.val_real, huneg, if_neg Bool.false_ne_true, hreal]
  have hmiddle : ((2 * f32Floor t.mag + 1 : Nat) : ℝ) / 2 = f32Floor t.mag + 1 / 2 := by
    push_cast
    ring
  have hhalf := rootCell_halves he hcell (2 * f32Floor t.mag + 1)
  have heven : f32Code rnd t % 2 = f32Rounded rnd t % 2 := by
    unfold f32Code
    omega
  rw [hmiddle] at hhalf
  rw [hround, if_neg hrest]
  refine ⟨rfl, u, hu, ?_⟩
  rw [huval]
  exact picks_f32Rounded rnd hneg htd hrest (unitAt_pos _) hstrict hhigh hhalf.1 hhalf.2 heven

end

/-! ### FSQRT and FRSQ (R198) -/

/-- What is asked of y as the root of x: exact where the root is a number of f32, else rounded once. -/
def isRoot (rnd : Rnd) (x : SFrac) (y : Res) : Prop := 0 < x.val →
  let v := Real.sqrt x.val
  (∀ c u, c < 2 ^ 31 → fmtF32.decode c = .num u → (u.val : ℝ) = v → y = ⟨c, 0⟩) ∧
  ∀ lo hi, neighbours fmtF32.isValue lo v hi → y.flags = bitNX ∧
    ∃ u, fmtF32.decode y.code = .num u ∧ picks rnd.code lo v hi u.val y.code

theorem round_sqrtFrac (rnd : Rnd) {c : Nat} {x : SFrac} (hx : fmtF32.decode c = .num x) (h0 : x.val ≠ 0) :
    isRoot rnd x (fmtF32.round false rnd ⟨false, sqrtFrac x.mag⟩) := by
  intro hpos v
  obtain ⟨-, hlo, hhi⟩ := f32_num_bounds hx h0
  obtain ⟨htn, helo, hehi, hlt, r, hcell⟩ := sqrtFrac_f32 (decode_den_pos hx) hlo (hhi.le.trans (by norm_num))
  have htd := sqrtFrac_den_pos x.mag
  rw [← (SFrac.of_val_pos hpos).2.1] at hcell
  have he : -126 ≤ floorLog2 (⟨false, sqrtFrac x.mag⟩ : SFrac).mag := by
    show -126 ≤ floorLog2 (sqrtFrac x.mag)
    omega
  exact ⟨fun k u hk hu huv => round_rootCell_exact he hcell htd rfl htn hlt rnd hk hu huv,
    fun lo hi hnb => round_rootCell_neighbours he hcell htd rfl htn hlt rnd (le_of_lt (hehi.trans (by norm_num))) hnb⟩

/-- What is asked of y as 1/√x: within a unit, exact for the powers of 4 alone. -/
def isNearRoot (x : SFrac) (y : Res) : Prop := 0 < x.val →
  let v := 1 / Real.sqrt x.val
  ∃ u, fmtF32.decode y.code = .num u ∧ |(u.val : ℝ) - v| < ulp v ∧
    ((∃ n : Int, x.val = 4 ^ n) → (u.val : ℝ) = v ∧ y.flags = 0) ∧
    ((¬ ∃ n : Int, x.val = 4 ^ n) → y.flags = bitNX)

/-- Subnormal codes stand for less than 2^-126. -/
theorem real_of_isSubnormal {c : Nat} {u : SFrac} (hu : fmtF32.decode c = .num u) (h : fmtF32.isSubnormal c = true) :
    u.mag.real < 2 ^ (-126 : Int) := by
  obtain ⟨-, hlow⟩ := (isSubnormal_f32 c).mp h
  have hexp : f32Exp c = 0 := by
    unfold f32Exp
    omega
  have hsig : (f32Sig c : ℝ) < 2 ^ (23 : Int) := by
    have : f32Sig c < 2 ^ 23 := by
      unfold f32Sig
      omega
    exact_mod_cast this
  calc u.mag.real = f32Sig c * 2 ^ (-149 : Int) := by rw [(f32_num_real hu).2, hexp]; rfl
    _ < 2 ^ (23 : Int) * 2 ^ (-149 : Int) := by gcongr
    _ = 2 ^ (-126 : Int) := by norm_num

/-- A free value accepted for a root is within a unit of it. -/
theorem acceptWithin_rootCell (fzo : Bool) (raw : Word32) {t : Frac} {v : ℝ} {r : Nat} (htn : 0 < t.n) (htd : 0 < t.d)
    (he : -75 ≤ floorLog2 t) (hlt : t.real < 2 ^ 128 - 2 ^ 104) (hcell : rootCell v t.real (floorLog2 t) r) :
    let y := acceptWithin fzo raw ⟨false, t⟩ (shy (ulpOf t))
    y.flags = bitNX ∧ ∃ u, fmtF32.decode y.code = .num u ∧ |((u.val : ℚ) : ℝ) - v| < ulp v := by
  have he' : -126 ≤ floorLog2 t := by omega
  obtain ⟨hbelow, habove, hclose⟩ := rootCell_spec hcell
  have hv : 0 ≤ v := le_trans (by positivity) hbelow
  have hulpv : ulp v = unitAt (floorLog2 t) := by
    rw [← abs_of_nonneg hv] at hbelow habove
    rw [ulp_eq hbelow habove, max_eq_left he', unitAt]
  have hunit : (2 : ℝ) ^ f32Place t = unitAt (floorLog2 t) := by rw [f32Place, max_eq_left he', unitAt]
  have hulp : (ulpOf t).real = unitAt (floorLog2 t) := by
    rw [ulpOf, Frac.real_ofPow2, Nat.cast_one, one_mul, ← hunit, f32Place]
  have hulpd : 0 < (ulpOf t).d := Frac.ofPow2_den_pos _ _
  have hpos := unitAt_pos (floorLog2 t)
  have hval : (((⟨false, t⟩ : SFrac).val : ℚ) : ℝ) = t.real := by rw [SFrac.val_real, if_neg Bool.false_ne_true]
  have hwidth : (2 : ℝ) ^ (floorLog2 t - 90) = unitAt (floorLog2 t) * 2 ^ (-67 : Int) := by
    rw [unitAt, ← zpow_add₀ two_ne_zero]
    congr 1
    omega
  obtain ⟨c, u, -, hu, herr, hy⟩ := acceptWithin_spec fzo raw (ref := ⟨false, t⟩) htd hlt (shy_den_pos hulpd)
  rw [real_shy hulpd, hulp, hval, hunit] at herr
  have hdist : |((u.val : ℚ) : ℝ) - t.real| ≤ unitAt (floorLog2 t) * (1 - 2 ^ (-40 : Int)) := by
    refine herr.elim id fun h => h.trans ?_
    norm_num
    linarith
  have hnear : |((u.val : ℚ) : ℝ) - v| < unitAt (floorLog2 t) := by
    calc |((u.val : ℚ) : ℝ) - v| ≤ |((u.val : ℚ) : ℝ) - t.real| + |t.real - v| := abs_sub_le _ _ _
      _ < unitAt (floorLog2 t) * (1 - 2 ^ (-40 : Int)) + unitAt (floorLog2 t) * 2 ^ (-67 : Int) :=
        add_lt_add_of_le_of_lt hdist (hwidth ▸ hclose)
      _ ≤ unitAt (floorLog2 t) := by
        norm_num
        linarith
  have hnormal : fmtF32.isSubnormal c = false := by
    rw [← Bool.not_eq_true]
    intro hsub
    have hbinade : (2 : ℝ) ^ (floorLog2 t) = 2 ^ (23 : Int) * unitAt (floorLog2 t) := by
      rw [unitAt, ← zpow_add₀ two_ne_zero, add_sub_cancel]
    have hlarge : (2 : ℝ) ^ (-98 : Int) ≤ unitAt (floorLog2 t) := zpow_le_zpow_right₀ one_le_two (by omega)
    have hsmall := (le_abs_self _).trans_lt ((SFrac.abs_val u).trans_lt (real_of_isSubnormal hu hsub))
    have hdown := (abs_lt.mp hnear).1
    norm_num at hbinade hlarge hsmall
    linarith
  rw [hnormal, Bool.and_false, if_neg Bool.false_ne_true, nearestF32_flags (x := ⟨false, t⟩) htd htn hlt he'] at hy
  rw [hulpv]
  dsimp only
  rw [hy]
  exact ⟨rfl, u, hu, hnear⟩

/-- The exponent of a power of two. -/
theorem pow2Exp_spec {x : Frac} (hn : 0 < x.n) (hd : 0 < x.d) :
    (pow2Exp x = some (floorLog2 x) ∧ x.real = 2 ^ floorLog2 x) ∨ (pow2Exp x = none ∧ ∀ n : Int, x.real ≠ 2 ^ n) := by
  have htest : x.le (Frac.ofPow2 1 (floorLog2 x)) = true ↔ x.real ≤ 2 ^ floorLog2 x := by
    rw [Frac.le_iff_real hd (Frac.ofPow2_den_pos _ _), Frac.real_ofPow2, Nat.cast_one, one_mul]
  obtain ⟨hlo, hhi⟩ := floorLog2_spec hn hd
  by_cases h : x.real ≤ 2 ^ floorLog2 x
  · exact .inl ⟨if_pos (htest.mpr h), le_antisymm h hlo⟩
  · refine .inr ⟨if_neg (mt htest.mp h), fun n hpow => h ?_⟩
    have hsame : floorLog2 x = n := floorLog2_eq hn hd hpow.ge (hpow.trans_lt (zpow_lt_zpow_right₀ one_lt_two (by omega)))
    rw [hsame, hpow]

/-- A power of two of the format is given exactly, unless FZO flushes it. -/
theorem exactRes_pow2 {fzo : Bool} {n : Int} (hlo : -149 ≤ n) (hhi : n ≤ 127) (hfzo : fzo = false ∨ -126 ≤ n) :
    (exactRes fzo ⟨false, Frac.ofPow2 1 n⟩).flags = 0 ∧
      ∃ u, fmtF32.decode (exactRes fzo ⟨false, Frac.ofPow2 1 n⟩).code = .num u ∧ ((u.val : ℚ) : ℝ) = 2 ^ n := by
  obtain ⟨x, hx⟩ : ∃ x : SFrac, x = ⟨false, Frac.ofPow2 1 n⟩ := ⟨_, rfl⟩
  have hd : 0 < x.mag.d := hx ▸ Frac.ofPow2_den_pos _ _
  have hreal : x.mag.real = 2 ^ n := by rw [hx, Frac.real_ofPow2, Nat.cast_one, one_mul]
  have hval : ((x.val : ℚ) : ℝ) = 2 ^ n := by rw [SFrac.val_real, hreal, hx, if_neg Bool.false_ne_true]
  have hn : 0 < x.mag.n := Nat.pos_of_ne_zero fun h => by
    have := (Frac.real_eq_zero_iff hd).mpr h
    rw [hreal] at this
    exact zpow_ne_zero n two_ne_zero this
  have hlog : floorLog2 x.mag = n := floorLog2_eq hn hd hreal.ge (hreal.trans_lt (zpow_lt_zpow_right₀ one_lt_two (by omega)))
  have hlt : x.mag.real < 2 ^ 128 - 2 ^ 104 := by
    calc x.mag.real = 2 ^ n := hreal
      _ ≤ 2 ^ (127 : Int) := zpow_le_zpow_right₀ one_le_two hhi
      _ < 2 ^ 128 - 2 ^ 104 := by norm_num
  have hrest : f32Rest x.mag = 0 :=
    f32Rest_eq_zero (a := 1) hn hd (hreal.trans (by rw [Nat.cast_one, one_mul])) (by norm_num) hlo
  rw [← hx, ← hval]
  exact round_f32_exact false _ hn hd hlt hrest (hlog.symm ▸ hfzo)

theorem isNearRoot_of_accept {x : SFrac} {y : Res} (hfour : ¬ ∃ n : Int, x.val = 4 ^ n)
    (hy : y.flags = bitNX ∧ ∃ u, fmtF32.decode y.code = .num u ∧
      |((u.val : ℚ) : ℝ) - 1 / √(x.val : ℝ)| < ulp (1 / √(x.val : ℝ))) : isNearRoot x y := by
  obtain ⟨hflags, u, hu, herr⟩ := hy
  exact fun _ => ⟨u, hu, herr, fun h => absurd h hfour, fun _ => hflags⟩

theorem four_zpow (n : Int) : (4 : ℝ) ^ n = 2 ^ (2 * n) := by
  rw [zpow_mul]
  norm_num

/-- What FRSQ accepts for x. -/
def frsqAccepted (fzo : Bool) (c : Nat) (x : SFrac) : Res :=
  acceptWithin fzo (Config.frsq (w32n c)) ⟨false, sqrtFrac x.mag.inv⟩ (shy (ulpOf (sqrtFrac x.mag.inv)))

theorem frsqRes_of_pos (fzo : Bool) {c : Nat} {x : SFrac} (hx : fmtF32.decode c = .num x) (hpos : 0 < x.val) :
    frsqRes fzo c = (pow2Exp x.mag).elim (frsqAccepted fzo c x) fun e =>
      if e % 2 = 0 then exactRes fzo ⟨false, Frac.ofPow2 1 (-(e / 2))⟩ else frsqAccepted fzo c x := by
  rw [frsqRes, hx]
  refine ((if_neg (mt (isZero_iff_val (decode_den_pos hx)).mp hpos.ne')).trans (if_neg ?_)).trans ?_
  · simp [(SFrac.of_val_pos hpos).1]
  · cases pow2Exp x.mag <;> rfl

theorem frsqAccepted_near (fzo : Bool) {c : Nat} {x : SFrac} (hx : fmtF32.decode c = .num x) (hpos : 0 < x.val) :
    (frsqAccepted fzo c x).flags = bitNX ∧ ∃ u, fmtF32.decode (frsqAccepted fzo c x).code = .num u ∧
      |((u.val : ℚ) : ℝ) - 1 / √(x.val : ℝ)| < ulp (1 / √(x.val : ℝ)) := by
  obtain ⟨hn, hlo, hhi⟩ := f32_num_bounds hx hpos.ne'
  have hlo' : (2 : ℝ) ^ (-149 : Int) ≤ x.mag.inv.real := by
    rw [Frac.real_inv, zpow_neg]
    exact inv_anti₀ (lt_of_lt_of_le (by positivity) hlo) (hhi.le.trans (by norm_num))
  have hhi' : x.mag.inv.real ≤ 2 ^ (149 : Int) := by
    rw [Frac.real_inv, ← inv_inv ((2 : ℝ) ^ (149 : Int)), ← zpow_neg]
    exact inv_anti₀ (by positivity) hlo
  obtain ⟨htn, helo, -, hlt, r, hcell⟩ := sqrtFrac_f32 (x := x.mag.inv) hn hlo' hhi'
  have hroot : √x.mag.inv.real = 1 / √(x.val : ℝ) := by
    rw [Frac.real_inv, Real.sqrt_inv, (SFrac.of_val_pos hpos).2.1, one_div]
  rw [hroot] at hcell
  exact acceptWithin_rootCell fzo _ htn (sqrtFrac_den_pos _) helo hlt hcell

/-- FRSQ of a number above zero. -/
theorem frsqRes_near (fzo : Bool) {c : Nat} {x : SFrac} (hx : fmtF32.decode c = .num x) (h0 : x.val ≠ 0) :
    isNearRoot x (frsqRes fzo c) := by
  intro hpos
  obtain ⟨-, hval, -⟩ := SFrac.of_val_pos hpos
  obtain ⟨hn, hlo, hhi⟩ := f32_num_bounds hx h0
  have hfour (n : Int) : x.val = 4 ^ n ↔ x.mag.real = 2 ^ (2 * n) := by
    rw [← hval, ← four_zpow, ← @Rat.cast_inj ℝ]
    push_cast
    rfl
  have accept := frsqAccepted_near fzo hx hpos
  rw [frsqRes_of_pos fzo hx hpos]
  obtain ⟨hpow, hreal⟩ | ⟨hpow, hnone⟩ := pow2Exp_spec hn (decode_den_pos hx) <;> rw [hpow]
  · rw [hreal] at hlo hhi
    have hlow := (zpow_le_zpow_iff_right₀ one_lt_two).mp hlo
    have hhigh := (zpow_lt_zpow_iff_right₀ one_lt_two).mp hhi
    dsimp only [Option.elim_some]
    split
    next heven =>
      obtain ⟨hflags, u, hu, huval⟩ := exactRes_pow2 (fzo := fzo) (n := -(floorLog2 x.mag / 2)) (by omega) (by omega) (.inr (by omega))
      have hroot : ((u.val : ℚ) : ℝ) = 1 / √(x.val : ℝ) := by
        have hsquare : x.mag.real = 2 ^ (floorLog2 x.mag / 2) * 2 ^ (floorLog2 x.mag / 2) := by
          rw [hreal, ← zpow_add₀ two_ne_zero]
          congr 1
          omega
        rw [huval, hval, hsquare, Real.sqrt_mul_self (by positivity), zpow_neg, one_div]
      refine ⟨u, hu, ?_, fun _ => ⟨hroot, hflags⟩, fun hno => absurd ⟨floorLog2 x.mag / 2, (hfour _).mpr ?_⟩ hno⟩
      · rw [hroot, sub_self, abs_zero]
        exact ulp_pos _
      · rw [hreal]
        congr 1
        omega
    next hodd =>
      refine isNearRoot_of_accept (fun ⟨n, hn4⟩ => hodd ?_) accept hpos
      have hsame : floorLog2 x.mag = 2 * n :=
        zpow_right_injective₀ (two_pos (α := ℝ)) (by norm_num) (hreal.symm.trans ((hfour n).mp hn4))
      omega
  · exact isNearRoot_of_accept (fun ⟨n, hn4⟩ => hnone _ ((hfour n).mp hn4)) accept hpos

/-! ### The table of R199 -/

section
variable {y minf pinf mzero pzero : Res} {below : Option Res} {more : SFrac → Prop}

theorem specialTable_nan {sg : Bool} (h : y = nanRes sg) : specialTable (.nan sg) y minf pinf mzero pzero below more :=
  ⟨fun _ hsg => FVal.nan.inj hsg ▸ h, nofun, nofun, nofun, nofun, nofun⟩

theorem specialTable_inf {n : Bool} (h : y = if n then minf else pinf) :
    specialTable (.inf n) y minf pinf mzero pzero below more := by
  refine ⟨nofun, fun hn => ?_, fun hn => ?_, nofun, nofun, nofun⟩ <;> rw [h, FVal.inf.inj hn] <;> rfl

theorem specialTable_num {x : SFrac} (hzero : x.val = 0 → y = if x.neg then mzero else pzero)
    (hbelow : x.val < 0 → ∀ z, below = some z → y = z) (hmore : x.val ≠ 0 → more x) :
    specialTable (.num x) y minf pinf mzero pzero below more :=
  ⟨nofun, nofun, nofun, fun _ hx => FVal.num.inj hx ▸ hzero, fun _ hx => FVal.num.inj hx ▸ hbelow,
    fun _ hx => FVal.num.inj hx ▸ hmore⟩

end

section
variable (rnd : Rnd) (fzo : Bool) (c : Nat)

theorem frcp_table : specialTable (fmtF32.decode c) (frcpRes rnd c) (zeroRes true) (zeroRes false)
    ⟨fmtF32.withSign true fmtF32.infCode, bitDZ⟩ ⟨fmtF32.withSign false fmtF32.infCode, bitDZ⟩ none
    (fun x => ∃ z : SFrac, 0 < z.mag.d ∧ z.val = 1 / x.val ∧ frcpRes rnd c = fmtF32.round false rnd z) := by
  unfold frcpRes
  cases hx : fmtF32.decode c with
  | nan sg => exact specialTable_nan rfl
  | inf n => exact specialTable_inf (by cases n <;> rfl)
  | num x =>
    have hzero := isZero_iff_val (decode_den_pos hx)
    refine specialTable_num (fun h0 => ?_) (fun _ _ => nofun) fun h0 => ⟨⟨x.neg, x.mag.inv⟩, ?_, ?_, if_neg (mt hzero.mp h0)⟩
    · exact (if_pos (hzero.mpr h0)).trans (by cases x.neg <;> rfl)
    · exact Nat.pos_of_ne_zero fun h => h0 ((val_eq_zero_iff (decode_den_pos hx)).mpr h)
    · cases hneg : x.neg <;> simp [SFrac.val, SFrac.num, Frac.inv, hneg, neg_div]

theorem fsqrt_table : specialTable (fmtF32.decode c) (fsqrtRes rnd c) (nanRes true) (infRes false) (zeroRes true) (zeroRes false)
    (some (nanRes true)) (fun x => isRoot rnd x (fsqrtRes rnd c)) := by
  unfold fsqrtRes
  cases hx : fmtF32.decode c with
  | nan sg => exact specialTable_nan rfl
  | inf n => exact specialTable_inf (by cases n <;> rfl)
  | num x =>
    have hzero := isZero_iff_val (decode_den_pos hx)
    refine specialTable_num (fun h0 => ?_) (fun hlt z hz => ?_) fun h0 => ?_
    · exact (if_pos (hzero.mpr h0)).trans (by cases x.neg <;> rfl)
    · exact ((if_neg (mt hzero.mp hlt.ne)).trans (if_pos (neg_of_val_neg hlt))).trans (Option.some.inj hz)
    · intro hpos
      have hneg := (SFrac.of_val_pos hpos).1
      dsimp only
      rw [if_neg (mt hzero.mp h0), hneg, if_neg Bool.false_ne_true]
      exact round_sqrtFrac rnd hx h0 hpos

theorem frsq_table : specialTable (fmtF32.decode c) (frsqRes fzo c) (nanRes true) (zeroRes false)
    ⟨fmtF32.withSign true fmtF32.infCode, bitDZ⟩ ⟨fmtF32.withSign false fmtF32.infCode, bitDZ⟩
    (some (nanRes true)) (fun x => isNearRoot x (frsqRes fzo c)) := by
  cases hx : fmtF32.decode c with
  | nan sg => exact specialTable_nan (by rw [frsqRes, hx])
  | inf n =>
    rw [frsqRes, hx]
    exact specialTable_inf (by cases n <;> rfl)
  | num x =>
    have hzero := isZero_iff_val (decode_den_pos hx)
    refine specialTable_num (fun h0 => ?_) (fun hlt z hz => ?_) fun h0 => frsqRes_near fzo hx h0
    · rw [frsqRes, hx]
      exact (if_pos (hzero.mpr h0)).trans (by cases x.neg <;> rfl)
    · rw [frsqRes, hx]
      exact ((if_neg (mt hzero.mp hlt.ne)).trans (if_pos (neg_of_val_neg hlt))).trans (Option.some.inj hz)

theorem fexp2_table : specialTable (fmtF32.decode c) (fexp2Res fzo c) (zeroRes false) (infRes false) oneRes oneRes none
    (fun _ => True) := by
  unfold fexp2Res
  cases hx : fmtF32.decode c with
  | nan sg => exact specialTable_nan rfl
  | inf n => exact specialTable_inf (by cases n <;> rfl)
  | num x => exact specialTable_num (fun h0 => (if_pos ((isZero_iff_val (decode_den_pos hx)).mpr h0)).trans
      (by cases x.neg <;> rfl)) (fun _ _ => nofun) fun _ => trivial

theorem flog2_table : specialTable (fmtF32.decode c) (flog2Res fzo c) (nanRes true) (infRes false)
    ⟨fmtF32.withSign true fmtF32.infCode, bitDZ⟩ ⟨fmtF32.withSign true fmtF32.infCode, bitDZ⟩
    (some (nanRes true)) (fun _ => True) := by
  unfold flog2Res
  cases hx : fmtF32.decode c with
  | nan sg => exact specialTable_nan rfl
  | inf n => exact specialTable_inf (by cases n <;> rfl)
  | num x =>
    have hzero := isZero_iff_val (decode_den_pos hx)
    exact specialTable_num (fun h0 => (if_pos (hzero.mpr h0)).trans (by cases x.neg <;> rfl))
      (fun hlt z hz => ((if_neg (mt hzero.mp hlt.ne)).trans (if_pos (neg_of_val_neg hlt))).trans (Option.some.inj hz))
      fun _ => trivial

theorem fsin_table : specialTable (fmtF32.decode c) (trigRes fzo false c) (nanRes true) (nanRes true) (zeroRes true)
    (zeroRes false) none (fun _ => True) := by
  unfold trigRes
  cases hx : fmtF32.decode c with
  | nan sg => exact specialTable_nan rfl
  | inf n => exact specialTable_inf (by cases n <;> rfl)
  | num x => exact specialTable_num (fun h0 => (if_pos ((isZero_iff_val (decode_den_pos hx)).mpr h0)).trans
      (by cases x.neg <;> rfl)) (fun _ _ => nofun) fun _ => trivial

theorem fcos_table : specialTable (fmtF32.decode c) (trigRes fzo true c) (nanRes true) (nanRes true) oneRes oneRes none
    (fun _ => True) := by
  unfold trigRes
  cases hx : fmtF32.decode c with
  | nan sg => exact specialTable_nan rfl
  | inf n => exact specialTable_inf (by cases n <;> rfl)
  | num x => exact specialTable_num (fun h0 => (if_pos ((isZero_iff_val (decode_den_pos hx)).mpr h0)).trans
      (by cases x.neg <;> rfl)) (fun _ _ => nofun) fun _ => trivial

end

/-- Settles O8: the mould of the seven, and each function's row of the table. -/
theorem specialFunctionResults : Obligations.SpecialFunctionResults := by
  intro s g r q m fzi nan meaning free zero inf one root nearRoot
  have mould {i : Instr} {f : Rnd → Nat → Res} {minf pinf mzero pzero : Res} {below : Option Res} {more : Nat → SFrac → Res → Prop}
      (hexec : exec i s = .next (specialMould i q f s))
      (htable : ∀ l c, specialTable (fmtF32.decode c) (f (g.rnd q.mod l 0) c) minf pinf mzero pzero below
        (fun x => more l x (f (g.rnd q.mod l 0) c))) : meaning i minf pinf mzero pzero below more :=
    fun h => ⟨_, hexec.trans (congrArg Host.Outcome.next (specialMould_eq h q f)), fun l => htable l _⟩
  refine ⟨?frcp, ?frsq, ?fsqrt, ?fexp2, ?flog2, ?fsin, ?fcos⟩
  case frcp => exact mould (f := frcpRes) (more := fun l x y => ∃ z : SFrac, 0 < z.mag.d ∧ z.val = 1 / x.val ∧
    y = fmtF32.round false (g.rnd q.mod l 0) z) rfl fun l c => frcp_table (g.rnd q.mod l 0) c
  case frsq => exact mould (f := fun rnd => frsqRes rnd.fzo) rfl fun l c => frsq_table _ c
  case fsqrt => exact mould (f := fsqrtRes) rfl fun l c => fsqrt_table (g.rnd q.mod l 0) c
  case fexp2 => exact mould (f := fun rnd => fexp2Res rnd.fzo) rfl fun l c => fexp2_table _ c
  case flog2 => exact mould (f := fun rnd => flog2Res rnd.fzo) rfl fun l c => flog2_table _ c
  case fsin => exact mould (f := fun rnd => trigRes rnd.fzo false) rfl fun l c => fsin_table _ c
  case fcos => exact mould (f := fun rnd => trigRes rnd.fzo true) rfl fun l c => fcos_table _ c

end Sys2Proof.Machine
end

section
/-!
PROOFS. The constants of Special.lean: ln 2 to 192 bits, by the series of log ((1 + x) / (1 − x)) at 1/3, and π to 190 bits,
by Machin's formula.
-/
namespace Sys2Proof.Machine

/-- The last place of a number with 192 fraction bits. -/
noncomputable def fxEps : ℝ := 2 ^ (-192 : Int)

theorem fxEps_pos : 0 < fxEps := by
  unfold fxEps
  positivity

/-- `fxLn2` is ln 2, cut. -/
theorem fxLn2_spec : (fxLn2 : ℝ) * fxEps ≤ Real.log 2 ∧ Real.log 2 ≤ fxLn2 * fxEps + fxEps := by
  have hthird : (1 + 1 / 3 : ℝ) / (1 - 1 / 3) = 2 := by norm_num
  have hlow := Real.sum_range_le_log_div (x := 1 / 3) (by norm_num) (by norm_num) 64
  have hhigh := Real.log_div_le_sum_range_add (x := 1 / 3) (by norm_num) (by norm_num) 64
  rw [hthird] at hlow hhigh
  norm_num [Finset.sum_range_succ] at hlow hhigh
  unfold fxLn2 fxEps
  norm_num
  constructor <;> linarith

/-- The first n terms of the series of the arc tangent. -/
noncomputable def atanSum (x : ℝ) (n : Nat) : ℝ := ∑ i ∈ Finset.range n, (-1) ^ i * (x ^ (2 * i + 1) / (2 * i + 1 : Nat))

theorem arctan_between {x : ℝ} (h0 : 0 ≤ x) (h1 : x < 1) (n : Nat) :
    atanSum x (2 * n) ≤ Real.arctan x ∧ Real.arctan x ≤ atanSum x (2 * n + 1) := by
  have hsum := Real.hasSum_arctan (x := x) (by rwa [Real.norm_of_nonneg h0])
  have htends := hsum.tendsto_sum_nat
  simp only [mul_div_assoc] at htends
  have hanti : Antitone fun i : Nat => x ^ (2 * i + 1) / (2 * i + 1 : Nat) := by
    refine antitone_nat_of_succ_le fun i => ?_
    have hpow : x ^ (2 * (i + 1) + 1) ≤ x ^ (2 * i + 1) := pow_le_pow_of_le_one h0 h1.le (by omega)
    gcongr
    omega
  exact ⟨hanti.alternating_series_le_tendsto htends n, hanti.tendsto_le_alternating_series htends n⟩

/-- `pi320` is π × 2^320 closely enough for the greatest angle. -/
theorem pi320_spec : |(pi320 : ℝ) * 2 ^ (-320 : Int) - Real.pi| ≤ 2 ^ (-190 : Int) := by
  have hmachin := Real.four_mul_arctan_inv_5_sub_arctan_inv_239
  obtain ⟨h5, h5'⟩ := arctan_between (x := (5 : ℝ)⁻¹) (by norm_num) (by norm_num) 21
  obtain ⟨h239, h239'⟩ := arctan_between (x := (239 : ℝ)⁻¹) (by norm_num) (by norm_num) 6
  norm_num [atanSum, Finset.sum_range_succ] at hmachin h5 h5' h239 h239'
  have hscale : (2 : ℝ) ^ (-320 : Int) = 2 ^ (-160 : Int) * 2 ^ (-160 : Int) :=
    zpow_add₀ two_ne_zero (-160) (-160)
  rw [hscale, abs_le, pi320]
  norm_num
  constructor <;> linarith

end Sys2Proof.Machine
end

section
/-!
PROOFS. The numbers with 192 fraction bits of Special.lean: how far a cut quotient, a product and a series are from the
real ones.
-/
namespace Sys2Proof.Machine

/-! ### Cut quotients and products -/

/-- The value of a number with 192 fraction bits. -/
noncomputable def fxReal (a : Int) : ℝ := a * fxEps

theorem fxReal_add (a b : Int) : fxReal (a + b) = fxReal a + fxReal b := by
  simp [fxReal, add_mul]

theorem fxReal_neg (a : Int) : fxReal (-a) = -fxReal a := by
  simp [fxReal]

theorem fxReal_sub (a b : Int) : fxReal (a - b) = fxReal a - fxReal b := by
  rw [sub_eq_add_neg, fxReal_add, fxReal_neg, sub_eq_add_neg]

theorem fxReal_nonneg_iff {a : Int} : 0 ≤ fxReal a ↔ 0 ≤ a := by
  rw [fxReal, mul_nonneg_iff_of_pos_right fxEps_pos, Int.cast_nonneg_iff]

theorem two_pow_mul_fxEps : (2 : ℝ) ^ (192 : Int) * fxEps = 1 := by
  rw [fxEps, ← zpow_add₀ two_ne_zero]
  norm_num

theorem cast_fxOne : ((fxOne : Int) : ℝ) = 2 ^ (192 : Int) := by
  norm_num [fxOne]

theorem fxReal_fxOne : fxReal fxOne = 1 := by
  rw [fxReal, cast_fxOne, two_pow_mul_fxEps]

/-- A floored quotient is at most one below the quotient. -/
theorem fdiv_between (a : Int) {b : Int} (hb : 0 < b) :
    ((Int.fdiv a b : Int) : ℝ) ≤ a / b ∧ (a : ℝ) / b < (Int.fdiv a b : Int) + 1 := by
  have hb' : (0 : ℝ) < b := by exact_mod_cast hb
  rw [Int.fdiv_eq_ediv_of_nonneg _ hb.le, le_div_iff₀ hb', div_lt_iff₀ hb']
  exact ⟨by exact_mod_cast Int.ediv_mul_le a hb.ne', by exact_mod_cast Int.lt_ediv_add_one_mul_self a hb⟩

theorem fxReal_fdiv (a : Int) {b : Int} (hb : 0 < b) :
    fxReal (Int.fdiv a b) ≤ fxReal a / b ∧ fxReal a / b ≤ fxReal (Int.fdiv a b) + fxEps := by
  obtain ⟨h1, h2⟩ := fdiv_between a hb
  have heps := fxEps_pos
  have hscale : fxReal a / b = (a : ℝ) / b * fxEps := by rw [fxReal, mul_div_right_comm]
  rw [hscale]
  constructor
  · exact mul_le_mul_of_nonneg_right h1 heps.le
  · calc (a : ℝ) / b * fxEps ≤ ((Int.fdiv a b : Int) + 1) * fxEps := by gcongr
      _ = fxReal (Int.fdiv a b) + fxEps := by rw [fxReal]; ring

theorem fxReal_fxMul (a b : Int) :
    fxReal (fxMul a b) ≤ fxReal a * fxReal b ∧ fxReal a * fxReal b ≤ fxReal (fxMul a b) + fxEps := by
  have hscale : fxReal (a * b) / fxOne = fxReal a * fxReal b := by
    rw [cast_fxOne, fxReal, fxReal, fxReal, div_eq_iff (by positivity)]
    push_cast
    calc (a : ℝ) * b * fxEps = a * b * fxEps * (2 ^ (192 : Int) * fxEps) := by rw [two_pow_mul_fxEps, mul_one]
      _ = a * fxEps * (b * fxEps) * 2 ^ (192 : Int) := by ring
  rw [← hscale]
  exact fxReal_fdiv _ (by decide)

/-- A number whose bits all have a place is taken exactly. -/
theorem fxReal_fxOfFrac {x : SFrac} (hd : 0 < x.mag.d) {n : Int} (h : ((x.val : ℚ) : ℝ) = n * fxEps) :
    fxReal (fxOfFrac x) = x.val := by
  have hd' : (x.mag.d : ℝ) ≠ 0 := by exact_mod_cast hd.ne'
  have hval : ((x.val : ℚ) : ℝ) = (x.num : ℝ) / x.mag.d := by simp [SFrac.val]
  have hint : (x.num : ℝ) * 2 ^ (192 : Int) = n * x.mag.d := by
    rw [hval, div_eq_iff hd'] at h
    calc (x.num : ℝ) * 2 ^ (192 : Int) = n * fxEps * x.mag.d * 2 ^ (192 : Int) := by rw [h]
      _ = n * x.mag.d * (2 ^ (192 : Int) * fxEps) := by ring
      _ = n * x.mag.d := by rw [two_pow_mul_fxEps, mul_one]
  have hmul : x.num * fxOne = n * x.mag.d := by
    rw [← cast_fxOne] at hint
    exact_mod_cast hint
  have hquot : fxOfFrac x = n := by
    rw [fxOfFrac, hmul]
    exact Int.mul_fdiv_cancel _ (by omega)
  rw [hquot, fxReal, h]

theorem val_fxToFrac (a : Int) : (((fxToFrac a).val : ℚ) : ℝ) = fxReal a := by
  rw [fxToFrac, val_ofIntDiv, fxReal, fxEps]
  push_cast
  rw [zpow_neg, div_eq_mul_inv]
  norm_num

theorem fxToFrac_den_pos (a : Int) : 0 < (fxToFrac a).mag.d := Nat.two_pow_pos 192

/-! ### Series -/

/-- Terms that stay between bounds add up to a sum between theirs. -/
theorem fxSeries_between {term : Nat → Int → Int} {lo hi : Nat → ℝ}
    (hstep : ∀ k t, lo k ≤ fxReal t → fxReal t ≤ hi k →
      lo (k + 1) ≤ fxReal (term (k + 1) t) ∧ fxReal (term (k + 1) t) ≤ hi (k + 1))
    (n k : Nat) (t acc : Int) (hlo : lo k ≤ fxReal t) (hhi : fxReal t ≤ hi k) :
    fxReal acc + ∑ i ∈ Finset.range n, lo (k + 1 + i) ≤ fxReal (fxSeries term n (k + 1) t acc) ∧
      fxReal (fxSeries term n (k + 1) t acc) ≤ fxReal acc + ∑ i ∈ Finset.range n, hi (k + 1 + i) := by
  induction n generalizing k t acc with
  | zero => simp [fxSeries]
  | succ n ih =>
    obtain ⟨hlo', hhi'⟩ := hstep k t hlo hhi
    obtain ⟨ihlo, ihhi⟩ := ih (k + 1) (term (k + 1) t) (acc + term (k + 1) t) hlo' hhi'
    have hshift (f : Nat → ℝ) : ∑ i ∈ Finset.range (n + 1), f (k + 1 + i) =
        f (k + 1) + ∑ i ∈ Finset.range n, f (k + 1 + 1 + i) := by
      rw [Finset.sum_range_succ', add_comm, add_zero]
      simp only [add_assoc, add_comm 1]
    rw [fxReal_add] at ihlo ihhi
    rw [hshift, hshift]
    exact ⟨le_trans (by linarith) ihlo, ihhi.trans (by linarith)⟩

/-! ### 2^f (R198) -/

/-- The terms of e^x. -/
noncomputable def expTerm (x : ℝ) (k : Nat) : ℝ := x ^ k / k.factorial

theorem expTerm_succ (x : ℝ) (k : Nat) : expTerm x (k + 1) = expTerm x k * x / (k + 1 : Nat) := by
  rw [expTerm, expTerm, pow_succ, Nat.factorial_succ]
  push_cast
  field_simp

theorem expTerm_mem {x : ℝ} (h0 : 0 ≤ x) (h1 : x ≤ 1) (k : Nat) : 0 ≤ expTerm x k ∧ expTerm x k ≤ 1 := by
  unfold expTerm
  refine ⟨by positivity, div_le_one_of_le₀ ?_ (by positivity)⟩
  exact (pow_le_one₀ h0 h1).trans (by exact_mod_cast Nat.one_le_iff_ne_zero.mpr k.factorial_ne_zero)

/-- A term of `fxExp2` from the one before, when both the term and the factor are cut. -/
theorem expTerm_step {x : ℝ} (h0 : 0 ≤ x) (h1 : x ≤ 7 / 10) {xi : Int} (hx0 : 0 ≤ fxReal xi)
    (hxlo : x - 2 * fxEps ≤ fxReal xi) (hxhi : fxReal xi ≤ x)
    (k : Nat) (t : Int) (hlo : expTerm x k - 16 * fxEps ≤ fxReal t) (hhi : fxReal t ≤ expTerm x k) :
    expTerm x (k + 1) - 16 * fxEps ≤ fxReal (Int.fdiv (fxMul t xi) ((k + 1 : Nat) : Int)) ∧
      fxReal (Int.fdiv (fxMul t xi) ((k + 1 : Nat) : Int)) ≤ expTerm x (k + 1) := by
  have heps := fxEps_pos
  obtain ⟨hT0, hT1⟩ := expTerm_mem h0 (h1.trans (by norm_num)) k
  obtain ⟨hm1, hm2⟩ := fxReal_fxMul t xi
  obtain ⟨hd1, hd2⟩ := fxReal_fdiv (fxMul t xi) (b := ((k + 1 : Nat) : Int)) (by omega)
  have hk : (1 : ℝ) ≤ ((k + 1 : Nat) : ℝ) := by exact_mod_cast Nat.succ_pos k
  have hk0 : (0 : ℝ) < ((k + 1 : Nat) : ℝ) := by positivity
  rw [Int.cast_natCast] at hd1 hd2
  rw [expTerm_succ]
  constructor
  · have hprod : expTerm x k * x - 15 * fxEps ≤ fxReal (fxMul t xi) := by
      have hlower : (expTerm x k - 16 * fxEps) * fxReal xi ≤ fxReal t * fxReal xi := by gcongr
      have hsmall : 16 * fxEps * fxReal xi ≤ 16 * fxEps * (7 / 10) := by
        have := hxhi.trans h1
        gcongr
      have hbig : expTerm x k * (x - 2 * fxEps) ≤ expTerm x k * fxReal xi := by gcongr
      have hone : expTerm x k * (2 * fxEps) ≤ 1 * (2 * fxEps) := by gcongr
      rw [sub_mul] at hlower
      rw [mul_sub] at hbig
      linarith
    have hdiv : (expTerm x k * x - 15 * fxEps) / (k + 1 : Nat) ≤ fxReal (fxMul t xi) / (k + 1 : Nat) := by gcongr
    have hpart : 15 * fxEps / (k + 1 : Nat) ≤ 15 * fxEps := div_le_self (by positivity) hk
    rw [sub_div] at hdiv
    linarith
  · have hprod : fxReal (fxMul t xi) ≤ expTerm x k * x := by
      calc fxReal (fxMul t xi) ≤ fxReal t * fxReal xi := hm1
        _ ≤ expTerm x k * fxReal xi := by gcongr
        _ ≤ expTerm x k * x := by gcongr
    exact hd1.trans (by gcongr)

/-- The error of a cut series of e^x. -/
theorem expSum_between {x : ℝ} (h0 : 0 ≤ x) (h1 : x ≤ 7 / 10) :
    ∑ i ∈ Finset.range 49, expTerm x i ≤ Real.exp x ∧ Real.exp x ≤ (∑ i ∈ Finset.range 49, expTerm x i) + 2 ^ (-200 : Int) := by
  refine ⟨Real.sum_le_exp_of_nonneg h0 49, ?_⟩
  refine (Real.exp_bound' h0 (h1.trans (by norm_num)) (n := 49) (by norm_num)).trans ?_
  have hpow : x ^ 49 ≤ (7 / 10) ^ 49 := by gcongr
  have htail : x ^ 49 * (((49 : Nat) : ℝ) + 1) / ((Nat.factorial 49 : Nat) * ((49 : Nat) : ℝ)) ≤ 2 ^ (-200 : Int) := by
    calc _ ≤ (7 / 10) ^ 49 * (((49 : Nat) : ℝ) + 1) / ((Nat.factorial 49 : Nat) * ((49 : Nat) : ℝ)) := by gcongr
      _ ≤ 2 ^ (-200 : Int) := by norm_num [Nat.factorial]
  unfold expTerm
  linarith

/-- `fxExp2` is 2^f, cut: never above, and by less than 2^-180 below. -/
theorem fxExp2_between {f : Int} (h0 : 0 ≤ fxReal f) (h1 : fxReal f ≤ 1) :
    (2 : ℝ) ^ fxReal f - 2 ^ (-180 : Int) ≤ fxReal (fxExp2 f) ∧ fxReal (fxExp2 f) ≤ (2 : ℝ) ^ fxReal f := by
  have heps := fxEps_pos
  obtain ⟨hlog, hlog'⟩ := fxLn2_spec
  have hlog0 : (0 : ℝ) ≤ fxReal fxLn2 := by
    unfold fxReal fxLn2
    positivity
  obtain ⟨x, hx⟩ : ∃ x, x = fxReal f * Real.log 2 := ⟨_, rfl⟩
  have hx0 : 0 ≤ x := hx ▸ mul_nonneg h0 (Real.log_nonneg one_le_two)
  have hx1 : x ≤ 7 / 10 := by
    have := Real.log_two_lt_d9
    have hpos := Real.log_pos one_lt_two
    rw [hx]
    nlinarith
  have hexp : (2 : ℝ) ^ fxReal f = Real.exp x := by rw [Real.rpow_def_of_pos two_pos, mul_comm, hx]
  obtain ⟨hm1, hm2⟩ := fxReal_fxMul f fxLn2
  have hxhi : fxReal (fxMul f fxLn2) ≤ x := by
    refine hm1.trans ?_
    rw [hx]
    exact mul_le_mul_of_nonneg_left hlog h0
  have hxlo : x - 2 * fxEps ≤ fxReal (fxMul f fxLn2) := by
    have hbound : fxReal f * (Real.log 2 - fxEps) ≤ fxReal f * fxReal fxLn2 :=
      mul_le_mul_of_nonneg_left (by rw [fxReal]; linarith) h0
    have hone : fxReal f * fxEps ≤ 1 * fxEps := by gcongr
    rw [mul_sub, ← hx] at hbound
    linarith
  have hxpos : 0 ≤ fxReal (fxMul f fxLn2) :=
    fxReal_nonneg_iff.mpr (Int.fdiv_nonneg (mul_nonneg (fxReal_nonneg_iff.mp h0) (by decide)) (by decide))
  obtain ⟨hlo, hhi⟩ := fxSeries_between (term := fun k t => Int.fdiv (fxMul t (fxMul f fxLn2)) (k : Int))
    (lo := fun k => expTerm x k - 16 * fxEps) (hi := expTerm x) (fun k t => expTerm_step hx0 hx1 hxpos hxlo hxhi k t)
    48 0 fxOne fxOne (by rw [fxReal_fxOne]; simp [expTerm]; positivity) (by rw [fxReal_fxOne]; simp [expTerm])
  have hsum : ∑ i ∈ Finset.range 49, expTerm x i = 1 + ∑ i ∈ Finset.range 48, expTerm x (0 + 1 + i) := by
    rw [Finset.sum_range_succ', add_comm]
    simp [expTerm, add_comm]
  obtain ⟨hexplo, hexphi⟩ := expSum_between hx0 hx1
  rw [fxReal_fxOne, Finset.sum_sub_distrib] at hlo
  rw [fxReal_fxOne, ← hsum] at hhi
  have herr : ∑ _i ∈ Finset.range 48, 16 * fxEps + 2 ^ (-200 : Int) ≤ (2 : ℝ) ^ (-180 : Int) := by
    norm_num [fxEps]
  rw [hexp]
  constructor
  · refine le_trans ?_ hlo
    linarith
  · exact hhi.trans hexplo

/-! ### log2 m (R198) -/

/-- The quotient of two numbers with 192 fraction bits. -/
theorem fxReal_quot (a : Int) {b : Int} (hb : 0 < b) : fxReal (Int.fdiv (a * fxOne) b) ≤ fxReal a / fxReal b ∧
    fxReal a / fxReal b ≤ fxReal (Int.fdiv (a * fxOne) b) + fxEps := by
  have hscale : fxReal (a * fxOne) / b = fxReal a / fxReal b := by
    rw [fxReal, fxReal, fxReal, Int.cast_mul, cast_fxOne, mul_assoc, two_pow_mul_fxEps, mul_one,
      mul_div_mul_right _ _ fxEps_pos.ne']
  rw [← hscale]
  exact fxReal_fdiv _ hb

/-- One step of the series of `fxLog2`: the sum, and the next odd power. -/
def fxLogStep (z2 : Int) (a : Int × Int) (k : Nat) : Int × Int :=
  (a.1 + Int.fdiv a.2 ((2 * k + 1 : Nat) : Int), fxMul a.2 z2)

/-- The first n terms of half log ((1 + x) / (1 − x)). -/
noncomputable def atanhSum (x : ℝ) (n : Nat) : ℝ := ∑ i ∈ Finset.range n, x ^ (2 * i + 1) / (2 * i + 1)

theorem fxLogStep_between {z : Int} (h0 : 0 ≤ fxReal z) (h1 : fxReal z ≤ 1 / 3) (n : Nat) :
    let a := (List.range n).foldl (fxLogStep (fxMul z z)) (0, z)
    (fxReal z ^ (2 * n + 1) - 2 * fxEps ≤ fxReal a.2 ∧ fxReal a.2 ≤ fxReal z ^ (2 * n + 1)) ∧
      atanhSum (fxReal z) n - n * (3 * fxEps) ≤ fxReal a.1 ∧ fxReal a.1 ≤ atanhSum (fxReal z) n := by
  have heps := fxEps_pos
  obtain ⟨hsq, hsq'⟩ := fxReal_fxMul z z
  have hsq0 : 0 ≤ fxReal (fxMul z z) := fxReal_nonneg_iff.mpr (Int.fdiv_nonneg (mul_self_nonneg z) (by decide))
  induction n with
  | zero =>
    have hz : (0 : ℝ) ≤ 2 * fxEps := by positivity
    simpa [atanhSum, fxReal] using hz
  | succ n ih =>
    intro a
    obtain ⟨⟨hlo, hhi⟩, hsum, hsum'⟩ := ih
    have ha : a = fxLogStep (fxMul z z) ((List.range n).foldl (fxLogStep (fxMul z z)) (0, z)) n := by
      simp only [a, List.range_succ, List.foldl_append, List.foldl_cons, List.foldl_nil]
    rw [ha]
    generalize (List.range n).foldl (fxLogStep (fxMul z z)) (0, z) = b at hlo hhi hsum hsum'
    have hT0 : 0 ≤ fxReal z ^ (2 * n + 1) := by positivity
    have hT1 : fxReal z ^ (2 * n + 1) ≤ 1 / 3 := by
      calc fxReal z ^ (2 * n + 1) = fxReal z ^ (2 * n) * fxReal z := pow_succ _ _
        _ ≤ 1 * (1 / 3) := by
          gcongr
          exact pow_le_one₀ h0 (by linarith)
        _ = 1 / 3 := one_mul _
    have hnext : fxReal z ^ (2 * (n + 1) + 1) = fxReal z ^ (2 * n + 1) * (fxReal z * fxReal z) := by ring
    obtain ⟨hm1, hm2⟩ := fxReal_fxMul b.2 (fxMul z z)
    have hodd : ((2 * n + 1 : Nat) : ℝ) = 2 * n + 1 := by push_cast; ring
    obtain ⟨hd1, hd2⟩ := fxReal_fdiv b.2 (b := ((2 * n + 1 : Nat) : Int)) (by omega)
    rw [Int.cast_natCast, hodd] at hd1 hd2
    have hden : (1 : ℝ) ≤ 2 * n + 1 := by
      have : (0 : ℝ) ≤ n := n.cast_nonneg
      linarith
    have hden0 : (0 : ℝ) < 2 * n + 1 := by linarith
    have hsumSucc : atanhSum (fxReal z) (n + 1) = atanhSum (fxReal z) n + fxReal z ^ (2 * n + 1) / (2 * n + 1) :=
      Finset.sum_range_succ _ _
    refine ⟨⟨?_, ?_⟩, ?_, ?_⟩
    · rw [hnext]
      have h2 : (fxReal z ^ (2 * n + 1) - 2 * fxEps) * fxReal (fxMul z z) ≤ fxReal b.2 * fxReal (fxMul z z) := by gcongr
      have h3 : fxReal z ^ (2 * n + 1) * (fxReal z * fxReal z - fxEps) ≤ fxReal z ^ (2 * n + 1) * fxReal (fxMul z z) := by
        gcongr
        linarith
      have h4 : fxReal z ^ (2 * n + 1) * fxEps ≤ 1 / 3 * fxEps := by gcongr
      have h5 : 2 * fxEps * fxReal (fxMul z z) ≤ 2 * fxEps * (1 / 3 * (1 / 3)) := by
        gcongr
        exact hsq.trans (by gcongr)
      rw [sub_mul] at h2
      rw [mul_sub] at h3
      show _ ≤ fxReal (fxMul b.2 (fxMul z z))
      linarith
    · rw [hnext]
      calc fxReal (fxMul b.2 (fxMul z z)) ≤ fxReal b.2 * fxReal (fxMul z z) := hm1
        _ ≤ fxReal z ^ (2 * n + 1) * fxReal (fxMul z z) := by gcongr
        _ ≤ fxReal z ^ (2 * n + 1) * (fxReal z * fxReal z) := by gcongr
    · show _ ≤ fxReal (b.1 + Int.fdiv b.2 ((2 * n + 1 : Nat) : Int))
      have h2 : (fxReal z ^ (2 * n + 1) - 2 * fxEps) / (2 * n + 1) ≤ fxReal b.2 / (2 * n + 1) := by gcongr
      have h3 : 2 * fxEps / (2 * n + 1) ≤ 2 * fxEps := div_le_self (by positivity) hden
      rw [sub_div] at h2
      rw [fxReal_add, hsumSucc, Nat.cast_succ]
      linarith
    · show fxReal (b.1 + Int.fdiv b.2 ((2 * n + 1 : Nat) : Int)) ≤ _
      have h2 : fxReal b.2 / (2 * n + 1) ≤ fxReal z ^ (2 * n + 1) / (2 * n + 1) := by gcongr
      rw [fxReal_add, hsumSucc]
      linarith

/-- The argument of the series is below (m − 1) / (m + 1), and its logarithm below that of m by little. -/
theorem log_of_atanh {M Z : ℝ} (h1 : 1 ≤ M) (hZ0 : 0 ≤ Z) (hZ : Z ≤ (M - 1) / (M + 1)) (hZ' : (M - 1) / (M + 1) ≤ Z + fxEps)
    (hM : M ≤ 2) : Real.log ((1 + Z) / (1 - Z)) ≤ Real.log M ∧ Real.log M ≤ Real.log ((1 + Z) / (1 - Z)) + 9 * fxEps := by
  have heps := fxEps_pos
  have hsum : 0 < M + 1 := by linarith
  rw [le_div_iff₀ hsum] at hZ
  rw [div_le_iff₀ hsum] at hZ'
  have hthird : Z ≤ 1 / 3 := by nlinarith
  have hden : 0 < 1 - Z := by linarith
  have hm1 : 1 ≤ (1 + Z) / (1 - Z) := by
    rw [le_div_iff₀ hden]
    linarith
  have hle : (1 + Z) / (1 - Z) ≤ M := by
    rw [div_le_iff₀ hden]
    linarith
  refine ⟨Real.log_le_log (by linarith) hle, ?_⟩
  have hratio : M / ((1 + Z) / (1 - Z)) ≤ 1 + 9 * fxEps := by
    rw [div_div_eq_mul_div, div_le_iff₀ (by linarith)]
    nlinarith
  have hlog := Real.log_le_sub_one_of_pos (x := M / ((1 + Z) / (1 - Z))) (by positivity)
  rw [Real.log_div (by linarith) (by linarith)] at hlog
  linarith

/-- The cut series is a logarithm, cut. -/
theorem fxAtanh_between {z : Int} (h0 : 0 ≤ fxReal z) (h1 : fxReal z ≤ 1 / 3) :
    let S := ((List.range 64).foldl (fxLogStep (fxMul z z)) (0, z)).1
    let L := Real.log ((1 + fxReal z) / (1 - fxReal z))
    L - 2 ^ (-181 : Int) ≤ 2 * fxReal S ∧ 2 * fxReal S ≤ L := by
  intro S L
  obtain ⟨-, hlo, hhi⟩ : _ ∧ atanhSum (fxReal z) 64 - (64 : Nat) * (3 * fxEps) ≤ fxReal S ∧ fxReal S ≤ atanhSum (fxReal z) 64 :=
    fxLogStep_between h0 h1 64
  have hhalf : atanhSum (fxReal z) 64 ≤ 1 / 2 * L := Real.sum_range_le_log_div h0 (by linarith) 64
  have hhalf' : 1 / 2 * L ≤ atanhSum (fxReal z) 64 + fxReal z ^ (2 * 64 + 1) / (1 - fxReal z ^ 2) :=
    Real.log_div_le_sum_range_add h0 (by linarith) 64
  have htail : fxReal z ^ (2 * 64 + 1) / (1 - fxReal z ^ 2) ≤ 2 ^ (-200 : Int) := by
    have hpow : fxReal z ^ (2 * 64 + 1) ≤ (1 / 3) ^ (2 * 64 + 1) := by gcongr
    have hsq : fxReal z ^ 2 ≤ (1 / 3) ^ 2 := by gcongr
    calc fxReal z ^ (2 * 64 + 1) / (1 - fxReal z ^ 2) ≤ (1 / 3) ^ (2 * 64 + 1) / (1 - (1 / 3) ^ 2) := by gcongr
      _ ≤ 2 ^ (-200 : Int) := by norm_num
  have hsmall : 2 * ((64 : Nat) * (3 * fxEps)) + 2 * (2 : ℝ) ^ (-200 : Int) ≤ 2 ^ (-181 : Int) := by norm_num [fxEps]
  have hhalf'' := hhalf'.trans (add_le_add_right htail _)
  rw [Nat.cast_ofNat] at hlo hsmall
  generalize (2 : ℝ) ^ (-200 : Int) = tail at *
  generalize (2 : ℝ) ^ (-181 : Int) = bound at *
  constructor <;> linarith only [hlo, hhi, hhalf, hhalf'', hsmall]

/-- Dividing by `fxLn2` instead of ln 2 moves a logarithm by little. -/
theorem div_fxLn2_near {D L q : ℝ} (hL0 : 0 ≤ L) (hL : L ≤ Real.log 2) (hD : L - 2 ^ (-180 : Int) ≤ D) (hD' : D ≤ L)
    (hq : q ≤ D / fxReal fxLn2) (hq' : D / fxReal fxLn2 ≤ q + fxEps) : |q - L / Real.log 2| ≤ 2 ^ (-170 : Int) := by
  have heps := fxEps_pos
  obtain ⟨hln, hln'⟩ : fxReal fxLn2 ≤ Real.log 2 ∧ Real.log 2 ≤ fxReal fxLn2 + fxEps := fxLn2_spec
  have hlam : (1 : ℝ) / 2 ≤ fxReal fxLn2 := by
    have := Real.log_two_gt_d9
    have : fxEps ≤ 1 / 10 := by norm_num [fxEps]
    linarith
  have hlog2 : 0 < Real.log 2 := Real.log_pos one_lt_two
  generalize fxReal fxLn2 = lam at *
  generalize Real.log 2 = ln2 at *
  have hlam0 : 0 < lam := by linarith
  have hmono : L / ln2 ≤ L / lam := div_le_div_of_nonneg_left hL0 hlam0 hln
  have hmono' : L / lam ≤ L / ln2 + 2 * fxEps := by
    have hcross : L * (ln2 - lam) ≤ ln2 * fxEps := by
      have : ln2 - lam ≤ fxEps := by linarith
      gcongr
    have hmul : ln2 * fxEps ≤ ln2 * fxEps * (2 * lam) := le_mul_of_one_le_right (by positivity) (by linarith)
    rw [div_add' _ _ _ hlog2.ne', div_le_div_iff₀ hlam0 hlog2]
    linarith
  have hdiv : L / lam - 2 ^ (-179 : Int) ≤ D / lam := by
    have herr : (2 : ℝ) ^ (-180 : Int) / lam ≤ 2 ^ (-180 : Int) / (1 / 2) := by gcongr
    have hhalf : (2 : ℝ) ^ (-180 : Int) / (1 / 2) = 2 ^ (-179 : Int) := by norm_num
    have hsub : (L - 2 ^ (-180 : Int)) / lam ≤ D / lam := by gcongr
    rw [sub_div] at hsub
    exact le_trans (sub_le_sub_left (herr.trans_eq hhalf) _) hsub
  have hdiv' : D / lam ≤ L / lam := by gcongr
  have htiny : (2 : ℝ) ^ (-179 : Int) + 3 * fxEps ≤ 2 ^ (-170 : Int) := by norm_num [fxEps]
  have hpos : (0 : ℝ) < 2 ^ (-179 : Int) := by positivity
  generalize D / lam = Dl at *
  generalize L / lam = Ll at *
  generalize L / ln2 = Lln at *
  rw [abs_le]
  constructor <;> linarith

/-- `fxLog2` is log2 m within 2^-170. -/
theorem fxLog2_near {m : Int} (h1 : 1 ≤ fxReal m) (h2 : fxReal m ≤ 2) :
    |fxReal (fxLog2 m) - Real.logb 2 (fxReal m)| ≤ 2 ^ (-170 : Int) := by
  have hone : fxReal fxOne = 1 := fxReal_fxOne
  have hm : 0 < m + fxOne := by
    have : 0 ≤ m := fxReal_nonneg_iff.mp (by linarith)
    have : 0 < fxOne := by decide
    omega
  obtain ⟨z, hz⟩ : ∃ z, z = Int.fdiv ((m - fxOne) * fxOne) (m + fxOne) := ⟨_, rfl⟩
  obtain ⟨hzhi, hzlo⟩ := fxReal_quot (m - fxOne) hm
  rw [← hz, fxReal_sub, fxReal_add, hone] at hzhi hzlo
  have hz0 : 0 ≤ fxReal z := by
    have hm1 : 0 ≤ m - fxOne := fxReal_nonneg_iff.mp (by rw [fxReal_sub, hone]; linarith)
    rw [fxReal_nonneg_iff, hz]
    exact Int.fdiv_nonneg (mul_nonneg hm1 (by decide)) hm.le
  have hz1 : fxReal z ≤ 1 / 3 := by
    refine hzhi.trans ?_
    rw [div_le_iff₀ (by linarith)]
    linarith
  obtain ⟨hS, hS'⟩ := fxAtanh_between hz0 hz1
  obtain ⟨hlog, hlog'⟩ := log_of_atanh h1 hz0 hzhi hzlo h2
  have hresult : fxLog2 m = Int.fdiv (2 * ((List.range 64).foldl (fxLogStep (fxMul z z)) (0, z)).1 * fxOne) fxLn2 := by
    rw [hz]
    rfl
  generalize ((List.range 64).foldl (fxLogStep (fxMul z z)) (0, z)).1 = S at hS hS' hresult
  obtain ⟨hq, hq'⟩ := fxReal_quot (2 * S) (b := fxLn2) (by decide)
  rw [← hresult, show fxReal (2 * S) = 2 * fxReal S by rw [two_mul, fxReal_add, two_mul]] at hq hq'
  have hsmall : (2 : ℝ) ^ (-181 : Int) + 9 * fxEps ≤ 2 ^ (-180 : Int) := by norm_num [fxEps]
  generalize Real.log ((1 + fxReal z) / (1 - fxReal z)) = L' at hS hS' hlog hlog'
  exact div_fxLn2_near (Real.log_nonneg h1) (Real.log_le_log (by linarith) h2) (by linarith) (hS'.trans hlog) hq hq'

end Sys2Proof.Machine
end

section
/-!
PROOFS. Sine and cosine of Special.lean: the reduction to [−π, π], and the series.
-/
namespace Sys2Proof.Machine

/-! ### The series -/

/-- The terms of the sine (σ = 1) and of the cosine (σ = 0). -/
noncomputable def trigTerm (σ : Nat) (x : ℝ) (k : Nat) : ℝ := (-1) ^ k * (x ^ (2 * k + σ) / (2 * k + σ).factorial)

theorem trigTerm_succ (σ : Nat) (x : ℝ) (k : Nat) :
    trigTerm σ x (k + 1) = -(trigTerm σ x k * (x * x) / ((2 * k + σ + 1) * (2 * k + σ + 2) : Nat)) := by
  have hindex : 2 * (k + 1) + σ = 2 * k + σ + 1 + 1 := by ring
  rw [trigTerm, trigTerm, hindex, Nat.factorial_succ, Nat.factorial_succ]
  push_cast
  field_simp
  ring

theorem abs_trigTerm_le {x : ℝ} (hx : |x| ≤ 16 / 5) (σ k : Nat) : |trigTerm σ x k| ≤ 81 := by
  rw [trigTerm, abs_mul, abs_pow, abs_neg, abs_one, one_pow, one_mul, abs_div, abs_pow, Nat.abs_cast]
  have hexp : Real.exp 1 ≤ 3 := by
    have := Real.exp_one_lt_d9
    linarith
  calc |x| ^ (2 * k + σ) / (2 * k + σ).factorial ≤ Real.exp |x| := Real.pow_div_factorial_le_exp _ (abs_nonneg x) _
    _ ≤ Real.exp (4 : Nat) := Real.exp_le_exp.mpr (hx.trans (by norm_num))
    _ = Real.exp 1 ^ 4 := (Real.exp_one_pow 4).symm
    _ ≤ 3 ^ 4 := by gcongr
    _ = 81 := by norm_num

/-- How far the k-th cut term may be off. -/
noncomputable def trigError (k : Nat) : ℝ := if k = 0 then 0 else 64 * fxEps

/-- A term from the one before, with the square and the quotient cut. -/
theorem trigTerm_step {ρ : ℝ} {r2 : Int} (hρ : |ρ| ≤ 16 / 5) (h0 : 0 ≤ fxReal r2) (hlo : ρ * ρ ≤ fxReal r2 + fxEps)
    (hhi : fxReal r2 ≤ ρ * ρ) (σ k : Nat) (t M : Int) (hM : M = ((2 * k + σ + 1) * (2 * k + σ + 2) : Nat))
    (ht : |fxReal t - trigTerm σ ρ k| ≤ trigError k) :
    |fxReal (-Int.fdiv (fxMul t r2) M) - trigTerm σ ρ (k + 1)| ≤ 64 * fxEps := by
  have heps := fxEps_pos
  have hT := abs_trigTerm_le hρ σ k
  have hM0 : 0 < M := by rw [hM]; positivity
  have hM0' : (0 : ℝ) < M := by exact_mod_cast hM0
  have hMcast : (((2 * k + σ + 1) * (2 * k + σ + 2) : Nat) : ℝ) = M := by rw [hM, Int.cast_natCast]
  obtain ⟨hm1, hm2⟩ := fxReal_fxMul t r2
  obtain ⟨hd1, hd2⟩ := fxReal_fdiv (fxMul t r2) hM0
  have hsq : ρ * ρ ≤ 1024 / 100 := by
    rw [← abs_mul_abs_self]
    nlinarith [abs_nonneg ρ]
  have hr2 : fxReal r2 ≤ 1024 / 100 := hhi.trans hsq
  -- the product, before it is divided
  have hprod : |fxReal (fxMul t r2) - trigTerm σ ρ k * (ρ * ρ)| ≤ trigError k * (1024 / 100) + 82 * fxEps := by
    have h1 : |(fxReal t - trigTerm σ ρ k) * fxReal r2| ≤ trigError k * (1024 / 100) := by
      rw [abs_mul, abs_of_nonneg h0]
      have := (abs_nonneg _).trans ht
      gcongr
    have h2 : |trigTerm σ ρ k * (fxReal r2 - ρ * ρ)| ≤ 81 * fxEps := by
      have : |fxReal r2 - ρ * ρ| ≤ fxEps := abs_le.mpr ⟨by linarith, by linarith⟩
      rw [abs_mul]
      gcongr
    have h3 : |fxReal (fxMul t r2) - fxReal t * fxReal r2| ≤ fxEps := abs_le.mpr ⟨by linarith, by linarith⟩
    calc |fxReal (fxMul t r2) - trigTerm σ ρ k * (ρ * ρ)|
        = |(fxReal (fxMul t r2) - fxReal t * fxReal r2) + (fxReal t - trigTerm σ ρ k) * fxReal r2 +
            trigTerm σ ρ k * (fxReal r2 - ρ * ρ)| := by ring_nf
      _ ≤ fxEps + trigError k * (1024 / 100) + 81 * fxEps := (abs_add_three _ _ _).trans (by linarith)
      _ = trigError k * (1024 / 100) + 82 * fxEps := by ring
  have hquot : |fxReal (fxMul t r2) / M - trigTerm σ ρ k * (ρ * ρ) / M| ≤ 63 * fxEps := by
    rw [← sub_div, abs_div, abs_of_pos hM0', div_le_iff₀ hM0']
    refine hprod.trans ?_
    unfold trigError
    split
    next hk =>
      have : (2 : ℝ) ≤ M := by
        rw [← hMcast]
        exact_mod_cast (by nlinarith : 2 ≤ (2 * k + σ + 1) * (2 * k + σ + 2))
      nlinarith
    next hk =>
      have : (12 : ℝ) ≤ M := by
        rw [← hMcast]
        have hk1 : 3 ≤ 2 * k + σ + 1 := by omega
        exact_mod_cast (by nlinarith : 12 ≤ (2 * k + σ + 1) * (2 * k + σ + 2))
      nlinarith
  rw [trigTerm_succ, hMcast, fxReal_neg]
  rw [abs_le] at hquot ⊢
  generalize fxReal (fxMul t r2) / M = a at *
  generalize trigTerm σ ρ k * (ρ * ρ) / M = b at *
  constructor <;> linarith

/-- The sum of 41 cut terms, from the exact first one. -/
theorem fxSeries_trig {r : Int} (hρ : |fxReal r| ≤ 16 / 5) (σ : Nat) {first : Int} (hfirst : fxReal first = trigTerm σ (fxReal r) 0)
    {term : Nat → Int → Int}
    (hterm : ∀ k t, term (k + 1) t = -Int.fdiv (fxMul t (fxMul r r)) ((2 * k + σ + 1) * (2 * k + σ + 2) : Nat)) :
    |fxReal (fxSeries term 40 1 first first) - ∑ i ∈ Finset.range 41, trigTerm σ (fxReal r) i| ≤ 40 * (64 * fxEps) := by
  obtain ⟨hsq, hsq'⟩ := fxReal_fxMul r r
  have hsq0 : 0 ≤ fxReal (fxMul r r) := fxReal_nonneg_iff.mpr (Int.fdiv_nonneg (mul_self_nonneg r) (by decide))
  have hstep (k : Nat) (t : Int) (hlo : trigTerm σ (fxReal r) k - trigError k ≤ fxReal t)
      (hhi : fxReal t ≤ trigTerm σ (fxReal r) k + trigError k) :
      trigTerm σ (fxReal r) (k + 1) - trigError (k + 1) ≤ fxReal (term (k + 1) t) ∧
        fxReal (term (k + 1) t) ≤ trigTerm σ (fxReal r) (k + 1) + trigError (k + 1) := by
    have herr : trigError (k + 1) = 64 * fxEps := if_neg (Nat.succ_ne_zero k)
    have hnear := trigTerm_step hρ hsq0 hsq' hsq σ k t _ rfl (abs_le.mpr ⟨by linarith, by linarith⟩)
    rw [← hterm, abs_le] at hnear
    rw [herr]
    constructor <;> linarith
  obtain ⟨hlo, hhi⟩ := fxSeries_between (lo := fun k => trigTerm σ (fxReal r) k - trigError k)
    (hi := fun k => trigTerm σ (fxReal r) k + trigError k) hstep 40 0 first first
    (by simp [hfirst, trigError]) (by simp [hfirst, trigError])
  have hsum : ∑ i ∈ Finset.range 41, trigTerm σ (fxReal r) i =
      fxReal first + ∑ i ∈ Finset.range 40, trigTerm σ (fxReal r) (0 + 1 + i) := by
    rw [Finset.sum_range_succ', hfirst, add_comm]
    simp only [zero_add, add_comm 1]
  have herr : ∑ i ∈ Finset.range 40, trigError (0 + 1 + i) = 40 * (64 * fxEps) := by
    have heach (i : Nat) : trigError (0 + 1 + i) = 64 * fxEps := if_neg (by omega)
    simp only [heach, Finset.sum_const, Finset.card_range, nsmul_eq_mul]
    norm_num
  rw [Finset.sum_sub_distrib, herr] at hlo
  rw [Finset.sum_add_distrib, herr] at hhi
  rw [hsum, abs_le]
  constructor <;> linarith

/-- The terms of e^(ix) are those of the cosine and of the sine by turns. -/
theorem exp_terms_split (x : ℝ) (n : Nat) :
    ∑ m ∈ Finset.range (2 * n), ((x : ℂ) * Complex.I) ^ m / m.factorial =
      (∑ i ∈ Finset.range n, trigTerm 0 x i : ℝ) + (∑ i ∈ Finset.range n, trigTerm 1 x i : ℝ) * Complex.I := by
  induction n with
  | zero => simp
  | succ n ih =>
    have heven : Complex.I ^ (2 * n) = (-1) ^ n := by rw [pow_mul, Complex.I_sq]
    rw [show 2 * (n + 1) = 2 * n + 1 + 1 by ring, Finset.sum_range_succ, Finset.sum_range_succ, ih,
      Finset.sum_range_succ, Finset.sum_range_succ, trigTerm, trigTerm, add_zero, mul_pow, mul_pow, pow_succ Complex.I, heven]
    push_cast
    ring

/-- What the 41 terms leave out. -/
theorem trigSum_near {x : ℝ} (hx : |x| ≤ 16 / 5) :
    |∑ i ∈ Finset.range 41, trigTerm 0 x i - Real.cos x| ≤ 2 ^ (-100 : Int) ∧
      |∑ i ∈ Finset.range 41, trigTerm 1 x i - Real.sin x| ≤ 2 ^ (-100 : Int) := by
  have hnorm : ‖(x : ℂ) * Complex.I‖ = |x| := by simp
  have hbound := Complex.exp_bound' (x := (x : ℂ) * Complex.I) (n := 82) (by rw [hnorm]; norm_num; linarith)
  rw [hnorm, exp_terms_split x 41] at hbound
  have htail : |x| ^ 82 / (Nat.factorial 82) * 2 ≤ 2 ^ (-100 : Int) := by
    calc |x| ^ 82 / (Nat.factorial 82) * 2 ≤ (16 / 5) ^ 82 / (Nat.factorial 82) * 2 := by gcongr
      _ ≤ 2 ^ (-100 : Int) := by norm_num [Nat.factorial]
  have hre := (Complex.abs_re_le_norm _).trans (hbound.trans htail)
  have him := (Complex.abs_im_le_norm _).trans (hbound.trans htail)
  rw [Complex.sub_re, Complex.exp_ofReal_mul_I_re] at hre
  rw [Complex.sub_im, Complex.exp_ofReal_mul_I_im] at him
  simp only [Complex.add_re, Complex.add_im, Complex.ofReal_re, Complex.ofReal_im, Complex.re_ofReal_mul, Complex.im_ofReal_mul,
    Complex.I_re, Complex.I_im, mul_zero, mul_one, add_zero, zero_add] at hre him
  exact ⟨by rwa [abs_sub_comm], by rwa [abs_sub_comm]⟩

theorem fxSin_near {r : Int} (hr : |fxReal r| ≤ 16 / 5) : |fxReal (fxSin r) - Real.sin (fxReal r)| ≤ 2 ^ (-90 : Int) := by
  have hseries := fxSeries_trig hr 1 (first := r) (by simp [trigTerm])
    (term := fun k t => -Int.fdiv (fxMul t (fxMul r r)) ((2 * k) * (2 * k + 1) : Int)) (fun k t => by push_cast; ring_nf)
  have htail := (trigSum_near hr).2
  have hsmall : 40 * (64 * fxEps) + 2 ^ (-100 : Int) ≤ (2 : ℝ) ^ (-90 : Int) := by norm_num [fxEps]
  exact (abs_sub_le _ _ _).trans ((add_le_add hseries htail).trans hsmall)

theorem fxCos_near {r : Int} (hr : |fxReal r| ≤ 16 / 5) : |fxReal (fxCos r) - Real.cos (fxReal r)| ≤ 2 ^ (-90 : Int) := by
  have hseries := fxSeries_trig hr 0 (first := fxOne) (by simp [trigTerm, fxReal_fxOne])
    (term := fun k t => -Int.fdiv (fxMul t (fxMul r r)) ((2 * k - 1) * (2 * k) : Int)) (fun k t => by push_cast; ring_nf)
  have htail := (trigSum_near hr).1
  have hsmall : 40 * (64 * fxEps) + 2 ^ (-100 : Int) ≤ (2 : ℝ) ^ (-90 : Int) := by norm_num [fxEps]
  exact (abs_sub_le _ _ _).trans ((add_le_add hseries htail).trans hsmall)

/-! ### The reduction (R198) -/

/-- The last place of an angle with 320 fraction bits. -/
noncomputable def angleEps : ℝ := 2 ^ (-320 : Int)

theorem angleEps_pos : 0 < angleEps := by
  unfold angleEps
  positivity

theorem two_pow_mul_angleEps : (2 : ℝ) ^ 320 * angleEps = 1 := by
  rw [angleEps, ← zpow_natCast, ← zpow_add₀ two_ne_zero]
  rfl

/-- An angle with 320 fraction bits, its whole turns, and what they leave. -/
def fxAngle (a : SFrac) : Int := Int.fdiv (a.num * 2 ^ 320) a.mag.d
def fxTurns (x : Int) : Int := Int.fdiv (x + pi320) (2 * pi320)
def fxRest (x : Int) : Int := x - fxTurns x * (2 * pi320)

theorem fxReduce_eq (a : SFrac) : fxReduce a = Int.fdiv (fxRest (fxAngle a)) (2 ^ 128) := rfl

theorem fxAngle_between {a : SFrac} (hd : 0 < a.mag.d) :
    (fxAngle a : ℝ) * angleEps ≤ a.val ∧ (a.val : ℝ) ≤ fxAngle a * angleEps + angleEps := by
  obtain ⟨h1, h2⟩ := fdiv_between (a.num * 2 ^ 320) (b := a.mag.d) (by exact_mod_cast hd)
  have hval : ((a.num * 2 ^ 320 : Int) : ℝ) / ((a.mag.d : Int) : ℝ) * angleEps = a.val := by
    rw [SFrac.val, Int.cast_mul, Int.cast_pow, Int.cast_ofNat, div_mul_eq_mul_div, mul_assoc, two_pow_mul_angleEps, mul_one]
    push_cast
    rfl
  have h1' := mul_le_mul_of_nonneg_right h1 angleEps_pos.le
  have h2' := mul_le_mul_of_nonneg_right h2.le angleEps_pos.le
  rw [hval] at h1' h2'
  exact ⟨h1', h2'.trans_eq (add_one_mul _ _)⟩

theorem fxRest_between (x : Int) : -pi320 ≤ fxRest x ∧ fxRest x ≤ pi320 := by
  have hpos : (0 : Int) < 2 * pi320 := by decide
  have hmod := Int.emod_add_mul_ediv (x + pi320) (2 * pi320)
  have hnonneg := Int.emod_nonneg (x + pi320) hpos.ne'
  have hlt := Int.emod_lt_of_pos (x + pi320) hpos
  rw [← Int.fdiv_eq_ediv_of_nonneg _ hpos.le, mul_comm (2 * pi320)] at hmod
  rw [fxRest, fxTurns]
  generalize (x + pi320) % (2 * pi320) = rem at *
  generalize Int.fdiv (x + pi320) (2 * pi320) * (2 * pi320) = whole at *
  omega

/-- The reduced angle goes over to 192 fraction bits. -/
theorem fxReal_fdiv_two_pow (y : Int) : fxReal (Int.fdiv y (2 ^ 128)) ≤ y * angleEps ∧
    y * angleEps ≤ fxReal (Int.fdiv y (2 ^ 128)) + fxEps := by
  have hsame : fxReal y / ((2 ^ 128 : Int) : ℝ) = y * angleEps := by
    have hpow : fxEps = angleEps * ((2 ^ 128 : Int) : ℝ) := by
      rw [fxEps, angleEps, Int.cast_pow, Int.cast_ofNat, ← zpow_natCast, ← zpow_add₀ two_ne_zero]
      rfl
    rw [fxReal, hpow, ← mul_assoc, mul_div_cancel_right₀ _ (by positivity)]
  rw [← hsame]
  exact fxReal_fdiv y (by decide)

/-- π in the reduction is off by 2^-190 at most. -/
theorem pi_angle_spec : |(pi320 : ℝ) * angleEps - Real.pi| ≤ 2 ^ (-190 : Int) ∧ (2.5 : ℝ) ≤ pi320 * angleEps ∧
    (pi320 : ℝ) * angleEps ≤ 3.16 := by
  have hpi : |(pi320 : ℝ) * angleEps - Real.pi| ≤ 2 ^ (-190 : Int) := pi320_spec
  have hnear := abs_le.mp (hpi.trans (by norm_num : (2 : ℝ) ^ (-190 : Int) ≤ 0.01))
  have hlow := Real.pi_gt_three
  have hhigh := Real.pi_lt_d2
  exact ⟨hpi, by linarith, by linarith⟩

/-- An angle of f32 has 2^126 turns at most. -/
theorem fxTurns_le {x : Int} (hx : |(x : ℝ) * angleEps| ≤ 2 ^ (128 : Int) + 1) : |(fxTurns x : ℝ)| ≤ 2 ^ (126 : Int) := by
  obtain ⟨-, hlow, hhigh⟩ := pi_angle_spec
  obtain ⟨h1, h2⟩ := fxRest_between x
  have h1' : ((-pi320 : Int) : ℝ) ≤ fxRest x := by exact_mod_cast h1
  have h2' : (fxRest x : ℝ) ≤ pi320 := by exact_mod_cast h2
  rw [Int.cast_neg] at h1'
  have hrest : |(fxRest x : ℝ) * angleEps| ≤ 3.16 := by
    have heps := angleEps_pos
    rw [abs_mul, abs_of_pos heps]
    refine le_trans ?_ hhigh
    have : |(fxRest x : ℝ)| ≤ pi320 := abs_le.mpr ⟨h1', h2'⟩
    gcongr
  have hsplit : (fxTurns x : ℝ) * (2 * (pi320 * angleEps)) = x * angleEps - fxRest x * angleEps := by
    rw [fxRest]
    push_cast
    ring
  have htotal : |(fxTurns x : ℝ)| * (2 * (pi320 * angleEps)) ≤ 2 ^ (128 : Int) + 1 + 3.16 := by
    rw [← abs_of_pos (show (0 : ℝ) < 2 * (pi320 * angleEps) by linarith), ← abs_mul, hsplit]
    exact (abs_sub _ _).trans (add_le_add hx hrest)
  have hfive : |(fxTurns x : ℝ)| * 5 ≤ |(fxTurns x : ℝ)| * (2 * (pi320 * angleEps)) := by
    gcongr
    linarith
  norm_num at htotal ⊢
  linarith

/-- The angle is reduced by a whole number of turns. -/
theorem fxReduce_spec {a : SFrac} (hd : 0 < a.mag.d) (ha : |((a.val : ℚ) : ℝ)| ≤ 2 ^ (128 : Int)) :
    |fxReal (fxReduce a)| ≤ 16 / 5 ∧
      ∃ k : Int, |fxReal (fxReduce a) - (((a.val : ℚ) : ℝ) - k * (2 * Real.pi))| ≤ 2 ^ (-62 : Int) := by
  obtain ⟨hxlo, hxhi⟩ := fxAngle_between hd
  obtain ⟨hrlo, hrhi⟩ := fxReal_fdiv_two_pow (fxRest (fxAngle a))
  rw [← fxReduce_eq] at hrlo hrhi
  obtain ⟨hpi, -, hpiHigh⟩ := pi_angle_spec
  have heps := angleEps_pos
  have htiny : angleEps ≤ 2 ^ (-191 : Int) := zpow_le_zpow_right₀ one_le_two (by decide)
  have hsplit : (fxRest (fxAngle a) : ℝ) * angleEps =
      fxAngle a * angleEps - fxTurns (fxAngle a) * (2 * (pi320 * angleEps)) := by
    rw [fxRest]
    push_cast
    ring
  have hrest : |(fxRest (fxAngle a) : ℝ) * angleEps| ≤ 3.16 := by
    obtain ⟨h1, h2⟩ := fxRest_between (fxAngle a)
    have h1' : ((-pi320 : Int) : ℝ) ≤ fxRest (fxAngle a) := by exact_mod_cast h1
    have h2' : (fxRest (fxAngle a) : ℝ) ≤ pi320 := by exact_mod_cast h2
    rw [Int.cast_neg] at h1'
    refine le_trans ?_ hpiHigh
    rw [abs_mul, abs_of_pos heps]
    exact mul_le_mul_of_nonneg_right (abs_le.mpr ⟨h1', h2'⟩) heps.le
  have hturns : |(fxTurns (fxAngle a) : ℝ)| ≤ 2 ^ (126 : Int) := by
    have hone : angleEps ≤ 1 := htiny.trans (by norm_num)
    rw [abs_le] at ha
    exact fxTurns_le (abs_le.mpr ⟨by linarith, by linarith⟩)
  have hpart : |(fxTurns (fxAngle a) : ℝ) * (2 * (pi320 * angleEps - Real.pi))| ≤ 2 ^ (-63 : Int) := by
    rw [abs_mul, abs_mul, abs_two]
    calc |(fxTurns (fxAngle a) : ℝ)| * (2 * |pi320 * angleEps - Real.pi|) ≤ 2 ^ (126 : Int) * (2 * 2 ^ (-190 : Int)) := by gcongr
      _ = 2 ^ (-63 : Int) := by norm_num
  have hsmall : fxEps + 2 ^ (-191 : Int) + 2 ^ (-63 : Int) ≤ (2 : ℝ) ^ (-62 : Int) ∧ fxEps ≤ 0.04 := by norm_num [fxEps]
  refine ⟨?_, fxTurns (fxAngle a), ?_⟩
  · rw [abs_le] at hrest ⊢
    constructor <;> linarith [hsmall.2]
  · have hturn : (fxTurns (fxAngle a) : ℝ) * (2 * (pi320 * angleEps - Real.pi)) =
        fxTurns (fxAngle a) * (2 * (pi320 * angleEps)) - fxTurns (fxAngle a) * (2 * Real.pi) := by ring
    rw [hturn] at hpart
    have hsum := hsmall.1
    generalize (2 : ℝ) ^ (-191 : Int) = e1 at *
    generalize (2 : ℝ) ^ (-63 : Int) = e2 at *
    generalize (2 : ℝ) ^ (-62 : Int) = e3 at *
    rw [abs_le] at hpart ⊢
    constructor <;> linarith

/-- The sine and the cosine of an angle of f32. -/
theorem fxSin_fxReduce {a : SFrac} (hd : 0 < a.mag.d) (ha : |((a.val : ℚ) : ℝ)| ≤ 2 ^ (128 : Int)) :
    |fxReal (fxSin (fxReduce a)) - Real.sin a.val| ≤ 2 ^ (-61 : Int) ∧
      |fxReal (fxCos (fxReduce a)) - Real.cos a.val| ≤ 2 ^ (-61 : Int) := by
  obtain ⟨hsmall, k, hk⟩ := fxReduce_spec hd ha
  have hsum : (2 : ℝ) ^ (-90 : Int) + 2 ^ (-62 : Int) ≤ 2 ^ (-61 : Int) := by norm_num
  have hsin := (Real.abs_sin_sub_sin_le (fxReal (fxReduce a)) ((a.val : ℝ) - k * (2 * Real.pi))).trans hk
  have hcos := (Real.abs_cos_sub_cos_le (fxReal (fxReduce a)) ((a.val : ℝ) - k * (2 * Real.pi))).trans hk
  rw [Real.sin_sub_int_mul_two_pi] at hsin
  rw [Real.cos_sub_int_mul_two_pi] at hcos
  exact ⟨(abs_sub_le _ _ _).trans ((add_le_add (fxSin_near hsmall) hsin).trans hsum),
    (abs_sub_le _ _ _).trans ((add_le_add (fxCos_near hsmall) hcos).trans hsum)⟩

end Sys2Proof.Machine
end

section
/-!
PROOFS. Free values near the true value (R198): from a reference close to the true value, and a value accepted within a bound
of the reference, to the bound of R198.
-/
namespace Sys2Proof.Machine

/-! ### The unit of R198 -/

theorem ulp_of_mem {v : ℝ} {e : Int} (h0 : 0 < v) (h : 2 ^ e ≤ v) (h' : v < 2 ^ (e + 1)) : ulp v = 2 ^ (max e (-126) - 23) :=
  ulp_eq (by rwa [abs_of_pos h0]) (by rwa [abs_of_pos h0])

theorem ulp_mono {a b : ℝ} (h0 : 0 < a) (h : a ≤ b) : ulp a ≤ ulp b := by
  obtain ⟨e, he, he'⟩ := exists_mem_Ico_zpow h0 (one_lt_two (α := ℝ))
  obtain ⟨k, hk, hk'⟩ := exists_mem_Ico_zpow (h0.trans_le h) (one_lt_two (α := ℝ))
  have hlt : e < k + 1 := (zpow_lt_zpow_iff_right₀ (one_lt_two (α := ℝ))).mp ((he.trans h).trans_lt hk')
  rw [ulp_of_mem h0 he he', ulp_of_mem (h0.trans_le h) hk hk']
  exact zpow_le_zpow_right₀ one_le_two (by omega)

theorem ulp_of_tiny {v : ℝ} (h0 : 0 < v) (h : v < 2 ^ (-125 : Int)) : ulp v = 2 ^ (-149 : Int) := by
  obtain ⟨e, he, he'⟩ := exists_mem_Ico_zpow h0 (one_lt_two (α := ℝ))
  have hlt : e < -125 := (zpow_lt_zpow_iff_right₀ (one_lt_two (α := ℝ))).mp (he.trans_lt h)
  rw [ulp_of_mem h0 he he', max_eq_right (by omega)]
  norm_num

theorem ulp_ge {v : ℝ} {e : Int} (h : 2 ^ e ≤ v) : 2 ^ (e - 23) ≤ ulp v := by
  refine le_trans ?_ (ulp_mono (by positivity) h)
  rw [ulp_of_mem (e := e) (by positivity) le_rfl (zpow_lt_zpow_right₀ one_lt_two (by omega))]
  exact zpow_le_zpow_right₀ one_le_two (by omega)

/-- The last place of a result is the unit of its magnitude. -/
theorem two_zpow_f32Place {x : Frac} (hn : 0 < x.n) (hd : 0 < x.d) : (2 : ℝ) ^ f32Place x = ulp x.real := by
  rw [← real_ulpOf hn hd, ulpOf, Frac.real_ofPow2, Nat.cast_one, one_mul, f32Place]

theorem two_zpow_f32Place_le {x : Frac} (hd : 0 < x.d) (h : x.real < 2) : (2 : ℝ) ^ f32Place x ≤ 2 ^ (-23 : Int) := by
  refine zpow_le_zpow_right₀ one_le_two ?_
  have hlog : floorLog2 x ≤ 0 := by
    obtain hn | hn := Nat.eq_zero_or_pos x.n
    · have : Nat.log2 0 = 0 := by decide
      unfold floorLog2
      rw [hn, this]
      dsimp only
      split <;> omega
    · have hlt := (floorLog2_spec hn hd).1.trans_lt (h.trans_eq (zpow_one (2 : ℝ)).symm)
      exact Int.lt_add_one_iff.mp ((zpow_lt_zpow_iff_right₀ one_lt_two).mp hlt)
  unfold f32Place
  omega

/-! ### A result near the true value -/

/-- A value within e of v, with NX, or the zero that FZO makes of it (R163, R198). -/
def nearRes (fzo : Bool) (v e : ℝ) (y : Res) : Prop :=
  ∃ c u, c < 2 ^ 32 ∧ fmtF32.decode c = .num u ∧ |((u.val : ℚ) : ℝ) - v| ≤ e ∧ y.flags.getLsbD 12 = true ∧
    (fzo = false ∨ fmtF32.isSubnormal c = false → y.code = c) ∧
    (fzo = true → fmtF32.isSubnormal c = true →
      y.code = fmtF32.withSign (decide (2 ^ 31 ≤ c)) 0 ∧ y.flags.getLsbD 11 = true)

theorem nearRes_setUF {fzo : Bool} {v e : ℝ} {y : Res} (h : nearRes fzo v e y) (b : Bool) :
    nearRes fzo v e ⟨y.code, if b then y.flags ||| bitUF else y.flags⟩ := by
  obtain ⟨c, u, hc, hu, herr, hnx, hkeep, hflush⟩ := h
  refine ⟨c, u, hc, hu, herr, ?_, hkeep, fun hf hs => ⟨(hflush hf hs).1, ?_⟩⟩
  · cases b <;> simp [hnx]
  · cases b <;> simp [(hflush hf hs).2]

/-- An accepted value is near v where the numbers that may be accepted are. -/
theorem nearRes_acceptWithin (fzo : Bool) (raw : Word32) {ref : SFrac} {bound : Frac} {v e : ℝ} (hd : 0 < ref.mag.d)
    (hlt : ref.mag.real < 2 ^ 128 - 2 ^ 104) (hb : 0 < bound.d)
    (h : ∀ c u, fmtF32.decode c = .num u → |((u.val : ℚ) : ℝ) - ref.val| ≤ bound.real ∨
      |((u.val : ℚ) : ℝ) - ref.val| ≤ 2 ^ f32Place ref.mag / 2 → |((u.val : ℚ) : ℝ) - v| ≤ e) :
    nearRes fzo v e (acceptWithin fzo raw ref bound) := by
  obtain ⟨c, u, hc, hu, herr, hy⟩ := acceptWithin_spec fzo raw hd hlt hb
  have hnx (f : BitVec 16) : (f ||| bitNX).getLsbD 12 = true := by simp [bitNX]
  refine ⟨c, u, hc, hu, h c u hu herr, ?_⟩
  rw [hy]
  cases hflush : fzo && fmtF32.isSubnormal c with
  | false =>
    refine ⟨hnx _, fun _ => rfl, fun hf hs => ?_⟩
    rw [hf, hs] at hflush
    exact absurd hflush (by decide)
  | true =>
    obtain ⟨hf, hs⟩ := Bool.and_eq_true_iff.mp hflush
    refine ⟨?_, fun hkeep => ?_, fun _ _ => ⟨rfl, ?_⟩⟩
    · simp [bitNX]
    · rw [hf, hs] at hkeep
      simp at hkeep
    · simp [bitUF]

/-- A reference within δ of v, and a bound that leaves δ to spare. -/
theorem nearRes_of_close (fzo : Bool) (raw : Word32) {ref : SFrac} {bound : Frac} {v e δ : ℝ} (hd : 0 < ref.mag.d)
    (hlt : ref.mag.real < 2 ^ 128 - 2 ^ 104) (hb : 0 < bound.d) (hclose : |((ref.val : ℚ) : ℝ) - v| ≤ δ)
    (hbound : bound.real + δ ≤ e) (hhalf : 2 ^ f32Place ref.mag / 2 + δ ≤ e) :
    nearRes fzo v e (acceptWithin fzo raw ref bound) :=
  nearRes_acceptWithin fzo raw hd hlt hb fun _ _ _ herr => (abs_sub_le _ _ _).trans
    (herr.elim (fun h => (add_le_add h hclose).trans hbound) fun h => (add_le_add h hclose).trans hhalf)

/-- A bound of 2 ulp, where the reference is close to v and its unit is no larger than that of v. -/
theorem nearRes_two_ulp (fzo : Bool) (raw : Word32) {ref : SFrac} {v : ℝ} (hn : 0 < ref.mag.n) (hd : 0 < ref.mag.d)
    (hlt : ref.mag.real < 2 ^ 128 - 2 ^ 104) (hclose : |((ref.val : ℚ) : ℝ) - v| ≤ ulp v * 2 ^ (-40 : Int))
    (hulp : ulp ref.mag.real ≤ ulp v) :
    nearRes fzo v (2 * ulp v) (acceptWithin fzo raw ref (shy ((ulpOf ref.mag).mul ⟨2, 1⟩))) := by
  have hpos := ulp_pos v
  have hbd : 0 < ((ulpOf ref.mag).mul ⟨2, 1⟩).d := Nat.mul_pos (Frac.ofPow2_den_pos _ _) Nat.one_pos
  have htwo : (⟨2, 1⟩ : Frac).real = 2 := by norm_num [Frac.real]
  refine nearRes_of_close fzo raw hd hlt (shy_den_pos hbd) hclose ?_ ?_
  · rw [real_shy hbd, Frac.real_mul, real_ulpOf hn hd, htwo]
    calc ulp ref.mag.real * 2 * (1 - 2 ^ (-40 : Int)) + ulp v * 2 ^ (-40 : Int)
        ≤ ulp v * 2 * (1 - 2 ^ (-40 : Int)) + ulp v * 2 ^ (-40 : Int) := by
          have : (0 : ℝ) ≤ 1 - 2 ^ (-40 : Int) := by norm_num
          gcongr
      _ ≤ 2 * ulp v := by
        norm_num
        linarith
  · rw [two_zpow_f32Place hn hd]
    norm_num
    linarith

end Sys2Proof.Machine
end

section
/-!
PROOFS. O9, FSIN and FCOS: within 2^-21 of the true value (R198).
-/
namespace Sys2Proof.Machine

/-- The reference of FSIN and FCOS. -/
def trigRef (cos : Bool) (x : SFrac) : SFrac :=
  if cos then fxToFrac (fxCos (fxReduce x)) else if x.mag.lt (Frac.ofPow2 1 (-100)) then x else fxToFrac (fxSin (fxReduce x))

/-- The sine or the cosine. -/
noncomputable def trigValue (cos : Bool) (x : ℝ) : ℝ := if cos then Real.cos x else Real.sin x

theorem abs_trigValue_le (cos : Bool) (x : ℝ) : |trigValue cos x| ≤ 1 := by
  cases cos
  · exact Real.abs_sin_le_one x
  · exact Real.abs_cos_le_one x

theorem trigRes_num (fzo cos : Bool) {c : Nat} {x : SFrac} (hx : fmtF32.decode c = .num x) (h0 : x.val ≠ 0) :
    trigRes fzo cos c =
      let y := acceptWithin fzo (if cos then Config.fcos (w32n c) else Config.fsin (w32n c)) (trigRef cos x)
        (shy (Frac.ofPow2 1 (-21)))
      ⟨y.code, if !cos && x.mag.lt (Frac.ofPow2 1 (-126)) then y.flags ||| bitUF else y.flags⟩ := by
  rw [trigRes, hx]
  exact if_neg (mt (isZero_iff_val (decode_den_pos hx)).mp h0)

/-- Below 2^-100 the angle itself is the reference, and else the series. -/
theorem trigRef_near (cos : Bool) {x : SFrac} (hd : 0 < x.mag.d) (hx : x.mag.real ≤ 2 ^ (128 : Int)) :
    0 < (trigRef cos x).mag.d ∧ |(((trigRef cos x).val : ℚ) : ℝ) - trigValue cos x.val| ≤ 2 ^ (-61 : Int) := by
  rw [← SFrac.abs_val] at hx
  obtain ⟨hsin, hcos⟩ := fxSin_fxReduce hd hx
  unfold trigRef trigValue
  cases cos with
  | true => exact ⟨fxToFrac_den_pos _, by simpa [val_fxToFrac] using hcos⟩
  | false =>
    simp only [Bool.false_eq_true, if_false]
    split
    next hsmall =>
      refine ⟨hd, ?_⟩
      have hlt := (Frac.lt_iff_real hd (Frac.ofPow2_den_pos _ _)).mp hsmall
      rw [← SFrac.abs_val, Frac.real_ofPow2, Nat.cast_one, one_mul] at hlt
      calc |(x.val : ℝ) - Real.sin x.val| ≤ |(x.val : ℝ)| + |Real.sin x.val| := abs_sub _ _
        _ ≤ 2 ^ (-100 : Int) + 2 ^ (-100 : Int) := add_le_add hlt.le (Real.abs_sin_le_abs.trans hlt.le)
        _ ≤ 2 ^ (-61 : Int) := by norm_num
    next => exact ⟨fxToFrac_den_pos _, by rw [val_fxToFrac]; exact hsin⟩

theorem trigRes_near (fzo cos : Bool) {c : Nat} {x : SFrac} (hx : fmtF32.decode c = .num x) (h0 : x.val ≠ 0) :
    nearRes fzo (trigValue cos x.val) ((2 : ℝ)⁻¹ ^ 21) (trigRes fzo cos c) := by
  obtain ⟨-, -, hhi⟩ := f32_num_bounds hx h0
  obtain ⟨hd, hclose⟩ := trigRef_near cos (decode_den_pos hx) hhi.le
  have hlt : (trigRef cos x).mag.real < 2 := by
    rw [← SFrac.abs_val]
    calc |(((trigRef cos x).val : ℚ) : ℝ)|
        ≤ |(((trigRef cos x).val : ℚ) : ℝ) - trigValue cos x.val| + |trigValue cos x.val| := by
          simpa using abs_sub_abs_le_abs_sub (((trigRef cos x).val : ℚ) : ℝ) (trigValue cos x.val)
      _ ≤ 2 ^ (-61 : Int) + 1 := add_le_add hclose (abs_trigValue_le cos _)
      _ < 2 := by norm_num
  rw [trigRes_num fzo cos hx h0]
  refine nearRes_setUF (nearRes_of_close fzo _ hd (hlt.trans (by norm_num)) (shy_den_pos (Frac.ofPow2_den_pos _ _)) hclose ?_ ?_) _
  · rw [real_shy (Frac.ofPow2_den_pos _ _), Frac.real_ofPow2]
    norm_num
  · calc (2 : ℝ) ^ f32Place (trigRef cos x).mag / 2 + 2 ^ (-61 : Int) ≤ 2 ^ (-23 : Int) / 2 + 2 ^ (-61 : Int) := by
          gcongr ?_ / 2 + _
          exact two_zpow_f32Place_le hd hlt
      _ ≤ (2 : ℝ)⁻¹ ^ 21 := by norm_num

end Sys2Proof.Machine
end

section
/-!
PROOFS. O9, FEXP2: exact for integers, within 2 ulp otherwise, and the overflow (R198, R199).
-/
namespace Sys2Proof.Machine

/-! ### Numbers that are integers, and the fraction bits of others -/

theorem SFrac.int?_spec {x : SFrac} (hd : 0 < x.mag.d) :
    (∃ n : Int, x.int? = some n ∧ x.val = n) ∨ (x.int? = none ∧ ∀ n : Int, x.val ≠ n) := by
  have hd' : (x.mag.d : ℚ) ≠ 0 := by exact_mod_cast hd.ne'
  by_cases h : x.mag.n % x.mag.d = 0
  · refine .inl ⟨_, if_pos h, ?_⟩
    have hquot : ((x.mag.n / x.mag.d : Nat) : ℚ) = x.mag.n / x.mag.d := Nat.cast_div (Nat.dvd_of_mod_eq_zero h) hd'
    rw [SFrac.val, SFrac.num]
    split
    · rw [Int.cast_neg, Int.cast_natCast, Int.cast_neg, Int.cast_natCast, hquot, neg_div]
    · rw [Int.cast_natCast, Int.cast_natCast, hquot]
  · refine .inr ⟨if_neg h, fun n hval => h (Nat.mod_eq_zero_of_dvd ?_)⟩
    rw [SFrac.val, div_eq_iff hd'] at hval
    have hnum : x.num = n * x.mag.d := by exact_mod_cast hval
    have habs : x.num.natAbs = x.mag.n := by
      unfold SFrac.num
      split <;> simp
    rw [← habs, hnum, Int.natAbs_mul, Int.natAbs_natCast]
    exact Nat.dvd_mul_left _ _

/-- The numbers of f32 are whole multiples of the least. -/
theorem f32_whole {c : Nat} {x : SFrac} (hx : fmtF32.decode c = .num x) :
    ∃ n : Int, ((x.val : ℚ) : ℝ) = n * 2 ^ (-149 : Int) := by
  obtain ⟨-, hreal⟩ := f32_num_real hx
  have hmag : x.mag.real = (f32Sig c * 2 ^ f32Exp c : Nat) * 2 ^ (-149 : Int) := by
    rw [hreal, Nat.cast_mul, Nat.cast_pow, Nat.cast_ofNat, ← zpow_natCast, mul_assoc, ← zpow_add₀ two_ne_zero]
    rfl
  rw [SFrac.val_real, hmag]
  split
  · exact ⟨-(f32Sig c * 2 ^ f32Exp c : Nat), by push_cast; ring⟩
  · exact ⟨(f32Sig c * 2 ^ f32Exp c : Nat), by push_cast; ring⟩

theorem f32_fx_exact {c : Nat} {x : SFrac} (hx : fmtF32.decode c = .num x) : ∃ n : Int, ((x.val : ℚ) : ℝ) = n * fxEps := by
  obtain ⟨n, hn⟩ := f32_whole hx
  have hsplit : (2 : ℝ) ^ (-149 : Int) = 2 ^ 43 * 2 ^ (-192 : Int) := by norm_num
  refine ⟨n * 2 ^ 43, ?_⟩
  rw [hn, fxEps, hsplit, ← mul_assoc, Int.cast_mul, Int.cast_pow, Int.cast_ofNat]

/-! ### The branches of FEXP2 -/

theorem neg_iff_val_neg {x : SFrac} (h0 : x.val ≠ 0) : x.neg = true ↔ x.val < 0 := by
  refine ⟨fun h => ?_, neg_of_val_neg⟩
  refine lt_of_le_of_ne (not_lt.mp fun hpos => ?_) h0
  rw [(SFrac.of_val_pos hpos).1] at h
  exact Bool.false_ne_true h

section
variable {c : Nat} {x : SFrac} (fzo : Bool) (hx : fmtF32.decode c = .num x) (h0 : x.val ≠ 0)
include hx

theorem le_mag_iff {k : Nat} : (⟨k, 1⟩ : Frac).le x.mag = true ↔ (k : ℚ) ≤ |x.val| := by
  have hk : (⟨k, 1⟩ : Frac).real = k := by simp [Frac.real]
  rw [Frac.le_iff_real Nat.one_pos (decode_den_pos hx), hk, ← SFrac.abs_val]
  exact_mod_cast Iff.rfl

include h0

theorem fexp2Res_num : fexp2Res fzo c =
    if 128 ≤ x.val then ⟨0x7F800000, bitOF ||| bitNX⟩
    else if x.val ≤ -400 then
      acceptWithin fzo (Config.fexp2 (w32n c)) ⟨false, Frac.ofPow2 1 (-400)⟩ (Frac.ofPow2 1 (-148))
    else match x.int? with
      | some n => if -149 ≤ n then exactRes fzo ⟨false, Frac.ofPow2 1 n⟩
        else acceptWithin fzo (Config.fexp2 (w32n c)) ⟨false, Frac.ofPow2 1 n⟩ (Frac.ofPow2 1 (-148))
      | none =>
        let fl := Int.fdiv x.num x.mag.d
        let r := (fxToFrac (fxExp2 (fxOfFrac x - fl * fxOne))).mag.mul (Frac.ofPow2 1 fl)
        acceptWithin fzo (Config.fexp2 (w32n c)) ⟨false, r⟩ (shy ((ulpOf r).mul ⟨2, 1⟩)) := by
  have hneg := neg_iff_val_neg h0
  have h128 := le_mag_iff hx (k := 128)
  have h400 := le_mag_iff hx (k := 400)
  have hover : (Frac.le ⟨128, 1⟩ x.mag && !x.neg) = true ↔ 128 ≤ x.val := by
    rw [Bool.and_eq_true, h128, Bool.not_eq_true', ← Bool.not_eq_true, hneg, not_lt]
    push_cast
    refine ⟨fun ⟨h, h'⟩ => by rwa [abs_of_nonneg h'] at h, fun h => ⟨h.trans (le_abs_self _), by linarith⟩⟩
  have hunder (h : ¬ 128 ≤ x.val) : Frac.le ⟨400, 1⟩ x.mag = true ↔ x.val ≤ -400 := by
    rw [h400, le_abs']
    push_cast
    exact or_iff_left fun h' => h (by linarith)
  rw [fexp2Res, hx]
  dsimp only
  rw [if_neg (mt (isZero_iff_val (decode_den_pos hx)).mp h0)]
  by_cases h : 128 ≤ x.val
  · rw [if_pos h, if_pos (hover.mpr h)]
    rfl
  · rw [if_neg h, if_neg (mt hover.mp h)]
    exact if_congr (hunder h) rfl rfl

theorem fexp2Res_of_ge (h : 128 ≤ x.val) : fexp2Res fzo c = ⟨0x7F800000, bitOF ||| bitNX⟩ := by
  rw [fexp2Res_num fzo hx h0, if_pos h]

end

/-! ### Integers -/

theorem pow2_spec (n : Int) : (Frac.ofPow2 1 n).real = 2 ^ n ∧ 0 < (Frac.ofPow2 1 n).n ∧
    (((⟨false, Frac.ofPow2 1 n⟩ : SFrac).val : ℚ) : ℝ) = 2 ^ n := by
  have hreal : (Frac.ofPow2 1 n).real = 2 ^ n := by rw [Frac.real_ofPow2, Nat.cast_one, one_mul]
  refine ⟨hreal, Nat.pos_of_ne_zero fun h => ?_, ?_⟩
  · exact zpow_ne_zero n (two_ne_zero (α := ℝ)) (hreal ▸ (Frac.real_eq_zero_iff (Frac.ofPow2_den_pos _ _)).mpr h)
  · rw [SFrac.val_real, ← hreal]
    rfl

/-- A power of two below the normal numbers is flushed under FZO. -/
theorem exactRes_pow2_flushed {n : Int} (hlo : -149 ≤ n) (hhi : n < -126) :
    exactRes true ⟨false, Frac.ofPow2 1 n⟩ = ⟨0, bitUF ||| bitNX⟩ := by
  obtain ⟨hreal, hn, -⟩ := pow2_spec n
  have hd := Frac.ofPow2_den_pos 1 n
  obtain ⟨x, hx⟩ : ∃ x : SFrac, x = ⟨false, Frac.ofPow2 1 n⟩ := ⟨_, rfl⟩
  have hneg : x.neg = false := hx ▸ rfl
  have hmag : Frac.ofPow2 1 n = x.mag := hx ▸ rfl
  rw [hmag] at hreal hn hd
  have hlog : floorLog2 x.mag = n := floorLog2_eq hn hd hreal.ge (hreal.trans_lt (zpow_lt_zpow_right₀ one_lt_two (by omega)))
  have hplace : f32Place x.mag = -149 := by
    unfold f32Place
    omega
  have hrest : f32Rest x.mag = 0 :=
    f32Rest_eq_zero (a := 1) hn hd (hreal.trans (by rw [Nat.cast_one, one_mul])) (by norm_num) hlo
  have hcode : ((f32Code { rndRN with fzo := true } x : Nat) : ℝ) = 2 ^ (n + 149) := by
    rw [f32Code, hplace, f32Rounded_of_exact _ hrest]
    have hunits := real_f32Units x.mag
    rw [(f32Rest_eq_zero_iff hd).mp hrest, hplace, hreal] at hunits
    rw [zpow_add₀ two_ne_zero, ← hunits, mul_assoc, ← zpow_add₀ two_ne_zero]
    norm_num
  have hpos : 0 < f32Code { rndRN with fzo := true } x := by
    have : (0 : ℝ) < f32Code { rndRN with fzo := true } x := by
      rw [hcode]
      positivity
    exact_mod_cast this
  have hlt : f32Code { rndRN with fzo := true } x < 2 ^ 23 := by
    have : (f32Code { rndRN with fzo := true } x : ℝ) < 2 ^ (23 : Int) := by
      rw [hcode]
      exact zpow_lt_zpow_right₀ one_lt_two (by omega)
    exact_mod_cast this
  have hsub : fmtF32.isSubnormal (fmtF32.withSign x.neg (f32Code { rndRN with fzo := true } x)) = true := by
    rw [isSubnormal_f32, (withSign_f32 x.neg (by omega)).1]
    exact ⟨hpos, hlt⟩
  rw [← hx]
  refine (round_f32 false (rnd := { rndRN with fzo := true }) hn (by omega)).trans ?_
  rw [hsub, hneg]
  rfl

section
variable {c : Nat} {x : SFrac} (fzo : Bool) (hx : fmtF32.decode c = .num x) (h0 : x.val ≠ 0)
include hx h0

theorem fexp2Res_of_int {n : Int} (hn : x.val = n) (hlo : -149 ≤ n) (hhi : n < 128) :
    fexp2Res fzo c = exactRes fzo ⟨false, Frac.ofPow2 1 n⟩ := by
  have h1 : ¬ 128 ≤ x.val := by
    rw [hn, not_le]
    exact_mod_cast hhi
  have h2 : ¬ x.val ≤ -400 := by
    rw [hn, not_le]
    exact_mod_cast (by omega : -400 < n)
  obtain ⟨k, hk, hkval⟩ | ⟨-, hnone⟩ := SFrac.int?_spec (decode_den_pos hx)
  · have hkn : k = n := by exact_mod_cast hkval.symm.trans hn
    rw [fexp2Res_num fzo hx h0, if_neg h1, if_neg h2, hk, hkn]
    exact if_pos hlo
  · exact absurd hn (hnone n)

/-- Far below the format, where 2^x is next to nothing, 2 ulp are two of the least numbers. -/
theorem fexp2Res_near_of_le (h : x.val ≤ -400) :
    nearRes fzo ((2 : ℝ) ^ (x.val : ℝ)) (2 * ulp ((2 : ℝ) ^ (x.val : ℝ))) (fexp2Res fzo c) := by
  have hpos : (0 : ℝ) < 2 ^ (x.val : ℝ) := by positivity
  have hle : (2 : ℝ) ^ (x.val : ℝ) ≤ 2 ^ (-400 : Int) := by
    rw [← Real.rpow_intCast]
    exact Real.rpow_le_rpow_of_exponent_le one_le_two (by exact_mod_cast h)
  have hsmall : (2 : ℝ) ^ (-400 : Int) ≤ 2 ^ (-160 : Int) := zpow_le_zpow_right₀ one_le_two (by decide)
  have hulp : ulp ((2 : ℝ) ^ (x.val : ℝ)) = 2 ^ (-149 : Int) :=
    ulp_of_tiny hpos ((hle.trans hsmall).trans_lt (zpow_lt_zpow_right₀ one_lt_two (by decide)))
  have h1 : ¬ 128 ≤ x.val := by linarith
  obtain ⟨hreal, hn, hval⟩ := pow2_spec (-400)
  have hplace : (2 : ℝ) ^ f32Place (Frac.ofPow2 1 (-400)) = 2 ^ (-149 : Int) := by
    rw [two_zpow_f32Place hn (Frac.ofPow2_den_pos _ _), hreal]
    exact ulp_of_tiny (by positivity) (hsmall.trans_lt (zpow_lt_zpow_right₀ one_lt_two (by decide)))
  rw [fexp2Res_num fzo hx h0, if_neg h1, if_pos h, hulp]
  refine nearRes_acceptWithin fzo _ (Frac.ofPow2_den_pos _ _) ?_ (Frac.ofPow2_den_pos _ _) fun c' u hu herr => ?_
  · dsimp only
    rw [hreal]
    exact hsmall.trans_lt (by norm_num)
  · obtain ⟨k, hk⟩ := f32_whole hu
    have hunit : (2 : ℝ) ^ (-148 : Int) = 2 * 2 ^ (-149 : Int) := by norm_num
    have hspare : (2 : ℝ) ^ (-160 : Int) < 2 ^ (-149 : Int) / 2 := by norm_num
    have hU : (0 : ℝ) < 2 ^ (-149 : Int) := by positivity
    rw [hval, Frac.real_ofPow2, Nat.cast_one, one_mul, hplace, hunit, hk] at herr
    rw [hk]
    generalize (2 : ℝ) ^ (-160 : Int) = spare at *
    generalize (2 : ℝ) ^ (-149 : Int) = U at *
    generalize (2 : ℝ) ^ (-400 : Int) = tiny at *
    generalize (2 : ℝ) ^ (x.val : ℝ) = v at *
    have habs : |k * U - tiny| ≤ 2 * U := herr.elim id fun h => h.trans (by linarith)
    rw [abs_le] at habs ⊢
    have hk2 : k < 3 := by
      have : (k : ℝ) < (3 : Int) := lt_of_mul_lt_mul_right (by push_cast; linarith) hU.le
      exact_mod_cast this
    have hk2' : (k : ℝ) ≤ 2 := by exact_mod_cast Int.lt_add_one_iff.mp hk2
    have := mul_le_mul_of_nonneg_right hk2' hU.le
    have hk1 : -2 < k := by
      have : ((-2 : Int) : ℝ) < k := lt_of_mul_lt_mul_right (by push_cast; linarith) hU.le
      exact_mod_cast this
    have hk1' : (-1 : ℝ) ≤ k := by exact_mod_cast Int.add_one_le_iff.mpr hk1
    have := mul_le_mul_of_nonneg_right hk1' hU.le
    constructor <;> linarith

/-- An integer below −149: a power of two under the least number. -/
theorem fexp2Res_near_of_int {n : Int} (hn : x.val = n) (hlo : -400 < n) (hhi : n < -149) :
    nearRes fzo ((2 : ℝ) ^ (x.val : ℝ)) (2 * ulp ((2 : ℝ) ^ (x.val : ℝ))) (fexp2Res fzo c) := by
  have hv : (2 : ℝ) ^ (x.val : ℝ) = 2 ^ n := by rw [hn, Rat.cast_intCast, Real.rpow_intCast]
  obtain ⟨hreal, hpos, hval⟩ := pow2_spec n
  have hulp : ulp ((2 : ℝ) ^ n) = 2 ^ (-149 : Int) :=
    ulp_of_tiny (by positivity) (zpow_lt_zpow_right₀ one_lt_two (by omega))
  have h1 : ¬ 128 ≤ x.val := by
    rw [hn, not_le]
    exact_mod_cast (by omega : n < 128)
  have h2 : ¬ x.val ≤ -400 := by
    rw [hn, not_le]
    exact_mod_cast hlo
  have hres : fexp2Res fzo c =
      acceptWithin fzo (Config.fexp2 (w32n c)) ⟨false, Frac.ofPow2 1 n⟩ (Frac.ofPow2 1 (-148)) := by
    obtain ⟨k, hk, hkval⟩ | ⟨-, hnone⟩ := SFrac.int?_spec (decode_den_pos hx)
    · have hkn : k = n := by exact_mod_cast hkval.symm.trans hn
      rw [fexp2Res_num fzo hx h0, if_neg h1, if_neg h2, hk, hkn]
      exact if_neg (by omega)
    · exact absurd hn (hnone n)
  rw [hres, hv, hulp]
  refine nearRes_of_close (δ := 0) fzo _ (Frac.ofPow2_den_pos _ _) ?_ (Frac.ofPow2_den_pos _ _)
    (by rw [hval, sub_self, abs_zero]) ?_ ?_
  · dsimp only
    rw [hreal]
    exact (zpow_lt_zpow_right₀ one_lt_two hhi).trans (by norm_num)
  · rw [Frac.real_ofPow2]
    norm_num
  · rw [two_zpow_f32Place hpos (Frac.ofPow2_den_pos _ _), hreal, hulp]
    norm_num

end

/-! ### Numbers that are no integers -/

/-- The integer below x. -/
def fxFloor (x : SFrac) : Int := Int.fdiv x.num x.mag.d
/-- What is left of x. -/
def fxRemainder (x : SFrac) : Int := fxOfFrac x - fxFloor x * fxOne
/-- The reference of FEXP2. -/
def fexp2Ref (x : SFrac) : Frac := (fxToFrac (fxExp2 (fxRemainder x))).mag.mul (Frac.ofPow2 1 (fxFloor x))

section
variable {c : Nat} {x : SFrac} (hx : fmtF32.decode c = .num x)
include hx

theorem fxRemainder_spec :
    fxReal (fxRemainder x) = x.val - fxFloor x ∧ 0 ≤ fxReal (fxRemainder x) ∧ fxReal (fxRemainder x) < 1 := by
  have hd := decode_den_pos hx
  obtain ⟨n, hn⟩ := f32_fx_exact hx
  have hval : ((x.val : ℚ) : ℝ) = (x.num : ℝ) / (x.mag.d : Int) := by simp [SFrac.val]
  have hwhole : fxReal (fxFloor x * fxOne) = fxFloor x := by
    rw [fxReal, Int.cast_mul, cast_fxOne, mul_assoc, two_pow_mul_fxEps, mul_one]
  obtain ⟨hlo, hhi⟩ := fdiv_between x.num (b := x.mag.d) (by exact_mod_cast hd)
  rw [← hval] at hlo hhi
  have hrest : fxReal (fxRemainder x) = x.val - fxFloor x := by rw [fxRemainder, fxReal_sub, fxReal_fxOfFrac hd hn, hwhole]
  rw [hrest]
  exact ⟨rfl, sub_nonneg.mpr hlo, sub_lt_iff_lt_add'.mpr hhi⟩

theorem fexp2Ref_spec : 0 < (fexp2Ref x).n ∧ (fexp2Ref x).real ≤ (2 : ℝ) ^ (x.val : ℝ) ∧
    (2 : ℝ) ^ (x.val : ℝ) - (fexp2Ref x).real ≤ ulp ((2 : ℝ) ^ (x.val : ℝ)) * 2 ^ (-40 : Int) := by
  obtain ⟨hrest, hf0, hf1⟩ := fxRemainder_spec hx
  obtain ⟨hlo, hhi⟩ := fxExp2_between hf0 hf1.le
  have hpow : (1 : ℝ) ≤ 2 ^ fxReal (fxRemainder x) := Real.one_le_rpow one_le_two hf0
  have hv : (2 : ℝ) ^ (x.val : ℝ) = 2 ^ fxReal (fxRemainder x) * 2 ^ fxFloor x := by
    rw [hrest, ← Real.rpow_intCast, ← Real.rpow_add two_pos, sub_add_cancel]
  have hscale : (0 : ℝ) < 2 ^ fxFloor x := by positivity
  have htiny : (2 : ℝ) ^ (-180 : Int) < 1 := by norm_num
  have hE : 0 < fxReal (fxExp2 (fxRemainder x)) := by linarith
  have hreal : (fexp2Ref x).real = fxReal (fxExp2 (fxRemainder x)) * 2 ^ fxFloor x := by
    rw [fexp2Ref, Frac.real_mul, ← SFrac.abs_val, val_fxToFrac, abs_of_pos hE, Frac.real_ofPow2, Nat.cast_one, one_mul]
  have hulp : (2 : ℝ) ^ (fxFloor x - 23) ≤ ulp ((2 : ℝ) ^ (x.val : ℝ)) := by
    refine ulp_ge ?_
    rw [hv]
    exact le_mul_of_one_le_left hscale.le hpow
  have hd : 0 < (fexp2Ref x).d := Nat.mul_pos (fxToFrac_den_pos _) (Frac.ofPow2_den_pos _ _)
  refine ⟨Nat.pos_of_ne_zero fun h => ?_, ?_, ?_⟩
  · have := (Frac.real_eq_zero_iff hd).mpr h
    rw [hreal] at this
    exact (mul_pos hE hscale).ne' this
  · rw [hreal, hv]
    gcongr
  · calc (2 : ℝ) ^ (x.val : ℝ) - (fexp2Ref x).real
        = (2 ^ fxReal (fxRemainder x) - fxReal (fxExp2 (fxRemainder x))) * 2 ^ fxFloor x := by rw [hreal, hv, sub_mul]
      _ ≤ 2 ^ (-63 : Int) * 2 ^ fxFloor x := by
        gcongr
        exact (sub_le_comm.mp hlo).trans (by norm_num)
      _ = 2 ^ (fxFloor x - 23) * 2 ^ (-40 : Int) := by
        rw [← zpow_add₀ two_ne_zero, ← zpow_add₀ two_ne_zero]
        congr 1
        ring
      _ ≤ ulp ((2 : ℝ) ^ (x.val : ℝ)) * 2 ^ (-40 : Int) := by gcongr

/-- The number of f32 next below 128 is 2^-17 away, so 2^x stays short of the overflow. -/
theorem two_rpow_lt (h : x.val < 128) : (2 : ℝ) ^ (x.val : ℝ) < 2 ^ 128 - 2 ^ 104 := by
  obtain hlow | hhigh := lt_or_ge x.val 64
  · calc (2 : ℝ) ^ (x.val : ℝ) ≤ 2 ^ (64 : ℝ) :=
          Real.rpow_le_rpow_of_exponent_le one_le_two (by exact_mod_cast hlow.le)
      _ = 2 ^ (64 : Nat) := Real.rpow_ofNat 2 64
      _ < 2 ^ 128 - 2 ^ 104 := by norm_num
  obtain ⟨-, hval, -⟩ := SFrac.of_val_pos (x := x) (by linarith)
  have hge : (2 : ℝ) ^ (6 : Int) ≤ x.mag.real := by
    rw [← hval]
    exact_mod_cast hhigh
  obtain ⟨j, hj⟩ := f32_multiple hx hge
  have hj' : j < 2 ^ 24 := by
    have hlt : x.mag.real < 2 ^ 24 * 2 ^ (6 - 23 : Int) := by
      rw [← hval]
      norm_num
      exact_mod_cast h
    rw [hj] at hlt
    exact_mod_cast lt_of_mul_lt_mul_right hlt (by positivity)
  have hle : ((x.val : ℚ) : ℝ) ≤ 128 - 1 / 2 ^ 17 := by
    have hlast : (j : ℝ) + 1 ≤ 2 ^ 24 := by exact_mod_cast hj'
    have hunit : (2 : ℝ) ^ (6 - 23 : Int) = 1 / 2 ^ 17 := by norm_num
    rw [hval, hj, hunit]
    linarith
  have hroot : (2 : ℝ) ^ (-(1 / 2 ^ 17) : ℝ) ≤ 1 - 1 / 2 ^ 18 := by
    have := rpow_one_add_le_one_add_mul_self (s := -(1 / 2)) (p := 1 / 2 ^ 17) (by norm_num) (by norm_num) (by norm_num)
    calc (2 : ℝ) ^ (-(1 / 2 ^ 17) : ℝ) = (1 + -(1 / 2)) ^ (1 / 2 ^ 17 : ℝ) := by
          rw [Real.rpow_neg two_pos.le, ← Real.inv_rpow two_pos.le]
          norm_num
      _ ≤ 1 + 1 / 2 ^ 17 * -(1 / 2) := this
      _ = 1 - 1 / 2 ^ 18 := by norm_num
  calc (2 : ℝ) ^ (x.val : ℝ) ≤ 2 ^ (128 + -(1 / 2 ^ 17) : ℝ) :=
        Real.rpow_le_rpow_of_exponent_le one_le_two (by linarith)
    _ = 2 ^ (128 : Nat) * 2 ^ (-(1 / 2 ^ 17) : ℝ) := by rw [Real.rpow_add two_pos, Real.rpow_ofNat]
    _ ≤ 2 ^ (128 : Nat) * (1 - 1 / 2 ^ 18) := by gcongr
    _ < 2 ^ 128 - 2 ^ 104 := by norm_num

theorem fexp2Res_near_of_frac (fzo : Bool) (h0 : x.val ≠ 0) (h : x.val < 128) (h' : -400 < x.val)
    (hint : ∀ n : Int, x.val ≠ n) :
    nearRes fzo ((2 : ℝ) ^ (x.val : ℝ)) (2 * ulp ((2 : ℝ) ^ (x.val : ℝ))) (fexp2Res fzo c) := by
  have hres : fexp2Res fzo c =
      acceptWithin fzo (Config.fexp2 (w32n c)) ⟨false, fexp2Ref x⟩ (shy ((ulpOf (fexp2Ref x)).mul ⟨2, 1⟩)) := by
    obtain ⟨k, -, hk⟩ | ⟨hnone, -⟩ := SFrac.int?_spec (decode_den_pos hx)
    · exact absurd hk (hint k)
    · rw [fexp2Res_num fzo hx h0, if_neg h.not_ge, if_neg h'.not_ge, hnone]
      rfl
  obtain ⟨hn, hle, hclose⟩ := fexp2Ref_spec hx
  have hd : 0 < (fexp2Ref x).d := Nat.mul_pos (fxToFrac_den_pos _) (Frac.ofPow2_den_pos _ _)
  have hval : (((⟨false, fexp2Ref x⟩ : SFrac).val : ℚ) : ℝ) = (fexp2Ref x).real := SFrac.val_real _
  rw [hres]
  refine nearRes_two_ulp (ref := ⟨false, fexp2Ref x⟩) fzo _ hn hd (hle.trans_lt (two_rpow_lt hx h)) ?_
    (ulp_mono (Frac.real_pos hn hd) hle)
  rw [hval, abs_sub_comm, abs_of_nonneg (sub_nonneg.mpr hle)]
  exact hclose

end

end Sys2Proof.Machine
end

section
/-!
PROOFS. O9, FLOG2: exact for powers of two, within 2^-22 near one and within 2 ulp elsewhere (R198).
-/
namespace Sys2Proof.Machine

/-! ### The two results of FLOG2 -/

/-- The significand of x, from 1 to 2. -/
def flog2Mant (x : Frac) : SFrac := ⟨false, x.mul (Frac.ofPow2 1 (-floorLog2 x))⟩
/-- The reference of FLOG2. -/
def flog2Ref (x : Frac) : SFrac := (SFrac.ofInt (floorLog2 x)).add (fxToFrac (fxLog2 (fxOfFrac (flog2Mant x))))
/-- The bound of FLOG2. -/
def flog2Bound (x : Frac) : Frac :=
  if Frac.le ⟨1, 2⟩ x && Frac.le x ⟨2, 1⟩ then Frac.ofPow2 1 (-22) else (ulpOf (flog2Ref x).mag).mul ⟨2, 1⟩

theorem flog2Res_of_pos (fzo : Bool) {c : Nat} {x : SFrac} (hx : fmtF32.decode c = .num x) (hpos : 0 < x.val) :
    flog2Res fzo c = (pow2Exp x.mag).elim
      (acceptWithin fzo (Config.flog2 (w32n c)) (flog2Ref x.mag) (shy (flog2Bound x.mag)))
      fun e => exactRes fzo (SFrac.ofInt e) := by
  rw [flog2Res, hx]
  refine ((if_neg (mt (isZero_iff_val (decode_den_pos hx)).mp hpos.ne')).trans (if_neg ?_)).trans ?_
  · simp [(SFrac.of_val_pos hpos).1]
  · cases pow2Exp x.mag <;> rfl

theorem SFrac.val_ofInt (n : Int) : (SFrac.ofInt n).val = n := by
  have h : SFrac.ofInt n = SFrac.ofIntDiv n 1 := rfl
  rw [h, val_ofIntDiv, Nat.cast_one, div_one]

/-- An integer of at most 24 bits is a number of f32. -/
theorem exactRes_ofInt (fzo : Bool) {e : Int} (he : e.natAbs < 2 ^ 24) : (exactRes fzo (SFrac.ofInt e)).flags = 0 ∧
    ∃ u, fmtF32.decode (exactRes fzo (SFrac.ofInt e)).code = .num u ∧ ((u.val : ℚ) : ℝ) = e := by
  have hreal : (SFrac.ofInt e).mag.real = e.natAbs := by simp [SFrac.ofInt, Frac.real]
  obtain hzero | hn := Nat.eq_zero_or_pos e.natAbs
  · have he0 : e = 0 := Int.natAbs_eq_zero.mp hzero
    have hround : exactRes fzo (SFrac.ofInt e) = ⟨0, 0⟩ := by
      rw [he0]
      exact round_f32_zero false _ rfl
    obtain ⟨u, hu, hneg, humag⟩ := decode_f32_compose false (k := 0) (m := 0) (by decide) (.inl rfl) (by decide)
    rw [hround]
    refine ⟨rfl, u, hu, ?_⟩
    rw [SFrac.val_real, hneg, humag, he0]
    simp
  · have hone : (1 : ℝ) ≤ e.natAbs := by exact_mod_cast hn
    have hlt : (e.natAbs : ℝ) < 2 ^ 24 := by exact_mod_cast he
    have hlog : -126 ≤ floorLog2 (SFrac.ofInt e).mag := by
      have h := (floorLog2_spec (x := (SFrac.ofInt e).mag) hn Nat.one_pos).2
      rw [hreal] at h
      have := (zpow_lt_zpow_iff_right₀ (one_lt_two (α := ℝ))).mp ((zpow_zero (2 : ℝ)).le.trans hone |>.trans_lt h)
      omega
    have hrest : f32Rest (SFrac.ofInt e).mag = 0 :=
      f32Rest_eq_zero (a := e.natAbs) (b := 0) hn Nat.one_pos (by rw [hreal, zpow_zero, mul_one]) he (by decide)
    obtain ⟨hflags, u, hu, hval⟩ := round_f32_exact false { rndRN with fzo := fzo } (x := SFrac.ofInt e) hn Nat.one_pos
      (by rw [hreal]; exact hlt.trans (by norm_num)) hrest (.inr hlog)
    exact ⟨hflags, u, hu, by rw [hval, SFrac.val_ofInt, Rat.cast_intCast]⟩

/-! ### The logarithm inside a binade -/

theorem logb_two_zpow (n : Int) : Real.logb 2 (2 ^ n) = n := by
  rw [← Real.rpow_intCast, Real.logb_rpow two_pos (by norm_num)]

theorem logb_margin {m : ℝ} (h1 : 1 + 2 ^ (-23 : Int) ≤ m) (h2 : m ≤ 2 - 2 ^ (-23 : Int)) :
    2 ^ (-24 : Int) ≤ Real.logb 2 m ∧ Real.logb 2 m ≤ 1 - 2 ^ (-24 : Int) := by
  have hunit : (2 : ℝ) ^ (-23 : Int) = 2 * 2 ^ (-24 : Int) := by norm_num
  have hU : (0 : ℝ) < 2 ^ (-24 : Int) := by positivity
  rw [hunit] at h1 h2
  generalize (2 : ℝ) ^ (-24 : Int) = U at *
  have hm : 0 < m := by linarith
  have hlog2 : 0 < Real.log 2 := Real.log_pos one_lt_two
  have hlog2' : Real.log 2 ≤ 1 := by
    have := Real.log_two_lt_d9
    linarith
  constructor
  · rw [Real.logb, le_div_iff₀ hlog2]
    have hinv : m⁻¹ ≤ 1 - U := by
      rw [inv_le_iff_one_le_mul₀ hm]
      nlinarith
    calc U * Real.log 2 ≤ U * 1 := by gcongr
      _ ≤ 1 - m⁻¹ := by linarith
      _ ≤ Real.log m := Real.one_sub_inv_le_log_of_pos hm
  · rw [Real.logb, div_le_iff₀ hlog2]
    have hhalf : Real.log (m / 2) ≤ m / 2 - 1 := Real.log_le_sub_one_of_pos (by positivity)
    rw [Real.log_div hm.ne' two_ne_zero] at hhalf
    have : U * Real.log 2 ≤ U * 1 := by gcongr
    linarith

theorem ulp_abs (v : ℝ) : ulp |v| = ulp v := by
  rw [ulp, ulp, abs_abs]

/-- Numbers between the same integers have the same unit. -/
theorem ulp_eq_of_between {p : Nat} (hp : 0 < p) {a b : ℝ} (ha : p ≤ a) (ha' : a < p + 1) (hb : p ≤ b) (hb' : b < p + 1) :
    ulp a = ulp b := by
  have hp' : (0 : ℝ) < p := by exact_mod_cast hp
  have hlo : (2 : ℝ) ^ (p.log2 : Int) ≤ p := by
    rw [zpow_natCast]
    exact_mod_cast Nat.log2_self_le hp.ne'
  have hhi : (p : ℝ) + 1 ≤ 2 ^ ((p.log2 : Int) + 1) := by
    rw [← Nat.cast_succ, ← Nat.cast_succ, zpow_natCast]
    exact_mod_cast Nat.lt_log2_self
  rw [ulp_of_mem (hp'.trans_le ha) (hlo.trans ha) (ha'.trans_le hhi),
    ulp_of_mem (hp'.trans_le hb) (hlo.trans hb) (hb'.trans_le hhi)]

/-- Away from −1, 0 and 1 the integers next to a number are a step of its magnitude. -/
theorem abs_between_of_far {e : Int} (he : 1 ≤ e ∨ e ≤ -2) : ∃ p : Nat, 0 < p ∧ p ≤ e.natAbs ∧
    ∀ L : ℝ, 0 < L → L < 1 → p ≤ |(e : ℝ) + L| ∧ |(e : ℝ) + L| < p + 1 := by
  obtain he | he := he
  · obtain ⟨p, rfl⟩ := Int.eq_ofNat_of_zero_le (by omega : 0 ≤ e)
    refine ⟨p, by omega, by omega, fun L h0 h1 => ?_⟩
    rw [Int.cast_natCast, abs_of_nonneg (by positivity)]
    constructor <;> linarith
  · obtain ⟨p, hp⟩ := Int.eq_ofNat_of_zero_le (by omega : 0 ≤ -e - 1)
    refine ⟨p, by omega, by omega, fun L h0 h1 => ?_⟩
    have hcast : (p : ℝ) = -e - 1 := by exact_mod_cast hp.symm
    have hp0 : (0 : ℝ) ≤ p := Nat.cast_nonneg p
    rw [abs_of_neg (by linarith)]
    constructor <;> linarith

/-! ### Numbers that are no powers of two -/

section
variable {c : Nat} {x : SFrac} (hx : fmtF32.decode c = .num x) (hpos : 0 < x.val) (hpow : ∀ n : Int, x.mag.real ≠ 2 ^ n)
include hx hpos

theorem floorLog2_f32 : 2 ^ floorLog2 x.mag ≤ x.mag.real ∧ x.mag.real < 2 ^ (floorLog2 x.mag + 1) ∧
    (floorLog2 x.mag).natAbs ≤ 149 := by
  obtain ⟨hn, hmin, hmax⟩ := f32_num_bounds hx hpos.ne'
  obtain ⟨hlo, hhi⟩ := floorLog2_spec hn (decode_den_pos hx)
  have h1 := (zpow_lt_zpow_iff_right₀ (one_lt_two (α := ℝ))).mp (hmin.trans_lt hhi)
  have h2 := (zpow_lt_zpow_iff_right₀ (one_lt_two (α := ℝ))).mp (hlo.trans_lt hmax)
  exact ⟨hlo, hhi, by omega⟩

include hpow

theorem flog2Mant_spec : (((flog2Mant x.mag).val : ℚ) : ℝ) * 2 ^ floorLog2 x.mag = x.mag.real ∧
    1 + 2 ^ (-23 : Int) ≤ (((flog2Mant x.mag).val : ℚ) : ℝ) ∧ (((flog2Mant x.mag).val : ℚ) : ℝ) ≤ 2 - 2 ^ (-23 : Int) ∧
    fxReal (fxOfFrac (flog2Mant x.mag)) = (flog2Mant x.mag).val := by
  obtain ⟨hlo, hhi, -⟩ := floorLog2_f32 hx hpos
  have hscale : (0 : ℝ) < 2 ^ floorLog2 x.mag := by positivity
  have hval : (((flog2Mant x.mag).val : ℚ) : ℝ) = x.mag.real * 2 ^ (-floorLog2 x.mag) := by
    rw [SFrac.val_real, flog2Mant, if_neg Bool.false_ne_true, Frac.real_mul, Frac.real_ofPow2, Nat.cast_one, one_mul]
  obtain ⟨j, hj⟩ := f32_multiple hx hlo
  have hunit : (2 : ℝ) ^ (-23 : Int) = 1 / 2 ^ 23 := by norm_num
  have hm : (((flog2Mant x.mag).val : ℚ) : ℝ) = j * (1 / 2 ^ 23) := by
    rw [hval, hj, mul_assoc, ← zpow_add₀ two_ne_zero, ← hunit]
    congr 2
    ring
  have hmul : (((flog2Mant x.mag).val : ℚ) : ℝ) * 2 ^ floorLog2 x.mag = x.mag.real := by
    rw [hval, mul_assoc, ← zpow_add₀ two_ne_zero, neg_add_cancel, zpow_zero, mul_one]
  have hgt : (1 : ℝ) < (flog2Mant x.mag).val := by
    refine lt_of_mul_lt_mul_right (a := 2 ^ floorLog2 x.mag) ?_ hscale.le
    rw [hmul, one_mul]
    exact lt_of_le_of_ne hlo (hpow _).symm
  have hlt : (((flog2Mant x.mag).val : ℚ) : ℝ) < 2 := by
    refine lt_of_mul_lt_mul_right (a := 2 ^ floorLog2 x.mag) ?_ hscale.le
    rw [hmul, mul_comm, ← zpow_add_one₀ two_ne_zero]
    exact hhi
  have hexact : (((flog2Mant x.mag).val : ℚ) : ℝ) = (j * 2 ^ 169 : Int) * fxEps := by
    have hsplit : (1 : ℝ) / 2 ^ 23 = 2 ^ 169 * 2 ^ (-192 : Int) := by norm_num
    rw [hm, fxEps, hsplit, ← mul_assoc, Int.cast_mul, Int.cast_pow, Int.cast_ofNat, Int.cast_natCast]
  have hd : 0 < (flog2Mant x.mag).mag.d := Nat.mul_pos (decode_den_pos hx) (Frac.ofPow2_den_pos _ _)
  refine ⟨hmul, ?_, ?_, fxReal_fxOfFrac hd hexact⟩
  · have hj1 : (2 : ℝ) ^ 23 + 1 ≤ j := by
      have : (2 : ℝ) ^ 23 < j := by linarith
      exact_mod_cast this
    rw [hm, hunit]
    linarith
  · have hj2 : (j : ℝ) + 1 ≤ 2 ^ 24 := by
      have : (j : ℝ) < 2 ^ 24 := by linarith
      exact_mod_cast this
    rw [hm, hunit]
    linarith

/-- The logarithm and the reference lie strictly between the same integers, close to one another. -/
theorem flog2Ref_spec : 0 < (flog2Ref x.mag).mag.d ∧ ∃ L L' : ℝ, Real.logb 2 x.val = floorLog2 x.mag + L ∧
    (((flog2Ref x.mag).val : ℚ) : ℝ) = floorLog2 x.mag + L' ∧ |L' - L| ≤ 2 ^ (-170 : Int) ∧
    (0 < L ∧ L < 1) ∧ 0 < L' ∧ L' < 1 := by
  obtain ⟨hmul, hlo, hhi, hexact⟩ := flog2Mant_spec hx hpos hpow
  have hU : (0 : ℝ) < 2 ^ (-23 : Int) := by positivity
  have hnear := fxLog2_near (m := fxOfFrac (flog2Mant x.mag)) (by rw [hexact]; linarith) (by rw [hexact]; linarith)
  rw [hexact] at hnear
  obtain ⟨hL, hL'⟩ := logb_margin hlo hhi
  refine ⟨Nat.mul_pos Nat.one_pos (fxToFrac_den_pos _), _, fxReal (fxLog2 (fxOfFrac (flog2Mant x.mag))), ?_, ?_, hnear, ?_⟩
  · have hm : (((flog2Mant x.mag).val : ℚ) : ℝ) ≠ 0 := by linarith
    rw [(SFrac.of_val_pos hpos).2.1, ← hmul, Real.logb_mul hm (zpow_ne_zero _ two_ne_zero), logb_two_zpow, add_comm]
  · rw [flog2Ref, val_add Nat.one_pos (fxToFrac_den_pos _), SFrac.val_ofInt, Rat.cast_add, val_fxToFrac, Rat.cast_intCast]
  · have htiny : (2 : ℝ) ^ (-170 : Int) < 2 ^ (-24 : Int) := zpow_lt_zpow_right₀ one_lt_two (by decide)
    have hV : (0 : ℝ) < 2 ^ (-170 : Int) := by positivity
    generalize (2 : ℝ) ^ (-170 : Int) = e1 at *
    generalize (2 : ℝ) ^ (-24 : Int) = e2 at *
    obtain ⟨h1, h2⟩ := abs_le.mp hnear
    refine ⟨⟨?_, ?_⟩, ?_, ?_⟩ <;> linarith

/-- From 1/2 to 2 the reference is below 1 in magnitude. -/
theorem flog2Accepted_near_one (fzo : Bool) (raw : Word32) (h1 : 2 ^ (-1 : Int) ≤ x.mag.real)
    (h2 : x.mag.real ≤ 2 ^ (1 : Int)) :
    nearRes fzo (Real.logb 2 x.val) ((2 : ℝ)⁻¹ ^ 22) (acceptWithin fzo raw (flog2Ref x.mag) (shy (Frac.ofPow2 1 (-22)))) := by
  obtain ⟨hd, L, L', hv, hr, hclose, -, hL0', hL1'⟩ := flog2Ref_spec hx hpos hpow
  obtain ⟨hlo, hhi, -⟩ := floorLog2_f32 hx hpos
  generalize floorLog2 x.mag = e at *
  have hbinade : (flog2Ref x.mag).mag.real < 1 := by
    have hle : e < 1 := (zpow_lt_zpow_iff_right₀ (one_lt_two (α := ℝ))).mp (hlo.trans_lt (lt_of_le_of_ne h2 (hpow 1)))
    have hge : -1 < e + 1 := (zpow_lt_zpow_iff_right₀ (one_lt_two (α := ℝ))).mp (h1.trans_lt hhi)
    rw [← SFrac.abs_val, hr, abs_lt]
    obtain rfl | rfl : e = 0 ∨ e = -1 := by omega
    all_goals
      push_cast
      constructor <;> linarith
  refine nearRes_of_close fzo raw hd (hbinade.trans (by norm_num)) (shy_den_pos (Frac.ofPow2_den_pos _ _))
    (δ := 2 ^ (-170 : Int)) (by rwa [hr, hv, add_sub_add_left_eq_sub]) ?_ ?_
  · rw [real_shy (Frac.ofPow2_den_pos _ _), Frac.real_ofPow2]
    norm_num
  · calc (2 : ℝ) ^ f32Place (flog2Ref x.mag).mag / 2 + 2 ^ (-170 : Int) ≤ 2 ^ (-23 : Int) / 2 + 2 ^ (-170 : Int) := by
          gcongr ?_ / 2 + _
          exact two_zpow_f32Place_le hd (hbinade.trans one_lt_two)
      _ ≤ (2 : ℝ)⁻¹ ^ 22 := by norm_num

/-- Elsewhere the reference and the logarithm have the same unit, 2^-23 or more. -/
theorem flog2Accepted_near_far (fzo : Bool) (raw : Word32) (h : ¬ (2 ^ (-1 : Int) ≤ x.mag.real ∧ x.mag.real ≤ 2 ^ (1 : Int))) :
    nearRes fzo (Real.logb 2 x.val) (2 * ulp (Real.logb 2 x.val))
      (acceptWithin fzo raw (flog2Ref x.mag) (shy ((ulpOf (flog2Ref x.mag).mag).mul ⟨2, 1⟩))) := by
  obtain ⟨hd, L, L', hv, hr, hclose, ⟨hL0, hL1⟩, hL0', hL1'⟩ := flog2Ref_spec hx hpos hpow
  obtain ⟨hlo, hhi, habs⟩ := floorLog2_f32 hx hpos
  generalize floorLog2 x.mag = e at *
  have hfar : 1 ≤ e ∨ e ≤ -2 := by
    obtain hlow | hhigh := not_and_or.mp h
    · have := (zpow_lt_zpow_iff_right₀ (one_lt_two (α := ℝ))).mp (hlo.trans_lt (not_le.mp hlow))
      omega
    · have := (zpow_lt_zpow_iff_right₀ (one_lt_two (α := ℝ))).mp ((not_le.mp hhigh).trans hhi)
      omega
  obtain ⟨p, hp, hple, hbetween⟩ := abs_between_of_far hfar
  obtain ⟨hv1, hv2⟩ := hbetween L hL0 hL1
  obtain ⟨hr1, hr2⟩ := hbetween L' hL0' hL1'
  have hp1 : (1 : ℝ) ≤ p := by exact_mod_cast hp
  have hp2 : (p : ℝ) + 1 ≤ 2 ^ 8 := by exact_mod_cast (by omega : p + 1 ≤ 2 ^ 8)
  have hmag : (flog2Ref x.mag).mag.real = |(e : ℝ) + L'| := by rw [← SFrac.abs_val, hr]
  have hulp : ulp (flog2Ref x.mag).mag.real = ulp (Real.logb 2 x.val) := by
    rw [hmag, hv, ulp_eq_of_between hp hr1 hr2 hv1 hv2, ulp_abs]
  have hn : 0 < (flog2Ref x.mag).mag.n := Nat.pos_of_ne_zero fun hzero => by
    rw [← hmag, (Frac.real_eq_zero_iff hd).mpr hzero] at hr1
    linarith
  have hlt : (flog2Ref x.mag).mag.real < 2 ^ 8 := hmag ▸ hr2.trans_le hp2
  have hunit : (2 : ℝ) ^ (0 - 23 : Int) ≤ ulp (Real.logb 2 x.val) := by
    rw [← ulp_abs, hv]
    exact ulp_ge ((zpow_zero (2 : ℝ)).le.trans (hp1.trans hv1))
  refine nearRes_two_ulp fzo raw hn hd (hlt.trans (by norm_num)) ?_ hulp.le
  calc |(((flog2Ref x.mag).val : ℚ) : ℝ) - Real.logb 2 x.val| ≤ 2 ^ (-170 : Int) := by rwa [hr, hv, add_sub_add_left_eq_sub]
    _ ≤ 2 ^ (0 - 23 : Int) * 2 ^ (-40 : Int) := by norm_num
    _ ≤ ulp (Real.logb 2 x.val) * 2 ^ (-40 : Int) := by gcongr

theorem flog2Accepted_near (fzo : Bool) (raw : Word32) :
    nearRes fzo (Real.logb 2 x.val) (if 1 / 2 ≤ x.val ∧ x.val ≤ 2 then (2 : ℝ)⁻¹ ^ 22 else 2 * ulp (Real.logb 2 x.val))
      (acceptWithin fzo raw (flog2Ref x.mag) (shy (flog2Bound x.mag))) := by
  have hxd := decode_den_pos hx
  have hval := (SFrac.of_val_pos hpos).2.1
  have hreal : 1 / 2 ≤ x.val ∧ x.val ≤ 2 ↔ (2 : ℝ) ^ (-1 : Int) ≤ x.mag.real ∧ x.mag.real ≤ 2 ^ (1 : Int) := by
    rw [← hval, ← Rat.cast_le (K := ℝ), ← Rat.cast_le (K := ℝ), zpow_one, zpow_neg_one, ← one_div]
    push_cast
    rfl
  have htest : (Frac.le ⟨1, 2⟩ x.mag && Frac.le x.mag ⟨2, 1⟩) = true ↔ 1 / 2 ≤ x.val ∧ x.val ≤ 2 := by
    have hhalf : (⟨1, 2⟩ : Frac).real = 2 ^ (-1 : Int) := by norm_num [Frac.real]
    have htwo : (⟨2, 1⟩ : Frac).real = 2 ^ (1 : Int) := by norm_num [Frac.real]
    rw [Bool.and_eq_true, Frac.le_iff_real Nat.two_pos hxd, Frac.le_iff_real hxd Nat.one_pos, hhalf, htwo, hreal]
  by_cases h : 1 / 2 ≤ x.val ∧ x.val ≤ 2
  · have hbound : flog2Bound x.mag = Frac.ofPow2 1 (-22) := if_pos (htest.mpr h)
    obtain ⟨h1, h2⟩ := hreal.mp h
    rw [if_pos h, hbound]
    exact flog2Accepted_near_one hx hpos hpow fzo raw h1 h2
  · have hbound : flog2Bound x.mag = (ulpOf (flog2Ref x.mag).mag).mul ⟨2, 1⟩ := if_neg (mt htest.mp h)
    rw [if_neg h, hbound]
    exact flog2Accepted_near_far hx hpos hpow fzo raw (mt hreal.mpr h)

end

theorem flog2Res_pow2 (fzo : Bool) {c : Nat} {x : SFrac} (hx : fmtF32.decode c = .num x) (hpos : 0 < x.val)
    (hpow : ∃ n : Int, x.val = 2 ^ n) : (flog2Res fzo c).flags = 0 ∧
      ∃ u, fmtF32.decode (flog2Res fzo c).code = .num u ∧ ((u.val : ℚ) : ℝ) = Real.logb 2 x.val := by
  have hval := (SFrac.of_val_pos hpos).2.1
  obtain ⟨-, -, habs⟩ := floorLog2_f32 hx hpos
  rw [flog2Res_of_pos fzo hx hpos]
  obtain ⟨hsome, hreal⟩ | ⟨-, hnone⟩ := pow2Exp_spec (f32_num_bounds hx hpos.ne').1 (decode_den_pos hx)
  · rw [hsome, hval, hreal, logb_two_zpow]
    exact exactRes_ofInt fzo (by omega)
  · obtain ⟨n, hn⟩ := hpow
    exact absurd (by rw [← hval, hn]; push_cast; rfl) (hnone n)

theorem flog2Res_near (fzo : Bool) {c : Nat} {x : SFrac} (hx : fmtF32.decode c = .num x) (hpos : 0 < x.val)
    (hpow : ¬ ∃ n : Int, x.val = 2 ^ n) :
    nearRes fzo (Real.logb 2 x.val) (if 1 / 2 ≤ x.val ∧ x.val ≤ 2 then (2 : ℝ)⁻¹ ^ 22 else 2 * ulp (Real.logb 2 x.val))
      (flog2Res fzo c) := by
  have hval := (SFrac.of_val_pos hpos).2.1
  have hno (n : Int) : x.mag.real ≠ 2 ^ n := fun h => hpow ⟨n, by
    rw [← @Rat.cast_inj ℝ, hval, h]
    push_cast
    rfl⟩
  rw [flog2Res_of_pos fzo hx hpos]
  obtain ⟨-, hreal⟩ | ⟨hnone, -⟩ := pow2Exp_spec (f32_num_bounds hx hpos.ne').1 (decode_den_pos hx)
  · exact absurd hreal (hno _)
  · rw [hnone]
    exact flog2Accepted_near hx hpos hno fzo _

end Sys2Proof.Machine
end

section
/-!
PROOFS. O9: FEXP2, FLOG2, FSIN and FCOS within the bounds of R198, exact where R198 says so.
-/
namespace Sys2Proof.Machine

/-- FEXP2 of an integer: exact where 2^x is a number of f32. -/
theorem fexp2Res_int_exact {fzo : Bool} {c : Nat} {x : SFrac} (hx : fmtF32.decode c = .num x) (h0 : x.val ≠ 0) {n : Int}
    (hn : x.val = n) (hlo : -149 ≤ n) (hhi : n < 128) (hfzo : -126 ≤ n ∨ fzo = false) : (fexp2Res fzo c).flags = 0 ∧
      ∃ u, fmtF32.decode (fexp2Res fzo c).code = .num u ∧ ((u.val : ℚ) : ℝ) = (2 : ℝ) ^ (x.val : ℝ) := by
  rw [fexp2Res_of_int fzo hx h0 hn hlo hhi, hn, Rat.cast_intCast, Real.rpow_intCast]
  exact exactRes_pow2 hlo (by omega) hfzo.symm

theorem fexp2Res_int_flushed {fzo : Bool} {c : Nat} {x : SFrac} (hx : fmtF32.decode c = .num x) (h0 : x.val ≠ 0) {n : Int}
    (hn : x.val = n) (hlo : -149 ≤ n) (hhi : n < -126) (hfzo : fzo = true) : fexp2Res fzo c = ⟨0, bitUF ||| bitNX⟩ := by
  rw [fexp2Res_of_int fzo hx h0 hn hlo (by omega), hfzo]
  exact exactRes_pow2_flushed hlo hhi

/-- FEXP2 of any other number short of the overflow. -/
theorem fexp2Res_near (fzo : Bool) {c : Nat} {x : SFrac} (hx : fmtF32.decode c = .num x) (h0 : x.val ≠ 0) (hhi : x.val < 128)
    (hint : ¬ ∃ n : Int, x.val = n ∧ -149 ≤ n) :
    nearRes fzo ((2 : ℝ) ^ (x.val : ℝ)) (2 * ulp ((2 : ℝ) ^ (x.val : ℝ))) (fexp2Res fzo c) := by
  obtain hlow | hlow := le_or_gt x.val (-400)
  · exact fexp2Res_near_of_le fzo hx h0 hlow
  by_cases hwhole : ∃ n : Int, x.val = n
  · obtain ⟨n, hn⟩ := hwhole
    refine fexp2Res_near_of_int fzo hx h0 hn ?_ (not_le.mp fun h => hint ⟨n, hn, h⟩)
    rw [hn] at hlow
    exact_mod_cast hlow
  · exact fexp2Res_near_of_frac hx fzo h0 hhi hlow (not_exists.mp hwhole)

/-- Settles O9: each function on a number other than zero, under the mould of the seven. -/
theorem specialFunctionBounds : Obligations.SpecialFunctionBounds := by
  intro s g r q fzo meaning near
  have mould {i : Instr} {f : Bool → Nat → Res} (hexec : exec i s = .next (specialMould i q (fun rnd => f rnd.fzo) s))
      (h : s.issues i g r) :=
    hexec.trans (congrArg Host.Outcome.next (specialMould_eq h q fun rnd => f rnd.fzo))
  refine ⟨fun h => ⟨_, mould (f := fexp2Res) rfl h, fun l x hx h0 => ?fexp2⟩,
    fun h => ⟨_, mould (f := flog2Res) rfl h, fun l x hx h0 hpos => ?flog2⟩,
    fun h => ⟨_, mould (f := fun fzo => trigRes fzo false) rfl h, fun l x hx h0 => trigRes_near fzo false hx h0⟩,
    fun h => ⟨_, mould (f := fun fzo => trigRes fzo true) rfl h, fun l x hx h0 => trigRes_near fzo true hx h0⟩⟩
  case fexp2 =>
    refine ⟨fexp2Res_of_ge fzo hx h0, ?exact, ?flushed, fexp2Res_near fzo hx h0⟩
    case exact =>
      rintro hhi ⟨n, hn, hlo⟩ hfzo
      rw [hn] at hhi hfzo
      exact fexp2Res_int_exact hx h0 hn hlo (by exact_mod_cast hhi) (hfzo.imp_left fun h => by exact_mod_cast h)
    case flushed =>
      rintro hlow ⟨n, hn, hlo⟩ hfzo
      rw [hn] at hlow
      exact fexp2Res_int_flushed hx h0 hn hlo (by exact_mod_cast hlow) hfzo
  case flog2 => exact ⟨flog2Res_pow2 fzo hx hpos, flog2Res_near fzo hx hpos⟩

end Sys2Proof.Machine
end
